-- ==== Sys2Proof/Word.lean ====
section
/-! DEFINITION. The word types of the PX-64: a register or gallery word is 32 bits (R10, R475), a byte is 8 bits,
and a line character of the Chrorel link is 9 bits here, bit 8 being 1 for a K character (R71). -/

namespace Sys2Proof

/-- A register or gallery word (R475: every access is one aligned 32-bit word). -/
abbrev Word := BitVec 32

/-- A byte of a frame, an image or a gallery (R10). -/
abbrev Byte := BitVec 8

/-- A character of a link frame (R71): bits [7:0] the byte, bit 8 set for a K character. -/
abbrev Chr := BitVec 9

end Sys2Proof
end

