-- ==== Sys2Proof/Syntax.lean ====
section
/-! DEFINITION. The commands of the block: one constructor of `Instr` for each row of spec/opcode_table.json, in the
table's order, with the operands its rule names. What the outside world supplies (an edge's instant, a frame's
characters, an analogue code, the outcome of a physical self-test) is an operand; all else is state. -/

namespace Sys2Proof

/-- The islands of R11 that have a clock of their own (the event unit shares the resampler's). -/
inductive Island where
  | link (r : Fin 32)
  | stair | resamp | tally | spectral | steward | host | analogue | power | gallery | cloak
  deriving DecidableEq, Repr

/-- A detector of a head (R106): `false` the primary P, `true` the alternate A. -/
abbrev Det := Bool

/-- What a port finds in a gallery word's check bits (R362). -/
inductive Ecc where
  | clean | single | double
  deriving DecidableEq, Repr

/-- What the gallery's other port does to the same word in the same clock (R364): port A, or port B where the host island is
the owner (G5, R357). -/
inductive PortA where
  | idle
  | read
  | write (v : Word)
  | setBits (v : Word)
  | clearBits (v : Word)
  deriving DecidableEq, Repr

/-- The fields that R422 holds twice. -/
inductive ShadowField where
  | roleStat (p : Fin 4)
  | seal
  | roleKeys
  | roleCfg
  | planMinver
  | hpBudget (p : Fin 4)
  | monCfg (m : Fin 23)
  | tmpThr
  deriving DecidableEq, Repr

/-- What the monitors' detectors see in one cloakroom sample (R418 to R421), per monitor or pin. -/
structure TamperObs where
  /-- D1 level of TMP_SW[m] (R495): 1 high. -/
  swHigh : BitVec 8
  /-- 1: TMP_SW[m] lies between 0.3 Vc and 0.7 Vc at the window comparator D2 (R495). -/
  swMid : BitVec 8
  /-- 1: TMP_SW[m] lies above 0.7 Vc at the window comparator D2, as D2 finds it on its own (R420, R495). -/
  swUp : BitVec 8 := swHigh
  /-- Static mode: 1 when TMP_LP_IN[i] read low at any of the 32 checks (R421). -/
  loopLow : BitVec 8
  /-- PRBS mode: the 32 bits read on loop i in the sample, first bit at bit 0 (R421). -/
  loopBits : List (BitVec 32)
  /-- The resistance of loop i in ohms (R421). -/
  loopOhms : List Nat
  /-- Occurrences of the VSTA overvoltage and the VCORE glitch in the sample (monitors 18 and 19). -/
  vstaHits : Nat
  vcoreHits : Nat
  /-- Conditions of monitors 20 (VBAK low), 21 watchdog and counter (REFCLK), and the site temperatures of 22. -/
  vbakLow : Bool
  refWatchdog : Bool
  refCount : Bool
  temps : List Int
  /-- What the comparators of the monitor under test find (R434), with or without stimulus. -/
  testCond : Bool
  /-- OTP cells passed over because they failed verification (R430). -/
  badCells : Nat
  deriving DecidableEq, Repr

/-- What the cloakroom's checks find at power-good (R453, R455): VBAK has kept its contents, and the CRC of the tail block and
that of the trouble log mirror hold. -/
structure Backup where
  kept : Bool
  tailOk : Bool := true
  mirrorOk : Bool := true
  deriving DecidableEq, Repr

/-- What a head answers at admission or rejoin (R117): the registers read. -/
structure HeadIdent where
  hidType : Word
  serial : BitVec 64
  modP : BitVec 17
  modA : BitVec 17
  deriving DecidableEq, Repr

/-- The unit that a replay ends in (R309). -/
inductive ReplayUnit where
  | tally (u : Fin 9)
  | harm (e : Fin 5)
  deriving DecidableEq, Repr

/-- The commands, one constructor per row of the table. -/
inductive Instr where
  -- timebase and islands (chapters 1 and 2)
  /-- R40. `plsIn` are the levels of PLS_IN[15:0] that the tick samples (R209). -/
  | tick (plsIn : BitVec 16)
  | islandResetRelease (i : Island)
  | islandClockLost (i : Island)
  /-- R13. `trim` is the trim the comparison with REFCLK gives. -/
  | cloakroomTrim (trim : Int)
  /-- R48. `at16` is the edge's instant on the tick scale in 2^-16 tick (R47). -/
  | ppsEdge (at16 : Nat)
  | ppsTimeout
  | discEnWrite (host : Fin 4) (en : Bool)
  | secondBoundary
  | taiArm (host : Fin 4)
  -- link rings (chapter 3)
  | portSignalDetect (k : Fin 64)
  | portSignalLost (k : Fin 64)
  /-- R79. `chars` are the characters received from the comma on; `arrival` is the comma's arrival after that frame's
  departure from the opposite port, in q (R87); `codeErr` counts line-code errors. -/
  | frameReceive (k : Fin 64) (arrival : Nat) (codeErr : Nat) (chars : List Chr)
  | portRetire (k : Fin 64)
  /-- R83 step 2. `ids` are the identities that the READ cells return, by hop; none for a hop that gives no answer. -/
  | ringEnum (r : Fin 32) (ids : List (Option (BitVec 64)))
  | ringEnumRetry (r : Fin 32) (ids : List (Option (BitVec 64)))
  /-- R88. `deltas` are the values of DELTA read, by plan position. -/
  | ringMeasureCycle (r : Fin 32) (deltas : List (Fin 128 × Int))
  /-- R83 step 4. `mods` are the values of MODDLY_P and MODDLY_A read, by plan position (R116, R117). -/
  | ringWaits (r : Fin 32) (mods : List (Fin 128 × BitVec 17 × BitVec 17) := [])
  | ringRun (r : Fin 32) (frame : Nat)
  | slotRelease (r : Fin 32)
  | holdTimeout (r : Fin 32)
  | mailboxCellSend (r : Fin 32) (cell : Fin 4)
  /-- R95. `chars` are the 32 characters of the returned cell. -/
  | cellReply (r : Fin 32) (cell : Fin 4) (chars : List Byte)
  | cellNoReply (r : Fin 32) (cell : Fin 4)
  | ringCmdGo (host : Fin 4) (r : Fin 32)
  | ringUnwrap (r : Fin 32) (fu : Nat)
  | ringRestored (r : Fin 32)
  -- heads (chapter 4)
  | headAdmit (h : Fin 4096) (ident : HeadIdent) (a0 : Nat)
  | headRejoin (h : Fin 4096) (ident : HeadIdent) (a0 : Nat)
  | healthPoll (h : Fin 4096)
  | headAccRead (host : Fin 4)
  | headAccWrite (host : Fin 4)
  | changeQueuePlace (h : Fin 4096)
  -- staircase (chapter 5)
  /-- R131. The failed residue checks of the operation and its SEC-DED corrections (R134): `up` in the engine that serves the ring, `upT`
  in an engine that is taking it over. -/
  | stairProcess (r : Fin 32) (up upT : Nat × Nat)
  | handoverSwitch (r : Fin 32)
  | wpCfgWrite (host : Fin 4) (w : Fin 256) (v : Word)
  | stairSelftest (e : Fin 33) (pass : Bool)
  -- resampler and frequency groups (chapter 6)
  | cycleSampleForm (c : Fin 160) (slot : Fin 8)
  | cycleEnd (g : Fin 16)
  | fgReacq (host : Fin 4) (g : Fin 16)
  | groupStart (g : Fin 16)
  -- energy and commit (chapters 7 and 1)
  | tallyFlatSample (c : Fin 160)
  | tallyCycle (c : Fin 160)
  | tallyFlatCheckpoint (u : Fin 9)
  | tallyWindowDone (u : Fin 9) (g : Fin 16)
  | commit (g : Fin 16)
  | commitDeadline (g : Fin 16)
  | ctxLatchGo (host : Fin 4) (c : Fin 160)
  | ctxLatchRelease (host : Fin 4) (c : Fin 160)
  | energyPresetGo (host : Fin 4) (c : Fin 160) (acc : BitVec 8)
  | snapshotWord0Read (host : Fin 4) (addr : BitVec 24)
  | rcRead (host : Fin 4) (addr : BitVec 24)
  -- pulse I/O (chapter 8)
  | pulseUnit
  | pulseEnd (o : Fin 16)
  | pulseOutConfig (host : Fin 4) (addr : BitVec 24) (v : Word)
  | pulseInEdge (i : Fin 16)
  | legacyPresetGo (host : Fin 4) (i : Fin 16) (v : Word)
  | legacyPresetApply (i : Fin 16)
  -- spectra (chapter 9)
  | harmCycleSample (c : Fin 160) (slot : Fin 8)
  | harmWindowDone (e : Fin 5) (g : Fin 16)
  | shRawSample (lane : Fin 8)
  | shWindowDone (e : Fin 2)
  | spUtcWrite (host : Fin 4) (offset : BitVec 16)
  -- events (chapter 10)
  /-- R247. `residue` counts residue mismatches of the evaluation (R263). -/
  | eventHalfCycle (c : Fin 160) (residue : Nat)
  | eventWindowDone (g : Fin 16)
  | evCfgWrite (host : Fin 4) (c : Fin 160) (v : Word)
  -- hall plan (chapter 11)
  | planLoad
  | planStage (host : Fin 4)
  /-- R284. `flashOk`: the programmed slot reads back equal to the image. -/
  | planStageDone (flashOk : Bool)
  | planSwap (host : Fin 4)
  | planCancel (host : Fin 4)
  | planPrepare
  | prepareTimeout
  | swapArm
  | swapSwitch (g : Fin 16)
  | swapComplete
  | planHistSelect (host : Fin 4) (seq : Word)
  -- redundancy (chapter 12)
  | streamAbsentRetire (h : Fin 4096) (d : Det)
  | tallyFault (u : Fin 9)
  | harmFault (e : Fin 5)
  | shFault (e : Fin 2)
  | replayDone (u : ReplayUnit)
  | stewardRestart
  | restoreGo (host : Fin 4)
  | restoreSelftestDone (pass : Bool)
  -- local converter (chapter 13)
  /-- R314. `raw` is the analogue value at the tracked input, in 2^-16 LSB of R318, before the trims of R335. -/
  | lcSlot (raw : Int)
  | lcResult
  /-- R315. The corrections found for a slice: offset in LSB, gain in ppm (R316) and sample time. -/
  | lcRotate (slice : Fin 9) (corr : Int × Int × Int)
  | lcReady
  | lcCommit (host : Fin 4)
  | lcRun (host : Fin 4) (run : Bool)
  | lcInject (host : Fin 4) (slot : Fin 4) (v : Word)
  | lcCalBurst
  | lcFifoRead (host : Fin 4)
  | lcFifoFlush (host : Fin 4) (v : Word)
  -- calibration (chapter 14)
  | calHead (host : Fin 4) (d : Det) (h : Fin 4096)
  | calLocal (host : Fin 4) (idx : Fin 4096)
  | calExport (host : Fin 4)
  | calRestore (host : Fin 4)
  | calCancel (host : Fin 4) (isLocal : Bool) (d : Det) (idx : Fin 4096)
  | calImageDone
  | outingStart (q : Fin 16)
  | outingTimeout (q : Fin 16)
  -- galleries (chapter 15)
  | galleryRead (host : Fin 4) (x : BitVec 22) (ecc : Ecc)
  | galleryWrite (host : Fin 4) (x : BitVec 22) (v : Word) (other : PortA)
  | aliasSet (host : Fin 4) (x : BitVec 22) (v : Word) (other : PortA)
  | aliasClear (host : Fin 4) (x : BitVec 22) (v : Word) (other : PortA)
  | galPwrWrite (host : Fin 4) (g : Fin 8) (v : Word)
  | galleryClearDone (g : Fin 8)
  | galleryIdleRetain (g : Fin 8)
  /-- R363. The single-bit and uncorrectable words the scrub finds, by word offset. -/
  | galleryScrub (g : Fin 8) (singles : Nat) (doubles : List Nat)
  | memtestBorrow
  /-- R368. `bad` is the offset in the segment of a word that fails the march, if any. -/
  | memtestDone (bad : Option Nat)
  | memtestYield
  -- host ports (chapter 16)
  /-- R374. The bytes driven after the transaction code, up to the rising edge of CS_N. -/
  | submit (host : Fin 4) (bytes : List Byte)
  /-- R375. How many bytes the host clocks out after the turnaround. -/
  | collect (host : Fin 4) (clocked : Nat)
  | badTxn (host : Fin 4) (code : Byte)
  | read (host : Fin 4) (seq : Byte) (addr : BitVec 24) (count : Byte)
  | write (host : Fin 4) (seq : Byte) (addr : BitVec 24) (data : List Word)
  | fence (host : Fin 4) (seq : Byte)
  | fenceCommit (host : Fin 4) (seq : Byte) (addr : BitVec 24)
  | nop (host : Fin 4) (seq : Byte)
  | resync (host : Fin 4) (seq : Byte)
  | postedWriteExecute (i : Island)
  | fenceAnswer (host : Fin 4)
  | registerWrite (host : Fin 4) (addr : BitVec 24) (v : Word)
  | blockRequest (host : Fin 4) (count : BitVec 9)
  | blockRelease (host : Fin 4) (w : Fin 8) (mask : Word)
  | captureGo (host : Fin 4)
  | captureStop (host : Fin 4)
  | captureEntry (host : Fin 4)
  | budgetWrite (host : Fin 4) (p : Fin 4) (v : Word)
  | evict (host : Fin 4) (p : Fin 4)
  -- roles (chapter 17)
  /-- R409. `chal` are the 32 bytes the true random source gives, byte 0 in bits [7:0]. -/
  | roleReq (host : Fin 4) (role : BitVec 2) (chal : BitVec 256)
  | roleSubmit (host : Fin 4)
  | roleClose (host : Fin 4)
  | sessionIdleTimeout (host : Fin 4)
  | keySet (host : Fin 4) (target : BitVec 2)
  | keySetDone (host : Fin 4)
  | otpKeyProgram (host : Fin 4) (slot : Fin 4)
  | otpKeyRevoke (host : Fin 4) (slot : Fin 4)
  | otpKeyDone (ok : Bool)
  | sealClear (host : Fin 4)
  -- tamper (chapter 18)
  | tamperSample (obs : TamperObs)
  | shadowMismatch (f : ShadowField)
  | shadowSweep (bad : List ShadowField)
  | tamperTest (host : Fin 4) (mon : BitVec 5)
  | tamperConfigWrite (host : Fin 4) (m : Fin 23) (word : Fin 2) (v : Word)
  -- power, save and start-up (chapter 19)
  /-- R426, R449. Whether copy A and copy B of the record read back correctly. -/
  | fullReset (okA : Bool := true) (okB : Bool := true)
  /-- R456. What the cloakroom's checks find, and how many OTP cells are passed over while the pending steps are committed (R430). -/
  | powerGood (bak : Backup) (badCells : Nat)
  | mainRelease
  /-- R441. The sources present at W: bit 0 VSTA, bit 1 PFW_N, bit 2 a rail; whether a periodic save that is due is being written
  at W (R460). -/
  | powerWarning (src : BitVec 3) (saving : Bool := false)
  | spectralShed
  /-- R445. Whether copy A and copy B read back correctly. -/
  | totalsFreeze (okA : Bool) (okB : Bool)
  | saveDeadline
  | tailCopy
  | mainStop
  /-- R439. 1: VHOLD reaches 7.0 V while copy A of the record is being written; 2: after it, while copy B is (R450); 0: neither. -/
  | vholdShutdown (torn : Fin 3 := 0)
  | cloakSupplySwitch (vio33 : Bool)
  /-- R449. Whether the first and the second write read back correctly. -/
  | periodicSave (ok1 : Bool) (ok2 : Bool)
  | saveAck (host : Fin 4)
  -- trouble log (chapter 20)
  | logEntryWrite (isl : Fin 12)
  | logDropped (isl : Fin 12)
  | logSuppressed (code : BitVec 16)
  | logAck (host : Fin 4) (seq : Word)
  -- rows added at the table's end
  | clockRecoveryLocked (k : Fin 64)
  | commaMissing (k : Fin 64)
  | stewardRestartComplete
  deriving DecidableEq, Repr

end Sys2Proof
end

