-- ==== Sys2Proof/WellFormed.lean ====
section
/-! DEFINITION. Which commands are well formed: the operands that the spec bounds and that the types do not. -/

namespace Sys2Proof

/-- The observations of one cloakroom sample (R418 to R421): eight loops with 32 bits and one resistance each, and the
four temperature sites of R317. -/
def TamperObs.wf (o : TamperObs) : Bool :=
  o.loopBits.length == 8 && o.loopOhms.length == 8 && o.temps.length == 4

/-- The four-byte alignment of an address (R384). -/
def aligned4 (a : BitVec 24) : Bool := a.toNat % 4 == 0

/-- The checks: a frame is at most 1,280 characters from its comma (R71) and a cell 32 (R93); a frame has crossed
at most 255 hops, as its HOP says (R83); a WRITE carries 1 to 8 words (R376); a served word is aligned (R384); a segment offset lies in
the 64 KiB of the segment (R367). -/
def Instr.wf : Instr → Bool
  | .frameReceive _ _ _ chars => decide (chars.length ≤ 1280)
  | .ringEnum _ ids | .ringEnumRetry _ ids => decide (ids.length ≤ 255)
  | .cellReply _ _ chars => chars.length == 32
  | .write _ _ _ data => decide (1 ≤ data.length) && decide (data.length ≤ 8)
  | .snapshotWord0Read _ addr | .rcRead _ addr | .pulseOutConfig _ addr _ | .registerWrite _ addr _ => aligned4 addr
  | .galleryRead _ x _ | .galleryWrite _ x _ _ | .aliasSet _ x _ _ | .aliasClear _ x _ _ => x.toNat % 4 == 0
  | .galleryScrub _ _ doubles => doubles.all (fun x => x % 4 == 0)
  | .memtestDone bad => match bad with
    | none => true
    | some x => decide (x < 65536)
  | .tamperSample obs => obs.wf
  | _ => true

end Sys2Proof
end

