-- ==== Sys2Proof/Config.lean ====
section
/-! DEFINITION. What the spec leaves open: free values. Each is an opaque constant without a body, applied to a counter
of the state (or to its operands), so nothing can be proved about the value it gives. -/

namespace Sys2Proof.Config

/-- The word a read of an internal, undocumented gallery location returns (R228, R240, R307, R383): free.
The argument is the state's counter of free values, which the read advances. Log entry 3. -/
opaque freeWord : Nat → Word

/-- The ratio that the discipline loop of R49 asks for at an accepted edge, before the limits of R41 and R43: the spec
gives the loop's order, damping and time constant and no formula. The arguments are the state's counter, the phase error of the edge
in 2^-16 tick, and TB_CTRL.TAU as it acts, from 0 to 5. Log entry 4. -/
opaque loopRatio : Nat → Int → Nat → Nat

/-- The maker key of generation 0, programmed at manufacture (R406): the spec gives no value. Log entry 5. -/
opaque makerKey0 : BitVec 256

/-- The byte by which SESSION_END (R412) names its cause: the spec names the causes and gives no codes. The argument
counts the causes of R412 in their order from 0, and 6 is the cause SHADOW of R422. Log entry 11. -/
opaque sessionEndCause : Nat → BitVec 8

/-- R439, R461: whether the voltage on VHOLD is at or above 19.0 V at a sample index (PWR_STAT.HOLD_OK): a voltage outside the
model. Log entry 14. -/
opaque holdOk : Nat → Bool

/-- R461: whether the voltage on VBAK is at or above 2.5 V at a sample index (PWR_STAT.BAK_OK). Log entry 14. -/
opaque bakOk : Nat → Bool

end Sys2Proof.Config
end

