-- ==== Sys2Proof/Machine/Num.lean ====
section
/-! DEFINITION. The arithmetic of the spec, on exact integers and narrowed at the end: bit fields, saturation, rounding
half to even, integer square roots, and correctly rounded cosines, sines and arguments by fixed point. -/

namespace Sys2Proof.Machine

/-- Bits [hi:lo] of a word, as a number. -/
def bits (w : Word) (hi lo : Nat) : Nat := (w.toNat / 2 ^ lo) % 2 ^ (hi - lo + 1)

/-- Bit `i` of a word. -/
def bit (w : Word) (i : Nat) : Bool := w.getLsbD i

/-- Bits [hi:lo] of a number. -/
def nbits (n hi lo : Nat) : Nat := (n / 2 ^ lo) % 2 ^ (hi - lo + 1)

/-- 1 for true. -/
def b2n (b : Bool) : Nat := if b then 1 else 0

/-- A word from (value, lowest bit) fields: the fields' bits do not overlap, each cut to the word. -/
def packW : List (Nat × Nat) → Word
  | [] => 0
  | (v, lo) :: t => BitVec.ofNat 32 (v * 2 ^ lo) ||| packW t

/-- Word `k` of a wide value (R10: the least significant word first). -/
def wordOf (v k : Nat) : Word := BitVec.ofNat 32 (v / 2 ^ (32 * k))

/-- A wide value with its word `k` replaced. -/
def setWordOf (v k : Nat) (w : Word) : Nat :=
  v % 2 ^ (32 * k) + w.toNat * 2 ^ (32 * k) + (v / 2 ^ (32 * (k + 1))) * 2 ^ (32 * (k + 1))

/-- The two's complement value of the low `n` bits of a number. -/
def sgn (n v : Nat) : Int :=
  let m := v % 2 ^ n
  if m < 2 ^ (n - 1) then (m : Int) else (m : Int) - 2 ^ n

/-- An integer as `n` bits of two's complement. -/
def toU (n : Nat) (v : Int) : Nat := (v % (2 ^ n : Int)).toNat

/-- An element takes its place in a sorted list, before what it does not exceed. -/
def insertBy {α : Type} (le : α → α → Bool) (x : α) : List α → List α
  | [] => [x]
  | y :: l => if le x y then x :: y :: l else y :: insertBy le x l

/-- A list in order; equals keep their order. -/
def sortBy {α : Type} (le : α → α → Bool) (l : List α) : List α := l.foldr (insertBy le) []

/-- A count that stops at `m`. -/
def satAdd (m a b : Nat) : Nat := min m (a + b)

/-- Clamp to the range of an `n`-bit two's complement value. -/
def satS (n : Nat) (v : Int) : Int :=
  if v > 2 ^ (n - 1) - 1 then 2 ^ (n - 1) - 1 else if v < -(2 ^ (n - 1) : Int) then -(2 ^ (n - 1) : Int) else v

/-- Whether the value lies outside the range of an `n`-bit two's complement value. -/
def outS (n : Nat) (v : Int) : Bool := decide (v > 2 ^ (n - 1) - 1) || decide (v < -(2 ^ (n - 1) : Int))

/-- Clamp to an interval. -/
def clampI (lo hi v : Int) : Int := if v < lo then lo else if v > hi then hi else v

/-- The quotient of integers rounded to the nearest, ties to even (divisor above 0). -/
def rne (n : Int) (d : Nat) : Int :=
  let q := n / (d : Int)
  let r := n % (d : Int)
  if 2 * r < d then q
  else if 2 * r > d then q + 1
  else if q % 2 = 0 then q else q + 1

/-- The quotient of naturals rounded to the nearest, ties to even (divisor above 0). -/
def rneN (n d : Nat) : Nat :=
  let q := n / d
  let r := n % d
  if 2 * r < d then q
  else if 2 * r > d then q + 1
  else if q % 2 = 0 then q else q + 1

/-- Rounded up quotient. -/
def cdiv (n d : Nat) : Nat := (n + d - 1) / d

/-- The square root of `n / d` rounded to the nearest whole number. A tie, √(n/d) = q + 1/2 exactly, goes to the
even neighbour (R162 and the chapters name round half to even). -/
def rneSqrt (n d : Nat) : Nat :=
  let q := Nat.sqrt (n / d)
  -- compare n/d with (q + 1/2)^2: 4n against (2q+1)^2 d
  if 4 * n < (2 * q + 1) * (2 * q + 1) * d then q
  else if 4 * n > (2 * q + 1) * (2 * q + 1) * d then q + 1
  else if q % 2 = 0 then q else q + 1

/-- The binary places of the fixed-point functions below. -/
def fxBits : Nat := 128

/-- π in units of 2^-128. -/
def fxPi : Nat := 0x3243F6A8885A308D313198A2E03707344

/-- The sum of a Taylor series: term_(k+1) = - term_k x^2 / ((2k+a)(2k+a+1)), in units of 2^-128. -/
def fxSeries (x2 : Int) : Nat → Int → Nat → Int
  | 0, _, _ => 0
  | fuel + 1, term, a =>
    term + fxSeries x2 fuel (-(term * x2) / (2 ^ fxBits : Int) / ((a * (a + 1) : Nat) : Int)) (a + 2)

/-- cos x for 0 ≤ x ≤ π/2, in units of 2^-128. -/
def fxCosQ (x : Int) : Int := fxSeries (x * x / (2 ^ fxBits : Int)) 40 (2 ^ fxBits) 1

/-- sin x for 0 ≤ x ≤ π/2, in units of 2^-128. -/
def fxSinQ (x : Int) : Int := fxSeries (x * x / (2 ^ fxBits : Int)) 40 x 2

/-- cos and sin of 2π n / d, in units of 2^-128. -/
def fxCosSin (n d : Nat) : Int × Int :=
  let m := n % d
  -- quadrant of m/d and the angle within it
  let quad := 4 * m / d
  let r := 4 * m % d            -- angle = (π/2) (r/d)
  let x : Int := ((fxPi * r / (2 * d) : Nat) : Int)
  let c := fxCosQ x
  let s := fxSinQ x
  match quad with
  | 0 => (c, s)
  | 1 => (-s, c)
  | 2 => (-c, -s)
  | _ => (s, -c)

/-- The arctangent series Σ ±t^(2k+1) / (2k+1) from a term on, with p binary places. -/
def fxAtanSeries (p : Nat) (t2 : Int) : Nat → Int → Nat → Int
  | 0, _, _ => 0
  | fuel + 1, term, k =>
    term / (k : Int) + fxAtanSeries p t2 fuel (-(term * t2) / (2 ^ p : Int)) (k + 2)

/-- π with p binary places, from 16 arctan (1/5) − 4 arctan (1/239). -/
def fxPiAt (p : Nat) : Nat :=
  let at_ := fun (n : Nat) => fxAtanSeries p (2 ^ p / (n * n : Nat)) (p / 4 + 4) (2 ^ p / (n : Int)) 1
  (16 * at_ 5 - 4 * at_ 239).toNat

/-- One halving of the argument of (x, y), x ≥ 0, y ≥ 0: tan (a/2) = y / (x + √(x² + y²)). -/
def fxHalve (x y : Nat) : Nat × Nat := (x + Nat.sqrt (x * x + y * y), y)

/-- The argument of (x, y), x ≥ 0 and y ≥ 0 not both 0, in radians with p binary places. -/
def fxAtanQ (p x y : Nat) : Nat :=
  -- scale so that the vector is large
  let k := p + 8
  let x := x * 2 ^ k
  let y := y * 2 ^ k
  let (x, y) := fxHalve x y
  let (x, y) := fxHalve x y
  let (x, y) := fxHalve x y
  let (x, y) := fxHalve x y
  let t : Int := ((y * 2 ^ p / x : Nat) : Int)
  (16 * fxAtanSeries p (t * t / (2 ^ p : Int)) (p / 8 + 24) t 1).toNat

/-- The argument of (x, y) as a fraction of a turn, with p binary places, in [0, 1); 0 for the zero vector. -/
def fxTurn (p : Nat) (x y : Int) : Nat :=
  if x = 0 ∧ y = 0 then 0
  else
    let a := fxAtanQ p x.natAbs y.natAbs            -- radians, first quadrant
    let t := a * 2 ^ p / (2 * fxPiAt p)             -- turns
    let one := 2 ^ p
    let u := if 0 ≤ x then (if 0 ≤ y then t else one - t)
             else (if 0 ≤ y then one / 2 - t else one / 2 + t)
    u % one

/-- The argument of (x, y) rounded to `bits` binary places of a turn: with 128 places, and where those do not decide the rounding (the
value lies within 2^-100 turn of a tie), with 1,024. -/
def turnCode (bits : Nat) (x y : Int) : Nat :=
  let at_ := fun (p : Nat) (d : Int) => rneN ((fxTurn p x y : Int) + 2 ^ p + d).toNat (2 ^ (p - bits)) % 2 ^ bits
  if at_ 128 (-(2 ^ 28)) = at_ 128 (2 ^ 28) then at_ 128 0 else at_ 1024 0

end Sys2Proof.Machine
end

