-- ==== Sys2Proof/Machine/Tab.lean ====
section
/-! DEFINITION. The two containers of the state: `Tab`, a sparse table sorted by key (an instance that has never been
touched reads as its reset value), and `Mem`, the bytes of a gallery or of the boot flash in the canonical form of
Host.Cell: addresses strictly rising, no entry equal to what an unlisted address reads as. -/

namespace Sys2Proof.Machine

/-- A sparse table, sorted by key. -/
abbrev Tab (α : Type) := List (Nat × α)

/-- The entry under `k`, the value `d` where none is listed. -/
def tget {α : Type} (d : α) : Tab α → Nat → α
  | [], _ => d
  | (j, v) :: t, k => if j = k then v else tget d t k

/-- Set the entry under `k`, keeping the keys sorted. -/
def tset {α : Type} : Tab α → Nat → α → Tab α
  | [], k, v => [(k, v)]
  | (j, w) :: t, k, v =>
    if k < j then (k, v) :: (j, w) :: t
    else if k = j then (k, v) :: t
    else (j, w) :: tset t k v

/-- Change the entry under `k`. -/
def tmod {α : Type} (d : α) (t : Tab α) (k : Nat) (f : α → α) : Tab α := tset t k (f (tget d t k))

/-- Remove the entry under `k`. -/
def tdel {α : Type} (t : Tab α) (k : Nat) : Tab α := t.filter (fun e => e.1 != k)

/-- The keys strictly rise. -/
def tsorted {α : Type} : Tab α → Bool
  | [] => true
  | [_] => true
  | (j, _) :: (k, w) :: t => decide (j < k) && tsorted ((k, w) :: t)

/-- The bytes of one memory, in canonical form. -/
abbrev Mem := List Host.Cell

/-- The byte at `a`; an unlisted address reads as `d`. -/
def mget (d : Byte) : Mem → Nat → Byte
  | [], _ => d
  | (j, v) :: t, a => if j = a then v else mget d t a

/-- Store a byte: a byte equal to what an unlisted address reads as is not listed. -/
def mput (d : Byte) : Mem → Nat → Byte → Mem
  | [], a, b => if b = d then [] else [(a, b)]
  | (j, w) :: t, a, b =>
    if a < j then (if b = d then (j, w) :: t else (a, b) :: (j, w) :: t)
    else if a = j then (if b = d then t else (a, b) :: t)
    else (j, w) :: mput d t a b

/-- The canonical form: addresses strictly rising and above `lo`, no entry equal to the default. -/
def memWfFrom (d : Byte) : Nat → Mem → Bool
  | _, [] => true
  | lo, (j, v) :: t => decide (lo ≤ j) && (v != d) && memWfFrom d (j + 1) t

/-- The canonical form of a memory whose unlisted bytes read as `d`. -/
def memWf (d : Byte) (m : Mem) : Bool := memWfFrom d 0 m

/-- A 32-bit word, little-endian (R10). -/
def mgetW (d : Byte) (m : Mem) (a : Nat) : Word :=
  mget d m (a + 3) ++ mget d m (a + 2) ++ mget d m (a + 1) ++ mget d m a

/-- Store bytes from `a` upward. -/
def mputs (d : Byte) (m : Mem) (a : Nat) : List Byte → Mem
  | [] => m
  | b :: bs => mputs d (mput d m a b) (a + 1) bs

/-- The `n` bytes from `a` upward. -/
def mgets (d : Byte) (m : Mem) (a : Nat) : Nat → List Byte
  | 0 => []
  | n + 1 => mget d m a :: mgets d m (a + 1) n

/-- The `n` bytes from `a` upward, walking the list once. -/
def mslice (d : Byte) : Mem → Nat → Nat → List Byte
  | [], _, n => List.replicate n d
  | (j, v) :: t, a, n =>
    if n = 0 then []
    else if j < a then mslice d t a n
    else if j ≥ a + n then List.replicate n d
    else List.replicate (j - a) d ++ v :: mslice d t (j + 1) (n - (j - a) - 1)

/-- The memory without the bytes in [a, a + n). -/
def mclear (m : Mem) (a n : Nat) : Mem := m.filter (fun e => decide (e.1 < a) || decide (e.1 ≥ a + n))

/-- The memory with the bytes of [a, a + bs.length) replaced by `bs`, walking the list once. -/
def mfill (d : Byte) (m : Mem) (a : Nat) (bs : List Byte) : Mem :=
  m.filter (fun e => decide (e.1 < a)) ++
    ((bs.zipIdx a).filter (fun e => e.1 != d)).map (fun e => (e.2, e.1)) ++
    m.filter (fun e => decide (e.1 ≥ a + bs.length))

/-- The `n` bytes of a number, little-endian (R10). -/
def leBytes : Nat → Nat → List Byte
  | 0, _ => []
  | n + 1, v => BitVec.ofNat 8 v :: leBytes n (v / 256)

/-- The number that bytes spell, little-endian (R10). -/
def leNat : List Byte → Nat
  | [] => 0
  | b :: bs => b.toNat + 256 * leNat bs

/-- The number that bytes spell, most significant byte first (R271, R409). -/
def beNat (bs : List Byte) : Nat := leNat bs.reverse

/-- Store a word, little-endian (R10). -/
def mputW (d : Byte) (m : Mem) (a : Nat) (w : Word) : Mem := mputs d m a (leBytes 4 w.toNat)

/-- What an unlisted byte of a gallery reads as: galleries are cleared to 0 (R361). -/
def galDefault : Byte := 0

/-- What an unlisted byte of the boot flash reads as: erased flash. DESIGN CHOICE (log entry 6). -/
def flashDefault : Byte := 0xFF

end Sys2Proof.Machine
end

