-- ==== Sys2Proof/Machine/State.lean ====
section
/-! DEFINITION. The state of the PX-64, as plain data: one structure for each chapter of the spec that gives the block
state, the outcomes' reasons, and the state right after a power-on reset. Counts and indices are numbers; what software
reads as a word is a `Word` or is packed into one when it is read. A `Tab` holds the instances of an arrayed object; an
instance that is not listed has the reset value of its structure. -/

namespace Sys2Proof.Machine

/-- Nothing in this block stops with a fault: every command has an effect or none (safe: no run ends early). -/
inductive Fault where
  /-- Raised by nobody; the type must not be empty of names. Safe. -/
  | none
  deriving DecidableEq, Repr

/-- Reasons for which a command is turned away. -/
inductive Refusal where
  /-- Answered by the arm of a command that has no meaning yet. Safe. -/
  | notModelled (mnemonic : String)
  deriving DecidableEq, Repr

/-! ## Chapters 0 and 1: the die and its islands -/

/-- R1, R5, R11, R12, R13, R18, R39. -/
structure Glb where
  /-- R5: GLB_DEVICE_ID.GRADE is 0x2 (PX-32H). -/
  half : Bool := false
  /-- GLB_DEVICE_ID.STEPPING. -/
  stepping : BitVec 8 := 1
  /-- GLB_ISLAND_STAT [9:0] less CLOAK_OSC's age condition: bit i set while that island is locked. -/
  lock : Word := 0
  /-- GLB_LINK_LOCK. -/
  linkLock : Word := 0
  /-- R12: islands whose PLL lost lock in service and are held idle, numbered as `lock` and `linkLock`. -/
  lost : Word := 0
  linkLost : Word := 0
  /-- R13: the trim of the cloakroom oscillator, and the index at which it was last made. -/
  trim : Int := 0
  trimAt : Option Nat := none
  /-- R16, R39: the index at which the depth in time of a channel that holds its producer is over, by channel (`Chan.code`). -/
  stallAt : Tab Nat := []
  /-- GLB_HS_STAT. -/
  overruns : Nat := 0
  lastRing : Nat := 0
  stallSeen : Bool := false
  deriving DecidableEq, Repr

/-! ## Chapter 2: the timebase -/

/-- R50: the discipline states. -/
inductive Disc where
  | free | acquire | locked | holdover
  deriving DecidableEq, Repr

/-- R40 to R66. -/
structure Tb where
  /-- R44: the sample index. -/
  idx : Nat := 0
  /-- R40: the 48-bit phase accumulator of the NCO. -/
  phase : Nat := 0
  /-- R40: the ratio in use, 8 integer and 40 fraction bits (TB_NCO). -/
  ratio : Nat := 0x500000000000
  /-- R43: the ratio from which FREE and HOLDOVER slew, and the index since which they do. -/
  slewFrom : Nat := 0x500000000000
  slewAt : Nat := 0
  /-- R50: TB_NCO_NOM, the ratio of FREE. -/
  nom : Nat := 0x500000000000
  /-- TB_NCO_NOM word 0 as written, taken when word 1 is written. -/
  nomLo : Word := 0
  /-- TB_CTRL. -/
  tau : Nat := 3
  discEn : Bool := true
  disc : Disc := .free
  /-- TB_STAT.RANGE, LOCK_LOST, SECOND_STEP, TAI_VALID. -/
  range : Bool := false
  lockLost : Bool := false
  secondStep : Bool := false
  taiValid : Bool := false
  /-- R48: the instant of the last accepted edge, in 2^-16 tick. -/
  lastEdge : Option Nat := none
  /-- R51: the next edge is taken without a window check. -/
  takeNext : Bool := false
  /-- R50: consecutive accepted edges within 50 ns, beyond 500 ns; consecutive outliers near one another. -/
  goodRun : Nat := 0
  badRun : Nat := 0
  outRun : List Int := []
  /-- R50: the ratios of the last 16 accepted edges, newest first. -/
  ratios : List Nat := []
  /-- TB_PPS_ERR, TB_PPS_DELAY in 2^-16 tick. -/
  err : Int := 0
  delay : Int := 0
  /-- R52: the last counted second boundary. -/
  second : Nat := 0
  /-- R43: the index at which the ratio last changed. -/
  chgAt : Nat := 0
  /-- TB_TAI_SET; R55: its values with the ticks of their writes, newest first. -/
  taiSet : Nat := 0
  taiHist : List (Nat × Nat) := []
  /-- R55: TB_TAI_CMD.ARM, the tick it was set in, the tick of its last write, and role and port of the writes of TB_TAI_SET and
  ARM with their ticks, newest first. -/
  arm : Bool := false
  armAt : Nat := 0
  armLast : Nat := 0
  taiBy : List (Nat × (Nat × Nat)) := []
  /-- R54: TAI seconds at the last counted boundary. -/
  taiSec : Nat := 0
  /-- TB_PPS_CNT. -/
  outliers : Nat := 0
  steps : Nat := 0
  /-- R45: TB_EPOCH. -/
  epoch : Nat := 0
  deriving DecidableEq, Repr

/-! ## Chapter 3: link ports and rings -/

/-- R78: the receiver states; OFF is shown for a port that is retired or whose ring is not declared. -/
inductive Rx where
  | down | signal | bitLock | charAlign | frameLock
  deriving DecidableEq, Repr

/-- One link port (R78 to R82, R87, R105). -/
structure Port where
  rx : Rx := .down
  signal : Bool := false
  /-- Clock recovery is locked. -/
  cdr : Bool := false
  retired : Bool := false
  lockLost : Bool := false
  fallback : Bool := false
  loopedRx : Bool := false
  codeErr : Nat := 0
  frameErr : Nat := 0
  slotFail : Nat := 0
  fcsCtlFail : Nat := 0
  fcsSlotFail : Nat := 0
  /-- R87: sum and count of the arrivals of the running 256 frames, and the last mean in q/256. -/
  arrSum : Nat := 0
  arrCnt : Nat := 0
  arrMean : Option Nat := none
  /-- The index at which FRAME_LOCK was last held, or from which its ring was declared. -/
  lockAt : Nat := 0
  jumps : Nat := 0
  /-- The arrival of the latest comma, in q (R78: the spacing of commas; R80: the phase). -/
  lastArr : Option Nat := none
  /-- Commas found at the frame spacing; good frames in a row; bad frame periods in a row. -/
  commaRun : Nat := 0
  goodRun : Nat := 0
  badRun : Nat := 0
  /-- The FRAME_INDEX expected next. -/
  expIdx : Nat := 0
  lastLooped : Bool := false
  lastWrapPos : Nat := 255
  /-- R100: the first frame that the turning head seen last turned. -/
  wrapSeen : Option Nat := none
  ridLogAt : Option Nat := none
  /-- The HOP count and OVERFULL (R72) of the last good frame. -/
  hop : Nat := 0
  overfullRx : Bool := false
  /-- R101: RESTORE_SEEN has been received continuously since this index. -/
  restoreAt : Option Nat := none
  /-- LNK_CTRL.TX_SWING and the step the transmitter uses (R489). -/
  swing : Nat := 8
  swingUsed : Nat := 8
  deriving DecidableEq, Repr

/-- R90: how a copy of a slot is graded. -/
inductive Grade where
  | failed | void | checkOnly | full
  deriving DecidableEq, Repr

/-- A received copy of one frame: which port (false: port 2r), its arrival, and its slots, graded. -/
structure Copy where
  frame : Nat
  east : Bool
  arrival : Nat
  looped : Bool
  slots : List (Grade × List Byte)
  /-- R99: no copy from a port but an entry of the backfill lane. -/
  lane : Bool := false
  deriving DecidableEq, Repr

/-- An index graded at its deadline and held for holes (R92). -/
structure HeldIdx where
  idx : Nat
  /-- Tick of the deadline. -/
  due : Nat
  slots : List (Grade × List Byte)
  deriving DecidableEq, Repr

/-- One slot on the channel to the staircase (R15): the index, the classes of both detectors and the codes. -/
structure StairIn where
  idx : Nat
  pos : Nat
  clsP : Nat
  clsA : Nat
  codeP : Int
  codeA : Int
  chgP : Bool
  chgA : Bool
  stepP : Nat
  stepA : Nat
  /-- OK = 1 and OVR = 0 (R343). -/
  cleanP : Bool := true
  cleanA : Bool := true
  deriving DecidableEq, Repr

/-- What a cell in flight is for. -/
inductive CellUse where
  /-- R83: a READ of the identity of hop i, whose answer RING_ENUM holds. -/
  | enumRead (hop : Nat)
  /-- R83: the ASSIGN of a plan position. -/
  | assign (h : Nat)
  /-- R88: a READ of DELTA, whose answer RING_MEASURE_CYCLE holds. -/
  | delta (h : Nat)
  /-- R60, R83: the timed write of the four waits, formed from these delays. -/
  | waits (h : Nat) (dw de : Int)
  /-- R117: a READ of the modulator delays, whose answer RING_WAITS, HEAD_ADMIT and HEAD_REJOIN hold, and the timed write of the gains and
  trims that apply at A0. -/
  | modDelays (h : Nat)
  | settings (h : Nat)
  /-- R83, R101: a broadcast, which no head answers (R95). -/
  | broadcast
  /-- R119: a health poll of head h. -/
  | health (h : Nat)
  /-- R126: a READ for the mailbox of a host port. -/
  | accRead (host : Nat)
  /-- R122: the timed write of a pending change of head h (`off`: the kept OFF place). -/
  | change (h : Nat) (off : Bool)
  /-- R105: the maker's raw cell. -/
  | maker
  deriving DecidableEq, Repr

/-- A cell request: its characters without SEQ and CCRC (none yet for a change that has no AT), its use, how often it was repeated
(R95), and for a timed write its register and AT. -/
structure CellReq where
  use : CellUse
  chars : List Byte
  tries : Nat := 0
  reg : Nat := 0
  at_ : Nat := 0
  deriving DecidableEq, Repr

/-- A cell that has left: the frame and its SEQ. -/
structure CellFly where
  req : CellReq
  frame : Nat
  seq : Nat
  deriving DecidableEq, Repr

/-- One of the four cells of a ring (R96): requests that wait for a frame, and those that have left, oldest first. -/
structure CellLane where
  waiting : List CellReq := []
  fly : List CellFly := []
  deriving DecidableEq, Repr

/-- A frame that leaves both ports of a ring (R71): its index, MODE, whether its lane is open to backfill (R99), and the cells placed in
it. -/
structure OutFrame where
  frame : Nat
  mode : Nat
  wrap : Bool := false
  cells : Tab (List Byte) := []
  deriving DecidableEq, Repr

/-- R83, R100, R104: the states of a ring, coded as RING_STAT.STATE. -/
inductive RingSt where
  | off | train | enum | measure | waits | run | wrap | shed
  deriving DecidableEq, Repr

/-- One ring (R83 to R104). -/
structure Ring where
  st : RingSt := .off
  heads : Nat := 0
  overfull : Bool := false
  segLong : Bool := false
  lagMargin : Bool := false
  bfArriving : Bool := false
  breakSeen : Bool := false
  /-- Identities by hop, as enumerated; none where the hop gave no answer. -/
  hops : List (Option (BitVec 64)) := []
  k : Nat := 0
  /-- R87, R88: D_e, D_w in q/256, and the D that RING_SPAN shows in q/512. -/
  de : Nat := 0
  dw : Nat := 0
  d : Nat := 0
  measAt : Option Nat := none
  /-- RING_WRAP. -/
  eastHead : Nat := 255
  westHead : Nat := 255
  wrapAt : Nat := 0
  missing : Nat := 0
  bfUsed : Nat := 0
  bfDisc : Nat := 0
  /-- The next index to grade and release. -/
  nextRel : Nat := 0
  copies : List Copy := []
  held : List HeldIdx := []
  /-- Slots the staircase channel holds, oldest first; true: the first entry's primary has been taken. -/
  chan : List StairIn := []
  half : Bool := false
  /-- R18: the index from which the channel has been full. -/
  fullAt : Option Nat := none
  cells : Tab CellLane := []
  seq : Nat := 0
  /-- When the transmitters started; when enumeration last failed; the frame from which MODE is RUN. -/
  trainAt : Nat := 0
  enumFailAt : Option Nat := none
  runFrame : Option Nat := none
  /-- The waits of the training have been sent, and the frame index A0 at which they apply. -/
  waitsDone : Bool := false
  waitsFor : Nat := 0
  /-- R101: the frame that ends the wrap. -/
  fu : Option Nat := none
  /-- Frames that have left (R57), and the one that leaves now. -/
  sent : Nat := 0
  out : Option OutFrame := none
  /-- R100: the first turned frame, if its index has not been released yet. -/
  turned : Option Nat := none
  /-- RING_CMD_*. -/
  cmdCell : BitVec 256 := 0
  cmdGo : Bool := false
  cmdNoAns : Bool := false
  cmdResp : Nat := 0
  cmdReply : BitVec 256 := 0
  deriving DecidableEq, Repr

/-! ## Chapter 4: heads -/

/-- HEAD_STAT.STATE. -/
inductive HeadSt where
  | notDeclared | absent | joining | admitted
  deriving DecidableEq, Repr

/-- Who asked for a sampling change (R124): a host port in a role, or the PX-64 for an outing. -/
inductive Asker where
  | host (p : Nat) (role : Nat)
  | px
  deriving DecidableEq, Repr

/-- A pending sampling change (R122). -/
structure Change where
  reg : Nat
  value : Word
  /-- R121: the lower limit of AT, and AT once the cell has left. -/
  notBefore : Nat := 0
  at_ : Option Nat := none
  accepted : Bool := false
  force : Bool := false
  asker : Asker
  /-- The source code of a trim (CAL_TRIM_H.SRC): 1 neutral, 2 an outing's correction, 3 a restored one, 4 a host's write. -/
  src : Nat := 4
  deriving DecidableEq, Repr

/-- How a head times itself from an index on (R58, R59): the direction (true: east), the waits (west P, west A, east P, east A) and
the delays d_w, d_e in q/1024 that were known then. -/
structure Timing where
  from_ : Nat := 0
  east : Bool := false
  waits : List Nat := [0, 0, 0, 0]
  dw : Int := 0
  de : Int := 0
  deriving DecidableEq, Repr

/-- One head (R109 to R126). -/
structure Head where
  st : HeadSt := .notDeclared
  typ : Nat := 0
  serial : BitVec 64 := 0
  /-- R109, R126: the gain steps in force, and those of the plan that come into force with A0. -/
  gainP : Nat := 0
  gainA : Nat := 0
  gainNext : Option (Nat × Nat) := none
  trimP : BitVec 32 := 0
  trimA : BitVec 32 := 0
  /-- CAL_STIM in force, and the index from which it is on (R342). -/
  stim : Nat := 0
  stimAt : Nat := 0
  /-- R88: d_w, d_e in q/1024 and Δ in q. -/
  dw : Int := 0
  de : Int := 0
  delta : Int := 0
  modP : Nat := 0
  modA : Nat := 0
  /-- R59, R60, R157: the confirmed timings, the one from the highest index first. -/
  timing : List Timing := []
  /-- R89, R97: the half of a wrapped ring on which the head lies; true: the east half. -/
  half : Option Bool := none
  health : Word := 0
  valid : Bool := false
  rejoins : Nat := 0
  unhealthy : Nat := 0
  clip : Nat := 0
  pUse : Nat := 5
  aUse : Nat := 5
  okP : Bool := true
  okA : Bool := true
  clipLogAt : Option Nat := none
  /-- R125: the index at which an OK bit fell, to be logged with the cause of the next poll. -/
  faultP : Option Nat := none
  faultA : Option Nat := none
  a0 : Option Nat := none
  /-- R122: the queue of depth 4, and the kept OFF place. -/
  queue : List Change := []
  offPlace : Option Change := none
  /-- R122: changes of an outing that wait for a place. -/
  waiting : List Change := []
  /-- R121: the latest change index of each detector. -/
  chgP : Option Nat := none
  chgA : Option Nat := none
  /-- R293: consecutive delivered indices that count as absent. -/
  absP : Nat := 0
  absA : Nat := 0
  /-- R349: the index at which the head became ABSENT. -/
  absAt : Nat := 0
  retP : Bool := false
  retA : Bool := false
  /-- R303: the first index that the ring delivered after a stream's retirement. -/
  fromP : Nat := 0
  fromA : Nat := 0
  deriving DecidableEq, Repr

/-- The head access mailbox of one host port (R126). -/
structure HeadAcc where
  force : Bool := false
  op : Nat := 0
  len : Nat := 0
  head : Nat := 0
  reg : Nat := 0
  busy : Bool := false
  resp : Nat := 0
  result : Nat := 0
  data : List Word := [0, 0, 0, 0]
  at_ : Nat := 0
  deriving DecidableEq, Repr

/-! ## Chapter 5: the staircase -/

/-- A staircase output (R133); `decim` is the M that DECIM codes. -/
structure StOut where
  val : Int
  cls : Nat
  step : Nat
  sat : Bool
  unset : Bool
  nlast : Nat
  decim : Nat := 12
  deriving DecidableEq, Repr

/-- A flat sample (R136). -/
structure StFlat where
  val : Int
  cls : Nat
  step : Nat
  fsat : Bool
  nlast : Nat
  decim : Nat := 12
  deriving DecidableEq, Repr

/-- One stream in one engine (R131 to R141, R150). -/
structure Strm where
  /-- Integrators modulo 2^48, combs modulo their width. -/
  i : List Nat := [0, 0, 0, 0, 0]
  d : List Nat := [0, 0, 0, 0, 0]
  left : Nat := 0
  pendReset : Bool := true
  /-- The class, step and value of the latest output. -/
  cls : Nat := 5
  step : Nat := 0
  out : Int := 0
  flatLeft : Nat := 0
  sat : Bool := false
  fsat : Bool := false
  /-- R140: the latest index of class OUTING, UNHEALTHY, OVER_RANGE. -/
  outingAt : Option Nat := none
  unhealthyAt : Option Nat := none
  overAt : Option Nat := none
  /-- The outputs held for the resampler, and the taps of the flat filter, newest first. -/
  outs : List StOut := []
  /-- The flat samples held for the tally units, newest first. -/
  flats : List StFlat := []
  /-- R147: what the engine that the ring was moved from had delivered when the move ended. -/
  oldOuts : List StOut := []
  oldFlats : List StFlat := []
  deriving DecidableEq, Repr

/-- STC_CFG.STATE. -/
inductive EngSt where
  | spare | serving | takingOver | handingOver | retired
  deriving DecidableEq, Repr

/-- The settings of a staircase (R130). -/
structure StairCfg where
  n : Nat := 5
  m : Nat := 12
  shifts : List Nat := [0, 0, 0, 0, 0]
  /-- c_0 to c_15. -/
  comp : List Int := List.replicate 16 0
  deriving DecidableEq, Repr

/-- One engine (R127, R134, R149, R150). -/
structure Eng where
  st : EngSt := .spare
  ring : Option Nat := none
  cfg : StairCfg := {}
  residue : Nat := 0
  corrected : Nat := 0
  sat : Nat := 0
  flatSat : Nat := 0
  satLogAt : Option Nat := none
  /-- R134, R291: indices of the latest mismatches, newest first. -/
  faults : List Nat := []
  /-- R149: self-test outings failed in a row, and the index of the latest outing. -/
  failRun : Nat := 0
  testAt : Option Nat := none
  /-- R32, R147: the index at which it took a ring over, and outputs it has produced since. -/
  startAt : Nat := 0
  made : Nat := 0
  /-- R147: the switch index of the settings move that brought this engine its ring, and the engine it came from. -/
  moveAt : Option Nat := none
  from_ : Option Nat := none
  /-- R147: the settings of the engine that the ring was moved from, once the move has ended. -/
  oldCfg : StairCfg := {}
  deriving DecidableEq, Repr

/-- A watch point (R144 to R146). -/
structure Watch where
  mode : Nat := 0
  ring : Nat := 0
  stream : Nat := 0
  hi : Word := 0
  lo : Word := 0
  hold : Nat := 1
  state : Bool := false
  rose : Bool := false
  fell : Bool := false
  stale : Bool := true
  trips : Nat := 0
  at_ : Nat := 0
  run : Nat := 0
  deriving DecidableEq, Repr

/-- The staircase island. -/
structure Stair where
  eng : Tab Eng := []
  /-- Streams, under 256 times the engine plus the stream. -/
  strm : Tab Strm := []
  wp : Tab Watch := []
  /-- The engine serving each ring, and the one taking it over. -/
  map : Tab Nat := []
  taker : Tab Nat := []
  selfFails : Nat := 0
  deriving DecidableEq, Repr

/-! ## Chapter 11: the hall plan, as parsed from its image (R266 to R278) -/

/-- A RINGS entry (R274). -/
structure PlanRing where
  ring : Nat
  cfg : StairCfg
  swing : Nat
  deriving DecidableEq, Repr

/-- A HEADS entry (R275). -/
structure PlanHead where
  serial : BitVec 64
  ring : Nat
  pos : Nat
  typ : Nat
  gainP : Nat
  gainA : Nat
  trimP : Word
  trimA : Word
  deriving DecidableEq, Repr

/-- A GROUPS entry (R276). -/
structure PlanGroup where
  g : Nat
  nom60 : Bool
  w : Nat
  l : Nat
  /-- REF0 to REF2; 255 none. -/
  refs : List Nat
  ctrl : Word
  bank : List Int
  deriving DecidableEq, Repr

/-- A binding record (R277): the head, the sign, and the scale pairs (m, e) under 8d + 2g + p. -/
structure PlanBind where
  head : Option Nat := none
  sign : Bool := false
  scale : List (Nat × Nat) := []
  deriving DecidableEq, Repr

/-- A CONTEXTS entry (R277). -/
structure PlanCtx where
  c : Nat
  kind : Nat
  grp : Nat
  hmax : Nat
  key : Nat
  il : Nat
  evCfg : Word
  udin : Nat
  evTh : Word
  disRel : Nat
  disAbsV : Nat
  disAbsI : Nat
  bind : List PlanBind
  deriving DecidableEq, Repr

/-- A BALANCE entry (R278): terms are context, slot, minus. -/
structure PlanNode where
  node : Nat
  terms : List (Nat × Nat × Bool)
  tolAbs : Nat
  tolRel : Nat
  deriving DecidableEq, Repr

/-- A ROSTER entry (R278). -/
structure PlanRoster where
  ring : Nat
  stream : Nat
  scale : List (Nat × Nat)
  deriving DecidableEq, Repr

/-- A valid plan. -/
structure Plan where
  id : Word
  version : Nat
  rings : List PlanRing
  heads : List PlanHead
  groups : List PlanGroup
  ctxs : List PlanCtx
  nodes : List PlanNode
  /-- The 32 PULSES entries: configuration word, weight, width; empty when the section is absent. -/
  pulses : List (Word × Nat × Nat)
  rosterGroup : Nat
  rosterDwell : Nat
  roster : List PlanRoster
  /-- BUDGETS: blocks and share of each port. -/
  budgets : List (Nat × Nat)
  deriving DecidableEq, Repr

/-- PLAN_STAT.STATE. -/
inductive PlanSt where
  | none | loading | inForce | staging | staged | swapWait | preparing | switching
  deriving DecidableEq, Repr

/-- R266 to R292. -/
structure PlanIsl where
  st : PlanSt := .none
  cur : Option Plan := none
  next : Option Plan := none
  /-- The plan that the latest swap replaced: samples before T_sw are counted under it (R290). -/
  prev : Option Plan := none
  slot : Nat := 0
  fallback : Bool := false
  swapReplaced : Bool := false
  rejected : Bool := false
  result : Nat := 0
  stageSrc : Bool := false
  stageLen : Nat := 0
  swapAt : Nat := 0
  errSection : Nat := 0
  errEntry : Nat := 0
  errOffset : Nat := 0
  minver : Nat := 0
  histNext : Nat := 0
  histSel : Nat := 0
  histData : List Byte := List.replicate 64 0xFF
  /-- A write of PLAN_HIST_SEL waits for its copy. -/
  tsw : Tab Nat := []
  /-- The boot flash (R266). -/
  flash : Mem := []
  /-- R284: PLAN_CMD.STAGE_SRC and PLAN_STAGE_LEN as the staging in progress took them, its index, and whether a host has written the upload
  area since. -/
  runSrc : Bool := false
  runLen : Nat := 0
  stageAt : Nat := 0
  dirty : Bool := false
  /-- R284: the state staging started in, and who asked. -/
  stagedFrom : PlanSt := .none
  by_ : Nat × Nat := (15, 0)
  /-- R287: when preparation started, and the heads of the staged plan admitted in it. -/
  prepAt : Nat := 0
  /-- R287: the changed banks have been loaded; preparation has been cut off. -/
  loaded : Bool := false
  cut : Bool := false
  /-- R289: groups whose T_sw has passed, and groups whose contexts have moved at the commit of their last old window. -/
  switched : List Nat := []
  moved : List Nat := []
  /-- R286: PLAN_SWAP_AT as the request in progress took it. -/
  swapFrom : Nat := 0
  /-- R147: rings that feed no context and wait for a spare engine to take changed settings. -/
  freeMoves : List Nat := []
  deriving DecidableEq, Repr

/-! ## Chapter 6: frequency groups and the cycle resampler -/

/-- R164: tracker states, coded as FG_STAT.STATE. -/
inductive FgSt where
  | off | search | acquire | locked | hold | free
  deriving DecidableEq, Repr

/-- One cycle whose step is fixed (R154, R156, R166). -/
structure Cyc where
  /-- The position of its first sample, in 2^-32 output period. -/
  p0 : Nat
  step : Nat
  f : Nat
  unlocked : Bool
  held : Bool
  /-- The N and M by which its positions are read. -/
  gn : Nat := 5
  gm : Nat := 12
  /-- R170: where the settings move falls inside its first period: that sample's position, N and M. -/
  old0 : Option (Nat × Nat × Nat) := none
  deriving DecidableEq, Repr

/-- The tracker settings (FG_CTRL). -/
structure FgCtrl where
  bw : Nat := 1
  presence : Nat := 20
  holdMax : Nat := 500
  deriving DecidableEq, Repr

/-- A running 10-second interval (R171). -/
structure F10 where
  start : Nat
  first : Option Nat := none
  last : Nat := 0
  n : Nat := 0
  unlocked : Bool := false
  deriving DecidableEq, Repr

/-- One cycle sample (R159). -/
structure CSample where
  m : Nat
  val : Int
  cls : Nat
  det : Bool
  subst : Bool
  step : Nat
  csat : Bool
  unlocked : Bool
  held : Bool
  fade : Bool
  /-- The fine timestamp, in 2^-16 tick (R154). -/
  tau : Int
  deriving DecidableEq, Repr

/-- One frequency group (R152 to R172). -/
structure Grp where
  st : FgSt := .off
  started : Bool := false
  startIdx : Nat := 0
  cycles : Tab Cyc := []
  /-- Cycles completed (FG_CYCLE is one less). -/
  done : Nat := 0
  /-- R163: the accumulated slip, and the phasor argument of the previous cycle with its reference. -/
  p : Int := 0
  prev : Option (Nat × Nat) := none
  /-- R168: 0 to 2 the reference in use, 3 none. -/
  ref : Nat := 3
  range : Bool := false
  /-- The window in which FG_RANGE was last logged. -/
  rangeWin : Option Nat := none
  lockLost : Bool := false
  refSwitched : Bool := false
  goodRun : Nat := 0
  badRun : Nat := 0
  noRef : Nat := 0
  slip : Int := 0
  reacq : Bool := false
  ctrl : FgCtrl := {}
  /-- R24: writes of FG_CTRL that wait for the first window that begins after them: index and fields, newest first. -/
  ctrlWr : List (Nat × FgCtrl) := []
  /-- The active bank, both banks and the fade (R169). -/
  bankB : Bool := false
  hA : List Int := []
  hB : List Int := []
  fadeAt : Option Nat := none
  fadeLen : Nat := 1
  fadeLeft : Nat := 0
  /-- Tw(k) by window (R155), and the flags of each open window. -/
  tw : Tab Nat := []
  wflags : Tab Nat := []
  /-- The number of windows closed (R155). -/
  closed : Nat := 0
  /-- Where the first window of this group's life is not window 1 (R459): windows before it, and cycles. -/
  winBase : Nat := 0
  /-- Committed (R171, R172). -/
  k : Nat := 0
  close : Nat := 0
  wfreq : Nat := 0
  f10s : Nat := 0
  wflagsC : Nat := 1
  f10 : Option F10 := none
  /-- R171: starts of 10-second intervals not yet met by a cycle's end, and results by their interval's end. -/
  bounds : List Nat := []
  f10Ready : List (Nat × Nat) := []
  /-- R171: counted boundaries since the group's start. -/
  secs : Nat := 0
  lockLosses : Nat := 0
  refSwitches : Nat := 0
  csat : Nat := 0
  /-- R289: the switch falls at the first window close at or after this index, while a swap waits for the group. -/
  tsw : Option Nat := none
  /-- The N and M by which positions are read. -/
  n : Nat := 5
  m : Nat := 12
  deriving DecidableEq, Repr

/-- The resampler island: groups, and per binding (8 times the context plus the slot) the next sample number, the
hamper's cycle samples, newest first, and the corrections ε of R157. -/
structure Resamp where
  grp : Tab Grp := []
  next : Tab Nat := []
  hamper : Tab (List CSample) := []
  /-- Completion tokens waiting for the commit sequencer: group, window, unit. -/
  tokens : List (Nat × Nat × Nat) := []
  deriving DecidableEq, Repr

/-! ## Chapter 7: energy -/

/-- One accumulator (R183, R184). -/
structure Acc where
  val : Nat := 0
  wrap : Bool := false
  /-- The hidden residue. -/
  r : Nat := 0
  deriving DecidableEq, Repr

/-- The flat part of one window of one context (R178, R189): sums by phase, 0 the total. -/
structure FlatPart where
  a : List Int := [0, 0, 0, 0]
  flags : Nat := 0
  gapFirst : Option Nat := none
  gapLast : Nat := 0
  /-- The phases with a gap, phase k at bit k − 1. -/
  gapPh : Nat := 0
  deriving DecidableEq, Repr

/-- The cycle part (R180). -/
structure CycPart where
  af : List Int := [0, 0, 0, 0]
  q : List Int := [0, 0, 0, 0]
  sv : List Int := [0, 0, 0, 0]
  sa : List Int := [0, 0, 0, 0]
  flags : Nat := 0
  gapFirst : Option Nat := none
  gapLast : Nat := 0
  gapPh : Nat := 0
  deriving DecidableEq, Repr

/-- R307: a flat checkpoint of a context: the index it was taken at, the next instant, the flat parts by window, the tail sums. -/
structure FlatCk where
  at_ : Nat := 0
  next : Option Nat := none
  parts : Tab FlatPart := []
  tail : List Int := [0, 0, 0, 0]
  deriving DecidableEq, Repr

/-- R307: a per-cycle checkpoint of a context: the next cycle and the cycle parts by window. -/
structure CycCk where
  cyc : Nat := 0
  parts : Tab CycPart := []
  deriving DecidableEq, Repr

/-- One binding's flat sample after selection (R176): its class and, where it is counted, its scaled value. -/
structure Sel where
  cls : Nat
  val : Option Int
  deriving DecidableEq, Repr

/-- R307: the flat samples of one instant after selection: the instant in half ticks, the index they were selected at, by slot. -/
structure FlatKept where
  t2 : Int
  at_ : Nat
  sels : List Sel
  deriving DecidableEq, Repr

/-- What the harmonic engine delivers with its token (R181): E_h per phase summed, and per order of the total. -/
structure HarmPart where
  bh : List Int := [0, 0, 0, 0]
  eh : List Int := []
  skip : Bool := true
  deriving DecidableEq, Repr

/-- One window of one context. -/
structure CWin where
  flat : FlatPart := {}
  cyc : CycPart := {}
  harm : HarmPart := {}
  deriving DecidableEq, Repr

/-- A pending preset (R188). -/
structure Preset where
  acc : Nat
  val : Nat
  effAt : Nat
  role : Nat
  host : Nat
  deriving DecidableEq, Repr

/-- One metering context (R173 to R198). -/
structure Ctx where
  acc : Tab Acc := []
  wins : Tab CWin := []
  /-- The next flat sample instant lies at or after this time, in half ticks; and the next cycle. -/
  nextFlat : Option Nat := none
  nextCyc : Nat := 0
  /-- R307, R308: the two latest flat and the two latest per-cycle checkpoints, newest first: the older one stays until a newer
  one is complete. -/
  ckFlat : List FlatCk := []
  ckCyc : List CycCk := []
  /-- R307: the flat samples after selection of the last 768 ticks, newest first. -/
  kept : List FlatKept := []
  /-- R313: a phase lacked its samples at the latest flat instant. -/
  inGap : Bool := false
  /-- Committed. -/
  stat : Nat := 0
  k : Nat := 0
  close : Nat := 0
  gapFirst : Nat := 0
  gapLast : Nat := 0
  sticky : Nat := 0
  serving : Nat := 0
  /-- CTX_PRESET_SEL.ACC, CTX_PRESET_VAL and the pending preset. -/
  presetAcc : Nat := 0
  presetVal : Nat := 0
  preset : Option Preset := none
  /-- R194: CARRIED (2) or NEW (1) for the next commit. -/
  fresh : Nat := 0
  /-- R30, R459: the first tick of a gap that lasts until the first counted sample. -/
  gapFrom : Option Nat := none
  /-- R459: the index of the first counted flat sample of that start, once it has come. -/
  gapTo : Option Nat := none
  /-- R457, R459: window sums of the old epoch or of the window open at the alarm, added at the first commit, and the
  windows of the old epoch that closed without a commit. -/
  carry : List CWin := []
  /-- R446: the tail sums A over the flat samples from W on. -/
  tail : List Int := [0, 0, 0, 0]
  /-- R299: a head bound here disagreed in a window of another group, its home group: the index from which a window that closes here
  carries the flag. -/
  disPend : List Nat := []
  /-- R306: the window from which a unit that joined an empty pool serves the context. -/
  unitFrom : Nat := 0
  deriving DecidableEq, Repr

/-- What a context latch holds (R187). -/
structure CtxLatch where
  ctx : Nat
  acc : Tab Acc
  stat : Nat
  sticky : Nat
  k : Nat
  close : Nat
  gapFirst : Nat
  gapLast : Nat
  deriving DecidableEq, Repr

/-- One tally unit (R192, R193, R312). -/
structure Unit' where
  retired : Bool := false
  /-- Indices of the latest faults, newest first. -/
  faults : List Nat := []
  /-- R308: replaying since this fault index. -/
  replay : Option Nat := none
  transients : Nat := 0
  /-- R307: the index of the latest flat checkpoint. -/
  ckAt : Option Nat := none
  deriving DecidableEq, Repr

/-- The tally island. -/
structure Tally where
  ctx : Tab Ctx := []
  /-- The unit serving each block of 20 contexts (R192); 15: none. Tokens go by the block, so a spare that takes a block over has
  the tokens that were sent for it (R311). -/
  unitOf : Tab Nat := []
  unit : Tab Unit' := []
  /-- R311, R445: the index of the latest fault that a tally unit replays, or has replayed. -/
  replayAt : Nat := 0
  deriving DecidableEq, Repr

/-! ## Chapter 8: pulses -/

/-- The assignment of a pulse output (R199). -/
structure PlsCfg where
  mode : Nat := 0
  pol : Bool := false
  acc : Nat := 0
  ctx : Nat := 0
  weight : Nat := 0x10000
  deriving DecidableEq, Repr

/-- A write of PLS_OUT_CFG, WEIGHT or WIDTH that waits for its window (R206): the registers after it, its index, role and host port. -/
structure OutChange where
  at_ : Nat
  host : Nat
  role : Nat
  /-- It rebases the output. -/
  rebase : Bool
  cfg : PlsCfg
  width : Nat
  deriving DecidableEq, Repr

/-- An assignment of a pulse output with the index of the first window it is for (R206); `rebase`: its first credit starts at ρ = 0. -/
structure OutUse where
  from_ : Nat
  cfg : PlsCfg
  rebase : Bool
  /-- The group whose windows it credits; none: that of the context, as the plan of the window has it. -/
  grp : Option Nat
  deriving DecidableEq, Repr

/-- One pulse output (R199 to R208). -/
structure PulseOut where
  /-- The registers as written, and the assignment in force. -/
  cfg : PlsCfg := {}
  cur : PlsCfg := {}
  /-- PLS_OUT_WIDTH as written, and the width in force. -/
  width : Nat := 2
  curWidth : Nat := 2
  /-- R206: the writes that wait for their window, newest first. -/
  changes : List OutChange := []
  /-- R206, R207: the assignments of the windows still to be credited, newest first. -/
  uses : List OutUse := []
  rho : Nat := 0
  pend : Nat := 0
  credited : Nat := 0
  issued : Nat := 0
  /-- R206: the number of the window from which P and C count (PLS_OUT_BASE). -/
  base : Nat := 0
  /-- R203: the rate. -/
  nu : Nat := 0
  phase : Nat := 0
  /-- The pulse in progress and the units left of it; starts that wait for its end (R204), still counted in P. -/
  active : Bool := false
  left : Nat := 0
  due : Nat := 0
  ovf : Bool := false
  rebased : Bool := false
  lost : Nat := 0
  /-- R208: no pulse starts before the first commit of the group has credited. -/
  hold : Bool := false
  /-- R208: stopped by a warning. -/
  stopped : Bool := false
  deriving DecidableEq, Repr

/-- One legacy pulse input (R209 to R213). -/
structure PulseIn where
  mode : Nat := 0
  edge : Bool := false
  dir : Nat := 0
  unit : Nat := 0
  groupEn : Bool := false
  group : Nat := 0
  debounce : Nat := 0
  weight : Nat := 0x10000
  level : Bool := false
  /-- R209: ticks for which a level other than the accepted one has held. -/
  run : Nat := 0
  /-- Accepted changes to the active level that wait to be counted: index, and the partner's accepted level (R210). -/
  edges : List (Nat × Bool) := []
  glitch : Nat := 0
  count : Nat := 0
  last : Nat := 0
  imp : Acc := {}
  exp : Acc := {}
  /-- R211: the accumulators without what `log` still lists, and the committed mirror. -/
  bImp : Acc := {}
  bExp : Acc := {}
  cImp : Acc := {}
  cExp : Acc := {}
  cWin : Nat := 0
  /-- R211: the latest edges and presets, oldest first: index, whether a preset, whether export, and the weight or value. -/
  log : List (Nat × Bool × Bool × Nat) := []
  presetVal : Nat := 0
  presetDir : Bool := false
  /-- R212: a preset waits for the next tick: index of GO, host port, role. -/
  presetGo : Option (Nat × Nat × Nat) := none
  stopped : Bool := false
  deriving DecidableEq, Repr

/-- The pulse part of the tally island. -/
structure Pulse where
  out : Tab PulseOut := []
  inp : Tab PulseIn := []
  deriving DecidableEq, Repr

/-! ## Chapter 9: spectra -/

/-- One window of one binding in a harmonic engine: scaled samples, newest first, and what they carried. -/
structure HarmWin where
  y : List Int := []
  held : Bool := false
  faded : Bool := false
  clip : Bool := false
  subst : Bool := false
  gap : Bool := false
  unsettled : Bool := false
  deriving DecidableEq, Repr

/-- An aggregation in progress (R231, R232). Squares of real values are kept as exact fractions (numerator, denominator). -/
structure Agg where
  first : Nat := 0
  last : Nat := 0
  /-- VALID windows, all windows, and for the 2-hour level the 10-minute aggregates with n > 0. -/
  n : Nat := 0
  wins : Nat := 0
  m : Nat := 0
  /-- Summed squares: G_sg 0 to 50, G_isg 0 to 50, THD, TDD. -/
  sq : List (Nat × Nat) := []
  flagged : Bool := false
  early : Bool := false
  held : Bool := false
  notAligned : Bool := false
  deriving DecidableEq, Repr

/-- Results of one window of one binding. -/
structure HarmRes where
  k : Nat := 0
  fund : Nat := 0
  thd : Nat := 0
  tdd : Nat := 0
  /-- SP_BFLAGS. -/
  flags : Nat := 2
  deriving DecidableEq, Repr

/-- One binding in the spectral island. -/
structure SpBind where
  /-- The next cycle sample to take. -/
  next : Nat := 0
  wins : Tab HarmWin := []
  /-- R307, R308: the two latest per-cycle checkpoints of the engine for this binding, newest first: the sample after it, and what had been
  taken. -/
  ck : List (Nat × Tab HarmWin) := []
  a150 : Agg := {}
  a10 : Agg := {}
  a2h : Agg := {}
  /-- The window to commit, and the committed one. -/
  pend : Option HarmRes := none
  res : HarmRes := {}
  deriving DecidableEq, Repr

/-- R231: a 10-minute tick: its index, whether it is a 2-hour tick, whether it is aligned, and whether a write of SP_UTC took effect
since the tick before it. -/
structure SpTick where
  at_ : Nat
  two : Bool
  aligned : Bool
  moved : Bool
  deriving DecidableEq, Repr

/-- One group in the spectral island (R228, R231). -/
structure SpGrp where
  /-- 10-minute ticks not yet met by a window close. -/
  ticks : List SpTick := []
  /-- R231: SP_UTC has changed since the last tick. -/
  moved : Bool := false
  /-- Counted boundaries since the group's first window close. -/
  secs : Option Nat := none
  /-- Windows in the 150/180-cycle interval so far. -/
  in150 : Nat := 0
  /-- R231: the ticks of the latest counted boundary were aligned. -/
  aligned : Bool := false
  /-- Committed: the window and the levels it completed. -/
  k : Nat := 0
  ends : Nat := 0
  deriving DecidableEq, Repr

/-- One engine of the spectral island (0 to 4 harmonic, 5 and 6 supraharmonic). -/
structure SpEng where
  retired : Bool := false
  replays : Nat := 0
  upsets : Nat := 0
  faults : List Nat := []
  /-- R217: replaying since this fault index, and whether it takes a block over. -/
  replay : Option Nat := none
  taking : Bool := false
  testing : Bool := false
  /-- A supraharmonic engine: the last window it has done. -/
  doneK : Nat := 0
  deriving DecidableEq, Repr

/-- A raw sample of a roster stream (R143). -/
structure Raw where
  idx : Nat
  code : Int
  cls : Nat
  step : Nat
  deriving DecidableEq, Repr

/-- A window of a lane: scaled samples newest first, and what was seen. -/
structure ShWin where
  z : List Int := []
  gap : Bool := false
  clip : Bool := false
  deriving DecidableEq, Repr

/-- A round of visits (R236): its number, its first window, its dwell, and whether both engines serve it. -/
structure ShRound where
  v : Nat
  k0 : Nat
  d : Nat
  both : Bool
  /-- The engine that serves alone. -/
  solo : Nat
  deriving DecidableEq, Repr

/-- One lane (R236 to R240). -/
structure ShLane where
  /-- The queue of the selector, oldest first. -/
  queue : List Raw := []
  wins : Tab ShWin := []
  /-- The visit in progress: entry, first window, last window analysed, VALID windows, the summed squares of the bands,
  and what was seen. -/
  entry : Option Nat := none
  first : Nat := 0
  last : Nat := 0
  n : Nat := 0
  sq : List (Nat × Nat) := []
  clip : Bool := false
  gap : Bool := false
  engine : Bool := false
  deriving DecidableEq, Repr

/-- R243: a roster that a swap brings in, until the windows before its T_sw have been analysed: T_sw and the old reference group's last
window before it, and what comes into force. -/
structure ShSwap where
  w : Nat
  k : Nat
  roster : List PlanRoster
  refGrp : Nat
  dwell : Nat
  deriving DecidableEq, Repr

/-- The spectral island. -/
structure Spec where
  bind : Tab SpBind := []
  grp : Tab SpGrp := []
  eng : Tab SpEng := []
  /-- The harmonic engine serving each block of 40 contexts; 15: none. R306: the window from which an engine that joined an
  empty pool serves a context. -/
  blkEng : Tab Nat := []
  from_ : Tab Nat := []
  utcSet : Bool := false
  utc : Nat := 0
  /-- R231: the offset in force since the last counted boundary, and whether it was SET there. -/
  utcNow : Nat := 0
  utcSetNow : Bool := false
  /-- The roster in force, its reference group and its dwell (R235, R243). -/
  roster : List PlanRoster := []
  refGrp : Nat := 0
  dwell : Nat := 0
  /-- R24: writes of SH_CFG.DWELL with their indices, newest first, that a round still to begin may take. -/
  dwellWr : List (Nat × Nat) := []
  lane : Tab ShLane := []
  /-- Raw samples of roster streams (256 times the ring plus the stream) whose window is not known yet, oldest first. -/
  rawWait : List (Nat × Raw) := []
  /-- The rounds from that of the reference group's last committed window on, newest first; none before its first window. -/
  rounds : List ShRound := []
  /-- R243: a swap's roster that waits for the old one's last windows. -/
  swap : Option ShSwap := none
  /-- R243: round 0 restarts with the first window of the reference group that begins at or after this index. -/
  restart : Option Nat := none
  /-- The window whose page is being written or was written last, and the committed one (R239). -/
  shPage : Nat := 0
  shK : Nat := 0
  /-- R444: the island has been shed at a warning. -/
  shed : Bool := false
  deriving DecidableEq, Repr

/-! ## Chapter 10: events -/

/-- Event settings (R250, R255). -/
structure EvSet where
  enable : Bool := false
  intRule : Bool := false
  hyst : Nat := 20
  udin : Nat := 0
  th : Word := 0x899C2320
  deriving DecidableEq, Repr

/-- One detector (R251 to R254): sag, swell or interruption. Instants are in 2^-33 tick. -/
structure Detec where
  active : Bool := false
  /-- Channels now in, and channels that went in during the event, channel ch at bit ch − 1. -/
  inNow : Nat := 0
  went : Nat := 0
  init : Nat := 0
  jStart : Nat := 0
  start : Int := 0
  ext : List (Option Nat) := [none, none, none]
  flags : Nat := 0
  /-- R254: consecutive values not evaluable, per channel. -/
  bad : List Nat := [0, 0, 0]
  deriving DecidableEq, Repr

/-- An ended event that waits to be written (R256). -/
structure EvRec where
  ctx : Nat
  grp : Nat
  typ : Nat
  init : Nat
  went : Nat
  start : Int
  fin : Int
  durHc : Nat
  flags : Nat
  ext : List (Option Nat)
  udin : Nat
  win : Nat
  deriving DecidableEq, Repr

/-- The committed event status of a context (R259). -/
structure EvCom where
  armed : Bool := false
  down : Bool := false
  z : Nat := 0
  active : Nat := 0
  noeval : Nat := 0
  sags : Nat := 0
  swells : Nat := 0
  ints : Nat := 0
  opens : List Nat := [0, 0, 0]
  wrms : List Nat := [0, 0, 0]
  wvalid : Nat := 0
  deriving DecidableEq, Repr

/-- One context in the event unit. -/
structure EvCtx where
  /-- The settings in force in the window being evaluated, and the writes after it: index and settings, newest first
  (R24, R255). -/
  set_ : EvSet := {}
  wr : List (Nat × EvSet) := []
  /-- R246: z from a sample number on, newest first, and cycles whose phase is to give a new z. -/
  zs : List (Nat × Nat) := [(0, 0)]
  zAsk : List Nat := []
  /-- The boundary of the last half-cycle value (the next one after 256 is the first), and the number of the next value. -/
  lastB : Nat := 256
  j : Nat := 0
  armed : Bool := false
  sag : Detec := {}
  swell : Detec := {}
  int_ : Detec := {}
  urms : List Nat := [0, 0, 0]
  /-- The last value: its number, end instant and window, for events that are closed with ABORTED. -/
  lastJ : Nat := 0
  lastEnd : Int := 0
  lastWin : Nat := 0
  /-- R249: sums of the running windows by channel, the channels that failed, and the next sample to add. -/
  wsum : Tab (List Nat × Nat) := []
  wNext : Nat := 0
  noeval : Nat := 0
  sags : Nat := 0
  swells : Nat := 0
  ints : Nat := 0
  /-- Windows in which an event was open (R226), newest first. -/
  evWins : List Nat := []
  recs : List EvRec := []
  pend : Option EvCom := none
  com : EvCom := {}
  /-- R290: values whose samples straddle this sample number are not evaluable. -/
  straddle : Option Nat := none
  deriving DecidableEq, Repr

/-- The event unit. -/
structure Ev where
  ctx : Tab EvCtx := []
  ringNext : Nat := 0
  down : Bool := false
  residue : Nat := 0
  faults : List Nat := []
  /-- The last window that it has finished, by group. -/
  doneK : Tab Nat := []
  /-- The groups and windows of records written and not yet committed. -/
  fresh : List (Nat × Nat) := []
  deriving DecidableEq, Repr

/-! ## Chapter 12: redundancy -/

/-- One staircase output instant of a head, as the pair comparator takes it (R297): classes, steps and values. -/
structure PairOut where
  nlast : Nat
  /-- R133: the M of the engine that made them, and their τ in half ticks (R63). -/
  decim : Nat
  tau2 : Int
  clsP : Nat
  clsA : Nat
  stepP : Nat
  stepA : Nat
  p : Int
  a : Int
  deriving DecidableEq, Repr

/-- The committed arbitration of a head (R313). -/
structure RedCom where
  serving : Bool := false
  next : Bool := false
  disagree : Bool := false
  decision : Nat := 0
  noTest : Bool := false
  diff : Nat := 0
  againstP : Nat := 0
  againstA : Nat := 0
  deriving DecidableEq, Repr

/-- The arbitration of one head (R296 to R303). -/
structure RedHead where
  outs : List PairOut := []
  /-- The serving detector by window; the primary where none is listed. -/
  serve : Tab Bool := []
  /-- Decisions of the last 10 windows, newest first: 0 none or undecided, 1 for P, 2 for A. -/
  hist : List Nat := []
  /-- The running disagreement: its length in windows and its last decision. -/
  run : Nat := 0
  lastDec : Nat := 0
  /-- R306: no test before this index; until then the partner of the restored detector serves. -/
  testFrom : Nat := 0
  back : Option Bool := none
  com : RedCom := {}
  deriving DecidableEq, Repr

/-- A balance node's committed result (R313). -/
structure RedNode where
  result : Nat := 0
  head : Nat := 0
  choice : Bool := false
  resP : Nat := 0
  resA : Nat := 0
  tol : Nat := 0
  deriving DecidableEq, Repr

/-- R293 to R313. -/
structure Red where
  head : Tab RedHead := []
  node : Tab RedNode := []
  noSpare : Bool := false
  maxLag : Nat := 0
  /-- RED_TALLY.REPLAYS and FAULTS by unit; testing items. -/
  tReplays : Tab Nat := []
  tFaults : Tab Nat := []
  tTesting : Tab Bool := []
  selKind : Nat := 0
  selIndex : Nat := 0
  busy : Bool := false
  result : Nat := 0
  /-- The item and who asked: kind, index, host port, role. -/
  job : Option (Nat × Nat × Nat × Nat) := none
  /-- R31: the steward is restarting. -/
  stewardDown : Bool := false
  deriving DecidableEq, Repr

/-! ## Chapter 13: the local converter -/

/-- A sequence entry (R320). -/
structure LcEnt where
  chan : Nat := 0
  diff : Bool := false
  align : Bool := false
  fmt : Bool := false
  fifo : Bool := false
  repeat_ : Nat := 0
  delay : Nat := 0
  deriving DecidableEq, Repr

/-- A conversion that a slice works on (R314, R329). -/
structure LcConv where
  /-- The slice, and the CCLK left until delivery. -/
  slice : Nat
  wait : Nat
  raw : Int
  inj : Bool
  first : Bool
  stale : Bool
  entry : Nat
  rep : Nat
  ent : LcEnt
  idx : Nat
  /-- The trim word in force at sampling. -/
  trim : Word
  /-- A burst slot delivers no result: none, or what it samples (zero false, reference true). -/
  burst : Option Bool
  deriving DecidableEq, Repr

/-- An injected slot (R325). -/
structure LcInj where
  chan : Nat := 0
  diff : Bool := false
  align : Bool := false
  fmt : Bool := false
  delay : Nat := 0
  pending : Bool := false
  done : Bool := false
  result : Nat := 0
  res : Word := 0
  tag : Word := 0
  idx : Nat := 0
  deriving DecidableEq, Repr

/-- What holds the converter now. -/
inductive LcNow where
  | seq
  | inj (s : Nat) (left : Nat)
  | burst (left : Nat)
  deriving DecidableEq, Repr

/-- R314 to R334. -/
structure Lc where
  /-- R320, R332: LEN reads 0, one entry. -/
  act : List LcEnt := [{}]
  shadow : Tab LcEnt := []
  shadowLen : Nat := 0
  commitPending : Bool := false
  run : Bool := false
  running : Bool := false
  /-- R323: RUN = 0 was written since the latest slot boundary. -/
  stopped : Bool := false
  ready : Bool := false
  badEntry : Bool := false
  stale : Bool := false
  down : Bool := false
  /-- The position: entry, repeat less 1, idle slots left before tracking. -/
  entry : Nat := 0
  rep : Nat := 0
  idle : Nat := 0
  /-- The next delivered result is the first of a pass. -/
  firstRes : Bool := true
  now_ : LcNow := .seq
  fly : List LcConv := []
  spare : Option Nat := some 8
  failed : Nat := 0
  rotations : Nat := 0
  /-- Background calibrations each slice has completed, and the order of the corrections' ages, oldest first. -/
  calib : List Nat := [0, 0, 0, 0, 0, 0, 0, 0, 0]
  ages : List Nat := [0, 1, 2, 3, 4, 5, 6, 7]
  /-- R315: the corrections of each slice: offset in LSB, gain in ppm, sample time. -/
  corr : Tab (Int × Int × Int) := []
  /-- R314, R315: the slice at each slot position, the position that takes the next slot, and the CCLK since the latest rotation. -/
  pos : List Nat := [0, 1, 2, 3, 4, 5, 6, 7]
  turn : Nat := 0
  sinceRot : Nat := 76800
  passes : Nat := 0
  owner : Nat := 0
  watermark : Nat := 0x200
  ovf : Bool := false
  lost : Nat := 0
  fifo : List (Word × Word × Nat) := []
  fifoLatch : Word × Nat := (0, 0)
  fifoLogAt : Option Nat := none
  inj : Tab LcInj := []
  last : Tab Word := []
  /-- R328: a burst asked for: the injected requests that were pending then; slots since the last burst. -/
  burstAsk : Option (List Nat) := none
  sinceBurst : Nat := 256
  /-- The codes of the running burst: zeros and references, and whether one carried OVR. -/
  burstZero : List Int := []
  burstRef : List Int := []
  burstOvr : Bool := false
  /-- R324: trims waiting for the wrap: set and word. -/
  trimWait : List (Nat × Word × Nat) := []
  deriving DecidableEq, Repr

/-! ## Chapter 14: calibration -/

/-- CAL_Q.STATE. -/
inductive CalSt where
  | free | queued | waiting | measuring | applying
  deriving DecidableEq, Repr

/-- An outing slot (R338 to R349). -/
structure CalQ where
  st : CalSt := .free
  result : Nat := 0
  kind : Nat := 0
  det : Bool := false
  index : Nat := 0
  passes : Nat := 0
  /-- The order in which it was asked for, and when it started. -/
  order : Nat := 0
  startAt : Nat := 0
  tmo : Nat := 0
  /-- R342: AT_on of the running pass. -/
  atOn : Option Nat := none
  /-- R343: counted outputs per phase: count and sum; whether the pass has been spoiled. -/
  cnt : List Nat := [0, 0, 0, 0]
  sum : List Int := [0, 0, 0, 0]
  /-- The step of the pass, and the index from which every sample so far has been OK without OVR. -/
  step : Option Nat := none
  cleanFrom : Nat := 0
  /-- R345: the last valid proposal. -/
  prop : Option (Int × Int) := none
  /-- The correction being applied: the trim word, and AT once known. -/
  apply : Option Word := none
  deriving DecidableEq, Repr

/-- An entry of the calibration store (R350). -/
structure CalEnt where
  serial : BitVec 64 := 0
  trimP : Word
  trimA : Word
  srcP : Nat
  srcA : Nat
  /-- R351: the CRC is correct; a failure has been logged since the start. -/
  ok : Bool := true
  said : Bool := false
  deriving DecidableEq, Repr

/-- R335 to R356. -/
structure Cal where
  q : Tab CalQ := []
  order : Nat := 0
  op : Nat := 0
  det : Bool := false
  loc : Bool := false
  index : Nat := 0
  headTmo : Nat := 0xC8
  localTmo : Nat := 0x32
  imgBusy : Bool := false
  cmdResult : Nat := 0
  imgLen : Nat := 0
  unmatched : Nat := 0
  applied : Nat := 0
  /-- Local trims in force and their source. -/
  trimL : Tab (Word × Nat) := []
  /-- Source codes of the head trims in force, primary and alternate; 0 not admitted. -/
  srcH : Tab (Nat × Nat) := []
  /-- R190: by 2h + d, the index at which the detector last stopped running with neutral trims. -/
  neutTo : Tab Nat := []
  /-- The calibration store, by head number, and by 4,096 plus the local set. -/
  store : Tab CalEnt := []
  /-- The operation that IMG_BUSY covers: 3 or 4. -/
  imgOp : Nat := 0
  deriving DecidableEq, Repr

/-! ## Chapter 15: galleries -/

/-- R359: the power states, coded as GAL_PWR.STATE. -/
inductive GalPower where
  | off | clearing | retain | on
  deriving DecidableEq, Repr

/-- One gallery (R357 to R364, R371). -/
structure Gal where
  /-- The words, as bytes (R362); unlisted bytes are 0 (R361). -/
  mem : Mem := []
  power : GalPower := .off
  /-- GAL_PWR.REQ. -/
  req : Nat := 3
  /-- R360: the last access, from which a woken gallery idles back to RETAIN. -/
  lastAccess : Nat := 0
  /-- R361: early warning holds the gallery in RETAIN. -/
  shed : Bool := false
  /-- R360: an access has woken the gallery from RETAIN. -/
  woken : Bool := false
  /-- R362: the offsets of words found uncorrectable and not written since. -/
  bad : List Nat := []
  /-- R363: the index of the last scrub. -/
  scrubAt : Option Nat := none
  /-- GAL_ECC. -/
  corrected : Nat := 0
  uncorr : Nat := 0
  last : Nat := 0
  /-- GAL_COLL, and the index of the last GAL_COLLISION entry (R364). -/
  collSeen : Bool := false
  collUser : Nat := 0
  collHost : Nat := 0
  collCount : Nat := 0
  collOff : Nat := 0
  collLogAt : Option Nat := none
  deriving DecidableEq, Repr

/-- The memory test (R367 to R370). -/
structure MemTest where
  en : Bool := true
  borrowed : Bool := false
  noSpare : Bool := false
  /-- Segment to spare, in order of mapping (R368). -/
  remaps : List (Nat × Nat) := []
  segment : Nat := 0
  /-- The next segment to borrow. -/
  next : Nat := 0
  /-- Borrows in a row that the next segment has yielded (R369). -/
  yieldRun : Nat := 0
  yields : Nat := 0
  skipped : Nat := 0
  fails : Nat := 0
  /-- R370: the test has stopped for the warning. -/
  stopped : Bool := false
  /-- R367, R369: the index of the last borrow or yield. -/
  lastAt : Option Nat := none
  deriving DecidableEq, Repr

/-! ## Chapter 17: roles -/

/-- A challenge held (R409). -/
structure Chal where
  bytes : BitVec 256
  role : Nat
  at_ : Nat
  deriving DecidableEq, Repr

/-- The role state of one port. -/
structure RolePort where
  /-- R403: 0 none, 1 operator, 2 installer, 3 maker. -/
  role : Nat := 0
  result : Nat := 0
  chal : Option Chal := none
  fails : Nat := 0
  /-- R410: locked out until this index. -/
  lockUntil : Nat := 0
  /-- R412: the index of the last admitted request that needs a session. -/
  lastUse : Nat := 0
  openRole : Nat := 0
  resp : BitVec 256 := 0
  keyNew : BitVec 256 := 0
  keyTarget : Nat := 0
  /-- R407: the key being set, while BUSY. -/
  keyJob : Option (Nat × BitVec 256) := none
  /-- R407: the session that gave the command is still open. -/
  keyOwn : Bool := false
  keyResult : Nat := 0
  deriving DecidableEq, Repr

/-- An OTP plan key slot (R271, R408). -/
inductive OtpSlot where
  | empty
  | key (xy : List Byte)
  | revoked (xy : List Byte)
  deriving DecidableEq, Repr

/-- What the ports share (R405 to R417). -/
structure Role where
  port : Tab RolePort := []
  idle : Nat := 0x384
  holdoff : Nat := 10
  /-- R413: SUBMIT gives HELD until this index. -/
  heldUntil : Nat := 0
  operator : Option (BitVec 256) := none
  installer : Option (BitVec 256) := none
  /-- R406: the generations of the maker key above 0 that are programmed, in order. -/
  makers : List (BitVec 256) := []
  sealed : Bool := false
  otpOp : Nat := 0
  otpSlot : Nat := 0
  otpData : BitVec 512 := 0
  /-- R408: operation, slot and data in progress. -/
  otpJob : Option (Nat × Nat × BitVec 512) := none
  otpResult : Nat := 0
  otp : Tab OtpSlot := []
  /-- R416: ROLE_AUDIT_CNT. -/
  audit : Nat := 0
  deriving DecidableEq, Repr

/-! ## Chapter 18: tamper -/

/-- R424: the states of a monitor, coded as TMP_MON_STAT.STATE. -/
inductive MonState where
  | off | armed | tripped | test
  deriving DecidableEq, Repr

/-- One monitor (R418 to R425, R436). -/
structure Mon where
  enable : Bool := false
  response : Nat := 0
  opt : Bool := false
  count : Nat := 1
  window : Nat := 1
  state : MonState := .off
  /-- R424: the sample that opened the window, and the events counted in it. -/
  opened : Option Nat := none
  n : Nat := 0
  /-- R424: samples without the condition, or since the alarm, while TRIPPED. -/
  quiet : Nat := 0
  cond : Bool := false
  d1 : Bool := false
  d2 : Bool := false
  dis : Bool := false
  /-- R420: consecutive samples in which D1 and D2 disagreed. -/
  disRun : Nat := 0
  alarms : Nat := 0
  /-- Raw events that the main domain has sent for the next sample (R419: monitors 16 and 17). -/
  hits : Nat := 0
  /-- R422: which detector of monitor 16 found them. -/
  hitD1 : Bool := false
  hitD2 : Bool := false
  /-- R425: a write takes effect at the next sample: word 0 and word 1 as written. -/
  newCfg : Option (Word × Word) := none
  deriving DecidableEq, Repr

/-- R421: one wire loop. -/
structure Loop where
  r0 : Nat := 0
  rNow : Nat := 0
  /-- R0 is measured in the next sample. -/
  measure : Bool := false
  /-- The state of the PRBS-15 generator, and the last bit it drove. -/
  prbs : Nat := 0
  lastBit : Bool := false
  deriving DecidableEq, Repr

/-- R418 to R436. -/
structure Tmp where
  mon : Tab Mon := []
  loop : Tab Loop := []
  /-- The cloakroom's sample count (R419). -/
  sample : Nat := 0
  batterySeen : Bool := false
  lastResp : Nat := 0
  lastIdx : Nat := 0
  lastMons : Nat := 0
  lastBattery : Bool := false
  lastStep : Bool := false
  /-- R430, R431: the evidence counter, and the pending latch. -/
  otpCount : Nat := 0
  pending : Nat := 0
  pendSat : Bool := false
  /-- R432: the strongest response of the period on the cell. -/
  kept : Nat := 0
  /-- R434: the monitor under test, samples done, whether every sample so far met the test. -/
  test : Option (Nat × Nat × Bool) := none
  testResult : Nat := 0
  testMon : Nat := 18
  tempHi : Int := 125
  tempLo : Int := -45
  shadowCount : Nat := 0
  shadowAddr : Nat := 0
  /-- R423: monitors 16 to 19, 21 and 22 are stopped by a warning until the next release. -/
  stopped : Bool := true
  /-- R13: monitor 21 held its condition until this sample. -/
  refBadAt : Option Nat := none
  deriving DecidableEq, Repr

/-! ## Chapter 19: power, save and start-up -/

/-- PWR_STAT.STATE. -/
inductive PwrSt where
  | start | normal | warning | saved
  deriving DecidableEq, Repr

/-- What a save record holds of a context (R445). -/
structure SaveCtx where
  /-- The context as the plan then in force declared it, and its committed state. -/
  x : PlanCtx
  /-- The key under which it ran, by which the tail names it (R446). -/
  key : Nat
  y : Ctx
  /-- Windows closed at or before W without a commit, then the open window: their sums, oldest first. -/
  open_ : List CWin
  deriving DecidableEq, Repr

/-- A save record (R445, R448). -/
structure SaveRec where
  seq : Nat
  epoch : Nat
  idx : Nat
  /-- True: a warning record. -/
  warning : Bool
  ctx : List SaveCtx
  pulses : Tab PulseOut
  inputs : Tab PulseIn
  /-- Retired: streams as 2h + d, ports, staircase engines, tally units, spectral engines, event unit. -/
  retired : List (Nat × Nat)
  sealed : Bool
  operator : Option (BitVec 256)
  installer : Option (BitVec 256)
  audit : Nat
  mons : Tab Mon
  loops : Tab Loop
  tempHi : Int
  tempLo : Int
  minver : Nat
  slot : Nat
  pfwEn : Bool
  ewThr : Nat
  period : Nat
  logNext : Nat
  warnings : Nat
  deriving DecidableEq, Repr

/-- The tail block (R446): epoch, W, T_end, per context the sums by phase; valid or void. -/
structure Tail where
  epoch : Nat
  w : Nat
  tEnd : Nat
  sums : List (Nat × List Int)
  deriving DecidableEq, Repr

/-- R437 to R461. -/
structure Pwr where
  st : PwrSt := .start
  ewSrc : Nat := 0
  single : Bool := false
  saveDisagree : Bool := false
  saveFail : Bool := false
  railsPg : Nat := 0
  pfwEn : Bool := true
  ewThr : Nat := 85
  period : Nat := 10
  /-- The main domain runs (released and not stopped). -/
  mainOn : Bool := false
  /-- R438: PG has been reached and the start-up has begun. -/
  pg : Bool := false
  /-- W and its progress. -/
  w : Nat := 0
  /-- The totals record is complete in both copies. -/
  recDone : Bool := false
  recGone : Bool := false
  /-- R450: the sequence number of the warning record being written. -/
  warnSeq : Option Nat := none
  copyA : Option SaveRec := none
  copyB : Option SaveRec := none
  /-- R452: the epoch words. -/
  epochs : List Nat := []
  /-- The halves of the tail block and whether the next copy goes to the second. -/
  tailA : Option Tail := none
  tailB : Option Tail := none
  tailNext : Bool := false
  /-- R446: the index of the last copy of the tail sums. -/
  tailAt : Nat := 0
  /-- The tail block is void (R447, R457). -/
  tailVoid : Bool := true
  statSeq : Nat := 0
  statKind : Bool := false
  statCopies : Nat := 0
  statIdx : Nat := 0
  lastValid : Bool := false
  lastRecord : Bool := false
  lastTail : Nat := 0
  lastSrc : Nat := 0
  lastEpoch : Nat := 0
  lastW : Nat := 0
  lastTailEnd : Nat := 0
  outage : Nat := 0xFFFFFFFF
  otpMs : Nat := 0
  loadMs : Nat := 0
  warnings : Nat := 0
  saveErr : Nat := 0
  /-- R453, R455: a block of backup SRAM was void at the latest PG, and the whole cloakroom had lost its contents. -/
  bakLost : Bool := false
  cloakLost : Bool := false
  /-- R461: the RTC at T_stop, for OUTAGE. -/
  stopRtc : Option Nat := none
  /-- The record chosen at the latest start (R451), for the plan load. -/
  chosen : Option SaveRec := none
  /-- R458: groups that have made their first commit of the epoch. -/
  firstDone : List Nat := []
  /-- R449: an extra periodic save is due, and the index of the latest periodic save. -/
  saveDue : Bool := false
  saveAt : Nat := 0
  /-- R447: the record of the latest warning was abandoned: W + 2,304; until a later record is complete. -/
  lateEnd : Option Nat := none
  /-- The newest record is one of a FULL_RESET (R459): no tail belongs to it. -/
  resetRec : Bool := false
  /-- R454: the RTC in TAI seconds, and R453: the cloakroom runs from VIO33. -/
  rtc : Nat := 0
  fromVio : Bool := false
  /-- R459: a FULL_RESET has been called for: the alarm's tick; the reset is running its start-up. -/
  resetAt : Option Nat := none
  /-- R459: the main domain restarts; the timebase runs on. -/
  resetting : Bool := false
  /-- PWR_BOOT.LOAD_MS: the index from which it counts, and the time held before it, in ms (R456). -/
  pgAt : Nat := 0
  heldMs : Nat := 0
  /-- R458: the warning came before every group had made its first commit: no record is written. -/
  interrupted : Bool := false
  /-- R457, R455, R447: what the first commits log: true, W and T_end (TAIL_ADDED), or false and the bounds of ENERGY_UNSAVED. -/
  note : Option (Bool × Nat × Nat) := none
  deriving DecidableEq, Repr

/-! ## Chapter 20: the trouble log -/

/-- A trouble record on its way to the log, or an entry of the mirror (R462). -/
structure LogEnt where
  code : Nat
  sev : Nat
  always : Bool
  battery : Bool := false
  when_ : Nat
  epoch : Nat
  /-- DATA of R465, over all entries of the record. -/
  data : List Byte
  deriving DecidableEq, Repr

/-- The trouble channel of one island (R15, R468). -/
structure LogSrc where
  chan : List LogEnt := []
  /-- Always-logged entries waiting in their island for a place. -/
  waiting : List LogEnt := []
  drops : Nat := 0
  dropFirst : Nat := 0
  dropLast : Nat := 0
  deriving DecidableEq, Repr

/-- A suppression span of one code (R469). -/
structure Span where
  start : Nat
  written : Nat
  count : Nat
  deriving DecidableEq, Repr

/-- A written entry as the mirror holds it (R471): one of the entries of a record. -/
structure MirrorEnt where
  seq : Nat
  ent : LogEnt
  more : Bool
  cont : Bool
  /-- It has been copied into the log. -/
  copied : Bool
  deriving DecidableEq, Repr

/-- The acknowledgement of one port (R473). -/
structure LogPort where
  ack : Nat := 0xFFFFFFFF
  tracking : Bool := false
  overrun : Bool := false
  lost : Nat := 0
  deriving DecidableEq, Repr

/-- R462 to R474. -/
structure Log where
  src : Tab LogSrc := []
  span : Tab Span := []
  /-- LOG_NEXT, and the value the cloakroom keeps (R471). -/
  next : Nat := 0
  cloakNext : Nat := 0
  dropped : Nat := 0
  suppressed : Nat := 0
  /-- R471: the last 256 mirrored entries, newest first; void after a loss of VBAK (R453). -/
  mirror : List MirrorEnt := []
  mirrorVoid : Bool := true
  mirrorLost : Nat := 0
  mirrorBattery : Bool := false
  port : Tab LogPort := []
  deriving DecidableEq, Repr

/-! ## Chapter 16: host ports -/

/-- A reply frame (R379) in a reply queue. -/
structure Reply where
  seq : Nat
  bytes : List Byte
  /-- R382: a queued copy takes no vestibule entry. -/
  copy : Bool := false
  deriving DecidableEq, Repr

/-- A waiting FENCE (`group` none) or FENCE_COMMIT (R390, R391). -/
structure Fence where
  seq : Nat
  /-- Posted words of the port numbered below this must have taken effect. -/
  before : Nat
  group : Option Nat := none
  /-- R391: the index at which the last of those writes had taken effect. -/
  effAt : Option Nat := none
  deriving DecidableEq, Repr

/-- A word posted to its target island (R386). -/
structure Posted where
  ord : Nat
  host : Nat
  role : Nat
  island : Nat
  addr : Nat
  v : Word
  deriving DecidableEq, Repr

/-- One capture entry on its way to G2 (R396). -/
structure CapEnt where
  value : Int
  flags : Nat
  idx : Nat
  deriving DecidableEq, Repr

/-- The capture of one port (R395, R402). -/
structure Cap where
  source : Nat := 0
  first : Nat := 0
  blocks : Nat := 0
  /-- HP_CAP_SRC and HP_CAP_START. -/
  src : Word := 0
  start : Nat := 0
  busy : Bool := false
  ended : Nat := 0
  late : Bool := false
  entries : Nat := 0
  firstIdx : Nat := 0
  /-- What the running capture was started with: source, HP_CAP_SRC, first block, blocks, and earliest index. -/
  runSource : Nat := 0
  runSrc : Word := 0
  runFirst : Nat := 0
  runBlocks : Nat := 0
  runStart : Nat := 0
  /-- Entries matched and not yet written. -/
  queue : List CapEnt := []
  deriving DecidableEq, Repr

/-- The state of one host port (R373 to R402, R478). -/
structure Hp where
  resume : Nat := 0
  /-- R385: credit in units of 1/5 word. -/
  credit : Nat := 1280
  replies : List Reply := []
  /-- R383: the request whose words are being read holds an entry. -/
  inHand : Bool := false
  /-- R382: the last 32 collected replies, newest first. -/
  history : List Reply := []
  fences : List Fence := []
  /-- R375: events since the last header, flags [3:0]. -/
  flags : Nat := 0
  crcFail : Nat := 0
  badSeq : Nat := 0
  full : Nat := 0
  throttled : Nat := 0
  badTxn : Nat := 0
  cut : Nat := 0
  late : Nat := 0
  duplicate : Nat := 0
  /-- R387: the order numbers of discarded posted words that the next fence is to report. -/
  lates : List Nat := []
  /-- R391: the index at which the latest write of the port took effect, and per group the commit point of the first window
  that began after it, once it has come. -/
  lastEff : Option Nat := none
  fcAt : Tab Nat := []
  intStat : Word := 0
  intEn : Word := 0
  intGrp : Word := 0
  blkCount : Nat := 1
  blkResult : Nat := 0
  /-- R394: the blocks held, ascending. -/
  held : List Nat := []
  cap : Cap := {}
  share : Nat := 64
  budget : Nat := 64
  /-- HP_BUDGET.OVER as last found (R397 raises BUDGET when it becomes 1). -/
  overBudget : Bool := false
  /-- GAL_SEL. -/
  galSel : Nat := 5
  galBase : Nat := 0
  /-- R186, R10: words latched for this port by a read of word 0, by address. -/
  latch : Tab Word := []
  /-- R187: the context latch. -/
  ctxLatch : Option CtxLatch := none
  deriving DecidableEq, Repr

/-- What the ports share. -/
structure HostIsl where
  hp : Tab Hp := []
  posted : List Posted := []
  nextOrd : Nat := 0
  /-- HP_EVICT.PORT. -/
  evictPort : Nat := 0
  deriving DecidableEq, Repr

/-! ## The whole state -/

/-- The state of the PX-64 and the queue of the commands that wait, first in, first out. -/
structure State where
  glb : Glb := {}
  tb : Tb := {}
  port : Tab Port := []
  ring : Tab Ring := []
  head : Tab Head := []
  headAcc : Tab HeadAcc := []
  stair : Stair := {}
  rs : Resamp := {}
  tally : Tally := {}
  pulse : Pulse := {}
  spec : Spec := {}
  ev : Ev := {}
  plan : PlanIsl := {}
  red : Red := {}
  lc : Lc := {}
  cal : Cal := {}
  gal : Tab Gal := []
  mt : MemTest := {}
  host : HostIsl := {}
  role : Role := {}
  tmp : Tmp := {}
  pwr : Pwr := {}
  log : Log := {}
  /-- The model's own counter of free values, not the spec's (log entry 3). -/
  fresh : Nat := 0
  pending : List Instr := []
  deriving DecidableEq, Repr

/-- R425: the settings of a monitor on a device never configured. -/
def monDefault (m : Nat) : Mon :=
  if m < 8 then { response := 1, opt := true, count := 20, window := 20 }
  else if m < 16 then { response := 1, opt := true, count := 4, window := 8 }
  else if m = 16 then { enable := true, response := 2 }
  else if m = 17 then { enable := true, response := 2, count := 10, window := 61440 }
  else if m = 20 ∨ m = 22 then { enable := true, count := 1024, window := 1024 }
  else { enable := true }

/-- The machine right after a power-on reset, of a device never configured: every register at the value of its Reset
column. The grade, the stepping and an empty OTP and flash are the model's (log entries 1, 2 and 6). -/
def State.reset : State := { tmp := { mon := (List.range 23).map (fun m => (m, monDefault m)) } }

end Sys2Proof.Machine
end

