-- ==== Sys2Proof/Machine/Access.lean ====
section
/-! DEFINITION. Reading and changing one instance of each kind of state: the only way the meanings reach a table. -/

namespace Sys2Proof.Machine

/-- Port k. -/
def State.getPort (s : State) (k : Nat) : Port := tget {} s.port k

/-- Change: port k. -/
def State.modPort (s : State) (k : Nat) (f : Port → Port) : State :=
  { s with port := tset s.port k (f (s.getPort k)) }

/-- Ring r. -/
def State.getRing (s : State) (k : Nat) : Ring := tget {} s.ring k

/-- Change: ring r. -/
def State.modRing (s : State) (k : Nat) (f : Ring → Ring) : State :=
  { s with ring := tset s.ring k (f (s.getRing k)) }

/-- Head h. -/
def State.getHead (s : State) (k : Nat) : Head := tget {} s.head k

/-- Change: head h. -/
def State.modHead (s : State) (k : Nat) (f : Head → Head) : State :=
  { s with head := tset s.head k (f (s.getHead k)) }

/-- The head access mailbox of host port p. -/
def State.getHeadAcc (s : State) (k : Nat) : HeadAcc := tget {} s.headAcc k

/-- Change: the head access mailbox of host port p. -/
def State.modHeadAcc (s : State) (k : Nat) (f : HeadAcc → HeadAcc) : State :=
  { s with headAcc := tset s.headAcc k (f (s.getHeadAcc k)) }

/-- Staircase engine e. -/
def State.getEng (s : State) (k : Nat) : Eng := tget {} s.stair.eng k

/-- Change: staircase engine e. -/
def State.modEng (s : State) (k : Nat) (f : Eng → Eng) : State :=
  { s with stair := { s.stair with eng := tset s.stair.eng k (f (s.getEng k)) } }

/-- Stream 256e + s of the staircase. -/
def State.getStrm (s : State) (k : Nat) : Strm := tget {} s.stair.strm k

/-- Change: stream 256e + s of the staircase. -/
def State.modStrm (s : State) (k : Nat) (f : Strm → Strm) : State :=
  { s with stair := { s.stair with strm := tset s.stair.strm k (f (s.getStrm k)) } }

/-- Watch point w. -/
def State.getWp (s : State) (k : Nat) : Watch := tget {} s.stair.wp k

/-- Change: watch point w. -/
def State.modWp (s : State) (k : Nat) (f : Watch → Watch) : State :=
  { s with stair := { s.stair with wp := tset s.stair.wp k (f (s.getWp k)) } }

/-- Frequency group g. -/
def State.getGrp (s : State) (k : Nat) : Grp := tget {} s.rs.grp k

/-- Change: frequency group g. -/
def State.modGrp (s : State) (k : Nat) (f : Grp → Grp) : State :=
  { s with rs := { s.rs with grp := tset s.rs.grp k (f (s.getGrp k)) } }

/-- Context c. -/
def State.getCtx (s : State) (k : Nat) : Ctx := tget {} s.tally.ctx k

/-- Change: context c. -/
def State.modCtx (s : State) (k : Nat) (f : Ctx → Ctx) : State :=
  { s with tally := { s.tally with ctx := tset s.tally.ctx k (f (s.getCtx k)) } }

/-- Tally unit u. -/
def State.getUnit (s : State) (k : Nat) : Unit' := tget {} s.tally.unit k

/-- Change: tally unit u. -/
def State.modUnit (s : State) (k : Nat) (f : Unit' → Unit') : State :=
  { s with tally := { s.tally with unit := tset s.tally.unit k (f (s.getUnit k)) } }

/-- Pulse output o. -/
def State.getOut (s : State) (k : Nat) : PulseOut := tget {} s.pulse.out k

/-- Change: pulse output o. -/
def State.modOut (s : State) (k : Nat) (f : PulseOut → PulseOut) : State :=
  { s with pulse := { s.pulse with out := tset s.pulse.out k (f (s.getOut k)) } }

/-- Pulse input i. -/
def State.getInp (s : State) (k : Nat) : PulseIn := tget {} s.pulse.inp k

/-- Change: pulse input i. -/
def State.modInp (s : State) (k : Nat) (f : PulseIn → PulseIn) : State :=
  { s with pulse := { s.pulse with inp := tset s.pulse.inp k (f (s.getInp k)) } }

/-- Spectral binding 8c + slot. -/
def State.getSpBind (s : State) (k : Nat) : SpBind := tget {} s.spec.bind k

/-- Change: spectral binding 8c + slot. -/
def State.modSpBind (s : State) (k : Nat) (f : SpBind → SpBind) : State :=
  { s with spec := { s.spec with bind := tset s.spec.bind k (f (s.getSpBind k)) } }

/-- Spectral side of group g. -/
def State.getSpGrp (s : State) (k : Nat) : SpGrp := tget {} s.spec.grp k

/-- Change: spectral side of group g. -/
def State.modSpGrp (s : State) (k : Nat) (f : SpGrp → SpGrp) : State :=
  { s with spec := { s.spec with grp := tset s.spec.grp k (f (s.getSpGrp k)) } }

/-- Spectral engine e. -/
def State.getSpEng (s : State) (k : Nat) : SpEng := tget {} s.spec.eng k

/-- Change: spectral engine e. -/
def State.modSpEng (s : State) (k : Nat) (f : SpEng → SpEng) : State :=
  { s with spec := { s.spec with eng := tset s.spec.eng k (f (s.getSpEng k)) } }

/-- Supraharmonic lane. -/
def State.getLane (s : State) (k : Nat) : ShLane := tget {} s.spec.lane k

/-- Change: supraharmonic lane. -/
def State.modLane (s : State) (k : Nat) (f : ShLane → ShLane) : State :=
  { s with spec := { s.spec with lane := tset s.spec.lane k (f (s.getLane k)) } }

/-- Context c in the event unit. -/
def State.getEvc (s : State) (k : Nat) : EvCtx := tget {} s.ev.ctx k

/-- Change: context c in the event unit. -/
def State.modEvc (s : State) (k : Nat) (f : EvCtx → EvCtx) : State :=
  { s with ev := { s.ev with ctx := tset s.ev.ctx k (f (s.getEvc k)) } }

/-- Arbitration of head h. -/
def State.getRedHead (s : State) (k : Nat) : RedHead := tget {} s.red.head k

/-- Change: arbitration of head h. -/
def State.modRedHead (s : State) (k : Nat) (f : RedHead → RedHead) : State :=
  { s with red := { s.red with head := tset s.red.head k (f (s.getRedHead k)) } }

/-- Balance node. -/
def State.getRedNode (s : State) (k : Nat) : RedNode := tget {} s.red.node k

/-- Change: balance node. -/
def State.modRedNode (s : State) (k : Nat) (f : RedNode → RedNode) : State :=
  { s with red := { s.red with node := tset s.red.node k (f (s.getRedNode k)) } }

/-- Outing slot q. -/
def State.getCalQ (s : State) (k : Nat) : CalQ := tget {} s.cal.q k

/-- Change: outing slot q. -/
def State.modCalQ (s : State) (k : Nat) (f : CalQ → CalQ) : State :=
  { s with cal := { s.cal with q := tset s.cal.q k (f (s.getCalQ k)) } }

/-- Gallery g. -/
def State.getGal (s : State) (k : Nat) : Gal := tget {} s.gal k

/-- Change: gallery g. -/
def State.modGal (s : State) (k : Nat) (f : Gal → Gal) : State :=
  { s with gal := tset s.gal k (f (s.getGal k)) }

/-- Role state of port p. -/
def State.getRolePort (s : State) (k : Nat) : RolePort := tget {} s.role.port k

/-- Change: role state of port p. -/
def State.modRolePort (s : State) (k : Nat) (f : RolePort → RolePort) : State :=
  { s with role := { s.role with port := tset s.role.port k (f (s.getRolePort k)) } }

/-- Host port p. -/
def State.getHp (s : State) (k : Nat) : Hp := tget {} s.host.hp k

/-- Change: host port p. -/
def State.modHp (s : State) (k : Nat) (f : Hp → Hp) : State :=
  { s with host := { s.host with hp := tset s.host.hp k (f (s.getHp k)) } }

/-- Tamper monitor m. -/
def State.getMon (s : State) (k : Nat) : Mon := tget (monDefault k) s.tmp.mon k

/-- Change: tamper monitor m. -/
def State.modMon (s : State) (k : Nat) (f : Mon → Mon) : State :=
  { s with tmp := { s.tmp with mon := tset s.tmp.mon k (f (s.getMon k)) } }

/-- Wire loop i. -/
def State.getLoop (s : State) (k : Nat) : Loop := tget {} s.tmp.loop k

/-- Change: wire loop i. -/
def State.modLoop (s : State) (k : Nat) (f : Loop → Loop) : State :=
  { s with tmp := { s.tmp with loop := tset s.tmp.loop k (f (s.getLoop k)) } }

/-- Trouble channel of a source. -/
def State.getLogSrc (s : State) (k : Nat) : LogSrc := tget {} s.log.src k

/-- Change: trouble channel of a source. -/
def State.modLogSrc (s : State) (k : Nat) (f : LogSrc → LogSrc) : State :=
  { s with log := { s.log with src := tset s.log.src k (f (s.getLogSrc k)) } }

/-- Log state of port p. -/
def State.getLogPort (s : State) (k : Nat) : LogPort := tget {} s.log.port k

/-- Change: log state of port p. -/
def State.modLogPort (s : State) (k : Nat) (f : LogPort → LogPort) : State :=
  { s with log := { s.log with port := tset s.log.port k (f (s.getLogPort k)) } }

/-- Change the part `glb` of the state. -/
def State.modGlbIsl (s : State) (f : Glb → Glb) : State := { s with glb := f s.glb }

/-- Change the part `tb` of the state. -/
def State.modTbIsl (s : State) (f : Tb → Tb) : State := { s with tb := f s.tb }

/-- Change the part `stair` of the state. -/
def State.modStairIsl (s : State) (f : Stair → Stair) : State := { s with stair := f s.stair }

/-- Change the part `rs` of the state. -/
def State.modRsIsl (s : State) (f : Resamp → Resamp) : State := { s with rs := f s.rs }

/-- Change the part `tally` of the state. -/
def State.modTallyIsl (s : State) (f : Tally → Tally) : State := { s with tally := f s.tally }

/-- Change the part `spec` of the state. -/
def State.modSpecIsl (s : State) (f : Spec → Spec) : State := { s with spec := f s.spec }

/-- Change the part `ev` of the state. -/
def State.modEvIsl (s : State) (f : Ev → Ev) : State := { s with ev := f s.ev }

/-- Change the part `plan` of the state. -/
def State.modPlanIsl (s : State) (f : PlanIsl → PlanIsl) : State := { s with plan := f s.plan }

/-- Change the part `red` of the state. -/
def State.modRedIsl (s : State) (f : Red → Red) : State := { s with red := f s.red }

/-- Change the part `lc` of the state. -/
def State.modLcIsl (s : State) (f : Lc → Lc) : State := { s with lc := f s.lc }

/-- Change the part `cal` of the state. -/
def State.modCalIsl (s : State) (f : Cal → Cal) : State := { s with cal := f s.cal }

/-- Change the part `mt` of the state. -/
def State.modMtIsl (s : State) (f : MemTest → MemTest) : State := { s with mt := f s.mt }

/-- Change the part `host` of the state. -/
def State.modHostIsl (s : State) (f : HostIsl → HostIsl) : State := { s with host := f s.host }

/-- Change the part `role` of the state. -/
def State.modRoleIsl (s : State) (f : Role → Role) : State := { s with role := f s.role }

/-- Change the part `tmp` of the state. -/
def State.modTmpIsl (s : State) (f : Tmp → Tmp) : State := { s with tmp := f s.tmp }

/-- Change the part `pwr` of the state. -/
def State.modPwrIsl (s : State) (f : Pwr → Pwr) : State := { s with pwr := f s.pwr }

/-- Change the part `log` of the state. -/
def State.modLogIsl (s : State) (f : Log → Log) : State := { s with log := f s.log }


/-- Injected slot i of the local converter. -/
def State.getInj (s : State) (k : Nat) : LcInj := tget {} s.lc.inj k

/-- Change: injected slot i of the local converter. -/
def State.modInj (s : State) (k : Nat) (f : LcInj → LcInj) : State :=
  { s with lc := { s.lc with inj := tset s.lc.inj k (f (s.getInj k)) } }

end Sys2Proof.Machine
end

