-- ==== Sys2Proof/Machine/Ops.lean ====
section
/-! DEFINITION. The operations that several chapters share: outcomes, the present index, islands, the trouble channels
(R462 to R469), the interrupt sources (R392), and the words of a gallery. -/

namespace Sys2Proof.Machine

/-! ## Outcomes, time and islands -/

/-- The outcome of every meaning. -/
abbrev Out := Host.Outcome State Fault Refusal

/-- A meaning that changes the state by `f` while the island it runs in is clocked, and has no effect otherwise (R12: an
island is released only with its PLL locked and is held idle when the PLL loses lock). Bit `i` of GLB_ISLAND_STAT. -/
def State.up (s : State) (i : Nat) : Bool := s.pwr.mainOn && bit s.glb.lock i

/-- R39: the bits of GLB_ISLAND_STAT. -/
def islStair : Nat := 0
/-- The resampler island and the event unit. -/
def islResamp : Nat := 1
/-- The tally island. -/
def islTally : Nat := 2
/-- The spectral island. -/
def islSpect : Nat := 3
/-- The steward island. -/
def islSteward : Nat := 4
/-- The host island. -/
def islHost : Nat := 5
/-- The analogue island. -/
def islAnalog : Nat := 6
/-- The power island. -/
def islPower : Nat := 7
/-- The gallery array. -/
def islGal : Nat := 8
/-- The cloakroom. -/
def islCloak : Nat := 9

/-- Run `f` in island `i`, or nothing while that island is not clocked (R12). -/
def onIsl (i : Nat) (s : State) (f : State → State) : Out := .next (if s.up i then f s else s)

/-- The link island of ring `r` is clocked. -/
def State.linkUp (s : State) (r : Nat) : Bool := s.pwr.mainOn && bit s.glb.linkLock r

/-- R443: supply early warning is on: from W until the main domain stops. -/
def State.inWarning (s : State) : Bool := s.pwr.st == .warning || s.pwr.st == .saved

/-- R445, R426: the tick before which a flat sample or cycle must lie to be counted in its window: W in a warning, the alarm's
tick while a FULL_RESET is called for. -/
def State.stopAt (s : State) : Option Nat := if s.inWarning then some s.pwr.w else s.pwr.resetAt

/-- Run `f` in the link island of ring `r`, or nothing while it is not clocked (R12). -/
def onLink (r : Nat) (s : State) (f : State → State) : Out := .next (if s.linkUp r then f s else s)

/-- R31: the steward runs: its island is clocked and it is not restarting. -/
def State.stewUp (s : State) : Bool := s.up islSteward && !s.red.stewardDown

/-- Run `f` in the steward, or nothing while it does not run. -/
def onStew (s : State) (f : State → State) : Out := .next (if s.stewUp then f s else s)

/-- The sample index (R44). -/
def State.now (s : State) : Nat := s.tb.idx

/-- R1: rings, heads and contexts of the grade. -/
def State.ringCount (s : State) : Nat := if s.glb.half then 16 else 32
/-- R1. -/
def State.headCount (s : State) : Nat := if s.glb.half then 2048 else 4096
/-- R1. -/
def State.ctxCount (s : State) : Nat := if s.glb.half then 80 else 160

/-- Apply `f` for each element, in order. -/
def each {α : Type} (l : List α) (f : State → α → State) (s : State) : State := l.foldl f s

/-- Apply `f` where the condition holds. -/
def whenDo (b : Bool) (f : State → State) (s : State) : State := if b then f s else s

/-- R24: the setting in force in a window that begins at `begin`: the newest write before it, else the present one. -/
def settingAt {α : Type} (begin : Nat) (wr : List (Nat × α)) (cur : α) : α :=
  match wr.find? (fun e => decide (e.1 < begin)) with
  | some e => e.2
  | none => cur

/-- The writes that still wait after a window has begun. -/
def settingsAfter {α : Type} (begin : Nat) (wr : List (Nat × α)) : List (Nat × α) := wr.filter (fun e => decide (e.1 ≥ begin))

/-! ## The trouble channels -/

/-- The codes of R467. -/
inductive LogCode where
  | stewardRestart | islandClockLost | logDropped | logSuppressed | tbSecondStep | tbTaiApplied | lnkLockLost
  | ringIdMismatch | ringOverfull | ringTooLong | segmentLong | ringEnumFail | lagMargin | ringWrap | ringRestored
  | hsOverrun | headUnknown | headAbsent | headNoAnswer | headRejoin | headHealthChange | headDetFault | headClip
  | headChange | stairSat | stairSelftestFail | fgLocked | fgLockLost | fgRange | fgRefSwitch | energyGap
  | energyPreset | energyPresetDropped | ctxCarried | ctxDropped | ledgerOverwrite | pulseOverflow | pulseRebase
  | legacyPreset | legacyUnsaved | eventUnitDown | planRejected | planLoadFail | planNone | planCommand
  | streamRetired | portRetired | stairRetired | tallyRetired | harmRetired | shRetired | stairNoSpare | detDisagree
  | detAgree | replay | replayLate | restored | restoreFailed | lcSliceFail | lcDown | lcFifoOverflow | calDone
  | calTimeout | calRange | calAbandoned | calStoreBad | galUncorr | galCollision | galTestFail | hostLateWrite
  | hostBudget | hostEvict | audit | sessionOpen | sessionEnd | authFail | keySet | otpKey | sealCleared
  | tamperAlarm | tamperResponse | tamperDetector | tamperShadow | tamperOtpFull | tamperTest | powerWarning
  | saveFail | saveLate | saveDisagree | saveNone | tailShort | tailAdded | energyUnsaved | epochRecovered | bakLost
  | startInterrupted
  deriving DecidableEq, Repr

/-- R467: the code number, the severity (the response or the result decides it for three tamper codes, R426 and R434:
those rows give the severity of the least case) and whether it is always logged. -/
def LogCode.info : LogCode → Nat × Nat × Bool
  | .stewardRestart => (0x0001, 3, true)
  | .islandClockLost => (0x0002, 4, true)
  | .logDropped => (0x0003, 2, true)
  | .logSuppressed => (0x0004, 0, false)
  | .tbSecondStep => (0x0101, 2, false)
  | .tbTaiApplied => (0x0102, 1, true)
  | .lnkLockLost => (0x0201, 2, false)
  | .ringIdMismatch => (0x0202, 2, false)
  | .ringOverfull => (0x0203, 3, false)
  | .ringTooLong => (0x0204, 3, false)
  | .segmentLong => (0x0205, 2, false)
  | .ringEnumFail => (0x0206, 3, false)
  | .lagMargin => (0x0207, 2, false)
  | .ringWrap => (0x0208, 2, false)
  | .ringRestored => (0x0209, 1, false)
  | .hsOverrun => (0x020A, 3, false)
  | .headUnknown => (0x0301, 2, false)
  | .headAbsent => (0x0302, 3, false)
  | .headNoAnswer => (0x0303, 2, false)
  | .headRejoin => (0x0304, 1, false)
  | .headHealthChange => (0x0305, 2, false)
  | .headDetFault => (0x0306, 3, false)
  | .headClip => (0x0307, 2, false)
  | .headChange => (0x0308, 1, true)
  | .stairSat => (0x0401, 2, false)
  | .stairSelftestFail => (0x0402, 3, false)
  | .fgLocked => (0x0501, 1, false)
  | .fgLockLost => (0x0502, 2, false)
  | .fgRange => (0x0503, 2, false)
  | .fgRefSwitch => (0x0504, 1, false)
  | .energyGap => (0x0601, 3, true)
  | .energyPreset => (0x0602, 1, true)
  | .energyPresetDropped => (0x0603, 1, true)
  | .ctxCarried => (0x0604, 0, true)
  | .ctxDropped => (0x0605, 1, true)
  | .ledgerOverwrite => (0x0606, 2, false)
  | .pulseOverflow => (0x0607, 2, true)
  | .pulseRebase => (0x0608, 1, true)
  | .legacyPreset => (0x0609, 1, true)
  | .legacyUnsaved => (0x060A, 2, true)
  | .eventUnitDown => (0x0801, 4, true)
  | .planRejected => (0x0901, 2, true)
  | .planLoadFail => (0x0902, 3, true)
  | .planNone => (0x0903, 4, true)
  | .planCommand => (0x0904, 1, true)
  | .streamRetired => (0x0A01, 3, true)
  | .portRetired => (0x0A02, 3, true)
  | .stairRetired => (0x0A03, 3, true)
  | .tallyRetired => (0x0A04, 3, true)
  | .harmRetired => (0x0A05, 3, true)
  | .shRetired => (0x0A06, 3, true)
  | .stairNoSpare => (0x0A07, 4, true)
  | .detDisagree => (0x0A08, 2, true)
  | .detAgree => (0x0A09, 1, true)
  | .replay => (0x0A0A, 1, false)
  | .replayLate => (0x0A0B, 3, true)
  | .restored => (0x0A0C, 1, true)
  | .restoreFailed => (0x0A0D, 2, true)
  | .lcSliceFail => (0x0B01, 3, false)
  | .lcDown => (0x0B02, 4, false)
  | .lcFifoOverflow => (0x0B03, 2, false)
  | .calDone => (0x0C01, 1, true)
  | .calTimeout => (0x0C02, 2, true)
  | .calRange => (0x0C03, 2, true)
  | .calAbandoned => (0x0C04, 1, true)
  | .calStoreBad => (0x0C05, 3, false)
  | .galUncorr => (0x0D01, 3, false)
  | .galCollision => (0x0D02, 2, false)
  | .galTestFail => (0x0D03, 3, false)
  | .hostLateWrite => (0x0E01, 2, false)
  | .hostBudget => (0x0E02, 1, true)
  | .hostEvict => (0x0E03, 2, true)
  | .audit => (0x0F01, 1, true)
  | .sessionOpen => (0x0F02, 1, true)
  | .sessionEnd => (0x0F03, 1, true)
  | .authFail => (0x0F04, 2, true)
  | .keySet => (0x0F05, 1, true)
  | .otpKey => (0x0F06, 1, true)
  | .sealCleared => (0x0F07, 1, true)
  | .tamperAlarm => (0x1001, 1, true)
  | .tamperResponse => (0x1002, 1, true)
  | .tamperDetector => (0x1003, 3, true)
  | .tamperShadow => (0x1004, 4, true)
  | .tamperOtpFull => (0x1005, 3, true)
  | .tamperTest => (0x1006, 1, true)
  | .powerWarning => (0x1101, 2, true)
  | .saveFail => (0x1102, 2, true)
  | .saveLate => (0x1103, 3, true)
  | .saveDisagree => (0x1104, 3, true)
  | .saveNone => (0x1105, 4, true)
  | .tailShort => (0x1106, 2, true)
  | .tailAdded => (0x1107, 1, true)
  | .energyUnsaved => (0x1108, 3, true)
  | .epochRecovered => (0x1109, 3, true)
  | .bakLost => (0x110A, 2, true)
  | .startInterrupted => (0x110B, 2, true)

/-- R465: the listed values, each in its width in bytes. -/
def packVals (vals : List (Nat × Nat)) : List Byte := vals.flatMap (fun v => leBytes v.1 v.2)

/-- R15, R464: the trouble channel of a SOURCE, numbered as R11 lists its twelve rows: 0 link islands, 1 staircase, 2 resampler,
3 event unit, 4 tally, 5 spectral, 6 steward, 7 host, 8 analogue, 9 power, 10 gallery array, 11 cloakroom. DESIGN CHOICE (log entry
81): the sources timebase, hall plan, redundancy and calibration, which R11 places in no island of their own, send by the
steward's channel. -/
def troubleChan (source : Nat) : Nat :=
  match source with
  | 0x02 | 0x03 => 0
  | 0x04 => 1
  | 0x05 => 2
  | 0x08 => 3
  | 0x06 => 4
  | 0x0E | 0x0F => 7
  | 0x0B => 8
  | 0x11 => 9
  | 0x0D => 10
  | 0x10 => 11
  | _ => 6

/-- R468: an entry enters its island's trouble channel of 32 places. One that is not always logged is dropped and counted
while the channel holds 28 or more; one that is always logged waits in its island for a place. -/
def sendEnt (src : Nat) (e : LogEnt) (s : State) : State :=
  let c := s.getLogSrc src
  if e.always then
    if c.waiting.isEmpty && decide (c.chan.length < 32) then s.modLogSrc src (fun c => { c with chan := c.chan ++ [e] })
    else s.modLogSrc src (fun c => { c with waiting := c.waiting ++ [e] })
  else if c.chan.length < 28 then s.modLogSrc src (fun c => { c with chan := c.chan ++ [e] })
  else
    (s.modLogSrc src (fun c => { c with
      drops := c.drops + 1
      dropFirst := if c.drops = 0 then e.when_ else c.dropFirst
      dropLast := e.when_ })).modLogIsl (fun l => { l with dropped := satAdd 0xFFFF l.dropped 1 })

/-- Log `c` at severity `sev` with WHEN `w`: the instance in two bytes and the listed values (R465). -/
def raiseSev (c : LogCode) (sev w inst : Nat) (vals : List (Nat × Nat)) (s : State) : State :=
  sendEnt (troubleChan (c.info.1 / 256))
    { code := c.info.1, sev := sev, always := c.info.2.2, when_ := w, epoch := s.tb.epoch
      data := leBytes 2 inst ++ packVals vals } s

/-- Log `c` with WHEN `w`. -/
def raiseAt (c : LogCode) (w inst : Nat) (vals : List (Nat × Nat)) (s : State) : State :=
  raiseSev c c.info.2.1 w inst vals s

/-- Log `c` at the present index. -/
def raise (c : LogCode) (inst : Nat) (vals : List (Nat × Nat)) (s : State) : State := raiseAt c s.now inst vals s

/-- R416: an audit record takes the present ROLE_AUDIT_CNT value; the count goes on. -/
def countAudit (s : State) : State := s.modRoleIsl (fun r => { r with audit := (r.audit + 1) % 2 ^ 32 })

/-- R415, R416: an audit record under a code of its own: the listed values, then its number. -/
def raiseAudit (c : LogCode) (inst : Nat) (vals : List (Nat × Nat)) (s : State) : State :=
  countAudit (raise c inst (vals ++ [(4, s.role.audit)]) s)

/-- R415, R466: the AUDIT record of an accepted write at address `a`: role, host port, old and new word, number. -/
def auditWrite (role host a : Nat) (old new : Word) (s : State) : State :=
  countAudit (raise .audit (a % 65536)
    [(1, a / 65536), (1, role), (1, host), (1, 0), (4, old.toNat), (4, new.toNat), (4, s.role.audit), (6, 0)] s)

/-! ## Interrupt sources (R392) -/

/-- Set source `b` of HP_INT_STAT in port `p`. -/
def irqPort (b p : Nat) (s : State) : State :=
  s.modHp p (fun h => { h with intStat := h.intStat ||| BitVec.ofNat 32 (2 ^ b) })

/-- An event sets its source in every port. -/
def irqAll (b : Nat) (s : State) : State := each [0, 1, 2, 3] (fun s p => irqPort b p s) s

/-- Source EVENT. -/
def irqEvent : Nat := 2
/-- Source WATCH. -/
def irqWatch : Nat := 3
/-- Source PULSE. -/
def irqPulse : Nat := 4
/-- Source CAL. -/
def irqCal : Nat := 6
/-- Source LOG. -/
def irqLog : Nat := 7
/-- Source TAMPER. -/
def irqTamper : Nat := 8
/-- Source PLAN. -/
def irqPlan : Nat := 9
/-- Source BUDGET. -/
def irqBudget : Nat := 10
/-- Source CAPTURE. -/
def irqCapture : Nat := 11

/-! ## Galleries as their owners use them -/

/-- R357: the size of a gallery in bytes. -/
def galSize (g : Nat) : Nat :=
  match g with
  | 0 => 0x80_0000
  | 1 => 0x80_0000
  | 2 => 0x100_0000
  | 3 => 0x20_0000
  | 4 => 0x20_0000
  | 5 => 0x20_0000
  | 6 => 0x60_0000
  | _ => 0x40_0000

/-- R359: contents are kept in RETAIN and ON. -/
def galKept (p : GalPower) : Bool :=
  match p with
  | .retain | .on => true
  | .off | .clearing => false

/-- The word at an offset. -/
def State.galWord (s : State) (g off : Nat) : Word := mgetW galDefault (s.getGal g).mem off

/-- R359, R360: an access to a gallery that keeps its contents: RETAIN wakes to ON. -/
def galTouch (now : Nat) (x : Gal) : Gal := { x with power := .on, lastAccess := now, woken := x.woken || x.power == .retain }

/-- R359, R12: a gallery can be accessed: the array is clocked and the gallery keeps its contents. -/
def State.galOn (s : State) (g : Nat) : Bool := s.up islGal && galKept (s.getGal g).power

/-- An owner or the steward stores bytes from an offset upward; a gallery that cannot be accessed takes none (R359, R12). -/
def galPuts (g off : Nat) (bs : List Byte) (s : State) : State :=
  if s.galOn g then s.modGal g (fun x => galTouch s.now { x with
    mem := mputs galDefault x.mem off bs, bad := x.bad.filter (fun a => decide (a < off) || decide (off + bs.length ≤ a)) })
  else s

/-- Store one word. -/
def galPutW (g off : Nat) (w : Word) (s : State) : State := galPuts g off (leBytes 4 w.toNat) s

/-! ## Channels that hold their producer (R15, R16, R39) -/

/-- The channels of R15 whose consumer can lag, less the one from a link island, which its ring holds. -/
inductive Chan where
  /-- Staircase to resampler, by ring. -/
  | outputs (r : Nat)
  /-- Staircase to tally, by ring. -/
  | flats (r : Nat)
  /-- Staircase to a supraharmonic engine. -/
  | raws (e : Nat)
  /-- Resampler to its consumers, by binding (8 times the context plus the slot). -/
  | cycles (b : Nat)
  deriving DecidableEq, Repr

/-- The number of a channel. -/
def Chan.code (c : Chan) : Nat :=
  match c with
  | .outputs r => r
  | .flats r => 32 + r
  | .raws e => 64 + e
  | .cycles b => 128 + b

/-- R39: some channel is now full for longer than its depth in time. -/
def Glb.overdue (now : Nat) (g : Glb) : Bool := g.stallAt.any (fun e => decide (e.2 < now))

/-- R39: what STALL_SEEN has to remember of the stalls up to now. -/
def noteStalls (s : State) : State := if s.glb.overdue s.now then s.modGlbIsl (fun g => { g with stallSeen := true }) else s

/-- R16, R39: channel c, of this depth in time in ticks, holds its producer. -/
def stall (c : Chan) (ticks : Nat) (s : State) : State :=
  let s := noteStalls s
  if s.glb.stallAt.any (fun e => e.1 == c.code) then s
  else s.modGlbIsl (fun g => { g with stallAt := tset g.stallAt c.code (s.now + ticks) })

/-- Channel c has room again. -/
def unstall (c : Chan) (s : State) : State :=
  if s.glb.stallAt.any (fun e => e.1 == c.code) then
    (noteStalls s).modGlbIsl (fun g => { g with stallAt := tdel g.stallAt c.code })
  else s

/-- R39: GLB_HS_STAT.STALL_SEEN: a channel has been full for longer than its depth in time (2 ticks on the channel from a link island,
R15), or is now. -/
def State.stallSeen (s : State) : Bool :=
  s.glb.stallSeen || s.glb.overdue s.now ||
    s.ring.any (fun e => match e.2.fullAt with | none => false | some t => decide (s.now > t + 2))

/-- The next free value (log entry 3). -/
def State.freeNext (s : State) : Word × State := (Config.freeWord s.fresh, { s with fresh := s.fresh + 1 })

end Sys2Proof.Machine
end

