-- ==== Sys2Proof/Machine/Galleries.lean ====
section
/-! DEFINITION. Chapter 15: the galleries: rights (R357, R358), power states (R359 to R361), words and two ports on one word (R362
to R364), the host window and the aliases (R365, R366), the background memory test (R367 to R370) and the registers (R371). -/

namespace Sys2Proof.Machine

/-! ## Power states (R359 to R361) -/

/-- R357: the owner demands ON. -/
def State.galOwner (s : State) (g : Nat) : Bool :=
  match g with
  | 0 => s.plan.cur.isSome
  | 1 => s.plan.cur.isSome && s.spec.blkEng.any (fun b => b.2 != 15)
  | 2 => s.host.hp.any (fun h => !h.2.held.isEmpty)
  | 6 => !s.spec.roster.isEmpty
  | 7 => s.mt.borrowed || !s.mt.remaps.isEmpty
  | _ => true

/-- R371: GAL_PWR.REQ as a demand; 1 acts as 0. -/
def reqPower (v : Nat) : GalPower :=
  match v with
  | 2 => .retain
  | 3 => .on
  | _ => .off

/-- R360, R361: the state demanded: the stronger of the owner's demand and the request; RETAIN while early warning holds it. -/
def State.galDemand (s : State) (g : Nat) : GalPower :=
  if (s.getGal g).shed then .retain else if s.galOwner g then .on else reqPower (s.getGal g).req

/-- R359, R361: the contents of a gallery are lost. -/
def Gal.lose (x : Gal) : Gal := { x with mem := [], bad := [], woken := false }

/-- R360: a gallery follows its demand: leaving OFF it passes through CLEARING, entering OFF it loses its contents. One that an access has
woken from RETAIN stays ON (until GALLERY_IDLE_RETAIN). -/
def galFollow (d : GalPower) (x : Gal) : Gal :=
  match x.power, d with
  | .clearing, _ => x
  | .off, .off => x
  | .off, _ => { x.lose with power := .clearing }
  | _, .off => { x.lose with power := .off }
  | .on, .retain => if x.woken then x else { x with power := .retain }
  | _, d => { x with power := d, woken := false }

/-- R360: the demand on a gallery may have changed. -/
def galSettle (g : Nat) (s : State) : State := s.modGal g (galFollow (s.galDemand g))

/-- R360: as `galSettle` for every gallery. -/
def galSettleAll (s : State) : State := each (List.range 8) (fun s g => galSettle g s) s

/-- R361: a gallery passes through CLEARING. -/
def galClear (g : Nat) (s : State) : State := s.modGal g (fun x => { x.lose with power := .clearing })

/-! ## Where a word lies, and who may touch it (R357, R358, R365 to R368) -/

/-- R365: GALLERY and the offset that an address in the window or in an alias reaches. -/
def State.galPlace (s : State) (host x : Nat) : Nat × Nat := ((s.getHp host).galSel, (s.getHp host).galBase * 0x100000 + x)

/-- The borrowed segment is in the shadow and under test. -/
def State.segTested (s : State) : Bool := s.mt.borrowed && s.galOn 7

/-- R368, R367: where a word of G4 is served from: its spare once it is mapped, the shadow while its segment is borrowed. -/
def State.galServed (s : State) (g off : Nat) : Nat × Nat :=
  if g = 4 then
    match s.mt.remaps.find? (fun r => r.1 == off / 65536) with
    | some (_, k) => (7, 0x10000 * (k + 1) + off % 65536)
    | none => if s.segTested && s.mt.segment == off / 65536 then (7, off % 65536) else (4, off)
  else (g, off)

/-- R357: the least role that may read a gallery. -/
def galReadRole (g : Nat) : Nat := if g = 0 ∨ g = 4 ∨ g = 7 then 3 else 1

/-- R376: what a gallery access does to its word. -/
inductive GalOp where
  | read | write | set | clear
  deriving DecidableEq, Repr

/-- R357, R358, R366: the region rights of a write or alias, less the block check. -/
def galMayWrite (op : GalOp) (g off role : Nat) : Bool :=
  if g = 2 then decide (role ≥ 1)
  else if g = 5 then
    match op with
    | .read => false
    | .write => decide (0x60000 ≤ off) && decide (off < 0x160000) && decide (role ≥ 2)
    | .set => false
    | .clear => decide (0x160000 ≤ off) && decide (off < 0x200000) && off % 0x1000 == 0xF00 && decide (role ≥ 1)
  else false

/-- R357, R358, R366: the role and region rights (cause DENIED). A plain write beyond the gallery by a role that may write in it is left to
the range check. -/
def galRight (op : GalOp) (g off role : Nat) : Bool :=
  match op with
  | .read => decide (role ≥ galReadRole g)
  | .write => galMayWrite op g off role || (decide (off ≥ galSize g) && g == 5 && decide (role ≥ 2))
  | _ => galMayWrite op g off role

/-- R357, R398: a word of G2 lies in a block that the port holds. -/
def State.galBlock (s : State) (host g off : Nat) : Bool := g != 2 || (s.getHp host).held.contains (off / 0x10000)

/-- R366: an alias write outside the G2 blocks that the port holds. -/
def State.aliasOut (s : State) (op : GalOp) (host g off : Nat) : Bool :=
  (op == .set || op == .clear) && g == 2 && !s.galBlock host g off

/-- R228, R240, R307, R357, R367, R383: a location whose content the spec leaves to the PX-64: a host that reads it gets a free value (log
entry 3). -/
def galInternal (g off : Nat) : Bool :=
  match g with
  | 0 | 4 | 7 => true
  | 1 => decide (off < 0x300000)
  | 5 => decide (off < 0x60000)
  | 6 => decide (off < 0x510000) || decide (0x5D8000 ≤ off)
  | _ => false

/-- R357, R365: a host access is allowed and has its effect. -/
def State.galAllowed (s : State) (op : GalOp) (host x : Nat) : Bool :=
  let (g, off) := s.galPlace host x
  galRight op g off (s.getRolePort host).role && decide (off < galSize g) && s.galBlock host g off && s.galOn g

/-! ## Words (R362 to R364) -/

/-- R364: one port's operation on a word. -/
def portOp (o : PortA) (w : Word) : Word :=
  match o with
  | .idle | .read => w
  | .write v => v
  | .setBits v => w ||| v
  | .clearBits v => w &&& ~~~v

/-- R364: the word after port A's operation `a` and port B's operation `b` in one clock. -/
def twoPorts (a b : PortA) (w : Word) : Word :=
  match a, b with
  | .write v, .write _ => v
  | .setBits _, .write _ | .clearBits _, .write _ => portOp a (portOp b w)
  | _, _ => portOp b (portOp a w)

/-- R364: port B's write is discarded. -/
def collides (a b : PortA) : Bool :=
  match a, b with
  | .write _, .write _ => true
  | _, _ => false

/-- R364: a collision of port B user `user` (0 steward, 2 host island) is recorded, and logged at most once per 384,000 ticks. -/
def galCollide (g off user host : Nat) (s : State) : State :=
  let say := match (s.getGal g).collLogAt with
    | none => true
    | some t => decide (t + 384000 ≤ s.now)
  let s := s.modGal g (fun x => { x with
    collSeen := true, collUser := user, collHost := host, collCount := satAdd 0xFFFF x.collCount 1, collOff := off
    collLogAt := if say then some s.now else x.collLogAt })
  whenDo say (raise .galCollision g []) s

/-- R364, R366: a host's operation on a word, in one clock with the other port's. The host island is port A in G5, port B elsewhere. -/
def galHostOp (host g off : Nat) (op other : PortA) (s : State) : State :=
  let (a, b) := if g = 5 then (op, other) else (other, op)
  let (g', off') := s.galServed g off
  let w := twoPorts a b (s.galWord g' off')
  let s := s.modGal g' (fun x => { x with mem := mputW galDefault x.mem off' w })
  let s := s.modGal g (fun x => galTouch s.now { x with bad := x.bad.filter (fun a => a != off) })
  whenDo (collides a b) (if g = 5 then galCollide g off 0 0 else galCollide g off 2 host) s

/-- R362: an uncorrectable word is counted, recorded and logged; it stays so until it is written. -/
def galUncorr (g off : Nat) (s : State) : State :=
  raise .galUncorr g [] (s.modGal g (fun x => { x with
    uncorr := satAdd 0xFFFF x.uncorr 1, last := off, bad := off :: x.bad.filter (fun a => a != off) }))

/-- R362: the word has been found uncorrectable and not been written since. -/
def State.galBad (s : State) (g off : Nat) : Bool := (s.getGal g).bad.contains off

/-- R362: a read counts a corrected word, or an uncorrectable one, which is logged. -/
def galRead (g off : Nat) (ecc : Ecc) (s : State) : State :=
  let s := s.modGal g (galTouch s.now)
  if s.galBad g off then galUncorr g off s
  else match ecc with
    | .clean => s
    | .single => s.modGal g (fun x => { x with corrected := satAdd 0xFFFFFFFF x.corrected 1 })
    | .double => galUncorr g off s

/-- The word that a host reads. -/
def State.galHostWord (s : State) (g off : Nat) : Word := let p := s.galServed g off; s.galWord p.1 p.2

/-! ## What a host's write asks -/

/-- R284: a write of the upload area while a plan is being staged. -/
def noteUpload (g off : Nat) (s : State) : State :=
  if g = 5 ∧ 0x60000 ≤ off ∧ off < 0x160000 ∧ s.plan.st = .staging then s.modPlanIsl (fun p => { p with dirty := true })
  else s

/-- R366: an alias reads its word before it writes it. -/
def GalOp.reads (op : GalOp) : Bool :=
  match op with
  | .read | .set | .clear => true
  | .write => false

/-! ## The memory test (R367 to R370) -/

/-- R362: the words in a range that are known to be uncorrectable. -/
def State.badWords (s : State) (g a n : Nat) : List Nat := (s.getGal g).bad.filter (fun x => decide (a ≤ x) && decide (x < a + n))

/-- R362: an internal user reads a range: each uncorrectable word is counted, recorded and logged. -/
def readRange (g a n : Nat) (s : State) : State := each (s.badWords g a n) (fun s x => galUncorr g x s) s

/-- The bytes of 64 KiB copied from an offset of one gallery to an offset of another; a word that is read marked as bad stays so (R362). -/
def segCopy (g a g' a' : Nat) (s : State) : State :=
  let bs := mslice galDefault (s.getGal g).mem a 65536
  let bad := (s.badWords g a 65536).map (fun x => x - a + a')
  (readRange g a 65536 s).modGal g' (fun x => { x with
    mem := mfill galDefault x.mem a' bs
    bad := bad ++ x.bad.filter (fun y => decide (y < a') || decide (a' + 65536 ≤ y)) })

/-- R367 step 1: the segment is copied into the shadow. -/
def segShadow (s : State) : State := segCopy 4 (0x10000 * s.mt.segment) 7 0 s

/-- R367 step 4: the shadow is copied back and the mark cleared. -/
def segRestore (s : State) : State :=
  (segCopy 7 0 4 (0x10000 * s.mt.segment) s).modMtIsl (fun m => { m with borrowed := false })

/-- The next segment in turn that has not been mapped to a spare (R367, R368); the same one with all mapped. -/
def MemTest.pick (m : MemTest) : Nat :=
  ((List.range 32).map (fun i => (m.next + i) % 32)).find? (fun k => !m.remaps.any (fun r => r.1 == k)) |>.getD m.next

/-- R367, R363: a period has passed since it was last done. -/
def periodOver (period now : Nat) (last : Option Nat) : Bool :=
  match last with
  | none => true
  | some t => decide (now ≥ t + period)

/-- MEMTEST_BORROW (R367), 384,000 ticks after the last borrow or yield. A G7 that holds no contents passes through CLEARING first; the
copy follows it. -/
def execMemtestBorrow (s : State) : Out :=
  onIsl islGal s (fun s =>
    if s.mt.en && !s.mt.borrowed && !s.mt.stopped && s.galOn 4 && periodOver 384000 s.now s.mt.lastAt then
      let s := s.modMtIsl (fun m => { m with borrowed := true, segment := m.pick, lastAt := some s.now })
      let s := galSettle 7 s
      whenDo (s.galOn 7) segShadow s
    else s)

/-- R368: a bad segment goes to a spare, or stays in place with none left. -/
def segBad (x : Nat) (s : State) : State :=
  let seg := s.mt.segment
  let s := raise .galTestFail 4 [(1, seg), (4, x)] (s.modMtIsl (fun m => { m with fails := satAdd 0xF m.fails 1 }))
  let n := s.mt.remaps.length
  if n < 2 then
    (segCopy 7 0 7 (0x10000 * (n + 1)) s).modMtIsl (fun m => { m with remaps := m.remaps ++ [(seg, n)], borrowed := false })
  else segRestore (s.modMtIsl (fun m => { m with noSpare := true }))

/-- MEMTEST_DONE (R367, R368). -/
def execMemtestDone (bad : Option Nat) (s : State) : Out :=
  onIsl islGal s (fun s =>
    if s.segTested then
      let s := match bad with
        | none => segRestore s
        | some x => segBad x s
      galSettle 7 (s.modMtIsl (fun m => { m with next := (m.segment + 1) % 32, yieldRun := 0 }))
    else s)

/-- R369: the test yields: the segment is restored, or was not changed yet; the eighth yield in a row skips it. -/
def memYield (s : State) : State :=
  let s := if s.segTested then segRestore s else s.modMtIsl (fun m => { m with borrowed := false })
  galSettle 7 (s.modMtIsl (fun m =>
    let m := { m with yields := satAdd 0xFF m.yields 1, lastAt := some s.now }
    if m.yieldRun + 1 ≥ 8 then { m with yieldRun := 0, skipped := satAdd 0xF m.skipped 1, next := (m.segment + 1) % 32 }
    else { m with yieldRun := m.yieldRun + 1, next := m.segment }))

/-- MEMTEST_YIELD (R369). -/
def execMemtestYield (s : State) : Out := onIsl islGal s (fun s => if s.mt.borrowed then memYield s else s)

/-! ## Power and scrubbing -/

/-- GALLERY_CLEAR_DONE (R360): the demanded state is entered; a borrow that waited for G7 copies its segment (R367). -/
def execGalleryClearDone (g : Fin 8) (s : State) : Out :=
  onIsl islGal s (fun s =>
    if (s.getGal g.val).power = .clearing then
      let d := s.galDemand g.val
      let s := s.modGal g.val (fun x => { x with power := d, lastAccess := s.now })
      whenDo (g.val == 7 && s.segTested) segShadow s
    else s)

/-- GALLERY_IDLE_RETAIN (R360): 3,840 ticks without an access. -/
def execGalleryIdleRetain (g : Fin 8) (s : State) : Out :=
  onIsl islGal s (fun s =>
    let x := s.getGal g.val
    if x.power = .on ∧ s.galDemand g.val = .retain ∧ x.lastAccess + 3840 ≤ s.now then
      s.modGal g.val (fun x => { x with power := .retain, woken := false })
    else s)

/-- GALLERY_SCRUB (R363, R362): the steward reads a gallery in ON, once per 3,840,000 ticks. -/
def execGalleryScrub (g : Fin 8) (singles : Nat) (doubles : List Nat) (s : State) : Out :=
  onStew s (fun s =>
    if s.up islGal && (s.getGal g.val).power == .on && periodOver 3840000 s.now (s.getGal g.val).scrubAt then
      let s := s.modGal g.val (fun x => { x with corrected := satAdd 0xFFFFFFFF x.corrected singles, scrubAt := some s.now })
      each (doubles.filter (fun off => decide (off < galSize g.val))) (fun s off => galUncorr g.val off s) s
    else s)

/-! ## Registers (R371) -/

/-- The code of GAL_PWR.STATE. -/
def galCode (p : GalPower) : Nat :=
  match p with
  | .off => 0
  | .clearing => 1
  | .retain => 2
  | .on => 3

/-- A gallery register by offset from 0x00_0000 (0x800 to 0xBFF), as port p reads it. -/
def galRegRead (s : State) (p off : Nat) : Word :=
  if off = 0x800 then packW [((s.getHp p).galSel, 28), ((s.getHp p).galBase, 0)]
  else if 0x810 ≤ off && off < 0x830 then
    let g := (off - 0x810) / 4
    packW [(galCode (s.getGal g).power, 30), (b2n (s.up islGal && s.galOwner g), 29), ((s.getGal g).req, 0)]
  else if 0x840 ≤ off && off < 0x8C0 then
    let x := s.getGal ((off - 0x840) / 16)
    match off % 16 with
    | 0 => BitVec.ofNat 32 x.corrected
    | 4 => packW [(x.uncorr, 0)]
    | 8 => BitVec.ofNat 32 x.last
    | _ => 0
  else if 0x8C0 ≤ off && off < 0x900 then
    let x := s.getGal ((off - 0x8C0) / 8)
    if off % 8 = 0 then packW [(b2n x.collSeen, 31), (x.collUser, 24), (x.collHost, 16), (x.collCount, 0)]
    else BitVec.ofNat 32 x.collOff
  else if off = 0x900 then
    let m := s.mt
    packW [(b2n m.borrowed, 31), (b2n m.noSpare, 30), (m.remaps.length, 28), (m.segment, 19), (m.yields, 8), (m.skipped, 4), (m.fails, 0)]
  else if off = 0x904 then packW [(b2n s.mt.en, 0)]
  else 0

/-- What a read clears. -/
def galRegClear (off : Nat) (s : State) : State :=
  if 0x840 ≤ off && off < 0x8C0 then
    let g := (off - 0x840) / 16
    match off % 16 with
    | 0 => s.modGal g (fun x => { x with corrected := 0 })
    | 4 => s.modGal g (fun x => { x with uncorr := 0 })
    | _ => s
  else if 0x8C0 ≤ off && off < 0x900 && off % 8 == 0 then s.modGal ((off - 0x8C0) / 8) (fun x => { x with collCount := 0 })
  else if off = 0x900 then s.modMtIsl (fun m => { m with yields := 0, skipped := 0, fails := 0 })
  else s

/-- What a write does (R365, R360, R364, R367). -/
def galRegWrite (p off : Nat) (v : Word) (s : State) : State :=
  if off = 0x800 then s.modHp p (fun h => { h with galSel := bits v 30 28, galBase := bits v 3 0 })
  else if 0x810 ≤ off && off < 0x830 then
    let g := (off - 0x810) / 4
    galSettle g (s.modGal g (fun x => { x with req := bits v 1 0 }))
  else if 0x8C0 ≤ off && off < 0x900 && off % 8 == 0 then
    if bit v 31 then s.modGal ((off - 0x8C0) / 8) (fun x => { x with collSeen := false }) else s
  else if off = 0x904 then s.modMtIsl (fun m => { m with en := bit v 0 })
  else s

end Sys2Proof.Machine
end

