-- ==== Sys2Proof/Machine/Capture.lean ====
section
/-! DEFINITION. Chapter 16, R394 to R398: capture blocks, captures and their entries, budgets and evictions. -/

namespace Sys2Proof.Machine

/-! ## Blocks (R394, R397, R398) -/

/-- The free blocks, in number order. -/
def State.freeBlocks (s : State) : List Nat := (List.range 256).filter (fun b => !s.host.hp.any (fun h => h.2.held.contains b))

/-- R397: port p holds more blocks than its budget. -/
def State.overBudget (s : State) (p : Nat) : Bool := decide ((s.getHp p).held.length > (s.getHp p).budget)

/-- R392, R397: source BUDGET is set when OVER becomes 1. -/
def checkBudget (p : Nat) (s : State) : State :=
  let now := s.overBudget p
  let s := whenDo (now && !(s.getHp p).overBudget) (irqPort irqBudget p) s
  s.modHp p (fun h => { h with overBudget := now })

/-- R395: the running capture of port p ends. -/
def capEnd (code p : Nat) (s : State) : State :=
  if (s.getHp p).cap.busy then
    irqPort irqCapture p (s.modHp p (fun h => { h with cap := { h.cap with busy := false, ended := code, queue := [] } }))
  else s

/-- The running capture of port p uses block b. -/
def State.capUses (s : State) (p b : Nat) : Bool :=
  let c := (s.getHp p).cap
  c.busy && decide (c.runFirst ≤ b) && decide (b ≤ c.runFirst + c.runBlocks)

/-- Port p loses the blocks `l`: a capture that uses one of them ends with `code`. -/
def loseBlocks (code p : Nat) (l : List Nat) (s : State) : State :=
  let s := whenDo (l.any (fun b => (s.getHp p).held.contains b && s.capUses p b)) (capEnd code p) s
  checkBudget p (galSettle 2 (s.modHp p (fun h => { h with held := h.held.filter (fun b => !l.contains b) })))

/-- R394: a request for n blocks is decided as a whole; granted blocks are cleared. -/
def blockGo (p n : Nat) (s : State) : State :=
  let free := s.freeBlocks
  let res := fun (v : Nat) (s : State) => s.modHp p (fun h => { h with blkResult := v })
  if n = 0 ∨ n > 256 then res 3 s
  else if (s.getHp p).held.length + n > (s.getHp p).budget then res 1 s
  else if free.length < n then res 2 s
  else
    let got := free.take n
    let s := res 0 (s.modHp p (fun h => { h with held := sortBy (fun a b => decide (a ≤ b)) (h.held ++ got) }))
    let s := s.modGal 2 (fun g => { g with
      mem := got.foldl (fun m b => mclear m (0x10000 * b) 0x10000) g.mem, bad := g.bad.filter (fun a => !got.contains (a / 0x10000)) })
    checkBudget p (galSettle 2 s)

/-- R394: HP_BLK_MAP word w: the blocks written 1. -/
def releaseBlocks (p w : Nat) (mask : Word) (s : State) : State :=
  loseBlocks 4 p (((List.range 32).filter (fun i => bit mask i)).map (fun i => 32 * w + i)) s

/-- R398: GO of an eviction: the blocks of port p beyond its budget are released, the highest first. -/
def evictPort (role host p : Nat) (s : State) : State :=
  let l := (s.getHp p).held.drop (s.getHp p).budget
  let s := whenDo (!l.isEmpty) (irqPort irqBudget p) s
  raiseAudit .hostEvict p [(1, role), (1, host), (2, l.length)] (loseBlocks 3 p l s)

/-- A port's budget word (HP_BUDGET). -/
def State.budgetWord (s : State) (p : Nat) : Word :=
  let h := s.getHp p
  packW [(b2n (s.overBudget p), 31), (h.held.length, 18), (h.budget, 9), (h.share, 0)]

/-- R397: a write of HP_BUDGET would take a total above 256. -/
def State.budgetBad (s : State) (p : Nat) (v : Word) : Bool :=
  let sum := fun (f : Hp → Nat) => (([0, 1, 2, 3].filter (fun q => q != p)).map (fun q => f (s.getHp q))).foldl (· + ·) 0
  decide (sum (fun h => h.budget) + bits v 17 9 > 256) || decide (sum (fun h => h.share) + bits v 8 0 > 256)

/-- R397: HP_BUDGET of port p takes a value. -/
def budgetSet (role host p : Nat) (v : Word) (s : State) : State :=
  let old := s.budgetWord p
  let s := s.modHp p (fun h => { h with budget := bits v 17 9, share := bits v 8 0 })
  checkBudget p (raiseAudit .hostBudget p [(1, role), (1, host), (4, old.toNat), (4, (s.budgetWord p).toNat)] s)

/-! ## Captures (R395, R396) -/

/-- HP_CAP_SRC: RING, STREAM, CTX and SLOT. -/
def capRing (w : Word) : Nat := bits w 28 24
/-- STREAM. -/
def capStream (w : Word) : Nat := bits w 23 16
/-- CTX. -/
def capCtx (w : Word) : Nat := bits w 15 8
/-- SLOT. -/
def capSlot (w : Word) : Nat := bits w 2 0

/-- The entries that a capture can hold. -/
def Cap.room (c : Cap) : Nat := 8192 * (c.runBlocks + 1)

/-- R395: an entry of a source: each running capture that selects it and has not ended takes it. -/
def capSee (source : Nat) (hit : Word → Bool) (e : CapEnt) (s : State) : State :=
  each [0, 1, 2, 3] (fun s p =>
    let c := (s.getHp p).cap
    if c.busy && c.runSource == source && hit c.runSrc && decide (e.idx ≥ c.runStart) && decide (c.entries + c.queue.length < c.room) then
      s.modHp p (fun h => { h with cap := { h.cap with queue := h.cap.queue ++ [e] } })
    else s) s

/-- A ring's stream is selected. -/
def hitStream (r st : Nat) (w : Word) : Bool := capRing w == r && capStream w == st

/-- A binding is selected. -/
def hitSlot (c slot : Nat) (w : Word) : Bool := capCtx w == c && capSlot w == slot

/-- R396: the bytes of an entry. -/
def CapEnt.bytes (e : CapEnt) : List Byte := leBytes 4 (toU 32 e.value) ++ leBytes 1 e.flags ++ leBytes 3 (e.idx % 2 ^ 24)

/-- CAPTURE_ENTRY (R395, R396): the capture unit writes the next entry of a port's capture; the last one of its last block ends it. -/
def captureEntry (p : Nat) (s : State) : State :=
  let c := (s.getHp p).cap
  match c.busy, c.queue with
  | true, e :: rest =>
    let s := galPuts 2 (0x10000 * c.runFirst + 8 * c.entries) e.bytes s
    let s := s.modHp p (fun h => { h with cap := { h.cap with
      queue := rest, entries := h.cap.entries + 1, firstIdx := if h.cap.entries = 0 then e.idx else h.cap.firstIdx } })
    if c.entries + 1 = c.room then capEnd 1 p s else s
  | _, _ => s

/-- CAPTURE_ENTRY. -/
def execCaptureEntry (host : Fin 4) (s : State) : Out := onIsl islGal s (captureEntry host.val)

/-- R395: captures whose ring or context a swap removes end with SOURCE_GONE. -/
def capGone (gone : Nat → Word → Bool) (s : State) : State :=
  each [0, 1, 2, 3] (fun s p =>
    let c := (s.getHp p).cap
    if c.busy && gone c.runSource c.runSrc then capEnd 5 p s else s) s

/-- R395: ring r is gone. -/
def capRingGone (r : Nat) (s : State) : State := capGone (fun src w => decide (src < 3) && capRing w == r) s

/-- R395: context c is gone. -/
def capCtxGone (c : Nat) (s : State) : State := capGone (fun src w => src == 3 && capCtx w == c) s

end Sys2Proof.Machine
end

