-- ==== Sys2Proof/Machine/Crypto.lean ====
section
/-! DEFINITION. The check words and signatures of the spec: CRC-8 of a slot (R75), CRC-16/CCITT (R377), CRC-32 (R73,
R271), SHA-256 and HMAC-SHA-256 (R409), ECDSA over P-256 (R271). All structurally recursive. -/

namespace Sys2Proof.Machine

/-- One bit of a CRC register that shifts left (width `n`, polynomial `poly`). -/
def crcStepL (n poly r : Nat) : Nat :=
  let r2 := (r * 2) % 2 ^ n
  if r / 2 ^ (n - 1) % 2 = 1 then r2 ^^^ poly else r2

/-- Eight bits of a left-shifting CRC. -/
def crcByteL (n poly r : Nat) (b : Byte) : Nat :=
  let r := r ^^^ (b.toNat * 2 ^ (n - 8))
  crcStepL n poly (crcStepL n poly (crcStepL n poly (crcStepL n poly
    (crcStepL n poly (crcStepL n poly (crcStepL n poly (crcStepL n poly r)))))))

/-- CRC-8 with polynomial 0x2F, no reflection, from the initial value given (R75). -/
def crc8 (init : Nat) (bs : List Byte) : Byte := BitVec.ofNat 8 (bs.foldl (crcByteL 8 0x2F) init)

/-- CRC-16/CCITT of R377: polynomial 0x1021, initial value 0xFFFF, no reflection, no final XOR. -/
def crc16 (bs : List Byte) : BitVec 16 := BitVec.ofNat 16 (bs.foldl (crcByteL 16 0x1021) 0xFFFF)

/-- One bit of the reflected CRC-32. -/
def crc32Step (r : Nat) : Nat := if r % 2 = 1 then (r / 2) ^^^ 0xEDB88320 else r / 2

/-- Eight bits of the reflected CRC-32. -/
def crc32Byte (r : Nat) (b : Byte) : Nat :=
  crc32Step (crc32Step (crc32Step (crc32Step (crc32Step (crc32Step (crc32Step (crc32Step (r ^^^ b.toNat))))))))

/-- CRC-32 with the IEEE polynomial (R73, R271). -/
def crc32 (bs : List Byte) : Word := BitVec.ofNat 32 (bs.foldl crc32Byte 0xFFFFFFFF ^^^ 0xFFFFFFFF)

/-! ## SHA-256

R409 and R271 name HMAC-SHA-256 and SHA-256 and rest on their public definition. Its constants are not tabled here but computed from what
they are: the first 32 bits after the point of the square or cube roots of the first primes. -/

/-- The primes below 312, of which there are 64. -/
def shaPrimes : List Nat := (List.range' 2 310).filter (fun n => [2, 3, 5, 7, 11, 13, 17].all (fun d => n == d || n % d != 0))

/-- The greatest r + t with t below 2^n whose e-th power is at most x. -/
def rootFrom (e x : Nat) : Nat → Nat → Nat
  | 0, r => r
  | n + 1, r => rootFrom e x n (if (r + 2 ^ n) ^ e ≤ x then r + 2 ^ n else r)

/-- The first 32 bits after the point of the e-th root of p, for a root below 32. -/
def rootBits (e p : Nat) : Word := BitVec.ofNat 32 (rootFrom e (p * 2 ^ (32 * e)) 37 0)

/-- A word turned right by each of the amounts, the results added without carry. -/
def turned (l : List Nat) (w : Word) : Word := l.foldl (fun x n => x ^^^ w.rotateRight n) 0

/-- The schedule word that follows sixteen others, which stand with the latest first. -/
def shaNext (l : List Word) : Word :=
  let two := l.getD 1 0
  let fifteen := l.getD 14 0
  (turned [17, 19] two ^^^ two >>> 10) + l.getD 6 0 + ((turned [7, 18] fifteen ^^^ fifteen >>> 3) + l.getD 15 0)

/-- `n` more schedule words, the latest first. -/
def shaGrow : Nat → List Word → List Word
  | 0, l => l
  | n + 1, l => shaGrow n (shaNext l :: l)

/-- One step of the compression: the eight working words and a schedule word with its constant added. -/
def shaStep (v : List Word) (kw : Word) : List Word :=
  match v with
  | [a, b, c, d, e, f, g, h] =>
    let pick := g ^^^ (e &&& (f ^^^ g))
    let most := (a &&& b) ||| (c &&& (a ||| b))
    let t := kw + h + turned [6, 11, 25] e + pick
    [t + most + turned [2, 13, 22] a, a, b, c, t + d, e, f, g]
  | v => v

/-- The big-endian words of a list of bytes. -/
def beWords : Nat → List Byte → List Word
  | 0, _ => []
  | n + 1, bs => BitVec.ofNat 32 (beNat (bs.take 4)) :: beWords n (bs.drop 4)

/-- A block of sixteen words enters the chaining value; `ks` are the 64 constants. -/
def shaBlock (ks : List Word) (v : List Word) (block : List Word) : List Word :=
  let ws := (shaGrow 48 block.reverse).reverse
  List.zipWith (· + ·) v (List.foldl shaStep v (List.zipWith (· + ·) ks ws))

/-- `n` blocks of sixteen words. -/
def shaBlocks (ks : List Word) : Nat → List Word → List Word → List Word
  | 0, _, v => v
  | n + 1, ws, v => shaBlocks ks n (ws.drop 16) (shaBlock ks v (ws.take 16))

/-- The message with a one bit, zeros and its length in bits in the last eight bytes of a block. -/
def shaPad (bs : List Byte) : List Byte :=
  let zeros := 63 - (bs.length + 8) % 64
  bs ++ 0x80 :: List.replicate zeros 0 ++ (leBytes 8 (8 * bs.length)).reverse

/-- SHA-256: 32 bytes. -/
def sha256 (bs : List Byte) : List Byte :=
  let m := shaPad bs
  let v := shaBlocks (shaPrimes.map (rootBits 3)) (m.length / 64) (beWords (m.length / 4) m) ((shaPrimes.take 8).map (rootBits 2))
  v.flatMap (fun w => (leBytes 4 w.toNat).reverse)

/-- HMAC-SHA-256 with a key of 32 bytes. -/
def hmac256 (key msg : List Byte) : List Byte :=
  let k := key ++ List.replicate (64 - key.length) 0
  sha256 (k.map (· ^^^ 0x5C) ++ sha256 (k.map (· ^^^ 0x36) ++ msg))

/-! ## ECDSA over P-256 -/

/-- The field prime of P-256. -/
def p256 : Nat := 0xffffffff00000001000000000000000000000000ffffffffffffffffffffffff
/-- The group order of P-256. -/
def n256 : Nat := 0xffffffff00000000ffffffffffffffffbce6faada7179e84f3b9cac2fc632551
/-- The constant term of the curve. -/
def b256 : Nat := 0x5ac635d8aa3a93e7b3ebbd55769886bc651d06b0cc53b0f63bce3c3e27d2604b
/-- The base point. -/
def g256 : Nat × Nat :=
  (0x6b17d1f2e12c4247f8bce6e563a440f277037d812deb33a0f4a13945d898c296,
   0x4fe342e2fe1a7f9b8ee7eb4a7c0f9e162bce33576b315ececbb6406837bf51f5)

/-- x^e mod m, over the low `n` bits of `e`, most significant first. -/
def powMod (m x e : Nat) : Nat → Nat
  | 0 => 1 % m
  | n + 1 =>
    let r := powMod m x (e / 2) n
    let r2 := r * r % m
    if e % 2 = 1 then r2 * x % m else r2

/-- The inverse modulo a prime. -/
def invMod (m x : Nat) : Nat := powMod m x (m - 2) 256

/-- A point in Jacobian coordinates (Z = 0: the point at infinity). -/
structure Jac where
  x : Nat
  y : Nat
  z : Nat
  deriving DecidableEq, Repr

/-- Subtraction modulo the field prime. -/
def fsub (a b : Nat) : Nat := (a + (p256 - b % p256)) % p256

/-- Doubling. -/
def jDbl (q : Jac) : Jac :=
  if q.z = 0 ∨ q.y = 0 then ⟨1, 1, 0⟩
  else
    let yy := q.y * q.y % p256
    let s := 4 * q.x * yy % p256
    let zz := q.z * q.z % p256
    let m := 3 * fsub q.x zz * ((q.x + zz) % p256) % p256
    let x := fsub (m * m % p256) (2 * s)
    ⟨x, fsub (m * fsub s x % p256) (8 * (yy * yy % p256)), 2 * q.y * q.z % p256⟩

/-- Addition. -/
def jAdd (a b : Jac) : Jac :=
  if a.z = 0 then b
  else if b.z = 0 then a
  else
    let za := a.z * a.z % p256
    let zb := b.z * b.z % p256
    let u1 := a.x * zb % p256
    let u2 := b.x * za % p256
    let s1 := a.y * zb % p256 * b.z % p256
    let s2 := b.y * za % p256 * a.z % p256
    if u1 = u2 then (if s1 = s2 then jDbl a else ⟨1, 1, 0⟩)
    else
      let h := fsub u2 u1
      let r := fsub s2 s1
      let hh := h * h % p256
      let hhh := h * hh % p256
      let v := u1 * hh % p256
      let x := fsub (fsub (r * r % p256) hhh) (2 * v)
      ⟨x, fsub (r * fsub v x % p256) (s1 * hhh % p256), a.z * b.z % p256 * h % p256⟩

/-- Multiplication by the low `n` bits of `k`, most significant first. -/
def jMul (q : Jac) (k : Nat) : Nat → Jac
  | 0 => ⟨1, 1, 0⟩
  | n + 1 =>
    let r := jDbl (jMul q (k / 2) n)
    if k % 2 = 1 then jAdd r q else r

/-- Whether (x, y) is a point of the curve with both coordinates in the field. -/
def onCurve (x y : Nat) : Bool :=
  decide (x < p256) && decide (y < p256) &&
  decide (y * y % p256 = (x * x % p256 * x + (p256 - 3) * x + b256) % p256)

/-- ECDSA over P-256 of a SHA-256 digest: signature (r, s) under the public key (x, y). -/
def ecdsaVerify (x y : Nat) (digest : List Byte) (r s : Nat) : Bool :=
  if onCurve x y && decide (0 < r) && decide (r < n256) && decide (0 < s) && decide (s < n256) then
    let e := beNat digest
    let w := invMod n256 s
    let u1 := e * w % n256
    let u2 := r * w % n256
    let q := jAdd (jMul ⟨g256.1, g256.2, 1⟩ u1 256) (jMul ⟨x, y, 1⟩ u2 256)
    if q.z = 0 then false
    else
      let zi := invMod p256 q.z
      decide (q.x * (zi * zi % p256) % p256 % n256 = r)
  else false

end Sys2Proof.Machine
end

