-- ==== Sys2Proof/Machine/Timebase.lean ====
section
/-! DEFINITION. Chapter 2: the NCO, the sample index, time of day and the discipline loop, and the timebase registers (R66). -/

namespace Sys2Proof.Machine

/-- R41: the lower limit of the ratio. -/
def ratioLo : Nat := 0x4FFBE76C8B44
/-- R41: the upper limit of the ratio. -/
def ratioHi : Nat := 0x5004189374BC
/-- R52: ticks in a counted second. -/
def ticksPerSec : Nat := 384000
/-- R57: the sampling lead L. -/
def lead : Nat := 112

/-- R41: a ratio clamped to the limits. -/
def clampRatio (r : Nat) : Nat := min (max r ratioLo) ratioHi

/-- R43: the most the ratio may change in `ticks` ticks: 0.5 · 10^-6 of its value per second. -/
def slewLimit (ratio ticks : Nat) : Nat := ratio * ticks / (2000000 * ticksPerSec)

/-- R43: the ratio moved from `r` towards `goal` within what `ticks` ticks allow. -/
def slew (r goal ticks : Nat) : Nat :=
  let m := slewLimit r ticks
  if goal > r + m then r + m else if goal + m < r then r - m else goal

/-- R41: the ratio becomes `r` on the way to the one asked for; RANGE while it is held at a limit by the clamp. R43: the index
of the ratio's last change is kept. -/
def useRatio (asked r : Nat) (t : Tb) : Tb :=
  { t with ratio := r, chgAt := if r = t.ratio then t.chgAt else t.idx, range := (decide (asked < ratioLo) && r == ratioLo) || (decide (asked > ratioHi) && r == ratioHi) }

/-- From the present tick on, FREE and HOLDOVER slew from the present ratio. -/
def slewHere (t : Tb) : Tb := { t with slewFrom := t.ratio, slewAt := t.idx }

/-- Set the ratio asked for by the loop: clamped (R41), within what the ticks since the last change allow (R43). -/
def setRatio (asked ticks : Nat) (t : Tb) : Tb := slewHere (useRatio asked (slew t.ratio (clampRatio asked) ticks) t)

/-- R50: the mean of the ratios of the last 16 accepted edges. DESIGN CHOICE (log entry 78): with fewer than 16 accepted edges it is
the mean of those there are, and with none the present ratio. -/
def Tb.meanRatio (t : Tb) : Nat :=
  if t.ratios.isEmpty then t.ratio else rneN (t.ratios.foldl (· + ·) 0) t.ratios.length

/-- R50: the ratio on its way to `asked` at the rate of R43. -/
def slewTo (asked : Nat) (t : Tb) : Tb := useRatio asked (slew t.slewFrom (clampRatio asked) (t.idx - t.slewAt)) t

/-- R50: in FREE and HOLDOVER the ratio moves to where it rests. -/
def restRatio (t : Tb) : Tb :=
  match t.disc with
  | .free => slewTo t.nom t
  | .holdover => slewTo t.meanRatio t
  | .acquire | .locked => t

/-- R40: the NCO adds 2^40 per REFCLK cycle until the accumulator reaches the ratio, issues the tick and keeps the
remainder; R44: the index advances by 1. -/
def ncoTick (t : Tb) : Tb :=
  let n := cdiv (t.ratio - t.phase) (2 ^ 40)
  restRatio { t with phase := t.phase + n * 2 ^ 40 - t.ratio, idx := (t.idx + 1) % 2 ^ 64 }

/-- Leaving LOCKED sets TB_STAT.LOCK_LOST (R66). -/
def setDisc (d : Disc) (t : Tb) : Tb :=
  slewHere { t with
    disc := d, lockLost := t.lockLost || (t.disc == .locked && d != .locked), goodRun := 0, badRun := 0, outRun := [] }

/-- R56: TRACEABLE. -/
def Tb.traceable (t : Tb) : Bool := t.disc == .locked && t.taiValid

/-- R55: what held before the tick of boundary `b`: the newest entry made before it, or the one the list begins with. -/
def heldBefore {α : Type} (b : Nat) (first : α) (l : List (Nat × α)) : α :=
  match l.find? (fun e => decide (e.1 < b)) with
  | some e => e.2
  | none => first

/-- R55: an entry for the present tick, which takes the place of one already made in it. Entries older than any boundary that an
edge can move (R51: TB_PPS_DELAY is below 32,768 ticks) are needed no more but for the newest of them. -/
def noteHeld {α : Type} (now : Nat) (v : α) (l : List (Nat × α)) : List (Nat × α) :=
  let l := l.filter (fun e => e.1 != now)
  let recent := l.filter (fun e => decide (e.1 + 40000 ≥ now))
  (now, v) :: recent ++ (l.find? (fun e => decide (e.1 + 40000 < now))).toList

/-- R52: a new counted boundary: R54 counts TAI on, R55 applies TB_TAI_SET where ARM was set in an earlier tick. ARM written in the
boundary's own tick, or later where an edge moved the boundary back, stays set for the following boundary. -/
def taiBoundary (b : Nat) (s : State) : State :=
  let t := s.tb
  if t.arm && decide (t.armAt < b) then
    let v := heldBefore b 0 t.taiHist
    let by_ := heldBefore b (0, 0) t.taiBy
    raiseAt .tbTaiApplied b 0 [(1, by_.1), (1, by_.2), (8, v)]
      { s with tb := { t with second := b, taiSec := v, taiValid := true, arm := decide (t.armLast ≥ b), armAt := t.armLast } }
  else { s with tb := { t with second := b, taiSec := if t.taiValid then (t.taiSec + 1) % 2 ^ 48 else t.taiSec } }

/-- R55: a write of TB_TAI_SET, with the tick of the write. -/
def writeTaiSet (v : Nat) (t : Tb) : Tb := { t with taiSet := v, taiHist := noteHeld t.idx v t.taiHist }

/-- R55: who wrote TB_TAI_SET or ARM, with the tick of the write. -/
def writeTaiBy (role host : Nat) (t : Tb) : Tb := { t with taiBy := noteHeld t.idx (role, host) t.taiBy }

/-- R50: a write of 0 to DISC_EN leaves ACQUIRE, LOCKED and HOLDOVER for FREE. -/
def writeDiscEn (en : Bool) (t : Tb) : Tb :=
  if en then { t with discEn := true } else setDisc .free { t with discEn := false }

/-- The timebase registers as read (R66), by offset from 0x01_0000. -/
def tbRead (t : Tb) (off : Nat) : Word :=
  match off with
  | 0x00 => packW [(min t.tau 7, 1), (b2n t.discEn, 0)]
  | 0x04 => packW [(b2n t.taiValid, 15), (b2n t.traceable, 14), (b2n t.range, 13), (b2n t.lockLost, 12),
      (b2n t.secondStep, 11),
      (b2n (match t.lastEdge with | none => false | some e => decide (t.idx ≤ e / 65536 + 576000)), 10),
      (match t.disc with | .free => 0 | .acquire => 1 | .locked => 2 | .holdover => 3, 0)]
  | 0x08 => wordOf t.idx 0
  | 0x0C => wordOf t.idx 1
  | 0x10 => wordOf t.taiSec 0
  | 0x14 => wordOf t.taiSec 1
  | 0x18 => BitVec.ofNat 32 ((t.idx - t.second) % 2 ^ 19)
  | 0x20 => wordOf t.ratio 0
  | 0x24 => wordOf t.ratio 1
  | 0x28 => t.nomLo
  | 0x2C => wordOf t.nom 1
  | 0x30 => BitVec.ofInt 32 t.err
  | 0x34 => BitVec.ofInt 32 t.delay
  | 0x38 => wordOf t.second 0
  | 0x3C => wordOf t.second 1
  | 0x40 => wordOf t.taiSet 0
  | 0x44 => wordOf t.taiSet 1
  | 0x48 => packW [(b2n t.arm, 0)]
  | 0x4C => wordOf t.epoch 0
  | 0x50 => BitVec.ofNat 32 lead
  | 0x54 => packW [(t.outliers, 16), (t.steps, 0)]
  | _ => 0

/-- A write of a timebase register (R66) by a host port in a role. -/
def tbWrite (role host off : Nat) (v : Word) (t : Tb) : Tb :=
  match off with
  | 0x00 => writeDiscEn (bit v 0) { t with tau := bits v 3 1 }
  | 0x04 => { t with lockLost := t.lockLost && !bit v 12, secondStep := t.secondStep && !bit v 11 }
  | 0x28 => { t with nomLo := v }
  | 0x2C => slewHere { t with nom := (bits v 15 0) * 2 ^ 32 + t.nomLo.toNat }
  | 0x34 => { t with delay := sgn 32 v.toNat }
  | 0x40 => writeTaiBy role host (writeTaiSet (setWordOf t.taiSet 0 v) t)
  | 0x44 => writeTaiBy role host (writeTaiSet (setWordOf t.taiSet 1 v % 2 ^ 48) t)
  | 0x48 => if bit v 0 then
      writeTaiBy role host { t with arm := true, armAt := if t.arm then t.armAt else t.idx, armLast := t.idx } else t
  | _ => t

/-- Reading a read-to-clear field clears it (R7). -/
def tbClear (off : Nat) (t : Tb) : Tb :=
  match off with
  | 0x54 => { t with outliers := 0, steps := 0 }
  | _ => t

end Sys2Proof.Machine
end

