-- ==== Sys2Proof/Machine/Rings.lean ====
section
/-! DEFINITION. Chapter 3: link ports and rings: port lock, frames, training, delays, the grading and release of slots,
cells, wraps and backfill, and the port and ring registers (R105). -/

namespace Sys2Proof.Machine

/-! ## Ports -/

/-- R78: the code of LNK_STAT.STATE; OFF for a retired port or an undeclared ring. -/
def portStateCode (rg : Ring) (p : Port) : Nat :=
  if p.retired || rg.st == .off then 5
  else match p.rx with
    | .down => 0
    | .signal => 1
    | .bitLock => 2
    | .charAlign => 3
    | .frameLock => 4

/-- The port works: its ring is declared and it is not retired. -/
def State.portLive (s : State) (k : Nat) : Bool := (s.getRing (k / 2)).st != .off && !(s.getPort k).retired

/-- R104: the receiver of port 2r is powered down in SHED. -/
def State.rxOff (s : State) (k : Nat) : Bool := (s.getRing (k / 2)).st == .shed && k % 2 == 0

/-- LNK_UNLOCK.TICKS: ticks since FRAME_LOCK was last held. -/
def State.unlockTicks (s : State) (k : Nat) : Nat :=
  let p := s.getPort k
  if portStateCode (s.getRing (k / 2)) p = 4 then 0 else min (s.now - p.lockAt) 0xFFFFF

/-- R69, R82: the transmitter of a port is on: its ring is declared and the port is not retired. -/
def State.txOn (s : State) (k : Nat) : Bool := s.portLive k && s.linkUp (k / 2)

/-- R501: both ports of ring r are retired: the ring is in service no more and its slots go on as missing. -/
def dropService (r : Nat) (s : State) : State :=
  if (s.getPort (2 * r)).retired && (s.getPort (2 * r + 1)).retired then
    s.modRing r (fun rg => { rg with
      st := if rg.st == .off then .off else .train, runFrame := none, copies := [], turned := none, fu := none, waitsDone := false })
  else s

/-- R82, R304: a port is retired: its transmitter is off and its state OFF. Criterion 0: out of lock for more than 1 s;
1: its link island lost its PLL (R500). -/
def retirePort (crit k : Nat) (s : State) : State :=
  if (s.getPort k).retired then s
  else dropService (k / 2) (raise .portRetired k [(1, crit), (4, s.unlockTicks k)]
    (s.modPort k (fun p => { p with retired := true, rx := .down, signal := false, cdr := false, lastLooped := false })))

/-- R79: a port leaves FRAME_LOCK. -/
def leaveLock (k : Nat) (rx : Rx) (s : State) : State :=
  raise .lnkLockLost k [(8, s.now)]
    (s.modPort k (fun p => { p with
      rx := rx, lockLost := true, lockAt := s.now, commaRun := 0, goodRun := 0, badRun := 0, arrSum := 0, arrCnt := 0
      restoreAt := none }))

/-- R79: one more bad frame period; the fourth in a row ends FRAME_LOCK. -/
def badPeriod (k : Nat) (s : State) : State :=
  let p := s.getPort k
  let s := s.modPort k (fun p => { p with
    badRun := p.badRun + 1, expIdx := p.expIdx + 1, frameErr := satAdd 0xFFFF p.frameErr 1, restoreAt := none })
  if p.badRun + 1 ≥ 4 then leaveLock k (if p.cdr then .bitLock else .down) s else s

/-- R79: a frame period in which no comma arrives where one is expected. -/
def noComma (k : Nat) (s : State) : State :=
  match (s.getPort k).rx with
  | .frameLock => badPeriod k s
  | .charAlign | .bitLock => s.modPort k (fun p => { p with commaRun := 0, goodRun := 0, lastArr := none })
  | .signal | .down => s

/-! ## Frames (R71 to R76) -/

/-- The bytes of the characters from `a` to `b - 1`. -/
def chrBytes (cs : List Chr) (a b : Nat) : List Byte := ((cs.drop a).take (b - a)).map (fun c => c.truncate 8)

/-- A little-endian field. -/
def chrField (cs : List Chr) (a n : Nat) : Nat := leNat (chrBytes cs a (a + n))

/-- K28.5, K28.0 and K28.2. -/
def kComma : Chr := 0x1BC
/-- DIR of frames sent from port 2r. -/
def kEast : Chr := 0x11C
/-- DIR of frames sent from port 2r+1. -/
def kWest : Chr := 0x15C

/-- What a received frame says of itself. -/
structure FrameHdr where
  comma : Bool
  dir : Chr
  idx : Nat
  hop : Nat
  ctl : Nat
  rid : Nat
  wrapPos : Nat
  wrapFrame : Nat
  ctlOk : Bool
  slotOk : Bool
  deriving DecidableEq, Repr

/-- Read the fields and check both FCS fields (R71, R73). -/
def frameHdr (cs : List Chr) : FrameHdr :=
  { comma := cs.getD 0 0 == kComma
    dir := cs.getD 1 0
    idx := chrField cs 2 6
    hop := chrField cs 8 1
    ctl := chrField cs 9 1
    rid := chrField cs 10 1
    wrapPos := chrField cs 11 1
    wrapFrame := chrField cs 12 4
    ctlOk := decide (cs.length ≥ 1276) &&
      (crc32 (chrBytes cs 2 16 ++ chrBytes cs 1040 1272)).toNat == chrField cs 1272 4
    slotOk := decide (cs.length ≥ 1280) && (crc32 (chrBytes cs 16 1040)).toNat == chrField cs 1276 4 }

/-- R72: LOOPED. -/
def FrameHdr.looped (h : FrameHdr) : Bool := nbits h.ctl 4 4 == 1
/-- R72: RESTORE_SEEN. -/
def FrameHdr.restore (h : FrameHdr) : Bool := nbits h.ctl 3 3 == 1
/-- R72: OVERFULL. -/
def FrameHdr.overfull (h : FrameHdr) : Bool := nbits h.ctl 2 2 == 1
/-- R72: BACKFILL. -/
def FrameHdr.backfill (h : FrameHdr) : Bool := nbits h.ctl 1 1 == 1

/-- R75: the CRC-8 of a slot over the low byte of the frame index, the position and bytes 0 to 6. -/
def slotCrc (frame pos : Nat) (b7 : List Byte) : Byte :=
  crc8 0xFF (BitVec.ofNat 8 frame :: BitVec.ofNat 8 pos :: b7)

/-- R75, R90: grade the 8 bytes of a received slot. -/
def gradeSlot (frame pos : Nat) (slotOk : Bool) (bs : List Byte) : Grade :=
  if bs.length < 8 then .failed
  else
    let c := slotCrc frame pos (bs.take 7)
    let x := bs.getD 7 0
    if x = c then (if slotOk then .full else .checkOnly)
    else if x = c ^^^ 0xFF then .void
    else .failed

/-- The graded slots of a received frame. -/
def frameSlots (frame : Nat) (slotOk : Bool) (cs : List Chr) : List (Grade × List Byte) :=
  (List.range 128).map (fun p =>
    let bs := chrBytes cs (16 + 8 * p) (24 + 8 * p)
    (gradeSlot frame p slotOk bs, bs))

/-- Received slot copies that failed R75: those received whole with a wrong check byte. -/
def slotFails (slots : List (Grade × List Byte)) : Nat :=
  (slots.filter (fun g => g.1 == .failed && g.2.length == 8)).length

/-- The grade order of R90. -/
def gradeRank (g : Grade) : Nat :=
  match g with
  | .failed => 0
  | .void => 1
  | .checkOnly => 2
  | .full => 3

/-! ## The ring's lags -/

/-- The lead in q. -/
def leadQ : Nat := lead * 10240

/-- R87: the port's mean arrival in q/256. DESIGN CHOICE (log entry 85): until 256 frames have arrived since the path last changed, the
mean of those that have (0 with none). -/
def Port.mean (p : Port) : Nat :=
  match p.arrMean with
  | some m => m
  | none => if p.arrCnt = 0 then 0 else rneN (p.arrSum * 256) p.arrCnt

/-- The mean arrival at port k. -/
def State.arrOf (s : State) (k : Nat) : Nat := (s.getPort k).mean

/-- The ring runs in a wrap. -/
def State.wrapped (s : State) (r : Nat) : Bool := (s.getRing r).st == .wrap

/-- R89, R91: the half-ring round trip seen at port k in q/256; 0 where the port receives no turned frames. -/
def State.halfTrip (s : State) (k : Nat) : Nat :=
  if (s.getPort k).rx == .frameLock && (s.getPort k).lastLooped then s.arrOf k else 0

/-- R91: the longest round trip that a half of the ring can have, in q/512: twice D, or the limit of R70 where D was never measured. -/
def Ring.longestTrip (rg : Ring) : Nat := if rg.d = 0 then 2 * 96 * 10240 * 512 else 2 * rg.d

/-- R91: the half-ring round trip at port k in q/512 for frames that have still to arrive. DESIGN CHOICE (log entry 118): a port in
FRAME_LOCK that has seen no turned frame of the wrap counts with the longest trip its half can have; one out of lock, or one on which
frames of the full ring already arrive after F_u, with none. -/
def State.tripLeft (s : State) (k : Nat) : Nat :=
  let p := s.getPort k
  if p.rx != .frameLock || p.retired then 0
  else if p.lastLooped then 2 * s.arrOf k
  else if (s.getRing (k / 2)).fu.isSome then 0
  else (s.getRing (k / 2)).longestTrip

/-- R91: D* in q/512 for the index that the ring releases next: D outside a wrap and for frames from F_u on (R101), the larger half-ring
round trip within one. -/
def State.dStar (s : State) (r : Nat) : Nat :=
  let rg := s.getRing r
  let past := match rg.fu with | none => false | some f => decide (rg.nextRel + rg.k ≥ f)
  if s.wrapped r && !past then max (s.tripLeft (2 * r)) (s.tripLeft (2 * r + 1)) else rg.d

/-- R91: the delivery lag Λ_r in ticks. -/
def State.deliverLag (s : State) (r : Nat) : Nat :=
  (((s.getRing r).k * 10240 + 11264 - leadQ) * 512 + s.dStar r) / (10240 * 512)

/-- R86: the carry lag for the smallest delay `dmin` (q/1024). -/
def carryLag (dmin : Nat) : Nat := cdiv ((leadQ + 4096) * 1024 - dmin) (10240 * 1024)

/-- The heads of the plan on ring r. -/
def planHeadsOn (p : Plan) (r : Nat) : List PlanHead := p.heads.filter (fun h => h.ring == r)

/-- The plan whose ring table governs ring r: the plan in force where it declares the ring, else the plan being prepared
(R287). -/
def State.ringPlan (s : State) (r : Nat) : Option Plan :=
  match s.plan.cur with
  | some p => if p.rings.any (fun x => x.ring == r) then some p else s.plan.next
  | none => s.plan.next

/-- The positions of ring r whose head is at least joining. -/
def State.ringPos (s : State) (r : Nat) : List Nat :=
  (List.range 128).filter (fun p =>
    match (s.getHead (128 * r + p)).st with
    | .joining | .admitted => true
    | .notDeclared | .absent => false)

/-- The positions that plans list on ring r, whether or not their heads are there. -/
def State.listedPos (s : State) (r : Nat) : List Nat :=
  (List.range 128).filter (fun p => (s.getHead (128 * r + p)).st != .notDeclared)

/-- The smallest one-way delay of the ring's heads in q/1024 with its position; none without heads. -/
def State.ringMin (s : State) (r : Nat) : Option (Nat × Nat) :=
  (s.ringPos r).foldl (fun m p =>
    let h := s.getHead (128 * r + p)
    let d := (min h.dw h.de).toNat
    match m with
    | none => some (d, p)
    | some (e, q) => if d < e then some (d, p) else some (e, q)) none

/-- R58: a wait in q: L − d − δ, formed exactly and rounded to the nearest, ties to even. -/
def waitOf (d : Int) (mod : Nat) : Nat := (rne (((leadQ - mod : Nat) : Int) * 1024 - d) 1024).toNat

/-- R58: the four waits of a head: west primary, west alternate, east primary, east alternate. -/
def headWaits (h : Head) : List Nat := [waitOf h.dw h.modP, waitOf h.dw h.modA, waitOf h.de h.modP, waitOf h.de h.modA]

/-- R59: a head with these waits times itself from the direction whose primary wait is larger, west on a tie. -/
def timesEast (waits : List Nat) : Bool := decide (waits.getD 2 0 > waits.getD 0 0)

/-- The timing of a head in force at index n. -/
def Head.timingAt (h : Head) (n : Nat) : Timing := (h.timing.find? (fun t => decide (t.from_ ≤ n))).getD {}

/-- The waits last confirmed. -/
def Head.lastWaits (h : Head) : List Nat := (h.timing.headD {}).waits

/-- The timings that samples from `now` − 400,000 on may need. -/
def pruneTiming (now : Nat) : List Timing → List Timing
  | [] => []
  | t :: l => if t.from_ + 400000 ≤ now then [t] else t :: pruneTiming now l

/-- R157: a change of a head's timing from index f on. -/
def Head.retime (now f : Nat) (upd : Timing → Timing) (h : Head) : Head :=
  let after := (h.timing.filter (fun t => decide (t.from_ > f))).map upd
  let at_ := upd { h.timingAt f with from_ := f }
  { h with timing := pruneTiming now (after ++ at_ :: h.timing.filter (fun t => decide (t.from_ < f))) }

/-- R59, R97: the direction of a head in the half of a wrap that holds it until frame F_u, else by its waits. -/
def Head.dirAt (h : Head) (fu : Option Nat) (n : Nat) (waits : List Nat) : Bool :=
  let wraps := match fu with | none => true | some f => decide (n < f)
  match h.half with
  | some e => if wraps then e else timesEast waits
  | none => timesEast waits

/-- R60: confirmed waits of head h, formed from the delays dw and de, are in force from index f on. -/
def waitsFrom (h f : Nat) (waits : List Nat) (dw de : Int) (s : State) : State :=
  let fu := (s.getRing (h / 128)).fu
  s.modHead h (fun x => x.retime s.now f (fun t => { t with waits := waits, dw := dw, de := de, east := x.dirAt fu t.from_ waits }))

/-- R59: head h times itself from a direction from index f on. DESIGN CHOICE (log entry 126): the delays that R157 uses stay those stored
with the wait in force. -/
def turnHead (h f : Nat) (east : Bool) (s : State) : State :=
  s.modHead h (fun x => x.retime s.now f (fun t => { t with east := east }))

/-! ## Receiving a frame (R79 to R81, R97 to R103) -/

/-- R99: a backfill entry: position, frame and slot bytes. -/
def laneEntry (cs : List Chr) (e : Nat) : Nat × Nat × List Byte :=
  (chrField cs (1168 + 13 * e) 1, chrField cs (1169 + 13 * e) 4, chrBytes cs (1173 + 13 * e) (1181 + 13 * e))

/-- The frame index nearest `near` whose low 32 bits are given. -/
def unwrap32 (near low : Nat) : Nat :=
  let base := near / 2 ^ 32 * 2 ^ 32 + low % 2 ^ 32
  if base > near + 2 ^ 31 then base - 2 ^ 32 else if base + 2 ^ 31 < near then base + 2 ^ 32 else base

/-- R99: one backfill entry that passes R75 fills a held hole, or is discarded and counted where the slot is held. DESIGN CHOICE (log
entry 89): an entry for an index that has not been graded and that no received copy holds yet is kept as one more copy of grade Full,
and counted in USED at once. -/
def fillHole (r frame pos : Nat) (bs : List Byte) (s : State) : State :=
  let rg := s.getRing r
  let n := frame - rg.k
  let hole := rg.held.any (fun e => e.idx == n && (e.slots.getD pos (.void, [])).1 == .failed)
  if frame ≥ rg.k && hole then
    s.modRing r (fun rg => { rg with
      bfUsed := satAdd 0xFFFF rg.bfUsed 1
      held := rg.held.map (fun e => if e.idx = n then { e with slots := e.slots.set pos (.full, bs) } else e) })
  else if frame ≥ rg.k + rg.nextRel &&
      !(rg.copies.any (fun c => c.frame == frame && decide (gradeRank (c.slots.getD pos (.failed, [])).1 ≥ 2))) then
    s.modRing r (fun rg => { rg with
      bfUsed := satAdd 0xFFFF rg.bfUsed 1
      copies := rg.copies ++ [{ frame := frame, east := false, arrival := 0, looped := true, lane := true
                                slots := (List.replicate 128 (.failed, [])).set pos (.full, bs) }] })
  else s.modRing r (fun rg => { rg with bfDisc := satAdd 0xFFFF rg.bfDisc 1 })

/-- R99: the eight entries of a frame's lane; an entry is empty when its position is 0xFF. -/
def laneFill (r near : Nat) (cs : List Chr) (s : State) : State :=
  (List.range 8).foldl (fun s e =>
    let (pos, low, bs) := laneEntry cs e
    let frame := unwrap32 near low
    if pos < 128 && bs.length == 8 && bs.getD 7 0 == slotCrc frame pos (bs.take 7) then fillHole r frame pos bs s else s) s

/-- R100, R103: the ring's state after the first turned frame of a wrap: a break in training returns to TRAIN. -/
def RingSt.broken (st : RingSt) : RingSt :=
  match st with
  | .run | .wrap => .wrap
  | .train | .enum | .measure | .waits => .train
  | .off => .off
  | .shed => .shed

/-- R59, R97: the heads between port k and the head at position w that turns its frames time themselves from port k from frame `ft` on,
the first that the turning head turned. -/
def turnHalf (k w ft : Nat) (s : State) : State :=
  let r := k / 2
  let east := k % 2 == 1
  let edge := (s.getHead (128 * r + w)).dw
  if w ≥ 128 then s
  else each (s.listedPos r) (fun s p =>
    let h := 128 * r + p
    let dw := (s.getHead h).dw
    if (if east then decide (dw ≥ edge) else decide (dw ≤ edge)) then
      turnHead h ft east (s.modHead h (fun x => { x with half := some east }))
    else s) s

/-- R100: the first turned frame at a port starts a wrap, or lowers its first frame where the other turning head turned earlier. Frames
of the wrap that the port has already seen, after a loss of lock, start none. -/
def firstTurned (k : Nat) (h : FrameHdr) (s : State) : State :=
  let r := k / 2
  let ft := unwrap32 h.idx h.wrapFrame
  if (s.getPort k).wrapSeen == some ft then s
  else
  let s := s.modPort k (fun p => { p with wrapSeen := some ft })
  let other := (s.getPort (if k % 2 = 0 then k + 1 else k - 1)).lastLooped
  let s := if other then s.modRing r (fun rg => { rg with
        wrapAt := if rg.st == .wrap then min rg.wrapAt (ft - rg.k) else rg.wrapAt
        turned := rg.turned.map (fun t => min t ft) })
    else s.modRing r (fun rg => { rg with
        breakSeen := true, eastHead := 255, westHead := 255, wrapAt := ft - rg.k, turned := some ft, fu := none, st := rg.st.broken })
  whenDo (s.wrapped r) (turnHalf k h.wrapPos ft) s

/-- R100: a turned frame: its turning position, and what the first one at its port does. R104: no wrap is started in SHED. -/
def seeLooped (k : Nat) (h : FrameHdr) (s : State) : State :=
  let r := k / 2
  if (s.getRing r).st == .shed then s
  else
    let s := whenDo (!(s.getPort k).lastLooped) (firstTurned k h) s
    s.modRing r (fun rg => if k % 2 = 0 then { rg with westHead := h.wrapPos } else { rg with eastHead := h.wrapPos })

/-- R87: one more arrival in the running mean over 256 frames. -/
def addArrival (a : Nat) (p : Port) : Port :=
  if p.arrCnt + 1 ≥ 256 then { p with arrMean := some (p.arrSum + a), arrSum := 0, arrCnt := 0 }
  else { p with arrSum := p.arrSum + a, arrCnt := p.arrCnt + 1 }

/-- R87, R89: the mean starts anew when turned frames follow others at a port, or others follow turned ones. -/
def Port.newPath (p : Port) (looped : Bool) : Port :=
  if p.lastLooped = looped then p else { p with arrMean := none, arrSum := 0, arrCnt := 0 }

/-- Keep a copy of the frame's slots for grading (R90), where its index has not been released. -/
def keepCopy (k frame arrival : Nat) (looped : Bool) (slots : List (Grade × List Byte)) (s : State) : State :=
  let r := k / 2
  let rg := s.getRing r
  let runs := match rg.st with
    | .run | .wrap | .shed => true
    | .off | .train | .enum | .measure | .waits => false
  let from_ := rg.runFrame.getD 0
  if runs && rg.runFrame.isSome && decide (frame ≥ from_) && decide (frame ≥ rg.k + rg.nextRel) then
    s.modRing r (fun rg => { rg with
      copies := rg.copies ++ [{ frame := frame, east := k % 2 == 1, arrival := arrival, looped := looped, slots := slots }] })
  else s

/-- A good frame in FRAME_LOCK. -/
def goodFrame (k arrival : Nat) (h : FrameHdr) (s : State) : State :=
  let s := if h.looped then seeLooped k h s else s
  s.modPort k (fun p => addArrival arrival { p.newPath h.looped with
    badRun := 0, loopedRx := h.looped, lastLooped := h.looped, lastWrapPos := h.wrapPos, hop := h.hop, overfullRx := h.overfull
    restoreAt := if h.looped && h.restore then (match p.restoreAt with | some t => some t | none => some s.now) else none })

/-- R81: a frame refused for a wrong RING_ID, logged at most once per 384,000 ticks for each port. -/
def ridMismatch (k : Nat) (s : State) : State :=
  let p := s.getPort k
  let due := match p.ridLogAt with | none => true | some t => decide (s.now ≥ t + 384000)
  if due then raise .ringIdMismatch k [] (s.modPort k (fun p => { p with ridLogAt := some s.now })) else s

/-- R78, R80: the comma of the frame keeps the spacing of exactly 1,280 characters (8 q each) from the one before. DESIGN CHOICE (log
entry 86): any shift below one character (8 q) is no new phase: the comma is accepted with no jump counted and no check of LOOPED or
WRAP_POS. -/
def samePhase (p : Port) (arrival : Nat) : Bool :=
  match p.lastArr with
  | none => false
  | some a => decide (arrival < a + 8) && decide (a < arrival + 8)

/-- R79, R80: a frame in FRAME_LOCK. DESIGN CHOICE (log entry 127): the backfill lane of a frame whose control part, index or RING_ID fails, or
whose BACKFILL bit is 0, is not read. -/
def lockedFrame (k arrival : Nat) (h : FrameHdr) (cs : List Chr) (s : State) : State :=
  let p := s.getPort k
  let r := k / 2
  let ridOk := h.rid == r
  let idxOk := h.idx == p.expIdx % 2 ^ 48
  let content := h.ctlOk && idxOk && ridOk
  let same := samePhase p arrival
  let jump := !same && content && (h.looped != p.lastLooped || h.wrapPos != p.lastWrapPos)
  let s := whenDo (h.ctlOk && !ridOk) (ridMismatch k) s
  if same || jump then
    let frame := p.expIdx
    let slots := frameSlots frame h.slotOk cs
    let s := s.modPort k (fun p => { p with
      lastArr := some arrival
      jumps := if jump then satAdd 0xFFFF p.jumps 1 else p.jumps
      slotFail := satAdd 0xFFFF p.slotFail (slotFails slots)
      fcsCtlFail := if h.ctlOk then p.fcsCtlFail else satAdd 0xFF p.fcsCtlFail 1
      fcsSlotFail := if h.slotOk then p.fcsSlotFail else satAdd 0xFF p.fcsSlotFail 1 })
    let s := if content then goodFrame k arrival h s else badPeriod k s
    let s := if content then s.modPort k (fun p => { p with expIdx := p.expIdx + 1 }) else s
    let s := if h.ctlOk && !ridOk then s else keepCopy k frame arrival h.looped slots s
    let s := if content && h.backfill && s.wrapped r then laneFill r frame cs s else s
    whenDo content (fun s => s.modRing r (fun rg => { rg with bfArriving := h.backfill })) s
  else badPeriod k s

/-- R78: a frame in CHAR_ALIGN: four consecutive good frames, with the DIR character of the opposite port (of its own port
where LOOPED is set, R83), reach FRAME_LOCK. -/
def alignFrame (k arrival : Nat) (h : FrameHdr) (s : State) : State :=
  let p := s.getPort k
  let r := k / 2
  let want := if (k % 2 == 0) != h.looped then kWest else kEast
  let good := h.ctlOk && h.rid == r && h.dir == want
  let next := p.goodRun = 0 || h.idx == p.expIdx % 2 ^ 48
  let s := whenDo (h.ctlOk && h.rid != r) (ridMismatch k) s
  let run := if good then (if next then p.goodRun + 1 else 1) else 0
  let s := s.modPort k (fun p => { p with
    goodRun := run, expIdx := h.idx + 1, lastArr := some arrival
    fcsCtlFail := if h.ctlOk then p.fcsCtlFail else satAdd 0xFF p.fcsCtlFail 1
    fcsSlotFail := if h.slotOk then p.fcsSlotFail else satAdd 0xFF p.fcsSlotFail 1 })
  if run ≥ 4 then
    goodFrame k arrival h (s.modPort k (fun p => { p with rx := .frameLock, badRun := 0, lastLooped := false, lastWrapPos := 255 }))
  else s

/-- R79: what a received frame does to its port and ring. In SHED the receiver of port 2r is powered down (R104). -/
def receiveFrame (k arrival codeErr : Nat) (cs : List Chr) (s : State) : State :=
  if !s.portLive k || s.rxOff k then s
  else
    let s := s.modPort k (fun p => { p with codeErr := satAdd 0xFFFF p.codeErr codeErr })
    let h := frameHdr cs
    if !h.comma then noComma k s
    else match (s.getPort k).rx with
      | .down | .signal => s
      | .bitLock =>
        let p := s.getPort k
        let run := if p.commaRun = 0 || samePhase p arrival then p.commaRun + 1 else 1
        s.modPort k (fun p => { p with
          commaRun := run, lastArr := some arrival, rx := if run ≥ 3 then .charAlign else .bitLock, goodRun := 0 })
      | .charAlign => alignFrame k arrival h s
      | .frameLock => lockedFrame k arrival h cs s

/-! ## Cells and the frames that leave (R57, R71 to R76, R93, R96) -/

/-- The characters of a cell: DEST, OP, LEN, REG, AT, four data words and HOPSEL; SEQ and CCRC follow at departure. -/
def cellChars (dest op len reg at_ : Nat) (data : List Word) (hop : Nat) : List Byte :=
  [BitVec.ofNat 8 dest, BitVec.ofNat 8 op, 0, BitVec.ofNat 8 len] ++ leBytes 2 reg ++ leBytes 4 at_ ++
    ((List.range 4).flatMap (fun i => leBytes 4 (data.getD i 0).toNat)) ++ [0, BitVec.ofNat 8 hop, 0, 0, 0, 0]

/-- R93: a cell as it leaves: with its SEQ and its CCRC. -/
def stampCell (seq : Nat) (chars : List Byte) : List Byte :=
  let body := (chars.set 2 (BitVec.ofNat 8 seq)).take 30
  body ++ leBytes 2 (crc16 body).toNat

/-- Queue a cell request in cell `c` of ring r. -/
def askCell (r c : Nat) (q : CellReq) (s : State) : State :=
  s.modRing r (fun rg => { rg with cells := tmod {} rg.cells c (fun l => { l with waiting := l.waiting ++ [q] }) })

/-- R72, R77, R104: MODE of frame F of a ring. -/
def Ring.modeOf (rg : Ring) (frame : Nat) : Nat :=
  if rg.st == .shed then 2
  else match rg.runFrame with
    | some f => if frame ≥ f then 1 else 0
    | none => 0

/-- R93: an empty cell. -/
def emptyCell : List Byte := stampCell 0 (cellChars 0xFE 0 0 0 0 [] 0)

/-- A cell of a frame that leaves. -/
def OutFrame.cell (o : OutFrame) (c : Nat) : List Byte := ((o.cells.find? (fun e => e.1 == c)).map (fun e => e.2)).getD emptyCell

/-- R76: a slot as it leaves: bytes 0 to 6 at 0x00 and a void check byte. -/
def voidBytes (frame pos : Nat) : List Byte :=
  let b := List.replicate 7 (0 : Byte)
  b ++ [slotCrc frame pos b ^^^ 0xFF]

/-- R71: characters 2 to 15 of a frame that leaves. -/
def frameHead (r : Nat) (o : OutFrame) : List Byte :=
  leBytes 6 o.frame ++ [0, BitVec.ofNat 8 (32 * o.mode), BitVec.ofNat 8 r, 0xFF] ++ leBytes 4 0

/-- R71, R99: the backfill lane of a frame that leaves: 0x00, and in a wrap eight empty entries, POS 0xFF. -/
def OutFrame.lane (o : OutFrame) : List Byte :=
  if o.wrap then (List.range 8).flatMap (fun _ => 0xFF :: List.replicate 12 0) else List.replicate 104 0

/-- R71: the 1,280 characters of a frame that leaves a port of ring r; true: port 2r+1. -/
def frameChars (r : Nat) (fromEast : Bool) (o : OutFrame) : List Chr :=
  let head := frameHead r o
  let slots := (List.range 128).flatMap (voidBytes o.frame)
  let rest := (List.range 4).flatMap o.cell ++ o.lane
  [kComma, if fromEast then kWest else kEast] ++
    (head ++ slots ++ rest ++ leBytes 4 (crc32 (head ++ rest)).toNat ++ leBytes 4 (crc32 slots).toNat).map (BitVec.setWidth 9)

/-- R57: what port k sends in this tick; none while its transmitter is off. -/
def State.sends (s : State) (k : Nat) : Option (List Chr) :=
  if s.txOn k then (s.getRing (k / 2)).out.map (frameChars (k / 2) (k % 2 == 1)) else none

/-- R99, R101: frame F leaves in a wrap of its ring. -/
def Ring.wraps (rg : Ring) (frame : Nat) : Bool :=
  rg.st == .wrap && (match rg.fu with | none => true | some f => decide (frame < f))

/-- R57: frame F leaves both ports of every declared ring at S(F) − L, with void slots and the cells placed in it. R489: its comma takes
the swing step written since the last one. R82: the transmitter of a retired port is off. -/
def sendFrames (s : State) : State :=
  each (List.range s.ringCount) (fun s r =>
    let on := [2 * r, 2 * r + 1].filter s.txOn
    if on.isEmpty then s
    else
      let s := each on (fun s k => s.modPort k (fun p => { p with swingUsed := p.swing })) s
      let frame := s.now + lead
      s.modRing r (fun rg => { rg with sent := rg.sent + 1, out := some { frame := frame, mode := rg.modeOf frame, wrap := rg.wraps frame } })) s

/-! ## Training (R83 to R86) -/

/-- Step 1 of R83 has ended: each port of the ring holds FRAME_LOCK or is retired, and one holds it. -/
def State.trained (s : State) (r : Nat) : Bool :=
  let ok := fun k => (s.getPort k).retired || (s.getPort k).rx == .frameLock
  let lock := fun k => !(s.getPort k).retired && (s.getPort k).rx == .frameLock
  ok (2 * r) && ok (2 * r + 1) && (lock (2 * r) || lock (2 * r + 1))

/-- Some live port of the ring receives turned frames. -/
def State.loopedRing (s : State) (r : Nat) : Bool :=
  [2 * r, 2 * r + 1].any (fun k => !(s.getPort k).retired && (s.getPort k).lastLooped)

/-- R85: the plan's head with this identity on ring r. -/
def findSerial (p : Plan) (r : Nat) (id : BitVec 64) : Option PlanHead := (planHeadsOn p r).find? (fun h => h.serial == id)

/-- R83, R89: the heads on the west half of a ring that trains in a wrap, by hop from port 2r: all or none where one port alone receives
turned frames, else the heads that its turned frames have passed, out and back over the turning head. -/
def State.westHops (s : State) (r : Nat) : Nat :=
  let turned := fun k => !(s.getPort k).retired && (s.getPort k).lastLooped
  if !turned (2 * r) then 0 else if !turned (2 * r + 1) then 256 else ((s.getPort (2 * r)).hop + 1) / 2

/-- R83: the ASSIGN cell that gives the head at a hop its plan position. -/
def assignCell (r pos hop : Nat) : CellReq :=
  { use := .assign (128 * r + pos), chars := cellChars 0x80 3 1 0x10 0 [packW [(r, 8), (pos, 0)]] hop }

/-- R83: a head found at a hop takes its plan position; in a wrap it lies on the half that its hop tells. -/
def foundHead (r hop pos : Nat) (s : State) : State :=
  let half := if s.loopedRing r then some (decide (hop ≥ s.westHops r)) else none
  askCell r 0 (assignCell r pos hop) (s.modHead (128 * r + pos) (fun x => { x with st := .joining, half := half }))

/-- R83 step 2 and R85: what the READ of one hop gives: a found head takes its plan position, an unknown one is logged with its hop. -/
def resolveHop (p : Plan) (r : Nat) (s : State) (e : Option (BitVec 64) × Nat) : State :=
  match e.1 with
  | none => s
  | some id =>
    match findSerial p r id with
    | some h => foundHead r e.2 h.pos s
    | none => raise .headUnknown r [(1, e.2), (8, id.toNat)] s

/-- R83 step 2 and R85: identities are resolved against the ring table; a listed head not found is ABSENT. -/
def resolveHeads (r : Nat) (ids : List (Option (BitVec 64))) (s : State) : State :=
  match s.ringPlan r with
  | none => s
  | some p =>
    let s := ids.zipIdx.foldl (resolveHop p r) s
    (planHeadsOn p r).foldl (fun s h =>
      if ids.contains (some h.serial) then s
      else raise .headAbsent (128 * r + h.pos) [] (s.modHead (128 * r + h.pos) (fun x => { x with st := .absent }))) s

/-- R83: the hop-addressed READ of an identity (HID_TYPE and HID_SERIAL). -/
def identCell (hop : Nat) : CellReq := { use := .enumRead hop, chars := cellChars 0x80 1 3 0 0 [] hop }

/-- R83 step 2: enumeration. Both ports must show one HOP value (a ring that trains in a wrap counts the identities read);
R70, R72: heads beyond 128 receive no slot. DESIGN CHOICE (log entry 90): RING_STAT.OVERFULL stays set until the ring is started anew.
The READ cells, one for each hop from 0 to n − 1, whose answers are `ids` leave in cell 0 (log entry 83). -/
def enumRing (r : Nat) (ids : List (Option (BitVec 64))) (s : State) : State :=
  let w := (s.getPort (2 * r)).hop
  let e := (s.getPort (2 * r + 1)).hop
  let wl := !(s.getPort (2 * r)).retired
  let el := !(s.getPort (2 * r + 1)).retired
  let differ := !s.loopedRing r && wl && el && w != e
  if differ then
    raise .ringEnumFail r [] (s.modRing r (fun rg => { rg with st := .enum, enumFailAt := some s.now }))
  else
    let n := if s.loopedRing r then ids.length else if wl then w else e
    let ids := ids.take n
    let many := decide (n > 128) || (wl && (s.getPort (2 * r)).overfullRx) || (el && (s.getPort (2 * r + 1)).overfullRx)
    let s := s.modRing r (fun rg => { rg with
      st := .measure, heads := min n 128, overfull := rg.overfull || many, hops := ids, enumFailAt := none })
    let s := whenDo many (raise .ringOverfull r [(1, w), (1, e)]) s
    resolveHeads r ids (each (List.range n) (fun s i => askCell r 0 (identCell i) s) s)

/-- R89: the half of the wrapped ring on which head h lies; true: the east half. -/
def State.eastHalf (s : State) (r h : Nat) : Bool := (s.getHead h).half.getD (s.halfTrip (2 * r) == 0)

/-- R89: the delays of a head in a wrap from its Δ and its half's round trip (in q/256): the one from its own port, and the other one from
D. DEDUCED (log entry 85): on a ring whose D has never been measured the round trip stands for D. DEDUCED (log entry 119): the spec gives
no half-ring formula, and R88 takes Δ as the eastern less the western delay; on both halves Δ is here the arrival of the turned copy less
that of the outbound one, so that the delay from the own port is (trip − Δ)/2 on the east half too. -/
def halfDelays (d trip : Nat) (delta : Int) : Int × Int :=
  let near := 2 * (trip : Int) - 512 * delta
  (near, (if d = 0 then 4 * (trip : Int) else 2 * (d : Int)) - near)

/-- R88, R89: the delays of one head from its Δ: on the whole ring from D, in a wrap from its half's round trip. -/
def setDelays (r : Nat) (s : State) (e : Nat × Int) : State :=
  let d := (s.getRing r).d
  let h := 128 * r + e.1
  if !s.loopedRing r then s.modHead h (fun x => { x with delta := e.2, dw := (d : Int) - 512 * e.2, de := (d : Int) + 512 * e.2 })
  else if s.eastHalf r h then
    let (near, far) := halfDelays d (s.halfTrip (2 * r + 1)) e.2
    s.modHead h (fun x => { x with delta := e.2, de := near, dw := far })
  else
    let (near, far) := halfDelays d (s.halfTrip (2 * r)) e.2
    s.modHead h (fun x => { x with delta := e.2, dw := near, de := far })

/-- R70: the longest segment between adjacent heads, by west delay: the position on its west side and its delay. -/
def State.longSegments (s : State) (r : Nat) : List (Nat × Int) :=
  let ps := sortBy (fun a b => decide ((s.getHead (128 * r + a)).dw ≤ (s.getHead (128 * r + b)).dw)) (s.ringPos r)
  (ps.zip (ps.drop 1)).filterMap (fun e =>
    let d := (s.getHead (128 * r + e.2)).dw - (s.getHead (128 * r + e.1)).dw
    if d > 12 * 10240 * 1024 then some (e.1, d) else none)

/-- R58, R60: the timed write of the four waits of the head at a position, for frame `at_`. -/
def waitsCell (r pos at_ : Nat) (h : Head) : CellReq :=
  { use := .waits (128 * r + pos) h.dw h.de
    chars := cellChars pos 0x82 4 0x40 at_ ((headWaits h).map (BitVec.ofNat 32)) 0, at_ := at_ }

/-- R83, R60: the frame index at which waits sent now apply. DESIGN CHOICE (log entry 84): far enough ahead for every cell that waits in
cell 0, and 1,024 frames for repeats. -/
def State.waitsAt (s : State) (r : Nat) : Nat :=
  s.now + lead + 1024 + (tget {} (s.getRing r).cells 0 : CellLane).waiting.length

/-- A waiting write of the waits of head h, which a newer one replaces. -/
def CellReq.waitsOf (h : Nat) (q : CellReq) : Bool :=
  match q.use with
  | .waits g _ _ => g == h
  | .enumRead _ | .assign _ | .delta _ | .broadcast | .health _ | .accRead _ | .change _ _ | .modDelays _ | .settings _ | .maker => false

/-- The waits of the head at a position are sent, to apply at frame `at_`. -/
def sendWaits (r at_ : Nat) (s : State) (pos : Nat) : State :=
  let h := 128 * r + pos
  let s := s.modRing r (fun rg => { rg with cells := tmod {} rg.cells 0 (fun l =>
    { l with waiting := l.waiting.filter (fun q => !q.waitsOf h) }) })
  askCell r 0 (waitsCell r pos at_ (s.getHead h)) s

/-- R60: new waits are sent to every admitted head whose rounded waits differ from those it has. -/
def refreshWaits (r : Nat) (s : State) : State :=
  let at_ := s.waitsAt r
  ((s.ringPos r).filter (fun p =>
    let h := s.getHead (128 * r + p)
    h.st == .admitted && headWaits h != h.lastWaits)).foldl (sendWaits r at_) s

/-- R88: the READ of DELTA from the head at a position. -/
def deltaCell (r pos : Nat) : CellReq := { use := .delta (128 * r + pos), chars := cellChars pos 1 1 0x44 0 [] 0 }

/-- R88: one measurement cycle: D from both ports (outside a wrap), the delays of each head, the limits of R70, the waits
(R60) and the margin of R86. The READ cells whose answers are `deltas` leave in cell 0 (log entry 83). -/
def measureRing (r : Nat) (deltas : List (Nat × Int)) (s : State) : State :=
  let rg := s.getRing r
  let half := s.loopedRing r
  -- in service a port out of FRAME_LOCK measures nothing: its value stands
  let arr := fun (k last : Nat) => if rg.st == .measure || (s.getPort k).rx == .frameLock then s.arrOf k else last
  let de := arr (2 * r + 1) rg.de
  let dw := arr (2 * r) rg.dw
  let lim := 96 * 10240 * 256
  let s := if half then s else s.modRing r (fun rg => { rg with de := de, dw := dw, d := de + dw })
  if rg.st == .measure && !half && (decide (de > lim) || decide (dw > lim)) then
    raise .ringTooLong r [(4, rneN de 256), (4, rneN dw 256)] (s.modRing r (fun rg => { rg with st := .train }))
  else
    let s := each (s.ringPos r) (fun s p => askCell r 0 (deltaCell r p) s) s
    let s := deltas.foldl (setDelays r) s
    let long := s.longSegments r
    let s := if rg.st == .measure then
        each long (fun s e => raise .segmentLong r [(1, e.1), (4, (rne e.2 1024).toNat)] s)
          (s.modRing r (fun rg => { rg with segLong := !long.isEmpty, st := .waits, waitsDone := false }))
      else s
    let s := refreshWaits r s
    let s := s.modRing r (fun rg => { rg with measAt := some s.now })
    match rg.st with
    | .run | .wrap =>
      match s.ringMin r with
      | none => s
      | some (d, p) =>
        -- what is left of the 1,024 q that R86 keeps for drift
        let m : Int := (rg.k : Int) * 10240 * 1024 + d - ((leadQ + 3072 : Nat) : Int) * 1024
        if m < 256 * 1024 then
          raise .lagMargin r [(1, p), (4, toU 32 (m / 1024))] (s.modRing r (fun rg => { rg with lagMargin := true }))
        else s
    | .off | .train | .enum | .measure | .waits | .shed => s

/-- R117 step 2: the READ of MODDLY_P and MODDLY_A from the head at a position. -/
def modCell (r pos : Nat) : CellReq := { use := .modDelays (128 * r + pos), chars := cellChars pos 1 2 0x30 0 [] 0 }

/-- R116: the modulator delays read from one head. -/
def setMods (r : Nat) (s : State) (e : Nat × Nat × Nat) : State :=
  s.modHead (128 * r + e.1) (fun x => { x with modP := e.2.1, modA := e.2.2 })

/-- R83 step 4, R86, R117: the heads' modulator delays are read (the READ cells whose answers are `mods` leave in cell 0, log entry 83),
K_r is fixed and every head is sent its waits, all to apply at one frame index A0. -/
def waitsRing (r : Nat) (mods : List (Nat × Nat × Nat)) (s : State) : State :=
  let s := mods.foldl (setMods r) (each (s.ringPos r) (fun s p => askCell r 0 (modCell r p) s) s)
  let dmin := match s.ringMin r with | none => 0 | some e => e.1
  let at_ := s.waitsAt r
  let s := s.modRing r (fun rg => { rg with k := carryLag dmin, waitsDone := true, waitsFor := at_ })
  (s.ringPos r).foldl (sendWaits r at_) s

/-- R83 step 4: the waits of ring r have been sent and every head has answered. -/
def State.waitsHeld (s : State) (r : Nat) : Bool :=
  let l : CellLane := tget {} (s.getRing r).cells 0
  let wait := fun (q : CellReq) => match q.use with
    | .waits _ _ _ => true
    | .enumRead _ | .assign _ | .delta _ | .broadcast | .health _ | .accRead _ | .change _ _ | .modDelays _ | .settings _ | .maker => false
  (s.getRing r).waitsDone && !l.waiting.any wait && !l.fly.any (fun f => wait f.req)

/-- R83, R101: a broadcast timed write for frame `f` asks for cell 0. The spec names no register for it and no data: both are free values
(log entry 83). -/
def broadcast (r f : Nat) (s : State) : State :=
  let (reg, s) := s.freeNext
  let (data, s) := s.freeNext
  askCell r 0 { use := .broadcast, chars := cellChars 0xFF 0x82 1 (reg.toNat % 65536) f [data] 0, at_ := f } s

/-- R83 step 5: MODE is 1 from frame `f` on, as a broadcast says. A ring that trains in a wrap enters service in the wrap. -/
def runRing (r f : Nat) (s : State) : State :=
  let w := s.loopedRing r
  let s := broadcast r f s
  s.modRing r (fun rg => { rg with
    st := if w then .wrap else .run, runFrame := some f
    wrapAt := if w then max (rg.turned.getD f) f - rg.k else rg.wrapAt
    turned := if w then some (max (rg.turned.getD f) f) else none })

/-! ## Grading and release (R90 to R92, R501) -/

/-- R90: of the copies of one slot, the higher grade, then the earlier arrival, then port 2r; with its port's parity. -/
def bestCopy (pos : Nat) (cs : List Copy) : Grade × List Byte × Bool :=
  (cs.foldl (fun b c =>
    let g := c.slots.getD pos (.failed, [])
    let better := gradeRank g.1 > gradeRank b.1.1 ||
      (gradeRank g.1 == gradeRank b.1.1 && decide (c.arrival < b.2)) ||
      (gradeRank g.1 == gradeRank b.1.1 && c.arrival == b.2 && b.1.2.2 && !c.east)
    if better then ((g.1, g.2, c.east), c.arrival) else b) ((.failed, [], true), 2 ^ 64)).1

/-- The merged slots of a frame. -/
def mergeCopies (cs : List Copy) : List (Grade × List Byte × Bool) := (List.range 128).map (fun p => bestCopy p cs)

/-- A hole of R92: neither copy was received valid or void. -/
def hasHole (slots : List (Grade × List Byte)) : Bool := slots.any (fun g => g.1 == .failed)

/-- The index the ring releases next can be graded: in service, both copies have arrived or its deadline is reached; before
service (R501), its instant has come. -/
def State.gradable (s : State) (r : Nat) : Bool :=
  let rg := s.getRing r
  let n := rg.nextRel
  let serve := match rg.runFrame with | none => false | some f => decide (n + rg.k ≥ f)
  let both := fun (frame : Nat) =>
    let has := fun e => rg.copies.any (fun c => c.frame == frame && c.east == e && !c.lane)
    if rg.st == .shed then has true else has true && has false
  match rg.st with
  | .off => false
  | .train | .enum | .measure | .waits => decide (n ≤ s.now)
  | .run | .wrap | .shed =>
    if serve then both (n + rg.k) || decide (s.now ≥ n + s.deliverLag r) else decide (n ≤ s.now)

/-- R90, R92: in a wrap the void slot of a head whose own half's copy failed, or was not received, is missing: the other half's copy of it
is void in every case (DEDUCED, log entry 118). -/
def State.wrapHole (s : State) (r : Nat) (cs : List Copy) (pos : Nat) (g : Grade × List Byte × Bool) : Grade × List Byte × Bool :=
  match g.1, (s.getHead (128 * r + pos)).half with
  | .void, some e => if (bestCopy pos (cs.filter (fun c => c.east == e))).1 == .failed then (.failed, [], g.2.2) else g
  | _, _ => g

/-- Grade the next index: its slots, with FALLBACK_SEEN for each kept copy of grade Check only (R90). In SHED only port
2r+1's copy counts (R104). -/
def gradeNext (r : Nat) (s : State) : HeldIdx × State :=
  let rg := s.getRing r
  let n := rg.nextRel
  let frame := n + rg.k
  let cs := rg.copies.filter (fun c => c.frame == frame && (rg.st != .shed || c.east))
  let serve := match rg.runFrame with | none => false | some f => decide (frame ≥ f)
  let m := if serve then mergeCopies cs else List.replicate 128 (.failed, [], false)
  let m := if rg.wraps frame then m.zipIdx.map (fun g => s.wrapHole r cs g.2 g.1) else m
  let fb := fun e => m.any (fun g => g.1 == .checkOnly && g.2.2 == e)
  let s := s.modRing r (fun rg => { rg with
    nextRel := n + 1, copies := rg.copies.filter (fun c => decide (c.frame > frame)) })
  let s := whenDo (fb false) (fun s => s.modPort (2 * r) (fun p => { p with fallback := true })) s
  let s := whenDo (fb true) (fun s => s.modPort (2 * r + 1) (fun p => { p with fallback := true })) s
  ({ idx := n, due := n + s.deliverLag r, slots := m.map (fun g => (g.1, g.2.1)) }, s)

/-! ## Cells (R93 to R96) -/

/-- A reply carries its CCRC and an answer (R93, R95). -/
def cellAnswers (chars : List Byte) : Bool :=
  decide (chars.length = 32) && (crc16 (chars.take 30)).toNat == leNat (chars.drop 30) && chars.getD 26 0 != 0

/-- R94: RESP of a reply. -/
def cellResp (chars : List Byte) : Nat := (chars.getD 26 0).toNat

/-- The data words of a reply. -/
def cellData (chars : List Byte) : List Word :=
  (List.range 4).map (fun i => BitVec.ofNat 32 (leNat ((chars.drop (10 + 4 * i)).take 4)))

/-- The cell with this SEQ of lane c has been answered. -/
def cellDone (r c seq : Nat) (s : State) : State :=
  s.modRing r (fun rg => { rg with cells := tmod {} rg.cells c (fun l => { l with fly := l.fly.filter (fun f => f.seq != seq) }) })

/-! ## Registers (R105) -/

/-- A port register by offset in its block. -/
def linkRead (s : State) (k off : Nat) : Word :=
  let p := s.getPort k
  let rg := s.getRing (k / 2)
  match off with
  | 0x00 => packW [(p.swing, 4), (b2n (rg.st != .off), 0)]
  | 0x04 => packW [(b2n p.retired, 7), (b2n p.lockLost, 6), (b2n p.fallback, 5),
      (b2n (p.loopedRx && portStateCode rg p == 4), 4), (portStateCode rg p, 0)]
  | 0x08 => packW [(p.codeErr, 16), (p.frameErr, 0)]
  | 0x0C => packW [(p.slotFail, 16), (p.fcsCtlFail, 8), (p.fcsSlotFail, 0)]
  | 0x10 => BitVec.ofNat 32 (rneN p.mean 256)
  | 0x14 => BitVec.ofNat 32 (if rg.st == .off then 0 else s.unlockTicks k)
  | 0x18 => packW [(p.jumps, 0)]
  | _ => 0

/-- R105: the code of RING_STAT.STATE. -/
def ringStCode (st : RingSt) : Nat :=
  match st with
  | .off => 0
  | .train => 1
  | .enum => 2
  | .measure => 3
  | .waits => 4
  | .run => 5
  | .wrap => 6
  | .shed => 7

/-- A ring register by offset from the ring's base. -/
def ringRead (s : State) (r off : Nat) : Word :=
  let g := s.getRing r
  match off with
  | 0x00 => packW [(g.heads, 16), (b2n g.overfull, 15), (b2n g.segLong, 14), (b2n g.lagMargin, 13), (b2n g.bfArriving, 12),
      (b2n (!g.held.isEmpty), 11), (b2n g.breakSeen, 10), (ringStCode g.st, 0)]
  | 0x04 => packW [(g.held.length, 16), (if g.k = 0 then 0 else s.deliverLag r, 8), (g.k, 0)]
  | 0x08 => BitVec.ofNat 32 (rneN g.d 512)
  | 0x0C => BitVec.ofInt 32 (rne ((g.de : Int) - g.dw) 256)
  | 0x10 => packW [(g.eastHead, 8), (g.westHead, 0)]
  | 0x14 => wordOf g.wrapAt 0
  | 0x18 => wordOf g.wrapAt 1
  | 0x1C => packW [(match g.measAt with | none => 0xFFFFFF | some t => min (s.now - t) 0xFFFFFF, 0)]
  | 0x20 => packW [(g.missing, 0)]
  | 0x24 => packW [(g.bfUsed, 16), (g.bfDisc, 0)]
  | 0x60 => packW [(b2n g.cmdGo, 0)]
  | 0x64 => packW [(g.cmdResp, 8), (b2n g.cmdNoAns, 1), (b2n g.cmdGo, 0)]
  | _ =>
    if 0x40 ≤ off && off < 0x60 then wordOf g.cmdCell.toNat ((off - 0x40) / 4)
    else if 0x80 ≤ off && off < 0xA0 then wordOf g.cmdReply.toNat ((off - 0x80) / 4)
    else 0

/-- R105: RING_CMD_GO sends the cell of the mailbox in cell 3; a write while GO is 1 has no effect. -/
def ringGo (r : Nat) (s : State) : State :=
  if (s.getRing r).cmdGo then s
  else
    askCell r 3 { use := .maker, chars := leBytes 32 (s.getRing r).cmdCell.toNat }
      (s.modRing r (fun rg => { rg with cmdGo := true, cmdNoAns := false, cmdResp := 0 }))

/-- A write of a port register. -/
def linkWrite (k off : Nat) (v : Word) (s : State) : State :=
  match off with
  | 0x00 => s.modPort k (fun p => { p with swing := bits v 7 4 })
  | 0x04 => s.modPort k (fun p => { p with lockLost := p.lockLost && !bit v 6, fallback := p.fallback && !bit v 5 })
  | _ => s

/-- A write of a ring register. -/
def ringWrite (r off : Nat) (v : Word) (s : State) : State :=
  match off with
  | 0x00 => s.modRing r (fun g => { g with lagMargin := g.lagMargin && !bit v 13, breakSeen := g.breakSeen && !bit v 10 })
  | 0x60 => if bit v 0 then ringGo r s else s
  | _ =>
    if 0x40 ≤ off && off < 0x60 then
      s.modRing r (fun g => { g with cmdCell := BitVec.ofNat 256 (setWordOf g.cmdCell.toNat ((off - 0x40) / 4) v) })
    else s

/-- Reading a read-to-clear register of a port clears it. -/
def linkClear (k off : Nat) (s : State) : State :=
  match off with
  | 0x08 => s.modPort k (fun p => { p with codeErr := 0, frameErr := 0 })
  | 0x0C => s.modPort k (fun p => { p with slotFail := 0, fcsCtlFail := 0, fcsSlotFail := 0 })
  | 0x18 => s.modPort k (fun p => { p with jumps := 0 })
  | _ => s

/-- Reading a read-to-clear register of a ring clears it. -/
def ringClear (r off : Nat) (s : State) : State :=
  match off with
  | 0x20 => s.modRing r (fun g => { g with missing := 0 })
  | 0x24 => s.modRing r (fun g => { g with bfUsed := 0, bfDisc := 0 })
  | _ => s

/-! ## Commands -/

/-- PORT_SIGNAL_DETECT (R78): DOWN to SIGNAL. -/
def execPortSignalDetect (k : Fin 64) (s : State) : Out :=
  onLink (k / 2) s (fun s =>
    if s.portLive k && !s.rxOff k && (s.getPort k).rx == .down then s.modPort k (fun p => { p with rx := .signal, signal := true }) else s)

/-- CLOCK_RECOVERY_LOCKED (R78): SIGNAL to BIT_LOCK. -/
def execClockRecoveryLocked (k : Fin 64) (s : State) : Out :=
  onLink (k / 2) s (fun s =>
    if s.portLive k && !s.rxOff k && (s.getPort k).rx == .signal then
      s.modPort k (fun p => { p with rx := .bitLock, cdr := true, commaRun := 0, lastArr := none }) else s)

/-- PORT_SIGNAL_LOST (R78): to DOWN, leaving FRAME_LOCK if it was held (R79). -/
def execPortSignalLost (k : Fin 64) (s : State) : Out :=
  onLink (k / 2) s (fun s =>
    if !s.portLive k || s.rxOff k then s
    else
      let held := (s.getPort k).rx == .frameLock
      let s := s.modPort k (fun p => { p with signal := false, cdr := false, rx := .down })
      if held then leaveLock k .down s else s)

/-- FRAME_RECEIVE (R79). -/
def execFrameReceive (k : Fin 64) (arrival codeErr : Nat) (chars : List Chr) (s : State) : Out :=
  onLink (k / 2) s (receiveFrame k arrival codeErr chars)

/-- COMMA_MISSING (R79). -/
def execCommaMissing (k : Fin 64) (s : State) : Out :=
  onLink (k / 2) s (fun s =>
    if !s.portLive k || s.rxOff k then s else noComma k s)

/-- PORT_RETIRE (R82): out of FRAME_LOCK for more than 384,000 ticks while the ring is declared. -/
def execPortRetire (k : Fin 64) (s : State) : Out :=
  onLink (k / 2) s (fun s =>
    if s.portLive k && (s.getPort k).rx != .frameLock && (s.getRing (k / 2)).st != .shed &&
        decide (s.now > (s.getPort k).lockAt + 384000) then retirePort 0 k s else s)

/-- RING_ENUM (R83): step 1 of the training has ended. -/
def execRingEnum (r : Fin 32) (ids : List (Option (BitVec 64))) (s : State) : Out :=
  onLink r s (fun s => if (s.getRing r).st == .train && s.trained r then enumRing r ids s else s)

/-- RING_ENUM_RETRY (R83): enumeration repeats 38,400 ticks after it failed. -/
def execRingEnumRetry (r : Fin 32) (ids : List (Option (BitVec 64))) (s : State) : Out :=
  onLink r s (fun s =>
    match (s.getRing r).st, (s.getRing r).enumFailAt with
    | .enum, some t => if s.now ≥ t + 38400 then enumRing r ids s else s
    | _, _ => s)

/-- RING_MEASURE_CYCLE (R88): step 3 of the training, and every 38,400 ticks in service. -/
def execRingMeasureCycle (r : Fin 32) (deltas : List (Fin 128 × Int)) (s : State) : Out :=
  onLink r s (fun s =>
    match (s.getRing r).st with
    | .measure | .waits | .run | .wrap => measureRing r (deltas.map (fun e => (e.1.val, e.2))) s
    | .off | .train | .enum | .shed => s)

/-- RING_RUN (R83 step 5). -/
def execRingRun (r : Fin 32) (frame : Nat) (s : State) : Out :=
  onLink r s (fun s => if (s.getRing r).st == .waits && s.waitsHeld r then runRing r frame s else s)

/-- R101, R102: RESTORE_SEEN has been set for 384,000 ticks by every turning head of the wrap: one next to a dead end, or two. -/
def State.restoreSeen (s : State) (r : Nat) : Bool :=
  let rg := s.getRing r
  let turns := [(2 * r, rg.westHead), (2 * r + 1, rg.eastHead)].filter (fun e => e.2 != 255 && !(s.getPort e.1).retired)
  !turns.isEmpty && turns.all (fun e =>
    match (s.getPort e.1).restoreAt with | none => false | some t => decide (s.now ≥ t + 384000))

/-- R101, R59: a broadcast ends the wrap at frame F_u; from then on each head times itself from the direction with the smaller delay. -/
def unwrapRing (r fu : Nat) (s : State) : State :=
  let s := broadcast r fu (s.modRing r (fun rg => { rg with fu := some fu }))
  each (s.listedPos r) (fun s p => turnHead (128 * r + p) fu (timesEast (s.getHead (128 * r + p)).lastWaits) s) s

/-- RING_UNWRAP (R101): the wrap ends at frame F_u, at least 2 × 96 ticks ahead of the frame that leaves now. -/
def execRingUnwrap (r : Fin 32) (fu : Nat) (s : State) : Out :=
  onLink r s (fun s =>
    if (s.getRing r).st == .wrap && (s.getRing r).fu.isNone && s.restoreSeen r && decide (fu ≥ s.now + lead + 192) then
      unwrapRing r fu s else s)

/-- RING_RESTORED (R101): frames run the full ring again and a measurement cycle has completed since F_u. -/
def execRingRestored (r : Fin 32) (s : State) : Out :=
  onLink r s (fun s =>
    let rg := s.getRing r
    match rg.st, rg.fu, rg.measAt with
    | .wrap, some f, some t =>
      if decide (t ≥ f) && !s.loopedRing r then
        let s := s.modRing r (fun rg => { rg with st := .run, fu := none, turned := none, eastHead := 255, westHead := 255 })
        raise .ringRestored r [] (each (s.listedPos r) (fun s p => s.modHead (128 * r + p) (fun h => { h with half := none })) s)
      else s
    | _, _, _ => s)

end Sys2Proof.Machine
end

