-- ==== Sys2Proof/Machine/Heads.lean ====
section
/-! DEFINITION. Chapter 4: heads: sampling changes and their indices (R120 to R124), admission and absence (R117, R118),
health polls, the head access mailboxes, and the head registers (R126). -/

namespace Sys2Proof.Machine

/-! ## Sampling changes -/

/-- Head registers of R114. -/
def regGainP : Nat := 0x20
/-- GAIN_A. -/
def regGainA : Nat := 0x21
/-- TRIM_P. -/
def regTrimP : Nat := 0x22
/-- TRIM_A. -/
def regTrimA : Nat := 0x23
/-- CAL_STIM. -/
def regStim : Nat := 0x60
/-- The model's own mark of a change that only resets a stream (R306): 0x100 for P, 0x101 for A. -/
def regReset : Nat := 0x100

/-- The settings of the engine that serves ring r. -/
def State.ringCfg (s : State) (r : Nat) : StairCfg :=
  match s.stair.map.find? (fun e => e.1 == r) with
  | some e => (s.getEng e.2).cfg
  | none => {}

/-- R121: the busy interval Q = (N + 32) M of ring r. -/
def State.busyQ (s : State) (r : Nat) : Nat := ((s.ringCfg r).n + 32) * (s.ringCfg r).m

/-- Which detector a change acts on: false P, true A; the end of a stimulus acts on the detector under stimulus. -/
def changeDet (stim reg : Nat) (v : Word) : Bool :=
  if reg = regStim then (if v = 0 then stim == 2 else v == 2) else reg % 2 == 1

/-- All changes of the head that have an AT. -/
def Head.timed (h : Head) : List Change :=
  (h.queue ++ (match h.offPlace with | none => [] | some c => [c])).filter (fun c => c.at_.isSome)

/-- R121: the latest change index of detector `d`, applied or pending: gain and trim changes, and ends of stimuli. -/
def Head.lastChange (h : Head) (d : Bool) : Option Nat :=
  let base := if d then h.chgA else h.chgP
  h.timed.foldl (fun m c =>
    if changeDet h.stim c.reg c.value == d && !(c.reg == regStim && c.value != 0) then
      (match m, c.at_ with
        | some a, some b => some (max a b)
        | none, x => x
        | x, none => x)
    else m) base

/-- R121: CAL_STIM once every write of it that has an AT has applied. -/
def Head.stimLast (h : Head) : Nat :=
  ((h.timed.filter (fun c => c.reg == regStim)).foldl (fun (m : Nat × Nat) c =>
    if c.at_.getD 0 ≥ m.1 then (c.at_.getD 0, c.value.toNat) else m) (0, h.stim)).2

/-- R121: a stimulus of detector `d` is on or will be, and no end of it has been scheduled. -/
def Head.stimOpen (h : Head) (d : Bool) : Bool := h.stimLast == (if d then 2 else 1)

/-- R121: AT of a change that leaves in frame `frame`: at least 256 after it, not before its lower limit, not before any
change still pending, and with the partner not busy for the Q that follows; none while a stimulus of the head has no end, so that a
change of the detector under outing follows the pending OFF (R349). R123: a forced change applies without the partner condition. DESIGN CHOICE (log entry 91): it does so also where the partner is not
down. -/
def changeAt (q frame : Nat) (h : Head) (c : Change) : Option Nat :=
  let base := (h.timed.filterMap (fun x => x.at_)).foldl max (max (frame + 256) c.notBefore)
  let base := match h.a0 with | none => base | some a => max base (a + q)
  let d := changeDet h.stim c.reg c.value
  let off := c.reg == regStim && c.value == 0
  if h.stimOpen d && !off then none
  else if c.force then some base
  else if h.stimOpen (!d) then none
  else match h.lastChange (!d) with
    | none => some base
    | some p => some (max base (p + q))

/-- R123: the partner detector is RETIRED, ABSENT or UNHEALTHY. -/
def Head.partnerDown (h : Head) (d : Bool) : Bool :=
  let u := if d then h.pUse else h.aUse
  u == 6 || u == 5 || u == 3

/-- A change joins the head's queue and asks for a cell (R122, R96). -/
def pushChange (h : Nat) (c : Change) (s : State) : State :=
  askCell (h / 128) 2 { use := .change h false, chars := [] } (s.modHead h (fun x => { x with queue := x.queue ++ [c] }))

/-- R122: the OFF write that ends a stimulus takes the place kept for it. -/
def pushOff (h : Nat) (c : Change) (s : State) : State :=
  askCell (h / 128) 2 { use := .change h true, chars := [] } (s.modHead h (fun x => { x with offPlace := some c }))

/-- R122: a change of the PX-64 itself is never refused for a full queue: it waits for a place. -/
def pushPx (h : Nat) (c : Change) (s : State) : State :=
  let x := s.getHead h
  if x.queue.length < 4 && x.waiting.isEmpty then pushChange h c s
  else s.modHead h (fun x => { x with waiting := x.waiting ++ [c] })

/-- The mailbox of a host port ends with a result. -/
def accEnd (p result resp : Nat) (s : State) : State :=
  s.modHeadAcc p (fun a => { a with busy := false, result := result, resp := resp })

/-- R118: a change ends without applying: a mailbox that waits for it ends with `result`. -/
def changeLost (result resp : Nat) (c : Change) (s : State) : State :=
  match c.asker with
  | .host p _ => accEnd p result resp s
  | .px => s

/-- A cell of this head's changes, polls or mailbox reads. -/
def cellOfHead (h : Nat) (q : CellReq) : Bool :=
  match q.use with
  | .health g => g == h
  | .change g _ => g == h
  | .accRead _ => (q.chars.getD 0 0).toNat == h % 128
  | .assign g => g == h
  | .delta g => g == h
  | .waits g _ _ => g == h
  | .modDelays g => g == h
  | .settings g => g == h
  | .enumRead _ | .broadcast | .maker => false

/-- R125: the HEAD_DET_FAULT entries that wait for a poll, with the causes that it gives. -/
def detFaults (h causeP causeA : Nat) (s : State) : State :=
  let x := s.getHead h
  let s := match x.faultP with
    | none => s
    | some n => raiseAt .headDetFault n h [(1, 0), (1, causeP)] s
  let s := match x.faultA with
    | none => s
    | some n => raiseAt .headDetFault n h [(1, 1), (1, causeA)] s
  s.modHead h (fun x => { x with faultP := none, faultA := none })

/-- R305: the restore request in progress ends with a result, and is logged. -/
def restoreEnd (kind idx role host result : Nat) (s : State) : State :=
  let s := s.modRedIsl (fun r => { r with busy := false, result := result, job := none })
  raise (if result = 0 then .restored else .restoreFailed) idx [(1, role), (1, host), (1, kind), (1, result)] s

/-- R305, R306: a stream can be restored only while its head is ADMITTED: a request whose reset waited for a place in the queue of head h
ends with NOT_ADMITTED when the head becomes ABSENT (DESIGN CHOICE, log entry 100). -/
def restoreDropped (h : Nat) (s : State) : State :=
  match s.red.job with
  | some (0, i, host, role) => if i / 2 = h then restoreEnd 0 i role host 3 s else s
  | _ => s

/-- R118: the head is ABSENT: every change pending for it is dropped; R500: a fault that waited for a poll gets no answer. -/
def headAbsent (h : Nat) (s : State) : State :=
  let s := restoreDropped h (detFaults h 0xF 0xF s)
  let x := s.getHead h
  let lost := x.queue ++ (match x.offPlace with | none => [] | some c => [c])
  let s := lost.foldl (fun s c => changeLost 3 (match c.asker with | .host p _ => (s.getHeadAcc p).resp | .px => 0) c s) s
  let s := s.modHead h (fun x => { x with st := .absent, queue := [], waiting := [], offPlace := none, stim := 0, absAt := s.now })
  s.modRing (h / 128) (fun rg => { rg with
    cells := rg.cells.map (fun e => (e.1, { e.2 with
      waiting := e.2.waiting.filter (fun q => match q.use with | .accRead _ => true | _ => !cellOfHead h q) })) })

/-- R117: the head has confirmed its waits, gains and trims and is admitted from A0 with the gains of the plan and these trims; A0 is a
change index of both detectors; it chooses its direction at A0 (R59). The gains in force change with the slot of A0 (R126). DESIGN
CHOICE (log entry 92): both OK bits count as 1 before the first admitted sample. DESIGN CHOICE (log entry 93): HEAD_STAT.STATE is ADMITTED
from the command on, not from A0. -/
def admitHead (h : Nat) (id : HeadIdent) (a0 : Nat) (ph : PlanHead) (trimP trimA : Word) (s : State) : State :=
  let s := s.modHead h (fun x => { x with
    st := .admitted, typ := bits id.hidType 31 24, serial := id.serial, modP := id.modP.toNat, modA := id.modA.toNat
    gainNext := some (ph.gainP, ph.gainA), trimP := trimP, trimA := trimA, stim := 0, a0 := some a0
    chgP := some a0, chgA := some a0, okP := true, okA := true, faultP := none, faultA := none })
  let x := s.getHead h
  waitsFrom h a0 (headWaits x) x.dw x.de s

/-! ## Cells of heads -/

/-- R119: the bits of HEALTH whose change is logged: the causes, OVER_TEMP and SUPPLY_LOW. -/
def healthMask (w : Word) : Word := w &&& 0x0000FF06

/-- R119, R125: a poll's reply. -/
def healthReply (h : Nat) (w : Word) (s : State) : State :=
  let x := s.getHead h
  let s := whenDo (healthMask w != healthMask x.health) (raise .headHealthChange h [(4, x.health.toNat), (4, w.toNat)]) s
  (detFaults h (bits w 15 12) (bits w 11 8) s).modHead h (fun x => { x with health := w, valid := true })

/-- R126: RESULT of a head's answer. -/
def respResult (resp : Nat) : Nat :=
  match resp with
  | 1 => 0
  | 2 => 0
  | 3 => 1
  | 4 => 2
  | _ => 8

/-- R122: a change of the head has left and has not been answered. Until it has, no other change of the head leaves, so that a repeat
(R95) does not let a later one apply first (DEDUCED, log entry 84). -/
def Head.changeOut (h : Head) : Bool := h.timed.any (fun c => !c.accepted)

/-- R122: the change that the next cell of the head carries: the first that has no AT yet. -/
def State.nextChange (s : State) (h : Nat) (off : Bool) : Option Change :=
  if off then (s.getHead h).offPlace else (s.getHead h).queue.find? (fun c => c.at_.isNone)

/-- The timed write that a cell in flight carries, while it has not been answered. -/
def Change.sentIn (f : CellFly) (c : Change) : Bool := !c.accepted && c.reg == f.req.reg && c.at_ == some f.req.at_

/-- Change the first change of a list that satisfies a test; none removes it. -/
def modFirst (t : Change → Bool) (f : Change → Option Change) : List Change → List Change
  | [] => []
  | c :: l => if t c then (match f c with | none => l | some d => d :: l) else c :: modFirst t f l

/-- Change the first change of the queue, or the OFF place, that satisfies a test; none removes it. -/
def updChange (h : Nat) (off : Bool) (t : Change → Bool) (f : Change → Option Change) (s : State) : State :=
  s.modHead h (fun x =>
    if off then { x with offPlace := x.offPlace.bind (fun c => if t c then f c else some c) }
    else { x with queue := modFirst t f x.queue })

/-- Change the change that the next cell carries. -/
def updNext (h : Nat) (off : Bool) (f : Change → Change) (s : State) : State :=
  updChange h off (fun c => c.at_.isNone) (fun c => some (f c)) s

/-- Change the change that a cell in flight carries; none removes it. -/
def updSent (h : Nat) (off : Bool) (fl : CellFly) (f : Change → Option Change) (s : State) : State := updChange h off (Change.sentIn fl) f s

/-- The change that a cell in flight carries. -/
def State.sentChange (s : State) (h : Nat) (off : Bool) (f : CellFly) : Option Change :=
  if off then (s.getHead h).offPlace.filter (Change.sentIn f) else (s.getHead h).queue.find? (Change.sentIn f)

/-- R94, R122, R126: the head accepted a timed write: its AT stands. -/
def changeAccepted (h : Nat) (off : Bool) (f : CellFly) (s : State) : State :=
  match s.sentChange h off f with
  | none => s
  | some c =>
    let s := updSent h off f (fun c => some { c with accepted := true }) s
    match c.asker with
    | .host p _ => s.modHeadAcc p (fun a => { a with at_ := c.at_.getD 0, resp := 2 })
    | .px => s

/-- The head refused it, or never answered: the change is removed and nothing applies. DESIGN CHOICE (log entry 121): this holds for the
OFF write of a stimulus too: the PX-64 sends no other; the stimulus counts as on until the head's slots say otherwise (R342). -/
def changeRefused (h : Nat) (off : Bool) (f : CellFly) (result resp : Nat) (s : State) : State :=
  match s.sentChange h off f with
  | none => s
  | some c => changeLost result resp c (updSent h off f (fun _ => none) s)

/-- R95: the retries are exhausted: HEAD_NO_ANSWER, and what waited for the answer ends. R118: a head that stops answering
its polls is ABSENT. DESIGN CHOICE (log entry 120): R95 logs HEAD_NO_ANSWER with the position; a hop-addressed READ, and a maker's cell
whose DEST is 0x80 or above, name no position and leave no entry. -/
def cellExhausted (r : Nat) (f : CellFly) (s : State) : State :=
  match f.req.use with
  | .health h =>
    headAbsent h (raise .headNoAnswer h [(1, h % 128)] (s.modHead h (fun x => { x with valid := false })))
  | .accRead p =>
    let h := 128 * r + (f.req.chars.getD 0 0).toNat
    raise .headNoAnswer h [(1, h % 128)] (accEnd p 3 0 s)
  | .change h off => changeRefused h off f 3 0 (raise .headNoAnswer h [(1, h % 128)] s)
  | .assign h | .delta h | .waits h _ _ | .modDelays h | .settings h => raise .headNoAnswer h [(1, h % 128)] s
  | .enumRead _ | .broadcast => s
  | .maker =>
    let d := (f.req.chars.getD 0 0).toNat
    let s := whenDo (decide (d < 128)) (raise .headNoAnswer (128 * r + d) [(1, d)]) s
    s.modRing r (fun rg => { rg with cmdGo := false, cmdNoAns := true })

/-! ## The mailbox (R126) -/

/-- R126: a host may ask for this register in a WRITE. -/
def hostOwned (reg : Nat) : Bool := reg == regGainP || reg == regGainA || reg == regTrimP || reg == regTrimA

/-- R126: the checks at GO, in order; none when the request goes to the head. -/
def accCheck (role p : Nat) (s : State) : Option Nat :=
  let a := s.getHeadAcc p
  let x := s.getHead a.head
  let d := changeDet x.stim a.reg 0
  if a.op = 0 || a.op = 3 then some 2
  else if role = 0 || (a.op = 2 && (role < 2 || !hostOwned a.reg)) then some 4
  else if a.op = 2 && a.len != 0 then some 2
  else if a.head ≥ s.headCount || x.st != .admitted then some 7
  else if a.op = 2 && !a.force && x.partnerDown d then some 5
  else if a.op = 2 && decide (x.queue.length ≥ 4) then some 6
  else none

/-- R126: GO of the mailbox. A write while BUSY is 1 has no effect. DESIGN CHOICE (log entry 94): RESP is 0 from GO until a head's reply,
and after a request that the PX-64 itself refuses. DESIGN CHOICE (log entry 123): RESULT keeps the previous request's value while BUSY
is 1. -/
def accGo (role p : Nat) (s : State) : State :=
  let a := s.getHeadAcc p
  if a.busy then s
  else match accCheck role p s with
    | some e => accEnd p e 0 s
    | none =>
      let s := s.modHeadAcc p (fun a => { a with busy := true, resp := 0 })
      if a.op = 1 then
        askCell (a.head / 128) 2 { use := .accRead p, chars := cellChars (a.head % 128) 1 (a.len + 1) a.reg 0 [] 0 } s
      else pushChange a.head { reg := a.reg, value := a.data.getD 0 0, force := a.force, asker := .host p role } s

/-- The fields of HEAD_ACC_CTL. -/
def accFields (v : Word) (a : HeadAcc) : HeadAcc :=
  { a with force := bit v 30, op := bits v 29 28, len := bits v 27 26, head := bits v 11 0 }

/-! ## Registers (R126) -/

/-- HEAD_STAT.STATE. -/
def headStCode (st : HeadSt) : Nat :=
  match st with
  | .notDeclared => 0
  | .absent => 1
  | .joining => 2
  | .admitted => 3

/-- R112: the class shown, with UNSETTLED where the stream's count of R139 runs. -/
def State.useClass (s : State) (h : Nat) (d : Bool) : Nat :=
  let u := if d then (s.getHead h).aUse else (s.getHead h).pUse
  if u = 0 then
    match s.stair.map.find? (fun e => e.1 == h / 128) with
    | none => 0
    | some e => if (s.getStrm (256 * e.2 + 2 * (h % 128) + b2n d)).left > 0 then 1 else 0
  else u

/-- A head register by offset in its block. -/
def headRead (s : State) (h off : Nat) : Word :=
  let x := s.getHead h
  let wait := fun i => BitVec.ofNat 32 ((x.timingAt s.now).waits.getD i 0 % 2 ^ 21)
  match off with
  | 0x00 => packW [(headStCode x.st, 28), (x.typ, 24), (b2n ((x.timingAt s.now).east && x.st == .admitted), 23),
      (x.queue.length + b2n x.offPlace.isSome, 16), (s.useClass h false, 8), (s.useClass h true, 4)]
  | 0x04 => wordOf x.serial.toNat 0
  | 0x08 => wordOf x.serial.toNat 1
  | 0x0C => packW [(x.gainP, 4), (x.gainA, 0)]
  | 0x10 => BitVec.ofInt 32 (rne x.dw 1024)
  | 0x14 => BitVec.ofInt 32 (rne x.de 1024)
  | 0x18 => BitVec.ofInt 32 x.delta
  | 0x1C => BitVec.ofNat 32 (x.modP % 2 ^ 17)
  | 0x20 => BitVec.ofNat 32 (x.modA % 2 ^ 17)
  | 0x24 => wait 0
  | 0x28 => wait 1
  | 0x2C => wait 2
  | 0x30 => wait 3
  | 0x34 => (x.health &&& 0x00FFFF06) ||| packW [(b2n x.valid, 0)]
  | 0x38 => packW [(x.rejoins, 24), (x.unhealthy, 16), (x.clip, 0)]
  | _ => 0

/-- Reading HEAD_FAULTS clears it. -/
def headClear (h off : Nat) (s : State) : State :=
  match off with
  | 0x38 => s.modHead h (fun x => { x with rejoins := 0, unhealthy := 0, clip := 0 })
  | _ => s

/-- A register of a head access mailbox. -/
def accRead (a : HeadAcc) (off : Nat) : Word :=
  match off with
  | 0x00 => packW [(b2n a.busy, 31), (b2n a.force, 30), (a.op, 28), (a.len, 26), (a.head, 0)]
  | 0x04 => packW [(a.reg, 0)]
  | 0x08 => packW [(a.resp, 16), (a.result, 8), (b2n a.busy, 0)]
  | 0x0C => a.data.getD 0 0
  | 0x10 => a.data.getD 1 0
  | 0x14 => a.data.getD 2 0
  | 0x18 => a.data.getD 3 0
  | 0x1C => wordOf a.at_ 0
  | 0x20 => wordOf a.at_ 1
  | _ => 0

/-- A write of a mailbox register by its own port in a role. -/
def accWrite (role p off : Nat) (v : Word) (s : State) : State :=
  match off with
  | 0x00 =>
    if (s.getHeadAcc p).busy then s
    else
      let s := s.modHeadAcc p (accFields v)
      if bit v 31 then accGo role p s else s
  | 0x04 => s.modHeadAcc p (fun a => { a with reg := bits v 15 0 })
  | 0x0C => s.modHeadAcc p (fun a => { a with data := a.data.set 0 v })
  | 0x10 => s.modHeadAcc p (fun a => { a with data := a.data.set 1 v })
  | 0x14 => s.modHeadAcc p (fun a => { a with data := a.data.set 2 v })
  | 0x18 => s.modHeadAcc p (fun a => { a with data := a.data.set 3 v })
  | _ => s

/-! ## Commands -/

/-- HEALTH_POLL (R119): HEALTH is read through cell 1. -/
def execHealthPoll (h : Fin 4096) (s : State) : Out :=
  onStew s (fun s =>
    if (s.getHead h).st == .admitted then
      askCell (h / 128) 1 { use := .health h, chars := cellChars (h % 128) 1 1 0x50 0 [] 0 } s
    else s)

end Sys2Proof.Machine
end

