-- ==== Sys2Proof/Machine/Stair.lean ====
section
/-! DEFINITION. Chapter 5: the staircase: steps and landings, the flat path, classes, watch points, the spare pool and the
warm handover, and the staircase registers (R150). -/

namespace Sys2Proof.Machine

/-! ## Engines and rings -/

/-- R127: the spare pool: engines not retired that serve no ring. -/
def State.spareEngines (s : State) : List Nat := (List.range 33).filter (fun e => (s.getEng e).st == .spare)

/-- R127: the engine that serves ring r. -/
def State.engOf (s : State) (r : Nat) : Option Nat := (s.stair.map.find? (fun e => e.1 == r)).map (fun e => e.2)

/-- R32, R147: the engine taking ring r over. -/
def State.takerOf (s : State) (r : Nat) : Option Nat := (s.stair.taker.find? (fun e => e.1 == r)).map (fun e => e.2)

/-- R147: where the outputs of ring r that count at τ lie: the engine, and true where they are what it took over from the engine
that the ring was moved from. In a settings move the old engine's count before T_sw and the new one's from it on. τ is in 2^-1 tick
(`tau2`). -/
def State.engSrc (s : State) (r : Nat) (tau2 : Int) : Option (Nat × Bool) :=
  let pick := match s.takerOf r with
    | some t => if (s.getEng t).moveAt.isSome then some t else s.engOf r
    | none => s.engOf r
  match pick with
  | none => none
  | some e =>
    match (s.getEng e).moveAt with
    | none => some (e, false)
    | some w =>
      if tau2 < 2 * (w : Int) then
        match (s.getEng e).from_ with
        | some old => some (old, false)
        | none => some (e, true)
      else some (e, false)

/-- R144, R147: the engine whose new outputs of ring r count at τ. DESIGN CHOICE (log entry 88): while both engines of a settings move
deliver, a watch point sees the old engine's outputs before T_sw and the new one's from T_sw on, as every other consumer does. -/
def State.engAt (s : State) (r : Nat) (tau2 : Int) : Option Nat :=
  match s.engSrc r tau2 with
  | some (e, false) => some e
  | some (_, true) | none => none

/-- The settings by which outputs at such a place are dated. -/
def State.cfgOf (s : State) (q : Nat × Bool) : StairCfg := if q.2 then (s.getEng q.1).oldCfg else (s.getEng q.1).cfg

/-- The outputs of a stream of the ring at such a place, newest first. -/
def State.outsOf (s : State) (q : Nat × Bool) (st : Nat) : List StOut :=
  let x := s.getStrm (256 * q.1 + st)
  if q.2 then x.oldOuts else x.outs

/-- Its flat samples. -/
def State.flatsOf (s : State) (q : Nat × Bool) (st : Nat) : List StFlat :=
  let x := s.getStrm (256 * q.1 + st)
  if q.2 then x.oldFlats else x.flats

/-- Nothing more comes from such a place: it is what an ended move left, or its engine is retired and was not replaced (R304, R12). -/
def State.srcDead (s : State) (q : Nat × Bool) : Bool := q.2 || (s.getEng q.1).st == .retired

/-- R137: the first index that an engine starting on ring r now takes whole. -/
def State.nextWhole (s : State) (r : Nat) : Nat :=
  match (s.getRing r).chan with
  | [] => (s.getRing r).nextRel
  | x :: _ => if x.pos = 0 ∧ !(s.getRing r).half then x.idx else x.idx + 1

/-- The engines of ring r stand between two indices. -/
def State.atWhole (s : State) (r : Nat) : Bool :=
  match (s.getRing r).chan with
  | [] => !(s.getRing r).half
  | x :: _ => x.pos == 0 && !(s.getRing r).half

/-- An engine starts on ring r at the next whole index: every stream with a synchronising reset pending (R137). -/
def startEngine (e r : Nat) (cfg : StairCfg) (st : EngSt) (s : State) : State :=
  let s := s.modEng e (fun x => { x with
    st := st, ring := some r, cfg := cfg, startAt := s.nextWhole r, made := 0, moveAt := none, from_ := none, oldCfg := {} })
  s.modStairIsl (fun t => { t with strm := t.strm.filter (fun x => x.1 / 256 != e) })

/-- An engine leaves its ring for the spare pool. -/
def freeEngine (e : Nat) (s : State) : State :=
  s.modEng e (fun x => { x with st := if x.st == .retired then .retired else .spare, ring := none })

/-- R293, R295: an engine is retired: criterion 0 mismatches, 1 self-tests (R500), 2 the loss of its island's clock (log entry 80). -/
def retireEngine (crit e : Nat) (s : State) : State :=
  raise .stairRetired e [(1, crit), (1, (s.getEng e).ring.getD 0xFF)]
    (s.modEng e (fun x => { x with st := .retired, ring := none }))

/-- R32, R304: a warm handover of the ring of engine e to the lowest-numbered spare; with the pool empty the engine keeps
serving and STAIR_NO_SPARE is logged. -/
def startHandover (e : Nat) (s : State) : State :=
  match (s.getEng e).ring, s.spareEngines with
  | some r, t :: _ =>
    let s := startEngine t r (s.getEng e).cfg .takingOver s
    (s.modEng e (fun x => { x with st := .handingOver })).modStairIsl (fun x => { x with taker := tset x.taker r t })
  | some _, [] => raise .stairNoSpare e [] (s.modRedIsl (fun x => { x with noSpare := true }))
  | none, _ => retireEngine 0 e s

/-- The events among the latest within 3,840,000 ticks of `now`, newest first, with one more at `now`. -/
def addFault (now : Nat) (l : List Nat) : List Nat := (now :: l.filter (fun t => decide (t + 3840000 > now))).take 64

/-- R293, R304: an engine that is taking ring r over fails for good: it is retired and the lowest-numbered spare takes over in its
place, in a settings move under the same settings and for the same T_sw (R147). With the pool empty it goes on. -/
def replaceTaker (e r : Nat) (s : State) : State :=
  let x := s.getEng e
  match s.spareEngines with
  | [] => raise .stairNoSpare e [] (s.modRedIsl (fun y => { y with noSpare := true }))
  | t :: _ =>
    let s := startEngine t r x.cfg .takingOver (retireEngine 0 e s)
    (s.modEng t (fun y => { y with moveAt := x.moveAt, from_ := x.from_ })).modStairIsl (fun y => { y with taker := tset y.taker r t })

/-- R293: a fault of an engine: the third within 3,840,000 ticks is permanent. -/
def engineFault (e : Nat) (s : State) : State :=
  let fs := addFault s.now (s.getEng e).faults
  let s := s.modEng e (fun x => { x with faults := fs })
  let x := s.getEng e
  if fs.length = 3 || (fs.length > 3 && (x.st == .serving || x.st == .takingOver) && !s.spareEngines.isEmpty) then
    match x.st, x.ring with
    | .serving, some r =>
      -- a settings move already replaces it: it is retired when the move ends
      if (s.takerOf r).isSome then s.modEng e (fun x => { x with st := .handingOver }) else startHandover e s
    | .serving, none => startHandover e s
    | .takingOver, some r => replaceTaker e r s
    | .spare, _ => retireEngine 0 e s
    | .takingOver, none | .handingOver, _ | .retired, _ => s
  else s

/-! ## Steps, landings and the flat path (R131 to R136) -/

/-- R131: the integrators over one sample, modulo 2^48. -/
def integrate : List Nat → Nat → List Nat
  | [], _ => []
  | i :: t, x =>
    let v := (i + x) % 2 ^ 48
    v :: integrate t v

/-- R131: round half to even of a `w`-bit two's complement value shifted right by `sh`, modulo 2^(w − sh). -/
def landing (w c sh : Nat) : Nat := if sh = 0 then c % 2 ^ w else toU (w - sh) (rne (sgn w c) (2 ^ sh))

/-- R131: the combs and landings: the new D and the final value of width `w`. -/
def combs : List Nat → List Nat → Nat → Nat → List Nat × Nat × Nat
  | d :: ds, sh :: shs, w, v =>
    let c := (v + 2 ^ w - d % 2 ^ w) % 2 ^ w
    let (rest, out, wout) := combs ds shs (w - sh) (landing w c sh)
    (v :: rest, out, wout)
  | ds, _, w, v => (ds, v, w)

/-- R132: the final landing saturates to ±(2^31 − 1). -/
def satOut (v : Int) : Int := clampI (-(2 ^ 31 - 1)) (2 ^ 31 - 1) v

/-- R137: clear the stream and set its count to N (and the flat count of R139 to N + 31). -/
def syncReset (n : Nat) (x : Strm) : Strm :=
  { x with i := [0, 0, 0, 0, 0], d := [0, 0, 0, 0, 0], left := n, flatLeft := n + 31, pendReset := false }

/-- R140: class 2, 3 or 4 if any sample of the output's span has it, in that order. -/
def spanClass (lo : Nat) (x : Strm) : Option Nat :=
  let inSpan := fun (t : Option Nat) => match t with | none => false | some n => decide (n ≥ lo)
  if inSpan x.outingAt then some 2 else if inSpan x.unhealthyAt then some 3 else if inSpan x.overAt then some 4 else none

/-- Remember the latest index of an unusable class (R140). -/
def noteClass (n cls : Nat) (x : Strm) : Strm :=
  match cls with
  | 2 => { x with outingAt := some n }
  | 3 => { x with unhealthyAt := some n }
  | 4 => { x with overAt := some n }
  | _ => x

/-- R135: Σ c_i u_(j−i) over the taps, newest first. -/
def compSum (comp : List Int) (u : List Int) : Int :=
  ((List.range 32).map (fun i => comp.getD (min i (31 - i)) 0 * u.getD i 0)).foldl (· + ·) 0

/-- R141: the class of a flat sample over its 32 taps, newest first. -/
def flatClass (taps : List StOut) : Nat :=
  match taps with
  | [] => 5
  | t :: older =>
    if t.cls = 6 || t.cls = 5 then t.cls
    else
      let any := fun c => taps.any (fun x => x.cls == c)
      if any 2 then 2 else if any 3 then 3 else if any 4 then 4
      else if taps.any (fun x => x.unset) || older.any (fun x => x.cls == 5 || x.cls == 6) || decide (taps.length < 32) then 1
      else 0

/-- The outputs of a stream that are held for the resampler: 62 in its store, and the 2 that the channel holds (R15). DESIGN CHOICE
(log entry 82): the spec gives no depth for the stores behind the channels; a full one holds its producer (R16). -/
def outStore : Nat := 64

/-- The flat samples of a stream that are held for the tally units: 2,042 in their store, and the 6 that the channel holds (R15).
DESIGN CHOICE (log entry 82). -/
def flatStore : Nat := 2048

/-- R135, R136: the flat sample that the newest output forms. DESIGN CHOICE (log entry 128): STC_STRM.FLAT_LEFT (R150) counts every output
down, also one that is ABSENT or RETIRED with its reset still pending. -/
def formFlat (cfg : StairCfg) (x : Strm) : StFlat × Strm :=
  let taps := x.outs.take 32
  let y := rne (compSum cfg.comp (taps.map (fun t => t.val))) (2 ^ 18)
  let v := clampI (-(2 ^ 23 - 1)) (2 ^ 23 - 1) y
  let newest := taps.headD { val := 0, cls := 5, step := 0, sat := false, unset := false, nlast := 0 }
  let f : StFlat := { val := v, cls := flatClass taps, step := newest.step, fsat := v != y, nlast := newest.nlast, decim := cfg.m }
  (f, { x with flats := (f :: x.flats).take flatStore, fsat := x.fsat || f.fsat, flatLeft := x.flatLeft - 1 })

/-- One stream's sample as the staircase takes it. -/
structure Samp where
  n : Nat
  cls : Nat
  code : Int
  chg : Bool
  step : Nat
  deriving DecidableEq, Repr

/-- R131: one delivered index of one stream; the output emitted, if the index lies on the grid (R129). -/
def strmStep (cfg : StairCfg) (q : Samp) (x : Strm) : Option StOut × Strm :=
  let grid := (q.n + 1) % cfg.m == 0
  if q.cls = 5 || q.cls = 6 then
    let x := { x with pendReset := true }
    if grid then
      let o : StOut := { val := 0, cls := q.cls, step := q.step, sat := false, unset := false, nlast := q.n, decim := cfg.m }
      (some o, { x with cls := q.cls, step := q.step, out := 0, outs := (o :: x.outs).take outStore })
    else (none, x)
  else
    let x := if x.pendReset || q.chg then syncReset cfg.n x else x
    let x := noteClass q.n q.cls x
    let i := integrate (x.i.take cfg.n) (toU 48 q.code)
    let x := { x with i := i ++ x.i.drop cfg.n }
    if grid then
      let (d, v, w) := combs (x.d.take cfg.n) (cfg.shifts.take cfg.n) 48 (i.getLastD 0)
      let raw := sgn w v
      let val := satOut raw
      let unset := decide (x.left > 0)
      let cls := (spanClass (q.n - cfg.n * (cfg.m - 1)) x).getD (if unset then 1 else 0)
      let o : StOut := { val := val, cls := cls, step := q.step, sat := val != raw, unset := unset, nlast := q.n, decim := cfg.m }
      (some o, { x with
        d := d ++ x.d.drop cfg.n, left := x.left - 1, cls := cls, step := q.step, out := val
        sat := x.sat || o.sat, outs := (o :: x.outs).take outStore })
    else (none, x)

/-- R132: a saturated output is counted, and logged at most once per 384,000 ticks per engine. -/
def noteSat (e r st : Nat) (s : State) : State :=
  let x := s.getEng e
  let due := match x.satLogAt with | none => true | some t => decide (s.now ≥ t + 384000)
  let s := s.modEng e (fun x => { x with
    sat := satAdd 0xFFFF x.sat 1, satLogAt := if due then some s.now else x.satLogAt })
  whenDo due (raise .stairSat e [(1, r), (1, st)]) s

/-- One engine takes one sample of stream `st` of ring r: its output, if one is emitted. -/
def engineSample (e r st : Nat) (q : Samp) (s : State) : Option StOut × State :=
  let cfg := (s.getEng e).cfg
  let (o, x) := strmStep cfg q (s.getStrm (256 * e + st))
  match o with
  | none => (none, s.modStrm (256 * e + st) (fun _ => x))
  | some out =>
    let (f, x) := formFlat cfg x
    let s := s.modStrm (256 * e + st) (fun _ => x)
    let s := whenDo out.sat (noteSat e r st) s
    let s := whenDo f.fsat (fun s => s.modEng e (fun g => { g with flatSat := satAdd 0xFFFF g.flatSat 1 })) s
    (some out, s)

/-! ## Watch points (R144 to R146) -/

/-- R144: the condition of WP_CFG.MODE; none while the mode is off. -/
def watchCond (w : Watch) (v : Int) : Option Bool :=
  let hi := sgn 32 w.hi.toNat
  let lo := sgn 32 w.lo.toNat
  match w.mode with
  | 1 => some (decide (v > hi))
  | 2 => some (decide (v < lo))
  | 3 => some (decide (v > hi) || decide (v < lo))
  | 4 => some (decide (lo ≤ v) && decide (v ≤ hi))
  | _ => none

/-- R144: one counted output: STATE changes after HOLD in a row against it. -/
def watchCount (tau : Nat) (c : Bool) (w : Watch) : Watch × Bool :=
  if c = w.state then ({ w with run := 0 }, false)
  else if w.run + 1 ≥ max w.hold 1 then
    ({ w with run := 0, state := c, rose := w.rose || c, fell := w.fell || !c, at_ := tau
              trips := if c then satAdd 0xFFFF w.trips 1 else w.trips }, true)
  else ({ w with run := w.run + 1 }, false)

/-- R144, R145: every watch point of the stream evaluates the output; each change raises the watch source. -/
def watchOutput (r st : Nat) (cfg : StairCfg) (o : StOut) (s : State) : State :=
  let tau := ((2 * (o.nlast : Int) - (cfg.n * (cfg.m - 1) : Nat)) / 2).toNat
  s.stair.wp.foldl (fun s e =>
    let w := e.2
    if w.mode = 0 || w.mode > 4 || w.ring != r || w.stream != st then s
    else if o.cls != 0 then s.modWp e.1 (fun w => { w with stale := true })
    else match watchCond w o.val with
      | none => s
      | some c =>
        let (w', ch) := watchCount tau c { w with stale := false }
        whenDo ch (irqAll irqWatch) (s.modWp e.1 (fun _ => w'))) s

/-! ## Registers (R150) -/

/-- The code of STC_CFG.STATE. -/
def engStCode (st : EngSt) : Nat :=
  match st with
  | .spare => 0
  | .serving => 1
  | .takingOver => 2
  | .handingOver => 3
  | .retired => 4

/-- The code of DECIM. -/
def decimCode (m : Nat) : Nat := if m = 6 then 0 else if m = 8 then 1 else if m = 12 then 2 else 3

/-- A watch point register by offset in its block. -/
def wpRead (s : State) (w off : Nat) : Word :=
  let x := s.getWp w
  let gone := x.ring ≥ s.ringCount || (s.getRing x.ring).st == .off
  match off with
  | 0x00 => packW [(x.mode, 28), (x.ring, 16), (x.stream, 8)]
  | 0x04 => x.hi
  | 0x08 => x.lo
  | 0x0C => packW [(x.hold, 0)]
  | 0x10 => packW [(b2n x.state, 31), (b2n x.rose, 30), (b2n x.fell, 29), (b2n (x.stale || gone), 28), (x.trips, 0)]
  | 0x14 => wordOf x.at_ 0
  | 0x18 => wordOf x.at_ 1
  | _ => 0

/-- A register of engine e's block. -/
def stcRead (s : State) (e off : Nat) : Word :=
  let x := s.getEng e
  if off = 0x00 then packW [(engStCode x.st, 24), (x.ring.getD 0x3F, 16), (decimCode x.cfg.m, 8), (x.cfg.n - 3, 0)]
  else if off = 0x04 then packW [(x.cfg.shifts.getD 4 0, 16), (x.cfg.shifts.getD 3 0, 12), (x.cfg.shifts.getD 2 0, 8),
    (x.cfg.shifts.getD 1 0, 4), (x.cfg.shifts.getD 0 0, 0)]
  else if off = 0x08 then packW [(x.residue, 16), (x.corrected, 0)]
  else if off = 0x0C then packW [(x.flatSat, 16), (x.sat, 0)]
  else if 0x40 ≤ off && off < 0x80 then BitVec.ofNat 32 (toU 20 (x.cfg.comp.getD ((off - 0x40) / 4) 0))
  else if 0x400 ≤ off && off < 0x800 then
    let y := s.getStrm (256 * e + (off - 0x400) / 4)
    packW [(y.cls, 29), (y.step, 24), (y.flatLeft, 16), (y.left, 8), (b2n y.fsat, 1), (b2n y.sat, 0)]
  else if 0x800 ≤ off && off < 0xC00 then BitVec.ofInt 32 (s.getStrm (256 * e + (off - 0x800) / 4)).out
  else if 0xE00 ≤ off && off < 0xF00 then (if e < 32 then wpRead s (8 * e + (off - 0xE00) / 0x20) (off % 0x20) else 0)
  else if 0xF00 ≤ off && off < 0xF80 then BitVec.ofNat 32 ((s.engOf ((off - 0xF00) / 4)).getD 0x3F)
  else if off = 0xF80 then
    packW [(((List.range 33).filter (fun k => (s.getEng k).st == .retired)).length, 8), (s.spareEngines.headD 0x3F, 0)]
  else if off = 0xF84 then packW [(s.stair.selfFails, 0)]
  else 0

/-- A write of a watch point register (R146). DESIGN CHOICE (log entry 87): a write of WP_CFG sets STALE until the next output of the
selected stream, and STALE stands as it is while the mode is 0 or 5 to 7. -/
def wpWrite (w off : Nat) (v : Word) (s : State) : State :=
  match off with
  | 0x00 => s.modWp w (fun x => { x with
      mode := bits v 30 28, ring := bits v 20 16, stream := bits v 15 8, state := false, run := 0, stale := true })
  | 0x04 => s.modWp w (fun x => { x with hi := v })
  | 0x08 => s.modWp w (fun x => { x with lo := v })
  | 0x0C => s.modWp w (fun x => { x with hold := bits v 15 0 })
  | 0x10 => s.modWp w (fun x => { x with rose := x.rose && !bit v 30, fell := x.fell && !bit v 29 })
  | _ => s

/-- A write of a register of engine e's block. -/
def stcWrite (e off : Nat) (v : Word) (s : State) : State :=
  if 0x400 ≤ off && off < 0x800 then
    s.modStrm (256 * e + (off - 0x400) / 4) (fun y => { y with fsat := y.fsat && !bit v 1, sat := y.sat && !bit v 0 })
  else if 0xE00 ≤ off && off < 0xF00 && decide (e < 32) then wpWrite (8 * e + (off - 0xE00) / 0x20) (off % 0x20) v s
  else s

/-- Reading a read-to-clear field of engine e's block clears it. -/
def stcClear (e off : Nat) (s : State) : State :=
  if off = 0x08 then s.modEng e (fun x => { x with residue := 0, corrected := 0 })
  else if off = 0x0C then s.modEng e (fun x => { x with flatSat := 0, sat := 0 })
  else if 0xE00 ≤ off && off < 0xF00 && decide (e < 32) && off % 0x20 == 0x10 then
    s.modWp (8 * e + (off - 0xE00) / 0x20) (fun x => { x with trips := 0 })
  else if off = 0xF84 then s.modStairIsl (fun t => { t with selfFails := 0 })
  else s

/-! ## Commands -/

/-- R32: the flat-path settling count: the outputs after which the next flat sample is settled (R139). -/
def settleCount (cfg : StairCfg) : Nat := cfg.n + 31

/-- R32: what engine e has delivered of a stream stays delivered when engine t takes the ring: only what t delivers from the switch on
comes from t. -/
def keepDelivered (e t st : Nat) (s : State) : State :=
  let x := s.getStrm (256 * e + st)
  s.modStrm (256 * t + st) (fun y => { y with outs := x.outs, flats := x.flats, oldOuts := x.oldOuts, oldFlats := x.oldFlats })

/-- R32: the spare t takes ring r from engine e at an output boundary. -/
def switchEngine (r e t : Nat) (s : State) : State :=
  let x := s.getEng e
  let s := each (List.range 256) (fun s st => keepDelivered e t st s) s
  let s := s.modStairIsl (fun y => { y with map := tset y.map r t, taker := tdel y.taker r })
  s.modEng t (fun y => { y with st := .serving, moveAt := x.moveAt, oldCfg := x.oldCfg })

/-- HANDOVER_SWITCH (R32): once the spare has produced the settling count, the ring's outputs switch to it at an output boundary, when
both engines have taken the same index whole, and the engine that hands over is retired (R293). -/
def execHandoverSwitch (r : Fin 32) (s : State) : Out :=
  onIsl islStair s (fun s =>
    match s.takerOf r, s.engOf r with
    | some t, some e =>
      let x := s.getEng t
      if x.moveAt.isNone && x.from_.isNone && decide (x.made ≥ settleCount x.cfg) && s.nextWhole r % x.cfg.m == 0 && s.atWhole r then
        retireEngine 0 e (switchEngine r e t s)
      else s
    | _, _ => s)

/-- R149: an engine's next self-test outing is due: 384,000 ticks after the one before. -/
def Eng.testDue (now : Nat) (x : Eng) : Bool :=
  match x.testAt with
  | none => true
  | some t => decide (now ≥ t + 384000)

/-- STAIR_SELFTEST (R149): a self-test outing of a spare engine, one every 384,000 ticks: two failures in a row retire it. -/
def execStairSelftest (e : Fin 33) (pass : Bool) (s : State) : Out :=
  onIsl islStair s (fun s =>
    if (s.getEng e).st == .spare && (s.getEng e).testDue s.now then
      let s := s.modEng e (fun x => { x with testAt := some s.now })
      if pass then s.modEng e (fun x => { x with failRun := 0 })
      else
        let s := s.modStairIsl (fun t => { t with selfFails := satAdd 0xFFFF t.selfFails 1 })
        let s := s.modEng e (fun x => { x with failRun := x.failRun + 1 })
        if (s.getEng e).failRun ≥ 2 then retireEngine 1 e (raise .stairSelftestFail e [] s) else s
    else s)

end Sys2Proof.Machine
end

