-- ==== Sys2Proof/Machine/PlanOps.lean ====
section
/-! DEFINITION. Looking things up in the hall plan that governs an instant (R289, R290), and scaling a sample by the
plan's pair (R175). -/

namespace Sys2Proof.Machine

/-- The contexts of group g. -/
def Plan.ctxsOf (p : Plan) (g : Nat) : List PlanCtx := p.ctxs.filter (fun c => c.grp == g)

/-- The entry of context c. -/
def Plan.ctx? (p : Plan) (c : Nat) : Option PlanCtx := p.ctxs.find? (fun x => x.c == c)

/-- R194, R290: the number of a context. While a swap takes number c from a context of one group to a context of another, the new one works
under the key 256 + c until the last window of the old one has been committed; every other context's key is its number. -/
def ctxNum (key : Nat) : Nat := key % 256

/-- The context with number c. -/
def Plan.num? (p : Plan) (c : Nat) : Option PlanCtx := p.ctxs.find? (fun x => ctxNum x.c == c)

/-- The plan with other keys for its contexts. -/
def Plan.rekey (f : Nat → Nat) (p : Plan) : Plan :=
  { p with
    ctxs := p.ctxs.map (fun x => { x with c := f x.c }), groups := p.groups.map (fun g => { g with refs := g.refs.map f })
    nodes := p.nodes.map (fun v => { v with terms := v.terms.map (fun t => (f t.1, t.2)) }) }

/-- The plan that a swap brings in, apart from the one it replaces: a number that passes to another group has its own key. -/
def Plan.apart (o n : Plan) : Plan :=
  n.rekey (fun c => match o.ctx? c, n.ctx? c with
    | some a, some b => if a.grp = b.grp then c else 256 + c
    | _, _ => c)

/-- Every key that a context can have. -/
def allKeys : List Nat := List.range 160 ++ (List.range 160).map (fun c => 256 + c)

/-- The entry of group g. -/
def Plan.grp? (p : Plan) (g : Nat) : Option PlanGroup := p.groups.find? (fun x => x.g == g)

/-- The entry of ring r. -/
def Plan.ring? (p : Plan) (r : Nat) : Option PlanRing := p.rings.find? (fun x => x.ring == r)

/-- The entry of head h = 128 ring + position. -/
def Plan.head? (p : Plan) (h : Nat) : Option PlanHead := p.heads.find? (fun x => 128 * x.ring + x.pos == h)

/-- The binding of a slot of context c. -/
def PlanCtx.slot (c : PlanCtx) (i : Nat) : PlanBind := c.bind.getD i {}

/-- The head bound to a slot. -/
def PlanCtx.headOf (c : PlanCtx) (i : Nat) : Option Nat := (c.slot i).head

/-- The slots with a head. -/
def PlanCtx.bound (c : PlanCtx) : List Nat := (List.range 8).filter (fun i => (c.headOf i).isSome)

/-- The rings that feed a context. -/
def PlanCtx.rings (c : PlanCtx) : List Nat := (c.bind.filterMap (fun b => b.head)).map (fun h => h / 128)

/-- R152: the nominal frequency code. -/
def PlanGroup.nominal (g : PlanGroup) : Nat := (if g.nom60 then 60 else 50) * 2 ^ 24

/-- The contexts that bind head h, in number order. -/
def Plan.binders (p : Plan) (h : Nat) : List PlanCtx :=
  sortBy (fun a b => decide (ctxNum a.c ≤ ctxNum b.c)) (p.ctxs.filter (fun c => c.bind.any (fun b => b.head == some h)))

/-- R296: the home context: the lowest-numbered context that binds the head. -/
def Plan.home? (p : Plan) (h : Nat) : Option PlanCtx := (p.binders h).head?

/-- R290: the plan that governs group g at the index `t`: before T_sw(g) the plan that a swap replaces, from it on the new
one. -/
def State.planAt (s : State) (g t : Nat) : Option Plan :=
  let sw := s.plan.tsw.find? (fun e => e.1 == g)
  match s.plan.st, sw with
  | .switching, some (_, w) => if t < w then s.plan.cur else s.plan.next
  | .switching, none => s.plan.cur
  | _, some (_, w) => if t < w then (match s.plan.prev with | some p => some p | none => s.plan.cur) else s.plan.cur
  | _, none => s.plan.cur

/-- Tw(k) of group g, 0 before it is known. -/
def Grp.twOf (g : Grp) (k : Nat) : Nat := tget 0 g.tw k

/-- The number of the last committed window; window numbers go on above those before a FULL_RESET (R459). -/
def Grp.lastK (g : Grp) : Nat := max g.k g.winBase

/-- The plan of window k of group g: each window lies wholly on one side of T_sw (R290). -/
def State.planWin (s : State) (g k : Nat) : Option Plan := s.planAt g ((s.getGrp g).twOf (k - 1))

/-- R287, R291: head h is the one that the plan of window k of group g lists at its position: the head that a swap takes a position from
feeds no binding of the new plan. -/
def State.listedHead (s : State) (g k h : Nat) : Bool :=
  match (s.planWin g k).bind (fun p => p.head? h) with
  | none => true
  | some ph => (s.getHead h).st != .admitted || ph.serial == (s.getHead h).serial

/-- The plan of the window that group g forms now. -/
def State.planNow (s : State) (g : Nat) : Option Plan := s.planWin g ((s.getGrp g).closed + 1)

/-- The plan that the latest swap replaces, or is replacing. -/
def State.oldPlan (s : State) : Option Plan := if s.plan.st = .switching then s.plan.cur else s.plan.prev

/-- The plan that the latest swap puts in force, or is putting. -/
def State.newPlan (s : State) : Option Plan := if s.plan.st = .switching then s.plan.next else s.plan.cur

/-- The group of context c: that of the old plan until the group's contexts have moved at the commit of its last old window
(R194, R290), then that of the new one. -/
def State.ctxGrp (s : State) (c : Nat) : Option Nat :=
  let new := (s.newPlan.bind (fun p => p.ctx? c)).map (fun x => x.grp)
  match s.oldPlan.bind (fun p => p.ctx? c) with
  | some x => if s.plan.moved.contains x.grp then new else some x.grp
  | none => new

/-- The keys under which number c works now. -/
def State.ctxKeys (s : State) (c : Nat) : List Nat :=
  if (s.newPlan.bind (fun p => p.ctx? (256 + c))).isSome then [c, 256 + c] else [c]

/-- A scale pair of a binding for detector d, gain step g and path p (0 flat, 1 cycle). -/
def PlanBind.pair (b : PlanBind) (d : Bool) (g path : Nat) : Nat × Nat := b.scale.getD (8 * b2n d + 2 * g + path) (0, 0)

/-- R175: the scaled value, saturated to ±(2^47 − 1). -/
def scaleBy (pr : Nat × Nat) (sign : Bool) (x : Int) : Int :=
  let v := rne (x * pr.1) (2 ^ pr.2)
  clampI (-(2 ^ 47 - 1)) (2 ^ 47 - 1) (if sign then -v else v)

/-- R175: the scaled value of a sample of a binding. -/
def PlanBind.scaled (b : PlanBind) (d : Bool) (step path : Nat) (x : Int) : Int := scaleBy (b.pair d step path) b.sign x

/-- R296: the home group of head h in the plan in force. -/
def State.homeGrp (s : State) (h : Nat) : Option Nat := (s.plan.cur.bind (fun p => p.home? h)).map (fun x => x.grp)

/-- R296: the home group where the plan of window k of group g governs: the group itself where it binds the head at home. -/
def Plan.homeGrp (p : Plan) (h : Nat) : Option Nat := (p.home? h).map (fun x => x.grp)

/-- R153: the N and M of a group's rings (the reset codes where no ring is bound). -/
def Plan.grpCfg (p : Plan) (g : Nat) : Nat × Nat :=
  match ((p.ctxsOf g).flatMap (fun c => c.rings)).head? with
  | none => (5, 12)
  | some r => match p.ring? r with | none => (5, 12) | some x => (x.cfg.n, x.cfg.m)

/-- The slots whose voltages a context's kind uses for the reference (R162). -/
def PlanCtx.refSlots (c : PlanCtx) : List Nat :=
  match c.kind with
  | 1 => [0]
  | 2 => [0, 1]
  | _ => [0, 1, 2]

/-- Every voltage binding of a context (slots V1, V2, V3, VN). -/
def PlanCtx.voltSlots (c : PlanCtx) : List Nat := [0, 1, 2, 3].filter (fun i => (c.headOf i).isSome)

end Sys2Proof.Machine
end

