-- ==== Sys2Proof/Machine/Groups.lean ====
section
/-! DEFINITION. Chapter 6: frequency groups: positions and windows, the cycle resampler, the tracker, the fade, the
frequency results, and the group registers (R172). -/

namespace Sys2Proof.Machine

/-! ## Positions (R154 to R156) -/

/-- R156: the step for the frequency code F at decimation M. -/
def stepOf (m f : Nat) : Nat := rneN (384000 * 2 ^ 47) (m * f)

/-- R154: τ(P) = M P − 1 − N (M − 1)/2, in 2^-33 tick. -/
def tau33 (n m p : Nat) : Int := 2 * (m * p : Nat) - ((2 + n * (m - 1) : Nat) : Int) * 2 ^ 32

/-- The position of sample `i` of a cycle with its N and M (R154, R170). -/
def Cyc.pos (c : Cyc) (i : Nat) : Nat × Nat × Nat :=
  match c.old0 with
  | some o => if i = 0 then o else (c.p0 + i * c.step, c.gn, c.gm)
  | none => (c.p0 + i * c.step, c.gn, c.gm)

/-- τ of sample `i` of a cycle, in 2^-33 tick. -/
def Cyc.tau (c : Cyc) (i : Nat) : Int := let q := c.pos i; tau33 q.2.1 q.2.2 q.1

/-- τ of the end of a cycle, in 2^-33 tick. -/
def Cyc.endTau (c : Cyc) : Int := tau33 c.gn c.gm (c.p0 + 512 * c.step)

/-- ⌈τ⌉ as an index. -/
def ceilTau (t : Int) : Nat := (-((-t) / (2 ^ 33 : Int))).toNat

/-- ⌊τ⌋ as an index. -/
def floorTau (t : Int) : Nat := (t / (2 ^ 33 : Int)).toNat

/-- R154: P_0 is the smallest grid number whose timestamp is at or after the start index. -/
def startPos (n m start : Nat) : Nat := cdiv (2 * start + 2 + n * (m - 1)) (2 * m) * 2 ^ 32

/-- Cycle c of a group, where its step is fixed. -/
def Grp.cyc (g : Grp) (c : Nat) : Option Cyc := (g.cycles.find? (fun e => e.1 == c)).map (fun e => e.2)

/-- The cycles of a window of a group of the plan. -/
def State.winCycles (s : State) (g : Nat) : Nat :=
  match (s.planNow g).bind (fun p => p.grp? g), (s.planWin g (s.getGrp g).closed).bind (fun p => p.grp? g) with
  | some x, _ => x.w
  | none, some x => x.w
  | none, none => 10

/-- R155: the window that contains cycle c (window numbers count on from `winBase` after a FULL_RESET, R459). -/
def Grp.winOf (g : Grp) (w c : Nat) : Nat := g.winBase + c / w + 1

/-- R155: the first cycle of window k. -/
def Grp.firstCyc (g : Grp) (w k : Nat) : Nat := w * (k - g.winBase - 1)

/-! ## The correction of a stream (R157) and the interpolator (R158) -/

/-- R157: ε of detector d of a head at index n, where its ring decimates by m: from e_s, how late the wait in force there makes it sample,
by the delays that were stored when that wait was confirmed (DESIGN CHOICE, log entry 126). -/
def epsAt (h : Head) (d : Bool) (m n : Nat) : Int :=
  let t := h.timingAt n
  let w := t.waits.getD ((if t.east then 2 else 0) + b2n d) 0
  let delay := if t.east then t.de else t.dw
  let mod := if d then h.modA else h.modP
  let e1024 : Int := (w : Int) * 1024 - (((leadQ - mod : Nat) : Int) * 1024 - delay)
  rne (-e1024 * 2 ^ 32) (4 * 2621440 * m)

/-- R158 step 3: the coefficient of tap i at phase j and fraction ρ. -/
def tapCoef (h : List Int) (i j rho : Nat) : Int :=
  let a := h.getD (64 * i + j) 0
  let b := if 64 * i + j + 1 = 1024 then 0 else h.getD (64 * i + j + 1) 0
  a * 2 ^ 26 + (b - a) * rho

/-- R158 step 4: the exact sum over the 16 inputs, newest first. -/
def interpSum (h : List Int) (phi : Nat) (u : List Int) : Int :=
  let j := phi / 2 ^ 26
  let rho := phi % 2 ^ 26
  ((List.range 16).map (fun i => tapCoef h i j rho * u.getD i 0)).foldl (· + ·) 0

/-- An output that has not arrived, or is no longer held: class ABSENT. -/
def absentOut (nlast : Nat) : StOut := { val := 0, cls := 5, step := 0, sat := false, unset := false, nlast := nlast }

/-- The staircase output with grid number x. -/
def findOut (outs : List StOut) (m x : Nat) : Option StOut := outs.find? (fun o => o.nlast + 1 == x * m)

/-- R158, R160: the inputs k + 8 down to k − 7 of a stream, or none while output k + 8 has not arrived. -/
def streamInputs (outs : List StOut) (m k : Nat) : Option (List StOut) :=
  match findOut outs m (k + 8) with
  | none => none
  | some newest =>
    some (newest :: (List.range 15).map (fun i => (findOut outs m (k + 7 - i)).getD (absentOut ((k + 7 - i) * m - 1))))

/-- R160: a stream's class over the 16 inputs; the outputs of a retired stream are RETIRED from the first index delivered after its
retirement (R303). -/
def inputClass (ins : List StOut) : Nat :=
  let newest := ins.headD (absentOut 0)
  let any := fun c => ins.any (fun o => o.cls == c)
  if newest.cls = 6 then 6
  else if newest.cls = 5 then 5
  else if any 2 then 2 else if any 3 then 3 else if any 4 then 4
  else if any 1 || any 5 || any 6 then 1 else 0

/-- The 16 inputs of a stream that delivers no more: those that have not come are ABSENT (R304). -/
def deadInputs (outs : List StOut) (m k : Nat) : List StOut :=
  (List.range 16).map (fun i => (findOut outs m (k + 8 - i)).getD (absentOut ((k + 8 - i) * m - 1)))

/-- The streams' inputs of detector d of head h at position P of a group sample. -/
def State.inputsOf (s : State) (h : Nat) (d : Bool) (q : Nat × Nat × Nat) : Option (List StOut × Nat) :=
  let t2 := tau33 q.2.1 q.2.2 q.1 / 2 ^ 32
  let p := ((q.1 : Int) + epsAt (s.getHead h) d q.2.2 (t2 / 2).toNat).toNat
  let k := p / 2 ^ 32
  match s.engSrc (h / 128) t2 with
  | none => some (deadInputs [] q.2.2 k, p % 2 ^ 32)
  | some e =>
    let outs := s.outsOf e (2 * (h % 128) + b2n d)
    let ins := match streamInputs outs q.2.2 k with
      | some l => some l
      | none => if s.srcDead e then some (deadInputs outs q.2.2 k) else none
    ins.map (fun l => (l, p % 2 ^ 32))

/-- R169: sample m of a group during a fade: how many faded samples came before it. -/
def Grp.fadeIdx (g : Grp) (m : Nat) : Option Nat :=
  match g.fadeAt with
  | none => none
  | some a => if a ≤ m && m < a + g.fadeLen then some (m - a) else none

/-- R158, R169: the value of a sample: one bank, or both within a fade. -/
def sampleVal (g : Grp) (m phi : Nat) (u : List Int) : Int :=
  let act := if g.bankB then g.hB else g.hA
  let alt := if g.bankB then g.hA else g.hB
  match g.fadeIdx m with
  | none =>
    -- from sample L of a fade on only the new bank is used
    let h := match g.fadeAt with | some a => if m ≥ a + g.fadeLen then alt else act | none => act
    rne (interpSum h phi u) (2 ^ 48)
  | some i =>
    let a := (i + 1) * 65536 / (g.fadeLen + 1)
    rne ((65536 - a : Nat) * interpSum act phi u + (a : Int) * interpSum alt phi u) (2 ^ 64)

/-- R158 to R160: form cycle sample m of the binding of head h, serving detector d. Its value and whether it saturated are
decided by the chosen detector; an ABSENT or RETIRED sample has value 0. The partner of a stream that is RETIRED there serves (R296,
R304). None while an input has not arrived. -/
def formSample (s : State) (g : Grp) (h m : Nat) (cy : Cyc) (d : Bool) : Option CSample :=
  let q := cy.pos (m % 512)
  match s.inputsOf h d q, s.inputsOf h (!d) q with
  | some di, some ei =>
    let (d, di, ei) := if inputClass di.1 = 6 then (!d, ei, di) else (d, di, ei)
    let cd := inputClass di.1
    let ce := inputClass ei.1
    let sub := cd != 0 && ce == 0
    let det := if sub then !d else d
    let ins := if sub then ei else di
    let cls := if sub then 0 else cd
    let raw := if cls = 5 || cls = 6 then 0 else sampleVal g m ins.2 (ins.1.map (fun o => o.val))
    let v := clampI (-(2 ^ 23 - 1)) (2 ^ 23 - 1) raw
    some { m := m, val := v, cls := cls, det := det, subst := sub, step := (ins.1.headD (absentOut 0)).step, csat := v != raw
           unlocked := cy.unlocked, held := cy.held, fade := (g.fadeIdx m).isSome
           tau := rne (cy.tau (m % 512)) (2 ^ 17) }
  | _, _ => none

/-- R70: the sample of a binding whose head is absent. -/
def CSample.gone (x : CSample) : CSample := { x with val := 0, cls := 5, subst := false, csat := false }

/-- The key of a binding: 8 times the context plus the slot. -/
def bkey (c slot : Nat) : Nat := 8 * c + slot

/-- The number of the next cycle sample of a binding. -/
def State.nextOf (s : State) (c slot : Nat) : Nat := tget 0 s.rs.next (bkey c slot)

/-- The hamper's cycle samples of a binding, newest first (R307). -/
def State.hamper (s : State) (c slot : Nat) : List CSample := tget [] s.rs.hamper (bkey c slot)

/-- Cycle sample m of a binding. -/
def State.csample (s : State) (c slot m : Nat) : Option CSample := (s.hamper c slot).find? (fun x => x.m == m)

/-- R307: how long the hamper holds a cycle sample: 18,432 ticks, in 2^-16 tick. -/
def hamperTicks : Int := 18432 * 65536

/-- R16: the tally unit has still to take sample m of a binding with its cycle. -/
def State.tallyUnread (s : State) (x : PlanCtx) (m : Nat) : Bool :=
  decide (tget 15 s.tally.unitOf (ctxNum x.c / 20) < 9) && s.stopAt.isNone && decide (m ≥ 512 * (s.getCtx x.c).nextCyc)

/-- R16: the harmonic engine has still to take sample m of a binding. -/
def State.harmUnread (s : State) (x : PlanCtx) (slot m : Nat) : Bool :=
  let c := x.c
  decide (tget 15 s.spec.blkEng (ctxNum c / 40) < 5) && !s.spec.shed &&
    (decide (m ≥ (s.getSpBind (bkey c slot)).next) ||
      (x.kind == 3 && (x.headOf 5).isNone && (slot == 4 || slot == 6) && decide (m ≥ (s.getSpBind (bkey c 5)).next)))

/-- The event unit has still to take the half cycles up to sample m of a binding. -/
def State.eventUnread (s : State) (x : PlanCtx) (slot m : Nat) : Bool :=
  !s.ev.down && x.voltSlots.contains slot && decide (m + 512 ≥ (s.getEvc x.c).lastB)

/-- R15, R16: the resampler waits: the hamper's oldest sample of a binding has left its 18,432 ticks and a tally unit or a harmonic engine
has still to take it; the depth in time of that consumer's channel, in cycle samples (the shorter where both wait). The event unit never
stalls the resampler (R11). -/
def State.cycleHeld (s : State) (x : PlanCtx) (slot : Nat) (tau : Int) : Option Nat :=
  match (s.hamper x.c slot).getLast? with
  | none => none
  | some e =>
    if e.tau + hamperTicks ≥ tau then none
    else if s.harmUnread x slot e.m then some 3
    else if s.tallyUnread x e.m then some 6
    else none

/-- R307: the hamper with one more sample of a binding: those of the last 18,432 ticks, and those still to be taken. -/
def State.hamperWith (s : State) (x : PlanCtx) (slot : Nat) (e : CSample) : List CSample :=
  e :: (s.hamper x.c slot).takeWhile (fun q => decide (q.tau + hamperTicks ≥ e.tau) || s.tallyUnread x q.m ||
    s.harmUnread x slot q.m || s.eventUnread x slot q.m)

/-- Tw(k) of group g: kept, or known from the step of the cycle that begins there (R155). -/
def Grp.closeOf (g : Grp) (w k : Nat) : Option Nat :=
  match g.tw.find? (fun e => e.1 == k) with
  | some e => some e.2
  | none => (g.cyc (g.firstCyc w (k + 1))).map (fun c => ceilTau (c.tau 0))

/-- R289: the window after whose close the swap switches group g, with that close, once it is known: the first close at or
after the index that the swap waits for. -/
def Grp.swapClose (g : Grp) (w : Nat) : Option (Nat × Nat) :=
  match g.tsw with
  | none => none
  | some t => [g.closed, g.closed + 1].findSome? (fun k =>
      match g.closeOf w k with
      | none => none
      | some c => if c ≥ t then some (k, c) else none)

/-- A cycle of group g that lies beyond the close at which a swap is still to switch the group. -/
def State.beyondSwap (s : State) (gi cyc : Nat) : Bool :=
  let g := s.getGrp gi
  let w := s.winCycles gi
  match g.swapClose w with
  | none => false
  | some (k, _) => decide (cyc ≥ g.firstCyc w (k + 1))

/-- R296, R303, R306: the serving detector of head h in window k of its home group gi: the partner of a stream that is retired from the
window's first index on, or of one restored and not yet a test candidate, else the decided one. -/
def State.servingAt (s : State) (gi h k : Nat) : Bool :=
  let x := s.getHead h
  let r := s.getRedHead h
  let begin := (s.getGrp gi).closeOf (s.winCycles gi) (k - 1)
  let early := match begin with | none => false | some t => decide (t < r.testFrom)
  let gone := fun (ret : Bool) (f : Nat) => ret && (match begin with | none => true | some t => decide (t ≥ f))
  if gone x.retP x.fromP then true else if gone x.retA x.fromA then false
  else match r.back, early with
    | some d, true => !d
    | _, _ => tget false r.serve k

/-- R296, R160, R176: the serving detector of head h for a sample of window k of group gi at time τ (2^-33 tick): in the
head's home group that window's, in another group the one of the home group's window that contains τ. -/
def State.serveFor (s : State) (gi h k : Nat) (tau : Int) : Bool :=
  match (s.planWin gi k).bind (fun p => p.homeGrp h) with
  | none => s.servingAt gi h k
  | some hg =>
    if hg = gi then s.servingAt gi h k
    else
      let g := s.getGrp hg
      let next := match g.closeOf (s.winCycles hg) (g.closed + 1) with | none => [] | some c => [(g.closed + 1, c)]
      let known := (g.tw ++ next).filter (fun e => decide ((e.2 : Int) * 2 ^ 33 ≤ tau))
      s.servingAt hg h ((known.foldl (fun m e => max m e.1) g.winBase) + 1)

/-- The resampler keeps a cycle sample of binding `slot` of context x, of window k of group gi; a capture sees it (R396: its index is
⌊τ⌋). -/
def keepSample (gi k slot tick : Nat) (pc : PlanCtx) (x : CSample) (s : State) : State :=
  let s := s.modRsIsl (fun r => { r with
    next := tset r.next (bkey pc.c slot) (x.m + 1), hamper := tset r.hamper (bkey pc.c slot) (s.hamperWith pc slot x) })
  let s := capSee 3 (hitSlot (ctxNum pc.c) slot)
    { value := x.val, idx := tick
      flags := x.cls + 8 * b2n x.csat + 16 * b2n x.det + 32 * b2n x.unlocked + 64 * b2n x.held + 128 * b2n x.fade } s
  let s := if x.csat then s.modGrp gi (fun g => { g with csat := satAdd 0xFFFF g.csat 1 }) else s
  s.modGrp gi (fun g => { g with
    fadeLeft := match g.fadeAt with
      | none => 0
      | some a => if x.m < a then g.fadeLeft else min g.fadeLeft (a + g.fadeLen - (x.m + 1))
    wflags := if x.fade then tmod 0 g.wflags k (fun f => f ||| 4) else g.wflags })

/-- CYCLE_SAMPLE_FORM: form the next cycle sample of a binding once its inputs are present, unless a consumer holds the resampler
(R16); the hamper and the consumers take it from the same record. -/
def formNext (c slot : Nat) (s : State) : State :=
  match s.ctxGrp c with
  | none => s
  | some gi =>
    let g := s.getGrp gi
    let m := s.nextOf c slot
    match g.started && !s.beyondSwap gi (m / 512), g.cyc (m / 512) with
    | true, some cy =>
      let k := g.winOf (s.winCycles gi) (m / 512)
      match (s.planWin gi k).bind (fun p => p.ctx? c) with
      | none => s
      | some pc =>
        match pc.headOf slot with
        | none => s
        | some h =>
          match (formSample s g h m cy (s.serveFor gi h k (cy.tau (m % 512)))).map (fun x => if s.listedHead gi k h then x else x.gone) with
          | none => s
          | some x =>
            match s.cycleHeld pc slot x.tau with
            | some n => stall (.cycles (bkey c slot)) (n * cy.step * cy.gm / 2 ^ 32) s
            | none => keepSample gi k slot (floorTau (cy.tau (m % 512))) pc x (unstall (.cycles (bkey c slot)) s)
    | _, _ => s

/-! ## The tracker (R162 to R168) -/

/-- R162: the twiddle factors e^(−j2πn/512), rounded half to even to 2^-30. -/
def twid512 : List (Int × Int) :=
  (List.range 512).map (fun n =>
    let cs := fxCosSin n 512
    (rne cs.1 (2 ^ 98), -(rne cs.2 (2 ^ 98))))

/-- R162: a = e^(j2π/3), rounded as the twiddle factors are. -/
def phaseA : Int × Int := let cs := fxCosSin 1 3; (rne cs.1 (2 ^ 98), rne cs.2 (2 ^ 98))

/-- The 512 samples of a cycle of one binding, in order; none unless all are held. -/
def State.cycleOf (s : State) (c slot cyc : Nat) : Option (List CSample) :=
  let l := ((s.hamper c slot).filter (fun x => x.m / 512 == cyc)).reverse
  if l.length = 512 then some l else none

/-- R162: the phasor of one binding over a cycle, in scaled units, times 2^30. DESIGN CHOICE (log entry 129): x_v is the scaled value of R175
of the cycle sample, as every other use of a binding's samples takes it. -/
def bindPhasor (b : PlanBind) (l : List CSample) : Int × Int :=
  (l.zip twid512).foldl (fun acc e =>
    let u := b.scaled e.1.det e.1.step 1 e.1.val
    (acc.1 + u * e.2.1, acc.2 + u * e.2.2)) (0, 0)

/-- Complex product. -/
def cmul (a b : Int × Int) : Int × Int := (a.1 * b.1 - a.2 * b.2, a.1 * b.2 + a.2 * b.1)

/-- Complex sum. -/
def cadd (a b : Int × Int) : Int × Int := (a.1 + b.1, a.2 + b.2)

/-- R162: X of a reference context over a cycle, with the factor that its scale carries beyond 2^30 (as a power of two)
and the number of phases it adds; none unless every voltage binding has 512 usable samples. -/
def State.refPhasor (s : State) (x : PlanCtx) (cyc : Nat) : Option ((Int × Int) × Nat × Nat) :=
  let usable := x.voltSlots.all (fun i => match s.cycleOf x.c i cyc with
    | none => false
    | some l => l.all (fun e => e.cls == 0))
  if !usable then none
  else
    let ph := fun i => match s.cycleOf x.c i cyc with | none => (0, 0) | some l => bindPhasor (x.slot i) l
    match x.kind with
    | 1 => some (ph 0, 30, 1)
    | 2 => some (cadd (ph 0) (-(ph 1).1, -(ph 1).2), 30, 2)
    | _ =>
      let a := phaseA
      let a2 := (a.1, -a.2)
      some (cadd (cadd ((ph 0).1 * 2 ^ 30, (ph 0).2 * 2 ^ 30) (cmul a (ph 1))) (cmul a2 (ph 2)), 60, 3)

/-- R162: the fundamental RMS per phase reaches PRESENCE percent of Udin (in 2^-8 V). -/
def refPresent (x : Int × Int) (sc div presence udin : Nat) : Bool :=
  decide (2 * (x.1 * x.1 + x.2 * x.2) * 10000 ≥ (((presence * udin * 131072 * div) * 2 ^ sc : Nat) : Int) ^ 2)

/-- R162: arg X, rounded half to even to 2^-32 cycle. -/
def argOf (x : Int × Int) : Nat := turnCode 32 x.1 x.2

/-- R172: PRESENCE within 10 to 50. -/
def presenceOf (c : FgCtrl) : Nat := min 50 (max 10 c.presence)

/-- R250, R255: the declared voltage of context c in the window that group g forms. -/
def State.udinAt (s : State) (gi c : Nat) : Nat :=
  let g := s.getGrp gi
  (settingAt (g.twOf g.closed) (s.getEvc c).wr (s.getEvc c).set_).udin

/-- R162, R168: the first reference present in the cycle, with its phase. -/
def State.findRef (s : State) (gi : Nat) (p : Plan) (g : PlanGroup) (cyc presence : Nat) : Option (Nat × Nat) :=
  (List.range 3).findSome? (fun i =>
    match p.ctx? (g.refs.getD i 255) with
    | none => none
    | some x =>
      match s.refPhasor x cyc with
      | none => none
      | some (v, sc, div) =>
        if refPresent v sc div presence (s.udinAt gi x.c) then some (i, argOf v) else none)

/-- R163: A and B of FG_CTRL.BW. -/
def bwAB (bw : Nat) : Nat × Nat :=
  match bw with
  | 0 => (1, 5)
  | 1 => (2, 7)
  | 2 => (3, 9)
  | _ => (4, 11)

/-- R163: the limits of F. -/
def freqLo : Nat := 713031680
/-- 69 Hz. -/
def freqHi : Nat := 1157627904

/-- What the tracker decides at the end of a cycle. -/
structure TrackOut where
  f : Int
  st : FgSt
  p : Int
  slip : Int
  good : Nat
  bad : Nat
  noRef : Nat
  switched : Bool
  deriving DecidableEq, Repr

/-- R163, R164, R168: the update at the end of cycle c, from the reference found (its rank and phase). -/
def track (g : Grp) (fc fn : Nat) (ref : Option (Nat × Nat)) : TrackOut :=
  let keep : TrackOut := { f := fn, st := g.st, p := g.p, slip := g.slip, good := g.goodRun, bad := g.badRun, noRef := g.noRef, switched := false }
  match ref with
  | none =>
    match g.st with
    | .acquire => { keep with st := .free }
    | .locked => { keep with st := if g.ctrl.holdMax = 0 then .free else .hold, noRef := 0 }
    | .hold => { keep with st := if g.noRef + 1 ≥ g.ctrl.holdMax then .free else .hold, noRef := g.noRef + 1 }
    | .off | .search | .free => keep
  | some (i, phi) =>
    -- a cycle that forms no slip ends a run of consecutive cycles
    if g.ref != 3 && g.ref != i then { keep with switched := true, good := 0, bad := 0 }
    else
      let enter : TrackOut := { keep with st := .acquire, good := 0, bad := 0 }
      match g.prev with
      | some (phi0, j) =>
        if j != i then (match g.st with | .search | .hold | .free => enter | _ => { keep with good := 0, bad := 0 })
        else
          let sl := sgn 32 (phi + 2 ^ 32 - phi0)
          match g.st with
          | .acquire =>
            let good := if sl.natAbs ≤ 2 ^ 20 then g.goodRun + 1 else 0
            { keep with
              f := (fc : Int) + rne ((fc : Int) * sl) (2 ^ 32), slip := sl, good := good
              st := if good ≥ 2 then .locked else .acquire, p := if good ≥ 2 then 0 else g.p, bad := 0 }
          | .locked =>
            let (a, b) := bwAB g.ctrl.bw
            let p := g.p + sl
            let bad := if sl.natAbs > 2 ^ 24 then g.badRun + 1 else 0
            { keep with
              f := (fn : Int) + rne ((fc : Int) * (sl * 2 ^ (b - a) + p)) (2 ^ (b + 32)), p := p, slip := sl, bad := bad
              st := if bad ≥ 3 then .acquire else .locked, good := 0 }
          | .off | .search | .hold | .free => { enter with slip := sl }
      | none => match g.st with
        | .search | .hold | .free => enter
        | .off | .acquire | .locked => { keep with good := 0, bad := 0 }

/-- R172, R164: REACQ acts at this end of cycle on LOCKED and HOLD. DESIGN CHOICE (log entry 130): it does so also where no reference is
present, before the rows for that case. -/
def applyReacq (g : Grp) (o : TrackOut) : TrackOut :=
  if g.reacq && (g.st == .locked || g.st == .hold) then { o with st := .acquire, good := 0, bad := 0 } else o

/-- R171: one cycle in the running 10-second interval; intervals end at the boundaries met. -/
def tenSec (t0 t1 : Int) (unl : Bool) (g : Grp) : Grp :=
  let add := fun (f : F10) =>
    if t0 ≥ (f.start : Int) * 2 ^ 33 then
      { f with first := (match f.first with | some a => some a | none => some t0.toNat), last := t1.toNat
               n := f.n + 1, unlocked := f.unlocked || unl }
    else f
  match g.bounds with
  | [] => { g with f10 := g.f10.map add }
  | b :: rest =>
    if t1 < (b : Int) * 2 ^ 33 then { g with f10 := g.f10.map add }
    else
      let f10 := if t1 = (b : Int) * 2 ^ 33 then g.f10.map add else g.f10
      let ready := match f10 with
        | none => g.f10Ready
        | some f =>
          let v := match f.first with
            | none => 0
            | some a => if f.unlocked then 0 else rneN (f.n * 384000 * 2 ^ 57) (f.last - a)
          g.f10Ready ++ [(b, v)]
      { g with bounds := rest, f10 := some { start := b }, f10Ready := ready }

/-- R155, R163 to R168: the end of the group's running cycle: the tracker's update, the step of cycle c + 2, and at the
end of a window's last cycle its close. The state before and after is what R246 and R253 look at. DESIGN CHOICE (log entry 131): FG_STAT.RANGE
tells of this end of cycle alone: it is 0 where no new F was formed. -/
def endCycle (gi : Nat) (s : State) : State :=
  let g := s.getGrp gi
  let c := g.done
  match s.planWin gi (g.closed + 1), g.cyc c, g.cyc (c + 1) with
  | some p, some cy, some c1 =>
    match p.grp? gi with
    | none => s
    | some pg =>
      let ref := s.findRef gi p pg c (presenceOf g.ctrl)
      let o := applyReacq g (track g cy.f c1.f ref)
      let f := clampI freqLo freqHi o.f
      let ranged := f != o.f
      let k := g.winOf pg.w c
      let f2 := f.toNat
      let unl := match o.st with | .search | .acquire | .free => true | .off | .locked | .hold => false
      let c2 : Cyc := { p0 := c1.p0 + 512 * c1.step, step := stepOf c1.gm f2, f := f2, unlocked := unl, held := o.st == .hold
                        gn := c1.gn, gm := c1.gm }
      let left := g.st == .locked && o.st != .locked
      let entered := g.st != .locked && o.st == .locked
      let logRange := ranged && g.rangeWin != some k
      let s := s.modGrp gi (fun g => { g with
        st := o.st, p := o.p, slip := o.slip, goodRun := o.good, badRun := o.bad, noRef := o.noRef, range := ranged
        rangeWin := if logRange then some k else g.rangeWin
        prev := ref.map (fun e => (e.2, e.1)), ref := match ref with | none => 3 | some e => e.1
        refSwitched := g.refSwitched || o.switched, refSwitches := if o.switched then satAdd 0xFFFF g.refSwitches 1 else g.refSwitches
        lockLost := g.lockLost || left, lockLosses := if left then satAdd 0xFFFF g.lockLosses 1 else g.lockLosses
        reacq := false, done := c + 1
        cycles := (tset g.cycles (c + 2) c2).filter (fun e => decide (e.1 + 64 > c))
        wflags := tmod 0 g.wflags k (fun w => w ||| b2n cy.unlocked ||| (2 * b2n cy.held)) })
      let s := s.modGrp gi (tenSec (cy.tau 0) cy.endTau cy.unlocked)
      let s := whenDo entered (raise .fgLocked gi [(8, c)]) s
      let s := whenDo left (raise .fgLockLost gi [(8, c)]) s
      let s := whenDo logRange (raise .fgRange gi []) s
      let s := whenDo o.switched (raise .fgRefSwitch gi []) s
      if (c + 1) % pg.w = 0 then
        let close := ceilTau (c1.tau 0)
        s.modGrp gi (fun g => { g with
          tw := tset g.tw k close, closed := k
          ctrl := settingAt close g.ctrlWr g.ctrl, ctrlWr := settingsAfter close g.ctrlWr })
      else s
  | _, _, _ => s

/-- CYCLE_END can happen: every reference voltage binding has formed the cycle's samples. -/
def State.cycleDone (s : State) (gi : Nat) : Bool :=
  let g := s.getGrp gi
  match g.started, (s.planWin gi (g.closed + 1)) with
  | true, some p =>
    match p.grp? gi with
    | none => false
    | some pg => pg.refs.all (fun c => match p.ctx? c with
      | none => true
      | some x => x.voltSlots.all (fun i => decide (s.nextOf c i ≥ 512 * (g.done + 1))))
  | _, _ => false

/-- FG_CTRL's fields. -/
def fgCtrlOf (w : Word) : FgCtrl := { bw := bits w 1 0, presence := bits w 7 2, holdMax := bits w 23 8 }

/-- R164, R172: a plan that declares the group comes into force: state SEARCH, and the plan's settings, which a host may write before the
group starts. -/
def declareGroup (gi : Nat) (p : Plan) (s : State) : State :=
  match p.grp? gi with
  | none => s
  | some pg =>
    let (n, m) := p.grpCfg gi
    s.modGrp gi (fun g => { g with st := .search, ctrl := fgCtrlOf pg.ctrl, ctrlWr := [], hA := pg.bank, fadeLen := pg.l, n := n, m := m })

/-- R154, R164: the group starts at an index: P_0 on the grid, cycles 0 and 1 at the nominal F, state SEARCH. -/
def beginGroup (gi start : Nat) (p : Plan) (s : State) : State :=
  match p.grp? gi with
  | none => s
  | some pg =>
    let (n, m) := p.grpCfg gi
    let f := pg.nominal
    let p0 := startPos n m start
    let st := stepOf m f
    let mk := fun i : Nat => ({ p0 := p0 + 512 * i * st, step := st, f := f, unlocked := true, held := false, gn := n, gm := m } : Cyc)
    let s := s.modGrp gi (fun g => { g with
      st := .search, started := true, startIdx := start, cycles := [(0, mk 0), (1, mk 1)], done := 0, p := 0, prev := none
      ref := 3, goodRun := 0, badRun := 0, noRef := 0, slip := 0
      ctrl := settingAt (ceilTau (tau33 n m p0)) g.ctrlWr g.ctrl, ctrlWr := settingsAfter (ceilTau (tau33 n m p0)) g.ctrlWr
      bankB := false, hA := pg.bank, fadeAt := none, fadeLeft := 0, fadeLen := pg.l
      tw := [(g.winBase, ceilTau (tau33 n m p0))], wflags := [], closed := g.winBase, f10 := none, bounds := [], f10Ready := []
      secs := 0, n := n, m := m })
    s.modRsIsl (fun r => { r with
      next := r.next.filter (fun e => !((p.ctxsOf gi).any (fun c => c.c == e.1 / 8)))
      hamper := r.hamper.filter (fun e => !((p.ctxsOf gi).any (fun c => c.c == e.1 / 8))) })

/-- R154: each ring of the group is in RUN (or a wrap, or shed) or has spent 76,800 ticks in training. -/
def State.ringsReady (s : State) (p : Plan) (gi : Nat) : Bool :=
  ((p.ctxsOf gi).flatMap (fun c => c.rings)).all (fun r =>
    match (s.getRing r).st with
    | .run | .wrap | .shed => true
    | .off => false
    | .train | .enum | .measure | .waits => decide (s.now ≥ (s.getRing r).trainAt + 76800))

/-! ## Registers (R172) -/

/-- The code of FG_STAT.STATE. -/
def fgStCode (st : FgSt) : Nat :=
  match st with
  | .off => 0
  | .search => 1
  | .acquire => 2
  | .locked => 3
  | .hold => 4
  | .free => 5

/-- R169: the active bank: the new one once the last faded sample is formed. -/
def Grp.bankNow (g : Grp) : Bool := if g.fadeAt.isSome && g.fadeLeft == 0 then !g.bankB else g.bankB

/-- CRC-32 of a bank (FG_BANK_CRC); 0 for a bank never loaded. -/
def bankCrc (h : List Int) : Word := if h.isEmpty then 0 else crc32 (h.flatMap (fun v => leBytes 4 (toU 32 v)))

/-- FG_CTRL as last written. -/
def Grp.ctrlShown (g : Grp) : FgCtrl := match g.ctrlWr with | [] => g.ctrl | e :: _ => e.2

/-- A register of group g's block; an undeclared group reads 0. -/
def fgRead (s : State) (gi off : Nat) : Word :=
  let g := s.getGrp gi
  match (s.planNow gi).bind (fun p => p.grp? gi) with
  | none => 0
  | some pg =>
    let cur := (g.cyc g.done)
    match off with
    | 0x00 => packW [(1, 31), (b2n pg.nom60, 28), (pg.w, 24), (decimCode g.m, 22), (g.n - 3, 20), (pg.l, 0)]
    | 0x04 => packW [(ctxNum (pg.refs.getD 2 255), 16), (ctxNum (pg.refs.getD 1 255), 8), (ctxNum (pg.refs.getD 0 255), 0)]
    | 0x08 => packW [(b2n g.reacq, 31), (g.ctrlShown.holdMax, 8), (g.ctrlShown.presence, 2), (g.ctrlShown.bw, 0)]
    | 0x0C => packW [(fgStCode g.st, 29), (min g.ref 3, 27), (b2n g.bankNow, 26), (b2n (decide (g.fadeLeft > 0)), 25), (b2n g.range, 24),
        (b2n g.lockLost, 23), (b2n g.refSwitched, 22), (g.fadeLeft, 0)]
    | 0x10 => BitVec.ofNat 32 ((cur.map (fun c => c.f)).getD 0)
    | 0x14 => wordOf ((cur.map (fun c => c.step)).getD 0) 0
    | 0x18 => wordOf ((cur.map (fun c => c.step)).getD 0) 1
    | 0x1C => BitVec.ofInt 32 g.slip
    | 0x20 => wordOf (g.done - 1) 0
    | 0x24 => wordOf (g.done - 1) 1
    | 0x28 => wordOf g.k 0
    | 0x2C => wordOf g.k 1
    | 0x30 => wordOf g.close 0
    | 0x34 => wordOf g.close 1
    | 0x38 => BitVec.ofNat 32 g.wfreq
    | 0x3C => BitVec.ofNat 32 g.f10s
    | 0x40 => BitVec.ofNat 32 g.wflagsC
    | 0x44 => bankCrc g.hA
    | 0x48 => bankCrc g.hB
    | 0x4C => packW [(g.lockLosses, 16), (g.refSwitches, 0)]
    | 0x50 => packW [(g.csat, 0)]
    | _ => 0

/-- A write of a register of group g's block: FG_CTRL applies from the first window that begins after it (R24, R172). -/
def fgWrite (gi off : Nat) (v : Word) (s : State) : State :=
  match off with
  | 0x08 => s.modGrp gi (fun g => if g.st == .off then g else
      { g with ctrlWr := (s.now, fgCtrlOf v) :: g.ctrlWr, reacq := g.reacq || bit v 31 })
  | 0x0C => s.modGrp gi (fun g => { g with lockLost := g.lockLost && !bit v 23, refSwitched := g.refSwitched && !bit v 22 })
  | _ => s

/-- Reading the counters of group g clears them. -/
def fgClear (gi off : Nat) (s : State) : State :=
  match off with
  | 0x4C => s.modGrp gi (fun g => { g with lockLosses := 0, refSwitches := 0 })
  | 0x50 => s.modGrp gi (fun g => { g with csat := 0 })
  | _ => s

/-- R171: what the group commits for window k. -/
def commitFreq (gi k : Nat) (s : State) : State :=
  let g := s.getGrp gi
  let w := match (s.planWin gi k).bind (fun p => p.grp? gi) with | none => 10 | some x => x.w
  let c0 := g.firstCyc w k
  let freq := match g.cyc c0, g.cyc (c0 + w - 1) with
    | some a, some b => rneN (w * 384000 * 2 ^ 57) (b.endTau - a.tau 0).toNat
    | _, _ => g.wfreq
  let close := g.twOf k
  let ready := g.f10Ready.filter (fun e => decide (e.1 ≤ close))
  s.modGrp gi (fun g => { g with
    k := k, close := close, wfreq := freq
    f10s := match ready.getLast? with | none => g.f10s | some e => e.2
    f10Ready := g.f10Ready.filter (fun e => decide (e.1 > close))
    wflagsC := tget 1 g.wflags k, wflags := g.wflags.filter (fun e => decide (e.1 > k))
    tw := g.tw.filter (fun e => decide (e.1 + 8 > k)) })

/-! ## Commands -/

/-- CYCLE_SAMPLE_FORM (R158). -/
def execCycleSampleForm (c : Fin 160) (slot : Fin 8) (s : State) : Out :=
  onIsl islResamp s (fun s => each (s.ctxKeys c) (fun s c => formNext c slot s) s)

end Sys2Proof.Machine
end

