-- ==== Sys2Proof/Machine/Energy.lean ====
section
/-! DEFINITION. Chapter 7: energy: phases and validity (R174 to R177), flat-path and cycle-path window sums (R178 to
R180), the increments of a window (R182, R183), presets, context latches and the context energy registers (R198). -/

namespace Sys2Proof.Machine

/-! ## Kinds and phases (R174) -/

/-- How many phases a kind has. -/
def phasesOf (kind : Nat) : Nat :=
  match kind with
  | 1 => 1
  | 2 => 2
  | _ => 3

/-- R183: the quantum divisor D. -/
def divisorOf (kind : Nat) : Nat := if kind = 3 then 69578470195200000 else 23192823398400000

/-- R174, R177: the slots that phase k (1 to 3) uses. -/
def PlanCtx.phaseSlots (x : PlanCtx) (k : Nat) : List Nat :=
  if x.kind = 3 then
    [0, 1, 2] ++ (if (x.headOf (3 + k)).isSome then [3 + k] else [4, 6])
  else [k - 1, 3 + k] ++ (if (x.headOf 3).isSome then [3] else [])

/-- R174: the voltage and current of phase k, from the scaled values of the counted slots; none where one is missing. -/
def PlanCtx.phaseVal (x : PlanCtx) (v : Nat → Option Int) (k : Nat) : Option (Int × Int) :=
  if (x.phaseSlots k).all (fun i => (v i).isSome) then
    let g := fun i => (v i).getD 0
    if x.kind = 3 then
      some (3 * g (k - 1) - (g 0 + g 1 + g 2), if (x.headOf (3 + k)).isSome then g (3 + k) else -(g 4 + g 6))
    else some (if (x.headOf 3).isSome then g (k - 1) - g 3 else g (k - 1), g (3 + k))
  else none

/-- R176: a selected sample is counted when its class is USABLE or OVER_RANGE. -/
def counted (cls : Nat) : Bool := cls == 0 || cls == 4

/-- R189: why phase k is not valid: true for a reason other than UNSETTLED. -/
def PlanCtx.phaseGap (x : PlanCtx) (sel : Nat → Sel) (k : Nat) : Bool :=
  (x.phaseSlots k).any (fun i => (sel i).val.isNone && (sel i).cls != 1)

/-- R190: an unsettled sample remains among those that phase k uses. -/
def PlanCtx.phaseUnset (x : PlanCtx) (sel : Nat → Sel) (k : Nat) : Bool :=
  (x.phaseSlots k).any (fun i => (sel i).val.isNone && (sel i).cls == 1)

/-! ## Flat-path sums (R178) -/

/-- R63: the time of the flat sample with this n_last, in half ticks. -/
def flatTau2 (n m nlast : Nat) : Int := 2 * (nlast : Int) - ((n * (m - 1) + 31 * m : Nat) : Int)

/-- The first n_last of the grid whose flat sample lies at or after a time in half ticks. -/
def flatFirst (n m t2 : Nat) : Nat := cdiv (cdiv (t2 + n * (m - 1) + 31 * m) 2 + 1) m * m - 1

/-- R155: the steps known reach an instant in half ticks. -/
def State.knows (s : State) (gi t2 : Nat) : Bool :=
  match (s.getGrp gi).cyc ((s.getGrp gi).done + 1) with
  | none => false
  | some c => decide ((t2 : Int) * 2 ^ 32 < c.endTau)

/-- R155: the window of an instant in half ticks; none while the closes known do not decide it, and of an instant before window 1. -/
def State.windowAt (s : State) (gi t2 : Nat) : Option Nat :=
  let g := s.getGrp gi
  let w := s.winCycles gi
  let next := match g.closeOf w (g.closed + 1) with | none => [] | some c => [(g.closed + 1, c)]
  let known := (g.tw ++ next).filter (fun e => decide (2 * e.2 ≤ t2))
  if s.knows gi t2 then (known.foldl (fun (m : Option Nat) e => some (max (m.getD 0) e.1)) none).map (fun k => k + 1) else none

/-- The flat samples of detector d of head h: whether the one with this n_last has been delivered, and it (ABSENT where
it is not held, R501). -/
def State.flatAt (s : State) (e : Nat × Bool) (h : Nat) (d : Bool) (nlast : Nat) : Option StFlat :=
  let l := s.flatsOf e (2 * (h % 128) + b2n d)
  let gone : StFlat := { val := 0, cls := 5, step := 0, fsat := false, nlast := nlast }
  let late := match l with | [] => true | f :: _ => decide (f.nlast < nlast)
  match l.find? (fun x => x.nlast == nlast) with
  | some x => some x
  | none => if late && !s.srcDead e then none else some gone

/-- R176: the selection for one binding at a flat instant; the partner of a stream that is RETIRED there serves (R296, R304). None while a
sample has not been delivered. -/
def State.selFlat (s : State) (gi : Nat) (b : PlanBind) (h : Nat) (t2 : Int) (nlast k : Nat) : Option Sel :=
  let d := s.serveFor gi h k (t2 * 2 ^ 32)
  let pick := fun (e : Nat × Bool) =>
    match s.flatAt e h d nlast, s.flatAt e h (!d) nlast with
    | some a, some p =>
      let (d, a, p) := if a.cls = 6 then (!d, p, a) else (d, a, p)
      let sub := a.cls != 0 && p.cls == 0
      let f := if sub then p else a
      let det := if sub then !d else d
      some ({ cls := f.cls, val := if counted f.cls then some (b.scaled det f.step 0 f.val) else none } : Sel)
    | _, _ => none
  match s.engSrc (h / 128) t2 with
  | none => some { cls := 5, val := none }
  | some e => (pick e).map (fun x => if s.listedHead gi k h then x else { cls := 5, val := none })

/-- Add at phase k of a list of sums. -/
def addAt (l : List Int) (k : Nat) (v : Int) : List Int := l.set k (l.getD k 0 + v)

/-- R189: one instant or cycle of phase k as a gap from tick a to tick b. -/
def gapFlat (k a b : Nat) (f : FlatPart) : FlatPart :=
  { f with flags := f.flags ||| 8, gapPh := f.gapPh ||| 2 ^ (k - 1)
           gapFirst := some (min a (f.gapFirst.getD a)), gapLast := max b f.gapLast }

/-- R178, R189, R190: one flat instant with its selections. -/
def flatInstant (x : PlanCtx) (m : Nat) (t2 : Int) (sel : Nat → Sel) (f : FlatPart) : FlatPart :=
  let n := phasesOf x.kind
  let f := if x.bound.any (fun i => (sel i).cls == 4) then { f with flags := f.flags ||| 64 } else f
  let f := if x.bound.any (fun i => (sel i).cls == 1) then { f with flags := f.flags ||| 1 } else f
  let t := (t2 / 2).toNat
  let f := (List.range n).foldl (fun (f : FlatPart) i =>
    match x.phaseVal (fun j => (sel j).val) (i + 1) with
    | some (w, c) => { f with a := addAt f.a (i + 1) (w * c * m) }
    | none =>
      let f := if x.phaseUnset sel (i + 1) then { f with flags := f.flags ||| 1 } else f
      if x.phaseGap sel (i + 1) then gapFlat (i + 1) t t f else f) f
  let vals := (List.range n).map (fun i => x.phaseVal (fun j => (sel j).val) (i + 1))
  if vals.all Option.isSome then
    { f with a := addAt f.a 0 ((vals.map (fun v => match v with | none => 0 | some (w, c) => w * c * m)).foldl (· + ·) 0) }
  else f

/-- The unit that serves context c; 15 none (R192). -/
def State.unitFor (s : State) (c : Nat) : Nat := tget 15 s.tally.unitOf (ctxNum c / 20)

/-- The blocks of 20 contexts that unit u serves. -/
def State.unitBlocks (s : State) (u : Nat) : List Nat := (s.tally.unitOf.filter (fun e => e.2 == u)).map (fun e => e.1)

/-- R22, R311: the completion tokens of a window are numbered by the work they stand for, so that a spare has what the unit before it had
sent: 0 to 7 the tally unit's blocks of 20 contexts, 8 to 11 the harmonic engines' blocks of 40, 14 and 15 the supraharmonic engines,
16 the event unit. -/
def tallyToken (c : Nat) : Nat := ctxNum c / 20

/-- The token of the harmonic engine that serves context c. -/
def harmToken (c : Nat) : Nat := 8 + ctxNum c / 40

/-- A completion token is present. -/
def State.hasToken (s : State) (gi k tok : Nat) : Bool := s.rs.tokens.contains (gi, k, tok)

/-- A unit sends its completion token for window k. -/
def sendToken (gi k tok : Nat) (s : State) : State := s.modRsIsl (fun r => { r with tokens := r.tokens ++ [(gi, k, tok)] })

/-- The last window of group gi that has been committed or for which this token waits. -/
def State.tokenTo (s : State) (gi tok : Nat) : Nat :=
  (s.rs.tokens.filter (fun t => t.1 == gi && t.2.2 == tok)).foldl (fun m t => max m t.2.1) (s.getGrp gi).lastK

/-- The unit that serves context c runs: it is not retired and replays nothing (R193, R308). -/
def State.tallyRuns (s : State) (c : Nat) : Bool :=
  let u := s.unitFor c
  decide (u < 9) && !(s.getUnit u).retired && (s.getUnit u).replay.isNone

/-- The next flat instant of context c in its group: its n_last and its time. An instant beyond the switch of a swap is
formed under the new plan (R290). -/
def State.flatNext (s : State) (gi c : Nat) : Option (PlanCtx × Nat × Nat × Int) :=
  let g := s.getGrp gi
  let t0 := (s.getCtx c).nextFlat.getD (2 * g.twOf g.winBase)
  let at_ := fun (p : Plan) (t : Nat) =>
    let (n, m) := p.grpCfg gi
    let l := flatFirst n m t
    (l, m, flatTau2 n m l)
  match s.planAt gi (t0 / 2) with
  | none => none
  | some p =>
    let (l, m, t2) := at_ p t0
    match s.planAt gi (t2 / 2).toNat with
    | none => none
    | some p2 =>
      let sw := (s.plan.tsw.find? (fun e => e.1 == gi)).map (fun e => 2 * e.2)
      let (l, m, t2) := if p2.grpCfg gi = p.grpCfg gi then (l, m, t2) else at_ p2 (max t0 (sw.getD t0))
      (p2.ctx? c).map (fun x => (x, l, m, t2))

/-- R446: the bound of the tail sums at this index: T_end at most, and 512 ticks back, within which every sample is counted. -/
def State.tailBound (s : State) : Nat := max s.pwr.w (min (s.pwr.w + 1792) (s.now - 512))

/-- Sums added phase by phase. -/
def addSums (a b : List Int) : List Int := (List.range 4).map (fun i => a.getD i 0 + b.getD i 0)

/-- R178, R445, R446: where a flat instant goes: into its window, into the tail sums (some false, some true), or nowhere yet. -/
def State.flatGoes (s : State) (t2 : Int) : Option Bool :=
  match s.stopAt with
  | none => some false
  | some w =>
    if t2 < 2 * (w : Int) then some false
    else if s.inWarning && decide (t2 < 2 * (s.tailBound : Int)) then some true
    else none

/-- R30, R459: the first instant with a counted sample of a phase (R176, R177) ends the gap that runs since the alarm. -/
def endGap (x : PlanCtx) (t2 : Int) (sel : Nat → Sel) (y : Ctx) : Ctx :=
  if y.gapFrom.isSome && y.gapTo.isNone &&
      ((List.range (phasesOf x.kind)).any (fun k => (x.phaseVal (fun i => (sel i).val) (k + 1)).isSome)) then
    { y with gapTo := some (t2 / 2).toNat }
  else y

/-- R307: the hamper's samples of an instant after selection, where it holds them. -/
def Ctx.keptAt (y : Ctx) (t2 : Int) : Option (List Sel) := (y.kept.find? (fun e => e.t2 == t2)).map (fun e => e.sels)

/-- R307: the hamper takes the samples of an instant; it holds those of the last 768 ticks. -/
def Ctx.keep (now : Nat) (t2 : Int) (sels : List Sel) (y : Ctx) : Ctx :=
  if (y.keptAt t2).isSome then y
  else { y with kept := { t2 := t2, at_ := now, sels := sels } :: y.kept.filter (fun e => decide (e.at_ + 768 ≥ now)) }

/-- The samples of one instant of context x after selection: as the hamper holds them (R309), else selected now (R176); none while a
sample has not been delivered. -/
def State.flatSels (s : State) (gi : Nat) (x : PlanCtx) (t2 : Int) (l k : Nat) : Option (List Sel) :=
  match (s.getCtx x.c).keptAt t2 with
  | some sels => some sels
  | none =>
    let sels := (List.range 8).map (fun i =>
      match x.headOf i with
      | none => some ({ cls := 5, val := none } : Sel)
      | some h => s.selFlat gi (x.slot i) h t2 l k)
    if sels.all Option.isSome then some (sels.filterMap id) else none

/-- R178, R446: one instant of context x enters window k, or the tail sums. -/
def countFlat (x : PlanCtx) (k m : Nat) (t2 : Int) (toTail : Bool) (sel : Nat → Sel) (y : Ctx) : Ctx :=
  let y := { y with
    nextFlat := some (t2 + 1).toNat, inGap := (List.range (phasesOf x.kind)).any (fun i => x.phaseGap sel (i + 1)) }
  if toTail then { y with tail := addSums y.tail (flatInstant x m t2 sel {}).a }
  else endGap x t2 sel { y with wins := tmod {} y.wins k (fun w => { w with flat := flatInstant x m t2 sel w.flat }) }

/-- R178: the unit counts the context's next flat instant, once every sample of it has been delivered. -/
def flatStep (c : Nat) (s : State) : Option State :=
  match s.ctxGrp c with
  | none => none
  | some gi =>
    let g := s.getGrp gi
    if !g.started then none
    else match s.flatNext gi c with
      | none => none
      | some (x, l, m, t2) =>
        let hold := match g.swapClose (s.winCycles gi) with
          | none => false
          | some (_, w) => decide (t2 ≥ 2 * (w : Int))
        match s.windowAt gi t2.toNat with
        | none => none
        | some k =>
          match s.flatSels gi x t2 l k, s.flatGoes t2 with
          | some sels, some toTail =>
            if hold then none
            else
              let sel := fun i => sels.getD i { cls := 5, val := none }
              some (s.modCtx c (fun y => (countFlat x k m t2 toTail sel y).keep s.now t2 sels))
          | _, _ => none

/-! ## Cycle-path sums (R179, R180) -/

/-- The selections of one binding over a cycle; a sample that is no longer held is ABSENT. -/
def State.selCycle (s : State) (x : PlanCtx) (slot cyc : Nat) : List (Sel × Bool) :=
  match s.cycleOf x.c slot cyc with
  | none => List.replicate 512 ({ cls := 5, val := none }, false)
  | some l => l.map (fun e =>
      ({ cls := e.cls, val := if counted e.cls then some ((x.slot slot).scaled e.det e.step 1 e.val) else none }, e.unlocked))

/-- R179: Σ y(n) t(n). -/
def phasor512 (y : List Int) : Int × Int :=
  (y.zip twid512).foldl (fun acc e => (acc.1 + e.1 * e.2.1, acc.2 + e.1 * e.2.2)) (0, 0)

/-- Σ a(n) b(n). -/
def dotI (a b : List Int) : Int := ((a.zip b).map (fun e => e.1 * e.2)).foldl (· + ·) 0

/-- R179: nsq: the integer nearest √z. -/
def nsq (z : Int) : Nat := rneSqrt z.toNat 1

/-- R179: the cycle energies of one phase: E_AF, E_Q, E_P, E_SV, E_SA. -/
structure CycE where
  af : Int
  q : Int
  p : Int
  sv : Int
  sa : Int
  deriving DecidableEq, Repr

/-- R179: the cycle energies from the phase's voltages and currents; `md` is M Δ_c. -/
def cycEnergy (w i : List Int) (md : Nat) : CycE :=
  let xw := phasor512 w
  let xi := phasor512 i
  let af := rne ((xw.1 * xi.1 + xw.2 * xi.2) * md) (2 ^ 100)
  let q := rne ((xw.2 * xi.1 - xw.1 * xi.2) * md) (2 ^ 100)
  let p := rne (dotI w i * md) (2 ^ 32)
  { af := af, q := q, p := p, sv := nsq (p * p + q * q), sa := rne ((nsq (dotI w w * dotI i i) : Int) * md) (2 ^ 32) }

/-- R189: a cycle of phase k as a gap. -/
def gapCyc (k a b : Nat) (f : CycPart) : CycPart :=
  { f with flags := f.flags ||| 8, gapPh := f.gapPh ||| 2 ^ (k - 1)
           gapFirst := some (min a (f.gapFirst.getD a)), gapLast := max b f.gapLast }

/-- Add the energies of phase k. -/
def addCyc (k : Nat) (e : CycE) (f : CycPart) : CycPart :=
  { f with af := addAt f.af k e.af, q := addAt f.q k e.q, sv := addAt f.sv k e.sv, sa := addAt f.sa k e.sa }

/-- R179, R180, R189: one cycle of a context: `sel` are the selections by slot and instant, `t0` and `t1` the ticks of
its first and last samples. A cycle with an UNLOCKED sample contributes nothing and sets UNLOCKED, no gap (DEDUCED, log entry 68);
unsettled samples that remain set UNSETTLED in every case (R190). -/
def cycleSums (x : PlanCtx) (md t0 t1 : Nat) (sel : List (List (Sel × Bool))) (f : CycPart) : CycPart :=
  let n := phasesOf x.kind
  let slots := x.bound
  let at_ := fun (i j : Nat) => (((sel.getD i []).getD j ({ cls := 5, val := none }, false)).1 : Sel)
  let f := if slots.any (fun i => (sel.getD i []).any (fun e => e.1.cls == 4)) then { f with flags := f.flags ||| 64 } else f
  let unset := (List.range n).any (fun i => (List.range 512).any (fun j => x.phaseUnset (fun sl => at_ sl j) (i + 1)))
  let f := if unset || slots.any (fun i => (sel.getD i []).any (fun e => e.1.cls == 1)) then { f with flags := f.flags ||| 1 } else f
  if slots.any (fun i => (sel.getD i []).any (fun e => e.2)) then { f with flags := f.flags ||| 2 }
  else
    let es : List (Option CycE) := (List.range n).map (fun i =>
      let vals := (List.range 512).map (fun j => x.phaseVal (fun sl => (at_ sl j).val) (i + 1))
      if vals.all Option.isSome then
        some (cycEnergy (vals.map (fun v => (v.getD (0, 0)).1)) (vals.map (fun v => (v.getD (0, 0)).2)) md)
      else none)
    let f := (List.range n).foldl (fun (f : CycPart) i =>
      match es.getD i none with
      | some e => addCyc (i + 1) e f
      | none =>
        if (List.range 512).any (fun j => x.phaseGap (fun sl => at_ sl j) (i + 1)) then gapCyc (i + 1) t0 t1 f else f) f
    if es.all Option.isSome then
      let l := es.filterMap id
      let sum := fun (g : CycE → Int) => (l.map g).foldl (· + ·) 0
      let p := sum (fun e => e.p)
      let q := sum (fun e => e.q)
      addCyc 0 { af := sum (fun e => e.af), q := q, p := p, sv := nsq (p * p + q * q), sa := sum (fun e => e.sa) } f
    else f

/-- R445: a cycle whose last sample lies at or after the stop is not counted. -/
def State.cycleStopped (s : State) (cy : Cyc) : Bool :=
  match s.stopAt with
  | none => false
  | some w => decide (cy.tau 511 ≥ (w : Int) * 2 ^ 33)

/-- R307, R308: at the end of every cycle a checkpoint of the context's cycle state; the older of two goes once a newer is complete. -/
def Ctx.cycCheckpoint (y : Ctx) : Ctx :=
  { y with ckCyc := ({ cyc := y.nextCyc, parts := y.wins.map (fun e => (e.1, e.2.cyc)) } :: y.ckCyc).take 2 }

/-- R307, R308: a checkpoint of the context's flat-path state. -/
def Ctx.flatCheckpoint (now : Nat) (y : Ctx) : Ctx :=
  { y with ckFlat := ({ at_ := now, next := y.nextFlat, parts := y.wins.map (fun e => (e.1, e.2.flat)), tail := y.tail } ::
      y.ckFlat).take 2 }

/-- R179: the unit forms the context's next cycle, once every binding has its 512 samples. -/
def cycStep (c : Nat) (s : State) : Option State :=
  match s.ctxGrp c with
  | none => none
  | some gi =>
    let g := s.getGrp gi
    let cyc := (s.getCtx c).nextCyc
    match g.started && !s.beyondSwap gi cyc, g.cyc cyc with
    | true, some cy =>
      if s.cycleStopped cy then none
      else
      let k := g.winOf (s.winCycles gi) cyc
      match (s.planWin gi k).bind (fun p => p.ctx? c) with
      | none => none
      | some x =>
        if x.bound.all (fun i => decide (s.nextOf c i ≥ 512 * (cyc + 1))) then
          let sel := (List.range 8).map (fun i => if (x.headOf i).isSome then s.selCycle x i cyc else [])
          let f := cycleSums x (cy.gm * cy.step) (floorTau (cy.tau 0)) (floorTau (cy.tau 511)) sel
          some (s.modCtx c (fun y => ({ y with
            nextCyc := cyc + 1, wins := tmod {} y.wins k (fun w => { w with cyc := f w.cyc }) } : Ctx).cycCheckpoint))
        else none
    | _, _ => none

/-! ## The increments of a window (R182, R183) -/

/-- A signed sum split into import and export (R182). -/
def splitInc (imp exp : Nat) (v : Int) : List (Nat × Nat) := if 0 ≤ v then [(imp, v.toNat)] else [(exp, (-v).toNat)]

/-- R182: the reactive increment of one phase, by quadrant. -/
def reactInc (k : Nat) (af q : Int) : Nat × Nat :=
  let quad := if 0 ≤ q then (if 0 ≤ af then 0 else 1) else (if 0 ≤ af then 3 else 2)
  (4 * (4 + quad) + k, q.natAbs)

/-- R182: the increments of one window, by accumulator number; those of 0 are left out. -/
def winIncs (kind : Nat) (w : CWin) : List (Nat × Nat) :=
  let ks := List.range (phasesOf kind + 1)
  let tally := ks.flatMap (fun k =>
    splitInc k (4 + k) (w.flat.a.getD k 0) ++ splitInc (8 + k) (12 + k) (w.cyc.af.getD k 0) ++
    [reactInc k (w.cyc.af.getD k 0) (w.cyc.q.getD k 0), (32 + k, (w.cyc.sv.getD k 0).toNat), (36 + k, (w.cyc.sa.getD k 0).toNat)])
  let harm := if w.harm.skip then [] else
    ks.flatMap (fun k => splitInc (40 + k) (44 + k) (w.harm.bh.getD k 0)) ++
    (List.range 49).flatMap (fun i => splitInc (0x40 + 2 * i) (0x40 + 2 * i + 1) (w.harm.eh.getD i 0))
  (tally ++ harm).filter (fun e => decide (0 < e.2))

/-- The increments of window k of a context: those carried into its first commit (R457, R459), then its own. -/
def Ctx.incs (x : Ctx) (kind k : Nat) : List (Nat × Nat) :=
  x.carry.flatMap (winIncs kind) ++ winIncs kind (tget {} x.wins k)

/-- The increment of one accumulator. -/
def incOf (l : List (Nat × Nat)) (acc : Nat) : Nat := ((l.filter (fun e => e.1 == acc)).map (fun e => e.2)).foldl (· + ·) 0

/-- R183: one addition to an accumulator. -/
def addAcc (d : Nat) (inc : Nat) (a : Acc) : Acc :=
  let t := a.r + inc
  let v := a.val + t / d
  { val := v % 2 ^ 72, wrap := a.wrap || decide (v ≥ 2 ^ 72), r := t % d }

/-- R183: all additions. -/
def addIncs (d : Nat) (l : List (Nat × Nat)) (t : Tab Acc) : Tab Acc :=
  l.foldl (fun t e => tmod {} t e.1 (addAcc d e.2)) t

/-- R201: the quantum increment that R183 adds to an accumulator for window k. -/
def State.quanta (s : State) (x : PlanCtx) (k acc : Nat) : Nat :=
  let y := s.getCtx x.c
  ((tget {} y.acc acc).r + incOf (y.incs x.kind k) acc) / divisorOf x.kind

/-! ## Reading accumulators and context status (R186, R187, R198) -/

/-- R173, R188: an accumulator number that exists for a kind. -/
def accExists (kind acc : Nat) : Bool :=
  (decide (acc < 0x30) && decide (acc % 4 ≤ phasesOf kind)) || (decide (0x40 ≤ acc) && decide (acc ≤ 0xA1))

/-- The context as the plan in force declares it now. -/
def State.ctxNow (s : State) (c : Nat) : Option PlanCtx :=
  match s.ctxGrp c with
  | none => none
  | some gi => (s.planAt gi s.now).bind (fun p => p.ctx? c)

/-- What a host's reads of a context see: its latch, or the committed state. -/
def State.ctxView (s : State) (p c : Nat) : CtxLatch :=
  let x := s.getCtx c
  let live : CtxLatch := { ctx := c, acc := x.acc, stat := x.stat, sticky := x.sticky, k := x.k, close := x.close
                           gapFirst := x.gapFirst, gapLast := x.gapLast }
  match (s.getHp p).ctxLatch with
  | some l => if l.ctx = c then l else live
  | none => live

/-- A word of an accumulator's triple. -/
def accWord (a : Acc) (j : Nat) : Word :=
  match j with
  | 0 => wordOf a.val 0
  | 1 => wordOf a.val 1
  | 2 => packW [(b2n a.wrap, 31), (a.val / 2 ^ 64, 0)]
  | _ => 0

/-- An energy register of a context declared as `x`, with state `y`, seen through `v` (R198). -/
def ctxBlock (s : State) (x : PlanCtx) (y : Ctx) (v : CtxLatch) (latched : Bool) (off : Nat) : Word :=
    if 0x100 ≤ off && off < 0x400 then accWord (tget {} v.acc ((off - 0x100) / 16)) (off % 16 / 4)
    else if 0x400 ≤ off && off < 0xA20 then accWord (tget {} v.acc (0x40 + (off - 0x400) / 16)) (off % 16 / 4)
    else if 0x80 ≤ off && off < 0xA0 then
      let i := (off - 0x80) / 4
      match x.headOf i with
      | some h => packW [(1, 31), (b2n (x.slot i).sign, 30), (nbits y.serving i i, 28), (h, 0)]
      | none => packW [(b2n (decide (i = 5) && x.kind == 3), 29)]
    else match off with
      | 0x00 => packW [(1, 31), (x.kind, 28), (x.grp, 24), (s.unitFor x.c, 20),
          ((x.bound.map (fun i => 2 ^ i)).foldl (· + ·) 0, 8)]
      | 0x04 => BitVec.ofNat 32 x.key
      | 0x08 => packW [(v.stat, 0)]
      | 0x10 => wordOf v.k 0
      | 0x14 => wordOf v.k 1
      | 0x18 => wordOf v.close 0
      | 0x1C => wordOf v.close 1
      | 0x20 => wordOf v.gapFirst 0
      | 0x24 => wordOf v.gapFirst 1
      | 0x28 => wordOf v.gapLast 0
      | 0x2C => wordOf v.gapLast 1
      | 0x30 => packW [(v.sticky, 0)]
      | 0x34 => packW [(b2n latched, 0)]
      | 0x38 => packW [(b2n y.preset.isSome, 30), (y.presetAcc, 0)]
      | 0x40 => wordOf y.presetVal 0
      | 0x44 => wordOf y.presetVal 1
      | 0x48 => wordOf y.presetVal 2
      | _ => 0

/-- The committed state of a context as a latch would hold it. -/
def Ctx.view (c : Nat) (x : Ctx) : CtxLatch :=
  { ctx := c, acc := x.acc, stat := x.stat, sticky := x.sticky, k := x.k, close := x.close, gapFirst := x.gapFirst, gapLast := x.gapLast }

/-- An energy register of context c as host p reads it (R198). -/
def ctxRead (s : State) (p c off : Nat) : Word :=
  match s.ctxNow c with
  | none => 0
  | some x =>
    let latched := match (s.getHp p).ctxLatch with | some l => l.ctx == c | none => false
    ctxBlock s x (s.getCtx c) (s.ctxView p c) latched off

/-- R187: take the context latch of port p. -/
def ctxLatchGo (p c : Nat) (s : State) : State :=
  let x := s.getCtx c
  let l : CtxLatch := { ctx := c, acc := x.acc, stat := x.stat, sticky := x.sticky, k := x.k, close := x.close
                        gapFirst := x.gapFirst, gapLast := x.gapLast }
  s.modHp p (fun h => { h with ctxLatch := some l })

/-- R188: GO of the preset: a number that the context's kind lacks is a no-op. -/
def presetGo (role p c : Nat) (s : State) : State :=
  match s.ctxNow c with
  | none => s
  | some x => s.modCtx c (fun y =>
      if accExists x.kind y.presetAcc then
        { y with preset := some { acc := y.presetAcc, val := y.presetVal, effAt := s.now, role := role, host := p } }
      else y)

/-- A write of an energy register of context c by host p in a role. -/
def ctxWrite (role p c off : Nat) (v : Word) (s : State) : State :=
  match off with
  | 0x30 => s.modCtx c (fun y => { y with sticky := y.sticky &&& (0x3FF ^^^ bits v 9 0) })
  | 0x34 =>
    let s := if bit v 30 then s.modHp p (fun h => { h with ctxLatch := none }) else s
    if bit v 31 then ctxLatchGo p c s else s
  | 0x38 =>
    let s := s.modCtx c (fun y => { y with presetAcc := bits v 7 0 })
    if bit v 31 then presetGo role p c s else s
  | 0x40 => s.modCtx c (fun y => { y with presetVal := setWordOf y.presetVal 0 v })
  | 0x44 => s.modCtx c (fun y => { y with presetVal := setWordOf y.presetVal 1 v })
  | 0x48 => s.modCtx c (fun y => { y with presetVal := setWordOf y.presetVal 2 v % 2 ^ 72 })
  | _ => s

/-! ## Commands -/

/-- R307: checkpoints without the windows up to k, which are committed. -/
def Ctx.ckAfter (k : Nat) (y : Ctx) : Ctx :=
  { y with
    ckFlat := y.ckFlat.map (fun q => { q with parts := q.parts.filter (fun e => decide (e.1 > k)) })
    ckCyc := y.ckCyc.map (fun q => { q with parts := q.parts.filter (fun e => decide (e.1 > k)) }) }

/-- TALLY_FLAT_SAMPLE (R178). -/
def execTallyFlatSample (c : Fin 160) (s : State) : Out :=
  onIsl islTally s (fun s => each (s.ctxKeys c) (fun s c => if s.tallyRuns c then (flatStep c s).getD s else s) s)

/-- TALLY_CYCLE (R179). -/
def execTallyCycle (c : Fin 160) (s : State) : Out :=
  onIsl islTally s (fun s => each (s.ctxKeys c) (fun s c => if s.tallyRuns c then (cycStep c s).getD s else s) s)

/-- The contexts that unit u serves. -/
def State.unitCtxs (s : State) (u : Nat) : List Nat := allKeys.filter (fun c => s.unitFor c == u && (s.ctxGrp c).isSome)

/-- R307: a flat checkpoint of the unit is due: 384 ticks after the one before. -/
def Unit'.ckDue (now : Nat) (x : Unit') : Bool :=
  match x.ckAt with
  | none => true
  | some t => decide (now ≥ t + 384)

/-- TALLY_FLAT_CHECKPOINT (R307): every 384 ticks the unit's flat-path state goes into the hamper. -/
def execTallyFlatCheckpoint (u : Fin 9) (s : State) : Out :=
  onIsl islTally s (fun s =>
    if (s.getUnit u).retired || (s.getUnit u).replay.isSome || !(s.getUnit u).ckDue s.now then s
    else each (s.unitCtxs u) (fun s c => s.modCtx c (Ctx.flatCheckpoint s.now))
      (s.modUnit u (fun x => { x with ckAt := some s.now })))

end Sys2Proof.Machine
end

