-- ==== Sys2Proof/Machine/Pulses.lean ====
section
/-! DEFINITION. Chapter 8: pulse outputs (R199 to R208), legacy pulse inputs (R209 to R213) and the pulse registers
(R214). -/

namespace Sys2Proof.Machine

/-! ## Outputs -/

/-- R214: MODE 3 acts as 0. -/
def PlsCfg.modeNow (c : PlsCfg) : Nat := if c.mode = 3 then 0 else c.mode

/-- R199, R204, R208: the output is at its active level: a pulse lasts, or MODE 2 drives it, until early warning idles it. -/
def PulseOut.level (x : PulseOut) : Bool := x.active || (x.cur.mode == 2 && !x.stopped)

/-- R206: the checks of R200 on a write with MODE 1. -/
def State.pulseCfgBad (s : State) (mode acc c : Nat) : Bool :=
  mode == 1 && (match s.ctxNow c with | none => true | some x => !accExists x.kind acc)

/-- R206: the group whose windows a change of output o waits for: that of the named context, else of the present one. -/
def State.changeGrp (s : State) (o : Nat) : Option Nat :=
  let x := s.getOut o
  match s.ctxGrp x.cfg.ctx with
  | some g => some g
  | none => s.ctxGrp x.cur.ctx

/-- The windows of group gi are credited under an assignment. -/
def OutUse.isFor (gi : Nat) (u : OutUse) : Bool := u.grp.isNone || u.grp == some gi

/-- R206: the assignments of an output, with the one in force where none is listed. -/
def PulseOut.allUses (x : PulseOut) : List OutUse := if x.uses.isEmpty then [{ from_ := 0, cfg := x.cur, rebase := false, grp := none }] else x.uses

/-- R206: the assignment of a window that begins at index a. -/
def PulseOut.useAt (a : Nat) (x : PulseOut) : OutUse :=
  ((x.allUses.find? (fun u => decide (u.from_ ≤ a))).orElse (fun _ => x.allUses.getLast?)).getD
    { from_ := 0, cfg := x.cur, rebase := false, grp := none }

/-- R415: PULSE_REBASE is the audit record of each write that asks for a rebase, the oldest first. -/
def logRebases (o : Nat) (taken : List OutChange) (s : State) : State :=
  each (taken.reverse.filter (fun e => e.rebase)) (fun s e => raiseAudit .pulseRebase o [(1, e.role), (1, e.host)] s) s

/-- R206, R207: from the window that begins at index a on, number k of group `grp`, the output works under `c`, and the writes `taken` wait
no longer. The pulses that the old assignment has credited are still issued, and windows that began earlier are still credited under it. A
rebase by a swap or a start is no write: its PULSE_REBASE names host port 15 and carries no audit number (DESIGN CHOICE, log entry 97). -/
def newUse (o a k : Nat) (grp : Option Nat) (taken : List OutChange) (c : OutChange) (s : State) : State :=
  let s := s.modOut o (fun x => { x with
    cur := c.cfg, curWidth := c.width, changes := x.changes.filter (fun e => !taken.contains e)
    uses := { from_ := a, cfg := c.cfg, rebase := c.rebase, grp := grp } :: x.allUses
    base := if c.rebase then k else x.base, rebased := x.rebased || c.rebase })
  whenDo (c.rebase && c.host == 15) (raise .pulseRebase o [(1, c.role), (1, c.host)]) (logRebases o taken s)

/-- R206: several writes that wait for one window take effect together; the output is rebased once, for the latest write that asks
for it (DESIGN CHOICE, log entry 97). -/
def joinChanges (l : List OutChange) : Option OutChange :=
  match l with
  | [] => none
  | c :: _ =>
    match l.find? (fun e => e.rebase) with
    | none => some c
    | some b => some { c with rebase := true, role := b.role, host := b.host }

/-- R206, R24: window k of group gi begins, at index a: the writes made before it take effect. -/
def applyChanges (gi k a : Nat) (s : State) : State :=
  each (List.range 16) (fun s o =>
    if s.changeGrp o == some gi then
      let taken := (s.getOut o).changes.filter (fun e => decide (e.at_ < a))
      match joinChanges taken with
      | none => s
      | some c => newUse o a k (some gi) taken c s
    else s) s

/-- R203: the rate for `p` pending pulses over a window of `len` ticks. -/
def pulseRate (p len : Nat) : Nat := min (2 ^ 31) (p * 2 ^ 32 / (len * 25 / 96))

/-- R201, R203, R205: the credit of window k, which began at index a, from the quantum increment. -/
def creditOut (o k a len quanta : Nat) (s : State) : State :=
  let x := s.getOut o
  let u := x.useAt a
  let sum := (if u.rebase then 0 else x.rho) + quanta
  let n := sum / u.cfg.weight
  let p := x.pend + n
  let lost := p - 65535
  let s := s.modOut o (fun x => { x with
    rho := sum % u.cfg.weight, credited := (x.credited + n) % 2 ^ 64, pend := min p 65535
    uses := x.allUses.takeWhile (fun e => decide (e.from_ > a)) ++ [{ u with rebase := false }]
    nu := pulseRate (min p 65535) len, hold := false
    ovf := x.ovf || decide (0 < lost), lost := satAdd 0xFFFFFFFF x.lost lost })
  whenDo (decide (0 < lost)) (fun s => irqAll irqPulse (raise .pulseOverflow o [(8, k), (4, lost)] s)) s

/-- R201: credit the outputs that name one of these contexts, with an accumulator of the tally unit or (`harm`) of the
harmonic engine. -/
def creditCtxs (gi k : Nat) (harm : Bool) (cs : List Nat) (s : State) : State :=
  let g := s.getGrp gi
  let a := g.twOf (k - 1)
  let len := g.twOf k - a
  each (List.range 16) (fun s o =>
    let u := (s.getOut o).useAt a
    let x := u.cfg
    match (s.planWin gi k).bind (fun p => p.num? x.ctx) with
    | none => s
    | some pc =>
      if x.modeNow == 1 && u.isFor gi && cs.contains pc.c && (harm == decide (x.acc ≥ 40)) then creditOut o k a len (s.quanta pc k x.acc) s
      else s) s

/-- R208: the first commit of an output's group, of window k, lets it issue its pending pulses, whatever its MODE; one that the window has
not credited takes its pace from that window (R203). An output that has no group waits for any group's commit (DESIGN CHOICE, log
entry 98). -/
def resumeOuts (gi k : Nat) (s : State) : State :=
  let len := (s.getGrp gi).twOf k - (s.getGrp gi).twOf (k - 1)
  each (List.range 16) (fun s o =>
    if (s.getOut o).hold && (match s.changeGrp o with | none => true | some g => g == gi) then
      s.modOut o (fun x => { x with hold := false, nu := if x.nu = 0 then pulseRate x.pend len else x.nu })
    else s) s

/-- R204: the width of a pulse at rate ν with set width w. -/
def pulseWidth (nu w : Nat) : Nat :=
  let t := 2 ^ 32 / nu
  let w := min 50000 (max 2 w)
  if t ≥ 2 * w then w else max 1 (t / 2)

/-- R203: a pulse starts. -/
def startPulse (x : PulseOut) : PulseOut :=
  { x with active := true, left := pulseWidth x.nu x.curWidth, issued := (x.issued + 1) % 2 ^ 64, pend := x.pend - 1 }

/-- R203, R204, R208: one 10 µs unit of one output. A start that falls within a pulse waits for its end; P counts it until then, so
that the pulses issued equal C − P (R202). -/
def pulseUnit (x : PulseOut) : PulseOut :=
  let x := if x.active then { x with left := x.left - 1 } else x
  if x.stopped || x.hold then x
  else if 0 < x.pend then
    let ph := x.phase + x.nu
    let x := { x with phase := ph % 2 ^ 32 }
    if ph ≥ 2 ^ 32 then
      if x.active then { x with due := min x.pend (x.due + 1) } else startPulse x
    else x
  else x

/-- R204: the width of the pulse in progress has expired. -/
def pulseEnd (x : PulseOut) : PulseOut :=
  if x.active && x.left == 0 then
    let x := { x with active := false }
    if 0 < x.due && !x.stopped then startPulse { x with due := x.due - 1 } else x
  else x

/-- PULSE_UNIT (R203). -/
def execPulseUnit (s : State) : Out :=
  onIsl islTally s (each (List.range 16) (fun s o => s.modOut o pulseUnit))

/-- PULSE_END (R204). -/
def execPulseEnd (o : Fin 16) (s : State) : Out := onIsl islTally s (fun s => s.modOut o pulseEnd)

/-- A register of output o's block. -/
def outRead (s : State) (o off : Nat) : Word :=
  let x := s.getOut o
  match off with
  | 0x00 => packW [(x.cfg.mode, 30), (b2n x.cfg.pol, 29), (x.cfg.acc, 16), (x.cfg.ctx, 8)]
  | 0x04 => wordOf x.cfg.weight 0
  | 0x08 => wordOf x.cfg.weight 1
  | 0x0C => packW [(x.width, 0)]
  | 0x10 => packW [(b2n x.level, 31), (b2n x.ovf, 30), (b2n x.rebased, 29), (x.pend, 0)]
  | 0x14 => wordOf x.credited 0
  | 0x18 => wordOf x.credited 1
  | 0x1C => wordOf x.issued 0
  | 0x20 => wordOf x.issued 1
  | 0x24 => wordOf x.base 0
  | 0x28 => wordOf x.base 1
  | 0x2C => BitVec.ofNat 32 x.lost
  | _ => 0

/-- R206: a write waits for the first window of the context's group that begins after it; where the contexts have no group it takes
effect at once. -/
def setOut (role host o : Nat) (rebase : Bool) (c : PlsCfg) (width : Nat) (s : State) : State :=
  let e : OutChange := { at_ := s.now, host := host, role := role, rebase := rebase, cfg := c, width := width }
  let s := s.modOut o (fun x => { x with cfg := c, width := width, changes := e :: x.changes })
  match s.changeGrp o with
  | some _ => s
  | none => newUse o s.now 0 none (s.getOut o).changes e s

/-- R206: a write that leaves the assignment as it is changes nothing. -/
def setOutCfg (role host o : Nat) (c : PlsCfg) (s : State) : State :=
  if c = (s.getOut o).cfg then s else setOut role host o true c (s.getOut o).width s

/-- A write of a register of output o's block. A write of WEIGHT that would leave it 0 is ignored. -/
def outWrite (role host o off : Nat) (v : Word) (s : State) : State :=
  let c := (s.getOut o).cfg
  match off with
  | 0x00 => setOutCfg role host o { c with mode := bits v 31 30, pol := bit v 29, acc := bits v 23 16, ctx := bits v 15 8 } s
  | 0x04 =>
    let w := setWordOf c.weight 0 v
    if w = 0 then s else setOutCfg role host o { c with weight := w } s
  | 0x08 =>
    let w := setWordOf c.weight 1 v % 2 ^ 40
    if w = 0 then s else setOutCfg role host o { c with weight := w } s
  | 0x0C => setOut role host o false c (bits v 15 0) s
  | 0x10 => s.modOut o (fun x => { x with ovf := x.ovf && !bit v 30, rebased := x.rebased && !bit v 29 })
  | _ => s

/-- Reading PLS_OUT_LOST clears it. -/
def outClear (o off : Nat) (s : State) : State :=
  match off with
  | 0x2C => s.modOut o (fun x => { x with lost := 0 })
  | _ => s

/-! ## Inputs -/

/-- R209: one tick's level of one input: the input, and whether its accepted level has changed to the active one. -/
def sampleLevel (lv : Bool) (x : PulseIn) : Bool × PulseIn :=
  if lv = x.level then
    (false, if 0 < x.run then { x with run := 0, glitch := satAdd 0xFFFF x.glitch 1 } else x)
  else if x.run + 1 ≥ x.debounce * 384 + 2 then
    (lv != x.edge, { x with level := lv, run := 0 })
  else (false, { x with run := x.run + 1 })

/-- R209: the levels of all inputs in one tick; edges take the accepted level of the partner (R210). -/
def sampleInputs (lv : BitVec 16) (s : State) : State :=
  let hits := (List.range 16).filter (fun i => (sampleLevel (lv.getLsbD i) (s.getInp i)).1)
  let s := each (List.range 16) (fun s i => s.modInp i (fun x => (sampleLevel (lv.getLsbD i) x).2)) s
  each hits (fun s i => s.modInp i (fun x => { x with edges := x.edges ++ [(s.now, (s.getInp (i ^^^ 1)).level)] })) s

/-- R210: add a weight to a 72-bit accumulator. -/
def addWeight (w : Nat) (a : Acc) : Acc :=
  { a with val := (a.val + w) % 2 ^ 72, wrap := a.wrap || decide (a.val + w ≥ 2 ^ 72) }

/-- R211: apply one listed edge or preset to a pair of accumulators (import, export). -/
def applyLog (p : Acc × Acc) (e : Nat × Bool × Bool × Nat) : Acc × Acc :=
  let f := fun (a : Acc) => if e.2.1 then { val := e.2.2.2, wrap := false } else addWeight e.2.2.2 a
  if e.2.2.1 then (p.1, f p.2) else (f p.1, p.2)

/-- How long edges stay listed: beyond the latest commit point of a window (R21). -/
def edgeKeep : Nat := 16384

/-- Move what is old enough from the list into the base accumulators. -/
def foldLog (now : Nat) (x : PulseIn) : PulseIn :=
  let old := x.log.takeWhile (fun e => decide (e.1 + edgeKeep < now))
  let b := old.foldl applyLog (x.bImp, x.bExp)
  { x with bImp := b.1, bExp := b.2, log := x.log.drop old.length }

/-- R210: one edge is counted. -/
def countEdge (now : Nat) (e : Nat × Bool) (x : PulseIn) : PulseIn :=
  if x.mode = 1 && !x.stopped then
    let ex := match x.dir with | 1 => true | 2 => e.2 | _ => false
    let x := { x with count := (x.count + 1) % 2 ^ 32, last := e.1, log := x.log ++ [(e.1, false, ex, x.weight)] }
    let x := if ex then { x with exp := addWeight x.weight x.exp } else { x with imp := addWeight x.weight x.imp }
    foldLog now x
  else x

/-- PULSE_IN_EDGE (R210). -/
def execPulseInEdge (i : Fin 16) (s : State) : Out :=
  onIsl islTally s (fun s =>
    s.modInp i (fun x => match x.edges with
      | [] => x
      | e :: t => countEdge s.now e { x with edges := t }))

/-- R211: what the accumulators hold of the edges before an index; presets made since count with the next commit. -/
def mirrorAt (close : Nat) (x : PulseIn) : Acc × Acc :=
  (x.log.filter (fun e => e.2.1 || decide (e.1 < close))).foldl applyLog (x.bImp, x.bExp)

/-- R211: the mirrors of group g at the commit of window k. -/
def commitInputs (gi k close : Nat) (s : State) : State :=
  each (List.range 16) (fun s i => s.modInp i (fun x =>
    if x.groupEn && x.group == gi then
      let m := mirrorAt close x
      { x with cImp := m.1, cExp := m.2, cWin := k }
    else x)) s

/-- R212: a requested preset takes effect at the tick after it was asked for; edges of that tick and later add to it. -/
def applyPreset (i : Nat) (s : State) : State :=
  let x := s.getInp i
  match x.presetGo with
  | none => s
  | some (at_, host, role) =>
    if s.now ≤ at_ then s
    else
      let t := at_ + 1
      let old := if x.presetDir then x.exp else x.imp
      let later := x.log.filter (fun e => decide (e.1 ≥ t) && e.2.2.1 == x.presetDir && !e.2.1)
      let new := later.foldl (fun a e => addWeight e.2.2.2 a) ({ val := x.presetVal } : Acc)
      let s := s.modInp i (fun x => { x with
        presetGo := none
        imp := if x.presetDir then x.imp else new
        exp := if x.presetDir then new else x.exp
        log := x.log.filter (fun e => decide (e.1 < t)) ++ [(t, true, x.presetDir, x.presetVal)] ++
          x.log.filter (fun e => decide (e.1 ≥ t)) })
      raiseAudit .legacyPreset i [(1, role), (1, host), (9, old.val), (9, x.presetVal)] s

/-- LEGACY_PRESET_APPLY (R212). -/
def execLegacyPresetApply (i : Fin 16) (s : State) : Out := onIsl islTally s (applyPreset i)

/-- A register of input i's block. -/
def inRead (s : State) (i off : Nat) : Word :=
  let x := s.getInp i
  match off with
  | 0x00 => packW [(x.mode, 30), (b2n x.edge, 29), (x.dir, 27), (x.unit, 25), (b2n x.groupEn, 24), (x.group, 20), (x.debounce, 0)]
  | 0x04 => wordOf x.weight 0
  | 0x08 => wordOf x.weight 1
  | 0x0C => packW [(b2n x.level, 31), (x.glitch, 0)]
  | 0x10 => BitVec.ofNat 32 x.count
  | 0x14 => wordOf x.last 0
  | 0x18 => wordOf x.last 1
  | 0x60 => wordOf x.cWin 0
  | 0x64 => wordOf x.cWin 1
  | 0x68 => wordOf x.presetVal 0
  | 0x6C => wordOf x.presetVal 1
  | 0x70 => wordOf x.presetVal 2
  | 0x74 => packW [(b2n x.presetGo.isSome, 31), (b2n x.presetDir, 0)]
  | _ =>
    if 0x20 ≤ off && off < 0x30 then accWord x.imp ((off - 0x20) / 4)
    else if 0x30 ≤ off && off < 0x40 then accWord x.exp ((off - 0x30) / 4)
    else if 0x40 ≤ off && off < 0x50 then accWord x.cImp ((off - 0x40) / 4)
    else if 0x50 ≤ off && off < 0x60 then accWord x.cExp ((off - 0x50) / 4)
    else 0

/-- A write of a register of input i's block. -/
def inWrite (role host i off : Nat) (v : Word) (s : State) : State :=
  match off with
  | 0x00 => s.modInp i (fun x => { x with
      mode := bits v 31 30, edge := bit v 29, dir := bits v 28 27, unit := bits v 26 25, groupEn := bit v 24
      group := bits v 23 20, debounce := bits v 7 0 })
  | 0x04 => s.modInp i (fun x => { x with weight := setWordOf x.weight 0 v })
  | 0x08 => s.modInp i (fun x => { x with weight := setWordOf x.weight 1 v % 2 ^ 40 })
  | 0x68 => s.modInp i (fun x => { x with presetVal := setWordOf x.presetVal 0 v })
  | 0x6C => s.modInp i (fun x => { x with presetVal := setWordOf x.presetVal 1 v })
  | 0x70 => s.modInp i (fun x => { x with presetVal := setWordOf x.presetVal 2 v % 2 ^ 72 })
  | 0x74 => s.modInp i (fun x => { x with
      presetDir := bit v 0, presetGo := if bit v 31 then some (s.now, host, role) else x.presetGo })
  | _ => s

/-- Reading GLITCH clears it. -/
def inClear (i off : Nat) (s : State) : State :=
  match off with
  | 0x0C => s.modInp i (fun x => { x with glitch := 0 })
  | _ => s

/-! ## The tally unit's window (R201) -/

/-- The contexts of block b in window k of group g, less those that their unit serves only from a later window on (R306). -/
def State.blockWin (s : State) (b gi k : Nat) : List PlanCtx :=
  match s.planWin gi k with
  | none => []
  | some p => (p.ctxsOf gi).filter (fun x => ctxNum x.c / 20 == b && decide ((s.getCtx x.c).unitFrom ≤ k))

/-- The unit of block b has counted everything of window k of group g. -/
def State.blockFull (s : State) (b gi k : Nat) : Bool :=
  let g := s.getGrp gi
  let w := s.winCycles gi
  (s.blockWin b gi k).all (fun x =>
    decide ((s.getCtx x.c).nextFlat.getD 0 ≥ 2 * g.twOf k) && decide ((s.getCtx x.c).nextCyc ≥ g.firstCyc w (k + 1)))

/-- R29, R306: window k of context c has no contribution of a tally unit. -/
def loseTally (k c : Nat) (s : State) : State :=
  s.modCtx c (fun y => { y with wins := tmod {} y.wins k (fun w => { harm := w.harm }) })

/-- R201: the unit that serves block b sends its token for window k of group g, and the outputs of the block are credited; a window whose
token was sent is never credited again. -/
def blockDone (gi k b : Nat) (s : State) : State :=
  let cs := s.blockWin b gi k
  if cs.isEmpty || s.hasToken gi k b || !s.blockFull b gi k then s
  else sendToken gi k b (creditCtxs gi k false (cs.map (fun c => c.c)) s)

/-- TALLY_WINDOW_DONE (R201): the unit has finished window k, the one after the last committed, of group g. -/
def execTallyWindowDone (u : Fin 9) (g : Fin 16) (s : State) : Out :=
  onIsl islTally s (fun s =>
    let k := (s.getGrp g).lastK + 1
    let x := s.getUnit u
    if x.retired || x.replay.isSome || decide (k > (s.getGrp g).closed) then s
    else each (s.unitBlocks u) (fun s b => blockDone g k b s) s)

end Sys2Proof.Machine
end

