-- ==== Sys2Proof/Machine/Spectra.lean ====
section
/-! DEFINITION. Chapter 9: harmonic engines: the window transform, results and aggregation (R215 to R233); the
supraharmonic roster, its rounds and results (R235 to R243); and the spectral registers (R244). -/

namespace Sys2Proof.Machine

/-! ## Taking cycle samples (R216, R218) -/

/-- The slots with a spectrum: the bound ones, and a derived I2 (R174, R218). -/
def PlanCtx.specSlots (x : PlanCtx) : List Nat :=
  x.bound ++ (if x.kind = 3 && (x.headOf 5).isNone then [5] else [])

/-- The slots whose samples a spectral slot takes. -/
def PlanCtx.specFrom (x : PlanCtx) (slot : Nat) : List Nat := if (x.headOf slot).isSome then [slot] else [4, 6]

/-- The harmonic engine of context c; 15 none (R215). -/
def State.harmFor (s : State) (c : Nat) : Nat := tget 15 s.spec.blkEng (ctxNum c / 40)

/-- An engine of the spectral island runs: not retired, replaying nothing, the island not shed. -/
def State.spRuns (s : State) (e : Nat) : Bool := !(s.getSpEng e).retired && (s.getSpEng e).replay.isNone && !s.spec.shed

/-- R218, R225, R226: one cycle sample of a binding, from the samples it takes. -/
def addHarm (y : Int) (l : List CSample) (w : HarmWin) : HarmWin :=
  { w with
    y := y :: w.y
    held := w.held || l.any (fun e => e.held)
    faded := w.faded || l.any (fun e => e.fade)
    clip := w.clip || l.any (fun e => e.cls == 4 || e.csat)
    subst := w.subst || l.any (fun e => e.subst)
    gap := w.gap || l.any (fun e => e.cls == 5 || e.cls == 6 || e.cls == 2 || e.cls == 3)
    unsettled := w.unsettled || l.any (fun e => e.cls == 1) }

/-- HARM_CYCLE_SAMPLE: the engine takes the next cycle sample of a binding. -/
def harmTake (c slot : Nat) (s : State) : State :=
  match s.ctxGrp c with
  | none => s
  | some gi =>
    let g := s.getGrp gi
    let m := (s.getSpBind (bkey c slot)).next
    let k := g.winOf (s.winCycles gi) (m / 512)
    match (s.planWin gi k).bind (fun p => p.ctx? c) with
    | none => s
    | some x =>
      let ls := (x.specFrom slot).map (fun i => s.csample c i m)
      if !g.started || s.beyondSwap gi (m / 512) || !x.specSlots.contains slot || ls.any Option.isNone then s
      else
        let l := ls.filterMap id
        let vals := ((x.specFrom slot).zip l).map (fun e => (x.slot e.1).scaled e.2.det e.2.step 1 e.2.val)
        let y := if (x.headOf slot).isSome then vals.headD 0 else -(vals.foldl (· + ·) 0)
        s.modSpBind (bkey c slot) (fun b =>
          let wins := tmod {} b.wins k (addHarm y l)
          { b with next := m + 1, wins := wins, ck := if (m + 1) % 512 = 0 then (m + 1, wins) :: b.ck.take 1 else b.ck })

/-! ## The transform (R219 to R224) -/

/-- R219: the twiddle factors t_W. -/
def twidW (w : Nat) : Array (Int × Int) :=
  ((List.range (512 * w)).map (fun n =>
    let cs := fxCosSin n (512 * w)
    (rne cs.1 (2 ^ 98), -(rne cs.2 (2 ^ 98))))).toArray

/-- R219: X_κ of the samples y, oldest first. -/
def binOf (w : Nat) (tw : Array (Int × Int)) (y : List Int) (kap : Nat) : Int × Int :=
  y.zipIdx.foldl (fun acc e =>
    let t := tw.getD (kap * e.2 % (512 * w)) (0, 0)
    (acc.1 + e.1 * t.1, acc.2 + e.1 * t.2)) (0, 0)

/-- The bins 0 to 128W − 1. -/
def binsOf (w : Nat) (y : List Int) : Array (Int × Int) :=
  let tw := twidW w
  ((List.range (128 * w)).map (fun k => binOf w tw y k)).toArray

/-- R220: Q_κ over `qDen`. -/
def qNum (xs : Array (Int × Int)) (kap : Nat) : Nat :=
  let x := xs.getD kap (0, 0)
  if kap = 0 then (x.1 * x.1).toNat else (2 * (x.1 * x.1 + x.2 * x.2)).toNat

/-- R220: (512W × 2^38)². -/
def qDen (w : Nat) : Nat := (512 * w * 2 ^ 38) ^ 2

/-- The sum of Q over bins. -/
def qSum (xs : Array (Int × Int)) (ks : List Nat) : Nat := (ks.map (qNum xs)).foldl (· + ·) 0

/-- R221: the square of G_sg,h over `qDen`. -/
def sgNum (w : Nat) (xs : Array (Int × Int)) (h : Nat) : Nat :=
  if h = 0 then qNum xs 0 else qSum xs [h * w - 1, h * w, h * w + 1]

/-- R221: the square of G_isg,h over `qDen`. -/
def isgNum (w : Nat) (xs : Array (Int × Int)) (h : Nat) : Nat := qSum xs ((List.range (w - 3)).map (fun i => h * w + 2 + i))

/-- R224: the SF16 code of √(num/den): codes to 4,095 are the value itself, then one power of two per step of E. -/
def sf16From (num den : Nat) : Nat → Nat → Nat
  | 0, _ => 0xFFFF
  | fuel + 1, e =>
    let v := rneSqrt num (den * 4 ^ e)
    if v ≤ 4095 then (if e = 0 then v else (e + 1) * 2048 + (v - 2048)) else sf16From num den fuel (e + 1)

/-- R224. -/
def sf16 (num den : Nat) : Nat := sf16From num den 31 0

/-- Complex power. -/
def cpow (a : Int × Int) : Nat → Int × Int
  | 0 => (1, 0)
  | n + 1 => cmul a (cpow a n)

/-- R222: PH_h from X_hW and the reference X_W,ref, where there is one. -/
def phaseOf (h : Nat) (x : Int × Int) (ref : Option (Int × Int)) : Nat :=
  if h = 0 then (if 0 ≤ x.1 then 0 else 0x8000)
  else match ref with
    | none => 0
    | some r =>
      if x = (0, 0) || r = (0, 0) then 0
      else
        let z := cmul x (cpow (r.1, -r.2) h)
        turnCode 16 z.1 z.2

/-- R223: H. -/
def hmaxOf (code : Nat) : Nat := match code with | 0 => 40 | 2 => 127 | _ => 50

/-- R223: Σ G_sg,h² for h = 2 to H, over `qDen`. -/
def distNum (w : Nat) (xs : Array (Int × Int)) (hm : Nat) : Nat :=
  ((List.range (hm - 1)).map (fun i => sgNum w xs (i + 2))).foldl (· + ·) 0

/-- Saturated 32-bit root. -/
def root32 (num den : Nat) : Nat := min 0xFFFFFFFF (rneSqrt num den)

/-! ## Aggregation (R231 to R233) -/

/-- The sum of two fractions; a denominator of 0 marks an empty sum. -/
def addFrac (a b : Nat × Nat) : Nat × Nat :=
  if a.2 = 0 then b else if a.2 = b.2 then (a.1 + b.1, a.2) else (a.1 * b.2 + b.1 * a.2, a.2 * b.2)

/-- Element sums of two lists of fractions; an empty list is all zero. -/
def addFracs (a b : List (Nat × Nat)) : List (Nat × Nat) :=
  if a.isEmpty then b else if b.isEmpty then a else (a.zip b).map (fun e => addFrac e.1 e.2)

/-- R232: one window joins an interval. -/
def Agg.addWin (k : Nat) (valid event held na : Bool) (sq : List (Nat × Nat)) (a : Agg) : Agg :=
  { a with
    first := if a.wins = 0 then k else a.first, last := k, wins := a.wins + 1, n := a.n + b2n valid
    sq := if valid then addFracs a.sq sq else a.sq
    flagged := a.flagged || event, held := a.held || (valid && held), notAligned := a.notAligned || na }

/-- R232: a 10-minute interval joins a 2-hour interval. -/
def Agg.add10 (t a : Agg) : Agg :=
  { a with
    first := if a.wins = 0 then t.first else a.first, last := t.last, wins := a.wins + t.wins, n := a.n + t.n
    m := a.m + b2n (decide (0 < t.n))
    sq := if 0 < t.n then addFracs a.sq (t.sq.map (fun f => (f.1, f.2 * t.n))) else a.sq
    flagged := a.flagged || t.flagged, held := a.held || t.held, notAligned := a.notAligned || t.notAligned }

/-- R233: an aggregation block; `div` is n, or m for 2 hours. -/
def Agg.block (div : Nat) (a : Agg) : List Byte :=
  let f := fun i => a.sq.getD i (0, 1)
  let v := fun i => if div = 0 then 0 else sf16 (f i).1 ((f i).2 * div)
  let r := fun i => if div = 0 then 0 else root32 (f i).1 ((f i).2 * div)
  leBytes 8 a.first ++ leBytes 8 a.last ++ leBytes 2 a.n ++
  leBytes 2 (b2n (decide (0 < div)) + 2 * b2n a.flagged + 4 * b2n (a.early || decide (a.n < a.wins)) +
    8 * b2n a.notAligned + 16 * b2n a.held) ++
  leBytes 4 (r 102) ++ leBytes 4 (r 103) ++ leBytes 4 0 ++
  (List.range 51).flatMap (fun h => leBytes 2 (v h)) ++ (List.range 51).flatMap (fun h => leBytes 2 (v (51 + h))) ++
  List.replicate 20 0

/-- R231: what window k with this close does to the intervals of its group. -/
structure Ends where
  /-- The 150/180-cycle interval ends with it, early or not. -/
  end150 : Bool
  early150 : Bool
  /-- The 10-minute interval before it ends, or ends with it. -/
  before10 : Bool
  with10 : Bool
  two : Bool
  tickAligned : Bool
  tickMoved : Bool
  na : Bool
  deriving DecidableEq, Repr

/-- R231. -/
def SpGrp.endsAt (g : SpGrp) (close : Nat) : Ends :=
  let due := g.ticks.filter (fun t => decide (t.at_ ≤ close))
  { end150 := decide (g.in150 + 1 ≥ 15) || !due.isEmpty, early150 := decide (g.in150 + 1 < 15)
    before10 := due.any (fun t => decide (t.at_ < close)), with10 := due.any (fun t => t.at_ == close)
    two := due.any (fun t => t.two), tickAligned := due.any (fun t => t.aligned), tickMoved := due.any (fun t => t.moved)
    na := !g.aligned }

/-- What a binding's intervals become with one window, and the blocks that the window completes. -/
structure AggOut where
  bind : SpBind
  b150 : Option (List Byte)
  b10 : Option (List Byte)
  b2h : Option (List Byte)
  deriving DecidableEq, Repr

/-- R231: a 10-minute interval ends, and with it perhaps the 2-hour interval. One in progress when ticks became aligned, or when aligned
ticks moved with SP_UTC, ends early and not aligned. -/
def end10 (e : Ends) (o : AggOut) : AggOut :=
  let t := o.bind.a10
  if t.wins = 0 then o
  else
    let t := { t with notAligned := t.notAligned || e.tickMoved }
    let t := { t with early := e.tickAligned && t.notAligned }
    let two := t.add10 o.bind.a2h
    if e.two then
      let two := { two with early := e.tickAligned && two.notAligned }
      { bind := { o.bind with a10 := {}, a2h := {} }, b150 := o.b150, b10 := some (t.block t.n), b2h := some (two.block two.m) }
    else { o with bind := { o.bind with a10 := {}, a2h := two }, b10 := some (t.block t.n) }

/-- R231, R232: one window of one binding. -/
def aggWindow (e : Ends) (k : Nat) (valid event held : Bool) (sq : List (Nat × Nat)) (b : SpBind) : AggOut :=
  let o : AggOut := { bind := b, b150 := none, b10 := none, b2h := none }
  let o := if e.before10 then end10 e o else o
  let a := o.bind.a150.addWin k valid event held e.na sq
  let o := { o with bind := { o.bind with a150 := a, a10 := o.bind.a10.addWin k valid event held e.na sq } }
  let o := if e.end150 then
      { o with bind := { o.bind with a150 := {} }, b150 := some (({ a with early := e.early150 } : Agg).block a.n) }
    else o
  if e.with10 then end10 e o else o

/-- R231: the group's intervals after window k: its ticks met, the count of the 150/180-cycle interval, and the levels
that the window completed. -/
def SpGrp.commit (k close : Nat) (g : SpGrp) : SpGrp :=
  let e := g.endsAt close
  { g with
    k := k, ticks := g.ticks.filter (fun t => decide (t.at_ > close)), in150 := if e.end150 then 0 else g.in150 + 1
    ends := b2n e.end150 + 2 * b2n (e.before10 || e.with10) + 4 * b2n ((e.before10 || e.with10) && e.two) }

/-- R231: a counted second boundary at index b for group g; `moved`: a write of SP_UTC takes effect with it. -/
def spBoundary (b : Nat) (g : Grp) (w : Nat) (aligned moved : Bool) (tai utc : Nat) (x : SpGrp) : SpGrp :=
  let secs := match x.secs with
    | some n => some (n + 1)
    | none => match g.closeOf w (g.winBase + 1) with
      | none => none
      | some c => if c < b then some 1 else none
  let v := if aligned then tai + 7200 * 100 - utc else secs.getD 1
  let tick := (aligned || secs.isSome) && v % 600 == 0
  let mv := x.moved || (moved && aligned)
  { x with
    secs := secs, aligned := aligned, moved := mv && !tick
    ticks := if tick then x.ticks ++ [{ at_ := b, two := v % 7200 == 0, aligned := aligned, moved := mv }] else x.ticks }

/-! ## A window's results (R225 to R230) -/

/-- R228: the page of window k in G1. -/
def spPage (k : Nat) : Nat := if k % 2 = 0 then 0x300000 else 0x580000

/-- R228: the record of slot i of context c in the page of window k. -/
def spRecord (k c i : Nat) : Nat := spPage k + 0x800 * (8 * ctxNum c + i)

/-- The status of a binding's window (R225). -/
def harmStatus (lost withheld : Bool) (w : Nat) (x : HarmWin) : Nat :=
  if lost then 4 else if withheld then 1 else if x.gap || decide (x.y.length < 512 * w) then 3 else if x.unsettled then 2 else 0

/-- One binding's window as the engine computes it. -/
structure HarmOut where
  slot : Nat
  st : Nat
  xs : Array (Int × Int)
  res : HarmRes
  sq : List (Nat × Nat)
  held : Bool
  bytes : List Byte
  deriving DecidableEq, Repr

/-- R223, R226: G_sg,1 is 0 in a window that is not VALID, where every sample of it has come. -/
def noFund (w st : Nat) (y : List Int) : Bool :=
  st != 4 && y.length == 512 * w &&
    (let tw := twidW w; qSum ((List.range (w + 2)).map (fun k => if k + 1 < w then (0, 0) else binOf w tw y k)).toArray [w - 1, w, w + 1] == 0)

/-- R219 to R229: the results of one binding: `ref` is the fundamental bin of a VALID V1. NOFUND and NOREF are set whatever the status
(R226); a window of which a sample has not come has no G_sg,1, and no NOFUND (DESIGN CHOICE, log entry 103). -/
def harmCompute (x : PlanCtx) (w k : Nat) (st slot : Nat) (event : Bool) (hw : HarmWin) (xs : Array (Int × Int))
    (ref : Option (Int × Int)) : HarmOut :=
  let valid := st == 0
  let den := qDen w
  let f1 := sgNum w xs 1
  let d := distNum w xs (hmaxOf x.hmax)
  let il := if slot ≥ 4 then x.il else 0
  let thdF := if f1 = 0 then (0, 1) else (d * 2 ^ 48, f1)
  let tddF := if il = 0 then (0, 1) else (d * 2 ^ 48, den * (il * il))
  let fl := b2n valid + 2 * st + 16 * b2n hw.held + 32 * b2n hw.faded + 64 * b2n hw.clip + 128 * b2n hw.subst +
    256 * b2n event + 512 * b2n (if valid then f1 == 0 else noFund w st hw.y.reverse) + 1024 * b2n ref.isNone
  let res : HarmRes := if valid then
      { k := k, fund := root32 f1 den, thd := root32 thdF.1 thdF.2, tdd := root32 tddF.1 tddF.2, flags := fl }
    else { k := k, flags := fl }
  let orders := (List.range 128).flatMap (fun h =>
    if valid then
      leBytes 2 (sf16 (qNum xs (h * w)) den) ++ leBytes 2 (sf16 (sgNum w xs h) den) ++
      leBytes 2 (sf16 (isgNum w xs h) den) ++ leBytes 2 (phaseOf h (xs.getD (h * w) (0, 0)) ref)
    else leBytes 8 0)
  { slot := slot, st := st, xs := xs, res := res, held := hw.held, bytes := orders
    sq := (List.range 51).map (fun h => (sgNum w xs h, den)) ++ (List.range 51).map (fun h => (isgNum w xs h, den)) ++
      [thdF, tddF] }

/-- R181: the linear combination of bins that a phase's voltage and current are. -/
def phaseBins (x : PlanCtx) (bin : Nat → Int × Int) (p : Nat) : (Int × Int) × (Int × Int) :=
  let sub := fun (a b : Int × Int) => (a.1 - b.1, a.2 - b.2)
  if x.kind = 3 then
    let sum := cadd (bin 0) (cadd (bin 1) (bin 2))
    (sub (cmul (3, 0) (bin (p - 1))) sum, bin (3 + p))
  else (if (x.headOf 3).isSome then sub (bin (p - 1)) (bin 3) else bin (p - 1), bin (3 + p))

/-- R181: the harmonic energies of a context's window; `md` is M ΣΔ. -/
def harmEnergy (x : PlanCtx) (w md : Nat) (bin : Nat → Nat → Int × Int) : HarmPart :=
  let n := phasesOf x.kind
  let e := fun (h p : Nat) =>
    let (xw, xi) := phaseBins x (fun sl => bin sl (h * w)) p
    rne ((xw.1 * xi.1 + xw.2 * xi.2) * md) (w * w * 2 ^ 100)
  let byPhase := (List.range n).map (fun p => (List.range 49).map (fun i => e (i + 2) (p + 1)))
  let tot := (List.range 49).map (fun i => (byPhase.map (fun l => l.getD i 0)).foldl (· + ·) 0)
  let sums := byPhase.map (fun l => l.foldl (· + ·) 0)
  { bh := (sums.foldl (· + ·) 0) :: sums, eh := tot, skip := false }

/-- R230: the record of one binding goes into the page of window k: WINDOW is voided, the rest is written, blocks not
completed are copied from the page of window k − 1, and WINDOW is set. -/
def putRecord (c k close : Nat) (o : HarmOut) (a : AggOut) (s : State) : State :=
  let at_ := spRecord k c o.slot
  let old := mgets galDefault (s.getGal 1).mem (spRecord (k + 1) c o.slot + 0x400) 768
  let blk := fun (b : Option (List Byte)) i => b.getD ((old.drop (256 * i)).take 256)
  let body := o.bytes ++ blk a.b150 0 ++ blk a.b10 1 ++ blk a.b2h 2
  let tail := leBytes 8 close ++ leBytes 4 o.res.flags ++ leBytes 4 o.res.fund ++ leBytes 4 o.res.thd ++ leBytes 4 o.res.tdd ++
    List.replicate 224 0
  galPuts 1 (at_ + 0x700) (leBytes 8 k) (galPuts 1 (at_ + 0x708) tail (galPuts 1 at_ body
    (galPuts 1 (at_ + 0x700) (List.replicate 8 0xFF) s)))

/-- R216 to R230: the window k of one context: results, records, aggregation and harmonic energy. `lost`: the engine had
not completed it (R217). -/
def harmCtx (gi k : Nat) (lost : Bool) (x : PlanCtx) (s : State) : State :=
  let g := s.getGrp gi
  let w := s.winCycles gi
  let close := g.twOf k
  let withheld := nbits (tget 0 g.wflags k) 0 0 == 1
  let hw := fun i => (tget {} (s.getSpBind (bkey x.c i)).wins k : HarmWin)
  let st := fun i => harmStatus lost withheld w (hw i)
  let bins : List (Nat × Array (Int × Int)) := x.specSlots.map (fun i => (i, if st i = 0 then binsOf w (hw i).y.reverse else #[]))
  let bin := fun (i : Nat) => ((bins.find? (fun e => e.1 == i)).map (fun e => e.2)).getD #[]
  let ref := if (x.headOf 0).isSome && st 0 == 0 then some ((bin 0).getD w (0, 0)) else none
  let event := (s.getEvc x.c).evWins.contains k
  let ends := (s.getSpGrp gi).endsAt close
  let s := x.specSlots.foldl (fun s i =>
    let o := harmCompute x w k (st i) i event (hw i) (bin i) ref
    let a := aggWindow ends k (st i == 0) event o.held o.sq (s.getSpBind (bkey x.c i))
    let s := putRecord x.c k close o a s
    s.modSpBind (bkey x.c i) (fun _ => { a.bind with
      pend := some o.res, wins := a.bind.wins.filter (fun e => decide (e.1 > k)) })) s
  let cyc := (List.range w).filterMap (fun i => g.cyc (g.firstCyc w k + i))
  let md := (cyc.map (fun c => c.gm * c.step)).foldl (· + ·) 0
  let used := ((List.range (phasesOf x.kind)).flatMap (fun p => x.phaseSlots (p + 1))) ++
    (if x.kind = 3 && (x.headOf 5).isNone then [5] else [])
  let h := if used.all (fun i => st i == 0) then harmEnergy x w md (fun sl kap => (bin sl).getD kap (0, 0)) else ({} : HarmPart)
  s.modCtx x.c (fun y => { y with wins := tmod {} y.wins k (fun c => { c with harm := h }) })

/-- The blocks of 40 contexts that harmonic engine e serves. -/
def State.engBlocks (s : State) (e : Nat) : List Nat := (s.spec.blkEng.filter (fun b => b.2 == e)).map (fun b => b.1)

/-- The contexts of block b in window k of group g, less those that their engine serves only from a later window on (R306). -/
def State.engWin (s : State) (b gi k : Nat) : List PlanCtx :=
  match s.planWin gi k with
  | none => []
  | some p => (p.ctxsOf gi).filter (fun x => ctxNum x.c / 40 == b && decide (tget 0 s.spec.from_ x.c ≤ k))

/-- The engine of block b has taken every cycle sample of window k. -/
def State.engFull (s : State) (b gi k : Nat) : Bool :=
  let first := (s.getGrp gi).firstCyc (s.winCycles gi) (k + 1)
  (s.engWin b gi k).all (fun x => x.specSlots.all (fun i => decide ((s.getSpBind (bkey x.c i)).next ≥ 512 * first)))

/-- R216, R201: the engine that serves block b writes its records of window k of group g and sends its token, and the outputs of harmonic
accumulators are credited, once. -/
def harmBlockDone (gi k b : Nat) (s : State) : State :=
  let cs := s.engWin b gi k
  if cs.isEmpty || s.hasToken gi k (8 + b) || !s.engFull b gi k then s
  else
    let s := cs.foldl (fun s x => harmCtx gi k false x s) s
    sendToken gi k (8 + b) (creditCtxs gi k true (cs.map (fun c => c.c)) s)

/-- HARM_WINDOW_DONE (R216): the engine has finished window k, the one after the last committed, of group g: it writes its
records and sends its token, and the outputs of harmonic accumulators are credited (R201). The flag EVENT (R226) needs
the event unit's part of the window. -/
def execHarmWindowDone (e : Fin 5) (g : Fin 16) (s : State) : Out :=
  onIsl islSpect s (fun s =>
    let k := (s.getGrp g).lastK + 1
    if !s.spRuns e || decide (k > (s.getGrp g).closed) || !(s.hasToken g k 16 || s.ev.down) then s
    else each (s.engBlocks e) (fun s b => harmBlockDone g k b s) s)

/-- HARM_CYCLE_SAMPLE (R216). -/
def execHarmCycleSample (c : Fin 160) (slot : Fin 8) (s : State) : Out :=
  onIsl islSpect s (fun s => each (s.ctxKeys c) (fun s c =>
    if decide (s.harmFor c < 5) && s.spRuns (s.harmFor c) then harmTake c slot s else s) s)

/-! ## The supraharmonic roster (R235 to R243) -/

/-- The supraharmonic engines in service. -/
def State.shAlive (s : State) : List Nat := [0, 1].filter (fun e => !(s.getSpEng (5 + e)).retired)

/-- R236: the length of a round. -/
def ShRound.len (r : ShRound) : Nat := if r.both then r.d else 2 * r.d

/-- R236: the entry that lane s serves in window k of a round, with the first window of the visit. -/
def ShRound.visit (r : ShRound) (n s k : Nat) : Option (Nat × Nat) :=
  let f := if r.both || decide (s < 4) then r.k0 else r.k0 + r.d
  if f ≤ k && decide (k < f + r.d) && decide (0 < n) then
    if n ≤ 8 then (if s < n then some (s, f) else none) else some ((8 * r.v + s) % n, f)
  else none

/-- R236: the engine of lane s in a round. -/
def ShRound.engine (r : ShRound) (s : Nat) : Nat := if r.both then s / 4 else r.solo

/-- R236: the rounds up to the one that holds window k, each following the one before; a new round takes the dwell in force when its
first window begins (R24, R243) and the engines of that moment. -/
def addRounds (k : Nat) (dwellAt : Nat → Nat) (alive : List Nat) : Nat → List ShRound → List ShRound
  | 0, l => l
  | _, [] => []
  | n + 1, r :: t =>
    if k ≥ r.k0 + r.len && !alive.isEmpty then
      addRounds k dwellAt alive n
        ({ v := r.v + 1, k0 := r.k0 + r.len, d := dwellAt (r.k0 + r.len), both := decide (alive.length = 2), solo := alive.headD 0 } ::
          r :: t)
    else r :: t

/-- The round of window k. -/
def State.roundOf (s : State) (k : Nat) : Option ShRound :=
  s.spec.rounds.find? (fun r => decide (r.k0 ≤ k) && decide (k < r.k0 + r.len))

/-- R242: lane l works in a round: its engine is in service. -/
def State.laneWorks (s : State) (r : ShRound) (l : Nat) : Bool := !(s.getSpEng (5 + r.engine l)).retired

/-- The lane that visits entry j in window k. -/
def State.laneOf (s : State) (j k : Nat) : Option Nat :=
  match s.roundOf k with
  | none => none
  | some r => (List.range 8).find? (fun l =>
      ((r.visit s.spec.roster.length l k).map (fun e => e.1)) == some j && s.laneWorks r l)

/-- R24, R243: the dwell of a round whose first window is k. -/
def State.dwellAt (s : State) (k : Nat) : Nat :=
  settingAt (((s.getGrp s.spec.refGrp).closeOf (s.winCycles s.spec.refGrp) (k - 1)).getD s.now) s.spec.dwellWr s.spec.dwell

/-- R236, R239: the rounds reach window k; those that end before the last committed window are over. -/
def advanceRounds (k : Nat) (s : State) : State :=
  let last := (s.getGrp s.spec.refGrp).lastK
  s.modSpecIsl (fun x => { x with
    rounds := (addRounds k s.dwellAt s.shAlive (k + 1) x.rounds).filter (fun r => decide (r.k0 + r.len > last)) })

/-- Round 0 begins at window k0 (R236). -/
def startRounds (k0 : Nat) (s : State) : State :=
  let al := s.shAlive
  let d := s.dwellAt k0
  let s := each [5, 6] (fun s e => s.modSpEng e (fun x => { x with doneK := k0 - 1 })) s
  s.modSpecIsl (fun x => { x with
    restart := none, shPage := k0 - 1
    rounds := if al.isEmpty || d = 0 then [] else [{ v := 0, k0 := k0, d := d, both := decide (al.length = 2), solo := al.headD 0 }] })

/-- R240: the page of window k in G6. -/
def shPageAt (k : Nat) : Nat := if k % 2 = 0 then 0x510000 else 0x574000

/-- Copy `len` bytes of a memory from one place to another. -/
def memCopy (src dst len : Nat) (m : Mem) : Mem :=
  let part := m.filter (fun e => decide (src ≤ e.1) && decide (e.1 < src + len))
  let rest := m.filter (fun e => decide (e.1 < dst) || decide (dst + len ≤ e.1))
  part.foldl (fun t e => mput galDefault t (e.1 - src + dst) e.2) rest

/-- The page at the place of window `src` is copied to that of window `dst`. -/
def copyShPage (src dst : Nat) (s : State) : State :=
  if s.galOn 6 then
    s.modGal 6 (fun x => { x with mem := memCopy (shPageAt src) (shPageAt dst) 0x64000 x.mem, lastAccess := s.now })
  else s

/-- R243: a restart takes effect once the reference group's first window that begins at or after its index is known. The latest page
becomes that of the window before it. -/
def restartRounds (s : State) : State :=
  match s.spec.restart with
  | none => s
  | some t =>
    let g := s.getGrp s.spec.refGrp
    let next := match g.closeOf (s.winCycles s.spec.refGrp) (g.closed + 1) with | none => [] | some c => [(g.closed + 1, c)]
    match (g.tw ++ next).find? (fun e => decide (e.2 ≥ t)) with
    | none => s
    | some e => startRounds (e.1 + 1) (if s.spec.shPage % 2 = e.1 % 2 then s else copyShPage s.spec.shPage e.1 s)

/-- The selector gives a raw sample of roster entry j to the lane that analyses it in window k. -/
def routeRaw (j k : Nat) (q : Raw) (s : State) : State :=
  let s := advanceRounds k (restartRounds s)
  match s.laneOf j k with
  | none => s
  | some l => s.modLane l (fun x => { x with queue := x.queue ++ [q] })

/-- The roster entry of a stream. -/
def Spec.entryOf (x : Spec) (key : Nat) : Option Nat := x.roster.findIdx? (fun e => 256 * e.ring + e.stream == key)

/-- R243: index t lies at or after the close at which a swap is still to switch the reference group, or after which its roster is still
to come into force. -/
def State.rosterHeld (s : State) (t : Nat) : Bool :=
  let g := s.spec.refGrp
  match s.spec.swap, (s.getGrp g).swapClose (s.winCycles g) with
  | some q, _ => decide (t ≥ q.w)
  | none, none => false
  | none, some (_, w) => decide (t ≥ w)

/-- R237: raw samples go to the lanes in their order as their windows become known; one of an index before the first window goes to none
(R236). -/
def flushRaw : Nat → State → State
  | 0, s => s
  | n + 1, s =>
    match s.spec.rawWait with
    | [] => s
    | (key, q) :: rest =>
      let pop := fun (s : State) => s.modSpecIsl (fun x => { x with rawWait := rest })
      if !s.knows s.spec.refGrp (2 * q.idx) || s.rosterHeld q.idx then s
      else match s.windowAt s.spec.refGrp (2 * q.idx), s.spec.entryOf key with
        | some k, some j => flushRaw n (routeRaw j k q (pop s))
        | _, _ => flushRaw n (pop s)

/-- R143, R243: a stream of the roster whose reference group runs, or of the one that a swap is bringing in. -/
def State.inRoster (s : State) (key : Nat) : Bool :=
  ((s.spec.entryOf key).isSome && (s.getGrp s.spec.refGrp).started) ||
    (s.plan.st == .switching && (match s.plan.next with
      | none => false
      | some n => n.roster.any (fun e => 256 * e.ring + e.stream == key))) ||
    (match s.spec.swap with
      | none => false
      | some q => q.roster.any (fun e => 256 * e.ring + e.stream == key))

/-- The supraharmonic engines take raw samples: their island is clocked and not shed, and no stop has come. -/
def State.takesRaw (s : State) : Bool := s.up islSpect && !s.spec.shed && s.stopAt.isNone

/-- R143, R237: the selector passes one delivered sample of ring r's stream `st` to the lane that analyses it in the sample's window; a
sample whose window the steps known do not decide waits (R16). -/
def selectRaw (r st : Nat) (q : Raw) (s : State) : State :=
  if !s.takesRaw || !s.inRoster (256 * r + st) then s
  else
    let s := s.modSpecIsl (fun x => { x with rawWait := x.rawWait ++ [(256 * r + st, q)] })
    flushRaw s.spec.rawWait.length s

/-- R15: raw samples that the channel to a supraharmonic engine holds. -/
def rawDepth : Nat := 4096

/-- R15, R16: the engine whose channel has no room for a sample of ring r's stream `st`. -/
def State.rawFull (s : State) (r st : Nat) : Option Nat :=
  if !s.takesRaw || (s.spec.entryOf (256 * r + st)).isNone then none
  else [0, 1].find? (fun e =>
    !(s.getSpEng (5 + e)).retired &&
      decide (([0, 1, 2, 3].map (fun i => (s.getLane (4 * e + i)).queue.length)).foldl (· + ·) 0 ≥ rawDepth))

/-- R237, R238: one raw sample in a lane's window. -/
def addRaw (e : PlanRoster) (q : Raw) (w : ShWin) : ShWin :=
  { z := scaleBy (e.scale.getD q.step (0, 0)) false q.code :: w.z
    gap := w.gap || q.cls == 5 || q.cls == 6 || q.cls == 2 || q.cls == 3, clip := w.clip || q.cls == 4 }

/-- SH_RAW_SAMPLE (R237): a lane takes the next sample of its queue. -/
def execShRawSample (lane : Fin 8) (s : State) : Out :=
  onIsl islSpect s (fun s =>
    let x := s.getLane lane
    if s.inWarning then s
    else match x.queue with
    | [] => flushRaw s.spec.rawWait.length s
    | q :: rest =>
      match s.windowAt s.spec.refGrp (2 * q.idx) with
      | none => s
      | some k =>
        match (s.roundOf k).bind (fun r => r.visit s.spec.roster.length lane k) with
        | none => s.modLane lane (fun x => { x with queue := rest })
        | some (j, _) =>
          match s.spec.roster[j]? with
          | none => s.modLane lane (fun x => { x with queue := rest })
          | some e => s.modLane lane (fun x => { x with queue := rest, wins := tmod {} x.wins k (addRaw e q) }))

/-- R237: the powers of the 740 bands of a window of N samples, oldest first, as fractions. -/
def bandPowers (z : List Int) : List (Nat × Nat) :=
  let n := z.length
  let tw := ((List.range n).map (fun i =>
    let cs := fxCosSin i n
    (rne cs.1 (2 ^ 98), -(rne cs.2 (2 ^ 98))))).toArray
  let bin := fun j => z.zipIdx.foldl (fun (acc : Int × Int) e =>
    let t := tw.getD (j * e.2 % n) (0, 0)
    (acc.1 + e.1 * t.1, acc.2 + e.1 * t.2)) (0, 0)
  (List.range 740).map (fun b =>
    let lo := (2000 + 200 * b) * n / 384000 + 1
    let hi := (2200 + 200 * b) * n / 384000
    let p := ((List.range (hi + 1 - lo)).map (fun i => let x := bin (lo + i); 2 * (x.1 * x.1 + x.2 * x.2))).foldl (· + ·) 0
    (p.toNat, n * n * 2 ^ 60))

/-- R240: a record. -/
def shRecord (sq : List (Nat × Nat)) (div first last n flags ring stream : Nat) : List Byte :=
  (List.range 740).flatMap (fun b =>
    let f := sq.getD b (0, 1)
    leBytes 2 (if div = 0 then 0 else sf16 f.1 (f.2 * div))) ++
  leBytes 8 first ++ leBytes 8 last ++ leBytes 2 n ++ leBytes 2 flags ++ leBytes 4 (256 * ring + stream) ++ List.replicate 32 0

/-- R240: a record is stored with LAST voided first and set last (R230). -/
def putShRecord (at_ : Nat) (bs : List Byte) (s : State) : State :=
  galPuts 6 (at_ + 0x5D0) ((bs.drop 0x5D0).take 8) (galPuts 6 (at_ + 0x5D8) (bs.drop 0x5D8) (galPuts 6 at_ (bs.take 0x5D0)
    (galPuts 6 (at_ + 0x5D0) (List.replicate 8 0xFF) s)))

/-- R240: the page of window k starts as a copy of the page of window k − 1; a page that is open stays as it is. -/
def openShPage (k : Nat) (s : State) : State :=
  if s.spec.shPage ≥ k then s else copyShPage (k + 1) k (s.modSpecIsl (fun x => { x with shPage := k }))

/-- R240: a record of window k at an offset of its page; a page of window k + 1 that is open already has it too, unless that window has
changed the record. -/
def putShPages (k off : Nat) (bs : List Byte) (s : State) : State :=
  let s := putShRecord (shPageAt k + off) bs s
  let later := leNat (mgets galDefault (s.getGal 6).mem (shPageAt (k + 1) + off + 0x5D0) 8)
  if s.spec.shPage = k + 1 ∧ later ≤ k then putShRecord (shPageAt (k + 1) + off) bs s else s

/-- R238, R240: end the visit in progress on lane l: its entry's record goes into the page of window k. -/
def endVisit (k l : Nat) (cut : Bool) (s : State) : State :=
  let x := s.getLane l
  match x.entry with
  | none => s
  | some j =>
    let e := s.spec.roster.getD j { ring := 0, stream := 0, scale := [] }
    let flags := b2n (decide (0 < x.n)) + 2 * b2n (cut || decide (x.n < x.last + 1 - x.first)) + 4 * b2n x.clip + 8 * b2n x.gap +
      16 * b2n x.engine
    let s := putShPages k (0x600 * j) (shRecord x.sq x.n x.first x.last x.n flags e.ring e.stream) (openShPage k s)
    s.modLane l (fun x => { queue := x.queue, wins := x.wins })

/-- R238 to R240: window k of lane l is complete, or lost with its engine: the lane's record, and the entry's record when
the visit ends with it. -/
def laneDone (k l : Nat) (lost : Bool) (s : State) : State :=
  match s.roundOf k with
  | none => s
  | some r =>
    match r.visit s.spec.roster.length l k with
    | none => s
    | some (j, f) =>
      let e := s.spec.roster.getD j { ring := 0, stream := 0, scale := [] }
      let w : ShWin := tget {} (s.getLane l).wins k
      let valid := !lost && !w.gap
      let sq := if valid then bandPowers w.z.reverse else []
      let s := openShPage k s
      let flags := b2n valid + 2 * b2n (decide (b2n valid < r.d)) + 4 * b2n (valid && w.clip) + 8 * b2n (!lost && w.gap) + 16 * b2n lost
      let s := putShPages k (0x60000 + 0x600 * l)
        (shRecord sq (b2n valid) k k (b2n valid) flags e.ring e.stream) s
      -- R242: the visits of a retired engine have ended with the windows analysed before
      if lost && (s.getSpEng (5 + r.engine l)).retired then
        s.modLane l (fun x => { x with wins := x.wins.filter (fun e => decide (e.1 > k)) })
      else
      let s := s.modLane l (fun x =>
        let y : ShLane := if x.entry = some j && x.first == f then x
          else { queue := x.queue, wins := x.wins, entry := some j, first := f }
        { y with
          last := k, n := y.n + b2n valid, sq := addFracs y.sq sq, clip := y.clip || (valid && w.clip)
          gap := y.gap || (!lost && w.gap), engine := y.engine || lost
          wins := y.wins.filter (fun e => decide (e.1 > k)) })
      if k + 1 = f + r.d then endVisit k l false s else s

/-- The lanes of engine e that work in window k. -/
def State.shLanes (s : State) (e k : Nat) : List Nat :=
  match s.roundOf k with
  | none => []
  | some r => (List.range 8).filter (fun l => r.engine l == e && (r.visit s.spec.roster.length l k).isSome)

/-- R243: the old roster's visits end with PARTIAL, every entry record is set to VALID = 0, and round 0 of the new one starts with the
first window of the new reference group at or after T_sw. -/
def newRoster (q : ShSwap) (s : State) : State :=
  let k := max s.spec.shPage (s.spec.shK + 1)
  let s := whenDo (!s.spec.roster.isEmpty) (fun s =>
    let s := each (List.range 8) (fun s l => endVisit k l true s) s
    each [k, k + 1] (fun s k => s.modGal 6 (fun g => { g with
      mem := (List.range 256).foldl (fun m j =>
        let a := shPageAt k + 0x600 * j + 0x5DA
        mput galDefault m a (mget galDefault m a &&& 0xFE)) g.mem })) s) s
  galSettle 6 (s.modSpecIsl (fun x => { x with
    roster := q.roster, refGrp := q.refGrp, dwell := q.dwell, dwellWr := x.dwellWr.filter (fun e => decide (e.1 ≥ q.w))
    rounds := [], restart := some q.w, rawWait := x.rawWait.filter (fun e => decide (e.2.idx ≥ q.w))
    lane := x.lane.map (fun e => (e.1, {})), swap := none }))

/-- The roster that waits comes into force once every engine in service has analysed the old one's last window before T_sw. -/
def settleRoster (s : State) : State :=
  match s.spec.swap with
  | none => s
  | some q =>
    if s.spec.roster.isEmpty || s.spec.shed || s.spec.rounds.isEmpty || s.shAlive.all (fun e => decide ((s.getSpEng (5 + e)).doneK ≥ q.k)) then
      newRoster q s
    else s

/-- The last window of the old roster that is analysed while another waits. -/
def State.rosterEnds (s : State) (k : Nat) : Bool := match s.spec.swap with | none => false | some q => decide (k > q.k)

/-- SH_WINDOW_DONE (R239): the engine has analysed the next window of its lanes. Page k mod 2 is free for window k once window k − 1 has
been committed (R240). -/
def execShWindowDone (e : Fin 2) (s : State) : Out :=
  onIsl islSpect s (fun s =>
    let ref := s.spec.refGrp
    let g := s.getGrp ref
    let k := max ((s.getSpEng (5 + e)).doneK) g.winBase + 1
    let len := g.twOf k - g.twOf (k - 1)
    let full := (s.shLanes e k).all (fun l => (tget {} (s.getLane l).wins k : ShWin).z.length == len)
    if !s.spRuns (5 + e) || s.inWarning || decide (k > g.closed) || decide (k > g.lastK + 1) || s.spec.roster.isEmpty || (s.roundOf k).isNone || !full ||
        s.rosterEnds k then s
    else
      let s := (s.shLanes e k).foldl (fun s l => laneDone k l false s) s
      settleRoster (sendToken ref k (14 + e) (s.modSpEng (5 + e) (fun x => { x with doneK := k }))))

/-- R239: at the commit of window k of the reference group, the results of window k − 1 are committed; lanes without a
token take status ENGINE. -/
def commitSh (k : Nat) (s : State) : State :=
  let ref := s.spec.refGrp
  let s := advanceRounds (k - 1) (restartRounds s)
  if s.spec.roster.isEmpty || (s.roundOf (k - 1)).isNone || s.spec.shed then s
  else
    let s := [0, 1].foldl (fun s e =>
      if s.hasToken ref (k - 1) (14 + e) then s
      else
        let s := if s.rosterEnds (k - 1) then s else (s.shLanes e (k - 1)).foldl (fun s l => laneDone (k - 1) l true s) s
        s.modSpEng (5 + e) (fun x => { x with doneK := max x.doneK (k - 1) })) s
    let s := openShPage (k - 1) s
    settleRoster ((s.modSpecIsl (fun x => { x with shK := k - 1 })).modRsIsl (fun r => { r with
      tokens := r.tokens.filter (fun t => !(t.1 == ref && decide (t.2.1 < k) && (t.2.2 == 14 || t.2.2 == 15))) }))

/-! ## Registers (R244) -/

/-- The code of SP_ENG_STAT.STATE of engine e. -/
def State.spEngCode (s : State) (e : Nat) : Nat :=
  let x := s.getSpEng e
  if x.retired then 3
  else if e ≥ 5 then b2n (s.up islSpect)
  else if s.spec.blkEng.any (fun b => b.2 == e) then (if x.taking && x.replay.isSome then 2 else 1)
  else 0

/-- SH_CFG.DWELL: the newest setting. -/
def Spec.dwellSet (x : Spec) : Nat := match x.dwellWr with | [] => x.dwell | e :: _ => e.2

/-- The window that the reference group forms now. -/
def State.shNow (s : State) : Nat := (s.getGrp s.spec.refGrp).closed + 1

/-- A global spectral register by offset from 0x0E_1000. -/
def spRead (s : State) (off : Nat) : Word :=
  if off < 0x1C then
    let e := off / 4
    let x := s.getSpEng e
    let blk := ((s.spec.blkEng.find? (fun b => b.2 == e)).map (fun b => b.1)).getD 0
    packW [(s.spEngCode e, 29), (if e < 5 && !x.retired then blk else 0, 24), (x.replays, 8), (x.upsets, 0)]
  else if off = 0x40 then packW [(b2n s.spec.utcSet, 31), (s.spec.utc, 0)]
  else if 0x100 ≤ off && off < 0x200 then
    let g := s.getSpGrp ((off - 0x100) / 16)
    match off % 16 with
    | 0 => packW [(g.k % 2, 0)]
    | 4 => wordOf g.k 0
    | 8 => wordOf g.k 1
    | _ => packW [(g.ends, 0)]
  else if off = 0x200 then packW [(s.spec.dwellSet, 16), (s.spec.refGrp, 12), (s.spec.roster.length, 0)]
  else if off = 0x204 then
    packW [(s.spec.shK % 2, 31), (b2n (s.up islSpect && !(s.getSpEng 6).retired), 25), (b2n (s.up islSpect && !(s.getSpEng 5).retired), 24),
      (((s.spec.rounds.head?).map (fun r => r.v % 65536)).getD 0, 0)]
  else if off = 0x208 then wordOf s.spec.shK 0
  else if off = 0x20C then wordOf s.spec.shK 1
  else if 0x240 ≤ off && off < 0x260 then
    let l := (off - 0x240) / 4
    match s.roundOf s.shNow with
    | none => 0
    | some r => match r.visit s.spec.roster.length l s.shNow with
      | none => 0
      | some (j, f) => if s.laneWorks r l then packW [(1, 31), (f + r.d - s.shNow, 8), (j, 0)] else 0
  else if 0x400 ≤ off && off < 0x800 then
    let j := (off - 0x400) / 4
    match s.spec.roster[j]? with
    | none => 0
    | some e =>
      let l := s.laneOf j s.shNow
      packW [(1, 31), (e.ring, 24), (e.stream, 16), (b2n l.isSome, 3), (l.getD 0, 0)]
  else 0

/-- A write of a global spectral register: SP_UTC and SH_CFG.DWELL. -/
def spWrite (off : Nat) (v : Word) (s : State) : State :=
  match off with
  | 0x40 => s.modSpecIsl (fun x => { x with utcSet := true, utc := bits v 15 0 })
  | 0x200 => s.modSpecIsl (fun x => if bits v 23 16 = 0 then x else { x with dwellWr := (s.now, bits v 23 16) :: x.dwellWr })
  | _ => s

/-- Reading SP_ENG_STAT clears its counters. -/
def spClear (off : Nat) (s : State) : State :=
  if off < 0x1C then s.modSpEng (off / 4) (fun x => { x with replays := 0, upsets := 0 }) else s

/-- A spectral register of context c. -/
def spCtxRead (s : State) (c off : Nat) : Word :=
  match s.ctxNow c with
  | none => 0
  | some x =>
    if off = 0xA80 then packW [(x.hmax, 30), (s.harmFor c, 20)]
    else if off = 0xA84 then BitVec.ofNat 32 x.il
    else if 0xA90 ≤ off && off < 0xB10 then
      let i := (off - 0xA90) % 32 / 4
      let r := (s.getSpBind (bkey c i)).res
      let b := x.specSlots.contains i
      match (off - 0xA90) / 32 with
      | 0 => BitVec.ofNat 32 (if b then r.fund else 0)
      | 1 => BitVec.ofNat 32 (if b then r.thd else 0)
      | 2 => BitVec.ofNat 32 (if b then r.tdd else 0)
      | _ => if b then packW [(r.flags, 0)] else packW [(5, 1)]
    else 0

end Sys2Proof.Machine
end

