-- ==== Sys2Proof/Machine/Events.lean ====
section
/-! DEFINITION. Chapter 10: the event unit: half-cycle values (R245 to R249), detectors (R250 to R255), records (R256 to
R258), committed status (R259), its faults (R263) and the event registers (R265); and the end of a group's cycle. -/

namespace Sys2Proof.Machine

/-! ## Channels and boundaries (R245, R246) -/

/-- R245: the channels of a context: a slot, and the slot subtracted from it. -/
def PlanCtx.channels (x : PlanCtx) : List (Nat × Option Nat) :=
  let vn := if (x.headOf 3).isSome then some 3 else none
  match x.kind with
  | 1 => [(0, vn)]
  | 2 => [(0, vn), (1, vn)]
  | 3 => [(0, some 1), (1, some 2), (2, some 0)]
  | _ => [(0, vn), (1, vn), (2, vn)]

/-- The slots that a channel uses. -/
def chanSlots (ch : Nat × Option Nat) : List Nat := match ch.2 with | none => [ch.1] | some b => [ch.1, b]

/-- R246: z at a sample number. -/
def zAt (zs : List (Nat × Nat)) (m : Nat) : Nat := ((zs.find? (fun e => decide (e.1 ≤ m))).map (fun e => e.2)).getD 0

/-- R246: sample number b is a boundary. -/
def isBoundary (zs : List (Nat × Nat)) (b : Nat) : Bool := (b + 256 - zAt zs b) % 256 == 0

/-- R246: the first boundary after b. -/
def nextBoundary (zs : List (Nat × Nat)) (b : Nat) : Nat :=
  match (List.range 512).find? (fun i => isBoundary zs (b + 1 + i)) with
  | some i => b + 1 + i
  | none => b + 256

/-- R246: z from θ = arg X_V1. -/
def zOf (theta : Nat) : Nat := rneN ((3 * 2 ^ 30 + 2 ^ 32 - theta) % 2 ^ 32) (2 ^ 23) % 256

/-- R246: at an entry into LOCKED at the end of cycle c, every context of the group asks for a new z. -/
def askZ (gi c : Nat) (p : Plan) (s : State) : State :=
  each (p.ctxsOf gi) (fun s x => s.modEvc x.c (fun e => { e with zAsk := e.zAsk ++ [c] })) s

/-- R246: resolve what has been asked, once V1's cycle is complete. -/
def resolveZ (x : PlanCtx) (s : State) : State :=
  let asks := (s.getEvc x.c).zAsk
  let ready := asks.filter (fun c => decide (s.nextOf x.c 0 ≥ 512 * (c + 1)))
  let s := each ready (fun s c =>
    match s.cycleOf x.c 0 c with
    | none => s
    | some l =>
      if l.all (fun e => e.cls == 0) then
        s.modEvc x.c (fun e => { e with zs := (512 * (c + 2), zOf (argOf (bindPhasor (x.slot 0) l))) :: e.zs.take 3 })
      else s) s
  s.modEvc x.c (fun e => { e with zAsk := e.zAsk.filter (fun c => !ready.contains c) })

/-- The boundary of the context's next value. -/
def EvCtx.nextB (e : EvCtx) : Nat := nextBoundary e.zs e.lastB

/-! ## Values (R247, R248) -/

/-- R46, R159: the tag of an instant: its fine timestamp, rounded half to even to 2^-16 tick, in 2^-33 tick. -/
def tagOf (t : Int) : Int := rne t (2 ^ 17) * 2 ^ 17

/-- One half-cycle value. Instants are in 2^-33 tick. -/
structure EvVal where
  j : Nat
  start : Int
  fin : Int
  win : Nat
  /-- U½ and whether it is evaluable, by channel. -/
  u : List Nat
  ok : List Bool
  /-- UNLOCKED, HELD, NOT_EVAL and CLIP as in EFLAGS. -/
  flags : Nat
  deriving DecidableEq, Repr

/-- The samples [a, b) of a slot, oldest first; none unless all are held. -/
def State.samplesOf (s : State) (c slot a b : Nat) : Option (List CSample) :=
  let l := ((s.hamper c slot).filter (fun e => decide (a ≤ e.m) && decide (e.m < b))).reverse
  if l.length = b - a then some l else none

/-- The channel's samples [a, b) in 2^-16 V, and their classes; none where a sample is not held. -/
def State.chanVals (s : State) (x : PlanCtx) (ch : Nat × Option Nat) (a b : Nat) : Option (List Int × List CSample) :=
  let one := fun i => (s.samplesOf x.c i a b).map (fun l => (l.map (fun e => (x.slot i).scaled e.det e.step 1 e.val), l))
  match ch.2 with
  | none => one ch.1
  | some j => match one ch.1, one j with
    | some p, some q => some ((p.1.zip q.1).map (fun e => e.1 - e.2), p.2 ++ q.2)
    | _, _ => none

/-- Σ u². -/
def sumSq (l : List Int) : Nat := ((l.map (fun u => u * u)).foldl (· + ·) 0).toNat

/-- τ of a cycle sample of a group, in 2^-33 tick. -/
def Grp.tauOf (g : Grp) (m : Nat) : Int := match g.cyc (m / 512) with | none => 0 | some c => c.tau (m % 512)

/-- R247, R248: the value of a context at boundary b. Values that straddle a swap's switch are not evaluable (R290). -/
def State.halfCycle (s : State) (gi : Nat) (x : PlanCtx) (b k : Nat) : EvVal :=
  let e := s.getEvc x.c
  let g := s.getGrp gi
  let strad := match e.straddle with | none => false | some m => decide (b < m + 512) && decide (m < b)
  let vs := x.channels.map (fun ch => s.chanVals x ch (b - 512) b)
  let ok := vs.map (fun v => match v with | none => false | some (_, l) => l.all (fun q => counted q.cls) && !strad)
  let any := fun (f : CSample → Bool) => vs.any (fun v => match v with | none => false | some (_, l) => l.any f)
  { j := e.j, start := tagOf (g.tauOf (b - 512)), fin := tagOf (g.tauOf b), win := k
    u := vs.map (fun v => match v with | none => 0 | some (u, _) => rneSqrt (sumSq u) (2 ^ 25)), ok := ok
    flags := b2n (any (fun q => q.unlocked)) + 2 * b2n (any (fun q => q.held)) + 4 * b2n (!ok.all id) +
      8 * b2n (any (fun q => q.cls == 4)) }

/-! ## Detectors (R250 to R254) -/

/-- R250: Udin × setting ÷ 1,000. -/
def pctOf (udin set_ : Nat) : Nat := rneN (udin * set_) 1000

/-- R250: the settings clamped to their ranges: sag, swell, interruption thresholds and hysteresis, in 2^-8 V. -/
def EvSet.limits (e : EvSet) : Nat × Nat × Nat × Nat :=
  let th := e.th
  (pctOf e.udin (min 990 (max 500 (bits th 20 11))), pctOf e.udin (min 1500 (max 1010 (bits th 31 21))),
   pctOf e.udin (min 100 (max 10 (bits th 10 4))), pctOf e.udin (min 100 e.hyst))

/-- R251: the channels, as a mask, for which a test of U½ holds; only evaluable values are tested. -/
def chanMask (v : EvVal) (f : Nat → Bool) : Nat :=
  ((v.u.zip v.ok).zipIdx.map (fun e => if e.1.2 && f e.1.1 then 2 ^ e.2 else 0)).foldl (· + ·) 0

/-- All channels of a value. -/
def EvVal.all (v : EvVal) : Nat := 2 ^ v.u.length - 1

/-- The lowest channel of a mask, 1 to 3. -/
def lowest (m : Nat) : Nat := if m % 2 = 1 then 1 else if m / 2 % 2 = 1 then 2 else 3

/-- R252: the extremes with one more value; `up` for a swell. -/
def addExt (up : Bool) (v : EvVal) (ext : List (Option Nat)) : List (Option Nat) :=
  (List.range 3).map (fun i =>
    let o := ext.getD i none
    if v.ok.getD i false then
      let u := v.u.getD i 0
      match o with
      | none => some u
      | some x => some (if up then max x u else min x u)
    else o)

/-- R254: the count of consecutive values not evaluable, by channel. -/
def addBad (v : EvVal) (bad : List Nat) : List Nat :=
  (List.range 3).map (fun i => if v.ok.getD i true then 0 else bad.getD i 0 + 1)

/-- R251 to R254: one value in one detector: `goIn` and `goOut` are the channels whose value goes in or out, `every` the
interruption rule 1. The detector after the value, whether it started, and whether it ended. -/
def detStep (up every armed : Bool) (goIn goOut : Nat) (v : EvVal) (d : Detec) : Detec × Bool × Bool :=
  let start := !d.active && armed && (if every then goIn == v.all else goIn != 0)
  if !d.active && !start then (d, false, false)
  else
    let d := if start then
        { active := true, inNow := goIn, went := goIn, init := lowest goIn, jStart := v.j, start := v.start }
      else { d with inNow := (d.inNow ||| goIn) &&& (v.all ^^^ goOut), went := d.went ||| goIn }
    let bad := addBad v d.bad
    let gone := ((List.range v.u.length).map (fun i => if bad.getD i 0 > 1000 then 2 ^ i else 0)).foldl (· + ·) 0
    let d := { d with ext := addExt up v d.ext, bad := bad, flags := d.flags ||| v.flags ||| (if gone = 0 then 0 else 16) }
    let inNow := d.inNow &&& (v.all ^^^ gone)
    let over_ := if every then inNow != v.all else inNow == 0
    (d, start, over_)

/-- The record of an event that closes (R256). -/
def closeRec (c gi typ : Nat) (set_ : EvSet) (j : Nat) (fin : Int) (win extra : Nat) (d : Detec) : EvRec :=
  { ctx := c, grp := gi, typ := typ, init := d.init, went := d.went, start := d.start, fin := fin, durHc := j + 2 - d.jStart
    flags := d.flags ||| extra ||| (if set_.intRule then 64 else 0), ext := d.ext, udin := set_.udin, win := win }

/-- R259, R226: window k carries EVENT where an event is open. -/
def EvCtx.inEvent (k : Nat) (e : EvCtx) : EvCtx :=
  if (e.sag.active || e.swell.active || e.int_.active) && !e.evWins.contains k then { e with evWins := (k :: e.evWins).take 8 } else e

/-- R251 to R253: one value of a context. -/
def detect (c gi : Nat) (set_ : EvSet) (v : EvVal) (e : EvCtx) : EvCtx :=
  let (ts, tw, ti, h) := set_.limits
  let armed := e.armed || (v.ok.all id && v.u.all (fun u => decide (ts + h ≤ u) && decide (u + h ≤ tw)))
  let (sag, s1, c1) := detStep false false armed (chanMask v (fun u => decide (u < ts))) (chanMask v (fun u => decide (u ≥ ts + h))) v e.sag
  let (swl, s2, c2) := detStep true false armed (chanMask v (fun u => decide (u > tw))) (chanMask v (fun u => decide (u + h ≤ tw))) v e.swell
  let (int, s3, c3) := detStep false set_.intRule armed (chanMask v (fun u => decide (u < ti))) (chanMask v (fun u => decide (u ≥ ti + h))) v e.int_
  let fin := fun (b : Bool) (d : Detec) => if b then {} else d
  let rec_ := fun (b : Bool) (t : Nat) (d : Detec) => if b then [closeRec c gi t set_ v.j v.fin v.win 0 d] else []
  let e := ({ e with sag := sag, swell := swl, int_ := int } : EvCtx).inEvent v.win
  { e with
    armed := armed, sag := fin c1 sag, swell := fin c2 swl, int_ := fin c3 int
    sags := (e.sags + b2n s1) % 65536, swells := (e.swells + b2n s2) % 65536, ints := (e.ints + b2n s3) % 65536
    recs := e.recs ++ rec_ c1 1 sag ++ rec_ c2 2 swl ++ rec_ c3 3 int }

/-- R255, R262, R263: close every open event at the last value, with ABORTED; the detectors become unarmed. -/
def abortAll (c gi : Nat) (e : EvCtx) : EvCtx :=
  let one := fun (t : Nat) (d : Detec) => if d.active then [closeRec c gi t e.set_ e.lastJ e.lastEnd e.lastWin 32 d] else []
  { e with sag := {}, swell := {}, int_ := {}, armed := false, recs := e.recs ++ one 1 e.sag ++ one 2 e.swell ++ one 3 e.int_ }

/-- R253, R255: the settings of the window that begins at `begin` come into force. -/
def applySettings (begin : Nat) (e : EvCtx) : EvCtx :=
  let n := settingAt begin e.wr e.set_
  let unarm := (n.enable && !e.set_.enable) || (n.udin != 0 && e.set_.udin == 0)
  { e with set_ := n, wr := settingsAfter begin e.wr, armed := e.armed && !unarm }

/-! ## Window sums (R249) -/

/-- R249: add the samples up to `upto` of a context to its window sums. -/
def addWindow (x : PlanCtx) (k upto : Nat) (s : State) : State :=
  let e := s.getEvc x.c
  if upto ≤ e.wNext then s
  else
    let vs := x.channels.map (fun ch => s.chanVals x ch e.wNext upto)
    let old := tget ([0, 0, 0], 0) e.wsum k
    let sums := (List.range 3).map (fun i => old.1.getD i 0 + (match vs.getD i none with | none => 0 | some (u, _) => sumSq u))
    let bad := (vs.zipIdx.map (fun v => match v.1 with
      | none => 2 ^ v.2
      | some (_, l) => if l.all (fun q => counted q.cls) then 0 else 2 ^ v.2)).foldl (· + ·) 0
    s.modEvc x.c (fun e => { e with wNext := upto, wsum := tset e.wsum k (sums, old.2 ||| bad) })

/-! ## Records (R256, R257) -/

/-- R252: the extreme channel. -/
def extChannel (r : EvRec) : Nat :=
  let l := r.ext.zipIdx.filterMap (fun e => e.1.map (fun v => (v, e.2 + 1)))
  match l with
  | [] => r.init
  | a :: t => (t.foldl (fun b e => if (if r.typ = 2 then decide (e.1 > b.1) else decide (e.1 < b.1)) then e else b) a).2

/-- ⌊t⌋ of an instant in 2^-33 tick. -/
def wholeTick (t : Int) : Nat := (t / (2 ^ 33 : Int)).toNat

/-- The fraction of an instant, in 2^-16 tick. -/
def fracTick (t : Int) : Nat := (t % (2 ^ 33 : Int) / (2 ^ 17 : Int)).toNat

/-- R256: a record from its byte 4 on. -/
def recBytes (r : EvRec) : List Byte :=
  let a := wholeTick r.start
  let b := wholeTick r.fin
  [BitVec.ofNat 8 r.typ, BitVec.ofNat 8 r.grp] ++ leBytes 2 (ctxNum r.ctx) ++ leBytes 8 a ++ leBytes 2 (fracTick r.start) ++
  [BitVec.ofNat 8 (r.went + 16 * r.init), BitVec.ofNat 8 (extChannel r)] ++ leBytes 4 r.durHc ++ leBytes 8 b ++
  leBytes 2 (fracTick r.fin) ++ leBytes 2 r.flags ++ leBytes 4 (min 0xFFFFFFFF (b - a)) ++
  (List.range 3).flatMap (fun i => leBytes 4 ((r.ext.getD i none).getD 0)) ++ leBytes 4 r.udin ++ leBytes 8 r.win

/-- R257: one record goes into the ring. -/
def putEvRec (s : State) (r : EvRec) : State :=
  let seq := s.ev.ringNext
  let off := 0x40 * (seq % 16384)
  let s := galPuts 3 off (leBytes 4 seq) (galPuts 3 (off + 4) (recBytes r) (galPuts 3 off (leBytes 4 0xFFFFFFFF) s))
  s.modEvIsl (fun e => { e with ringNext := (seq + 1) % 2 ^ 32, fresh := (r.grp, r.win) :: e.fresh })

/-- R257: the waiting records of a context up to window k, in the order sag, swell, interruption. -/
def writeRecs (c k : Nat) (s : State) : State :=
  let due := (s.getEvc c).recs.filter (fun r => decide (r.win ≤ k))
  let s := s.modEvc c (fun e => { e with recs := e.recs.filter (fun r => decide (r.win > k)) })
  ([1, 2, 3].flatMap (fun t => due.filter (fun r => r.typ == t))).foldl putEvRec s

/-! ## The unit -/

/-- R263: the event unit is permanently faulty: open events are closed, their records written, and the unit is down. The
entry's DATA has the criterion (R295): 0 mismatches, 1 the loss of its island's clock (DESIGN CHOICE, log entry 101). -/
def eventUnitDown (crit : Nat) (s : State) : State :=
  let cs := s.ev.ctx.map (fun e => e.1)
  let s := each cs (fun s c => s.modEvc c (abortAll c ((s.ctxGrp c).getD 0))) s
  let s := each cs (fun s c => writeRecs c (2 ^ 64) s) s
  raise .eventUnitDown 0 [(1, crit)] (s.modEvIsl (fun e => { e with down := true }))

/-- R263, R293: residue mismatches: the third within 3,840,000 ticks puts the unit down. -/
def eventFaults : Nat → State → State
  | 0, s => s
  | n + 1, s =>
    let fs := addFault s.now s.ev.faults
    let s := s.modEvIsl (fun e => { e with residue := satAdd 0xFFFF e.residue 1, faults := fs })
    eventFaults n (if fs.length ≥ 3 && !s.ev.down then eventUnitDown 0 s else s)

/-- R262: the last window of the group that the event unit has finished. -/
def State.evDone (s : State) (gi : Nat) : Nat := tget (s.getGrp gi).winBase s.ev.doneK gi

/-- R290: values of the first window under a new plan wait until the contexts have moved at the commit of the window before. -/
def State.swapHold (s : State) (gi : Nat) : Bool :=
  match s.plan.tsw.find? (fun e => e.1 == gi) with
  | none => false
  | some (_, w) => (s.getGrp gi).twOf (s.evDone gi) == w && !s.plan.moved.contains gi

/-- R247: the context's next half-cycle value, once its samples are formed; values of a later window wait until the window
before is finished. -/
def halfStep (c : Nat) (s : State) : State :=
  match s.ctxGrp c with
  | none => s
  | some gi =>
    let g := s.getGrp gi
    let w := s.winCycles gi
    match (s.planWin gi (s.evDone gi + 1)).bind (fun p => p.ctx? c) with
    | none => s
    | some x =>
      let s := resolveZ x s
      let e := s.getEvc c
      let b := e.nextB
      let k := g.winOf w ((b - 1) / 512)
      if !g.started || s.swapHold gi || decide (k > s.evDone gi + 1) || !x.voltSlots.all (fun i => decide (s.nextOf c i ≥ b)) ||
          (g.cyc (b / 512)).isNone then s
      else
        let first := 512 * g.firstCyc w k
        -- samples before the window's first belong to the window before
        let s := if e.wNext < first then addWindow x (k - 1) first s else s
        let s := addWindow x k b s
        let v := s.halfCycle gi x b k
        let set_ := e.set_
        s.modEvc c (fun e =>
          let e := { e with
            urms := (List.range 3).map (fun i => if v.ok.getD i false then v.u.getD i 0 else e.urms.getD i 0)
            noeval := e.noeval ||| ((v.ok.zipIdx.map (fun o => if o.1 then 0 else 2 ^ o.2)).foldl (· + ·) 0) }
          let e := if set_.enable && set_.udin != 0 then detect c gi set_ v e else e.inEvent v.win
          { e with lastB := b, j := e.j + 1, lastJ := v.j, lastEnd := v.fin, lastWin := k })

/-- EVENT_HALF_CYCLE (R247). -/
def execEventHalfCycle (c : Fin 160) (residue : Nat) (s : State) : Out :=
  onIsl islResamp s (fun s =>
    if s.ev.down then s
    else
      let s := eventFaults (min residue 0x10000) s
      if s.ev.down then s else each (s.ctxKeys c) (fun s c => halfStep c s) s)

/-- The mask of active detectors. -/
def EvCtx.actives (e : EvCtx) : Nat := b2n e.sag.active + 2 * b2n e.swell.active + 4 * b2n e.int_.active

/-- R259: what the context commits for the window that has ended; `den` is 512 W · 2^16. -/
def EvCtx.snapshot (x : PlanCtx) (k den upto : Nat) (e : EvCtx) : EvCom :=
  let ws := tget ([0, 0, 0], 7) e.wsum k
  let ok := fun i => decide (i < x.channels.length) && nbits ws.2 i i == 0 && decide (e.wNext ≥ upto)
  let op := fun (d : Detec) => if d.active then wholeTick d.start else 0
  { armed := e.armed, z := zAt e.zs e.lastB, active := e.actives, noeval := e.noeval
    sags := e.sags, swells := e.swells, ints := e.ints, opens := [op e.sag, op e.swell, op e.int_]
    wrms := (List.range 3).map (fun i => if ok i then rneSqrt (ws.1.getD i 0) den else 0)
    wvalid := ((List.range 3).map (fun i => if ok i then 2 ^ i else 0)).foldl (· + ·) 0 }

/-- R290: window k of group gi is the last under the old plan: the plan that follows. -/
def State.lastOld (s : State) (gi k : Nat) : Option Plan :=
  match s.oldPlan, s.plan.tsw.find? (fun e => e.1 == gi) with
  | some _, some (_, w) => if !s.plan.moved.contains gi && (s.getGrp gi).twOf k == w then s.newPlan else none
  | _, _ => none

/-- The event settings that a context entry of the plan gives (R277). -/
def PlanCtx.evSet (x : PlanCtx) : EvSet :=
  { enable := bit x.evCfg 31, intRule := bit x.evCfg 30, hyst := bits x.evCfg 6 0, udin := x.udin, th := x.evTh &&& 0xFFFFFFF0 }

/-- R255, R262: an event of a context may go on after window k: it stays enabled, and in a swap it is carried. -/
def EvCtx.goesOn (tw gi : Nat) (next : Option Plan) (x : PlanCtx) (e : EvCtx) : Bool :=
  match next with
  | none => (settingAt tw e.wr e.set_).enable
  | some n =>
    match (n.ctxsOf gi).find? (fun y => x.key != 0 && y.key == x.key) with
    | none => false
    | some y => y.evSet.enable

/-- R249, R255, R257, R262: the event unit finishes window k of one context: an ENABLE that ends, or a swap that drops the context, closes
events first. -/
def finishCtx (gi k : Nat) (x : PlanCtx) (s : State) : State :=
  let g := s.getGrp gi
  let w := s.winCycles gi
  let upto := 512 * g.firstCyc w (k + 1)
  let s := addWindow x k upto s
  let tw := g.twOf k
  let next := s.lastOld gi k
  s.modEvc x.c (fun e =>
    let e := if e.set_.enable && !e.goesOn tw gi next x then abortAll x.c gi e else e
    let snap := e.snapshot x k (512 * w * 2 ^ 16) upto
    applySettings tw { e with pend := some snap, noeval := 0, wsum := e.wsum.filter (fun q => decide (q.1 > k)) })

/-- The event unit finishes window k of a group: its contexts, their records in context order, and its token. -/
def finishEvents (gi k : Nat) (p : Plan) (s : State) : State :=
  let xs := sortBy (fun a b => decide (ctxNum a.c ≤ ctxNum b.c)) (p.ctxsOf gi)
  let s := each xs (fun s x => finishCtx gi k x s) s
  let s := each xs (fun s x => writeRecs x.c k s) s
  sendToken gi k 16 (s.modEvIsl (fun e => { e with doneK := tset e.doneK gi k }))

/-- R290: a swap is still to switch group gi after window k. -/
def State.switchDue (s : State) (gi k : Nat) : Bool :=
  match (s.getGrp gi).swapClose (s.winCycles gi) with
  | none => false
  | some (j, _) => j == k

/-- EVENT_WINDOW_DONE (R257): every value of the window has been evaluated. -/
def execEventWindowDone (g : Fin 16) (s : State) : Out :=
  onIsl islResamp s (fun s =>
    let gr := s.getGrp g
    let k := s.evDone g + 1
    let w := s.winCycles g
    match s.planWin g k with
    | none => s
    | some p =>
      let upto := 512 * gr.firstCyc w (k + 1)
      let ready := (p.ctxsOf g).all (fun x =>
        decide ((s.getEvc x.c).nextB > upto) && x.voltSlots.all (fun i => decide (s.nextOf x.c i ≥ upto)))
      if s.ev.down || !gr.started || decide (k > gr.closed) || decide (k > gr.lastK + 1) || !ready || s.switchDue g k then s
      else finishEvents g k p s)

/-- R259, R260: the commit of the event status of a context. -/
def commitEv (c : Nat) (s : State) : State :=
  let e := s.getEvc c
  let base := e.pend.getD e.com
  let n : EvCom := if s.ev.down then
      { base with armed := false, down := true, active := 0, opens := [0, 0, 0], wrms := [0, 0, 0], wvalid := 0 }
    else base
  let s := whenDo (n.active != e.com.active) (irqAll irqEvent) s
  s.modEvc c (fun e => { e with com := n, pend := none })

/-! ## Registers (R265) -/

/-- CTX_EV_CFG as a word. -/
def EvSet.cfgWord (e : EvSet) : Word := packW [(b2n e.enable, 31), (b2n e.intRule, 30), (e.hyst, 0)]

/-- The settings as last written. -/
def EvCtx.shown (e : EvCtx) : EvSet := match e.wr with | [] => e.set_ | w :: _ => w.2

/-- R262: between T_sw and the commit that moves the contexts, the new plan's context under number c, and T_sw. -/
def State.evNext (s : State) (c : Nat) : Option (PlanCtx × Nat) :=
  match s.oldPlan, s.newPlan with
  | some _, some n => (n.ctxs.find? (fun x => ctxNum x.c == c)).bind (fun x =>
      match s.plan.tsw.find? (fun e => e.1 == x.grp) with
      | some (_, w) => if decide (s.now ≥ w) && !s.plan.moved.contains x.grp then some (x, w) else none
      | none => none)
  | _, _ => none

/-- R255, R262: where settings of context c written now go, and the settings as last written. -/
def State.evWritten (s : State) (c : Nat) : Nat × EvSet :=
  match s.evNext c with
  | none => (c, (s.getEvc c).shown)
  | some (x, w) => (x.c, match (s.getEvc x.c).wr with
    | [] => x.evSet
    | e :: _ => if e.1 ≥ w then e.2 else x.evSet)

/-- An event register of context c. -/
def evCtxRead (s : State) (c off : Nat) : Word :=
  match s.ctxNow c with
  | none => 0
  | some _ =>
    let e := s.getEvc c
    let m := e.com
    match off with
    | 0xC00 => (s.evWritten c).2.cfgWord
    | 0xC04 => BitVec.ofNat 32 (s.evWritten c).2.udin
    | 0xC08 => (s.evWritten c).2.th
    | 0xC0C => packW [(b2n m.armed, 31), (b2n m.down, 30), (m.z, 16), (m.active, 8), (m.noeval, 0)]
    | 0xC10 => packW [(m.swells, 16), (m.sags, 0)]
    | 0xC14 => packW [(m.ints, 0)]
    | 0xC18 => wordOf (m.opens.getD 0 0) 0
    | 0xC1C => wordOf (m.opens.getD 0 0) 1
    | 0xC20 => wordOf (m.opens.getD 1 0) 0
    | 0xC24 => wordOf (m.opens.getD 1 0) 1
    | 0xC28 => wordOf (m.opens.getD 2 0) 0
    | 0xC2C => wordOf (m.opens.getD 2 0) 1
    | 0xC30 => BitVec.ofNat 32 (e.urms.getD 0 0)
    | 0xC34 => BitVec.ofNat 32 (e.urms.getD 1 0)
    | 0xC38 => BitVec.ofNat 32 (e.urms.getD 2 0)
    | 0xC3C => BitVec.ofNat 32 (if s.ev.down then 0 else m.wrms.getD 0 0)
    | 0xC40 => BitVec.ofNat 32 (if s.ev.down then 0 else m.wrms.getD 1 0)
    | 0xC44 => BitVec.ofNat 32 (if s.ev.down then 0 else m.wrms.getD 2 0)
    | 0xC48 => packW [(m.wvalid, 0)]
    | _ => 0

/-- CTX_EV_CFG's fields. -/
def EvSet.withCfg (v : Word) (e : EvSet) : EvSet := { e with enable := bit v 31, intRule := bit v 30, hyst := bits v 6 0 }

/-- A write of an event register of context c: it waits for the first window that begins after it (R255). -/
def evCtxWrite (c off : Nat) (v : Word) (s : State) : State :=
  match s.ctxNow c with
  | none => s
  | some _ =>
    let at_ := s.evWritten c
    let put := fun (f : EvSet → EvSet) => s.modEvc at_.1 (fun e => { e with wr := (s.now, f at_.2) :: e.wr })
    match off with
    | 0xC00 => put (EvSet.withCfg v)
    | 0xC04 => put (fun e => { e with udin := v.toNat })
    | 0xC08 => put (fun e => { e with th := v &&& 0xFFFFFFF0 })
    | _ => s

/-- A global event register by offset from 0x1A_0000. -/
def evRead (s : State) (off : Nat) : Word :=
  match off with
  | 0x00 => BitVec.ofNat 32 s.ev.ringNext
  | 0x04 => packW [(b2n s.ev.down, 31), (s.ev.residue, 0)]
  | _ => 0

/-- Reading EV_STAT clears RESIDUE. -/
def evClear (off : Nat) (s : State) : State :=
  match off with
  | 0x04 => s.modEvIsl (fun e => { e with residue := 0 })
  | _ => s

/-! ## The end of a cycle (R155, R163, R246) -/

/-- CYCLE_END: the tracker's update, the close of a window, with which the next one begins and the outputs take their changes (R206),
and a new z where the group enters LOCKED. -/
def execCycleEnd (g : Fin 16) (s : State) : Out :=
  onIsl islResamp s (fun s =>
    if s.cycleDone g then
      let before := s.getGrp g
      let p := s.planWin g (before.closed + 1)
      let s := endCycle g s
      let after := s.getGrp g
      let s := whenDo (after.closed != before.closed) (applyChanges g (after.closed + 1) (after.twOf after.closed)) s
      match p with
      | none => s
      | some p => whenDo (before.st != .locked && after.st == .locked) (askZ g before.done p) s
    else s)

end Sys2Proof.Machine
end

