-- ==== Sys2Proof/Machine/PlanImage.lean ====
section
/-! DEFINITION. Chapter 11: the plan image (R269 to R278), the checks of R279, and the plan that a valid image describes. -/

namespace Sys2Proof.Machine

/-! ## Fields of an image -/

/-- An image's bytes. -/
abbrev Img := Array Byte

/-- One byte. -/
def Img.u8 (b : Img) (o : Nat) : Nat := (b.getD o 0).toNat
/-- Two bytes, little-endian (R269). -/
def Img.u16 (b : Img) (o : Nat) : Nat := b.u8 o + 256 * b.u8 (o + 1)
/-- Four bytes, little-endian. -/
def Img.u32 (b : Img) (o : Nat) : Nat := b.u16 o + 65536 * b.u16 (o + 2)
/-- Eight bytes, little-endian. -/
def Img.u64 (b : Img) (o : Nat) : Nat := b.u32 o + 2 ^ 32 * b.u32 (o + 4)
/-- `n` bytes are 0. -/
def Img.zero (b : Img) (o n : Nat) : Bool := (List.range n).all (fun i => b.u8 (o + i) == 0)
/-- The bytes [o, o + n). -/
def Img.part (b : Img) (o n : Nat) : List Byte := (List.range n).map (fun i => b.getD (o + i) 0)

/-- A failed check (R279): the code, the section type, the entry and the byte offset of the failing field. -/
structure PlanErr where
  code : Nat
  sect : Nat := 0
  entry : Nat := 0xFFFF
  off : Nat := 0
  deriving DecidableEq, Repr

/-- The result of a check: the failing field, if any. -/
abbrev Chk := Option PlanErr

/-- The first failing field of a list of conditions that must not hold, with their offsets. -/
def firstBad (l : List (Bool × Nat)) : Option Nat := (l.find? (fun e => e.1)).map (fun e => e.2)

/-- Sections in type order, entries in index order: the first that fails. -/
def checkAll (l : List Chk) : Chk := l.findSome? id

/-! ## Header and section table (R270 to R273) -/

/-- R273: preamble, entry length and the limits of COUNT of a section type. -/
def secInfo (t : Nat) : Option (Nat × Nat × Nat × Nat) :=
  match t with
  | 1 => some (0, 96, 1, 32)
  | 2 => some (0, 24, 0, 4096)
  | 3 => some (0, 4112, 1, 16)
  | 4 => some (0, 1136, 1, 160)
  | 5 => some (0, 80, 0, 64)
  | 6 => some (0, 16, 32, 32)
  | 7 => some (8, 40, 0, 256)
  | 8 => some (0, 16, 4, 4)
  | _ => none

/-- R272: an entry of the section table: type, entry length, offset, count. -/
def Img.secEnt (b : Img) (i : Nat) : Nat × Nat × Nat × Nat :=
  let e := 0x80 + 16 * i
  (b.u16 e, b.u16 (e + 2), b.u32 (e + 4), b.u32 (e + 8))

/-- The bytes a section occupies. -/
def secSize (t len count : Nat) : Nat := (match secInfo t with | none => 0 | some q => q.1) + len * count

/-- R272, R273: the first failing field of table entry i. -/
def Img.badSecEnt (b : Img) (ilen i : Nat) : Option Nat :=
  let e := 0x80 + 16 * i
  let (t, len, off, count) := b.secEnt i
  let prev := (List.range i).map (fun j => b.secEnt j)
  let size := secSize t len count
  let info := decide (t ≥ 0x8000)
  let shape := match secInfo t with
    | none => (!info, false, false)
    | some q => (false, len != q.2.1, decide (count < q.2.2.1) || decide (count > q.2.2.2))
  let overlap := prev.any (fun q =>
    let sz := secSize q.1 q.2.1 q.2.2.2
    decide (0 < size) && decide (0 < sz) && decide (off < q.2.2.1 + sz) && decide (q.2.2.1 < off + size))
  firstBad [
    (shape.1 || prev.any (fun q => decide (q.1 ≥ t)), e),
    (shape.2.1, e + 2),
    (off % 4 != 0 || decide (off < 0x80 + 16 * b.u8 0x15) || decide (off + size > ilen - 64) || overlap, e + 4),
    (shape.2.2, e + 8),
    (!b.zero (e + 12) 4, e + 12)]

/-- R279 code 0x07: SECTIONS, the table and the reserved bytes of both. A missing section is a fault of SECTIONS. -/
def Img.badSection (b : Img) (ilen : Nat) : Chk :=
  let n := b.u8 0x15
  let hdr := firstBad [
    (decide (n < 1) || decide (n > 32) || decide (0x80 + 16 * n > ilen - 64), 0x15),
    (!b.zero 0x16 2, 0x16), (!b.zero 0x40 60, 0x40)]
  let ent := (List.range n).findSome? (fun i => (b.badSecEnt ilen i).map (fun o => ({ code := 7, entry := i, off := o } : PlanErr)))
  let missing := [1, 2, 3, 4].any (fun t => !((List.range n).any (fun i => (b.secEnt i).1 == t)))
  checkAll [hdr.map (fun o => { code := 7, off := o }), ent, if missing then some { code := 7, off := 0x15 } else none]

/-- The table entry of a section type: offset and count. -/
def Img.sec (b : Img) (t : Nat) : Option (Nat × Nat) :=
  (((List.range (b.u8 0x15)).map (fun i => b.secEnt i)).find? (fun q => q.1 == t)).map (fun q => (q.2.2.1, q.2.2.2))

/-- The entries of a section: index and offset. -/
def Img.ents (b : Img) (t : Nat) : List (Nat × Nat) :=
  match b.sec t, secInfo t with
  | some (off, count), some q => (List.range count).map (fun i => (i, off + q.1 + q.2.1 * i))
  | _, _ => []

/-- R271: IMAGE_CRC. -/
def Img.crc (b : Img) (ilen : Nat) : Nat := (crc32 (b.part 0 0x7C ++ b.part 0x80 (ilen - 64 - 0x80))).toNat

/-- R271: the signature under the key of a slot. -/
def Img.signed (b : Img) (ilen : Nat) (xy : List Byte) : Bool :=
  ecdsaVerify (beNat (xy.take 32)) (beNat ((xy.drop 32).take 32)) (sha256 (b.part 0 (ilen - 64)))
    (beNat (b.part (ilen - 64) 32)) (beNat (b.part (ilen - 32) 32))

/-- R279 codes 0x01 and 0x02; `limit` is what the source can hold. -/
def Img.badFrame (b : Img) (limit : Nat) : Chk :=
  let ilen := b.u32 8
  match firstBad [(b.u32 0 != 0x4E414C50, 0), (b.u16 4 != 1, 4), (b.u16 6 != 0x80, 6)] with
  | some o => some { code := 1, off := o }
  | none =>
    if ilen % 4 != 0 || decide (ilen < 208) || decide (ilen > 1048576) || decide (ilen > limit) then some { code := 2, off := 8 }
    else none

/-- R279 codes 0x03 to 0x06. The entry of a failed signature is left open (log entry 9). -/
def Img.badTrust (b : Img) (otp : Tab OtpSlot) (minver : Nat) : Chk :=
  let ilen := b.u32 8
  if b.u32 0x7C != b.crc ilen then some { code := 3, off := 0x7C }
  else match (if b.u8 0x14 > 3 then OtpSlot.empty else tget .empty otp (b.u8 0x14)) with
    | .empty => some { code := 4, off := 0x14 }
    | .revoked _ => some { code := 4, off := 0x14 }
    | .key xy =>
      if !b.signed ilen xy then some { code := 5, entry := 0x10000, off := ilen - 64 }
      else if b.u32 0x10 < minver then some { code := 6, off := 0x10 } else none

/-! ## The checks of the sections -/

/-- A check over the entries of a section, with the entries before. -/
def Img.over (b : Img) (code t : Nat) (f : List (Nat × Nat) → Nat → Nat → Option Nat) : Chk :=
  let es := b.ents t
  es.findSome? (fun e => (f (es.take e.1) e.1 e.2).map (fun o => { code := code, sect := t, entry := e.1, off := o }))

/-- The head number of a binding record, if bound. -/
def Img.bindHead (b : Img) (o : Nat) : Option Nat := if b.u16 o = 0xFFFF then none else some (b.u16 o)

/-- R279 code 0x08: rings, heads and contexts absent from the grade (R3). -/
def Img.badGrade (b : Img) (rings ctxs : Nat) : Chk :=
  checkAll [
    b.over 8 1 (fun _ _ o => firstBad [(decide (b.u8 o ≥ rings), o)]),
    b.over 8 2 (fun _ _ o => firstBad [(decide (b.u8 (o + 8) ≥ rings), o + 8)]),
    b.over 8 3 (fun _ _ o => firstBad ((List.range 3).map (fun j =>
      (b.u8 (o + 4 + j) != 255 && decide (b.u8 (o + 4 + j) ≥ ctxs), o + 4 + j)))),
    b.over 8 4 (fun _ _ o => firstBad ((decide (b.u8 o ≥ ctxs), o) :: (List.range 8).map (fun i =>
      (match b.bindHead (o + 0x30 + 136 * i) with | none => false | some h => decide (h ≥ 128 * rings), o + 0x30 + 136 * i)))),
    b.over 8 5 (fun _ _ o => firstBad ((List.range (min 16 (b.u8 (o + 1)))).map (fun j =>
      (decide (b.u16 (o + 0x10 + 4 * j) ≥ ctxs), o + 0x10 + 4 * j)))),
    b.over 8 6 (fun _ i o => firstBad [(decide (i < 16) && b.u8 (o + 3) / 64 == 1 && decide (b.u8 (o + 1) ≥ ctxs), o + 1)]),
    b.over 8 7 (fun _ _ o => firstBad [(decide (b.u8 o ≥ rings), o)])]

/-- A word holds an n-bit value, sign-extended. -/
def signExt (n v : Nat) : Bool := v == toU 32 (sgn n v)

/-- R279 code 0x09. -/
def Img.badRing (b : Img) : Chk :=
  b.over 9 1 (fun prev _ o =>
    let n := b.u8 (o + 1) + 3
    let sh := (List.range 5).map (fun j => b.u8 (o + 4 + j))
    firstBad ([
      (prev.any (fun q => b.u8 q.2 == b.u8 o), o), (decide (n > 5), o + 1), (decide (b.u8 (o + 2) > 3), o + 2),
      (!b.zero (o + 3) 1, o + 3)] ++
      (List.range 5).map (fun j => (decide (sh.getD j 0 > 15) || (decide (j ≥ n) && sh.getD j 0 != 0), o + 4 + j)) ++
      [(decide (sh.foldl (· + ·) 0 > 28), o + 4), (!b.zero (o + 9) 3, o + 9), (b.u32 (o + 0xC) / 16 != 0, o + 0xC)] ++
      (List.range 16).map (fun j => (!signExt 20 (b.u32 (o + 0x10 + 4 * j)), o + 0x10 + 4 * j)) ++
      [(!b.zero (o + 0x50) 16, o + 0x50)]))

/-- The ring numbers declared. -/
def Img.ringNos (b : Img) : List Nat := (b.ents 1).map (fun e => b.u8 e.2)

/-- R106: gain steps of a detector. -/
def gainSteps (typ : Nat) (d : Bool) : Nat := if typ = 1 && !d then 4 else 2

/-- R279 code 0x0A. -/
def Img.badHead (b : Img) : Chk :=
  let rings := b.ringNos
  b.over 0xA 2 (fun prev _ o =>
    let ty := b.u8 (o + 0xA)
    firstBad [
      (prev.any (fun q => b.u64 q.2 == b.u64 o), o), (!rings.contains (b.u8 (o + 8)), o + 8),
      (decide (b.u8 (o + 9) > 127) || prev.any (fun q => b.u16 (q.2 + 8) == b.u16 (o + 8)), o + 9),
      (ty != 1 && ty != 2, o + 0xA),
      (decide (b.u8 (o + 0xB) / 16 ≥ gainSteps ty false) || decide (b.u8 (o + 0xB) % 16 ≥ gainSteps ty true), o + 0xB),
      (BitVec.ofNat 32 (b.u32 (o + 0xC)) &&& 0xF000F000 != 0, o + 0xC),
      (BitVec.ofNat 32 (b.u32 (o + 0x10)) &&& 0xF000F000 != 0, o + 0x10), (!b.zero (o + 0x14) 4, o + 0x14)])

/-- The settings codes (N, M) of a declared ring. -/
def Img.ringNM (b : Img) (r : Nat) : Option (Nat × Nat) :=
  ((b.ents 1).find? (fun e => b.u8 e.2 == r)).map (fun e => (b.u8 (e.2 + 1), b.u8 (e.2 + 2)))

/-- The heads that a context entry binds in the given slots. -/
def Img.boundIn (b : Img) (o : Nat) (slots : List Nat) : List Nat := slots.filterMap (fun i => b.bindHead (o + 0x30 + 136 * i))

/-- R153, third case: the rings that feed a group differ in N or in M. -/
def Img.mixedGroup (b : Img) (g : Nat) : Bool :=
  let nms := (((b.ents 4).filter (fun e => b.u8 (e.2 + 2) == g)).flatMap (fun e => b.boundIn e.2 (List.range 8))).filterMap
    (fun h => b.ringNM (h / 128))
  match nms with
  | [] => false
  | x :: rest => rest.any (fun y => y != x)

/-- R279 code 0x0B (R153). -/
def Img.badGroup (b : Img) : Chk :=
  let ctxOf := fun c => (b.ents 4).find? (fun e => b.u8 e.2 == c)
  checkAll [
    b.over 0xB 3 (fun prev _ o =>
      let g := b.u8 o
      let badRef := fun j =>
        let c := b.u8 (o + 4 + j)
        if c = 255 then j == 0
        else match ctxOf c with
          | none => true
          | some e => b.u8 (e.2 + 2) != g || (b.boundIn e.2 [0, 1, 2, 3]).isEmpty
      firstBad ([
        (decide (g > 15) || prev.any (fun q => b.u8 q.2 == g), o), (decide (b.u8 (o + 1) > 1), o + 1),
        (b.u8 (o + 2) != (if b.u8 (o + 1) = 1 then 12 else 10), o + 2),
        (decide (b.u8 (o + 3) < 1) || decide (b.u8 (o + 3) > 64), o + 3)] ++
        (List.range 3).map (fun j => (badRef j, o + 4 + j)) ++
        [(!b.zero (o + 7) 1, o + 7), (b.u8 (o + 0xB) != 0, o + 8), (!b.zero (o + 0xC) 4, o + 0xC)] ++
        (List.range 1024).map (fun j => (!signExt 24 (b.u32 (o + 0x10 + 4 * j)), o + 0x10 + 4 * j)) ++
        [(b.mixedGroup g, o)])),
    b.over 0xB 4 (fun _ _ o => firstBad [(!(b.ents 3).any (fun e => b.u8 e.2 == b.u8 (o + 2)), o + 2)])]

/-- R174: the slots that a kind requires. -/
def requiredSlots (kind : Nat) : List Nat :=
  match kind with
  | 1 => [0, 4]
  | 2 => [0, 1, 4, 5]
  | 3 => [0, 1, 2, 4, 6]
  | _ => [0, 1, 2, 4, 5, 6]

/-- R277: the first failing field of a bound record of slot i, whose head has this type. -/
def Img.badRecord (b : Img) (ro typ : Nat) : Option Nat :=
  firstBad ([(decide (b.u16 (ro + 2) > 1), ro + 2), (!b.zero (ro + 4) 4, ro + 4)] ++
    (List.range 16).flatMap (fun k =>
      let o := ro + 8 + 8 * k
      let has := decide (k / 2 % 4 < gainSteps typ (decide (k ≥ 8)))
      [(has && b.u32 o == 0, o), (!has && !b.zero o 8, o), (decide (b.u8 (o + 4) > 63), o + 4), (!b.zero (o + 5) 3, o + 5)]))

/-- R279 code 0x0C (R108, R174). -/
def Img.badContext (b : Img) : Chk :=
  let types := (b.ents 2).map (fun e => (128 * b.u8 (e.2 + 8) + b.u8 (e.2 + 9), b.u8 (e.2 + 0xA)))
  b.over 0xC 4 (fun prev _ o =>
    let kind := b.u8 (o + 1)
    let rec_ := fun i => o + 0x30 + 136 * i
    let badSlot := fun i =>
      match b.bindHead (rec_ i) with
      | none =>
        firstBad [(!b.zero (rec_ i + 2) 134, rec_ i + 2), ((requiredSlots kind).contains i, rec_ i)]
      | some h =>
        match types.find? (fun e => e.1 == h) with
        | none => some (rec_ i)
        | some (_, ty) =>
          if (b.boundIn o (List.range i)).contains h || (ty == 1) != decide (i ≥ 4) || (kind == 3 && i == 3) then some (rec_ i)
          else b.badRecord (rec_ i) ty
    match firstBad [
        (prev.any (fun q => b.u8 q.2 == b.u8 o), o), (decide (kind < 1) || decide (kind > 4), o + 1), (decide (b.u8 (o + 3) > 2), o + 3),
        (BitVec.ofNat 32 (b.u32 (o + 0xC)) &&& 0x3FFFFF80 != 0, o + 0xC), (b.u8 (o + 0x14) % 16 != 0, o + 0x14),
        (!b.zero (o + 0x1A) 2, o + 0x1A), (!b.zero (o + 0x24) 12, o + 0x24)] with
    | some e => some e
    | none => (List.range 8).findSome? badSlot)

/-- R279 code 0x0D (R195). -/
def Img.badKey (b : Img) : Chk :=
  b.over 0xD 4 (fun prev _ o => firstBad [(b.u32 (o + 4) != 0 && prev.any (fun q => b.u32 (q.2 + 4) == b.u32 (o + 4)), o + 4)])

/-- R279 code 0x0E. -/
def Img.badBalance (b : Img) : Chk :=
  b.over 0xE 5 (fun prev _ o =>
    let n := b.u8 (o + 1)
    let ctxOf := fun c => (b.ents 4).find? (fun e => b.u8 e.2 == c)
    let grp := fun j => (ctxOf (b.u16 (o + 0x10 + 4 * j))).map (fun e => b.u8 (e.2 + 2))
    let term := fun j =>
      let t := o + 0x10 + 4 * j
      let slot := b.u8 (t + 2)
      if j < n then
        match ctxOf (b.u16 t) with
        | none => firstBad [(true, t)]
        | some e => firstBad [
            (grp j != grp 0, t),
            (decide (slot < 4) || decide (slot > 7) || (b.bindHead (e.2 + 0x30 + 136 * slot)).isNone, t + 2),
            (decide (b.u8 (t + 3) > 1), t + 3)]
      else firstBad [(!b.zero t 4, t)]
    match firstBad [
        (decide (b.u8 o > 63) || prev.any (fun q => b.u8 q.2 == b.u8 o), o), (decide (n < 1) || decide (n > 16), o + 1),
        (!b.zero (o + 2) 2, o + 2), (!b.zero (o + 0xA) 6, o + 0xA)] with
    | some e => some e
    | none => (List.range 16).findSome? term)

/-- R279 code 0x0F (R200). -/
def Img.badPulse (b : Img) : Chk :=
  b.over 0xF 6 (fun _ i o =>
    let cfg := BitVec.ofNat 32 (b.u32 o)
    let mode := bits cfg 31 30
    let wt := b.u64 (o + 4)
    if i < 16 then
      let kind := ((b.ents 4).find? (fun e => b.u8 e.2 == bits cfg 15 8)).map (fun e => b.u8 (e.2 + 1))
      let one := mode == 1
      firstBad [
        (cfg &&& 0x1F0000FF != 0, o), (one && kind.isNone, o + 1),
        (one && (match kind with | none => false | some k => !accExists k (bits cfg 23 16)), o + 2), (mode == 2, o + 3),
        (wt == 0 || decide (wt ≥ 2 ^ 40), o + 4),
        (decide (b.u16 (o + 0xC) < 2) || decide (b.u16 (o + 0xC) > 50000), o + 0xC), (!b.zero (o + 0xE) 2, o + 0xE)]
    else
      firstBad [(cfg &&& 0x000FFF00 != 0, o), (decide (wt ≥ 2 ^ 40), o + 4), (!b.zero (o + 0xC) 4, o + 0xC)])

/-- R279 code 0x10 (R235). -/
def Img.badRoster (b : Img) : Chk :=
  match b.sec 7 with
  | none => none
  | some (po, _) =>
    let pre := firstBad [
      (!(b.ents 3).any (fun e => b.u8 e.2 == b.u8 po), po), (b.u8 (po + 1) == 0, po + 1), (!b.zero (po + 2) 6, po + 2)]
    let rings := b.ringNos
    checkAll [pre.map (fun o => { code := 0x10, sect := 7, off := o }),
      b.over 0x10 7 (fun prev _ o => firstBad ([
        (!rings.contains (b.u8 o), o), (prev.any (fun q => b.u16 q.2 == b.u16 o), o + 1), (!b.zero (o + 2) 6, o + 2)] ++
        (List.range 4).flatMap (fun g => [(decide (b.u8 (o + 12 + 8 * g) > 63), o + 12 + 8 * g), (!b.zero (o + 13 + 8 * g) 3, o + 13 + 8 * g)])))]

/-- R279 code 0x11. -/
def Img.badBudget (b : Img) : Chk :=
  b.over 0x11 8 (fun prev i o =>
    let sum := fun f => ((prev.map (fun q => f q.2)) ++ [f o]).foldl (· + ·) 0
    firstBad [
      (b.u8 o != i, o), (!b.zero (o + 1) 1, o + 1), (decide (sum (fun q => b.u16 (q + 2)) > 256), o + 2),
      (decide (sum (fun q => b.u16 (q + 4)) > 256), o + 4), (!b.zero (o + 6) 10, o + 6)])

/-! ## The plan of a valid image -/

/-- A coefficient word as its value. -/
def Img.s32 (b : Img) (o : Nat) : Int := sgn 32 (b.u32 o)

/-- A scale pair. -/
def Img.pairAt (b : Img) (o : Nat) : Nat × Nat := (b.u32 o, b.u8 (o + 4))

/-- STC_CFG.DECIM's values. -/
def decimOf (code : Nat) : Nat := match code with | 0 => 6 | 1 => 8 | 2 => 12 | _ => 16

/-- R277: a binding record. -/
def Img.bindAt (b : Img) (o : Nat) : PlanBind :=
  match b.bindHead o with
  | none => {}
  | some h => { head := some h, sign := b.u8 (o + 2) % 2 == 1, scale := (List.range 16).map (fun k => b.pairAt (o + 8 + 8 * k)) }

/-- R273 to R278: the plan. -/
def Img.plan (b : Img) : Plan :=
  { id := BitVec.ofNat 32 (b.u32 0xC)
    version := b.u32 0x10
    rings := (b.ents 1).map (fun e =>
      { ring := b.u8 e.2, swing := b.u8 (e.2 + 0xC)
        cfg := { n := b.u8 (e.2 + 1) + 3, m := decimOf (b.u8 (e.2 + 2)), shifts := (List.range 5).map (fun j => b.u8 (e.2 + 4 + j))
                 comp := (List.range 16).map (fun j => b.s32 (e.2 + 0x10 + 4 * j)) } })
    heads := (b.ents 2).map (fun e =>
      { serial := BitVec.ofNat 64 (b.u64 e.2), ring := b.u8 (e.2 + 8), pos := b.u8 (e.2 + 9), typ := b.u8 (e.2 + 0xA)
        gainP := b.u8 (e.2 + 0xB) / 16, gainA := b.u8 (e.2 + 0xB) % 16
        trimP := BitVec.ofNat 32 (b.u32 (e.2 + 0xC)), trimA := BitVec.ofNat 32 (b.u32 (e.2 + 0x10)) })
    groups := (b.ents 3).map (fun e =>
      { g := b.u8 e.2, nom60 := b.u8 (e.2 + 1) == 1, w := b.u8 (e.2 + 2), l := b.u8 (e.2 + 3)
        refs := (List.range 3).map (fun j => b.u8 (e.2 + 4 + j)), ctrl := BitVec.ofNat 32 (b.u32 (e.2 + 8))
        bank := (List.range 1024).map (fun j => b.s32 (e.2 + 0x10 + 4 * j)) })
    ctxs := (b.ents 4).map (fun e =>
      { c := b.u8 e.2, kind := b.u8 (e.2 + 1), grp := b.u8 (e.2 + 2), hmax := b.u8 (e.2 + 3), key := b.u32 (e.2 + 4)
        il := b.u32 (e.2 + 8), evCfg := BitVec.ofNat 32 (b.u32 (e.2 + 0xC)), udin := b.u32 (e.2 + 0x10)
        evTh := BitVec.ofNat 32 (b.u32 (e.2 + 0x14)), disRel := b.u16 (e.2 + 0x18), disAbsV := b.u32 (e.2 + 0x1C)
        disAbsI := b.u32 (e.2 + 0x20), bind := (List.range 8).map (fun i => b.bindAt (e.2 + 0x30 + 136 * i)) })
    nodes := (b.ents 5).map (fun e =>
      { node := b.u8 e.2, tolAbs := b.u32 (e.2 + 4), tolRel := b.u16 (e.2 + 8)
        terms := (List.range (b.u8 (e.2 + 1))).map (fun j =>
          (b.u16 (e.2 + 0x10 + 4 * j), b.u8 (e.2 + 0x12 + 4 * j), b.u8 (e.2 + 0x13 + 4 * j) == 1)) })
    pulses := (b.ents 6).map (fun e => (BitVec.ofNat 32 (b.u32 e.2), b.u64 (e.2 + 4), b.u16 (e.2 + 0xC)))
    rosterGroup := match b.sec 7 with | none => 0 | some (o, _) => b.u8 o
    rosterDwell := match b.sec 7 with | none => 0 | some (o, _) => b.u8 (o + 1)
    roster := (b.ents 7).map (fun e =>
      { ring := b.u8 e.2, stream := b.u8 (e.2 + 1), scale := (List.range 4).map (fun g => b.pairAt (e.2 + 8 + 8 * g)) })
    budgets := match b.ents 8 with
      | [] => List.replicate 4 (64, 64)
      | l => l.map (fun e => (b.u16 (e.2 + 2), b.u16 (e.2 + 4))) }

/-- R279: what a validation needs to know: the source's limit, key slots, the least version, the grade and the engines not
retired. -/
structure PlanEnv where
  limit : Nat
  otp : Tab OtpSlot
  minver : Nat
  rings : Nat
  ctxs : Nat
  engines : Nat
  deriving DecidableEq, Repr

/-- R279: the checks made at load and at stage, in order, up to BUDGET. -/
def Img.check (b : Img) (v : PlanEnv) : Chk :=
  match b.badFrame v.limit with
  | some e => some e
  | none => match b.badTrust v.otp v.minver with
    | some e => some e
    | none => match b.badSection (b.u32 8) with
      | some e => some e
      | none => match b.badGrade v.rings v.ctxs with
        | some e => some e
        | none => checkAll [b.badRing, b.badHead, b.badGroup, b.badContext, b.badKey, b.badBalance, b.badPulse, b.badRoster, b.badBudget]

/-- R148: more rings than engines not retired; the fault is the COUNT of the RINGS section. -/
def Img.badRingCount (b : Img) (v : PlanEnv) : Chk :=
  match (List.range (b.u8 0x15)).find? (fun i => (b.secEnt i).1 == 1) with
  | none => none
  | some i => if (b.secEnt i).2.2.2 > v.engines then some { code := 0x23, entry := i, off := 0x80 + 16 * i + 8 } else none

/-! ## Checks against the plan in force (R279, rows marked Stage) -/

/-- The rings of both plans whose staircase settings differ. -/
def movedRings (old new : Plan) : List Nat :=
  (new.rings.filter (fun r => match old.ring? r.ring with | none => false | some o => o.cfg != r.cfg)).map (fun r => r.ring)

/-- The groups that a ring feeds in a plan. -/
def Plan.ringGrps (p : Plan) (r : Nat) : List Nat := (p.ctxs.filter (fun c => c.rings.contains r)).map (fun c => c.grp)

/-- The moved rings that feed group g in either plan. -/
def movedOf (old new : Plan) (g : Nat) : List Nat :=
  (movedRings old new).filter (fun r => (old.ringGrps r).contains g || (new.ringGrps r).contains g)

/-- The RINGS entry of ring r. -/
def Img.ringErr (b : Img) (code r : Nat) : Chk :=
  match (b.ents 1).find? (fun e => b.u8 e.2 == r) with
  | none => some { code := code, sect := 1 }
  | some e => some { code := code, sect := 1, entry := e.1, off := e.2 }

/-- The group with which ring r takes changed settings: the one that it feeds in the new plan, else in the old one. DESIGN CHOICE (log
entry 104): R290 names the group's rings, and no group of a ring that feeds one group before the swap and another after it. -/
def moveGroup (o n : Plan) (r : Nat) : Option Nat := ((n.ringGrps r) ++ (o.ringGrps r)).head?

/-- R289: T_sw of the group with which ring r takes changed settings, once it is known. -/
def State.switchAt (s : State) (r : Nat) : Option Nat :=
  match s.plan.st, s.plan.cur, s.plan.next with
  | .switching, some o, some n =>
    if (movedRings o n).contains r then
      (moveGroup o n r).bind (fun g => match s.plan.tsw.find? (fun e => e.1 == g) with
        | some e => some e.2
        | none => ((s.getGrp g).swapClose (s.winCycles g)).map (fun e => e.2))
    else none
  | _, _, _ => none

/-- R147: the engine whose new outputs of ring r count at τ (in half ticks): once T_sw of a settings move is known, the new one's from it
on. -/
def State.engCounts (s : State) (r : Nat) (tau2 : Int) : Option Nat :=
  match s.takerOf r, s.switchAt r with
  | some t, some w =>
    if (s.getEng t).from_.isSome && (s.getEng t).moveAt.isNone && decide (tau2 ≥ 2 * (w : Int)) then some t else s.engAt r tau2
  | _, _ => s.engAt r tau2

/-- R279 code 0x22: no spare engine, or fewer than one group's rings need. -/
def Img.badSpare (b : Img) (old new : Plan) (spares : Nat) : Chk :=
  match movedRings old new with
  | [] => none
  | r :: _ =>
    if spares = 0 then b.ringErr 0x22 r
    else match (new.groups ++ old.groups).find? (fun g => decide ((movedOf old new g.g).length > spares)) with
      | none => none
      | some g => match movedOf old new g.g with | [] => none | q :: _ => b.ringErr 0x22 q

/-- R279 code 0x24: a key of the plan in force with another kind, or in another group (R195). -/
def Img.badCarry (b : Img) (old : Plan) : Chk :=
  b.over 0x24 4 (fun _ _ o =>
    if b.u32 (o + 4) = 0 then none
    else match old.ctxs.find? (fun c => c.key == b.u32 (o + 4)) with
      | none => none
      | some c => firstBad [(c.kind != b.u8 (o + 1), o + 1), (c.grp != b.u8 (o + 2), o + 2)])

/-- R279 code 0x25: a head of a ring declared in both plans at another ring or position. -/
def Img.badMoveHead (b : Img) (old new : Plan) : Chk :=
  b.over 0x25 2 (fun _ _ o =>
    match old.heads.find? (fun h => h.serial == BitVec.ofNat 64 (b.u64 o)) with
    | none => none
    | some h =>
      let both := fun r => (old.ring? r).isSome && (new.ring? r).isSome
      if both h.ring || both (b.u8 (o + 8)) then
        firstBad [(h.ring != b.u8 (o + 8), o + 8), (h.pos != b.u8 (o + 9), o + 9)]
      else none)

/-- R279 code 0x26: a moved ring feeds contexts of more than one group in either plan. -/
def Img.badShared (b : Img) (old new : Plan) : Chk :=
  let many := fun (l : List Nat) => match l with | [] => false | g :: t => t.any (fun x => x != g)
  match (movedRings old new).find? (fun r => many (old.ringGrps r) || many (new.ringGrps r)) with
  | none => none
  | some r => b.ringErr 0x26 r

/-- R279 code 0x27. -/
def Img.badGroupChange (b : Img) (old : Plan) : Chk :=
  b.over 0x27 3 (fun _ _ o =>
    match old.grp? (b.u8 o) with
    | none => none
    | some g => firstBad [(g.nom60 != (b.u8 (o + 1) == 1), o + 1), (g.w != b.u8 (o + 2), o + 2)])

/-- R279: the checks at load. -/
def Img.loadCheck (b : Img) (v : PlanEnv) : Chk :=
  match b.check v with
  | some e => some e
  | none => b.badRingCount v

/-- R279: the checks at stage: those of load, and those against the plan in force, if there is one. -/
def Img.stageCheck (b : Img) (v : PlanEnv) (old : Option Plan) (spares : Nat) : Chk :=
  match b.check v with
  | some e => some e
  | none => match old with
    | none => b.badRingCount v
    | some o =>
      let n := b.plan
      checkAll [b.badSpare o n spares, b.badRingCount v, b.badCarry o, b.badMoveHead o n, b.badShared o n, b.badGroupChange o]

end Sys2Proof.Machine
end

