-- ==== Sys2Proof/Machine/Cal.lean ====
section
/-! DEFINITION. Chapter 14: calibration: trims (R335 to R337), commands and the outing queue (R338 to R341), head outings
(R342 to R346), endings (R349), the store (R350 to R352), images (R353, R354) and the calibration registers (R356); and the
cells of heads, whose corrections wait for a window close (R346). -/

namespace Sys2Proof.Machine

/-! ## Cells (R96, R121, R346) -/

/-- R346: a correction: a trim write that the PX-64 makes for an outing or a restore. -/
def Change.isCorrection (c : Change) : Bool :=
  (match c.asker with | .px => true | .host _ _ => false) && (c.reg == regTrimP || c.reg == regTrimA) && (c.src == 2 || c.src == 3)

/-- R155: the first window close of group g at or after an index that is already known. -/
def State.closeFrom (s : State) (gi a : Nat) : Option Nat :=
  let g := s.getGrp gi
  let next := match g.closeOf (s.winCycles gi) (g.closed + 1) with | none => [] | some t => [t]
  ((g.tw.filter (fun e => decide (e.1 > g.winBase))).map (fun e => e.2) ++ next).find? (fun t => decide (t ≥ a))

/-- R94, R122: the first frame from `frame` on in which no timed write to the register is pending, so that the head does not answer
BUSY and both changes apply in turn. -/
def Head.freeFrame (x : Head) (frame reg : Nat) : Nat :=
  if reg ≥ regReset then frame else ((x.timed.filter (fun c => c.reg == reg)).filterMap (fun c => c.at_)).foldl max frame

/-- R121, R123, R346: AT of a change that leaves in frame `frame`. A change of an outing waits while the partner is down; a
correction applies at a window close of the head's home group and waits until one is known. DESIGN CHOICE (log entry 122): a change of
the plan in force itself (R291) whose partner is down is neither refused nor delayed for it: its AT is formed as if the partner were up. -/
def State.atOf (s : State) (h frame : Nat) (c : Change) : Option Nat :=
  let x := s.getHead h
  let wait := match c.asker with
    | .px => c.isCorrection || (c.reg == regStim && c.value != 0)
    | .host _ _ => false
  if wait && x.partnerDown (changeDet x.stim c.reg c.value) then none
  else match changeAt (s.busyQ (h / 128)) frame x c with
    | none => none
    | some a =>
      if c.isCorrection then (match s.homeGrp h with | none => some a | some gi => s.closeFrom gi a)
      else some a

/-- The frame of ring r with this index, with a cell placed in it. -/
def Ring.placed (rg : Ring) (frame c : Nat) (chars : List Byte) : OutFrame :=
  let o : OutFrame := match rg.out with
    | some o => if o.frame = frame then o else { frame := frame, mode := rg.modeOf frame, wrap := rg.wraps frame }
    | none => { frame := frame, mode := rg.modeOf frame, wrap := rg.wraps frame }
  { o with cells := tset o.cells c chars }

/-- Cell c of frame `frame` carries a request of lane l, stamped with the next SEQ; `w` waits on in that lane. A broadcast waits for no
answer (R95). R105: the maker's mailbox shows SEQ and CCRC as sent. -/
def leaveCell (r l c frame : Nat) (w : List CellReq) (q : CellReq) (s : State) : State :=
  s.modRing r (fun rg =>
    let chars := stampCell rg.seq q.chars
    let fly : List CellFly := if q.use = .broadcast then [] else [{ req := { q with chars := chars }, frame := frame, seq := rg.seq }]
    { rg with
      seq := (rg.seq + 1) % 256
      out := some (rg.placed frame c chars)
      cmdCell := if q.use = .maker then BitVec.ofNat 256 (leNat chars) else rg.cmdCell
      cells := tmod {} (tmod {} rg.cells l (fun x => { x with waiting := w })) c (fun x => { x with fly := x.fly ++ fly }) })

/-- The first of the requests that wait in lane l that may leave in frame `frame` does so in cell c; `kept` are those before it, newest
first. A change takes its AT as it leaves (R121); it waits while one of its head is unanswered (R122) or a timed write to its register
is pending (R94). -/
def placeFrom (r l c frame : Nat) (kept : List CellReq) : List CellReq → State → State
  | [], s => s.modRing r (fun rg => { rg with cells := tmod {} rg.cells l (fun x => { x with waiting := kept.reverse }) })
  | q :: rest, s =>
    let go := fun (q : CellReq) (s : State) => leaveCell r l c frame (kept.reverse ++ rest) q s
    let later := placeFrom r l c frame (q :: kept) rest
    match q.use with
    | .enumRead _ | .assign _ | .delta _ | .waits _ _ _ | .modDelays _ | .settings _ | .broadcast | .health _ | .accRead _ | .maker => go q s
    | .change h off =>
      match s.nextChange h off with
      | none => placeFrom r l c frame kept rest s
      | some ch =>
        if (s.getHead h).changeOut || decide ((s.getHead h).freeFrame frame ch.reg > frame) then later s
        else match s.atOf h frame ch with
        | none => later s
        | some a =>
          -- R306: a reset of the stream alone needs no answer of the head
          if ch.reg ≥ regReset then
            placeFrom r l c frame kept rest (updNext h off (fun c => { c with at_ := some a, accepted := true }) s)
          else
            go { q with chars := cellChars (h % 128) 0x82 1 ch.reg a [ch.value] 0, reg := ch.reg, at_ := a }
              (updNext h off (fun c => { c with at_ := some a }) s)

/-- R96: lane l gives cell c of the frame that leaves now its first request that may leave. -/
def placeLane (r l c : Nat) (s : State) : State :=
  placeFrom r l c (s.now + lead) [] (tget {} (s.getRing r).cells l : CellLane).waiting s

/-- R96: cell c of the frame that leaves now is taken. -/
def State.cellTaken (s : State) (r c : Nat) : Bool :=
  match (s.getRing r).out with
  | none => false
  | some o => o.frame == s.now + lead && o.cells.any (fun e => e.1 == c)

/-- R96: the first waiting request of a cell is placed in the frame that leaves now, unless that frame's cell is taken. Cell 3 carries the
maker's request if there is one, else what waits for cell 2 (DESIGN CHOICE, log entry 84). -/
def placeCell (r c : Nat) (s : State) : State :=
  if s.cellTaken r c then s
  else
    let s := placeLane r c c s
    if c = 3 && !s.cellTaken r c then placeLane r 2 3 s else s

/-- R95: no copy of the oldest cell in flight carried a reply: it is repeated with a new SEQ in a later frame, up to 3 times. A
repeated change takes a new AT. -/
def cellSilent (r c : Nat) (s : State) : State :=
  match (tget {} (s.getRing r).cells c).fly with
  | [] => s
  | f :: rest =>
    let s := s.modRing r (fun rg => { rg with cells := tmod {} rg.cells c (fun l => { l with fly := rest }) })
    if f.req.tries ≥ 3 then cellExhausted r f s
    else
      let (chars, s) := match f.req.use with
        | .enumRead _ | .assign _ | .delta _ | .waits _ _ _ | .modDelays _ | .settings _ | .broadcast | .health _ | .accRead _ | .maker => (f.req.chars, s)
        | .change h off => ([], updSent h off f (fun c => some { c with at_ := none }) s)
      let lane := match f.req.use with
        | .change _ _ | .accRead _ => 2
        | .enumRead _ | .assign _ | .delta _ | .waits _ _ _ | .modDelays _ | .settings _ | .broadcast | .health _ | .maker => c
      s.modRing r (fun rg => { rg with cells := tmod {} rg.cells lane (fun l =>
        { l with waiting := { f.req with chars := chars, tries := f.req.tries + 1 } :: l.waiting }) })

/-- MAILBOX_CELL_SEND (R96). -/
def execMailboxCellSend (r : Fin 32) (cell : Fin 4) (s : State) : Out :=
  onLink r s (fun s =>
    match (s.getRing r).st with
    | .off | .shed => s
    | .train | .enum | .measure | .waits | .run | .wrap => placeCell r cell s)

/-- CELL_NO_REPLY (R95). -/
def execCellNoReply (r : Fin 32) (cell : Fin 4) (s : State) : Out := onLink r s (cellSilent r cell)

/-! ## Trims -/

/-- A trim word: OFFSET and GAIN (R335). -/
def trimOff (w : Word) : Int := sgn 12 (bits w 11 0)
/-- GAIN. -/
def trimGain (w : Word) : Int := sgn 12 (bits w 27 16)
/-- The word of an offset and a gain. -/
def trimWord (off gain : Int) : Word := packW [(toU 12 gain, 16), (toU 12 off, 0)]
/-- Both values lie in range. -/
def trimFits (v : Int × Int) : Bool := !outS 12 v.1 && !outS 12 v.2

/-- R114, R353: a trim word: OFFSET and GAIN, all other bits 0. -/
def trimBits (w : Word) : Word := w &&& 0x0FFF0FFF

/-- The trim in force of a detector. -/
def State.trimOf (s : State) (h : Nat) (d : Bool) : Word :=
  if d then BitVec.ofNat 32 (s.getHead h).trimA.toNat else BitVec.ofNat 32 (s.getHead h).trimP.toNat

/-- Source codes of head h. -/
def State.srcOf (s : State) (h : Nat) (d : Bool) : Nat := let q := tget (0, 0) s.cal.srcH h; if d then q.2 else q.1

/-- A trim comes into force at index `t`: value, source, and the end of neutral running. -/
def setTrim (h : Nat) (d : Bool) (w : Word) (src t : Nat) (s : State) : State :=
  let was := s.srcOf h d
  let s := s.modHead h (fun x => if d then { x with trimA := trimBits w } else { x with trimP := trimBits w })
  s.modCalIsl (fun c => { c with
    srcH := tmod (0, 0) c.srcH h (fun q => if d then (q.1, src) else (src, q.2))
    neutTo := if was = 1 && src != 1 then tset c.neutTo (2 * h + b2n d) t else c.neutTo })

/-- R190: on the PX-32H, some detector of a bound head ran with neutral trims in the window [a, b). -/
def State.uncalWin (s : State) (x : PlanCtx) (a b : Nat) : Bool :=
  s.glb.half && x.bound.any (fun i => match x.headOf i with
    | none => false
    | some h => [false, true].any (fun d =>
        (s.srcOf h d == 1 && ((s.getHead h).st == .admitted || decide ((s.getHead h).absAt > a)) &&
          (match (s.getHead h).a0 with | none => false | some t => decide (t < b))) ||
        decide (tget 0 s.cal.neutTo (2 * h + b2n d) > a)))

/-- R350: the store entry of a head takes a trim (PX-64F only). -/
def storeTrim (h : Nat) (d : Bool) (w : Word) (src : Nat) (s : State) : State :=
  if s.glb.half then s
  else
    let x := s.getHead h
    let base : CalEnt := match s.cal.store.find? (fun e => e.1 == h) with
      | some e => if e.2.ok && e.2.serial == x.serial then e.2
        else { serial := x.serial, trimP := x.trimP, trimA := x.trimA, srcP := s.srcOf h false, srcA := s.srcOf h true }
      | none => { serial := x.serial, trimP := x.trimP, trimA := x.trimA, srcP := s.srcOf h false, srcA := s.srcOf h true }
    let e : CalEnt :=
      if d then { base with serial := x.serial, trimA := trimBits w, srcA := src }
      else { base with serial := x.serial, trimP := trimBits w, srcP := src }
    s.modCalIsl (fun c => { c with store := tset c.store h e })

/-- R350: a local set's store entry. -/
def storeLocal (set_ : Nat) (w : Word) (src : Nat) (s : State) : State :=
  if s.glb.half then s
  else s.modCalIsl (fun c => { c with store := tset c.store (4096 + set_) { trimP := w, trimA := 0, srcP := src, srcA := 0 } })

/-- R351: local sets take their store entries when the analogue island starts, and neutral trims otherwise; an entry whose CRC fails is
logged once per start. -/
def startLocalTrims (s : State) : State :=
  let s := each (List.range 36) (fun s i => match s.cal.store.find? (fun e => e.1 == 4096 + i) with
    | some e => whenDo (!e.2.ok && !e.2.said) (fun s =>
        raise .calStoreBad i [] (s.modCalIsl (fun c => { c with store := tset c.store (4096 + i) { e.2 with said := true } }))) s
    | none => s) s
  s.modCalIsl (fun c => { c with
    trimL := (List.range 36).filterMap (fun i => match c.store.find? (fun e => e.1 == 4096 + i) with
      | some e => if e.2.ok then some (i, (e.2.trimP, e.2.srcP)) else none
      | none => none) })

/-- R337, R351: the trims and sources that a head takes at admission: its store entry's, else the neutral ones of the plan; an
entry whose CRC fails is logged once per start. -/
def admitTrims (h : Nat) (serial : BitVec 64) (ph : PlanHead) (s : State) : (Word × Word) × (Nat × Nat) × State :=
  let neutral := ((ph.trimP, ph.trimA), (1, 1))
  match s.cal.store.find? (fun e => e.1 == h) with
  | none => (neutral.1, neutral.2, s)
  | some e =>
    if s.glb.half then (neutral.1, neutral.2, s)
    else if !e.2.ok then
      let s := whenDo (!e.2.said) (fun s =>
        raise .calStoreBad h [] (s.modCalIsl (fun c => { c with store := tset c.store h { e.2 with said := true } }))) s
      (neutral.1, neutral.2, s)
    else if e.2.serial == serial then ((e.2.trimP, e.2.trimA), (e.2.srcP, e.2.srcA), s)
    else (neutral.1, neutral.2, s)

/-! ## The queue (R338 to R341) -/

/-- An outing slot holds an outing. -/
def CalQ.busy (q : CalQ) : Bool := q.st != .free
/-- It runs. -/
def CalQ.running (q : CalQ) : Bool := q.st == .waiting || q.st == .measuring || q.st == .applying

/-- The slot of an outing of a detector or a set. -/
def State.outingOf (s : State) (kind : Nat) (d : Bool) (idx : Nat) : Option Nat :=
  (List.range 16).find? (fun i =>
    let q := s.getCalQ i
    q.busy && q.kind == kind && q.index == idx && (kind == 2 || q.det == d))

/-- R349: take away the ON write that has not left and a correction not yet accepted. -/
def withdraw (h : Nat) (d : Bool) (s : State) : State :=
  let mine := fun (c : Change) => (match c.asker with | .px => true | .host _ _ => false) && changeDet 0 c.reg c.value == d &&
    ((c.reg == regStim && c.value != 0 && c.at_.isNone) || (c.isCorrection && c.src == 2 && !c.accepted))
  s.modHead h (fun x => { x with queue := x.queue.filter (fun c => !mine c), waiting := x.waiting.filter (fun c => !mine c) })

/-- R326: the conversion in progress is discarded and redone with the entry's full DELAY. -/
def Lc.redo (l : Lc) : Lc := { l with idle := (l.act.getD l.entry {}).delay }

/-- A running burst ends here: the converter is free of it. DESIGN CHOICE (log entry 124): a burst does not outlast its outing. -/
def Lc.noBurst (l : Lc) : Lc :=
  { l with
    now_ := (match l.now_ with | .burst _ => .seq | .seq => .seq | .inj i n => .inj i n)
    idle := (match l.now_ with | .burst _ => (l.redo).idle | .seq | .inj _ _ => l.idle)
    fly := l.fly.filter (fun c => c.burst.isNone), burstZero := [], burstRef := [], burstOvr := false }

/-- An outing ends with a result (R345, R349): its slot is free, and the calibration source is raised (R356). -/
def endOuting (i result : Nat) (s : State) : State :=
  let q := s.getCalQ i
  let s := whenDo (result != 0 && q.kind == 1) (withdraw q.index q.det) s
  let s := whenDo (result != 0 && q.kind == 2 && q.running) (fun s => s.modLcIsl (fun l => { (if q.st == .measuring then l.noBurst else l) with
    trimWait := if q.st == .applying then l.trimWait.filter (fun t => t.1 != q.index) else l.trimWait, burstAsk := none })) s
  let s := s.modCalQ i (fun q => { q with st := .free, result := result, apply := none, prop := none })
  let s := match result with
    | 0 => s
    | 1 => raise .calTimeout q.index [(1, b2n q.det), (1, q.passes)] s
    | 2 => raise .calRange q.index [] s
    | r => raise .calAbandoned q.index [(1, r)] s
  irqAll irqCal s

/-- R349: outings of a detector end with a result. -/
def endOutings (kind result : Nat) (d : Bool) (idx : Nat) (s : State) : State :=
  match s.outingOf kind d idx with
  | none => s
  | some i => endOuting i result s

/-- R349: at early warning every outing is ABORTED. -/
def abortOutings (s : State) : State := each (List.range 16) (fun s i => whenDo (s.getCalQ i).busy (endOuting i 5) s) s

/-- R339: the reason for which a request is refused, as CMD_RESULT. -/
def calRefused (kind : Nat) (d : Bool) (idx : Nat) (s : State) : Option Nat :=
  let x := s.getHead idx
  if kind = 1 && (idx ≥ s.headCount || x.st != .admitted) then some 1
  else if kind = 2 && idx > 35 then some 1
  else if kind = 1 && (if d then x.retA || !x.okA else x.retP || !x.okP) then some 4
  else if kind = 2 && s.lc.down then some 5
  else if (s.outingOf kind d idx).isSome then some 3
  else if (List.range 16).all (fun i => (s.getCalQ i).busy) then some 2
  else none

/-- CMD_RESULT. -/
def calResult (v : Nat) (s : State) : State := s.modCalIsl (fun c => { c with cmdResult := v })

/-- R339: an outing is asked for. -/
def calAsk (kind : Nat) (d : Bool) (idx : Nat) (s : State) : State :=
  match calRefused kind d idx s with
  | some e => calResult e s
  | none =>
    match (List.range 16).find? (fun i => !(s.getCalQ i).busy) with
    | none => s
    | some i =>
      let n := s.cal.order
      let s := s.modCalIsl (fun c => { c with order := n + 1, cmdResult := 0 })
      s.modCalQ i (fun q => { result := q.result, st := .queued, kind := kind, det := d, index := idx, order := n })

/-- R354: EXPORT and RESTORE. -/
def calImage (op : Nat) (s : State) : State :=
  if s.plan.st == .staging || s.cal.imgBusy || (op == 4 && (List.range 16).any (fun i => (s.getCalQ i).busy)) then calResult 6 s
  else s.modCalIsl (fun c => { c with cmdResult := 0, imgBusy := true, imgOp := op })

/-- R338, R349: CANCEL. -/
def calCancel (isLocal d : Bool) (idx : Nat) (s : State) : State :=
  match s.outingOf (if isLocal then 2 else 1) d idx with
  | none => calResult 8 s
  | some i => endOuting i 4 (calResult 0 s)

/-- R338: GO with the fields that CAL_CMD holds. -/
def calGo (s : State) : State :=
  let c := s.cal
  match c.op with
  | 1 => calAsk 1 c.det c.index s
  | 2 => calAsk 2 false c.index s
  | 3 => calImage 3 s
  | 4 => calImage 4 s
  | 5 => calCancel c.loc c.det c.index s
  | _ => s

/-! ## Head outings (R340, R342 to R346) -/

/-- R340: the outing's limits allow it to start. -/
def State.mayStart (s : State) (i : Nat) : Bool :=
  let q := s.getCalQ i
  let run := (List.range 16).filter (fun j => (s.getCalQ j).running)
  if q.kind = 2 then !run.any (fun j => (s.getCalQ j).kind == 2)
  else
    let heads := run.filter (fun j => (s.getCalQ j).kind == 1)
    decide (heads.length < 8) && !heads.any (fun j => (s.getCalQ j).index / 128 == q.index / 128)

/-- R342: the ON write of a pass. -/
def startPass (i : Nat) (s : State) : State :=
  let q := s.getCalQ i
  let s := s.modCalQ i (fun q => { q with st := .waiting, atOn := none, cnt := [0, 0, 0, 0], sum := [0, 0, 0, 0] })
  pushPx q.index { reg := regStim, value := if q.det then 2 else 1, asker := .px } s

/-- OUTING_START (R340): in the order in which outings were asked for, held back ones aside. -/
def execOutingStart (q : Fin 16) (s : State) : Out :=
  onStew s (fun s =>
    let x := s.getCalQ q
    let earlier := (List.range 16).any (fun j => (s.getCalQ j).st == .queued && decide ((s.getCalQ j).order < x.order) && s.mayStart j)
    if s.inWarning || x.st != .queued || !s.mayStart q || earlier then s
    else
      let tmo := if x.kind = 1 then 3840 * max 1 s.cal.headTmo else 384 * max 1 s.cal.localTmo
      let s := s.modCalQ q (fun c => { c with st := .waiting, startAt := s.now, tmo := tmo, passes := 0, prop := none })
      if x.kind = 1 then startPass q s else s.modLcIsl (fun l => { l with sinceBurst := 256, burstAsk := none }))

/-- R345: the correction of an outing has found no place in the head's queue. -/
def State.noPlace (s : State) (q : CalQ) : Bool :=
  q.kind == 1 && !(s.getHead q.index).queue.any (fun c => c.isCorrection && changeDet 0 c.reg c.value == q.det)

/-- OUTING_TIMEOUT (R345), and R349: a head ABSENT for longer than the timeout ends its outing with ABORTED. -/
def execOutingTimeout (q : Fin 16) (s : State) : Out :=
  onStew s (fun s =>
    let x := s.getCalQ q
    let h := s.getHead x.index
    let tmo := if x.st = .queued then 3840 * max 1 s.cal.headTmo else x.tmo
    if x.busy && x.kind == 1 && h.st == .absent && decide (s.now ≥ h.absAt + tmo) then endOuting q 5 s
    else if x.running && decide (s.now ≥ x.startAt + x.tmo) && (x.st != .applying || s.noPlace x) then endOuting q 1 s
    else s)

/-- R342: the stimulus of an outing has come on at `at_`. -/
def stimOn (h : Nat) (d : Bool) (at_ : Nat) (s : State) : State :=
  match s.outingOf 1 d h with
  | none => s
  | some i => s.modCalQ i (fun q => if q.st == .applying then q else { q with st := .measuring, atOn := some at_ })

/-- R342: the slot with which a stimulus came on has been delivered with CAL_SEL naming its detector: the OFF write follows, to apply at
AT_on + 6,144. -/
def stimSeen (h : Nat) (s : State) : State :=
  pushOff h { reg := regStim, value := 0, notBefore := (s.getHead h).stimAt + 6144, asker := .px } s

/-- R343: a sample of detector d of head h as the staircase takes it: clean, and at which gain step. -/
def calSample (h : Nat) (d : Bool) (n : Nat) (clean : Bool) (step : Nat) (s : State) : State :=
  match s.outingOf 1 d h with
  | none => s
  | some i => s.modCalQ i (fun q =>
      if !clean then { q with cleanFrom := n + 1 }
      else if q.step != some step then { q with cleanFrom := max q.cleanFrom n, step := some step } else q)

/-- A ratio with a positive divisor, rounded half to even. -/
def rneI (n d : Int) : Int := if d < 0 then rne (-n) d.natAbs else rne n d.natAbs

/-- R344, R348: new trims from mean zero a/b and mean reference c/d of the path, both over a gain gn/gd; `k` is the scale of
an offset step, `sc` of a gain step and `e` the expected reference. With no span there is no stated gain: it is left open. -/
def proposeTrim (old : Word) (a c : Int) (b d gn gd : Nat) (kn kd sc : Nat) (e : Nat) (s : State) : (Int × Int) × State :=
  let g := trimGain old
  let off := trimOff old - rneI (a * gd * kn * sc) ((b * gn * kd : Nat) * (sc + g))
  let sn := c * b - a * d
  if sn = 0 then
    let f := s.freeNext
    ((off, sgn 32 f.1.toNat), f.2)
  else ((off, rneI ((sc + g) * e * (b * d * gn : Nat)) (sn * gd) - sc), s)

/-- R345: the proposals of two consecutive valid measurements agree. -/
def agrees (p : Option (Int × Int)) (v : Int × Int) : Bool :=
  match p with
  | none => false
  | some o => decide ((o.1 - v.1).natAbs ≤ 1) && decide ((o.2 - v.2).natAbs ≤ 1)

/-- R343 to R346: a pass is over. -/
def endPass (i : Nat) (cfg : StairCfg) (s : State) : State :=
  let q := s.getCalQ i
  if !q.cnt.all (fun n => decide (n ≥ 64)) then startPass i s
  else
    let old := s.trimOf q.index q.det
    let at_ := fun (l : List Int) k => l.getD k 0
    let b := q.cnt.getD 0 0 + q.cnt.getD 2 0
    let d := q.cnt.getD 1 0 + q.cnt.getD 3 0
    let (v, s) := proposeTrim old (at_ q.sum 0 + at_ q.sum 2) (at_ q.sum 1 + at_ q.sum 3) b d
      (cfg.m ^ cfg.n) (2 ^ cfg.shifts.foldl (· + ·) 0) 1 16 65536 6291456 s
    let s := s.modCalQ i (fun q => { q with passes := satAdd 0x7F q.passes 1, prop := some v })
    if agrees q.prop v then
      if trimFits v then
        let w := trimWord v.1 v.2
        let s := s.modCalQ i (fun q => { q with st := .applying, apply := some w })
        pushPx q.index { reg := if q.det then regTrimA else regTrimP, value := w, asker := .px, src := 2 } s
      else endOuting i 2 s
    else startPass i s

/-- R343: a staircase output of detector d of head h under outing: counted, and the pass ends with its last one. -/
def calOutput (h : Nat) (d : Bool) (nlast : Nat) (val : Int) (cfg : StairCfg) (s : State) : State :=
  match s.outingOf 1 d h with
  | none => s
  | some i =>
    let q := s.getCalQ i
    match q.st, q.atOn with
    | .measuring, some a =>
      let span := cfg.n * (cfg.m - 1)
      let lo := nlast - span
      let j := (lo - a) / 1536
      let ok := decide (nlast ≥ a + span) && decide (nlast < a + 6144) && (nlast - a) / 1536 == j &&
        decide (lo ≥ a + 1536 * j + 128) && decide (lo ≥ q.cleanFrom)
      let s := whenDo ok (fun s => s.modCalQ i (fun q => { q with
        cnt := q.cnt.set j (q.cnt.getD j 0 + 1), sum := q.sum.set j (q.sum.getD j 0 + val) })) s
      if nlast + cfg.m ≥ a + 6144 then endPass i cfg s else s
    | _, _ => s

/-- R346: a trim change of the head has applied at index AT: an outing that asked for it is DONE. -/
def trimApplied (h : Nat) (c : Change) (at_ : Nat) (old : Word) (s : State) : State :=
  let d := c.reg == regTrimA
  match s.outingOf 1 d h with
  | none => s
  | some i =>
    let q := s.getCalQ i
    if c.isCorrection && q.st == .applying && c.src == 2 then
      endOuting i 0 (raise .calDone h [(4, old.toNat), (4, c.value.toNat), (8, at_), (1, q.passes)] s)
    else s

/-- R349: a host's write of a trim through its mailbox supersedes an outing of that detector. -/
def calSupersede (h reg : Nat) (s : State) : State :=
  if reg = regTrimP || reg = regTrimA then endOutings 1 3 (reg == regTrimA) h s else s

/-- The mailbox of a port, written by its own port (R126), and the outing that a trim write supersedes. -/
def accWriteCal (role p off : Nat) (v : Word) (s : State) : State :=
  let was := (s.getHeadAcc p).busy
  let s := accWrite role p off v s
  let a := s.getHeadAcc p
  if off = 0 && !was && a.busy && a.op = 2 then calSupersede a.head a.reg s else s

/-! ## Local corrections (R324, R348) -/

/-- A local trim waits for the wrap, or for the next slot boundary. -/
def queueLocal (set_ : Nat) (w : Word) (src : Nat) (s : State) : State :=
  s.modLcIsl (fun l => { l with trimWait := l.trimWait ++ [(set_, w, src)] })

/-- R347, R348: a burst's codes: zero and reference sums over 16 conversions each; a void burst proposes nothing. -/
def endBurst (zero ref : List Int) (void : Bool) (s : State) : State :=
  match (List.range 16).find? (fun i => (s.getCalQ i).kind == 2 && ((s.getCalQ i).st == .measuring || (s.getCalQ i).st == .waiting)) with
  | none => s
  | some i =>
    if void then s.modCalQ i (fun q => { q with st := .waiting })
    else
      let q := s.getCalQ i
      let old := (tget (0, 1) s.cal.trimL q.index).1
      let sum := fun (l : List Int) => l.foldl (· + ·) 0
      let (v, s) := proposeTrim old (sum zero) (sum ref) zero.length ref.length 1 1 4 1 131072 (if q.index < 24 then 51200 else 12800) s
      let s := s.modCalQ i (fun q => { q with st := .waiting, passes := satAdd 0x7F q.passes 1, prop := some v })
      if agrees q.prop v then
        if trimFits v then
          let w := trimWord v.1 v.2
          queueLocal q.index w 2 (s.modCalQ i (fun q => { q with st := .applying, apply := some w }))
        else endOuting i 2 s
      else s

/-- R324, R348, R350: the waiting local trims come into force. -/
def applyLocalTrims (s : State) : State :=
  let l := s.lc.trimWait
  let s := s.modLcIsl (fun l => { l with trimWait := [] })
  each l (fun s t =>
    let old := (tget (0, 1) s.cal.trimL t.1).1
    let s := s.modCalIsl (fun c => { c with trimL := tset c.trimL t.1 (t.2.1, t.2.2) })
    let s := storeLocal t.1 t.2.1 t.2.2 s
    match s.outingOf 2 false t.1 with
    | none => s
    | some i =>
      let q := s.getCalQ i
      if q.st == .applying && t.2.2 == 2 then
        endOuting i 0 (raise .calDone t.1 [(4, old.toNat), (4, t.2.1.toNat), (8, s.now), (1, q.passes)] s)
      else s) s

/-! ## Images (R353, R354) -/

/-- The offset of the image in G5. -/
def calImgBase : Nat := 0x60000

/-- R353, R354: the image of the trims in force. -/
def State.calImage (s : State) : List Byte :=
  let hs := (List.range s.headCount).filter (fun h => (s.getHead h).st == .admitted && !(s.srcOf h false == 1 && s.srcOf h true == 1))
  let ls := (List.range 36).filter (fun i => (tget (0, 1) s.cal.trimL i).2 != 1)
  let body := leBytes 4 0x494C4143 ++ leBytes 2 1 ++ leBytes 2 hs.length ++ leBytes 2 ls.length ++ leBytes 2 0 ++ leBytes 4 s.tb.epoch ++
    hs.flatMap (fun h => leBytes 8 (s.getHead h).serial.toNat ++ leBytes 4 (s.trimOf h false).toNat ++ leBytes 4 (s.trimOf h true).toNat) ++
    ls.flatMap (fun i => leBytes 4 i ++ leBytes 4 (tget (0, 1) s.cal.trimL i).1.toNat)
  body ++ leBytes 4 (crc32 body).toNat

/-- A trim word with nothing outside its fields. -/
def plainTrim (w : Nat) : Bool := BitVec.ofNat 32 w &&& 0xF000F000 == 0

/-- R353, R354: the image in G5 is valid. -/
def calImgOk (b : Img) (len : Nat) : Bool :=
  let nh := b.u16 6
  let nl := b.u16 8
  let body := b.part 0 (len - 4)
  b.u32 0 == 0x494C4143 && b.u16 4 == 1 && decide (nh ≤ 4096) && decide (nl ≤ 36) && b.u16 0xA == 0 &&
  len == 0x10 + 16 * nh + 8 * nl + 4 && b.u32 (len - 4) == (crc32 body).toNat &&
  (List.range nh).all (fun j => plainTrim (b.u32 (0x18 + 16 * j)) && plainTrim (b.u32 (0x1C + 16 * j))) &&
  (List.range nl).all (fun j => let o := 0x10 + 16 * nh + 8 * j
    decide (b.u8 o < 36) && b.zero (o + 1) 3 && plainTrim (b.u32 (o + 4)))

/-- R354: apply one head entry: matched by serial to an admitted head; each trim that differs is a correction. -/
def restoreHead (serial p a : Nat) (s : State) : State :=
  match (List.range s.headCount).find? (fun h => (s.getHead h).st == .admitted && (s.getHead h).serial.toNat == serial) with
  | none => s.modCalIsl (fun c => { c with unmatched := satAdd 0xFFFF c.unmatched 1 })
  | some h =>
    each [(false, p), (true, a)] (fun s e =>
      if (s.trimOf h e.1).toNat = e.2 then s
      else (pushPx h { reg := if e.1 then regTrimA else regTrimP, value := BitVec.ofNat 32 e.2, asker := .px, src := 3 } s).modCalIsl
        (fun c => { c with applied := satAdd 0xFFFF c.applied 1 })) s

/-- R354: read and apply the image. -/
def restoreImage (s : State) : State :=
  let len := s.cal.imgLen
  let b : Img := (mslice galDefault (s.getGal 5).mem calImgBase len).toArray
  -- R362: a word that reads as bad spoils the image
  let spoilt := !(s.badWords 5 calImgBase len).isEmpty
  let s := readRange 5 calImgBase len s
  if !calImgOk b len || spoilt then calResult 7 s
  else
    let nh := b.u16 6
    let s := s.modCalIsl (fun c => { c with unmatched := 0, applied := 0 })
    let s := each (List.range nh) (fun s j => restoreHead (b.u64 (0x10 + 16 * j)) (b.u32 (0x18 + 16 * j)) (b.u32 (0x1C + 16 * j)) s) s
    each (List.range (b.u16 8)) (fun s j =>
      let o := 0x10 + 16 * nh + 8 * j
      if (tget (0, 1) s.cal.trimL (b.u8 o)).1.toNat = b.u32 (o + 4) then s
      else (queueLocal (b.u8 o) (BitVec.ofNat 32 (b.u32 (o + 4))) 3 s).modCalIsl (fun c => { c with applied := satAdd 0xFFFF c.applied 1 })) s

/-- CAL_IMAGE_DONE (R354). -/
def execCalImageDone (s : State) : Out :=
  onStew s (fun s =>
    if !s.cal.imgBusy then s
    else
      let s := if s.cal.imgOp = 3 then
          let img := s.calImage
          (galPuts 5 calImgBase img s).modCalIsl (fun c => { c with imgLen := img.length })
        else restoreImage s
      irqAll irqCal (s.modCalIsl (fun c => { c with imgBusy := false })))

/-! ## Registers (R356) -/

/-- The code of CAL_Q.STATE. -/
def calStCode (st : CalSt) : Nat :=
  match st with
  | .free => 0
  | .queued => 1
  | .waiting => 2
  | .measuring => 3
  | .applying => 4

/-- A calibration register by offset from 0x1C_0000. -/
def calRead (s : State) (off : Nat) : Word :=
  let c := s.cal
  let n := fun (f : CalQ → Bool) => ((List.range 16).filter (fun i => f (s.getCalQ i))).length
  let trim := fun (src : Nat) (w : Word) => packW [(src, 28), (bits w 27 16, 16), (bits w 11 0, 0)]
  match off with
  | 0x00 => packW [(c.op, 28), (b2n c.det, 27), (b2n c.loc, 26), (c.index, 0)]
  | 0x04 => packW [(c.headTmo, 16), (c.localTmo, 0)]
  | 0x08 => packW [(b2n c.imgBusy, 31), (c.cmdResult, 27), (n CalQ.running, 8), (n (fun q => q.st == .queued), 0)]
  | 0x0C => packW [(c.imgLen, 0)]
  | 0x10 => packW [(c.unmatched, 16), (c.applied, 0)]
  | _ =>
    if 0x40 ≤ off && off < 0x80 then
      let q := s.getCalQ ((off - 0x40) / 4)
      packW [(calStCode q.st, 29), (q.result, 26), (q.kind, 24), (b2n q.det, 23), (q.passes, 16), (q.index, 0)]
    else if 0x400 ≤ off && off < 0x490 then
      let t := tget (0, 1) c.trimL ((off - 0x400) / 4)
      trim t.2 t.1
    else if 0x8000 ≤ off && off < 0x10000 then
      let h := (off - 0x8000) / 8
      let d := off % 8 == 4
      if (s.getHead h).st == .admitted then trim (s.srcOf h d) (s.trimOf h d) else 0
    else 0

/-- A write of a calibration register. -/
def calWrite (off : Nat) (v : Word) (s : State) : State :=
  match off with
  | 0x00 =>
    let s := s.modCalIsl (fun c => { c with op := bits v 30 28, det := bit v 27, loc := bit v 26, index := bits v 11 0 })
    if bit v 31 then calGo s else s
  | 0x04 => s.modCalIsl (fun c => { c with headTmo := bits v 31 16, localTmo := bits v 15 0 })
  | 0x0C => s.modCalIsl (fun c => { c with imgLen := bits v 16 0 })
  | _ => s

end Sys2Proof.Machine
end

