-- ==== Sys2Proof/Machine/Local.lean ====
section
/-! DEFINITION. Chapter 13: the local converter: slices (R314 to R316), codes and words (R317 to R319), the sequence (R320 to
R324), injected conversions (R325 to R327), calibration bursts (R328), results (R329 to R331), start-up (R332) and the
converter registers (R334). -/

namespace Sys2Proof.Machine

/-! ## Channels, entries, codes -/

/-- R317: the channel codes that are used. -/
def lcUsed (ch : Nat) : Bool := decide (ch < 0x18) || (decide (0x20 ≤ ch) && decide (ch ≤ 0x2C))

/-- R321: a bad entry. -/
def lcBad (ch : Nat) (diff : Bool) : Bool := !lcUsed ch || (diff && (decide (ch ≥ 0x18) || ch % 2 == 1))

/-- R321. -/
def LcEnt.bad (e : LcEnt) : Bool := lcBad e.chan e.diff

/-- R336: the trim set of a channel; internal channels have none. -/
def lcSet (ch : Nat) (diff : Bool) : Option Nat := if ch ≥ 0x18 then none else if diff then some (24 + ch / 2) else some ch

/-- The trim word in force for a conversion. -/
def State.lcTrim (s : State) (ch : Nat) (diff : Bool) : Word :=
  match lcSet ch diff with
  | none => 0
  | some i => (tget (0, 1) s.cal.trimL i).1

/-- R318, R335: the code of a conversion (`raw` in 2^-16 LSB) and whether it was clamped. -/
def lcCode (raw : Int) (trim : Word) (diff : Bool) : Int × Bool :=
  let c := rne ((raw + trimOff trim * 16384) * (131072 + trimGain trim)) (2 ^ 33)
  let v := if diff then clampI (-32768) 32767 c else clampI 0 65535 c
  (v, v != c)

/-- R319: the result word. -/
def lcWord (code : Int) (diff fmt align : Bool) : Word :=
  let v := if diff then code else if fmt then code - 32768 else code
  if align then BitVec.ofNat 32 (toU 16 v * 65536) else BitVec.ofInt 32 v

/-- R329: the tag. -/
def lcTag (c : LcConv) (ovr : Bool) : Word :=
  packW [(b2n c.inj, 31), (b2n c.first, 30), (b2n ovr, 29), (b2n c.stale, 28), (c.entry, 22), (c.ent.chan, 16), (b2n c.ent.diff, 15),
    (b2n c.ent.align, 14), (b2n c.ent.fmt, 13), (c.rep, 0)]

/-! ## The sequence (R320 to R324) -/

/-- The first good entry at or after index i. -/
def Lc.goodFrom (l : Lc) (i : Nat) : Option Nat := (List.range l.act.length).find? (fun j => decide (j ≥ i) && !(l.act.getD j {}).bad)

/-- R321: the active table has a good entry. -/
def Lc.anyGood (l : Lc) : Bool := (l.goodFrom 0).isSome

/-- R322: the shadow table and LEN replace the active table. -/
def Lc.commit (l : Lc) : Lc :=
  let t := (List.range (l.shadowLen + 1)).map (fun i => tget {} l.shadow i)
  { l with act := t, commitPending := false, badEntry := l.badEntry || t.any LcEnt.bad }

/-- The sequence is at the first slot of entry i, repeat 1. -/
def Lc.enter (l : Lc) (i : Nat) : Lc := { l with entry := i, rep := 0, idle := (l.act.getD i {}).delay }

/-- R314: the active slice whose turn the slot is. -/
def Lc.slice (l : Lc) : Nat := l.pos.getD l.turn 0

/-- What applies at a slot boundary, whatever holds the converter: a commit and trims while no pass runs (R321, R322, R324), and the start
and stop of the sequence (R323). -/
def lcBoundary (s : State) : State :=
  let idle := !s.lc.run || !s.lc.anyGood
  let s := if idle then applyLocalTrims (s.modLcIsl (fun l => if l.commitPending then l.commit else l)) else s
  s.modLcIsl (fun l =>
    if !l.run || !l.anyGood || l.down then { l with running := false, stopped := false }
    else if (!l.running || l.stopped) && l.ready then
      { (l.enter ((l.goodFrom 0).getD 0)) with running := true, stopped := false, firstRes := true }
    else { l with stopped := false })

/-- R320, R322: a pass wraps: it is counted, a commit and waiting trims take effect, and the next pass begins. -/
def lcWrap (s : State) : State :=
  let s := applyLocalTrims (s.modLcIsl (fun l =>
    let l := { l with passes := (l.passes + 1) % 2 ^ 32, firstRes := true }
    if l.commitPending then l.commit else l))
  s.modLcIsl (fun l => match l.goodFrom 0 with
    | some i => l.enter i
    | none => { l with running := false, entry := 0, rep := 0, idle := 0 })

/-- R329: the sample index of a result, which the analogue island knows to within 1 tick: which of the three is left open
(log entry 10). -/
def lcIndex (s : State) : Nat × State :=
  let f := s.freeNext
  (s.now + f.1.toNat % 3 - 1, f.2)

/-- A conversion is sampled: its result is due 8 CCLK later (R314). -/
def lcSample (raw : Int) (inj : Bool) (entry rep : Nat) (ent : LcEnt) (burst : Option Bool) (trim : Word) (s : State) : State :=
  let (idx, s) := lcIndex s
  s.modLcIsl (fun l => { l with
    fly := l.fly ++ [{ slice := l.slice, wait := 8, raw := raw, inj := inj, first := !inj && burst.isNone && l.firstRes, stale := l.stale, entry := entry
                       rep := rep, ent := ent, idx := idx, trim := trim, burst := burst }]
    firstRes := if inj || burst.isSome then l.firstRes else false })

/-- R325, R328: the injected slot to serve next. -/
def Lc.nextInj (l : Lc) : Option Nat :=
  (List.range 4).find? (fun i =>
    (tget {} l.inj i).pending && !l.fly.any (fun c => c.inj && c.entry == i) &&
      (match l.burstAsk with | none => true | some q => q.contains i))

/-- R328: a burst that was asked for can begin: every request that was pending then has been delivered. -/
def Lc.burstReady (l : Lc) : Bool := l.burstAsk == some []

/-- R323, R326, R328: the sequence conversion in progress at the boundary that ends this slot is cut: by an injected request, a burst or a
stop. One whose tracking slot ends there is not sampled (DEDUCED for the stop, log entry 108). -/
def Lc.cut (l : Lc) : Bool := l.burstReady || l.nextInj.isSome || l.stopped || !l.run

/-- One slot of the sequence: an idle slot, or the tracking slot of a conversion (R320). -/
def lcSeqSlot (raw : Int) (s : State) : State :=
  let l := s.lc
  if !l.running then s
  else if 0 < l.idle then s.modLcIsl (fun l => { l with idle := l.idle - 1 })
  else if l.cut then s
  else
    let e := l.act.getD l.entry {}
    let s := lcSample raw false l.entry l.rep e none (s.lcTrim e.chan e.diff) s
    if l.rep < e.repeat_ then s.modLcIsl (fun l => { l.redo with rep := l.rep + 1 })
    else match l.goodFrom (l.entry + 1) with
      | some i => s.modLcIsl (fun l => l.enter i)
      | none => lcWrap s

/-! ## Injected conversions and bursts (R325 to R328) -/

/-- One slot of the injected conversion of slot i with `left` idle slots to go (R326). -/
def lcInjSlot (raw : Int) (i left : Nat) (s : State) : State :=
  if 0 < left then s.modLcIsl (fun l => { l with now_ := .inj i (left - 1) })
  else
    let q := s.getInj i
    let e : LcEnt := { chan := q.chan, diff := q.diff, align := q.align, fmt := q.fmt, delay := q.delay }
    (lcSample raw true i 0 e none (s.lcTrim q.chan q.diff) s).modLcIsl (fun l => { l.redo with now_ := .seq })

/-- R347: one slot of a burst with `left` slots to go, this one included. -/
def lcBurstSlot (raw : Int) (left : Nat) (s : State) : State :=
  let i := 48 - left
  let set_ := ((List.range 16).find? (fun j => (s.getCalQ j).kind == 2 && (s.getCalQ j).running)).map (fun j => (s.getCalQ j).index)
  let trim := match set_ with | none => 0 | some k => (tget (0, 1) s.cal.trimL k).1
  let e : LcEnt := { diff := match set_ with | none => false | some k => decide (k ≥ 24) }
  let s := if 8 ≤ i && i < 24 then lcSample raw false 0 0 e (some false) trim s
    else if 32 ≤ i && i < 48 then lcSample raw false 0 0 e (some true) trim s else s
  s.modLcIsl (fun l => if left ≤ 1 then { l.redo with now_ := .seq, sinceBurst := 0 } else { l with now_ := .burst (left - 1) })

/-- A local outing whose burst begins is measuring. -/
def lcMeasuring (s : State) : State :=
  each (List.range 16) (fun s i =>
    if (s.getCalQ i).kind == 2 && (s.getCalQ i).st == .waiting then s.modCalQ i (fun q => { q with st := .measuring }) else s) s

/-- The slot of whatever holds the converter; R328: slots of sequence or injected work are counted from burst to burst. -/
def lcSlotWork (raw : Int) (s : State) : State :=
  let work := fun (s : State) => s.modLcIsl (fun l => { l with sinceBurst := l.sinceBurst + 1 })
  match s.lc.now_ with
  | .burst left => lcBurstSlot raw left s
  | .inj i left => lcInjSlot raw i left (work s)
  | .seq => lcSeqSlot raw (whenDo s.lc.running work s)

/-- R326, R328: what holds the converter from a slot boundary on; the sequence conversion in progress is discarded and redone. -/
def lcHolder (s : State) : State :=
  let l := s.lc
  match l.now_ with
  | .burst _ | .inj _ _ => s
  | .seq =>
    if !l.ready || l.down then s
    else if l.burstReady then
      lcMeasuring (s.modLcIsl (fun l => { l.redo with now_ := .burst 48, burstAsk := none, burstZero := [], burstRef := [], burstOvr := false }))
    else match l.nextInj with
      | some i => s.modLcIsl (fun l => { l.redo with now_ := .inj i (tget {} l.inj i).delay })
      | none => s

/-- R314, R315: a CCLK passes: conversions come nearer to their delivery, the next slice has its turn, and the rotation comes nearer. -/
def lcClock (l : Lc) : Lc :=
  { l with fly := l.fly.map (fun c => { c with wait := c.wait - 1 }), turn := (l.turn + 1) % 8, sinceRot := l.sinceRot + 1 }

/-- LC_SLOT (R314): one CCLK slot of whatever holds the converter, and the decisions of the slot boundary that ends it. -/
def execLcSlot (raw : Int) (s : State) : Out :=
  onIsl islAnalog s (fun s =>
    let s := whenDo (!s.lc.down && s.lc.ready) (lcSlotWork raw) (s.modLcIsl lcClock)
    lcHolder (lcBoundary s))

/-- LC_CAL_BURST (R328): a running local outing asks for a burst, 256 slots after the last one or later; the requests pending now are
served first. -/
def execLcCalBurst (s : State) : Out :=
  onIsl islAnalog s (fun s =>
    let asks := (List.range 16).any (fun i => (s.getCalQ i).kind == 2 && (s.getCalQ i).st == .waiting)
    let busy := match s.lc.now_ with | .burst _ => true | .seq | .inj _ _ => false
    if !asks || s.lc.down || busy || decide (s.lc.sinceBurst < 256) || s.lc.burstAsk.isSome || s.lc.fly.any (fun c => c.burst.isSome) then s
    else s.modLcIsl (fun l => { l with burstAsk := some ((List.range 4).filter (fun i => (tget {} l.inj i).pending)) }))

/-! ## Results (R329 to R331) -/

/-- R331: a result for the FIFO. -/
def lcPush (w tag : Word) (idx : Nat) (s : State) : State :=
  if s.lc.fifo.length ≥ 1024 then
    let due := match s.lc.fifoLogAt with | none => true | some t => decide (s.now ≥ t + 384000)
    let s := s.modLcIsl (fun l => { l with ovf := true, lost := satAdd 0xFFFF l.lost 1, fifoLogAt := if due then some s.now else l.fifoLogAt })
    whenDo due (raise .lcFifoOverflow 0 []) s
  else s.modLcIsl (fun l => { l with fifo := l.fifo ++ [(w, tag, idx)] })

/-- An injected slot ends: DONE is set and PENDING cleared. -/
def lcInjEnd (i result : Nat) (s : State) : State :=
  (s.modInj i (fun q => { q with pending := false, done := true, result := result })).modLcIsl
    (fun l => { l with burstAsk := l.burstAsk.map (fun q => q.filter (fun j => j != i)) })

/-- R330: deliver a result. -/
def lcDeliver (c : LcConv) (s : State) : State :=
  let (code, ovr) := lcCode c.raw c.trim c.ent.diff
  match c.burst with
  | some r =>
    let s := s.modLcIsl (fun l => { l with
      burstZero := if r then l.burstZero else l.burstZero ++ [code]
      burstRef := if r then l.burstRef ++ [code] else l.burstRef, burstOvr := l.burstOvr || ovr })
    if s.lc.burstRef.length ≥ 16 then
      let l := s.lc
      endBurst l.burstZero l.burstRef l.burstOvr (s.modLcIsl (fun l => { l with burstZero := [], burstRef := [], burstOvr := false }))
    else s
  | none =>
    let w := lcWord code c.ent.diff c.ent.fmt c.ent.align
    let tag := lcTag c ovr
    let s := s.modLcIsl (fun l => { l with last := tset l.last c.ent.chan w })
    if c.inj then lcInjEnd c.entry 0 (s.modInj c.entry (fun q => { q with res := w, tag := tag, idx := c.idx }))
    else if c.ent.fifo then lcPush w tag c.idx s else s

/-- LC_RESULT (R330): the oldest conversion is delivered once its 8 CCLK are over. -/
def execLcResult (s : State) : Out :=
  onIsl islAnalog s (fun s =>
    match s.lc.fly with
    | [] => s
    | c :: rest => if c.wait = 0 then lcDeliver c (s.modLcIsl (fun l => { l with fly := rest })) else s)

/-! ## Slices (R315, R316) -/

/-- R316: the converter stops: pending injected conversions are abandoned, and a local outing is ABORTED (R349). -/
def lcDown (s : State) : State :=
  let s := s.modLcIsl (fun l => { l with
    down := true, running := false, now_ := .seq, burstAsk := none, fly := l.fly.filter (fun c => !c.inj && c.burst.isNone) })
  let s := each (List.range 4) (fun s i => whenDo (s.getInj i).pending (lcInjEnd i 2) s) s
  let s := each (List.range 16) (fun s i => whenDo ((s.getCalQ i).busy && (s.getCalQ i).kind == 2) (endOuting i 5) s) s
  raise .lcDown 0 [] s

/-- R316: slice i fails: the spare, if it is another slice, takes its slot position for good. -/
def Lc.failSlice (l : Lc) (i : Nat) : Lc :=
  let sub := match l.spare with | none => i | some sp => sp
  { l with
    failed := l.failed ||| 2 ^ i, spare := none, stale := true
    pos := l.pos.map (fun a => if a = i then sub else a)
    ages := l.ages.filter (fun a => a != i) ++ (if l.ages.contains i && sub != i then [sub] else []) }

/-- R316: a slice fails; the second one stops the converter. -/
def lcFail (slice : Nat) (s : State) : State :=
  let s := raise .lcSliceFail slice [] s
  let second := s.lc.stale
  let s := s.modLcIsl (fun l => l.failSlice slice)
  if second then lcDown s else s

/-- R315: 76,800 CCLK have passed since the last rotation. -/
def Lc.rotateDue (l : Lc) : Bool := decide (l.sinceRot ≥ 76800)

/-- R315: slice i takes part: it is the spare or has a slot position. -/
def Lc.works (l : Lc) (i : Nat) : Bool := l.spare == some i || l.ages.contains i

/-- R315: the spare `sp`, with its new corrections, takes the slot position of the slice whose corrections are oldest. -/
def Lc.rotate (sp : Nat) (corr : Int × Int × Int) (l : Lc) : Lc :=
  match l.ages with
  | [] => l
  | old :: rest =>
    { l with
      corr := tset l.corr sp corr, ages := rest ++ [sp], spare := some old, pos := l.pos.map (fun a => if a = old then sp else a)
      rotations := satAdd 0xFFFF l.rotations 1, sinceRot := 0, calib := l.calib.set sp (l.calib.getD sp 0 + 1) }

/-- LC_ROTATE (R315, R316): corrections of a slice. One outside the limits fails, whichever slice it is; the spare's new ones put it in the
place of the slice whose corrections are oldest. -/
def execLcRotate (slice : Fin 9) (corr : Int × Int × Int) (s : State) : Out :=
  onIsl islAnalog s (fun s =>
    if s.lc.down || !s.lc.works slice then s
    else if decide (corr.1.natAbs > 512) || decide (corr.2.1.natAbs > 20000) then lcFail slice s
    else if s.lc.spare == some slice.val && s.lc.rotateDue then s.modLcIsl (Lc.rotate slice corr)
    else s)

/-- R316, R332: every slice that still can has completed a background calibration. Rotation stops with a failed slice, and READY comes
all the same (DESIGN CHOICE, log entry 125). -/
def Lc.calibrated (l : Lc) : Bool := l.spare.isNone || l.calib.all (fun n => decide (n ≥ 1))

/-- LC_READY (R332). -/
def execLcReady (s : State) : Out :=
  onIsl islAnalog s (fun s => if s.lc.calibrated then s.modLcIsl (fun l => { l with ready := true }) else s)

/-- R332: what the analogue island's start leaves; a failed slice is tried again only after a power cycle (R316). -/
def lcRestart (l : Lc) (power : Bool) : Lc :=
  if power then {}
  else
    let work := (List.range 9).filter (fun a => l.failed / 2 ^ a % 2 == 0)
    { ({} : Lc) with failed := l.failed, stale := l.stale, down := l.down, spare := if l.stale then none else some 8
                     ages := work.take 8, pos := work.take 8 }

/-! ## Registers (R334) -/

/-- LC_SEQ and LC_SEQ_ACT as words. -/
def LcEnt.word (e : LcEnt) (k : Nat) : Word :=
  if k = 0 then packW [(e.chan, 24), (b2n e.diff, 23), (b2n e.align, 22), (b2n e.fmt, 21), (b2n e.fifo, 20), (e.repeat_, 0)]
  else packW [(e.delay, 0)]

/-- WATERMARK as it acts. -/
def Lc.level (l : Lc) : Nat := if l.watermark = 0 then 1 else min l.watermark 1024

/-- A converter register by offset from 0x1B_0000. -/
def lcRead (s : State) (off : Nat) : Word :=
  let l := s.lc
  match off with
  | 0x00 => packW [(b2n l.run, 30), (l.shadowLen, 0)]
  | 0x04 => packW [(b2n l.ready, 31), (b2n l.running, 30), (b2n l.commitPending, 29), (b2n (match l.now_ with | .burst _ => true | .seq | .inj _ _ => false), 28),
      (b2n l.badEntry, 27), (b2n l.stale, 26), (b2n l.down, 25), (l.entry, 16), (l.rep, 8)]
  | 0x08 => packW [(l.spare.getD 15, 28), (l.failed, 19), (l.rotations, 0)]
  | 0x0C => BitVec.ofNat 32 l.passes
  | 0x10 => packW [(l.owner, 30), (l.watermark, 0)]
  | 0x14 => packW [(b2n l.ovf, 31), (l.fifo.length, 16), (l.lost, 0)]
  | 0x20 => match l.fifo with | [] => 0 | e :: _ => e.1
  | 0x24 => l.fifoLatch.1
  | 0x28 => wordOf l.fifoLatch.2 0
  | 0x2C => wordOf l.fifoLatch.2 1
  | _ =>
    if 0x100 ≤ off && off < 0x180 then
      let q := tget {} l.inj ((off - 0x100) / 0x20)
      match off % 0x20 with
      | 0x00 => packW [(q.chan, 24), (b2n q.diff, 23), (b2n q.align, 22), (b2n q.fmt, 21), (q.delay, 0)]
      | 0x04 => packW [(b2n q.pending, 31), (b2n q.done, 30), (q.result, 24)]
      | 0x08 => q.res
      | 0x0C => q.tag
      | 0x10 => wordOf q.idx 0
      | 0x14 => wordOf q.idx 1
      | _ => 0
    else if 0x200 ≤ off && off < 0x2B4 then tget 0 l.last ((off - 0x200) / 4)
    else if 0x400 ≤ off && off < 0x600 then (tget {} l.shadow ((off - 0x400) / 8)).word (off % 8 / 4)
    else if 0x600 ≤ off && off < 0x800 then
      let i := (off - 0x600) / 8
      if i < l.act.length then (l.act.getD i {}).word (off % 8 / 4) else 0
    else 0

/-- R331: the owner reads LC_FIFO word 0: the oldest entry is removed and its other words latched. -/
def lcFifoTake (s : State) : State :=
  s.modLcIsl (fun l => match l.fifo with
    | [] => { l with fifoLatch := (packW [(1, 12)], 0) }
    | e :: rest => { l with fifo := rest, fifoLatch := (e.2.1, e.2.2) })

/-- R325: a write of LC_INJ_CFG. -/
def lcInjWrite (i : Nat) (v : Word) (s : State) : State :=
  let q := s.getInj i
  if q.pending then s
  else
    let s := s.modInj i (fun q => { q with chan := bits v 29 24, diff := bit v 23, align := bit v 22, fmt := bit v 21, delay := bits v 15 0 })
    if !bit v 31 then s
    else if lcBad (bits v 29 24) (bit v 23) then s.modInj i (fun q => { q with done := true, result := 1 })
    else if s.lc.down then s.modInj i (fun q => { q with done := true, result := 2 })
    else s.modInj i (fun q => { q with pending := true })

/-- R322, R323: a write of LC_CTRL. -/
def lcCtrlWrite (v : Word) (s : State) : State :=
  s.modLcIsl (fun l =>
    let l := { l with run := bit v 30, stopped := l.stopped || !bit v 30, shadowLen := bits v 5 0 }
    let l := if bit v 31 then { l with commitPending := true } else l
    if l.commitPending && !l.run then l.commit else l)

/-- R331: a write of LC_FIFO_CFG writes OWNER and empties the FIFO. -/
def lcFifoCfg (v : Word) (s : State) : State :=
  s.modLcIsl (fun l => { l with owner := bits v 31 30, watermark := bits v 10 0, fifo := [] })

/-- A write of a converter register. -/
def lcWrite (off : Nat) (v : Word) (s : State) : State :=
  match off with
  | 0x00 => lcCtrlWrite v s
  | 0x04 => s.modLcIsl (fun l => { l with badEntry := l.badEntry && !bit v 27 })
  | 0x10 => lcFifoCfg v s
  | 0x14 => s.modLcIsl (fun l => { l with ovf := l.ovf && !bit v 31 })
  | _ =>
    if 0x100 ≤ off && off < 0x180 then
      (if off % 0x20 = 0 then lcInjWrite ((off - 0x100) / 0x20) v s
       else if off % 0x20 = 4 then s.modInj ((off - 0x100) / 0x20) (fun q => { q with done := q.done && !bit v 30 })
       else s)
    else if 0x400 ≤ off && off < 0x600 then
      let e := (off - 0x400) / 8
      s.modLcIsl (fun l => { l with shadow := tmod {} l.shadow e (fun x =>
        if off % 8 = 0 then
          { x with chan := bits v 29 24, diff := bit v 23, align := bit v 22, fmt := bit v 21, fifo := bit v 20, repeat_ := bits v 7 0 }
        else { x with delay := bits v 15 0 }) })
    else s

/-- Reading a read-to-clear field clears it. -/
def lcClear (off : Nat) (s : State) : State :=
  match off with
  | 0x08 => s.modLcIsl (fun l => { l with rotations := 0 })
  | 0x14 => s.modLcIsl (fun l => { l with lost := 0 })
  | _ => s

end Sys2Proof.Machine
end

