-- ==== Sys2Proof/Machine/Redundancy.lean ====
section
/-! DEFINITION. Chapter 12: redundancy: the pair comparator and the balance nodes (R296 to R303), retirement of streams,
units and engines (R293, R304), replay (R308 to R311), restoration (R305, R306) and the redundancy registers (R313). -/

namespace Sys2Proof.Machine

/-! ## The pair comparator (R297, R298) -/

/-- R297: the binding of head h in its home context. -/
def Plan.homeBind (p : Plan) (h : Nat) : PlanBind :=
  match p.home? h with
  | none => {}
  | some x => (x.bind.find? (fun b => b.head == some h)).getD {}

/-- R63: the time of a staircase output, in half ticks. -/
def outTau2 (n m nlast : Nat) : Int := 2 * (nlast : Int) - (n * (m - 1) : Nat)

/-- R297: the scaled values of an output's two detectors. -/
def PairOut.scaled (b : PlanBind) (o : PairOut) : Int × Int := (b.scaled false o.stepP 1 o.p, b.scaled true o.stepA 1 o.a)

/-- R297: both outputs are USABLE. -/
def PairOut.both (o : PairOut) : Bool := o.clsP == 0 && o.clsA == 0

/-- The settings of a ring in a plan. -/
def Plan.cfgOf (p : Plan) (r : Nat) : StairCfg := ((p.ring? r).map (fun x => x.cfg)).getD {}

/-- R297: the outputs of head h whose τ lies in [a, b). -/
def State.outsIn (s : State) (h a b : Nat) : List PairOut :=
  (s.getRedHead h).outs.filter (fun o => decide (2 * (a : Int) ≤ o.tau2) && decide (o.tau2 < 2 * (b : Int)))

/-- What the test of R298 finds for one head. -/
structure PairTest where
  h : Nat
  n : Nat := 0
  sp : Nat := 0
  sa : Nat := 0
  sd : Nat := 0
  test : Bool := false
  disagree : Bool := false
  deriving DecidableEq, Repr

/-- Σ of squares. -/
def sqSum (l : List Int) : Nat := ((l.map (fun v => v * v)).foldl (· + ·) 0).toNat

/-- R298: the test of head h over the window [a, b) of its home group. -/
def State.pairTest (s : State) (p : Plan) (h a b : Nat) : PairTest :=
  let x := s.getHead h
  let bd := p.homeBind h
  let v := ((s.outsIn h a b).filter PairOut.both).map (PairOut.scaled bd)
  let n := v.length
  let sp := sqSum (v.map (fun e => e.1))
  let sa := sqSum (v.map (fun e => e.2))
  let sd := sqSum (v.map (fun e => e.1 - e.2))
  let test := !x.retP && !x.retA && decide (n ≥ (b - a) / (2 * (p.cfgOf (h / 128)).m)) && decide ((s.getRedHead h).testFrom ≤ a)
  let (rel, abs) := match p.home? h with
    | none => (0, 0)
    | some c => (c.disRel, if ((p.head? h).map (fun e => e.typ)).getD 0 = 1 then c.disAbsI else c.disAbsV)
  { h := h, n := n, sp := sp, sa := sa, sd := sd, test := test
    disagree := test && decide (sd * 10 ^ 10 > rel * rel * sp) && decide (sd > n * (abs * 256) * (abs * 256)) }

/-- An RMS value from a sum of squares over n instants, divided by 2^8 (R313). -/
def rmsOf (sq n : Nat) : Nat := if n = 0 then 0 else min 0xFFFFFFFF (rneSqrt sq (n * 65536))

/-! ## Balance nodes (R300 to R302) -/

/-- The head of a node's term. -/
def Plan.termHead (p : Plan) (t : Nat × Nat × Bool) : Option Nat := (p.ctx? t.1).bind (fun x => x.headOf t.2.1)

/-- The group of a node's terms. -/
def Plan.nodeGrp (p : Plan) (v : PlanNode) : Nat :=
  match v.terms with
  | [] => 0
  | t :: _ => ((p.ctx? t.1).map (fun x => x.grp)).getD 0

/-- R300: the heads and signs of a node's terms. -/
def Plan.nodeTerms (p : Plan) (v : PlanNode) : List (Nat × Bool) :=
  v.terms.filterMap (fun t => (p.termHead t).map (fun h => (h, t.2.2)))

/-- R300: the value of a term's head at one output instant: the candidate's detector, with both detectors USABLE, for the head
`cand`; for another the serving detector, USABLE, which for a head of another home group is that of the home group's window (R296). -/
def State.termValue (s : State) (p : Plan) (gi k a b : Nat) (cand : Option (Nat × Bool)) (h : Nat) (tau2 : Int) : Option Int :=
  match (s.outsIn h a b).find? (fun (o : PairOut) => o.tau2 == tau2) with
  | none => none
  | some o =>
    let q := o.scaled (p.homeBind h)
    let d := s.serveFor gi h k (tau2 * 2 ^ 32)
    let served : Bool × Bool := (d, (if d then o.clsA else o.clsP) == 0)
    let pick : Bool × Bool := match cand with
      | some (ch, cd) => if ch = h then (cd, o.both) else served
      | none => served
    if pick.2 then some (if pick.1 then q.2 else q.1) else none

/-- R300: the residuals of a node in [a, b), with the head of `cand` read from its detector and every other term from its
serving detector: the number of instants, Σ r² and Σ x². -/
def State.nodeSums (s : State) (p : Plan) (v : PlanNode) (gi k a b : Nat) (cand : Option (Nat × Bool)) : Nat × Nat × Nat :=
  let terms : List (Nat × Bool) := p.nodeTerms v
  let first : Option Nat := match cand with | some c => some c.1 | none => (terms.map Prod.fst).head?
  match first with
  | none => (0, 0, 0)
  | some h0 =>
    let rows : List (Int × Nat) := (s.outsIn h0 a b).filterMap (fun (o : PairOut) =>
      let xs : List (Option (Int × Bool)) := terms.map (fun t => (s.termValue p gi k a b cand t.1 o.tau2).map (fun x => (x, t.2)))
      if xs.all Option.isSome then
        let l := xs.filterMap id
        some ((l.map (fun e => if e.2 then -e.1 else e.1)).foldl (· + ·) 0, sqSum (l.map (fun e => e.1)))
      else none)
    (rows.length, sqSum (rows.map (fun r => r.1)), (rows.map (fun r => r.2)).foldl (· + ·) 0)

/-- R301: Σ r² meets the node's tolerance. -/
def nodeMeets (v : PlanNode) (n r q : Nat) : Bool :=
  decide (r ≤ n * (v.tolAbs * 256) * (v.tolAbs * 256)) || decide (10 ^ 10 * r ≤ v.tolRel * v.tolRel * q)

/-- R301, R313: the node's tolerance, in 2^-16 A. -/
def nodeTol (v : PlanNode) (n q : Nat) : Nat := max v.tolAbs (rneSqrt (v.tolRel * v.tolRel * q) (n * 65536 * 10 ^ 10))

/-- What a node finds: its committed result, and its decision for a head (false P, true A). -/
structure NodeOut where
  res : RedNode
  dec : Option (Nat × Bool)
  deriving DecidableEq, Repr

/-- R300, R301: node v of group gi in window k. `dis` are the heads that disagreed. Values that the manual leaves without a
statement (no instant; several disagreeing terms) are left open. -/
def evalNode (p : Plan) (v : PlanNode) (gi k a b : Nat) (dis : List Nat) (s : State) : NodeOut × State :=
  let bad := (v.terms.filterMap p.termHead).filter (fun h => dis.contains h)
  match bad with
  | [] =>
    let (n, r, q) := s.nodeSums p v gi k a b none
    if n = 0 then
      let (f, s) := s.freeNext
      let (t, s) := s.freeNext
      ({ res := { resP := f.toNat, tol := t.toNat }, dec := none }, s)
    else ({ res := { resP := rmsOf r n, tol := nodeTol v n q }, dec := none }, s)
  | [h] =>
    let (n, rp, qp) := s.nodeSums p v gi k a b (some (h, false))
    let (_, ra, qa) := s.nodeSums p v gi k a b (some (h, true))
    let few := decide (n < (b - a) / (2 * (p.cfgOf (h / 128)).m))
    let mp := nodeMeets v n rp qp
    let ma := nodeMeets v n ra qa
    let dp := !few && mp && decide (16 * rp ≤ ra)
    let da := !few && ma && decide (16 * ra ≤ rp)
    let result := if few then 5 else if dp || da then 1 else if !mp && !ma then 2 else 3
    let q := if dp then qp else if da then qa else if s.servingAt gi h k then qa else qp
    let base : RedNode := { result := result, head := if few then 0 else h, choice := da && !dp }
    if n = 0 then
      let (f, s) := s.freeNext
      let (g, s) := s.freeNext
      let (t, s) := s.freeNext
      ({ res := { base with resP := f.toNat, resA := g.toNat, tol := t.toNat }, dec := none }, s)
    else
      ({ res := { base with resP := rmsOf rp n, resA := rmsOf ra n, tol := nodeTol v n q }
         dec := if dp then some (h, false) else if da then some (h, true) else none }, s)
  | _ =>
    let (f, s) := s.freeNext
    let (g, s) := s.freeNext
    let (n, _, q) := s.nodeSums p v gi k a b none
    let (t, s) := s.freeNext
    ({ res := { result := 4, resP := f.toNat, resA := g.toNat, tol := if n = 0 then t.toNat else nodeTol v n q }, dec := none }, s)

/-- R302: the decision for a head from its nodes': 1 for P, 2 for A, 3 undecided. -/
def decideHead (l : List (Nat × Bool)) (h : Nat) : Nat :=
  let p := l.contains (h, false)
  let a := l.contains (h, true)
  if p && !a then 1 else if a && !p then 2 else 3

/-! ## Retirement (R293, R295, R303, R304) -/

/-- R303: the first index that ring r delivers after this moment. -/
def State.nextIdx (s : State) (r : Nat) : Nat :=
  match (s.getRing r).held with
  | [] => (s.getRing r).nextRel
  | e :: _ => e.idx

/-- R293, R303, R304: a stream is retired; outings of it end (R349). -/
def retireStream (h : Nat) (d : Bool) (crit : Nat) (s : State) : State :=
  let n := s.nextIdx (h / 128)
  let s := raise .streamRetired h [(1, b2n d), (1, crit)]
    (s.modHead h (fun x => if d then { x with retA := true, fromA := n } else { x with retP := true, fromP := n }))
  endOutings 1 5 d h (s.modRedHead h (fun r => { r with run := 0, back := none }))

/-- STREAM_ABSENT_RETIRE (R293): more than 1,152,000 consecutive delivered indices that count as absent. -/
def execStreamAbsentRetire (h : Fin 4096) (d : Det) (s : State) : Out :=
  onStew s (fun s =>
    let x := s.getHead h
    if (if d then !x.retA && decide (x.absA > 1152000) else !x.retP && decide (x.absP > 1152000)) then retireStream h d 0 s else s)

/-! ## Arbitration at a commit (R298 to R303) -/

/-- R299, R303, R313: one head's outcome in window k. -/
def settleHead (gi k : Nat) (t : PairTest) (dec : Nat) (s : State) : State :=
  let r := s.getRedHead t.h
  let serves := s.servingAt gi t.h k
  let dec := if t.disagree then dec else 0
  let starts := t.disagree && (r.run == 0 || r.lastDec != dec)
  let ends := t.test && !t.disagree && decide (r.run > 0)
  let s := whenDo starts (raise .detDisagree t.h
    [(8, k), (4, rmsOf t.sp t.n), (4, rmsOf t.sa t.n), (4, rmsOf t.sd t.n), (1, dec)]) s
  let s := whenDo ends (raise .detAgree t.h [(4, r.run)]) s
  let hist := ((if dec = 3 then 0 else dec) :: r.hist).take 10
  let s := s.modRedHead t.h (fun r => { r with
    hist := hist, lastDec := if t.disagree then dec else r.lastDec
    run := if t.disagree then r.run + 1 else if t.test then 0 else r.run
    serve := (tset r.serve (k + 2) (dec == 2)).filter (fun e => decide (e.1 + 4 > k))
    back := if decide (r.testFrom ≤ (s.getGrp gi).twOf (k - 1)) then none else r.back })
  let against := fun (c : Nat) => (hist.filter (fun v => v == c)).length
  let counts := (against 2, against 1)
  let s := whenDo (dec == 2 && decide (against 2 ≥ 8)) (retireStream t.h false 1) s
  let s := whenDo (dec == 1 && decide (against 1 ≥ 8)) (retireStream t.h true 1) s
  s.modRedHead t.h (fun r => { r with com := {
    serving := serves, next := s.servingAt gi t.h (k + 2), disagree := t.disagree, decision := dec
    noTest := !t.test, diff := if t.test then rmsOf t.sd t.n else 0, againstP := counts.1, againstA := counts.2 } })

/-- R297, R300: the outputs of head h that no window still to be committed needs: those before the last committed close of its home
group and of the groups of the nodes it is a term of; window k of group gi, which closed at b, is committed now. -/
def pruneOuts (gi b : Nat) (p : Plan) (h : Nat) (s : State) : State :=
  let users := (p.homeGrp h).toList ++ (p.nodes.filter (fun v => (p.nodeTerms v).any (fun t => t.1 == h))).map p.nodeGrp
  let bound := users.foldl (fun m g => min m (if g = gi then b else (s.getGrp g).twOf (s.getGrp g).lastK)) b
  s.modRedHead h (fun r => { r with outs := r.outs.filter (fun o => decide (o.tau2 ≥ 2 * (bound : Int))) })

/-- R298 to R303: arbitration of window k of group gi under plan p, at its commit. -/
def arbitrate (gi k : Nat) (p : Plan) (s : State) : State :=
  let g := s.getGrp gi
  let a := g.twOf (k - 1)
  let b := g.twOf k
  let hs := ((p.ctxsOf gi).flatMap (fun x => x.bind.filterMap (fun q => q.head))).eraseDups.filter (fun h => p.homeGrp h == some gi)
  let ts := hs.map (fun h => s.pairTest p h a b)
  let dis := (ts.filter (fun t => t.disagree)).map (fun t => t.h)
  let (decs, s) := (p.nodes.filter (fun v => p.nodeGrp v == gi)).foldl (fun (acc : List (Nat × Bool) × State) v =>
    let (o, s) := evalNode p v gi k a b dis acc.2
    (acc.1 ++ o.dec.toList, s.modRedNode v.node (fun _ => o.res))) ([], s)
  let s := each ts (fun s t => settleHead gi k t (decideHead decs t.h) s) s
  -- R299: the flag goes to every context that binds the head; in another group, to the first window that closes at or after the latest
  -- index at which this window can commit (DESIGN CHOICE, log entry 117)
  let s := each dis (fun s h => each ((p.binders h).filter (fun x => x.grp != gi))
    (fun s x => s.modCtx x.c (fun y => { y with disPend := (b + 7680) :: y.disPend })) s) s
  let terms := (p.nodes.filter (fun v => p.nodeGrp v == gi)).flatMap (fun v => (p.nodeTerms v).map (fun t => t.1))
  each (hs ++ terms).eraseDups (fun s h => pruneOuts gi b p h s) s

/-- R299: some head bound to context x disagreed in the window that its group commits now and that closed at index b. -/
def State.disagrees (s : State) (p : Plan) (x : PlanCtx) (b : Nat) : Bool :=
  (s.getCtx x.c).disPend.any (fun t => decide (t ≤ b)) ||
  (x.bind.filterMap (fun b => b.head)).any (fun h => p.homeGrp h == some x.grp && (s.getRedHead h).com.disagree)

/-- R296, R290: head h has a home group in the plan in force, or in the one that a swap is bringing in. -/
def State.hasHome (s : State) (h : Nat) : Bool :=
  (s.homeGrp h).isSome || (s.newPlan.bind (fun p => p.homeGrp h)).isSome

/-- R297: the pair comparator takes the two outputs of one instant, at τ (in half ticks). -/
def pairOutput (h : Nat) (tau2 : Int) (p a : StOut) (s : State) : State :=
  if !s.hasHome h then s
  else s.modRedHead h (fun r => { r with
    outs := { nlast := p.nlast, decim := p.decim, tau2 := tau2, clsP := p.cls, clsA := a.cls, stepP := p.step, stepA := a.step, p := p.val
              a := a.val } :: r.outs })

/-! ## Tally units (R192, R193, R308 to R311) -/

/-- R192: the spare pool of tally units. -/
def State.spareUnits (s : State) : List Nat :=
  (List.range 9).filter (fun u => !(s.getUnit u).retired && (s.unitBlocks u).isEmpty && !tget false s.red.tTesting u)

/-- R309: the state of a context as its latest checkpoints hold it, for the windows after f, the last one completed or committed, which
closed at index t with cycle `first` next: what its unit had completed stays. -/
def Ctx.reload (f t first : Nat) (y : Ctx) : Ctx :=
  let a : FlatCk := y.ckFlat.headD {}
  let b : CycCk := y.ckCyc.headD {}
  { y with
    wins := y.wins.map (fun e => if e.1 ≤ f then e else (e.1, { e.2 with flat := tget {} a.parts e.1, cyc := tget {} b.parts e.1 }))
    nextFlat := some (max (2 * t) (a.next.getD 0)), nextCyc := max first b.cyc, tail := a.tail }

/-- R309: a context's state returns to its latest checkpoints; windows committed, or completed with a token, stay as they are. -/
def reloadCtx (c : Nat) (s : State) : State :=
  match s.ctxGrp c with
  | none => s
  | some gi =>
    let f := s.tokenTo gi (tallyToken c)
    s.modCtx c (Ctx.reload f ((s.getGrp gi).twOf f) ((s.getGrp gi).firstCyc (s.winCycles gi) (f + 1)))

/-- R309: unit u starts a replay for a fault at index t. -/
def startReplay (u t : Nat) (s : State) : State :=
  let s := (s.modUnit u (fun x => { x with replay := some t })).modTallyIsl (fun y => { y with replayAt := max y.replayAt t })
  let s := s.modRedIsl (fun r => { r with tReplays := tmod 0 r.tReplays u (fun n => satAdd 0xFF n 1) })
  each (s.unitCtxs u) (fun s c => reloadCtx c s) s

/-- R293, R304: unit u is retired: its blocks move to the lowest-numbered spare, which replays; with the pool empty they have no
unit. -/
def retireUnit (u t : Nat) (s : State) : State :=
  let blocks := s.unitBlocks u
  let spare := (s.spareUnits.filter (fun v => v != u)).head?
  let s := s.modUnit u (fun x => { x with retired := true, replay := none })
  let move := fun (v : Nat) (s : State) => s.modTallyIsl (fun y => { y with unitOf := y.unitOf.map (fun e => if e.2 = u then (e.1, v) else e) })
  match blocks, spare with
  | [], _ => raise .tallyRetired u [(1, 0), (1, 0xFF)] s
  | _, some v => startReplay v t (raise .tallyRetired u [(1, 0), (1, v)] (move v s))
  | _, none => raise .tallyRetired u [(1, 0), (1, 0xFF)] (move 15 (s.modRedIsl (fun r => { r with noSpare := true })))

/-- TALLY_FAULT (R193, R293): a transient fault of a tally unit; the third within 3,840,000 ticks retires it. -/
def execTallyFault (u : Fin 9) (s : State) : Out :=
  onIsl islTally s (fun s =>
    let x := s.getUnit u
    if x.retired then s
    else
      let fs := addFault s.now x.faults
      let s := s.modUnit u (fun x => { x with faults := fs, transients := x.transients + 1 })
      let s := s.modRedIsl (fun r => { r with tFaults := tmod 0 r.tFaults u (fun n => satAdd 0xFF n 1) })
      let t := x.replay.getD s.now
      if fs.length ≥ 3 then retireUnit u t s
      else if (s.unitBlocks u).isEmpty then s
      else startReplay u t s)

/-- Repeat a step n times. -/
def repeatDo (f : State → State) : Nat → State → State
  | 0, s => s
  | n + 1, s => repeatDo f n (f s)

/-- Take flat instants of a context while any can be counted. -/
def flatsUpTo (c : Nat) : Nat → State → State
  | 0, s => s
  | n + 1, s => match flatStep c s with | none => s | some t => flatsUpTo c n t

/-- Take cycles of a context while any can be formed. -/
def cyclesUpTo (c : Nat) : Nat → State → State
  | 0, s => s
  | n + 1, s => match cycStep c s with | none => s | some t => cyclesUpTo c n t

/-- The checkpoint index of a unit's replay: that of its latest flat checkpoint; 0 before the first. -/
def State.unitCk (s : State) (u : Nat) : Nat :=
  ((s.unitCtxs u).map (fun c => ((s.getCtx c).ckFlat.headD {}).at_)).foldl (fun (m : Option Nat) v => some (min v (m.getD v))) none |>.getD 0

/-- R309: unit u has reprocessed what has arrived; it is current again. -/
def unitCurrent (u t : Nat) (s : State) : State :=
  let ck := s.unitCk u
  let s := each (s.unitCtxs u) (fun s c => cyclesUpTo c 64 (flatsUpTo c 4096 s)) s
  let lag := s.now - t
  let s := s.modUnit u (fun x => { x with replay := none })
  raise .replay u [(8, ck), (2, min lag 0xFFFF)] (s.modRedIsl (fun r => { r with maxLag := max r.maxLag (min lag 0xFFFF) }))

/-! ## Spectral engines (R217, R242) -/

/-- The spare pool of harmonic engines. -/
def State.spareHarm (s : State) : List Nat :=
  (List.range 5).filter (fun e => !(s.getSpEng e).retired && (s.engBlocks e).isEmpty && !(s.getSpEng e).testing)

/-- The declared bindings of the contexts that engine e serves. -/
def State.engBinds (s : State) (e : Nat) : List (Nat × Nat) :=
  (allKeys.filter (fun c => s.harmFor c == e && (s.ctxGrp c).isSome)).flatMap (fun c => (List.range 8).map (fun i => (c, i)))

/-- R307, R309: the engine reloads its latest per-cycle checkpoint of a binding: what it had taken by then, of the windows that are still
in its work. Before its first checkpoint what it took of the running cycle is taken again. -/
def reloadBind (c slot : Nat) (s : State) : State :=
  let b := s.getSpBind (bkey c slot)
  let part := b.next % 512
  match s.ctxGrp c, b.ck with
  | none, _ => s
  | some _, (n, wins) :: _ => s.modSpBind (bkey c slot) (fun b => { b with
      next := n, wins := wins.filter (fun e => b.wins.any (fun q => q.1 == e.1)) })
  | some gi, [] =>
    let k := (s.getGrp gi).winOf (s.winCycles gi) (b.next / 512)
    s.modSpBind (bkey c slot) (fun b => { b with
      next := b.next - part
      wins := b.wins.map (fun e => if e.1 = k then (e.1, { e.2 with y := e.2.y.drop part }) else e) })

/-- R309: engine e starts a replay for a fault at index t. -/
def startHarmReplay (e t : Nat) (taking : Bool) (s : State) : State :=
  let s := s.modSpEng e (fun x => { x with replay := some t, taking := taking, replays := satAdd 0xFF x.replays 1 })
  each (s.engBinds e) (fun s q => reloadBind q.1 q.2 s) s

/-- R293, R304: harmonic engine e is retired: its block moves to the lowest-numbered spare, which replays. -/
def retireHarm (e t : Nat) (s : State) : State :=
  let blocks := s.engBlocks e
  let spare := (s.spareHarm.filter (fun v => v != e)).head?
  let s := s.modSpEng e (fun x => { x with retired := true, replay := none })
  let move := fun (v : Nat) (s : State) =>
    galSettle 1 (s.modSpecIsl (fun y => { y with blkEng := y.blkEng.map (fun b => if b.2 = e then (b.1, v) else b) }))
  match blocks, spare with
  | [], _ => raise .harmRetired e [(1, 0), (1, 0xFF)] s
  | _, some v => startHarmReplay v t true (raise .harmRetired e [(1, 0), (1, v)] (move v s))
  | _, none => raise .harmRetired e [(1, 0), (1, 0xFF)] (move 15 (s.modRedIsl (fun r => { r with noSpare := true })))

/-- An engine of the spectral island counts a transient fault: its latest faults, and it with the counter. -/
def noteSpFault (e : Nat) (s : State) : List Nat × State :=
  let fs := addFault s.now (s.getSpEng e).faults
  (fs, s.modSpEng e (fun x => { x with faults := fs, upsets := satAdd 0xFF x.upsets 1 }))

/-- HARM_FAULT (R217, R293). -/
def execHarmFault (e : Fin 5) (s : State) : Out :=
  onIsl islSpect s (fun s =>
    let x := s.getSpEng e
    if x.retired then s
    else
      let (fs, s) := noteSpFault e s
      let t := x.replay.getD s.now
      if fs.length ≥ 3 then retireHarm e t s
      else if (s.engBlocks e).isEmpty then s
      else startHarmReplay e t x.taking s)

/-- SH_FAULT (R242, R293): the window is recomputed from the lane buffer; the third fault within 3,840,000 ticks retires the
engine, and the visits in progress on its lanes end with PARTIAL. -/
def execShFault (e : Fin 2) (s : State) : Out :=
  onIsl islSpect s (fun s =>
    let x := s.getSpEng (5 + e)
    if x.retired then s
    else
      let (fs, s) := noteSpFault (5 + e) s
      if fs.length < 3 then s.modSpEng (5 + e) (fun x => { x with replays := satAdd 0xFF x.replays 1 })
      else
        let other := if (s.getSpEng (6 - e)).retired then 0xFF else 1 - e.val
        let k := max s.spec.shPage (s.spec.shK + 1)
        let lanes := match s.roundOf k with | none => [] | some r => (List.range 8).filter (fun l => r.engine l == e.val)
        let s := each lanes (fun s l => endVisit k l true s) s
        let s := whenDo (other == 0xFF) (fun s => s.modRedIsl (fun r => { r with noSpare := true })) s
        settleRoster (raise .shRetired e [(1, 0), (1, other)] (s.modSpEng (5 + e) (fun x => { x with retired := true }))))

/-- The checkpoint index of a harmonic engine: the start of the cycle that its first group's bindings take. -/
def State.harmCk (s : State) (e : Nat) : Nat :=
  ((s.engBinds e).filterMap (fun q =>
    match s.ctxGrp q.1 with
    | none => none
    | some gi => ((s.getGrp gi).cyc ((s.getSpBind (bkey q.1 q.2)).next / 512)).map (fun c => floorTau (c.tau 0)))).headD 0

/-- R309: harmonic engine e has reprocessed what has arrived. -/
def harmCurrent (e t : Nat) (s : State) : State :=
  let ck := s.harmCk e
  let s := each (s.engBinds e) (fun s q => repeatDo (harmTake q.1 q.2) (s.nextOf q.1 q.2 - (s.getSpBind (bkey q.1 q.2)).next) s) s
  let lag := s.now - t
  let s := s.modSpEng e (fun x => { x with replay := none, taking := false })
  raise .replay (9 + e) [(8, ck), (2, min lag 0xFFFF)] (s.modRedIsl (fun r => { r with maxLag := max r.maxLag (min lag 0xFFFF) }))

/-- REPLAY_DONE (R309). -/
def execReplayDone (u : ReplayUnit) (s : State) : Out :=
  match u with
  | .tally u => onIsl islTally s (fun s => match (s.getUnit u).replay with | none => s | some t => unitCurrent u t s)
  | .harm e => onIsl islSpect s (fun s => match (s.getSpEng e).replay with | none => s | some t => harmCurrent e t s)

/-! ## Restoration (R305, R306) -/

/-- R305: the item of a request exists in the grade. -/
def State.itemExists (s : State) (kind idx : Nat) : Bool :=
  match kind with
  | 0 => decide (idx < 2 * s.headCount)
  | 1 => decide (idx < 2 * s.ringCount)
  | 2 => decide (idx < 33)
  | 3 => decide (idx < 9)
  | 4 => decide (idx < 5)
  | 5 => decide (idx < 2)
  | _ => false

/-- The item is retired. -/
def State.itemRetired (s : State) (kind idx : Nat) : Bool :=
  match kind with
  | 0 => if idx % 2 = 1 then (s.getHead (idx / 2)).retA else (s.getHead (idx / 2)).retP
  | 1 => (s.getPort idx).retired
  | 2 => (s.getEng idx).st == .retired
  | 3 => (s.getUnit idx).retired
  | 4 => (s.getSpEng idx).retired
  | 5 => (s.getSpEng (5 + idx)).retired
  | _ => false

/-- R305: the checks, in order. -/
def restoreRefused (kind idx : Nat) (s : State) : Option Nat :=
  if !s.itemExists kind idx then some 2
  else if !s.itemRetired kind idx then some 1
  else if kind = 0 && (s.getHead (idx / 2)).st != .admitted then some 3
  else none

/-- R306: the change that resets a restored stream. -/
def resetChange (d : Bool) : Change := { reg := regReset + b2n d, value := 0, asker := .px }

/-- The reset of a stream has found its place in the head's queue: the request is DONE (R306). -/
def restorePlaced (h : Nat) (s : State) : State :=
  match s.red.job with
  | some (0, i, host, role) =>
    if i / 2 = h && (s.getHead h).queue.any (fun c => c.reg == regReset + i % 2) then restoreEnd 0 i role host 0 s else s
  | _ => s

/-- R306: the reset of a restored stream takes effect at index t: the stream is no longer retired, its outcomes are cleared, and
its partner serves until it can be tested. -/
def streamBack (h : Nat) (d : Bool) (t : Nat) (s : State) : State :=
  let s := s.modHead h (fun x => if d then { x with retA := false, absA := 0 } else { x with retP := false, absP := 0 })
  let q := s.busyQ (h / 128)
  s.modRedHead h (fun r => { r with
    hist := r.hist.map (fun v => if v = (if d then 1 else 2) then 0 else v), testFrom := t + q, back := some d, run := 0 })

/-- RESTORE_GO (R305). -/
def restoreGo (role host : Nat) (s : State) : State :=
  let kind := s.red.selKind
  let idx := s.red.selIndex
  if s.red.busy then s
  else match restoreRefused kind idx s with
    | some e => restoreEnd kind idx role host e s
    | none =>
      let s := s.modRedIsl (fun r => { r with busy := true, job := some (kind, idx, host, role) })
      match kind with
      | 0 => restorePlaced (idx / 2) (pushPx (idx / 2) (resetChange (idx % 2 == 1)) s)
      | 1 => restoreEnd 1 idx role host 0 (s.modPort idx (fun p => { p with
          retired := false, rx := .down, signal := false, cdr := false, commaRun := 0, goodRun := 0, badRun := 0, lockAt := s.now }))
      | 3 => s.modRedIsl (fun r => { r with tTesting := tset r.tTesting idx true })
      | 4 => s.modSpEng idx (fun x => { x with testing := true })
      | 5 => s.modSpEng (5 + idx) (fun x => { x with testing := true })
      | _ => s

/-- R306: a context that a unit takes from window f on, before which nothing more is completed: t is the close of window f − 2 and `cyc` the
next cycle. What was completed, and what the harmonic engine delivered, stays; the state is the unit's first checkpoint. -/
def Ctx.join (f done now t cyc : Nat) (y : Ctx) : Ctx :=
  let wins := y.wins.map (fun e => if e.1 ≤ done then e else (e.1, ({ harm := e.2.harm } : CWin)))
  { y with
    unitFrom := f, nextFlat := some (2 * t), nextCyc := cyc, wins := wins, kept := []
    ckFlat := [{ at_ := now, next := some (2 * t) }], ckCyc := [{ cyc := cyc }] }

/-- R306: a tally unit joins its pool; contexts left without a unit are its work from the first window that begins after it
joins. -/
def joinUnit (u : Nat) (s : State) : State :=
  let s := s.modUnit u (fun x => { x with retired := false, faults := [], replay := none })
  match s.tally.unitOf.find? (fun e => e.2 == 15) with
  | none => s
  | some (b, _) =>
    let s := s.modTallyIsl (fun y => { y with unitOf := tset y.unitOf b u })
    each (allKeys.filter (fun c => ctxNum c / 20 == b)) (fun s c =>
      match s.ctxGrp c with
      | none => s
      | some gi =>
        let g := s.getGrp gi
        if !g.started then s.modCtx c (fun y => { y with unitFrom := 0 }) else s.modCtx c (Ctx.join (g.closed + 2) (s.tokenTo gi (tallyToken c)) s.now (g.twOf g.closed) g.done)) s

/-- R306: a harmonic engine joins its pool; a block left without an engine is its work. -/
def joinHarm (e : Nat) (s : State) : State :=
  let s := s.modSpEng e (fun x => { x with retired := false, faults := [], replay := none, taking := false })
  match s.spec.blkEng.find? (fun b => b.2 == 15) with
  | none => s
  | some (b, _) =>
    let s := galSettle 1 (s.modSpecIsl (fun y => { y with blkEng := tset y.blkEng b e }))
    each (allKeys.filter (fun c => ctxNum c / 40 == b)) (fun s c =>
      match s.ctxGrp c with
      | none => s
      | some gi =>
        let g := s.getGrp gi
        if !g.started then s.modSpecIsl (fun y => { y with from_ := tdel y.from_ c })
        else
          let s := s.modSpecIsl (fun y => { y with from_ := tset y.from_ c (g.closed + 2) })
          each (List.range 8) (fun s i => s.modSpBind (bkey c i) (fun q => { q with next := 512 * g.done, wins := [], ck := [] })) s) s

/-- RESTORE_SELFTEST_DONE (R306). -/
def execRestoreSelftestDone (pass : Bool) (s : State) : Out :=
  onStew s (fun s =>
    match s.red.job with
    | none => s
    | some (kind, idx, host, role) =>
      if kind < 2 then s
      else
        let s := match kind with
          | 3 => s.modRedIsl (fun r => { r with tTesting := tdel r.tTesting idx })
          | 4 => s.modSpEng idx (fun x => { x with testing := false })
          | 5 => s.modSpEng (5 + idx) (fun x => { x with testing := false })
          | _ => s
        if !pass then restoreEnd kind idx role host 4 s
        else
          let s := match kind with
            | 2 => s.modEng idx (fun x => { x with st := .spare, ring := none, faults := [], failRun := 0 })
            | 3 => joinUnit idx s
            | 4 => joinHarm idx s
            | _ => s.modSpEng (5 + idx) (fun x => { x with retired := false, faults := [], doneK := max x.doneK (s.getGrp s.spec.refGrp).closed })
          restoreEnd kind idx role host 0 s)

/-! ## The steward (R31) -/

/-- STEWARD_RESTART (R31). -/
def execStewardRestart (s : State) : Out :=
  onIsl islSteward s (fun s =>
    if s.red.stewardDown then s else raise .stewardRestart 0 [] (s.modRedIsl (fun r => { r with stewardDown := true })))

/-- STEWARD_RESTART_COMPLETE (R31). -/
def execStewardRestartComplete (s : State) : Out :=
  onIsl islSteward s (fun s => s.modRedIsl (fun r => { r with stewardDown := false }))

/-! ## Registers (R313) -/

/-- The contexts that the plan declares. -/
def State.declared (s : State) : List Nat := (List.range s.ctxCount).filter (fun c => (s.ctxNow c).isSome)

/-- R313 GAP_OPEN: some context has a gap that has not ended: no unit serves it, no sample has been counted yet, or a phase lacks its
samples at the latest instant (R189). -/
def State.gapOpen (s : State) : Bool :=
  s.declared.any (fun c => decide (s.unitFor c ≥ 9) || (s.getCtx c).gapFrom.isSome || (s.getCtx c).inGap ||
    (match s.ctxGrp c with | none => false | some gi => decide ((s.getCtx c).unitFrom > (s.getGrp gi).closed + 1)))

/-- The head number of a stream count: how many items of a range satisfy a test. -/
def countRange (n : Nat) (f : Nat → Bool) : Nat := ((List.range n).filter f).length

/-- RED_TALLY.STATE. -/
def State.unitCode (s : State) (u : Nat) : Nat :=
  if tget false s.red.tTesting u then 4
  else if (s.getUnit u).retired then 3
  else if (s.getUnit u).replay.isSome then 2
  else if (s.unitBlocks u).isEmpty then 0 else 1

/-- A redundancy register by its address. -/
def redRead (s : State) (a : Nat) : Word :=
  if a = 0x200 then
    let ret := (s.head.map (fun e => b2n e.2.retP + b2n e.2.retA)).foldl (· + ·) 0
    packW [(ret, 18), (countRange (2 * s.ringCount) (fun k => (s.getPort k).retired), 11),
      (if s.up islTally then s.spareUnits.length else 0, 7), (if s.up islSpect then s.spareHarm.length else 0, 4),
      (b2n s.gapOpen, 3), (b2n s.red.noSpare, 2),
      (b2n ((List.range 9).any (fun u => (s.getUnit u).replay.isSome) || (List.range 5).any (fun e => (s.getSpEng e).replay.isSome)), 0)]
  else if 0x210 ≤ a && a < 0x234 then
    let u := (a - 0x210) / 4
    packW [(s.unitCode u, 29), ((s.unitBlocks u).headD 15, 16), (tget 0 s.red.tReplays u, 8), (tget 0 s.red.tFaults u, 0)]
  else if a = 0x240 then
    packW ([(s.red.maxLag, 16)] ++ (List.range 9).map (fun u => (b2n (s.getUnit u).replay.isSome, u)) ++
      (List.range 5).map (fun e => (b2n (s.getSpEng e).replay.isSome, 9 + e)))
  else if a = 0x250 then packW [(s.red.selKind, 13), (s.red.selIndex, 0)]
  else if a = 0x254 then packW [(s.red.result, 4), (b2n s.red.busy, 0)]
  else if 0x400 ≤ a && a < 0x800 then
    let v := (a - 0x400) / 16
    let r := s.getRedNode v
    match s.plan.cur.bind (fun p => (p.nodes.find? (fun n => n.node == v)).map (fun n => p.nodeGrp n)) with
    | none => 0
    | some g =>
      match a % 16 with
      | 0 => packW [(1, 31), (r.result, 28), (g, 24), (r.head, 12), (b2n r.choice, 0)]
      | 4 => BitVec.ofNat 32 r.resP
      | 8 => BitVec.ofNat 32 r.resA
      | _ => BitVec.ofNat 32 r.tol
  else if 0x8000 ≤ a && a < 0x10000 then
    let h := (a - 0x8000) / 8
    let r := s.getRedHead h
    let home := s.plan.cur.bind (fun p => p.home? h)
    if a % 8 = 4 then BitVec.ofNat 32 r.com.diff
    else packW [(b2n r.com.serving, 31), (b2n r.com.next, 30), (b2n r.com.disagree, 29), (r.com.decision, 27),
      (b2n (s.getHead h).retP, 26), (b2n (s.getHead h).retA, 25), (b2n r.com.noTest, 24),
      (r.com.againstP, 20), (r.com.againstA, 16),
      ((home.map (fun x => x.grp)).getD 0, 12), ((home.map (fun x => ctxNum x.c)).getD 0xFF, 0)]
  else 0

/-- A write of a redundancy register by a maker. -/
def redWrite (role host a : Nat) (v : Word) (s : State) : State :=
  if a = 0x250 then
    let s := s.modRedIsl (fun r => { r with selKind := bits v 15 13, selIndex := bits v 12 0 })
    if bit v 31 then restoreGo role host s else s
  else s

/-- Reading a read-to-clear field of this chapter clears it. -/
def redClear (a : Nat) (s : State) : State :=
  if 0x210 ≤ a && a < 0x234 then
    let u := (a - 0x210) / 4
    s.modRedIsl (fun r => { r with tReplays := tdel r.tReplays u, tFaults := tdel r.tFaults u })
  else if a = 0x240 then s.modRedIsl (fun r => { r with maxLag := 0 })
  else s

end Sys2Proof.Machine
end

