-- ==== Sys2Proof/Machine/Plan.lean ====
section
/-! DEFINITION. Chapter 11: the hall plan's commands: slots and history in the boot flash (R266 to R268), loading (R281 to R283),
staging (R284, R285), swapping in service (R286 to R291) with the carry-over of contexts (R194 to R196, R207, R243, R262), and the
plan registers (R292). -/

namespace Sys2Proof.Machine

/-! ## Slots and history (R266 to R268) -/

/-- R266: the flash address of a slot. -/
def slotBase (k : Nat) : Nat := 0x100000 * k

/-- R267: the free slot. -/
def State.freeSlot (s : State) : Nat := 1 - s.plan.slot

/-- The image at an address of a memory: its header, and as many bytes as a plausible length names (R269). -/
def readImage (d : Byte) (m : Mem) (base : Nat) : Img :=
  let h := mslice d m base 128
  let n := leNat ((h.drop 8).take 4)
  (if 128 < n && n ≤ 0x100000 then mslice d m base n else h).toArray

/-- The image in a slot. -/
def State.slotImage (s : State) (k : Nat) : Img := readImage flashDefault s.plan.flash (slotBase k)

/-- The image in the upload area of G5 (R284). -/
def State.uploadImage (s : State) : Img := readImage galDefault (s.getGal 5).mem 0x60000

/-- R268: the flash address of entry SEQ. -/
def histAt (seq : Nat) : Nat := 0x200000 + 0x40 * (seq % 16384)

/-- R268: one history entry. -/
def histBytes (seq ev result slot host role : Nat) (id : Word) (version epoch idx sect entry off : Nat) : List Byte :=
  leBytes 4 seq ++ [BitVec.ofNat 8 ev, BitVec.ofNat 8 result, BitVec.ofNat 8 slot, BitVec.ofNat 8 (16 * host + role)] ++
  leBytes 4 id.toNat ++ leBytes 4 version ++ leBytes 4 epoch ++ leBytes 8 idx ++ leBytes 2 sect ++ leBytes 2 entry ++ leBytes 4 off ++
  List.replicate 28 0xFF

/-- R268: append an entry; the first entry of a sector erases it. `host` 15 is the PX-64 itself. -/
def history (ev result slot : Nat) (by_ : Nat × Nat) (id : Word) (version : Nat) (e : PlanErr) (s : State) : State :=
  let seq := s.plan.histNext
  s.modPlanIsl (fun p =>
    let m := if seq % 64 = 0 then mclear p.flash (histAt seq) 4096 else p.flash
    { p with
      histNext := (seq + 1) % 2 ^ 32
      flash := mputs flashDefault m (histAt seq)
        (histBytes seq ev result slot by_.1 by_.2 id version s.tb.epoch s.now e.sect e.entry e.off) })

/-- R268: a history slot holds a written entry with this SEQ. -/
def histSeq? (m : Mem) (i : Nat) : Option Nat :=
  let ev := (mget flashDefault m (0x200004 + 0x40 * i)).toNat
  let seq := leNat (mgets flashDefault m (0x200000 + 0x40 * i) 4)
  if 1 ≤ ev && ev ≤ 8 && seq % 16384 == i then some seq else none

/-- R268: the SEQs of the written entries. -/
def histSeqs (m : Mem) : List Nat :=
  let marks := m.filter (fun e => decide (0x200000 ≤ e.1) && decide (e.1 < 0x300000) && e.1 % 64 == 4)
  marks.filterMap (fun e => histSeq? m ((e.1 - 0x200000) / 64))

/-- R268: the next SEQ: one above the highest written one in serial order, 0 with none. -/
def histStart (m : Mem) : Nat :=
  match histSeqs m with
  | [] => 0
  | a :: t => (t.foldl (fun b q => if (q + 2 ^ 32 - b) % 2 ^ 32 < 2 ^ 31 then q else b) a + 1) % 2 ^ 32

/-- R452: the highest epoch in the history's written entries. -/
def histEpoch (m : Mem) : Nat :=
  let marks := m.filter (fun e => decide (0x200000 ≤ e.1) && decide (e.1 < 0x300000) && e.1 % 64 == 4)
  (marks.map (fun e =>
    let i := (e.1 - 0x200000) / 64
    match histSeq? m i with
    | none => 0
    | some _ => leNat (mgets flashDefault m (0x200010 + 0x40 * i) 4))).foldl max 0

/-- PLAN_HIST_SEL: the entry goes into PLAN_HIST_DATA; an entry overwritten or not yet written reads as all 0xFF. -/
def histSelect (seq : Nat) (s : State) : State :=
  let m := s.plan.flash
  s.modPlanIsl (fun p => { p with
    histSel := seq
    histData := if histSeq? m (seq % 16384) == some seq then mgets flashDefault m (histAt seq) 64 else List.replicate 64 0xFF })

/-! ## State and results -/

/-- R392: the source PLAN is raised when STATE changes. -/
def setPlanSt (st : PlanSt) (s : State) : State :=
  if s.plan.st = st then s else irqAll irqPlan (s.modPlanIsl (fun p => { p with st := st }))

/-- RESULT of the latest load, stage or swap command. -/
def planResult (code : Nat) (s : State) : State := s.modPlanIsl (fun p => { p with result := code })

/-- The code of PLAN_STAT.STATE. -/
def planStCode (st : PlanSt) : Nat :=
  match st with
  | .none => 0
  | .loading => 1
  | .inForce => 2
  | .staging => 3
  | .staged => 4
  | .swapWait => 5
  | .preparing => 6
  | .switching => 7

/-- R279: the field that a failing check names, its entry left open where the manual states none. -/
def errField (e : PlanErr) (s : State) : PlanErr × State :=
  if e.entry < 0x10000 then (e, s)
  else
    let f := s.freeNext
    ({ e with entry := bits f.1 15 0 }, f.2)

/-- PLAN_ERR and REJECTED after a failing check. -/
def planFailed (e : PlanErr) (s : State) : State :=
  irqAll irqPlan (s.modPlanIsl (fun p => { p with
    rejected := true, result := e.code, errSection := e.sect, errEntry := e.entry, errOffset := e.off }))

/-- What a validation needs to know (R279). -/
def State.planEnv (s : State) (limit : Nat) : PlanEnv :=
  { limit := limit, otp := s.role.otp, minver := s.plan.minver, rings := s.ringCount, ctxs := s.ctxCount
    engines := ((List.range 33).filter (fun e => (s.getEng e).st != .retired)).length }

/-! ## A plan comes into force outside a swap (R281 to R283) -/

/-- R173, R199: an output's assignment as PLS_OUT_CFG and WEIGHT give it. -/
def plsCfgOf (w : Word) (weight : Nat) : PlsCfg :=
  { mode := bits w 31 30, pol := bit w 29, acc := bits w 23 16, ctx := bits w 15 8, weight := weight }

/-- R273: the assignment and width of output o; without PULSES every output has MODE 0. -/
def Plan.outCfg (p : Plan) (o : Nat) : PlsCfg × Nat :=
  match p.pulses[o]? with
  | none => ({}, 2)
  | some (w, weight, width) => (plsCfgOf w weight, width)

/-- R207: the new context of an assignment carries the old one's accumulators. -/
def carriesOut (old new : Option PlanCtx) : Bool :=
  match old, new with
  | some a, some b => a.key != 0 && a.key == b.key
  | _, _ => false

/-- R207: the pulses of an output go on: the accumulators carry over, and number and weight are unchanged. -/
def keepsOut (a b : PlsCfg) (old new : Option PlanCtx) : Bool := a.acc == b.acc && a.weight == b.weight && carriesOut old new

/-- R278, R273: the configuration of input i. -/
def setInput (p : Plan) (i : Nat) (s : State) : State :=
  match p.pulses[16 + i]? with
  | none => s.modInp i (fun x => { x with mode := 0, edge := false, dir := 0, unit := 0, groupEn := false, group := 0, debounce := 0, weight := 0x10000 })
  | some (w, weight, _) =>
    (inWrite 0 15 i 0 w s).modInp i (fun x => { x with weight := weight })

/-- R127, R192: serve the numbers 0 to n − 1 by the unit of the same number, or, where it is retired, by the lowest spare. -/
def assignOwn (n total : Nat) (retired : Nat → Bool) : Tab Nat :=
  ((List.range n).foldl (fun (acc : Tab Nat × List Nat) k =>
    if !retired k then (acc.1 ++ [(k, k)], acc.2)
    else match acc.2 with
      | [] => (acc.1 ++ [(k, 15)], [])
      | v :: t => (acc.1 ++ [(k, v)], t)) ([], ((List.range total).filter (fun u => decide (u ≥ n) && !retired u)))).1

/-- A ring that a plan declares starts to train (R83). -/
def startRing (r : PlanRing) (s : State) : State :=
  let s := s.modRing r.ring (fun g => { st := .train, trainAt := s.now, nextRel := s.now, seq := g.seq })
  each [2 * r.ring, 2 * r.ring + 1] (fun s k => s.modPort k (fun p => { p with
    swing := r.swing, swingUsed := r.swing, rx := .down, signal := false, cdr := false, lockAt := s.now, commaRun := 0, goodRun := 0
    badRun := 0, restoreAt := none, lastLooped := false, wrapSeen := none })) s

/-- R127: an engine for ring r: the engine of the ring's number if it is spare, else the lowest spare. DESIGN CHOICE (log entry 95): the
spec names the engine only for a first load with no engine retired. -/
def State.engineFor (s : State) (r : Nat) : Option Nat := if s.spareEngines.contains r then some r else s.spareEngines.head?

/-- An engine starts to serve a declared ring. -/
def serveRing (r : PlanRing) (s : State) : State :=
  match s.engineFor r.ring with
  | none => s
  | some e => (startEngine e r.ring r.cfg .serving s).modStairIsl (fun t => { t with map := tset t.map r.ring e })

/-- R127: engines start to serve declared rings: every ring whose own engine is spare gets it, then the others take what is left. -/
def serveRings (rs : List PlanRing) (s : State) : State :=
  let own := rs.filter (fun r => s.spareEngines.contains r.ring)
  let rest := rs.filter (fun r => !s.spareEngines.contains r.ring)
  each rest (fun s r => serveRing r s) (each own (fun s r => serveRing r s) s)

/-- What a head that is not, or not yet, in the plan keeps: the retirements of its streams (R295). -/
def Head.kept (x : Head) : Head :=
  { retP := x.retP, retA := x.retA, fromP := x.fromP, fromA := x.fromA, pUse := if x.retP then 6 else 5, aUse := if x.retA then 6 else 5 }

/-- A head that a plan lists, before it is found. -/
def listHead (h : PlanHead) (s : State) : State :=
  s.modHead (128 * h.ring + h.pos) (fun x =>
    { x.kept with st := .absent, absAt := s.now, rejoins := x.rejoins, unhealthy := x.unhealthy, clip := x.clip })

/-- R446: the tail that belongs to a warning record: the newest copy with its epoch and W. -/
def Pwr.tailOf (p : Pwr) (r : SaveRec) : Option Tail :=
  let ok := fun (t : Option Tail) => match t with
    | none => none
    | some t => if t.epoch = r.epoch && t.w == r.idx then some t else none
  if p.tailVoid || !r.warning then none
  else match ok p.tailA, ok p.tailB with
    | some a, some b => some (if a.tEnd ≥ b.tEnd then a else b)
    | some a, none => some a
    | none, b => b

/-- R457: what a carried context receives at its first commit: the windows that closed without one, then the final window with
the tail. -/
def carryOf (r : SaveRec) (t : Option Tail) (x : SaveCtx) : List CWin :=
  match t, x.open_.reverse with
  | some t, w :: rest =>
    let sums := ((t.sums.find? (fun e => e.1 == x.key)).map (fun e => e.2)).getD []
    (({ w with flat := { w.flat with a := addSums w.flat.a sums } } : CWin) :: rest).reverse
  | _, _ => if r.warning then x.open_ else []

/-- R196: a dropped context goes into the swap ledger: the image of its register block, and the header. -/
def putLedger (x : PlanCtx) (y : Ctx) (tsw : Nat) (s : State) : State :=
  let base := 0x160000 + 0x1000 * x.c
  let old := bit (s.galWord 5 (base + 0xF00)) 31
  let img := (List.range 648).flatMap (fun i => leBytes 4 (ctxBlock s x y (y.view x.c) false (4 * i)).toNat)
  let s := whenDo old (raise .ledgerOverwrite x.c []) s
  let s := galPuts 5 base img s
  let s := galPuts 5 (base + 0xF04) (leBytes 4 x.key ++ leBytes 8 tsw ++ leBytes 8 y.k) s
  let s := galPutW 5 (base + 0xF00) (packW [(1, 31), (x.c, 0)]) s
  raise .ctxDropped x.c [(4, x.key), (8, tsw)] s

/-- R194: CTX_CARRIED, with both context numbers (the old one first) and the key. -/
def logCarried (old new key : Nat) (s : State) : State :=
  raise .ctxCarried (ctxNum new) [(1, ctxNum old), (1, ctxNum new), (4, key)] s

/-- R455, R447: ENERGY_UNSAVED of a context of the record, if this start has it to log. -/
def unsavedOf (c : Nat) (s : State) : State :=
  match s.pwr.note with
  | some (false, w, e) => raise .energyUnsaved (ctxNum c) [(8, w), (8, e)] s
  | _ => s

/-- R282, R459: the contexts of a plan that starts: those whose key a saved context carries take its accumulators, the others
start at 0, and saved contexts that no key matches go into the ledger. -/
def startContexts (p : Plan) (s : State) : State :=
  let saved := match s.pwr.chosen with | none => [] | some r => r.ctx.map (fun x => (r, x))
  let same := fun (x : PlanCtx) => saved.find? (fun e => x.key != 0 && e.2.x.key == x.key)
  let s := each p.ctxs (fun s x =>
    let s := s.modEvc x.c (fun _ => { set_ := x.evSet })
    let from_ := (s.getCtx x.c).gapFrom
    match same x with
    | none => s.modCtx x.c (fun _ => { fresh := 1, gapFrom := from_ })
    | some (r, y) =>
      let tail := if r.epoch = s.tb.epoch then none else s.pwr.tailOf r
      logCarried y.x.c x.c x.key (s.modCtx x.c (fun _ => { acc := y.y.acc, fresh := 2, gapFrom := from_, carry := carryOf r tail y }))) s
  each (saved.filter (fun e => e.2.x.key == 0 || !p.ctxs.any (fun x => x.key == e.2.x.key)))
    (fun s e => putLedger e.2.x e.2.y s.now (unsavedOf e.2.x.c s)) s

/-- R445: what a record keeps of an output, under the assignment c of the plan that starts: ρ, P, C, the pacing phase and the base
window. Its rate comes with the first credit, and ISSUED is C − P (R202; DEDUCED, log entry 98). -/
def PulseOut.saved (y : PulseOut) (c : PlsCfg) (width : Nat) : PulseOut :=
  { cfg := c, cur := c, width := width, curWidth := width, hold := true, rho := y.rho, pend := y.pend, credited := y.credited
    issued := (y.credited + 2 ^ 64 - y.pend) % 2 ^ 64, base := y.base, phase := y.phase }

/-- R208, R207: the outputs of a plan that starts. A saved output whose assignment goes on keeps its counts; another is rebased
(R206). Issuing resumes with the first commit of the output's group. -/
def startOutputs (p : Plan) (s : State) : State :=
  each (List.range 16) (fun s o =>
    let (c, width) := p.outCfg o
    let fresh : PulseOut := { cfg := c, cur := c, width := width, curWidth := width, hold := true }
    match s.pwr.chosen with
    | none => s.modOut o (fun _ => fresh)
    | some r =>
      match r.pulses.find? (fun e => e.1 == o) with
      | none => s.modOut o (fun _ => fresh)
      | some (_, y) =>
        let old := (r.ctx.find? (fun x => x.x.c == y.cur.ctx)).map (fun x => x.x)
        let s := s.modOut o (fun _ => y.saved c width)
        if keepsOut y.cur c old (p.ctx? c.ctx) then s
        else
          let first := match p.ctx? c.ctx with | none => 0 | some x => (s.getGrp x.grp).winBase + 1
          newUse o 0 first none [] { at_ := 0, host := 15, role := 0, rebase := true, cfg := c, width := width } s) s

/-- R397: a port's budget, with the share and blocks of the new plan. -/
def setBudgets (p : Plan) (s : State) : State :=
  p.budgets.zipIdx.foldl (fun s b => checkBudget b.2 (s.modHp b.2 (fun h => { h with budget := b.1.1, share := b.1.2 }))) s

/-- R281, R283: a plan comes into force as at start-up, with no swap: rings train, engines and units take their work, contexts take
the saved state. -/
def bringInForce (p : Plan) (s : State) : State :=
  let s := s.modPlanIsl (fun x => { x with cur := some p, next := none, prev := none, tsw := [], switched := [], moved := [], freeMoves := [], loaded := false, cut := false })
  let s := serveRings p.rings (each p.rings (fun s r => startRing r s) s)
  let s := each p.groups (fun s g => declareGroup g.g p s) s
  let s := each p.heads (fun s h => listHead h s) s
  let s := s.modTallyIsl (fun t => { t with unitOf := assignOwn (s.ctxCount / 20) 9 (fun u => (s.getUnit u).retired) })
  let s := s.modSpecIsl (fun x => { x with
    blkEng := assignOwn (s.ctxCount / 40) 5 (fun e => (s.getSpEng e).retired), roster := p.roster, refGrp := p.rosterGroup
    dwell := p.rosterDwell, dwellWr := [], rawWait := [], rounds := [], restart := none, swap := none })
  let s := startContexts p s
  let s := startOutputs p s
  let s := each (List.range 16) (fun s i => setInput p i s) s
  let s := setBudgets p s
  setPlanSt .inForce (galSettleAll s)

/-! ## Loading (R281) -/

/-- One slot is tried: its plan, or the failure logged. -/
def tryLoad (k : Nat) (s : State) : Option Plan × State :=
  let b := s.slotImage k
  match b.loadCheck (s.planEnv 0x100000) with
  | none => (some b.plan, s)
  | some e =>
    let (e, s) := errField e s
    let s := planFailed e s
    let s := raise .planLoadFail k [(1, e.code), (2, e.sect), (2, e.entry), (4, e.off)] s
    (none, history 2 e.code k (15, 0) (BitVec.ofNat 32 (b.u32 0xC)) (b.u32 0x10) e s)

/-- A load that succeeded. -/
def loaded (k : Nat) (p : Plan) (fallback : Bool) (s : State) : State :=
  let s := s.modPlanIsl (fun x => { x with slot := k, fallback := fallback, result := 0 })
  let s := history 1 0 k (15, 0) p.id p.version { code := 0, sect := 0, entry := 0, off := 0 } s
  bringInForce p s

/-- PWR_BOOT.LOAD_MS (R456, R461): a plan comes into force. -/
def noteLoad (s : State) : State := s.modPwrIsl (fun p => { p with loadMs := min 0xFFF (p.heldMs + (s.now - p.pgAt) / 384) })

/-- PLAN_LOAD (R281, R283). -/
def execPlanLoad (s : State) : Out :=
  onStew s (fun s =>
    if s.plan.st != .loading || s.inWarning then s
    else
      let k := s.plan.slot
      match tryLoad k s with
      | (some p, s) => loaded k p false (noteLoad s)
      | (none, s) =>
        match tryLoad (1 - k) s with
        | (some p, s) => loaded (1 - k) p true (noteLoad s)
        | (none, s) => setPlanSt .none (raise .planNone 0 [] (s.modPwrIsl (fun p => { p with st := .normal }))))

/-! ## Staging (R284, R285) -/

/-- R285: every command is logged. -/
def logCommand (role host cmd before code : Nat) (s : State) : State :=
  raiseAudit .planCommand 0 [(1, role), (1, host), (1, cmd), (1, before), (1, planStCode s.plan.st), (1, code)] s

/-- The state without a staged plan. -/
def State.restSt (s : State) : PlanSt := if s.plan.cur.isSome then .inForce else .none

/-- No field: an entry or command that no check failed. -/
def noErr : PlanErr := { code := 0, sect := 0, entry := 0, off := 0 }

/-- PLAN_ID and VERSION of the staged plan. -/
def State.stagedId (s : State) : Word × Nat := match s.plan.next with | none => (0, 0) | some p => (p.id, p.version)

/-- R286, R285: a waiting swap request is replaced or cancelled. -/
def swapReplaced (role host : Nat) (s : State) : State :=
  history 8 0 s.freeSlot (host, role) s.stagedId.1 s.stagedId.2 noErr (s.modPlanIsl (fun p => { p with swapReplaced := true }))

/-- R285: STAGE. The code, and the state after it. -/
def stageCmd (role host : Nat) (s : State) : Nat × State :=
  let start := fun (s : State) => setPlanSt .staging (s.modPlanIsl (fun p => { p with
    next := none, result := 0, stagedFrom := s.restSt, by_ := (host, role)
    runSrc := p.stageSrc, runLen := p.stageLen, stageAt := s.now, dirty := false }))
  if s.inWarning then (0x29, planResult 0x29 s)
  else match s.plan.st with
  | .loading | .staging | .preparing | .switching => (0x20, planResult 0x20 s)
  | .none | .inForce | .staged => (0, start s)
  | .swapWait => (0, start (swapReplaced role host s))

/-- The image that staging looks at. -/
def State.stageImage (s : State) : Img × Nat :=
  if s.plan.runSrc then (s.slotImage s.freeSlot, 0x100000) else (s.uploadImage, min 0x100000 s.plan.runLen)

/-- R280: a staging that a check fails. -/
def stageFailed (b : Img) (e : PlanErr) (s : State) : State :=
  let (e, s) := errField e s
  let s := planFailed e s
  let s := raise .planRejected 0 [(1, e.code), (2, e.sect), (2, e.entry), (4, e.off)] s
  let s := history 4 e.code s.freeSlot s.plan.by_ (BitVec.ofNat 32 (b.u32 0xC)) (b.u32 0x10) e s
  setPlanSt s.restSt s

/-- R266, R284: the free slot is erased and programmed. -/
def programSlot (bs : List Byte) (s : State) : State :=
  s.modPlanIsl (fun p => { p with
    flash := mfill flashDefault (mclear p.flash (slotBase (1 - p.slot)) 0x100000) (slotBase (1 - p.slot)) bs })

/-- An image whose IMAGE_CRC is wrong: what a programming that failed leaves (R280). -/
def spoilCrc (b : Img) : List Byte := (b.toList.zipIdx).map (fun e => if 0x7C ≤ e.2 && e.2 < 0x80 then e.1 ^^^ 0xFF else e.1)

/-- R280: a staging ends with FLASH_FAIL, and the free slot holds an image that fails BAD_CRC. -/
def flashFailed (b : Img) (s : State) : State := stageFailed b { code := 0x28, sect := 0, entry := 0xFFFF, off := 0 } (programSlot (spoilCrc b) s)

/-- R284: a host has written the upload area in STAGING: the stage ends with BAD_CRC or FLASH_FAIL. Which one the spec leaves open (a free
value, log entry 107). -/
def dirtyStage (b : Img) (s : State) : State :=
  let (v, s) := s.freeNext
  if bit v 0 then flashFailed b s else stageFailed b { code := 0x03, sect := 0, entry := 0xFFFF, off := 0x7C } s

/-- R280: a staging that is broken off leaves the free slot as it is, or, once programming has begun, with an image that fails BAD_CRC.
Validation takes at most 76,800 ticks (R284); when programming begins within them the spec leaves open (a free value, log entry 107). -/
def breakStage (s : State) : State :=
  let (b, limit) := s.stageImage
  let (v, s) := s.freeNext
  if (b.stageCheck (s.planEnv limit) s.plan.cur s.spareEngines.length).isNone && (bit v 0 || decide (s.now ≥ s.plan.stageAt + 76800)) then
    programSlot (spoilCrc b) s
  else s

/-- PLAN_STAGE_DONE (R284). -/
def execPlanStageDone (flashOk : Bool) (s : State) : Out :=
  onStew s (fun s =>
    if s.plan.st != .staging || s.inWarning then s
    else
      let (b, limit) := s.stageImage
      -- R362: a word of the upload area that reads as bad spoils the image
      let spoilt := !s.plan.runSrc && !(s.badWords 5 0x60000 limit).isEmpty
      let s := if s.plan.runSrc then s else readRange 5 0x60000 limit s
      if s.plan.dirty then dirtyStage b s
      else if spoilt then stageFailed b { code := 0x03, sect := 0, entry := 0xFFFF, off := 0x7C } s
      else match b.stageCheck (s.planEnv limit) s.plan.cur s.spareEngines.length with
      | some e => stageFailed b e s
      | none =>
        if !flashOk then flashFailed b s
        else
          let s := programSlot b.toList s
          let p := b.plan
          let s := history 3 0 s.freeSlot s.plan.by_ p.id p.version noErr s
          if s.plan.cur.isNone then
            let k := s.freeSlot
            let s := s.modPlanIsl (fun x => { x with slot := k, result := 0 })
            let s := history 1 0 k (15, 0) p.id p.version noErr s
            let s := bringInForce p s
            let s := each p.ctxs (fun s x => s.modCtx x.c (fun y => if y.fresh = 2 then { y with gapFrom := some 0 } else y)) s
            s.modPwrIsl (fun w => { w with saveDue := true })
          else setPlanSt .staged (s.modPlanIsl (fun x => { x with next := some p, result := 0 })))

/-! ## Preparing a swap (R286 to R288) -/

/-- R169, R286: a bank fade runs: some binding of the group has faded samples still to form. -/
def State.fadeRuns (s : State) (gi : Nat) : Bool :=
  let g := s.getGrp gi
  match g.fadeAt, s.planNow gi with
  | some a, some p => (p.ctxsOf gi).any (fun x => x.bound.any (fun i => decide (s.nextOf x.c i < a + g.fadeLen)))
  | _, _ => false

/-- R286: a fade runs in any group. -/
def State.fading (s : State) : Bool := (List.range 16).any (fun g => s.fadeRuns g)

/-- Rings that only the staged plan declares. -/
def newRings (old new : Plan) : List PlanRing := new.rings.filter (fun r => (old.ring? r.ring).isNone)

/-- The number of a listed head. -/
def PlanHead.num (h : PlanHead) : Nat := 128 * h.ring + h.pos

/-- R287: heads that the staged plan lists and the plan in force does not, at positions that are free. -/
def newHeads (old new : Plan) : List PlanHead :=
  new.heads.filter (fun h => !old.heads.any (fun o => o.serial == h.serial || o.num == h.num))

/-- R287, R288: heads that take the position of a head in force. The position is not free before the swap has completed, so preparation
cannot admit them and treats them as absent (DEDUCED, log entry 106). -/
def takeOverHeads (old new : Plan) : List PlanHead :=
  new.heads.filter (fun h => old.heads.any (fun o => o.num == h.num && o.serial != h.serial))

/-- R287 step 2: the heads on a ring in service are enumerated. -/
def enumInService (r : Nat) (s : State) : State :=
  each (List.range (s.getPort (2 * r)).hop) (fun s i => askCell r 0 (identCell i) s) s

/-- A head that a plan lists waits for admission where its ring is in service. -/
def joinListed (served : Bool) (h : PlanHead) (s : State) : State :=
  (listHead h s).modHead h.num (fun x => { x with st := if served then .joining else .absent })

/-- R287 steps 1 and 2: rings of the staged plan train, and its new heads on rings in service are enumerated. -/
def enterPreparing (s : State) : State :=
  match s.plan.cur, s.plan.next with
  | some o, some n =>
    let s := s.modPlanIsl (fun p => { p with prepAt := s.now, loaded := false, cut := false })
    let s := serveRings (newRings o n) (each (newRings o n) (fun s r => startRing r s) s)
    let s := each (newHeads o n) (fun s h => joinListed (o.ring? h.ring).isSome h s) s
    let found := newHeads o n ++ takeOverHeads o n
    let s := each (o.rings.filter (fun r => found.any (fun h => h.ring == r.ring))) (fun s r => enumInService r.ring s) s
    setPlanSt .preparing s
  | _, _ => s

/-- R291, R288: the engines of ring r return to the pool; one whose faults had called for a handover is retired (R293). -/
def releaseRing (r : Nat) (s : State) : State :=
  let drop := fun (e : Option Nat) (s : State) => match e with
    | none => s
    | some e => if (s.getEng e).st == .handingOver then retireEngine 0 e s else freeEngine e s
  (drop (s.takerOf r) (drop (s.engOf r) s)).modStairIsl (fun t => { t with map := tdel t.map r, taker := tdel t.taker r })

/-- R288: what preparation has begun is undone. -/
def undoPreparing (s : State) : State :=
  match s.plan.cur, s.plan.next with
  | some o, some n =>
    let s := each (newRings o n) (fun s r => (releaseRing r.ring s).modRing r.ring (fun _ => {})) s
    let s := each (newHeads o n) (fun s h => (headAbsent h.num s).modHead h.num Head.kept) s
    s.modPlanIsl (fun p => { p with loaded := false, cut := false })
  | _, _ => s

/-- R287 step 3: each changed bank goes into its group's inactive bank. -/
def loadBanks (s : State) : State :=
  match s.plan.next with
  | none => s
  | some n =>
    (each n.groups (fun s pg =>
      if !(s.getGrp pg.g).started then s
      else s.modGrp pg.g (fun g =>
        let b := g.bankNow
        let act := if b then g.hB else g.hA
        let g := { g with bankB := b, fadeAt := none, fadeLeft := 0 }
        if act = pg.bank then g else if b then { g with hA := pg.bank } else { g with hB := pg.bank })) s).modPlanIsl
      (fun p => { p with loaded := true })

/-- R287: the new rings run and the new heads are admitted, or found absent. -/
def State.prepared (s : State) : Bool :=
  match s.plan.cur, s.plan.next with
  | some o, some n =>
    (newRings o n).all (fun r => match (s.getRing r.ring).st with | .run | .wrap | .shed => true | _ => false) &&
    (newHeads o n).all (fun h => match (s.getHead h.num).st with | .admitted | .absent => true | _ => false) &&
    (takeOverHeads o n).isEmpty
  | _, _ => false

/-- PLAN_PREPARE (R286, R287): a waiting request enters preparation once no fade runs; in preparation the banks are loaded once
rings and heads are ready. -/
def execPlanPrepare (s : State) : Out :=
  onStew s (fun s => if s.inWarning then s else
    match s.plan.st with
    | .swapWait => if s.fading then s else enterPreparing s
    | .preparing => if !s.plan.loaded && (s.plan.cut || s.prepared) && !s.fading then loadBanks s else s
    | _ => s)

/-- R287, R85: a head that preparation has not admitted is absent. -/
def cutHead (h : Nat) (s : State) : State :=
  match (s.getHead h).st with
  | .admitted => s
  | .joining => raise .headAbsent h [] (s.modHead h (fun x => { x with st := .absent }))
  | .absent | .notDeclared => s.modHead h (fun x => { x with st := .absent })

/-- PREPARE_TIMEOUT (R287): rings not in RUN and heads not admitted are treated as absent. -/
def execPrepareTimeout (s : State) : Out :=
  onStew s (fun s =>
    if s.plan.st != .preparing || s.plan.cut || decide (s.now < s.plan.prepAt + 192000) then s
    else
      let s := s.modPlanIsl (fun p => { p with cut := true })
      match s.plan.cur, s.plan.next with
      | some o, some n =>
        each (takeOverHeads o n) (fun s h => raise .headAbsent h.num [] s) (each (newHeads o n) (fun s h => cutHead h.num s) s)
      | _, _ => s)

/-! ## Commands (R285) -/

/-- R286: SWAP. -/
def swapCmd (role host : Nat) (s : State) : Nat × State :=
  let take := fun (s : State) => s.modPlanIsl (fun p => { p with swapFrom := p.swapAt, result := 0, by_ := (host, role) })
  if s.inWarning then (0x29, planResult 0x29 s)
  else match s.plan.st with
  | .loading | .staging | .preparing | .switching => (0x20, planResult 0x20 s)
  | .none | .inForce => (0x21, planResult 0x21 s)
  | .staged => (0, let s := take s; if s.fading then setPlanSt .swapWait s else enterPreparing s)
  | .swapWait => (0, swapReplaced role host (take s))

/-- R285: CANCEL. -/
def cancelCmd (role host : Nat) (s : State) : Nat × State :=
  let back := fun (st : PlanSt) (s : State) =>
    let id := if s.plan.st = .staging then (BitVec.ofNat 32 (s.stageImage.1.u32 0xC), s.stageImage.1.u32 0x10) else s.stagedId
    setPlanSt st (planResult 0x2A (history 7 0x2A s.freeSlot (host, role) id.1 id.2 noErr s))
  match s.plan.st with
  | .none | .loading | .inForce | .switching => (0, s)
  | .staging => (0x2A, back s.restSt (breakStage s))
  | .staged => (0x2A, (back s.restSt s).modPlanIsl (fun p => { p with next := none }))
  | .swapWait => (0x2A, back .staged (s.modPlanIsl (fun p => { p with swapReplaced := true })))
  | .preparing => (0x2A, back .staged (undoPreparing s))

/-- One command: it acts, and is logged. -/
def planDo (cmd : Nat) (f : State → Nat × State) (role host : Nat) (s : State) : State :=
  let before := planStCode s.plan.st
  let (code, s) := f s
  logCommand role host cmd before code s

/-- R285: a write of PLAN_CMD: the commands act in the order STAGE, SWAP, CANCEL. -/
def planCmd (role host : Nat) (v : Word) (s : State) : State :=
  let s := s.modPlanIsl (fun p => { p with stageSrc := bit v 0 })
  let s := whenDo (bit v 31) (planDo 1 (stageCmd role host) role host) s
  let s := whenDo (bit v 30) (planDo 2 (swapCmd role host) role host) s
  whenDo (bit v 29) (planDo 3 (cancelCmd role host) role host) s

/-- R279, R288, R268: supply early warning aborts staging and preparation, a rejection either way. -/
def abortPlan (s : State) : State :=
  match s.plan.st with
  | .staging =>
    let b := s.stageImage.1
    stageFailed b { code := 0x29, sect := 0, entry := 0xFFFF, off := 0 } (breakStage s)
  | .preparing =>
    setPlanSt .staged (planResult 0x29 (history 4 0x29 s.freeSlot s.plan.by_ s.stagedId.1 s.stagedId.2 { noErr with entry := 0xFFFF }
      (undoPreparing s)))
  | _ => s

/-! ## Switching (R289, R290) -/

/-- The moved rings of a group. -/
def State.movesOf (s : State) (gi : Nat) : List Nat :=
  match s.plan.cur, s.plan.next with
  | some o, some n => (movedRings o n).filter (fun r => moveGroup o n r == some gi)
  | _, _ => []

/-- R289: the swap has still to switch group gi, and its index, or the one that its close waits for, is fixed. -/
def State.armed (s : State) (gi : Nat) : Bool :=
  (s.getGrp gi).tsw.isSome || s.plan.tsw.any (fun e => e.1 == gi) || s.plan.switched.contains gi

/-- R289: the switch of group gi waits for a close at or after an index, or is that index where the old plan lacks the group. -/
def fixSwitch (gi t : Nat) (s : State) : State :=
  if (s.plan.cur.bind (fun o => o.grp? gi)).isSome then s.modGrp gi (fun g => { g with tsw := some t })
  else s.modPlanIsl (fun p => { p with tsw := tset p.tsw gi t })

/-- R147, R289: spares start the moved rings of a group; its switch waits for F_g + 1,536. -/
def startMoves (gi : Nat) (n : Plan) (s : State) : State :=
  let s := each (s.movesOf gi) (fun s r =>
    match s.spareEngines, n.ring? r with
    | e :: _, some q =>
      let from_ := s.engOf r
      let s := startEngine e r q.cfg .takingOver s
      (s.modEng e (fun x => { x with from_ := from_ })).modStairIsl (fun t => { t with taker := tset t.taker r e })
    | _, _ => s) s
  fixSwitch gi (s.now + 1536) s

/-- R147, R289: groups whose rings move start in ascending order, each once spares are free for all its rings. A group that only one of
the plans has waits in the same way (DESIGN CHOICE, log entry 104). -/
def startAllMoves (n : Plan) : List Nat → State → State
  | [], s => s
  | g :: t, s =>
    let ms := s.movesOf g
    if ms.isEmpty || s.armed g then startAllMoves n t s
    else if ms.length ≤ s.spareEngines.length && ms.all (fun r => (s.takerOf r).isNone) then startAllMoves n t (startMoves g n s)
    else s

/-- R289: at T_p the swap is armed. The closes that T_sw of the groups of the old plan will be are not known yet: PLAN_TSW has them once the
steps known decide them (DESIGN CHOICE, log entry 105). -/
def armSwap (o n : Plan) (s : State) : State :=
  let s := s.modPlanIsl (fun p => { p with next := some (n.apart o), tsw := [], switched := [], moved := [] })
  let s := setPlanSt .switching s
  let s := each (List.range 16) (fun s g =>
    if ((o.grp? g).isSome || (n.grp? g).isSome) && (s.movesOf g).isEmpty then fixSwitch g (s.now + 1536) s else s) s
  let s := startAllMoves n (List.range 16) s
  history 5 0 s.freeSlot s.plan.by_ n.id n.version noErr s

/-- R287 step 4: the admitted new heads are past (N + 32) M ticks from their A0. -/
def State.settledHeads (s : State) (o n : Plan) : Bool :=
  (newHeads o n).all (fun h =>
    let x := s.getHead h.num
    match x.st, x.a0 with
    | .admitted, some a => decide (s.now ≥ a + s.busyQ h.ring)
    | _, _ => true)

/-- R194, R290, R147: the contexts of the swap before have all moved, and so have its rings. -/
def State.allMoved (s : State) : Bool :=
  match s.plan.prev with
  | none => true
  | some p => s.plan.freeMoves.isEmpty && p.groups.all (fun g => s.plan.moved.contains g.g)

/-- R147: a ring that feeds no context takes changed settings by a spare, from 1,536 ticks after the spare starts on (DESIGN CHOICE, log
entry 104); without a spare, or while another engine takes it over, it waits and its engine runs on. -/
def freeMove (r : Nat) (cfg : StairCfg) (s : State) : State :=
  match s.engOf r, s.takerOf r, s.spareEngines with
  | some old, none, e :: _ =>
    let s := startEngine e r cfg .takingOver s
    let s := s.modPlanIsl (fun p => { p with freeMoves := p.freeMoves.filter (fun q => q != r) })
    (s.modEng e (fun x => { x with from_ := some old, moveAt := some (s.now + 1536) })).modStairIsl (fun t => { t with taker := tset t.taker r e })
  | none, _, _ => s.modPlanIsl (fun p => { p with freeMoves := p.freeMoves.filter (fun q => q != r) })
  | some _, _, _ => s

/-- R147: the rings that wait to take changed settings, as spares free up. -/
def startFreeMoves (s : State) : State :=
  match s.plan.cur with
  | none => s
  | some p => each s.plan.freeMoves (fun s r => match p.ring? r with
    | none => s.modPlanIsl (fun x => { x with freeMoves := x.freeMoves.filter (fun q => q != r) })
    | some q => freeMove r q.cfg s) s

/-- SWAP_ARM (R289): at T_p; and again, in SWITCHING for groups, and after the swap for rings that feed none, that wait for spare engines. -/
def execSwapArm (s : State) : Out :=
  onStew s (fun s =>
    match s.plan.st, s.plan.cur, s.plan.next with
    | .preparing, some o, some n =>
      if s.plan.loaded && s.settledHeads o n && decide (s.now ≥ s.plan.swapFrom) && s.allMoved then armSwap o n s else s
    | .switching, some _, some n => startAllMoves n (List.range 16) s
    | _, _, _ => startFreeMoves s)

/-- R170: a cycle of the window that begins at `w`, under the new N and M. -/
def convertCyc (n m w : Nat) (c : Cyc) : Cyc :=
  let i := if c.tau 0 ≥ (w : Int) * 2 ^ 33 then 0 else 1
  let p := (rne (c.tau i + ((2 + n * (m - 1) : Nat) : Int) * 2 ^ 32) (2 * m)).toNat
  let st := stepOf m c.f
  { c with p0 := p - i * st, step := st, gn := n, gm := m, old0 := if i = 1 then some (c.pos 0) else none }

/-- The cycles from `first` on under the new N and M. -/
def convertCycs (n m w first : Nat) (t : Tab Cyc) : Tab Cyc :=
  (t.foldl (fun (acc : Tab Cyc × Option Cyc) e =>
    if e.1 < first then (acc.1 ++ [e], none)
    else
      let c := match acc.2 with
        | none => convertCyc n m w e.2
        | some b => { e.2 with p0 := b.p0 + 512 * b.step, step := stepOf m e.2.f, gn := n, gm := m }
      (acc.1 ++ [(e.1, c)], some c)) ([], none)).1

/-- R168, R290: the new references: the reference in use keeps its rank's phase where its context stays a reference; otherwise
the next reference found is a change. -/
def newRefs (o n : PlanGroup) (g : Grp) : Grp :=
  if g.ref ≥ 3 then g
  else
    let c := o.refs.getD g.ref 255
    match (List.range 3).find? (fun j => n.refs.getD j 255 == c) with
    | some j => { g with ref := j, prev := g.prev.map (fun e => (e.1, j)) }
    | none => { g with ref := 4, prev := none }

/-- R290: the group's own settings from the window that begins at w on. -/
def switchGroup (gi k w : Nat) (o n : Plan) (s : State) : State :=
  match o.grp? gi, n.grp? gi with
  | some og, some ng =>
    s.modGrp gi (fun g =>
      let first := g.firstCyc ng.w (k + 1)
      let (n', m') := n.grpCfg gi
      let move := n' != g.n || m' != g.m
      let act := if g.bankB then g.hB else g.hA
      let cycles := if move then convertCycs n' m' w first g.cycles else g.cycles
      let shift := match (cycles.find? (fun e => e.1 == first)).bind (fun e => e.2.old0) with | some _ => if move then 1 else 0 | none => 0
      let changed := act != ng.bank
      -- the inactive bank of a group that started after step 3 of R287 takes the new words here
      let g := if changed then (if g.bankB then { g with hA := ng.bank } else { g with hB := ng.bank }) else g
      newRefs og ng { g with
        n := n', m := m', cycles := cycles, ctrl := fgCtrlOf ng.ctrl, ctrlWr := g.ctrlWr.filter (fun e => decide (e.1 ≥ w)), tsw := none
        fadeAt := if changed then some (512 * first + shift) else none, fadeLen := if move then 0 else ng.l
        fadeLeft := if changed && !move then ng.l else 0 })
  | _, _ => s.modGrp gi (fun g => { g with tsw := none })

/-- R290: bindings that the new plan adds to a group start with the first sample of the window. -/
def addBindings (first : Nat) (o n : Plan) (gi : Nat) (s : State) : State :=
  each (n.ctxsOf gi) (fun s x =>
    let old := o.ctx? x.c
    let had := fun (i : Nat) => match old with | none => false | some y => y.grp == gi && (y.headOf i).isSome
    let hadSp := fun (i : Nat) => match old with | none => false | some y => y.grp == gi && y.specSlots.contains i
    let s := each x.bound (fun s i =>
      if had i then s
      else s.modRsIsl (fun r => { r with next := tset r.next (bkey x.c i) (512 * first), hamper := tset r.hamper (bkey x.c i) [] })) s
    each x.specSlots (fun s i => if hadSp i then s else s.modSpBind (bkey x.c i) (fun b => { b with next := 512 * first })) s) s

/-- R207: the group with which output o's assignment changes. -/
def outGroup (o : Nat) (cur : Nat) (old new : Plan) : Option Nat :=
  match new.num? (new.outCfg o).1.ctx with
  | some x => some x.grp
  | none => (old.num? cur).map (fun x => x.grp)

/-- R207: output o takes the new plan's assignment from the window that begins at w, number k of the named context's group. -/
def swapOutput (o w k : Nat) (old new : Plan) (s : State) : State :=
  let (c, width) := new.outCfg o
  let cur := (s.getOut o).cur
  let keep := keepsOut cur c (old.num? cur.ctx) (new.num? c.ctx)
  -- R206: a write made at T_sw or later still waits for its window, and the registers show it
  newUse o w k (outGroup o cur.ctx old new) ((s.getOut o).changes.filter (fun e => decide (e.at_ < w))) { at_ := w, host := 15, role := 0, rebase := !keep, cfg := c, width := width }
    (s.modOut o (fun x =>
      let later := x.changes.filter (fun e => decide (e.at_ ≥ w))
      let shown := match later with | [] => (c, width) | e :: _ => (e.cfg, e.width)
      { x with cfg := shown.1, width := shown.2, changes := later }))

/-- R243: the roster or its reference group changes with the close of window k of the old reference group at w = T_sw. -/
def swapRoster (k w : Nat) (n : Plan) (s : State) : State :=
  if n.roster = s.spec.roster && n.rosterGroup == s.spec.refGrp then
    s.modSpecIsl (fun x => { x with dwellWr := x.dwellWr.filter (fun e => decide (e.1 ≥ w)) ++ [(w - 1, n.rosterDwell)] })
  else
    settleRoster (s.modSpecIsl (fun x => { x with
      swap := some { w := w, k := k, roster := n.roster, refGrp := n.rosterGroup, dwell := n.rosterDwell } }))

/-- R147: the moved rings of group gi are served under the new settings from T_sw = w on. -/
def moveFrom (gi w : Nat) (s : State) : State :=
  each (s.movesOf gi) (fun s r => match s.takerOf r with
    | none => s
    | some e => s.modEng e (fun x => { x with moveAt := some w })) s

/-- R291: the heads that the new plan no longer lists. -/
def goneHeads (o n : Plan) : List PlanHead := o.heads.filter (fun h => !n.heads.any (fun x => x.num == h.num && x.serial == h.serial))

/-- R349: the outings of both detectors of a head that is no longer in the plan are ABORTED. -/
def headOutings (h : Nat) (s : State) : State := endOutings 1 5 true h (endOutings 1 5 false h s)

/-- SWAP_SWITCH of a group in the old plan, whose window k has closed at w = T_sw(g). -/
def switchOld (gi k w : Nat) (o n : Plan) (s : State) : State :=
  let s := s.modPlanIsl (fun p => { p with tsw := tset p.tsw gi w, switched := gi :: p.switched })
  let first := match o.grp? gi with | none => 0 | some pg => (s.getGrp gi).firstCyc pg.w (k + 1)
  let s := moveFrom gi w s
  let s := switchGroup gi k w o n s
  let s := each ((o.ctxsOf gi).filter (fun x => (n.num? x.c).isNone)) (fun s x => capCtxGone x.c s) s
  let s := each ((goneHeads o n).filter (fun h => o.homeGrp h.num == some gi)) (fun s h => headOutings h.num s) s
  let s := addBindings first o n gi s
  let s := each (List.range 16) (fun s i => if outGroup i (s.getOut i).cur.ctx o n == some gi then swapOutput i w (k + 1) o n s else s) s
  if !s.spec.roster.isEmpty && s.spec.refGrp == gi || s.spec.roster.isEmpty && n.rosterGroup == gi && !n.roster.isEmpty then swapRoster k w n s
  else s

/-- SWAP_SWITCH of a group that only the new plan has: it starts at w (R154). -/
def switchNew (gi w : Nat) (o n : Plan) (s : State) : State :=
  let s := s.modPlanIsl (fun p => { p with switched := gi :: p.switched, moved := gi :: p.moved })
  let s := beginGroup gi w n (declareGroup gi n s)
  let s := moveFrom gi w s
  let s := each (n.ctxsOf gi) (fun s x =>
    let s := s.modCtx x.c (fun _ => { fresh := 1 })
    let s := s.modEvc x.c (fun _ => { set_ := x.evSet })
    each (List.range 8) (fun s i => s.modSpBind (bkey x.c i) (fun _ => {})) s) s
  let s := each (List.range 16) (fun s i =>
    if outGroup i (s.getOut i).cur.ctx o n == some gi then swapOutput i w ((s.getGrp gi).winBase + 1) o n s else s) s
  if s.spec.roster.isEmpty && n.rosterGroup == gi && !n.roster.isEmpty then swapRoster 0 w n s else s

/-- SWAP_SWITCH (R290). -/
def execSwapSwitch (g : Fin 16) (s : State) : Out :=
  onStew s (fun s =>
    match s.plan.st, s.plan.cur, s.plan.next with
    | .switching, some o, some n =>
      if s.plan.switched.contains g then s
      else if (o.grp? g).isSome then
        match (s.getGrp g).swapClose (s.winCycles g) with
        | none => s
        | some (k, w) => if (s.getGrp g).closed = k then switchOld g k w o n s else s
      else if (n.grp? g).isSome then
        match s.plan.tsw.find? (fun e => e.1 == g.val) with
        | none => s
        | some (_, w) => if s.now ≥ w then switchNew g w o n s else s
      else s
    | _, _, _ => s)

/-! ## Contexts move at the commit of the last old window (R194 to R196, R262) -/

/-- R194, R262: what the number of a new context held for windows after the switch goes under the carried or new state. -/
def placeCtx (x : PlanCtx) (k w first : Nat) (src : Option (Nat × Ctx × EvCtx)) (here : Ctx) (hereEv : EvCtx) (s : State) : State :=
  let later := here.wins.filter (fun e => decide (e.1 > k))
  let same := match src with | some (c, _, _) => c == x.c | none => false
  let base : Ctx := match src with | some (_, y, _) => { y with fresh := 2 } | none => { fresh := 1 }
  let s := s.modCtx x.c (fun _ => { base with
    wins := later, ckFlat := (here.ckAfter k).ckFlat, ckCyc := (here.ckAfter k).ckCyc, kept := here.kept
    unitFrom := here.unitFrom, inGap := here.inGap
    nextFlat := some (match here.nextFlat with | none => 2 * w | some t => max t (2 * w)), nextCyc := max here.nextCyc first })
  let wr := hereEv.wr.filter (fun e => decide (e.1 ≥ w))
  -- R246: an entry into LOCKED since T_sw has asked the number of the new context for its z
  let zs := if same then [] else hereEv.zs.filter (fun e => decide (e.1 > 512 * first))
  let asks := if same then [] else hereEv.zAsk
  let ev : EvCtx := match src with
    | none => { set_ := x.evSet, lastB := 512 * first + 256, wNext := 512 * first, wr := wr, zs := zs ++ [(0, 0)], zAsk := asks }
    | some (_, _, e) =>
      let e := if e.set_.enable && !x.evSet.enable then abortAll x.c x.grp e else e
      applySettings w { e with wr := wr ++ [(w - 1, x.evSet)], zs := zs ++ e.zs, zAsk := e.zAsk ++ asks }
  let s := s.modEvc x.c (fun _ => ev)
  if same then s
  else each (List.range 8) (fun s i => s.modSpBind (bkey x.c i) (fun b => { next := b.next, wins := b.wins.filter (fun e => decide (e.1 > k)) })) s

/-- R194: a carried context under another number takes the old number's hamper for the samples before the switch, and its
aggregations. -/
def moveHamper (oldC newC first : Nat) (s0 s : State) : State :=
  each (List.range 8) (fun s i =>
    let s := s.modRsIsl (fun r => { r with
      hamper := tset r.hamper (bkey newC i) ((tget [] r.hamper (bkey newC i)).filter (fun q => decide (q.m ≥ 512 * first)) ++
        (s0.hamper oldC i).filter (fun q => decide (q.m < 512 * first))) })
    let b := s0.getSpBind (bkey oldC i)
    s.modSpBind (bkey newC i) (fun q => { q with a150 := b.a150, a10 := b.a10, a2h := b.a2h, pend := b.pend, res := b.res })) s

/-- R290: the channel bindings or scales of a carried context change. -/
def channelsChange (a b : PlanCtx) : Bool := a.channels != b.channels || [0, 1, 2, 3].any (fun i => a.slot i != b.slot i)

/-- R196, R262, R188: an old context that no new one carries. -/
def dropCtx (x : PlanCtx) (w : Nat) (s : State) : State :=
  let y := s.getCtx x.c
  let s := match y.preset with
    | none => s
    | some p => raise .energyPresetDropped x.c [(1, p.role), (1, p.host), (1, p.acc)] s
  let s := writeRecs x.c (2 ^ 64) (s.modEvc x.c (abortAll x.c x.grp))
  putLedger x y w s

/-- R194: number c is free of its old context: a new one that works apart from it takes the number (`Plan.apart`). -/
def ownNumber (c : Nat) (s : State) : State :=
  let g := 256 + c
  if ((s.newPlan).bind (fun p => p.ctx? g)).isNone then s
  else
    let rekey := fun (p : Option Plan) => p.map (Plan.rekey (fun x => if x = g then c else x))
    let s := s.modPlanIsl (fun p => if p.st = .switching then { p with next := rekey p.next } else { p with cur := rekey p.cur })
    let s := (s.modCtx c (fun _ => s.getCtx g)).modCtx g (fun _ => {})
    let s := (s.modEvc c (fun _ => { s.getEvc g with recs := (s.getEvc g).recs.map (fun r => { r with ctx := c }) })).modEvc g (fun _ => {})
    let s := s.modSpecIsl (fun x => { x with from_ := tset (tset x.from_ c (tget 0 x.from_ g)) g 0 })
    each (List.range 8) (fun s i =>
      let s := (s.modSpBind (bkey c i) (fun _ => s.getSpBind (bkey g i))).modSpBind (bkey g i) (fun _ => {})
      let s := unstall (.cycles (bkey g i)) s
      s.modRsIsl (fun r => { r with
        next := tdel (tset r.next (bkey c i) (tget 0 r.next (bkey g i))) (bkey g i)
        hamper := tdel (tset r.hamper (bkey c i) (tget [] r.hamper (bkey g i))) (bkey g i) })) s

/-- R194 to R196: after the commit of the last window k of group gi under the old plan, its contexts take their places in the new
plan. -/
def moveContexts (gi k : Nat) (s : State) : State :=
  match s.oldPlan, s.newPlan, s.plan.tsw.find? (fun e => e.1 == gi) with
  | some o, some n, some (_, w) =>
    if s.plan.moved.contains gi || (s.getGrp gi).twOf k != w then s
    else
      let olds := o.ctxsOf gi
      let news := n.ctxsOf gi
      let first := match o.grp? gi with | none => 0 | some pg => (s.getGrp gi).firstCyc pg.w (k + 1)
      let carries := fun (x : PlanCtx) => olds.find? (fun y => x.key != 0 && y.key == x.key)
      let s := each (olds.filter (fun y => y.key == 0 || !news.any (fun x => x.key == y.key))) (fun s y => dropCtx y w s) s
      let s0 := s
      let s := each news (fun s x =>
        match carries x with
        | none => placeCtx x k w first none (s0.getCtx x.c) (s0.getEvc x.c) s
        | some y =>
          let s := placeCtx x k w first (some (y.c, s0.getCtx y.c, s0.getEvc y.c)) (s0.getCtx x.c) (s0.getEvc x.c) s
          let s := whenDo (y.c != x.c) (moveHamper y.c x.c first s0) s
          let s := whenDo (channelsChange y x) (fun s => s.modEvc x.c (fun e => { e with straddle := some (512 * first) })) s
          logCarried y.c x.c x.key s) s
      let s := each (olds.filter (fun y => !news.any (fun x => x.c == y.c))) (fun s y =>
        let s := s.modCtx y.c (fun _ => {})
        let s := s.modEvc y.c (fun _ => {})
        each (List.range 8) (fun s i => s.modSpBind (bkey y.c i) (fun _ => {})) s) s
      let s := each olds (fun s y => ownNumber y.c s) s
      let s := s.modPlanIsl (fun p => { p with moved := gi :: p.moved })
      if (n.grp? gi).isNone then (s.modGrp gi (fun _ => {})).modEvIsl (fun e => { e with doneK := tdel e.doneK gi }) else s
  | _, _, _ => s

/-! ## Completing a swap (R291) -/

/-- R291: a ring declared only by the old plan stops, and its engine returns to the pool. -/
def stopRing (r : Nat) (s : State) : State :=
  let s := capRingGone r s
  (releaseRing r s).modRing r (fun _ => {})

/-- A head leaves the plan: the outings of one that feeds no group are ABORTED now (R349), and its changes are dropped. -/
def dropHead (h : Nat) (s : State) : State := (headAbsent h (headOutings h s)).modHead h Head.kept

/-- R291: gains and plan trims of a head that differ from those in force become sampling changes. -/
def headSettings (h : PlanHead) (s : State) : State :=
  let x := s.getHead h.num
  if x.st != .admitted then s
  else
    let put := fun (reg : Nat) (v : Nat) (s : State) => pushPx h.num { reg := reg, value := BitVec.ofNat 32 v, asker := .px, src := 1 } s
    let s := whenDo (x.gainP != h.gainP) (put regGainP h.gainP) s
    let s := whenDo (x.gainA != h.gainA) (put regGainA h.gainA) s
    let s := whenDo (s.srcOf h.num false == 1 && (s.trimOf h.num false) != h.trimP) (put regTrimP h.trimP.toNat) s
    whenDo (s.srcOf h.num true == 1 && (s.trimOf h.num true) != h.trimA) (put regTrimA h.trimA.toNat) s

/-- R291: the swap completes. -/
def completeSwap (o n : Plan) (s : State) : State :=
  let slot := s.freeSlot
  let s := each (o.rings.filter (fun r => (n.ring? r.ring).isNone)) (fun s r => stopRing r.ring s) s
  let s := each (goneHeads o n) (fun s h => dropHead h.num s) s
  let s := each (takeOverHeads o n) (fun s h => listHead h s) s
  let s := each n.rings (fun s r => each [2 * r.ring, 2 * r.ring + 1] (fun s k => s.modPort k (fun p => { p with swing := r.swing })) s) s
  let s := each n.heads (fun s h => headSettings h s) s
  let s := each (List.range 16) (fun s i =>
    if (outGroup i (s.getOut i).cur.ctx o n).isNone then swapOutput i s.now 0 o n s else s) s
  let s := each (List.range 16) (fun s i => setInput n i s) s
  let s := setBudgets n s
  let s := s.modPlanIsl (fun p => { p with cur := some n, prev := some o, next := none, slot := slot, loaded := false, cut := false })
  let s := s.modPlanIsl (fun p => { p with freeMoves := (movedRings o n).filter (fun r => (moveGroup o n r).isNone) })
  let s := startFreeMoves s
  let s := history 6 0 slot s.plan.by_ n.id n.version noErr s
  let s := s.modPwrIsl (fun w => { w with saveDue := true })
  setPlanSt .inForce (galSettleAll s)

/-- SWAP_COMPLETE (R291): every T_sw has passed. -/
def execSwapComplete (s : State) : Out :=
  onStew s (fun s =>
    match s.plan.st, s.plan.cur, s.plan.next with
    | .switching, some o, some n =>
      if (o.groups ++ n.groups).all (fun g => s.plan.switched.contains g.g) then completeSwap o n s else s
    | _, _, _ => s)

/-! ## The start of a group (R154) -/

/-- GROUP_START (R154): once each of the group's rings runs or has spent 76,800 ticks in training. -/
def execGroupStart (g : Fin 16) (s : State) : Out :=
  onIsl islResamp s (fun s =>
    match s.plan.cur with
    | none => s
    | some p =>
      if (s.getGrp g).started || (p.grp? g).isNone || !s.ringsReady p g then s
      else
        let s := beginGroup g s.now p s
        -- R255: settings written since the plan came into force are those of window 1
        let s := each (p.ctxsOf g) (fun s x => s.modEvc x.c (applySettings ((s.getGrp g).twOf (s.getGrp g).winBase))) s
        let s := applyChanges g ((s.getGrp g).winBase + 1) ((s.getGrp g).twOf (s.getGrp g).winBase) s
        whenDo (s.spec.refGrp == g.val && s.spec.rounds.isEmpty && s.spec.restart.isNone && s.spec.swap.isNone && !s.spec.roster.isEmpty)
          (startRounds ((s.getGrp g).winBase + 1)) s)

/-! ## Registers (R292) -/

/-- PLAN_KEYS. -/
def planKeys (otp : Tab OtpSlot) : Word :=
  packW ((List.range 4).flatMap (fun i => match tget .empty otp i with
    | .empty => []
    | .key _ => [(1, i)]
    | .revoked _ => [(1, i), (1, 4 + i)]))

/-- R289: PLAN_TSW of group g: T_sw once it is known. -/
def State.planTsw (s : State) (g : Nat) : Nat :=
  match s.plan.tsw.find? (fun e => e.1 == g), (s.getGrp g).swapClose (s.winCycles g) with
  | some e, _ => e.2
  | none, some (_, w) => w
  | none, none => 0

/-- A plan register by offset from 0x00_0100. -/
def planRead (s : State) (off : Nat) : Word :=
  let p := s.plan
  match off with
  | 0x00 => packW [(planStCode p.st, 28), (b2n p.fallback, 27), (p.slot, 26), (b2n p.swapReplaced, 25), (b2n p.rejected, 24), (p.result, 8)]
  | 0x04 => packW [(b2n p.stageSrc, 0)]
  | 0x08 => packW [(p.stageLen, 0)]
  | 0x0C => wordOf p.swapAt 0
  | 0x10 => wordOf p.swapAt 1
  | 0x14 => BitVec.ofNat 32 p.errOffset
  | 0x18 => packW [(p.errSection, 16), (p.errEntry, 0)]
  | 0x20 => match p.cur with | none => 0 | some c => c.id
  | 0x24 => match p.cur with | none => 0 | some c => BitVec.ofNat 32 c.version
  | 0x28 => s.stagedId.1
  | 0x2C => BitVec.ofNat 32 s.stagedId.2
  | 0x30 => BitVec.ofNat 32 p.minver
  | 0x34 => planKeys s.role.otp
  | 0x38 => BitVec.ofNat 32 p.histNext
  | 0x3C => BitVec.ofNat 32 p.histSel
  | _ =>
    if 0x40 ≤ off && off < 0xC0 then wordOf (s.planTsw ((off - 0x40) / 8)) (off % 8 / 4)
    else if 0xC0 ≤ off && off < 0x100 then BitVec.ofNat 32 (leNat ((p.histData.drop (off - 0xC0)).take 4))
    else 0

/-- A write of a plan register by a host in a role. A PLAN_MINVER below the VERSION in force is ignored. -/
def planWrite (role host off : Nat) (v : Word) (s : State) : State :=
  match off with
  | 0x00 => s.modPlanIsl (fun p => { p with swapReplaced := p.swapReplaced && !bit v 25, rejected := p.rejected && !bit v 24 })
  | 0x04 => planCmd role host v s
  | 0x08 => s.modPlanIsl (fun p => { p with stageLen := bits v 20 0 })
  | 0x0C => s.modPlanIsl (fun p => { p with swapAt := setWordOf p.swapAt 0 v })
  | 0x10 => s.modPlanIsl (fun p => { p with swapAt := setWordOf p.swapAt 1 v })
  | 0x30 =>
    let floor := match s.plan.cur with | none => 0 | some c => c.version
    if v.toNat < floor then s
    else (s.modPlanIsl (fun p => { p with minver := v.toNat })).modPwrIsl (fun w => { w with saveDue := true })
  | 0x3C => histSelect v.toNat s
  | _ => s

end Sys2Proof.Machine
end

