-- ==== Sys2Proof/Machine/Replies.lean ====
section
/-! DEFINITION. Chapter 16, replies: their frames (R379, R380), the reply queue, and the answers of fences (R387, R390, R391). -/

namespace Sys2Proof.Machine

/-- STATUS, CAUSE and WORD of a reply (R379, R380). -/
structure Answer where
  status : Nat := 0
  cause : Nat := 0
  word : Nat := 0
  deriving DecidableEq, Repr

/-- ACCESS_ERROR with a cause. -/
def accErr (cause word : Nat) : Answer := { status := 1, cause := cause, word := word }

/-- R378: the code of an operation. -/
def opRead : Nat := 0x01
/-- WRITE. -/
def opWrite : Nat := 0x02
/-- FENCE. -/
def opFence : Nat := 0x03
/-- FENCE_COMMIT. -/
def opFenceCommit : Nat := 0x04
/-- NOP. -/
def opNop : Nat := 0x05
/-- RESYNC. -/
def opResync : Nat := 0x0F

/-- R379: a reply frame. -/
def replyFrame (seq op : Nat) (a : Answer) (taken : Nat) (data : List Word) : List Byte :=
  let body := leBytes 1 0xD5 ++ leBytes 1 seq ++ leBytes 1 op ++ leBytes 1 data.length ++ leBytes 1 a.status ++ leBytes 1 a.cause ++
    leBytes 1 a.word ++ leBytes 1 0 ++ leBytes 8 taken ++ data.flatMap (fun w => leBytes 4 w.toNat)
  body ++ leBytes 2 (crc16 body).toNat

/-- R386: a reply enters the port's reply queue. -/
def putReply (p seq op : Nat) (a : Answer) (taken : Nat) (data : List Word) (s : State) : State :=
  s.modHp p (fun h => { h with replies := h.replies ++ [{ seq := seq, bytes := replyFrame seq op a taken data }] })

/-- R387, R390, R391: the reply of a fence; after a discarded word before it, with ACCESS_ERROR, cause LATE. -/
def replyFence (p : Nat) (f : Fence) (a : Answer) (s : State) : State :=
  let late := (s.getHp p).lates.any (fun o => decide (o < f.before))
  let s := s.modHp p (fun h => { h with lates := h.lates.filter (fun o => decide (o ≥ f.before)) })
  putReply p f.seq (if f.group.isSome then opFenceCommit else opFence) (if late then accErr 0x09 0 else a) s.now [] s

/-- A waiting fence is answered, and waits no longer. -/
def answerFence (p : Nat) (f : Fence) (a : Answer) (s : State) : State :=
  replyFence p f a (s.modHp p (fun h => { h with fences := h.fences.erase f }))

/-- R391: at the commit of window k of group gi, which began at index `a`: the fences whose writes took effect before it are
answered; where the group ends with this window, the others are GONE. -/
def commitFences (gi a : Nat) (ends : Bool) (s : State) : State :=
  each [0, 1, 2, 3] (fun s p =>
    let h := s.getHp p
    let mine := h.fences.filter (fun f => f.group == some gi)
    let begun := fun (e : Option Nat) => match e with | none => false | some t => decide (t < a)
    let s := (mine.filter (fun f => begun f.effAt)).foldl (fun s f => answerFence p f {} s) s
    let s := if ends then (mine.filter (fun f => !begun f.effAt)).foldl (fun s f => answerFence p f { status := 4, cause := 1 } s) s else s
    let at_ := (s.getHp p).fcAt
    let at_ := if ends then at_.filter (fun e => e.1 != gi)
      else if begun h.lastEff && (at_.find? (fun e => e.1 == gi)).isNone then tset at_ gi s.now
      else at_
    s.modHp p (fun h => { h with fcAt := at_ })) s

/-- R391: a word of the port has taken effect now (or has been discarded): fences that waited for it alone know the index. -/
def wordDone (p : Nat) (s : State) : State :=
  s.modHp p (fun h => { h with
    lastEff := some s.now, fcAt := []
    fences := h.fences.map (fun f =>
      if f.effAt.isNone && !(s.host.posted.any (fun w => w.host == p && decide (w.ord < f.before))) then { f with effAt := some s.now }
      else f) })

end Sys2Proof.Machine
end

