-- ==== Sys2Proof/Machine/Commit.lean ====
section
/-! DEFINITION. The commit boundary (R20 to R24, R29): the commit sequencer waits for the completion tokens of a group's window
and then changes every committed result of the group at once. -/

namespace Sys2Proof.Machine

/-! ## Tokens -/

/-- R22: the tokens that window k of group gi needs: of the tally units and harmonic engines that serve its contexts in it, and of the
event unit. -/
def State.tokensNeeded (s : State) (gi k : Nat) (p : Plan) : List Nat :=
  let xs := p.ctxsOf gi
  let tally := (xs.filter (fun x => decide (s.unitFor x.c < 9) && decide ((s.getCtx x.c).unitFrom ≤ k))).map (fun x => tallyToken x.c)
  let harm := if s.spec.shed then [] else
    (xs.filter (fun x => decide (s.harmFor x.c < 5) && decide (tget 0 s.spec.from_ x.c ≤ k))).map (fun x => harmToken x.c)
  (tally ++ harm).eraseDups ++ (if s.ev.down then [] else [16])

/-- The needed tokens that are missing. -/
def State.tokensMissing (s : State) (gi k : Nat) (p : Plan) : List Nat :=
  (s.tokensNeeded gi k p).filter (fun u => !s.hasToken gi k u)

/-- R29, R306, R311: no tally unit has completed window k of context x. -/
def State.tallyLost (s : State) (gi k : Nat) (x : PlanCtx) : Bool := !s.hasToken gi k (tallyToken x.c)

/-- R217, R29, R311: no harmonic engine has completed window k of context x. -/
def State.harmLost (s : State) (gi k : Nat) (x : PlanCtx) : Bool := !s.hasToken gi k (harmToken x.c)

/-- R311: the unit or engine, by its number within its kind, whose token is missing. -/
def State.lateUnit (s : State) (tok : Nat) : Nat := if tok < 8 then tget 15 s.tally.unitOf tok else tget 15 s.spec.blkEng (tok - 8)

/-! ## One context (R182, R183, R188 to R190) -/

/-- The gap of window k in [a, b): phases, first and last tick. -/
def windowGap (x : PlanCtx) (lost : Bool) (a b : Nat) (w : CWin) : Option (Nat × Nat × Nat) :=
  if lost then some (2 ^ phasesOf x.kind - 1, a, b - 1)
  else
    let m := w.flat.gapPh ||| w.cyc.gapPh
    match w.flat.gapFirst, w.cyc.gapFirst with
    | none, none => none
    | some f, none => some (m, f, w.flat.gapLast)
    | none, some f => some (m, f, w.cyc.gapLast)
    | some f, some g => some (m, min f g, max w.flat.gapLast w.cyc.gapLast)

/-- R459: the gap of a restart, from the alarm's tick to the first counted sample, once that has come. -/
def Ctx.restartGap (y : Ctx) (x : PlanCtx) : Option (Nat × Nat × Nat) :=
  match y.gapFrom, y.gapTo with
  | some f, some t => some (2 ^ phasesOf x.kind - 1, f, t)
  | _, _ => none

/-- Log a gap (R189). -/
def logGap (c : Nat) (g : Option (Nat × Nat × Nat)) (s : State) : State :=
  match g with
  | none => s
  | some (m, f, l) => raise .energyGap (ctxNum c) [(1, m), (8, f), (8, l)] s

/-- R188: the pending preset that applies in a window that began at index a. -/
def Ctx.presetNow (y : Ctx) (a : Nat) : Option Preset := y.preset.filter (fun q => decide (q.effAt < a))

/-- R188: the accumulator takes the preset value; WRAP is cleared and the residue kept. -/
def applyPresetTo (q : Option Preset) (t : Tab Acc) : Tab Acc :=
  match q with
  | none => t
  | some q => tmod {} t q.acc (fun v => { v with val := q.val, wrap := false })

/-- CTX_STAT of a window (R189, R190, R299, R181, R188, R194). -/
def statOf (w : CWin) (gap uncal disagree skip preset : Bool) (fresh : Nat) : Nat :=
  ((w.flat.flags ||| w.cyc.flags) &&& 0x43) ||| 4 * b2n disagree ||| 8 * b2n gap ||| 16 * b2n uncal ||| 32 * b2n skip |||
    128 * b2n preset ||| 256 * (fresh % 4)

/-- What the first commit of a start logs for a carried context (R457, R455). -/
def logCarriedIn (gi c fresh : Nat) (s : State) : State :=
  match s.pwr.note with
  | some (added, w, e) =>
    if fresh = 2 ∧ !s.pwr.firstDone.contains gi then
      raise (if added then .tailAdded else .energyUnsaved) (ctxNum c) [(8, w), (8, e)] s
    else s
  | none => s

/-- R182 to R190: the commit of window k, of [a, b), for context x. ENERGY_PRESET carries the role and the host port first (R466), the old
and the new value whole, and its audit number (R415, R416): more than two entries hold (DESIGN CHOICE, log entry 96). -/
def commitCtx (gi k a b serving : Nat) (lost : Bool) (p : Plan) (x : PlanCtx) (s : State) : State :=
  let y := s.getCtx x.c
  let w : CWin := tget {} y.wins k
  let own := windowGap x lost a b w
  let re := y.restartGap x
  let q := y.presetNow a
  let last := match own, re with
    | some g, some r => if g.2.2 > r.2.2 then some g else some r
    | some g, none => some g
    | none, r => r
  let stat := statOf w (own.isSome || re.isSome) (s.uncalWin x a b) (s.disagrees p x b) w.harm.skip q.isSome y.fresh
  let s := logGap x.c re s
  let s := logGap x.c own s
  let s := match q with
    | none => s
    | some q => raiseAudit .energyPreset (ctxNum x.c)
        [(1, q.role), (1, q.host), (1, q.acc), (9, (tget {} y.acc q.acc : Acc).val), (9, q.val), (8, k)] s
  let s := logCarriedIn gi x.c y.fresh s
  s.modCtx x.c (fun y => { y.ckAfter k with
    acc := addIncs (divisorOf x.kind) (y.incs x.kind k) (applyPresetTo q y.acc)
    wins := y.wins.filter (fun e => decide (e.1 > k))
    stat := stat, sticky := y.sticky ||| stat, k := k, close := b, serving := serving
    gapFirst := match last with | none => y.gapFirst | some g => g.2.1
    gapLast := match last with | none => y.gapLast | some g => g.2.2
    preset := if q.isSome then none else y.preset
    fresh := 0, disPend := y.disPend.filter (fun t => decide (t > b)), carry := []
    gapFrom := if re.isSome then none else y.gapFrom, gapTo := if re.isSome then none else y.gapTo })

/-! ## The window -/

/-- CTX_BIND.SERVING by slot, for window k that ends at index b (R296). -/
def State.servingBits (s : State) (gi k b : Nat) (x : PlanCtx) : Nat :=
  (x.bound.map (fun i => match x.headOf i with
    | none => 0
    | some h => if s.serveFor gi h k ((b : Int) * 2 ^ 33 - 1) then 2 ^ i else 0)).foldl (· + ·) 0

/-- R259, R228: the window's event status and spectral results of one context. -/
def commitParts (c : Nat) (s : State) : State :=
  each (List.range 8) (fun s i =>
    if (s.getSpBind (bkey c i)).pend.isSome then
      s.modSpBind (bkey c i) (fun b => { b with res := b.pend.getD b.res, pend := none })
    else s) (commitEv c s)

/-- R258, R260: records of the group's windows up to k become committed. -/
def commitRecords (gi k : Nat) (s : State) : State :=
  let now := fun (e : Nat × Nat) => e.1 == gi && decide (e.2 ≤ k)
  if s.ev.fresh.any now then irqAll irqEvent (s.modEvIsl (fun e => { e with fresh := e.fresh.filter (fun x => !now x) })) else s

/-- R392: the commit source, in the ports that select the group. -/
def irqCommit (gi : Nat) (s : State) : State :=
  each [0, 1, 2, 3] (fun s p => if bit (s.getHp p).intGrp gi then irqPort 1 p s else s) s

/-- R457, R458: the group has made its first commit of the start; with all of them the start is over. -/
def noteFirst (gi : Nat) (s : State) : State :=
  if s.pwr.firstDone.contains gi then s
  else
    let s := s.modPwrIsl (fun w => { w with firstDone := gi :: w.firstDone })
    let all := match s.plan.cur with
      | none => false
      | some p => p.groups.all (fun g => s.pwr.firstDone.contains g.g)
    if all && s.pwr.st == .start then s.modPwrIsl (fun w => { w with st := .normal, note := none }) else s

/-- R289, R391: group gi ends with window k. -/
def State.groupEnds (s : State) (gi k : Nat) : Bool :=
  match s.oldPlan, s.newPlan, s.plan.tsw.find? (fun e => e.1 == gi) with
  | some _, some n, some (_, w) => !s.plan.moved.contains gi && (s.getGrp gi).twOf k == w && (n.grp? gi).isNone
  | _, _, _ => false

/-- R22: the commit of window k of group gi under plan p: every committed result changes at this instant. -/
def commitWindow (gi k : Nat) (p : Plan) (s : State) : State :=
  let g := s.getGrp gi
  let a := g.twOf (k - 1)
  let b := g.twOf k
  let xs := p.ctxsOf gi
  let lostT := xs.filter (fun x => s.tallyLost gi k x)
  let lostH := xs.filter (fun x => s.harmLost gi k x)
  let s := lostT.foldl (fun s x => loseTally k x.c s) s
  let s := if s.spec.shed then s else lostH.foldl (fun s x => harmCtx gi k true x s) s
  let s := creditCtxs gi k false (lostT.map (fun x => x.c)) s
  let s := resumeOuts gi k (creditCtxs gi k true (lostH.map (fun x => x.c)) s)
  let serving := xs.map (fun x => (x.c, s.servingBits gi k b x))
  let s := arbitrate gi k p s
  let s := xs.foldl (fun s x => commitCtx gi k a b (tget 0 serving x.c) (lostT.any (fun y => y.c == x.c)) p x s) s
  let s := xs.foldl (fun s x => commitParts x.c s) s
  let s := commitFreq gi k s
  let s := commitRecords gi k s
  let s := s.modSpGrp gi (SpGrp.commit k b)
  let s := commitInputs gi k b s
  let s := whenDo (s.spec.refGrp == gi) (commitSh k) s
  let s := irqCommit gi (commitFences gi a (s.groupEnds gi k) s)
  let s := noteFirst gi s
  let s := s.modRsIsl (fun r => { r with tokens := r.tokens.filter (fun t => !(t.1 == gi && t.2.1 == k && (decide (t.2.2 < 14) || t.2.2 == 16))) })
  moveContexts gi k s

/-- R444, R459: window k may still commit: it closed by the stop. -/
def State.mayCommit (s : State) (gi k : Nat) : Bool :=
  let g := s.getGrp gi
  g.started && decide (k ≤ g.closed) && (match s.stopAt with | none => true | some w => decide (g.twOf k ≤ w))

/-- COMMIT (R22): all tokens of the window are in. -/
def execCommit (g : Fin 16) (s : State) : Out :=
  onIsl islResamp s (fun s =>
    let k := (s.getGrp g).lastK + 1
    match s.planWin g k with
    | none => s
    | some p => if s.mayCommit g k && (s.tokensMissing g k p).isEmpty then commitWindow g k p s else s)

/-- COMMIT_DEADLINE (R29, R311): a token is still missing at Tw(k) + 7,680. -/
def execCommitDeadline (g : Fin 16) (s : State) : Out :=
  onIsl islResamp s (fun s =>
    let k := (s.getGrp g).lastK + 1
    match s.planWin g k with
    | none => s
    | some p =>
      let miss := s.tokensMissing g k p
      if s.mayCommit g k && !miss.isEmpty && decide (s.now ≥ (s.getGrp g).twOf k + 7680) then
        commitWindow g k p ((miss.filter (fun u => decide (u < 14))).foldl (fun s u =>
          raise .replayLate (s.lateUnit u) [] s) s)
      else s)

end Sys2Proof.Machine
end

