-- ==== Sys2Proof/Machine/Flow.lean ====
section
/-! DEFINITION. The way of the samples: the release of graded slots to the staircase (R90 to R92, R18, R501), their classes and
the sampling changes that they carry (R112, R120 to R124), the engines' work on them (R131 to R147), the replies of heads
(R95), and the admission and return of heads (R117, R118). -/

namespace Sys2Proof.Machine

/-! ## Sampling changes take effect (R120 to R124) -/

/-- A change has been accepted for an index at or before n. -/
def Change.due (n : Nat) (c : Change) : Bool :=
  c.accepted && (match c.at_ with | none => false | some a => decide (a ≤ n))

/-- R122: the changes of a head that are due at index n, in the order of their AT. -/
def Head.dueChanges (n : Nat) (x : Head) : List Change :=
  let q := x.queue.filter (Change.due n)
  match x.offPlace with
  | none => q
  | some o =>
    if o.due n then
      q.filter (fun c => decide (c.at_.getD 0 ≤ o.at_.getD 0)) ++ o :: q.filter (fun c => decide (c.at_.getD 0 > o.at_.getD 0))
    else q

/-- A register of the head as the PX-64 knows it. -/
def Head.regNow (x : Head) (reg : Nat) : Nat :=
  if reg = regGainP then x.gainP else if reg = regGainA then x.gainA
  else if reg = regTrimP then x.trimP.toNat else if reg = regTrimA then x.trimA.toNat
  else if reg = regStim then x.stim else 0

/-- R120: index `a` is a change index of detector d. -/
def changeIndex (h : Nat) (d : Bool) (a : Nat) (s : State) : State :=
  s.modHead h (fun x => if d then { x with chgA := some a } else { x with chgP := some a })

/-- R124: the entry of an applied change, and the mailbox that waited for it is DONE (R126). The PX-64 itself is recorded as role
0 and host port 15 (log entry 15). -/
def noteChange (h : Nat) (c : Change) (old : Nat) (s : State) : State :=
  let vals := [(2, c.reg), (4, old), (4, c.value.toNat), (8, c.at_.getD 0)]
  match c.asker with
  | .host p role => raise .headChange h ([(1, role), (1, p)] ++ vals) (accEnd p 0 (s.getHeadAcc p).resp s)
  | .px => raise .headChange h ([(1, 0), (1, 15)] ++ vals) s

/-- One change applies at its AT. -/
def applySampling (h : Nat) (c : Change) (s : State) : State :=
  let a := c.at_.getD 0
  let x := s.getHead h
  let d := changeDet x.stim c.reg c.value
  if c.reg ≥ regReset then streamBack h (c.reg == regReset + 1) a (changeIndex h (c.reg == regReset + 1) a s)
  else
    let s := noteChange h c (x.regNow c.reg) s
    if c.reg = regGainP then (changeIndex h d a s).modHead h (fun x => { x with gainP := c.value.toNat % 16 })
    else if c.reg = regGainA then (changeIndex h d a s).modHead h (fun x => { x with gainA := c.value.toNat % 16 })
    else if c.reg = regTrimP ∨ c.reg = regTrimA then
      let old := s.trimOf h d
      trimApplied h c a old (setTrim h d c.value c.src a (changeIndex h d a s))
    else if c.value = 0 then (changeIndex h d a s).modHead h (fun x => { x with stim := 0 })
    else stimOn h d a (s.modHead h (fun x => { x with stim := c.value.toNat % 4, stimAt := a }))

/-- The changes due at index n leave the head's queue and apply; whether a reset of the P and of the A stream is among them. -/
def applyDue (h n : Nat) (s : State) : (Bool × Bool) × State :=
  let due := (s.getHead h).dueChanges n
  let s := s.modHead h (fun x => { x with
    queue := x.queue.filter (fun c => !c.due n)
    offPlace := match x.offPlace with | none => none | some o => if o.due n then none else some o })
  ((due.any (fun c => c.reg == regReset), due.any (fun c => c.reg == regReset + 1)),
    due.foldl (fun s c => applySampling h c s) s)

/-! ## Classes (R111, R112) -/

/-- R112: the class of one detector's sample: whether the stream is retired, whether the slot carries samples of an admitted head,
the status byte. -/
def sampleClass (d retired live : Bool) (st : Byte) : Nat :=
  let p := b2n d
  if retired then 6
  else if !live then 5
  else if st.toNat % 4 = p + 1 then 2
  else if !st.getLsbD (7 - p) then 3
  else if st.getLsbD (5 - p) then 4
  else 0

/-- R74: the 24-bit code at an offset in the slot. -/
def slotCode (bs : List Byte) (a : Nat) : Int := sgn 24 (leNat ((bs.drop a).take 3))

/-- R112, R293: the run of delivered indices that count as absent. -/
def absentRun (cls run : Nat) : Nat := if cls = 5 ∨ cls = 3 then run + 1 else if cls = 6 then run else 0

/-- R125: an OK bit that falls is counted, and logged with the cause of the next poll. -/
def noteOk (h n : Nat) (okP okA : Bool) (s : State) : State :=
  s.modHead h (fun x =>
    let fp := x.okP && !okP
    let fa := x.okA && !okA
    { x with
      okP := okP, okA := okA, unhealthy := satAdd 0xFF x.unhealthy (b2n fp + b2n fa)
      faultP := if fp && x.faultP.isNone then some n else x.faultP
      faultA := if fa && x.faultA.isNone then some n else x.faultA })

/-- R296: the detector of head h that serves at index n. -/
def State.servesAt (s : State) (h n : Nat) : Bool :=
  match s.homeGrp h with
  | none => (s.getHead h).retP
  | some gi => s.servingAt gi h ((s.windowAt gi (2 * n)).getD ((s.getGrp gi).closed + 1))

/-- R112: indices with an OVR bit are counted; both detectors over range are logged, at most once per 384,000 ticks. -/
def noteClip (h n : Nat) (any both : Bool) (s : State) : State :=
  let x := s.getHead h
  let due := match x.clipLogAt with | none => true | some t => decide (s.now ≥ t + 384000)
  let s := whenDo any (fun s => s.modHead h (fun x => { x with clip := satAdd 0xFFFF x.clip 1 })) s
  whenDo (both && due) (fun s =>
    raise .headClip h [(1, b2n (s.servesAt h n))] (s.modHead h (fun x => { x with clipLogAt := some s.now }))) s

/-- R118: the slot of an admitted head is void while its ring is in RUN: the head is ABSENT, and R125 logs HEAD_NO_ANSWER. -/
def voidSlot (h n : Nat) (g : Grade) (s : State) : State :=
  let x := s.getHead h
  let since := match x.a0 with | none => false | some a => decide (n ≥ a)
  if g == .void && x.st == .admitted && since && (s.getRing (h / 128)).st == .run then
    headAbsent h (raise .headNoAnswer h [(1, h % 128)] s)
  else s

/-- R117, R126: from A0 on the gains that the plan lists are in force. -/
def gainsFrom (h n : Nat) (s : State) : State :=
  let x := s.getHead h
  match x.gainNext, x.a0 with
  | some (p, a), some a0 => if n ≥ a0 then s.modHead h (fun x => { x with gainP := p, gainA := a, gainNext := none }) else s
  | _, _ => s

/-- R342: a head ends a stimulus by itself 16,384 indices after it started; R120: that index is a change index. -/
def stimExpire (h n : Nat) (s : State) : State :=
  let x := s.getHead h
  whenDo (x.stim != 0 && decide (n ≥ x.stimAt + 16384)) (fun s =>
    (changeIndex h (x.stim == 2) (x.stimAt + 16384) s).modHead h (fun x => { x with stim := 0 })) s

/-- One delivered slot of index n: what the staircase takes of it; R137: index A0 is a change index, and what it says of its head. -/
def takeSlot (r n pos : Nat) (g : Grade) (bs : List Byte) (s : State) : StairIn × State :=
  let h := 128 * r + pos
  if (s.getHead h).st == .notDeclared then
    ({ idx := n, pos := pos, clsP := sampleClass false (s.getHead h).retP false 0, clsA := sampleClass true (s.getHead h).retA false 0
       codeP := 0, codeA := 0, chgP := false, chgA := false, stepP := 0, stepA := 0
       cleanP := false, cleanA := false }, s)
  else
    let was := (s.getHead h).stim
    let (rst, s) := applyDue h n (stimExpire h n (gainsFrom h n (voidSlot h n g s)))
    let x := s.getHead h
    let first := x.a0 == some n
    let valid := g == .full || g == .checkOnly
    let live := valid && x.st == .admitted && (match x.a0 with | none => false | some a => decide (n ≥ a))
    let st := bs.getD 6 0
    let clsP := sampleClass false x.retP live st
    let clsA := sampleClass true x.retA live st
    let s := whenDo (live && x.stim != 0 && x.stim != was && st.toNat % 4 == x.stim) (stimSeen h) s
    let s := whenDo live (noteOk h n (st.getLsbD 7) (st.getLsbD 6)) s
    let s := whenDo live (noteClip h n (st.getLsbD 5 || st.getLsbD 4) (clsP == 4 && clsA == 4)) s
    let s := s.modHead h (fun x => { x with
      pUse := clsP, aUse := clsA, absP := absentRun clsP x.absP, absA := absentRun clsA x.absA })
    ({ idx := n, pos := pos, clsP := clsP, clsA := clsA
       codeP := if live then slotCode bs 0 else 0, codeA := if live then slotCode bs 3 else 0
       chgP := (live && st.getLsbD 3) || rst.1 || first, chgA := (live && st.getLsbD 2) || rst.2 || first
       stepP := x.gainP, stepA := x.gainA
       cleanP := live && st.getLsbD 7 && !st.getLsbD 5, cleanA := live && st.getLsbD 6 && !st.getLsbD 4 }, s)

/-! ## Release (R90 to R92, R18) -/

/-- R15: entries that the channel to the staircase holds. -/
def chanDepth : Nat := 256

/-- R18, R39: how long the channel of ring r has been full; STALL_SEEN remembers it. -/
def noteFull (r : Nat) (s : State) : State :=
  let rg := s.getRing r
  let long := match rg.fullAt with | none => false | some t => decide (s.now > t + 2)
  let s := whenDo long (fun s => s.modGlbIsl (fun g => { g with stallSeen := true })) s
  s.modRing r (fun rg => { rg with
    fullAt := if rg.chan.length < chanDepth then none else match rg.fullAt with | none => some s.now | some t => some t })

/-- R395: the RAW captures see both samples of a slot. -/
def captureRaw (r : Nat) (e : StairIn) (s : State) : State :=
  capSee 0 (hitStream r (2 * e.pos + 1)) { value := e.codeA, flags := e.clsA, idx := e.idx }
    (capSee 0 (hitStream r (2 * e.pos)) { value := e.codeP, flags := e.clsP, idx := e.idx } s)

/-- One slot of a delivered index enters the channel to the staircase. -/
def deliverSlot (r n : Nat) (s : State) (e : (Grade × List Byte) × Nat) : State :=
  let (x, s) := takeSlot r n e.2 e.1.1 e.1.2 s
  captureRaw r x (s.modRing r (fun rg => { rg with chan := rg.chan ++ [x] }))

/-- R100: the release of the first index from a turned frame is logged. -/
def logWrap (r n : Nat) (s : State) : State :=
  let rg := s.getRing r
  if rg.turned.isSome && rg.st == .wrap && decide (n ≥ rg.wrapAt) then
    raise .ringWrap r [(1, rg.westHead), (1, rg.eastHead), (8, rg.wrapAt)] (s.modRing r (fun rg => { rg with turned := none }))
  else s

/-- R18: the channel cannot take the index whole: HS_OVERRUN, counted as a fault of the ring's engine. -/
def overrun (r : Nat) (s : State) : State :=
  let s := raise .hsOverrun r [] (s.modGlbIsl (fun g => { g with overruns := satAdd 0xFFFF g.overruns 1, lastRing := r }))
  match s.engOf r with
  | none => s
  | some e => engineFault e s

/-- R92: an index is delivered to the staircase: slots that the channel cannot take are missing (R18); missing slots of an index
that the ring carries in service are counted. -/
def deliverIdx (r : Nat) (e : HeldIdx) (s : State) : State :=
  let rg := s.getRing r
  let room := chanDepth - rg.chan.length
  let slots := e.slots.zipIdx.map (fun x => if x.2 < room then x else ((.failed, []), x.2))
  let serve := match rg.runFrame with | none => false | some f => decide (e.idx + rg.k ≥ f)
  let miss := if serve then (slots.filter (fun x => x.1.1 == .failed)).length else 0
  let s := whenDo (decide (room < 128)) (overrun r) s
  let s := s.modRing r (fun rg => { rg with missing := satAdd 0xFFFF rg.missing miss })
  noteFull r (slots.foldl (deliverSlot r e.idx) (logWrap r e.idx s))

/-- R92, R501: an index with a hole is held within a wrap, from the first index that the ring carries on. -/
def Ring.holds (rg : Ring) (e : HeldIdx) : Bool :=
  rg.st == .wrap && (match rg.runFrame with | none => false | some f => decide (e.idx + rg.k ≥ f)) && hasHole e.slots

/-- R92: the next index of the ring is graded, and delivered or held behind a hole or a full channel. -/
def gradeOne (r : Nat) (s : State) : State :=
  if !s.gradable r then s
  else
    let (e, s) := gradeNext r s
    let rg := s.getRing r
    if !rg.held.isEmpty || decide (rg.chan.length > 128) || rg.holds e then
      s.modRing r (fun rg => { rg with held := rg.held ++ [e] })
    else deliverIdx r e s

/-- R92: the holding store. -/
def heldMax : Nat := 384

/-- SLOT_RELEASE (R91, R92). -/
def slotRelease (r : Nat) (s : State) : State :=
  let rg := s.getRing r
  match rg.held with
  | [] => gradeOne r s
  | e :: rest =>
    if decide (rg.held.length ≥ heldMax) || (decide (rg.chan.length ≤ 128) && !rg.holds e) then
      deliverIdx r e (s.modRing r (fun rg => { rg with held := rest }))
    else gradeOne r s

/-- R312: the link island of ring r has lost its clock for good: its slots are missing from then on, as with both ports lost (DEDUCED, log
entry 102). -/
def State.linkGone (s : State) (r : Nat) : Bool := s.pwr.mainOn && bit s.glb.linkLost r

/-- SLOT_RELEASE (R91). -/
def execSlotRelease (r : Fin 32) (s : State) : Out := .next (if s.linkUp r || s.linkGone r then slotRelease r s else s)

/-- R92: an index is held until 384 ticks after its deadline. -/
def holdTimeout (r : Nat) (s : State) : State :=
  let rg := s.getRing r
  match rg.held with
  | [] => s
  | e :: rest =>
    if decide (s.now ≥ e.due + 384) && decide (rg.chan.length ≤ 128) then
      deliverIdx r e (s.modRing r (fun rg => { rg with held := rest }))
    else s

/-- HOLD_TIMEOUT (R92). -/
def execHoldTimeout (r : Fin 32) (s : State) : Out := .next (if s.linkUp r || s.linkGone r then holdTimeout r s else s)

/-! ## The staircase takes a sample (R131 to R147) -/

/-- What follows from an output of engine e, while it is the engine that counts (R147): watch points, outings, the pair
comparator at the A output, captures. -/
def outputSeen (r pos e : Nat) (d : Bool) (o : StOut) (s : State) : State :=
  let cfg := (s.getEng e).cfg
  let st := 2 * pos + b2n d
  let t2 := outTau2 cfg.n cfg.m o.nlast
  if s.engCounts r t2 != some e then s
  else
    let h := 128 * r + pos
    let s := calOutput h d o.nlast o.val cfg (watchOutput r st cfg o s)
    let s := capSee 1 (hitStream r st) { value := o.val, flags := o.cls + 8 * b2n o.sat, idx := (t2 / 2).toNat } s
    match d, (s.getStrm (256 * e + 2 * pos)).outs.head? with
    | true, some p => if p.nlast = o.nlast then pairOutput h t2 p o s else s
    | _, _ => s

/-- R135, R395: a capture sees the flat sample that the output formed. -/
def flatSeen (r pos e : Nat) (d : Bool) (o : StOut) (s : State) : State :=
  let cfg := (s.getEng e).cfg
  let st := 2 * pos + b2n d
  let t2 := flatTau2 cfg.n cfg.m o.nlast
  match (s.getStrm (256 * e + st)).flats.head? with
  | some f =>
    if s.engCounts r t2 = some e then
      capSee 2 (hitStream r st) { value := f.val, flags := f.cls + 8 * b2n f.fsat, idx := (t2 / 2).toNat } s
    else s
  | none => s

/-- R147: what the old engine delivered of a stream before T_sw stays for the consumers that have still to take it. -/
def keepBefore (old t st : Nat) (s : State) : State :=
  let x := s.getStrm (256 * old + st)
  s.modStrm (256 * t + st) (fun y => { y with oldOuts := x.outs, oldFlats := x.flats })

/-- R147 steps 2 and 5: once the old engine has formed its eighth output and its last flat sample before T_sw, the new engine alone
serves the ring and the old one is a spare, or retired where its faults had called for that (R293). -/
def endMove (r e : Nat) (o : StOut) (s : State) : State :=
  match s.takerOf r, s.engOf r with
  | some t, some old =>
    match (s.getEng t).moveAt with
    | some w =>
      let cfg := (s.getEng old).cfg
      if old = e ∧ flatTau2 cfg.n cfg.m o.nlast ≥ 2 * (w : Int) ∧ o.nlast ≥ w + 8 * cfg.m then
        let s := each (List.range 256) (fun s st => keepBefore old t st s) s
        let s := s.modStairIsl (fun x => { x with map := tset x.map r t, taker := tdel x.taker r })
        let s := s.modEng t (fun x => { x with st := .serving, from_ := none, oldCfg := cfg })
        if (s.getEng old).st == .handingOver then retireEngine 0 old s else freeEngine old s
      else s
    | none => s
  | _, _ => s

/-- One engine takes one sample of a stream; a starting one takes whole indices from its start index on (R137). -/
def runEngine (r pos e : Nat) (d : Bool) (q : Samp) (s : State) : State :=
  if q.n < (s.getEng e).startAt then s
  else
  let st := 2 * pos + b2n d
  let (o, s) := engineSample e r st q s
  match o with
  | none => s
  | some o =>
    let s := flatSeen r pos e d o (outputSeen r pos e d o s)
    if st = 255 then endMove r e o (s.modEng e (fun x => { x with made := x.made + 1 })) else s

/-- R134: an operation's failed residue checks and corrected upsets. -/
def noteResidue (e residue corrected : Nat) (s : State) : State :=
  let s := s.modEng e (fun x => { x with
    residue := satAdd 0xFFFF x.residue residue, corrected := satAdd 0xFFFF x.corrected corrected })
  repeatDo (engineFault e) residue s

/-- R304: an operation that fails its check and 4 recomputations, with no spare left, delivers its output as ABSENT. -/
def spoil (lost : Bool) (q : Samp) : Samp := if lost then { q with cls := 5, code := 0 } else q

/-- The engine that is taking ring r over takes a sample; its fault may have put another in its place. -/
def takerRuns (r pos : Nat) (d : Bool) (q : Samp) (upT : Nat × Nat) (s : State) : State :=
  match s.takerOf r with
  | none => s
  | some t => runEngine r pos t d (spoil (decide (upT.1 ≥ 5) && s.spareEngines.isEmpty) q) s

/-- The contexts of the plans at work. -/
def State.allCtxs (s : State) : List PlanCtx :=
  let of_ := fun (p : Option Plan) => match p with | none => [] | some p => p.ctxs
  of_ s.plan.cur ++ (if s.plan.st == .switching then of_ s.plan.next else [])

/-- R16: the resampler has still to take outputs of head h from time t2 (in half ticks) on: a binding's next sample lies within eight
outputs after it. -/
def State.outWanted (s : State) (h m : Nat) (t2 : Int) : Bool :=
  s.up islResamp && s.stopAt.isNone && s.allCtxs.any (fun x =>
    let g := s.getGrp x.grp
    g.started && (List.range 8).any (fun i => x.headOf i == some h &&
      (match (s.hamper x.c i).head? with
        | some e => decide (e.tau ≤ (t2 + 16 * (m : Int)) * 2 ^ 15)
        | none => decide (2 * (g.startIdx : Int) ≤ t2 + 16 * (m : Int)))))

/-- R16: a tally unit has still to count the flat samples of head h from time t2 (in half ticks) on. -/
def State.flatWanted (s : State) (h : Nat) (t2 : Int) : Bool :=
  s.up islTally && s.stopAt.isNone && s.allCtxs.any (fun x =>
    let g := s.getGrp x.grp
    g.started && decide (s.unitFor x.c < 9) && (List.range 8).any (fun i => x.headOf i == some h) &&
      decide (((s.getCtx x.c).nextFlat.getD (2 * g.twOf g.winBase) : Int) ≤ t2))

/-- R15, R16: the channel that has no room for what engine e would deliver at index n of stream `st` of ring r, and its depth in time in
ticks: 2 outputs or 6 flat samples, one every M ticks. -/
def State.engHeld (s : State) (r st n e : Nat) : Option (Chan × Nat) :=
  let cfg := (s.getEng e).cfg
  let x := s.getStrm (256 * e + st)
  let h := 128 * r + st / 2
  if (n + 1) % cfg.m != 0 then none
  else if decide (x.outs.length ≥ outStore) &&
      (match x.outs.getLast? with | none => false | some o => s.outWanted h cfg.m (outTau2 cfg.n cfg.m o.nlast)) then some (.outputs r, 2 * cfg.m)
  else if decide (x.flats.length ≥ flatStore) &&
      (match x.flats.getLast? with | none => false | some f => s.flatWanted h (flatTau2 cfg.n cfg.m f.nlast)) then some (.flats r, 6 * cfg.m)
  else none

/-- R15, R16: the channel that holds the engines of ring r at index n of stream `st`, and its depth in time. -/
def State.stairHeld (s : State) (r st n : Nat) : Option (Chan × Nat) :=
  match s.rawFull r st with
  | some e => some (.raws e, 16)
  | none => [s.engOf r, s.takerOf r].findSome? (fun e => e.bind (s.engHeld r st n))

/-- The channels of ring r have room. -/
def stairFree (r : Nat) (s : State) : State :=
  unstall (.raws 0) (unstall (.raws 1) (unstall (.flats r) (unstall (.outputs r) s)))

/-- STAIR_PROCESS: the engines of ring r take the next sample of its channel. `up` are the failed checks and the corrected upsets of the
operation in the engine that serves the ring, `upT` those in an engine that is taking it over. -/
def stairTake (r : Nat) (up upT : Nat × Nat) (x : StairIn) (rest : List StairIn) (s : State) : State :=
    let d := (s.getRing r).half
    let s := (noteFull r s).modRing r (fun rg => { rg with half := !d, chan := if d then rest else x :: rest })
    let s := whenDo d (noteFull r) s
    let h := 128 * r + x.pos
    let q : Samp :=
      if d then { n := x.idx, cls := x.clsA, code := x.codeA, chg := x.chgA, step := x.stepA }
      else { n := x.idx, cls := x.clsP, code := x.codeP, chg := x.chgP, step := x.stepP }
    let s := calSample h d x.idx (if d then x.cleanA else x.cleanP) q.step s
    let s := selectRaw r (2 * x.pos + b2n d) { idx := q.n, code := q.code, cls := q.cls, step := q.step } s
    let s := match s.engOf r with
      | none => s
      | some e =>
        let s := noteResidue e up.1 up.2 s
        runEngine r x.pos e d (spoil (decide (up.1 ≥ 5) && s.spareEngines.isEmpty) q) s
    match s.takerOf r with
    | none => s
    | some t => takerRuns r x.pos d q upT (noteResidue t upT.1 upT.2 s)

/-- STAIR_PROCESS: the engines of ring r take the next sample of its channel, unless a consumer holds them (R16). -/
def stairProcess (r : Nat) (up upT : Nat × Nat) (s : State) : State :=
  match (s.getRing r).chan with
  | [] => s
  | x :: rest =>
    match s.stairHeld r (2 * x.pos + b2n (s.getRing r).half) x.idx with
    | some (c, t) => stall c t s
    | none => stairTake r up upT x rest (stairFree r s)

/-- STAIR_PROCESS (R131). -/
def execStairProcess (r : Fin 32) (up upT : Nat × Nat) (s : State) : Out :=
  onIsl islStair s (stairProcess r up upT)

/-! ## Replies (R95) -/

/-- R126: the words of a READ. -/
def accData (p : Nat) (ws : List Word) (s : State) : State :=
  s.modHeadAcc p (fun a => { a with data := (List.range 4).map (fun i =>
    if i ≤ a.len then ws.getD i 0 else a.data.getD i 0) })

/-- R350: the store takes a correction or a host's trim that the head has ACCEPTED. -/
def storeAccepted (h : Nat) (c : Option Change) (s : State) : State :=
  match c with
  | none => s
  | some c => if (c.reg = regTrimP ∨ c.reg = regTrimA) ∧ c.src ≠ 1 then storeTrim h (c.reg == regTrimA) c.value c.src s else s

/-- R94, R60: what an answer does, by the use of the cell. -/
def answered (r : Nat) (f : CellFly) (chars : List Byte) (s : State) : State :=
  let resp := cellResp chars
  match f.req.use with
  | .health h => if resp = 1 then healthReply h ((cellData chars).getD 0 0) s else s
  | .accRead p => accEnd p (respResult resp) resp (if resp = 1 then accData p (cellData chars) s else s)
  | .change h off =>
    if resp = 2 then storeAccepted h (s.sentChange h off f) (changeAccepted h off f s)
    else changeRefused h off f (respResult resp) resp s
  | .waits h dw de =>
    if resp = 2 then waitsFrom h f.req.at_ ((cellData f.req.chars).map (fun w => w.toNat)) dw de s else s
  | .enumRead _ | .assign _ | .delta _ | .broadcast | .modDelays _ | .settings _ => s
  | .maker => s.modRing r (fun rg => { rg with
      cmdGo := false, cmdResp := resp, cmdReply := BitVec.ofNat 256 (leNat chars) })

/-- CELL_REPLY (R95): the cell in flight with the reply's SEQ is answered. -/
def execCellReply (r : Fin 32) (cell : Fin 4) (chars : List Byte) (s : State) : Out :=
  onLink r s (fun s =>
    let q := (chars.getD 2 0).toNat
    match (tget {} (s.getRing r).cells cell : CellLane).fly.find? (fun f => f.seq == q) with
    | none => s
    | some f => if cellAnswers chars then answered r f chars (cellDone r cell q s) else s)

/-! ## Admission and return (R117, R118) -/

/-- The entry of the plan in force, or of the plan being prepared, for head h. -/
def State.planHead (s : State) (h : Nat) : Option PlanHead :=
  match s.plan.cur.bind (fun p => p.head? h) with
  | some x => some x
  | none =>
    if s.plan.st == .preparing || s.plan.st == .switching then s.plan.next.bind (fun p => p.head? h) else none

/-- R85: a head with another identity is unknown, and the listed one is absent. -/
def wrongHead (h : Nat) (listed found : BitVec 64) (s : State) : State :=
  let r := h / 128
  let hop := (s.getRing r).hops.findIdx (fun x => x == some listed)
  let s := raise .headAbsent h [] (raise .headUnknown r [(1, hop), (8, found.toNat)] s)
  s.modHead h (fun x => { x with st := .absent })

/-- R86, R287: what is left for drift, in 2^-10 q, when a head on a ring in service inserts its slots under the ring's K_r. -/
def State.dragMargin (s : State) (h : Nat) : Int :=
  let x := s.getHead h
  ((s.getRing (h / 128)).k : Int) * 10240 * 1024 + min x.dw x.de - ((leadQ + 3072 : Nat) : Int) * 1024

/-- R117 step 4: the timed write of GAIN_P, GAIN_A, TRIM_P and TRIM_A, to apply at frame `at_`. -/
def settingsCell (h at_ : Nat) (ph : PlanHead) (w : Word × Word) : CellReq :=
  { use := .settings h, at_ := at_
    chars := cellChars (h % 128) 0x82 4 0x20 at_ [BitVec.ofNat 32 ph.gainP, BitVec.ofNat 32 ph.gainA, w.1, w.2] 0 }

/-- The hop of a head on a ring in service: that of its enumeration; of a head that was not there then it is known to the PX-64 from the
reads of cell 0 alone: a free value (log entry 83). -/
def hopOf (h : Nat) (serial : BitVec 64) (s : State) : Nat × State :=
  match (s.getRing (h / 128)).hops.findIdx? (fun x => x == some serial) with
  | some i => (i, s)
  | none =>
    let (v, s) := s.freeNext
    (v.toNat % 256, s)

/-- R117, R118, R287: the cells of an admission on a ring in service: the READs of the identity and of the modulator delays, whose answers
the command holds, the ASSIGN, and the timed writes that apply at A0 (log entry 83). -/
def admissionCells (h a0 : Nat) (ph : PlanHead) (w : Word × Word) (s : State) : State :=
  let r := h / 128
  let (hop, s) := hopOf h ph.serial s
  let s := askCell r 0 (modCell r (h % 128)) (askCell r 0 (assignCell r (h % 128) hop) (askCell r 0 (identCell hop) s))
  askCell r 0 (settingsCell h a0 ph w) (sendWaits r a0 s (h % 128))

/-- R117 steps 4 and 5: the head is admitted from A0 with its trims and their sources; on a ring in service the cells of its admission
leave now. -/
def bringHead (h : Nat) (id : HeadIdent) (a0 : Nat) (ph : PlanHead) (s : State) : State :=
  let old := s.getHead h
  let (w, src, s) := admitTrims h id.serial ph s
  let s := each [(false, src.1), (true, src.2)] (fun s e =>
    whenDo (old.a0.isSome && s.srcOf h e.1 == 1 && e.2 != 1) (fun s =>
      s.modCalIsl (fun c => { c with neutTo := tset c.neutTo (2 * h + b2n e.1) old.absAt })) s) s
  let s := admitHead h id a0 ph w.1 w.2 (s.modCalIsl (fun c => { c with srcH := tset c.srcH h src }))
  if (s.getRing (h / 128)).st == .waits then s else admissionCells h a0 ph w s

/-- The ring can take heads in: its delays are measured or it is in service. -/
def admits (st : RingSt) : Bool :=
  match st with
  | .waits | .run | .wrap => true
  | .off | .train | .enum | .measure | .shed => false

/-- R117 step 4: the gains and trims of every head of a ring in training, with its waits. -/
def sendSettings (r : Nat) (s : State) : State :=
  each (s.ringPos r) (fun s p =>
    match s.planHead (128 * r + p) with
    | none => s
    | some ph => askCell r 0 (settingsCell (128 * r + p) (s.getRing r).waitsFor ph (admitTrims (128 * r + p) ph.serial ph s).1) s) s

/-- RING_WAITS (R83 step 4, R117). -/
def execRingWaits (r : Fin 32) (s : State) (mods : List (Fin 128 × BitVec 17 × BitVec 17) := []) : Out :=
  onLink r s (fun s =>
    if (s.getRing r).st == .waits then
      sendSettings r (waitsRing r (mods.map (fun e => (e.1.val, e.2.1.toNat, e.2.2.toNat))) s)
    else s)

/-- R60, R117: index A0 can be that of an admission: on a ring in training the one at which the waits sent to its heads apply. -/
def Ring.admitsAt (rg : Ring) (a0 : Nat) : Bool :=
  admits rg.st && decide (a0 ≥ rg.nextRel) && (rg.st != .waits || (rg.waitsDone && a0 == rg.waitsFor))

/-- HEAD_ADMIT (R117); a head of a staged plan that a ring in service cannot carry is absent (R287). -/
def headAdmit (h : Nat) (id : HeadIdent) (a0 : Nat) (s : State) : State :=
  let rg := s.getRing (h / 128)
  let x := s.getHead h
  match s.planHead h with
  | none => s
  | some ph =>
    if x.st != .joining || !rg.admitsAt a0 then s
    else if id.serial != ph.serial then wrongHead h ph.serial id.serial s
    else if rg.st != .waits && (s.plan.cur.bind (fun p => p.head? h)).isNone && decide (s.dragMargin h < 0) then
      raise .lagMargin (h / 128) [(1, h % 128), (4, toU 32 (s.dragMargin h / 1024))]
        ((s.modHead h (fun x => { x with st := .absent })).modRing (h / 128) (fun rg => { rg with lagMargin := true }))
    else bringHead h id a0 ph s

/-- HEAD_ADMIT. -/
def execHeadAdmit (h : Fin 4096) (ident : HeadIdent) (a0 : Nat) (s : State) : Out := onLink (h / 128) s (headAdmit h ident a0)

/-- R118, R349: an outing of detector d goes on after the head's return: done where its correction is in force from A0, else with a
new pass. -/
def resumeOuting (h a0 : Nat) (was : Bool → Word) (s : State) (d : Bool) : State :=
  match s.outingOf 1 d h with
  | none => s
  | some i =>
    let q := s.getCalQ i
    if !q.running then s
    else match q.st, q.apply with
      | .applying, some w =>
        if s.trimOf h d = w then
          endOuting i 0 (raise .calDone h [(4, (was d).toNat), (4, w.toNat), (8, a0), (1, q.passes)] s)
        else startPass i (s.modCalQ i (fun q => { q with st := .waiting, apply := none }))
      | _, _ => startPass i (s.modCalQ i (fun q => { q with st := .waiting }))

/-- HEAD_REJOIN (R118). -/
def headRejoin (h : Nat) (id : HeadIdent) (a0 : Nat) (s : State) : State :=
  let rg := s.getRing (h / 128)
  match s.planHead h with
  | none => s
  | some ph =>
    if (s.getHead h).st != .absent || !(rg.st == .run || rg.st == .wrap) || decide (a0 < rg.nextRel) then s
    else if id.serial != ph.serial then wrongHead h ph.serial id.serial s
    else
      let was := fun d => s.trimOf h d
      let s := bringHead h id a0 ph s
      let s := s.modHead h (fun x => { x with rejoins := satAdd 0xFF x.rejoins 1 })
      let s := raise .headRejoin h [(8, a0), (4, id.modP.toNat), (4, id.modA.toNat)] s
      [false, true].foldl (resumeOuting h a0 was) s

/-- HEAD_REJOIN. -/
def execHeadRejoin (h : Fin 4096) (ident : HeadIdent) (a0 : Nat) (s : State) : Out := onLink (h / 128) s (headRejoin h ident a0)

/-- R122: waiting changes take the free places of the head's queue. -/
def placeWaiting (h : Nat) : Nat → State → State
  | 0, s => s
  | n + 1, s =>
    let x := s.getHead h
    match x.waiting with
    | c :: rest =>
      if x.queue.length < 4 then placeWaiting h n (pushChange h c (s.modHead h (fun x => { x with waiting := rest }))) else s
    | [] => s

/-- CHANGE_QUEUE_PLACE (R122, R306). -/
def execChangeQueuePlace (h : Fin 4096) (s : State) : Out :=
  onStew s (fun s => if (s.getHead h).waiting.isEmpty then s else restorePlaced h (placeWaiting h 4 s))

end Sys2Proof.Machine
end

