-- ==== Sys2Proof/Machine/Log.lean ====
section
/-! DEFINITION. Chapter 20: the trouble log: writing entries (R462 to R466, R468 to R470), the cloakroom's mirror (R471, R472),
acknowledgement (R473) and the log registers (R474). -/

namespace Sys2Proof.Machine

/-! ## Entries and their slots -/

/-- R470: the G3 offset of the slot of SEQ. -/
def logAt (seq : Nat) : Nat := 0x100000 + 0x20 * (seq % 8192)

/-- R462: bytes 0x04 to 0x1F of one of the entries of a record: `more` and `cont` join it to the next and to the one before (R465). -/
def logBody (e : LogEnt) (more cont : Bool) (data : List Byte) : List Byte :=
  leBytes 2 e.code ++
  leBytes 1 (e.sev % 8 + 8 * b2n e.always + 16 * b2n e.battery + 32 * b2n more + 64 * b2n cont) ++ leBytes 1 (e.code / 256) ++
  leBytes 8 e.when_ ++ leBytes 4 e.epoch ++ (data ++ List.replicate 12 0).take 12

/-- Bytes in pieces of 12. -/
def pieces : Nat → List Byte → List (List Byte)
  | 0, _ => []
  | n + 1, bs => bs.take 12 :: pieces n (bs.drop 12)

/-- R465: the entries of a record: one, a pair when the data exceed 12 bytes, and a third when they exceed 24 (DESIGN CHOICE, log
entry 132). Every entry but the last has MORE, every one but the first CONT. -/
def logParts (e : LogEnt) : List (Bool × Bool × List Byte) :=
  let ps := pieces (max 1 (cdiv e.data.length 12)) e.data
  ps.zipIdx.map (fun q => (decide (q.2 + 1 < ps.length), decide (0 < q.2), q.1))

/-- R473: an entry whose SEQ is `old` is overwritten: a tracking port that has not acknowledged it counts it. -/
def logOverwritten (old : Nat) (s : State) : State :=
  each [0, 1, 2, 3] (fun s p =>
    let l := s.getLogPort p
    let d := (old + 2 ^ 32 - l.ack) % 2 ^ 32
    if l.tracking && decide (1 ≤ d) && decide (d ≤ 2 ^ 31 - 1) then
      s.modLogPort p (fun l => { l with overrun := true, lost := satAdd 0xFFFF l.lost 1 })
    else s) s

/-- R470: bytes of an entry go into the slot of SEQ: the SEQ word last. -/
def putSlot (seq : Nat) (body : List Byte) (s : State) : State :=
  galPuts 3 (logAt seq) (leBytes 4 seq) (galPuts 3 (logAt seq + 4) body (galPuts 3 (logAt seq) (leBytes 4 0xFFFFFFFF) s))

/-- R471: an entry enters the mirror's ring of 256. One that falls out before it has been copied into the log is counted. -/
def pushMirror (m : MirrorEnt) (l : Log) : Log :=
  let lost := (l.mirror.drop 255).filter (fun x => !x.copied)
  { l with mirror := m :: l.mirror.take 255, mirrorLost := satAdd 0xFFFF l.mirrorLost lost.length }

/-- R470, R471, R473: one entry of a record is written under the next SEQ. -/
def writePart (e : LogEnt) (part : Bool × Bool × List Byte) (s : State) : State :=
  let seq := s.log.next
  let old := (s.galWord 3 (logAt seq)).toNat
  let s := whenDo (old != seq && old != 0xFFFFFFFF) (logOverwritten old) s
  let s := putSlot seq (logBody e part.1 part.2.1 part.2.2) s
  let next := (seq + 1) % 2 ^ 32
  let s := s.modLogIsl (fun l => { l with next := next, cloakNext := next })
  if decide (e.sev ≥ 2) || e.always then
    s.modLogIsl (pushMirror { seq := seq, ent := { e with data := part.2.2 }, more := part.1, cont := part.2.1, copied := true })
  else s

/-- R392, R463: a record sets source LOG once in every port whose LOG_SEV it meets. -/
def logIrq (sev : Nat) (s : State) : State :=
  each [0, 1, 2, 3] (fun s p => if decide (bits (s.getHp p).intEn 31 28 ≤ sev) then irqPort irqLog p s else s) s

/-- R470: a record is written. -/
def writeRecord (e : LogEnt) (s : State) : State := logIrq e.sev (each (logParts e) (fun s p => writePart e p s) s)

/-! ## Suppression (R469) -/

/-- R469: the LOG_SUPPRESSED entry of a span. -/
def suppressedEnt (s : State) (code : Nat) (x : Span) : LogEnt :=
  let i := LogCode.logSuppressed.info
  { code := i.1, sev := i.2.1, always := i.2.2, when_ := x.start + 384000, epoch := s.tb.epoch
    data := leBytes 2 0 ++ leBytes 2 code ++ leBytes 4 x.count }

/-- R469: the span of a code is over: its count, if any, is written. -/
def closeSpan (code : Nat) (s : State) : State :=
  match s.log.span.find? (fun e => e.1 == code) with
  | none => s
  | some (_, x) =>
    let s := s.modLogIsl (fun l => { l with span := tdel l.span code })
    if x.count = 0 then s else writeRecord (suppressedEnt s code x) s

/-- R470: the spans with a count that are over by index w are closed, the earlier first, so that WHEN never decreases within the steward's
own source. -/
def closeSpans (w : Nat) (s : State) : State :=
  let due := s.log.span.filter (fun e => decide (e.2.start + 384000 ≤ w) && e.2.count != 0)
  each ((sortBy (fun a b => decide (a.2.start ≤ b.2.start)) due).map (fun e => e.1)) (fun s c => closeSpan c s) s

/-- R464: the SOURCE of an entry. -/
def LogEnt.source (e : LogEnt) : Nat := e.code / 256

/-- R469: a record reaches the steward: it is written, or suppressed and counted. -/
def takeRecord (e : LogEnt) (s : State) : State :=
  let s := whenDo (e.source == 0) (closeSpans e.when_) s
  if e.always || decide (e.sev ≥ 2) then writeRecord e s
  else
    let past := match s.log.span.find? (fun x => x.1 == e.code) with
      | none => false
      | some (_, x) => decide (e.when_ ≥ x.start + 384000)
    let s := whenDo past (closeSpan e.code) s
    let x : Span := match s.log.span.find? (fun x => x.1 == e.code) with
      | none => { start := e.when_, written := 0, count := 0 }
      | some (_, x) => x
    if x.written < 64 then
      writeRecord e (s.modLogIsl (fun l => { l with span := tset l.span e.code { x with written := x.written + 1 } }))
    else s.modLogIsl (fun l => { l with
      span := tset l.span e.code { x with count := x.count + 1 }, suppressed := satAdd 0xFFFF l.suppressed 1 })

/-! ## The commands -/

/-- The steward can write the log: it runs (R31) and G3 holds its contents (R361). -/
def State.logUp (s : State) : Bool := s.stewUp && s.galOn 3

/-- R468: the front of a channel leaves it; an entry that waited in its island takes the place. -/
def popChan (c : LogSrc) : LogSrc :=
  match c.waiting with
  | [] => { c with chan := c.chan.tail }
  | w :: ws => { c with chan := c.chan.tail ++ [w], waiting := ws }

/-- R470: the WHEN of the steward's own records (SOURCE 0x00) that the writing of an entry brings with it, if it does. -/
def State.zeroWhen (s : State) (e : LogEnt) : Option Nat :=
  if e.source = 0 then some e.when_
  else match s.log.span.find? (fun x => x.1 == e.code) with
    | some (_, x) => if e.when_ ≥ x.start + 384000 ∧ x.count ≠ 0 then some (x.start + 384000) else none
    | none => none

/-- R470: an entry of SOURCE 0x00 with an earlier WHEN than w is still on its way from another island than `isl`. -/
def State.zeroBefore (s : State) (isl w : Nat) : Bool :=
  (List.range 12).any (fun i => i != isl &&
    ((s.getLogSrc i).chan ++ (s.getLogSrc i).waiting).any (fun e => e.source == 0 && decide (e.when_ < w)))

/-- LOG_ENTRY_WRITE (R470): the steward takes the oldest entry of an island's trouble channel. -/
def execLogEntryWrite (isl : Fin 12) (s : State) : Out :=
  .next (if s.logUp then
    match (s.getLogSrc isl.val).chan with
    | [] => s
    | e :: _ =>
      let late := match s.zeroWhen e with | none => false | some w => s.zeroBefore isl.val w
      if late then s else takeRecord e (s.modLogSrc isl.val popChan)
  else s)

/-- LOG_DROPPED (R468): an island whose channel holds fewer than 16 entries reports what it has dropped. -/
def execLogDropped (isl : Fin 12) (s : State) : Out :=
  let c := s.getLogSrc isl.val
  .next (if c.drops ≠ 0 ∧ c.chan.length < 16 then
    let i := LogCode.logDropped.info
    sendEnt isl.val
      { code := i.1, sev := i.2.1, always := i.2.2, when_ := s.now, epoch := s.tb.epoch
        data := leBytes 2 0 ++ packVals [(2, min 0xFFFF c.drops), (8, c.dropFirst), (8, c.dropLast)] }
      (s.modLogSrc isl.val (fun c => { c with drops := 0, dropFirst := 0, dropLast := 0 }))
  else s)

/-- LOG_SUPPRESSED (R469): a span ends with a count. -/
def execLogSuppressed (code : BitVec 16) (s : State) : Out :=
  .next (if s.logUp then
    match s.log.span.find? (fun e => e.1 == code.toNat) with
    | none => s
    | some (_, x) =>
      if s.now ≥ x.start + 384000 ∧ x.count ≠ 0 ∧ !s.zeroBefore 12 (x.start + 384000) then closeSpans (x.start + 384000) s else s
  else s)

/-! ## The mirror (R471, R472) -/

/-- R432, R471: the cloakroom writes a record on the backup cell: BATTERY = 1, SEQ from its LOG_NEXT, not yet in the log. -/
def batteryRecord (e : LogEnt) (s : State) : State :=
  let e := { e with battery := true }
  each (logParts e) (fun s part => s.modLogIsl (fun l =>
    pushMirror { seq := l.cloakNext, ent := { e with data := part.2.2 }, more := part.1, cont := part.2.1, copied := false }
      { l with cloakNext := (l.cloakNext + 1) % 2 ^ 32 })) s

/-- R472 step 1: the SEQ word of every log slot holds 0xFFFF_FFFF. -/
def logBlank (m : Mem) : Mem :=
  m.filter (fun e => decide (e.1 < 0x100000)) ++
  (List.range 8192).flatMap (fun i => (List.range 4).map (fun j => (0x100000 + 0x20 * i + j, (0xFF : Byte)))) ++
  m.filter (fun e => decide (e.1 ≥ 0x140000))

/-- R472 step 2: a mirror entry is copied into its slot. -/
def copyMirror (m : Mem) (e : MirrorEnt) : Mem :=
  mputs galDefault m (logAt e.seq) (leBytes 4 e.seq ++ logBody e.ent e.more e.cont e.ent.data)

/-- R472: the log at a power-on, after G3 has been cleared: `saved` is LOG_NEXT of the chosen save record. -/
def logStart (saved : Nat) (s : State) : State :=
  let es := if s.log.mirrorVoid then [] else s.log.mirror.reverse
  let s := s.modGal 3 (fun g => { g with mem := es.foldl copyMirror (logBlank g.mem) })
  s.modLogIsl (fun l => { l with
    next := if l.mirrorVoid then saved else l.cloakNext
    cloakNext := if l.mirrorVoid then saved else l.cloakNext
    mirrorBattery := es.any (fun e => e.ent.battery && !e.copied)
    mirror := (if l.mirrorVoid then [] else l.mirror).map (fun e => { e with copied := true })
    mirrorVoid := false })

/-! ## Registers (R474) -/

/-- R474: LOG_PORT_STAT.UNREAD of a port. -/
def State.logUnread (s : State) (p : Nat) : Nat :=
  let l := s.getLogPort p
  let d := (s.log.next + 2 ^ 32 + 2 ^ 32 - 1 - l.ack) % 2 ^ 32
  if !l.tracking || decide (d ≥ 2 ^ 31) then 0 else min d 8192

/-- A log register by offset from 0x1A_0000, as port p reads it. -/
def logRead (s : State) (p off : Nat) : Word :=
  let l := s.getLogPort p
  match off with
  | 0x100 => BitVec.ofNat 32 s.log.next
  | 0x104 => packW [(s.log.dropped, 16), (s.log.suppressed, 0)]
  | 0x108 => BitVec.ofNat 32 l.ack
  | 0x10C => packW [(b2n l.overrun, 31), (b2n l.tracking, 30), (l.lost, 14), (s.logUnread p, 0)]
  | 0x110 => packW [(b2n s.log.mirrorBattery, 31), (s.log.mirrorLost, 0)]
  | _ => 0

/-- What a read clears. -/
def logClear (p off : Nat) (s : State) : State :=
  match off with
  | 0x104 => s.modLogIsl (fun l => { l with dropped := 0, suppressed := 0 })
  | 0x10C => s.modLogPort p (fun l => { l with lost := 0 })
  | 0x110 => s.modLogIsl (fun l => { l with mirrorLost := 0 })
  | _ => s

/-- What a write does (R473, R474). -/
def logWrite (p off : Nat) (v : Word) (s : State) : State :=
  match off with
  | 0x108 => s.modLogPort p (fun l => { l with ack := v.toNat, tracking := true })
  | 0x10C => if bit v 31 then s.modLogPort p (fun l => { l with overrun := false }) else s
  | 0x110 => if bit v 31 then s.modLogIsl (fun l => { l with mirrorBattery := false }) else s
  | _ => s

end Sys2Proof.Machine
end

