-- ==== Sys2Proof/Machine/Second.lean ====
section
/-! DEFINITION. Chapter 2: counted second boundaries and what hangs on them (R52, R54, R55, R171, R231), and the
discipline loop's events (R47 to R51). -/

namespace Sys2Proof.Machine

/-- R44, R459: the timebase runs while the main domain runs, and through a FULL_RESET. -/
def State.tbOn (s : State) : Bool := s.pwr.mainOn || s.pwr.resetting

/-! ## Counted boundaries -/

/-- R171: boundary b starts a 10-second interval of group g: its TAI second is a multiple of 10, or, while TAI is not
valid, it is a tenth boundary after the group's start. -/
def tenBound (b : Nat) (t : Tb) (g : Grp) : Grp :=
  if !g.started || decide (b ≤ g.startIdx) then g
  else
    let n := g.secs + 1
    let hit := if t.taiValid then t.taiSec % 10 == 0 else n % 10 == 0
    { g with secs := n, bounds := if hit then g.bounds ++ [b] else g.bounds }

/-- R231: the spectral ticks of group gi at boundary b; `moved`: SP_UTC changes with it. -/
def spTick (b : Nat) (moved : Bool) (s : State) (gi : Nat) : State :=
  let g := s.getGrp gi
  if !g.started then s
  else
    let aligned := s.tb.traceable && s.spec.utcSetNow
    s.modSpGrp gi (spBoundary b g (s.winCycles gi) aligned moved s.tb.taiSec s.spec.utcNow)

/-- R454: the RTC follows TAI once TAI is valid, and counts on otherwise. -/
def rtcBoundary (s : State) : State :=
  s.modPwrIsl (fun p => { p with rtc := if s.tb.taiValid then s.tb.taiSec else p.rtc + 1 })

/-- R52: a counted second boundary at index b. -/
def countBoundary (b : Nat) (s : State) : State :=
  let s := taiBoundary b s
  let s := rtcBoundary s
  let moved := s.spec.utcSetNow && s.spec.utcNow != s.spec.utc
  let s := s.modSpecIsl (fun x => { x with utcNow := x.utc, utcSetNow := x.utcSet })
  let s := each (List.range 16) (spTick b moved) s
  each (List.range 16) (fun s gi => if (s.getGrp gi).started then s.modGrp gi (tenBound b s.tb) else s) s

/-- SECOND_BOUNDARY (R52): the tick within the second has reached 384,000. -/
def execSecondBoundary (s : State) : Out :=
  .next (if s.tbOn ∧ s.now ≥ s.tb.second + ticksPerSec then countBoundary (s.tb.second + ticksPerSec) s else s)

/-! ## The discipline loop -/

/-- R48, R49: the boundary nearest to a boundary instant (in 2^-16 tick), and the instant's error against it. -/
def Tb.nearest (t : Tb) (at16 : Int) : Nat × Int :=
  let k := rne (at16 - t.second * 65536) (ticksPerSec * 65536)
  let b := t.second + ticksPerSec * k.toNat
  (b, at16 - b * 65536)

/-- An error within `ns` nanoseconds (one tick is 1/384,000 s). -/
def withinNs (e : Int) (ns : Nat) : Bool := decide (e.natAbs * 10 ^ 9 ≤ ns * 65536 * ticksPerSec)

/-- R51: boundary `old` moves to the index nearest to the instant; a boundary not counted yet is counted there. DESIGN CHOICE (log
entry 79): where that index is the boundary itself nothing moves, so no step is logged, shown or counted; and a boundary that
TB_PPS_DELAY moves to an index that has not come yet is counted at the edge. -/
def moveBoundary (old : Nat) (at16 : Int) (s : State) : State :=
  let new := (rne at16 65536).toNat
  if new = old then s
  else
    let s := if old > s.tb.second then countBoundary new s else s.modTbIsl (fun t => { t with second := new })
    raise .tbSecondStep 0 [(8, old), (8, new)]
      (s.modTbIsl (fun t => { t with secondStep := true, steps := satAdd 0xFFFF t.steps 1 }))

/-- R50: an accepted edge with error e: the runs that decide the state. -/
def edgeState (e : Int) (t : Tb) : Tb :=
  let good := if withinNs e 50 then t.goodRun + 1 else 0
  let bad := if withinNs e 500 then 0 else t.badRun + 1
  let t := { t with goodRun := good, badRun := bad, outRun := [] }
  match t.disc with
  | .acquire => if good ≥ 8 then setDisc .locked t else t
  | .locked => if bad ≥ 3 then { setDisc .acquire t with takeNext := true } else t
  | .free | .holdover => t

/-- R49: an accepted edge: TB_PPS_ERR, the ratio the loop asks for (a free function of the error and of TAU, log entry 4), within
what the ticks since the last change of the ratio allow (R43), and the state. -/
def acceptEdge (at16 : Nat) (e : Int) (s : State) : State :=
  let asked := Config.loopRatio s.fresh e (min s.tb.tau 5)
  let s := { s with fresh := s.fresh + 1 }
  s.modTbIsl (fun t =>
    let t := setRatio asked (t.idx - t.chgAt) { t with err := e, lastEdge := some at16, takeNext := false }
    edgeState e { t with ratios := (t.ratio :: t.ratios).take 16 })

/-- R51: an edge taken without a window check: its boundary moves to it. -/
def takeEdge (at16 : Nat) (s : State) : State :=
  let inst : Int := (at16 : Int) - s.tb.delay
  let s := moveBoundary (s.tb.nearest inst).1 inst s
  acceptEdge at16 (s.tb.nearest inst).2 s

/-- R50: three outliers within 1 tick of one another. -/
def outliersAgree (l : List Int) : Bool :=
  decide (l.length ≥ 3) && l.all (fun a => l.all (fun b => decide ((a - b).natAbs ≤ 65536)))

/-- R48, R50: an outlier. Three in LOCKED, within 1 tick of one another, lead to ACQUIRE, the third moving the boundary. -/
def outlierEdge (at16 : Nat) (e : Int) (s : State) : State :=
  let s := s.modTbIsl (fun t => { t with outliers := satAdd 0xFFFF t.outliers 1, outRun := (e :: t.outRun).take 3 })
  if s.tb.disc == .locked && outliersAgree s.tb.outRun then takeEdge at16 (s.modTbIsl (setDisc .acquire)) else s

/-- R48: an edge in ACQUIRE or LOCKED is checked against the expected boundary. -/
def checkEdge (at16 : Nat) (s : State) : State :=
  let e := (s.tb.nearest ((at16 : Int) - s.tb.delay)).2
  let ok := if s.tb.disc == .acquire then decide (e.natAbs ≤ 40 * 65536) else withinNs e 2000
  if ok then acceptEdge at16 e s else outlierEdge at16 e s

/-- R48: less than 0.5 s after the latest accepted edge. -/
def Tb.tooSoon (t : Tb) (at16 : Nat) : Bool :=
  match t.lastEdge with
  | none => false
  | some e => decide (at16 < e + 192000 * 65536)

/-- PPS_EDGE (R48): a rising PPS edge in the present tick, at an instant on the tick scale. -/
def ppsEdge (at16 : Nat) (s : State) : State :=
  if s.tb.tooSoon at16 then s
  else match s.tb.disc with
    | .free => if s.tb.discEn then takeEdge at16 (s.modTbIsl (setDisc .acquire)) else s
    | .holdover => takeEdge at16 (s.modTbIsl (setDisc .acquire))
    | .acquire | .locked => if s.tb.takeNext then takeEdge at16 s else checkEdge at16 s

/-- PPS_EDGE. -/
def execPpsEdge (at16 : Nat) (s : State) : Out :=
  .next (if s.tbOn ∧ at16 / 65536 = s.now then ppsEdge at16 s else s)

/-- R50: the ticks since the latest accepted edge have reached 576,000. -/
def Tb.edgeLost (t : Tb) : Bool :=
  match t.lastEdge with
  | none => true
  | some e => decide (t.idx * 65536 ≥ e + 576000 * 65536)

/-- PPS_TIMEOUT (R50): ACQUIRE and LOCKED give way to HOLDOVER. -/
def execPpsTimeout (s : State) : Out :=
  .next (if s.tbOn ∧ (s.tb.disc = .acquire ∨ s.tb.disc = .locked) ∧ s.tb.edgeLost then
    s.modTbIsl (fun t => { setDisc .holdover t with takeNext := false })
  else s)

end Sys2Proof.Machine
end

