-- ==== Sys2Proof/Machine/Roles.lean ====
section
/-! DEFINITION. Chapter 17: roles: keys (R406 to R408), opening a session (R409 to R411), ending it (R412 to R414), the audit count
(R416) and the role registers (R417). -/

namespace Sys2Proof.Machine

/-- The host ports. -/
def hostPorts : List Nat := [0, 1, 2, 3]

/-! ## Keys (R406) -/

/-- R406: the key of a role, if one is set; the maker's is that of the generation in use. -/
def State.roleKey (s : State) (r : Nat) : Option (BitVec 256) :=
  match r with
  | 1 => s.role.operator
  | 2 => s.role.installer
  | 3 => some (s.role.makers.getLast?.getD Config.makerKey0)
  | _ => none

/-- The bytes of a 256-bit value, byte 0 in word 0 [7:0] (R407, R409). -/
def keyBytes (k : BitVec 256) : List Byte := leBytes 32 k.toNat

/-! ## Ending a session (R400, R412 to R414) -/

/-- R412, R400: a session ends: it is logged with its cause (numbered as R412 lists them), and the port's context latch is released. -/
def endSession (cause p : Nat) (s : State) : State :=
  let role := (s.getRolePort p).role
  if role = 0 then s
  else
    let s := s.modRolePort p (fun x => { x with role := 0, keyOwn := false })
    let s := s.modHp p (fun h => { h with ctxLatch := none })
    raiseAudit .sessionEnd p [(1, role), (1, p), (1, (Config.sessionEndCause cause).toNat)] s

/-- R413, R429: SESSION_RESET: every session ends, every held challenge is voided, and SUBMIT is held off. During the holdoff, in which no
session can be open, it only restarts the holdoff. -/
def sessionReset (s : State) : State :=
  let s := if s.now < s.role.heldUntil then s
    else each hostPorts (fun s p => (endSession 2 p s).modRolePort p (fun x => { x with chal := none })) s
  s.modRoleIsl (fun r => { r with heldUntil := s.now + r.holdoff * 384000 })

/-- The held challenges of a role are voided (R407, R414). -/
def voidChals (role : Nat) (s : State) : State :=
  each hostPorts (fun s p => s.modRolePort p (fun x => match x.chal with
    | none => x
    | some c => if c.role = role then { x with chal := none } else x)) s

/-- R414, R429: SEAL: every installer session ends, held installer challenges are voided, and installer sessions cannot open. With SEAL in
force nothing changes. -/
def sealUp (s : State) : State :=
  if s.role.sealed then s
  else
  let s := each hostPorts (fun s p => if (s.getRolePort p).role = 2 then endSession 3 p s else s) s
  (voidChals 2 s).modRoleIsl (fun r => { r with sealed := true })

/-! ## Opening a session (R409, R410) -/

/-- R409 step 1: REQ with the bytes of the true random source. -/
def roleReq (p role : Nat) (bytes : BitVec 256) (s : State) : State :=
  let s := s.modRolePort p (fun x => { x with openRole := role })
  if (s.getRolePort p).role ≠ 0 then s.modRolePort p (fun x => { x with result := 9 })
  else if role = 0 then s
  else s.modRolePort p (fun x => { x with chal := some { bytes := bytes, role := role, at_ := s.now } })

/-- R409: the message of 38 bytes. -/
def chalMsg (c : Chal) (p epoch : Nat) : List Byte :=
  keyBytes c.bytes ++ [BitVec.ofNat 8 p, BitVec.ofNat 8 c.role] ++ leBytes 4 epoch

/-- R409: the code of ROLE_STAT.RESULT for a submission, the first failing check deciding. During the holdoff every SUBMIT gives HELD (R413),
also the one that finds its challenge voided by the reset of its own cycle (R411; DEDUCED, log entry 109). -/
def State.submitResult (s : State) (p : Nat) : Nat :=
  let x := s.getRolePort p
  if s.now < s.role.heldUntil then 7
  else match x.chal with
  | none => 8
  | some c =>
    if s.now > c.at_ + 384000 then 2
    else if s.now < x.lockUntil then 6
    else match s.roleKey c.role with
      | none => 3
      | some k =>
        if c.role = 2 ∧ s.role.sealed = true then 4
        else if c.role = 3 ∧ hostPorts.any (fun q => (s.getRolePort q).role == 3) = true then 5
        else if hmac256 (keyBytes k) (chalMsg c p s.tb.epoch) = keyBytes x.resp then 0
        else 1

/-- R410: the lockout after the n-th consecutive failure, in ticks. -/
def lockTicks (n : Nat) : Nat := if n < 3 then 0 else min 61440000 (3840000 * 2 ^ (n - 3))

/-- R410: a failed response counts, may lock the port out, is logged, and is a raw event of monitor 17, unless the monitor is stopped
(R423). -/
def authFail (p role : Nat) (s : State) : State :=
  let n := (s.getRolePort p).fails + 1
  let s := s.modRolePort p (fun x => { x with fails := n, lockUntil := if n < 3 then x.lockUntil else s.now + lockTicks n })
  let s := raiseAudit .authFail p [(1, role), (1, p)] s
  if s.tmp.stopped then s else s.modMon 17 (fun m => { m with hits := m.hits + 1 })

/-- R409: SUBMIT: it opens a session in the challenge's role, or gives the result of the first failing check. -/
def roleSubmit (p : Nat) (s : State) : State :=
  let code := s.submitResult p
  let role := match (s.getRolePort p).chal with
    | none => 0
    | some c => c.role
  let s := s.modRolePort p (fun x => { x with resp := 0, chal := none, result := code })
  if code = 0 then
    raiseAudit .sessionOpen p [(1, role), (1, p)]
      (s.modRolePort p (fun x => { x with role := role, fails := 0, lastUse := s.now }))
  else if code = 1 then authFail p role s
  else s

/-- ROLE_REQ (R409). -/
def execRoleReq (host : Fin 4) (role : BitVec 2) (chal : BitVec 256) (s : State) : Out :=
  onIsl islHost s (roleReq host.val role.toNat chal)

/-- ROLE_SUBMIT (R409, R410). -/
def execRoleSubmit (host : Fin 4) (s : State) : Out := onIsl islHost s (roleSubmit host.val)

/-- ROLE_CLOSE (R412). -/
def execRoleClose (host : Fin 4) (s : State) : Out := onIsl islHost s (endSession 0 host.val)

/-- R412, R417: the idle limit in ticks; values below 60 s act as 60. -/
def State.idleTicks (s : State) : Nat := max 60 s.role.idle * 384000

/-- SESSION_IDLE_TIMEOUT (R412). -/
def execSessionIdleTimeout (host : Fin 4) (s : State) : Out :=
  onIsl islHost s (fun s => if s.now ≥ (s.getRolePort host.val).lastUse + s.idleTicks then endSession 1 host.val s else s)

/-! ## Setting keys (R407, R408) -/

/-- R407, R460: the result of GO by a session of this role: none where the key is being set. Codes of ROLE_KEY_CMD.RESULT. -/
def State.keyRefused (s : State) (role target : Nat) : Option Nat :=
  if decide (role < 2) || (decide (role < 3) && decide (target ≠ 1)) then some 1
  else if s.inWarning then some 2
  else if target = 3 ∧ s.role.makers.length ≥ 3 then some 3
  else none

/-- R407: ROLE_KEY_CMD.GO by port p in a role: ROLE_KEY_NEW is cleared; TARGET 0 is a no-op, and so is a GO while BUSY. Whether a key is being set. -/
def keyGo (role p target : Nat) (s : State) : Bool × State :=
  let x := s.getRolePort p
  let s := s.modRolePort p (fun x => { x with keyTarget := target })
  if target = 0 ∨ x.keyJob.isSome = true then (false, s)
  else
    let s := s.modRolePort p (fun x => { x with keyNew := 0 })
    match s.keyRefused role target with
    | some code => (false, s.modRolePort p (fun x => { x with keyResult := code }))
    | none => (true, raiseAudit .keySet p [(1, role), (1, p)]
        (s.modRolePort p (fun y => { y with keyJob := some (target, x.keyNew), keyOwn := decide (x.role = role) })))

/-- R449: a setting of R445 has been written: an extra periodic save is due. -/
def askSave (s : State) : State := s.modPwrIsl (fun w => { w with saveDue := true })

/-- R406, R449: the key of a role takes effect. -/
def putKey (target : Nat) (k : BitVec 256) (s : State) : State :=
  askSave (s.modRoleIsl (fun r => match target with
    | 1 => { r with operator := some k }
    | 2 => { r with installer := some k }
    | _ => { r with makers := r.makers ++ [k] }))

/-- KEY_SET_DONE (R407): BUSY falls; held challenges of the role are voided and its other sessions end. -/
def execKeySetDone (host : Fin 4) (s : State) : Out :=
  onIsl islHost s (fun s =>
    match (s.getRolePort host.val).keyJob with
    | none => s
    | some (target, k) =>
      let own := (s.getRolePort host.val).keyOwn
      let s := s.modRolePort host.val (fun x => { x with keyJob := none, keyOwn := false, keyResult := 0 })
      let s := voidChals target (putKey target k s)
      each hostPorts (fun s p => if !(own && p == host.val) ∧ (s.getRolePort p).role = target then endSession 4 p s else s) s)

/-- R408: the result of GO: none where the operation runs. Codes of ROLE_OTP_CMD.RESULT. -/
def State.otpRefused (s : State) (op slot : Nat) : Option Nat :=
  let held := match tget .empty s.role.otp slot with
    | .empty => false
    | .key _ | .revoked _ => true
  if op = 1 ∧ held = true then some 1
  else if op = 2 ∧ held = false then some 2
  else if s.inWarning then some 3
  else none

/-- R408: ROLE_OTP_CMD.GO by port p in a role: OP 0 and 3 are no-ops, and so is a GO while BUSY. Whether an operation runs. -/
def otpGo (role p op slot : Nat) (s : State) : Bool × State :=
  let s := s.modRoleIsl (fun r => { r with otpOp := op, otpSlot := slot })
  if op = 0 ∨ op = 3 ∨ s.role.otpJob.isSome = true then (false, s)
  else
    let data := s.role.otpData
    let s := s.modRoleIsl (fun r => { r with otpData := 0 })
    match s.otpRefused op slot with
    | some code => (false, s.modRoleIsl (fun r => { r with otpResult := code }))
    | none =>
      (true, raiseAudit .otpKey p [(1, role), (1, p)]
        (s.modRoleIsl (fun r => { r with otpJob := some (op, slot, data) })))

/-- R408, R271: what an operation leaves in its slot: x then y, each most significant byte first, byte 0 in word 0 [7:0]. -/
def otpAfter (op : Nat) (data : BitVec 512) (old : OtpSlot) : OtpSlot :=
  match op, old with
  | 1, _ => .key (leBytes 64 data.toNat)
  | _, .key xy => .revoked xy
  | _, x => x

/-- OTP_KEY_DONE (R408): BUSY falls with DONE, or with FAILED and the slot unchanged. -/
def execOtpKeyDone (ok : Bool) (s : State) : Out :=
  onIsl islHost s (fun s =>
    match s.role.otpJob with
    | none => s
    | some (op, slot, data) =>
      s.modRoleIsl (fun r => { r with
        otpJob := none
        otpResult := if ok then 0 else 4
        otp := if ok then tset r.otp slot (otpAfter op data (tget .empty r.otp slot)) else r.otp }))

/-- R414: a maker clears SEAL; with no SEAL in force there is nothing to clear. Whether it was cleared. -/
def sealClear (role p : Nat) (s : State) : Bool × State :=
  if s.role.sealed then
    (true, raiseAudit .sealCleared p [(1, role), (1, p)] (askSave (s.modRoleIsl (fun r => { r with sealed := false }))))
  else (false, s)

/-! ## Registers (R417) -/

/-- R417: ROLE_STAT.LOCK_S: the lockout or holdoff left, in seconds, rounded up. -/
def State.lockSecs (s : State) (p : Nat) : Nat := min 255 (cdiv (max (s.getRolePort p).lockUntil s.role.heldUntil - s.now) 384000)

/-- A role register by offset from 0x1F_0000, as port p reads it. -/
def roleRead (s : State) (p off : Nat) : Word :=
  let x := s.getRolePort p
  let r := s.role
  if off = 0 then
    packW [(x.role, 30), (x.result, 24), (b2n x.chal.isSome, 23), (b2n r.sealed, 22), (s.lockSecs p, 8), (min 255 x.fails, 0)]
  else if off = 4 then packW [(x.openRole, 0)]
  else if 0x10 ≤ off && off < 0x30 then
    match x.chal with
    | none => 0
    | some c => wordOf c.bytes.toNat ((off - 0x10) / 4)
  else match off with
    | 0x50 => packW [(r.idle, 16), (r.holdoff, 0)]
    | 0x80 => packW [(b2n x.keyJob.isSome, 30), (x.keyResult, 27), (x.keyTarget, 0)]
    | 0x84 => packW [(r.makers.length, 2), (b2n r.installer.isSome, 1), (b2n r.operator.isSome, 0)]
    | 0x88 => packW [(b2n r.sealed, 0)]
    | 0x90 => packW [(b2n r.otpJob.isSome, 30), (r.otpResult, 27), (r.otpOp, 2), (r.otpSlot, 0)]
    | 0xE0 => BitVec.ofNat 32 r.audit
    | _ => 0

/-- Eight free words as 256 bits: the true random source, where no command names its bytes (R409; log entry 3). -/
def freeBytes : Nat → State → Nat × State
  | 0, s => (0, s)
  | n + 1, s =>
    let (w, s) := s.freeNext
    let (v, s) := freeBytes n s
    (w.toNat + 2 ^ 32 * v, s)

/-- R417: a write of ROLE_OPEN: ROLE first, then REQ, SUBMIT and CLOSE. -/
def roleOpenWrite (p : Nat) (v : Word) (s : State) : State :=
  let s := s.modRolePort p (fun x => { x with openRole := bits v 1 0 })
  let s := if bit v 31 then
      let (b, s) := freeBytes 8 s
      roleReq p (bits v 1 0) (BitVec.ofNat 256 b) s
    else s
  let s := whenDo (bit v 30) (roleSubmit p) s
  whenDo (bit v 29) (endSession 0 p) s

/-- What a write by port p in a role does; whether it leaves no AUDIT record: it has left an entry of its own (R415), or needs no
installer or maker (R417). -/
def roleWrite (role p off : Nat) (v : Word) (s : State) : Bool × State :=
  if off = 4 then (true, roleOpenWrite p v s)
  else if 0x30 ≤ off && off < 0x50 then
    (true, s.modRolePort p (fun x => { x with resp := BitVec.ofNat 256 (setWordOf x.resp.toNat ((off - 0x30) / 4) v) }))
  else if off = 0x50 then (false, s.modRoleIsl (fun r => { r with idle := bits v 31 16, holdoff := bits v 7 0 }))
  else if 0x60 ≤ off && off < 0x80 then
    (false, s.modRolePort p (fun x => { x with keyNew := BitVec.ofNat 256 (setWordOf x.keyNew.toNat ((off - 0x60) / 4) v) }))
  else if off = 0x80 then
    if bit v 31 then keyGo role p (bits v 1 0) s else (false, s.modRolePort p (fun x => { x with keyTarget := bits v 1 0 }))
  else if off = 0x88 then if bit v 31 then sealClear role p s else (false, s)
  else if off = 0x90 then
    if bit v 31 then otpGo role p (bits v 3 2) (bits v 1 0) s
    else (false, s.modRoleIsl (fun r => { r with otpOp := bits v 3 2, otpSlot := bits v 1 0 }))
  else if 0xA0 ≤ off && off < 0xE0 then
    (false, s.modRoleIsl (fun r => { r with otpData := BitVec.ofNat 512 (setWordOf r.otpData.toNat ((off - 0xA0) / 4) v) }))
  else (false, s)

end Sys2Proof.Machine
end

