-- ==== Sys2Proof/Machine/Tamper.lean ====
section
/-! DEFINITION. Chapter 18: the tamper monitors: detectors (R418 to R422), filters (R424, R425), responses (R426 to R429), the
evidence counter (R430, R431), the backup cell (R432), monitor tests (R434, R435) and the tamper registers (R436). -/

namespace Sys2Proof.Machine

/-! ## Monitors and their settings -/

/-- R418: the monitors. -/
def monitors : List Nat := List.range 23

/-- R419: the monitors that count occurrences, not samples. -/
def eventMon (m : Nat) : Bool := decide (16 ≤ m) && decide (m ≤ 19)

/-- R418: the revenue-class monitors. -/
def revenueMon (m : Nat) : Bool := decide (m ≤ 17)

/-- R423: monitors that run in the main domain only. -/
def mainMon (m : Nat) : Bool := decide (16 ≤ m) && m != 20

/-- R432: the main domain does not run, so the cloakroom records and answers alone. Between power-good and the release it still does
(DESIGN CHOICE, log entry 134). -/
def State.onCell (s : State) : Bool := !s.pwr.mainOn && !s.pwr.resetting

/-- R431: OTP can be programmed: from the main supply, outside early warning. -/
def State.otpOn (s : State) : Bool := (!s.onCell || s.pwr.pg) && !s.inWarning

/-- TMP_MON_CFG word 0 of monitor m. -/
def Mon.word0 (x : Mon) : Word := packW [(b2n x.enable, 31), (x.response, 28), (b2n x.opt, 27)]
/-- TMP_MON_CFG word 1. -/
def Mon.word1 (x : Mon) : Word := packW [(x.count, 16), (x.window, 0)]
/-- The two words as software reads them: as written last (R425). -/
def Mon.cfgWords (x : Mon) : Word × Word := x.newCfg.getD (x.word0, x.word1)

/-- R424: the settings c come into force; ENABLE = 0 puts the monitor in OFF and discards its window. -/
def Mon.put (c x : Mon) : Mon :=
  let x := { x with enable := c.enable, response := c.response, opt := c.opt, count := c.count, window := c.window }
  if c.enable then x else { x with state := .off, opened := none, n := 0, quiet := 0 }

/-- R425, R424: a write takes effect at a sample: it closes an open window; ENABLE of monitors 16 and 17 stays 1. -/
def Mon.applyCfg (m : Nat) (x : Mon) : Mon :=
  match x.newCfg with
  | none => x
  | some (a, b) =>
    let en := bit a 31 || m == 16 || m == 17
    Mon.put { enable := en, response := bits a 30 28, opt := bit a 27 && decide (m < 16), count := bits b 31 16, window := bits b 15 0 }
      { x with opened := none, n := 0, newCfg := none }

/-- R425: the settings written since the last sample take effect. -/
def applyCfgs (s : State) : State := each monitors (fun s m => s.modMon m (Mon.applyCfg m)) s

/-! ## Detectors (R418 to R421) -/

/-- R421: one step of PRBS-15 with polynomial x^15 + x^14 + 1: the bit driven, and the next state (log entry 13). -/
def prbsStep (st : Nat) : Bool × Nat :=
  let b := (st / 2 ^ 14 + st / 2 ^ 13) % 2
  (b == 1, (2 * st + b) % 2 ^ 15)

/-- R421: the 32 bits of a sample on a loop: whether any differs from the bit driven one bit period earlier. Nothing is
compared before the first bit has been driven. -/
def prbsRun (bits : BitVec 32) : Nat → Nat → Option Bool → Nat → Bool × Nat × Option Bool
  | 0, _, prev, st => (false, st, prev)
  | n + 1, i, prev, st =>
    let (b, st') := prbsStep st
    let bad := match prev with
      | none => false
      | some p => bits.getLsbD i != p
    let (rest, st'', last) := prbsRun bits n (i + 1) (some b) st'
    (bad || rest, st'', last)

/-- R421: a loop's detectors in one sample: D1 and D2, and the loop after it. -/
def loopSample (i : Nat) (prbs : Bool) (low : Bool) (rd : BitVec 32) (ohms : Nat) (l : Loop) : Bool × Bool × Loop :=
  let fresh := l.prbs == 0
  let run := prbsRun rd 32 0 (if fresh then none else some l.lastBit) (if fresh then i + 1 else l.prbs)
  let r0 := if l.measure then min 0x3FFF ohms else l.r0
  let gap := if ohms < r0 then r0 - ohms else ohms - r0
  (if prbs then run.1 else low,
   decide (4 * gap > max 8 r0) || decide (ohms > 10000),
   { l with
     r0 := r0, rNow := if ohms > 10000 then 0x3FFF else ohms, measure := false
     prbs := if prbs then run.2.1 else 0
     lastBit := if prbs then run.2.2.getD false else false })

/-- R421, R495: the level that loop i drives on TMP_LP_OUT[i] at the end of a sample: constant high in static mode, the bit driven last in
PRBS mode. The spec gives no level for a loop that is OFF (none). -/
def State.loopOut (s : State) (i : Nat) : Option Bool :=
  let x := s.getMon (8 + i)
  if !x.enable then none else some (if x.opt then (s.getLoop i).lastBit else true)

/-- What a monitor finds in one sample: D1, D2, and its raw events (R419, R420); `run` is its run of disagreement. -/
structure Found where
  d1 : Bool := false
  d2 : Bool := false
  raw : Nat := 0
  disRun : Nat := 0
  deriving DecidableEq, Repr

/-- R418 to R423: the detectors of monitor m in the sample `obs`, less the wire loops. The two detectors of a case switch find on their own
(R420, R495). -/
def monFound (m : Nat) (obs : TamperObs) (x : Mon) (hi lo : Int) : Found :=
  if m < 8 then
    let d1 := obs.swHigh.getLsbD m == x.opt
    let d2 := obs.swMid.getLsbD m || obs.swUp.getLsbD m == x.opt
    let run := if d1 != d2 then x.disRun + 1 else 0
    { d1 := d1, d2 := d2, raw := b2n (d1 || d2 || decide (run > 64)), disRun := run }
  else match m with
    | 16 => { d1 := x.hitD1, d2 := x.hitD2, raw := x.hits }
    | 17 => { d1 := decide (x.hits > 0), raw := x.hits }
    | 18 => { d1 := decide (obs.vstaHits > 0), raw := obs.vstaHits }
    | 19 => { d1 := decide (obs.vcoreHits > 0), raw := obs.vcoreHits }
    | 20 => { d1 := obs.vbakLow, raw := b2n obs.vbakLow }
    | 21 => { d1 := obs.refWatchdog, d2 := obs.refCount, raw := b2n (obs.refWatchdog || obs.refCount) }
    | _ =>
      let c := obs.temps.any (fun t => decide (t > hi) || decide (t < lo))
      { d1 := c, raw := b2n c }

/-- R423: the monitor produces no raw events now. -/
def State.monStopped (s : State) (m : Nat) : Bool := mainMon m && (s.tmp.stopped || s.onCell)

/-- What monitor m finds in this sample; a loop is moved on. A monitor that is OFF or stopped finds nothing; the events of monitors 16 and
17 are turned away where they arise (`shadowFound`, `authFail`), so that those of before the stop still count. -/
def senseMon (m : Nat) (obs : TamperObs) (s : State) : Found × State :=
  let x := s.getMon m
  if !x.enable || (s.monStopped m && m != 16 && m != 17) then ({}, s)
  else if 8 ≤ m ∧ m < 16 then
    let i := m - 8
    let (d1, d2, l) := loopSample i x.opt (obs.loopLow.getLsbD i) (obs.loopBits.getD i 0) (obs.loopOhms.getD i 0) (s.getLoop i)
    ({ d1 := d1, d2 := d2, raw := b2n (d1 || d2) }, s.modLoop i (fun _ => l))
  else (monFound m obs x s.tmp.tempHi s.tmp.tempLo, s)

/-! ## The filter (R424) -/

/-- R424: a TRIPPED monitor goes back to ARMED: a level monitor after 1,024 samples without its condition, an event monitor 1,024
samples after its alarm. -/
def Mon.rearm (m raw : Nat) (x : Mon) : Mon :=
  if x.state = .tripped then
    let q := if eventMon m || raw == 0 then x.quiet + 1 else 0
    if q ≥ 1024 then { x with state := .armed, quiet := 0, opened := none, n := 0 } else { x with quiet := q }
  else x

/-- R424: a window that has reached its end closes. -/
def Mon.expire (sample : Nat) (x : Mon) : Mon :=
  match x.opened with
  | none => x
  | some o => if sample ≥ o + x.window then { x with opened := none, n := 0 } else x

/-- R424: the filter of a monitor over one sample with `raw` raw events: the monitor after it, and whether it alarms. -/
def Mon.filter (m sample raw : Nat) (x : Mon) : Mon × Bool :=
  let x := if x.enable && x.state == .off then { x with state := .armed } else x.put x
  let x := (x.rearm m raw).expire sample
  if x.state = .armed ∧ raw > 0 then
    let n := x.n + raw
    if n ≥ x.count then
      ({ x with state := .tripped, opened := none, n := 0, quiet := 0, alarms := satAdd 0xFFFF x.alarms 1 }, true)
    else ({ x with opened := some (x.opened.getD sample), n := n }, false)
  else (x, false)

/-! ## Records (R426, R428, R432) -/

/-- R426: the severity that goes with a response. -/
def respSev (r : Nat) : Nat :=
  match r with
  | 0 => 1
  | 1 => 2
  | 2 => 3
  | 3 => 3
  | _ => 4

/-- R432, R462: the RTC TAI second and the sample within the second, in place of a sample index. -/
def State.cellWhen (s : State) : Nat := s.pwr.rtc % 2 ^ 48 + (s.tmp.sample % 1024) * 2 ^ 48

/-- A tamper record: to the trouble log, or to the mirror while the cloakroom is alone (R432). -/
def tamperRecord (c : LogCode) (sev inst : Nat) (vals : List (Nat × Nat)) (s : State) : State :=
  if s.onCell then
    batteryRecord { code := c.info.1, sev := sev, always := c.info.2.2, when_ := s.cellWhen, epoch := s.tb.epoch
                    data := leBytes 2 inst ++ packVals vals } s
  else raiseSev c sev s.now inst vals s

/-- R426: TAMPER_ALARM of monitor m. -/
def alarmRecord (m : Nat) (s : State) : State :=
  tamperRecord .tamperAlarm (respSev (s.getMon m).response) m
    [(8, if s.onCell then s.cellWhen else s.now), (2, s.tmp.sample % 1024)] s

/-- The bits of a set of monitors. -/
def monSet (ms : List Nat) : Nat := ms.foldl (fun a m => a + 2 ^ m) 0

/-! ## Responses and evidence (R426 to R431) -/

/-- R431, R430: one step of the evidence counter is programmed, `bad` cells passed over. -/
def otpStep (bad : Nat) (s : State) : State :=
  if s.tmp.otpCount ≥ 2048 then s
  else
    let n := min 2048 (s.tmp.otpCount + bad + 1)
    let s := s.modTmpIsl (fun t => { t with otpCount := n })
    if n = 2048 then tamperRecord .tamperOtpFull LogCode.tamperOtpFull.info.2.1 0 [] s else s

/-- R431: a step that cannot be programmed now waits in the pending latch. -/
def otpPend (s : State) : State :=
  s.modTmpIsl (fun t => if t.pending ≥ 255 then { t with pendSat := true } else { t with pending := t.pending + 1 })

/-- R426: a response takes effect in the main domain. -/
def respond (r : Nat) (s : State) : State :=
  let s := whenDo (decide (r ≥ 1)) (irqAll irqTamper) s
  match r with
  | 2 => sessionReset s
  | 3 => sealUp s
  | 4 => s.modPwrIsl (fun p => { p with resetAt := some (p.resetAt.getD s.now) })
  | _ => s

/-- R432: a response called on the cell: SEAL or stronger is set at once, and the strongest is kept. -/
def respondOnCell (r : Nat) (s : State) : State :=
  let s := s.modTmpIsl (fun t => { t with kept := max t.kept r })
  if r ≥ 3 then s.modRoleIsl (fun x => { x with sealed := true }) else s

/-- R428: the alarms of one sample are resolved together. -/
def resolve (ms : List Nat) (bad : Nat) (s : State) : State :=
  if ms.isEmpty then s
  else
    let s := each ms (fun s m => alarmRecord m s) s
    let r := ms.foldl (fun a m => max a (s.getMon m).response) 0
    let step := ms.any (fun m => revenueMon m && decide ((s.getMon m).response ≥ 1))
    let s := tamperRecord .tamperResponse (respSev r) 0 [(1, r), (4, monSet ms)] s
    let s := s.modTmpIsl (fun t => { t with
      lastResp := r, lastIdx := if s.onCell then 0 else s.now, lastMons := monSet ms, lastBattery := s.onCell, lastStep := step })
    let s := if !step then s else if s.otpOn then otpStep bad s else otpPend s
    if s.onCell then respondOnCell r s else respond r s

/-! ## One sample -/

/-- R434: one sample of a test: PASS needs the condition in samples 2 to 8 and not in 13 to 16. -/
def testSample (cond : Bool) (s : State) : State :=
  match s.tmp.test with
  | none => s
  | some (m, done, ok) =>
    let n := done + 1
    let ok := ok && !(decide (2 ≤ n) && decide (n ≤ 8) && !cond) && !(decide (13 ≤ n) && cond)
    if n < 16 then s.modTmpIsl (fun t => { t with test := some (m, n, ok) })
    else
      let s := s.modTmpIsl (fun t => { t with test := none, testResult := if ok then 0 else 1 })
      let s := s.modMon m (fun x => if x.state = .test then { x with state := .armed } else x)
      raiseSev .tamperTest (if ok then 1 else 2) s.now m [(1, b2n (!ok))] s

/-- R419, R420, R424: monitor m in one sample; whether it alarms. -/
def sampleMon (m : Nat) (obs : TamperObs) (s : State) : Bool × State :=
  let (f, s) := senseMon m obs s
  let x := s.getMon m
  let tested := x.state == .test
  let (y, alarm) := if tested then (x, false) else x.filter m s.tmp.sample f.raw
  let found := f.disRun == 64
  let s := s.modMon m (fun _ => { y with
    cond := decide (f.raw > 0), d1 := f.d1, d2 := f.d2, disRun := f.disRun, dis := y.dis || found
    hits := 0, hitD1 := false, hitD2 := false })
  (alarm, whenDo found (tamperRecord .tamperDetector LogCode.tamperDetector.info.2.1 m []) s)

/-- Every monitor in ascending number; the alarms in that order. -/
def sampleAll (obs : TamperObs) : List Nat → State → List Nat × State
  | [], s => ([], s)
  | m :: ms, s =>
    let (a, s) := sampleMon m obs s
    let (l, s) := sampleAll obs ms s
    (if a then m :: l else l, s)

/-- R454: on the cell the RTC counts on, 1,024 samples a second (R419). -/
def cellSecond (s : State) : State :=
  if s.onCell && s.tmp.sample % 1024 == 0 then s.modPwrIsl (fun p => { p with rtc := p.rtc + 1 }) else s

/-- TAMPER_SAMPLE (R419): settings written take effect, every monitor is evaluated, and the alarms are resolved together. -/
def execTamperSample (obs : TamperObs) (s : State) : Out :=
  let s := applyCfgs (s.modTmpIsl (fun t => { t with sample := t.sample + 1 }))
  let s := cellSecond s
  let (alarms, s) := sampleAll obs monitors s
  let s := if obs.refWatchdog || obs.refCount then s.modTmpIsl (fun t => { t with refBadAt := some t.sample }) else s
  .next (resolve alarms obs.badCells (testSample obs.testCond s))

/-! ## Inverted shadows (R422) -/

/-- R422: the address of a field that is held twice. -/
def shadowAddr (f : ShadowField) : Nat :=
  match f with
  | .roleStat _ => 0x1F0000
  | .seal => 0x1F0088
  | .roleKeys => 0x1F0084
  | .roleCfg => 0x1F0050
  | .planMinver => 0x000130
  | .hpBudget p => 0x1F0880 + 4 * p.val
  | .monCfg m => 0x1D0100 + 8 * m.val
  | .tmpThr => 0x1D0030

/-- R451: the newest record of the save store. -/
def State.savedRec (s : State) : Option SaveRec :=
  match s.pwr.copyA, s.pwr.copyB with
  | some a, some b => some (if b.seq > a.seq then b else a)
  | some a, none => some a
  | none, b => b

/-- R422: a field is restored: one that the save store holds takes its saved value, ROLE_STAT.ROLE ends its session; another
keeps the value it was written with. -/
def shadowRestore (f : ShadowField) (s : State) : State :=
  match f, s.savedRec with
  | .roleStat p, _ => endSession 6 p.val s
  | .seal, some r => s.modRoleIsl (fun x => { x with sealed := r.sealed })
  | .roleKeys, some r => s.modRoleIsl (fun x => { x with operator := r.operator, installer := r.installer })
  | .planMinver, some r => s.modPlanIsl (fun p => { p with minver := r.minver })
  | .monCfg m, some r =>
    let y := tget (monDefault m.val) r.mons m.val
    s.modMon m.val (fun x => y.put x)
  | .tmpThr, some r => s.modTmpIsl (fun t => { t with tempHi := r.tempHi, tempLo := r.tempLo })
  | _, _ => s

/-- R422: a mismatch: a raw event of monitor 16, logged and counted; the field is restored. -/
def shadowFound (d1 : Bool) (f : ShadowField) (s : State) : State :=
  let s := if s.monStopped 16 then s
    else s.modMon 16 (fun x => { x with hits := x.hits + 1, hitD1 := x.hitD1 || d1, hitD2 := x.hitD2 || !d1 })
  let s := raise .tamperShadow 16 [(4, shadowAddr f)] s
  let s := s.modTmpIsl (fun t => { t with shadowCount := satAdd 0xFFFF t.shadowCount 1, shadowAddr := shadowAddr f })
  shadowRestore f s

/-- SHADOW_MISMATCH (R422): D1. -/
def execShadowMismatch (f : ShadowField) (s : State) : Out := .next (if s.pwr.mainOn then shadowFound true f s else s)

/-- SHADOW_SWEEP (R422): D2, the steward's sweep. -/
def execShadowSweep (bad : List ShadowField) (s : State) : Out := onStew s (each bad (fun s f => shadowFound false f s))

/-! ## Monitor tests (R434, R435) -/

/-- R435: a GO is refused. -/
def State.testRefused (s : State) (m : Nat) : Bool :=
  decide (m < 18) || decide (m > 22) || (s.getMon m).state == .off || (s.getMon m).state == .tripped ||
  s.tmp.test.isSome || s.inWarning

/-- R434: TMP_TEST.GO. -/
def testGo (m : Nat) (s : State) : State :=
  let s := s.modTmpIsl (fun t => { t with testMon := m })
  if s.testRefused m then s.modTmpIsl (fun t => { t with testResult := 2 })
  else (s.modTmpIsl (fun t => { t with test := some (m, 0, true) })).modMon m (fun x => { x with state := .test, opened := none, n := 0 })

/-! ## Registers (R436) -/

/-- R425, R427, R436: a value of TMP_MON_CFG that a write may not have (cause VALUE). -/
def monBadValue (m word : Nat) (v : Word) : Bool :=
  if word = 0 then decide (bits v 30 28 > 4) || (bits v 30 28 == 4 && m != 16 && m != 17)
  else bits v 31 16 == 0 || bits v 15 0 == 0 || (!eventMon m && decide (bits v 31 16 > bits v 15 0))

/-- R436: TMP_MON_STAT of monitor m. -/
def monStatW (x : Mon) : Word :=
  let st := match x.state with
    | .off => 0
    | .armed => 1
    | .tripped => 2
    | .test => 3
  packW [(st, 30), (b2n x.cond, 29), (b2n x.d1, 28), (b2n x.d2, 27), (b2n x.dis, 26), (x.alarms, 0)]

/-- A tamper register by offset from 0x1D_0000. -/
def tmpRead (s : State) (off : Nat) : Word :=
  let t := s.tmp
  if 0x100 ≤ off && off < 0x1B8 then
    let c := (s.getMon ((off - 0x100) / 8)).cfgWords
    if off % 8 = 0 then c.1 else c.2
  else if 0x200 ≤ off && off < 0x25C then monStatW (s.getMon ((off - 0x200) / 4))
  else if 0x300 ≤ off && off < 0x320 then
    let l := s.getLoop ((off - 0x300) / 4)
    packW [(l.rNow, 16), (l.r0, 0)]
  else match off with
    | 0x00 => packW [(b2n t.batterySeen, 31), (t.lastResp, 24), (monSet (monitors.filter (fun m => (s.getMon m).state == .tripped)), 0)]
    | 0x04 => packW [(b2n (t.otpCount == 2048), 31), (b2n t.pendSat, 30), (t.pending, 16), (t.otpCount % 4096, 0)]
    | 0x08 => wordOf t.lastIdx 0
    | 0x0C => wordOf t.lastIdx 1
    | 0x10 => packW [(t.lastMons, 0)]
    | 0x14 => packW [(t.lastResp, 29), (b2n t.lastBattery, 28), (b2n t.lastStep, 27)]
    | 0x20 => packW [(b2n t.test.isSome, 30), (t.testResult, 28), (t.testMon, 0)]
    | 0x30 => packW [(toU 8 t.tempHi, 24), (toU 8 t.tempLo, 16)]
    | 0x40 => packW [(t.shadowCount, 0)]
    | 0x44 => packW [(t.shadowAddr, 0)]
    | _ => 0

/-- What a read clears. -/
def tmpClear (off : Nat) (s : State) : State :=
  if 0x200 ≤ off && off < 0x25C then s.modMon ((off - 0x200) / 4) (fun x => { x with alarms := 0 })
  else if off = 0x40 then s.modTmpIsl (fun t => { t with shadowCount := 0 })
  else s

/-- R436: the bits that a write of TMP_MON_CFG word 0 of monitor m takes. -/
def monWord0 (m : Nat) (v : Word) : Word :=
  if m < 16 then v &&& 0xF8000000 else if m = 16 ∨ m = 17 then (v &&& 0xF0000000) ||| 0x80000000 else v &&& 0xF0000000

/-- What a write does. -/
def tmpWrite (off : Nat) (v : Word) (s : State) : State :=
  if 0x100 ≤ off && off < 0x1B8 then
    let m := (off - 0x100) / 8
    -- R421: ENABLE of a loop written from 0 to 1 has R0 measured in the next sample, and its pattern starts anew
    let arms := decide (8 ≤ m) && decide (m < 16) && off % 8 == 0 && bit v 31 && !bit (s.getMon m).cfgWords.1 31
    let s := whenDo arms (fun s => s.modLoop (m - 8) (fun l => { l with measure := true, prbs := 0 })) s
    askSave (s.modMon m (fun x =>
      let c := x.cfgWords
      { x with newCfg := some (if off % 8 = 0 then (monWord0 m v, c.2) else (c.1, v)), opened := none, n := 0 }))
  else if 0x200 ≤ off && off < 0x25C then
    if bit v 26 then s.modMon ((off - 0x200) / 4) (fun x => { x with dis := false }) else s
  else match off with
    | 0x00 => if bit v 31 then s.modTmpIsl (fun t => { t with batterySeen := false }) else s
    | 0x04 => if bit v 30 then s.modTmpIsl (fun t => { t with pendSat := false }) else s
    | 0x20 => if bit v 31 then testGo (bits v 4 0) s else s.modTmpIsl (fun t => { t with testMon := bits v 4 0 })
    | 0x30 => askSave (s.modTmpIsl (fun t => { t with tempHi := sgn 8 (bits v 31 24), tempLo := sgn 8 (bits v 23 16) }))
    | _ => s

end Sys2Proof.Machine
end

