-- ==== Sys2Proof/Machine/Power.lean ====
section
/-! DEFINITION. Chapter 19: the save record (R445, R448 to R450), early warning (R441 to R444, R460), the tail (R446), the stop of
the main domain, and the power registers (R461). -/

namespace Sys2Proof.Machine

/-! ## What a record holds (R445) -/

/-- The context under number c as the plan that its committed state belongs to declares it. -/
def State.ctxHeld (s : State) (c : Nat) : Option PlanCtx :=
  let new := s.newPlan.bind (fun p => p.ctx? c)
  match s.oldPlan.bind (fun p => p.ctx? c) with
  | some x => if s.plan.moved.contains x.grp then new else some x
  | none => new

/-- The number of the last window of group g that had closed by an index. -/
def Grp.closedBy (g : Grp) (stop : Nat) : Nat :=
  (g.tw.filter (fun e => decide (e.2 ≤ stop))).foldl (fun m e => max m e.1) g.lastK

/-- R445, R457: the windows that the next start adds: what is still carried, the windows closed by `stop` without a commit, and
the window open then. -/
def State.openWins (s : State) (x : PlanCtx) (c stop : Nat) : List CWin :=
  let y := s.getCtx c
  let g := s.getGrp x.grp
  let k := g.lastK
  y.carry ++ (if g.started then (List.range (g.closedBy stop + 1 - k)).map (fun i => tget {} y.wins (k + 1 + i)) else [])

/-- The committed state of a context. -/
def Ctx.committed (y : Ctx) : Ctx :=
  { acc := y.acc, stat := y.stat, k := y.k, close := y.close, gapFirst := y.gapFirst, gapLast := y.gapLast, sticky := y.sticky
    serving := y.serving }

/-- R445: the contexts of a record; `stop` is the index to which the open windows are exact, none in a periodic record. -/
def State.savedCtxs (s : State) (stop : Option Nat) : List SaveCtx :=
  allKeys.filterMap (fun c => (s.ctxHeld c).map (fun x =>
    { x := { x with c := ctxNum x.c }, key := c, y := (s.getCtx c).committed
      open_ := match stop with | none => [] | some t => s.openWins x c t }))

/-- R295: the retired items: kind as RED_RESTORE_SEL.KIND, and 6 for the event unit, with the index. -/
def State.retiredItems (s : State) : List (Nat × Nat) :=
  (s.head.filter (fun e => e.2.retP)).map (fun e => (0, 2 * e.1)) ++ (s.head.filter (fun e => e.2.retA)).map (fun e => (0, 2 * e.1 + 1)) ++
  (s.port.filter (fun e => e.2.retired)).map (fun e => (1, e.1)) ++
  (s.stair.eng.filter (fun e => e.2.st == .retired)).map (fun e => (2, e.1)) ++
  (s.tally.unit.filter (fun e => e.2.retired)).map (fun e => (3, e.1)) ++
  (s.spec.eng.filter (fun e => e.2.retired && decide (e.1 < 5))).map (fun e => (4, e.1)) ++
  (s.spec.eng.filter (fun e => e.2.retired && decide (5 ≤ e.1))).map (fun e => (5, e.1 - 5)) ++
  (if s.ev.down then [(6, 0)] else [])

/-- R213, R445: a legacy input with the edges before an index counted and no others; they stay listed for the mirrors of the windows that
closed before it (R211, R444). -/
def PulseIn.upTo (t : Nat) (x : PulseIn) : PulseIn :=
  let before := x.edges.filter (fun e => decide (e.1 < t))
  let x := before.foldl (fun x e => countEdge t e x) { x with edges := [] }
  let m := mirrorAt t x
  let late := (x.log.filter (fun e => !e.2.1 && decide (e.1 ≥ t))).length
  { x with
    imp := m.1, exp := m.2, log := x.log.filter (fun e => e.2.1 || decide (e.1 < t)), count := (x.count + 2 ^ 32 - late) % 2 ^ 32 }

/-- R291: the slot that the next start tries first: the new plan's, once some group has switched. -/
def State.saveSlot (s : State) : Nat :=
  if s.plan.st = .switching && !s.plan.switched.isEmpty then 1 - s.plan.slot else s.plan.slot

/-- R445, R448: a record. -/
def State.saveRec (s : State) (seq idx : Nat) (stop : Option Nat) (inputs : Tab PulseIn) : SaveRec :=
  { seq := seq, epoch := s.tb.epoch, idx := idx, warning := stop.isSome, ctx := s.savedCtxs stop
    pulses := s.pulse.out, inputs := inputs, retired := s.retiredItems
    sealed := s.role.sealed, operator := s.role.operator, installer := s.role.installer, audit := s.role.audit
    mons := s.tmp.mon, loops := s.tmp.loop, tempHi := s.tmp.tempHi, tempLo := s.tmp.tempLo
    minver := s.plan.minver, slot := s.saveSlot, pfwEn := s.pwr.pfwEn, ewThr := s.pwr.ewThr, period := s.pwr.period
    logNext := s.log.next, warnings := s.pwr.warnings }

/-! ## Writing records (R449, R450) -/

/-- The sequence number of a copy. -/
def recSeq (r : Option SaveRec) : Nat := match r with | none => 0 | some x => x.seq

/-- R448: sequence numbers have 32 bits (that they wrap is the model's, log entry 133). -/
def seqPlus (n k : Nat) : Nat := (n + k) % 2 ^ 32

/-- R450: the sequence number of a warning record follows the higher one. -/
def Pwr.topSeq (p : Pwr) : Nat := max (recSeq p.copyA) (recSeq p.copyB)

/-- R449: which copy a periodic save writes (true: B), and its number: the one with the lower number, plus 2. Two copies with one
number take the next number in copy A (DEDUCED); a copy that is not valid takes the number after the other's. -/
def Pwr.periodicTarget (p : Pwr) : Bool × Nat :=
  if p.single then (false, seqPlus (recSeq p.copyA) 2)
  else match p.copyA, p.copyB with
    | some a, some b =>
      if a.seq = b.seq then (false, seqPlus a.seq 1)
      else if a.seq < b.seq then (false, seqPlus a.seq 2) else (true, seqPlus b.seq 2)
    | none, some b => (false, seqPlus b.seq 1)
    | some a, none => (true, seqPlus a.seq 1)
    | none, none => (false, 1)

/-- PWR_SAVE_STAT of a record that is complete. -/
def noteSaved (r : SaveRec) (copies : Nat) (s : State) : State :=
  s.modPwrIsl (fun p => { p with statSeq := r.seq, statKind := r.warning, statCopies := copies, statIdx := r.idx })

/-- R449: a read-back that fails. -/
def saveFailed (copy : Nat) (s : State) : State :=
  raise .saveFail copy [] (s.modPwrIsl (fun p => { p with saveFail := true, saveErr := satAdd 0xFFFF p.saveErr 1 }))

/-- R457: the copies that count all hold the present epoch: the tail block is void from then on. -/
def spendTail (s : State) : State :=
  let now := fun (r : Option SaveRec) => match r with | none => false | some x => x.epoch == s.tb.epoch
  s.modPwrIsl (fun p =>
    if now p.copyA && (p.single || now p.copyB) then { p with tailVoid := true, lateEnd := none } else p)

/-- PERIODIC_SAVE (R449): the committed state goes into the older copy, read back and, where that fails, written once more. -/
def periodicSave (ok1 ok2 : Bool) (s : State) : State :=
  let (b, seq) := s.pwr.periodicTarget
  let r := s.saveRec seq s.now none s.pulse.inp
  let s := s.modPwrIsl (fun p => { p with saveDue := false, saveAt := s.now })
  let put := fun (v : Option SaveRec) (s : State) => s.modPwrIsl (fun p => if b then { p with copyB := v } else { p with copyA := v })
  let done := fun (s : State) => spendTail (noteSaved r (if b then 2 else 1) ((put (some r) s).modPwrIsl (fun p => { p with resetRec := false })))
  if ok1 then done s
  else
    let s := saveFailed (b2n b) s
    if ok2 then done s else put none (saveFailed (b2n b) s)

/-- R449: a periodic save is due: a setting of R445 was written, or the period has passed. -/
def State.saveTime (s : State) : Bool :=
  s.pwr.saveDue || decide (s.now ≥ s.pwr.saveAt + 38400 * min 600 (max 2 s.pwr.period))

/-- PERIODIC_SAVE (R449): from the first commits on (R458), with a plan in force (R283), outside a warning (R460). -/
def execPeriodicSave (ok1 ok2 : Bool) (s : State) : Out :=
  onIsl islPower s (fun s =>
    if s.pwr.st = .normal ∧ s.plan.cur.isSome ∧ s.pwr.resetAt.isNone ∧ s.saveTime then periodicSave ok1 ok2 s else s)

/-! ## Bringing the sums to the stop -/

/-- Every context that a unit serves counts what has arrived. -/
def countArrived (s : State) : State :=
  each allKeys (fun s c =>
    if s.unitFor c < 9 && (s.ctxGrp c).isSome then cyclesUpTo c 64 (flatsUpTo c 4096 s) else s) s

/-- R445, R311: the index of the freeze: 512 ticks after W, or after the fault of a tally replay, whichever is later. -/
def State.freezeAt (s : State) (w : Nat) : Nat := max w s.tally.replayAt + 512

/-- R445: every tally unit is current. -/
def State.unitsCurrent (s : State) : Bool := (List.range 9).all (fun u => (s.getUnit u).replay.isNone)

/-- R12: the power island has lost its clock and is held idle. -/
def State.pwrIdle (s : State) : Bool := bit s.glb.lost islPower

/-! ## Early warning (R441 to R444) -/

/-- R443, R104: rings in RUN enter SHED. -/
def shedRings (s : State) : State :=
  each (List.range s.ringCount) (fun s r => if (s.getRing r).st = .run then s.modRing r (fun g => { g with st := .shed }) else s) s

/-- R443, R361: the memory test yields and stops, and G1, G6 and G7 are held in RETAIN. -/
def shedGalleries (s : State) : State :=
  let s := if s.mt.borrowed then memYield s else s
  let s := s.modMtIsl (fun m => { m with stopped := true })
  each [1, 6, 7] (fun s g => galSettle g (s.modGal g (fun x => { x with shed := true, woken := false }))) s

/-- R458: a group of the plan in force has not made its first commit of the epoch; or there is no plan, and the saved record
stays untouched (R283). -/
def State.notAllFirst (s : State) : Bool :=
  s.pwr.st = .start || (match s.plan.cur with
    | none => true
    | some p => p.groups.any (fun g => !s.pwr.firstDone.contains g.g))

/-- R460: a periodic save that is due and is being written at W is abandoned: its copy is not valid. -/
def tearSave (s : State) : State :=
  s.modPwrIsl (fun p => if p.periodicTarget.1 then { p with copyB := none } else { p with copyA := none })

/-- R460: a periodic save can be being written: it is due, and nothing stands against it. -/
def State.maySave (s : State) : Bool :=
  s.up islPower && s.pwr.st == .normal && s.plan.cur.isSome && s.pwr.resetAt.isNone && s.saveTime

/-- R441, R443: the warning is raised: W is this tick. -/
def warn (src : Nat) (s : State) : State :=
  let w := s.now
  -- which rail left its window is not an operand: a free value other than all in their windows
  let rails := s.freeNext
  let s := if src ≥ 4 then rails.2 else s
  let s := raise .powerWarning 0 [(1, src)] s
  let s := s.modPwrIsl (fun p => { p with
    st := .warning, w := w, ewSrc := src, warnings := satAdd 0xFFFF p.warnings 1, resetAt := none, recDone := false, recGone := false
    warnSeq := none, tailAt := w
    railsPg := if src ≥ 4 then bits rails.1 3 0 % 15 else p.railsPg
    fromVio := if src ≥ 4 then decide (bits rails.1 3 0 % 15 ≥ 8) else p.fromVio, interrupted := s.notAllFirst })
  let s := s.modTallyIsl (fun t => { t with ctx := t.ctx.map (fun e => (e.1, { e.2 with
    tail := [0, 0, 0, 0], ckFlat := e.2.ckFlat.map (fun q => { q with tail := [0, 0, 0, 0] }) })) })
  let s := shedRings s
  let s := shedGalleries s
  let s := each (List.range 16) (fun s o => s.modOut o (fun x => { x with stopped := true, due := 0 })) s
  let s := each (List.range 16) (fun s i => s.modInp i (fun x => { x.upTo w with stopped := true })) s
  let s := s.modTmpIsl (fun t => { t with stopped := true })
  abortPlan (abortOutings s)

/-- R441: the sources that count: PFW_N only while PFW_EN is 1. -/
def State.warnSrc (s : State) (src : Nat) : Nat := if s.pwr.pfwEn then src else src - 2 * (src / 2 % 2)

/-- R438, R441, R458: a warning between power-good and the release. Nothing has been released, so there is nothing to shed or to save: the
start is given up, and the next one logs START_INTERRUPTED. POWER_WARNING goes into the mirror with the RTC's time, as no index has been
issued (DESIGN CHOICE, log entry 134). -/
def giveUpStart (src : Nat) (s : State) : State :=
  let i := LogCode.powerWarning.info
  batteryRecord { code := i.1, sev := i.2.1, always := i.2.2, when_ := s.cellWhen, epoch := s.tb.epoch
                  data := leBytes 2 0 ++ packVals [(1, src)] }
    (s.modPwrIsl (fun p => { p with pg := false, fromVio := false, railsPg := 0, interrupted := true }))

/-- POWER_WARNING (R438, R441, R460): after power-good, the first source raises the warning; one that appears later changes nothing. -/
def execPowerWarning (src : BitVec 3) (s : State) (saving : Bool := false) : Out :=
  .next (if s.inWarning ∨ s.warnSrc src.toNat = 0 ∨ s.pwrIdle then s
    else if s.pwr.mainOn ∨ s.pwr.resetting then warn (s.warnSrc src.toNat) (whenDo (saving && s.maySave) tearSave s)
    else if s.pwr.pg then giveUpStart (s.warnSrc src.toNat) s else s)

/-- R443, R444: every spectral engine has sent its tokens for the windows closed at or before W. -/
def State.specSent (s : State) : Bool :=
  (List.range 16).all (fun gi =>
    let g := s.getGrp gi
    let a := g.lastK
    let b := g.closedBy s.pwr.w
    !g.started || (List.range (b - a)).all (fun i =>
      match s.planWin gi (a + 1 + i) with
      | none => true
      | some p => (p.ctxsOf gi).all (fun x => decide (s.harmFor x.c ≥ 5) || s.hasToken gi (a + 1 + i) (harmToken x.c))))

/-- SPECTRAL_SHED (R443, R444): once its tokens are sent, and at W + 768 at the latest. -/
def execSpectralShed (s : State) : Out :=
  .next (if s.pwr.mainOn ∧ s.inWarning ∧ !s.pwrIdle ∧ (s.specSent ∨ s.now ≥ s.pwr.w + 768) then
    s.modSpecIsl (fun x => { x with shed := true })
  else s)

/-- R449, R450: a record goes into copy A and then into copy B, with one number; `fin` follows when both are complete. A copy whose read-back
fails is not valid until it has been written once more. -/
def writeBoth (okA okB : Bool) (r : SaveRec) (fin : State → State) (s : State) : State :=
  let s := s.modPwrIsl (fun p => { p with
    warnSeq := some r.seq, resetRec := p.resetRec && !okA, copyA := if okA then some r else none })
  if !okA then saveFailed 0 s
  else if !s.pwr.single && !okB then saveFailed 1 (s.modPwrIsl (fun p => { p with copyB := none }))
  else fin (noteSaved r (if s.pwr.single then 1 else 3) (s.modPwrIsl (fun p => { p with copyB := if p.single then p.copyB else some r })))

/-- R445, R450: the totals record of the warning, with the sums brought to W. -/
def State.warnRec (s : State) : SaveRec :=
  s.saveRec (s.pwr.warnSeq.getD (seqPlus s.pwr.topSeq 1)) s.pwr.w (some s.pwr.w) s.pulse.inp

/-- R445, R450: the freeze: the totals record is written. -/
def freeze (okA okB : Bool) (s : State) : State :=
  let s := countArrived s
  writeBoth okA okB s.warnRec (fun s => s.modPwrIsl (fun p => { p with st := .saved, recDone := true, lateEnd := none })) s

/-- R443 to R445, R447: the record can be written: every tally unit is current, the harmonic energy of the windows that closed by W is known
(the tokens are sent, or W + 768 has passed), the record has not been abandoned, and its deadline has not passed. -/
def State.freezeDue (s : State) : Bool :=
  s.pwr.mainOn && s.pwr.st == .warning && !s.pwr.interrupted && !s.pwr.recGone && !s.pwrIdle && decide (s.now ≥ s.freezeAt s.pwr.w) &&
    decide (s.now < s.freezeAt s.pwr.w + 1536) && s.unitsCurrent && (s.spec.shed || s.specSent || decide (s.now ≥ s.pwr.w + 768))

/-- TOTALS_FREEZE (R443, R445): no record while a start has not reached every group's first commit (R458). -/
def execTotalsFreeze (okA okB : Bool) (s : State) : Out := .next (if s.freezeDue then freeze okA okB s else s)

/-- R447: the record is abandoned, and the tail block is void. -/
def dropRecord (s : State) : State :=
  if s.pwr.recDone || s.pwr.interrupted then s
  else s.modPwrIsl (fun p => { p with recGone := true, tailVoid := true, lateEnd := some (p.w + 2304) })

/-- SAVE_DEADLINE (R447). -/
def execSaveDeadline (s : State) : Out :=
  .next (if s.pwr.mainOn ∧ s.inWarning ∧ !s.pwrIdle ∧ s.now ≥ s.freezeAt s.pwr.w + 1536 then dropRecord s else s)

/-- R446: the tail sums, with their bound, go into the half of the tail block that is not the latest. -/
def copyTail (s : State) : State :=
  if s.pwr.interrupted || s.pwr.recGone then s
  else
    let s := countArrived s
    let t : Tail := { epoch := s.tb.epoch, w := s.pwr.w, tEnd := s.tailBound
                      sums := allKeys.filterMap (fun c => (s.ctxHeld c).map (fun _ => (c, (s.getCtx c).tail))) }
    s.modPwrIsl (fun p =>
      let p := { p with tailVoid := false, tailAt := s.now }
      if p.tailNext then { p with tailB := some t, tailNext := false } else { p with tailA := some t, tailNext := true })

/-- TAIL_COPY (R446): 96 ticks after W or the last copy. -/
def execTailCopy (s : State) : Out :=
  .next (if s.pwr.mainOn ∧ s.inWarning ∧ !s.pwrIdle ∧ s.now ≥ s.pwr.tailAt + 96 then copyTail s else s)

/-! ## The stop of the main domain -/

/-- R468, R470: what waits in the trouble channels reaches the log, in ascending SOURCE and, within one, in order of WHEN. A steward that
restarts has restarted by then (R31: within 5 ms; DESIGN CHOICE, log entry 135). -/
def drainLog (s : State) : State :=
  let es := (List.range 12).flatMap (fun i => (s.getLogSrc i).chan ++ (s.getLogSrc i).waiting)
  let before := fun (a b : LogEnt) => decide (a.source < b.source) || (a.source == b.source && decide (a.when_ ≤ b.when_))
  let s := s.modLogIsl (fun l => { l with src := l.src.map (fun e => (e.1, { e.2 with chan := [], waiting := [] })) })
  if s.up islSteward && s.galOn 3 then each (sortBy before es) (fun s e => takeRecord e s) s else s

/-- R439, R446: PWR_LAST of the loss that ends now. -/
def noteLoss (s : State) : State :=
  s.modPwrIsl (fun p => { p with
    lastValid := true, lastRecord := p.recDone, lastSrc := p.ewSrc, lastEpoch := s.tb.epoch, lastW := p.w
    lastTail := 0, lastTailEnd := 0, outage := 0xFFFFFFFF })

/-- What is left of the power island: the save store, the cloakroom's part of it, and the record of the loss. -/
def Pwr.stopped (p : Pwr) : Pwr :=
  { single := p.single, copyA := p.copyA, copyB := p.copyB, epochs := p.epochs, tailA := p.tailA, tailB := p.tailB
    tailNext := p.tailNext, tailVoid := p.tailVoid, lateEnd := p.lateEnd, resetRec := p.resetRec, interrupted := p.interrupted
    lastValid := p.lastValid, lastRecord := p.lastRecord, lastTail := p.lastTail, lastSrc := p.lastSrc, lastEpoch := p.lastEpoch
    lastW := p.lastW, lastTailEnd := p.lastTailEnd, rtc := p.rtc, stopRtc := some p.rtc, pfwEn := p.pfwEn, ewThr := p.ewThr, period := p.period }

/-- The cloakroom without what only the main domain's monitors and tests held. -/
def Tmp.stoppedMain (t : Tmp) : Tmp :=
  { t with stopped := true, test := none, shadowCount := 0, shadowAddr := 0
           mon := t.mon.map (fun e => (e.1, if e.2.state == .test then { e.2 with state := .armed } else e.2)) }

/-- R439, R443: the main domain stops: of the die remain its identity, the flash, the save store with the calibration store, OTP,
and the cloakroom. -/
def stopMain (s : State) : State :=
  let s := noteLoss (drainLog (each hostPorts (fun s p => endSession 5 p s) (dropRecord s)))
  { State.reset with
    glb := { half := s.glb.half, stepping := s.glb.stepping, trim := s.glb.trim, trimAt := none }
    tb := { epoch := s.tb.epoch }
    plan := { flash := s.plan.flash }
    cal := { store := s.cal.store }
    role := { otp := s.role.otp, makers := s.role.makers, sealed := s.role.sealed }
    tmp := s.tmp.stoppedMain
    pwr := s.pwr.stopped
    log := { cloakNext := s.log.cloakNext, mirror := s.log.mirror, mirrorVoid := s.log.mirrorVoid, mirrorLost := s.log.mirrorLost }
    fresh := s.fresh, pending := s.pending }

/-- MAIN_STOP (R443, R446): the tail ends at W + 2,304. -/
def execMainStop (s : State) : Out :=
  .next (if (s.pwr.mainOn ∨ s.pwr.resetting) ∧ s.inWarning ∧ !s.pwrIdle ∧ s.now ≥ s.pwr.w + 2304 then stopMain (copyTail s) else s)

/-- R450: the main domain stops while copy A is being written (1), or after it while copy B is (2): the copy that was being written is not
valid. -/
def tearRecord (torn : Nat) (s : State) : State :=
  if torn = 0 ∨ !s.freezeDue then s
  else
    let s := countArrived s
    let r := s.warnRec
    s.modPwrIsl (fun p => if torn = 1 then { p with copyA := none }
      else { p with copyA := some r, copyB := if p.single then p.copyB else none, resetRec := false })

/-- R446: VHOLD has reached 7.0 V before the first copy of the tail sums: the tail ends where it began, at W (DESIGN CHOICE, log
entry 136). -/
def noCopyYet (s : State) : State :=
  let mine := fun (t : Option Tail) => match t with | none => false | some t => t.epoch == s.tb.epoch && t.w == s.pwr.w
  if s.pwr.recDone && !mine s.pwr.tailA && !mine s.pwr.tailB then
    s.modPwrIsl (fun p => { p with tailA := some { epoch := s.tb.epoch, w := p.w, tEnd := p.w, sums := [] }, tailVoid := false })
  else s

/-- VHOLD_SHUTDOWN (R439, R446, R450): VHOLD falls to 7.0 V: the tail ends at the last complete copy. -/
def execVholdShutdown (s : State) (torn : Fin 3 := 0) : Out :=
  .next (if (s.pwr.mainOn ∨ s.pwr.resetting) ∧ s.inWarning then stopMain (noCopyYet (tearRecord torn.val s)) else s)

/-- CLOAK_SUPPLY_SWITCH (R453): VIO33 enters or leaves its window, and the cloakroom goes over to it, or to VBAK, without interruption. -/
def execCloakSupplySwitch (vio33 : Bool) (s : State) : Out :=
  .next (s.modPwrIsl (fun p => { p with fromVio := vio33, railsPg := p.railsPg % 8 + 8 * b2n vio33 }))

/-! ## Registers (R461) -/

/-- A power register by offset from 0x1E_0000. -/
def pwrRead (s : State) (off : Nat) : Word :=
  let p := s.pwr
  match off with
  | 0x00 => packW [((match p.st with | .start => 0 | .normal => 1 | .warning => 2 | .saved => 3), 29),
      (p.ewSrc % 2, 28), (p.ewSrc / 2 % 2, 27), (p.ewSrc / 4 % 2, 26), (b2n (p.mainOn && Config.holdOk s.now), 25),
      (b2n (p.mainOn && Config.bakOk s.now), 24),
      (b2n p.single, 23), (b2n p.saveDisagree, 22), (b2n p.saveFail, 21), (p.railsPg, 8)]
  | 0x04 => packW [(b2n p.pfwEn, 31), (p.ewThr, 16)]
  | 0x08 => packW [(p.period, 0)]
  | 0x0C => BitVec.ofNat 32 p.statSeq
  | 0x10 => packW [(b2n p.statKind, 2), (p.statCopies, 0)]
  | 0x14 => wordOf p.statIdx 0
  | 0x18 => wordOf p.statIdx 1
  | 0x20 => packW [(b2n p.lastValid, 31), (b2n p.lastRecord, 30), (p.lastTail, 28), (p.lastSrc, 25)]
  | 0x24 => BitVec.ofNat 32 p.lastEpoch
  | 0x28 => wordOf p.lastW 0
  | 0x2C => wordOf p.lastW 1
  | 0x30 => wordOf p.lastTailEnd 0
  | 0x34 => wordOf p.lastTailEnd 1
  | 0x38 => BitVec.ofNat 32 p.outage
  | 0x44 => packW [(p.otpMs, 24), (p.loadMs, 0)]
  | 0x48 => packW [(p.warnings, 16), (p.saveErr, 0)]
  | _ => 0

/-- What a read clears. -/
def pwrClear (off : Nat) (s : State) : State :=
  match off with
  | 0x48 => s.modPwrIsl (fun p => { p with saveErr := 0 })
  | _ => s

/-- What a write does: a setting of R445 asks for an extra save (R449); ACK releases copy B (R451). -/
def pwrWrite (off : Nat) (v : Word) (s : State) : State :=
  match off with
  | 0x00 => s.modPwrIsl (fun p => { p with
      saveDisagree := p.saveDisagree && !bit v 22, saveFail := p.saveFail && !bit v 21 })
  | 0x04 => s.modPwrIsl (fun p => { p with pfwEn := bit v 31, ewThr := bits v 23 16, saveDue := true })
  | 0x08 => s.modPwrIsl (fun p => { p with period := bits v 15 0, saveDue := true })
  | 0x40 => if bit v 31 then s.modPwrIsl (fun p => { p with single := false }) else s
  | _ => s

end Sys2Proof.Machine
end

