-- ==== Sys2Proof/Machine/Start.lean ====
section
/-! DEFINITION. Chapter 19: power-good and the start of the main domain (R451, R452, R455 to R458, R433), the restart after a
FULL_RESET (R459), and the islands' resets, clocks and the cloakroom's oscillator (R12, R13). -/

namespace Sys2Proof.Machine

/-! ## Power-good (R438, R453, R455, R433) -/

/-- R453: the tail block is void. -/
def loseTail (s : State) : State := s.modPwrIsl (fun p => { p with tailA := none, tailB := none, tailVoid := true })

/-- R453: the mirror is void. -/
def loseMirror (s : State) : State :=
  s.modLogIsl (fun l => { l with mirror := [], mirrorVoid := true, cloakNext := 0, mirrorLost := 0 })

/-- R455: the cloakroom has lost its contents: the tail block, the mirror, the RTC and the pending steps. -/
def loseCloakroom (s : State) : State :=
  let r := s.freeNext
  let s := loseMirror (loseTail (r.2.modPwrIsl (fun p => { p with rtc := r.1.toNat, stopRtc := none })))
  let s := s.modRoleIsl (fun x => { x with sealed := false })
  s.modTmpIsl (fun t => { mon := (List.range 23).map (fun m => (m, monDefault m)), otpCount := t.otpCount })

/-- R433, R430: the steps in the pending latch are committed, each within 1 ms, `bad` cells passed over in all. -/
def commitPending (bad : Nat) (s : State) : State :=
  let n := s.tmp.pending
  let w := s.freeNext
  let s := w.2
  let s := if n = 0 then s else repeatDo (otpStep 0) (n - 1) (otpStep bad s)
  (s.modTmpIsl (fun t => { t with pending := 0 })).modPwrIsl (fun p => { p with otpMs := if n = 0 then 0 else w.1.toNat % (n + 1) })

/-- POWER_GOOD (R438, R456): the rails are in their windows; the galleries start to clear (R361). -/
def execPowerGood (bak : Backup) (badCells : Nat) (s : State) : Out :=
  .next (if s.pwr.pg ∨ s.pwr.mainOn ∨ s.pwr.resetting then s
    else
      let s := if bak.kept then whenDo (!bak.mirrorOk) loseMirror (whenDo (!bak.tailOk) loseTail s) else loseCloakroom s
      let s := s.modPwrIsl (fun p => { p with
        pg := true, fromVio := true, railsPg := 0xF
        bakLost := p.bakLost || !(bak.kept && bak.tailOk && bak.mirrorOk), cloakLost := p.cloakLost || !bak.kept
        outage := match p.stopRtc with | none => 0xFFFFFFFF | some t => if p.lastValid then min (p.rtc - t) 0xFFFFFFFF else 0xFFFFFFFF })
      each (List.range 8) (fun s g => galClear g s) (commitPending badCells s))

/-! ## Choosing the record (R451) -/

/-- R451: SAVE_DISAGREE for one copy: its number, its CRC and the offset of the first difference; the layout of a record is
internal, so the latter two are free. -/
def disagreeEntry (copy seq : Nat) (s : State) : State :=
  let a := s.freeNext
  let b := a.2.freeNext
  raise .saveDisagree copy [(4, seq), (4, a.1.toNat), (4, b.1.toNat)] b.2

/-- R451: the record of this start. -/
def chooseRecord (s : State) : State :=
  let pick := fun (r : SaveRec) (s : State) => s.modPwrIsl (fun p => { p with chosen := some r })
  match s.pwr.copyA, s.pwr.copyB with
  | none, none => raise .saveNone 0 [] (s.modPwrIsl (fun p => { p with chosen := none }))
  | some a, none => pick a s
  | none, some b => pick b s
  | some a, some b =>
    if a = b then pick a s
    else if a.seq = b.seq then
      let s := disagreeEntry 1 b.seq (disagreeEntry 0 a.seq s)
      pick a (s.modPwrIsl (fun p => { p with saveDisagree := true, single := true }))
    else if s.pwr.single || decide (a.seq > b.seq) then pick a s
    else pick b s

/-- R452: the epoch of this start. -/
def nextEpoch (s : State) : State :=
  let of_ := fun (r : Option SaveRec) => match r with | none => [] | some x => [x.epoch]
  let l := s.pwr.epochs ++ of_ s.pwr.copyA ++ of_ s.pwr.copyB
  let e := (if l.isEmpty then histEpoch s.plan.flash else l.foldl max 0) + 1
  let s := (s.modTbIsl (fun t => { t with epoch := e })).modPwrIsl (fun p => { p with epochs := [e, e] })
  whenDo l.isEmpty (raise .epochRecovered 0 []) s

/-- R295: an item that the record holds as retired. -/
def retireSaved (s : State) (e : Nat × Nat) : State :=
  match e.1 with
  | 0 => s.modHead (e.2 / 2) (fun h => if e.2 % 2 = 1 then { h with retA := true, aUse := 6 } else { h with retP := true, pUse := 6 })
  | 1 => s.modPort e.2 (fun p => { p with retired := true })
  | 2 => s.modEng e.2 (fun x => { x with st := .retired })
  | 3 => s.modUnit e.2 (fun x => { x with retired := true })
  | 4 => s.modSpEng e.2 (fun x => { x with retired := true })
  | 5 => s.modSpEng (5 + e.2) (fun x => { x with retired := true })
  | _ => s.modEvIsl (fun x => { x with down := true })

/-- A monitor's settings without what the filter holds. -/
def Mon.settings (m : Nat) (x : Mon) : Mon :=
  { monDefault m with enable := x.enable, response := x.response, opt := x.opt, count := x.count, window := x.window }

/-- R445: what a record keeps of a legacy input: its accumulators, WRAP bits and PLS_IN_COUNT. -/
def PulseIn.saved (x : PulseIn) : PulseIn := { imp := x.imp, exp := x.exp, bImp := x.imp, bExp := x.exp, count := x.count }

/-- R445, R451: the settings of the chosen record, or those of a device never configured. The cloakroom's own copy of the tamper
settings and R0 stands unless it was lost or there is no record. -/
def restoreSettings (cloakLost : Bool) (s : State) : State :=
  match s.pwr.chosen with
  | none =>
    let s := s.modTmpIsl (fun t => { t with
      mon := (List.range 23).map (fun m => (m, let d := monDefault m
                                               Mon.put d (tget d t.mon m)))
      loop := t.loop.map (fun e => (e.1, { e.2 with r0 := 0 })), tempHi := 125, tempLo := -45 })
    (s.modRoleIsl (fun x => { x with operator := none, installer := none, audit := 0 })).modPwrIsl (fun p =>
      { p with pfwEn := true, ewThr := 85, period := 10, warnings := 0 })
  | some r =>
    let s := r.retired.foldl retireSaved s
    let s := s.modRoleIsl (fun x => { x with
      sealed := x.sealed || r.sealed, operator := r.operator, installer := r.installer, audit := r.audit })
    let s := s.modPwrIsl (fun p => { p with pfwEn := r.pfwEn, ewThr := r.ewThr, period := r.period, warnings := r.warnings })
    let s := s.modPlanIsl (fun p => { p with minver := r.minver, slot := r.slot })
    let s := { s with pulse := { s.pulse with inp := r.inputs.map (fun e => (e.1, e.2.saved)) } }
    if cloakLost then
      s.modTmpIsl (fun t => { t with
        mon := (List.range 23).map (fun m => (m, Mon.settings m (tget (monDefault m) r.mons m)))
        loop := r.loops.map (fun e => (e.1, { e.2 with prbs := 0, lastBit := false, measure := false }))
        tempHi := r.tempHi, tempLo := r.tempLo })
    else s

/-- R213: the interval from the warning, or the alarm, is logged for every input that the record has in MODE 1. -/
def legacyUnsaved (r : SaveRec) (from_ upTo : Nat) (s : State) : State :=
  each (List.range 16) (fun s i => if (tget {} r.inputs i).mode = 1 then raise .legacyUnsaved i [(8, from_), (8, upTo)] s else s) s

/-- R433: what was recorded on the cell takes effect: BATTERY_SEEN, and the strongest response kept. -/
def applyKept (s : State) : State :=
  let r := s.tmp.kept
  let s := if s.log.mirrorBattery then s.modTmpIsl (fun t => { t with batterySeen := true }) else s
  let s := s.modTmpIsl (fun t => { t with kept := 0 })
  let s := whenDo (decide (r ≥ 1)) (irqAll irqTamper) s
  if r = 2 then s.modRoleIsl (fun x => { x with heldUntil := s.now + x.holdoff * 384000 }) else s

/-- R455 to R458, R447: what this start makes of the latest supply loss. -/
def settleLoss (s : State) : State :=
  let p := s.pwr
  let s := whenDo p.interrupted (raise .startInterrupted 0 []) s
  match p.chosen with
  | none => whenDo p.lateEnd.isSome (raise .saveLate 0 []) s
  | some r =>
    match p.lateEnd with
    | some e => raise .saveLate 0 [] (s.modPwrIsl (fun p => { p with note := some (false, r.idx, e) }))
    | none =>
    if !r.warning || p.resetRec then s
    else match p.tailOf r with
      | none => s.modPwrIsl (fun p => { p with lastTail := 2, lastTailEnd := r.idx + 1792, note := some (false, r.idx, r.idx + 1792) })
      | some t =>
        let short := decide (t.tEnd < t.w + 1792)
        whenDo short (raise .tailShort 0 []) (s.modPwrIsl (fun p => { p with
          lastTail := if short then 3 else 1, lastTailEnd := t.tEnd, note := some (true, t.w, t.tEnd) }))

/-- A new start's PWR state: START, no group committed yet. -/
def beginStart (s : State) : State :=
  s.modPwrIsl (fun p => { p with
    st := .start, mainOn := true, resetting := false, firstDone := [], saveDue := false, saveAt := s.now, note := none, recDone := false
    recGone := false, ewSrc := 0, w := 0, railsPg := 0xF, bakLost := false, cloakLost := false })

/-- What every start does once the record is chosen: the plan is to be loaded (R281), the history goes on (R268), a store entry's
failure may be logged again (R351), and the power island is clocked. -/
def startRest (s : State) : State :=
  let s := s.modPlanIsl (fun p => { p with st := .loading, histNext := histStart p.flash })
  let s := s.modCalIsl (fun c => { c with store := c.store.map (fun e => (e.1, { e.2 with said := false })) })
  let s := s.modTmpIsl (fun t => { t with stopped := false })
  s.modGlbIsl (fun g => { g with lock := g.lock ||| BitVec.ofNat 32 (2 ^ islPower), lost := 0, linkLost := 0 })

/-- R456: the main domain is released at power-on: index 0 of a new epoch. -/
def powerOn (s : State) : State :=
  let lost := s.pwr.bakLost
  let cloak := s.pwr.cloakLost
  let w := s.freeNext
  let s := beginStart w.2
  let s := s.modPwrIsl (fun p => { p with pgAt := 0, heldMs := p.otpMs + w.1.toNat % 6 })
  let s := s.modTbIsl (fun t => { epoch := t.epoch })
  let s := chooseRecord (nextEpoch s)
  let s := restoreSettings cloak s
  let s := logStart (match s.pwr.chosen with | none => 0 | some r => r.logNext) s
  let s := whenDo lost (raise .bakLost 0 []) s
  let s := settleLoss s
  let s := match s.pwr.chosen with
    | some r => if s.pwr.lastValid then legacyUnsaved r s.pwr.lastW 0 s else s
    | none => s
  applyKept (startRest s)

/-- R459: the restart after a FULL_RESET: the timebase has run on, the epoch stands, and no tail is used. -/
def resetOn (s : State) : State :=
  let s := beginStart s
  let s := s.modPwrIsl (fun p => { p with pgAt := s.now, heldMs := 0 })
  let s := restoreSettings false (chooseRecord s)
  let s := match s.pwr.chosen with | none => s | some r => legacyUnsaved r r.idx s.now s
  startRest s

/-- MAIN_RELEASE (R433, R456, R459): outside a warning; at a power-on with the pending latch empty. -/
def execMainRelease (s : State) : Out :=
  .next (if s.pwr.mainOn ∨ !s.pwr.pg ∨ s.inWarning then s
    else if s.pwr.resetting then resetOn s
    else if s.tmp.pending = 0 then powerOn s else s)

/-! ## FULL_RESET (R426, R459) -/

/-- R459: the groups after the restart: windows count on above the last one committed. -/
def resetGroups (s : State) : Resamp := { grp := s.rs.grp.map (fun e => (e.1, { winBase := max e.2.k e.2.winBase })) }

/-- R459, R30: the contexts' gap starts at the alarm. -/
def resetCtxs (at_ : Nat) (s : State) : Tally :=
  { ctx := (List.range s.ctxCount).map (fun c => (c, { gapFrom := some at_ })), unit := s.tally.unit.map (fun e => (e.1, { retired := e.2.retired })) }

/-- R459, R9: a gallery's contents and power without the fields of its registers. -/
def Gal.contents (g : Gal) : Gal := { mem := g.mem, bad := g.bad, power := g.power }

/-- R459: every island of the main domain is reset except the timebase; the cloakroom, G3's contents and the log run on, and the
segments of G4 that R368 has mapped stay mapped. -/
def resetMain (at_ : Nat) (s : State) : State :=
  let n : State := { State.reset with
    glb := { half := s.glb.half, stepping := s.glb.stepping, trim := s.glb.trim, trimAt := s.glb.trimAt }
    tb := s.tb
    rs := resetGroups s
    tally := resetCtxs at_ s
    plan := { flash := s.plan.flash }
    cal := { store := s.cal.store }
    lc := lcRestart s.lc false
    gal := [(3, (s.getGal 3).contents)]
    mt := { remaps := s.mt.remaps }
    role := { otp := s.role.otp, makers := s.role.makers, sealed := s.role.sealed }
    tmp := s.tmp.stoppedMain
    pwr := { s.pwr with
      st := .start, mainOn := false, resetting := true, resetAt := none, resetRec := true, saveDisagree := false, saveFail := false, saveErr := 0
      statSeq := 0, statKind := false, statCopies := 0, statIdx := 0, lastValid := false, lastRecord := false, lastTail := 0, lastSrc := 0
      lastEpoch := 0, lastW := 0, lastTailEnd := 0, outage := 0xFFFFFFFF, otpMs := 0, loadMs := 0, chosen := none, railsPg := 0
      warnSeq := none }
    log := { s.log with src := [], port := [], dropped := 0, suppressed := 0, mirrorLost := 0, mirrorBattery := false }
    fresh := s.fresh, pending := s.pending }
  each [0, 1, 2, 4, 5, 6, 7] (fun s g => galClear g s) n

/-- FULL_RESET (R426, R459): the sessions end, the record exact to the alarm's tick is written into both copies, and the main
domain is reset. It waits as the freeze of early warning does, so that what lies before the alarm has been counted. -/
def execFullReset (s : State) (okA : Bool := true) (okB : Bool := true) : Out :=
  .next (match s.pwr.resetAt with
    | none => s
    | some a =>
      if s.pwr.mainOn ∧ !s.inWarning ∧ !s.pwrIdle ∧ s.unitsCurrent ∧ s.now ≥ s.freezeAt a then
        let s := countArrived s
        let s := drainLog (each hostPorts (fun s p => endSession 5 p s) s)
        let r := s.saveRec (s.pwr.warnSeq.getD (seqPlus s.pwr.topSeq 1)) a (some a) (s.pulse.inp.map (fun e => (e.1, e.2.upTo a)))
        writeBoth okA okB r (resetMain a) s
      else s)

/-! ## Islands and their clocks (R12, R13) -/

/-- The bit of GLB_ISLAND_STAT of an island other than a link island. -/
def islBit (i : Island) : Nat :=
  match i with
  | .link _ => 31
  | .stair => islStair
  | .resamp => islResamp
  | .tally => islTally
  | .spectral => islSpect
  | .steward => islSteward
  | .host => islHost
  | .analogue => islAnalog
  | .power => islPower
  | .gallery => islGal
  | .cloak => islCloak

/-- Set or clear a bit of a word. -/
def putBit (w : Word) (i : Nat) (b : Bool) : Word :=
  if b then w ||| BitVec.ofNat 32 (2 ^ i) else w &&& ~~~ BitVec.ofNat 32 (2 ^ i)

/-- R12: an island's PLL has locked, so the island leaves reset. -/
def releaseIsland (i : Island) (s : State) : State :=
  match i with
  | .link r => if bit s.glb.linkLost r then s else s.modGlbIsl (fun g => { g with linkLock := putBit g.linkLock r true })
  | .analogue =>
    if bit s.glb.lost islAnalog || bit s.glb.lock islAnalog then s
    else startLocalTrims (s.modGlbIsl (fun g => { g with lock := putBit g.lock islAnalog true }))
  | i => if bit s.glb.lost (islBit i) then s else s.modGlbIsl (fun g => { g with lock := putBit g.lock (islBit i) true })

/-- ISLAND_RESET_RELEASE (R12). -/
def execIslandResetRelease (i : Island) (s : State) : Out := .next (if s.pwr.mainOn then releaseIsland i s else s)

/-- R12, R295: the staircase island is lost: each engine in service is retired and its entry written; R500 lists no criterion for it
(DESIGN CHOICE, log entry 80: 2 here, 1 for the tally and spectral islands, as for the event unit and the ports). -/
def loseStair (s : State) : State :=
  each ((List.range 33).filter (fun e => (s.getEng e).st != .retired)) (fun s e => retireEngine 2 e s)
    (s.modStairIsl (fun t => { t with taker := [] }))

/-- R12, R295: the tally island is lost: its units are retired, with an entry each, and no spare is left for their contexts (R193). -/
def loseTallies (s : State) : State :=
  let s := each ((List.range 9).filter (fun u => !(s.getUnit u).retired)) (fun s u =>
    raise .tallyRetired u [(1, 1), (1, 0xFF)] (s.modUnit u (fun x => { x with retired := true, replay := none }))) s
  (s.modTallyIsl (fun y => { y with unitOf := y.unitOf.map (fun e => (e.1, 15)) })).modRedIsl (fun r => { r with noSpare := true })

/-- R12, R295: the spectral island is lost: its engines are retired, with an entry each, no spare is left for their blocks (R217), the
visits in progress end with PARTIAL (R242), and G1 has no engine to hold it powered (R360). -/
def loseSpectral (s : State) : State :=
  let k := max s.spec.shPage (s.spec.shK + 1)
  let s := each (List.range 8) (fun s l => endVisit k l true s) s
  let s := each ((List.range 7).filter (fun e => !(s.getSpEng e).retired)) (fun s e =>
    raise (if e < 5 then .harmRetired else .shRetired) (if e < 5 then e else e - 5) [(1, 1), (1, 0xFF)]
      (s.modSpEng e (fun x => { x with retired := true, replay := none, taking := false }))) s
  galSettle 1 ((s.modSpecIsl (fun y => { y with blkEng := y.blkEng.map (fun b => (b.1, 15)) })).modRedIsl (fun r => { r with noSpare := true }))

/-- R12, R31, R33: the unit that a lost island contains is treated as permanently faulty: the engines of the staircase and of the
spectral island and the tally units are retired, the event unit of the resampler island is down, the local converter is down. -/
def loseContents (i : Island) (s : State) : State :=
  match i with
  | .stair => loseStair s
  | .tally => loseTallies s
  | .spectral => loseSpectral s
  | .resamp => if s.ev.down then s else eventUnitDown 1 s
  | .analogue => if s.lc.down then s else lcDown s
  | .link _ | .steward | .host | .power | .gallery | .cloak => s

/-- R12: an island loses its PLL, or the cloakroom its oscillator, in service: the loss is logged, its contents are treated as
permanently faulty, a link island's two ports are retired (R293), and the island is held idle. -/
def loseClock (i : Island) (s : State) : State :=
  match i with
  | .link r =>
    if !s.linkUp r then s
    else
      let s := raise .islandClockLost 0 [] s
      let s := retirePort 1 (2 * r + 1) (retirePort 1 (2 * r) s)
      s.modGlbIsl (fun g => { g with linkLock := putBit g.linkLock r false, linkLost := putBit g.linkLost r true })
  | .cloak =>
    if !s.pwr.mainOn || bit s.glb.lost islCloak then s
    else (raise .islandClockLost 0 [] s).modGlbIsl (fun g => { g with lock := putBit g.lock islCloak false, lost := putBit g.lost islCloak true })
  | i =>
    let b := islBit i
    if !s.up b then s
    else
      let s := loseContents i (raise .islandClockLost 0 [] s)
      s.modGlbIsl (fun g => { g with lock := putBit g.lock b false, lost := putBit g.lost b true })

/-- ISLAND_CLOCK_LOST (R12). -/
def execIslandClockLost (i : Island) (s : State) : Out := .next (loseClock i s)

/-- R13: the condition of monitor 21 holds, or held within the last 1 s (1,024 samples), whether or not the monitor is enabled. -/
def State.refBad (s : State) : Bool :=
  match s.tmp.refBadAt with
  | none => false
  | some n => decide (s.tmp.sample < n + 1024)

/-- CLOAKROOM_TRIM (R13). -/
def execCloakroomTrim (trim : Int) (s : State) : Out :=
  .next (if s.pwr.pg ∧ !s.refBad then s.modGlbIsl (fun g => { g with trim := trim, trimAt := some s.now }) else s)

/-- R39 CLOAK_OSC: running, and trimmed against REFCLK within the last 2 s. -/
def State.cloakOsc (s : State) : Bool :=
  !bit s.glb.lost islCloak && (match s.glb.trimAt with
    | none => false
    | some t => decide (s.now ≤ t + 768000))

end Sys2Proof.Machine
end

