-- ==== Sys2Proof/Machine/Regs.lean ====
section
/-! DEFINITION. Chapter 21: the address map (R475 to R481), and with it every access of a host to one word: what a read returns,
latches and clears (R7, R8, R10, R186), which role a write needs and what it does (R403, R404), its audit record (R415), and the host
registers (R402). -/

namespace Sys2Proof.Machine

/-! ## The map (R475, R476) -/

/-- Where an address lies: the register block and the instance, with the offset as its chapter counts it. -/
inductive Place where
  | glb (off : Nat)
  | plan (off : Nat)
  | red (a : Nat)
  | gal (a : Nat)
  | tb (off : Nat)
  | fg (g off : Nat)
  | link (k off : Nat)
  | ring (r off : Nat)
  | head (h off : Nat)
  | acc (p off : Nat)
  | stc (e off : Nat)
  | sp (off : Nat)
  | pulseOut (o off : Nat)
  | pulseIn (i off : Nat)
  | ctx (c off : Nat)
  | spCtx (c off : Nat)
  | evCtx (c off : Nat)
  | ev (off : Nat)
  | log (off : Nat)
  | lc (off : Nat)
  | cal (off : Nat)
  | tmp (off : Nat)
  | pwr (off : Nat)
  | role (off : Nat)
  | hp (off : Nat)
  /-- R365, R366: the gallery window, the bit-set alias or the bit-clear alias, and x. -/
  | window (op : GalOp) (x : Nat)
  /-- R479: the unmapped range i. -/
  | unmapped (i : Nat)
  deriving DecidableEq, Repr

/-- R475, R476: the place of a 24-bit address. Offsets that no register heading names fall to the block around them and read 0. -/
def place (a : Nat) : Place :=
  if a < 0x100 then .glb a
  else if a < 0x200 then .plan (a - 0x100)
  else if a < 0x800 then .red a
  else if a < 0xC00 then .gal a
  else if a < 0x8000 then .unmapped 0
  else if a < 0x10000 then .red a
  else if a < 0x11000 then .tb (a - 0x10000)
  else if a < 0x12000 then .fg ((a - 0x11000) / 0x100) (a % 0x100)
  else if a < 0x20000 then .unmapped 1
  else if a < 0x40000 then
    let k := (a - 0x20000) / 0x800
    if a % 0x800 < 0x400 || k % 2 == 1 then .link k (a % 0x800) else .ring (k / 2) (a % 0x800 - 0x400)
  else if a < 0x80000 then .head ((a - 0x40000) / 0x40) (a % 0x40)
  else if a < 0x80400 then .acc ((a - 0x80000) / 0x100) (a % 0x100)
  else if a < 0xC0000 then .head 4096 0x3C
  else if a < 0xE1000 then .stc ((a - 0xC0000) / 0x1000) (a % 0x1000)
  else if a < 0xF0000 then .sp (a - 0xE1000)
  else if a < 0xF0400 then .pulseOut ((a - 0xF0000) / 0x40) (a % 0x40)
  else if a < 0xF0C00 then .pulseIn ((a - 0xF0400) / 0x80) (a % 0x80)
  else if a < 0x100000 then .pulseOut 16 0x3C
  else if a < 0x1A0000 then
    let c := (a - 0x100000) / 0x1000
    let off := a % 0x1000
    if off < 0xA80 then .ctx c off else if off < 0xC00 then .spCtx c off else .evCtx c off
  else if a < 0x1A0100 then .ev (a - 0x1A0000)
  else if a < 0x1B0000 then .log (a - 0x1A0000)
  else if a < 0x1C0000 then .lc (a - 0x1B0000)
  else if a < 0x1D0000 then .cal (a - 0x1C0000)
  else if a < 0x1E0000 then .tmp (a - 0x1D0000)
  else if a < 0x1F0000 then .pwr (a - 0x1E0000)
  else if a < 0x1F0800 then .role (a - 0x1F0000)
  else if a < 0x200000 then .hp (a - 0x1F0800)
  else if a < 0x400000 then .unmapped 2
  else if a < 0x800000 then .window .write (a - 0x400000)
  else if a < 0xC00000 then .window .set (a - 0x800000)
  else .window .clear (a - 0xC00000)

/-- R388, R481: the row of an address: each unmapped range, each ring's link blocks and what lies beyond 0xFF_FFFF are rows of their
own. -/
def rowOf (a : Nat) : Nat :=
  if a > 0xFFFFFF then 99
  else match place a with
    | .glb _ => 0
    | .plan _ | .red _ => 1
    | .gal _ => 2
    | .tb _ => 3
    | .fg _ _ => 4
    | .link k _ => 100 + k / 2
    | .ring r _ => 100 + r
    | .head _ _ | .acc _ _ => 6
    | .stc _ _ => 7
    | .sp _ => 8
    | .pulseOut _ _ | .pulseIn _ _ => 9
    | .ctx _ _ => 10
    | .spCtx _ _ => 11
    | .evCtx _ _ | .ev _ => 12
    | .log _ | .cal _ => 13
    | .lc _ => 14
    | .tmp _ => 15
    | .pwr _ => 16
    | .role _ | .hp _ => 17
    | .window _ _ => 18
    | .unmapped i => 90 + i

/-- R477: the addresses of what R2 makes absent on the PX-32H. -/
def absentHalf (a : Nat) : Bool :=
  (decide (0x30000 ≤ a) && decide (a < 0x40000)) || (decide (0x60000 ≤ a) && decide (a < 0x80000)) ||
  (decide (0xC000 ≤ a) && decide (a < 0x10000)) || (decide (0x1CC000 ≤ a) && decide (a < 0x1D0000)) ||
  (decide (0x150000 ≤ a) && decide (a < 0x1A0000))

/-! ## Target islands (R388) -/

/-- The event unit as a target island; 0 to 9 are the islands as GLB_ISLAND_STAT numbers them, 100 + r the link island of ring r. -/
def tgtEvent : Nat := 10

/-- R388: the target island of a place. -/
def Place.target (pl : Place) : Nat :=
  match pl with
  | .glb _ | .gal _ | .role _ | .hp _ | .window _ _ | .unmapped _ => islHost
  | .plan _ | .red _ | .tb _ | .head _ _ | .acc _ _ | .log _ | .cal _ => islSteward
  | .fg _ _ => islResamp
  | .link k _ => 100 + k / 2
  | .ring r _ => 100 + r
  | .stc _ _ => islStair
  | .sp _ | .spCtx _ _ => islSpect
  | .pulseOut _ _ | .pulseIn _ _ | .ctx _ _ => islTally
  | .evCtx _ _ | .ev _ => tgtEvent
  | .lc _ => islAnalog
  | .tmp _ => islCloak
  | .pwr _ => islPower

/-- R12, R380 DOWN: a target island executes accesses. The cloakroom runs whenever the host island does. -/
def State.tgtUp (s : State) (t : Nat) : Bool :=
  if t ≥ 100 then s.linkUp (t - 100)
  else if t = tgtEvent then s.up islResamp
  else if t = islCloak then s.pwr.mainOn
  else s.up t

/-! ## The host island's own registers -/

/-- R39 ALL_LOCK. -/
def State.allLock (s : State) : Bool :=
  (List.range 9).all (fun i => bit s.glb.lock i) && s.cloakOsc && (List.range s.ringCount).all (fun i => bit s.glb.linkLock i)

/-- A register of 0x00_0000 to 0x00_00FF (R5, R39). -/
def glbRead (s : State) (off : Nat) : Word :=
  let g := s.glb
  match off with
  | 0x00 => packW [(0x5064, 16), (if g.half then 2 else 1, 12), (g.stepping.toNat, 0)]
  | 0x10 => packW [(b2n s.allLock, 10), (b2n s.cloakOsc, 9), (bits g.lock 8 0, 0)]
  | 0x14 => packW [(bits g.linkLock (s.ringCount - 1) 0, 0)]
  | 0x18 => packW [(g.overruns, 16), (g.lastRing, 8), (b2n s.stallSeen, 0)]
  | _ => 0

/-- A write of a register of 0x00_0000 to 0x00_00FF. -/
def glbWrite (off : Nat) (v : Word) (s : State) : State :=
  match off with
  | 0x18 => if bit v 0 then s.modGlbIsl (fun g => { g with stallSeen := false }) else s
  | _ => s

/-- What a read clears. -/
def glbClear (off : Nat) (s : State) : State :=
  match off with
  | 0x18 => s.modGlbIsl (fun g => { g with overruns := 0 })
  | _ => s

/-- R383: vestibule entries in use: replies that are no copies, fences that wait, and the request in hand. -/
def Hp.used (h : Hp) : Nat := (h.replies.filter (fun r => !r.copy)).length + h.fences.length + b2n h.inHand

/-- Free vestibule entries. -/
def Hp.free (h : Hp) : Nat := 32 - h.used

/-- R392: HP_INT_STAT of port p, with the live sources REPLY and LC. -/
def State.intWord (s : State) (p : Nat) : Word :=
  let h := s.getHp p
  (h.intStat &&& 0xFDE) ||| packW [(b2n (!h.replies.isEmpty), 0), (b2n (decide (s.lc.fifo.length ≥ s.lc.level)), 5)]

/-- R392, R488: HPp_IRQ_N is asserted; it is driven high while no plan is in force. -/
def State.irqPin (s : State) (p : Nat) : Bool :=
  s.plan.cur.isSome && (s.intWord p &&& (s.getHp p).intEn &&& 0xFFF) != 0

/-- R488: what an output ball does. -/
inductive Pin where
  | off
  | drive (high : Bool)
  deriving DecidableEq, Repr

/-- R488: HPp_IRQ_N, active low. -/
def State.irqBall (s : State) (p : Nat) : Pin := if s.pwr.mainOn then .drive (!s.irqPin p) else .off

/-- R488, R204, R199: PLS_OUT[o]: its active level while a pulse lasts or MODE 2 drives it, its idle level otherwise. -/
def State.plsBall (s : State) (o : Nat) : Pin :=
  if s.pwr.mainOn && s.plan.cur.isSome then .drive ((s.getOut o).level != (s.getOut o).cur.pol) else .off

/-- R488, R69: the transmitter of link port k drives its lane. -/
def State.linkTx (s : State) (k : Nat) : Bool := s.pwr.mainOn && s.plan.cur.isSome && s.txOn k

/-- A host register by offset from 0x1F_0800, as port p reads it (R402). -/
def hpRead (s : State) (p off : Nat) : Word :=
  let h := s.getHp p
  let c := h.cap
  match off with
  | 0x00 => packW [(b2n (decide ((s.getRolePort p).role ≠ 0)), 31), (p, 28), (h.credit / 5, 16), (h.free, 8), (h.resume, 0)]
  | 0x04 => packW [(h.crcFail, 24), (h.badSeq, 16), (h.full, 8), (h.throttled, 0)]
  | 0x08 => packW [(h.badTxn, 24), (h.cut, 16), (h.late, 8), (h.duplicate, 0)]
  | 0x10 => s.intWord p
  | 0x14 => h.intEn
  | 0x18 => h.intGrp
  | 0x20 => packW [(h.blkCount, 0)]
  | 0x24 => packW [(b2n (s.overBudget p), 30), (h.blkResult, 27), (h.held.length, 18), (h.budget, 9), (s.freeBlocks.length, 0)]
  | 0x60 => packW [(c.source, 28), (c.first, 8), (c.blocks, 0)]
  | 0x64 => c.src
  | 0x68 => wordOf c.start 0
  | 0x6C => wordOf c.start 1
  | 0x70 => packW [(b2n c.busy, 31), (c.ended, 28), (b2n c.late, 27), (c.entries, 0)]
  | 0x74 => wordOf c.firstIdx 0
  | 0x78 => wordOf c.firstIdx 1
  | 0x90 => packW [(s.host.evictPort, 0)]
  | _ =>
    if 0x40 ≤ off && off < 0x60 then
      packW ((h.held.filter (fun b => b / 32 == (off - 0x40) / 4)).map (fun b => (1, b % 32)))
    else if 0x80 ≤ off && off < 0x90 then s.budgetWord ((off - 0x80) / 4)
    else 0

/-- What a read clears (R7). -/
def hpClear (p off : Nat) (s : State) : State :=
  match off with
  | 0x04 => s.modHp p (fun h => { h with crcFail := 0, badSeq := 0, full := 0, throttled := 0 })
  | 0x08 => s.modHp p (fun h => { h with badTxn := 0, cut := 0, late := 0, duplicate := 0 })
  | _ => s

/-- R395: the latest index whose samples have passed the capture unit on ring r: the one before the oldest index held for a hole
(R92), else before the next to be released; none before a first. -/
def State.rawLatest (s : State) (r : Nat) : Option Nat :=
  let rg := s.getRing r
  let next := match rg.held with | [] => rg.nextRel | e :: _ => e.idx
  if next = 0 then none else some (next - 1)

/-- R395: the index of the latest entry of a capture source that has passed the capture unit. -/
def State.capLatest (s : State) (source : Nat) (w : Word) : Option Nat :=
  let r := capRing w
  let strm := fun (e : Nat) => s.getStrm (256 * e + capStream w)
  match source with
  | 0 => s.rawLatest r
  | 1 => (s.engOf r).bind (fun e => ((strm e).outs.head?).map (fun o => (outTau2 (s.getEng e).cfg.n (s.getEng e).cfg.m o.nlast / 2).toNat))
  | 2 => (s.engOf r).bind (fun e => ((strm e).flats.head?).map (fun o => (flatTau2 (s.getEng e).cfg.n (s.getEng e).cfg.m o.nlast / 2).toNat))
  | _ => ((tget [] s.rs.hamper (bkey (capCtx w) (capSlot w))).head?).map (fun x =>
      match (s.ctxGrp (capCtx w)).bind (fun gi => (s.getGrp gi).cyc (x.m / 512)) with
      | some cy => floorTau (cy.tau (x.m % 512))
      | none => (x.tau / 65536).toNat)

/-- R395: the configuration of a capture cannot run. -/
def State.capBad (s : State) (p : Nat) : Bool :=
  let h := s.getHp p
  let c := h.cap
  decide (c.first + c.blocks > 255) || !(List.range (c.blocks + 1)).all (fun i => h.held.contains (c.first + i)) ||
  (if c.source < 3 then decide (capRing c.src ≥ s.ringCount) || (s.getRing (capRing c.src)).st == .off
   else match s.ctxNow (capCtx c.src) with
     | none => true
     | some x => !x.bound.contains (capSlot c.src))

/-- R395: HP_CAP_CTRL.GO. No effect while BUSY is 1. -/
def capGo (p : Nat) (s : State) : State :=
  let c := (s.getHp p).cap
  if c.busy then s
  else
    let s := s.modHp p (fun h => { h with cap := { h.cap with ended := 0, late := false, entries := 0, firstIdx := 0, queue := [] } })
    if s.capBad p then irqPort irqCapture p (s.modHp p (fun h => { h with cap := { h.cap with ended := 6 } }))
    else
      let late := match s.capLatest c.source c.src with
        | none => false
        | some i => decide (c.start ≠ 0) && decide (c.start ≤ i)
      s.modHp p (fun h => { h with cap := { h.cap with
        busy := true, late := late, runSource := c.source, runSrc := c.src, runFirst := c.first, runBlocks := c.blocks, runStart := c.start } })

/-- A write of HP_CAP_CTRL: the fields, then GO, then STOP. -/
def capCtrlWrite (p : Nat) (v : Word) (s : State) : State :=
  let s := s.modHp p (fun h => { h with cap := { h.cap with source := bits v 29 28, first := bits v 15 8, blocks := bits v 7 0 } })
  let s := whenDo (bit v 31) (capGo p) s
  whenDo (bit v 30) (capEnd 2 p) s

/-- What a write of a host register by port p in a role does (R402). -/
def hpWrite (role p off : Nat) (v : Word) (s : State) : State :=
  match off with
  | 0x10 => s.modHp p (fun h => { h with intStat := h.intStat &&& ~~~(v &&& 0xFDE) })
  | 0x14 => s.modHp p (fun h => { h with intEn := v &&& 0xF0000FFF })
  | 0x18 => s.modHp p (fun h => { h with intGrp := v &&& 0xFFFF })
  | 0x20 =>
    let s := s.modHp p (fun h => { h with blkCount := bits v 8 0 })
    whenDo (bit v 31) (blockGo p (bits v 8 0)) s
  | 0x60 => capCtrlWrite p v s
  | 0x64 => s.modHp p (fun h => { h with cap := { h.cap with src := v &&& 0x1FFFFF07 } })
  | 0x68 => s.modHp p (fun h => { h with cap := { h.cap with start := setWordOf h.cap.start 0 v } })
  | 0x6C => s.modHp p (fun h => { h with cap := { h.cap with start := setWordOf h.cap.start 1 v } })
  | 0x90 =>
    let s := s.modHostIsl (fun i => { i with evictPort := bits v 1 0 })
    whenDo (bit v 31) (evictPort role p (bits v 1 0)) s
  | _ =>
    if 0x40 ≤ off && off < 0x60 then releaseBlocks p ((off - 0x40) / 4) v s
    else if 0x80 ≤ off && off < 0x90 then
      (if s.budgetBad ((off - 0x80) / 4) v then s else budgetSet role p ((off - 0x80) / 4) v s)
    else s

/-! ## One register: read, clear, write -/

/-- What a register reads as for port p, without what any latch holds. -/
def regRead (s : State) (p : Nat) (pl : Place) : Word :=
  match pl with
  | .glb off => glbRead s off
  | .plan off => planRead s off
  | .red a => redRead s a
  | .gal a => galRegRead s p a
  | .tb off => tbRead s.tb off
  | .fg g off => fgRead s g off
  | .link k off => if off < 0x400 then linkRead s k off else 0
  | .ring r off => ringRead s r off
  | .head h off => if h < 4096 then headRead s h off else 0
  | .acc q off => accRead (s.getHeadAcc q) off
  | .stc e off => stcRead s e off
  | .sp off => spRead s off
  | .pulseOut o off => if o < 16 then outRead s o off else 0
  | .pulseIn i off => inRead s i off
  | .ctx c off => ctxRead s p c off
  | .spCtx c off => spCtxRead s c off
  | .evCtx c off => evCtxRead s c off
  | .ev off => evRead s off
  | .log off => logRead s p off
  | .lc off => lcRead s off
  | .cal off => calRead s off
  | .tmp off => tmpRead s off
  | .pwr off => pwrRead s off
  | .role off => roleRead s p off
  | .hp off => hpRead s p off
  | .window _ _ | .unmapped _ => 0

/-- R7: what a read of a register clears, and R331: the FIFO entry it takes. -/
def regClear (p : Nat) (pl : Place) (s : State) : State :=
  match pl with
  | .glb off => glbClear off s
  | .red a => redClear a s
  | .gal a => galRegClear a s
  | .tb off => s.modTbIsl (tbClear off)
  | .fg g off => fgClear g off s
  | .link k off => if off < 0x400 then linkClear k off s else s
  | .ring r off => ringClear r off s
  | .head h off => if h < 4096 then headClear h off s else s
  | .stc e off => stcClear e off s
  | .sp off => spClear off s
  | .pulseOut o off => if o < 16 then outClear o off s else s
  | .pulseIn i off => inClear i off s
  | .ev off => evClear off s
  | .log off => logClear p off s
  | .lc off => if off = 0x20 then lcFifoTake s else lcClear off s
  | .tmp off => tmpClear off s
  | .pwr off => pwrClear off s
  | .hp off => hpClear p off s
  | .plan _ | .acc _ _ | .ctx _ _ | .spCtx _ _ | .evCtx _ _ | .cal _ | .role _ | .window _ _ | .unmapped _ => s

/-- What a write of a register by port p in a role does; whether it leaves an entry of its own in AUDIT's place (R415, R467). -/
def regWrite (role p : Nat) (pl : Place) (v : Word) (s : State) : Bool × State :=
  match pl with
  | .glb off => (false, glbWrite off v s)
  | .plan off => (off == 4 && bits v 31 29 != 0, planWrite role p off v s)
  | .red a => (a == 0x250 && bit v 31 && !s.red.busy, redWrite role p a v s)
  | .gal a => (false, galRegWrite p a v s)
  | .tb off => (off == 0x48 && bit v 0, s.modTbIsl (tbWrite role p off v))
  | .fg g off => (false, fgWrite g off v s)
  | .link k off => (false, if off < 0x400 then linkWrite k off v s else s)
  | .ring r off => (false, ringWrite r off v s)
  | .acc q off => (false, accWriteCal role q off v s)
  | .stc e off => (false, stcWrite e off v s)
  | .sp off => (false, spWrite off v s)
  | .pulseOut o off =>
    if o < 16 then
      let t := outWrite role p o off v s
      ((t.getOut o).cfg != (s.getOut o).cfg, t)
    else (false, s)
  | .pulseIn i off => (off == 0x74 && bit v 31, inWrite role p i off v s)
  | .ctx c off =>
    -- R188: ENERGY_PRESET is the entry of a GO, and a GO that is a no-op logs nothing
    ((s.ctxNow c).isSome && off == 0x38 && bit v 31, if (s.ctxNow c).isSome then ctxWrite role p c off v s else s)
  | .evCtx c off => (false, evCtxWrite c off v s)
  | .log off => (false, logWrite p off v s)
  | .lc off => (false, lcWrite off v s)
  | .cal off => (false, calWrite off v s)
  | .tmp off => (false, tmpWrite off v s)
  | .pwr off => (false, pwrWrite off v s)
  | .role off => roleWrite role p off v s
  | .hp off => ((decide (0x80 ≤ off) && decide (off < 0x90)) || (off == 0x90 && bit v 31), hpWrite role p off v s)
  | .head _ _ | .spCtx _ _ | .ev _ | .window _ _ | .unmapped _ => (false, s)

/-! ## Rights (R400, R403, R404 and the chapters' own rules) -/

/-- The least role that may write a register: 0 without a session, 1 any session, 2 installer, 3 maker (R39, R66, R105, R150,
R172, R198, R214, R244, R265, R292, R313, R334, R356, R371, R402, R417, R436, R461, R474). -/
def wrNeed (pl : Place) (v : Word) : Nat :=
  match pl with
  | .plan off => if off = 0x30 then 3 else if [0x04, 0x08, 0x0C, 0x10, 0x3C].contains off then 2 else 1
  | .red a => if a = 0x250 then 3 else 1
  | .gal a => if 0x810 ≤ a && a < 0x830 then 2 else if a = 0x904 then 3 else 1
  | .tb off => if [0x00, 0x28, 0x2C, 0x34, 0x40, 0x44, 0x48].contains off then 2 else 1
  | .fg _ off => if off = 0x08 then 2 else 1
  | .link _ off => if off = 0 then 2 else 1
  | .ring _ off => if 0x40 ≤ off && off < 0x64 then 3 else 1
  | .stc e off => if 0xE00 ≤ off && off < 0xF00 && decide (e < 32) && decide (off % 0x20 < 0x10) then 2 else 1
  | .sp off => if off = 0x40 || off = 0x200 then 2 else 1
  | .pulseOut o off =>
    if o ≥ 16 then 1
    else if off = 0 then (if bits v 31 30 = 2 then 3 else 2)
    else if off ≤ 0x0C then 2 else 1
  | .pulseIn _ off => if [0x00, 0x04, 0x08, 0x68, 0x6C, 0x70, 0x74].contains off then 2 else 1
  | .ctx _ off => if [0x38, 0x40, 0x44, 0x48].contains off then 3 else 1
  | .evCtx _ off => if [0xC00, 0xC04, 0xC08].contains off then 2 else 1
  | .lc off => if off = 0 || off = 0x10 || (0x400 ≤ off && off < 0x600) then 2 else 1
  | .cal off => if [0x00, 0x04, 0x0C].contains off then 2 else 1
  | .tmp off => if off = 0x20 then 2 else if off = 0x30 || (0x100 ≤ off && off < 0x1B8) then 3 else 1
  | .pwr off => if off = 0x08 then 2 else if off = 0x04 || off = 0x40 then 3 else 1
  | .role off =>
    if off ≤ 0x04 || (0x10 ≤ off && off < 0x50) then 0
    else if off = 0x50 || off = 0x88 || off = 0x90 || (0xA0 ≤ off && off < 0xE0) then 3
    else if 0x60 ≤ off && off < 0x84 then 2 else 1
  | .hp off => if 0x80 ≤ off && off < 0x94 then 3 else 1
  | .glb _ | .head _ _ | .acc _ _ | .spCtx _ _ | .ev _ | .log _ | .window _ _ | .unmapped _ => 1

/-- The least role that may read a register (R39, R105, R400). -/
def rdNeed (pl : Place) : Nat :=
  match pl with
  | .glb off => if [0x00, 0x10, 0x14, 0x18].contains off then 0 else 1
  | .hp off => if off = 0 then 0 else 1
  | .role off => if off ≤ 0x04 || (0x10 ≤ off && off < 0x50) then 0 else 1
  | .ring _ off => if off = 0x64 || (0x80 ≤ off && off < 0xA0) then 3 else 1
  | _ => 1

/-- What a gallery place asks of the array. -/
def Place.galOp (pl : Place) (write : Bool) : Option (GalOp × Nat) :=
  match pl with
  | .window op x => some (if write then op else .read, x)
  | _ => none

/-- R384: an access is refused with cause DENIED: the session and the role (R400, R404), another port's mailbox (R126), the FIFO
of another owner (R334), the gallery's rights (R357, R358, R366). -/
def State.denied (s : State) (p : Nat) (write : Bool) (pl : Place) (v : Word) : Bool :=
  let role := (s.getRolePort p).role
  decide (role < (if write then wrNeed pl v else rdNeed pl)) ||
  (match pl with
   | .acc q _ => q != p
   | .lc off => !write && decide (0x20 ≤ off) && decide (off < 0x30) && s.lc.owner != p
   | .window op x =>
     let w := s.galPlace p x
     !galRight (if write then op else .read) w.1 w.2 role || (write && s.aliasOut op p w.1 w.2)
   | _ => false)

/-- R206: the write of PLS_OUT_CFG is refused with cause VALUE. -/
def State.outBad (s : State) (v : Word) : Bool :=
  bits v 31 30 == 1 && (match s.ctxNow (bits v 15 8) with
    | none => true
    | some x => !accExists x.kind (bits v 23 16))

/-- A write is refused for its value (R206, R397, R425, R427). -/
def State.valueBad (s : State) (pl : Place) (v : Word) : Bool :=
  match pl with
  | .pulseOut o off => decide (o < 16) && off == 0 && s.outBad v
  | .hp off => decide (0x80 ≤ off) && decide (off < 0x90) && s.budgetBad ((off - 0x80) / 4) v
  | .tmp off => decide (0x100 ≤ off) && decide (off < 0x1B8) && monBadValue ((off - 0x100) / 8) (off % 8 / 4) v
  | _ => false

/-! ## Latches (R10, R186, R187) -/

/-- The addresses, counted from the address read, that a read of word 0 latches. -/
def snapWords (pl : Place) : List Nat :=
  match pl with
  | .tb off => match off with
    | 0x08 => [4, 8, 12, 16]
    | 0x20 | 0x38 => [4]
    | _ => []
  | .fg _ off => match off with
    | 0x14 | 0x20 => [4]
    | 0x28 => [4, 8, 12]
    | _ => []
  | .ring _ off => if off = 0x14 then [4] else []
  | .head _ off => if off = 0x04 then [4] else []
  | .acc _ off => if off = 0x1C then [4] else []
  | .stc e off => if 0xE00 ≤ off && off < 0xF00 && decide (e < 32) && off % 0x20 == 0x14 then [4] else []
  | .ctx _ off =>
    if off = 0x10 || off = 0x20 then [4, 8, 12]
    else if 0x100 ≤ off && off < 0xA20 && off % 16 == 0 then [4, 8]
    else []
  | .pulseOut _ off => if off = 0x14 || off = 0x1C || off = 0x24 then [4] else []
  | .pulseIn _ off => match off with
    | 0x14 => [4]
    | 0x20 | 0x30 | 0x40 | 0x50 => [4, 8]
    | 0x60 => [4]
    | _ => []
  | .sp off => if 0x100 ≤ off && off < 0x200 && off % 16 == 0 then [4, 8, 12] else if off = 0x204 then [4, 8] else []
  | .evCtx _ off => if [0xC10, 0xC18, 0xC20, 0xC28].contains off then [4] else []
  | .plan off => if off = 0x14 || off = 0x20 || off = 0x28 || (0x40 ≤ off && off < 0xC0 && off % 8 == 0) then [4] else []
  | .red a =>
    if 0x400 ≤ a && a < 0x800 && a % 16 == 0 then [4, 8, 12] else if 0x8000 ≤ a && a % 8 == 0 then [4] else []
  | .lc off => if 0x100 ≤ off && off < 0x180 && off % 0x20 == 8 then [4, 8, 12] else []
  | .cal off => if 0x8000 ≤ off && off % 8 == 0 then [4] else []
  | .gal a =>
    if 0x840 ≤ a && a < 0x8C0 && a % 16 == 0 then [4, 8] else if 0x8C0 ≤ a && a < 0x900 && a % 8 == 0 then [4] else []
  | .hp off => if off = 0x74 then [4] else []
  | .tmp off => match off with
    | 0x08 => [4, 8, 12]
    | 0x40 => [4]
    | _ => []
  | .pwr off => match off with
    | 0x0C => [4, 8, 12]
    | 0x20 => [4, 8, 12, 16, 20, 24, 28]
    | _ => []
  | _ => []

/-- R186: a place of the triple latch, of which a port has one: accumulators of contexts and of legacy inputs, and the mirror. -/
def Place.triple (pl : Place) : Bool :=
  match pl with
  | .ctx _ off => decide (0x100 ≤ off) && decide (off < 0xA20)
  | .pulseIn _ off => decide (0x20 ≤ off) && decide (off < 0x68)
  | _ => false

/-- R187: the port's context latch covers the place, so that no other latch is taken or read. -/
def State.ctxCovers (s : State) (p : Nat) (pl : Place) : Bool :=
  match pl, (s.getHp p).ctxLatch with
  | .ctx c _, some l => l.ctx == c
  | _, _ => false

/-- The word that the port's latch holds for an address, if any. -/
def State.latched (s : State) (p a : Nat) : Option Word := ((s.getHp p).latch.find? (fun e => e.1 == a)).map (fun e => e.2)

/-- The words that a read of address `a` latches: those of `snapWords`; with PLS_IN_CWIN both mirror triples; with PLS_OUT_ISSUED
the status word as it reads, for PEND (R214). -/
def snapTake (s : State) (p a : Nat) (pl : Place) : List (Nat × Word) :=
  let at_ := fun (b : Nat) => (b, regRead s p (place b))
  let l := (snapWords pl).map (fun d => at_ (a + d))
  match pl with
  | .pulseIn _ 0x60 => l ++ [0x20, 0x1C, 0x18, 0x10, 0x0C, 0x08].map (fun d => at_ (a - d))
  | .pulseOut _ 0x1C => l ++ [at_ (a - 0x0C)]
  | _ => l

/-- R10, R186: a read of word 0 takes its latch; the triple latch holds one triple. -/
def takeLatch (p a : Nat) (pl : Place) (s : State) : State :=
  let l := snapTake s p a pl
  if l.isEmpty || s.ctxCovers p pl then s
  else s.modHp p (fun h =>
    let old := if pl.triple then h.latch.filter (fun e => !(place e.1).triple) else h.latch
    { h with latch := l.foldl (fun t e => tset t e.1 e.2) old })

/-- PLS_OUT_STAT: PEND is the one latched with PLS_OUT_ISSUED, once. -/
def latchedPend (live held : Word) : Word := (live &&& 0xE0000000) ||| (held &&& 0x1FFFFFFF)

/-- R481 passed: one word is read: its latched value or the present one, its latch taken, what it clears cleared. -/
def readReg (p a : Nat) (pl : Place) (s : State) : Word × State :=
  let live := regRead s p pl
  if s.ctxCovers p pl then (live, s)
  else match s.latched p a, pl with
    | some w, .pulseOut _ 0x10 => (latchedPend live w, s.modHp p (fun h => { h with latch := tdel h.latch a }))
    | some w, _ => (w, regClear p pl s)
    | none, _ => (live, regClear p pl (takeLatch p a pl s))

/-- A host reads the word at an address: a register, or a gallery word whose check bits are clean (R362, R365). -/
def readWord (p a : Nat) (s : State) : Word × State :=
  match place a with
  | .window _ x =>
    let w := s.galPlace p x
    if galInternal w.1 w.2 then
      let f := s.freeNext
      (f.1, galRead w.1 w.2 .clean f.2)
    else (s.galHostWord w.1 w.2, galRead w.1 w.2 .clean s)
  | pl => readReg p a pl s

/-- R366: what a gallery place does with the word written. -/
def winOp (op : GalOp) (v : Word) : PortA :=
  match op with
  | .set => .setBits v
  | .clear => .clearBits v
  | .read | .write => .write v

/-- R406: a word of ROLE_KEY_NEW: no host can read a key, so its AUDIT record shows 0 in the word's place (DEDUCED, log entry 12). -/
def Place.keyWord (pl : Place) : Bool :=
  match pl with
  | .role off => decide (0x60 ≤ off) && decide (off < 0x80)
  | _ => false

/-- A host's write of the word at an address takes effect: a gallery word (R357 to R366), or a register with its audit record
(R415). -/
def writeWord (role p a : Nat) (v : Word) (s : State) : State :=
  match place a with
  | .window op x =>
    let w := s.galPlace p x
    galHostOp p w.1 w.2 (winOp op v) .idle (noteUpload w.1 w.2 s)
  | pl =>
    let old := regRead s p pl
    let r := regWrite role p pl v s
    whenDo (decide (wrNeed pl v ≥ 2) && !r.1) (auditWrite role p a old (if pl.keyWord then 0 else v)) r.2

/-! ## The checks of admission (R384, R481) -/

/-- R481 step 3 for one word: the cause of R380, 0 for none. -/
def State.cause3 (s : State) (p : Nat) (write : Bool) (a : Nat) (v : Word) : Nat :=
  match place a with
  | .unmapped _ => 0x07
  | pl =>
    if s.glb.half && absentHalf a then 0x01
    else if s.denied p write pl v then 0x02 else 0

/-- R481 step 4 for one word: RANGE, BLOCK, OFF of a gallery word. -/
def State.cause4 (s : State) (p a : Nat) : Nat :=
  match place a with
  | .window _ x =>
    let w := s.galPlace p x
    if w.2 ≥ galSize w.1 then 0x04
    else if !s.galBlock p w.1 w.2 then 0x06
    else if !s.galOn w.1 then 0x03 else 0
  | _ => 0

/-- One write of port p passes every check. -/
def State.mayWrite (s : State) (p a : Nat) (v : Word) : Bool :=
  a % 4 == 0 && s.cause3 p true a v == 0 && s.cause4 p a == 0 && !s.valueBad (place a) v

/-- One read of port p passes every check. -/
def State.mayRead (s : State) (p a : Nat) : Bool := a % 4 == 0 && s.cause3 p false a 0 == 0 && s.cause4 p a == 0

/-- A write by port p is not refused, and its island runs. -/
def State.canWrite (s : State) (p a : Nat) (v : Word) : Bool :=
  s.mayWrite p a v && s.tgtUp (place a).target && !(s.red.stewardDown && (place a).target == islSteward)

/-- A write by port p on its own, in its present role: nothing where it is refused or its island does not run. -/
def hostWrite (p a : Nat) (v : Word) (s : State) : State :=
  if s.canWrite p a v then writeWord (s.getRolePort p).role p a v s else s

/-- A read by port p on its own. -/
def hostRead (p a : Nat) (s : State) : State :=
  if s.mayRead p a && s.tgtUp (place a).target && !(s.red.stewardDown && (place a).target == islSteward) then (readWord p a s).2 else s

end Sys2Proof.Machine
end

