-- ==== Sys2Proof/Machine/Host.lean ====
section
/-! DEFINITION. Chapter 16: transactions and frames (R373 to R379), admission (R381 to R385), the answers to requests (R384 to R391)
and posted words (R386, R387, R389). -/

namespace Sys2Proof.Machine

/-! ## Posted words (R386, R387, R389) -/

/-- R362, R387: an alias write finds its word uncorrectable. -/
def State.postedUncorr (s : State) (w : Posted) : Bool :=
  match place w.addr with
  | .window op x =>
    let g := s.galPlace w.host x
    op.reads && s.galOn g.1 && s.galBad g.1 g.2
  | _ => false

/-- The posted word meets at execution a condition of R387: DOWN, OFF or UNCORR. -/
def State.postedLate (s : State) (w : Posted) : Bool :=
  !s.tgtUp w.island || s.postedUncorr w || (match place w.addr with
    | .window _ x => !s.galOn (s.galPlace w.host x).1 || decide ((s.galPlace w.host x).2 ≥ galSize (s.galPlace w.host x).1)
    | _ => false)

/-- R387: a posted word is discarded. -/
def discardWord (w : Posted) (s : State) : State :=
  let s := match place w.addr with
    | .window _ x => whenDo (s.postedUncorr w) (galRead (s.galPlace w.host x).1 (s.galPlace w.host x).2 .clean) s
    | _ => s
  raise .hostLateWrite w.host [(4, w.addr)]
    (s.modHp w.host (fun h => { h with late := satAdd 0xFF h.late 1, lates := h.lates ++ [w.ord] }))

/-- A posted word leaves the channel and takes effect, or is discarded. -/
def runPosted (w : Posted) (s : State) : State :=
  let s := s.modHostIsl (fun i => { i with posted := i.posted.filter (fun x => x.ord != w.ord) })
  wordDone w.host (if s.postedLate w then discardWord w s else writeWord w.role w.host w.addr w.v s)

/-- R31: the steward executes nothing while it restarts. -/
def State.tgtBusy (s : State) (t : Nat) : Bool := t == islSteward && s.red.stewardDown

/-- R389: the port's posted words to one target island take effect, in issue order. -/
def drainTo (p t : Nat) (s : State) : State :=
  if s.tgtBusy t then s else (s.host.posted.filter (fun w => w.host == p && w.island == t)).foldl (fun s w => runPosted w s) s

/-- The target islands that a clocked island holds: the event unit shares the resampler's. -/
def islTargets (i : Island) : List Nat :=
  match i with
  | .link r => [100 + r.val]
  | .resamp => [islResamp, tgtEvent]
  | i => [islBit i]

/-- POSTED_WRITE_EXECUTE (R387, R389): the oldest word posted to the island. -/
def execPostedWriteExecute (i : Island) (s : State) : Out :=
  onIsl islHost s (fun s =>
    match s.host.posted.find? (fun w => (islTargets i).contains w.island) with
    | none => s
    | some w => if s.tgtBusy w.island then s else runPosted w s)

/-- Words of port p numbered below n are still posted. -/
def State.postedBefore (s : State) (p n : Nat) : Bool := s.host.posted.any (fun w => w.host == p && decide (w.ord < n))

/-! ## The checks of a request (R384, R481) -/

/-- The addresses of a request. -/
def reqAddrs (a n : Nat) : List Nat := (List.range n).map (fun i => a + 4 * i)

/-- The first word of a request that fails a check that gives causes. -/
def firstCause (f : Nat → Nat) (l : List Nat) : Option Answer :=
  (l.zipIdx.find? (fun e => f e.1 != 0)).map (fun e => accErr (f e.1) e.2)

/-- R397: the first word of a write that is refused for its value, each word checked on what the earlier ones leave. -/
def valueCause (s : State) : List (Nat × Word) → Nat → Option Answer
  | [], _ => none
  | (a, v) :: rest, i =>
    if s.valueBad (place a) v then some (accErr 0x0A i)
    else
      let s := match place a with
        | .hp off => if 0x80 ≤ off && off < 0x90 then
            s.modHp ((off - 0x80) / 4) (fun h => { h with budget := bits v 17 9, share := bits v 8 0 }) else s
        | _ => s
      valueCause s rest (i + 1)

/-- R481: the checks of a READ or WRITE in their order; none where it passes. -/
def State.reqRefused (s : State) (p : Nat) (write : Bool) (a n : Nat) (data : List Word) : Option Answer :=
  let as := reqAddrs a n
  let vs := as.zip (data ++ List.replicate 8 0)
  let vOf := fun (b : Nat) => ((vs.find? (fun e => e.1 == b)).map (fun e => e.2)).getD 0
  if n < 1 ∨ n > 8 then some { status := 2, cause := 2 }
  else if a % 4 ≠ 0 then some { status := 2, cause := 3 }
  else match as.zipIdx.find? (fun e => rowOf e.1 != rowOf a) with
    | some e => some { status := 2, cause := 4, word := e.2 }
    | none => match firstCause (fun b => s.cause3 p write b (vOf b)) as with
      | some r => some r
      | none => match firstCause (fun b => s.cause4 p b) as with
        | some r => some r
        | none => if write then valueCause s vs 0 else none

/-! ## Answers (R384 to R391) -/

/-- R387: the condition that a word of a READ meets at execution: DOWN, or UNCORR (R362); 0 for none. -/
def State.readFails (s : State) (p a : Nat) : Nat :=
  if !s.tgtUp (place a).target then 0x0B
  else match place a with
    | .window _ x => if s.galBad (s.galPlace p x).1 (s.galPlace p x).2 then 0x05 else 0
    | _ => 0

/-- The reading of one word of a READ: 0 with the cause where it meets a condition of R387. -/
def readOne (p : Nat) (r : List Word × Option Answer × State) (a : Nat) : List Word × Option Answer × State :=
  let (ws, e, s) := r
  let c := s.readFails p a
  let (w, t) := if c = 0x0B then (0, s) else readWord p a s
  if c = 0 then (ws ++ [w], e, t) else (ws ++ [0], some (e.getD (accErr c ws.length)), t)

/-- R384, R386: a READ that has been admitted. A refused one carries no words. -/
def answerRead (p seq a n : Nat) (s : State) : State :=
  let s := if a < 0x1000000 then drainTo p (place a).target s else s
  match s.reqRefused p false a n [] with
  | some e => putReply p seq opRead e s.now [] s
  | none =>
    if s.tgtBusy (place a).target then putReply p seq opRead { status := 3, cause := 1 } s.now [] s
    else
      let (ws, e, s) := (reqAddrs a n).foldl (readOne p) ([], none, s.modHp p (fun h => { h with inHand := true }))
      putReply p seq opRead (e.getD {}) s.now ws (s.modHp p (fun h => { h with inHand := false }))

/-- R386: one word is posted to its target island. -/
def postWord (p : Nat) (s : State) (e : Nat × Word) : State :=
  s.modHostIsl (fun i => { i with
    nextOrd := i.nextOrd + 1
    posted := i.posted ++ [{ ord := i.nextOrd, host := p, role := (s.getRolePort p).role, island := (place e.1).target, addr := e.1, v := e.2 }] })

/-- R384, R386: a WRITE that has been admitted: its words are posted. -/
def answerWrite (p seq a n : Nat) (data : List Word) (s : State) : State :=
  let s := if a < 0x1000000 then drainTo p (place a).target s else s
  match s.reqRefused p true a n data with
  | some e => putReply p seq opWrite e s.now [] s
  | none =>
    if s.tgtBusy (place a).target then putReply p seq opWrite { status := 3, cause := 1 } s.now [] s
    else putReply p seq opWrite {} s.now [] (((reqAddrs a n).zip data).foldl (postWord p) s)

/-- R390: a FENCE that has been admitted waits for the port's earlier writes; with none outstanding it is answered. -/
def answerFenceReq (p seq : Nat) (s : State) : State :=
  let f : Fence := { seq := seq, before := s.host.nextOrd }
  if s.postedBefore p f.before then s.modHp p (fun h => { h with fences := h.fences ++ [f] }) else replyFence p f {} s

/-- R391: the group is declared. -/
def State.grpDeclared (s : State) (g : Nat) : Bool := ((s.planNow g).bind (fun p => p.grp? g)).isSome

/-- R391: a FENCE_COMMIT that has been admitted. Where window k* has been committed already, it is answered with that commit. -/
def answerFenceCommit (p seq a : Nat) (s : State) : State :=
  let g := a % 16
  if a ≥ 16 || !s.grpDeclared g then putReply p seq opFenceCommit { status := 2, cause := 5 } s.now [] s
  else if (s.getRolePort p).role = 0 then putReply p seq opFenceCommit (accErr 0x02 0) s.now [] s
  else
    let h := s.getHp p
    let waits := s.postedBefore p s.host.nextOrd
    let f : Fence := { seq := seq, before := s.host.nextOrd, group := some g, effAt := if waits then none else some (h.lastEff.getD s.now) }
    match waits, h.fcAt.find? (fun e => e.1 == g) with
    | false, some e =>
      let late := !h.lates.isEmpty
      putReply p seq opFenceCommit (if late then accErr 0x09 0 else {}) e.2 [] (s.modHp p (fun h => { h with lates := [] }))
    | _, _ => s.modHp p (fun h => { h with fences := h.fences ++ [f] })

/-- FENCE_ANSWER (R390): the port's oldest waiting FENCE whose writes have all taken effect. -/
def execFenceAnswer (host : Fin 4) (s : State) : Out :=
  onIsl islHost s (fun s =>
    match (s.getHp host).fences.find? (fun f => f.group.isNone && !s.postedBefore host f.before) with
    | none => s
    | some f => answerFence host f {} s)

/-! ## Admission (R381, R382, R385) -/

/-- R400, R412: the request needs a session. -/
def needsSession (op a n : Nat) : Bool :=
  if op = opFenceCommit then true
  else if op = opRead then (reqAddrs a n).any (fun b => decide (rdNeed (place b) > 0))
  else if op = opWrite then (reqAddrs a n).any (fun b => decide (wrNeed (place b) 0 > 0))
  else false

/-- An admitted request is executed. -/
def execute (p seq op n a : Nat) (data : List Word) (s : State) : State :=
  let s := whenDo (needsSession op a n) (fun s => s.modRolePort p (fun x => { x with lastUse := s.now })) s
  if op = opRead then answerRead p seq a n s
  else if op = opWrite then answerWrite p seq a n data s
  else if op = opFence ∨ op = opFenceCommit ∨ op = opNop then
    if n ≠ 0 then putReply p seq op { status := 2, cause := 2 } s.now [] s
    else if op = opFence then answerFenceReq p seq s
    else if op = opFenceCommit then answerFenceCommit p seq a s
    else putReply p seq op {} s.now [] s
  else putReply p seq op { status := 2, cause := 1 } s.now [] s

/-- R382: a duplicate: the reply is sent again from the history, unless it still waits in the queue. -/
def duplicate (p seq : Nat) (s : State) : State :=
  s.modHp p (fun h =>
    let h := { h with duplicate := satAdd 0xFF h.duplicate 1 }
    if h.replies.any (fun r => r.seq == seq) then h
    else match h.history.find? (fun r => r.seq == seq) with
      | none => h
      | some r => { h with replies := h.replies ++ [{ r with copy := true }] })

/-- R375: FLAGS of a COLLECT header. -/
def setFlag (b : Nat) (h : Hp) : Hp := { h with flags := h.flags ||| 2 ^ b }

/-- R385: the cost of a request in units of 1/5 word. -/
def reqCost (n : Nat) : Nat := 5 * max n 1

/-- R381: a request frame whose CRC is correct. -/
def admitReq (p seq op n a : Nat) (data : List Word) (s : State) : State :=
  let h := s.getHp p
  let back := (h.resume + 256 - seq) % 256
  if op = opResync ∧ h.free > 0 then
    putReply p seq opResync {} s.now [] (s.modHp p (fun h => { h with resume := (seq + 1) % 256, history := [] }))
  else if back ≠ 0 then
    if back ≤ 32 then duplicate p seq s
    else s.modHp p (fun h => setFlag 1 { h with badSeq := satAdd 0xFF h.badSeq 1 })
  else if h.free = 0 then s.modHp p (fun h => setFlag 2 { h with full := satAdd 0xFF h.full 1 })
  else if h.credit < reqCost n then s.modHp p (fun h => setFlag 3 { h with throttled := satAdd 0xFF h.throttled 1 })
  else execute p seq op n a data (s.modHp p (fun h => { h with resume := (h.resume + 1) % 256, credit := h.credit - reqCost n }))

/-! ## Transactions (R373 to R377) -/

/-- R376: the length of a frame whose first bytes are given, once OP and COUNT are there. -/
def frameLen (bs : List Byte) : Nat := 10 + (if (bs.getD 2 0).toNat = opWrite then 4 * (bs.getD 3 0).toNat else 0)

/-- The words that bytes spell. -/
def byteWords : Nat → List Byte → List Word
  | 0, _ => []
  | n + 1, bs => BitVec.ofNat 32 (leNat (bs.take 4)) :: byteWords n (bs.drop 4)

/-- R377, R381: a whole frame. -/
def takeFrame (p : Nat) (fr : List Byte) (s : State) : State :=
  let n := fr.length - 2
  let at_ := fun (i : Nat) => (fr.getD i 0).toNat
  if leNat (fr.drop n) ≠ (crc16 (fr.take n)).toNat then
    s.modHp p (fun h => setFlag 0 { h with crcFail := satAdd 0xFF h.crcFail 1 })
  else admitReq p (at_ 1) (at_ 2) (at_ 3) (leNat ((fr.drop 4).take 3)) (byteWords ((n - 8) / 4) (fr.drop 8)) s

/-- R374: the bytes of a SUBMIT: what is not SYNC is skipped before a frame; a frame cut off by CS_N is counted. -/
def takeBytes (p : Nat) : Nat → List Byte → State → State
  | 0, _, s => s
  | _ + 1, [], s => s
  | fuel + 1, b :: bs, s =>
    if b ≠ 0xD5 then takeBytes p fuel bs s
    else if bs.length < 7 ∨ bs.length + 1 < frameLen (b :: bs) then s.modHp p (fun h => { h with cut := satAdd 0xFF h.cut 1 })
    else takeBytes p fuel ((b :: bs).drop (frameLen (b :: bs))) (takeFrame p ((b :: bs).take (frameLen (b :: bs))) s)

/-- SUBMIT (R374). -/
def execSubmit (host : Fin 4) (bytes : List Byte) (s : State) : Out := onIsl islHost s (takeBytes host bytes.length bytes)

/-- R375: the header that a COLLECT begins with. -/
def State.collectHeader (s : State) (p : Nat) : List Byte :=
  let h := s.getHp p
  let ready := min 0xFFFF ((h.replies.map (fun r => r.bytes.length)).foldl (· + ·) 0)
  let body := leBytes 1 0xC5 ++ leBytes 2 ready ++ leBytes 1 h.resume ++ leBytes 1 h.free ++
    leBytes 1 (h.flags + 16 * b2n (s.irqPin p) + 32 * b2n (decide ((s.getRolePort p).role = 0)))
  body ++ leBytes 2 (crc16 body).toNat

/-- R375: all that a COLLECT drives, before the 0x00 that follow. -/
def State.collectBytes (s : State) (p : Nat) : List Byte := s.collectHeader p ++ (s.getHp p).replies.flatMap (fun r => r.bytes)

/-- R375: the replies clocked out in full by `n` bytes, and those that stay. -/
def splitReplies : Nat → List Reply → List Reply × List Reply
  | _, [] => ([], [])
  | n, r :: rs => if r.bytes.length ≤ n then let x := splitReplies (n - r.bytes.length) rs; (r :: x.1, x.2) else ([], r :: rs)

/-- COLLECT (R375, R382, R383): with the header clocked out in full the flags start anew; replies clocked out in full leave the queue
for the history of the last 32. -/
def execCollect (host : Fin 4) (clocked : Nat) (s : State) : Out :=
  onIsl islHost s (fun s =>
    if clocked < 8 then s
    else s.modHp host (fun h =>
      let x := splitReplies (clocked - 8) h.replies
      { h with flags := 0, replies := x.2, history := (x.1.reverse ++ h.history).take 32 }))

/-- BAD_TXN (R373). -/
def execBadTxn (host : Fin 4) (code : Byte) (s : State) : Out :=
  onIsl islHost s (fun s =>
    if code = 0x53 ∨ code = 0x43 then s else s.modHp host (fun h => { h with badTxn := satAdd 0xFF h.badTxn 1 }))

/-! ## Request frames -/

/-- READ (R384): a request frame whose CRC is correct. -/
def execRead (host : Fin 4) (seq : Byte) (addr : BitVec 24) (count : Byte) (s : State) : Out :=
  onIsl islHost s (admitReq host seq.toNat opRead count.toNat addr.toNat [])

/-- WRITE (R386). -/
def execWrite (host : Fin 4) (seq : Byte) (addr : BitVec 24) (data : List Word) (s : State) : Out :=
  onIsl islHost s (admitReq host seq.toNat opWrite data.length addr.toNat data)

/-- FENCE (R390). -/
def execFence (host : Fin 4) (seq : Byte) (s : State) : Out := onIsl islHost s (admitReq host seq.toNat opFence 0 0 [])

/-- FENCE_COMMIT (R391). -/
def execFenceCommit (host : Fin 4) (seq : Byte) (addr : BitVec 24) (s : State) : Out :=
  onIsl islHost s (admitReq host seq.toNat opFenceCommit 0 addr.toNat [])

/-- NOP (R378). -/
def execNop (host : Fin 4) (seq : Byte) (s : State) : Out := onIsl islHost s (admitReq host seq.toNat opNop 0 0 [])

/-- RESYNC (R378). -/
def execResync (host : Fin 4) (seq : Byte) (s : State) : Out := onIsl islHost s (admitReq host seq.toNat opResync 0 0 [])

/-! ## The tick (R40, R44) -/

/-- R385: the credit that each port earns in a tick. -/
def earnCredit (s : State) : State :=
  if s.up islHost then
    each [0, 1, 2, 3] (fun s p => s.modHp p (fun h => { h with credit := min 1280 (h.credit + 6 * max h.share 1) })) s
  else s

end Sys2Proof.Machine
end

