-- ==== Sys2Proof/Machine/HostRows.lean ====
section
/-! DEFINITION. The accesses of a host to one register that the table lists as commands of their own, each the write or read of the
register that its rule names, with the role of the port's session; and TICK. A command refused by the checks of R384 has no effect. -/

namespace Sys2Proof.Machine

/-- R389, R391: a port's own write of one word follows the words that it has posted to the same island, and its effect has an index as
theirs have. -/
def portWrite (p a : Nat) (v : Word) (s : State) : State :=
  let s := drainTo p (place a).target s
  if s.canWrite p a v then wordDone p (hostWrite p a v s) else s

/-- R389: a port's own read of one word follows the words that it has posted to the same island. -/
def portRead (p a : Nat) (s : State) : State := hostRead p a (drainTo p (place a).target s)

/-- A host's write of one register as a command. -/
def rowWrite (host a : Nat) (v : Word) (s : State) : Out := onIsl islHost s (portWrite host a v)

/-- The bit that starts what a register commands. -/
def goBit : Word := 0x80000000

/-- TICK (R40, R44): the NCO issues a tick; with it the ports earn credit (R385), a frame leaves every declared ring (R57), and the
legacy inputs are sampled (R209). -/
def execTick (plsIn : BitVec 16) (s : State) : Out :=
  .next (if s.tbOn then
    let s := earnCredit (s.modTbIsl ncoTick)
    let s := if s.pwr.mainOn then sendFrames s else s
    whenDo (s.up islTally) (sampleInputs plsIn) s
  else s)

/-! ## Timebase, rings and heads -/

/-- DISC_EN_WRITE (R50): TB_CTRL with DISC_EN. -/
def execDiscEnWrite (host : Fin 4) (en : Bool) (s : State) : Out :=
  rowWrite host 0x010000 ((tbRead s.tb 0 &&& 0xE) ||| packW [(b2n en, 0)]) s

/-- TAI_ARM (R55). -/
def execTaiArm (host : Fin 4) (s : State) : Out := rowWrite host 0x010048 1 s

/-- RING_CMD_GO (R96, R105). -/
def execRingCmdGo (host : Fin 4) (r : Fin 32) (s : State) : Out := rowWrite host (0x020460 + 0x1000 * r.val) 1 s

/-- R126: GO of the port's own mailbox with an operation, the other fields as they stand. -/
def mailboxGo (host op : Nat) (s : State) : Out :=
  rowWrite host (0x080000 + 0x100 * host) ((accRead (s.getHeadAcc host) 0 &&& 0x4FFFFFFF) ||| goBit ||| packW [(op, 28)]) s

/-- HEAD_ACC_READ (R126). -/
def execHeadAccRead (host : Fin 4) (s : State) : Out := mailboxGo host 1 s

/-- HEAD_ACC_WRITE (R126). -/
def execHeadAccWrite (host : Fin 4) (s : State) : Out := mailboxGo host 2 s

/-! ## Staircase, groups, contexts -/

/-- WP_CFG_WRITE (R146). -/
def execWpCfgWrite (host : Fin 4) (w : Fin 256) (v : Word) (s : State) : Out :=
  rowWrite host (0x0C0E00 + 0x1000 * (w.val / 8) + 0x20 * (w.val % 8)) v s

/-- FG_REACQ (R172): FG_CTRL as it stands, with REACQ. -/
def execFgReacq (host : Fin 4) (g : Fin 16) (s : State) : Out :=
  rowWrite host (0x011008 + 0x100 * g.val) (fgRead s g 0x08 ||| goBit) s

/-- The address of an offset of context c's block (R476). -/
def ctxAddr (c off : Nat) : Nat := 0x100000 + 0x1000 * c + off

/-- CTX_LATCH_GO (R187). -/
def execCtxLatchGo (host : Fin 4) (c : Fin 160) (s : State) : Out := rowWrite host (ctxAddr c 0x34) goBit s

/-- CTX_LATCH_RELEASE (R187). -/
def execCtxLatchRelease (host : Fin 4) (c : Fin 160) (s : State) : Out := rowWrite host (ctxAddr c 0x34) 0x40000000 s

/-- ENERGY_PRESET_GO (R188). -/
def execEnergyPresetGo (host : Fin 4) (c : Fin 160) (acc : BitVec 8) (s : State) : Out :=
  rowWrite host (ctxAddr c 0x38) (goBit ||| acc.setWidth 32) s

/-- EV_CFG_WRITE (R255). -/
def execEvCfgWrite (host : Fin 4) (c : Fin 160) (v : Word) (s : State) : Out := rowWrite host (ctxAddr c 0xC00) v s

/-- SNAPSHOT_WORD0_READ (R10, R186): a read of word 0 of a value that latches. -/
def execSnapshotWord0Read (host : Fin 4) (addr : BitVec 24) (s : State) : Out :=
  onIsl islHost s (fun s => if (snapWords (place addr.toNat)).isEmpty then s else portRead host addr.toNat s)

/-- RC_READ (R7, R8): a read of a register; what it clears is cleared for every port. -/
def execRcRead (host : Fin 4) (addr : BitVec 24) (s : State) : Out := onIsl islHost s (portRead host addr.toNat)

/-! ## Pulses and spectra -/

/-- PLS_OUT_CFG or a word of PLS_OUT_WEIGHT. -/
def Place.outAssign (pl : Place) : Bool :=
  match pl with
  | .pulseOut o off => decide (o < 16) && (off == 0x00 || off == 0x04 || off == 0x08)
  | _ => false

/-- PULSE_OUT_CONFIG (R206). -/
def execPulseOutConfig (host : Fin 4) (addr : BitVec 24) (v : Word) (s : State) : Out :=
  onIsl islHost s (fun s => if (place addr.toNat).outAssign then portWrite host addr.toNat v s else s)

/-- LEGACY_PRESET_GO (R212): PLS_IN_PRESET_SEL with GO. -/
def execLegacyPresetGo (host : Fin 4) (i : Fin 16) (v : Word) (s : State) : Out :=
  rowWrite host (0x0F0474 + 0x80 * i.val) (goBit ||| v) s

/-- SP_UTC_WRITE (R231). -/
def execSpUtcWrite (host : Fin 4) (offset : BitVec 16) (s : State) : Out := rowWrite host 0x0E1040 (offset.setWidth 32) s

/-! ## The hall plan and redundancy -/

/-- PLAN_CMD with SRC as it stands and a command. -/
def planRow (host cmd : Nat) (s : State) : Out := rowWrite host 0x000104 (planRead s 0x04 ||| packW [(1, cmd)]) s

/-- PLAN_STAGE (R284). -/
def execPlanStage (host : Fin 4) (s : State) : Out := planRow host 31 s

/-- PLAN_SWAP (R286). -/
def execPlanSwap (host : Fin 4) (s : State) : Out := planRow host 30 s

/-- PLAN_CANCEL (R285). -/
def execPlanCancel (host : Fin 4) (s : State) : Out := planRow host 29 s

/-- PLAN_HIST_SELECT (R268). -/
def execPlanHistSelect (host : Fin 4) (seq : Word) (s : State) : Out := rowWrite host 0x00013C seq s

/-- RESTORE_GO (R305): RED_RESTORE_SEL as it stands, with GO. -/
def execRestoreGo (host : Fin 4) (s : State) : Out := rowWrite host 0x000250 (redRead s 0x250 ||| goBit) s

/-! ## The local converter -/

/-- LC_COMMIT (R322): LC_CTRL as it stands, with COMMIT. -/
def execLcCommit (host : Fin 4) (s : State) : Out := rowWrite host 0x1B0000 (lcRead s 0 ||| goBit) s

/-- LC_RUN (R323): LC_CTRL with RUN. -/
def execLcRun (host : Fin 4) (run : Bool) (s : State) : Out :=
  rowWrite host 0x1B0000 ((lcRead s 0 &&& 0x3F) ||| packW [(b2n run, 30)]) s

/-- LC_INJECT (R325): LC_INJ_CFG with GO. -/
def execLcInject (host slot : Fin 4) (v : Word) (s : State) : Out := rowWrite host (0x1B0100 + 0x20 * slot.val) (goBit ||| v) s

/-- LC_FIFO_READ (R331): a read of LC_FIFO word 0. -/
def execLcFifoRead (host : Fin 4) (s : State) : Out := onIsl islHost s (portRead host 0x1B0020)

/-- LC_FIFO_FLUSH (R331): a write of LC_FIFO_CFG. -/
def execLcFifoFlush (host : Fin 4) (v : Word) (s : State) : Out := rowWrite host 0x1B0010 v s

/-! ## Calibration -/

/-- CAL_CMD with GO and an operation. -/
def calRow (host op : Nat) (det loc : Bool) (idx : Nat) (s : State) : Out :=
  rowWrite host 0x1C0000 (goBit ||| packW [(op, 28), (b2n det, 27), (b2n loc, 26), (idx, 0)]) s

/-- CAL_HEAD (R339). -/
def execCalHead (host : Fin 4) (d : Det) (h : Fin 4096) (s : State) : Out := calRow host 1 d false h s

/-- CAL_LOCAL (R339). -/
def execCalLocal (host : Fin 4) (idx : Fin 4096) (s : State) : Out := calRow host 2 false false idx s

/-- CAL_EXPORT (R354). -/
def execCalExport (host : Fin 4) (s : State) : Out := calRow host 3 s.cal.det s.cal.loc s.cal.index s

/-- CAL_RESTORE (R354). -/
def execCalRestore (host : Fin 4) (s : State) : Out := calRow host 4 s.cal.det s.cal.loc s.cal.index s

/-- CAL_CANCEL (R349). -/
def execCalCancel (host : Fin 4) (isLocal : Bool) (d : Det) (idx : Fin 4096) (s : State) : Out := calRow host 5 d isLocal idx s

/-! ## Galleries, blocks and budgets -/

/-- GALLERY_READ (R362, R365): a host reads a word through the window or an alias. -/
def execGalleryRead (host : Fin 4) (x : BitVec 22) (ecc : Ecc) (s : State) : Out :=
  onIsl islHost s (fun s =>
    let s := drainTo host islHost s
    if s.galAllowed .read host.val x.toNat then
      let (g, off) := s.galPlace host.val x.toNat
      galRead g off ecc s
    else s)

/-- R364: the other port's operation replaces the whole word. -/
def wholeWrite (o : PortA) : Bool :=
  match o with
  | .write _ => true
  | _ => false

/-- A host's plain write or alias write through the window (R357, R358, R364 to R366). An alias that finds its word uncorrectable has no
effect (R362, R380), unless the other port writes the word first. -/
def galHostWrite (op : GalOp) (mine : PortA) (host x : Nat) (other : PortA) (s : State) : State :=
  let s := drainTo host islHost s
  if s.galAllowed op host x then
    let (g, off) := s.galPlace host x
    wordDone host (if op.reads && s.galBad g off && !wholeWrite other then galRead g off .clean s
      else galHostOp host g off mine other (noteUpload g off s))
  else s

/-- GALLERY_WRITE (R364, R365). -/
def execGalleryWrite (host : Fin 4) (x : BitVec 22) (v : Word) (other : PortA) (s : State) : Out :=
  onIsl islHost s (galHostWrite .write (.write v) host.val x.toNat other)

/-- ALIAS_SET (R366). -/
def execAliasSet (host : Fin 4) (x : BitVec 22) (v : Word) (other : PortA) (s : State) : Out :=
  onIsl islHost s (galHostWrite .set (.setBits v) host.val x.toNat other)

/-- ALIAS_CLEAR (R366). -/
def execAliasClear (host : Fin 4) (x : BitVec 22) (v : Word) (other : PortA) (s : State) : Out :=
  onIsl islHost s (galHostWrite .clear (.clearBits v) host.val x.toNat other)

/-- GAL_PWR_WRITE (R360, R371). -/
def execGalPwrWrite (host : Fin 4) (g : Fin 8) (v : Word) (s : State) : Out := rowWrite host (0x000810 + 4 * g.val) v s

/-- BLOCK_REQUEST (R394). -/
def execBlockRequest (host : Fin 4) (count : BitVec 9) (s : State) : Out := rowWrite host 0x1F0820 (goBit ||| count.setWidth 32) s

/-- BLOCK_RELEASE (R394). -/
def execBlockRelease (host : Fin 4) (w : Fin 8) (mask : Word) (s : State) : Out := rowWrite host (0x1F0840 + 4 * w.val) mask s

/-- CAPTURE_GO (R395): HP_CAP_CTRL as it stands, with GO. -/
def execCaptureGo (host : Fin 4) (s : State) : Out := rowWrite host 0x1F0860 (hpRead s host 0x60 ||| goBit) s

/-- CAPTURE_STOP (R395): HP_CAP_CTRL as it stands, with STOP. -/
def execCaptureStop (host : Fin 4) (s : State) : Out := rowWrite host 0x1F0860 (hpRead s host 0x60 ||| 0x40000000) s

/-- BUDGET_WRITE (R397). -/
def execBudgetWrite (host p : Fin 4) (v : Word) (s : State) : Out := rowWrite host (0x1F0880 + 4 * p.val) v s

/-- EVICT (R398). -/
def execEvict (host p : Fin 4) (s : State) : Out := rowWrite host 0x1F0890 (goBit ||| packW [(p.val, 0)]) s

/-! ## Keys and SEAL -/

/-- KEY_SET (R407, R404): ROLE_KEY_CMD with GO. -/
def execKeySet (host : Fin 4) (target : BitVec 2) (s : State) : Out := rowWrite host 0x1F0080 (goBit ||| target.setWidth 32) s

/-- OTP_KEY_PROGRAM (R408): ROLE_OTP_CMD with GO and OP 1. -/
def execOtpKeyProgram (host : Fin 4) (slot : Fin 4) (s : State) : Out :=
  rowWrite host 0x1F0090 (goBit ||| packW [(1, 2), (slot.val, 0)]) s

/-- OTP_KEY_REVOKE (R408): ROLE_OTP_CMD with GO and OP 2. -/
def execOtpKeyRevoke (host : Fin 4) (slot : Fin 4) (s : State) : Out :=
  rowWrite host 0x1F0090 (goBit ||| packW [(2, 2), (slot.val, 0)]) s

/-- SEAL_CLEAR (R414): ROLE_SEAL with CLEAR. -/
def execSealClear (host : Fin 4) (s : State) : Out := rowWrite host 0x1F0088 goBit s

/-! ## Tamper, save and log -/

/-- TAMPER_TEST (R434). -/
def execTamperTest (host : Fin 4) (mon : BitVec 5) (s : State) : Out := rowWrite host 0x1D0020 (goBit ||| mon.setWidth 32) s

/-- TAMPER_CONFIG_WRITE (R425, R427). -/
def execTamperConfigWrite (host : Fin 4) (m : Fin 23) (word : Fin 2) (v : Word) (s : State) : Out :=
  rowWrite host (0x1D0100 + 8 * m.val + 4 * word.val) v s

/-- SAVE_ACK (R451). -/
def execSaveAck (host : Fin 4) (s : State) : Out := rowWrite host 0x1E0040 goBit s

/-- LOG_ACK (R473). -/
def execLogAck (host : Fin 4) (seq : Word) (s : State) : Out := rowWrite host 0x1A0108 seq s

/-- REGISTER_WRITE (R7 to R9, R415): a host's write of any register. -/
def execRegisterWrite (host : Fin 4) (addr : BitVec 24) (v : Word) (s : State) : Out := rowWrite host addr.toNat v s

end Sys2Proof.Machine
end

