-- ==== Sys2Proof/Machine/Dispatch.lean ====
section
/-! DEFINITION. One arm for each command: its effect on everything but the queue. -/

namespace Sys2Proof.Machine

/-- The effect of a command. -/
def exec (i : Instr) (s : State) : Host.Outcome State Fault Refusal :=
  match i with
  | .tick plsIn => Sys2Proof.Machine.execTick plsIn s
  | .islandResetRelease i0 => Sys2Proof.Machine.execIslandResetRelease i0 s
  | .islandClockLost i0 => Sys2Proof.Machine.execIslandClockLost i0 s
  | .cloakroomTrim trim => Sys2Proof.Machine.execCloakroomTrim trim s
  | .ppsEdge at16 => Sys2Proof.Machine.execPpsEdge at16 s
  | .ppsTimeout => Sys2Proof.Machine.execPpsTimeout s
  | .discEnWrite host en => Sys2Proof.Machine.execDiscEnWrite host en s
  | .secondBoundary => Sys2Proof.Machine.execSecondBoundary s
  | .taiArm host => Sys2Proof.Machine.execTaiArm host s
  | .portSignalDetect k => Sys2Proof.Machine.execPortSignalDetect k s
  | .portSignalLost k => Sys2Proof.Machine.execPortSignalLost k s
  | .frameReceive k arrival codeErr chars => Sys2Proof.Machine.execFrameReceive k arrival codeErr chars s
  | .portRetire k => Sys2Proof.Machine.execPortRetire k s
  | .ringEnum r ids => Sys2Proof.Machine.execRingEnum r ids s
  | .ringEnumRetry r ids => Sys2Proof.Machine.execRingEnumRetry r ids s
  | .ringMeasureCycle r deltas => Sys2Proof.Machine.execRingMeasureCycle r deltas s
  | .ringWaits r mods => Sys2Proof.Machine.execRingWaits r s mods
  | .ringRun r frame => Sys2Proof.Machine.execRingRun r frame s
  | .slotRelease r => Sys2Proof.Machine.execSlotRelease r s
  | .holdTimeout r => Sys2Proof.Machine.execHoldTimeout r s
  | .mailboxCellSend r cell => Sys2Proof.Machine.execMailboxCellSend r cell s
  | .cellReply r cell chars => Sys2Proof.Machine.execCellReply r cell chars s
  | .cellNoReply r cell => Sys2Proof.Machine.execCellNoReply r cell s
  | .ringCmdGo host r => Sys2Proof.Machine.execRingCmdGo host r s
  | .ringUnwrap r fu => Sys2Proof.Machine.execRingUnwrap r fu s
  | .ringRestored r => Sys2Proof.Machine.execRingRestored r s
  | .headAdmit h ident a0 => Sys2Proof.Machine.execHeadAdmit h ident a0 s
  | .headRejoin h ident a0 => Sys2Proof.Machine.execHeadRejoin h ident a0 s
  | .healthPoll h => Sys2Proof.Machine.execHealthPoll h s
  | .headAccRead host => Sys2Proof.Machine.execHeadAccRead host s
  | .headAccWrite host => Sys2Proof.Machine.execHeadAccWrite host s
  | .changeQueuePlace h => Sys2Proof.Machine.execChangeQueuePlace h s
  | .stairProcess r up upT => Sys2Proof.Machine.execStairProcess r up upT s
  | .handoverSwitch r => Sys2Proof.Machine.execHandoverSwitch r s
  | .wpCfgWrite host w v => Sys2Proof.Machine.execWpCfgWrite host w v s
  | .stairSelftest e pass => Sys2Proof.Machine.execStairSelftest e pass s
  | .cycleSampleForm c slot => Sys2Proof.Machine.execCycleSampleForm c slot s
  | .cycleEnd g => Sys2Proof.Machine.execCycleEnd g s
  | .fgReacq host g => Sys2Proof.Machine.execFgReacq host g s
  | .groupStart g => Sys2Proof.Machine.execGroupStart g s
  | .tallyFlatSample c => Sys2Proof.Machine.execTallyFlatSample c s
  | .tallyCycle c => Sys2Proof.Machine.execTallyCycle c s
  | .tallyFlatCheckpoint u => Sys2Proof.Machine.execTallyFlatCheckpoint u s
  | .tallyWindowDone u g => Sys2Proof.Machine.execTallyWindowDone u g s
  | .commit g => Sys2Proof.Machine.execCommit g s
  | .commitDeadline g => Sys2Proof.Machine.execCommitDeadline g s
  | .ctxLatchGo host c => Sys2Proof.Machine.execCtxLatchGo host c s
  | .ctxLatchRelease host c => Sys2Proof.Machine.execCtxLatchRelease host c s
  | .energyPresetGo host c acc => Sys2Proof.Machine.execEnergyPresetGo host c acc s
  | .snapshotWord0Read host addr => Sys2Proof.Machine.execSnapshotWord0Read host addr s
  | .rcRead host addr => Sys2Proof.Machine.execRcRead host addr s
  | .pulseUnit => Sys2Proof.Machine.execPulseUnit s
  | .pulseEnd o => Sys2Proof.Machine.execPulseEnd o s
  | .pulseOutConfig host addr v => Sys2Proof.Machine.execPulseOutConfig host addr v s
  | .pulseInEdge i0 => Sys2Proof.Machine.execPulseInEdge i0 s
  | .legacyPresetGo host i0 v => Sys2Proof.Machine.execLegacyPresetGo host i0 v s
  | .legacyPresetApply i0 => Sys2Proof.Machine.execLegacyPresetApply i0 s
  | .harmCycleSample c slot => Sys2Proof.Machine.execHarmCycleSample c slot s
  | .harmWindowDone e g => Sys2Proof.Machine.execHarmWindowDone e g s
  | .shRawSample lane => Sys2Proof.Machine.execShRawSample lane s
  | .shWindowDone e => Sys2Proof.Machine.execShWindowDone e s
  | .spUtcWrite host offset => Sys2Proof.Machine.execSpUtcWrite host offset s
  | .eventHalfCycle c residue => Sys2Proof.Machine.execEventHalfCycle c residue s
  | .eventWindowDone g => Sys2Proof.Machine.execEventWindowDone g s
  | .evCfgWrite host c v => Sys2Proof.Machine.execEvCfgWrite host c v s
  | .planLoad => Sys2Proof.Machine.execPlanLoad s
  | .planStage host => Sys2Proof.Machine.execPlanStage host s
  | .planStageDone flashOk => Sys2Proof.Machine.execPlanStageDone flashOk s
  | .planSwap host => Sys2Proof.Machine.execPlanSwap host s
  | .planCancel host => Sys2Proof.Machine.execPlanCancel host s
  | .planPrepare => Sys2Proof.Machine.execPlanPrepare s
  | .prepareTimeout => Sys2Proof.Machine.execPrepareTimeout s
  | .swapArm => Sys2Proof.Machine.execSwapArm s
  | .swapSwitch g => Sys2Proof.Machine.execSwapSwitch g s
  | .swapComplete => Sys2Proof.Machine.execSwapComplete s
  | .planHistSelect host seq => Sys2Proof.Machine.execPlanHistSelect host seq s
  | .streamAbsentRetire h d => Sys2Proof.Machine.execStreamAbsentRetire h d s
  | .tallyFault u => Sys2Proof.Machine.execTallyFault u s
  | .harmFault e => Sys2Proof.Machine.execHarmFault e s
  | .shFault e => Sys2Proof.Machine.execShFault e s
  | .replayDone u => Sys2Proof.Machine.execReplayDone u s
  | .stewardRestart => Sys2Proof.Machine.execStewardRestart s
  | .restoreGo host => Sys2Proof.Machine.execRestoreGo host s
  | .restoreSelftestDone pass => Sys2Proof.Machine.execRestoreSelftestDone pass s
  | .lcSlot raw => Sys2Proof.Machine.execLcSlot raw s
  | .lcResult => Sys2Proof.Machine.execLcResult s
  | .lcRotate slice corr => Sys2Proof.Machine.execLcRotate slice corr s
  | .lcReady => Sys2Proof.Machine.execLcReady s
  | .lcCommit host => Sys2Proof.Machine.execLcCommit host s
  | .lcRun host run => Sys2Proof.Machine.execLcRun host run s
  | .lcInject host slot v => Sys2Proof.Machine.execLcInject host slot v s
  | .lcCalBurst => Sys2Proof.Machine.execLcCalBurst s
  | .lcFifoRead host => Sys2Proof.Machine.execLcFifoRead host s
  | .lcFifoFlush host v => Sys2Proof.Machine.execLcFifoFlush host v s
  | .calHead host d h => Sys2Proof.Machine.execCalHead host d h s
  | .calLocal host idx => Sys2Proof.Machine.execCalLocal host idx s
  | .calExport host => Sys2Proof.Machine.execCalExport host s
  | .calRestore host => Sys2Proof.Machine.execCalRestore host s
  | .calCancel host isLocal d idx => Sys2Proof.Machine.execCalCancel host isLocal d idx s
  | .calImageDone => Sys2Proof.Machine.execCalImageDone s
  | .outingStart q => Sys2Proof.Machine.execOutingStart q s
  | .outingTimeout q => Sys2Proof.Machine.execOutingTimeout q s
  | .galleryRead host x ecc => Sys2Proof.Machine.execGalleryRead host x ecc s
  | .galleryWrite host x v other => Sys2Proof.Machine.execGalleryWrite host x v other s
  | .aliasSet host x v other => Sys2Proof.Machine.execAliasSet host x v other s
  | .aliasClear host x v other => Sys2Proof.Machine.execAliasClear host x v other s
  | .galPwrWrite host g v => Sys2Proof.Machine.execGalPwrWrite host g v s
  | .galleryClearDone g => Sys2Proof.Machine.execGalleryClearDone g s
  | .galleryIdleRetain g => Sys2Proof.Machine.execGalleryIdleRetain g s
  | .galleryScrub g singles doubles => Sys2Proof.Machine.execGalleryScrub g singles doubles s
  | .memtestBorrow => Sys2Proof.Machine.execMemtestBorrow s
  | .memtestDone bad => Sys2Proof.Machine.execMemtestDone bad s
  | .memtestYield => Sys2Proof.Machine.execMemtestYield s
  | .submit host bytes => Sys2Proof.Machine.execSubmit host bytes s
  | .collect host clocked => Sys2Proof.Machine.execCollect host clocked s
  | .badTxn host code => Sys2Proof.Machine.execBadTxn host code s
  | .read host seq addr count => Sys2Proof.Machine.execRead host seq addr count s
  | .write host seq addr data => Sys2Proof.Machine.execWrite host seq addr data s
  | .fence host seq => Sys2Proof.Machine.execFence host seq s
  | .fenceCommit host seq addr => Sys2Proof.Machine.execFenceCommit host seq addr s
  | .nop host seq => Sys2Proof.Machine.execNop host seq s
  | .resync host seq => Sys2Proof.Machine.execResync host seq s
  | .postedWriteExecute i0 => Sys2Proof.Machine.execPostedWriteExecute i0 s
  | .fenceAnswer host => Sys2Proof.Machine.execFenceAnswer host s
  | .registerWrite host addr v => Sys2Proof.Machine.execRegisterWrite host addr v s
  | .blockRequest host count => Sys2Proof.Machine.execBlockRequest host count s
  | .blockRelease host w mask => Sys2Proof.Machine.execBlockRelease host w mask s
  | .captureGo host => Sys2Proof.Machine.execCaptureGo host s
  | .captureStop host => Sys2Proof.Machine.execCaptureStop host s
  | .captureEntry host => Sys2Proof.Machine.execCaptureEntry host s
  | .budgetWrite host p v => Sys2Proof.Machine.execBudgetWrite host p v s
  | .evict host p => Sys2Proof.Machine.execEvict host p s
  | .roleReq host role chal => Sys2Proof.Machine.execRoleReq host role chal s
  | .roleSubmit host => Sys2Proof.Machine.execRoleSubmit host s
  | .roleClose host => Sys2Proof.Machine.execRoleClose host s
  | .sessionIdleTimeout host => Sys2Proof.Machine.execSessionIdleTimeout host s
  | .keySet host target => Sys2Proof.Machine.execKeySet host target s
  | .keySetDone host => Sys2Proof.Machine.execKeySetDone host s
  | .otpKeyProgram host slot => Sys2Proof.Machine.execOtpKeyProgram host slot s
  | .otpKeyRevoke host slot => Sys2Proof.Machine.execOtpKeyRevoke host slot s
  | .otpKeyDone ok => Sys2Proof.Machine.execOtpKeyDone ok s
  | .sealClear host => Sys2Proof.Machine.execSealClear host s
  | .tamperSample obs => Sys2Proof.Machine.execTamperSample obs s
  | .shadowMismatch f => Sys2Proof.Machine.execShadowMismatch f s
  | .shadowSweep bad => Sys2Proof.Machine.execShadowSweep bad s
  | .tamperTest host mon => Sys2Proof.Machine.execTamperTest host mon s
  | .tamperConfigWrite host m word v => Sys2Proof.Machine.execTamperConfigWrite host m word v s
  | .fullReset okA okB => Sys2Proof.Machine.execFullReset s okA okB
  | .powerGood bak badCells => Sys2Proof.Machine.execPowerGood bak badCells s
  | .mainRelease => Sys2Proof.Machine.execMainRelease s
  | .powerWarning src saving => Sys2Proof.Machine.execPowerWarning src s saving
  | .spectralShed => Sys2Proof.Machine.execSpectralShed s
  | .totalsFreeze okA okB => Sys2Proof.Machine.execTotalsFreeze okA okB s
  | .saveDeadline => Sys2Proof.Machine.execSaveDeadline s
  | .tailCopy => Sys2Proof.Machine.execTailCopy s
  | .mainStop => Sys2Proof.Machine.execMainStop s
  | .vholdShutdown torn => Sys2Proof.Machine.execVholdShutdown s torn
  | .cloakSupplySwitch vio33 => Sys2Proof.Machine.execCloakSupplySwitch vio33 s
  | .periodicSave ok1 ok2 => Sys2Proof.Machine.execPeriodicSave ok1 ok2 s
  | .saveAck host => Sys2Proof.Machine.execSaveAck host s
  | .logEntryWrite src => Sys2Proof.Machine.execLogEntryWrite src s
  | .logDropped src => Sys2Proof.Machine.execLogDropped src s
  | .logSuppressed code => Sys2Proof.Machine.execLogSuppressed code s
  | .logAck host seq => Sys2Proof.Machine.execLogAck host seq s
  | .clockRecoveryLocked k => Sys2Proof.Machine.execClockRecoveryLocked k s
  | .commaMissing k => Sys2Proof.Machine.execCommaMissing k s
  | .stewardRestartComplete => Sys2Proof.Machine.execStewardRestartComplete s

end Sys2Proof.Machine
end

