-- ==== Sys2Proof/Safety.lean ====
section
/-! DEFINITION. What holds of every state that a run reaches: the invariants of the block, in the terms in which the statements use
them. -/

namespace Sys2Proof.Safety

open Sys2Proof.Machine

/-- Every gallery and the boot flash are in canonical form: addresses strictly rising, no entry equal to what an unlisted address
reads as. -/
def MemoriesCanonical (s : State) : Prop :=
  (∀ e ∈ s.gal, memWf galDefault e.2.mem = true) ∧ memWf flashDefault s.plan.flash = true

/-- R41: the ratio in use, and the ratio from which FREE and HOLDOVER slew, lie within the limits. -/
def RatioWithinLimits (s : State) : Prop :=
  0x4FFBE76C8B44 ≤ s.tb.ratio ∧ s.tb.ratio ≤ 0x5004189374BC ∧ 0x4FFBE76C8B44 ≤ s.tb.slewFrom ∧ s.tb.slewFrom ≤ 0x5004189374BC

/-- R394: the block numbers held lie in 0 to 255, and no block is held by two ports or twice by one. -/
def BlocksExclusive (s : State) : Prop :=
  (∀ p, (∀ b ∈ (s.getHp p).held, b < 256) ∧ (s.getHp p).held.Nodup) ∧
  (∀ p q, p < 4 → q < 4 → p ≠ q → ∀ b ∈ (s.getHp p).held, b ∉ (s.getHp q).held)

/-- R385: no port has more credit than 256 words. -/
def CreditBounded (s : State) : Prop := ∀ p, (s.getHp p).credit ≤ 5 * 256

end Sys2Proof.Safety
end

