-- ==== Sys2Proof/Certificates/Slice0/Obligations.lean ====
section
/-! DEFINITION. The statements for the provers. Each definition is one statement; its docstring names the rules of spec/ that it
formalises. `exec c s = .next t` says that command c completes in state s with state t. A frame is written as an equation
`t = { s with a := t.a, b := t.b }`: every part of the state but a and b is as it was. -/

namespace Sys2Proof.Cert

open Sys2Proof.Machine

/-- The trouble record of a code at severity `sev` (R462, R465, R467): WHEN, the instance and the listed values. -/
def entSev (c : LogCode) (sev w inst : Nat) (vals : List (Nat × Nat)) (s : State) : LogEnt :=
  { code := c.info.1, sev := sev, always := c.info.2.2, when_ := w, epoch := s.tb.epoch
    data := leBytes 2 inst ++ packVals vals }

/-- The same at the severity of R467. -/
def ent (c : LogCode) (w inst : Nat) (vals : List (Nat × Nat)) (s : State) : LogEnt := entSev c c.info.2.1 w inst vals s

/-- The record stands in the trouble channel of its island, or waits there for a place (R468). -/
def Logged (e : LogEnt) (t : State) : Prop :=
  e ∈ (t.getLogSrc (troubleChan (e.code / 256))).chan ∨ e ∈ (t.getLogSrc (troubleChan (e.code / 256))).waiting

/-- Port p may act on target island `tgt` in at least the given role: the host island and the target run, the steward is not
restarting, and the port's session is of that role or a higher one (R12, R31, R403, R404); no word that the port has posted to the
island waits, as those take effect first (R389). -/
def MayAct (s : State) (p role tgt : Nat) : Prop :=
  s.up islHost = true ∧ s.tgtUp tgt = true ∧ s.red.stewardDown = false ∧ role ≤ (s.getRolePort p).role ∧
  ∀ w ∈ s.host.posted, w.host = p → w.island ≠ tgt

/-- A write that needs the installer or maker role, when it leaves no entry of its own, leaves an AUDIT record and counts it
(R415, R416): `t` is `u` with that record, in which the port's latest word took effect now (R391: `wordDone`). -/
def Audited (p a : Nat) (old new : Word) (s u t : State) : Prop :=
  t = wordDone p { u with role := { u.role with audit := (u.role.audit + 1) % 2 ^ 32 }, log := t.log } ∧
  Logged (ent .audit s.now (a % 65536)
    [(1, a / 65536), (1, (s.getRolePort p).role), (1, p), (1, 0), (4, old.toNat), (4, new.toNat), (4, u.role.audit), (6, 0)] s) t

end Sys2Proof.Cert

open Sys2Proof Sys2Proof.Machine Sys2Proof.Cert

/-! ## The queue and the state after reset -/

/-- A step takes the command at the front of the queue and runs it with the queue's rest. The second clause, that an empty queue
leaves the block as it is, is the model's choice (log entry 7). -/
def Obligations.StepRunsFrontCommand : Prop :=
  (∀ (c : Instr) (rest : List Instr) (s : State), step { s with pending := c :: rest } = exec c { s with pending := rest }) ∧
  (∀ s : State, s.pending = [] → step s = .next s)

/-- What the spec gives for the state right after a power-on: index 0 and the nominal ratio (R41, R44), FREE (R50), no valid TAI
(R54), every ring OFF, no head declared, every group OFF, watch points STALE, no plan, no session in any port (R403), full credit
(R385), HP_INT_EN 0, galleries OFF and empty, the seal open, the monitors of a device never configured (R425), PFW_EN 1 and EW_THR
85 (R461), LOG_NEXT 0, and nothing waiting. -/
def Obligations.ResetStateAsSpecified : Prop :=
  State.reset.tb.idx = 0 ∧ State.reset.tb.ratio = 80 * 2 ^ 40 ∧ State.reset.tb.nom = 80 * 2 ^ 40 ∧ State.reset.tb.disc = .free ∧
  State.reset.tb.taiValid = false ∧ State.reset.tb.arm = false ∧ State.reset.tb.second = 0 ∧
  (∀ r, (State.reset.getRing r).st = .off) ∧ (∀ h, (State.reset.getHead h).st = .notDeclared) ∧
  (∀ g, (State.reset.getGrp g).st = .off) ∧ (∀ w, (State.reset.getWp w).stale = true) ∧
  State.reset.plan.st = .none ∧ State.reset.plan.cur = none ∧
  (∀ p, (State.reset.getRolePort p).role = 0) ∧ (∀ p, (State.reset.getHp p).credit = 5 * 256) ∧
  (∀ p, (State.reset.getHp p).intEn = 0) ∧ (∀ p, (State.reset.getHp p).held = []) ∧
  (∀ g, (State.reset.getGal g).power = .off ∧ (State.reset.getGal g).mem = []) ∧
  (∀ m, m < 8 → (State.reset.getMon m).enable = false ∧ (State.reset.getMon m).count = 20 ∧ (State.reset.getMon m).window = 20) ∧
  (∀ m, (State.reset.getMon m).state = .off) ∧ State.reset.role.sealed = false ∧
  State.reset.pwr.pfwEn = true ∧ State.reset.pwr.ewThr = 85 ∧ State.reset.log.next = 0 ∧ State.reset.pending = []

/-! ## Chapter 2: the timebase -/

/-- TICK. R40: the accumulator takes 2^40 per REFCLK cycle until it reaches the ratio, and the ratio is subtracted; R44: the index
advances by 1. What hangs on a tick: the credit of the ports (R385), the frames of the rings (R57, R72: the frame that lies 112 ticks
ahead leaves a ring with a transmitter that is on, in the ring's MODE, its backfill lane open in a wrap, R99), the legacy inputs (R209: a level that the debounce has not yet
accepted changes no accumulator). In ACQUIRE and LOCKED a tick leaves the ratio. -/
def Obligations.TickAdvancesIndexAndNco : Prop :=
  ∀ (lv : BitVec 16) (s : State), s.tbOn = true → s.tb.idx + 1 < 2 ^ 64 →
    ∃ t, exec (.tick lv) s = .next t ∧ t.tb.idx = s.tb.idx + 1 ∧
      (∃ n, t.tb.phase + s.tb.ratio = s.tb.phase + n * 2 ^ 40 ∧ ∀ m, s.tb.ratio ≤ s.tb.phase + m * 2 ^ 40 → n ≤ m) ∧
      t.tb = { s.tb with idx := t.tb.idx, phase := t.tb.phase, ratio := t.tb.ratio, range := t.tb.range, chgAt := t.tb.chgAt } ∧
      (s.tb.disc = .acquire ∨ s.tb.disc = .locked → t.tb.ratio = s.tb.ratio ∧ t.tb.range = s.tb.range ∧ t.tb.chgAt = s.tb.chgAt) ∧
      (s.up islHost = true → ∀ p, p < 4 →
        t.getHp p = { s.getHp p with credit := min 1280 ((s.getHp p).credit + 6 * max (s.getHp p).share 1) }) ∧
      (∀ r, r < s.ringCount → s.linkUp r = true → (s.portLive (2 * r) = true ∨ s.portLive (2 * r + 1) = true) →
        t.getRing r = { s.getRing r with
          sent := (s.getRing r).sent + 1
          out := some { frame := s.tb.idx + 1 + 112, mode := (s.getRing r).modeOf (s.tb.idx + 1 + 112)
                        wrap := (s.getRing r).wraps (s.tb.idx + 1 + 112) } }) ∧
      (∀ r, (s.getRing r).st = .off → t.getRing r = s.getRing r) ∧
      (∀ o, t.getOut o = s.getOut o) ∧
      (∀ i, (t.getInp i).imp = (s.getInp i).imp ∧ (t.getInp i).exp = (s.getInp i).exp ∧ (t.getInp i).count = (s.getInp i).count) ∧
      t = { s with tb := t.tb, host := t.host, ring := t.ring, port := t.port, pulse := t.pulse }

/-- PPS_EDGE. R48: an edge less than 0.5 s after the previous accepted edge is ignored. An edge within 40 ticks of the expected
boundary in ACQUIRE, or within 2 microseconds in LOCKED, is accepted: it becomes the latest accepted edge, TB_PPS_ERR takes its phase
error (R49), and the counted second stays. The ratio it leads to is a free value within R41 and R43 (log entry 4), so the statement
says of it only that a ratio within the limits stays within them. R48, R50: any other edge in LOCKED that is not the third of three
outliers within one tick is counted and changes nothing else. R50, R51: an edge that arrives in HOLDOVER, or in FREE with DISC_EN
at 1, is taken without a window check and leads to ACQUIRE. The latch of which edges are checked after that is a reading (log entry
25). -/
def Obligations.PpsEdgeIgnoredAcceptedOrOutlier : Prop :=
  ∀ (at16 : Nat) (s : State), s.tbOn = true → at16 / 65536 = s.tb.idx →
    (∀ e, s.tb.lastEdge = some e → at16 < e + 192000 * 65536 → exec (.ppsEdge at16) s = .next s) ∧
    ((∀ e, s.tb.lastEdge = some e → e + 192000 * 65536 ≤ at16) →
      (s.tb.takeNext = false →
        let err := (s.tb.nearest ((at16 : Int) - s.tb.delay)).2
        ((s.tb.disc = .acquire ∧ err.natAbs ≤ 40 * 65536) ∨
          (s.tb.disc = .locked ∧ err.natAbs * 10 ^ 9 ≤ 2000 * 65536 * 384000) →
          ∃ t, exec (.ppsEdge at16) s = .next t ∧ t.tb.lastEdge = some at16 ∧ t.tb.err = err ∧
            (0x4FFBE76C8B44 ≤ s.tb.ratio ∧ s.tb.ratio ≤ 0x5004189374BC →
              0x4FFBE76C8B44 ≤ t.tb.ratio ∧ t.tb.ratio ≤ 0x5004189374BC) ∧
            t.tb.second = s.tb.second ∧ t.tb.idx = s.tb.idx ∧ t.tb.taiSec = s.tb.taiSec ∧ t.tb.outliers = s.tb.outliers ∧
            t.tb.steps = s.tb.steps ∧ t = { s with tb := t.tb, fresh := t.fresh }) ∧
        (s.tb.disc = .locked → 2000 * 65536 * 384000 < err.natAbs * 10 ^ 9 → s.tb.outRun.length < 2 →
          exec (.ppsEdge at16) s = .next { s with tb := { s.tb with
            outliers := min 0xFFFF (s.tb.outliers + 1), outRun := (err :: s.tb.outRun).take 3 } })) ∧
      (s.tb.disc = .holdover ∨ (s.tb.disc = .free ∧ s.tb.discEn = true) →
        ∃ t, exec (.ppsEdge at16) s = .next t ∧ t.tb.disc = .acquire ∧ t.tb.lastEdge = some at16 ∧ t.tb.idx = s.tb.idx ∧
          t = { s with tb := t.tb, fresh := t.fresh, pwr := t.pwr, spec := t.spec, rs := t.rs, log := t.log }))

/-- PPS_TIMEOUT and DISC_EN_WRITE. R50: with no edge accepted for 576,000 ticks ACQUIRE and LOCKED give way to HOLDOVER, and a write
of 0 to DISC_EN leads to FREE; leaving LOCKED sets LOCK_LOST (R66). R66, R415: the write needs the installer or maker role and leaves
an audit record.

SECOND_BOUNDARY and TAI_ARM. R52: a counted boundary lies 384,000 ticks after the last. R54: valid TAI counts on by one second.
R55: the boundary applies TB_TAI_SET, as it stood before the boundary's tick, where ARM was set in an earlier tick; it clears ARM, unless
ARM was written again in the boundary's tick or later, sets TAI_VALID, and logs TB_TAI_APPLIED with the boundary as WHEN and the role,
the port and the second applied. R55, R66: the write of ARM needs the installer or maker role. -/
def Obligations.DisciplineLossAndTimeOfDay : Prop :=
  ((∀ s : State, s.tbOn = true → (s.tb.disc = .acquire ∨ s.tb.disc = .locked) →
     (∀ e, s.tb.lastEdge = some e → e + 576000 * 65536 ≤ s.tb.idx * 65536) →
     ∃ t, exec .ppsTimeout s = .next t ∧ t.tb.disc = .holdover ∧ t.tb.ratio = s.tb.ratio ∧
       t.tb.lockLost = (s.tb.lockLost || decide (s.tb.disc = .locked)) ∧ t.tb.second = s.tb.second ∧ t.tb.idx = s.tb.idx ∧
       t = { s with tb := t.tb }) ∧
   (∀ (p : Fin 4) (en : Bool) (s : State), MayAct s p 2 islSteward →
     ∃ t, exec (.discEnWrite p en) s = .next t ∧ t.tb.discEn = en ∧
       t.tb.disc = (if en then s.tb.disc else .free) ∧ t.tb.ratio = s.tb.ratio ∧ t.tb.idx = s.tb.idx ∧
       Audited p 0x010000 (tbRead s.tb 0) ((tbRead s.tb 0 &&& 0xE) ||| (if en then 1 else 0)) s { s with tb := t.tb } t)) ∧
  ((∀ s : State, s.tbOn = true → s.tb.second + 384000 ≤ s.tb.idx →
     ∃ t, exec .secondBoundary s = .next t ∧ t.tb.second = s.tb.second + 384000 ∧ t.tb.idx = s.tb.idx ∧
       t.tb.ratio = s.tb.ratio ∧ t.tb.disc = s.tb.disc ∧
       (s.tb.arm = false → t.tb.taiValid = s.tb.taiValid ∧
         t.tb.taiSec = (if s.tb.taiValid then (s.tb.taiSec + 1) % 2 ^ 48 else s.tb.taiSec) ∧ t.log = s.log) ∧
       (s.tb.arm = true → s.tb.armAt < s.tb.second + 384000 →
         let set_ := heldBefore (s.tb.second + 384000) 0 s.tb.taiHist
         let by_ := heldBefore (s.tb.second + 384000) (0, 0) s.tb.taiBy
         t.tb.taiSec = set_ ∧ t.tb.taiValid = true ∧ t.tb.arm = decide (s.tb.second + 384000 ≤ s.tb.armLast) ∧
         Logged (ent .tbTaiApplied (s.tb.second + 384000) 0 [(1, by_.1), (1, by_.2), (8, set_)] s) t) ∧
       (∀ g, (t.getGrp g).cycles = (s.getGrp g).cycles ∧ (t.getGrp g).tw = (s.getGrp g).tw) ∧
       t = { s with tb := t.tb, log := t.log, pwr := { s.pwr with rtc := t.pwr.rtc }, spec := t.spec, rs := t.rs }) ∧
   (∀ (p : Fin 4) (s : State), MayAct s p 2 islSteward →
     ∃ t, exec (.taiArm p) s = .next (wordDone p t) ∧ t.tb = { s.tb with
         arm := true, armAt := (if s.tb.arm then s.tb.armAt else s.tb.idx), armLast := s.tb.idx, taiBy := t.tb.taiBy } ∧
       t.tb.taiBy.head? = some (s.tb.idx, (s.getRolePort p).role, p.val) ∧ t = { s with tb := t.tb }))


/-! ## Chapters 1 and 19: islands, power and save -/

/-- ISLAND_RESET_RELEASE and ISLAND_CLOCK_LOST. R12: an island whose PLL has locked leaves reset, and only that island; an island that
has lost its PLL in service is held idle from then on, the loss is logged as ISLAND_CLOCK_LOST, and the unit it contains is treated as
permanently faulty: a link island's two ports (R31, R33; R501: its ring is in service no more), the staircase's and the spectral
engines, the tally units, the event unit of the resampler island, the local converter. The instance of the entry, 0, and
the criterion that the entries of these retirements name are the model's choices (log entries 32 and 80).

CLOAKROOM_TRIM and CLOAK_SUPPLY_SWITCH. R13: the comparison with REFCLK trims the cloakroom oscillator, except while monitor 21
holds its condition or held it within the last second; R453: the cloakroom changes supply without interruption, so nothing else of
the block changes but the power-good of VIO33 (R461). -/
def Obligations.IslandsAndCloakroomClocked : Prop :=
  ((∀ (r : Fin 32) (s : State), s.pwr.mainOn = true → bit s.glb.linkLost r = false →
     ∃ t, exec (.islandResetRelease (.link r)) s = .next t ∧ t.linkUp r = true ∧
       (∀ q, q < 32 → q ≠ r.val → t.linkUp q = s.linkUp q) ∧ t = { s with glb := { s.glb with linkLock := t.glb.linkLock } }) ∧
   (∀ (i : Island) (s : State), s.pwr.mainOn = true → (∀ r, i ≠ .link r) → bit s.glb.lost (islBit i) = false →
     (i = .analogue → s.up islAnalog = false) →
     ∃ t, exec (.islandResetRelease i) s = .next t ∧ t.up (islBit i) = true ∧
       (∀ b, b < 32 → b ≠ islBit i → t.up b = s.up b) ∧
       t = { s with glb := { s.glb with lock := t.glb.lock }, cal := { s.cal with trimL := t.cal.trimL, store := t.cal.store }, log := t.log } ∧
       (i ≠ .analogue → t.cal = s.cal ∧ t.log = s.log)) ∧
   (∀ (r : Fin 32) (s : State), s.linkUp r = true →
     ∃ t, exec (.islandClockLost (.link r)) s = .next t ∧ t.linkUp r = false ∧ (∀ q, q < 32 → q ≠ r.val → t.linkUp q = s.linkUp q) ∧
       (t.getPort (2 * r)).retired = true ∧ (t.getPort (2 * r + 1)).retired = true ∧
       (∀ k, k ≠ 2 * r.val → k ≠ 2 * r.val + 1 → t.getPort k = s.getPort k) ∧
       ((s.getPort (2 * r)).retired = false ∨ (s.getPort (2 * r + 1)).retired = false →
         (t.getRing r).st = (if (s.getRing r).st = .off then .off else .train) ∧ (t.getRing r).runFrame = none) ∧
       (∀ q, q ≠ r.val → t.getRing q = s.getRing q) ∧
       Logged (ent .islandClockLost s.now 0 [] s) t ∧ t = { s with glb := t.glb, port := t.port, ring := t.ring, log := t.log }) ∧
   (∀ (i : Island) (s : State), (∀ r, i ≠ .link r) → s.up (islBit i) = true → (i = .cloak → bit s.glb.lost islCloak = false) →
     ∃ t, exec (.islandClockLost i) s = .next t ∧ t.up (islBit i) = false ∧ (∀ b, b < 32 → b ≠ islBit i → t.up b = s.up b) ∧
       bit t.glb.lost (islBit i) = true ∧ Logged (ent .islandClockLost s.now 0 [] s) t ∧
       (i = .stair → ∀ e, e < 33 → (t.getEng e).st = .retired) ∧
       (i = .tally → (∀ u, u < 9 → (t.getUnit u).retired = true) ∧ ∀ c, t.getCtx c = s.getCtx c) ∧
       (i = .spectral → ∀ e, e < 7 → (t.getSpEng e).retired = true) ∧ (i = .resamp → t.ev.down = true) ∧
       (i = .analogue → t.lc.down = true) ∧
       (i = .steward ∨ i = .host ∨ i = .power ∨ i = .gallery ∨ i = .cloak → t = { s with glb := t.glb, log := t.log }) ∧
       t = { s with glb := t.glb, head := t.head, stair := t.stair, tally := t.tally, spec := t.spec, ev := t.ev, red := t.red, lc := t.lc,
                    cal := t.cal, gal := t.gal, host := t.host, log := t.log })) ∧
  ((∀ (v : Int) (s : State), s.pwr.pg = true → s.refBad = false →
     exec (.cloakroomTrim v) s = .next { s with glb := { s.glb with trim := v, trimAt := some s.tb.idx } }) ∧
   (∀ (v : Int) (s : State), s.refBad = true → exec (.cloakroomTrim v) s = .next s) ∧
   (∀ (v : Bool) (s : State), exec (.cloakSupplySwitch v) s = .next { s with pwr := { s.pwr with
      fromVio := v, railsPg := s.pwr.railsPg % 8 + (if v then 8 else 0) } }))

/-- POWER_GOOD. R438, R361: with the rails in their windows every gallery starts to clear; R433: the steps that wait in the pending
latch are committed to OTP, one each, failing cells passed over (R430), up to the 2,048 that OTP holds; R453: a cloakroom that VBAK has
not kept has lost the tail block and the mirror, and a block whose CRC fails is void by itself.

MAIN_RELEASE. R456, R44: the main domain is released at index 0, at the nominal ratio and in FREE; R452: in an epoch one above the
highest that the save store holds; R433: the pending latch is empty by then; R281: the plan is to be loaded. R459: after a FULL_RESET
it is released with index and epoch running on. R451: of two valid copies the one with the higher sequence number is the record of the start. -/
def Obligations.PowerGoodAndMainRelease : Prop :=
  (∀ (bak : Backup) (badCells : Nat) (s : State), s.pwr.pg = false → s.pwr.mainOn = false → s.pwr.resetting = false →
     ∃ t, exec (.powerGood bak badCells) s = .next t ∧ t.pwr.pg = true ∧ t.pwr.railsPg = 0xF ∧ t.pwr.mainOn = false ∧
       (∀ g, g < 8 → (t.getGal g).power = .clearing ∧ (t.getGal g).mem = []) ∧
       t.tmp.pending = 0 ∧
       (bak.kept = true → s.tmp.otpCount ≤ 2048 →
         t.tmp.otpCount = min 2048 (s.tmp.otpCount + s.tmp.pending + (if s.tmp.pending = 0 then 0 else badCells))) ∧
       (bak.kept = false ∨ bak.mirrorOk = false → t.log.mirrorVoid = true) ∧
       (bak.kept = false ∨ bak.tailOk = false → t.pwr.tailVoid = true ∧ t.pwr.tailA = none ∧ t.pwr.tailB = none) ∧
       (bak.kept = true → bak.tailOk = true → t.pwr.tailVoid = s.pwr.tailVoid ∧ t.pwr.tailA = s.pwr.tailA ∧ t.pwr.tailB = s.pwr.tailB) ∧
       t.pwr.copyA = s.pwr.copyA ∧ t.pwr.copyB = s.pwr.copyB ∧ t.pwr.epochs = s.pwr.epochs ∧
       t = { s with gal := t.gal, role := { s.role with sealed := t.role.sealed }, tmp := t.tmp, pwr := t.pwr, log := t.log, fresh := t.fresh }) ∧
  ((∀ s : State, s.pwr.mainOn = false → s.pwr.pg = true → s.pwr.resetting = false → s.tmp.pending = 0 → s.inWarning = false →
     ∃ t, exec .mainRelease s = .next t ∧ t.pwr.mainOn = true ∧ t.pwr.st = .start ∧ t.tb.idx = 0 ∧ t.tb.ratio = 80 * 2 ^ 40 ∧
       t.tb.disc = .free ∧ t.tb.taiValid = false ∧ t.plan.st = .loading ∧
       (∀ e ∈ s.pwr.epochs, e < t.tb.epoch) ∧
       (∀ a, s.pwr.copyA = some a → a.epoch < t.tb.epoch) ∧ (∀ b, s.pwr.copyB = some b → b.epoch < t.tb.epoch) ∧
       (∀ e ∈ s.pwr.epochs, (∀ f ∈ s.pwr.epochs, f ≤ e) → (∀ a, s.pwr.copyA = some a → a.epoch ≤ e) →
         (∀ b, s.pwr.copyB = some b → b.epoch ≤ e) → t.tb.epoch = e + 1) ∧
       t.pwr.epochs = [t.tb.epoch, t.tb.epoch] ∧
       (∀ a b, s.pwr.copyA = some a → s.pwr.copyB = some b → s.pwr.single = false → a.seq < b.seq → t.pwr.chosen = some b) ∧
       (∀ a b, s.pwr.copyA = some a → s.pwr.copyB = some b → b.seq < a.seq → t.pwr.chosen = some a) ∧
       (s.pwr.copyA = none → s.pwr.copyB = none → t.pwr.chosen = none ∧ t.pwr.pfwEn = true ∧ t.pwr.ewThr = 85) ∧
       t.pwr.copyA = s.pwr.copyA ∧ t.pwr.copyB = s.pwr.copyB ∧ t.plan.flash = s.plan.flash ∧ t.role.otp = s.role.otp ∧
       t = { s with glb := t.glb, tb := t.tb, port := t.port, head := t.head, stair := t.stair, tally := t.tally, pulse := t.pulse,
                    spec := t.spec, ev := t.ev, plan := t.plan, cal := t.cal, gal := t.gal, host := t.host, role := t.role, tmp := t.tmp,
                    pwr := t.pwr, log := t.log, fresh := t.fresh }) ∧
   (∀ s : State, s.pwr.mainOn = false → s.pwr.pg = true → s.pwr.resetting = true → s.inWarning = false →
     ∃ t, exec .mainRelease s = .next t ∧ t.pwr.mainOn = true ∧ t.pwr.resetting = false ∧ t.pwr.st = .start ∧ t.tb = s.tb ∧
       t.plan.st = .loading ∧ t.gal = s.gal ∧ t.pwr.copyA = s.pwr.copyA ∧ t.pwr.copyB = s.pwr.copyB ∧ t.pwr.epochs = s.pwr.epochs))

/-- POWER_WARNING. R441: the first source raises the warning at W, the present tick, PFW_N counting only while PFW_EN is 1; R443: rings
in RUN enter SHED, the pulse outputs stop, the memory test stops, and G1, G6 and G7 are held. R460: a periodic save that is being
written at W is abandoned, and its copy, the one with the lower number, is not valid. A source that comes while a warning is
on changes nothing (R441; log entry 24 on R460). R438, R458: before the main domain's release, the loss of power-good gives the start
up (the entry in the mirror is the model's choice, log entry 134). -/
def Obligations.PowerWarningSheds : Prop :=
  (∀ (src : BitVec 3) (saving : Bool) (s : State), s.pwr.mainOn = true ∨ s.pwr.resetting = true → s.pwr.st ≠ .warning →
    s.pwr.st ≠ .saved → bit s.glb.lost islPower = false →
    (src.getLsbD 0 = true ∨ src.getLsbD 2 = true ∨ (src.getLsbD 1 = true ∧ s.pwr.pfwEn = true)) →
    ∃ t, exec (.powerWarning src saving) s = .next t ∧ t.pwr.st = .warning ∧ t.pwr.w = s.tb.idx ∧
      t.pwr.ewSrc = (if s.pwr.pfwEn then src.toNat else src.toNat &&& 5) ∧ t.pwr.warnings = min 0xFFFF (s.pwr.warnings + 1) ∧
      (s.plan.st ≠ .preparing → ∀ r, r < s.ringCount →
        (t.getRing r).st = (if (s.getRing r).st = .run then .shed else (s.getRing r).st)) ∧
      (∀ o, o < 16 → (t.getOut o).stopped = true ∧ (t.getOut o).issued = (s.getOut o).issued) ∧
      t.mt.stopped = true ∧ (∀ g, g = 1 ∨ g = 6 ∨ g = 7 → (t.getGal g).shed = true) ∧ t.tmp.stopped = true ∧
      Logged (ent .powerWarning s.now 0 [(1, t.pwr.ewSrc)] s) t ∧
      (saving = false ∨ s.maySave = false → t.pwr.copyA = s.pwr.copyA ∧ t.pwr.copyB = s.pwr.copyB) ∧
      (∀ a b, saving = true → s.maySave = true → s.pwr.single = false → s.pwr.copyA = some a → s.pwr.copyB = some b →
        (a.seq < b.seq → t.pwr.copyA = none ∧ t.pwr.copyB = some b) ∧ (b.seq < a.seq → t.pwr.copyA = some a ∧ t.pwr.copyB = none)) ∧
      t = { s with ring := t.ring, head := t.head, headAcc := t.headAcc, stair := t.stair, tally := t.tally, pulse := t.pulse,
                   plan := t.plan, red := t.red, lc := t.lc, cal := t.cal, gal := t.gal, mt := t.mt, host := t.host, tmp := t.tmp, pwr := t.pwr,
                   log := t.log, fresh := t.fresh }) ∧
  (∀ (src : BitVec 3) (saving : Bool) (s : State), s.pwr.st = .warning ∨ s.pwr.st = .saved →
    exec (.powerWarning src saving) s = .next s) ∧
  (∀ (src : BitVec 3) (saving : Bool) (s : State), s.pwr.mainOn = false → s.pwr.resetting = false → s.pwr.pg = true →
    s.pwr.st ≠ .warning → s.pwr.st ≠ .saved → bit s.glb.lost islPower = false →
    (src.getLsbD 0 = true ∨ src.getLsbD 2 = true ∨ (src.getLsbD 1 = true ∧ s.pwr.pfwEn = true)) →
    ∃ t, exec (.powerWarning src saving) s = .next t ∧ t.pwr.pg = false ∧ t.pwr.mainOn = false ∧ t.pwr.interrupted = true ∧
      t.pwr.copyA = s.pwr.copyA ∧ t.pwr.copyB = s.pwr.copyB ∧ t = { s with pwr := t.pwr, log := t.log, fresh := t.fresh })

/-- SPECTRAL_SHED, TOTALS_FREEZE, SAVE_DEADLINE and TAIL_COPY. R444: at W + 768 at the latest the spectral island is shed. R445, R450:
the totals record, exact to W and under the number one above both copies', goes into copy A and then into copy B, and the state
is SAVED; a copy that does not read back is not valid until it has been written once more, under the same number. R311, R447: the fault of a tally unit
that has to be replayed moves the freeze; a record that is not complete 1,536 ticks after it, W + 2,048 without a replay, is abandoned and
the tail block is void. R448: sequence numbers have 32 bits (that they wrap is the model's reading, log entry 133).
R446: every 96 ticks a copy of the tail goes into the half that does not hold the latest.

PERIODIC_SAVE and SAVE_ACK. R449: the committed state goes into the copy with the lower number, under that number plus 2, and the
other copy is untouched; a write that does not read back is repeated once, and a copy whose second write fails is not valid.
R451, R461: SAVE_ACK, by the maker, releases copy B. -/
def Obligations.SavesWrittenInWarningAndInPeriod : Prop :=
  ((∀ s : State, s.pwr.mainOn = true → s.inWarning = true → bit s.glb.lost islPower = false → s.pwr.w + 768 ≤ s.tb.idx →
     exec .spectralShed s = .next { s with spec := { s.spec with shed := true } }) ∧
   (∀ s : State, s.pwr.mainOn = true → s.pwr.st = .warning → s.pwr.interrupted = false → s.pwr.recGone = false →
     s.pwr.single = false → bit s.glb.lost islPower = false → (∀ u, u < 9 → (s.getUnit u).replay = none) →
     max s.pwr.w s.tally.replayAt + 512 ≤ s.tb.idx → s.tb.idx < max s.pwr.w s.tally.replayAt + 2048 →
     (s.spec.shed = true ∨ s.specSent = true ∨ s.pwr.w + 768 ≤ s.tb.idx) →
     let seq := s.pwr.warnSeq.getD ((max (recSeq s.pwr.copyA) (recSeq s.pwr.copyB) + 1) % 2 ^ 32)
     (∃ t r, exec (.totalsFreeze true true) s = .next t ∧ t.pwr.copyA = some r ∧ t.pwr.copyB = some r ∧ t.pwr.st = .saved ∧
       t.pwr.recDone = true ∧ r.seq = seq ∧ r.idx = s.pwr.w ∧ r.epoch = s.tb.epoch ∧
       r.warning = true ∧ r.sealed = s.role.sealed ∧ r.operator = s.role.operator ∧ r.installer = s.role.installer ∧
       r.audit = s.role.audit ∧ r.minver = s.plan.minver ∧ r.logNext = s.log.next ∧ r.retired = s.retiredItems ∧
       t = { s with tally := t.tally, pwr := t.pwr }) ∧
     (∃ t r, exec (.totalsFreeze true false) s = .next t ∧ t.pwr.copyA = some r ∧ r.seq = seq ∧ t.pwr.copyB = none ∧
       t.pwr.warnSeq = some seq ∧ t.pwr.saveFail = true ∧ t.pwr.saveErr = min 0xFFFF (s.pwr.saveErr + 1) ∧ t.pwr.st = .warning ∧
       Logged (ent .saveFail s.now 1 [] s) t ∧ t = { s with tally := t.tally, pwr := t.pwr, log := t.log }) ∧
     (∀ okB, ∃ t, exec (.totalsFreeze false okB) s = .next t ∧ t.pwr.copyA = none ∧ t.pwr.copyB = s.pwr.copyB ∧ t.pwr.warnSeq = some seq ∧
       t.pwr.saveFail = true ∧ t.pwr.st = .warning ∧ Logged (ent .saveFail s.now 0 [] s) t)) ∧
   (∀ s : State, s.pwr.mainOn = true → s.inWarning = true → s.pwr.recDone = false → s.pwr.interrupted = false →
     bit s.glb.lost islPower = false → max s.pwr.w s.tally.replayAt + 2048 ≤ s.tb.idx →
     exec .saveDeadline s = .next { s with pwr := { s.pwr with
       recGone := true, tailVoid := true, lateEnd := some (s.pwr.w + 2304) } }) ∧
   (∀ s : State, s.pwr.mainOn = true → s.inWarning = true → s.pwr.interrupted = false → s.pwr.recGone = false →
     bit s.glb.lost islPower = false → s.pwr.tailAt + 96 ≤ s.tb.idx →
     ∃ t b, exec .tailCopy s = .next t ∧ b.epoch = s.tb.epoch ∧ b.w = s.pwr.w ∧
       t.pwr = (if s.pwr.tailNext then { s.pwr with tailB := some b, tailNext := false, tailVoid := false, tailAt := s.tb.idx }
         else { s.pwr with tailA := some b, tailNext := true, tailVoid := false, tailAt := s.tb.idx }) ∧
       t = { s with tally := t.tally, pwr := t.pwr })) ∧
  ((∀ (ok2 : Bool) (a b : SaveRec) (s : State), s.up islPower = true → s.pwr.st = .normal → s.plan.cur.isSome = true →
     s.pwr.resetAt = none → (s.pwr.saveDue = true ∨ s.pwr.saveAt + 38400 * min 600 (max 2 s.pwr.period) ≤ s.tb.idx) →
     s.pwr.single = false → s.pwr.copyA = some a → s.pwr.copyB = some b → a.seq < b.seq →
     (∃ t r, exec (.periodicSave true ok2) s = .next t ∧ t.pwr.copyA = some r ∧ t.pwr.copyB = some b ∧ r.seq = (a.seq + 2) % 2 ^ 32 ∧
       r.idx = s.tb.idx ∧ r.epoch = s.tb.epoch ∧ r.warning = false ∧ r.pulses = s.pulse.out ∧ r.inputs = s.pulse.inp ∧
       t.pwr.saveDue = false ∧ t.pwr.saveAt = s.tb.idx ∧ t.pwr.saveErr = s.pwr.saveErr ∧ t = { s with pwr := t.pwr }) ∧
     (∃ t, exec (.periodicSave false false) s = .next t ∧ t.pwr.copyA = none ∧ t.pwr.copyB = some b ∧ t.pwr.saveFail = true ∧
       t.pwr.saveErr = min 0xFFFF (min 0xFFFF (s.pwr.saveErr + 1) + 1) ∧ Logged (ent .saveFail s.now 0 [] s) t ∧
       t = { s with pwr := t.pwr, log := t.log })) ∧
   (∀ (p : Fin 4) (s : State), MayAct s p 3 islPower →
     ∃ t, exec (.saveAck p) s = .next t ∧
       Audited p 0x1E0040 0 0x80000000 s { s with pwr := { s.pwr with single := false } } t))

/-- MAIN_STOP and VHOLD_SHUTDOWN. R439, R443: at W + 2,304, or when VHOLD falls to 7.0 V, the main domain stops: what stays are the
save store and the calibration store, the boot flash, OTP, and what the cloakroom holds. Everything else is as after reset. R450: a copy
that is being written when VHOLD falls (VHOLD_SHUTDOWN names it) is not valid.

FULL_RESET. R426, R459: once what lies before the alarm has been counted, the record exact to the alarm's tick goes into both
copies, every session ends, and every island but the timebase is reset; the flash, OTP, the seal, G3 with the log, and the cloakroom
run on. R449: a copy that does not read back is logged and written again; the reset waits for it. -/
def Obligations.MainDomainStopsOrIsReset : Prop :=
  (∀ (c : Instr) (s : State), s.pwr.mainOn = true → s.inWarning = true →
     ((∃ torn, c = .vholdShutdown torn) ∨ (c = .mainStop ∧ bit s.glb.lost islPower = false ∧ s.pwr.w + 2304 ≤ s.tb.idx)) →
     ∃ t, exec c s = .next t ∧ t.pwr.mainOn = false ∧ t.pwr.pg = false ∧ t.tb = { epoch := s.tb.epoch } ∧
       t.glb.lock = 0 ∧ t.glb.linkLock = 0 ∧ t.glb.half = s.glb.half ∧ t.port = [] ∧ t.ring = [] ∧ t.head = [] ∧ t.headAcc = [] ∧
       t.stair = {} ∧ t.rs = {} ∧ t.tally = {} ∧ t.pulse = {} ∧ t.spec = {} ∧ t.ev = {} ∧ t.red = {} ∧ t.lc = {} ∧ t.gal = [] ∧
       t.mt = {} ∧ t.host = {} ∧ t.plan = { flash := s.plan.flash } ∧ t.cal = { store := s.cal.store } ∧
       t.role.otp = s.role.otp ∧ t.role.makers = s.role.makers ∧ t.role.sealed = s.role.sealed ∧ (∀ p, (t.getRolePort p).role = 0) ∧
       t.tmp.otpCount = s.tmp.otpCount ∧ t.tmp.pending = s.tmp.pending ∧ t.tmp.stopped = true ∧
       (c = .mainStop ∨ c = .vholdShutdown 0 ∨ s.freezeDue = false → t.pwr.copyA = s.pwr.copyA ∧ t.pwr.copyB = s.pwr.copyB) ∧
       (s.freezeDue = true → s.pwr.single = false → (c = .vholdShutdown 1 → t.pwr.copyA = none ∧ t.pwr.copyB = s.pwr.copyB) ∧
         (c = .vholdShutdown 2 → t.pwr.copyB = none ∧ ∃ r, t.pwr.copyA = some r ∧ r.idx = s.pwr.w ∧ r.warning = true)) ∧
       t.pwr.epochs = s.pwr.epochs ∧ t.pwr.lastValid = true ∧ t.pwr.lastW = s.pwr.w ∧ t.pwr.lastEpoch = s.tb.epoch ∧ t.pwr.lastRecord = s.pwr.recDone ∧
       t.pwr.lastSrc = s.pwr.ewSrc ∧ t.pending = s.pending) ∧
  (∀ (a : Nat) (s : State), s.pwr.resetAt = some a → s.pwr.mainOn = true → s.inWarning = false → s.pwr.single = false →
     bit s.glb.lost islPower = false → (∀ u, u < 9 → (s.getUnit u).replay = none) → max a s.tally.replayAt + 512 ≤ s.tb.idx →
     let seq := s.pwr.warnSeq.getD ((max (recSeq s.pwr.copyA) (recSeq s.pwr.copyB) + 1) % 2 ^ 32)
     (∀ okB, ∃ t, exec (.fullReset false okB) s = .next t ∧ t.pwr.copyA = none ∧ t.pwr.warnSeq = some seq ∧ t.pwr.mainOn = true ∧
       t.pwr.resetAt = some a ∧ t.pwr.saveFail = true ∧ Logged (ent .saveFail s.now 0 [] s) t) ∧
     ∃ t r, exec (.fullReset true true) s = .next t ∧ t.pwr.copyA = some r ∧ t.pwr.copyB = some r ∧ r.idx = a ∧ r.warning = true ∧
       r.seq = seq ∧ t.tb = s.tb ∧ t.pwr.mainOn = false ∧ t.pwr.resetting = true ∧
       t.pwr.resetAt = none ∧ t.glb.lock = 0 ∧ t.glb.linkLock = 0 ∧ t.port = [] ∧ t.ring = [] ∧ t.head = [] ∧ t.stair = {} ∧
       t.pulse = {} ∧ t.spec = {} ∧ t.ev = {} ∧ t.red = {} ∧ t.host = {} ∧ t.plan = { flash := s.plan.flash } ∧
       t.cal = { store := s.cal.store } ∧ t.role.otp = s.role.otp ∧ t.role.makers = s.role.makers ∧ t.role.sealed = s.role.sealed ∧
       (∀ p, (t.getRolePort p).role = 0) ∧ (∀ g, g < 8 → g ≠ 3 → (t.getGal g).power = .clearing ∧ (t.getGal g).mem = []) ∧
       (galKept (s.getGal 3).power = true → galKept (t.getGal 3).power = true) ∧
       t.tmp.otpCount = s.tmp.otpCount ∧ t.pending = s.pending)


/-! ## Chapter 3: ports and rings -/

namespace Sys2Proof.Cert

/-- The link island of port k runs, its ring is declared, it is not retired, and its receiver is not powered down (R104). -/
def PortServes (s : State) (k : Nat) : Prop := s.linkUp (k / 2) = true ∧ s.portLive k = true ∧ s.rxOff k = false

/-- Only port k changes, to `x`. -/
def PortBecomes (k : Nat) (x : Port) (s t : State) : Prop :=
  t.getPort k = x ∧ (∀ j, j ≠ k → t.getPort j = s.getPort j) ∧ t = { s with port := t.port }

/-- Ring r becomes `x`, and no other ring changes. -/
def RingIs (r : Nat) (x : Ring) (s t : State) : Prop := t.getRing r = x ∧ ∀ q, q ≠ r → t.getRing q = s.getRing q

/-- A code that is not always logged is sent while its channel holds fewer than 28 entries (R468). -/
def LoggedIfRoom (e : LogEnt) (s t : State) : Prop := (s.getLogSrc (troubleChan (e.code / 256))).chan.length < 28 → Logged e t

/-- The lane of a cell of ring r. -/
def lane (s : State) (r c : Nat) : CellLane := tget {} (s.getRing r).cells c

/-- R83 step 2 and R85: ring r has been enumerated: two HOP values that differ keep it in ENUM; else it goes on to MEASURE, each head of
the plan that answered is JOINING and each that did not is ABSENT, and cell 0 carries the reads, one for each hop, and the ASSIGN writes. -/
def Enumerated (r : Nat) (ids : List (Option (BitVec 64))) (s t : State) : Prop :=
  let w := s.getPort (2 * r)
  let e := s.getPort (2 * r + 1)
  (w.retired = false → e.retired = false → w.hop ≠ e.hop → s.loopedRing r = false →
    RingIs r { s.getRing r with st := .enum, enumFailAt := some s.tb.idx } s t ∧
    LoggedIfRoom (ent .ringEnumFail s.now r [] s) s t ∧ t = { s with ring := t.ring, log := t.log }) ∧
  (w.retired = false → e.retired = false → w.hop = e.hop → s.loopedRing r = false →
    RingIs r { s.getRing r with
      st := .measure, heads := min w.hop 128
      overfull := (s.getRing r).overfull || decide (128 < w.hop) || w.overfullRx || e.overfullRx
      hops := ids.take w.hop, enumFailAt := none, cells := (t.getRing r).cells } s t ∧
    (∃ l, (lane t r 0).waiting = (lane s r 0).waiting ++ (List.range w.hop).map identCell ++ l ∧
      ∀ q ∈ l, ∃ h hop, q = assignCell r h hop) ∧
    (∀ c, c ≠ 0 → lane t r c = lane s r c) ∧
    (∀ p, s.ringPlan r = some p →
      (planHeadsOn p r).Pairwise (fun a b => a.serial ≠ b.serial ∧ a.pos ≠ b.pos) →
      ∀ h ∈ planHeadsOn p r, (t.getHead (128 * r + h.pos)).st = (if some h.serial ∈ ids.take w.hop then .joining else .absent)) ∧
    ((∀ p, s.ringPlan r = some p → ∀ h ∈ planHeadsOn p r, h.pos < 128) → ∀ h, h / 128 ≠ r → t.getHead h = s.getHead h) ∧
    t = { s with ring := t.ring, head := t.head, log := t.log })

end Sys2Proof.Cert

/-- PORT_SIGNAL_DETECT, CLOCK_RECOVERY_LOCKED, PORT_SIGNAL_LOST, COMMA_MISSING and PORT_RETIRE: the receiver's states. R78: DOWN, SIGNAL
and BIT_LOCK follow one another; a lost signal leads to DOWN. R79: the fourth consecutive frame period without a comma ends FRAME_LOCK
for BIT_LOCK or DOWN, whichever still holds, and sets LOCK_LOST. R82: a port out of FRAME_LOCK for more than 384,000 ticks is
retired, which is logged; R501: with both ports retired the ring is in service no more. -/
def Obligations.PortReceiverStates : Prop :=
  (∀ (k : Fin 64) (s : State), PortServes s k → (s.getPort k).rx = .down →
    ∃ t, exec (.portSignalDetect k) s = .next t ∧ PortBecomes k { s.getPort k with rx := .signal, signal := true } s t) ∧
  (∀ (k : Fin 64) (s : State), PortServes s k → (s.getPort k).rx = .signal →
    ∃ t, exec (.clockRecoveryLocked k) s = .next t ∧
      PortBecomes k { s.getPort k with rx := .bitLock, cdr := true, commaRun := 0, lastArr := none } s t) ∧
  (∀ (k : Fin 64) (s : State), PortServes s k → (s.getPort k).rx ≠ .frameLock →
    ∃ t, exec (.portSignalLost k) s = .next t ∧
      PortBecomes k { s.getPort k with rx := .down, signal := false, cdr := false } s t) ∧
  (∀ (k : Fin 64) (s : State), PortServes s k → (s.getPort k).rx = .frameLock →
    ∃ t, exec (.portSignalLost k) s = .next t ∧ (t.getPort k).rx = .down ∧ (t.getPort k).lockLost = true ∧
      (t.getPort k).lockAt = s.tb.idx ∧ (∀ j, j ≠ k.val → t.getPort j = s.getPort j) ∧
      LoggedIfRoom (ent .lnkLockLost s.now k [(8, s.tb.idx)] s) s t ∧ t = { s with port := t.port, log := t.log }) ∧
  (∀ (k : Fin 64) (s : State), PortServes s k → (s.getPort k).rx = .frameLock →
    ∃ t, exec (.commaMissing k) s = .next t ∧ (t.getPort k).frameErr = min 0xFFFF ((s.getPort k).frameErr + 1) ∧
      (t.getPort k).expIdx = (s.getPort k).expIdx + 1 ∧
      ((s.getPort k).badRun < 3 → (t.getPort k).rx = .frameLock ∧ (t.getPort k).badRun = (s.getPort k).badRun + 1 ∧ t.log = s.log) ∧
      (3 ≤ (s.getPort k).badRun → (t.getPort k).rx = (if (s.getPort k).cdr then .bitLock else .down) ∧ (t.getPort k).lockLost = true ∧
        LoggedIfRoom (ent .lnkLockLost s.now k [(8, s.tb.idx)] s) s t) ∧
      (∀ j, j ≠ k.val → t.getPort j = s.getPort j) ∧ t = { s with port := t.port, log := t.log }) ∧
  (∀ (k : Fin 64) (s : State), PortServes s k → (s.getPort k).rx = .bitLock ∨ (s.getPort k).rx = .charAlign →
    ∃ t, exec (.commaMissing k) s = .next t ∧
      PortBecomes k { s.getPort k with commaRun := 0, goodRun := 0, lastArr := none } s t) ∧
  (∀ (k : Fin 64) (s : State), PortServes s k → (s.getRing (k / 2)).st ≠ .shed → (s.getPort k).rx ≠ .frameLock →
    (s.getPort k).lockAt + 384000 < s.tb.idx →
    ∃ t, exec (.portRetire k) s = .next t ∧
      t.getPort k = { s.getPort k with retired := true, rx := .down, signal := false, cdr := false, lastLooped := false } ∧
      (∀ j, j ≠ k.val → t.getPort j = s.getPort j) ∧
      Logged (ent .portRetired s.now k [(1, 0), (4, min (s.tb.idx - (s.getPort k).lockAt) 0xFFFFF)] s) t ∧
      (let other := if k.val % 2 = 0 then k.val + 1 else k.val - 1
       ((s.getPort other).retired = false → t.ring = s.ring) ∧
       ((s.getPort other).retired = true → (t.getRing (k / 2)).st = .train ∧ (t.getRing (k / 2)).runFrame = none)) ∧
      (∀ q, q ≠ k.val / 2 → t.getRing q = s.getRing q) ∧ t = { s with port := t.port, ring := t.ring, log := t.log })

/-- FRAME_RECEIVE. R78: the third comma at the frame spacing leads from BIT_LOCK to CHAR_ALIGN, and the fourth consecutive good frame
from CHAR_ALIGN to FRAME_LOCK. R79: in FRAME_LOCK a good frame moves the expected index on; a frame whose FCS_CTL fails is counted and
is a bad frame period. R90: while the ring is in service, the slots of a frame whose index has not been released are kept, graded by
R75. A port that is OFF takes nothing. -/
def Obligations.FrameReceptionAndLock : Prop :=
  (∀ (k : Fin 64) (arr ce : Nat) (cs : List Chr) (s : State), s.linkUp (k / 2) = true → s.portLive k = false →
    exec (.frameReceive k arr ce cs) s = .next s) ∧
  (∀ (k : Fin 64) (arr ce : Nat) (cs : List Chr) (s : State), PortServes s k → (frameHdr cs).comma = true →
    ((s.getPort k).rx = .bitLock → (s.getPort k).commaRun = 2 → samePhase (s.getPort k) arr = true →
      ∃ t, exec (.frameReceive k arr ce cs) s = .next t ∧ PortBecomes k { s.getPort k with
        rx := .charAlign, commaRun := 3, goodRun := 0, lastArr := some arr, codeErr := min 0xFFFF ((s.getPort k).codeErr + ce) } s t) ∧
    ((s.getPort k).rx = .charAlign → (s.getPort k).goodRun = 3 → (frameHdr cs).ctlOk = true → (frameHdr cs).rid = k.val / 2 →
      (frameHdr cs).looped = false → (frameHdr cs).dir = (if k.val % 2 = 0 then kWest else kEast) →
      (frameHdr cs).idx = (s.getPort k).expIdx % 2 ^ 48 →
      ∃ t, exec (.frameReceive k arr ce cs) s = .next t ∧ (t.getPort k).rx = .frameLock ∧
        (t.getPort k).expIdx = (frameHdr cs).idx + 1 ∧ (∀ j, j ≠ k.val → t.getPort j = s.getPort j) ∧ t = { s with port := t.port }) ∧
    ((s.getPort k).rx = .frameLock → samePhase (s.getPort k) arr = true → (frameHdr cs).ctlOk = true →
      (frameHdr cs).rid = k.val / 2 → (frameHdr cs).idx = (s.getPort k).expIdx % 2 ^ 48 → (frameHdr cs).looped = false →
      (frameHdr cs).backfill = false →
      ∃ t, exec (.frameReceive k arr ce cs) s = .next t ∧ (t.getPort k).rx = .frameLock ∧ (t.getPort k).badRun = 0 ∧
        (t.getPort k).expIdx = (s.getPort k).expIdx + 1 ∧ (t.getPort k).frameErr = (s.getPort k).frameErr ∧
        (t.getPort k).hop = (frameHdr cs).hop ∧ (∀ j, j ≠ k.val → t.getPort j = s.getPort j) ∧
        (∀ f, (s.getRing (k / 2)).st = .run → (s.getRing (k / 2)).runFrame = some f → f ≤ (s.getPort k).expIdx →
          (s.getRing (k / 2)).k + (s.getRing (k / 2)).nextRel ≤ (s.getPort k).expIdx →
          (t.getRing (k / 2)).copies = (s.getRing (k / 2)).copies ++ [{
            frame := (s.getPort k).expIdx, east := decide (k.val % 2 = 1), arrival := arr, looped := false,
            slots := frameSlots (s.getPort k).expIdx (frameHdr cs).slotOk cs }]) ∧
        (∀ q, q ≠ k.val / 2 → t.getRing q = s.getRing q) ∧ t = { s with port := t.port, ring := t.ring }) ∧
    ((s.getPort k).rx = .frameLock → samePhase (s.getPort k) arr = true → (frameHdr cs).ctlOk = false → (s.getPort k).badRun < 3 →
      ∃ t, exec (.frameReceive k arr ce cs) s = .next t ∧ (t.getPort k).rx = .frameLock ∧
        (t.getPort k).badRun = (s.getPort k).badRun + 1 ∧ (t.getPort k).expIdx = (s.getPort k).expIdx + 1 ∧
        (t.getPort k).fcsCtlFail = min 0xFF ((s.getPort k).fcsCtlFail + 1) ∧
        (t.getPort k).frameErr = min 0xFFFF ((s.getPort k).frameErr + 1) ∧
        (∀ j, j ≠ k.val → t.getPort j = s.getPort j) ∧ t = { s with port := t.port, ring := t.ring }))

/-- RING_ENUM and RING_ENUM_RETRY. R83 step 2: once step 1 has ended, or 38,400 ticks after an enumeration that failed, the ring is
enumerated.

RING_MEASURE_CYCLE, RING_WAITS and RING_RUN: steps 3 to 5 of R83. R88: outside a wrap D is the sum of the two arrivals, and a head's
delays are (D ∓ Δ)/2. R70: a ring longer than 96 ticks either way returns to TRAIN. R60: in service a measurement sends the waits of R58 to every admitted
head whose rounded waits differ from those it confirmed last, and those stay in force. R86: K_r is the smallest lag that lets every head
insert in time, and step 4 reads every head's modulator delays (R117) and sends it its waits, which hold them (R116), its gains and its
trims, all for one frame. R83 step 5: once every head has answered, the ring is in RUN
from the frame named, or in WRAP where it has trained in one, and a broadcast for that frame asks for cell 0. -/
def Obligations.RingEnumeratesMeasuresAndRuns : Prop :=
  (∀ (c : Instr) (r : Fin 32) (ids : List (Option (BitVec 64))) (s : State), s.linkUp r = true →
     ((c = .ringEnum r ids ∧ (s.getRing r).st = .train ∧ s.trained r = true) ∨
       (c = .ringEnumRetry r ids ∧ (s.getRing r).st = .enum ∧ ∃ f, (s.getRing r).enumFailAt = some f ∧ f + 38400 ≤ s.tb.idx)) →
     ∃ t, exec c s = .next t ∧ Enumerated r ids s t) ∧
  ((∀ (r : Fin 32) (ds : List (Fin 128 × Int)) (s : State), s.linkUp r = true → s.loopedRing r = false →
     let de := s.arrOf (2 * r + 1)
     let dw := s.arrOf (2 * r)
     ((s.getRing r).st = .measure → (96 * 10240 * 256 < de ∨ 96 * 10240 * 256 < dw) →
       ∃ t, exec (.ringMeasureCycle r ds) s = .next t ∧
         RingIs r { s.getRing r with st := .train, de := de, dw := dw, d := de + dw } s t ∧ t = { s with ring := t.ring, log := t.log }) ∧
     ((s.getRing r).st = .measure → de ≤ 96 * 10240 * 256 → dw ≤ 96 * 10240 * 256 →
       ∃ t, exec (.ringMeasureCycle r ds) s = .next t ∧ (t.getRing r).st = .waits ∧ (t.getRing r).d = de + dw ∧
         (t.getRing r).measAt = some s.tb.idx ∧ (∀ q, q ≠ r.val → t.getRing q = s.getRing q) ∧
         ((ds.map Prod.fst).Nodup → ∀ e ∈ ds,
           (t.getHead (128 * r + e.1)).delta = e.2 ∧ (t.getHead (128 * r + e.1)).dw = ((de + dw : Nat) : Int) - 512 * e.2 ∧
           (t.getHead (128 * r + e.1)).de = ((de + dw : Nat) : Int) + 512 * e.2) ∧
         (∀ h, h / 128 ≠ r.val → t.getHead h = s.getHead h) ∧ t = { s with ring := t.ring, head := t.head, log := t.log }) ∧
     ((s.getRing r).st = .run →
       ∃ t, exec (.ringMeasureCycle r ds) s = .next t ∧ (t.getRing r).st = .run ∧ (t.getRing r).k = (s.getRing r).k ∧
         (t.getRing r).measAt = some s.tb.idx ∧
         (∀ p, p < 128 → (s.getHead (128 * r + p)).st = .admitted →
           let h := t.getHead (128 * r + p)
           h.timing = (s.getHead (128 * r + p)).timing ∧
           (headWaits h ≠ h.lastWaits → ∃ a, s.tb.idx + 112 + 1024 ≤ a ∧ waitsCell r p a h ∈ (lane t r 0).waiting)) ∧
         (∀ h, h / 128 ≠ r.val → t.getHead h = s.getHead h) ∧ t = { s with ring := t.ring, head := t.head, log := t.log })) ∧
   (∀ (r : Fin 32) (mods : List (Fin 128 × BitVec 17 × BitVec 17)) (s : State), s.linkUp r = true → (s.getRing r).st = .waits →
     ∃ t, exec (.ringWaits r mods) s = .next t ∧ (t.getRing r).waitsDone = true ∧ (t.getRing r).st = .waits ∧
       (∀ p ∈ s.ringPos r, (112 * 10240 + 4096) * 1024 ≤
         (t.getRing r).k * (10240 * 1024) + (min (s.getHead (128 * r + p)).dw (s.getHead (128 * r + p)).de).toNat) ∧
       (∀ k, k < (t.getRing r).k → s.ringPos r ≠ [] → ∃ p ∈ s.ringPos r,
         k * (10240 * 1024) + (min (s.getHead (128 * r + p)).dw (s.getHead (128 * r + p)).de).toNat < (112 * 10240 + 4096) * 1024) ∧
       ((mods.map Prod.fst).Nodup → ∀ e ∈ mods, t.getHead (128 * r + e.1) =
         { s.getHead (128 * r + e.1) with modP := e.2.1.toNat, modA := e.2.2.toNat }) ∧
       (∀ h, (∀ e ∈ mods, h ≠ 128 * r.val + e.1.val) → t.getHead h = s.getHead h) ∧
       s.tb.idx + 112 + 1024 ≤ (t.getRing r).waitsFor ∧
       (∀ p ∈ s.ringPos r, modCell r p ∈ (lane t r 0).waiting ∧
         waitsCell r p (t.getRing r).waitsFor (t.getHead (128 * r + p)) ∈ (lane t r 0).waiting ∧
         ∀ ph, s.planHead (128 * r + p) = some ph →
           ∃ w, settingsCell (128 * r + p) (t.getRing r).waitsFor ph w ∈ (lane t r 0).waiting) ∧
       (∀ q, q ≠ r.val → t.getRing q = s.getRing q) ∧ t = { s with ring := t.ring, head := t.head }) ∧
   (∀ (r : Fin 32) (f : Nat) (s : State), s.linkUp r = true → (s.getRing r).st = .waits → s.waitsHeld r = true →
     ∃ t, exec (.ringRun r f) s = .next t ∧ (t.getRing r).st = (if s.loopedRing r then .wrap else .run) ∧
       (t.getRing r).runFrame = some f ∧ (t.getRing r).k = (s.getRing r).k ∧ (t.getRing r).nextRel = (s.getRing r).nextRel ∧
       (∃ q, (lane t r 0).waiting = (lane s r 0).waiting ++ [q] ∧ q.use = .broadcast ∧ q.at_ = f) ∧
       (∀ q, q ≠ r.val → t.getRing q = s.getRing q) ∧ t = { s with ring := t.ring, fresh := t.fresh }))

/-- SLOT_RELEASE and HOLD_TIMEOUT. R91, R92: an index whose copies have arrived, or whose deadline is reached, is delivered to the
staircase: its 128 slots enter the channel in the order of their positions, and the next index is the next to be graded. R92: in a wrap
an index with a hole is held instead, and a held index is delivered 384 ticks after its deadline at the latest. A position without a
declared head delivers ABSENT, or RETIRED for a stream that is (R112). R92, R501: an index is held only from the first that the ring
carries on. That a ring whose link island has lost its clock releases its slots as missing is the model's
reading (log entry 102). -/
def Obligations.SlotReleaseOrder : Prop :=
  (∀ (r : Fin 32) (s : State), (s.getRing r).held = [] → s.gradable r = false →
    exec (.slotRelease r) s = .next s) ∧
  (∀ (r : Fin 32) (s : State), s.linkUp r = true ∨ s.linkGone r = true → (s.getRing r).held = [] → s.gradable r = true →
    (s.getRing r).chan.length ≤ 128 →
    (s.getRing r).st ≠ .wrap →
    ∃ t, exec (.slotRelease r) s = .next t ∧ (t.getRing r).nextRel = (s.getRing r).nextRel + 1 ∧ (t.getRing r).held = [] ∧
      ∃ l, (t.getRing r).chan = (s.getRing r).chan ++ l ∧
        l.map (fun e => (e.idx, e.pos)) = (List.range 128).map (fun p => ((s.getRing r).nextRel, p)) ∧
        (∀ e ∈ l, (s.getHead (128 * r + e.pos)).st = .notDeclared → e.codeP = 0 ∧ e.codeA = 0 ∧
          e.clsP = (if (s.getHead (128 * r + e.pos)).retP then 6 else 5) ∧ e.clsA = (if (s.getHead (128 * r + e.pos)).retA then 6 else 5)) ∧
        (∀ q, q ≠ r.val → t.getRing q = s.getRing q) ∧
        t = { s with glb := t.glb, port := t.port, ring := t.ring, head := t.head, headAcc := t.headAcc, stair := t.stair, red := t.red,
                     lc := t.lc, cal := t.cal, host := t.host, log := t.log }) ∧
  (∀ (r : Fin 32) (s : State), s.linkUp r = true ∨ s.linkGone r = true → (s.getRing r).held = [] → s.gradable r = true →
    (s.getRing r).st = .wrap → (∃ f, (s.getRing r).runFrame = some f ∧ f ≤ (s.getRing r).nextRel + (s.getRing r).k) →
    hasHole (gradeNext r s).1.slots = true →
    ∃ t, exec (.slotRelease r) s = .next t ∧ (t.getRing r).nextRel = (s.getRing r).nextRel + 1 ∧
      (t.getRing r).held = [(gradeNext r s).1] ∧ (t.getRing r).chan = (s.getRing r).chan ∧ t = { s with ring := t.ring, port := t.port }) ∧
  (∀ (r : Fin 32) (e : HeldIdx) (rest : List HeldIdx) (s : State), s.linkUp r = true ∨ s.linkGone r = true →
    (s.getRing r).held = e :: rest →
    e.slots.length = 128 → e.due + 384 ≤ s.tb.idx → (s.getRing r).chan.length ≤ 128 →
    ∃ t, exec (.holdTimeout r) s = .next t ∧ (t.getRing r).held = rest ∧ (t.getRing r).nextRel = (s.getRing r).nextRel ∧
      ∃ l, (t.getRing r).chan = (s.getRing r).chan ++ l ∧
        l.map (fun x => (x.idx, x.pos)) = (List.range 128).map (fun p => (e.idx, p)) ∧
        t = { s with glb := t.glb, ring := t.ring, head := t.head, headAcc := t.headAcc, stair := t.stair, red := t.red,
                     lc := t.lc, cal := t.cal, host := t.host, log := t.log })

/-- MAILBOX_CELL_SEND, CELL_REPLY and CELL_NO_REPLY. R96: one request of each cell leaves in a frame, 112 ticks ahead of the frame's
instant (R57), under the ring's next SEQ and with its CCRC (R93). R95: a reply with a correct CCRC and RESP not 0 answers the cell of its SEQ; without one the
cell is repeated up to 3 times, and then HEAD_NO_ANSWER is logged. R119: a poll's reply is mirrored into HEAD_HEALTH; R118, R119: a
head that stops answering its polls is ABSENT and HEAD_HEALTH.VALID is cleared. R60: waits that a head has accepted are in force from the
index of their write on. R105: the maker's raw cell shows its reply.

RING_CMD_GO, RING_UNWRAP and RING_RESTORED. R105, R96: GO of RING_CMD, by the maker, asks for the raw cell in cell 3, unless one is
under way. R101, R102: with RESTORE_SEEN held for 384,000 ticks by every turning head the wrap ends at a frame at least 192 ahead, which a broadcast tells the
heads, and from which each times itself from the direction that R59 gives; with the ring full again and a measurement since, the ring
returns to RUN, and RING_RESTORED is logged. -/
def Obligations.CellsRingCommandsAndUnwrap : Prop :=
  ((∀ (r : Fin 32) (c : Fin 4) (q : CellReq) (rest : List CellReq) (s : State), s.linkUp r = true → (s.getRing r).st = .run →
     (lane s r c).waiting = q :: rest → (∀ h off, q.use ≠ .change h off) → s.cellTaken r c = false →
     let seq := (s.getRing r).seq
     let chars := stampCell seq q.chars
     ∃ t o, exec (.mailboxCellSend r c) s = .next t ∧
       lane t r c = { waiting := rest, fly := (lane s r c).fly ++ (if q.use = .broadcast then []
         else [{ req := { q with chars := chars }, frame := s.tb.idx + 112, seq := seq }]) } ∧
       (∀ d, d ≠ c.val → lane t r d = lane s r d) ∧ o.frame = s.tb.idx + 112 ∧ o.cell c = chars ∧
       RingIs r { s.getRing r with
         seq := (seq + 1) % 256, out := some o, cells := (t.getRing r).cells
         cmdCell := if q.use = .maker then BitVec.ofNat 256 (leNat chars) else (s.getRing r).cmdCell } s t ∧ t = { s with ring := t.ring }) ∧
   (∀ (r : Fin 32) (c : Fin 4) (f : CellFly) (chars : List Byte) (s : State), s.linkUp r = true →
     (lane s r c).fly.find? (fun x => x.seq == (chars.getD 2 0).toNat) = some f → cellAnswers chars = true →
     ∃ t, exec (.cellReply r c chars) s = .next t ∧
       lane t r c = { lane s r c with fly := (lane s r c).fly.filter (fun x => x.seq != (chars.getD 2 0).toNat) } ∧
       (f.req.use = .maker → (t.getRing r).cmdGo = false ∧ (t.getRing r).cmdResp = (chars.getD 26 0).toNat ∧
         (t.getRing r).cmdReply = BitVec.ofNat 256 (leNat chars) ∧ t = { s with ring := t.ring }) ∧
       (∀ h, f.req.use = .health h → (chars.getD 26 0) = 1 →
         (t.getHead h).health = BitVec.ofNat 32 (leNat ((chars.drop 10).take 4)) ∧ (t.getHead h).valid = true ∧
         (∀ g, g ≠ h → t.getHead g = s.getHead g) ∧ t = { s with ring := t.ring, head := t.head, log := t.log }) ∧
       (∀ p, f.req.use = .accRead p → (t.getHeadAcc p).busy = false ∧ (t.getHeadAcc p).resp = (chars.getD 26 0).toNat ∧
         (∀ q, q ≠ p → t.getHeadAcc q = s.getHeadAcc q) ∧ t = { s with ring := t.ring, headAcc := t.headAcc }) ∧
       (∀ h dw de, f.req.use = .waits h dw de → (chars.getD 26 0) = 2 → s.tb.idx < f.req.at_ + 400000 →
         let g := (t.getHead h).timingAt f.req.at_
         g.waits = (cellData f.req.chars).map BitVec.toNat ∧ g.dw = dw ∧ g.de = de ∧ (∀ j, j ≠ h → t.getHead j = s.getHead j) ∧
         t = { s with ring := t.ring, head := t.head })) ∧
   (∀ (r : Fin 32) (c : Fin 4) (f : CellFly) (rest : List CellFly) (s : State), s.linkUp r = true → (lane s r c).fly = f :: rest →
     (f.req.tries < 3 → (∀ h off, f.req.use ≠ .change h off) → (∀ p, f.req.use = .accRead p → c = 2) →
       ∃ t, exec (.cellNoReply r c) s = .next t ∧
         lane t r c = { waiting := { f.req with tries := f.req.tries + 1 } :: (lane s r c).waiting, fly := rest } ∧
         RingIs r { s.getRing r with cells := (t.getRing r).cells } s t ∧ t = { s with ring := t.ring }) ∧
     (3 ≤ f.req.tries →
       (f.req.use = .maker →
         ∃ t, exec (.cellNoReply r c) s = .next t ∧ (t.getRing r).cmdGo = false ∧ (t.getRing r).cmdNoAns = true ∧
           (lane t r c).fly = rest ∧ t = { s with ring := t.ring, log := t.log }) ∧
       (∀ h, f.req.use = .health h → h / 128 = r.val →
         ∃ t, exec (.cellNoReply r c) s = .next t ∧ (t.getHead h).st = .absent ∧ (t.getHead h).valid = false ∧
           (t.getHead h).queue = [] ∧ (∀ g, g ≠ h → t.getHead g = s.getHead g) ∧
           LoggedIfRoom (ent .headNoAnswer s.now h [(1, h % 128)] s) s t ∧
           t = { s with ring := t.ring, head := t.head, headAcc := t.headAcc, red := t.red, log := t.log })))) ∧
  ((∀ (p : Fin 4) (r : Fin 32) (s : State), MayAct s p 3 (100 + r) → (s.glb.half = true → r.val < 16) → (s.getRing r).cmdGo = false →
     ∃ t u, exec (.ringCmdGo p r) s = .next t ∧ (u.getRing r).cmdGo = true ∧ (u.getRing r).cmdNoAns = false ∧ (u.getRing r).cmdResp = 0 ∧
       (lane u r 3).waiting = (lane s r 3).waiting ++ [{ use := .maker, chars := leBytes 32 (s.getRing r).cmdCell.toNat }] ∧
       (∀ c, c ≠ 3 → lane u r c = lane s r c) ∧ (∀ q, q ≠ r.val → u.getRing q = s.getRing q) ∧ u = { s with ring := u.ring } ∧
       Audited p (0x020460 + 0x1000 * r) (ringRead s r 0x60) 1 s u t) ∧
   (∀ (r : Fin 32) (f : Nat) (s : State), s.linkUp r = true → (s.getRing r).st = .wrap → (s.getRing r).fu = none →
     let turns := fun (k : Nat) => (s.getPort k).retired = false ∧
       ((k = 2 * r.val ∧ (s.getRing r).westHead ≠ 255) ∨ (k = 2 * r.val + 1 ∧ (s.getRing r).eastHead ≠ 255))
     (∃ k, turns k) → (∀ k, turns k → ∃ a, (s.getPort k).restoreAt = some a ∧ a + 384000 ≤ s.tb.idx) →
     s.tb.idx + 112 + 192 ≤ f →
     ∃ t, exec (.ringUnwrap r f) s = .next t ∧ RingIs r { s.getRing r with fu := some f, cells := (t.getRing r).cells } s t ∧
       (∃ q, (lane t r 0).waiting = (lane s r 0).waiting ++ [q] ∧ q.use = .broadcast ∧ q.at_ = f) ∧
       (∀ p ∈ s.listedPos r, ((t.getHead (128 * r + p)).timingAt f).east = timesEast (s.getHead (128 * r + p)).lastWaits) ∧
       (∀ h, h / 128 ≠ r.val → t.getHead h = s.getHead h) ∧ t = { s with ring := t.ring, head := t.head, fresh := t.fresh }) ∧
   (∀ (r : Fin 32) (f m : Nat) (s : State), s.linkUp r = true → (s.getRing r).st = .wrap → (s.getRing r).fu = some f →
     (s.getRing r).measAt = some m → f ≤ m → s.loopedRing r = false →
     ∃ t, exec (.ringRestored r) s = .next t ∧
       RingIs r { s.getRing r with st := .run, fu := none, turned := none, eastHead := 255, westHead := 255 } s t ∧
       (∀ p ∈ s.listedPos r, t.getHead (128 * r + p) = { s.getHead (128 * r + p) with half := none }) ∧
       (∀ h, h / 128 ≠ r.val → t.getHead h = s.getHead h) ∧
       LoggedIfRoom (ent .ringRestored s.now r [] s) s t ∧ t = { s with ring := t.ring, head := t.head, log := t.log }))

/-! ## Chapter 4: heads -/

/-- HEAD_ADMIT and HEAD_REJOIN. R117: a head with the identity of its plan entry is admitted from A0 with the plan's gains and, where the
calibration store holds nothing for it, the plan's trims; A0 is a change index of both detectors (R120), and from A0 on its waits are those
of R58: on a ring in training those that RING_WAITS sent for A0 (R60), on a ring in service those that a cell sends now. The gains in force stay until the slot of A0 is delivered (R126). R118: a head that returns is admitted in the same way and counted
in REJOINS. R85: a head with another identity is ABSENT, and HEAD_ABSENT is logged where the channel has room. -/
def Obligations.HeadAdmissionAndRejoin : Prop :=
  ∀ (c : Instr) (h : Fin 4096) (id : HeadIdent) (a0 : Nat) (ph : PlanHead) (s : State), s.linkUp (h / 128) = true →
    s.planHead h = some ph → (s.getRing (h / 128)).nextRel ≤ a0 →
    ((c = .headAdmit h id a0 ∧ (s.getHead h).st = .joining ∧
        (((s.getRing (h / 128)).st = .waits ∧ (s.getRing (h / 128)).waitsDone = true ∧ (s.getRing (h / 128)).waitsFor = a0) ∨
        (((s.getRing (h / 128)).st = .run ∨ (s.getRing (h / 128)).st = .wrap) ∧ 0 ≤ s.dragMargin h))) ∨
      (c = .headRejoin h id a0 ∧ (s.getHead h).st = .absent ∧
        ((s.getRing (h / 128)).st = .run ∨ (s.getRing (h / 128)).st = .wrap))) →
    (id.serial = ph.serial →
      ∃ t, exec c s = .next t ∧ (t.getHead h).st = .admitted ∧ (t.getHead h).a0 = some a0 ∧ (t.getHead h).serial = ph.serial ∧
        (t.getHead h).typ = id.hidType.toNat / 2 ^ 24 ∧ (t.getHead h).modP = id.modP.toNat ∧ (t.getHead h).modA = id.modA.toNat ∧
        (t.getHead h).gainNext = some (ph.gainP, ph.gainA) ∧ (t.getHead h).gainP = (s.getHead h).gainP ∧
        (t.getHead h).gainA = (s.getHead h).gainA ∧ (t.getHead h).chgP = some a0 ∧ (t.getHead h).chgA = some a0 ∧
        (t.getHead h).dw = (s.getHead h).dw ∧ (t.getHead h).de = (s.getHead h).de ∧
        (s.tb.idx < a0 + 400000 → ((t.getHead h).timingAt a0).waits = headWaits (t.getHead h)) ∧
        (s.cal.store.find? (fun e => e.1 == h.val) = none → (t.getHead h).trimP = ph.trimP ∧ (t.getHead h).trimA = ph.trimA) ∧
        (t.getHead h).rejoins = (if c = .headRejoin h id a0 then min 0xFF ((s.getHead h).rejoins + 1) else (s.getHead h).rejoins) ∧
        ((s.getRing (h / 128)).st ≠ .waits → modCell (h / 128) (h % 128) ∈ (lane t (h / 128) 0).waiting ∧
          waitsCell (h / 128) (h % 128) a0 (t.getHead h) ∈ (lane t (h / 128) 0).waiting ∧
          ∃ w, settingsCell h a0 ph w ∈ (lane t (h / 128) 0).waiting) ∧
        (∀ g, g ≠ h.val → t.getHead g = s.getHead g) ∧
        t = { s with ring := t.ring, head := t.head, lc := t.lc, cal := t.cal, host := t.host, log := t.log, fresh := t.fresh }) ∧
    (id.serial ≠ ph.serial →
      ∃ t, exec c s = .next t ∧ t.getHead h = { s.getHead h with st := .absent } ∧ (∀ g, g ≠ h.val → t.getHead g = s.getHead g) ∧
        ((s.getLogSrc (troubleChan 3)).chan.length < 27 → Logged (ent .headAbsent s.now h [] s) t) ∧ t = { s with head := t.head, log := t.log })

/-- HEALTH_POLL, HEAD_ACC_READ, HEAD_ACC_WRITE and CHANGE_QUEUE_PLACE. R119: a poll of an admitted head asks for HEALTH through cell 1.
R126: GO of a port's own mailbox asks for a register of an admitted head through cell 2, or puts a gain change of an installer or maker
into the head's queue of four (R122); a head that is not admitted, a full queue and a role that may not write end it at once with their
results. R122: a change of the PX-64 itself that waited takes the place that has become free. -/
def Obligations.HeadRequestsAndChanges : Prop :=
  (∀ (h : Fin 4096) (s : State), s.stewUp = true → (s.getHead h).st = .admitted →
    ∃ t, exec (.healthPoll h) s = .next t ∧
      lane t (h / 128) 1 = { lane s (h / 128) 1 with waiting := (lane s (h / 128) 1).waiting ++
        [{ use := .health h, chars := cellChars (h % 128) 1 1 0x50 0 [] 0 }] } ∧
      (∀ c, c ≠ 1 → lane t (h / 128) c = lane s (h / 128) c) ∧
      RingIs (h / 128) { s.getRing (h / 128) with cells := (t.getRing (h / 128)).cells } s t ∧ t = { s with ring := t.ring }) ∧
  (∀ (p : Fin 4) (s : State), MayAct s p 1 islSteward → (s.getHeadAcc p).busy = false → (s.getHeadAcc p).head < s.headCount →
    (s.getHeadAcc p).len < 4 →
    let a := s.getHeadAcc p
    ((s.getHead a.head).st = .admitted →
      ∃ t, exec (.headAccRead p) s = .next (wordDone p t) ∧ t.getHeadAcc p = { a with op := 1, busy := true, resp := 0 } ∧
        (lane t (a.head / 128) 2).waiting = (lane s (a.head / 128) 2).waiting ++
          [{ use := .accRead p, chars := cellChars (a.head % 128) 1 (a.len + 1) a.reg 0 [] 0 }] ∧
        (∀ q, q ≠ p.val → t.getHeadAcc q = s.getHeadAcc q) ∧ t = { s with headAcc := t.headAcc, ring := t.ring }) ∧
    ((s.getHead a.head).st ≠ .admitted →
      ∃ t, exec (.headAccRead p) s = .next (wordDone p t) ∧ t.getHeadAcc p = { a with op := 1, busy := false, result := 7, resp := 0 } ∧
        t = { s with headAcc := t.headAcc })) ∧
  (∀ (p : Fin 4) (s : State), MayAct s p 1 islSteward → (s.getHeadAcc p).busy = false → (s.getHeadAcc p).head < s.headCount →
    (s.getHeadAcc p).len = 0 → (s.getHeadAcc p).reg = 0x20 ∨ (s.getHeadAcc p).reg = 0x21 →
    let a := s.getHeadAcc p
    let x := s.getHead a.head
    let c : Change := { reg := a.reg, value := a.data.getD 0 0, force := a.force, asker := .host p (s.getRolePort p).role }
    (2 ≤ (s.getRolePort p).role → x.st = .admitted → x.queue.length < 4 → (a.force = true ∨ x.partnerDown (a.reg == 0x21) = false) →
      ∃ t, exec (.headAccWrite p) s = .next (wordDone p t) ∧ t.getHeadAcc p = { a with op := 2, busy := true, resp := 0 } ∧
        t.getHead a.head = { x with queue := x.queue ++ [c] } ∧ (∀ g, g ≠ a.head → t.getHead g = s.getHead g) ∧
        (lane t (a.head / 128) 2).waiting = (lane s (a.head / 128) 2).waiting ++ [{ use := .change a.head false, chars := [] }] ∧
        t = { s with headAcc := t.headAcc, ring := t.ring, head := t.head }) ∧
    (∀ e, (e = 4 ∧ (s.getRolePort p).role = 1) ∨ (e = 7 ∧ 2 ≤ (s.getRolePort p).role ∧ x.st ≠ .admitted) ∨
        (e = 6 ∧ 2 ≤ (s.getRolePort p).role ∧ x.st = .admitted ∧ a.force = true ∧ 4 ≤ x.queue.length) →
      ∃ t, exec (.headAccWrite p) s = .next (wordDone p t) ∧ t.getHeadAcc p = { a with op := 2, busy := false, result := e, resp := 0 } ∧
        t = { s with headAcc := t.headAcc })) ∧
  (∀ (h : Fin 4096) (c : Change) (s : State), s.stewUp = true → (s.getHead h).waiting = [c] → (s.getHead h).queue.length < 4 →
    ∃ t, exec (.changeQueuePlace h) s = .next t ∧ (t.getHead h).waiting = [] ∧ (t.getHead h).queue = (s.getHead h).queue ++ [c] ∧
      (∀ g, g ≠ h.val → t.getHead g = s.getHead g) ∧ t = { s with ring := t.ring, head := t.head, red := t.red, log := t.log })

/-! ## Chapter 5: the staircase -/

namespace Sys2Proof.Cert

/-- The sample that the front of a ring's channel gives one detector. -/
def sampleOf (x : StairIn) (d : Bool) : Samp :=
  if d then { n := x.idx, cls := x.clsA, code := x.codeA, chg := x.chgA, step := x.stepA }
  else { n := x.idx, cls := x.clsP, code := x.codeP, chg := x.chgP, step := x.stepP }

end Sys2Proof.Cert

/-- STAIR_PROCESS. The engine of the ring takes the primary sample of the front slot and then its alternate one, and leaves every other
stream alone, unless a consumer without room holds it (R16). R131: the sample steps the stream's filter, the first integrator by the code modulo 2^48; R135: an output forms the next
flat sample. R137: an ABSENT or RETIRED sample leaves the filter and lets the next sample clear it.

HANDOVER_SWITCH, STAIR_SELFTEST and WP_CFG_WRITE. R32: once the spare has produced the settling count the ring switches to it at
an output boundary, what the old engine delivered stays delivered, and the engine that hands over is retired, which is logged. R149: two failed self-tests in a row, one every 384,000 ticks, retire a spare engine. R146: a write of
WP_CFG sets the mode and the stream, clears STATE and the run, and makes the watch point STALE. -/
def Obligations.StaircaseSamplesAndEngines : Prop :=
  (∀ (r : Fin 32) (e : Nat) (x : StairIn) (rest : List StairIn) (s : State), s.up islStair = true → (s.getRing r).chan = x :: rest →
     s.engOf r = some e → s.takerOf r = none → x.pos < 128 →
     s.stairHeld r (2 * x.pos + b2n (s.getRing r).half) x.idx = none → (s.getEng e).startAt ≤ x.idx →
     let d := (s.getRing r).half
     let k := 256 * e + (2 * x.pos + (if d then 1 else 0))
     let q := sampleOf x d
     ∃ t, exec (.stairProcess r (0, 0) (0, 0)) s = .next t ∧ (t.getRing r).half = !d ∧ (t.getRing r).chan = (if d then rest else x :: rest) ∧
       (∀ j, j ≠ k → t.getStrm j = s.getStrm j) ∧
       ((strmStep (s.getEng e).cfg q (s.getStrm k)).1 = none → t.getStrm k = (strmStep (s.getEng e).cfg q (s.getStrm k)).2) ∧
       ((strmStep (s.getEng e).cfg q (s.getStrm k)).1 ≠ none →
         t.getStrm k = (formFlat (s.getEng e).cfg (strmStep (s.getEng e).cfg q (s.getStrm k)).2).2) ∧
       (q.cls = 5 ∨ q.cls = 6 → (t.getStrm k).i = (s.getStrm k).i ∧ (t.getStrm k).d = (s.getStrm k).d ∧ (t.getStrm k).pendReset = true) ∧
       (q.cls ≠ 5 → q.cls ≠ 6 → (s.getStrm k).pendReset = false → q.chg = false → 0 < (s.getEng e).cfg.n →
         ∀ a l, (s.getStrm k).i = a :: l → (t.getStrm k).i.head? = some ((a + (q.code % 2 ^ 48).toNat) % 2 ^ 48)) ∧
       (∀ p, p ≠ r.val → (t.getRing p).chan = (s.getRing p).chan) ∧ t.stair.map = s.stair.map ∧
       t = { s with glb := t.glb, ring := t.ring, head := t.head, stair := t.stair, spec := t.spec, red := t.red, lc := t.lc,
                    cal := t.cal, gal := t.gal, host := t.host, log := t.log, fresh := t.fresh }) ∧
  ((∀ (r : Fin 32) (e k : Nat) (s : State), s.up islStair = true → s.takerOf r = some k → s.engOf r = some e → k ≠ e →
     (s.getEng k).moveAt = none → (s.getEng k).from_ = none → (s.getEng k).cfg.n + 31 ≤ (s.getEng k).made →
     s.nextWhole r % (s.getEng k).cfg.m = 0 → s.atWhole r = true →
     ∃ t, exec (.handoverSwitch r) s = .next t ∧ t.engOf r = some k ∧ t.takerOf r = none ∧
       t.getEng k = { s.getEng k with st := .serving, moveAt := (s.getEng e).moveAt, oldCfg := (s.getEng e).oldCfg } ∧ t.getEng e = { s.getEng e with st := .retired, ring := none } ∧
       (∀ i, i ≠ k → i ≠ e → t.getEng i = s.getEng i) ∧ (∀ q, q ≠ r.val → t.engOf q = s.engOf q) ∧
       (∀ st, st < 256 → t.getStrm (256 * k + st) =
         let x := s.getStrm (256 * e + st)
         { s.getStrm (256 * k + st) with outs := x.outs, flats := x.flats, oldOuts := x.oldOuts, oldFlats := x.oldFlats }) ∧
       (∀ j, j / 256 ≠ k → t.getStrm j = s.getStrm j) ∧ t.stair.wp = s.stair.wp ∧
       Logged (ent .stairRetired s.now e [(1, 0), (1, (s.getEng e).ring.getD 0xFF)] s) t ∧ t = { s with stair := t.stair, log := t.log }) ∧
   (∀ (e : Fin 33) (s : State), s.up islStair = true → (s.getEng e).st = .spare → (s.getEng e).testDue s.now = true →
     (∃ t, exec (.stairSelftest e true) s = .next t ∧ t.getEng e = { s.getEng e with failRun := 0, testAt := some s.now } ∧
       (∀ i, i ≠ e.val → t.getEng i = s.getEng i) ∧ t = { s with stair := { s.stair with eng := t.stair.eng } }) ∧
     ((s.getEng e).failRun = 0 →
       ∃ t, exec (.stairSelftest e false) s = .next t ∧ t.getEng e = { s.getEng e with failRun := 1, testAt := some s.now } ∧
         t.stair.selfFails = min 0xFFFF (s.stair.selfFails + 1) ∧ (∀ i, i ≠ e.val → t.getEng i = s.getEng i) ∧
         t = { s with stair := { s.stair with eng := t.stair.eng, selfFails := t.stair.selfFails } }) ∧
     (1 ≤ (s.getEng e).failRun →
       ∃ t, exec (.stairSelftest e false) s = .next t ∧ (t.getEng e).st = .retired ∧
         t.stair.selfFails = min 0xFFFF (s.stair.selfFails + 1) ∧ (∀ i, i ≠ e.val → t.getEng i = s.getEng i) ∧
         LoggedIfRoom (ent .stairSelftestFail s.now e [] s) s t ∧
         Logged (ent .stairRetired s.now e [(1, 1), (1, (s.getEng e).ring.getD 0xFF)] s) t ∧
         t = { s with stair := { s.stair with eng := t.stair.eng, selfFails := t.stair.selfFails }, log := t.log })) ∧
   (∀ (p : Fin 4) (w : Fin 256) (v : Word) (s : State), MayAct s p 2 islStair →
     ∃ t u, exec (.wpCfgWrite p w v) s = .next t ∧
       u.getWp w = { s.getWp w with
         mode := v.toNat / 2 ^ 28 % 8, ring := v.toNat / 2 ^ 16 % 32, stream := v.toNat / 2 ^ 8 % 256, state := false, run := 0, stale := true } ∧
       (∀ i, i ≠ w.val → u.getWp i = s.getWp i) ∧ u = { s with stair := { s.stair with wp := u.stair.wp } } ∧
       Audited p (0x0C0E00 + 0x1000 * (w / 8) + 0x20 * (w % 8)) (wpRead s w 0) v s u t))


/-! ## Chapter 6: frequency groups -/

/-- CYCLE_END. R154, R163, R166: the tracker fixes the step of cycle c + 2, which begins where cycle c + 1 ends; F stays within 42.5 and
69 Hz. R164, R168: without a usable reference LOCKED gives way to HOLD (to FREE where HOLD_MAX is 0) and ACQUIRE to FREE. R155: with
the last cycle of a window the window closes at the index at or after its end, and the outputs take their changes (R206), whose audit
records are numbered (R416). R172: REACQ is taken back at the end of the cycle. The
other groups, the samples and the committed results of the group stay. -/
def Obligations.CycleEndUpdatesTracker : Prop :=
  ∀ (g : Fin 16) (s : State) (p : Plan) (pg : PlanGroup) (cy c1 : Cyc), s.up islResamp = true → s.cycleDone g = true →
    s.planWin g ((s.getGrp g).closed + 1) = some p → p.grp? g = some pg →
    let c := (s.getGrp g).done
    (s.getGrp g).cyc c = some cy → (s.getGrp g).cyc (c + 1) = some c1 →
    let ref := s.findRef g p pg c (presenceOf (s.getGrp g).ctrl)
    ∃ t, exec (.cycleEnd g) s = .next t ∧ (t.getGrp g).done = c + 1 ∧ (t.getGrp g).reacq = false ∧
      (∃ c2, (t.getGrp g).cyc (c + 2) = some c2 ∧ c2.p0 = c1.p0 + 512 * c1.step ∧ 713031680 ≤ c2.f ∧ c2.f ≤ 1157627904 ∧
        c2.step = stepOf c1.gm c2.f ∧ (c2.held = true ↔ (t.getGrp g).st = .hold)) ∧
      (t.getGrp g).cyc (c + 1) = some c1 ∧
      (ref = none → (t.getGrp g).ref = 3 ∧ ((s.getGrp g).reacq = false →
        ((s.getGrp g).st = .locked → (t.getGrp g).st = (if (s.getGrp g).ctrl.holdMax = 0 then .free else .hold) ∧
          (t.getGrp g).lockLost = true) ∧
        ((s.getGrp g).st = .acquire → (t.getGrp g).st = .free) ∧ ((s.getGrp g).st = .search → (t.getGrp g).st = .search) ∧
        ((s.getGrp g).st = .free → (t.getGrp g).st = .free))) ∧
      ((s.getGrp g).reacq = true → (s.getGrp g).st = .hold → ref = none → (s.getGrp g).noRef + 1 < (s.getGrp g).ctrl.holdMax →
        (t.getGrp g).st = .acquire) ∧
      ((c + 1) % pg.w = 0 → (t.getGrp g).closed = (s.getGrp g).winBase + c / pg.w + 1 ∧
        (t.getGrp g).twOf ((s.getGrp g).winBase + c / pg.w + 1) = ceilTau (c1.tau 0)) ∧
      ((c + 1) % pg.w ≠ 0 → (t.getGrp g).closed = (s.getGrp g).closed ∧ (t.getGrp g).tw = (s.getGrp g).tw ∧
        (t.getGrp g).ctrl = (s.getGrp g).ctrl) ∧
      (t.getGrp g).k = (s.getGrp g).k ∧ (t.getGrp g).wfreq = (s.getGrp g).wfreq ∧ (t.getGrp g).close = (s.getGrp g).close ∧
      (∀ j, j ≠ g.val → t.getGrp j = s.getGrp j) ∧
      t = { s with rs := { s.rs with grp := t.rs.grp }, ev := t.ev, pulse := { s.pulse with out := t.pulse.out }, log := t.log
                   role := { s.role with audit := t.role.audit } } ∧ ((c + 1) % pg.w ≠ 0 → t.role = s.role)

/-- GROUP_START and FG_REACQ. R154, R164: with a plan in force and every ring of the group ready, a group that has not started begins at
the present index in SEARCH with cycles 0 and 1 at the nominal frequency. R172: a write of REACQ, which needs the installer or maker
role, asks for a new acquisition; BW, PRESENCE and HOLD_MAX keep their values. -/
def Obligations.GroupStartAndReacquire : Prop :=
  (∀ (g : Fin 16) (s : State) (p : Plan) (pg : PlanGroup), s.up islResamp = true → s.plan.cur = some p → p.grp? g = some pg →
    (s.getGrp g).started = false → s.ringsReady p g = true → 0 < (p.grpCfg g).2 →
    ∃ t, exec (.groupStart g) s = .next t ∧ (t.getGrp g).started = true ∧ (t.getGrp g).st = .search ∧
      (t.getGrp g).startIdx = s.tb.idx ∧ (t.getGrp g).done = 0 ∧ (t.getGrp g).closed = (s.getGrp g).winBase ∧
      (∀ i, i < 2 → ∃ cy, (t.getGrp g).cyc i = some cy ∧ cy.f = (if pg.nom60 then 60 else 50) * 2 ^ 24 ∧
        cy.step = stepOf (p.grpCfg g).2 cy.f ∧ cy.p0 % 2 ^ 32 = (512 * i * cy.step) % 2 ^ 32 ∧
        (i = 0 → (s.tb.idx : Int) * 2 ^ 33 ≤ cy.tau 0)) ∧
      (∀ j, j ≠ g.val → t.getGrp j = s.getGrp j) ∧ t.rs.tokens = s.rs.tokens ∧
      t = { s with rs := t.rs, ev := t.ev, pulse := { s.pulse with out := t.pulse.out }, spec := t.spec, log := t.log
                   role := { s.role with audit := t.role.audit } }) ∧
  (∀ (q : Fin 4) (g : Fin 16) (s : State) (pg : PlanGroup), MayAct s q 2 islResamp → (s.planNow g).bind (fun p => p.grp? g) = some pg →
    (s.getGrp g).st ≠ .off →
    let f := (s.getGrp g).ctrlShown
    f.bw < 4 → f.presence < 64 → f.holdMax < 65536 →
    ∃ t u, exec (.fgReacq q g) s = .next t ∧
      u.getGrp g = { s.getGrp g with reacq := true, ctrlWr := (s.tb.idx, f) :: (s.getGrp g).ctrlWr } ∧
      (∀ j, j ≠ g.val → u.getGrp j = s.getGrp j) ∧ u = { s with rs := { s.rs with grp := u.rs.grp } } ∧
      Audited q (0x011008 + 0x100 * g) (fgRead s g 0x08) (fgRead s g 0x08 ||| 0x80000000) s u t)

/-! ## Chapters 1 and 7: energy and the commit -/

/-- CYCLE_SAMPLE_FORM. With the 16 inputs of both detectors present, the binding's next sample is formed, and the hamper takes it in
front of the samples it holds (R307), unless a consumer holds it (R16). R159: the value is clamped to ±(2^23 − 1), and CSAT counts that. R160: an ABSENT or RETIRED
sample has the value 0; the partner detector takes over exactly where it is USABLE and the serving one is not. R304: where the serving
detector's stream is RETIRED, its partner serves. R70: the sample of a head that the plan does not list there is ABSENT. No other binding and no
other group changes.

TALLY_FLAT_SAMPLE. R178: a flat instant adds w c M to the sum of each phase whose voltage and current samples are all counted
(R177), and to the total where every phase is; R176: `sels` are the samples selected, one per slot, which the hamper keeps (R307). R189: a
phase that is not valid for another reason than UNSETTLED makes a gap; R190: an unsettled sample that remains sets UNSETTLED. Nothing
else of the window, no accumulator and no other context changes.

TALLY_CYCLE and TALLY_FLAT_CHECKPOINT. R179, R180: a complete cycle adds its energies to the cycle part of its window; a cycle with
an UNLOCKED sample adds nothing and sets UNLOCKED. R307, R308: a checkpoint, one every 384 ticks, copies the flat-path state of every
context that the unit serves, and of no other; of two older ones the later is kept. -/
def Obligations.SamplesFormedAndCounted : Prop :=
  (∀ (c : Fin 160) (slot : Fin 8) (s : State) (y gi k h : Nat) (pc : PlanCtx) (cy : Cyc) (f : CSample) (di ei : List StOut × Nat),
      s.up islResamp = true →
      s.ctxKeys c = [y] → s.ctxGrp y = some gi →
      let m := s.nextOf y slot
      (s.getGrp gi).started = true → s.beyondSwap gi (m / 512) = false → (s.getGrp gi).cyc (m / 512) = some cy →
      k = (s.getGrp gi).winOf (s.winCycles gi) (m / 512) →
      (s.planWin gi k).bind (fun p => p.ctx? y) = some pc → pc.headOf slot = some h →
      let d := s.serveFor gi h k (cy.tau (m % 512))
      s.inputsOf h d (cy.pos (m % 512)) = some di → s.inputsOf h (!d) (cy.pos (m % 512)) = some ei →
      let e := if inputClass di.1 = 6 then !d else d
      let x := if s.listedHead gi k h then f else f.gone
      formSample s (s.getGrp gi) h m cy d = some f → s.cycleHeld pc slot x.tau = none →
      ∃ t, exec (.cycleSampleForm c slot) s = .next t ∧ t.nextOf y slot = m + 1 ∧ t.hamper y slot = s.hamperWith pc slot x ∧ x.m = m ∧ x.val.natAbs ≤ 2 ^ 23 - 1 ∧
        (x.cls = 5 ∨ x.cls = 6 → x.val = 0) ∧ (s.listedHead gi k h = false → x.cls = 5) ∧
        (s.listedHead gi k h = true → (x.subst = true → x.cls = 0 ∧ x.det = !e) ∧ (x.subst = false → x.det = e)) ∧
        (∀ j, j ≠ 8 * y + slot.val → tget 0 t.rs.next j = tget 0 s.rs.next j ∧ tget [] t.rs.hamper j = tget [] s.rs.hamper j) ∧
        t.getGrp gi = { s.getGrp gi with
          csat := if x.csat then satAdd 0xFFFF (s.getGrp gi).csat 1 else (s.getGrp gi).csat
          fadeLeft := (t.getGrp gi).fadeLeft, wflags := (t.getGrp gi).wflags } ∧
        (∀ j, j ≠ gi → t.getGrp j = s.getGrp j) ∧ t.rs.tokens = s.rs.tokens ∧
        (∀ p, t.getHp p = { s.getHp p with cap := { (s.getHp p).cap with queue := (t.getHp p).cap.queue } }) ∧
        t = { s with glb := { s.glb with stallAt := t.glb.stallAt, stallSeen := t.glb.stallSeen }, rs := t.rs,
                     host := { s.host with hp := t.host.hp } }) ∧
  (∀ (c : Fin 160) (s : State) (y gi k l m : Nat) (t2 : Int) (x : PlanCtx) (sels : List Sel), s.up islTally = true →
     s.ctxKeys c = [y] → s.tallyRuns y = true → s.ctxGrp y = some gi → (s.getGrp gi).started = true →
     s.flatNext gi y = some (x, l, m, t2) → s.windowAt gi t2.toNat = some k → s.flatSels gi x t2 l k = some sels →
     (∀ q, (s.getGrp gi).swapClose (s.winCycles gi) = some q → t2 < 2 * (q.2 : Int)) → s.stopAt = none →
     (tget {} (s.getCtx y).wins k).flat.a.length = 4 →
     let f : FlatPart := (tget {} (s.getCtx y).wins k).flat
     let sel := fun i => sels.getD i { cls := 5, val := none }
     ∃ t, exec (.tallyFlatSample c) s = .next t ∧ (t.getCtx y).nextFlat = some (t2 + 1).toNat ∧
       (∀ i, i < phasesOf x.kind → (tget {} (t.getCtx y).wins k).flat.a.getD (i + 1) 0 = f.a.getD (i + 1) 0 +
         (match x.phaseVal (fun j => (sel j).val) (i + 1) with | some v => v.1 * v.2 * m | none => 0)) ∧
       ((∃ i, i < phasesOf x.kind ∧ x.phaseVal (fun j => (sel j).val) (i + 1) = none) →
         (tget {} (t.getCtx y).wins k).flat.a.getD 0 0 = f.a.getD 0 0) ∧
       (∀ i, i < phasesOf x.kind → x.phaseVal (fun j => (sel j).val) (i + 1) = none → x.phaseGap sel (i + 1) = true →
         (tget {} (t.getCtx y).wins k).flat.gapPh.testBit i = true) ∧
       (∀ i, i < phasesOf x.kind → x.phaseVal (fun j => (sel j).val) (i + 1) = none → x.phaseUnset sel (i + 1) = true →
         (tget {} (t.getCtx y).wins k).flat.flags.testBit 0 = true) ∧
       (t.getCtx y).keptAt t2 = some sels ∧
       (tget {} (t.getCtx y).wins k).cyc = (tget {} (s.getCtx y).wins k).cyc ∧
       (tget {} (t.getCtx y).wins k).harm = (tget {} (s.getCtx y).wins k).harm ∧
       (∀ j, j ≠ k → tget {} (t.getCtx y).wins j = tget {} (s.getCtx y).wins j) ∧
       t.getCtx y = { s.getCtx y with nextFlat := (t.getCtx y).nextFlat, wins := (t.getCtx y).wins, gapTo := (t.getCtx y).gapTo
                                      inGap := (t.getCtx y).inGap, kept := (t.getCtx y).kept } ∧
       (∀ j, j ≠ y → t.getCtx j = s.getCtx j) ∧ t = { s with tally := { s.tally with ctx := t.tally.ctx } }) ∧
  ((∀ (c : Fin 160) (s : State) (y gi k : Nat) (cy : Cyc) (x : PlanCtx), s.up islTally = true → s.ctxKeys c = [y] →
     s.tallyRuns y = true → s.ctxGrp y = some gi →
     let cyc := (s.getCtx y).nextCyc
     (s.getGrp gi).started = true → s.beyondSwap gi cyc = false → (s.getGrp gi).cyc cyc = some cy → s.cycleStopped cy = false →
     k = (s.getGrp gi).winOf (s.winCycles gi) cyc → (s.planWin gi k).bind (fun p => p.ctx? y) = some x →
     (∀ i ∈ x.bound, 512 * (cyc + 1) ≤ s.nextOf y i) →
     let f : CycPart := (tget {} (s.getCtx y).wins k).cyc
     ∃ t, exec (.tallyCycle c) s = .next t ∧ (t.getCtx y).nextCyc = cyc + 1 ∧
       ((∃ i ∈ x.bound, ∃ e ∈ s.selCycle x i cyc, e.2 = true) →
         (tget {} (t.getCtx y).wins k).cyc.af = f.af ∧ (tget {} (t.getCtx y).wins k).cyc.q = f.q ∧
         (tget {} (t.getCtx y).wins k).cyc.sv = f.sv ∧ (tget {} (t.getCtx y).wins k).cyc.sa = f.sa ∧
         (tget {} (t.getCtx y).wins k).cyc.gapPh = f.gapPh ∧ (tget {} (t.getCtx y).wins k).cyc.flags.testBit 1 = true) ∧
       ((∀ i ∈ x.bound, ∀ e ∈ s.selCycle x i cyc, e.1.cls = 0 ∧ e.2 = false) →
         (tget {} (t.getCtx y).wins k).cyc.flags.testBit 6 = f.flags.testBit 6) ∧
       (tget {} (t.getCtx y).wins k).flat = (tget {} (s.getCtx y).wins k).flat ∧
       (tget {} (t.getCtx y).wins k).harm = (tget {} (s.getCtx y).wins k).harm ∧
       (∀ j, j ≠ k → tget {} (t.getCtx y).wins j = tget {} (s.getCtx y).wins j) ∧
       t.getCtx y = { s.getCtx y with nextCyc := cyc + 1, wins := (t.getCtx y).wins
                                      ckCyc := ({ cyc := cyc + 1, parts := (t.getCtx y).wins.map (fun e => (e.1, e.2.cyc)) } ::
                                        (s.getCtx y).ckCyc).take 2 } ∧
       (∀ j, j ≠ y → t.getCtx j = s.getCtx j) ∧ t = { s with tally := { s.tally with ctx := t.tally.ctx } }) ∧
   (∀ (u : Fin 9) (s : State), s.up islTally = true → (s.getUnit u).retired = false → (s.getUnit u).replay = none →
     (s.getUnit u).ckDue s.now = true →
     ∃ t, exec (.tallyFlatCheckpoint u) s = .next t ∧
       (∀ c ∈ s.unitCtxs u, t.getCtx c = { s.getCtx c with
         ckFlat := ({ at_ := s.now, next := (s.getCtx c).nextFlat, parts := (s.getCtx c).wins.map (fun e => (e.1, e.2.flat))
                      tail := (s.getCtx c).tail } :: (s.getCtx c).ckFlat).take 2 }) ∧
       (∀ c, c ∉ s.unitCtxs u → t.getCtx c = s.getCtx c) ∧
       t.getUnit u = { s.getUnit u with ckAt := some s.now } ∧ (∀ v, v ≠ u.val → t.getUnit v = s.getUnit v) ∧
       t = { s with tally := { s.tally with ctx := t.tally.ctx, unit := t.tally.unit } }))

/-- TALLY_WINDOW_DONE. R22: a unit that has counted everything of the window sends its completion token. R201: with it each output that
names an accumulator of the unit's contexts is credited with the whole multiples of its weight, and keeps the rest; R205: what goes
beyond 65,535 pending pulses is lost and counted. R206: the assignment is the one of the window; one that rebases the output drops the
rest. No pulse is issued and no accumulator changes. -/
def Obligations.TallyWindowCreditsAndSendsToken : Prop :=
  ∀ (u : Fin 9) (g : Fin 16) (b : Nat) (s : State), s.up islTally = true →
    let k := (s.getGrp g).lastK + 1
    let a := (s.getGrp g).twOf (k - 1)
    (s.getUnit u).retired = false → (s.getUnit u).replay = none → k ≤ (s.getGrp g).closed → s.unitBlocks u = [b] →
    s.blockWin b g k ≠ [] → s.hasToken g k b = false → s.blockFull b g k = true →
    ∃ t, exec (.tallyWindowDone u g) s = .next t ∧ t.rs.tokens = s.rs.tokens ++ [(g.val, k, b)] ∧
      (∀ (o : Fin 16) (x : PlanCtx),
        let w := (s.getOut o).useAt a
        let rho := if w.rebase then 0 else (s.getOut o).rho
        (s.planWin g k).bind (fun p => p.num? w.cfg.ctx) = some x → x ∈ s.blockWin b g k → w.isFor g = true → w.cfg.mode = 1 →
        w.cfg.acc < 0x28 →
        let n := (rho + s.quanta x k w.cfg.acc) / w.cfg.weight
        (t.getOut o).credited = ((s.getOut o).credited + n) % 2 ^ 64 ∧ (t.getOut o).pend = min 65535 ((s.getOut o).pend + n) ∧
        (t.getOut o).rho = (rho + s.quanta x k w.cfg.acc) % w.cfg.weight ∧
        (t.getOut o).lost = min 0xFFFFFFFF ((s.getOut o).lost + ((s.getOut o).pend + n - 65535))) ∧
      (∀ o, (t.getOut o).issued = (s.getOut o).issued ∧ (t.getOut o).cfg = (s.getOut o).cfg) ∧
      (∀ o, (∀ x, (s.planWin g k).bind (fun p => p.num? ((s.getOut o).useAt a).cfg.ctx) = some x → ∀ y ∈ s.blockWin b g k, y.c ≠ x.c) →
        t.getOut o = s.getOut o) ∧ t.pulse.inp = s.pulse.inp ∧
      t = { s with rs := { s.rs with tokens := t.rs.tokens }, pulse := t.pulse, host := t.host, log := t.log }

namespace Sys2Proof.Cert

/-- Window k of context x has the contribution of its tally unit and of its harmonic engine (R22, R306). -/
def Delivered (s : State) (g k : Nat) (x : PlanCtx) : Prop :=
  s.tallyLost g k x = false ∧ (s.spec.shed = true ∨ s.harmLost g k x = false)

/-- R183: each accumulator of context x takes the increments of window k; R188: on the value of a preset that applies. -/
def Accumulated (g k : Nat) (x : PlanCtx) (s t : State) : Prop :=
  let y := s.getCtx x.c
  ∀ a, let old : Acc := tget {} (applyPresetTo (y.presetNow ((s.getGrp g).twOf (k - 1))) y.acc) a
    old.val < 2 ^ 72 → old.r < divisorOf x.kind →
    tget {} (t.getCtx x.c).acc a = addAcc (divisorOf x.kind) (incOf (y.incs x.kind k) a) old

end Sys2Proof.Cert

/-- COMMIT. R22: with every token of window k present the group's committed results change together: FG_WINDOW and the context's
window become k, each accumulator takes the window's increments (R183), a preset applies first (R188), the tokens are used up, and
the ports that select the group see source COMMIT (R392). Contexts and groups of other groups keep their committed results.

COMMIT_DEADLINE. R29: with a token missing 7,680 ticks after the close the group commits without it: a context whose tally unit has
not delivered takes GAP, over the whole window. R311: each unit whose token is missing is logged as REPLAY_LATE, by its number within its kind. -/
def Obligations.CommitsChangeResultsTogether : Prop :=
  (∀ (g : Fin 16) (s : State) (p : Plan), s.up islResamp = true →
     let k := (s.getGrp g).lastK + 1
     s.planWin g k = some p → s.mayCommit g k = true → s.tokensMissing g k p = [] → s.plan.tsw.find? (fun e => e.1 == g.val) = none →
     (p.ctxsOf g).Pairwise (fun x y => x.c ≠ y.c) →
     ∃ t, exec (.commit g) s = .next t ∧ (t.getGrp g).k = k ∧ (t.getGrp g).close = (s.getGrp g).twOf k ∧
       (∀ x ∈ p.ctxsOf g, (t.getCtx x.c).k = k ∧ (t.getCtx x.c).close = (s.getGrp g).twOf k ∧
         ((s.getCtx x.c).presetNow ((s.getGrp g).twOf (k - 1)) ≠ none → (t.getCtx x.c).preset = none) ∧
         (Delivered s g k x → Accumulated g k x s t)) ∧
       (∀ c, (∀ x ∈ p.ctxsOf g, x.c ≠ c) → (t.getCtx c).acc = (s.getCtx c).acc ∧ (t.getCtx c).k = (s.getCtx c).k ∧
         (t.getCtx c).stat = (s.getCtx c).stat) ∧
       (∀ u, u < 14 ∨ u = 16 → (g.val, k, u) ∉ t.rs.tokens) ∧
       (∀ q, q < 4 → bit (s.getHp q).intGrp g = true → bit (t.getHp q).intStat 1 = true) ∧
       (∀ j, j ≠ g.val → t.getGrp j = s.getGrp j) ∧
       t = { s with head := t.head, rs := t.rs, tally := t.tally, pulse := t.pulse, spec := t.spec, ev := t.ev, red := t.red, lc := t.lc,
                    cal := t.cal, gal := t.gal, host := t.host, role := { s.role with audit := t.role.audit }, pwr := t.pwr, log := t.log
                    fresh := t.fresh }) ∧
  (∀ (g : Fin 16) (s : State) (p : Plan), s.up islResamp = true →
     let k := (s.getGrp g).lastK + 1
     s.planWin g k = some p → s.mayCommit g k = true → s.tokensMissing g k p ≠ [] → (s.getGrp g).twOf k + 7680 ≤ s.tb.idx →
     s.plan.tsw.find? (fun e => e.1 == g.val) = none → (p.ctxsOf g).Pairwise (fun x y => x.c ≠ y.c) →
     ∃ t, exec (.commitDeadline g) s = .next t ∧ (t.getGrp g).k = k ∧ (t.getGrp g).close = (s.getGrp g).twOf k ∧
       (∀ u ∈ s.tokensMissing g k p, u < 14 → Logged (ent .replayLate s.now (s.lateUnit u) [] s) t) ∧
       (∀ x ∈ p.ctxsOf g, (t.getCtx x.c).k = k ∧
         (s.tallyLost g k x = true → (t.getCtx x.c).stat.testBit 3 = true ∧ ((s.getCtx x.c).gapFrom = none →
           (t.getCtx x.c).gapFirst = (s.getGrp g).twOf (k - 1) ∧ (t.getCtx x.c).gapLast = (s.getGrp g).twOf k - 1)) ∧
         (Delivered s g k x → Accumulated g k x s t)) ∧
       (∀ c, (∀ x ∈ p.ctxsOf g, x.c ≠ c) → (t.getCtx c).acc = (s.getCtx c).acc ∧ (t.getCtx c).k = (s.getCtx c).k) ∧
       (∀ j, j ≠ g.val → t.getGrp j = s.getGrp j) ∧
       t = { s with head := t.head, rs := t.rs, tally := t.tally, pulse := t.pulse, spec := t.spec, ev := t.ev, red := t.red, lc := t.lc,
                    cal := t.cal, gal := t.gal, host := t.host, role := { s.role with audit := t.role.audit }, pwr := t.pwr, log := t.log
                    fresh := t.fresh })

/-- CTX_LATCH_GO, CTX_LATCH_RELEASE and ENERGY_PRESET_GO. R187: GO makes the port hold the context's committed results, RELEASE lets
them go. R188: the maker's GO makes the preset pending from the present index on, with the role and the port that asked; an
accumulator that the context's kind lacks is not preset, and nothing is logged.

SNAPSHOT_WORD0_READ and RC_READ. R10, R186: reading word 0 of a value takes the port's copies of its other words as they are at that
instant; a read of an accumulator changes nothing but the port's latch. R7: reading a counter that clears on reading leaves it 0, for
every port. -/
def Obligations.LatchesPresetsAndClearingReads : Prop :=
  ((∀ (p : Fin 4) (c : Fin 160) (s : State) (x : PlanCtx), MayAct s p 1 islTally → (s.glb.half = true → c.val < 80) → s.ctxNow c = some x →
     (∃ t, exec (.ctxLatchGo p c) s = .next (wordDone p t) ∧ t.getHp p = { s.getHp p with ctxLatch := some ((s.getCtx c).view c) } ∧
       (∀ q, q ≠ p.val → t.getHp q = s.getHp q) ∧ t = { s with host := { s.host with hp := t.host.hp } }) ∧
     (∃ t, exec (.ctxLatchRelease p c) s = .next (wordDone p t) ∧ t.getHp p = { s.getHp p with ctxLatch := none } ∧
       (∀ q, q ≠ p.val → t.getHp q = s.getHp q) ∧ t = { s with host := { s.host with hp := t.host.hp } })) ∧
   (∀ (p : Fin 4) (c : Fin 160) (a : BitVec 8) (s : State) (x : PlanCtx), MayAct s p 3 islTally → (s.glb.half = true → c.val < 80) →
     s.ctxNow c = some x →
     (accExists x.kind a.toNat = true → ∃ t, exec (.energyPresetGo p c a) s = .next (wordDone p t) ∧
       t.getCtx c = { s.getCtx c with
         presetAcc := a.toNat
         preset := some { acc := a.toNat, val := (s.getCtx c).presetVal, effAt := s.now, role := (s.getRolePort p).role, host := p } } ∧
       (∀ j, j ≠ c.val → t.getCtx j = s.getCtx j) ∧ t = { s with tally := { s.tally with ctx := t.tally.ctx } }) ∧
     (accExists x.kind a.toNat = false → ∃ t, exec (.energyPresetGo p c a) s = .next (wordDone p t) ∧
       t.getCtx c = { s.getCtx c with presetAcc := a.toNat } ∧ (∀ j, j ≠ c.val → t.getCtx j = s.getCtx j) ∧
       t = { s with tally := { s.tally with ctx := t.tally.ctx } }))) ∧
  ((∀ (p : Fin 4) (a : BitVec 24) (s : State), MayAct s p 0 (place a.toNat).target → s.mayRead p a.toNat = true → s.ctxCovers p (place a.toNat) = false → s.latched p a.toNat = none →
     snapWords (place a.toNat) ≠ [] →
     ∃ t, exec (.snapshotWord0Read p a) s = .next t ∧
       (∀ d ∈ snapWords (place a.toNat), t.latched p (a.toNat + d) = some (regRead s p (place (a.toNat + d)))) ∧
       (∀ c off, place a.toNat = .ctx c off → t = { s with host := { s.host with hp := t.host.hp } } ∧
         t.getHp p = { s.getHp p with latch := (t.getHp p).latch }) ∧
       (∀ q, q ≠ p.val → t.getHp q = s.getHp q)) ∧
   (∀ (p : Fin 4) (a : BitVec 24) (s : State), MayAct s p 0 (place a.toNat).target → s.mayRead p a.toNat = true → s.latched p a.toNat = none →
     (∀ g, place a.toNat = .fg g 0x4C → ∃ t, exec (.rcRead p a) s = .next t ∧
       t.getGrp g = { s.getGrp g with lockLosses := 0, refSwitches := 0 } ∧ (∀ j, j ≠ g → t.getGrp j = s.getGrp j) ∧
       t = { s with rs := { s.rs with grp := t.rs.grp } }) ∧
     (∀ o, o < 16 → place a.toNat = .pulseOut o 0x2C → ∃ t, exec (.rcRead p a) s = .next t ∧ t.getOut o = { s.getOut o with lost := 0 } ∧
       (∀ j, j ≠ o → t.getOut j = s.getOut j) ∧ t = { s with pulse := { s.pulse with out := t.pulse.out } }) ∧
     (place a.toNat = .hp 0x04 → ∃ t, exec (.rcRead p a) s = .next t ∧
       t.getHp p = { s.getHp p with crcFail := 0, badSeq := 0, full := 0, throttled := 0 } ∧
       (∀ q, q ≠ p.val → t.getHp q = s.getHp q) ∧ t = { s with host := { s.host with hp := t.host.hp } })))


/-! ## Chapter 8: pulses -/

/-- PULSE_UNIT and PULSE_END. R203: an output with pulses pending adds its rate to its phase, and an overflow of 2^32 starts one pulse,
which is issued and leaves PEND; R204: a start that falls within a pulse waits for its end, and a pulse lasts its width; R202: the pulses
issued and those pending have the same sum as before; R208: after a warning no pulse starts.

PULSE_OUT_CONFIG. R206: a new assignment of an output that a group's context feeds waits for the first window that begins after the
write, and keeps the present one until then; a write with MODE 1 that names no accumulator is refused and changes nothing. R199: the
manual mode needs the maker role, the others the installer role. -/
def Obligations.PulseTrainsAndAssignments : Prop :=
  ((∀ s : State, s.up islTally = true →
     ∃ t, exec .pulseUnit s = .next t ∧ t = { s with pulse := { s.pulse with out := t.pulse.out } } ∧
       ∀ o : Fin 16, let x := s.getOut o
         let y := t.getOut o
         (x.stopped = true ∨ x.hold = true ∨ x.pend = 0 → y = { x with left := if x.active then x.left - 1 else x.left }) ∧
         (x.stopped = false → x.hold = false → 0 < x.pend → y.phase = (x.phase + x.nu) % 2 ^ 32 ∧
           (x.phase + x.nu < 2 ^ 32 → y.pend = x.pend ∧ y.issued = x.issued ∧ y.due = x.due ∧ y.active = x.active) ∧
           (2 ^ 32 ≤ x.phase + x.nu → y.active = true ∧
             (x.active = false → y.pend = x.pend - 1 ∧ y.issued = (x.issued + 1) % 2 ^ 64 ∧ y.left = pulseWidth x.nu x.curWidth ∧
               y.due = x.due) ∧
             (x.active = true → y.pend = x.pend ∧ y.issued = x.issued ∧ y.left = x.left - 1 ∧ y.due = min x.pend (x.due + 1)))) ∧
         (y.issued + y.pend) % 2 ^ 64 = (x.issued + x.pend) % 2 ^ 64 ∧
         y.credited = x.credited ∧ y.rho = x.rho ∧ y.cur = x.cur ∧ y.cfg = x.cfg ∧ y.changes = x.changes ∧ y.uses = x.uses) ∧
   (∀ (o : Fin 16) (s : State), s.up islTally = true →
     ∃ t, exec (.pulseEnd o) s = .next t ∧ t = { s with pulse := { s.pulse with out := t.pulse.out } } ∧
       (∀ i, i ≠ o.val → t.getOut i = s.getOut i) ∧
       let x := s.getOut o
       (x.active = false ∨ x.left ≠ 0 → t.getOut o = x) ∧
       (x.active = true → x.left = 0 → x.due = 0 ∨ x.stopped = true → t.getOut o = { x with active := false }) ∧
       (x.active = true → x.left = 0 → 0 < x.due → x.stopped = false →
         t.getOut o = { x with
           active := true, left := pulseWidth x.nu x.curWidth, issued := (x.issued + 1) % 2 ^ 64, pend := x.pend - 1
           due := x.due - 1 }) ∧
       (x.due ≤ x.pend → ((t.getOut o).issued + (t.getOut o).pend) % 2 ^ 64 = (x.issued + x.pend) % 2 ^ 64))) ∧
  (∀ (p : Fin 4) (o : Fin 16) (v : Word) (s : State) (gi : Nat), MayAct s p (if bits v 31 30 = 2 then 3 else 2) islTally →
     let a := BitVec.ofNat 24 (0x0F0000 + 0x40 * o.val)
     let c : PlsCfg := { (s.getOut o).cfg with mode := bits v 31 30, pol := bit v 29, acc := bits v 23 16, ctx := bits v 15 8 }
     (s.outBad v = true → exec (.pulseOutConfig p a v) s = .next s) ∧
     (s.outBad v = false → c ≠ (s.getOut o).cfg → s.ctxGrp (bits v 15 8) = some gi →
       ∃ t, exec (.pulseOutConfig p a v) s = .next (wordDone p t) ∧
         t.getOut o = { s.getOut o with
           cfg := c
           changes := { at_ := s.now, host := p, role := (s.getRolePort p).role, rebase := true, cfg := c, width := (s.getOut o).width } ::
             (s.getOut o).changes } ∧
         (∀ i, i ≠ o.val → t.getOut i = s.getOut i) ∧ t = { s with pulse := { s.pulse with out := t.pulse.out } }))

/-- PULSE_IN_EDGE, LEGACY_PRESET_GO and LEGACY_PRESET_APPLY. R210: a counted edge adds the input's weight to the import or the export
accumulator, by the direction set or the partner's level at the edge, and to no other. R212: a preset asked for takes effect at the next
tick; the accumulator named takes the value, the other one stays, and LEGACY_PRESET is logged as an audit record (R415, R416). -/
def Obligations.LegacyPulseInputs : Prop :=
  (∀ (i : Fin 16) (s : State) (e : Nat × Bool) (rest : List (Nat × Bool)), s.up islTally = true → (s.getInp i).edges = e :: rest →
    ∃ t, exec (.pulseInEdge i) s = .next t ∧ (t.getInp i).edges = rest ∧ (∀ j, j ≠ i.val → t.getInp j = s.getInp j) ∧
      ((s.getInp i).mode ≠ 1 ∨ (s.getInp i).stopped = true → t.getInp i = { s.getInp i with edges := rest }) ∧
      ((s.getInp i).mode = 1 → (s.getInp i).stopped = false →
        let ex := (s.getInp i).dir = 1 ∨ ((s.getInp i).dir = 2 ∧ e.2 = true)
        (t.getInp i).count = ((s.getInp i).count + 1) % 2 ^ 32 ∧ (t.getInp i).last = e.1 ∧
        (ex → (t.getInp i).exp = addWeight (s.getInp i).weight (s.getInp i).exp ∧ (t.getInp i).imp = (s.getInp i).imp) ∧
        (¬ ex → (t.getInp i).imp = addWeight (s.getInp i).weight (s.getInp i).imp ∧ (t.getInp i).exp = (s.getInp i).exp) ∧
        (t.getInp i).cImp = (s.getInp i).cImp ∧ (t.getInp i).cExp = (s.getInp i).cExp) ∧
      t = { s with pulse := { s.pulse with inp := t.pulse.inp } }) ∧
  (∀ (p : Fin 4) (i : Fin 16) (v : Word) (s : State), MayAct s p 2 islTally →
    ∃ t, exec (.legacyPresetGo p i v) s = .next (wordDone p t) ∧
      t.getInp i = { s.getInp i with presetDir := bit v 0, presetGo := some (s.tb.idx, p.val, (s.getRolePort p).role) } ∧
      (∀ j, j ≠ i.val → t.getInp j = s.getInp j) ∧ t = { s with pulse := { s.pulse with inp := t.pulse.inp } }) ∧
  (∀ (i : Fin 16) (s : State) (a h r : Nat), s.up islTally = true → (s.getInp i).presetGo = some (a, h, r) → a < s.tb.idx →
    (∀ e ∈ (s.getInp i).log, e.1 ≤ a) →
    let x := s.getInp i
    let v : Acc := { val := x.presetVal }
    ∃ t, exec (.legacyPresetApply i) s = .next t ∧ (t.getInp i).presetGo = none ∧
      (t.getInp i).imp = (if x.presetDir then x.imp else v) ∧ (t.getInp i).exp = (if x.presetDir then v else x.exp) ∧
      (t.getInp i).count = x.count ∧ (∀ j, j ≠ i.val → t.getInp j = s.getInp j) ∧
      Logged (ent .legacyPreset s.now i [(1, r), (1, h), (9, (if x.presetDir then x.exp else x.imp).val), (9, x.presetVal),
        (4, s.role.audit)] s) t ∧
      t = { s with pulse := { s.pulse with inp := t.pulse.inp }, log := t.log
                   role := { s.role with audit := (s.role.audit + 1) % 2 ^ 32 } })

/-! ## Chapter 9: spectra -/

/-- HARM_CYCLE_SAMPLE, SH_RAW_SAMPLE and SP_UTC_WRITE. R218: an engine takes the scaled cycle sample of a bound slot into the window that
the sample belongs to; a derived I2 takes the negative sum of I1 and I3; R225: a class that makes a gap marks the window. R237: a lane
takes the raw samples of the entry that it visits, and of no other. R231: SP_UTC takes the offset. -/
def Obligations.SpectralSamplesTaken : Prop :=
  (∀ (c : Fin 160) (slot : Fin 8) (s : State) (n gi k : Nat) (x : PlanCtx), s.up islSpect = true → s.ctxKeys c = [n] → s.harmFor n < 5 →
    s.spRuns (s.harmFor n) = true → s.ctxGrp n = some gi →
    let m := (s.getSpBind (8 * n + slot)).next
    k = (s.getGrp gi).winOf (s.winCycles gi) (m / 512) → (s.planWin gi k).bind (fun p => p.ctx? n) = some x →
    (s.getGrp gi).started = true → s.beyondSwap gi (m / 512) = false →
    let w : HarmWin := tget {} (s.getSpBind (8 * n + slot)).wins k
    (∀ e, (x.headOf slot).isSome = true → s.csample n slot m = some e →
      ∃ t, exec (.harmCycleSample c slot) s = .next t ∧ (t.getSpBind (8 * n + slot)).next = m + 1 ∧
        (tget {} (t.getSpBind (8 * n + slot)).wins k).y = (x.slot slot).scaled e.det e.step 1 e.val :: w.y ∧
        (tget {} (t.getSpBind (8 * n + slot)).wins k).gap = (w.gap || decide (e.cls = 2 ∨ e.cls = 3 ∨ e.cls = 5 ∨ e.cls = 6)) ∧
        (tget {} (t.getSpBind (8 * n + slot)).wins k).unsettled = (w.unsettled || decide (e.cls = 1)) ∧
        (∀ j, j ≠ 8 * n + slot.val → t.getSpBind j = s.getSpBind j) ∧ t = { s with spec := { s.spec with bind := t.spec.bind } }) ∧
    (∀ e1 e3, slot = 5 → x.kind = 3 → x.headOf 5 = none → s.csample n 4 m = some e1 → s.csample n 6 m = some e3 →
      ∃ t, exec (.harmCycleSample c slot) s = .next t ∧ (t.getSpBind (8 * n + slot)).next = m + 1 ∧
        (tget {} (t.getSpBind (8 * n + slot)).wins k).y =
          -((x.slot 4).scaled e1.det e1.step 1 e1.val + (x.slot 6).scaled e3.det e3.step 1 e3.val) :: w.y ∧
        (∀ j, j ≠ 8 * n + slot.val → t.getSpBind j = s.getSpBind j) ∧ t = { s with spec := { s.spec with bind := t.spec.bind } })) ∧
  (∀ (l : Fin 8) (s : State) (q : Raw) (rest : List Raw) (k : Nat), s.up islSpect = true → s.inWarning = false →
    (s.getLane l).queue = q :: rest → s.windowAt s.spec.refGrp (2 * q.idx) = some k →
    (∀ r j f e, s.roundOf k = some r → r.visit s.spec.roster.length l k = some (j, f) → s.spec.roster[j]? = some e →
      ∃ t, exec (.shRawSample l) s = .next t ∧ (t.getLane l).queue = rest ∧
        (tget {} (t.getLane l).wins k).z = scaleBy (e.scale.getD q.step (0, 0)) false q.code :: (tget {} (s.getLane l).wins k).z ∧
        (∀ w, w ≠ k → tget {} (t.getLane l).wins w = tget {} (s.getLane l).wins w) ∧
        (∀ j, j ≠ l.val → t.getLane j = s.getLane j) ∧ t = { s with spec := { s.spec with lane := t.spec.lane } }) ∧
    ((∀ r, s.roundOf k = some r → r.visit s.spec.roster.length l k = none) →
      ∃ t, exec (.shRawSample l) s = .next t ∧ t.getLane l = { s.getLane l with queue := rest } ∧
        (∀ j, j ≠ l.val → t.getLane j = s.getLane j) ∧ t = { s with spec := { s.spec with lane := t.spec.lane } })) ∧
  (∀ (p : Fin 4) (v : BitVec 16) (s : State), MayAct s p 2 islSpect →
    ∃ t, exec (.spUtcWrite p v) s = .next t ∧ Audited p 0x0E1040 (spRead s 0x40) (v.setWidth 32) s
      { s with spec := { s.spec with utcSet := true, utc := v.toNat } } t)

/-- HARM_WINDOW_DONE and SH_WINDOW_DONE. R216, R228: an engine that has every sample of the window prepares the result of each of its
bindings for the commit, sends its token, and credits the outputs of harmonic accumulators (R201); committed results and accumulators
stay. R239, R240: a supraharmonic engine sends its token for the window it has analysed, once
the window before it has been committed; R243: the windows of the old roster end where a swap brings a new one. -/
def Obligations.SpectralWindowsDone : Prop :=
  (∀ (e : Fin 5) (g : Fin 16) (b : Nat) (s : State), s.up islSpect = true →
    let k := (s.getGrp g).lastK + 1
    let a := (s.getGrp g).twOf (k - 1)
    s.spRuns e = true → k ≤ (s.getGrp g).closed → s.engBlocks e = [b] → s.engWin b g k ≠ [] → s.hasToken g k (8 + b) = false →
    s.engFull b g k = true → s.hasToken g k 16 = true ∨ s.ev.down = true → (s.engWin b g k).Pairwise (fun x y => x.c ≠ y.c) →
    ∃ t, exec (.harmWindowDone e g) s = .next t ∧ t.rs.tokens = s.rs.tokens ++ [(g.val, k, 8 + b)] ∧
      (∀ x ∈ s.engWin b g k, ∀ i ∈ x.specSlots, (∃ r, (t.getSpBind (8 * x.c + i)).pend = some r ∧ r.k = k) ∧
        (t.getSpBind (8 * x.c + i)).res = (s.getSpBind (8 * x.c + i)).res) ∧
      (∀ (o : Fin 16) (x : PlanCtx),
        let w := (s.getOut o).useAt a
        (s.planWin g k).bind (fun p => p.num? w.cfg.ctx) = some x → x ∈ s.engWin b g k → w.isFor g = true → w.cfg.mode = 1 →
        0x28 ≤ w.cfg.acc → (t.getOut o).credited = ((s.getOut o).credited +
          ((if w.rebase then 0 else (s.getOut o).rho) + t.quanta x k w.cfg.acc) / w.cfg.weight) % 2 ^ 64) ∧
      (∀ o, (t.getOut o).issued = (s.getOut o).issued) ∧ (∀ c, (t.getCtx c).acc = (s.getCtx c).acc ∧ (t.getCtx c).k = (s.getCtx c).k) ∧
      t = { s with rs := { s.rs with tokens := t.rs.tokens }, tally := t.tally, pulse := t.pulse, spec := t.spec, gal := t.gal,
                   host := t.host, log := t.log }) ∧
  (∀ (e : Fin 2) (s : State), s.up islSpect = true →
    let g := s.getGrp s.spec.refGrp
    let k := max (s.getSpEng (5 + e)).doneK g.winBase + 1
    s.spRuns (5 + e) = true → s.inWarning = false → k ≤ g.closed → k ≤ g.lastK + 1 → s.spec.roster ≠ [] → (s.roundOf k).isSome = true →
    (∀ l ∈ s.shLanes e k, (tget {} (s.getLane l).wins k).z.length = g.twOf k - g.twOf (k - 1)) → s.rosterEnds k = false →
    ∃ t, exec (.shWindowDone e) s = .next t ∧ t.getSpEng (5 + e) = { s.getSpEng (5 + e) with doneK := k } ∧
      t.rs.tokens = s.rs.tokens ++ [(s.spec.refGrp, k, 14 + e.val)] ∧ (∀ j, j ≠ 5 + e.val → t.getSpEng j = s.getSpEng j) ∧
      (s.spec.swap = none → (∀ l, l ∉ s.shLanes e k → t.getLane l = s.getLane l) ∧ (∀ l, (t.getLane l).queue = (s.getLane l).queue) ∧
        t.spec.roster = s.spec.roster ∧ t.spec.shK = s.spec.shK ∧ t.spec.bind = s.spec.bind) ∧
      t = { s with rs := { s.rs with tokens := t.rs.tokens }, spec := t.spec, gal := t.gal })

/-! ## Chapter 10: events -/

/-- EVENT_HALF_CYCLE. R246, R247: the context's next value is formed at the next boundary, once its samples are there. R250, R251: a
value of an evaluable channel below the sag threshold starts a sag in an armed context that has none, and counts it; with no such value
none starts. With the evaluation off, or Udin 0, no detector and no count changes. R263: the third residue mismatch within ten seconds
puts the event unit down, which is logged.

EVENT_WINDOW_DONE and EV_CFG_WRITE. R22, R259: with every value of the window evaluated the event unit prepares the status of each of
the group's contexts for the commit and sends its token; what is committed stays. R24, R255: a write of CTX_EV_CFG waits for the first
window that begins after it; R262: in a swap, from T_sw on it changes the new plan's settings. -/
def Obligations.EventsDetectedAndWindowsClosed : Prop :=
  ((∀ (c : Fin 160) (s : State) (n gi k : Nat) (x : PlanCtx), s.up islResamp = true → s.ev.down = false → s.ctxKeys c = [n] →
     s.ctxGrp n = some gi →
     let e := s.getEvc n
     let b := e.nextB
     e.zAsk = [] → (s.planWin gi (s.evDone gi + 1)).bind (fun p => p.ctx? n) = some x → x.c = n → (s.getGrp gi).started = true →
     s.swapHold gi = false → k = (s.getGrp gi).winOf (s.winCycles gi) ((b - 1) / 512) → k ≤ s.evDone gi + 1 →
     (∀ i ∈ x.voltSlots, b ≤ s.nextOf n i) → ((s.getGrp gi).cyc (b / 512)).isSome = true →
     let v := s.halfCycle gi x b k
     ∃ t, exec (.eventHalfCycle c 0) s = .next t ∧ (t.getEvc n).lastB = b ∧ (t.getEvc n).j = e.j + 1 ∧ (t.getEvc n).com = e.com ∧
       (t.getEvc n).pend = e.pend ∧
       (e.set_.enable = false ∨ e.set_.udin = 0 → (t.getEvc n).sag = e.sag ∧ (t.getEvc n).swell = e.swell ∧ (t.getEvc n).int_ = e.int_ ∧
         (t.getEvc n).armed = e.armed ∧ (t.getEvc n).recs = e.recs ∧ (t.getEvc n).sags = e.sags) ∧
       (e.set_.enable = true → e.set_.udin ≠ 0 → e.armed = true → e.sag.active = false →
         ((∃ i, i < v.u.length ∧ i < v.ok.length ∧ v.ok.getD i false = true ∧ v.u.getD i 0 < e.set_.limits.1) →
           (t.getEvc n).sag.active = true ∧ (t.getEvc n).sags = (e.sags + 1) % 65536 ∧ (t.getEvc n).sag.start = v.start) ∧
         ((∀ i, i < v.u.length → v.ok.getD i false = true → e.set_.limits.1 ≤ v.u.getD i 0) →
           (t.getEvc n).sag.active = false ∧ (t.getEvc n).sags = e.sags % 65536)) ∧
       (∀ j, j ≠ n → t.getEvc j = s.getEvc j) ∧ t = { s with ev := { s.ev with ctx := t.ev.ctx } }) ∧
   (∀ (c : Fin 160) (s : State), s.up islResamp = true → s.ev.down = false → 3 ≤ (addFault s.now s.ev.faults).length →
     ∃ t, exec (.eventHalfCycle c 1) s = .next t ∧ t.ev.down = true ∧ t.ev.residue = min 0xFFFF (s.ev.residue + 1) ∧
       (∀ j, (t.getEvc j).com = (s.getEvc j).com) ∧ Logged (ent .eventUnitDown s.now 0 [(1, 0)] s) t ∧
       t = { s with ev := t.ev, gal := t.gal, log := t.log })) ∧
  ((∀ (g : Fin 16) (s : State) (p : Plan), s.up islResamp = true → s.ev.down = false →
     let k := s.evDone g + 1
     let upto := 512 * (s.getGrp g).firstCyc (s.winCycles g) (k + 1)
     s.planWin g k = some p → (s.getGrp g).started = true → k ≤ (s.getGrp g).closed → k ≤ (s.getGrp g).lastK + 1 → s.switchDue g k = false →
     (∀ x ∈ p.ctxsOf g, upto < (s.getEvc x.c).nextB ∧ ∀ i ∈ x.voltSlots, upto ≤ s.nextOf x.c i) →
     ∃ t, exec (.eventWindowDone g) s = .next t ∧ t.rs.tokens = s.rs.tokens ++ [(g.val, k, 16)] ∧ t.evDone g = k ∧
       (∀ x ∈ p.ctxsOf g, (t.getEvc x.c).pend.isSome = true ∧ ∀ r ∈ (t.getEvc x.c).recs, k < r.win) ∧
       (∀ c, (t.getEvc c).com = (s.getEvc c).com) ∧ (∀ c, (∀ x ∈ p.ctxsOf g, x.c ≠ c) → t.getEvc c = s.getEvc c) ∧
       t = { s with rs := { s.rs with tokens := t.rs.tokens }, ev := t.ev, gal := t.gal }) ∧
   (∀ (q : Fin 4) (c : Fin 160) (v : Word) (s : State) (x : PlanCtx), MayAct s q 2 tgtEvent → (s.glb.half = true → c.val < 80) →
     s.ctxNow c = some x →
     let w := s.evWritten c
     (s.evNext c = none → w = (c.val, (s.getEvc c).shown)) ∧
     ∃ t u, exec (.evCfgWrite q c v) s = .next t ∧ u.getEvc w.1 = { s.getEvc w.1 with
         wr := (s.tb.idx, { w.2 with enable := bit v 31, intRule := bit v 30, hyst := bits v 6 0 }) :: (s.getEvc w.1).wr } ∧
       (∀ j, j ≠ w.1 → u.getEvc j = s.getEvc j) ∧ u = { s with ev := { s.ev with ctx := u.ev.ctx } } ∧
       Audited q (0x100C00 + 0x1000 * c) (evCtxRead s c 0xC00) v s u t))


/-- Each command by which a unit takes the next sample, cycle, half-cycle or window that waits for it completes whenever what it needs is
there, and moves the unit on by exactly one: CYCLE_SAMPLE_FORM (R159), TALLY_FLAT_SAMPLE (R178), TALLY_CYCLE (R179),
TALLY_FLAT_CHECKPOINT (R307), HARM_CYCLE_SAMPLE (R218), SH_RAW_SAMPLE (R237), EVENT_HALF_CYCLE (R246) and EVENT_WINDOW_DONE (R22). So do
the writes EV_CFG_WRITE (R255) and SP_UTC_WRITE (R231): the new settings are recorded. -/
def Obligations.WaitingSamplesAreTaken : Prop :=
  (∀ (c : Fin 160) (slot : Fin 8) (s : State) (y gi h : Nat) (pc : PlanCtx) (cy : Cyc) (x : CSample), s.up islResamp = true →
    s.ctxKeys c = [y] → s.ctxGrp y = some gi →
    let m := s.nextOf y slot
    let k := (s.getGrp gi).winOf (s.winCycles gi) (m / 512)
    (s.getGrp gi).started = true → s.beyondSwap gi (m / 512) = false → (s.getGrp gi).cyc (m / 512) = some cy →
    (s.planWin gi k).bind (fun p => p.ctx? y) = some pc → pc.headOf slot = some h →
    formSample s (s.getGrp gi) h m cy (s.serveFor gi h k (cy.tau (m % 512))) = some x → s.cycleHeld pc slot x.tau = none →
    ∃ t, exec (.cycleSampleForm c slot) s = .next t ∧ t.nextOf y slot = m + 1) ∧
  (∀ (c : Fin 160) (s : State) (y gi k l m : Nat) (t2 : Int) (x : PlanCtx) (sels : List Sel), s.up islTally = true →
    s.ctxKeys c = [y] → s.tallyRuns y = true → s.ctxGrp y = some gi → (s.getGrp gi).started = true →
    s.flatNext gi y = some (x, l, m, t2) → s.windowAt gi t2.toNat = some k → s.flatSels gi x t2 l k = some sels →
    (∀ q, (s.getGrp gi).swapClose (s.winCycles gi) = some q → t2 < 2 * (q.2 : Int)) → s.stopAt = none →
    ∃ t, exec (.tallyFlatSample c) s = .next t ∧ (t.getCtx y).nextFlat = some (t2 + 1).toNat) ∧
  (∀ (c : Fin 160) (s : State) (y gi : Nat) (cy : Cyc) (x : PlanCtx), s.up islTally = true → s.ctxKeys c = [y] →
    s.tallyRuns y = true → s.ctxGrp y = some gi →
    let cyc := (s.getCtx y).nextCyc
    (s.getGrp gi).started = true → s.beyondSwap gi cyc = false → (s.getGrp gi).cyc cyc = some cy → s.cycleStopped cy = false →
    (s.planWin gi ((s.getGrp gi).winOf (s.winCycles gi) cyc)).bind (fun p => p.ctx? y) = some x →
    (∀ i ∈ x.bound, 512 * (cyc + 1) ≤ s.nextOf y i) →
    ∃ t, exec (.tallyCycle c) s = .next t ∧ (t.getCtx y).nextCyc = cyc + 1) ∧
  (∀ (u : Fin 9) (s : State), s.up islTally = true → (s.getUnit u).retired = false → (s.getUnit u).replay = none →
    (s.getUnit u).ckDue s.now = true → ∃ t, exec (.tallyFlatCheckpoint u) s = .next t ∧ (t.getUnit u).ckAt = some s.now) ∧
  (∀ (c : Fin 160) (slot : Fin 8) (s : State) (n gi : Nat) (x : PlanCtx) (e : CSample), s.up islSpect = true → s.ctxKeys c = [n] →
    s.harmFor n < 5 → s.spRuns (s.harmFor n) = true → s.ctxGrp n = some gi →
    let m := (s.getSpBind (8 * n + slot)).next
    (s.planWin gi ((s.getGrp gi).winOf (s.winCycles gi) (m / 512))).bind (fun p => p.ctx? n) = some x →
    (s.getGrp gi).started = true → s.beyondSwap gi (m / 512) = false → (x.headOf slot).isSome = true → s.csample n slot m = some e →
    ∃ t, exec (.harmCycleSample c slot) s = .next t ∧ (t.getSpBind (8 * n + slot)).next = m + 1) ∧
  (∀ (l : Fin 8) (s : State) (q : Raw) (rest : List Raw), s.up islSpect = true → s.inWarning = false →
    (s.getLane l).queue = q :: rest → (s.windowAt s.spec.refGrp (2 * q.idx)).isSome = true →
    ∃ t, exec (.shRawSample l) s = .next t ∧ (t.getLane l).queue = rest) ∧
  (∀ (c : Fin 160) (s : State) (n gi : Nat) (x : PlanCtx), s.up islResamp = true → s.ev.down = false → s.ctxKeys c = [n] →
    s.ctxGrp n = some gi →
    let b := (s.getEvc n).nextB
    (s.getEvc n).zAsk = [] → (s.planWin gi (s.evDone gi + 1)).bind (fun p => p.ctx? n) = some x → x.c = n →
    (s.getGrp gi).started = true → s.swapHold gi = false →
    (s.getGrp gi).winOf (s.winCycles gi) ((b - 1) / 512) ≤ s.evDone gi + 1 → (∀ i ∈ x.voltSlots, b ≤ s.nextOf n i) →
    ((s.getGrp gi).cyc (b / 512)).isSome = true →
    ∃ t, exec (.eventHalfCycle c 0) s = .next t ∧ (t.getEvc n).lastB = b) ∧
  (∀ (g : Fin 16) (s : State) (p : Plan), s.up islResamp = true → s.ev.down = false →
    let k := s.evDone g + 1
    let upto := 512 * (s.getGrp g).firstCyc (s.winCycles g) (k + 1)
    s.planWin g k = some p → (s.getGrp g).started = true → k ≤ (s.getGrp g).closed → k ≤ (s.getGrp g).lastK + 1 → s.switchDue g k = false →
    (∀ x ∈ p.ctxsOf g, upto < (s.getEvc x.c).nextB ∧ ∀ i ∈ x.voltSlots, upto ≤ s.nextOf x.c i) →
    ∃ t, exec (.eventWindowDone g) s = .next t ∧ t.evDone g = k) ∧
  (∀ (q : Fin 4) (c : Fin 160) (v : Word) (s : State) (x : PlanCtx), MayAct s q 2 tgtEvent → (s.glb.half = true → c.val < 80) →
    s.ctxNow c = some x → ∃ t, exec (.evCfgWrite q c v) s = .next t ∧
      (t.getEvc (s.evWritten c).1).wr = (s.tb.idx, { (s.evWritten c).2 with enable := bit v 31, intRule := bit v 30, hyst := bits v 6 0 }) ::
        (s.getEvc (s.evWritten c).1).wr) ∧
  (∀ (p : Fin 4) (v : BitVec 16) (s : State), MayAct s p 2 islSpect →
    ∃ t, exec (.spUtcWrite p v) s = .next t ∧ t.spec.utcSet = true ∧ t.spec.utc = v.toNat)

/-! ## Chapter 11: the hall plan -/

namespace Sys2Proof.Cert

/-- The PLAN_COMMAND record of a command (R285, R416). -/
def planEnt (p : Fin 4) (cmd code : Nat) (s t : State) : LogEnt :=
  ent .planCommand s.now 0 [(1, (s.getRolePort p).role), (1, p), (1, cmd), (1, planStCode s.plan.st), (1, planStCode t.plan.st), (1, code),
    (4, s.role.audit)] s

/-- What every command of PLAN_CMD leaves: one record, counted. -/
def PlanLogged (p : Fin 4) (cmd code : Nat) (s t : State) : Prop :=
  Logged (planEnt p cmd code s t) t ∧ t.role = { s.role with audit := (s.role.audit + 1) % 2 ^ 32 }

end Sys2Proof.Cert

/-- PLAN_STAGE, PLAN_SWAP and PLAN_CANCEL. R284, R285: STAGE begins a staging from NONE, IN_FORCE or STAGED; a command that the state does
not allow gives BUSY (0x20), SWAP without a staged plan NO_STAGED (0x21), and changes nothing else. R286: SWAP waits while a bank fade
runs. R285: CANCEL of a staged plan gives it up, CANCEL of a staging or of a preparation breaks it off. Every command is logged with the role
and the port. R443: in a warning neither STAGE nor SWAP begins (that they give ABORTED, 0x29, is the model's choice, log entry 137). -/
def Obligations.PlanCommands : Prop :=
  ∀ (p : Fin 4) (s : State), MayAct s p 2 islSteward →
    (s.inWarning = true →
      (∃ t, exec (.planStage p) s = .next (wordDone p t) ∧ t.plan = { s.plan with result := 0x29 } ∧ PlanLogged p 1 0x29 s t ∧
        t = { s with plan := t.plan, role := t.role, log := t.log }) ∧
      (∃ t, exec (.planSwap p) s = .next (wordDone p t) ∧ t.plan = { s.plan with result := 0x29 } ∧ PlanLogged p 2 0x29 s t ∧
        t = { s with plan := t.plan, role := t.role, log := t.log })) ∧
    (s.inWarning = false → s.plan.st = .none ∨ s.plan.st = .inForce ∨ s.plan.st = .staged →
      ∃ t, exec (.planStage p) s = .next (wordDone p t) ∧ t.plan = { s.plan with
          st := .staging, next := none, result := 0, stagedFrom := (if s.plan.cur.isSome then .inForce else .none)
          by_ := (p.val, (s.getRolePort p).role), runSrc := s.plan.stageSrc, runLen := s.plan.stageLen, stageAt := s.tb.idx
          dirty := false } ∧
        PlanLogged p 1 0 s t ∧ t = { s with plan := t.plan, host := t.host, role := t.role, log := t.log }) ∧
    (s.inWarning = false → s.plan.st = .loading ∨ s.plan.st = .staging ∨ s.plan.st = .preparing ∨ s.plan.st = .switching →
      (∃ t, exec (.planStage p) s = .next (wordDone p t) ∧ t.plan = { s.plan with result := 0x20 } ∧ PlanLogged p 1 0x20 s t ∧
        t = { s with plan := t.plan, role := t.role, log := t.log }) ∧
      (∃ t, exec (.planSwap p) s = .next (wordDone p t) ∧ t.plan = { s.plan with result := 0x20 } ∧ PlanLogged p 2 0x20 s t ∧
        t = { s with plan := t.plan, role := t.role, log := t.log })) ∧
    (s.inWarning = false → s.plan.st = .none ∨ s.plan.st = .inForce →
      ∃ t, exec (.planSwap p) s = .next (wordDone p t) ∧ t.plan = { s.plan with result := 0x21 } ∧ PlanLogged p 2 0x21 s t ∧
        t = { s with plan := t.plan, role := t.role, log := t.log }) ∧
    (s.inWarning = false → s.plan.st = .staged → s.fading = true →
      ∃ t, exec (.planSwap p) s = .next (wordDone p t) ∧ t.plan = { s.plan with
          st := .swapWait, swapFrom := s.plan.swapAt, result := 0, by_ := (p.val, (s.getRolePort p).role) } ∧
        PlanLogged p 2 0 s t ∧ t = { s with plan := t.plan, host := t.host, role := t.role, log := t.log }) ∧
    (s.plan.st = .none ∨ s.plan.st = .loading ∨ s.plan.st = .inForce ∨ s.plan.st = .switching →
      ∃ t, exec (.planCancel p) s = .next (wordDone p t) ∧ t.plan = s.plan ∧ PlanLogged p 3 0 s t ∧ t = { s with role := t.role, log := t.log }) ∧
    (s.plan.st = .staged →
      ∃ t, exec (.planCancel p) s = .next (wordDone p t) ∧ t.plan.st = (if s.plan.cur.isSome then .inForce else .none) ∧ t.plan.next = none ∧
        t.plan.cur = s.plan.cur ∧ t.plan.slot = s.plan.slot ∧ t.plan.result = 0x2A ∧ PlanLogged p 3 0x2A s t ∧
        t = { s with plan := t.plan, host := t.host, role := t.role, log := t.log }) ∧
    (s.plan.st = .staging →
      ∃ t, exec (.planCancel p) s = .next (wordDone p t) ∧ t.plan.st = (if s.plan.cur.isSome then .inForce else .none) ∧ t.plan.cur = s.plan.cur ∧
        t.plan.slot = s.plan.slot ∧ t.plan.result = 0x2A ∧ PlanLogged p 3 0x2A s t ∧
        t = { s with plan := t.plan, host := t.host, role := t.role, log := t.log, fresh := t.fresh }) ∧
    (s.plan.st = .preparing →
      ∃ t, exec (.planCancel p) s = .next (wordDone p t) ∧ t.plan.st = .staged ∧ t.plan.cur = s.plan.cur ∧ t.plan.next = s.plan.next ∧
        t.plan.result = 0x2A ∧ PlanLogged p 3 0x2A s t)

/-- PLAN_LOAD and PLAN_HIST_SELECT. R281: a valid image in the slot selected comes into force, its rings train (R83), its heads are
awaited and its groups are in SEARCH (R164); R283: an image that a check fails is logged as PLAN_LOAD_FAIL with its code and fields, and REJECTED is set. R268: the entry
selected is copied into PLAN_HIST_DATA, all ones where no such entry is written.

PLAN_STAGE_DONE. R284: an image that passes every check is stored in the free slot and staged; R280: one that a check fails sets
REJECTED and PLAN_ERR, gives the check's code and is logged as PLAN_REJECTED; a slot that does not read back gives 0x28; with a write of
a host to the upload area in STAGING it ends with BAD_CRC or FLASH_FAIL; an uploaded image with an uncorrectable word (R362) has a bad CRC.
The plan in force stays as it is in each case. -/
def Obligations.PlanLoadedOrStaged : Prop :=
  ((∀ (s : State), s.stewUp = true → s.plan.st = .loading → s.inWarning = false →
     let p := (s.slotImage s.plan.slot).plan
     let chk := (s.slotImage s.plan.slot).loadCheck (s.planEnv 0x100000)
     ∃ t, exec .planLoad s = .next t ∧
       (chk = none → t.plan.cur = some p ∧ t.plan.next = none ∧ t.plan.st = .inForce ∧ t.plan.slot = s.plan.slot ∧
         t.plan.fallback = false ∧ t.plan.result = 0 ∧ (∀ r ∈ p.rings, (t.getRing r.ring).st = .train) ∧
         (∀ r, (∀ q ∈ p.rings, q.ring ≠ r) → t.getRing r = s.getRing r) ∧
         (∀ h ∈ p.heads, (t.getHead (128 * h.ring + h.pos)).st = .absent) ∧
         (∀ g ∈ p.groups, (t.getGrp g.g).st = .search) ∧ (∀ j, (∀ g ∈ p.groups, g.g ≠ j) → t.getGrp j = s.getGrp j) ∧
         t = { s with port := t.port, ring := t.ring, head := t.head, stair := t.stair, rs := { s.rs with grp := t.rs.grp }, tally := t.tally,
                      pulse := t.pulse, spec := t.spec, ev := t.ev, plan := t.plan, gal := t.gal, host := t.host, pwr := { s.pwr with loadMs := t.pwr.loadMs }, log := t.log }) ∧
       (∀ e, chk = some e → e.entry < 0x10000 → t.plan.rejected = true ∧
         Logged (ent .planLoadFail s.now s.plan.slot [(1, e.code), (2, e.sect), (2, e.entry), (4, e.off)] s) t)) ∧
   (∀ (q : Fin 4) (seq : Word) (s : State), MayAct s q 2 islSteward →
     ∃ t u, exec (.planHistSelect q seq) s = .next t ∧ u.plan.histSel = seq.toNat ∧
       (histSeq? s.plan.flash (seq.toNat % 16384) ≠ some seq.toNat → u.plan.histData = List.replicate 64 0xFF) ∧
       (histSeq? s.plan.flash (seq.toNat % 16384) = some seq.toNat →
         u.plan.histData = mgets flashDefault s.plan.flash (0x200000 + 0x40 * (seq.toNat % 16384)) 64) ∧
       u = { s with plan := { s.plan with histSel := u.plan.histSel, histData := u.plan.histData } } ∧
       Audited q 0x00013C (planRead s 0x3C) seq s u t)) ∧
  (∀ (s : State), s.stewUp = true → s.plan.st = .staging → s.inWarning = false →
     s.plan.dirty = false → (s.plan.runSrc = true ∨ s.badWords 5 0x60000 s.stageImage.2 = []) →
     let b := s.stageImage.1
     let chk := b.stageCheck (s.planEnv s.stageImage.2) s.plan.cur s.spareEngines.length
     ∀ ok, ∃ t, exec (.planStageDone ok) s = .next t ∧
       (chk ≠ none ∨ ok = false ∨ s.plan.cur.isSome = true → t.plan.cur = s.plan.cur ∧ t.plan.slot = s.plan.slot) ∧
       (∀ e, chk = some e → e.entry < 0x10000 →
         t.plan.st = (if s.plan.cur.isSome then .inForce else .none) ∧ t.plan.rejected = true ∧ t.plan.result = e.code ∧
         t.plan.errSection = e.sect ∧ t.plan.errEntry = e.entry ∧ t.plan.errOffset = e.off ∧
         Logged (ent .planRejected s.now 0 [(1, e.code), (2, e.sect), (2, e.entry), (4, e.off)] s) t ∧
         t = { s with plan := t.plan, host := t.host, log := t.log }) ∧
       (chk = none → ok = false → t.plan.st = (if s.plan.cur.isSome then .inForce else .none) ∧
         t.plan.rejected = true ∧ t.plan.result = 0x28 ∧ t = { s with plan := t.plan, host := t.host, log := t.log }) ∧
       (chk = none → ok = true → s.plan.cur.isSome = true → t.plan.st = .staged ∧
         t.plan.next = some b.plan ∧ t.plan.result = 0 ∧ t.plan.rejected = s.plan.rejected ∧ t = { s with plan := t.plan, host := t.host })) ∧
  (∀ (s : State) ok, s.stewUp = true → s.plan.st = .staging → s.inWarning = false → s.plan.dirty = false → s.plan.runSrc = false →
     s.badWords 5 0x60000 s.stageImage.2 ≠ [] →
     ∃ t, exec (.planStageDone ok) s = .next t ∧ t.plan.st = (if s.plan.cur.isSome then .inForce else .none) ∧ t.plan.rejected = true ∧
       t.plan.result = 0x03 ∧ t.plan.cur = s.plan.cur ∧ t = { s with plan := t.plan, gal := t.gal, host := t.host, log := t.log }) ∧
  (∀ (s : State) ok, s.stewUp = true → s.plan.st = .staging → s.inWarning = false → s.plan.dirty = true →
     ∃ t, exec (.planStageDone ok) s = .next t ∧ t.plan.st = (if s.plan.cur.isSome then .inForce else .none) ∧ t.plan.rejected = true ∧
       (t.plan.result = 0x03 ∨ t.plan.result = 0x28) ∧ t.plan.cur = s.plan.cur ∧
       t = { s with plan := t.plan, gal := t.gal, host := t.host, log := t.log, fresh := t.fresh })

/-- PLAN_PREPARE, PREPARE_TIMEOUT and SWAP_ARM. R286, R287: a waiting swap enters PREPARING when no fade runs, and its new rings train;
with rings and heads ready each started group has its new bank in the inactive one; 192,000 ticks after preparation began, what is
not ready is treated as absent, a head with HEAD_ABSENT (R85), also one whose position another head still holds. R289: at T_p the swap is armed, and each group that moves no ring waits for a close at or after
T_p + 1,536.

SWAP_SWITCH and SWAP_COMPLETE. R290: a group switches at the close it waited for: T_sw is recorded, the group takes the new plan's N
and M, and no other group's cycles change; accumulators and context status stay; R349: outings of heads that leave the plan end. R291: with every group switched the new plan is in
force from the other slot, the old one is kept for the windows before the switch, a ring that only the old plan has stops, and the
totals record is due. -/
def Obligations.SwapPreparedSwitchedCompleted : Prop :=
  (∀ (s : State) (o n : Plan), s.stewUp = true → s.plan.cur = some o → s.plan.next = some n →
     (s.plan.st = .swapWait → s.inWarning = false → s.fading = false → ∃ t, exec .planPrepare s = .next t ∧ t.plan.st = .preparing ∧ t.plan.prepAt = s.tb.idx ∧
       (∀ r ∈ newRings o n, (t.getRing r.ring).st = .train) ∧
       (∀ r, (∀ q ∈ newRings o n, q.ring ≠ r) → t.getRing r = { s.getRing r with cells := (t.getRing r).cells }) ∧ t.plan.cur = some o ∧ t.plan.next = some n ∧
       t = { s with port := t.port, ring := t.ring, head := t.head, stair := t.stair, plan := t.plan, host := t.host }) ∧
     (s.plan.st = .preparing → s.inWarning = false → s.plan.loaded = false → s.prepared = true → s.fading = false →
       n.groups.Pairwise (fun a b => a.g ≠ b.g) →
       ∃ t, exec .planPrepare s = .next t ∧ t.plan = { s.plan with loaded := true } ∧
         (∀ g ∈ n.groups, (s.getGrp g.g).started = true →
           (if (t.getGrp g.g).bankB then (t.getGrp g.g).hB else (t.getGrp g.g).hA) =
             (if (s.getGrp g.g).bankNow then (s.getGrp g.g).hB else (s.getGrp g.g).hA) ∧
           ((if (s.getGrp g.g).bankNow then (s.getGrp g.g).hB else (s.getGrp g.g).hA) ≠ g.bank →
             (if (t.getGrp g.g).bankB then (t.getGrp g.g).hA else (t.getGrp g.g).hB) = g.bank)) ∧
         (∀ j, (∀ g ∈ n.groups, g.g ≠ j) → t.getGrp j = s.getGrp j) ∧ t = { s with rs := { s.rs with grp := t.rs.grp }, plan := t.plan }) ∧
     (s.plan.st = .preparing → s.plan.cut = false → s.plan.prepAt + 192000 ≤ s.tb.idx →
       ∃ t, exec .prepareTimeout s = .next t ∧ t.plan = { s.plan with cut := true } ∧
         (∀ h ∈ newHeads o n, (t.getHead h.num).st = (if (s.getHead h.num).st = .admitted then .admitted else .absent)) ∧
         (∀ j, (∀ h ∈ newHeads o n, h.num ≠ j) → t.getHead j = s.getHead j) ∧
         ((s.getLogSrc (troubleChan 3)).chan.length + (newHeads o n).length ≤ 28 →
           ∀ h ∈ newHeads o n, (s.getHead h.num).st = .joining → Logged (ent .headAbsent s.now h.num [] s) t) ∧
         ((s.getLogSrc (troubleChan 3)).chan.length + (newHeads o n).length + (takeOverHeads o n).length ≤ 28 →
           ∀ h ∈ takeOverHeads o n, Logged (ent .headAbsent s.now h.num [] s) t) ∧
         t = { s with head := t.head, plan := t.plan, log := t.log }) ∧
     (s.plan.st = .preparing → s.plan.loaded = true → s.settledHeads o n = true → s.plan.swapFrom ≤ s.tb.idx → s.allMoved = true →
       ∃ t, exec .swapArm s = .next t ∧ t.plan.st = .switching ∧ t.plan.switched = [] ∧ t.plan.moved = [] ∧ t.plan.cur = some o ∧
         t.plan.next = some (n.apart o) ∧
         (∀ g, g < 16 → (o.grp? g).isSome = true → s.movesOf g = [] → (t.getGrp g).tsw = some (s.tb.idx + 1536)) ∧
         (∀ g, g < 16 → (o.grp? g).isNone = true → (n.grp? g).isSome = true → s.movesOf g = [] → tget 0 t.plan.tsw g = s.tb.idx + 1536) ∧
         (∀ g, t.getGrp g = { s.getGrp g with tsw := (t.getGrp g).tsw }) ∧
         t = { s with stair := t.stair, rs := { s.rs with grp := t.rs.grp }, plan := t.plan, host := t.host })) ∧
  (∀ (s : State) (o n : Plan), s.stewUp = true → s.plan.st = .switching → s.plan.cur = some o → s.plan.next = some n →
     (∀ (g : Fin 16) (k w : Nat), g.val ∉ s.plan.switched → (o.grp? g).isSome = true → (n.grp? g).isSome = true →
       (s.getGrp g).swapClose (s.winCycles g) = some (k, w) → (s.getGrp g).closed = k →
       ∃ t, exec (.swapSwitch g) s = .next t ∧ tget 0 t.plan.tsw g = w ∧ g.val ∈ t.plan.switched ∧ t.plan.st = .switching ∧
         (t.getGrp g).n = (n.grpCfg g).1 ∧ (t.getGrp g).m = (n.grpCfg g).2 ∧ (t.getGrp g).tsw = none ∧
         (t.getGrp g).tw = (s.getGrp g).tw ∧ (t.getGrp g).k = (s.getGrp g).k ∧ (∀ j, j ≠ g.val → t.getGrp j = s.getGrp j) ∧
         t = { s with ring := t.ring, head := t.head, stair := t.stair, rs := t.rs, pulse := t.pulse, spec := t.spec, plan := t.plan
                      lc := t.lc, cal := t.cal, gal := t.gal, host := t.host, role := { s.role with audit := t.role.audit }, log := t.log }) ∧
     ((∀ g ∈ o.groups, g.g ∈ s.plan.switched) → (∀ g ∈ n.groups, g.g ∈ s.plan.switched) →
       ∃ t, exec .swapComplete s = .next t ∧ t.plan.st = .inForce ∧ t.plan.cur = some n ∧ t.plan.prev = some o ∧ t.plan.next = none ∧
         t.plan.slot = 1 - s.plan.slot ∧ t.plan.tsw = s.plan.tsw ∧ t.pwr = { s.pwr with saveDue := true } ∧
         (∀ r ∈ o.rings, (n.ring? r.ring).isNone = true → (t.getRing r.ring).st = .off) ∧
         (∀ c, t.getCtx c = s.getCtx c) ∧
         t = { s with port := t.port, ring := t.ring, head := t.head, headAcc := t.headAcc, stair := t.stair, pulse := t.pulse,
                      plan := t.plan, red := t.red, lc := t.lc, cal := t.cal, gal := t.gal, host := t.host, pwr := t.pwr, log := t.log }))


/-! ## Chapters 1 and 12: redundancy -/

/-- STREAM_ABSENT_RETIRE, STEWARD_RESTART and STEWARD_RESTART_COMPLETE. R293: a stream absent for more than 1,152,000 consecutive indices
is retired and logged, and one that is not yet is left alone. R31: a restarting steward is logged, and only what runs in the steward
stops; when it is back it goes on.

TALLY_FAULT. R193, R308: a fault of a serving unit starts its replay from the index of the first fault not yet recovered; R293, R304:
the third within 3,840,000 ticks retires it, its blocks move to the lowest-numbered spare, which replays, and TALLY_RETIRED names both.
No accumulator changes. -/
def Obligations.StreamsStewardAndTallyFaults : Prop :=
  ((∀ (h : Fin 4096) (d : Det) (s : State), s.stewUp = true →
     let ret : Bool := if d then (s.getHead h).retA else (s.getHead h).retP
     let absent : Nat := if d then (s.getHead h).absA else (s.getHead h).absP
     (ret = true ∨ absent ≤ 1152000 → exec (.streamAbsentRetire h d) s = .next s) ∧
     (ret = false → 1152000 < absent →
       ∃ t, exec (.streamAbsentRetire h d) s = .next t ∧ (t.getHead h).retA = ((s.getHead h).retA || d) ∧
         (t.getHead h).retP = ((s.getHead h).retP || !d) ∧ (t.getHead h).st = (s.getHead h).st ∧
         (∀ j, j ≠ h.val → (t.getHead j).retP = (s.getHead j).retP ∧ (t.getHead j).retA = (s.getHead j).retA) ∧
         Logged (ent .streamRetired s.now h [(1, if d then 1 else 0), (1, 0)] s) t ∧
         t = { s with head := t.head, red := t.red, lc := t.lc, cal := t.cal, host := t.host, log := t.log })) ∧
   (∀ s : State, s.up islSteward = true →
     (s.red.stewardDown = false → ∃ t, exec .stewardRestart s = .next t ∧ Logged (ent .stewardRestart s.now 0 [] s) t ∧
       t = { s with red := { s.red with stewardDown := true }, log := t.log }) ∧
     exec .stewardRestartComplete s = .next { s with red := { s.red with stewardDown := false } })) ∧
  (∀ (u : Fin 9) (s : State), s.up islTally = true → (s.getUnit u).retired = false → s.unitBlocks u ≠ [] →
     let fs := addFault s.now (s.getUnit u).faults
     let since := (s.getUnit u).replay.getD s.tb.idx
     (fs.length < 3 → ∃ t, exec (.tallyFault u) s = .next t ∧
       t.getUnit u = { s.getUnit u with faults := fs, transients := (s.getUnit u).transients + 1, replay := some since } ∧
       (∀ j, j ≠ u.val → t.getUnit j = s.getUnit j) ∧ t.tally.unitOf = s.tally.unitOf ∧
       (∀ c, (t.getCtx c).acc = (s.getCtx c).acc ∧ (t.getCtx c).k = (s.getCtx c).k) ∧
       (∀ c, s.unitFor c ≠ u → t.getCtx c = s.getCtx c) ∧ t = { s with tally := t.tally, red := t.red }) ∧
     (∀ v, 3 ≤ fs.length → (s.spareUnits.filter (fun w => w != u.val)).head? = some v →
       ∃ t, exec (.tallyFault u) s = .next t ∧ (t.getUnit u).retired = true ∧ (t.getUnit u).replay = none ∧
         (t.getUnit v).replay = some since ∧ t.tally.unitOf = s.tally.unitOf.map (fun e => if e.2 = u.val then (e.1, v) else e) ∧
         (∀ c, (t.getCtx c).acc = (s.getCtx c).acc ∧ (t.getCtx c).k = (s.getCtx c).k) ∧
         Logged (ent .tallyRetired s.now u [(1, 0), (1, v)] s) t ∧ t = { s with tally := t.tally, red := t.red, log := t.log }) ∧
     (3 ≤ fs.length → s.spareUnits.filter (fun w => w != u.val) = [] →
       ∃ t, exec (.tallyFault u) s = .next t ∧ (t.getUnit u).retired = true ∧ t.red.noSpare = true ∧
         t.tally.unitOf = s.tally.unitOf.map (fun e => if e.2 = u.val then (e.1, 15) else e) ∧ t.tally.ctx = s.tally.ctx ∧
         Logged (ent .tallyRetired s.now u [(1, 0), (1, 0xFF)] s) t ∧ t = { s with tally := t.tally, red := t.red, log := t.log }))

/-- HARM_FAULT, SH_FAULT and REPLAY_DONE. R217, R242: a transient fault of a spectral engine is counted and its work is done again; the
third within 3,840,000 ticks retires the engine, which is logged (R293). R309: when a replay has caught up the unit is current again;
the lag is noted and the accumulators stay.

RESTORE_GO and RESTORE_SELFTEST_DONE. R305: a request for an item that does not exist, is not retired, or cannot be reset now ends at
once with the code of the first check that fails, logged as RESTORE_FAILED; R306: a retired port comes back DOWN; a retired tally unit
is tested first, and comes back if the test passes; both are logged as RESTORED. -/
def Obligations.SpectralFaultsReplayAndRestoration : Prop :=
  ((∀ (e : Fin 5) (s : State), s.up islSpect = true → (s.getSpEng e).retired = false →
     let fs := addFault s.now (s.getSpEng e).faults
     (fs.length < 3 → s.engBlocks e ≠ [] → ∃ t, exec (.harmFault e) s = .next t ∧
       t.getSpEng e = { s.getSpEng e with
         faults := fs, upsets := min 0xFF ((s.getSpEng e).upsets + 1), replay := some ((s.getSpEng e).replay.getD s.tb.idx)
         replays := min 0xFF ((s.getSpEng e).replays + 1) } ∧
       (∀ j, j ≠ e.val → t.getSpEng j = s.getSpEng j) ∧ t.spec.blkEng = s.spec.blkEng ∧ t = { s with spec := t.spec }) ∧
     (3 ≤ fs.length → s.engBlocks e ≠ [] → (s.spareHarm.filter (fun v => v != e.val)) = [] →
       ∃ t, exec (.harmFault e) s = .next t ∧ (t.getSpEng e).retired = true ∧ t.red.noSpare = true ∧
         t.spec.blkEng = s.spec.blkEng.map (fun b => if b.2 = e.val then (b.1, 15) else b) ∧
         Logged (ent .harmRetired s.now e [(1, 0), (1, 0xFF)] s) t ∧ t = { s with spec := t.spec, red := t.red, gal := t.gal, log := t.log })) ∧
   (∀ (e : Fin 2) (s : State), s.up islSpect = true → (s.getSpEng (5 + e)).retired = false →
     let fs := addFault s.now (s.getSpEng (5 + e)).faults
     (fs.length < 3 → ∃ t, exec (.shFault e) s = .next t ∧
       t.getSpEng (5 + e) = { s.getSpEng (5 + e) with
         faults := fs, upsets := min 0xFF ((s.getSpEng (5 + e)).upsets + 1), replays := min 0xFF ((s.getSpEng (5 + e)).replays + 1) } ∧
       (∀ j, j ≠ 5 + e.val → t.getSpEng j = s.getSpEng j) ∧ t = { s with spec := { s.spec with eng := t.spec.eng } }) ∧
     (3 ≤ fs.length → ∃ t, exec (.shFault e) s = .next t ∧ (t.getSpEng (5 + e)).retired = true ∧
       Logged (ent .shRetired s.now e [(1, 0), (1, if (s.getSpEng (6 - e)).retired then 0xFF else 1 - e.val)] s) t ∧
       t.spec.bind = s.spec.bind ∧ t = { s with spec := t.spec, red := t.red, gal := t.gal, log := t.log })) ∧
   (∀ (u : Fin 9) (a : Nat) (s : State), s.up islTally = true → (s.getUnit u).replay = some a →
     ∃ t, exec (.replayDone (.tally u)) s = .next t ∧ t.getUnit u = { s.getUnit u with replay := none } ∧
       (∀ j, j ≠ u.val → t.getUnit j = s.getUnit j) ∧ t.red = { s.red with maxLag := max s.red.maxLag (min (s.tb.idx - a) 0xFFFF) } ∧
       (∀ c, (t.getCtx c).acc = (s.getCtx c).acc ∧ (t.getCtx c).k = (s.getCtx c).k) ∧
       LoggedIfRoom (ent .replay s.now u [(8, s.unitCk u), (2, min (s.tb.idx - a) 0xFFFF)] s) s t ∧
       t = { s with tally := t.tally, red := t.red, log := t.log }) ∧
   (∀ (e : Fin 5) (a : Nat) (s : State), s.up islSpect = true → (s.getSpEng e).replay = some a →
     ∃ t, exec (.replayDone (.harm e)) s = .next t ∧ t.getSpEng e = { s.getSpEng e with replay := none, taking := false } ∧
       (∀ j, j ≠ e.val → t.getSpEng j = s.getSpEng j) ∧ t.red = { s.red with maxLag := max s.red.maxLag (min (s.tb.idx - a) 0xFFFF) } ∧
       t = { s with spec := t.spec, red := t.red, log := t.log })) ∧
  ((∀ (p : Fin 4) (s : State), MayAct s p 3 islSteward → s.red.busy = false → s.red.selKind < 8 → s.red.selIndex < 8192 →
     let k := s.red.selKind
     let i := s.red.selIndex
     (∀ e, restoreRefused k i s = some e → ∃ t, exec (.restoreGo p) s = .next (wordDone p t) ∧
       Logged (ent .restoreFailed s.now i [(1, (s.getRolePort p).role), (1, p), (1, k), (1, e)] s) t ∧
       t = { s with red := { s.red with result := e, job := none }, log := t.log }) ∧
     (k = 1 → restoreRefused k i s = none → ∃ t, exec (.restoreGo p) s = .next (wordDone p t) ∧ (t.getPort i).retired = false ∧ (t.getPort i).rx = .down ∧
       (∀ j, j ≠ i → t.getPort j = s.getPort j) ∧
       Logged (ent .restored s.now i [(1, (s.getRolePort p).role), (1, p), (1, 1), (1, 0)] s) t ∧
       t = { s with port := t.port, red := { s.red with result := 0, job := none }, log := t.log }) ∧
     (k = 3 → restoreRefused k i s = none → ∃ t, exec (.restoreGo p) s = .next (wordDone p t) ∧ t.red.busy = true ∧
       t.red.job = some (3, i, p.val, (s.getRolePort p).role) ∧ (t.getUnit i).retired = true ∧ t = { s with red := t.red })) ∧
   (∀ (s : State) (i p r : Nat), s.stewUp = true → s.red.job = some (3, i, p, r) → (s.getUnit i).retired = true →
     (∃ t, exec (.restoreSelftestDone true) s = .next t ∧ t.getUnit i = { s.getUnit i with retired := false, faults := [], replay := none } ∧
       t.red.busy = false ∧ t.red.result = 0 ∧ t.red.job = none ∧ (∀ c, (t.getCtx c).acc = (s.getCtx c).acc) ∧
       Logged (ent .restored s.now i [(1, r), (1, p), (1, 3), (1, 0)] s) t ∧ t = { s with tally := t.tally, red := t.red, log := t.log }) ∧
     (∃ t, exec (.restoreSelftestDone false) s = .next t ∧ t.getUnit i = s.getUnit i ∧ t.red.busy = false ∧ t.red.result = 4 ∧
       Logged (ent .restoreFailed s.now i [(1, r), (1, p), (1, 3), (1, 4)] s) t ∧ t = { s with red := t.red, log := t.log })))

/-! ## Chapter 13: the local converter -/

/-- LC_SLOT, LC_RESULT, LC_READY and LC_CAL_BURST. R314, R320: in a running sequence an idle slot counts down DELAY; the tracking slot
samples the channel by the slice whose turn it is, whose result is due 8 CCLK later, and the sequence goes on to the next repeat or entry; R330, R331: a result due is
delivered to LC_LAST and, where its entry says so, to the FIFO, which keeps what it holds when it is full. R328: a waiting local
outing's burst is asked for behind the injected requests that are pending, 256 slots of work after the last one or later. R332: READY comes
with a background calibration of every slice; that it comes also when a slice has failed is the model's choice (log entry 125). -/
def Obligations.LocalConversions : Prop :=
  (∀ (raw : Int) (s : State), s.up islAnalog = true → s.lc.down = false → s.lc.now_ = .seq → s.lc.run = true → s.lc.running = true →
    s.lc.anyGood = true → s.lc.ready = true → s.lc.stopped = false → s.lc.burstReady = false → s.lc.nextInj = none →
    (0 < s.lc.idle → exec (.lcSlot raw) s = .next { s with lc := { s.lc with
      fly := s.lc.fly.map (fun c => { c with wait := c.wait - 1 }), turn := (s.lc.turn + 1) % 8, sinceBurst := s.lc.sinceBurst + 1
      sinceRot := s.lc.sinceRot + 1, idle := s.lc.idle - 1 } }) ∧
    (s.lc.idle = 0 →
      let e := s.lc.act.getD s.lc.entry {}
      (s.lc.rep < e.repeat_ ∨ (s.lc.goodFrom (s.lc.entry + 1)).isSome = true) →
      ∃ t c, exec (.lcSlot raw) s = .next t ∧ t.lc.fly = s.lc.fly.map (fun x => { x with wait := x.wait - 1 }) ++ [c] ∧
        c = { c with slice := s.lc.pos.getD ((s.lc.turn + 1) % 8) 0, wait := 8, raw := raw, inj := false, stale := s.lc.stale, entry := s.lc.entry, rep := s.lc.rep, ent := e,
                     trim := s.lcTrim e.chan e.diff, burst := none } ∧
        s.tb.idx - 1 ≤ c.idx ∧ c.idx ≤ s.tb.idx + 1 ∧
        (s.lc.rep < e.repeat_ → t.lc.entry = s.lc.entry ∧ t.lc.rep = s.lc.rep + 1 ∧ t.lc.idle = e.delay) ∧
        (e.repeat_ ≤ s.lc.rep → s.lc.goodFrom (s.lc.entry + 1) = some t.lc.entry ∧ t.lc.rep = 0) ∧
        t.lc.passes = s.lc.passes ∧ t.lc.fifo = s.lc.fifo ∧ t.lc.last = s.lc.last ∧ t = { s with lc := t.lc, fresh := s.fresh + 1 })) ∧
  (∀ (s : State) (c : LcConv) (rest : List LcConv), s.up islAnalog = true → s.lc.fly = c :: rest →
    (c.wait ≠ 0 → exec .lcResult s = .next s) ∧
    (c.wait = 0 → c.burst = none → c.inj = false →
      let v := lcCode c.raw c.trim c.ent.diff
      let w := lcWord v.1 c.ent.diff c.ent.fmt c.ent.align
      ∃ t, exec .lcResult s = .next t ∧ tget 0 t.lc.last c.ent.chan = w ∧ t.lc.fly = rest ∧
        (c.ent.fifo = false → t.lc.fifo = s.lc.fifo) ∧
        (c.ent.fifo = true → s.lc.fifo.length < 1024 → t.lc.fifo = s.lc.fifo ++ [(w, lcTag c v.2, c.idx)] ∧ t.lc.lost = s.lc.lost) ∧
        (c.ent.fifo = true → 1024 ≤ s.lc.fifo.length → t.lc.fifo = s.lc.fifo ∧ t.lc.ovf = true ∧ t.lc.lost = min 0xFFFF (s.lc.lost + 1)) ∧
        t.lc.entry = s.lc.entry ∧ t.lc.inj = s.lc.inj ∧ t = { s with lc := t.lc, log := t.log })) ∧
  (∀ s : State, s.up islAnalog = true → s.lc.spare = none ∨ (∀ n ∈ s.lc.calib, 1 ≤ n) → exec .lcReady s = .next { s with lc := { s.lc with ready := true } }) ∧
  (∀ (s : State) (i : Fin 16), s.up islAnalog = true → (s.getCalQ i).kind = 2 → (s.getCalQ i).st = .waiting → s.lc.down = false →
    s.lc.now_ = .seq → 256 ≤ s.lc.sinceBurst → s.lc.burstAsk = none → (∀ c ∈ s.lc.fly, c.burst = none) →
    exec .lcCalBurst s = .next { s with lc := { s.lc with burstAsk := some ((List.range 4).filter (fun j => (s.getInj j).pending)) } })

/-- LC_ROTATE. R315: the spare's new corrections put it in the place of the slice whose corrections are oldest, which becomes the spare; one
rotation every 76,800 CCLK. R316: a slice outside ±512 LSB or ±20,000 ppm fails and is logged, and rotation stops; the second such slice stops the converter.

LC_COMMIT, LC_RUN and LC_FIFO_FLUSH. R322: COMMIT takes the shadow table at once while RUN is 0, and at the next wrap otherwise; one that waits is
taken when RUN becomes 0; R323:
RUN is what the write gives it; R331: a write of LC_FIFO_CFG sets OWNER and WATERMARK and empties the FIFO. R334: each needs the
installer or maker role.

LC_INJECT and LC_FIFO_READ. R325: GO of a slot that is pending changes nothing; a channel that is not used, or a converter that is
down, ends the request at once with its result; else the slot is pending with the fields written. R331: a read of LC_FIFO by its owner
takes the oldest entry out and latches its other words; R334: another port's read is refused and takes nothing. -/
def Obligations.ConverterRotationControlAndFifo : Prop :=
  (∀ (i : Fin 9) (corr : Int × Int × Int) (s : State) (old : Nat) (rest : List Nat), s.up islAnalog = true → s.lc.down = false →
     s.lc.ages = old :: rest →
     let bad : Prop := 512 < corr.1.natAbs ∨ 20000 < corr.2.1.natAbs
     let works : Prop := s.lc.spare = some i.val ∨ i.val ∈ s.lc.ages
     (s.lc.spare = some i.val → ¬ bad → 76800 ≤ s.lc.sinceRot → ∃ t, exec (.lcRotate i corr) s = .next t ∧
       tget (0, 0, 0) t.lc.corr i = corr ∧ t.lc.spare = some old ∧ t.lc.ages = rest ++ [i.val] ∧
       t.lc.pos = s.lc.pos.map (fun a => if a = old then i.val else a) ∧ t.lc.rotations = min 0xFFFF (s.lc.rotations + 1) ∧
       t.lc.failed = s.lc.failed ∧ t = { s with lc := t.lc }) ∧
     (works → bad → s.lc.stale = false → ∃ t, exec (.lcRotate i corr) s = .next t ∧ t.lc.failed.testBit i = true ∧
       t.lc.spare = none ∧ t.lc.stale = true ∧ t.lc.down = false ∧ t.lc.running = s.lc.running ∧
       LoggedIfRoom (ent .lcSliceFail s.now i [] s) s t ∧ t = { s with lc := t.lc, log := t.log }) ∧
     (works → bad → s.lc.stale = true → ∃ t, exec (.lcRotate i corr) s = .next t ∧ t.lc.failed.testBit i = true ∧
       t.lc.down = true ∧ t.lc.running = false ∧ (∀ j, j < 4 → (t.getInj j).pending = false) ∧
       t = { s with head := t.head, lc := t.lc, cal := t.cal, host := t.host, log := t.log }) ∧
     (¬ works ∨ (¬ bad ∧ (s.lc.spare ≠ some i.val ∨ s.lc.sinceRot < 76800)) → exec (.lcRotate i corr) s = .next s)) ∧
  (∀ (p : Fin 4) (s : State), MayAct s p 2 islAnalog →
     (s.lc.shadowLen < 64 →
       (∃ t u, exec (.lcCommit p) s = .next t ∧
         (s.lc.run = true → u = { s with lc := { s.lc with commitPending := true } }) ∧
         (s.lc.run = false → u.lc.act = (List.range (s.lc.shadowLen + 1)).map (fun i => tget {} s.lc.shadow i) ∧
           u = { s with lc := { s.lc with stopped := true, act := u.lc.act, commitPending := false, badEntry := u.lc.badEntry } }) ∧
         Audited p 0x1B0000 (lcRead s 0) (lcRead s 0 ||| 0x80000000) s u t) ∧
       (∀ run, ∃ t u, exec (.lcRun p run) s = .next t ∧
         (run = true ∨ s.lc.commitPending = false → u = { s with lc := { s.lc with run := run, stopped := s.lc.stopped || !run } }) ∧
         (run = false → s.lc.commitPending = true →
           u.lc.act = (List.range (s.lc.shadowLen + 1)).map (fun i => tget {} s.lc.shadow i) ∧
           u = { s with lc := { s.lc with run := false, stopped := true, act := u.lc.act, commitPending := false, badEntry := u.lc.badEntry } }) ∧
         Audited p 0x1B0000 (lcRead s 0) ((lcRead s 0 &&& 0x3F) ||| (if run then 0x40000000 else 0)) s u t)) ∧
     (∀ v, ∃ t, exec (.lcFifoFlush p v) s = .next t ∧ Audited p 0x1B0010 (lcRead s 0x10) v s
       { s with lc := { s.lc with owner := bits v 31 30, watermark := bits v 10 0, fifo := [] } } t)) ∧
  ((∀ (p slot : Fin 4) (v : Word) (s : State), MayAct s p 1 islAnalog →
     let q : LcInj := { s.getInj slot with chan := bits v 29 24, diff := bit v 23, align := bit v 22, fmt := bit v 21, delay := bits v 15 0 }
     ((s.getInj slot).pending = true → exec (.lcInject p slot v) s = .next (wordDone p s)) ∧
     ((s.getInj slot).pending = false → ∃ t, exec (.lcInject p slot v) s = .next (wordDone p t) ∧
       t.getInj slot = (if lcBad q.chan q.diff then { q with done := true, result := 1 }
         else if s.lc.down then { q with done := true, result := 2 } else { q with pending := true }) ∧
       (∀ j, j ≠ slot.val → t.getInj j = s.getInj j) ∧ t = { s with lc := { s.lc with inj := t.lc.inj } })) ∧
   (∀ (p : Fin 4) (s : State), MayAct s p 1 islAnalog →
     (s.lc.owner ≠ p → exec (.lcFifoRead p) s = .next s) ∧
     (s.lc.owner = p → (∀ e rest, s.lc.fifo = e :: rest →
         exec (.lcFifoRead p) s = .next { s with lc := { s.lc with fifo := rest, fifoLatch := (e.2.1, e.2.2) } }) ∧
       (s.lc.fifo = [] → ∃ t, exec (.lcFifoRead p) s = .next t ∧ t.lc.fifo = [] ∧ t = { s with lc := { s.lc with fifoLatch := t.lc.fifoLatch } }))))

/-! ## Chapter 14: calibration -/

/-- CAL_HEAD and CAL_LOCAL. R339: a request is refused with the code of the first check that fails, in their order, and queued in the
lowest free slot otherwise, behind those asked for before it; R356: CAL_CMD needs the installer or maker role. -/
def Obligations.CalibrationRequests : Prop :=
  ∀ (p : Fin 4) (d : Det) (h i : Fin 4096) (s : State), MayAct s p 2 islSteward →
    let c1 : Cal := { s.cal with op := 1, det := d, loc := false, index := h }
    let c2 : Cal := { s.cal with op := 2, det := false, loc := false, index := i }
    let v1 : Word := packW [(1, 31), (1, 28), (if d then 1 else 0, 27), (h, 0)]
    let v2 : Word := packW [(1, 31), (2, 28), (i, 0)]
    (∀ e, calRefused 1 d h s = some e → ∃ t, exec (.calHead p d h) s = .next t ∧
      Audited p 0x1C0000 (calRead s 0) v1 s { s with cal := { c1 with cmdResult := e } } t) ∧
    (∀ e, calRefused 2 false i s = some e → ∃ t, exec (.calLocal p i) s = .next t ∧
      Audited p 0x1C0000 (calRead s 0) v2 s { s with cal := { c2 with cmdResult := e } } t) ∧
    (∀ j, (List.range 16).find? (fun j => !(s.getCalQ j).busy) = some j →
      (calRefused 1 d h s = none → ∃ t u, exec (.calHead p d h) s = .next t ∧ u.cal.cmdResult = 0 ∧
        u.getCalQ j = { result := (s.getCalQ j).result, st := .queued, kind := 1, det := d, index := h, order := s.cal.order } ∧
        (∀ k, k ≠ j → u.getCalQ k = s.getCalQ k) ∧
        u = { s with cal := { c1 with q := u.cal.q, order := s.cal.order + 1, cmdResult := 0 } } ∧
        Audited p 0x1C0000 (calRead s 0) v1 s u t) ∧
      (calRefused 2 false i s = none → ∃ t u, exec (.calLocal p i) s = .next t ∧
        u.getCalQ j = { result := (s.getCalQ j).result, st := .queued, kind := 2, det := false, index := i, order := s.cal.order } ∧
        (∀ k, k ≠ j → u.getCalQ k = s.getCalQ k) ∧
        u = { s with cal := { c2 with q := u.cal.q, order := s.cal.order + 1, cmdResult := 0 } } ∧
        Audited p 0x1C0000 (calRead s 0) v2 s u t))

/-- CAL_EXPORT, CAL_RESTORE, CAL_CANCEL and CAL_IMAGE_DONE. R354: an export or a restore is refused (6) while staging or another image
operation runs, a restore also while an outing is queued or runs; else IMG_BUSY is set until it is done. R338, R349: CANCEL of an
outing frees its slot with result 4 and logs it; with none there is code 8. R354: an image that is not valid, or that holds an uncorrectable
word (R362), gives code 7 and changes no trim.

OUTING_START and OUTING_TIMEOUT. R340: a queued outing that its limits allow starts, unless one asked for before it could; a head
outing begins with the write that turns the stimulus on. R345: an outing that has run for its timeout ends with TIMEOUT, which is
logged with the detector and the passes. -/
def Obligations.CalibrationImagesAndOutings : Prop :=
  ((∀ (p : Fin 4) (s : State), MayAct s p 2 islSteward → s.cal.index < 4096 →
     let word : Nat → Word := fun op =>
       packW [(1, 31), (op, 28), (if s.cal.det then 1 else 0, 27), (if s.cal.loc then 1 else 0, 26), (s.cal.index, 0)]
     let busy : Prop := s.plan.st = .staging ∨ s.cal.imgBusy = true
     let outing : Prop := ∃ i, i < 16 ∧ (s.getCalQ i).st ≠ .free
     (∃ t u, exec (.calExport p) s = .next t ∧ (busy → u = { s with cal := { s.cal with op := 3, cmdResult := 6 } }) ∧
       (¬ busy → u = { s with cal := { s.cal with op := 3, cmdResult := 0, imgBusy := true, imgOp := 3 } }) ∧
       Audited p 0x1C0000 (calRead s 0) (word 3) s u t) ∧
     (∃ t u, exec (.calRestore p) s = .next t ∧ (busy ∨ outing → u = { s with cal := { s.cal with op := 4, cmdResult := 6 } }) ∧
       (¬ (busy ∨ outing) → u = { s with cal := { s.cal with op := 4, cmdResult := 0, imgBusy := true, imgOp := 4 } }) ∧
       Audited p 0x1C0000 (calRead s 0) (word 4) s u t)) ∧
   (∀ (p : Fin 4) (l : Bool) (d : Det) (i : Fin 4096) (s : State), MayAct s p 2 islSteward →
     (s.outingOf (if l then 2 else 1) d i = none → ∃ t, exec (.calCancel p l d i) s = .next t ∧ t.cal.cmdResult = 8 ∧ t.cal.q = s.cal.q) ∧
     (∀ j, s.outingOf (if l then 2 else 1) d i = some j → ∃ t, exec (.calCancel p l d i) s = .next t ∧ t.cal.cmdResult = 0 ∧
       (t.getCalQ j).st = .free ∧ (t.getCalQ j).result = 4 ∧ (∀ k, k ≠ j → t.getCalQ k = s.getCalQ k) ∧
       Logged (ent .calAbandoned s.now (s.getCalQ j).index [(1, 4)] s) t ∧
       t = { s with head := t.head, lc := t.lc, cal := t.cal, host := t.host, role := t.role, log := t.log })) ∧
   (∀ s : State, s.stewUp = true → s.cal.imgBusy = true →
     (s.cal.imgOp = 3 → ∃ t, exec .calImageDone s = .next t ∧ t.cal = { s.cal with imgBusy := false, imgLen := s.calImage.length } ∧
       t = { s with cal := t.cal, gal := t.gal, host := t.host }) ∧
     (s.cal.imgOp = 4 → calImgOk (mslice galDefault (s.getGal 5).mem 0x60000 s.cal.imgLen).toArray s.cal.imgLen = false →
       ∃ t, exec .calImageDone s = .next t ∧ t.cal = { s.cal with imgBusy := false, cmdResult := 7 } ∧
         (s.badWords 5 0x60000 s.cal.imgLen = [] → t = { s with cal := t.cal, host := t.host })) ∧
     (s.cal.imgOp = 4 → s.badWords 5 0x60000 s.cal.imgLen ≠ [] →
       ∃ t, exec .calImageDone s = .next t ∧ t.cal = { s.cal with imgBusy := false, cmdResult := 7 } ∧
         t = { s with cal := t.cal, gal := t.gal, host := t.host, log := t.log }))) ∧
  ((∀ (q : Fin 16) (s : State), s.stewUp = true → s.inWarning = false → (s.getCalQ q).st = .queued → s.mayStart q = true →
     (∀ j, j < 16 → (s.getCalQ j).st = .queued → (s.getCalQ j).order < (s.getCalQ q).order → s.mayStart j = false) →
     ∃ t, exec (.outingStart q) s = .next t ∧ (t.getCalQ q).st = .waiting ∧ (t.getCalQ q).startAt = s.tb.idx ∧ (t.getCalQ q).passes = 0 ∧
       (t.getCalQ q).tmo = (if (s.getCalQ q).kind = 1 then 3840 * max 1 s.cal.headTmo else 384 * max 1 s.cal.localTmo) ∧
       (∀ j, j ≠ q.val → t.getCalQ j = s.getCalQ j) ∧
       ((s.getCalQ q).kind = 1 → (∃ c, c ∈ (t.getHead (s.getCalQ q).index).queue ++ (t.getHead (s.getCalQ q).index).waiting ∧
           c.reg = regStim ∧ c.value = (if (s.getCalQ q).det then 2 else 1) ∧ c.asker = .px) ∧ t.lc = s.lc) ∧
       t = { s with ring := t.ring, head := t.head, lc := t.lc, cal := { s.cal with q := t.cal.q } }) ∧
   (∀ (q : Fin 16) (s : State), s.stewUp = true → (s.getCalQ q).st = .waiting ∨ (s.getCalQ q).st = .measuring →
     (s.getCalQ q).startAt + (s.getCalQ q).tmo ≤ s.tb.idx → (s.getHead (s.getCalQ q).index).st ≠ .absent →
     ∃ t, exec (.outingTimeout q) s = .next t ∧ (t.getCalQ q).st = .free ∧ (t.getCalQ q).result = 1 ∧
       (∀ j, j ≠ q.val → t.getCalQ j = s.getCalQ j) ∧
       Logged (ent .calTimeout s.now (s.getCalQ q).index [(1, if (s.getCalQ q).det then 1 else 0), (1, (s.getCalQ q).passes)] s) t ∧
       (∀ k, t.trimOf k false = s.trimOf k false ∧ t.trimOf k true = s.trimOf k true) ∧
       t = { s with head := t.head, lc := t.lc, cal := t.cal, host := t.host, log := t.log }))


/-! ## Chapter 15: galleries -/

namespace Sys2Proof.Cert

/-- The byte at an offset of a gallery. -/
def galByte (s : State) (g a : Nat) : Byte := mget galDefault (s.getGal g).mem a

/-- A host's access stores word `w` at an offset of gallery g: no other byte of it and no other gallery changes. -/
def Stored (g off : Nat) (w : Word) (s t : State) : Prop :=
  t.galWord g off = w ∧ (∀ a, a < off ∨ off + 4 ≤ a → galByte t g a = galByte s g a) ∧ (∀ j, j ≠ g → t.getGal j = s.getGal j) ∧
  (t.getGal g).corrected = (s.getGal g).corrected ∧ (t.getGal g).uncorr = (s.getGal g).uncorr ∧ t.galBad g off = false

/-- R284: a stage while which a byte of the upload area is written is marked; the write changes nothing else of the plan's state. -/
def StageMarked (g off : Nat) (s t : State) : Prop :=
  t.plan = if g = 5 ∧ 0x60000 ≤ off ∧ off < 0x160000 ∧ s.plan.st = .staging then { s.plan with dirty := true }
    else s.plan

/-- `Stored`, and nothing else of the block changes. -/
def StoredOnly (g off : Nat) (w : Word) (s t : State) : Prop :=
  Stored g off w s t ∧ (t.getGal g).collSeen = (s.getGal g).collSeen ∧ (t.getGal g).collCount = (s.getGal g).collCount ∧
  StageMarked g off s t ∧ t = { s with gal := t.gal, plan := t.plan }

/-- R364: port B's write is recorded as discarded, and logged at most once per 384,000 ticks. -/
def Collided (g off user host : Nat) (s t : State) : Prop :=
  (t.getGal g).collSeen = true ∧ (t.getGal g).collUser = user ∧ (t.getGal g).collHost = host ∧
  (t.getGal g).collCount = min 0xFFFF ((s.getGal g).collCount + 1) ∧ (t.getGal g).collOff = off ∧
  ((∀ a, (s.getGal g).collLogAt = some a → a + 384000 ≤ s.now) → LoggedIfRoom (ent .galCollision s.now g [] s) s t) ∧
  ((∃ a, (s.getGal g).collLogAt = some a ∧ s.now < a + 384000) → t.log = s.log) ∧ StageMarked g off s t ∧
  t = { s with gal := t.gal, plan := t.plan, log := t.log }

end Sys2Proof.Cert

/-- GALLERY_READ, GALLERY_WRITE, ALIAS_SET and ALIAS_CLEAR. R365: the word that the port's GAL_SEL reaches; an access that R357 to R359
and R365 do not allow has no effect. R362: a read counts a corrected word, or an uncorrectable one with its offset, which is logged; a
word found uncorrectable stays so until it is written (the model's choice: log entry 115), and an alias write only reads it (R380), unless
the other port writes the word in the same clock. R389: words that the port has posted to the host island take effect first.
R366: the aliases set and clear bits; R364: the outcome with the other port's operation in the same clock. The host island is port A
in G5 and port B in G2 (R357). -/
def Obligations.GalleryWordAccesses : Prop :=
  ∀ (p : Fin 4) (x : BitVec 22) (v a : Word) (o : PortA) (s : State), s.up islHost = true →
    (∀ w ∈ s.host.posted, w.host = p → w.island ≠ islHost) →
    let g := (s.galPlace p x.toNat).1
    let off := (s.galPlace p x.toNat).2
    let w := s.galWord g off
    (∀ e, s.galAllowed .read p x.toNat = false → exec (.galleryRead p x e) s = .next s) ∧
    (s.galAllowed .write p x.toNat = false → exec (.galleryWrite p x v o) s = .next s) ∧
    (s.galAllowed .set p x.toNat = false → exec (.aliasSet p x v o) s = .next s) ∧
    (s.galAllowed .clear p x.toNat = false → exec (.aliasClear p x v o) s = .next s) ∧
    (s.galAllowed .read p x.toNat = true → ∀ e, ∃ t, exec (.galleryRead p x e) s = .next t ∧
      (e ≠ .double → s.galBad g off = false → t.log = s.log ∧ t.getGal g = { s.getGal g with
        power := .on, lastAccess := s.now, woken := (s.getGal g).woken || (s.getGal g).power == .retain
        corrected := if e = .single then min 0xFFFFFFFF ((s.getGal g).corrected + 1) else (s.getGal g).corrected }) ∧
      (e = .double ∨ s.galBad g off = true → t.getGal g = { s.getGal g with
        power := .on, lastAccess := s.now, woken := (s.getGal g).woken || (s.getGal g).power == .retain
        uncorr := min 0xFFFF ((s.getGal g).uncorr + 1), last := off
        bad := off :: (s.getGal g).bad.filter (fun a => a != off) }) ∧
      (∀ j, j ≠ g → t.getGal j = s.getGal j) ∧
      (e = .double ∨ s.galBad g off = true → LoggedIfRoom (ent .galUncorr s.now g [] s) s t) ∧ t = { s with gal := t.gal, log := t.log }) ∧
    (memWf galDefault (s.getGal g).mem = true →
      (s.galAllowed .write p x.toNat = true →
        (o = .idle ∨ o = .read → ∃ t, exec (.galleryWrite p x v o) s = .next (wordDone p t) ∧ StoredOnly g off v s t) ∧
        (o = .setBits a → ∃ t, exec (.galleryWrite p x v o) s = .next (wordDone p t) ∧ StoredOnly g off (v ||| a) s t) ∧
        (o = .clearBits a → ∃ t, exec (.galleryWrite p x v o) s = .next (wordDone p t) ∧ StoredOnly g off (v &&& ~~~a) s t) ∧
        (o = .write a → g = 2 → ∃ t, exec (.galleryWrite p x v o) s = .next (wordDone p t) ∧ Stored g off a s t ∧ Collided g off 2 p s t) ∧
        (o = .write a → g = 5 → ∃ t, exec (.galleryWrite p x v o) s = .next (wordDone p t) ∧ Stored g off v s t ∧ Collided g off 0 0 s t)) ∧
      (s.galBad g off = true →
        ∃ t, exec (.galleryRead p x .clean) s = .next t ∧
          (s.galAllowed .set p x.toNat = true → (∀ b, o ≠ .write b) → exec (.aliasSet p x v o) s = .next (wordDone p t)) ∧
          (s.galAllowed .clear p x.toNat = true → (∀ b, o ≠ .write b) → exec (.aliasClear p x v o) s = .next (wordDone p t))) ∧
      (s.galAllowed .set p x.toNat = true → s.galBad g off = false ∨ o = .write a → ∃ t, exec (.aliasSet p x v o) s = .next (wordDone p t) ∧ StoredOnly g off (match o with
        | .idle | .read => w ||| v
        | .write b => b ||| v
        | .setBits b => (w ||| b) ||| v
        | .clearBits b => (w &&& ~~~b) ||| v) s t) ∧
      (s.galAllowed .clear p x.toNat = true → s.galBad g off = false ∨ o = .write a → ∃ t, exec (.aliasClear p x v o) s = .next (wordDone p t) ∧ StoredOnly g off (match o with
        | .idle | .read => w &&& ~~~v
        | .write b => b &&& ~~~v
        | .setBits b => if g = 5 then (w &&& ~~~v) ||| b else (w ||| b) &&& ~~~v
        | .clearBits b => (w &&& ~~~b) &&& ~~~v) s t))

/-- GAL_PWR_WRITE, GALLERY_CLEAR_DONE, GALLERY_IDLE_RETAIN and GALLERY_SCRUB. R360, R371: a request by an installer or maker moves a
gallery that its owner does not hold; one that leaves OFF passes through CLEARING with all words 0, one that enters OFF loses them, and
the end of CLEARING enters the demanded state; a woken gallery held in RETAIN returns to it after 3,840 ticks without an access. R363,
R362: a scrub, which comes 3,840,000 ticks after the last, counts what it corrects and logs what it cannot. -/
def Obligations.GalleryPowerAndScrub : Prop :=
  (∀ (p : Fin 4) (g : Fin 8) (v : Word) (s : State), MayAct s p 2 islHost →
    ∃ t u, exec (.galPwrWrite p g v) s = .next t ∧ (u.getGal g).req = v.toNat % 4 ∧
      (∀ j, j ≠ g.val → u.getGal j = s.getGal j) ∧ u = { s with gal := u.gal } ∧
      Audited p (0x000810 + 4 * g) (galRegRead s p (0x810 + 4 * g)) v s u t ∧
      ((s.getGal g).power = .clearing → (u.getGal g).power = .clearing ∧ (u.getGal g).mem = (s.getGal g).mem) ∧
      ((s.getGal g).shed = false → (s.getGal g).power ≠ .clearing →
        (s.galOwner g = true ∨ v.toNat % 4 = 3 →
          ((s.getGal g).power = .off → (u.getGal g).power = .clearing ∧ (u.getGal g).mem = []) ∧
          ((s.getGal g).power ≠ .off → (u.getGal g).power = .on ∧ (u.getGal g).mem = (s.getGal g).mem)) ∧
        (s.galOwner g = false → v.toNat % 4 = 2 →
          ((s.getGal g).power = .off → (u.getGal g).power = .clearing ∧ (u.getGal g).mem = []) ∧
          ((s.getGal g).power ≠ .off → (u.getGal g).mem = (s.getGal g).mem ∧
            (u.getGal g).power = (if (s.getGal g).power = .on ∧ (s.getGal g).woken = true then .on else .retain))) ∧
        (s.galOwner g = false → v.toNat % 4 < 2 → (u.getGal g).power = .off ∧
          ((s.getGal g).power ≠ .off → (u.getGal g).mem = [])))) ∧
  (∀ (g : Fin 8) (s : State), s.up islGal = true →
    ((s.getGal g).power ≠ .clearing → exec (.galleryClearDone g) s = .next s) ∧
    ((s.getGal g).power = .clearing → ∃ t, exec (.galleryClearDone g) s = .next t ∧
      (t.getGal g).power = (if (s.getGal g).shed then .retain else if s.galOwner g then .on
        else if (s.getGal g).req = 3 then .on else if (s.getGal g).req = 2 then .retain else .off) ∧
      (g.val ≠ 7 ∨ s.mt.borrowed = false → (t.getGal g).mem = (s.getGal g).mem) ∧
      (g.val ≠ 7 ∨ s.mt.borrowed = false ∨ s.badWords 4 (0x10000 * s.mt.segment) 65536 = [] →
        t.log = s.log ∧ ∀ j, j ≠ g.val → t.getGal j = s.getGal j) ∧
      (∀ j, j ≠ g.val → j ≠ 4 → t.getGal j = s.getGal j) ∧ (g.val ≠ 4 → (t.getGal 4).mem = (s.getGal 4).mem) ∧
      t = { s with gal := t.gal, log := t.log })) ∧
  (∀ (g : Fin 8) (s : State), s.up islGal = true → (s.getGal g).power = .on → (s.getGal g).shed = false → s.galOwner g = false →
    (s.getGal g).req = 2 →
    (s.now < (s.getGal g).lastAccess + 3840 → exec (.galleryIdleRetain g) s = .next s) ∧
    ((s.getGal g).lastAccess + 3840 ≤ s.now → ∃ t, exec (.galleryIdleRetain g) s = .next t ∧
      t.getGal g = { s.getGal g with power := .retain, woken := false } ∧ (∀ j, j ≠ g.val → t.getGal j = s.getGal j) ∧ t = { s with gal := t.gal })) ∧
  (∀ (g : Fin 8) (n : Nat) (ds : List Nat) (s : State), s.stewUp = true →
    (s.up islGal = false ∨ (s.getGal g).power ≠ .on ∨ (∃ a, (s.getGal g).scrubAt = some a ∧ s.now < a + 3840000) →
      exec (.galleryScrub g n ds) s = .next s) ∧
    (s.up islGal = true → (s.getGal g).power = .on → (∀ a, (s.getGal g).scrubAt = some a → a + 3840000 ≤ s.now) → (∀ d ∈ ds, d < galSize g) → ∃ t, exec (.galleryScrub g n ds) s = .next t ∧
      t.getGal g = { s.getGal g with
        corrected := min 0xFFFFFFFF ((s.getGal g).corrected + n), scrubAt := some s.now
        uncorr := if ds = [] then (s.getGal g).uncorr else min 0xFFFF ((s.getGal g).uncorr + ds.length)
        last := ds.getLast?.getD (s.getGal g).last
        bad := ds.foldl (fun b d => d :: b.filter (fun a => a != d)) (s.getGal g).bad } ∧
      (ds ≠ [] → LoggedIfRoom (ent .galUncorr s.now g [] s) s t) ∧ (ds = [] → t.log = s.log) ∧
      (∀ j, j ≠ g.val → t.getGal j = s.getGal j) ∧ t = { s with gal := t.gal, log := t.log }))

/-- MEMTEST_BORROW, MEMTEST_DONE and MEMTEST_YIELD. R367: the next segment of G4 in turn is copied into the shadow in G7 and borrowed,
and copied back when its march has ended; EN 0 starts none. R368: a bad segment is logged and mapped to a spare, filled from the
shadow, and with both spares in use NO_SPARE is set. R369: a yield restores the segment, which is tried again, and the eighth in a row
skips it. R362: only a word that the copy finds uncorrectable changes the log or a register of the gallery copied from, and it stays
uncorrectable in the copy. -/
def Obligations.MemoryTestBorrowsAndRestores : Prop :=
  ∀ s : State, s.up islGal = true → memWf galDefault (s.getGal 4).mem = true → memWf galDefault (s.getGal 7).mem = true →
    let base := 0x10000 * s.mt.segment
    let next := (s.mt.segment + 1) % 32
    let bad := s.badWords 4 (0x10000 * s.mt.next) 65536
    let badCopy := s.badWords 7 0 65536
    (s.mt.en = false ∨ s.mt.borrowed = true ∨ (∃ a, s.mt.lastAt = some a ∧ s.now < a + 384000) → exec .memtestBorrow s = .next s) ∧
    (s.mt.en = true → s.mt.borrowed = false → s.mt.stopped = false → s.galOn 4 = true →
      (∀ a, s.mt.lastAt = some a → a + 384000 ≤ s.now) → s.mt.next < 32 → (∀ r ∈ s.mt.remaps, r.1 ≠ s.mt.next) → (s.getGal 7).shed = false →
      ∃ t, exec .memtestBorrow s = .next t ∧ t.mt = { s.mt with borrowed := true, segment := s.mt.next, lastAt := some s.now } ∧
        (s.galOn 7 = true →
          (∀ i, i < 65536 → galByte t 7 i = galByte s 4 (0x10000 * s.mt.next + i)) ∧ (∀ i, 65536 ≤ i → galByte t 7 i = galByte s 7 i) ∧
          ∀ x ∈ bad, t.galBad 7 (x - 0x10000 * s.mt.next) = true) ∧
        (s.galOn 7 = false → (t.getGal 7).power = .clearing) ∧
        (s.galOn 7 = false ∨ bad = [] → t.log = s.log ∧ ∀ j, j ≠ 7 → t.getGal j = s.getGal j) ∧
        (∀ j, j ≠ 7 → (t.getGal j).mem = (s.getGal j).mem) ∧ (∀ j, j ≠ 4 → j ≠ 7 → t.getGal j = s.getGal j) ∧
        t = { s with gal := t.gal, mt := t.mt, log := t.log }) ∧
    (s.mt.borrowed = true → s.galOn 7 = true →
      (∃ t, exec (.memtestDone none) s = .next t ∧ t.mt = { s.mt with borrowed := false, next := next, yieldRun := 0 } ∧
        (∀ i, galByte t 4 i = if base ≤ i ∧ i < base + 65536 then galByte s 7 (i - base) else galByte s 4 i) ∧
        (badCopy = [] → t.log = s.log) ∧ (∀ x ∈ badCopy, t.galBad 4 (x + base) = true) ∧
        (∀ j, j ≠ 4 → j ≠ 7 → t.getGal j = s.getGal j) ∧ t = { s with gal := t.gal, mt := t.mt, log := t.log }) ∧
      (∀ x, s.mt.remaps.length < 2 → ∃ t, exec (.memtestDone (some x)) s = .next t ∧
        t.mt = { s.mt with
          fails := min 0xF (s.mt.fails + 1), remaps := s.mt.remaps ++ [(s.mt.segment, s.mt.remaps.length)], borrowed := false
          next := next, yieldRun := 0 } ∧
        (∀ i, i < 65536 → galByte t 7 (0x10000 * (s.mt.remaps.length + 1) + i) = galByte s 7 i) ∧
        LoggedIfRoom (ent .galTestFail s.now 4 [(1, s.mt.segment), (4, x)] s) s t ∧ (∀ j, j ≠ 7 → t.getGal j = s.getGal j) ∧
        t = { s with gal := t.gal, mt := t.mt, log := t.log }) ∧
      (∀ x, 2 ≤ s.mt.remaps.length → ∃ t, exec (.memtestDone (some x)) s = .next t ∧
        t.mt = { s.mt with fails := min 0xF (s.mt.fails + 1), noSpare := true, borrowed := false, next := next, yieldRun := 0 } ∧
        LoggedIfRoom (ent .galTestFail s.now 4 [(1, s.mt.segment), (4, x)] s) s t ∧
        t = { s with gal := t.gal, mt := t.mt, log := t.log })) ∧
    (s.mt.borrowed = false → exec .memtestYield s = .next s) ∧
    (s.mt.borrowed = false ∨ s.galOn 7 = false → ∀ b, exec (.memtestDone b) s = .next s) ∧
    (s.mt.borrowed = true → ∃ t, exec .memtestYield s = .next t ∧
      (s.mt.yieldRun < 7 → t.mt = { s.mt with
        borrowed := false, yields := min 0xFF (s.mt.yields + 1), yieldRun := s.mt.yieldRun + 1, next := s.mt.segment
        lastAt := some s.now }) ∧
      (7 ≤ s.mt.yieldRun → t.mt = { s.mt with
        borrowed := false, yields := min 0xFF (s.mt.yields + 1), yieldRun := 0, skipped := min 0xF (s.mt.skipped + 1), next := next
        lastAt := some s.now }) ∧
      (s.galOn 7 = true →
        ∀ i, galByte t 4 i = if base ≤ i ∧ i < base + 65536 then galByte s 7 (i - base) else galByte s 4 i) ∧
      (s.galOn 7 = false → t.getGal 4 = s.getGal 4) ∧ (s.galOn 7 = false ∨ badCopy = [] → t.log = s.log) ∧
      (∀ j, j ≠ 4 → j ≠ 7 → t.getGal j = s.getGal j) ∧ t = { s with gal := t.gal, mt := t.mt, log := t.log })

/-! ## Chapter 16: host ports -/

namespace Sys2Proof.Cert

/-- Only host port p changes, to `x`. -/
def HostIs (p : Nat) (x : Hp) (s t : State) : Prop := t.getHp p = x ∧ ∀ q, q ≠ p → t.getHp q = s.getHp q

/-- Only the ports' registers change. -/
def PortsOnly (s t : State) : Prop := t = { s with host := { s.host with hp := t.host.hp } }

/-- R376: a request frame. -/
def reqFrame (seq op n a : Nat) (data : List Word) : List Byte :=
  let body := leBytes 1 0xD5 ++ leBytes 1 seq ++ leBytes 1 op ++ leBytes 1 n ++ leBytes 3 a ++ leBytes 1 0 ++
    data.flatMap (fun w => leBytes 4 w.toNat)
  body ++ leBytes 2 (crc16 body).toNat

/-- A request of port p with a sequence number, for n words. -/
def IsRequest (c : Instr) (p : Fin 4) (seq : Byte) (n : Nat) : Prop :=
  (∃ a k, c = .read p seq a k ∧ n = k.toNat) ∨ (∃ a d, c = .write p seq a d ∧ n = d.length) ∨ (c = .fence p seq ∧ n = 0) ∨
  (∃ a, c = .fenceCommit p seq a ∧ n = 0) ∨ (c = .nop p seq ∧ n = 0)

/-- R381, R385: the port admits a request for n words: it is the next in sequence, a vestibule entry is free, and the credit pays it. -/
def Admits (s : State) (p : Nat) (seq : Byte) (n : Nat) : Prop :=
  ((s.getHp p).resume + 256 - seq.toNat) % 256 = 0 ∧ 0 < (s.getHp p).free ∧ 5 * max n 1 ≤ (s.getHp p).credit

/-- The state in which an admitted request is executed: the number moves on and the credit is paid (R381, R385), and a request that
needs a session renews it (R412). -/
def taken (s : State) (p n : Nat) (sess : Bool) : State :=
  let u := s.modHp p (fun h => { h with resume := (h.resume + 1) % 256, credit := h.credit - 5 * max n 1 })
  if sess then u.modRolePort p (fun x => { x with lastUse := s.now }) else u

/-- The request is answered, and nothing but the reply queue changes. -/
def Replies (p : Nat) (seq : Byte) (op : Nat) (a : Answer) (s t : State) : Prop :=
  HostIs p { s.getHp p with replies := (s.getHp p).replies ++ [{ seq := seq.toNat, bytes := replyFrame seq.toNat op a s.now [] }] } s t ∧
  PortsOnly s t

/-- No word of port p is posted to island `i`. -/
def NonePosted (s : State) (p i : Nat) : Prop := ∀ w ∈ s.host.posted, w.host = p → w.island ≠ i

end Sys2Proof.Cert

/-- SUBMIT, COLLECT and BAD_TXN. R374, R376, R377: a whole frame whose check is right is the request that it spells; what is not a SYNC
byte is skipped, a frame cut off is counted in CUT, and one whose check is wrong in CRC_FAIL and FLAGS. R375, R382: the replies clocked
out in full leave the queue for the history of the last 32, one cut off stays, and the header starts FLAGS anew. R373: a transaction
with another code is counted. SUBMIT completes for whatever bytes it carries: frames that follow one another are taken one after the
other, and with the host island held idle (R12) nothing is. -/
def Obligations.TransactionsCarryFrames : Prop :=
  ∀ (p : Fin 4) (seq : Byte) (a : BitVec 24) (s : State), s.up islHost = true →
    (∀ bs, ∃ t, exec (.submit p bs) s = .next t ∧ t.pending = s.pending) ∧
    (∀ bs (u : State), u.up islHost = false → exec (.submit p bs) u = .next u) ∧
    (∀ bs, (∀ b ∈ bs, b ≠ 0xD5) → exec (.submit p bs) s = .next s) ∧
    (∀ (b : Byte) bs, b ≠ 0xD5 → exec (.submit p (b :: bs)) s = exec (.submit p bs) s) ∧
    (∀ bs, ∃ u, exec (.nop p seq) s = .next u ∧
      exec (.submit p (reqFrame seq.toNat 5 0 0 [] ++ bs)) s = exec (.submit p bs) u) ∧
    (∀ k : Byte, exec (.submit p (reqFrame seq.toNat 1 k.toNat a.toNat [])) s = exec (.read p seq a k) s) ∧
    (∀ d : List Word, d.length < 256 →
      exec (.submit p (reqFrame seq.toNat 2 d.length a.toNat d)) s = exec (.write p seq a d) s) ∧
    exec (.submit p (reqFrame seq.toNat 3 0 0 [])) s = exec (.fence p seq) s ∧
    exec (.submit p (reqFrame seq.toNat 4 0 a.toNat [])) s = exec (.fenceCommit p seq a) s ∧
    exec (.submit p (reqFrame seq.toNat 5 0 0 [])) s = exec (.nop p seq) s ∧
    exec (.submit p (reqFrame seq.toNat 0x0F 0 0 [])) s = exec (.resync p seq) s ∧
    (∀ bs, bs.length < 7 → ∃ t, exec (.submit p (0xD5 :: bs)) s = .next t ∧
      HostIs p { s.getHp p with cut := min 0xFF ((s.getHp p).cut + 1) } s t ∧ PortsOnly s t) ∧
    (∀ body c : List Byte, body.length = 8 → body.head? = some 0xD5 → body.getD 2 0 ≠ 2 → c.length = 2 →
      leNat c ≠ (crc16 body).toNat → ∃ t, exec (.submit p (body ++ c)) s = .next t ∧
        HostIs p { s.getHp p with crcFail := min 0xFF ((s.getHp p).crcFail + 1), flags := (s.getHp p).flags ||| 1 } s t ∧ PortsOnly s t) ∧
    (∀ n, n < 8 → exec (.collect p n) s = .next s) ∧
    (∀ (n : Nat) (l r : List Reply), (s.getHp p).replies = l ++ r → 8 + (l.map (fun x => x.bytes.length)).sum ≤ n →
      (∀ x ∈ r.head?, n < 8 + (l.map (fun x => x.bytes.length)).sum + x.bytes.length) →
      ∃ t, exec (.collect p n) s = .next t ∧
        HostIs p { s.getHp p with flags := 0, replies := r, history := (l.reverse ++ (s.getHp p).history).take 32 } s t ∧ PortsOnly s t) ∧
    (∀ code : Byte, (code = 0x53 ∨ code = 0x43 → exec (.badTxn p code) s = .next s) ∧
      (code ≠ 0x53 → code ≠ 0x43 → ∃ t, exec (.badTxn p code) s = .next t ∧
        HostIs p { s.getHp p with badTxn := min 0xFF ((s.getHp p).badTxn + 1) } s t ∧ PortsOnly s t))

/-- R381, R382 and R385 for every request, NOP and RESYNC. A duplicate is counted and never executed again, and a copy of its reply is
queued from the history; a number outside the window, a full vestibule and a credit that does not suffice are counted and have no other
effect than FLAGS. NOP is answered OK; RESYNC, with an entry free, sets the next number and empties the history. -/
def Obligations.RequestsAdmittedOrTurnedAway : Prop :=
  ∀ (p : Fin 4) (seq : Byte) (s : State), s.up islHost = true →
    let h := s.getHp p
    let back := (h.resume + 256 - seq.toNat) % 256
    (∀ c n, IsRequest c p seq n →
      (1 ≤ back → back ≤ 32 → ∃ t rs, exec c s = .next t ∧
        HostIs p { h with duplicate := min 0xFF (h.duplicate + 1), replies := h.replies ++ rs } s t ∧ PortsOnly s t ∧
        ((∃ r ∈ h.replies, r.seq = seq.toNat) → rs = []) ∧
        (t.getHp p).free = h.free ∧
        ((∀ r ∈ h.replies, r.seq ≠ seq.toNat) →
          rs = ((h.history.find? (fun r => r.seq == seq.toNat)).map (fun r => { r with copy := true })).toList)) ∧
      (32 < back → ∃ t, exec c s = .next t ∧
        HostIs p { h with badSeq := min 0xFF (h.badSeq + 1), flags := h.flags ||| 2 } s t ∧ PortsOnly s t) ∧
      (back = 0 → h.free = 0 → ∃ t, exec c s = .next t ∧
        HostIs p { h with full := min 0xFF (h.full + 1), flags := h.flags ||| 4 } s t ∧ PortsOnly s t) ∧
      (back = 0 → 0 < h.free → h.credit < 5 * max n 1 → ∃ t, exec c s = .next t ∧
        HostIs p { h with throttled := min 0xFF (h.throttled + 1), flags := h.flags ||| 8 } s t ∧ PortsOnly s t)) ∧
    (Admits s p seq 0 → ∃ t r, exec (.nop p seq) s = .next t ∧
      r.bytes.take 16 = [0xD5, seq, 0x05, 0, 0, 0, 0, 0] ++ leBytes 8 s.now ∧ r.seq = seq.toNat ∧ r.bytes.length = 18 ∧
      HostIs p { h with resume := (h.resume + 1) % 256, credit := h.credit - 5, replies := h.replies ++ [r] } s t ∧ PortsOnly s t) ∧
    (0 < h.free → ∃ t r, exec (.resync p seq) s = .next t ∧
      r.bytes.take 16 = [0xD5, seq, 0x0F, 0, 0, 0, 0, 0] ++ leBytes 8 s.now ∧ r.seq = seq.toNat ∧ r.bytes.length = 18 ∧
      HostIs p { h with resume := (seq.toNat + 1) % 256, history := [], replies := h.replies ++ [r] } s t ∧ PortsOnly s t)

/-- READ and WRITE, once admitted, with no earlier write of the port outstanding in the same island. R384: a request that fails a check
executes no word, and its reply gives the cause; a COUNT outside 1 to 8 and an address that is no multiple of 4 come first (R481).
R384, R386: a read carries as many words as it asks for, each as the register reads; the words of a write are posted to its island in
ascending address order, in the role of the session, and answered OK. R387: a word of an island that is held idle, or one that has been
found uncorrectable, reads 0 and the reply gives the cause. R31: while the steward restarts, a request to it is answered
RETRY. -/
def Obligations.ReadsAndWritesAnswered : Prop :=
  ∀ (p : Fin 4) (seq : Byte) (a : BitVec 24) (s : State), s.up islHost = true → NonePosted s p (place a.toNat).target →
    (∀ n : Byte, Admits s p seq n.toNat →
      let u := taken s p n.toNat (needsSession 1 a.toNat n.toNat)
      let v := u.modHp p (fun h => { h with inHand := true })
      ((n.toNat = 0 ∨ 8 < n.toNat) → ∃ t, exec (.read p seq a n) s = .next t ∧ Replies p seq 1 { status := 2, cause := 2 } u t) ∧
      (1 ≤ n.toNat → n.toNat ≤ 8 → a.toNat % 4 ≠ 0 →
        ∃ t, exec (.read p seq a n) s = .next t ∧ Replies p seq 1 { status := 2, cause := 3 } u t) ∧
      (∀ e, u.reqRefused p false a.toNat n.toNat [] = some e →
        ∃ t, exec (.read p seq a n) s = .next t ∧ Replies p seq 1 e u t) ∧
      (u.reqRefused p false a.toNat n.toNat [] = none →
        (s.red.stewardDown = true → (place a.toNat).target = islSteward →
          ∃ t, exec (.read p seq a n) s = .next t ∧ Replies p seq 1 { status := 3, cause := 1 } u t) ∧
        (s.red.stewardDown = false → n = 1 → ∀ c, 0 < c → s.readFails p a.toNat = c → ∃ t, exec (.read p seq a n) s = .next t ∧
          (t.getHp p).replies = (s.getHp p).replies ++
            [{ seq := seq.toNat, bytes := replyFrame seq.toNat 1 { status := 1, cause := c, word := 0 } s.now [0] }]) ∧
        (s.red.stewardDown = false → (∀ i, i < n.toNat → s.readFails p (a.toNat + 4 * i) = 0) →
          ∃ t ws, exec (.read p seq a n) s = .next t ∧ ws.length = n.toNat ∧
            (t.getHp p).replies = (s.getHp p).replies ++ [{ seq := seq.toNat, bytes := replyFrame seq.toNat 1 {} s.now ws }] ∧
            (t.getHp p).resume = (u.getHp p).resume ∧ (t.getHp p).credit = (u.getHp p).credit ∧
            (n = 1 → s.latched p a.toNat = none → (∀ op x, place a.toNat ≠ .window op x) → ws = [regRead v p (place a.toNat)]) ∧
            (n = 1 → s.latched p a.toNat = none → (∃ off, place a.toNat = .cal off ∧ off < 0x8000) →
              t = { u with host := t.host } ∧ ∀ q, q ≠ p.val → t.getHp q = s.getHp q)))) ∧
    (∀ d : List Word, Admits s p seq d.length →
      let u := taken s p d.length (needsSession 2 a.toNat d.length)
      (∀ e, u.reqRefused p true a.toNat d.length d = some e →
        ∃ t, exec (.write p seq a d) s = .next t ∧ Replies p seq 2 e u t) ∧
      (u.reqRefused p true a.toNat d.length d = none →
        (s.red.stewardDown = true → (place a.toNat).target = islSteward →
          ∃ t, exec (.write p seq a d) s = .next t ∧ Replies p seq 2 { status := 3, cause := 1 } u t) ∧
        (s.red.stewardDown = false → ∃ t, exec (.write p seq a d) s = .next t ∧
          HostIs p { u.getHp p with
            replies := (s.getHp p).replies ++ [{ seq := seq.toNat, bytes := replyFrame seq.toNat 2 {} s.now [] }] } u t ∧
          t.host.posted = s.host.posted ++ (List.range d.length).map (fun i => {
            ord := s.host.nextOrd + i, host := p, role := (s.getRolePort p).role, island := (place (a.toNat + 4 * i)).target
            addr := a.toNat + 4 * i, v := d.getD i 0 }) ∧
          t.host.nextOrd = s.host.nextOrd + d.length ∧
          t = { u with host := { u.host with hp := t.host.hp, posted := t.host.posted, nextOrd := t.host.nextOrd } })))

/-- FENCE, FENCE_ANSWER, FENCE_COMMIT, POSTED_WRITE_EXECUTE and REGISTER_WRITE. R390: a fence waits while a write of the port admitted
before it has not taken effect, and is answered OK once all have; R387: after a discarded word it is answered LATE. R391: a FENCE_COMMIT
waits for its group; one that names no declared group is BAD_GROUP. R386, R387, R389: a posted word has the effect of a write by the port
in the word's turn, or
is discarded, counted and logged where its island is down, or where an alias finds its word uncorrectable. R8, R393, R365, R415: registers take what is written, W1C bits clear, a
port's own registers change for no other port, and a maker's register leaves an audit record; a refused write has no effect. -/
def Obligations.FencesAndRegisterWrites : Prop :=
  (∀ (p : Fin 4) (seq : Byte) (s : State), s.up islHost = true → Admits s p seq 0 →
    let u := taken s p 0 false
    let h := u.getHp p
    let n := s.host.nextOrd
    let waits := ∃ w ∈ s.host.posted, w.host = p ∧ w.ord < n
    (waits → ∃ t, exec (.fence p seq) s = .next t ∧
      HostIs p { h with fences := h.fences ++ [{ seq := seq.toNat, before := n }] } s t ∧ PortsOnly s t) ∧
    (¬ waits → (∀ o ∈ h.lates, n ≤ o) → ∃ t, exec (.fence p seq) s = .next t ∧
      Replies p seq 3 {} u t) ∧
    (¬ waits → (∃ o ∈ h.lates, o < n) → ∃ t, exec (.fence p seq) s = .next t ∧
      HostIs p { h with
        lates := h.lates.filter (fun o => decide (n ≤ o))
        replies := h.replies ++ [{ seq := seq.toNat, bytes := replyFrame seq.toNat 3 { status := 1, cause := 0x09 } s.now [] }] } s t ∧
      PortsOnly s t)) ∧
  (∀ (p : Fin 4) (s : State), s.up islHost = true →
    let h := s.getHp p
    (∀ f, h.fences.find? (fun f => f.group.isNone && !s.postedBefore p f.before) = some f → (∀ o ∈ h.lates, f.before ≤ o) →
      ∃ t, exec (.fenceAnswer p) s = .next t ∧
        HostIs p { h with
          fences := h.fences.erase f
          replies := h.replies ++ [{ seq := f.seq, bytes := replyFrame f.seq 3 {} s.now [] }] } s t ∧ PortsOnly s t) ∧
    ((∀ f ∈ h.fences, f.group = none → s.postedBefore p f.before = true) → exec (.fenceAnswer p) s = .next s)) ∧
  (∀ (p : Fin 4) (seq : Byte) (a : BitVec 24) (s : State), s.up islHost = true → Admits s p seq 0 →
    let u := taken s p 0 true
    let h := u.getHp p
    let waits := ∃ w ∈ s.host.posted, w.host = p ∧ w.ord < s.host.nextOrd
    ((16 ≤ a.toNat ∨ u.grpDeclared (a.toNat % 16) = false) → ∃ t, exec (.fenceCommit p seq a) s = .next t ∧
      Replies p seq 4 { status := 2, cause := 5 } u t) ∧
    (a.toNat < 16 → u.grpDeclared a.toNat = true → (s.getRolePort p).role = 0 → ∃ t, exec (.fenceCommit p seq a) s = .next t ∧
      Replies p seq 4 { status := 1, cause := 2 } u t) ∧
    (a.toNat < 16 → u.grpDeclared a.toNat = true → (s.getRolePort p).role ≠ 0 → (waits ∨ ∀ e ∈ h.fcAt, e.1 ≠ a.toNat) →
      ∃ t f, exec (.fenceCommit p seq a) s = .next t ∧ HostIs p { h with fences := h.fences ++ [f] } s t ∧
        f.seq = seq.toNat ∧ f.group = some a.toNat ∧ f.before = s.host.nextOrd ∧ (waits → f.effAt = none) ∧
        (¬ waits → f.effAt = some (h.lastEff.getD s.now)) ∧ t = { u with host := { u.host with hp := t.host.hp } })) ∧
  (∀ (i : Island) (s : State), s.up islHost = true →
    ((∀ w ∈ s.host.posted, w.island ∉ islTargets i) → exec (.postedWriteExecute i) s = .next s) ∧
    (∀ w, s.host.posted.find? (fun w => (islTargets i).contains w.island) = some w →
      let rest := { s with host := { s.host with posted := s.host.posted.filter (fun x => x.ord != w.ord) } }
      (∀ p : Fin 4, w.host = p → w.addr < 2 ^ 24 → w.role = (s.getRolePort p).role → w.island = (place w.addr).target →
        s.postedUncorr w = false → rest.mayWrite p w.addr w.v = true → s.tgtUp w.island = true → s.red.stewardDown = false →
        exec (.postedWriteExecute i) s = .next (wordDone p (hostWrite p w.addr w.v rest)) ∧
        (NonePosted rest p w.island →
          exec (.postedWriteExecute i) s = exec (.registerWrite p (BitVec.ofNat 24 w.addr) w.v) rest)) ∧
      (∀ op x, place w.addr = .window op x → s.postedUncorr w = true → (w.island = islSteward → s.red.stewardDown = false) →
        let g := (s.galPlace w.host x).1
        ∃ t, exec (.postedWriteExecute i) s = .next t ∧ t.host.posted = rest.host.posted ∧
          (t.getHp w.host).late = min 0xFF ((s.getHp w.host).late + 1) ∧ (t.getHp w.host).lates = (s.getHp w.host).lates ++ [w.ord] ∧
          (t.getGal g).uncorr = min 0xFFFF ((s.getGal g).uncorr + 1) ∧ (t.getGal g).mem = (s.getGal g).mem ∧
          (∀ j, j ≠ g → t.getGal j = s.getGal j) ∧ t = { s with host := t.host, gal := t.gal, log := t.log }) ∧
      (s.tgtUp w.island = false → w.island ≠ islSteward → s.postedUncorr w = false → ∃ t, exec (.postedWriteExecute i) s = .next t ∧
        t.host.posted = rest.host.posted ∧ (t.getHp w.host).late = min 0xFF ((s.getHp w.host).late + 1) ∧
        (t.getHp w.host).lates = (s.getHp w.host).lates ++ [w.ord] ∧ (∀ q, q ≠ w.host → t.getHp q = s.getHp q) ∧
        LoggedIfRoom (ent .hostLateWrite s.now w.host [(4, w.addr)] s) s t ∧ t = { s with host := t.host, log := t.log }))) ∧
  (∀ (p : Fin 4) (a : BitVec 24) (v : Word) (s : State), s.up islHost = true →
    (NonePosted s p (place a.toNat).target → s.mayWrite p a.toNat v = false → exec (.registerWrite p a v) s = .next s) ∧
    (NonePosted s p islHost → (s.getRolePort p).role = 0 → exec (.registerWrite p 0x1F0814 v) s = .next s) ∧
    (MayAct s p 1 islHost →
      (∃ t, exec (.registerWrite p 0x1F0814 v) s = .next (wordDone p t) ∧ HostIs p { s.getHp p with intEn := v &&& 0xF0000FFF } s t ∧ PortsOnly s t) ∧
      (∃ t, exec (.registerWrite p 0x1F0810 v) s = .next (wordDone p t) ∧
        HostIs p { s.getHp p with intStat := (s.getHp p).intStat &&& ~~~(v &&& 0xFDE) } s t ∧ PortsOnly s t) ∧
      (∃ t, exec (.registerWrite p 0x000800 v) s = .next (wordDone p t) ∧
        HostIs p { s.getHp p with galSel := v.toNat / 2 ^ 28 % 8, galBase := v.toNat % 16 } s t ∧ PortsOnly s t)) ∧
    (MayAct s p 3 islHost → ∃ t, exec (.registerWrite p 0x1F0050 v) s = .next t ∧
      Audited p 0x1F0050 (roleRead s p 0x50) v s
        { s with role := { s.role with idle := v.toNat / 2 ^ 16 % 2 ^ 16, holdoff := v.toNat % 256 } } t))

/-- BLOCK_REQUEST, BLOCK_RELEASE, BUDGET_WRITE and EVICT. R394: a request is refused as a whole for its count, the budget or the free
blocks, or the lowest-numbered free blocks are cleared and granted; a block is released by its bit. R397: a budget write whose totals
stay within 256 changes the budget and the share of one port, releases nothing and is logged with the old and the new value; another is
refused. R398: only a maker evicts; what a port holds beyond its budget is released, the highest-numbered blocks first, HOST_EVICT names
the port, the number of blocks, the role and the host port (R416: both records carry an audit number), and the port's own accesses to such a block are then refused (BLOCK). -/
def Obligations.BlocksBudgetsAndEvictions : Prop :=
  (∀ (p : Fin 4) (n : BitVec 9) (s : State), MayAct s p 1 islHost →
    let h := s.getHp p
    (∀ code, ((n.toNat = 0 ∨ 256 < n.toNat) ∧ code = 3) ∨
        (1 ≤ n.toNat ∧ n.toNat ≤ 256 ∧ h.budget < h.held.length + n.toNat ∧ code = 1) ∨
        (1 ≤ n.toNat ∧ n.toNat ≤ 256 ∧ h.held.length + n.toNat ≤ h.budget ∧ s.freeBlocks.length < n.toNat ∧ code = 2) →
      ∃ t, exec (.blockRequest p n) s = .next (wordDone p t) ∧ HostIs p { h with blkCount := n.toNat, blkResult := code } s t ∧ PortsOnly s t) ∧
    (1 ≤ n.toNat → n.toNat ≤ 256 → h.held.length + n.toNat ≤ h.budget → n.toNat ≤ s.freeBlocks.length →
      let got := s.freeBlocks.take n.toNat
      ∃ t, exec (.blockRequest p n) s = .next (wordDone p t) ∧
        HostIs p { h with blkCount := n.toNat, blkResult := 0, held := (t.getHp p).held, overBudget := false } s t ∧
        (t.getHp p).held.length = h.held.length + n.toNat ∧ (∀ b, b ∈ (t.getHp p).held ↔ b ∈ h.held ∨ b ∈ got) ∧
        (galKept (s.getGal 2).power = true → ∀ a, galByte t 2 a = if a / 65536 ∈ got then 0 else galByte s 2 a) ∧
        (∀ g, g ≠ 2 → t.getGal g = s.getGal g) ∧ t = { s with host := { s.host with hp := t.host.hp }, gal := t.gal })) ∧
  (∀ (p : Fin 4) (w : Fin 8) (mask : Word) (s : State), MayAct s p 1 islHost →
    ∃ t, exec (.blockRelease p w mask) s = .next (wordDone p t) ∧
      (∀ b, b ∈ (t.getHp p).held ↔ b ∈ (s.getHp p).held ∧ ¬ (b / 32 = w.val ∧ bit mask (b % 32) = true)) ∧
      ((s.getHp p).cap.busy = false → (t.getHp p).cap = (s.getHp p).cap) ∧
      ((s.getHp p).cap.busy = true → (∃ b ∈ (s.getHp p).held, b ∉ (t.getHp p).held ∧ s.capUses p b = true) →
        (t.getHp p).cap.busy = false ∧ (t.getHp p).cap.ended = 4 ∧ bit (t.getHp p).intStat 11 = true) ∧
      (t.getHp p).budget = (s.getHp p).budget ∧ (∀ q, q ≠ p.val → t.getHp q = s.getHp q) ∧ (∀ g, g ≠ 2 → t.getGal g = s.getGal g) ∧
      t = { s with host := { s.host with hp := t.host.hp }, gal := t.gal }) ∧
  (∀ (p q : Fin 4) (v : Word) (s : State), MayAct s p 3 islHost →
    let blocks := (s.getHp 0).budget + (s.getHp 1).budget + (s.getHp 2).budget + (s.getHp 3).budget
    let shares := (s.getHp 0).share + (s.getHp 1).share + (s.getHp 2).share + (s.getHp 3).share
    let b := v.toNat / 2 ^ 9 % 512
    let sh := v.toNat % 512
    (256 + (s.getHp q).budget < blocks + b ∨ 256 + (s.getHp q).share < shares + sh → exec (.budgetWrite p q v) s = .next s) ∧
    (blocks + b ≤ 256 + (s.getHp q).budget → shares + sh ≤ 256 + (s.getHp q).share →
      ∃ t, exec (.budgetWrite p q v) s = .next (wordDone p t) ∧
        HostIs q { s.getHp q with
          budget := b, share := sh, overBudget := decide (b < (s.getHp q).held.length), intStat := (t.getHp q).intStat } s t ∧
        (b < (s.getHp q).held.length → (s.getHp q).overBudget = false → bit (t.getHp q).intStat 10 = true) ∧
        ((s.getHp q).held.length ≤ b → (t.getHp q).intStat = (s.getHp q).intStat) ∧
        Logged (ent .hostBudget s.now q
          [(1, (s.getRolePort p).role), (1, p), (4, (s.budgetWord q).toNat), (4, (t.budgetWord q).toNat), (4, s.role.audit)] s) t ∧
        t = { s with host := { s.host with hp := t.host.hp }, role := { s.role with audit := (s.role.audit + 1) % 2 ^ 32 }, log := t.log })) ∧
  (∀ (p q : Fin 4) (s : State), NonePosted s p islHost → (s.getRolePort p).role < 3 → exec (.evict p q) s = .next s) ∧
  (∀ (p q : Fin 4) (s : State), MayAct s p 3 islHost → (s.getHp q).held.Nodup → (s.getHp q).held.Pairwise (fun a b => a < b) →
    ∃ t, exec (.evict p q) s = .next (wordDone p t) ∧ (t.getHp q).held = (s.getHp q).held.take (s.getHp q).budget ∧ t.host.evictPort = q ∧
      (∀ b ∈ (s.getHp q).held, ∀ c ∈ (t.getHp q).held, b ∉ (t.getHp q).held → c < b) ∧
      (∀ b ∈ (s.getHp q).held, b ∉ (t.getHp q).held → ∀ i, i < 65536 → t.galBlock q 2 (0x10000 * b + i) = false) ∧
      (t.getHp q).budget = (s.getHp q).budget ∧ (∀ r, r ≠ q.val → t.getHp r = s.getHp r) ∧
      ((s.getHp q).budget < (s.getHp q).held.length → bit (t.getHp q).intStat 10 = true) ∧
      Logged (ent .hostEvict s.now q
        [(1, (s.getRolePort p).role), (1, p), (2, (s.getHp q).held.length - (s.getHp q).budget), (4, s.role.audit)] s) t ∧
      (∀ g, g ≠ 2 → t.getGal g = s.getGal g) ∧
      t = { s with host := { s.host with hp := t.host.hp, evictPort := t.host.evictPort }, gal := t.gal
                   role := { s.role with audit := (s.role.audit + 1) % 2 ^ 32 }, log := t.log })

/-- CAPTURE_GO, CAPTURE_STOP and CAPTURE_ENTRY. R395: GO starts the capture as configured, has no effect while one runs, and ends at
once with BAD_CFG on a configuration that cannot run; STOP ends it. R395, R396: an entry takes the next 8 bytes of the port's blocks:
the value, the flags and the low bits of its index; the last one of the last block ends the capture with FULL. -/
def Obligations.CapturesRunInBlocks : Prop :=
  (∀ (p : Fin 4) (s : State), MayAct s p 1 islHost →
    let c := (s.getHp p).cap
    c.source < 4 → c.first < 256 → c.blocks < 256 →
    (c.busy = true → ∃ t, exec (.captureGo p) s = .next (wordDone p t) ∧ (∀ q, t.getHp q = s.getHp q) ∧ PortsOnly s t) ∧
    (c.busy = false → s.capBad p = false → ∃ t, exec (.captureGo p) s = .next (wordDone p t) ∧
      HostIs p { s.getHp p with cap := { c with
        busy := true, ended := 0, late := (t.getHp p).cap.late, entries := 0, firstIdx := 0, queue := [], runSource := c.source
        runSrc := c.src, runFirst := c.first, runBlocks := c.blocks, runStart := c.start } } s t ∧
      (c.start = 0 → (t.getHp p).cap.late = false) ∧
      (∀ i, s.capLatest c.source c.src = some i → 0 < c.start → (t.getHp p).cap.late = decide (c.start ≤ i)) ∧ PortsOnly s t) ∧
    (c.busy = false → s.capBad p = true → ∃ t, exec (.captureGo p) s = .next (wordDone p t) ∧ (t.getHp p).cap.busy = false ∧
      (t.getHp p).cap.ended = 6 ∧ bit (t.getHp p).intStat 11 = true ∧ (t.getHp p).held = (s.getHp p).held ∧
      (∀ q, q ≠ p.val → t.getHp q = s.getHp q) ∧ PortsOnly s t) ∧
    (c.busy = true → ∃ t, exec (.captureStop p) s = .next (wordDone p t) ∧
      HostIs p { s.getHp p with cap := { c with busy := false, ended := 2, queue := [] }, intStat := (s.getHp p).intStat ||| 0x800 } s t ∧
      PortsOnly s t) ∧
    (c.busy = false → ∃ t, exec (.captureStop p) s = .next (wordDone p t) ∧ (∀ q, t.getHp q = s.getHp q) ∧ PortsOnly s t)) ∧
  (∀ (p : Fin 4) (s : State), s.up islGal = true →
    let c := (s.getHp p).cap
    (c.busy = false ∨ c.queue = [] → exec (.captureEntry p) s = .next s) ∧
    (∀ e rest, c.busy = true → c.queue = e :: rest → e.flags < 256 → galKept (s.getGal 2).power = true →
      memWf galDefault (s.getGal 2).mem = true →
      let at_ := 0x10000 * c.runFirst + 8 * c.entries
      ∃ t, exec (.captureEntry p) s = .next t ∧ t.galWord 2 at_ = BitVec.ofInt 32 e.value ∧
        t.galWord 2 (at_ + 4) = BitVec.ofNat 32 (e.flags + 256 * (e.idx % 2 ^ 24)) ∧
        (∀ a, a < at_ ∨ at_ + 8 ≤ a → galByte t 2 a = galByte s 2 a) ∧ (t.getHp p).cap.entries = c.entries + 1 ∧
        (t.getHp p).cap.firstIdx = (if c.entries = 0 then e.idx else c.firstIdx) ∧
        (c.entries + 1 ≠ 8192 * (c.runBlocks + 1) → (t.getHp p).cap.busy = true ∧ (t.getHp p).cap.queue = rest) ∧
        (c.entries + 1 = 8192 * (c.runBlocks + 1) →
          (t.getHp p).cap.busy = false ∧ (t.getHp p).cap.ended = 1 ∧ bit (t.getHp p).intStat 11 = true) ∧
        (t.getHp p).held = (s.getHp p).held ∧ (∀ q, q ≠ p.val → t.getHp q = s.getHp q) ∧ (∀ g, g ≠ 2 → t.getGal g = s.getGal g) ∧
        t = { s with host := { s.host with hp := t.host.hp }, gal := t.gal }))

/-! ## Chapter 17: roles -/

namespace Sys2Proof.Cert

/-- R412, R415: the session of port p ends with a cause, the latch of R187 goes with it (R400), and SESSION_END is logged and counted. -/
def SessionEnded (cause p : Nat) (s t : State) : Prop :=
  t.getRolePort p = { s.getRolePort p with role := 0, keyOwn := false } ∧ (∀ q, q ≠ p → t.getRolePort q = s.getRolePort q) ∧
  HostIs p { s.getHp p with ctxLatch := none } s t ∧
  Logged (ent .sessionEnd s.now p
    [(1, (s.getRolePort p).role), (1, p), (1, (Config.sessionEndCause cause).toNat), (4, s.role.audit)] s) t ∧
  t = { s with
    role := { s.role with port := t.role.port, audit := (s.role.audit + 1) % 2 ^ 32 }
    host := { s.host with hp := t.host.hp }, log := t.log }

/-- Only the role registers of port p change, to `x`. -/
def RolePortIs (p : Nat) (x : RolePort) (s t : State) : Prop :=
  t.getRolePort p = x ∧ (∀ q, q ≠ p → t.getRolePort q = s.getRolePort q) ∧ t = { s with role := { s.role with port := t.role.port } }

/-- R415, R416: an audit record under a code of its own, counted, beside the change from s to u; the port's latest word took effect now
(R391: `wordDone`). -/
def AuditedAs (c : LogCode) (p : Nat) (s u t : State) : Prop :=
  Logged (ent c s.now p [(1, (s.getRolePort p).role), (1, p), (4, s.role.audit)] s) t ∧
  t = wordDone p { u with role := { u.role with audit := (u.role.audit + 1) % 2 ^ 32 }, log := t.log }

end Sys2Proof.Cert

/-- ROLE_REQ, ROLE_SUBMIT, ROLE_CLOSE, SESSION_IDLE_TIMEOUT and SEAL_CLEAR. R409: a challenge is held for its role; the first check that
fails gives RESULT, and with all of them met the session opens. R410: a failed response counts, from the third on it locks the port
out, and it is logged and counted by monitor 17, which early warning stops (R423). R412: a session is closed, or ends when it has been idle. R414: a maker clears SEAL.
The bytes that name a session's role and its cause in a record are the model's (log entries 11 and 21), and so is that the holdoff of R413
answers HELD before the other checks (log entry 109). -/
def Obligations.SessionsOpenAndEnd : Prop :=
  ∀ (p : Fin 4) (s : State), s.up islHost = true →
    let x := s.getRolePort p
    (∀ (r : BitVec 2) (b : BitVec 256),
      (x.role ≠ 0 → ∃ t, exec (.roleReq p r b) s = .next t ∧ RolePortIs p { x with openRole := r.toNat, result := 9 } s t) ∧
      (x.role = 0 → r ≠ 0 → ∃ t, exec (.roleReq p r b) s = .next t ∧
        RolePortIs p { x with openRole := r.toNat, chal := some { bytes := b, role := r.toNat, at_ := s.now } } s t)) ∧
    (s.now < s.role.heldUntil → ∃ t, exec (.roleSubmit p) s = .next t ∧ RolePortIs p { x with resp := 0, chal := none, result := 7 } s t) ∧
    (x.chal = none → s.role.heldUntil ≤ s.now → ∃ t, exec (.roleSubmit p) s = .next t ∧
      RolePortIs p { x with resp := 0, result := 8 } s t) ∧
    (∀ c, x.chal = some c → s.role.heldUntil ≤ s.now →
      let fresh : Prop := s.now ≤ c.at_ + 384000
      let free : Prop := x.lockUntil ≤ s.now
      let refused : Nat → Prop := fun e =>
        (e = 2 ∧ ¬ fresh) ∨ (e = 6 ∧ fresh ∧ s.now < x.lockUntil) ∨
        (e = 3 ∧ fresh ∧ free ∧ s.roleKey c.role = none) ∨
        (e = 4 ∧ fresh ∧ free ∧ (s.roleKey c.role).isSome = true ∧ c.role = 2 ∧ s.role.sealed = true) ∨
        (e = 5 ∧ fresh ∧ free ∧ c.role = 3 ∧ ∃ q, q < 4 ∧ (s.getRolePort q).role = 3)
      (∀ e, refused e → ∃ t, exec (.roleSubmit p) s = .next t ∧ RolePortIs p { x with resp := 0, chal := none, result := e } s t) ∧
      (∀ k, fresh → free → s.roleKey c.role = some k → (c.role = 2 → s.role.sealed = false) →
        (c.role = 3 → ∀ q, q < 4 → (s.getRolePort q).role ≠ 3) →
        let right : Prop := hmac256 (keyBytes k) (chalMsg c p s.tb.epoch) = keyBytes x.resp
        (right → ∃ t u, exec (.roleSubmit p) s = .next t ∧
          RolePortIs p { x with resp := 0, chal := none, result := 0, role := c.role, fails := 0, lastUse := s.now } s u ∧
          Logged (ent .sessionOpen s.now p [(1, c.role), (1, p), (4, s.role.audit)] s) t ∧
          t = { u with role := { u.role with audit := (s.role.audit + 1) % 2 ^ 32 }, log := t.log }) ∧
        (¬ right → ∃ t u, exec (.roleSubmit p) s = .next t ∧
          RolePortIs p { x with
            resp := 0, chal := none, result := 1, fails := x.fails + 1
            lockUntil := if x.fails < 2 then x.lockUntil else s.now + min 61440000 (3840000 * 2 ^ (x.fails - 2)) } s u ∧
          Logged (ent .authFail s.now p [(1, c.role), (1, p), (4, s.role.audit)] s) t ∧
          t.getMon 17 = { s.getMon 17 with hits := (s.getMon 17).hits + (if s.tmp.stopped then 0 else 1) } ∧ (∀ m, m ≠ 17 → t.getMon m = s.getMon m) ∧
          t = { u with role := { u.role with audit := (s.role.audit + 1) % 2 ^ 32 }, tmp := { s.tmp with mon := t.tmp.mon }, log := t.log }))) ∧
    (x.role = 0 → exec (.roleClose p) s = .next s) ∧
    (x.role ≠ 0 → ∃ t, exec (.roleClose p) s = .next t ∧ SessionEnded 0 p s t) ∧
    (s.now < x.lastUse + max 60 s.role.idle * 384000 → exec (.sessionIdleTimeout p) s = .next s) ∧
    (x.role ≠ 0 → x.lastUse + max 60 s.role.idle * 384000 ≤ s.now → ∃ t, exec (.sessionIdleTimeout p) s = .next t ∧ SessionEnded 1 p s t) ∧
    (NonePosted s p islHost → x.role ≠ 3 → exec (.sealClear p) s = .next s) ∧
    (NonePosted s p islHost → x.role = 3 → s.role.sealed = false →
      ∃ t, exec (.sealClear p) s = .next t ∧ Audited p 0x1F0088 0 0x80000000 s s t) ∧
    (NonePosted s p islHost → x.role = 3 → s.role.sealed = true → ∃ t, exec (.sealClear p) s = .next t ∧
      AuditedAs .sealCleared p s { s with role := { s.role with sealed := false }, pwr := { s.pwr with saveDue := true } } t)

/-- KEY_SET, KEY_SET_DONE, OTP_KEY_PROGRAM, OTP_KEY_REVOKE and OTP_KEY_DONE. R407: a session sets the operator key, a maker every key; a
refused GO clears ROLE_KEY_NEW with its result and changes no key; R460: during early warning no key is set; when it is done the key is in force, held challenges of the role are
void, every other session of the role has ended and an extra save is due (R449). R408: a maker programs an empty slot or revokes a key; a slot that holds a key
cannot be programmed, and an empty one cannot be revoked. R415: a GO that sets or programs nothing leaves an audit record as any accepted
write does. Which slots count as holding a key, and what a second GO does, are readings (log entry 16). -/
def Obligations.KeysSetAndOtpProgrammed : Prop :=
  (∀ (p : Fin 4) (g : BitVec 2) (s : State), s.up islHost = true → NonePosted s p islHost →
    let x := s.getRolePort p
    let old := roleRead s p 0x80
    let v : Word := 0x80000000 ||| g.setWidth 32
    (x.role < 2 → exec (.keySet p g) s = .next s) ∧
    (2 ≤ x.role → g = 0 ∨ x.keyJob.isSome = true → ∃ t u, exec (.keySet p g) s = .next t ∧
      RolePortIs p { x with keyTarget := g.toNat } s u ∧ Audited p 0x1F0080 old v s u t) ∧
    (2 ≤ x.role → g ≠ 0 → x.keyJob = none →
      (∀ e, (e = 1 ∧ x.role = 2 ∧ g ≠ 1) ∨ (e = 2 ∧ (3 ≤ x.role ∨ g = 1) ∧ s.inWarning = true) ∨
          (e = 3 ∧ 3 ≤ x.role ∧ g = 3 ∧ s.inWarning = false ∧ 3 ≤ s.role.makers.length) →
        ∃ t u, exec (.keySet p g) s = .next t ∧ RolePortIs p { x with keyTarget := g.toNat, keyNew := 0, keyResult := e } s u ∧
          Audited p 0x1F0080 old v s u t) ∧
      (s.inWarning = false → (g = 1 ∨ (3 ≤ x.role ∧ g = 2) ∨ (3 ≤ x.role ∧ g = 3 ∧ s.role.makers.length < 3)) →
        ∃ t u, exec (.keySet p g) s = .next t ∧
          RolePortIs p { x with keyTarget := g.toNat, keyNew := 0, keyJob := some (g.toNat, x.keyNew), keyOwn := true } s u ∧ AuditedAs .keySet p s u t))) ∧
  (∀ (p : Fin 4) (s : State), s.up islHost = true →
    let x := s.getRolePort p
    (x.keyJob = none → exec (.keySetDone p) s = .next s) ∧
    (∀ g k, x.keyJob = some (g, k) → 1 ≤ g → g ≤ 3 → ∃ t, exec (.keySetDone p) s = .next t ∧
      t.role.operator = (if g = 1 then some k else s.role.operator) ∧ t.role.installer = (if g = 2 then some k else s.role.installer) ∧
      t.role.makers = (if g = 3 then s.role.makers ++ [k] else s.role.makers) ∧ t.role.sealed = s.role.sealed ∧ t.role.otp = s.role.otp ∧
      (t.getRolePort p).role = (if x.keyOwn = true ∨ x.role ≠ g then x.role else 0) ∧ (t.getRolePort p).keyJob = none ∧ (t.getRolePort p).keyResult = 0 ∧
      (∀ q, q < 4 → (∀ c, (t.getRolePort q).chal = some c → c.role ≠ g) ∧
        (q ≠ p.val → (t.getRolePort q).role = if (s.getRolePort q).role = g then 0 else (s.getRolePort q).role)) ∧
      t = { s with role := t.role, host := { s.host with hp := t.host.hp }, log := t.log, pwr := { s.pwr with saveDue := true } })) ∧
  (∀ (p : Fin 4) (i : Fin 4) (s : State), s.up islHost = true → NonePosted s p islHost →
    let slot := tget .empty s.role.otp i
    let from_ := fun op => { s with role := { s.role with otpOp := op, otpSlot := i.val } }
    ((s.getRolePort p).role ≠ 3 → exec (.otpKeyProgram p i) s = .next s ∧ exec (.otpKeyRevoke p i) s = .next s) ∧
    (∀ op c, (op = 1 ∧ c = Instr.otpKeyProgram p i) ∨ (op = 2 ∧ c = Instr.otpKeyRevoke p i) → (s.getRolePort p).role = 3 →
      let plain := fun (u : State) => ∃ t, exec c s = .next t ∧
        Audited p 0x1F0090 (roleRead s p 0x90) (BitVec.ofNat 32 (2 ^ 31 + 4 * op + i)) s u t
      (s.role.otpJob.isSome = true → plain (from_ op)) ∧
      (s.role.otpJob = none →
        (op = 1 → slot ≠ .empty → plain { from_ 1 with role := { (from_ 1).role with otpData := 0, otpResult := 1 } }) ∧
        (op = 2 → slot = .empty → plain { from_ 2 with role := { (from_ 2).role with otpData := 0, otpResult := 2 } }) ∧
        ((op = 1 ↔ slot = .empty) → s.inWarning = true →
          plain { from_ op with role := { (from_ op).role with otpData := 0, otpResult := 3 } }) ∧
        ((op = 1 ↔ slot = .empty) → s.inWarning = false → ∃ t, exec c s = .next t ∧
          AuditedAs .otpKey p s
            { from_ op with role := { (from_ op).role with otpData := 0, otpJob := some (op, i.val, s.role.otpData) } } t)))) ∧
  (∀ (ok : Bool) (s : State), s.up islHost = true →
    (s.role.otpJob = none → exec (.otpKeyDone ok) s = .next s) ∧
    (∀ op i d, s.role.otpJob = some (op, i, d) → op = 1 ∨ op = 2 →
      (exec (.otpKeyDone false) s = .next { s with role := { s.role with otpJob := none, otpResult := 4 } }) ∧
      (∃ t, exec (.otpKeyDone true) s = .next t ∧ t.role = { s.role with otpJob := none, otpResult := 0, otp := t.role.otp } ∧
        (op = 1 → tget .empty t.role.otp i = .key (leBytes 64 d.toNat)) ∧
        (∀ xy, op = 2 → tget .empty s.role.otp i = .key xy → tget .empty t.role.otp i = .revoked xy) ∧
        (∀ j, j ≠ i → tget .empty t.role.otp j = tget .empty s.role.otp j) ∧ t = { s with role := t.role })))

/-! ## Chapter 18: tamper monitors -/

/-- TAMPER_SAMPLE. R425: a setting written takes effect at the sample; R424: a raw event opens a window, and the COUNT-th within it trips
the monitor, which alarms; R418, R420: an enclosure switch's two detectors, and a run of more than 64 samples in which they disagree.
R426, R428: the alarms of a sample are answered once, with their strongest response: 1 the interrupt alone, 2 every session ends, 3
SEAL, 4 FULL_RESET; R429: a holdoff that is running starts again, and SEAL under SEAL changes nothing; R430, R431: a revenue-class alarm programs a step of the evidence counter, or waits in the pending latch during a
warning. A sample that finds nothing changes the monitors alone, and notes
a REFCLK that is not good (R13). -/
def Obligations.TamperSamplesFilteredAndAnswered : Prop :=
  ∀ (o : TamperObs) (s : State), s.pwr.mainOn = true → s.tmp.test = none →
    (∃ t, exec (.tamperSample o) s = .next t ∧ t.tmp.sample = s.tmp.sample + 1 ∧
      (∀ m, m < 8 → let x := s.getMon m
        let y := t.getMon m
        let d1 := o.swHigh.getLsbD m == x.opt
        let d2 := o.swMid.getLsbD m || o.swUp.getLsbD m == x.opt
        let raw := d1 || d2 || (d1 != d2 && decide (64 ≤ x.disRun))
        (∀ a b, x.newCfg = some (a, b) → y.enable = bit a 31 ∧ y.response = a.toNat / 2 ^ 28 % 8 ∧ y.count = b.toNat / 2 ^ 16 % 2 ^ 16 ∧
          y.window = b.toNat % 2 ^ 16 ∧ y.newCfg = none) ∧
        (x.newCfg = none → x.enable = true → x.state = .armed → x.opened = none → x.n = 0 →
          y.cond = raw ∧ (raw = false → y.state = .armed ∧ y.opened = none ∧ y.n = 0 ∧ y.alarms = x.alarms) ∧
          (raw = true → 1 < x.count → y.state = .armed ∧ y.opened = some t.tmp.sample ∧ y.n = 1 ∧ y.alarms = x.alarms) ∧
          (raw = true → x.count ≤ 1 → y.state = .tripped ∧ y.n = 0 ∧ y.alarms = min 0xFFFF (x.alarms + 1))) ∧
        (∀ a, x.newCfg = none → x.enable = true → x.state = .armed → x.opened = some a → raw = true → x.count = x.n + 1 →
          s.tmp.sample + 1 < a + x.window →
          y.state = .tripped ∧ y.opened = none ∧ y.alarms = min 0xFFFF (x.alarms + 1) ∧
          Logged (entSev .tamperAlarm (respSev x.response) s.now m [(8, s.now), (2, t.tmp.sample % 1024)] s) t ∧
          t.tmp.lastMons.testBit m = true ∧ x.response ≤ t.tmp.lastResp ∧ t.tmp.lastIdx = s.now ∧ t.tmp.lastBattery = false ∧
          Logged (entSev .tamperResponse (respSev t.tmp.lastResp) s.now 0 [(1, t.tmp.lastResp), (4, t.tmp.lastMons)] s) t ∧
          (1 ≤ t.tmp.lastResp → ∀ p, p < 4 → bit (t.getHp p).intStat 8 = true) ∧
          (t.tmp.lastResp = 2 → s.role.holdoff * 384000 + s.now = t.role.heldUntil ∧
            (s.role.heldUntil ≤ s.now → ∀ p, p < 4 → (t.getRolePort p).role = 0 ∧ (t.getRolePort p).chal = none)) ∧
          (t.tmp.lastResp = 3 → t.role.sealed = true ∧
            (s.role.sealed = false → ∀ p, p < 4 → (t.getRolePort p).role ≠ 2 ∧ ∀ c, (t.getRolePort p).chal = some c → c.role ≠ 2) ∧
            (s.role.sealed = true → t.role.port = s.role.port)) ∧
          (t.tmp.lastResp = 4 → t.pwr.resetAt.isSome = true) ∧
          (1 ≤ x.response → t.tmp.lastStep = true ∧
            (s.inWarning = false → s.tmp.otpCount < 2048 →
              t.tmp.otpCount = min 2048 (s.tmp.otpCount + o.badCells + 1) ∧ t.tmp.pending = s.tmp.pending) ∧
            (s.inWarning = true → s.tmp.pending < 255 → t.tmp.otpCount = s.tmp.otpCount ∧ t.tmp.pending = s.tmp.pending + 1)))) ∧
      t = { s with host := { s.host with hp := t.host.hp }, role := t.role, tmp := t.tmp, pwr := { s.pwr with resetAt := t.pwr.resetAt }
                   log := t.log }) ∧
    ((∀ m, m < 23 → (s.getMon m).enable = false ∧ (s.getMon m).newCfg = none) →
      ∃ t, exec (.tamperSample o) s = .next t ∧ t.tmp = { s.tmp with
          sample := s.tmp.sample + 1, mon := t.tmp.mon
          refBadAt := if (o.refWatchdog || o.refCount) = true then some (s.tmp.sample + 1) else s.tmp.refBadAt } ∧
        (∀ m, m < 23 → (t.getMon m).cond = false ∧ (t.getMon m).alarms = (s.getMon m).alarms) ∧ t = { s with tmp := t.tmp })

/-- SHADOW_MISMATCH, SHADOW_SWEEP, TAMPER_TEST and TAMPER_CONFIG_WRITE. R422: a mismatch is a raw event of monitor 16, counted with its
address and logged, and the field is restored: SEAL from the newest save record, a port's ROLE by the end of its session. R434, R435: a
test puts monitors 18 to 22 into TEST, and is refused for another monitor, one that is OFF or TRIPPED, while a test runs and in a
warning. R425, R427: a setting outside its limits is refused; another waits for the next sample, closes an open window and makes an extra save due (R449). R421: ENABLE of a wire loop written from 0 to 1 has its R0 measured anew. -/
def Obligations.ShadowsTestsAndMonitorSettings : Prop :=
  (∀ (f : ShadowField) (s : State),
    (s.pwr.mainOn = false → exec (.shadowMismatch f) s = .next s) ∧
    (s.stewUp = true → exec (.shadowSweep []) s = .next s) ∧
    (∀ c d1, (c = .shadowMismatch f ∧ s.pwr.mainOn = true ∧ d1 = true) ∨ (c = .shadowSweep [f] ∧ s.stewUp = true ∧ d1 = false) →
      ∃ t, exec c s = .next t ∧ t.tmp.shadowCount = min 0xFFFF (s.tmp.shadowCount + 1) ∧ t.tmp.shadowAddr = shadowAddr f ∧
        Logged (ent .tamperShadow s.now 16 [(4, shadowAddr f)] s) t ∧
        (s.tmp.stopped = false → (∀ m, f ≠ .monCfg m) → t.getMon 16 = { s.getMon 16 with
          hits := (s.getMon 16).hits + 1, hitD1 := (s.getMon 16).hitD1 || d1, hitD2 := (s.getMon 16).hitD2 || !d1 }) ∧
        (∀ p, f = .roleStat p → (t.getRolePort p).role = 0 ∧ ∀ q, q ≠ p.val → t.getRolePort q = s.getRolePort q) ∧
        ((∀ p, f ≠ .roleStat p) → t.role.port = s.role.port ∧ t.host = s.host) ∧
        (∀ a, f = .seal → s.pwr.copyA = some a → s.pwr.copyB = none → t.role.sealed = a.sealed) ∧
        (f ≠ .seal → t.role.sealed = s.role.sealed) ∧
        (∀ a, f = .planMinver → s.pwr.copyA = some a → s.pwr.copyB = none → t.plan = { s.plan with minver := a.minver }) ∧
        (f ≠ .planMinver → t.plan = s.plan) ∧ t.tmp.otpCount = s.tmp.otpCount ∧
        t = { s with plan := t.plan, host := t.host, role := t.role, tmp := t.tmp, log := t.log })) ∧
  (∀ (p : Fin 4) (m : BitVec 5) (s : State), MayAct s p 2 islCloak →
    let x := s.getMon m.toNat
    let v : Word := 0x80000000 ||| m.setWidth 32
    let bad : Prop := m.toNat < 18 ∨ 22 < m.toNat ∨ x.state = .off ∨ x.state = .tripped ∨ s.tmp.test.isSome = true ∨ s.inWarning = true
    (bad → ∃ t, exec (.tamperTest p m) s = .next t ∧ Audited p 0x1D0020 (tmpRead s 0x20) v s
      { s with tmp := { s.tmp with testMon := m.toNat, testResult := 2 } } t) ∧
    (¬ bad → ∃ t u, exec (.tamperTest p m) s = .next t ∧ u.getMon m.toNat = { x with state := .test, opened := none, n := 0 } ∧
      (∀ j, j ≠ m.toNat → u.getMon j = s.getMon j) ∧
      u = { s with tmp := { s.tmp with testMon := m.toNat, test := some (m.toNat, 0, true), mon := u.tmp.mon } } ∧
      Audited p 0x1D0020 (tmpRead s 0x20) v s u t)) ∧
  (∀ (p : Fin 4) (m : Fin 23) (w : Fin 2) (v : Word) (s : State), MayAct s p 3 islCloak →
    let x := s.getMon m
    let resp := v.toNat / 2 ^ 28 % 8
    let count := v.toNat / 2 ^ 16
    let win := v.toNat % 2 ^ 16
    let bad : Prop := if w = 0 then 4 < resp ∨ (resp = 4 ∧ m.val ≠ 16 ∧ m.val ≠ 17)
      else count = 0 ∨ win = 0 ∨ ((m.val < 16 ∨ 19 < m.val) ∧ win < count)
    (bad → exec (.tamperConfigWrite p m w v) s = .next s) ∧
    (¬ bad → ∃ t u, exec (.tamperConfigWrite p m w v) s = .next t ∧
      u.getMon m = { x with
        newCfg := some (if w = 0 then (monWord0 m v, x.cfgWords.2) else (x.cfgWords.1, v)), opened := none, n := 0 } ∧
      (∀ j, j ≠ m.val → u.getMon j = s.getMon j) ∧
      (∀ i, u.getLoop i = if i < 8 ∧ i + 8 = m.val ∧ w = 0 ∧ bit v 31 = true ∧ bit x.cfgWords.1 31 = false
        then { s.getLoop i with measure := true, prbs := 0 } else s.getLoop i) ∧
      u = { s with tmp := { s.tmp with mon := u.tmp.mon, loop := u.tmp.loop }, pwr := { s.pwr with saveDue := true } } ∧
      Audited p (0x1D0100 + 8 * m + 4 * w) (if w = 0 then x.cfgWords.1 else x.cfgWords.2) v s u t))

/-! ## Chapter 20: the trouble log -/

namespace Sys2Proof.Cert

/-- R470: an entry of the steward's own source, 0x00, earlier than index w, is still on its way in another channel than `i`. -/
def ZeroFirst (i w : Nat) (s : State) : Prop :=
  ∃ j x, j < 12 ∧ j ≠ i ∧ (x ∈ (s.getLogSrc j).chan ∨ x ∈ (s.getLogSrc j).waiting) ∧ x.code < 256 ∧ x.when_ < w

/-- R469, R470: nothing else has to be written before an entry taken from channel i: for one of source 0x00, no earlier one of that source
and no span that is over with a count; for another, no span of its own code. -/
def InTurn (i : Nat) (e : LogEnt) (s : State) : Prop :=
  if e.code < 256 then ¬ ZeroFirst i e.when_ s ∧ ∀ y ∈ s.log.span, e.when_ < y.2.start + 384000 ∨ y.2.count = 0
  else ∀ y, s.log.span.find? (fun x => x.1 == e.code) = some y → e.when_ < y.2.start + 384000 ∨ y.2.count = 0

/-- R470, R462: the slot of SEQ n holds the entry: its number, and the bytes of it (one entry, DATA within 12 bytes). -/
def SlotHolds (n : Nat) (e : LogEnt) (t : State) : Prop :=
  t.galWord 3 (0x100000 + 0x20 * (n % 8192)) = BitVec.ofNat 32 n ∧
  ∀ i, i < 28 → galByte t 3 (0x100000 + 0x20 * (n % 8192) + 4 + i) = (logBody e false false e.data).getD i 0

end Sys2Proof.Cert

/-- LOG_ENTRY_WRITE, LOG_SUPPRESSED, LOG_DROPPED and LOG_ACK. R470: the steward takes the oldest entry of a channel and writes it into the
slot of LOG_NEXT, which goes on; R463: a port whose LOG_SEV it meets sees source LOG; R471: an entry of severity 2 or more, or always
logged, enters the mirror. R469: the 65th entry of a span and the later ones are counted only, and a span that has ended with a count is
closed by a LOG_SUPPRESSED entry; within the steward's own source WHEN never decreases, so an entry waits for the earlier ones of that
source (R470). R468: what a channel dropped is reported once it holds fewer than 16. R473: an acknowledgement is kept
for the port that wrote it. -/
def Obligations.TroubleLogWritten : Prop :=
  (∀ (i : Fin 12) (s : State), memWf galDefault (s.getGal 3).mem = true → s.log.next < 2 ^ 32 →
    (s.logUp = false ∨ (s.getLogSrc i).chan = [] → exec (.logEntryWrite i) s = .next s) ∧
    (∀ e rest, (s.getLogSrc i).chan = e :: rest → e.code < 256 → ZeroFirst i e.when_ s → exec (.logEntryWrite i) s = .next s) ∧
    (∀ e rest, s.logUp = true → (s.getLogSrc i).chan = e :: rest → e.data.length ≤ 12 → InTurn i e s →
      (2 ≤ e.sev ∨ e.always = true →
        ∃ t, exec (.logEntryWrite i) s = .next t ∧ SlotHolds s.log.next e t ∧ t.log.next = (s.log.next + 1) % 2 ^ 32 ∧
          (∀ a, a < 0x100000 + 0x20 * (s.log.next % 8192) ∨ 0x100000 + 0x20 * (s.log.next % 8192) + 32 ≤ a →
            galByte t 3 a = galByte s 3 a) ∧
          t.log.mirror = { seq := s.log.next, ent := e, more := false, cont := false, copied := true } :: s.log.mirror.take 255 ∧
          ((s.getLogSrc i).waiting = [] → (t.getLogSrc i).chan = rest) ∧
          (∀ w ws, (s.getLogSrc i).waiting = w :: ws → (t.getLogSrc i).chan = rest ++ [w] ∧ (t.getLogSrc i).waiting = ws) ∧
          (∀ j, j ≠ i.val → t.getLogSrc j = s.getLogSrc j) ∧ t.log.span = s.log.span ∧
          (∀ p, p < 4 → (t.getHp p).intStat = if bits (s.getHp p).intEn 31 28 ≤ e.sev then (s.getHp p).intStat ||| 0x80
            else (s.getHp p).intStat) ∧
          (∀ g, g ≠ 3 → t.getGal g = s.getGal g) ∧ t = { s with gal := t.gal, host := { s.host with hp := t.host.hp }, log := t.log }) ∧
      (∀ x, e.sev < 2 → e.always = false → s.log.span.find? (fun y => y.1 == e.code) = some (e.code, x) → e.when_ < x.start + 384000 →
        64 ≤ x.written → ∃ t, exec (.logEntryWrite i) s = .next t ∧ t.log.next = s.log.next ∧
          t.log.suppressed = min 0xFFFF (s.log.suppressed + 1) ∧ tget { start := 0, written := 0, count := 0 } t.log.span e.code =
            { x with count := x.count + 1 } ∧ t = { s with log := t.log }))) ∧
  (∀ (code : BitVec 16) (s : State), memWf galDefault (s.getGal 3).mem = true → s.log.next < 2 ^ 32 →
    (s.logUp = false ∨ s.log.span.find? (fun y => y.1 == code.toNat) = none → exec (.logSuppressed code) s = .next s) ∧
    (∀ x, s.logUp = true → s.log.span.find? (fun y => y.1 == code.toNat) = some (code.toNat, x) →
      (s.now < x.start + 384000 ∨ x.count = 0 → exec (.logSuppressed code) s = .next s) ∧
      (ZeroFirst 12 (x.start + 384000) s → exec (.logSuppressed code) s = .next s) ∧
      (x.start + 384000 ≤ s.now → x.count ≠ 0 → ¬ ZeroFirst 12 (x.start + 384000) s → ∃ t, exec (.logSuppressed code) s = .next t ∧
        t.log.span.find? (fun y => y.1 == code.toNat) = none ∧
        ((∀ y ∈ s.log.span, y.1 ≠ code.toNat → x.start < y.2.start ∨ y.2.count = 0) →
          SlotHolds s.log.next { code := 0x0004, sev := 0, always := false, when_ := x.start + 384000, epoch := s.tb.epoch
                                 data := leBytes 2 0 ++ leBytes 2 code.toNat ++ leBytes 4 x.count } t ∧
          t.log.next = (s.log.next + 1) % 2 ^ 32 ∧
          ∀ c, c ≠ code.toNat → t.log.span.find? (fun y => y.1 == c) = s.log.span.find? (fun y => y.1 == c)) ∧
        (∀ g, g ≠ 3 → t.getGal g = s.getGal g) ∧ t = { s with gal := t.gal, host := { s.host with hp := t.host.hp }, log := t.log }))) ∧
  (∀ (i : Fin 12) (s : State),
    let c := s.getLogSrc i
    (c.drops = 0 ∨ 16 ≤ c.chan.length → exec (.logDropped i) s = .next s) ∧
    (c.drops ≠ 0 → c.chan.length < 16 → c.waiting = [] → ∃ t, exec (.logDropped i) s = .next t ∧
      t.getLogSrc i = { chan := c.chan ++ [ent .logDropped s.now 0 [(2, min 0xFFFF c.drops), (8, c.dropFirst), (8, c.dropLast)] s] } ∧
      (∀ j, j ≠ i.val → t.getLogSrc j = s.getLogSrc j) ∧ t = { s with log := { s.log with src := t.log.src } })) ∧
  (∀ (p : Fin 4) (seq : Word) (s : State), MayAct s p 1 islSteward → ∃ t, exec (.logAck p seq) s = .next (wordDone p t) ∧
    t.getLogPort p = { s.getLogPort p with ack := seq.toNat, tracking := true } ∧
    (∀ q, q ≠ p.val → t.getLogPort q = s.getLogPort q) ∧ t = { s with log := { s.log with port := t.log.port } })

/-! ## Invariants and rules of the whole block -/

namespace Sys2Proof.Cert

/-- An OTP slot is being programmed only while it is empty (R408). -/
def OtpJobSound (s : State) : Prop := ∀ i d, s.role.otpJob = some (1, i, d) → tget .empty s.role.otp i = .empty

end Sys2Proof.Cert

/-- The state after reset meets every invariant below. -/
def Obligations.ResetMeetsTheInvariants : Prop :=
  Safety.MemoriesCanonical State.reset ∧ Safety.RatioWithinLimits State.reset ∧ Safety.BlocksExclusive State.reset ∧
  Safety.CreditBounded State.reset ∧ OtpJobSound State.reset ∧ State.reset.tmp.otpCount ≤ 2048 ∧ State.reset.role.makers.length ≤ 3

/-- Every step keeps the galleries and the boot flash in canonical form: addresses strictly rising, no entry equal to what an unlisted
address reads as. -/
def Obligations.StepKeepsMemoriesCanonical : Prop :=
  ∀ s t : State, Safety.MemoriesCanonical s → step s = .next t → Safety.MemoriesCanonical t

/-- R41: the nominal ratio gives 384,000 ticks per second at 30.72 MHz; the limits are the representable ratios nearest to 79.984 and
80.016 inside the range; a ratio asked for beyond them is clamped, and RANGE is 1 exactly while the ratio in use stands at a limit by such
a clamp; and no step takes the ratio in use, or the one from which FREE and HOLDOVER move, outside the limits. -/
def Obligations.RatioStaysWithinLimits : Prop :=
  State.reset.tb.ratio = 0x500000000000 ∧ 30720000 * 2 ^ 40 = 384000 * State.reset.tb.ratio ∧
  (∀ n : Nat, 79984 * 2 ^ 40 ≤ 1000 * n ↔ 0x4FFBE76C8B44 ≤ n) ∧ (∀ n : Nat, 1000 * n ≤ 80016 * 2 ^ 40 ↔ n ≤ 0x5004189374BC) ∧
  (∀ asked ticks t, 0x4FFBE76C8B44 ≤ t.ratio → t.ratio ≤ 0x5004189374BC →
    let u := setRatio asked ticks t
    (0x4FFBE76C8B44 ≤ u.ratio ∧ u.ratio ≤ 0x5004189374BC) ∧
    (asked < 0x4FFBE76C8B44 → t.ratio ≤ 0x4FFBE76C8B44 + t.ratio * ticks / (2000000 * 384000) → u.ratio = 0x4FFBE76C8B44) ∧
    (0x5004189374BC < asked → 0x5004189374BC ≤ t.ratio + t.ratio * ticks / (2000000 * 384000) → u.ratio = 0x5004189374BC) ∧
    (u.range = true ↔ (asked < 0x4FFBE76C8B44 ∧ u.ratio = 0x4FFBE76C8B44) ∨ (0x5004189374BC < asked ∧ u.ratio = 0x5004189374BC))) ∧
  (∀ s t : State, Safety.RatioWithinLimits s → step s = .next t → Safety.RatioWithinLimits t)

/-- R394, R385: no step lets two ports hold one capture block, or a port one block twice, or gives a port more than 256 words of
credit. -/
def Obligations.StepKeepsBlocksExclusiveAndCreditBounded : Prop :=
  ∀ s t : State, step s = .next t →
    (Safety.BlocksExclusive s → Safety.BlocksExclusive t) ∧ (Safety.CreditBounded s → Safety.CreditBounded t)

/-- R408, R406, R430: what is written in OTP stays: no step takes back a step of the evidence counter, a maker key, or a plan key slot; a
slot that holds a key can only become revoked, and a revoked one stays so. Which generations and slots there are when OTP is new is the
model's choice (log entry 6). -/
def Obligations.OtpOnlyGrows : Prop :=
  ∀ s t : State, OtpJobSound s → s.tmp.otpCount ≤ 2048 → step s = .next t →
    OtpJobSound t ∧ s.tmp.otpCount ≤ t.tmp.otpCount ∧ t.tmp.otpCount ≤ 2048 ∧ (∃ l, t.role.makers = s.role.makers ++ l) ∧
    ∀ i, (∀ xy, tget .empty s.role.otp i = .revoked xy → tget .empty t.role.otp i = .revoked xy) ∧
      (∀ xy, tget .empty s.role.otp i = .key xy → tget .empty t.role.otp i = .key xy ∨ tget .empty t.role.otp i = .revoked xy)

/-- No command is lost, added or moved by running one: what a command leaves in the queue is what stood behind it. -/
def Obligations.CommandsLeaveTheQueue : Prop :=
  (∀ (c : Instr) (s t : State), exec c s = .next t → t.pending = s.pending) ∧
  (∀ (c : Instr) (rest : List Instr) (s t : State), step { s with pending := c :: rest } = .next t → t.pending = rest)

/-- R439, R423: while the main domain is stopped, only what belongs to the cloakroom and to the supplies changes anything: power-good, its
loss and the release, the tamper sample, the supply switch and the trim. Reporting what a trouble channel dropped is excluded with them, because
the model lets a stopped island report. That a command of a stopped island has no effect is the model's reading (log entry 60). -/
def Obligations.StoppedMainDomainChangesNothing : Prop :=
  ∀ (c : Instr) (s : State), s.pwr.mainOn = false → s.pwr.resetting = false →
    (∀ b o, c ≠ .powerGood b o) → (∀ v w, c ≠ .powerWarning v w) → c ≠ .mainRelease → (∀ o, c ≠ .tamperSample o) → (∀ v, c ≠ .cloakSupplySwitch v) →
    (∀ v, c ≠ .cloakroomTrim v) → (∀ i, c ≠ .logDropped i) → exec c s = .next s
end

