-- ==== Sys2Proof/Laws/Memory.lean ====
section
/-! SUPPORT. The memories: every operation keeps the canonical form, and a read after a write gives what was written and leaves every
other address alone. -/

namespace Sys2Proof.Machine

/-- A lower bound may be lowered. -/
theorem memWfFrom_mono {d : Byte} {m : Mem} {lo lo' : Nat} (h : memWfFrom d lo m = true) (hl : lo' ≤ lo) : memWfFrom d lo' m = true := by
  cases m with
  | nil => rfl
  | cons e t =>
    obtain ⟨j, v⟩ := e
    simp only [memWfFrom, Bool.and_eq_true, decide_eq_true_eq] at h ⊢
    exact ⟨⟨Nat.le_trans hl h.1.1, h.1.2⟩, h.2⟩

/-- What the canonical form says of a listed byte. -/
theorem memWfFrom_mem {d : Byte} {m : Mem} {lo : Nat} (h : memWfFrom d lo m = true) {e : Nat × Byte} (he : e ∈ m) :
    lo ≤ e.1 ∧ e.2 ≠ d := by
  induction m generalizing lo with
  | nil => cases he
  | cons x t ih =>
    obtain ⟨j, v⟩ := x
    simp only [memWfFrom, Bool.and_eq_true, decide_eq_true_eq, bne_iff_ne] at h
    rcases List.mem_cons.1 he with rfl | he
    · exact h.1
    · have := ih h.2 he
      exact ⟨by omega, this.2⟩

/-- Below its first address a canonical memory lists nothing. -/
theorem mget_below {d : Byte} {m : Mem} {lo a : Nat} (h : memWfFrom d lo m = true) (ha : a < lo) : mget d m a = d := by
  induction m generalizing lo with
  | nil => rfl
  | cons x t ih =>
    obtain ⟨j, v⟩ := x
    simp only [memWfFrom, Bool.and_eq_true, decide_eq_true_eq] at h
    have hj : j ≠ a := by omega
    simp only [mget, hj, if_false]
    exact ih h.2 (by omega)

/-- A stored byte keeps the form. -/
theorem memWfFrom_mput {d : Byte} {m : Mem} {lo a : Nat} (b : Byte) (h : memWfFrom d lo m = true) (ha : lo ≤ a) :
    memWfFrom d lo (mput d m a b) = true := by
  induction m generalizing lo with
  | nil =>
    simp only [mput]
    split
    · rfl
    · simp [memWfFrom, *]
  | cons x t ih =>
    obtain ⟨j, v⟩ := x
    have h' := h
    simp only [memWfFrom, Bool.and_eq_true, decide_eq_true_eq, bne_iff_ne] at h'
    simp only [mput]
    split
    · split
      · exact h
      · simp only [memWfFrom, Bool.and_eq_true, decide_eq_true_eq, bne_iff_ne]
        exact ⟨⟨ha, by assumption⟩, ⟨by omega, h'.1.2⟩, h'.2⟩
    · split
      · subst a
        split
        · exact memWfFrom_mono h'.2 (by omega)
        · simp only [memWfFrom, Bool.and_eq_true, decide_eq_true_eq, bne_iff_ne]
          exact ⟨⟨ha, by assumption⟩, h'.2⟩
      · simp only [memWfFrom, Bool.and_eq_true, decide_eq_true_eq, bne_iff_ne]
        exact ⟨h'.1, ih h'.2 (by omega)⟩

/-- A stored byte keeps the canonical form. -/
theorem memWf_mput {d : Byte} {m : Mem} (a : Nat) (b : Byte) (h : memWf d m = true) : memWf d (mput d m a b) = true :=
  memWfFrom_mput b h (Nat.zero_le _)

/-- Stored bytes keep the canonical form. -/
theorem memWf_mputs {d : Byte} {m : Mem} (a : Nat) (bs : List Byte) (h : memWf d m = true) : memWf d (mputs d m a bs) = true := by
  induction bs generalizing m a with
  | nil => exact h
  | cons b bs ih => exact ih (a + 1) (memWf_mput a b h)

/-- A stored word keeps the canonical form. -/
theorem memWf_mputW {d : Byte} {m : Mem} (a : Nat) (w : Word) (h : memWf d m = true) : memWf d (mputW d m a w) = true :=
  memWf_mputs a _ h

/-- What is left of a canonical memory is canonical. -/
theorem memWfFrom_filter {d : Byte} {m : Mem} {lo : Nat} (p : Nat × Byte → Bool) (h : memWfFrom d lo m = true) :
    memWfFrom d lo (m.filter p) = true := by
  induction m generalizing lo with
  | nil => rfl
  | cons x t ih =>
    obtain ⟨j, v⟩ := x
    simp only [memWfFrom, Bool.and_eq_true, decide_eq_true_eq, bne_iff_ne] at h
    simp only [List.filter_cons]
    split
    · simp only [memWfFrom, Bool.and_eq_true, decide_eq_true_eq, bne_iff_ne]
      exact ⟨h.1, ih h.2⟩
    · exact memWfFrom_mono (ih h.2) (by omega)

/-- Clearing keeps the canonical form. -/
theorem memWf_mclear {d : Byte} {m : Mem} (a n : Nat) (h : memWf d m = true) : memWf d (mclear m a n) = true :=
  memWfFrom_filter _ h

/-- Two canonical memories one above the other. -/
theorem memWfFrom_append {d : Byte} {m n : Mem} {lo mid : Nat} (hm : memWfFrom d lo m = true) (hn : memWfFrom d mid n = true)
    (hlo : lo ≤ mid) (hb : ∀ e ∈ m, e.1 < mid) : memWfFrom d lo (m ++ n) = true := by
  induction m generalizing lo with
  | nil => exact memWfFrom_mono hn hlo
  | cons x t ih =>
    obtain ⟨j, v⟩ := x
    simp only [memWfFrom, Bool.and_eq_true, decide_eq_true_eq, bne_iff_ne] at hm
    simp only [List.cons_append, memWfFrom, Bool.and_eq_true, decide_eq_true_eq, bne_iff_ne]
    have hj : j < mid := hb (j, v) List.mem_cons_self
    exact ⟨hm.1, ih hm.2 (by omega) (fun e he => hb e (List.mem_cons_of_mem _ he))⟩

/-- The entries at or above an address form a canonical memory from it. -/
theorem memWfFrom_above {d : Byte} {m : Mem} {lo : Nat} (a : Nat) (h : memWfFrom d lo m = true) :
    memWfFrom d a (m.filter (fun e => decide (e.1 ≥ a))) = true := by
  induction m generalizing lo with
  | nil => rfl
  | cons x t ih =>
    obtain ⟨j, v⟩ := x
    simp only [memWfFrom, Bool.and_eq_true, decide_eq_true_eq, bne_iff_ne] at h
    simp only [List.filter_cons]
    split
    · next hj =>
      have hj : a ≤ j := by simpa using hj
      simp only [memWfFrom, Bool.and_eq_true, decide_eq_true_eq, bne_iff_ne]
      exact ⟨⟨hj, h.1.2⟩, memWfFrom_filter _ h.2⟩
    · exact ih h.2

/-- Listed bytes of consecutive addresses form a canonical memory. -/
theorem memWfFrom_run (d : Byte) (bs : List Byte) (a : Nat) :
    memWfFrom d a (((bs.zipIdx a).filter (fun e => e.1 != d)).map (fun e => (e.2, e.1))) = true ∧
    ∀ e ∈ ((bs.zipIdx a).filter (fun e => e.1 != d)).map (fun e => (e.2, e.1)), e.1 < a + bs.length := by
  induction bs generalizing a with
  | nil => exact ⟨rfl, by simp⟩
  | cons b bs ih =>
    obtain ⟨h1, h2⟩ := ih (a + 1)
    simp only [List.zipIdx_cons, List.filter_cons]
    split
    · next hb =>
      refine ⟨?_, ?_⟩
      · simp only [List.map_cons, memWfFrom, Bool.and_eq_true, decide_eq_true_eq]
        exact ⟨⟨Nat.le_refl _, hb⟩, h1⟩
      · intro e he
        simp only [List.map_cons, List.mem_cons] at he
        rcases he with rfl | he
        · simp
        · have := h2 e he; simp only [List.length_cons]; omega
    · refine ⟨memWfFrom_mono h1 (by omega), ?_⟩
      intro e he
      have := h2 e he
      simp only [List.length_cons]; omega

/-- Filling a range keeps the canonical form. -/
theorem memWf_mfill {d : Byte} {m : Mem} (a : Nat) (bs : List Byte) (h : memWf d m = true) : memWf d (mfill d m a bs) = true := by
  obtain ⟨h1, h2⟩ := memWfFrom_run d bs a
  have hup := memWfFrom_append (d := d) (lo := a) (mid := a + bs.length) h1 (memWfFrom_above (a + bs.length) h) (by omega) h2
  have := memWfFrom_append (d := d) (lo := 0) (mid := a) (memWfFrom_filter (fun e => decide (e.1 < a)) h) hup (by omega)
    (by intro e he; simpa using (List.mem_filter.1 he).2)
  simpa [mfill, memWf, List.append_assoc] using this

/-- A byte stored is read back. -/
theorem mget_mput_same {d : Byte} {m : Mem} {lo : Nat} (a : Nat) (b : Byte) (h : memWfFrom d lo m = true) :
    mget d (mput d m a b) a = b := by
  induction m generalizing lo with
  | nil =>
    simp only [mput]
    split
    · next hb => simp [mget, hb]
    · simp [mget]
  | cons x t ih =>
    obtain ⟨j, v⟩ := x
    have h' := h
    simp only [memWfFrom, Bool.and_eq_true, decide_eq_true_eq, bne_iff_ne] at h'
    simp only [mput]
    split
    · next hlt =>
      split
      · next hb =>
        have hj : j ≠ a := by omega
        simp only [mget, hj, if_false]
        rw [mget_below h'.2 (by omega), hb]
      · simp [mget]
    · split
      · next hlt heq =>
        subst heq
        split
        · next hb => rw [mget_below h'.2 (by omega), hb]
        · simp [mget]
      · next hlt hne =>
        simp only [mget, Ne.symm hne, if_false]
        exact ih h'.2

/-- Every other byte stays. -/
theorem mget_mput_ne {d : Byte} {m : Mem} (a c : Nat) (b : Byte) (hc : c ≠ a) : mget d (mput d m a b) c = mget d m c := by
  induction m with
  | nil =>
    simp only [mput]
    split
    · rfl
    · simp [mget, Ne.symm hc]
  | cons x t ih =>
    obtain ⟨j, v⟩ := x
    simp only [mput]
    split
    · split
      · rfl
      · simp [mget, Ne.symm hc]
    · split
      · next heq =>
        subst heq
        split
        · simp [mget, Ne.symm hc]
        · simp [mget, Ne.symm hc]
      · simp only [mget]; rw [ih]

/-- Bytes stored from `a` upward leave what lies outside them. -/
theorem mget_mputs_out {d : Byte} {m : Mem} (a c : Nat) (bs : List Byte) (hc : c < a ∨ a + bs.length ≤ c) :
    mget d (mputs d m a bs) c = mget d m c := by
  induction bs generalizing m a with
  | nil => rfl
  | cons b bs ih =>
    simp only [List.length_cons] at hc
    simp only [mputs]
    rw [ih (a + 1) (by omega), mget_mput_ne a c b (by omega)]

/-- Bytes stored from `a` upward are read back. -/
theorem mget_mputs_in {d : Byte} {m : Mem} (a i : Nat) (bs : List Byte) (h : memWf d m = true) (hi : i < bs.length) :
    mget d (mputs d m a bs) (a + i) = bs[i] := by
  induction bs generalizing m a i with
  | nil => simp at hi
  | cons b bs ih =>
    cases i with
    | zero =>
      simp only [mputs, Nat.add_zero, List.getElem_cons_zero]
      rw [mget_mputs_out (a + 1) a bs (by omega)]
      exact mget_mput_same a b h
    | succ i =>
      simp only [mputs, List.getElem_cons_succ]
      have := ih (m := mput d m a b) (a + 1) i (memWf_mput a b h) (by simpa using hi)
      rwa [show a + 1 + i = a + (i + 1) by omega] at this

/-- A word stored is read back. -/
theorem mgetW_mputW {d : Byte} {m : Mem} (a : Nat) (w : Word) (h : memWf d m = true) : mgetW d (mputW d m a w) a = w := by
  have hr : ∀ i (hi : i < (leBytes 4 w.toNat).length), mget d (mputs d m a (leBytes 4 w.toNat)) (a + i) = (leBytes 4 w.toNat)[i] :=
    fun i hi => mget_mputs_in a i _ h hi
  have h0 := hr 0 (by simp [leBytes])
  have h1 := hr 1 (by simp [leBytes])
  have h2 := hr 2 (by simp [leBytes])
  have h3 := hr 3 (by simp [leBytes])
  simp only [leBytes, List.getElem_cons_zero, List.getElem_cons_succ, Nat.add_zero] at h0 h1 h2 h3
  simp only [mgetW, mputW, leBytes]
  rw [h0, h1, h2, h3]
  apply BitVec.eq_of_toNat_eq
  have hw := w.isLt
  simp only [BitVec.toNat_append, BitVec.toNat_ofNat]
  rw [← Nat.shiftLeft_add_eq_or_of_lt (Nat.mod_lt _ (by decide)), ← Nat.shiftLeft_add_eq_or_of_lt (Nat.mod_lt _ (by decide)),
    ← Nat.shiftLeft_add_eq_or_of_lt (Nat.mod_lt _ (by decide))]
  simp only [Nat.shiftLeft_eq]
  omega

/-- A byte outside the cleared range stays; one inside it reads as unlisted. -/
theorem mget_mclear {d : Byte} (m : Mem) (a n c : Nat) :
    mget d (mclear m a n) c = if a ≤ c ∧ c < a + n then d else mget d m c := by
  induction m with
  | nil => simp [mclear, mget]
  | cons x t ih =>
    obtain ⟨j, v⟩ := x
    simp only [mclear, List.filter_cons] at ih ⊢
    split
    · next hj =>
      simp only [Bool.or_eq_true, decide_eq_true_eq] at hj
      simp only [mget]
      split
      · next hjc => subst hjc; rw [if_neg (by omega)]
      · exact ih
    · next hj =>
      simp only [Bool.or_eq_true, decide_eq_true_eq, not_or, Nat.not_lt, Nat.not_le] at hj
      rw [ih]
      split
      · rfl
      · next hc =>
        have : j ≠ c := by omega
        simp [mget, this]

/-- Copying a range keeps the canonical form. -/
theorem memWf_memCopy {m : Mem} (src dst len : Nat) (h : memWf galDefault m = true) :
    memWf galDefault (memCopy src dst len m) = true := by
  simp only [memCopy]
  generalize m.filter (fun e => decide (src ≤ e.1) && decide (e.1 < src + len)) = part
  have hr : memWf galDefault (m.filter (fun e => decide (e.1 < dst) || decide (dst + len ≤ e.1))) = true := memWfFrom_filter _ h
  revert hr
  generalize m.filter (fun e => decide (e.1 < dst) || decide (dst + len ≤ e.1)) = rest
  intro hr
  induction part generalizing rest with
  | nil => exact hr
  | cons e t ih => exact ih _ (memWf_mput _ _ hr)

/-- The SEQ words that R472 writes, from the n-th slot on, form a canonical memory. -/
theorem memWfFrom_seqs (n i : Nat) :
    memWfFrom galDefault (0x100000 + 0x20 * i)
      ((List.range' i n).flatMap (fun i => (List.range 4).map (fun j => (0x100000 + 0x20 * i + j, (0xFF : Byte))))) = true ∧
    ∀ e ∈ (List.range' i n).flatMap (fun i => (List.range 4).map (fun j => (0x100000 + 0x20 * i + j, (0xFF : Byte)))),
      e.1 < 0x100000 + 0x20 * (i + n) := by
  induction n generalizing i with
  | zero => exact ⟨rfl, by simp⟩
  | succ n ih =>
    obtain ⟨h1, h2⟩ := ih (i + 1)
    simp only [List.range'_succ, List.flatMap_cons]
    refine ⟨?_, ?_⟩
    · refine memWfFrom_append (mid := 0x100000 + 0x20 * (i + 1)) ?_ h1 (by omega) ?_
      · simp [List.range, List.range.loop, memWfFrom, galDefault]
      · intro e he
        obtain ⟨j, hj, rfl⟩ := List.mem_map.1 he
        have := List.mem_range.1 hj
        simp only; omega
    · intro e he
      rcases List.mem_append.1 he with he | he
      · obtain ⟨j, hj, rfl⟩ := List.mem_map.1 he
        have := List.mem_range.1 hj
        simp only; omega
      · have := h2 e he; omega

/-- R472: blanking the log keeps the canonical form. -/
theorem memWf_logBlank {m : Mem} (h : memWf galDefault m = true) : memWf galDefault (logBlank m) = true := by
  obtain ⟨h1, h2⟩ := memWfFrom_seqs 8192 0
  rw [← List.range_eq_range'] at h1 h2
  have h2' : ∀ e ∈ (List.range 8192).flatMap (fun i => (List.range 4).map (fun j => (0x100000 + 0x20 * i + j, (0xFF : Byte)))),
      e.1 < 0x140000 := fun e he => by have := h2 e he; omega
  have hup := memWfFrom_append (d := galDefault) (lo := 0x100000) (mid := 0x140000) (by simpa using h1)
    (memWfFrom_above 0x140000 h) (by omega) h2'
  have := memWfFrom_append (d := galDefault) (lo := 0) (mid := 0x100000)
    (memWfFrom_filter (fun e => decide (e.1 < 0x100000)) h) hup (by omega) (by intro e he; simpa using (List.mem_filter.1 he).2)
  simpa [logBlank, memWf, List.append_assoc] using this

/-- R472: copying a mirror entry keeps the canonical form. -/
theorem memWf_copyMirror {m : Mem} (e : MirrorEnt) (h : memWf galDefault m = true) : memWf galDefault (copyMirror m e) = true :=
  memWf_mputs _ _ h

/-- The memories of the state after reset list nothing. -/
theorem reset_memories : State.reset.gal = [] ∧ State.reset.plan.flash = [] := ⟨rfl, rfl⟩

end Sys2Proof.Machine
end

