-- ==== Sys2Proof/Laws/State.lean ====
section
/-! SUPPORT. One lemma for each part of the state and each update of Machine/Access.lean: what the update leaves, and what it makes of
its own part; so that no proof unfolds an update. -/

namespace Sys2Proof.Machine

/-! ## Tables -/

/-- The entry just set. -/
@[simp] theorem tget_tset_same {α : Type} (d : α) (t : Tab α) (k : Nat) (v : α) : tget d (tset t k v) k = v := by
  induction t with
  | nil => simp [tset, tget]
  | cons e t ih =>
    obtain ⟨j, w⟩ := e
    unfold tset
    split
    · simp [tget]
    · split
      · simp [tget]
      · next h1 h2 => simp [tget, Ne.symm h2, ih]

/-- Another entry stays. -/
theorem tget_tset_ne {α : Type} (d : α) (t : Tab α) (k j : Nat) (v : α) (h : j ≠ k) : tget d (tset t k v) j = tget d t j := by
  induction t with
  | nil => simp [tset, tget, Ne.symm h]
  | cons e t ih =>
    obtain ⟨i, w⟩ := e
    unfold tset
    split
    · simp [tget, Ne.symm h]
    · split
      · next h1 h2 => subst h2; simp [tget, Ne.symm h]
      · simp only [tget]; split
        · rfl
        · exact ih

/-- Setting the same entry twice. -/
theorem tget_tset {α : Type} (d : α) (t : Tab α) (k j : Nat) (v : α) :
    tget d (tset t k v) j = if j = k then v else tget d t j := by
  split
  · next h => subst h; simp
  · next h => exact tget_tset_ne d t k j v h

/-- Every entry of a table after one is set is that one or an old one. -/
theorem mem_tset {α : Type} {t : Tab α} {k : Nat} {v : α} {e : Nat × α} (h : e ∈ tset t k v) : e = (k, v) ∨ e ∈ t := by
  induction t with
  | nil => simpa [tset] using h
  | cons x t ih =>
    obtain ⟨i, w⟩ := x
    unfold tset at h
    split at h
    · simpa using h
    · split at h
      · rcases List.mem_cons.1 h with h | h
        · exact .inl h
        · exact .inr (List.mem_cons_of_mem _ h)
      · rcases List.mem_cons.1 h with h | h
        · exact .inr (h ▸ List.mem_cons_self)
        · rcases ih h with h | h
          · exact .inl h
          · exact .inr (List.mem_cons_of_mem _ h)

/-- What a table gives for a key is listed, or is the value of an unlisted one. -/
theorem tget_mem {α : Type} (d : α) (t : Tab α) (k : Nat) : tget d t k = d ∨ (k, tget d t k) ∈ t := by
  induction t with
  | nil => exact .inl rfl
  | cons x t ih =>
    obtain ⟨i, w⟩ := x
    simp only [tget]
    split
    · next h => subst h; exact .inr List.mem_cons_self
    · rcases ih with h | h
      · exact .inl h
      · exact .inr (List.mem_cons_of_mem _ h)

/-! ## Updates of one entry -/

variable (s : State) (k j : Nat)

/-! ### modPort -/

@[simp] theorem State.modPort_glb (f : Port → Port) : (s.modPort k f).glb = s.glb := rfl
@[simp] theorem State.modPort_tb (f : Port → Port) : (s.modPort k f).tb = s.tb := rfl
@[simp] theorem State.modPort_ring (f : Port → Port) : (s.modPort k f).ring = s.ring := rfl
@[simp] theorem State.modPort_head (f : Port → Port) : (s.modPort k f).head = s.head := rfl
@[simp] theorem State.modPort_headAcc (f : Port → Port) : (s.modPort k f).headAcc = s.headAcc := rfl
@[simp] theorem State.modPort_stair (f : Port → Port) : (s.modPort k f).stair = s.stair := rfl
@[simp] theorem State.modPort_rs (f : Port → Port) : (s.modPort k f).rs = s.rs := rfl
@[simp] theorem State.modPort_tally (f : Port → Port) : (s.modPort k f).tally = s.tally := rfl
@[simp] theorem State.modPort_pulse (f : Port → Port) : (s.modPort k f).pulse = s.pulse := rfl
@[simp] theorem State.modPort_spec (f : Port → Port) : (s.modPort k f).spec = s.spec := rfl
@[simp] theorem State.modPort_ev (f : Port → Port) : (s.modPort k f).ev = s.ev := rfl
@[simp] theorem State.modPort_plan (f : Port → Port) : (s.modPort k f).plan = s.plan := rfl
@[simp] theorem State.modPort_red (f : Port → Port) : (s.modPort k f).red = s.red := rfl
@[simp] theorem State.modPort_lc (f : Port → Port) : (s.modPort k f).lc = s.lc := rfl
@[simp] theorem State.modPort_cal (f : Port → Port) : (s.modPort k f).cal = s.cal := rfl
@[simp] theorem State.modPort_gal (f : Port → Port) : (s.modPort k f).gal = s.gal := rfl
@[simp] theorem State.modPort_mt (f : Port → Port) : (s.modPort k f).mt = s.mt := rfl
@[simp] theorem State.modPort_host (f : Port → Port) : (s.modPort k f).host = s.host := rfl
@[simp] theorem State.modPort_role (f : Port → Port) : (s.modPort k f).role = s.role := rfl
@[simp] theorem State.modPort_tmp (f : Port → Port) : (s.modPort k f).tmp = s.tmp := rfl
@[simp] theorem State.modPort_pwr (f : Port → Port) : (s.modPort k f).pwr = s.pwr := rfl
@[simp] theorem State.modPort_log (f : Port → Port) : (s.modPort k f).log = s.log := rfl
@[simp] theorem State.modPort_fresh (f : Port → Port) : (s.modPort k f).fresh = s.fresh := rfl
@[simp] theorem State.modPort_pending (f : Port → Port) : (s.modPort k f).pending = s.pending := rfl
theorem State.modPort_port (f : Port → Port) :
    (s.modPort k f).port = tset s.port k (f (s.getPort k)) := rfl
@[simp] theorem State.getPort_modPort (f : Port → Port) : (s.modPort k f).getPort k = f (s.getPort k) := tget_tset_same _ _ _ _
theorem State.getPort_modPort_ne (f : Port → Port) (h : j ≠ k) : (s.modPort k f).getPort j = s.getPort j :=
  tget_tset_ne _ _ _ _ _ h
/-- The other entries of the state after modPort. -/
@[simp] theorem State.gets_modPort (f : Port → Port) :
    (s.modPort k f).getRing j = s.getRing j ∧ (s.modPort k f).getHead j = s.getHead j ∧ (s.modPort k f).getHeadAcc j = s.getHeadAcc j ∧ (s.modPort k f).getEng j = s.getEng j ∧ (s.modPort k f).getStrm j = s.getStrm j ∧ (s.modPort k f).getWp j = s.getWp j ∧ (s.modPort k f).getGrp j = s.getGrp j ∧ (s.modPort k f).getCtx j = s.getCtx j ∧ (s.modPort k f).getUnit j = s.getUnit j ∧ (s.modPort k f).getOut j = s.getOut j ∧ (s.modPort k f).getInp j = s.getInp j ∧ (s.modPort k f).getSpBind j = s.getSpBind j ∧ (s.modPort k f).getSpGrp j = s.getSpGrp j ∧ (s.modPort k f).getSpEng j = s.getSpEng j ∧ (s.modPort k f).getLane j = s.getLane j ∧ (s.modPort k f).getEvc j = s.getEvc j ∧ (s.modPort k f).getRedHead j = s.getRedHead j ∧ (s.modPort k f).getRedNode j = s.getRedNode j ∧ (s.modPort k f).getCalQ j = s.getCalQ j ∧ (s.modPort k f).getGal j = s.getGal j ∧ (s.modPort k f).getRolePort j = s.getRolePort j ∧ (s.modPort k f).getHp j = s.getHp j ∧ (s.modPort k f).getMon j = s.getMon j ∧ (s.modPort k f).getLoop j = s.getLoop j ∧ (s.modPort k f).getLogSrc j = s.getLogSrc j ∧ (s.modPort k f).getLogPort j = s.getLogPort j ∧ (s.modPort k f).getInj j = s.getInj j := by
  and_intros <;> rfl

/-! ### modRing -/

@[simp] theorem State.modRing_glb (f : Ring → Ring) : (s.modRing k f).glb = s.glb := rfl
@[simp] theorem State.modRing_tb (f : Ring → Ring) : (s.modRing k f).tb = s.tb := rfl
@[simp] theorem State.modRing_port (f : Ring → Ring) : (s.modRing k f).port = s.port := rfl
@[simp] theorem State.modRing_head (f : Ring → Ring) : (s.modRing k f).head = s.head := rfl
@[simp] theorem State.modRing_headAcc (f : Ring → Ring) : (s.modRing k f).headAcc = s.headAcc := rfl
@[simp] theorem State.modRing_stair (f : Ring → Ring) : (s.modRing k f).stair = s.stair := rfl
@[simp] theorem State.modRing_rs (f : Ring → Ring) : (s.modRing k f).rs = s.rs := rfl
@[simp] theorem State.modRing_tally (f : Ring → Ring) : (s.modRing k f).tally = s.tally := rfl
@[simp] theorem State.modRing_pulse (f : Ring → Ring) : (s.modRing k f).pulse = s.pulse := rfl
@[simp] theorem State.modRing_spec (f : Ring → Ring) : (s.modRing k f).spec = s.spec := rfl
@[simp] theorem State.modRing_ev (f : Ring → Ring) : (s.modRing k f).ev = s.ev := rfl
@[simp] theorem State.modRing_plan (f : Ring → Ring) : (s.modRing k f).plan = s.plan := rfl
@[simp] theorem State.modRing_red (f : Ring → Ring) : (s.modRing k f).red = s.red := rfl
@[simp] theorem State.modRing_lc (f : Ring → Ring) : (s.modRing k f).lc = s.lc := rfl
@[simp] theorem State.modRing_cal (f : Ring → Ring) : (s.modRing k f).cal = s.cal := rfl
@[simp] theorem State.modRing_gal (f : Ring → Ring) : (s.modRing k f).gal = s.gal := rfl
@[simp] theorem State.modRing_mt (f : Ring → Ring) : (s.modRing k f).mt = s.mt := rfl
@[simp] theorem State.modRing_host (f : Ring → Ring) : (s.modRing k f).host = s.host := rfl
@[simp] theorem State.modRing_role (f : Ring → Ring) : (s.modRing k f).role = s.role := rfl
@[simp] theorem State.modRing_tmp (f : Ring → Ring) : (s.modRing k f).tmp = s.tmp := rfl
@[simp] theorem State.modRing_pwr (f : Ring → Ring) : (s.modRing k f).pwr = s.pwr := rfl
@[simp] theorem State.modRing_log (f : Ring → Ring) : (s.modRing k f).log = s.log := rfl
@[simp] theorem State.modRing_fresh (f : Ring → Ring) : (s.modRing k f).fresh = s.fresh := rfl
@[simp] theorem State.modRing_pending (f : Ring → Ring) : (s.modRing k f).pending = s.pending := rfl
theorem State.modRing_ring (f : Ring → Ring) :
    (s.modRing k f).ring = tset s.ring k (f (s.getRing k)) := rfl
@[simp] theorem State.getRing_modRing (f : Ring → Ring) : (s.modRing k f).getRing k = f (s.getRing k) := tget_tset_same _ _ _ _
theorem State.getRing_modRing_ne (f : Ring → Ring) (h : j ≠ k) : (s.modRing k f).getRing j = s.getRing j :=
  tget_tset_ne _ _ _ _ _ h
/-- The other entries of the state after modRing. -/
@[simp] theorem State.gets_modRing (f : Ring → Ring) :
    (s.modRing k f).getPort j = s.getPort j ∧ (s.modRing k f).getHead j = s.getHead j ∧ (s.modRing k f).getHeadAcc j = s.getHeadAcc j ∧ (s.modRing k f).getEng j = s.getEng j ∧ (s.modRing k f).getStrm j = s.getStrm j ∧ (s.modRing k f).getWp j = s.getWp j ∧ (s.modRing k f).getGrp j = s.getGrp j ∧ (s.modRing k f).getCtx j = s.getCtx j ∧ (s.modRing k f).getUnit j = s.getUnit j ∧ (s.modRing k f).getOut j = s.getOut j ∧ (s.modRing k f).getInp j = s.getInp j ∧ (s.modRing k f).getSpBind j = s.getSpBind j ∧ (s.modRing k f).getSpGrp j = s.getSpGrp j ∧ (s.modRing k f).getSpEng j = s.getSpEng j ∧ (s.modRing k f).getLane j = s.getLane j ∧ (s.modRing k f).getEvc j = s.getEvc j ∧ (s.modRing k f).getRedHead j = s.getRedHead j ∧ (s.modRing k f).getRedNode j = s.getRedNode j ∧ (s.modRing k f).getCalQ j = s.getCalQ j ∧ (s.modRing k f).getGal j = s.getGal j ∧ (s.modRing k f).getRolePort j = s.getRolePort j ∧ (s.modRing k f).getHp j = s.getHp j ∧ (s.modRing k f).getMon j = s.getMon j ∧ (s.modRing k f).getLoop j = s.getLoop j ∧ (s.modRing k f).getLogSrc j = s.getLogSrc j ∧ (s.modRing k f).getLogPort j = s.getLogPort j ∧ (s.modRing k f).getInj j = s.getInj j := by
  and_intros <;> rfl

/-! ### modHead -/

@[simp] theorem State.modHead_glb (f : Head → Head) : (s.modHead k f).glb = s.glb := rfl
@[simp] theorem State.modHead_tb (f : Head → Head) : (s.modHead k f).tb = s.tb := rfl
@[simp] theorem State.modHead_port (f : Head → Head) : (s.modHead k f).port = s.port := rfl
@[simp] theorem State.modHead_ring (f : Head → Head) : (s.modHead k f).ring = s.ring := rfl
@[simp] theorem State.modHead_headAcc (f : Head → Head) : (s.modHead k f).headAcc = s.headAcc := rfl
@[simp] theorem State.modHead_stair (f : Head → Head) : (s.modHead k f).stair = s.stair := rfl
@[simp] theorem State.modHead_rs (f : Head → Head) : (s.modHead k f).rs = s.rs := rfl
@[simp] theorem State.modHead_tally (f : Head → Head) : (s.modHead k f).tally = s.tally := rfl
@[simp] theorem State.modHead_pulse (f : Head → Head) : (s.modHead k f).pulse = s.pulse := rfl
@[simp] theorem State.modHead_spec (f : Head → Head) : (s.modHead k f).spec = s.spec := rfl
@[simp] theorem State.modHead_ev (f : Head → Head) : (s.modHead k f).ev = s.ev := rfl
@[simp] theorem State.modHead_plan (f : Head → Head) : (s.modHead k f).plan = s.plan := rfl
@[simp] theorem State.modHead_red (f : Head → Head) : (s.modHead k f).red = s.red := rfl
@[simp] theorem State.modHead_lc (f : Head → Head) : (s.modHead k f).lc = s.lc := rfl
@[simp] theorem State.modHead_cal (f : Head → Head) : (s.modHead k f).cal = s.cal := rfl
@[simp] theorem State.modHead_gal (f : Head → Head) : (s.modHead k f).gal = s.gal := rfl
@[simp] theorem State.modHead_mt (f : Head → Head) : (s.modHead k f).mt = s.mt := rfl
@[simp] theorem State.modHead_host (f : Head → Head) : (s.modHead k f).host = s.host := rfl
@[simp] theorem State.modHead_role (f : Head → Head) : (s.modHead k f).role = s.role := rfl
@[simp] theorem State.modHead_tmp (f : Head → Head) : (s.modHead k f).tmp = s.tmp := rfl
@[simp] theorem State.modHead_pwr (f : Head → Head) : (s.modHead k f).pwr = s.pwr := rfl
@[simp] theorem State.modHead_log (f : Head → Head) : (s.modHead k f).log = s.log := rfl
@[simp] theorem State.modHead_fresh (f : Head → Head) : (s.modHead k f).fresh = s.fresh := rfl
@[simp] theorem State.modHead_pending (f : Head → Head) : (s.modHead k f).pending = s.pending := rfl
theorem State.modHead_head (f : Head → Head) :
    (s.modHead k f).head = tset s.head k (f (s.getHead k)) := rfl
@[simp] theorem State.getHead_modHead (f : Head → Head) : (s.modHead k f).getHead k = f (s.getHead k) := tget_tset_same _ _ _ _
theorem State.getHead_modHead_ne (f : Head → Head) (h : j ≠ k) : (s.modHead k f).getHead j = s.getHead j :=
  tget_tset_ne _ _ _ _ _ h
/-- The other entries of the state after modHead. -/
@[simp] theorem State.gets_modHead (f : Head → Head) :
    (s.modHead k f).getPort j = s.getPort j ∧ (s.modHead k f).getRing j = s.getRing j ∧ (s.modHead k f).getHeadAcc j = s.getHeadAcc j ∧ (s.modHead k f).getEng j = s.getEng j ∧ (s.modHead k f).getStrm j = s.getStrm j ∧ (s.modHead k f).getWp j = s.getWp j ∧ (s.modHead k f).getGrp j = s.getGrp j ∧ (s.modHead k f).getCtx j = s.getCtx j ∧ (s.modHead k f).getUnit j = s.getUnit j ∧ (s.modHead k f).getOut j = s.getOut j ∧ (s.modHead k f).getInp j = s.getInp j ∧ (s.modHead k f).getSpBind j = s.getSpBind j ∧ (s.modHead k f).getSpGrp j = s.getSpGrp j ∧ (s.modHead k f).getSpEng j = s.getSpEng j ∧ (s.modHead k f).getLane j = s.getLane j ∧ (s.modHead k f).getEvc j = s.getEvc j ∧ (s.modHead k f).getRedHead j = s.getRedHead j ∧ (s.modHead k f).getRedNode j = s.getRedNode j ∧ (s.modHead k f).getCalQ j = s.getCalQ j ∧ (s.modHead k f).getGal j = s.getGal j ∧ (s.modHead k f).getRolePort j = s.getRolePort j ∧ (s.modHead k f).getHp j = s.getHp j ∧ (s.modHead k f).getMon j = s.getMon j ∧ (s.modHead k f).getLoop j = s.getLoop j ∧ (s.modHead k f).getLogSrc j = s.getLogSrc j ∧ (s.modHead k f).getLogPort j = s.getLogPort j ∧ (s.modHead k f).getInj j = s.getInj j := by
  and_intros <;> rfl

/-! ### modHeadAcc -/

@[simp] theorem State.modHeadAcc_glb (f : HeadAcc → HeadAcc) : (s.modHeadAcc k f).glb = s.glb := rfl
@[simp] theorem State.modHeadAcc_tb (f : HeadAcc → HeadAcc) : (s.modHeadAcc k f).tb = s.tb := rfl
@[simp] theorem State.modHeadAcc_port (f : HeadAcc → HeadAcc) : (s.modHeadAcc k f).port = s.port := rfl
@[simp] theorem State.modHeadAcc_ring (f : HeadAcc → HeadAcc) : (s.modHeadAcc k f).ring = s.ring := rfl
@[simp] theorem State.modHeadAcc_head (f : HeadAcc → HeadAcc) : (s.modHeadAcc k f).head = s.head := rfl
@[simp] theorem State.modHeadAcc_stair (f : HeadAcc → HeadAcc) : (s.modHeadAcc k f).stair = s.stair := rfl
@[simp] theorem State.modHeadAcc_rs (f : HeadAcc → HeadAcc) : (s.modHeadAcc k f).rs = s.rs := rfl
@[simp] theorem State.modHeadAcc_tally (f : HeadAcc → HeadAcc) : (s.modHeadAcc k f).tally = s.tally := rfl
@[simp] theorem State.modHeadAcc_pulse (f : HeadAcc → HeadAcc) : (s.modHeadAcc k f).pulse = s.pulse := rfl
@[simp] theorem State.modHeadAcc_spec (f : HeadAcc → HeadAcc) : (s.modHeadAcc k f).spec = s.spec := rfl
@[simp] theorem State.modHeadAcc_ev (f : HeadAcc → HeadAcc) : (s.modHeadAcc k f).ev = s.ev := rfl
@[simp] theorem State.modHeadAcc_plan (f : HeadAcc → HeadAcc) : (s.modHeadAcc k f).plan = s.plan := rfl
@[simp] theorem State.modHeadAcc_red (f : HeadAcc → HeadAcc) : (s.modHeadAcc k f).red = s.red := rfl
@[simp] theorem State.modHeadAcc_lc (f : HeadAcc → HeadAcc) : (s.modHeadAcc k f).lc = s.lc := rfl
@[simp] theorem State.modHeadAcc_cal (f : HeadAcc → HeadAcc) : (s.modHeadAcc k f).cal = s.cal := rfl
@[simp] theorem State.modHeadAcc_gal (f : HeadAcc → HeadAcc) : (s.modHeadAcc k f).gal = s.gal := rfl
@[simp] theorem State.modHeadAcc_mt (f : HeadAcc → HeadAcc) : (s.modHeadAcc k f).mt = s.mt := rfl
@[simp] theorem State.modHeadAcc_host (f : HeadAcc → HeadAcc) : (s.modHeadAcc k f).host = s.host := rfl
@[simp] theorem State.modHeadAcc_role (f : HeadAcc → HeadAcc) : (s.modHeadAcc k f).role = s.role := rfl
@[simp] theorem State.modHeadAcc_tmp (f : HeadAcc → HeadAcc) : (s.modHeadAcc k f).tmp = s.tmp := rfl
@[simp] theorem State.modHeadAcc_pwr (f : HeadAcc → HeadAcc) : (s.modHeadAcc k f).pwr = s.pwr := rfl
@[simp] theorem State.modHeadAcc_log (f : HeadAcc → HeadAcc) : (s.modHeadAcc k f).log = s.log := rfl
@[simp] theorem State.modHeadAcc_fresh (f : HeadAcc → HeadAcc) : (s.modHeadAcc k f).fresh = s.fresh := rfl
@[simp] theorem State.modHeadAcc_pending (f : HeadAcc → HeadAcc) : (s.modHeadAcc k f).pending = s.pending := rfl
theorem State.modHeadAcc_headAcc (f : HeadAcc → HeadAcc) :
    (s.modHeadAcc k f).headAcc = tset s.headAcc k (f (s.getHeadAcc k)) := rfl
@[simp] theorem State.getHeadAcc_modHeadAcc (f : HeadAcc → HeadAcc) : (s.modHeadAcc k f).getHeadAcc k = f (s.getHeadAcc k) := tget_tset_same _ _ _ _
theorem State.getHeadAcc_modHeadAcc_ne (f : HeadAcc → HeadAcc) (h : j ≠ k) : (s.modHeadAcc k f).getHeadAcc j = s.getHeadAcc j :=
  tget_tset_ne _ _ _ _ _ h
/-- The other entries of the state after modHeadAcc. -/
@[simp] theorem State.gets_modHeadAcc (f : HeadAcc → HeadAcc) :
    (s.modHeadAcc k f).getPort j = s.getPort j ∧ (s.modHeadAcc k f).getRing j = s.getRing j ∧ (s.modHeadAcc k f).getHead j = s.getHead j ∧ (s.modHeadAcc k f).getEng j = s.getEng j ∧ (s.modHeadAcc k f).getStrm j = s.getStrm j ∧ (s.modHeadAcc k f).getWp j = s.getWp j ∧ (s.modHeadAcc k f).getGrp j = s.getGrp j ∧ (s.modHeadAcc k f).getCtx j = s.getCtx j ∧ (s.modHeadAcc k f).getUnit j = s.getUnit j ∧ (s.modHeadAcc k f).getOut j = s.getOut j ∧ (s.modHeadAcc k f).getInp j = s.getInp j ∧ (s.modHeadAcc k f).getSpBind j = s.getSpBind j ∧ (s.modHeadAcc k f).getSpGrp j = s.getSpGrp j ∧ (s.modHeadAcc k f).getSpEng j = s.getSpEng j ∧ (s.modHeadAcc k f).getLane j = s.getLane j ∧ (s.modHeadAcc k f).getEvc j = s.getEvc j ∧ (s.modHeadAcc k f).getRedHead j = s.getRedHead j ∧ (s.modHeadAcc k f).getRedNode j = s.getRedNode j ∧ (s.modHeadAcc k f).getCalQ j = s.getCalQ j ∧ (s.modHeadAcc k f).getGal j = s.getGal j ∧ (s.modHeadAcc k f).getRolePort j = s.getRolePort j ∧ (s.modHeadAcc k f).getHp j = s.getHp j ∧ (s.modHeadAcc k f).getMon j = s.getMon j ∧ (s.modHeadAcc k f).getLoop j = s.getLoop j ∧ (s.modHeadAcc k f).getLogSrc j = s.getLogSrc j ∧ (s.modHeadAcc k f).getLogPort j = s.getLogPort j ∧ (s.modHeadAcc k f).getInj j = s.getInj j := by
  and_intros <;> rfl

/-! ### modEng -/

@[simp] theorem State.modEng_glb (f : Eng → Eng) : (s.modEng k f).glb = s.glb := rfl
@[simp] theorem State.modEng_tb (f : Eng → Eng) : (s.modEng k f).tb = s.tb := rfl
@[simp] theorem State.modEng_port (f : Eng → Eng) : (s.modEng k f).port = s.port := rfl
@[simp] theorem State.modEng_ring (f : Eng → Eng) : (s.modEng k f).ring = s.ring := rfl
@[simp] theorem State.modEng_head (f : Eng → Eng) : (s.modEng k f).head = s.head := rfl
@[simp] theorem State.modEng_headAcc (f : Eng → Eng) : (s.modEng k f).headAcc = s.headAcc := rfl
@[simp] theorem State.modEng_rs (f : Eng → Eng) : (s.modEng k f).rs = s.rs := rfl
@[simp] theorem State.modEng_tally (f : Eng → Eng) : (s.modEng k f).tally = s.tally := rfl
@[simp] theorem State.modEng_pulse (f : Eng → Eng) : (s.modEng k f).pulse = s.pulse := rfl
@[simp] theorem State.modEng_spec (f : Eng → Eng) : (s.modEng k f).spec = s.spec := rfl
@[simp] theorem State.modEng_ev (f : Eng → Eng) : (s.modEng k f).ev = s.ev := rfl
@[simp] theorem State.modEng_plan (f : Eng → Eng) : (s.modEng k f).plan = s.plan := rfl
@[simp] theorem State.modEng_red (f : Eng → Eng) : (s.modEng k f).red = s.red := rfl
@[simp] theorem State.modEng_lc (f : Eng → Eng) : (s.modEng k f).lc = s.lc := rfl
@[simp] theorem State.modEng_cal (f : Eng → Eng) : (s.modEng k f).cal = s.cal := rfl
@[simp] theorem State.modEng_gal (f : Eng → Eng) : (s.modEng k f).gal = s.gal := rfl
@[simp] theorem State.modEng_mt (f : Eng → Eng) : (s.modEng k f).mt = s.mt := rfl
@[simp] theorem State.modEng_host (f : Eng → Eng) : (s.modEng k f).host = s.host := rfl
@[simp] theorem State.modEng_role (f : Eng → Eng) : (s.modEng k f).role = s.role := rfl
@[simp] theorem State.modEng_tmp (f : Eng → Eng) : (s.modEng k f).tmp = s.tmp := rfl
@[simp] theorem State.modEng_pwr (f : Eng → Eng) : (s.modEng k f).pwr = s.pwr := rfl
@[simp] theorem State.modEng_log (f : Eng → Eng) : (s.modEng k f).log = s.log := rfl
@[simp] theorem State.modEng_fresh (f : Eng → Eng) : (s.modEng k f).fresh = s.fresh := rfl
@[simp] theorem State.modEng_pending (f : Eng → Eng) : (s.modEng k f).pending = s.pending := rfl
theorem State.modEng_stair (f : Eng → Eng) :
    (s.modEng k f).stair = { s.stair with eng := tset s.stair.eng k (f (s.getEng k)) } := rfl
@[simp] theorem State.getEng_modEng (f : Eng → Eng) : (s.modEng k f).getEng k = f (s.getEng k) := tget_tset_same _ _ _ _
theorem State.getEng_modEng_ne (f : Eng → Eng) (h : j ≠ k) : (s.modEng k f).getEng j = s.getEng j :=
  tget_tset_ne _ _ _ _ _ h
/-- The other entries of the state after modEng. -/
@[simp] theorem State.gets_modEng (f : Eng → Eng) :
    (s.modEng k f).getPort j = s.getPort j ∧ (s.modEng k f).getRing j = s.getRing j ∧ (s.modEng k f).getHead j = s.getHead j ∧ (s.modEng k f).getHeadAcc j = s.getHeadAcc j ∧ (s.modEng k f).getStrm j = s.getStrm j ∧ (s.modEng k f).getWp j = s.getWp j ∧ (s.modEng k f).getGrp j = s.getGrp j ∧ (s.modEng k f).getCtx j = s.getCtx j ∧ (s.modEng k f).getUnit j = s.getUnit j ∧ (s.modEng k f).getOut j = s.getOut j ∧ (s.modEng k f).getInp j = s.getInp j ∧ (s.modEng k f).getSpBind j = s.getSpBind j ∧ (s.modEng k f).getSpGrp j = s.getSpGrp j ∧ (s.modEng k f).getSpEng j = s.getSpEng j ∧ (s.modEng k f).getLane j = s.getLane j ∧ (s.modEng k f).getEvc j = s.getEvc j ∧ (s.modEng k f).getRedHead j = s.getRedHead j ∧ (s.modEng k f).getRedNode j = s.getRedNode j ∧ (s.modEng k f).getCalQ j = s.getCalQ j ∧ (s.modEng k f).getGal j = s.getGal j ∧ (s.modEng k f).getRolePort j = s.getRolePort j ∧ (s.modEng k f).getHp j = s.getHp j ∧ (s.modEng k f).getMon j = s.getMon j ∧ (s.modEng k f).getLoop j = s.getLoop j ∧ (s.modEng k f).getLogSrc j = s.getLogSrc j ∧ (s.modEng k f).getLogPort j = s.getLogPort j ∧ (s.modEng k f).getInj j = s.getInj j := by
  and_intros <;> rfl

/-! ### modStrm -/

@[simp] theorem State.modStrm_glb (f : Strm → Strm) : (s.modStrm k f).glb = s.glb := rfl
@[simp] theorem State.modStrm_tb (f : Strm → Strm) : (s.modStrm k f).tb = s.tb := rfl
@[simp] theorem State.modStrm_port (f : Strm → Strm) : (s.modStrm k f).port = s.port := rfl
@[simp] theorem State.modStrm_ring (f : Strm → Strm) : (s.modStrm k f).ring = s.ring := rfl
@[simp] theorem State.modStrm_head (f : Strm → Strm) : (s.modStrm k f).head = s.head := rfl
@[simp] theorem State.modStrm_headAcc (f : Strm → Strm) : (s.modStrm k f).headAcc = s.headAcc := rfl
@[simp] theorem State.modStrm_rs (f : Strm → Strm) : (s.modStrm k f).rs = s.rs := rfl
@[simp] theorem State.modStrm_tally (f : Strm → Strm) : (s.modStrm k f).tally = s.tally := rfl
@[simp] theorem State.modStrm_pulse (f : Strm → Strm) : (s.modStrm k f).pulse = s.pulse := rfl
@[simp] theorem State.modStrm_spec (f : Strm → Strm) : (s.modStrm k f).spec = s.spec := rfl
@[simp] theorem State.modStrm_ev (f : Strm → Strm) : (s.modStrm k f).ev = s.ev := rfl
@[simp] theorem State.modStrm_plan (f : Strm → Strm) : (s.modStrm k f).plan = s.plan := rfl
@[simp] theorem State.modStrm_red (f : Strm → Strm) : (s.modStrm k f).red = s.red := rfl
@[simp] theorem State.modStrm_lc (f : Strm → Strm) : (s.modStrm k f).lc = s.lc := rfl
@[simp] theorem State.modStrm_cal (f : Strm → Strm) : (s.modStrm k f).cal = s.cal := rfl
@[simp] theorem State.modStrm_gal (f : Strm → Strm) : (s.modStrm k f).gal = s.gal := rfl
@[simp] theorem State.modStrm_mt (f : Strm → Strm) : (s.modStrm k f).mt = s.mt := rfl
@[simp] theorem State.modStrm_host (f : Strm → Strm) : (s.modStrm k f).host = s.host := rfl
@[simp] theorem State.modStrm_role (f : Strm → Strm) : (s.modStrm k f).role = s.role := rfl
@[simp] theorem State.modStrm_tmp (f : Strm → Strm) : (s.modStrm k f).tmp = s.tmp := rfl
@[simp] theorem State.modStrm_pwr (f : Strm → Strm) : (s.modStrm k f).pwr = s.pwr := rfl
@[simp] theorem State.modStrm_log (f : Strm → Strm) : (s.modStrm k f).log = s.log := rfl
@[simp] theorem State.modStrm_fresh (f : Strm → Strm) : (s.modStrm k f).fresh = s.fresh := rfl
@[simp] theorem State.modStrm_pending (f : Strm → Strm) : (s.modStrm k f).pending = s.pending := rfl
theorem State.modStrm_stair (f : Strm → Strm) :
    (s.modStrm k f).stair = { s.stair with strm := tset s.stair.strm k (f (s.getStrm k)) } := rfl
@[simp] theorem State.getStrm_modStrm (f : Strm → Strm) : (s.modStrm k f).getStrm k = f (s.getStrm k) := tget_tset_same _ _ _ _
theorem State.getStrm_modStrm_ne (f : Strm → Strm) (h : j ≠ k) : (s.modStrm k f).getStrm j = s.getStrm j :=
  tget_tset_ne _ _ _ _ _ h
/-- The other entries of the state after modStrm. -/
@[simp] theorem State.gets_modStrm (f : Strm → Strm) :
    (s.modStrm k f).getPort j = s.getPort j ∧ (s.modStrm k f).getRing j = s.getRing j ∧ (s.modStrm k f).getHead j = s.getHead j ∧ (s.modStrm k f).getHeadAcc j = s.getHeadAcc j ∧ (s.modStrm k f).getEng j = s.getEng j ∧ (s.modStrm k f).getWp j = s.getWp j ∧ (s.modStrm k f).getGrp j = s.getGrp j ∧ (s.modStrm k f).getCtx j = s.getCtx j ∧ (s.modStrm k f).getUnit j = s.getUnit j ∧ (s.modStrm k f).getOut j = s.getOut j ∧ (s.modStrm k f).getInp j = s.getInp j ∧ (s.modStrm k f).getSpBind j = s.getSpBind j ∧ (s.modStrm k f).getSpGrp j = s.getSpGrp j ∧ (s.modStrm k f).getSpEng j = s.getSpEng j ∧ (s.modStrm k f).getLane j = s.getLane j ∧ (s.modStrm k f).getEvc j = s.getEvc j ∧ (s.modStrm k f).getRedHead j = s.getRedHead j ∧ (s.modStrm k f).getRedNode j = s.getRedNode j ∧ (s.modStrm k f).getCalQ j = s.getCalQ j ∧ (s.modStrm k f).getGal j = s.getGal j ∧ (s.modStrm k f).getRolePort j = s.getRolePort j ∧ (s.modStrm k f).getHp j = s.getHp j ∧ (s.modStrm k f).getMon j = s.getMon j ∧ (s.modStrm k f).getLoop j = s.getLoop j ∧ (s.modStrm k f).getLogSrc j = s.getLogSrc j ∧ (s.modStrm k f).getLogPort j = s.getLogPort j ∧ (s.modStrm k f).getInj j = s.getInj j := by
  and_intros <;> rfl

/-! ### modWp -/

@[simp] theorem State.modWp_glb (f : Watch → Watch) : (s.modWp k f).glb = s.glb := rfl
@[simp] theorem State.modWp_tb (f : Watch → Watch) : (s.modWp k f).tb = s.tb := rfl
@[simp] theorem State.modWp_port (f : Watch → Watch) : (s.modWp k f).port = s.port := rfl
@[simp] theorem State.modWp_ring (f : Watch → Watch) : (s.modWp k f).ring = s.ring := rfl
@[simp] theorem State.modWp_head (f : Watch → Watch) : (s.modWp k f).head = s.head := rfl
@[simp] theorem State.modWp_headAcc (f : Watch → Watch) : (s.modWp k f).headAcc = s.headAcc := rfl
@[simp] theorem State.modWp_rs (f : Watch → Watch) : (s.modWp k f).rs = s.rs := rfl
@[simp] theorem State.modWp_tally (f : Watch → Watch) : (s.modWp k f).tally = s.tally := rfl
@[simp] theorem State.modWp_pulse (f : Watch → Watch) : (s.modWp k f).pulse = s.pulse := rfl
@[simp] theorem State.modWp_spec (f : Watch → Watch) : (s.modWp k f).spec = s.spec := rfl
@[simp] theorem State.modWp_ev (f : Watch → Watch) : (s.modWp k f).ev = s.ev := rfl
@[simp] theorem State.modWp_plan (f : Watch → Watch) : (s.modWp k f).plan = s.plan := rfl
@[simp] theorem State.modWp_red (f : Watch → Watch) : (s.modWp k f).red = s.red := rfl
@[simp] theorem State.modWp_lc (f : Watch → Watch) : (s.modWp k f).lc = s.lc := rfl
@[simp] theorem State.modWp_cal (f : Watch → Watch) : (s.modWp k f).cal = s.cal := rfl
@[simp] theorem State.modWp_gal (f : Watch → Watch) : (s.modWp k f).gal = s.gal := rfl
@[simp] theorem State.modWp_mt (f : Watch → Watch) : (s.modWp k f).mt = s.mt := rfl
@[simp] theorem State.modWp_host (f : Watch → Watch) : (s.modWp k f).host = s.host := rfl
@[simp] theorem State.modWp_role (f : Watch → Watch) : (s.modWp k f).role = s.role := rfl
@[simp] theorem State.modWp_tmp (f : Watch → Watch) : (s.modWp k f).tmp = s.tmp := rfl
@[simp] theorem State.modWp_pwr (f : Watch → Watch) : (s.modWp k f).pwr = s.pwr := rfl
@[simp] theorem State.modWp_log (f : Watch → Watch) : (s.modWp k f).log = s.log := rfl
@[simp] theorem State.modWp_fresh (f : Watch → Watch) : (s.modWp k f).fresh = s.fresh := rfl
@[simp] theorem State.modWp_pending (f : Watch → Watch) : (s.modWp k f).pending = s.pending := rfl
theorem State.modWp_stair (f : Watch → Watch) :
    (s.modWp k f).stair = { s.stair with wp := tset s.stair.wp k (f (s.getWp k)) } := rfl
@[simp] theorem State.getWp_modWp (f : Watch → Watch) : (s.modWp k f).getWp k = f (s.getWp k) := tget_tset_same _ _ _ _
theorem State.getWp_modWp_ne (f : Watch → Watch) (h : j ≠ k) : (s.modWp k f).getWp j = s.getWp j :=
  tget_tset_ne _ _ _ _ _ h
/-- The other entries of the state after modWp. -/
@[simp] theorem State.gets_modWp (f : Watch → Watch) :
    (s.modWp k f).getPort j = s.getPort j ∧ (s.modWp k f).getRing j = s.getRing j ∧ (s.modWp k f).getHead j = s.getHead j ∧ (s.modWp k f).getHeadAcc j = s.getHeadAcc j ∧ (s.modWp k f).getEng j = s.getEng j ∧ (s.modWp k f).getStrm j = s.getStrm j ∧ (s.modWp k f).getGrp j = s.getGrp j ∧ (s.modWp k f).getCtx j = s.getCtx j ∧ (s.modWp k f).getUnit j = s.getUnit j ∧ (s.modWp k f).getOut j = s.getOut j ∧ (s.modWp k f).getInp j = s.getInp j ∧ (s.modWp k f).getSpBind j = s.getSpBind j ∧ (s.modWp k f).getSpGrp j = s.getSpGrp j ∧ (s.modWp k f).getSpEng j = s.getSpEng j ∧ (s.modWp k f).getLane j = s.getLane j ∧ (s.modWp k f).getEvc j = s.getEvc j ∧ (s.modWp k f).getRedHead j = s.getRedHead j ∧ (s.modWp k f).getRedNode j = s.getRedNode j ∧ (s.modWp k f).getCalQ j = s.getCalQ j ∧ (s.modWp k f).getGal j = s.getGal j ∧ (s.modWp k f).getRolePort j = s.getRolePort j ∧ (s.modWp k f).getHp j = s.getHp j ∧ (s.modWp k f).getMon j = s.getMon j ∧ (s.modWp k f).getLoop j = s.getLoop j ∧ (s.modWp k f).getLogSrc j = s.getLogSrc j ∧ (s.modWp k f).getLogPort j = s.getLogPort j ∧ (s.modWp k f).getInj j = s.getInj j := by
  and_intros <;> rfl

/-! ### modGrp -/

@[simp] theorem State.modGrp_glb (f : Grp → Grp) : (s.modGrp k f).glb = s.glb := rfl
@[simp] theorem State.modGrp_tb (f : Grp → Grp) : (s.modGrp k f).tb = s.tb := rfl
@[simp] theorem State.modGrp_port (f : Grp → Grp) : (s.modGrp k f).port = s.port := rfl
@[simp] theorem State.modGrp_ring (f : Grp → Grp) : (s.modGrp k f).ring = s.ring := rfl
@[simp] theorem State.modGrp_head (f : Grp → Grp) : (s.modGrp k f).head = s.head := rfl
@[simp] theorem State.modGrp_headAcc (f : Grp → Grp) : (s.modGrp k f).headAcc = s.headAcc := rfl
@[simp] theorem State.modGrp_stair (f : Grp → Grp) : (s.modGrp k f).stair = s.stair := rfl
@[simp] theorem State.modGrp_tally (f : Grp → Grp) : (s.modGrp k f).tally = s.tally := rfl
@[simp] theorem State.modGrp_pulse (f : Grp → Grp) : (s.modGrp k f).pulse = s.pulse := rfl
@[simp] theorem State.modGrp_spec (f : Grp → Grp) : (s.modGrp k f).spec = s.spec := rfl
@[simp] theorem State.modGrp_ev (f : Grp → Grp) : (s.modGrp k f).ev = s.ev := rfl
@[simp] theorem State.modGrp_plan (f : Grp → Grp) : (s.modGrp k f).plan = s.plan := rfl
@[simp] theorem State.modGrp_red (f : Grp → Grp) : (s.modGrp k f).red = s.red := rfl
@[simp] theorem State.modGrp_lc (f : Grp → Grp) : (s.modGrp k f).lc = s.lc := rfl
@[simp] theorem State.modGrp_cal (f : Grp → Grp) : (s.modGrp k f).cal = s.cal := rfl
@[simp] theorem State.modGrp_gal (f : Grp → Grp) : (s.modGrp k f).gal = s.gal := rfl
@[simp] theorem State.modGrp_mt (f : Grp → Grp) : (s.modGrp k f).mt = s.mt := rfl
@[simp] theorem State.modGrp_host (f : Grp → Grp) : (s.modGrp k f).host = s.host := rfl
@[simp] theorem State.modGrp_role (f : Grp → Grp) : (s.modGrp k f).role = s.role := rfl
@[simp] theorem State.modGrp_tmp (f : Grp → Grp) : (s.modGrp k f).tmp = s.tmp := rfl
@[simp] theorem State.modGrp_pwr (f : Grp → Grp) : (s.modGrp k f).pwr = s.pwr := rfl
@[simp] theorem State.modGrp_log (f : Grp → Grp) : (s.modGrp k f).log = s.log := rfl
@[simp] theorem State.modGrp_fresh (f : Grp → Grp) : (s.modGrp k f).fresh = s.fresh := rfl
@[simp] theorem State.modGrp_pending (f : Grp → Grp) : (s.modGrp k f).pending = s.pending := rfl
theorem State.modGrp_rs (f : Grp → Grp) :
    (s.modGrp k f).rs = { s.rs with grp := tset s.rs.grp k (f (s.getGrp k)) } := rfl
@[simp] theorem State.getGrp_modGrp (f : Grp → Grp) : (s.modGrp k f).getGrp k = f (s.getGrp k) := tget_tset_same _ _ _ _
theorem State.getGrp_modGrp_ne (f : Grp → Grp) (h : j ≠ k) : (s.modGrp k f).getGrp j = s.getGrp j :=
  tget_tset_ne _ _ _ _ _ h
/-- The other entries of the state after modGrp. -/
@[simp] theorem State.gets_modGrp (f : Grp → Grp) :
    (s.modGrp k f).getPort j = s.getPort j ∧ (s.modGrp k f).getRing j = s.getRing j ∧ (s.modGrp k f).getHead j = s.getHead j ∧ (s.modGrp k f).getHeadAcc j = s.getHeadAcc j ∧ (s.modGrp k f).getEng j = s.getEng j ∧ (s.modGrp k f).getStrm j = s.getStrm j ∧ (s.modGrp k f).getWp j = s.getWp j ∧ (s.modGrp k f).getCtx j = s.getCtx j ∧ (s.modGrp k f).getUnit j = s.getUnit j ∧ (s.modGrp k f).getOut j = s.getOut j ∧ (s.modGrp k f).getInp j = s.getInp j ∧ (s.modGrp k f).getSpBind j = s.getSpBind j ∧ (s.modGrp k f).getSpGrp j = s.getSpGrp j ∧ (s.modGrp k f).getSpEng j = s.getSpEng j ∧ (s.modGrp k f).getLane j = s.getLane j ∧ (s.modGrp k f).getEvc j = s.getEvc j ∧ (s.modGrp k f).getRedHead j = s.getRedHead j ∧ (s.modGrp k f).getRedNode j = s.getRedNode j ∧ (s.modGrp k f).getCalQ j = s.getCalQ j ∧ (s.modGrp k f).getGal j = s.getGal j ∧ (s.modGrp k f).getRolePort j = s.getRolePort j ∧ (s.modGrp k f).getHp j = s.getHp j ∧ (s.modGrp k f).getMon j = s.getMon j ∧ (s.modGrp k f).getLoop j = s.getLoop j ∧ (s.modGrp k f).getLogSrc j = s.getLogSrc j ∧ (s.modGrp k f).getLogPort j = s.getLogPort j ∧ (s.modGrp k f).getInj j = s.getInj j := by
  and_intros <;> rfl

/-! ### modCtx -/

@[simp] theorem State.modCtx_glb (f : Ctx → Ctx) : (s.modCtx k f).glb = s.glb := rfl
@[simp] theorem State.modCtx_tb (f : Ctx → Ctx) : (s.modCtx k f).tb = s.tb := rfl
@[simp] theorem State.modCtx_port (f : Ctx → Ctx) : (s.modCtx k f).port = s.port := rfl
@[simp] theorem State.modCtx_ring (f : Ctx → Ctx) : (s.modCtx k f).ring = s.ring := rfl
@[simp] theorem State.modCtx_head (f : Ctx → Ctx) : (s.modCtx k f).head = s.head := rfl
@[simp] theorem State.modCtx_headAcc (f : Ctx → Ctx) : (s.modCtx k f).headAcc = s.headAcc := rfl
@[simp] theorem State.modCtx_stair (f : Ctx → Ctx) : (s.modCtx k f).stair = s.stair := rfl
@[simp] theorem State.modCtx_rs (f : Ctx → Ctx) : (s.modCtx k f).rs = s.rs := rfl
@[simp] theorem State.modCtx_pulse (f : Ctx → Ctx) : (s.modCtx k f).pulse = s.pulse := rfl
@[simp] theorem State.modCtx_spec (f : Ctx → Ctx) : (s.modCtx k f).spec = s.spec := rfl
@[simp] theorem State.modCtx_ev (f : Ctx → Ctx) : (s.modCtx k f).ev = s.ev := rfl
@[simp] theorem State.modCtx_plan (f : Ctx → Ctx) : (s.modCtx k f).plan = s.plan := rfl
@[simp] theorem State.modCtx_red (f : Ctx → Ctx) : (s.modCtx k f).red = s.red := rfl
@[simp] theorem State.modCtx_lc (f : Ctx → Ctx) : (s.modCtx k f).lc = s.lc := rfl
@[simp] theorem State.modCtx_cal (f : Ctx → Ctx) : (s.modCtx k f).cal = s.cal := rfl
@[simp] theorem State.modCtx_gal (f : Ctx → Ctx) : (s.modCtx k f).gal = s.gal := rfl
@[simp] theorem State.modCtx_mt (f : Ctx → Ctx) : (s.modCtx k f).mt = s.mt := rfl
@[simp] theorem State.modCtx_host (f : Ctx → Ctx) : (s.modCtx k f).host = s.host := rfl
@[simp] theorem State.modCtx_role (f : Ctx → Ctx) : (s.modCtx k f).role = s.role := rfl
@[simp] theorem State.modCtx_tmp (f : Ctx → Ctx) : (s.modCtx k f).tmp = s.tmp := rfl
@[simp] theorem State.modCtx_pwr (f : Ctx → Ctx) : (s.modCtx k f).pwr = s.pwr := rfl
@[simp] theorem State.modCtx_log (f : Ctx → Ctx) : (s.modCtx k f).log = s.log := rfl
@[simp] theorem State.modCtx_fresh (f : Ctx → Ctx) : (s.modCtx k f).fresh = s.fresh := rfl
@[simp] theorem State.modCtx_pending (f : Ctx → Ctx) : (s.modCtx k f).pending = s.pending := rfl
theorem State.modCtx_tally (f : Ctx → Ctx) :
    (s.modCtx k f).tally = { s.tally with ctx := tset s.tally.ctx k (f (s.getCtx k)) } := rfl
@[simp] theorem State.getCtx_modCtx (f : Ctx → Ctx) : (s.modCtx k f).getCtx k = f (s.getCtx k) := tget_tset_same _ _ _ _
theorem State.getCtx_modCtx_ne (f : Ctx → Ctx) (h : j ≠ k) : (s.modCtx k f).getCtx j = s.getCtx j :=
  tget_tset_ne _ _ _ _ _ h
/-- The other entries of the state after modCtx. -/
@[simp] theorem State.gets_modCtx (f : Ctx → Ctx) :
    (s.modCtx k f).getPort j = s.getPort j ∧ (s.modCtx k f).getRing j = s.getRing j ∧ (s.modCtx k f).getHead j = s.getHead j ∧ (s.modCtx k f).getHeadAcc j = s.getHeadAcc j ∧ (s.modCtx k f).getEng j = s.getEng j ∧ (s.modCtx k f).getStrm j = s.getStrm j ∧ (s.modCtx k f).getWp j = s.getWp j ∧ (s.modCtx k f).getGrp j = s.getGrp j ∧ (s.modCtx k f).getUnit j = s.getUnit j ∧ (s.modCtx k f).getOut j = s.getOut j ∧ (s.modCtx k f).getInp j = s.getInp j ∧ (s.modCtx k f).getSpBind j = s.getSpBind j ∧ (s.modCtx k f).getSpGrp j = s.getSpGrp j ∧ (s.modCtx k f).getSpEng j = s.getSpEng j ∧ (s.modCtx k f).getLane j = s.getLane j ∧ (s.modCtx k f).getEvc j = s.getEvc j ∧ (s.modCtx k f).getRedHead j = s.getRedHead j ∧ (s.modCtx k f).getRedNode j = s.getRedNode j ∧ (s.modCtx k f).getCalQ j = s.getCalQ j ∧ (s.modCtx k f).getGal j = s.getGal j ∧ (s.modCtx k f).getRolePort j = s.getRolePort j ∧ (s.modCtx k f).getHp j = s.getHp j ∧ (s.modCtx k f).getMon j = s.getMon j ∧ (s.modCtx k f).getLoop j = s.getLoop j ∧ (s.modCtx k f).getLogSrc j = s.getLogSrc j ∧ (s.modCtx k f).getLogPort j = s.getLogPort j ∧ (s.modCtx k f).getInj j = s.getInj j := by
  and_intros <;> rfl

/-! ### modUnit -/

@[simp] theorem State.modUnit_glb (f : Unit' → Unit') : (s.modUnit k f).glb = s.glb := rfl
@[simp] theorem State.modUnit_tb (f : Unit' → Unit') : (s.modUnit k f).tb = s.tb := rfl
@[simp] theorem State.modUnit_port (f : Unit' → Unit') : (s.modUnit k f).port = s.port := rfl
@[simp] theorem State.modUnit_ring (f : Unit' → Unit') : (s.modUnit k f).ring = s.ring := rfl
@[simp] theorem State.modUnit_head (f : Unit' → Unit') : (s.modUnit k f).head = s.head := rfl
@[simp] theorem State.modUnit_headAcc (f : Unit' → Unit') : (s.modUnit k f).headAcc = s.headAcc := rfl
@[simp] theorem State.modUnit_stair (f : Unit' → Unit') : (s.modUnit k f).stair = s.stair := rfl
@[simp] theorem State.modUnit_rs (f : Unit' → Unit') : (s.modUnit k f).rs = s.rs := rfl
@[simp] theorem State.modUnit_pulse (f : Unit' → Unit') : (s.modUnit k f).pulse = s.pulse := rfl
@[simp] theorem State.modUnit_spec (f : Unit' → Unit') : (s.modUnit k f).spec = s.spec := rfl
@[simp] theorem State.modUnit_ev (f : Unit' → Unit') : (s.modUnit k f).ev = s.ev := rfl
@[simp] theorem State.modUnit_plan (f : Unit' → Unit') : (s.modUnit k f).plan = s.plan := rfl
@[simp] theorem State.modUnit_red (f : Unit' → Unit') : (s.modUnit k f).red = s.red := rfl
@[simp] theorem State.modUnit_lc (f : Unit' → Unit') : (s.modUnit k f).lc = s.lc := rfl
@[simp] theorem State.modUnit_cal (f : Unit' → Unit') : (s.modUnit k f).cal = s.cal := rfl
@[simp] theorem State.modUnit_gal (f : Unit' → Unit') : (s.modUnit k f).gal = s.gal := rfl
@[simp] theorem State.modUnit_mt (f : Unit' → Unit') : (s.modUnit k f).mt = s.mt := rfl
@[simp] theorem State.modUnit_host (f : Unit' → Unit') : (s.modUnit k f).host = s.host := rfl
@[simp] theorem State.modUnit_role (f : Unit' → Unit') : (s.modUnit k f).role = s.role := rfl
@[simp] theorem State.modUnit_tmp (f : Unit' → Unit') : (s.modUnit k f).tmp = s.tmp := rfl
@[simp] theorem State.modUnit_pwr (f : Unit' → Unit') : (s.modUnit k f).pwr = s.pwr := rfl
@[simp] theorem State.modUnit_log (f : Unit' → Unit') : (s.modUnit k f).log = s.log := rfl
@[simp] theorem State.modUnit_fresh (f : Unit' → Unit') : (s.modUnit k f).fresh = s.fresh := rfl
@[simp] theorem State.modUnit_pending (f : Unit' → Unit') : (s.modUnit k f).pending = s.pending := rfl
theorem State.modUnit_tally (f : Unit' → Unit') :
    (s.modUnit k f).tally = { s.tally with unit := tset s.tally.unit k (f (s.getUnit k)) } := rfl
@[simp] theorem State.getUnit_modUnit (f : Unit' → Unit') : (s.modUnit k f).getUnit k = f (s.getUnit k) := tget_tset_same _ _ _ _
theorem State.getUnit_modUnit_ne (f : Unit' → Unit') (h : j ≠ k) : (s.modUnit k f).getUnit j = s.getUnit j :=
  tget_tset_ne _ _ _ _ _ h
/-- The other entries of the state after modUnit. -/
@[simp] theorem State.gets_modUnit (f : Unit' → Unit') :
    (s.modUnit k f).getPort j = s.getPort j ∧ (s.modUnit k f).getRing j = s.getRing j ∧ (s.modUnit k f).getHead j = s.getHead j ∧ (s.modUnit k f).getHeadAcc j = s.getHeadAcc j ∧ (s.modUnit k f).getEng j = s.getEng j ∧ (s.modUnit k f).getStrm j = s.getStrm j ∧ (s.modUnit k f).getWp j = s.getWp j ∧ (s.modUnit k f).getGrp j = s.getGrp j ∧ (s.modUnit k f).getCtx j = s.getCtx j ∧ (s.modUnit k f).getOut j = s.getOut j ∧ (s.modUnit k f).getInp j = s.getInp j ∧ (s.modUnit k f).getSpBind j = s.getSpBind j ∧ (s.modUnit k f).getSpGrp j = s.getSpGrp j ∧ (s.modUnit k f).getSpEng j = s.getSpEng j ∧ (s.modUnit k f).getLane j = s.getLane j ∧ (s.modUnit k f).getEvc j = s.getEvc j ∧ (s.modUnit k f).getRedHead j = s.getRedHead j ∧ (s.modUnit k f).getRedNode j = s.getRedNode j ∧ (s.modUnit k f).getCalQ j = s.getCalQ j ∧ (s.modUnit k f).getGal j = s.getGal j ∧ (s.modUnit k f).getRolePort j = s.getRolePort j ∧ (s.modUnit k f).getHp j = s.getHp j ∧ (s.modUnit k f).getMon j = s.getMon j ∧ (s.modUnit k f).getLoop j = s.getLoop j ∧ (s.modUnit k f).getLogSrc j = s.getLogSrc j ∧ (s.modUnit k f).getLogPort j = s.getLogPort j ∧ (s.modUnit k f).getInj j = s.getInj j := by
  and_intros <;> rfl

/-! ### modOut -/

@[simp] theorem State.modOut_glb (f : PulseOut → PulseOut) : (s.modOut k f).glb = s.glb := rfl
@[simp] theorem State.modOut_tb (f : PulseOut → PulseOut) : (s.modOut k f).tb = s.tb := rfl
@[simp] theorem State.modOut_port (f : PulseOut → PulseOut) : (s.modOut k f).port = s.port := rfl
@[simp] theorem State.modOut_ring (f : PulseOut → PulseOut) : (s.modOut k f).ring = s.ring := rfl
@[simp] theorem State.modOut_head (f : PulseOut → PulseOut) : (s.modOut k f).head = s.head := rfl
@[simp] theorem State.modOut_headAcc (f : PulseOut → PulseOut) : (s.modOut k f).headAcc = s.headAcc := rfl
@[simp] theorem State.modOut_stair (f : PulseOut → PulseOut) : (s.modOut k f).stair = s.stair := rfl
@[simp] theorem State.modOut_rs (f : PulseOut → PulseOut) : (s.modOut k f).rs = s.rs := rfl
@[simp] theorem State.modOut_tally (f : PulseOut → PulseOut) : (s.modOut k f).tally = s.tally := rfl
@[simp] theorem State.modOut_spec (f : PulseOut → PulseOut) : (s.modOut k f).spec = s.spec := rfl
@[simp] theorem State.modOut_ev (f : PulseOut → PulseOut) : (s.modOut k f).ev = s.ev := rfl
@[simp] theorem State.modOut_plan (f : PulseOut → PulseOut) : (s.modOut k f).plan = s.plan := rfl
@[simp] theorem State.modOut_red (f : PulseOut → PulseOut) : (s.modOut k f).red = s.red := rfl
@[simp] theorem State.modOut_lc (f : PulseOut → PulseOut) : (s.modOut k f).lc = s.lc := rfl
@[simp] theorem State.modOut_cal (f : PulseOut → PulseOut) : (s.modOut k f).cal = s.cal := rfl
@[simp] theorem State.modOut_gal (f : PulseOut → PulseOut) : (s.modOut k f).gal = s.gal := rfl
@[simp] theorem State.modOut_mt (f : PulseOut → PulseOut) : (s.modOut k f).mt = s.mt := rfl
@[simp] theorem State.modOut_host (f : PulseOut → PulseOut) : (s.modOut k f).host = s.host := rfl
@[simp] theorem State.modOut_role (f : PulseOut → PulseOut) : (s.modOut k f).role = s.role := rfl
@[simp] theorem State.modOut_tmp (f : PulseOut → PulseOut) : (s.modOut k f).tmp = s.tmp := rfl
@[simp] theorem State.modOut_pwr (f : PulseOut → PulseOut) : (s.modOut k f).pwr = s.pwr := rfl
@[simp] theorem State.modOut_log (f : PulseOut → PulseOut) : (s.modOut k f).log = s.log := rfl
@[simp] theorem State.modOut_fresh (f : PulseOut → PulseOut) : (s.modOut k f).fresh = s.fresh := rfl
@[simp] theorem State.modOut_pending (f : PulseOut → PulseOut) : (s.modOut k f).pending = s.pending := rfl
theorem State.modOut_pulse (f : PulseOut → PulseOut) :
    (s.modOut k f).pulse = { s.pulse with out := tset s.pulse.out k (f (s.getOut k)) } := rfl
@[simp] theorem State.getOut_modOut (f : PulseOut → PulseOut) : (s.modOut k f).getOut k = f (s.getOut k) := tget_tset_same _ _ _ _
theorem State.getOut_modOut_ne (f : PulseOut → PulseOut) (h : j ≠ k) : (s.modOut k f).getOut j = s.getOut j :=
  tget_tset_ne _ _ _ _ _ h
/-- The other entries of the state after modOut. -/
@[simp] theorem State.gets_modOut (f : PulseOut → PulseOut) :
    (s.modOut k f).getPort j = s.getPort j ∧ (s.modOut k f).getRing j = s.getRing j ∧ (s.modOut k f).getHead j = s.getHead j ∧ (s.modOut k f).getHeadAcc j = s.getHeadAcc j ∧ (s.modOut k f).getEng j = s.getEng j ∧ (s.modOut k f).getStrm j = s.getStrm j ∧ (s.modOut k f).getWp j = s.getWp j ∧ (s.modOut k f).getGrp j = s.getGrp j ∧ (s.modOut k f).getCtx j = s.getCtx j ∧ (s.modOut k f).getUnit j = s.getUnit j ∧ (s.modOut k f).getInp j = s.getInp j ∧ (s.modOut k f).getSpBind j = s.getSpBind j ∧ (s.modOut k f).getSpGrp j = s.getSpGrp j ∧ (s.modOut k f).getSpEng j = s.getSpEng j ∧ (s.modOut k f).getLane j = s.getLane j ∧ (s.modOut k f).getEvc j = s.getEvc j ∧ (s.modOut k f).getRedHead j = s.getRedHead j ∧ (s.modOut k f).getRedNode j = s.getRedNode j ∧ (s.modOut k f).getCalQ j = s.getCalQ j ∧ (s.modOut k f).getGal j = s.getGal j ∧ (s.modOut k f).getRolePort j = s.getRolePort j ∧ (s.modOut k f).getHp j = s.getHp j ∧ (s.modOut k f).getMon j = s.getMon j ∧ (s.modOut k f).getLoop j = s.getLoop j ∧ (s.modOut k f).getLogSrc j = s.getLogSrc j ∧ (s.modOut k f).getLogPort j = s.getLogPort j ∧ (s.modOut k f).getInj j = s.getInj j := by
  and_intros <;> rfl

/-! ### modInp -/

@[simp] theorem State.modInp_glb (f : PulseIn → PulseIn) : (s.modInp k f).glb = s.glb := rfl
@[simp] theorem State.modInp_tb (f : PulseIn → PulseIn) : (s.modInp k f).tb = s.tb := rfl
@[simp] theorem State.modInp_port (f : PulseIn → PulseIn) : (s.modInp k f).port = s.port := rfl
@[simp] theorem State.modInp_ring (f : PulseIn → PulseIn) : (s.modInp k f).ring = s.ring := rfl
@[simp] theorem State.modInp_head (f : PulseIn → PulseIn) : (s.modInp k f).head = s.head := rfl
@[simp] theorem State.modInp_headAcc (f : PulseIn → PulseIn) : (s.modInp k f).headAcc = s.headAcc := rfl
@[simp] theorem State.modInp_stair (f : PulseIn → PulseIn) : (s.modInp k f).stair = s.stair := rfl
@[simp] theorem State.modInp_rs (f : PulseIn → PulseIn) : (s.modInp k f).rs = s.rs := rfl
@[simp] theorem State.modInp_tally (f : PulseIn → PulseIn) : (s.modInp k f).tally = s.tally := rfl
@[simp] theorem State.modInp_spec (f : PulseIn → PulseIn) : (s.modInp k f).spec = s.spec := rfl
@[simp] theorem State.modInp_ev (f : PulseIn → PulseIn) : (s.modInp k f).ev = s.ev := rfl
@[simp] theorem State.modInp_plan (f : PulseIn → PulseIn) : (s.modInp k f).plan = s.plan := rfl
@[simp] theorem State.modInp_red (f : PulseIn → PulseIn) : (s.modInp k f).red = s.red := rfl
@[simp] theorem State.modInp_lc (f : PulseIn → PulseIn) : (s.modInp k f).lc = s.lc := rfl
@[simp] theorem State.modInp_cal (f : PulseIn → PulseIn) : (s.modInp k f).cal = s.cal := rfl
@[simp] theorem State.modInp_gal (f : PulseIn → PulseIn) : (s.modInp k f).gal = s.gal := rfl
@[simp] theorem State.modInp_mt (f : PulseIn → PulseIn) : (s.modInp k f).mt = s.mt := rfl
@[simp] theorem State.modInp_host (f : PulseIn → PulseIn) : (s.modInp k f).host = s.host := rfl
@[simp] theorem State.modInp_role (f : PulseIn → PulseIn) : (s.modInp k f).role = s.role := rfl
@[simp] theorem State.modInp_tmp (f : PulseIn → PulseIn) : (s.modInp k f).tmp = s.tmp := rfl
@[simp] theorem State.modInp_pwr (f : PulseIn → PulseIn) : (s.modInp k f).pwr = s.pwr := rfl
@[simp] theorem State.modInp_log (f : PulseIn → PulseIn) : (s.modInp k f).log = s.log := rfl
@[simp] theorem State.modInp_fresh (f : PulseIn → PulseIn) : (s.modInp k f).fresh = s.fresh := rfl
@[simp] theorem State.modInp_pending (f : PulseIn → PulseIn) : (s.modInp k f).pending = s.pending := rfl
theorem State.modInp_pulse (f : PulseIn → PulseIn) :
    (s.modInp k f).pulse = { s.pulse with inp := tset s.pulse.inp k (f (s.getInp k)) } := rfl
@[simp] theorem State.getInp_modInp (f : PulseIn → PulseIn) : (s.modInp k f).getInp k = f (s.getInp k) := tget_tset_same _ _ _ _
theorem State.getInp_modInp_ne (f : PulseIn → PulseIn) (h : j ≠ k) : (s.modInp k f).getInp j = s.getInp j :=
  tget_tset_ne _ _ _ _ _ h
/-- The other entries of the state after modInp. -/
@[simp] theorem State.gets_modInp (f : PulseIn → PulseIn) :
    (s.modInp k f).getPort j = s.getPort j ∧ (s.modInp k f).getRing j = s.getRing j ∧ (s.modInp k f).getHead j = s.getHead j ∧ (s.modInp k f).getHeadAcc j = s.getHeadAcc j ∧ (s.modInp k f).getEng j = s.getEng j ∧ (s.modInp k f).getStrm j = s.getStrm j ∧ (s.modInp k f).getWp j = s.getWp j ∧ (s.modInp k f).getGrp j = s.getGrp j ∧ (s.modInp k f).getCtx j = s.getCtx j ∧ (s.modInp k f).getUnit j = s.getUnit j ∧ (s.modInp k f).getOut j = s.getOut j ∧ (s.modInp k f).getSpBind j = s.getSpBind j ∧ (s.modInp k f).getSpGrp j = s.getSpGrp j ∧ (s.modInp k f).getSpEng j = s.getSpEng j ∧ (s.modInp k f).getLane j = s.getLane j ∧ (s.modInp k f).getEvc j = s.getEvc j ∧ (s.modInp k f).getRedHead j = s.getRedHead j ∧ (s.modInp k f).getRedNode j = s.getRedNode j ∧ (s.modInp k f).getCalQ j = s.getCalQ j ∧ (s.modInp k f).getGal j = s.getGal j ∧ (s.modInp k f).getRolePort j = s.getRolePort j ∧ (s.modInp k f).getHp j = s.getHp j ∧ (s.modInp k f).getMon j = s.getMon j ∧ (s.modInp k f).getLoop j = s.getLoop j ∧ (s.modInp k f).getLogSrc j = s.getLogSrc j ∧ (s.modInp k f).getLogPort j = s.getLogPort j ∧ (s.modInp k f).getInj j = s.getInj j := by
  and_intros <;> rfl

/-! ### modSpBind -/

@[simp] theorem State.modSpBind_glb (f : SpBind → SpBind) : (s.modSpBind k f).glb = s.glb := rfl
@[simp] theorem State.modSpBind_tb (f : SpBind → SpBind) : (s.modSpBind k f).tb = s.tb := rfl
@[simp] theorem State.modSpBind_port (f : SpBind → SpBind) : (s.modSpBind k f).port = s.port := rfl
@[simp] theorem State.modSpBind_ring (f : SpBind → SpBind) : (s.modSpBind k f).ring = s.ring := rfl
@[simp] theorem State.modSpBind_head (f : SpBind → SpBind) : (s.modSpBind k f).head = s.head := rfl
@[simp] theorem State.modSpBind_headAcc (f : SpBind → SpBind) : (s.modSpBind k f).headAcc = s.headAcc := rfl
@[simp] theorem State.modSpBind_stair (f : SpBind → SpBind) : (s.modSpBind k f).stair = s.stair := rfl
@[simp] theorem State.modSpBind_rs (f : SpBind → SpBind) : (s.modSpBind k f).rs = s.rs := rfl
@[simp] theorem State.modSpBind_tally (f : SpBind → SpBind) : (s.modSpBind k f).tally = s.tally := rfl
@[simp] theorem State.modSpBind_pulse (f : SpBind → SpBind) : (s.modSpBind k f).pulse = s.pulse := rfl
@[simp] theorem State.modSpBind_ev (f : SpBind → SpBind) : (s.modSpBind k f).ev = s.ev := rfl
@[simp] theorem State.modSpBind_plan (f : SpBind → SpBind) : (s.modSpBind k f).plan = s.plan := rfl
@[simp] theorem State.modSpBind_red (f : SpBind → SpBind) : (s.modSpBind k f).red = s.red := rfl
@[simp] theorem State.modSpBind_lc (f : SpBind → SpBind) : (s.modSpBind k f).lc = s.lc := rfl
@[simp] theorem State.modSpBind_cal (f : SpBind → SpBind) : (s.modSpBind k f).cal = s.cal := rfl
@[simp] theorem State.modSpBind_gal (f : SpBind → SpBind) : (s.modSpBind k f).gal = s.gal := rfl
@[simp] theorem State.modSpBind_mt (f : SpBind → SpBind) : (s.modSpBind k f).mt = s.mt := rfl
@[simp] theorem State.modSpBind_host (f : SpBind → SpBind) : (s.modSpBind k f).host = s.host := rfl
@[simp] theorem State.modSpBind_role (f : SpBind → SpBind) : (s.modSpBind k f).role = s.role := rfl
@[simp] theorem State.modSpBind_tmp (f : SpBind → SpBind) : (s.modSpBind k f).tmp = s.tmp := rfl
@[simp] theorem State.modSpBind_pwr (f : SpBind → SpBind) : (s.modSpBind k f).pwr = s.pwr := rfl
@[simp] theorem State.modSpBind_log (f : SpBind → SpBind) : (s.modSpBind k f).log = s.log := rfl
@[simp] theorem State.modSpBind_fresh (f : SpBind → SpBind) : (s.modSpBind k f).fresh = s.fresh := rfl
@[simp] theorem State.modSpBind_pending (f : SpBind → SpBind) : (s.modSpBind k f).pending = s.pending := rfl
theorem State.modSpBind_spec (f : SpBind → SpBind) :
    (s.modSpBind k f).spec = { s.spec with bind := tset s.spec.bind k (f (s.getSpBind k)) } := rfl
@[simp] theorem State.getSpBind_modSpBind (f : SpBind → SpBind) : (s.modSpBind k f).getSpBind k = f (s.getSpBind k) := tget_tset_same _ _ _ _
theorem State.getSpBind_modSpBind_ne (f : SpBind → SpBind) (h : j ≠ k) : (s.modSpBind k f).getSpBind j = s.getSpBind j :=
  tget_tset_ne _ _ _ _ _ h
/-- The other entries of the state after modSpBind. -/
@[simp] theorem State.gets_modSpBind (f : SpBind → SpBind) :
    (s.modSpBind k f).getPort j = s.getPort j ∧ (s.modSpBind k f).getRing j = s.getRing j ∧ (s.modSpBind k f).getHead j = s.getHead j ∧ (s.modSpBind k f).getHeadAcc j = s.getHeadAcc j ∧ (s.modSpBind k f).getEng j = s.getEng j ∧ (s.modSpBind k f).getStrm j = s.getStrm j ∧ (s.modSpBind k f).getWp j = s.getWp j ∧ (s.modSpBind k f).getGrp j = s.getGrp j ∧ (s.modSpBind k f).getCtx j = s.getCtx j ∧ (s.modSpBind k f).getUnit j = s.getUnit j ∧ (s.modSpBind k f).getOut j = s.getOut j ∧ (s.modSpBind k f).getInp j = s.getInp j ∧ (s.modSpBind k f).getSpGrp j = s.getSpGrp j ∧ (s.modSpBind k f).getSpEng j = s.getSpEng j ∧ (s.modSpBind k f).getLane j = s.getLane j ∧ (s.modSpBind k f).getEvc j = s.getEvc j ∧ (s.modSpBind k f).getRedHead j = s.getRedHead j ∧ (s.modSpBind k f).getRedNode j = s.getRedNode j ∧ (s.modSpBind k f).getCalQ j = s.getCalQ j ∧ (s.modSpBind k f).getGal j = s.getGal j ∧ (s.modSpBind k f).getRolePort j = s.getRolePort j ∧ (s.modSpBind k f).getHp j = s.getHp j ∧ (s.modSpBind k f).getMon j = s.getMon j ∧ (s.modSpBind k f).getLoop j = s.getLoop j ∧ (s.modSpBind k f).getLogSrc j = s.getLogSrc j ∧ (s.modSpBind k f).getLogPort j = s.getLogPort j ∧ (s.modSpBind k f).getInj j = s.getInj j := by
  and_intros <;> rfl

/-! ### modSpGrp -/

@[simp] theorem State.modSpGrp_glb (f : SpGrp → SpGrp) : (s.modSpGrp k f).glb = s.glb := rfl
@[simp] theorem State.modSpGrp_tb (f : SpGrp → SpGrp) : (s.modSpGrp k f).tb = s.tb := rfl
@[simp] theorem State.modSpGrp_port (f : SpGrp → SpGrp) : (s.modSpGrp k f).port = s.port := rfl
@[simp] theorem State.modSpGrp_ring (f : SpGrp → SpGrp) : (s.modSpGrp k f).ring = s.ring := rfl
@[simp] theorem State.modSpGrp_head (f : SpGrp → SpGrp) : (s.modSpGrp k f).head = s.head := rfl
@[simp] theorem State.modSpGrp_headAcc (f : SpGrp → SpGrp) : (s.modSpGrp k f).headAcc = s.headAcc := rfl
@[simp] theorem State.modSpGrp_stair (f : SpGrp → SpGrp) : (s.modSpGrp k f).stair = s.stair := rfl
@[simp] theorem State.modSpGrp_rs (f : SpGrp → SpGrp) : (s.modSpGrp k f).rs = s.rs := rfl
@[simp] theorem State.modSpGrp_tally (f : SpGrp → SpGrp) : (s.modSpGrp k f).tally = s.tally := rfl
@[simp] theorem State.modSpGrp_pulse (f : SpGrp → SpGrp) : (s.modSpGrp k f).pulse = s.pulse := rfl
@[simp] theorem State.modSpGrp_ev (f : SpGrp → SpGrp) : (s.modSpGrp k f).ev = s.ev := rfl
@[simp] theorem State.modSpGrp_plan (f : SpGrp → SpGrp) : (s.modSpGrp k f).plan = s.plan := rfl
@[simp] theorem State.modSpGrp_red (f : SpGrp → SpGrp) : (s.modSpGrp k f).red = s.red := rfl
@[simp] theorem State.modSpGrp_lc (f : SpGrp → SpGrp) : (s.modSpGrp k f).lc = s.lc := rfl
@[simp] theorem State.modSpGrp_cal (f : SpGrp → SpGrp) : (s.modSpGrp k f).cal = s.cal := rfl
@[simp] theorem State.modSpGrp_gal (f : SpGrp → SpGrp) : (s.modSpGrp k f).gal = s.gal := rfl
@[simp] theorem State.modSpGrp_mt (f : SpGrp → SpGrp) : (s.modSpGrp k f).mt = s.mt := rfl
@[simp] theorem State.modSpGrp_host (f : SpGrp → SpGrp) : (s.modSpGrp k f).host = s.host := rfl
@[simp] theorem State.modSpGrp_role (f : SpGrp → SpGrp) : (s.modSpGrp k f).role = s.role := rfl
@[simp] theorem State.modSpGrp_tmp (f : SpGrp → SpGrp) : (s.modSpGrp k f).tmp = s.tmp := rfl
@[simp] theorem State.modSpGrp_pwr (f : SpGrp → SpGrp) : (s.modSpGrp k f).pwr = s.pwr := rfl
@[simp] theorem State.modSpGrp_log (f : SpGrp → SpGrp) : (s.modSpGrp k f).log = s.log := rfl
@[simp] theorem State.modSpGrp_fresh (f : SpGrp → SpGrp) : (s.modSpGrp k f).fresh = s.fresh := rfl
@[simp] theorem State.modSpGrp_pending (f : SpGrp → SpGrp) : (s.modSpGrp k f).pending = s.pending := rfl
theorem State.modSpGrp_spec (f : SpGrp → SpGrp) :
    (s.modSpGrp k f).spec = { s.spec with grp := tset s.spec.grp k (f (s.getSpGrp k)) } := rfl
@[simp] theorem State.getSpGrp_modSpGrp (f : SpGrp → SpGrp) : (s.modSpGrp k f).getSpGrp k = f (s.getSpGrp k) := tget_tset_same _ _ _ _
theorem State.getSpGrp_modSpGrp_ne (f : SpGrp → SpGrp) (h : j ≠ k) : (s.modSpGrp k f).getSpGrp j = s.getSpGrp j :=
  tget_tset_ne _ _ _ _ _ h
/-- The other entries of the state after modSpGrp. -/
@[simp] theorem State.gets_modSpGrp (f : SpGrp → SpGrp) :
    (s.modSpGrp k f).getPort j = s.getPort j ∧ (s.modSpGrp k f).getRing j = s.getRing j ∧ (s.modSpGrp k f).getHead j = s.getHead j ∧ (s.modSpGrp k f).getHeadAcc j = s.getHeadAcc j ∧ (s.modSpGrp k f).getEng j = s.getEng j ∧ (s.modSpGrp k f).getStrm j = s.getStrm j ∧ (s.modSpGrp k f).getWp j = s.getWp j ∧ (s.modSpGrp k f).getGrp j = s.getGrp j ∧ (s.modSpGrp k f).getCtx j = s.getCtx j ∧ (s.modSpGrp k f).getUnit j = s.getUnit j ∧ (s.modSpGrp k f).getOut j = s.getOut j ∧ (s.modSpGrp k f).getInp j = s.getInp j ∧ (s.modSpGrp k f).getSpBind j = s.getSpBind j ∧ (s.modSpGrp k f).getSpEng j = s.getSpEng j ∧ (s.modSpGrp k f).getLane j = s.getLane j ∧ (s.modSpGrp k f).getEvc j = s.getEvc j ∧ (s.modSpGrp k f).getRedHead j = s.getRedHead j ∧ (s.modSpGrp k f).getRedNode j = s.getRedNode j ∧ (s.modSpGrp k f).getCalQ j = s.getCalQ j ∧ (s.modSpGrp k f).getGal j = s.getGal j ∧ (s.modSpGrp k f).getRolePort j = s.getRolePort j ∧ (s.modSpGrp k f).getHp j = s.getHp j ∧ (s.modSpGrp k f).getMon j = s.getMon j ∧ (s.modSpGrp k f).getLoop j = s.getLoop j ∧ (s.modSpGrp k f).getLogSrc j = s.getLogSrc j ∧ (s.modSpGrp k f).getLogPort j = s.getLogPort j ∧ (s.modSpGrp k f).getInj j = s.getInj j := by
  and_intros <;> rfl

/-! ### modSpEng -/

@[simp] theorem State.modSpEng_glb (f : SpEng → SpEng) : (s.modSpEng k f).glb = s.glb := rfl
@[simp] theorem State.modSpEng_tb (f : SpEng → SpEng) : (s.modSpEng k f).tb = s.tb := rfl
@[simp] theorem State.modSpEng_port (f : SpEng → SpEng) : (s.modSpEng k f).port = s.port := rfl
@[simp] theorem State.modSpEng_ring (f : SpEng → SpEng) : (s.modSpEng k f).ring = s.ring := rfl
@[simp] theorem State.modSpEng_head (f : SpEng → SpEng) : (s.modSpEng k f).head = s.head := rfl
@[simp] theorem State.modSpEng_headAcc (f : SpEng → SpEng) : (s.modSpEng k f).headAcc = s.headAcc := rfl
@[simp] theorem State.modSpEng_stair (f : SpEng → SpEng) : (s.modSpEng k f).stair = s.stair := rfl
@[simp] theorem State.modSpEng_rs (f : SpEng → SpEng) : (s.modSpEng k f).rs = s.rs := rfl
@[simp] theorem State.modSpEng_tally (f : SpEng → SpEng) : (s.modSpEng k f).tally = s.tally := rfl
@[simp] theorem State.modSpEng_pulse (f : SpEng → SpEng) : (s.modSpEng k f).pulse = s.pulse := rfl
@[simp] theorem State.modSpEng_ev (f : SpEng → SpEng) : (s.modSpEng k f).ev = s.ev := rfl
@[simp] theorem State.modSpEng_plan (f : SpEng → SpEng) : (s.modSpEng k f).plan = s.plan := rfl
@[simp] theorem State.modSpEng_red (f : SpEng → SpEng) : (s.modSpEng k f).red = s.red := rfl
@[simp] theorem State.modSpEng_lc (f : SpEng → SpEng) : (s.modSpEng k f).lc = s.lc := rfl
@[simp] theorem State.modSpEng_cal (f : SpEng → SpEng) : (s.modSpEng k f).cal = s.cal := rfl
@[simp] theorem State.modSpEng_gal (f : SpEng → SpEng) : (s.modSpEng k f).gal = s.gal := rfl
@[simp] theorem State.modSpEng_mt (f : SpEng → SpEng) : (s.modSpEng k f).mt = s.mt := rfl
@[simp] theorem State.modSpEng_host (f : SpEng → SpEng) : (s.modSpEng k f).host = s.host := rfl
@[simp] theorem State.modSpEng_role (f : SpEng → SpEng) : (s.modSpEng k f).role = s.role := rfl
@[simp] theorem State.modSpEng_tmp (f : SpEng → SpEng) : (s.modSpEng k f).tmp = s.tmp := rfl
@[simp] theorem State.modSpEng_pwr (f : SpEng → SpEng) : (s.modSpEng k f).pwr = s.pwr := rfl
@[simp] theorem State.modSpEng_log (f : SpEng → SpEng) : (s.modSpEng k f).log = s.log := rfl
@[simp] theorem State.modSpEng_fresh (f : SpEng → SpEng) : (s.modSpEng k f).fresh = s.fresh := rfl
@[simp] theorem State.modSpEng_pending (f : SpEng → SpEng) : (s.modSpEng k f).pending = s.pending := rfl
theorem State.modSpEng_spec (f : SpEng → SpEng) :
    (s.modSpEng k f).spec = { s.spec with eng := tset s.spec.eng k (f (s.getSpEng k)) } := rfl
@[simp] theorem State.getSpEng_modSpEng (f : SpEng → SpEng) : (s.modSpEng k f).getSpEng k = f (s.getSpEng k) := tget_tset_same _ _ _ _
theorem State.getSpEng_modSpEng_ne (f : SpEng → SpEng) (h : j ≠ k) : (s.modSpEng k f).getSpEng j = s.getSpEng j :=
  tget_tset_ne _ _ _ _ _ h
/-- The other entries of the state after modSpEng. -/
@[simp] theorem State.gets_modSpEng (f : SpEng → SpEng) :
    (s.modSpEng k f).getPort j = s.getPort j ∧ (s.modSpEng k f).getRing j = s.getRing j ∧ (s.modSpEng k f).getHead j = s.getHead j ∧ (s.modSpEng k f).getHeadAcc j = s.getHeadAcc j ∧ (s.modSpEng k f).getEng j = s.getEng j ∧ (s.modSpEng k f).getStrm j = s.getStrm j ∧ (s.modSpEng k f).getWp j = s.getWp j ∧ (s.modSpEng k f).getGrp j = s.getGrp j ∧ (s.modSpEng k f).getCtx j = s.getCtx j ∧ (s.modSpEng k f).getUnit j = s.getUnit j ∧ (s.modSpEng k f).getOut j = s.getOut j ∧ (s.modSpEng k f).getInp j = s.getInp j ∧ (s.modSpEng k f).getSpBind j = s.getSpBind j ∧ (s.modSpEng k f).getSpGrp j = s.getSpGrp j ∧ (s.modSpEng k f).getLane j = s.getLane j ∧ (s.modSpEng k f).getEvc j = s.getEvc j ∧ (s.modSpEng k f).getRedHead j = s.getRedHead j ∧ (s.modSpEng k f).getRedNode j = s.getRedNode j ∧ (s.modSpEng k f).getCalQ j = s.getCalQ j ∧ (s.modSpEng k f).getGal j = s.getGal j ∧ (s.modSpEng k f).getRolePort j = s.getRolePort j ∧ (s.modSpEng k f).getHp j = s.getHp j ∧ (s.modSpEng k f).getMon j = s.getMon j ∧ (s.modSpEng k f).getLoop j = s.getLoop j ∧ (s.modSpEng k f).getLogSrc j = s.getLogSrc j ∧ (s.modSpEng k f).getLogPort j = s.getLogPort j ∧ (s.modSpEng k f).getInj j = s.getInj j := by
  and_intros <;> rfl

/-! ### modLane -/

@[simp] theorem State.modLane_glb (f : ShLane → ShLane) : (s.modLane k f).glb = s.glb := rfl
@[simp] theorem State.modLane_tb (f : ShLane → ShLane) : (s.modLane k f).tb = s.tb := rfl
@[simp] theorem State.modLane_port (f : ShLane → ShLane) : (s.modLane k f).port = s.port := rfl
@[simp] theorem State.modLane_ring (f : ShLane → ShLane) : (s.modLane k f).ring = s.ring := rfl
@[simp] theorem State.modLane_head (f : ShLane → ShLane) : (s.modLane k f).head = s.head := rfl
@[simp] theorem State.modLane_headAcc (f : ShLane → ShLane) : (s.modLane k f).headAcc = s.headAcc := rfl
@[simp] theorem State.modLane_stair (f : ShLane → ShLane) : (s.modLane k f).stair = s.stair := rfl
@[simp] theorem State.modLane_rs (f : ShLane → ShLane) : (s.modLane k f).rs = s.rs := rfl
@[simp] theorem State.modLane_tally (f : ShLane → ShLane) : (s.modLane k f).tally = s.tally := rfl
@[simp] theorem State.modLane_pulse (f : ShLane → ShLane) : (s.modLane k f).pulse = s.pulse := rfl
@[simp] theorem State.modLane_ev (f : ShLane → ShLane) : (s.modLane k f).ev = s.ev := rfl
@[simp] theorem State.modLane_plan (f : ShLane → ShLane) : (s.modLane k f).plan = s.plan := rfl
@[simp] theorem State.modLane_red (f : ShLane → ShLane) : (s.modLane k f).red = s.red := rfl
@[simp] theorem State.modLane_lc (f : ShLane → ShLane) : (s.modLane k f).lc = s.lc := rfl
@[simp] theorem State.modLane_cal (f : ShLane → ShLane) : (s.modLane k f).cal = s.cal := rfl
@[simp] theorem State.modLane_gal (f : ShLane → ShLane) : (s.modLane k f).gal = s.gal := rfl
@[simp] theorem State.modLane_mt (f : ShLane → ShLane) : (s.modLane k f).mt = s.mt := rfl
@[simp] theorem State.modLane_host (f : ShLane → ShLane) : (s.modLane k f).host = s.host := rfl
@[simp] theorem State.modLane_role (f : ShLane → ShLane) : (s.modLane k f).role = s.role := rfl
@[simp] theorem State.modLane_tmp (f : ShLane → ShLane) : (s.modLane k f).tmp = s.tmp := rfl
@[simp] theorem State.modLane_pwr (f : ShLane → ShLane) : (s.modLane k f).pwr = s.pwr := rfl
@[simp] theorem State.modLane_log (f : ShLane → ShLane) : (s.modLane k f).log = s.log := rfl
@[simp] theorem State.modLane_fresh (f : ShLane → ShLane) : (s.modLane k f).fresh = s.fresh := rfl
@[simp] theorem State.modLane_pending (f : ShLane → ShLane) : (s.modLane k f).pending = s.pending := rfl
theorem State.modLane_spec (f : ShLane → ShLane) :
    (s.modLane k f).spec = { s.spec with lane := tset s.spec.lane k (f (s.getLane k)) } := rfl
@[simp] theorem State.getLane_modLane (f : ShLane → ShLane) : (s.modLane k f).getLane k = f (s.getLane k) := tget_tset_same _ _ _ _
theorem State.getLane_modLane_ne (f : ShLane → ShLane) (h : j ≠ k) : (s.modLane k f).getLane j = s.getLane j :=
  tget_tset_ne _ _ _ _ _ h
/-- The other entries of the state after modLane. -/
@[simp] theorem State.gets_modLane (f : ShLane → ShLane) :
    (s.modLane k f).getPort j = s.getPort j ∧ (s.modLane k f).getRing j = s.getRing j ∧ (s.modLane k f).getHead j = s.getHead j ∧ (s.modLane k f).getHeadAcc j = s.getHeadAcc j ∧ (s.modLane k f).getEng j = s.getEng j ∧ (s.modLane k f).getStrm j = s.getStrm j ∧ (s.modLane k f).getWp j = s.getWp j ∧ (s.modLane k f).getGrp j = s.getGrp j ∧ (s.modLane k f).getCtx j = s.getCtx j ∧ (s.modLane k f).getUnit j = s.getUnit j ∧ (s.modLane k f).getOut j = s.getOut j ∧ (s.modLane k f).getInp j = s.getInp j ∧ (s.modLane k f).getSpBind j = s.getSpBind j ∧ (s.modLane k f).getSpGrp j = s.getSpGrp j ∧ (s.modLane k f).getSpEng j = s.getSpEng j ∧ (s.modLane k f).getEvc j = s.getEvc j ∧ (s.modLane k f).getRedHead j = s.getRedHead j ∧ (s.modLane k f).getRedNode j = s.getRedNode j ∧ (s.modLane k f).getCalQ j = s.getCalQ j ∧ (s.modLane k f).getGal j = s.getGal j ∧ (s.modLane k f).getRolePort j = s.getRolePort j ∧ (s.modLane k f).getHp j = s.getHp j ∧ (s.modLane k f).getMon j = s.getMon j ∧ (s.modLane k f).getLoop j = s.getLoop j ∧ (s.modLane k f).getLogSrc j = s.getLogSrc j ∧ (s.modLane k f).getLogPort j = s.getLogPort j ∧ (s.modLane k f).getInj j = s.getInj j := by
  and_intros <;> rfl

/-! ### modEvc -/

@[simp] theorem State.modEvc_glb (f : EvCtx → EvCtx) : (s.modEvc k f).glb = s.glb := rfl
@[simp] theorem State.modEvc_tb (f : EvCtx → EvCtx) : (s.modEvc k f).tb = s.tb := rfl
@[simp] theorem State.modEvc_port (f : EvCtx → EvCtx) : (s.modEvc k f).port = s.port := rfl
@[simp] theorem State.modEvc_ring (f : EvCtx → EvCtx) : (s.modEvc k f).ring = s.ring := rfl
@[simp] theorem State.modEvc_head (f : EvCtx → EvCtx) : (s.modEvc k f).head = s.head := rfl
@[simp] theorem State.modEvc_headAcc (f : EvCtx → EvCtx) : (s.modEvc k f).headAcc = s.headAcc := rfl
@[simp] theorem State.modEvc_stair (f : EvCtx → EvCtx) : (s.modEvc k f).stair = s.stair := rfl
@[simp] theorem State.modEvc_rs (f : EvCtx → EvCtx) : (s.modEvc k f).rs = s.rs := rfl
@[simp] theorem State.modEvc_tally (f : EvCtx → EvCtx) : (s.modEvc k f).tally = s.tally := rfl
@[simp] theorem State.modEvc_pulse (f : EvCtx → EvCtx) : (s.modEvc k f).pulse = s.pulse := rfl
@[simp] theorem State.modEvc_spec (f : EvCtx → EvCtx) : (s.modEvc k f).spec = s.spec := rfl
@[simp] theorem State.modEvc_plan (f : EvCtx → EvCtx) : (s.modEvc k f).plan = s.plan := rfl
@[simp] theorem State.modEvc_red (f : EvCtx → EvCtx) : (s.modEvc k f).red = s.red := rfl
@[simp] theorem State.modEvc_lc (f : EvCtx → EvCtx) : (s.modEvc k f).lc = s.lc := rfl
@[simp] theorem State.modEvc_cal (f : EvCtx → EvCtx) : (s.modEvc k f).cal = s.cal := rfl
@[simp] theorem State.modEvc_gal (f : EvCtx → EvCtx) : (s.modEvc k f).gal = s.gal := rfl
@[simp] theorem State.modEvc_mt (f : EvCtx → EvCtx) : (s.modEvc k f).mt = s.mt := rfl
@[simp] theorem State.modEvc_host (f : EvCtx → EvCtx) : (s.modEvc k f).host = s.host := rfl
@[simp] theorem State.modEvc_role (f : EvCtx → EvCtx) : (s.modEvc k f).role = s.role := rfl
@[simp] theorem State.modEvc_tmp (f : EvCtx → EvCtx) : (s.modEvc k f).tmp = s.tmp := rfl
@[simp] theorem State.modEvc_pwr (f : EvCtx → EvCtx) : (s.modEvc k f).pwr = s.pwr := rfl
@[simp] theorem State.modEvc_log (f : EvCtx → EvCtx) : (s.modEvc k f).log = s.log := rfl
@[simp] theorem State.modEvc_fresh (f : EvCtx → EvCtx) : (s.modEvc k f).fresh = s.fresh := rfl
@[simp] theorem State.modEvc_pending (f : EvCtx → EvCtx) : (s.modEvc k f).pending = s.pending := rfl
theorem State.modEvc_ev (f : EvCtx → EvCtx) :
    (s.modEvc k f).ev = { s.ev with ctx := tset s.ev.ctx k (f (s.getEvc k)) } := rfl
@[simp] theorem State.getEvc_modEvc (f : EvCtx → EvCtx) : (s.modEvc k f).getEvc k = f (s.getEvc k) := tget_tset_same _ _ _ _
theorem State.getEvc_modEvc_ne (f : EvCtx → EvCtx) (h : j ≠ k) : (s.modEvc k f).getEvc j = s.getEvc j :=
  tget_tset_ne _ _ _ _ _ h
/-- The other entries of the state after modEvc. -/
@[simp] theorem State.gets_modEvc (f : EvCtx → EvCtx) :
    (s.modEvc k f).getPort j = s.getPort j ∧ (s.modEvc k f).getRing j = s.getRing j ∧ (s.modEvc k f).getHead j = s.getHead j ∧ (s.modEvc k f).getHeadAcc j = s.getHeadAcc j ∧ (s.modEvc k f).getEng j = s.getEng j ∧ (s.modEvc k f).getStrm j = s.getStrm j ∧ (s.modEvc k f).getWp j = s.getWp j ∧ (s.modEvc k f).getGrp j = s.getGrp j ∧ (s.modEvc k f).getCtx j = s.getCtx j ∧ (s.modEvc k f).getUnit j = s.getUnit j ∧ (s.modEvc k f).getOut j = s.getOut j ∧ (s.modEvc k f).getInp j = s.getInp j ∧ (s.modEvc k f).getSpBind j = s.getSpBind j ∧ (s.modEvc k f).getSpGrp j = s.getSpGrp j ∧ (s.modEvc k f).getSpEng j = s.getSpEng j ∧ (s.modEvc k f).getLane j = s.getLane j ∧ (s.modEvc k f).getRedHead j = s.getRedHead j ∧ (s.modEvc k f).getRedNode j = s.getRedNode j ∧ (s.modEvc k f).getCalQ j = s.getCalQ j ∧ (s.modEvc k f).getGal j = s.getGal j ∧ (s.modEvc k f).getRolePort j = s.getRolePort j ∧ (s.modEvc k f).getHp j = s.getHp j ∧ (s.modEvc k f).getMon j = s.getMon j ∧ (s.modEvc k f).getLoop j = s.getLoop j ∧ (s.modEvc k f).getLogSrc j = s.getLogSrc j ∧ (s.modEvc k f).getLogPort j = s.getLogPort j ∧ (s.modEvc k f).getInj j = s.getInj j := by
  and_intros <;> rfl

/-! ### modRedHead -/

@[simp] theorem State.modRedHead_glb (f : RedHead → RedHead) : (s.modRedHead k f).glb = s.glb := rfl
@[simp] theorem State.modRedHead_tb (f : RedHead → RedHead) : (s.modRedHead k f).tb = s.tb := rfl
@[simp] theorem State.modRedHead_port (f : RedHead → RedHead) : (s.modRedHead k f).port = s.port := rfl
@[simp] theorem State.modRedHead_ring (f : RedHead → RedHead) : (s.modRedHead k f).ring = s.ring := rfl
@[simp] theorem State.modRedHead_head (f : RedHead → RedHead) : (s.modRedHead k f).head = s.head := rfl
@[simp] theorem State.modRedHead_headAcc (f : RedHead → RedHead) : (s.modRedHead k f).headAcc = s.headAcc := rfl
@[simp] theorem State.modRedHead_stair (f : RedHead → RedHead) : (s.modRedHead k f).stair = s.stair := rfl
@[simp] theorem State.modRedHead_rs (f : RedHead → RedHead) : (s.modRedHead k f).rs = s.rs := rfl
@[simp] theorem State.modRedHead_tally (f : RedHead → RedHead) : (s.modRedHead k f).tally = s.tally := rfl
@[simp] theorem State.modRedHead_pulse (f : RedHead → RedHead) : (s.modRedHead k f).pulse = s.pulse := rfl
@[simp] theorem State.modRedHead_spec (f : RedHead → RedHead) : (s.modRedHead k f).spec = s.spec := rfl
@[simp] theorem State.modRedHead_ev (f : RedHead → RedHead) : (s.modRedHead k f).ev = s.ev := rfl
@[simp] theorem State.modRedHead_plan (f : RedHead → RedHead) : (s.modRedHead k f).plan = s.plan := rfl
@[simp] theorem State.modRedHead_lc (f : RedHead → RedHead) : (s.modRedHead k f).lc = s.lc := rfl
@[simp] theorem State.modRedHead_cal (f : RedHead → RedHead) : (s.modRedHead k f).cal = s.cal := rfl
@[simp] theorem State.modRedHead_gal (f : RedHead → RedHead) : (s.modRedHead k f).gal = s.gal := rfl
@[simp] theorem State.modRedHead_mt (f : RedHead → RedHead) : (s.modRedHead k f).mt = s.mt := rfl
@[simp] theorem State.modRedHead_host (f : RedHead → RedHead) : (s.modRedHead k f).host = s.host := rfl
@[simp] theorem State.modRedHead_role (f : RedHead → RedHead) : (s.modRedHead k f).role = s.role := rfl
@[simp] theorem State.modRedHead_tmp (f : RedHead → RedHead) : (s.modRedHead k f).tmp = s.tmp := rfl
@[simp] theorem State.modRedHead_pwr (f : RedHead → RedHead) : (s.modRedHead k f).pwr = s.pwr := rfl
@[simp] theorem State.modRedHead_log (f : RedHead → RedHead) : (s.modRedHead k f).log = s.log := rfl
@[simp] theorem State.modRedHead_fresh (f : RedHead → RedHead) : (s.modRedHead k f).fresh = s.fresh := rfl
@[simp] theorem State.modRedHead_pending (f : RedHead → RedHead) : (s.modRedHead k f).pending = s.pending := rfl
theorem State.modRedHead_red (f : RedHead → RedHead) :
    (s.modRedHead k f).red = { s.red with head := tset s.red.head k (f (s.getRedHead k)) } := rfl
@[simp] theorem State.getRedHead_modRedHead (f : RedHead → RedHead) : (s.modRedHead k f).getRedHead k = f (s.getRedHead k) := tget_tset_same _ _ _ _
theorem State.getRedHead_modRedHead_ne (f : RedHead → RedHead) (h : j ≠ k) : (s.modRedHead k f).getRedHead j = s.getRedHead j :=
  tget_tset_ne _ _ _ _ _ h
/-- The other entries of the state after modRedHead. -/
@[simp] theorem State.gets_modRedHead (f : RedHead → RedHead) :
    (s.modRedHead k f).getPort j = s.getPort j ∧ (s.modRedHead k f).getRing j = s.getRing j ∧ (s.modRedHead k f).getHead j = s.getHead j ∧ (s.modRedHead k f).getHeadAcc j = s.getHeadAcc j ∧ (s.modRedHead k f).getEng j = s.getEng j ∧ (s.modRedHead k f).getStrm j = s.getStrm j ∧ (s.modRedHead k f).getWp j = s.getWp j ∧ (s.modRedHead k f).getGrp j = s.getGrp j ∧ (s.modRedHead k f).getCtx j = s.getCtx j ∧ (s.modRedHead k f).getUnit j = s.getUnit j ∧ (s.modRedHead k f).getOut j = s.getOut j ∧ (s.modRedHead k f).getInp j = s.getInp j ∧ (s.modRedHead k f).getSpBind j = s.getSpBind j ∧ (s.modRedHead k f).getSpGrp j = s.getSpGrp j ∧ (s.modRedHead k f).getSpEng j = s.getSpEng j ∧ (s.modRedHead k f).getLane j = s.getLane j ∧ (s.modRedHead k f).getEvc j = s.getEvc j ∧ (s.modRedHead k f).getRedNode j = s.getRedNode j ∧ (s.modRedHead k f).getCalQ j = s.getCalQ j ∧ (s.modRedHead k f).getGal j = s.getGal j ∧ (s.modRedHead k f).getRolePort j = s.getRolePort j ∧ (s.modRedHead k f).getHp j = s.getHp j ∧ (s.modRedHead k f).getMon j = s.getMon j ∧ (s.modRedHead k f).getLoop j = s.getLoop j ∧ (s.modRedHead k f).getLogSrc j = s.getLogSrc j ∧ (s.modRedHead k f).getLogPort j = s.getLogPort j ∧ (s.modRedHead k f).getInj j = s.getInj j := by
  and_intros <;> rfl

/-! ### modRedNode -/

@[simp] theorem State.modRedNode_glb (f : RedNode → RedNode) : (s.modRedNode k f).glb = s.glb := rfl
@[simp] theorem State.modRedNode_tb (f : RedNode → RedNode) : (s.modRedNode k f).tb = s.tb := rfl
@[simp] theorem State.modRedNode_port (f : RedNode → RedNode) : (s.modRedNode k f).port = s.port := rfl
@[simp] theorem State.modRedNode_ring (f : RedNode → RedNode) : (s.modRedNode k f).ring = s.ring := rfl
@[simp] theorem State.modRedNode_head (f : RedNode → RedNode) : (s.modRedNode k f).head = s.head := rfl
@[simp] theorem State.modRedNode_headAcc (f : RedNode → RedNode) : (s.modRedNode k f).headAcc = s.headAcc := rfl
@[simp] theorem State.modRedNode_stair (f : RedNode → RedNode) : (s.modRedNode k f).stair = s.stair := rfl
@[simp] theorem State.modRedNode_rs (f : RedNode → RedNode) : (s.modRedNode k f).rs = s.rs := rfl
@[simp] theorem State.modRedNode_tally (f : RedNode → RedNode) : (s.modRedNode k f).tally = s.tally := rfl
@[simp] theorem State.modRedNode_pulse (f : RedNode → RedNode) : (s.modRedNode k f).pulse = s.pulse := rfl
@[simp] theorem State.modRedNode_spec (f : RedNode → RedNode) : (s.modRedNode k f).spec = s.spec := rfl
@[simp] theorem State.modRedNode_ev (f : RedNode → RedNode) : (s.modRedNode k f).ev = s.ev := rfl
@[simp] theorem State.modRedNode_plan (f : RedNode → RedNode) : (s.modRedNode k f).plan = s.plan := rfl
@[simp] theorem State.modRedNode_lc (f : RedNode → RedNode) : (s.modRedNode k f).lc = s.lc := rfl
@[simp] theorem State.modRedNode_cal (f : RedNode → RedNode) : (s.modRedNode k f).cal = s.cal := rfl
@[simp] theorem State.modRedNode_gal (f : RedNode → RedNode) : (s.modRedNode k f).gal = s.gal := rfl
@[simp] theorem State.modRedNode_mt (f : RedNode → RedNode) : (s.modRedNode k f).mt = s.mt := rfl
@[simp] theorem State.modRedNode_host (f : RedNode → RedNode) : (s.modRedNode k f).host = s.host := rfl
@[simp] theorem State.modRedNode_role (f : RedNode → RedNode) : (s.modRedNode k f).role = s.role := rfl
@[simp] theorem State.modRedNode_tmp (f : RedNode → RedNode) : (s.modRedNode k f).tmp = s.tmp := rfl
@[simp] theorem State.modRedNode_pwr (f : RedNode → RedNode) : (s.modRedNode k f).pwr = s.pwr := rfl
@[simp] theorem State.modRedNode_log (f : RedNode → RedNode) : (s.modRedNode k f).log = s.log := rfl
@[simp] theorem State.modRedNode_fresh (f : RedNode → RedNode) : (s.modRedNode k f).fresh = s.fresh := rfl
@[simp] theorem State.modRedNode_pending (f : RedNode → RedNode) : (s.modRedNode k f).pending = s.pending := rfl
theorem State.modRedNode_red (f : RedNode → RedNode) :
    (s.modRedNode k f).red = { s.red with node := tset s.red.node k (f (s.getRedNode k)) } := rfl
@[simp] theorem State.getRedNode_modRedNode (f : RedNode → RedNode) : (s.modRedNode k f).getRedNode k = f (s.getRedNode k) := tget_tset_same _ _ _ _
theorem State.getRedNode_modRedNode_ne (f : RedNode → RedNode) (h : j ≠ k) : (s.modRedNode k f).getRedNode j = s.getRedNode j :=
  tget_tset_ne _ _ _ _ _ h
/-- The other entries of the state after modRedNode. -/
@[simp] theorem State.gets_modRedNode (f : RedNode → RedNode) :
    (s.modRedNode k f).getPort j = s.getPort j ∧ (s.modRedNode k f).getRing j = s.getRing j ∧ (s.modRedNode k f).getHead j = s.getHead j ∧ (s.modRedNode k f).getHeadAcc j = s.getHeadAcc j ∧ (s.modRedNode k f).getEng j = s.getEng j ∧ (s.modRedNode k f).getStrm j = s.getStrm j ∧ (s.modRedNode k f).getWp j = s.getWp j ∧ (s.modRedNode k f).getGrp j = s.getGrp j ∧ (s.modRedNode k f).getCtx j = s.getCtx j ∧ (s.modRedNode k f).getUnit j = s.getUnit j ∧ (s.modRedNode k f).getOut j = s.getOut j ∧ (s.modRedNode k f).getInp j = s.getInp j ∧ (s.modRedNode k f).getSpBind j = s.getSpBind j ∧ (s.modRedNode k f).getSpGrp j = s.getSpGrp j ∧ (s.modRedNode k f).getSpEng j = s.getSpEng j ∧ (s.modRedNode k f).getLane j = s.getLane j ∧ (s.modRedNode k f).getEvc j = s.getEvc j ∧ (s.modRedNode k f).getRedHead j = s.getRedHead j ∧ (s.modRedNode k f).getCalQ j = s.getCalQ j ∧ (s.modRedNode k f).getGal j = s.getGal j ∧ (s.modRedNode k f).getRolePort j = s.getRolePort j ∧ (s.modRedNode k f).getHp j = s.getHp j ∧ (s.modRedNode k f).getMon j = s.getMon j ∧ (s.modRedNode k f).getLoop j = s.getLoop j ∧ (s.modRedNode k f).getLogSrc j = s.getLogSrc j ∧ (s.modRedNode k f).getLogPort j = s.getLogPort j ∧ (s.modRedNode k f).getInj j = s.getInj j := by
  and_intros <;> rfl

/-! ### modCalQ -/

@[simp] theorem State.modCalQ_glb (f : CalQ → CalQ) : (s.modCalQ k f).glb = s.glb := rfl
@[simp] theorem State.modCalQ_tb (f : CalQ → CalQ) : (s.modCalQ k f).tb = s.tb := rfl
@[simp] theorem State.modCalQ_port (f : CalQ → CalQ) : (s.modCalQ k f).port = s.port := rfl
@[simp] theorem State.modCalQ_ring (f : CalQ → CalQ) : (s.modCalQ k f).ring = s.ring := rfl
@[simp] theorem State.modCalQ_head (f : CalQ → CalQ) : (s.modCalQ k f).head = s.head := rfl
@[simp] theorem State.modCalQ_headAcc (f : CalQ → CalQ) : (s.modCalQ k f).headAcc = s.headAcc := rfl
@[simp] theorem State.modCalQ_stair (f : CalQ → CalQ) : (s.modCalQ k f).stair = s.stair := rfl
@[simp] theorem State.modCalQ_rs (f : CalQ → CalQ) : (s.modCalQ k f).rs = s.rs := rfl
@[simp] theorem State.modCalQ_tally (f : CalQ → CalQ) : (s.modCalQ k f).tally = s.tally := rfl
@[simp] theorem State.modCalQ_pulse (f : CalQ → CalQ) : (s.modCalQ k f).pulse = s.pulse := rfl
@[simp] theorem State.modCalQ_spec (f : CalQ → CalQ) : (s.modCalQ k f).spec = s.spec := rfl
@[simp] theorem State.modCalQ_ev (f : CalQ → CalQ) : (s.modCalQ k f).ev = s.ev := rfl
@[simp] theorem State.modCalQ_plan (f : CalQ → CalQ) : (s.modCalQ k f).plan = s.plan := rfl
@[simp] theorem State.modCalQ_red (f : CalQ → CalQ) : (s.modCalQ k f).red = s.red := rfl
@[simp] theorem State.modCalQ_lc (f : CalQ → CalQ) : (s.modCalQ k f).lc = s.lc := rfl
@[simp] theorem State.modCalQ_gal (f : CalQ → CalQ) : (s.modCalQ k f).gal = s.gal := rfl
@[simp] theorem State.modCalQ_mt (f : CalQ → CalQ) : (s.modCalQ k f).mt = s.mt := rfl
@[simp] theorem State.modCalQ_host (f : CalQ → CalQ) : (s.modCalQ k f).host = s.host := rfl
@[simp] theorem State.modCalQ_role (f : CalQ → CalQ) : (s.modCalQ k f).role = s.role := rfl
@[simp] theorem State.modCalQ_tmp (f : CalQ → CalQ) : (s.modCalQ k f).tmp = s.tmp := rfl
@[simp] theorem State.modCalQ_pwr (f : CalQ → CalQ) : (s.modCalQ k f).pwr = s.pwr := rfl
@[simp] theorem State.modCalQ_log (f : CalQ → CalQ) : (s.modCalQ k f).log = s.log := rfl
@[simp] theorem State.modCalQ_fresh (f : CalQ → CalQ) : (s.modCalQ k f).fresh = s.fresh := rfl
@[simp] theorem State.modCalQ_pending (f : CalQ → CalQ) : (s.modCalQ k f).pending = s.pending := rfl
theorem State.modCalQ_cal (f : CalQ → CalQ) :
    (s.modCalQ k f).cal = { s.cal with q := tset s.cal.q k (f (s.getCalQ k)) } := rfl
@[simp] theorem State.getCalQ_modCalQ (f : CalQ → CalQ) : (s.modCalQ k f).getCalQ k = f (s.getCalQ k) := tget_tset_same _ _ _ _
theorem State.getCalQ_modCalQ_ne (f : CalQ → CalQ) (h : j ≠ k) : (s.modCalQ k f).getCalQ j = s.getCalQ j :=
  tget_tset_ne _ _ _ _ _ h
/-- The other entries of the state after modCalQ. -/
@[simp] theorem State.gets_modCalQ (f : CalQ → CalQ) :
    (s.modCalQ k f).getPort j = s.getPort j ∧ (s.modCalQ k f).getRing j = s.getRing j ∧ (s.modCalQ k f).getHead j = s.getHead j ∧ (s.modCalQ k f).getHeadAcc j = s.getHeadAcc j ∧ (s.modCalQ k f).getEng j = s.getEng j ∧ (s.modCalQ k f).getStrm j = s.getStrm j ∧ (s.modCalQ k f).getWp j = s.getWp j ∧ (s.modCalQ k f).getGrp j = s.getGrp j ∧ (s.modCalQ k f).getCtx j = s.getCtx j ∧ (s.modCalQ k f).getUnit j = s.getUnit j ∧ (s.modCalQ k f).getOut j = s.getOut j ∧ (s.modCalQ k f).getInp j = s.getInp j ∧ (s.modCalQ k f).getSpBind j = s.getSpBind j ∧ (s.modCalQ k f).getSpGrp j = s.getSpGrp j ∧ (s.modCalQ k f).getSpEng j = s.getSpEng j ∧ (s.modCalQ k f).getLane j = s.getLane j ∧ (s.modCalQ k f).getEvc j = s.getEvc j ∧ (s.modCalQ k f).getRedHead j = s.getRedHead j ∧ (s.modCalQ k f).getRedNode j = s.getRedNode j ∧ (s.modCalQ k f).getGal j = s.getGal j ∧ (s.modCalQ k f).getRolePort j = s.getRolePort j ∧ (s.modCalQ k f).getHp j = s.getHp j ∧ (s.modCalQ k f).getMon j = s.getMon j ∧ (s.modCalQ k f).getLoop j = s.getLoop j ∧ (s.modCalQ k f).getLogSrc j = s.getLogSrc j ∧ (s.modCalQ k f).getLogPort j = s.getLogPort j ∧ (s.modCalQ k f).getInj j = s.getInj j := by
  and_intros <;> rfl

/-! ### modGal -/

@[simp] theorem State.modGal_glb (f : Gal → Gal) : (s.modGal k f).glb = s.glb := rfl
@[simp] theorem State.modGal_tb (f : Gal → Gal) : (s.modGal k f).tb = s.tb := rfl
@[simp] theorem State.modGal_port (f : Gal → Gal) : (s.modGal k f).port = s.port := rfl
@[simp] theorem State.modGal_ring (f : Gal → Gal) : (s.modGal k f).ring = s.ring := rfl
@[simp] theorem State.modGal_head (f : Gal → Gal) : (s.modGal k f).head = s.head := rfl
@[simp] theorem State.modGal_headAcc (f : Gal → Gal) : (s.modGal k f).headAcc = s.headAcc := rfl
@[simp] theorem State.modGal_stair (f : Gal → Gal) : (s.modGal k f).stair = s.stair := rfl
@[simp] theorem State.modGal_rs (f : Gal → Gal) : (s.modGal k f).rs = s.rs := rfl
@[simp] theorem State.modGal_tally (f : Gal → Gal) : (s.modGal k f).tally = s.tally := rfl
@[simp] theorem State.modGal_pulse (f : Gal → Gal) : (s.modGal k f).pulse = s.pulse := rfl
@[simp] theorem State.modGal_spec (f : Gal → Gal) : (s.modGal k f).spec = s.spec := rfl
@[simp] theorem State.modGal_ev (f : Gal → Gal) : (s.modGal k f).ev = s.ev := rfl
@[simp] theorem State.modGal_plan (f : Gal → Gal) : (s.modGal k f).plan = s.plan := rfl
@[simp] theorem State.modGal_red (f : Gal → Gal) : (s.modGal k f).red = s.red := rfl
@[simp] theorem State.modGal_lc (f : Gal → Gal) : (s.modGal k f).lc = s.lc := rfl
@[simp] theorem State.modGal_cal (f : Gal → Gal) : (s.modGal k f).cal = s.cal := rfl
@[simp] theorem State.modGal_mt (f : Gal → Gal) : (s.modGal k f).mt = s.mt := rfl
@[simp] theorem State.modGal_host (f : Gal → Gal) : (s.modGal k f).host = s.host := rfl
@[simp] theorem State.modGal_role (f : Gal → Gal) : (s.modGal k f).role = s.role := rfl
@[simp] theorem State.modGal_tmp (f : Gal → Gal) : (s.modGal k f).tmp = s.tmp := rfl
@[simp] theorem State.modGal_pwr (f : Gal → Gal) : (s.modGal k f).pwr = s.pwr := rfl
@[simp] theorem State.modGal_log (f : Gal → Gal) : (s.modGal k f).log = s.log := rfl
@[simp] theorem State.modGal_fresh (f : Gal → Gal) : (s.modGal k f).fresh = s.fresh := rfl
@[simp] theorem State.modGal_pending (f : Gal → Gal) : (s.modGal k f).pending = s.pending := rfl
theorem State.modGal_gal (f : Gal → Gal) :
    (s.modGal k f).gal = tset s.gal k (f (s.getGal k)) := rfl
@[simp] theorem State.getGal_modGal (f : Gal → Gal) : (s.modGal k f).getGal k = f (s.getGal k) := tget_tset_same _ _ _ _
theorem State.getGal_modGal_ne (f : Gal → Gal) (h : j ≠ k) : (s.modGal k f).getGal j = s.getGal j :=
  tget_tset_ne _ _ _ _ _ h
/-- The other entries of the state after modGal. -/
@[simp] theorem State.gets_modGal (f : Gal → Gal) :
    (s.modGal k f).getPort j = s.getPort j ∧ (s.modGal k f).getRing j = s.getRing j ∧ (s.modGal k f).getHead j = s.getHead j ∧ (s.modGal k f).getHeadAcc j = s.getHeadAcc j ∧ (s.modGal k f).getEng j = s.getEng j ∧ (s.modGal k f).getStrm j = s.getStrm j ∧ (s.modGal k f).getWp j = s.getWp j ∧ (s.modGal k f).getGrp j = s.getGrp j ∧ (s.modGal k f).getCtx j = s.getCtx j ∧ (s.modGal k f).getUnit j = s.getUnit j ∧ (s.modGal k f).getOut j = s.getOut j ∧ (s.modGal k f).getInp j = s.getInp j ∧ (s.modGal k f).getSpBind j = s.getSpBind j ∧ (s.modGal k f).getSpGrp j = s.getSpGrp j ∧ (s.modGal k f).getSpEng j = s.getSpEng j ∧ (s.modGal k f).getLane j = s.getLane j ∧ (s.modGal k f).getEvc j = s.getEvc j ∧ (s.modGal k f).getRedHead j = s.getRedHead j ∧ (s.modGal k f).getRedNode j = s.getRedNode j ∧ (s.modGal k f).getCalQ j = s.getCalQ j ∧ (s.modGal k f).getRolePort j = s.getRolePort j ∧ (s.modGal k f).getHp j = s.getHp j ∧ (s.modGal k f).getMon j = s.getMon j ∧ (s.modGal k f).getLoop j = s.getLoop j ∧ (s.modGal k f).getLogSrc j = s.getLogSrc j ∧ (s.modGal k f).getLogPort j = s.getLogPort j ∧ (s.modGal k f).getInj j = s.getInj j := by
  and_intros <;> rfl

/-! ### modRolePort -/

@[simp] theorem State.modRolePort_glb (f : RolePort → RolePort) : (s.modRolePort k f).glb = s.glb := rfl
@[simp] theorem State.modRolePort_tb (f : RolePort → RolePort) : (s.modRolePort k f).tb = s.tb := rfl
@[simp] theorem State.modRolePort_port (f : RolePort → RolePort) : (s.modRolePort k f).port = s.port := rfl
@[simp] theorem State.modRolePort_ring (f : RolePort → RolePort) : (s.modRolePort k f).ring = s.ring := rfl
@[simp] theorem State.modRolePort_head (f : RolePort → RolePort) : (s.modRolePort k f).head = s.head := rfl
@[simp] theorem State.modRolePort_headAcc (f : RolePort → RolePort) : (s.modRolePort k f).headAcc = s.headAcc := rfl
@[simp] theorem State.modRolePort_stair (f : RolePort → RolePort) : (s.modRolePort k f).stair = s.stair := rfl
@[simp] theorem State.modRolePort_rs (f : RolePort → RolePort) : (s.modRolePort k f).rs = s.rs := rfl
@[simp] theorem State.modRolePort_tally (f : RolePort → RolePort) : (s.modRolePort k f).tally = s.tally := rfl
@[simp] theorem State.modRolePort_pulse (f : RolePort → RolePort) : (s.modRolePort k f).pulse = s.pulse := rfl
@[simp] theorem State.modRolePort_spec (f : RolePort → RolePort) : (s.modRolePort k f).spec = s.spec := rfl
@[simp] theorem State.modRolePort_ev (f : RolePort → RolePort) : (s.modRolePort k f).ev = s.ev := rfl
@[simp] theorem State.modRolePort_plan (f : RolePort → RolePort) : (s.modRolePort k f).plan = s.plan := rfl
@[simp] theorem State.modRolePort_red (f : RolePort → RolePort) : (s.modRolePort k f).red = s.red := rfl
@[simp] theorem State.modRolePort_lc (f : RolePort → RolePort) : (s.modRolePort k f).lc = s.lc := rfl
@[simp] theorem State.modRolePort_cal (f : RolePort → RolePort) : (s.modRolePort k f).cal = s.cal := rfl
@[simp] theorem State.modRolePort_gal (f : RolePort → RolePort) : (s.modRolePort k f).gal = s.gal := rfl
@[simp] theorem State.modRolePort_mt (f : RolePort → RolePort) : (s.modRolePort k f).mt = s.mt := rfl
@[simp] theorem State.modRolePort_host (f : RolePort → RolePort) : (s.modRolePort k f).host = s.host := rfl
@[simp] theorem State.modRolePort_tmp (f : RolePort → RolePort) : (s.modRolePort k f).tmp = s.tmp := rfl
@[simp] theorem State.modRolePort_pwr (f : RolePort → RolePort) : (s.modRolePort k f).pwr = s.pwr := rfl
@[simp] theorem State.modRolePort_log (f : RolePort → RolePort) : (s.modRolePort k f).log = s.log := rfl
@[simp] theorem State.modRolePort_fresh (f : RolePort → RolePort) : (s.modRolePort k f).fresh = s.fresh := rfl
@[simp] theorem State.modRolePort_pending (f : RolePort → RolePort) : (s.modRolePort k f).pending = s.pending := rfl
theorem State.modRolePort_role (f : RolePort → RolePort) :
    (s.modRolePort k f).role = { s.role with port := tset s.role.port k (f (s.getRolePort k)) } := rfl
@[simp] theorem State.getRolePort_modRolePort (f : RolePort → RolePort) : (s.modRolePort k f).getRolePort k = f (s.getRolePort k) := tget_tset_same _ _ _ _
theorem State.getRolePort_modRolePort_ne (f : RolePort → RolePort) (h : j ≠ k) : (s.modRolePort k f).getRolePort j = s.getRolePort j :=
  tget_tset_ne _ _ _ _ _ h
/-- The other entries of the state after modRolePort. -/
@[simp] theorem State.gets_modRolePort (f : RolePort → RolePort) :
    (s.modRolePort k f).getPort j = s.getPort j ∧ (s.modRolePort k f).getRing j = s.getRing j ∧ (s.modRolePort k f).getHead j = s.getHead j ∧ (s.modRolePort k f).getHeadAcc j = s.getHeadAcc j ∧ (s.modRolePort k f).getEng j = s.getEng j ∧ (s.modRolePort k f).getStrm j = s.getStrm j ∧ (s.modRolePort k f).getWp j = s.getWp j ∧ (s.modRolePort k f).getGrp j = s.getGrp j ∧ (s.modRolePort k f).getCtx j = s.getCtx j ∧ (s.modRolePort k f).getUnit j = s.getUnit j ∧ (s.modRolePort k f).getOut j = s.getOut j ∧ (s.modRolePort k f).getInp j = s.getInp j ∧ (s.modRolePort k f).getSpBind j = s.getSpBind j ∧ (s.modRolePort k f).getSpGrp j = s.getSpGrp j ∧ (s.modRolePort k f).getSpEng j = s.getSpEng j ∧ (s.modRolePort k f).getLane j = s.getLane j ∧ (s.modRolePort k f).getEvc j = s.getEvc j ∧ (s.modRolePort k f).getRedHead j = s.getRedHead j ∧ (s.modRolePort k f).getRedNode j = s.getRedNode j ∧ (s.modRolePort k f).getCalQ j = s.getCalQ j ∧ (s.modRolePort k f).getGal j = s.getGal j ∧ (s.modRolePort k f).getHp j = s.getHp j ∧ (s.modRolePort k f).getMon j = s.getMon j ∧ (s.modRolePort k f).getLoop j = s.getLoop j ∧ (s.modRolePort k f).getLogSrc j = s.getLogSrc j ∧ (s.modRolePort k f).getLogPort j = s.getLogPort j ∧ (s.modRolePort k f).getInj j = s.getInj j := by
  and_intros <;> rfl

/-! ### modHp -/

@[simp] theorem State.modHp_glb (f : Hp → Hp) : (s.modHp k f).glb = s.glb := rfl
@[simp] theorem State.modHp_tb (f : Hp → Hp) : (s.modHp k f).tb = s.tb := rfl
@[simp] theorem State.modHp_port (f : Hp → Hp) : (s.modHp k f).port = s.port := rfl
@[simp] theorem State.modHp_ring (f : Hp → Hp) : (s.modHp k f).ring = s.ring := rfl
@[simp] theorem State.modHp_head (f : Hp → Hp) : (s.modHp k f).head = s.head := rfl
@[simp] theorem State.modHp_headAcc (f : Hp → Hp) : (s.modHp k f).headAcc = s.headAcc := rfl
@[simp] theorem State.modHp_stair (f : Hp → Hp) : (s.modHp k f).stair = s.stair := rfl
@[simp] theorem State.modHp_rs (f : Hp → Hp) : (s.modHp k f).rs = s.rs := rfl
@[simp] theorem State.modHp_tally (f : Hp → Hp) : (s.modHp k f).tally = s.tally := rfl
@[simp] theorem State.modHp_pulse (f : Hp → Hp) : (s.modHp k f).pulse = s.pulse := rfl
@[simp] theorem State.modHp_spec (f : Hp → Hp) : (s.modHp k f).spec = s.spec := rfl
@[simp] theorem State.modHp_ev (f : Hp → Hp) : (s.modHp k f).ev = s.ev := rfl
@[simp] theorem State.modHp_plan (f : Hp → Hp) : (s.modHp k f).plan = s.plan := rfl
@[simp] theorem State.modHp_red (f : Hp → Hp) : (s.modHp k f).red = s.red := rfl
@[simp] theorem State.modHp_lc (f : Hp → Hp) : (s.modHp k f).lc = s.lc := rfl
@[simp] theorem State.modHp_cal (f : Hp → Hp) : (s.modHp k f).cal = s.cal := rfl
@[simp] theorem State.modHp_gal (f : Hp → Hp) : (s.modHp k f).gal = s.gal := rfl
@[simp] theorem State.modHp_mt (f : Hp → Hp) : (s.modHp k f).mt = s.mt := rfl
@[simp] theorem State.modHp_role (f : Hp → Hp) : (s.modHp k f).role = s.role := rfl
@[simp] theorem State.modHp_tmp (f : Hp → Hp) : (s.modHp k f).tmp = s.tmp := rfl
@[simp] theorem State.modHp_pwr (f : Hp → Hp) : (s.modHp k f).pwr = s.pwr := rfl
@[simp] theorem State.modHp_log (f : Hp → Hp) : (s.modHp k f).log = s.log := rfl
@[simp] theorem State.modHp_fresh (f : Hp → Hp) : (s.modHp k f).fresh = s.fresh := rfl
@[simp] theorem State.modHp_pending (f : Hp → Hp) : (s.modHp k f).pending = s.pending := rfl
theorem State.modHp_host (f : Hp → Hp) :
    (s.modHp k f).host = { s.host with hp := tset s.host.hp k (f (s.getHp k)) } := rfl
@[simp] theorem State.getHp_modHp (f : Hp → Hp) : (s.modHp k f).getHp k = f (s.getHp k) := tget_tset_same _ _ _ _
theorem State.getHp_modHp_ne (f : Hp → Hp) (h : j ≠ k) : (s.modHp k f).getHp j = s.getHp j :=
  tget_tset_ne _ _ _ _ _ h
/-- The other entries of the state after modHp. -/
@[simp] theorem State.gets_modHp (f : Hp → Hp) :
    (s.modHp k f).getPort j = s.getPort j ∧ (s.modHp k f).getRing j = s.getRing j ∧ (s.modHp k f).getHead j = s.getHead j ∧ (s.modHp k f).getHeadAcc j = s.getHeadAcc j ∧ (s.modHp k f).getEng j = s.getEng j ∧ (s.modHp k f).getStrm j = s.getStrm j ∧ (s.modHp k f).getWp j = s.getWp j ∧ (s.modHp k f).getGrp j = s.getGrp j ∧ (s.modHp k f).getCtx j = s.getCtx j ∧ (s.modHp k f).getUnit j = s.getUnit j ∧ (s.modHp k f).getOut j = s.getOut j ∧ (s.modHp k f).getInp j = s.getInp j ∧ (s.modHp k f).getSpBind j = s.getSpBind j ∧ (s.modHp k f).getSpGrp j = s.getSpGrp j ∧ (s.modHp k f).getSpEng j = s.getSpEng j ∧ (s.modHp k f).getLane j = s.getLane j ∧ (s.modHp k f).getEvc j = s.getEvc j ∧ (s.modHp k f).getRedHead j = s.getRedHead j ∧ (s.modHp k f).getRedNode j = s.getRedNode j ∧ (s.modHp k f).getCalQ j = s.getCalQ j ∧ (s.modHp k f).getGal j = s.getGal j ∧ (s.modHp k f).getRolePort j = s.getRolePort j ∧ (s.modHp k f).getMon j = s.getMon j ∧ (s.modHp k f).getLoop j = s.getLoop j ∧ (s.modHp k f).getLogSrc j = s.getLogSrc j ∧ (s.modHp k f).getLogPort j = s.getLogPort j ∧ (s.modHp k f).getInj j = s.getInj j := by
  and_intros <;> rfl

/-! ### modMon -/

@[simp] theorem State.modMon_glb (f : Mon → Mon) : (s.modMon k f).glb = s.glb := rfl
@[simp] theorem State.modMon_tb (f : Mon → Mon) : (s.modMon k f).tb = s.tb := rfl
@[simp] theorem State.modMon_port (f : Mon → Mon) : (s.modMon k f).port = s.port := rfl
@[simp] theorem State.modMon_ring (f : Mon → Mon) : (s.modMon k f).ring = s.ring := rfl
@[simp] theorem State.modMon_head (f : Mon → Mon) : (s.modMon k f).head = s.head := rfl
@[simp] theorem State.modMon_headAcc (f : Mon → Mon) : (s.modMon k f).headAcc = s.headAcc := rfl
@[simp] theorem State.modMon_stair (f : Mon → Mon) : (s.modMon k f).stair = s.stair := rfl
@[simp] theorem State.modMon_rs (f : Mon → Mon) : (s.modMon k f).rs = s.rs := rfl
@[simp] theorem State.modMon_tally (f : Mon → Mon) : (s.modMon k f).tally = s.tally := rfl
@[simp] theorem State.modMon_pulse (f : Mon → Mon) : (s.modMon k f).pulse = s.pulse := rfl
@[simp] theorem State.modMon_spec (f : Mon → Mon) : (s.modMon k f).spec = s.spec := rfl
@[simp] theorem State.modMon_ev (f : Mon → Mon) : (s.modMon k f).ev = s.ev := rfl
@[simp] theorem State.modMon_plan (f : Mon → Mon) : (s.modMon k f).plan = s.plan := rfl
@[simp] theorem State.modMon_red (f : Mon → Mon) : (s.modMon k f).red = s.red := rfl
@[simp] theorem State.modMon_lc (f : Mon → Mon) : (s.modMon k f).lc = s.lc := rfl
@[simp] theorem State.modMon_cal (f : Mon → Mon) : (s.modMon k f).cal = s.cal := rfl
@[simp] theorem State.modMon_gal (f : Mon → Mon) : (s.modMon k f).gal = s.gal := rfl
@[simp] theorem State.modMon_mt (f : Mon → Mon) : (s.modMon k f).mt = s.mt := rfl
@[simp] theorem State.modMon_host (f : Mon → Mon) : (s.modMon k f).host = s.host := rfl
@[simp] theorem State.modMon_role (f : Mon → Mon) : (s.modMon k f).role = s.role := rfl
@[simp] theorem State.modMon_pwr (f : Mon → Mon) : (s.modMon k f).pwr = s.pwr := rfl
@[simp] theorem State.modMon_log (f : Mon → Mon) : (s.modMon k f).log = s.log := rfl
@[simp] theorem State.modMon_fresh (f : Mon → Mon) : (s.modMon k f).fresh = s.fresh := rfl
@[simp] theorem State.modMon_pending (f : Mon → Mon) : (s.modMon k f).pending = s.pending := rfl
theorem State.modMon_tmp (f : Mon → Mon) :
    (s.modMon k f).tmp = { s.tmp with mon := tset s.tmp.mon k (f (s.getMon k)) } := rfl
@[simp] theorem State.getMon_modMon (f : Mon → Mon) : (s.modMon k f).getMon k = f (s.getMon k) := tget_tset_same _ _ _ _
theorem State.getMon_modMon_ne (f : Mon → Mon) (h : j ≠ k) : (s.modMon k f).getMon j = s.getMon j :=
  tget_tset_ne _ _ _ _ _ h
/-- The other entries of the state after modMon. -/
@[simp] theorem State.gets_modMon (f : Mon → Mon) :
    (s.modMon k f).getPort j = s.getPort j ∧ (s.modMon k f).getRing j = s.getRing j ∧ (s.modMon k f).getHead j = s.getHead j ∧ (s.modMon k f).getHeadAcc j = s.getHeadAcc j ∧ (s.modMon k f).getEng j = s.getEng j ∧ (s.modMon k f).getStrm j = s.getStrm j ∧ (s.modMon k f).getWp j = s.getWp j ∧ (s.modMon k f).getGrp j = s.getGrp j ∧ (s.modMon k f).getCtx j = s.getCtx j ∧ (s.modMon k f).getUnit j = s.getUnit j ∧ (s.modMon k f).getOut j = s.getOut j ∧ (s.modMon k f).getInp j = s.getInp j ∧ (s.modMon k f).getSpBind j = s.getSpBind j ∧ (s.modMon k f).getSpGrp j = s.getSpGrp j ∧ (s.modMon k f).getSpEng j = s.getSpEng j ∧ (s.modMon k f).getLane j = s.getLane j ∧ (s.modMon k f).getEvc j = s.getEvc j ∧ (s.modMon k f).getRedHead j = s.getRedHead j ∧ (s.modMon k f).getRedNode j = s.getRedNode j ∧ (s.modMon k f).getCalQ j = s.getCalQ j ∧ (s.modMon k f).getGal j = s.getGal j ∧ (s.modMon k f).getRolePort j = s.getRolePort j ∧ (s.modMon k f).getHp j = s.getHp j ∧ (s.modMon k f).getLoop j = s.getLoop j ∧ (s.modMon k f).getLogSrc j = s.getLogSrc j ∧ (s.modMon k f).getLogPort j = s.getLogPort j ∧ (s.modMon k f).getInj j = s.getInj j := by
  and_intros <;> rfl

/-! ### modLoop -/

@[simp] theorem State.modLoop_glb (f : Loop → Loop) : (s.modLoop k f).glb = s.glb := rfl
@[simp] theorem State.modLoop_tb (f : Loop → Loop) : (s.modLoop k f).tb = s.tb := rfl
@[simp] theorem State.modLoop_port (f : Loop → Loop) : (s.modLoop k f).port = s.port := rfl
@[simp] theorem State.modLoop_ring (f : Loop → Loop) : (s.modLoop k f).ring = s.ring := rfl
@[simp] theorem State.modLoop_head (f : Loop → Loop) : (s.modLoop k f).head = s.head := rfl
@[simp] theorem State.modLoop_headAcc (f : Loop → Loop) : (s.modLoop k f).headAcc = s.headAcc := rfl
@[simp] theorem State.modLoop_stair (f : Loop → Loop) : (s.modLoop k f).stair = s.stair := rfl
@[simp] theorem State.modLoop_rs (f : Loop → Loop) : (s.modLoop k f).rs = s.rs := rfl
@[simp] theorem State.modLoop_tally (f : Loop → Loop) : (s.modLoop k f).tally = s.tally := rfl
@[simp] theorem State.modLoop_pulse (f : Loop → Loop) : (s.modLoop k f).pulse = s.pulse := rfl
@[simp] theorem State.modLoop_spec (f : Loop → Loop) : (s.modLoop k f).spec = s.spec := rfl
@[simp] theorem State.modLoop_ev (f : Loop → Loop) : (s.modLoop k f).ev = s.ev := rfl
@[simp] theorem State.modLoop_plan (f : Loop → Loop) : (s.modLoop k f).plan = s.plan := rfl
@[simp] theorem State.modLoop_red (f : Loop → Loop) : (s.modLoop k f).red = s.red := rfl
@[simp] theorem State.modLoop_lc (f : Loop → Loop) : (s.modLoop k f).lc = s.lc := rfl
@[simp] theorem State.modLoop_cal (f : Loop → Loop) : (s.modLoop k f).cal = s.cal := rfl
@[simp] theorem State.modLoop_gal (f : Loop → Loop) : (s.modLoop k f).gal = s.gal := rfl
@[simp] theorem State.modLoop_mt (f : Loop → Loop) : (s.modLoop k f).mt = s.mt := rfl
@[simp] theorem State.modLoop_host (f : Loop → Loop) : (s.modLoop k f).host = s.host := rfl
@[simp] theorem State.modLoop_role (f : Loop → Loop) : (s.modLoop k f).role = s.role := rfl
@[simp] theorem State.modLoop_pwr (f : Loop → Loop) : (s.modLoop k f).pwr = s.pwr := rfl
@[simp] theorem State.modLoop_log (f : Loop → Loop) : (s.modLoop k f).log = s.log := rfl
@[simp] theorem State.modLoop_fresh (f : Loop → Loop) : (s.modLoop k f).fresh = s.fresh := rfl
@[simp] theorem State.modLoop_pending (f : Loop → Loop) : (s.modLoop k f).pending = s.pending := rfl
theorem State.modLoop_tmp (f : Loop → Loop) :
    (s.modLoop k f).tmp = { s.tmp with loop := tset s.tmp.loop k (f (s.getLoop k)) } := rfl
@[simp] theorem State.getLoop_modLoop (f : Loop → Loop) : (s.modLoop k f).getLoop k = f (s.getLoop k) := tget_tset_same _ _ _ _
theorem State.getLoop_modLoop_ne (f : Loop → Loop) (h : j ≠ k) : (s.modLoop k f).getLoop j = s.getLoop j :=
  tget_tset_ne _ _ _ _ _ h
/-- The other entries of the state after modLoop. -/
@[simp] theorem State.gets_modLoop (f : Loop → Loop) :
    (s.modLoop k f).getPort j = s.getPort j ∧ (s.modLoop k f).getRing j = s.getRing j ∧ (s.modLoop k f).getHead j = s.getHead j ∧ (s.modLoop k f).getHeadAcc j = s.getHeadAcc j ∧ (s.modLoop k f).getEng j = s.getEng j ∧ (s.modLoop k f).getStrm j = s.getStrm j ∧ (s.modLoop k f).getWp j = s.getWp j ∧ (s.modLoop k f).getGrp j = s.getGrp j ∧ (s.modLoop k f).getCtx j = s.getCtx j ∧ (s.modLoop k f).getUnit j = s.getUnit j ∧ (s.modLoop k f).getOut j = s.getOut j ∧ (s.modLoop k f).getInp j = s.getInp j ∧ (s.modLoop k f).getSpBind j = s.getSpBind j ∧ (s.modLoop k f).getSpGrp j = s.getSpGrp j ∧ (s.modLoop k f).getSpEng j = s.getSpEng j ∧ (s.modLoop k f).getLane j = s.getLane j ∧ (s.modLoop k f).getEvc j = s.getEvc j ∧ (s.modLoop k f).getRedHead j = s.getRedHead j ∧ (s.modLoop k f).getRedNode j = s.getRedNode j ∧ (s.modLoop k f).getCalQ j = s.getCalQ j ∧ (s.modLoop k f).getGal j = s.getGal j ∧ (s.modLoop k f).getRolePort j = s.getRolePort j ∧ (s.modLoop k f).getHp j = s.getHp j ∧ (s.modLoop k f).getMon j = s.getMon j ∧ (s.modLoop k f).getLogSrc j = s.getLogSrc j ∧ (s.modLoop k f).getLogPort j = s.getLogPort j ∧ (s.modLoop k f).getInj j = s.getInj j := by
  and_intros <;> rfl

/-! ### modLogSrc -/

@[simp] theorem State.modLogSrc_glb (f : LogSrc → LogSrc) : (s.modLogSrc k f).glb = s.glb := rfl
@[simp] theorem State.modLogSrc_tb (f : LogSrc → LogSrc) : (s.modLogSrc k f).tb = s.tb := rfl
@[simp] theorem State.modLogSrc_port (f : LogSrc → LogSrc) : (s.modLogSrc k f).port = s.port := rfl
@[simp] theorem State.modLogSrc_ring (f : LogSrc → LogSrc) : (s.modLogSrc k f).ring = s.ring := rfl
@[simp] theorem State.modLogSrc_head (f : LogSrc → LogSrc) : (s.modLogSrc k f).head = s.head := rfl
@[simp] theorem State.modLogSrc_headAcc (f : LogSrc → LogSrc) : (s.modLogSrc k f).headAcc = s.headAcc := rfl
@[simp] theorem State.modLogSrc_stair (f : LogSrc → LogSrc) : (s.modLogSrc k f).stair = s.stair := rfl
@[simp] theorem State.modLogSrc_rs (f : LogSrc → LogSrc) : (s.modLogSrc k f).rs = s.rs := rfl
@[simp] theorem State.modLogSrc_tally (f : LogSrc → LogSrc) : (s.modLogSrc k f).tally = s.tally := rfl
@[simp] theorem State.modLogSrc_pulse (f : LogSrc → LogSrc) : (s.modLogSrc k f).pulse = s.pulse := rfl
@[simp] theorem State.modLogSrc_spec (f : LogSrc → LogSrc) : (s.modLogSrc k f).spec = s.spec := rfl
@[simp] theorem State.modLogSrc_ev (f : LogSrc → LogSrc) : (s.modLogSrc k f).ev = s.ev := rfl
@[simp] theorem State.modLogSrc_plan (f : LogSrc → LogSrc) : (s.modLogSrc k f).plan = s.plan := rfl
@[simp] theorem State.modLogSrc_red (f : LogSrc → LogSrc) : (s.modLogSrc k f).red = s.red := rfl
@[simp] theorem State.modLogSrc_lc (f : LogSrc → LogSrc) : (s.modLogSrc k f).lc = s.lc := rfl
@[simp] theorem State.modLogSrc_cal (f : LogSrc → LogSrc) : (s.modLogSrc k f).cal = s.cal := rfl
@[simp] theorem State.modLogSrc_gal (f : LogSrc → LogSrc) : (s.modLogSrc k f).gal = s.gal := rfl
@[simp] theorem State.modLogSrc_mt (f : LogSrc → LogSrc) : (s.modLogSrc k f).mt = s.mt := rfl
@[simp] theorem State.modLogSrc_host (f : LogSrc → LogSrc) : (s.modLogSrc k f).host = s.host := rfl
@[simp] theorem State.modLogSrc_role (f : LogSrc → LogSrc) : (s.modLogSrc k f).role = s.role := rfl
@[simp] theorem State.modLogSrc_tmp (f : LogSrc → LogSrc) : (s.modLogSrc k f).tmp = s.tmp := rfl
@[simp] theorem State.modLogSrc_pwr (f : LogSrc → LogSrc) : (s.modLogSrc k f).pwr = s.pwr := rfl
@[simp] theorem State.modLogSrc_fresh (f : LogSrc → LogSrc) : (s.modLogSrc k f).fresh = s.fresh := rfl
@[simp] theorem State.modLogSrc_pending (f : LogSrc → LogSrc) : (s.modLogSrc k f).pending = s.pending := rfl
theorem State.modLogSrc_log (f : LogSrc → LogSrc) :
    (s.modLogSrc k f).log = { s.log with src := tset s.log.src k (f (s.getLogSrc k)) } := rfl
@[simp] theorem State.getLogSrc_modLogSrc (f : LogSrc → LogSrc) : (s.modLogSrc k f).getLogSrc k = f (s.getLogSrc k) := tget_tset_same _ _ _ _
theorem State.getLogSrc_modLogSrc_ne (f : LogSrc → LogSrc) (h : j ≠ k) : (s.modLogSrc k f).getLogSrc j = s.getLogSrc j :=
  tget_tset_ne _ _ _ _ _ h
/-- The other entries of the state after modLogSrc. -/
@[simp] theorem State.gets_modLogSrc (f : LogSrc → LogSrc) :
    (s.modLogSrc k f).getPort j = s.getPort j ∧ (s.modLogSrc k f).getRing j = s.getRing j ∧ (s.modLogSrc k f).getHead j = s.getHead j ∧ (s.modLogSrc k f).getHeadAcc j = s.getHeadAcc j ∧ (s.modLogSrc k f).getEng j = s.getEng j ∧ (s.modLogSrc k f).getStrm j = s.getStrm j ∧ (s.modLogSrc k f).getWp j = s.getWp j ∧ (s.modLogSrc k f).getGrp j = s.getGrp j ∧ (s.modLogSrc k f).getCtx j = s.getCtx j ∧ (s.modLogSrc k f).getUnit j = s.getUnit j ∧ (s.modLogSrc k f).getOut j = s.getOut j ∧ (s.modLogSrc k f).getInp j = s.getInp j ∧ (s.modLogSrc k f).getSpBind j = s.getSpBind j ∧ (s.modLogSrc k f).getSpGrp j = s.getSpGrp j ∧ (s.modLogSrc k f).getSpEng j = s.getSpEng j ∧ (s.modLogSrc k f).getLane j = s.getLane j ∧ (s.modLogSrc k f).getEvc j = s.getEvc j ∧ (s.modLogSrc k f).getRedHead j = s.getRedHead j ∧ (s.modLogSrc k f).getRedNode j = s.getRedNode j ∧ (s.modLogSrc k f).getCalQ j = s.getCalQ j ∧ (s.modLogSrc k f).getGal j = s.getGal j ∧ (s.modLogSrc k f).getRolePort j = s.getRolePort j ∧ (s.modLogSrc k f).getHp j = s.getHp j ∧ (s.modLogSrc k f).getMon j = s.getMon j ∧ (s.modLogSrc k f).getLoop j = s.getLoop j ∧ (s.modLogSrc k f).getLogPort j = s.getLogPort j ∧ (s.modLogSrc k f).getInj j = s.getInj j := by
  and_intros <;> rfl

/-! ### modLogPort -/

@[simp] theorem State.modLogPort_glb (f : LogPort → LogPort) : (s.modLogPort k f).glb = s.glb := rfl
@[simp] theorem State.modLogPort_tb (f : LogPort → LogPort) : (s.modLogPort k f).tb = s.tb := rfl
@[simp] theorem State.modLogPort_port (f : LogPort → LogPort) : (s.modLogPort k f).port = s.port := rfl
@[simp] theorem State.modLogPort_ring (f : LogPort → LogPort) : (s.modLogPort k f).ring = s.ring := rfl
@[simp] theorem State.modLogPort_head (f : LogPort → LogPort) : (s.modLogPort k f).head = s.head := rfl
@[simp] theorem State.modLogPort_headAcc (f : LogPort → LogPort) : (s.modLogPort k f).headAcc = s.headAcc := rfl
@[simp] theorem State.modLogPort_stair (f : LogPort → LogPort) : (s.modLogPort k f).stair = s.stair := rfl
@[simp] theorem State.modLogPort_rs (f : LogPort → LogPort) : (s.modLogPort k f).rs = s.rs := rfl
@[simp] theorem State.modLogPort_tally (f : LogPort → LogPort) : (s.modLogPort k f).tally = s.tally := rfl
@[simp] theorem State.modLogPort_pulse (f : LogPort → LogPort) : (s.modLogPort k f).pulse = s.pulse := rfl
@[simp] theorem State.modLogPort_spec (f : LogPort → LogPort) : (s.modLogPort k f).spec = s.spec := rfl
@[simp] theorem State.modLogPort_ev (f : LogPort → LogPort) : (s.modLogPort k f).ev = s.ev := rfl
@[simp] theorem State.modLogPort_plan (f : LogPort → LogPort) : (s.modLogPort k f).plan = s.plan := rfl
@[simp] theorem State.modLogPort_red (f : LogPort → LogPort) : (s.modLogPort k f).red = s.red := rfl
@[simp] theorem State.modLogPort_lc (f : LogPort → LogPort) : (s.modLogPort k f).lc = s.lc := rfl
@[simp] theorem State.modLogPort_cal (f : LogPort → LogPort) : (s.modLogPort k f).cal = s.cal := rfl
@[simp] theorem State.modLogPort_gal (f : LogPort → LogPort) : (s.modLogPort k f).gal = s.gal := rfl
@[simp] theorem State.modLogPort_mt (f : LogPort → LogPort) : (s.modLogPort k f).mt = s.mt := rfl
@[simp] theorem State.modLogPort_host (f : LogPort → LogPort) : (s.modLogPort k f).host = s.host := rfl
@[simp] theorem State.modLogPort_role (f : LogPort → LogPort) : (s.modLogPort k f).role = s.role := rfl
@[simp] theorem State.modLogPort_tmp (f : LogPort → LogPort) : (s.modLogPort k f).tmp = s.tmp := rfl
@[simp] theorem State.modLogPort_pwr (f : LogPort → LogPort) : (s.modLogPort k f).pwr = s.pwr := rfl
@[simp] theorem State.modLogPort_fresh (f : LogPort → LogPort) : (s.modLogPort k f).fresh = s.fresh := rfl
@[simp] theorem State.modLogPort_pending (f : LogPort → LogPort) : (s.modLogPort k f).pending = s.pending := rfl
theorem State.modLogPort_log (f : LogPort → LogPort) :
    (s.modLogPort k f).log = { s.log with port := tset s.log.port k (f (s.getLogPort k)) } := rfl
@[simp] theorem State.getLogPort_modLogPort (f : LogPort → LogPort) : (s.modLogPort k f).getLogPort k = f (s.getLogPort k) := tget_tset_same _ _ _ _
theorem State.getLogPort_modLogPort_ne (f : LogPort → LogPort) (h : j ≠ k) : (s.modLogPort k f).getLogPort j = s.getLogPort j :=
  tget_tset_ne _ _ _ _ _ h
/-- The other entries of the state after modLogPort. -/
@[simp] theorem State.gets_modLogPort (f : LogPort → LogPort) :
    (s.modLogPort k f).getPort j = s.getPort j ∧ (s.modLogPort k f).getRing j = s.getRing j ∧ (s.modLogPort k f).getHead j = s.getHead j ∧ (s.modLogPort k f).getHeadAcc j = s.getHeadAcc j ∧ (s.modLogPort k f).getEng j = s.getEng j ∧ (s.modLogPort k f).getStrm j = s.getStrm j ∧ (s.modLogPort k f).getWp j = s.getWp j ∧ (s.modLogPort k f).getGrp j = s.getGrp j ∧ (s.modLogPort k f).getCtx j = s.getCtx j ∧ (s.modLogPort k f).getUnit j = s.getUnit j ∧ (s.modLogPort k f).getOut j = s.getOut j ∧ (s.modLogPort k f).getInp j = s.getInp j ∧ (s.modLogPort k f).getSpBind j = s.getSpBind j ∧ (s.modLogPort k f).getSpGrp j = s.getSpGrp j ∧ (s.modLogPort k f).getSpEng j = s.getSpEng j ∧ (s.modLogPort k f).getLane j = s.getLane j ∧ (s.modLogPort k f).getEvc j = s.getEvc j ∧ (s.modLogPort k f).getRedHead j = s.getRedHead j ∧ (s.modLogPort k f).getRedNode j = s.getRedNode j ∧ (s.modLogPort k f).getCalQ j = s.getCalQ j ∧ (s.modLogPort k f).getGal j = s.getGal j ∧ (s.modLogPort k f).getRolePort j = s.getRolePort j ∧ (s.modLogPort k f).getHp j = s.getHp j ∧ (s.modLogPort k f).getMon j = s.getMon j ∧ (s.modLogPort k f).getLoop j = s.getLoop j ∧ (s.modLogPort k f).getLogSrc j = s.getLogSrc j ∧ (s.modLogPort k f).getInj j = s.getInj j := by
  and_intros <;> rfl

/-! ### modInj -/

@[simp] theorem State.modInj_glb (f : LcInj → LcInj) : (s.modInj k f).glb = s.glb := rfl
@[simp] theorem State.modInj_tb (f : LcInj → LcInj) : (s.modInj k f).tb = s.tb := rfl
@[simp] theorem State.modInj_port (f : LcInj → LcInj) : (s.modInj k f).port = s.port := rfl
@[simp] theorem State.modInj_ring (f : LcInj → LcInj) : (s.modInj k f).ring = s.ring := rfl
@[simp] theorem State.modInj_head (f : LcInj → LcInj) : (s.modInj k f).head = s.head := rfl
@[simp] theorem State.modInj_headAcc (f : LcInj → LcInj) : (s.modInj k f).headAcc = s.headAcc := rfl
@[simp] theorem State.modInj_stair (f : LcInj → LcInj) : (s.modInj k f).stair = s.stair := rfl
@[simp] theorem State.modInj_rs (f : LcInj → LcInj) : (s.modInj k f).rs = s.rs := rfl
@[simp] theorem State.modInj_tally (f : LcInj → LcInj) : (s.modInj k f).tally = s.tally := rfl
@[simp] theorem State.modInj_pulse (f : LcInj → LcInj) : (s.modInj k f).pulse = s.pulse := rfl
@[simp] theorem State.modInj_spec (f : LcInj → LcInj) : (s.modInj k f).spec = s.spec := rfl
@[simp] theorem State.modInj_ev (f : LcInj → LcInj) : (s.modInj k f).ev = s.ev := rfl
@[simp] theorem State.modInj_plan (f : LcInj → LcInj) : (s.modInj k f).plan = s.plan := rfl
@[simp] theorem State.modInj_red (f : LcInj → LcInj) : (s.modInj k f).red = s.red := rfl
@[simp] theorem State.modInj_cal (f : LcInj → LcInj) : (s.modInj k f).cal = s.cal := rfl
@[simp] theorem State.modInj_gal (f : LcInj → LcInj) : (s.modInj k f).gal = s.gal := rfl
@[simp] theorem State.modInj_mt (f : LcInj → LcInj) : (s.modInj k f).mt = s.mt := rfl
@[simp] theorem State.modInj_host (f : LcInj → LcInj) : (s.modInj k f).host = s.host := rfl
@[simp] theorem State.modInj_role (f : LcInj → LcInj) : (s.modInj k f).role = s.role := rfl
@[simp] theorem State.modInj_tmp (f : LcInj → LcInj) : (s.modInj k f).tmp = s.tmp := rfl
@[simp] theorem State.modInj_pwr (f : LcInj → LcInj) : (s.modInj k f).pwr = s.pwr := rfl
@[simp] theorem State.modInj_log (f : LcInj → LcInj) : (s.modInj k f).log = s.log := rfl
@[simp] theorem State.modInj_fresh (f : LcInj → LcInj) : (s.modInj k f).fresh = s.fresh := rfl
@[simp] theorem State.modInj_pending (f : LcInj → LcInj) : (s.modInj k f).pending = s.pending := rfl
theorem State.modInj_lc (f : LcInj → LcInj) :
    (s.modInj k f).lc = { s.lc with inj := tset s.lc.inj k (f (s.getInj k)) } := rfl
@[simp] theorem State.getInj_modInj (f : LcInj → LcInj) : (s.modInj k f).getInj k = f (s.getInj k) := tget_tset_same _ _ _ _
theorem State.getInj_modInj_ne (f : LcInj → LcInj) (h : j ≠ k) : (s.modInj k f).getInj j = s.getInj j :=
  tget_tset_ne _ _ _ _ _ h
/-- The other entries of the state after modInj. -/
@[simp] theorem State.gets_modInj (f : LcInj → LcInj) :
    (s.modInj k f).getPort j = s.getPort j ∧ (s.modInj k f).getRing j = s.getRing j ∧ (s.modInj k f).getHead j = s.getHead j ∧ (s.modInj k f).getHeadAcc j = s.getHeadAcc j ∧ (s.modInj k f).getEng j = s.getEng j ∧ (s.modInj k f).getStrm j = s.getStrm j ∧ (s.modInj k f).getWp j = s.getWp j ∧ (s.modInj k f).getGrp j = s.getGrp j ∧ (s.modInj k f).getCtx j = s.getCtx j ∧ (s.modInj k f).getUnit j = s.getUnit j ∧ (s.modInj k f).getOut j = s.getOut j ∧ (s.modInj k f).getInp j = s.getInp j ∧ (s.modInj k f).getSpBind j = s.getSpBind j ∧ (s.modInj k f).getSpGrp j = s.getSpGrp j ∧ (s.modInj k f).getSpEng j = s.getSpEng j ∧ (s.modInj k f).getLane j = s.getLane j ∧ (s.modInj k f).getEvc j = s.getEvc j ∧ (s.modInj k f).getRedHead j = s.getRedHead j ∧ (s.modInj k f).getRedNode j = s.getRedNode j ∧ (s.modInj k f).getCalQ j = s.getCalQ j ∧ (s.modInj k f).getGal j = s.getGal j ∧ (s.modInj k f).getRolePort j = s.getRolePort j ∧ (s.modInj k f).getHp j = s.getHp j ∧ (s.modInj k f).getMon j = s.getMon j ∧ (s.modInj k f).getLoop j = s.getLoop j ∧ (s.modInj k f).getLogSrc j = s.getLogSrc j ∧ (s.modInj k f).getLogPort j = s.getLogPort j := by
  and_intros <;> rfl

/-! ## Updates of one part -/

@[simp] theorem State.modGlbIsl_tb (f : Glb → Glb) : (s.modGlbIsl f).tb = s.tb := rfl
@[simp] theorem State.modGlbIsl_port (f : Glb → Glb) : (s.modGlbIsl f).port = s.port := rfl
@[simp] theorem State.modGlbIsl_ring (f : Glb → Glb) : (s.modGlbIsl f).ring = s.ring := rfl
@[simp] theorem State.modGlbIsl_head (f : Glb → Glb) : (s.modGlbIsl f).head = s.head := rfl
@[simp] theorem State.modGlbIsl_headAcc (f : Glb → Glb) : (s.modGlbIsl f).headAcc = s.headAcc := rfl
@[simp] theorem State.modGlbIsl_stair (f : Glb → Glb) : (s.modGlbIsl f).stair = s.stair := rfl
@[simp] theorem State.modGlbIsl_rs (f : Glb → Glb) : (s.modGlbIsl f).rs = s.rs := rfl
@[simp] theorem State.modGlbIsl_tally (f : Glb → Glb) : (s.modGlbIsl f).tally = s.tally := rfl
@[simp] theorem State.modGlbIsl_pulse (f : Glb → Glb) : (s.modGlbIsl f).pulse = s.pulse := rfl
@[simp] theorem State.modGlbIsl_spec (f : Glb → Glb) : (s.modGlbIsl f).spec = s.spec := rfl
@[simp] theorem State.modGlbIsl_ev (f : Glb → Glb) : (s.modGlbIsl f).ev = s.ev := rfl
@[simp] theorem State.modGlbIsl_plan (f : Glb → Glb) : (s.modGlbIsl f).plan = s.plan := rfl
@[simp] theorem State.modGlbIsl_red (f : Glb → Glb) : (s.modGlbIsl f).red = s.red := rfl
@[simp] theorem State.modGlbIsl_lc (f : Glb → Glb) : (s.modGlbIsl f).lc = s.lc := rfl
@[simp] theorem State.modGlbIsl_cal (f : Glb → Glb) : (s.modGlbIsl f).cal = s.cal := rfl
@[simp] theorem State.modGlbIsl_gal (f : Glb → Glb) : (s.modGlbIsl f).gal = s.gal := rfl
@[simp] theorem State.modGlbIsl_mt (f : Glb → Glb) : (s.modGlbIsl f).mt = s.mt := rfl
@[simp] theorem State.modGlbIsl_host (f : Glb → Glb) : (s.modGlbIsl f).host = s.host := rfl
@[simp] theorem State.modGlbIsl_role (f : Glb → Glb) : (s.modGlbIsl f).role = s.role := rfl
@[simp] theorem State.modGlbIsl_tmp (f : Glb → Glb) : (s.modGlbIsl f).tmp = s.tmp := rfl
@[simp] theorem State.modGlbIsl_pwr (f : Glb → Glb) : (s.modGlbIsl f).pwr = s.pwr := rfl
@[simp] theorem State.modGlbIsl_log (f : Glb → Glb) : (s.modGlbIsl f).log = s.log := rfl
@[simp] theorem State.modGlbIsl_fresh (f : Glb → Glb) : (s.modGlbIsl f).fresh = s.fresh := rfl
@[simp] theorem State.modGlbIsl_pending (f : Glb → Glb) : (s.modGlbIsl f).pending = s.pending := rfl
@[simp] theorem State.modGlbIsl_glb (f : Glb → Glb) : (s.modGlbIsl f).glb = f s.glb := rfl
/-- The entries of the other parts after modGlbIsl. -/
@[simp] theorem State.gets_modGlbIsl (f : Glb → Glb) :
    (s.modGlbIsl f).getPort j = s.getPort j ∧ (s.modGlbIsl f).getRing j = s.getRing j ∧ (s.modGlbIsl f).getHead j = s.getHead j ∧ (s.modGlbIsl f).getHeadAcc j = s.getHeadAcc j ∧ (s.modGlbIsl f).getEng j = s.getEng j ∧ (s.modGlbIsl f).getStrm j = s.getStrm j ∧ (s.modGlbIsl f).getWp j = s.getWp j ∧ (s.modGlbIsl f).getGrp j = s.getGrp j ∧ (s.modGlbIsl f).getCtx j = s.getCtx j ∧ (s.modGlbIsl f).getUnit j = s.getUnit j ∧ (s.modGlbIsl f).getOut j = s.getOut j ∧ (s.modGlbIsl f).getInp j = s.getInp j ∧ (s.modGlbIsl f).getSpBind j = s.getSpBind j ∧ (s.modGlbIsl f).getSpGrp j = s.getSpGrp j ∧ (s.modGlbIsl f).getSpEng j = s.getSpEng j ∧ (s.modGlbIsl f).getLane j = s.getLane j ∧ (s.modGlbIsl f).getEvc j = s.getEvc j ∧ (s.modGlbIsl f).getRedHead j = s.getRedHead j ∧ (s.modGlbIsl f).getRedNode j = s.getRedNode j ∧ (s.modGlbIsl f).getCalQ j = s.getCalQ j ∧ (s.modGlbIsl f).getGal j = s.getGal j ∧ (s.modGlbIsl f).getRolePort j = s.getRolePort j ∧ (s.modGlbIsl f).getHp j = s.getHp j ∧ (s.modGlbIsl f).getMon j = s.getMon j ∧ (s.modGlbIsl f).getLoop j = s.getLoop j ∧ (s.modGlbIsl f).getLogSrc j = s.getLogSrc j ∧ (s.modGlbIsl f).getLogPort j = s.getLogPort j ∧ (s.modGlbIsl f).getInj j = s.getInj j := by
  and_intros <;> rfl

@[simp] theorem State.modTbIsl_glb (f : Tb → Tb) : (s.modTbIsl f).glb = s.glb := rfl
@[simp] theorem State.modTbIsl_port (f : Tb → Tb) : (s.modTbIsl f).port = s.port := rfl
@[simp] theorem State.modTbIsl_ring (f : Tb → Tb) : (s.modTbIsl f).ring = s.ring := rfl
@[simp] theorem State.modTbIsl_head (f : Tb → Tb) : (s.modTbIsl f).head = s.head := rfl
@[simp] theorem State.modTbIsl_headAcc (f : Tb → Tb) : (s.modTbIsl f).headAcc = s.headAcc := rfl
@[simp] theorem State.modTbIsl_stair (f : Tb → Tb) : (s.modTbIsl f).stair = s.stair := rfl
@[simp] theorem State.modTbIsl_rs (f : Tb → Tb) : (s.modTbIsl f).rs = s.rs := rfl
@[simp] theorem State.modTbIsl_tally (f : Tb → Tb) : (s.modTbIsl f).tally = s.tally := rfl
@[simp] theorem State.modTbIsl_pulse (f : Tb → Tb) : (s.modTbIsl f).pulse = s.pulse := rfl
@[simp] theorem State.modTbIsl_spec (f : Tb → Tb) : (s.modTbIsl f).spec = s.spec := rfl
@[simp] theorem State.modTbIsl_ev (f : Tb → Tb) : (s.modTbIsl f).ev = s.ev := rfl
@[simp] theorem State.modTbIsl_plan (f : Tb → Tb) : (s.modTbIsl f).plan = s.plan := rfl
@[simp] theorem State.modTbIsl_red (f : Tb → Tb) : (s.modTbIsl f).red = s.red := rfl
@[simp] theorem State.modTbIsl_lc (f : Tb → Tb) : (s.modTbIsl f).lc = s.lc := rfl
@[simp] theorem State.modTbIsl_cal (f : Tb → Tb) : (s.modTbIsl f).cal = s.cal := rfl
@[simp] theorem State.modTbIsl_gal (f : Tb → Tb) : (s.modTbIsl f).gal = s.gal := rfl
@[simp] theorem State.modTbIsl_mt (f : Tb → Tb) : (s.modTbIsl f).mt = s.mt := rfl
@[simp] theorem State.modTbIsl_host (f : Tb → Tb) : (s.modTbIsl f).host = s.host := rfl
@[simp] theorem State.modTbIsl_role (f : Tb → Tb) : (s.modTbIsl f).role = s.role := rfl
@[simp] theorem State.modTbIsl_tmp (f : Tb → Tb) : (s.modTbIsl f).tmp = s.tmp := rfl
@[simp] theorem State.modTbIsl_pwr (f : Tb → Tb) : (s.modTbIsl f).pwr = s.pwr := rfl
@[simp] theorem State.modTbIsl_log (f : Tb → Tb) : (s.modTbIsl f).log = s.log := rfl
@[simp] theorem State.modTbIsl_fresh (f : Tb → Tb) : (s.modTbIsl f).fresh = s.fresh := rfl
@[simp] theorem State.modTbIsl_pending (f : Tb → Tb) : (s.modTbIsl f).pending = s.pending := rfl
@[simp] theorem State.modTbIsl_tb (f : Tb → Tb) : (s.modTbIsl f).tb = f s.tb := rfl
/-- The entries of the other parts after modTbIsl. -/
@[simp] theorem State.gets_modTbIsl (f : Tb → Tb) :
    (s.modTbIsl f).getPort j = s.getPort j ∧ (s.modTbIsl f).getRing j = s.getRing j ∧ (s.modTbIsl f).getHead j = s.getHead j ∧ (s.modTbIsl f).getHeadAcc j = s.getHeadAcc j ∧ (s.modTbIsl f).getEng j = s.getEng j ∧ (s.modTbIsl f).getStrm j = s.getStrm j ∧ (s.modTbIsl f).getWp j = s.getWp j ∧ (s.modTbIsl f).getGrp j = s.getGrp j ∧ (s.modTbIsl f).getCtx j = s.getCtx j ∧ (s.modTbIsl f).getUnit j = s.getUnit j ∧ (s.modTbIsl f).getOut j = s.getOut j ∧ (s.modTbIsl f).getInp j = s.getInp j ∧ (s.modTbIsl f).getSpBind j = s.getSpBind j ∧ (s.modTbIsl f).getSpGrp j = s.getSpGrp j ∧ (s.modTbIsl f).getSpEng j = s.getSpEng j ∧ (s.modTbIsl f).getLane j = s.getLane j ∧ (s.modTbIsl f).getEvc j = s.getEvc j ∧ (s.modTbIsl f).getRedHead j = s.getRedHead j ∧ (s.modTbIsl f).getRedNode j = s.getRedNode j ∧ (s.modTbIsl f).getCalQ j = s.getCalQ j ∧ (s.modTbIsl f).getGal j = s.getGal j ∧ (s.modTbIsl f).getRolePort j = s.getRolePort j ∧ (s.modTbIsl f).getHp j = s.getHp j ∧ (s.modTbIsl f).getMon j = s.getMon j ∧ (s.modTbIsl f).getLoop j = s.getLoop j ∧ (s.modTbIsl f).getLogSrc j = s.getLogSrc j ∧ (s.modTbIsl f).getLogPort j = s.getLogPort j ∧ (s.modTbIsl f).getInj j = s.getInj j := by
  and_intros <;> rfl

@[simp] theorem State.modStairIsl_glb (f : Stair → Stair) : (s.modStairIsl f).glb = s.glb := rfl
@[simp] theorem State.modStairIsl_tb (f : Stair → Stair) : (s.modStairIsl f).tb = s.tb := rfl
@[simp] theorem State.modStairIsl_port (f : Stair → Stair) : (s.modStairIsl f).port = s.port := rfl
@[simp] theorem State.modStairIsl_ring (f : Stair → Stair) : (s.modStairIsl f).ring = s.ring := rfl
@[simp] theorem State.modStairIsl_head (f : Stair → Stair) : (s.modStairIsl f).head = s.head := rfl
@[simp] theorem State.modStairIsl_headAcc (f : Stair → Stair) : (s.modStairIsl f).headAcc = s.headAcc := rfl
@[simp] theorem State.modStairIsl_rs (f : Stair → Stair) : (s.modStairIsl f).rs = s.rs := rfl
@[simp] theorem State.modStairIsl_tally (f : Stair → Stair) : (s.modStairIsl f).tally = s.tally := rfl
@[simp] theorem State.modStairIsl_pulse (f : Stair → Stair) : (s.modStairIsl f).pulse = s.pulse := rfl
@[simp] theorem State.modStairIsl_spec (f : Stair → Stair) : (s.modStairIsl f).spec = s.spec := rfl
@[simp] theorem State.modStairIsl_ev (f : Stair → Stair) : (s.modStairIsl f).ev = s.ev := rfl
@[simp] theorem State.modStairIsl_plan (f : Stair → Stair) : (s.modStairIsl f).plan = s.plan := rfl
@[simp] theorem State.modStairIsl_red (f : Stair → Stair) : (s.modStairIsl f).red = s.red := rfl
@[simp] theorem State.modStairIsl_lc (f : Stair → Stair) : (s.modStairIsl f).lc = s.lc := rfl
@[simp] theorem State.modStairIsl_cal (f : Stair → Stair) : (s.modStairIsl f).cal = s.cal := rfl
@[simp] theorem State.modStairIsl_gal (f : Stair → Stair) : (s.modStairIsl f).gal = s.gal := rfl
@[simp] theorem State.modStairIsl_mt (f : Stair → Stair) : (s.modStairIsl f).mt = s.mt := rfl
@[simp] theorem State.modStairIsl_host (f : Stair → Stair) : (s.modStairIsl f).host = s.host := rfl
@[simp] theorem State.modStairIsl_role (f : Stair → Stair) : (s.modStairIsl f).role = s.role := rfl
@[simp] theorem State.modStairIsl_tmp (f : Stair → Stair) : (s.modStairIsl f).tmp = s.tmp := rfl
@[simp] theorem State.modStairIsl_pwr (f : Stair → Stair) : (s.modStairIsl f).pwr = s.pwr := rfl
@[simp] theorem State.modStairIsl_log (f : Stair → Stair) : (s.modStairIsl f).log = s.log := rfl
@[simp] theorem State.modStairIsl_fresh (f : Stair → Stair) : (s.modStairIsl f).fresh = s.fresh := rfl
@[simp] theorem State.modStairIsl_pending (f : Stair → Stair) : (s.modStairIsl f).pending = s.pending := rfl
@[simp] theorem State.modStairIsl_stair (f : Stair → Stair) : (s.modStairIsl f).stair = f s.stair := rfl
/-- The entries of the other parts after modStairIsl. -/
@[simp] theorem State.gets_modStairIsl (f : Stair → Stair) :
    (s.modStairIsl f).getPort j = s.getPort j ∧ (s.modStairIsl f).getRing j = s.getRing j ∧ (s.modStairIsl f).getHead j = s.getHead j ∧ (s.modStairIsl f).getHeadAcc j = s.getHeadAcc j ∧ (s.modStairIsl f).getGrp j = s.getGrp j ∧ (s.modStairIsl f).getCtx j = s.getCtx j ∧ (s.modStairIsl f).getUnit j = s.getUnit j ∧ (s.modStairIsl f).getOut j = s.getOut j ∧ (s.modStairIsl f).getInp j = s.getInp j ∧ (s.modStairIsl f).getSpBind j = s.getSpBind j ∧ (s.modStairIsl f).getSpGrp j = s.getSpGrp j ∧ (s.modStairIsl f).getSpEng j = s.getSpEng j ∧ (s.modStairIsl f).getLane j = s.getLane j ∧ (s.modStairIsl f).getEvc j = s.getEvc j ∧ (s.modStairIsl f).getRedHead j = s.getRedHead j ∧ (s.modStairIsl f).getRedNode j = s.getRedNode j ∧ (s.modStairIsl f).getCalQ j = s.getCalQ j ∧ (s.modStairIsl f).getGal j = s.getGal j ∧ (s.modStairIsl f).getRolePort j = s.getRolePort j ∧ (s.modStairIsl f).getHp j = s.getHp j ∧ (s.modStairIsl f).getMon j = s.getMon j ∧ (s.modStairIsl f).getLoop j = s.getLoop j ∧ (s.modStairIsl f).getLogSrc j = s.getLogSrc j ∧ (s.modStairIsl f).getLogPort j = s.getLogPort j ∧ (s.modStairIsl f).getInj j = s.getInj j := by
  and_intros <;> rfl

@[simp] theorem State.modRsIsl_glb (f : Resamp → Resamp) : (s.modRsIsl f).glb = s.glb := rfl
@[simp] theorem State.modRsIsl_tb (f : Resamp → Resamp) : (s.modRsIsl f).tb = s.tb := rfl
@[simp] theorem State.modRsIsl_port (f : Resamp → Resamp) : (s.modRsIsl f).port = s.port := rfl
@[simp] theorem State.modRsIsl_ring (f : Resamp → Resamp) : (s.modRsIsl f).ring = s.ring := rfl
@[simp] theorem State.modRsIsl_head (f : Resamp → Resamp) : (s.modRsIsl f).head = s.head := rfl
@[simp] theorem State.modRsIsl_headAcc (f : Resamp → Resamp) : (s.modRsIsl f).headAcc = s.headAcc := rfl
@[simp] theorem State.modRsIsl_stair (f : Resamp → Resamp) : (s.modRsIsl f).stair = s.stair := rfl
@[simp] theorem State.modRsIsl_tally (f : Resamp → Resamp) : (s.modRsIsl f).tally = s.tally := rfl
@[simp] theorem State.modRsIsl_pulse (f : Resamp → Resamp) : (s.modRsIsl f).pulse = s.pulse := rfl
@[simp] theorem State.modRsIsl_spec (f : Resamp → Resamp) : (s.modRsIsl f).spec = s.spec := rfl
@[simp] theorem State.modRsIsl_ev (f : Resamp → Resamp) : (s.modRsIsl f).ev = s.ev := rfl
@[simp] theorem State.modRsIsl_plan (f : Resamp → Resamp) : (s.modRsIsl f).plan = s.plan := rfl
@[simp] theorem State.modRsIsl_red (f : Resamp → Resamp) : (s.modRsIsl f).red = s.red := rfl
@[simp] theorem State.modRsIsl_lc (f : Resamp → Resamp) : (s.modRsIsl f).lc = s.lc := rfl
@[simp] theorem State.modRsIsl_cal (f : Resamp → Resamp) : (s.modRsIsl f).cal = s.cal := rfl
@[simp] theorem State.modRsIsl_gal (f : Resamp → Resamp) : (s.modRsIsl f).gal = s.gal := rfl
@[simp] theorem State.modRsIsl_mt (f : Resamp → Resamp) : (s.modRsIsl f).mt = s.mt := rfl
@[simp] theorem State.modRsIsl_host (f : Resamp → Resamp) : (s.modRsIsl f).host = s.host := rfl
@[simp] theorem State.modRsIsl_role (f : Resamp → Resamp) : (s.modRsIsl f).role = s.role := rfl
@[simp] theorem State.modRsIsl_tmp (f : Resamp → Resamp) : (s.modRsIsl f).tmp = s.tmp := rfl
@[simp] theorem State.modRsIsl_pwr (f : Resamp → Resamp) : (s.modRsIsl f).pwr = s.pwr := rfl
@[simp] theorem State.modRsIsl_log (f : Resamp → Resamp) : (s.modRsIsl f).log = s.log := rfl
@[simp] theorem State.modRsIsl_fresh (f : Resamp → Resamp) : (s.modRsIsl f).fresh = s.fresh := rfl
@[simp] theorem State.modRsIsl_pending (f : Resamp → Resamp) : (s.modRsIsl f).pending = s.pending := rfl
@[simp] theorem State.modRsIsl_rs (f : Resamp → Resamp) : (s.modRsIsl f).rs = f s.rs := rfl
/-- The entries of the other parts after modRsIsl. -/
@[simp] theorem State.gets_modRsIsl (f : Resamp → Resamp) :
    (s.modRsIsl f).getPort j = s.getPort j ∧ (s.modRsIsl f).getRing j = s.getRing j ∧ (s.modRsIsl f).getHead j = s.getHead j ∧ (s.modRsIsl f).getHeadAcc j = s.getHeadAcc j ∧ (s.modRsIsl f).getEng j = s.getEng j ∧ (s.modRsIsl f).getStrm j = s.getStrm j ∧ (s.modRsIsl f).getWp j = s.getWp j ∧ (s.modRsIsl f).getCtx j = s.getCtx j ∧ (s.modRsIsl f).getUnit j = s.getUnit j ∧ (s.modRsIsl f).getOut j = s.getOut j ∧ (s.modRsIsl f).getInp j = s.getInp j ∧ (s.modRsIsl f).getSpBind j = s.getSpBind j ∧ (s.modRsIsl f).getSpGrp j = s.getSpGrp j ∧ (s.modRsIsl f).getSpEng j = s.getSpEng j ∧ (s.modRsIsl f).getLane j = s.getLane j ∧ (s.modRsIsl f).getEvc j = s.getEvc j ∧ (s.modRsIsl f).getRedHead j = s.getRedHead j ∧ (s.modRsIsl f).getRedNode j = s.getRedNode j ∧ (s.modRsIsl f).getCalQ j = s.getCalQ j ∧ (s.modRsIsl f).getGal j = s.getGal j ∧ (s.modRsIsl f).getRolePort j = s.getRolePort j ∧ (s.modRsIsl f).getHp j = s.getHp j ∧ (s.modRsIsl f).getMon j = s.getMon j ∧ (s.modRsIsl f).getLoop j = s.getLoop j ∧ (s.modRsIsl f).getLogSrc j = s.getLogSrc j ∧ (s.modRsIsl f).getLogPort j = s.getLogPort j ∧ (s.modRsIsl f).getInj j = s.getInj j := by
  and_intros <;> rfl

@[simp] theorem State.modTallyIsl_glb (f : Tally → Tally) : (s.modTallyIsl f).glb = s.glb := rfl
@[simp] theorem State.modTallyIsl_tb (f : Tally → Tally) : (s.modTallyIsl f).tb = s.tb := rfl
@[simp] theorem State.modTallyIsl_port (f : Tally → Tally) : (s.modTallyIsl f).port = s.port := rfl
@[simp] theorem State.modTallyIsl_ring (f : Tally → Tally) : (s.modTallyIsl f).ring = s.ring := rfl
@[simp] theorem State.modTallyIsl_head (f : Tally → Tally) : (s.modTallyIsl f).head = s.head := rfl
@[simp] theorem State.modTallyIsl_headAcc (f : Tally → Tally) : (s.modTallyIsl f).headAcc = s.headAcc := rfl
@[simp] theorem State.modTallyIsl_stair (f : Tally → Tally) : (s.modTallyIsl f).stair = s.stair := rfl
@[simp] theorem State.modTallyIsl_rs (f : Tally → Tally) : (s.modTallyIsl f).rs = s.rs := rfl
@[simp] theorem State.modTallyIsl_pulse (f : Tally → Tally) : (s.modTallyIsl f).pulse = s.pulse := rfl
@[simp] theorem State.modTallyIsl_spec (f : Tally → Tally) : (s.modTallyIsl f).spec = s.spec := rfl
@[simp] theorem State.modTallyIsl_ev (f : Tally → Tally) : (s.modTallyIsl f).ev = s.ev := rfl
@[simp] theorem State.modTallyIsl_plan (f : Tally → Tally) : (s.modTallyIsl f).plan = s.plan := rfl
@[simp] theorem State.modTallyIsl_red (f : Tally → Tally) : (s.modTallyIsl f).red = s.red := rfl
@[simp] theorem State.modTallyIsl_lc (f : Tally → Tally) : (s.modTallyIsl f).lc = s.lc := rfl
@[simp] theorem State.modTallyIsl_cal (f : Tally → Tally) : (s.modTallyIsl f).cal = s.cal := rfl
@[simp] theorem State.modTallyIsl_gal (f : Tally → Tally) : (s.modTallyIsl f).gal = s.gal := rfl
@[simp] theorem State.modTallyIsl_mt (f : Tally → Tally) : (s.modTallyIsl f).mt = s.mt := rfl
@[simp] theorem State.modTallyIsl_host (f : Tally → Tally) : (s.modTallyIsl f).host = s.host := rfl
@[simp] theorem State.modTallyIsl_role (f : Tally → Tally) : (s.modTallyIsl f).role = s.role := rfl
@[simp] theorem State.modTallyIsl_tmp (f : Tally → Tally) : (s.modTallyIsl f).tmp = s.tmp := rfl
@[simp] theorem State.modTallyIsl_pwr (f : Tally → Tally) : (s.modTallyIsl f).pwr = s.pwr := rfl
@[simp] theorem State.modTallyIsl_log (f : Tally → Tally) : (s.modTallyIsl f).log = s.log := rfl
@[simp] theorem State.modTallyIsl_fresh (f : Tally → Tally) : (s.modTallyIsl f).fresh = s.fresh := rfl
@[simp] theorem State.modTallyIsl_pending (f : Tally → Tally) : (s.modTallyIsl f).pending = s.pending := rfl
@[simp] theorem State.modTallyIsl_tally (f : Tally → Tally) : (s.modTallyIsl f).tally = f s.tally := rfl
/-- The entries of the other parts after modTallyIsl. -/
@[simp] theorem State.gets_modTallyIsl (f : Tally → Tally) :
    (s.modTallyIsl f).getPort j = s.getPort j ∧ (s.modTallyIsl f).getRing j = s.getRing j ∧ (s.modTallyIsl f).getHead j = s.getHead j ∧ (s.modTallyIsl f).getHeadAcc j = s.getHeadAcc j ∧ (s.modTallyIsl f).getEng j = s.getEng j ∧ (s.modTallyIsl f).getStrm j = s.getStrm j ∧ (s.modTallyIsl f).getWp j = s.getWp j ∧ (s.modTallyIsl f).getGrp j = s.getGrp j ∧ (s.modTallyIsl f).getOut j = s.getOut j ∧ (s.modTallyIsl f).getInp j = s.getInp j ∧ (s.modTallyIsl f).getSpBind j = s.getSpBind j ∧ (s.modTallyIsl f).getSpGrp j = s.getSpGrp j ∧ (s.modTallyIsl f).getSpEng j = s.getSpEng j ∧ (s.modTallyIsl f).getLane j = s.getLane j ∧ (s.modTallyIsl f).getEvc j = s.getEvc j ∧ (s.modTallyIsl f).getRedHead j = s.getRedHead j ∧ (s.modTallyIsl f).getRedNode j = s.getRedNode j ∧ (s.modTallyIsl f).getCalQ j = s.getCalQ j ∧ (s.modTallyIsl f).getGal j = s.getGal j ∧ (s.modTallyIsl f).getRolePort j = s.getRolePort j ∧ (s.modTallyIsl f).getHp j = s.getHp j ∧ (s.modTallyIsl f).getMon j = s.getMon j ∧ (s.modTallyIsl f).getLoop j = s.getLoop j ∧ (s.modTallyIsl f).getLogSrc j = s.getLogSrc j ∧ (s.modTallyIsl f).getLogPort j = s.getLogPort j ∧ (s.modTallyIsl f).getInj j = s.getInj j := by
  and_intros <;> rfl

@[simp] theorem State.modSpecIsl_glb (f : Spec → Spec) : (s.modSpecIsl f).glb = s.glb := rfl
@[simp] theorem State.modSpecIsl_tb (f : Spec → Spec) : (s.modSpecIsl f).tb = s.tb := rfl
@[simp] theorem State.modSpecIsl_port (f : Spec → Spec) : (s.modSpecIsl f).port = s.port := rfl
@[simp] theorem State.modSpecIsl_ring (f : Spec → Spec) : (s.modSpecIsl f).ring = s.ring := rfl
@[simp] theorem State.modSpecIsl_head (f : Spec → Spec) : (s.modSpecIsl f).head = s.head := rfl
@[simp] theorem State.modSpecIsl_headAcc (f : Spec → Spec) : (s.modSpecIsl f).headAcc = s.headAcc := rfl
@[simp] theorem State.modSpecIsl_stair (f : Spec → Spec) : (s.modSpecIsl f).stair = s.stair := rfl
@[simp] theorem State.modSpecIsl_rs (f : Spec → Spec) : (s.modSpecIsl f).rs = s.rs := rfl
@[simp] theorem State.modSpecIsl_tally (f : Spec → Spec) : (s.modSpecIsl f).tally = s.tally := rfl
@[simp] theorem State.modSpecIsl_pulse (f : Spec → Spec) : (s.modSpecIsl f).pulse = s.pulse := rfl
@[simp] theorem State.modSpecIsl_ev (f : Spec → Spec) : (s.modSpecIsl f).ev = s.ev := rfl
@[simp] theorem State.modSpecIsl_plan (f : Spec → Spec) : (s.modSpecIsl f).plan = s.plan := rfl
@[simp] theorem State.modSpecIsl_red (f : Spec → Spec) : (s.modSpecIsl f).red = s.red := rfl
@[simp] theorem State.modSpecIsl_lc (f : Spec → Spec) : (s.modSpecIsl f).lc = s.lc := rfl
@[simp] theorem State.modSpecIsl_cal (f : Spec → Spec) : (s.modSpecIsl f).cal = s.cal := rfl
@[simp] theorem State.modSpecIsl_gal (f : Spec → Spec) : (s.modSpecIsl f).gal = s.gal := rfl
@[simp] theorem State.modSpecIsl_mt (f : Spec → Spec) : (s.modSpecIsl f).mt = s.mt := rfl
@[simp] theorem State.modSpecIsl_host (f : Spec → Spec) : (s.modSpecIsl f).host = s.host := rfl
@[simp] theorem State.modSpecIsl_role (f : Spec → Spec) : (s.modSpecIsl f).role = s.role := rfl
@[simp] theorem State.modSpecIsl_tmp (f : Spec → Spec) : (s.modSpecIsl f).tmp = s.tmp := rfl
@[simp] theorem State.modSpecIsl_pwr (f : Spec → Spec) : (s.modSpecIsl f).pwr = s.pwr := rfl
@[simp] theorem State.modSpecIsl_log (f : Spec → Spec) : (s.modSpecIsl f).log = s.log := rfl
@[simp] theorem State.modSpecIsl_fresh (f : Spec → Spec) : (s.modSpecIsl f).fresh = s.fresh := rfl
@[simp] theorem State.modSpecIsl_pending (f : Spec → Spec) : (s.modSpecIsl f).pending = s.pending := rfl
@[simp] theorem State.modSpecIsl_spec (f : Spec → Spec) : (s.modSpecIsl f).spec = f s.spec := rfl
/-- The entries of the other parts after modSpecIsl. -/
@[simp] theorem State.gets_modSpecIsl (f : Spec → Spec) :
    (s.modSpecIsl f).getPort j = s.getPort j ∧ (s.modSpecIsl f).getRing j = s.getRing j ∧ (s.modSpecIsl f).getHead j = s.getHead j ∧ (s.modSpecIsl f).getHeadAcc j = s.getHeadAcc j ∧ (s.modSpecIsl f).getEng j = s.getEng j ∧ (s.modSpecIsl f).getStrm j = s.getStrm j ∧ (s.modSpecIsl f).getWp j = s.getWp j ∧ (s.modSpecIsl f).getGrp j = s.getGrp j ∧ (s.modSpecIsl f).getCtx j = s.getCtx j ∧ (s.modSpecIsl f).getUnit j = s.getUnit j ∧ (s.modSpecIsl f).getOut j = s.getOut j ∧ (s.modSpecIsl f).getInp j = s.getInp j ∧ (s.modSpecIsl f).getEvc j = s.getEvc j ∧ (s.modSpecIsl f).getRedHead j = s.getRedHead j ∧ (s.modSpecIsl f).getRedNode j = s.getRedNode j ∧ (s.modSpecIsl f).getCalQ j = s.getCalQ j ∧ (s.modSpecIsl f).getGal j = s.getGal j ∧ (s.modSpecIsl f).getRolePort j = s.getRolePort j ∧ (s.modSpecIsl f).getHp j = s.getHp j ∧ (s.modSpecIsl f).getMon j = s.getMon j ∧ (s.modSpecIsl f).getLoop j = s.getLoop j ∧ (s.modSpecIsl f).getLogSrc j = s.getLogSrc j ∧ (s.modSpecIsl f).getLogPort j = s.getLogPort j ∧ (s.modSpecIsl f).getInj j = s.getInj j := by
  and_intros <;> rfl

@[simp] theorem State.modEvIsl_glb (f : Ev → Ev) : (s.modEvIsl f).glb = s.glb := rfl
@[simp] theorem State.modEvIsl_tb (f : Ev → Ev) : (s.modEvIsl f).tb = s.tb := rfl
@[simp] theorem State.modEvIsl_port (f : Ev → Ev) : (s.modEvIsl f).port = s.port := rfl
@[simp] theorem State.modEvIsl_ring (f : Ev → Ev) : (s.modEvIsl f).ring = s.ring := rfl
@[simp] theorem State.modEvIsl_head (f : Ev → Ev) : (s.modEvIsl f).head = s.head := rfl
@[simp] theorem State.modEvIsl_headAcc (f : Ev → Ev) : (s.modEvIsl f).headAcc = s.headAcc := rfl
@[simp] theorem State.modEvIsl_stair (f : Ev → Ev) : (s.modEvIsl f).stair = s.stair := rfl
@[simp] theorem State.modEvIsl_rs (f : Ev → Ev) : (s.modEvIsl f).rs = s.rs := rfl
@[simp] theorem State.modEvIsl_tally (f : Ev → Ev) : (s.modEvIsl f).tally = s.tally := rfl
@[simp] theorem State.modEvIsl_pulse (f : Ev → Ev) : (s.modEvIsl f).pulse = s.pulse := rfl
@[simp] theorem State.modEvIsl_spec (f : Ev → Ev) : (s.modEvIsl f).spec = s.spec := rfl
@[simp] theorem State.modEvIsl_plan (f : Ev → Ev) : (s.modEvIsl f).plan = s.plan := rfl
@[simp] theorem State.modEvIsl_red (f : Ev → Ev) : (s.modEvIsl f).red = s.red := rfl
@[simp] theorem State.modEvIsl_lc (f : Ev → Ev) : (s.modEvIsl f).lc = s.lc := rfl
@[simp] theorem State.modEvIsl_cal (f : Ev → Ev) : (s.modEvIsl f).cal = s.cal := rfl
@[simp] theorem State.modEvIsl_gal (f : Ev → Ev) : (s.modEvIsl f).gal = s.gal := rfl
@[simp] theorem State.modEvIsl_mt (f : Ev → Ev) : (s.modEvIsl f).mt = s.mt := rfl
@[simp] theorem State.modEvIsl_host (f : Ev → Ev) : (s.modEvIsl f).host = s.host := rfl
@[simp] theorem State.modEvIsl_role (f : Ev → Ev) : (s.modEvIsl f).role = s.role := rfl
@[simp] theorem State.modEvIsl_tmp (f : Ev → Ev) : (s.modEvIsl f).tmp = s.tmp := rfl
@[simp] theorem State.modEvIsl_pwr (f : Ev → Ev) : (s.modEvIsl f).pwr = s.pwr := rfl
@[simp] theorem State.modEvIsl_log (f : Ev → Ev) : (s.modEvIsl f).log = s.log := rfl
@[simp] theorem State.modEvIsl_fresh (f : Ev → Ev) : (s.modEvIsl f).fresh = s.fresh := rfl
@[simp] theorem State.modEvIsl_pending (f : Ev → Ev) : (s.modEvIsl f).pending = s.pending := rfl
@[simp] theorem State.modEvIsl_ev (f : Ev → Ev) : (s.modEvIsl f).ev = f s.ev := rfl
/-- The entries of the other parts after modEvIsl. -/
@[simp] theorem State.gets_modEvIsl (f : Ev → Ev) :
    (s.modEvIsl f).getPort j = s.getPort j ∧ (s.modEvIsl f).getRing j = s.getRing j ∧ (s.modEvIsl f).getHead j = s.getHead j ∧ (s.modEvIsl f).getHeadAcc j = s.getHeadAcc j ∧ (s.modEvIsl f).getEng j = s.getEng j ∧ (s.modEvIsl f).getStrm j = s.getStrm j ∧ (s.modEvIsl f).getWp j = s.getWp j ∧ (s.modEvIsl f).getGrp j = s.getGrp j ∧ (s.modEvIsl f).getCtx j = s.getCtx j ∧ (s.modEvIsl f).getUnit j = s.getUnit j ∧ (s.modEvIsl f).getOut j = s.getOut j ∧ (s.modEvIsl f).getInp j = s.getInp j ∧ (s.modEvIsl f).getSpBind j = s.getSpBind j ∧ (s.modEvIsl f).getSpGrp j = s.getSpGrp j ∧ (s.modEvIsl f).getSpEng j = s.getSpEng j ∧ (s.modEvIsl f).getLane j = s.getLane j ∧ (s.modEvIsl f).getRedHead j = s.getRedHead j ∧ (s.modEvIsl f).getRedNode j = s.getRedNode j ∧ (s.modEvIsl f).getCalQ j = s.getCalQ j ∧ (s.modEvIsl f).getGal j = s.getGal j ∧ (s.modEvIsl f).getRolePort j = s.getRolePort j ∧ (s.modEvIsl f).getHp j = s.getHp j ∧ (s.modEvIsl f).getMon j = s.getMon j ∧ (s.modEvIsl f).getLoop j = s.getLoop j ∧ (s.modEvIsl f).getLogSrc j = s.getLogSrc j ∧ (s.modEvIsl f).getLogPort j = s.getLogPort j ∧ (s.modEvIsl f).getInj j = s.getInj j := by
  and_intros <;> rfl

@[simp] theorem State.modPlanIsl_glb (f : PlanIsl → PlanIsl) : (s.modPlanIsl f).glb = s.glb := rfl
@[simp] theorem State.modPlanIsl_tb (f : PlanIsl → PlanIsl) : (s.modPlanIsl f).tb = s.tb := rfl
@[simp] theorem State.modPlanIsl_port (f : PlanIsl → PlanIsl) : (s.modPlanIsl f).port = s.port := rfl
@[simp] theorem State.modPlanIsl_ring (f : PlanIsl → PlanIsl) : (s.modPlanIsl f).ring = s.ring := rfl
@[simp] theorem State.modPlanIsl_head (f : PlanIsl → PlanIsl) : (s.modPlanIsl f).head = s.head := rfl
@[simp] theorem State.modPlanIsl_headAcc (f : PlanIsl → PlanIsl) : (s.modPlanIsl f).headAcc = s.headAcc := rfl
@[simp] theorem State.modPlanIsl_stair (f : PlanIsl → PlanIsl) : (s.modPlanIsl f).stair = s.stair := rfl
@[simp] theorem State.modPlanIsl_rs (f : PlanIsl → PlanIsl) : (s.modPlanIsl f).rs = s.rs := rfl
@[simp] theorem State.modPlanIsl_tally (f : PlanIsl → PlanIsl) : (s.modPlanIsl f).tally = s.tally := rfl
@[simp] theorem State.modPlanIsl_pulse (f : PlanIsl → PlanIsl) : (s.modPlanIsl f).pulse = s.pulse := rfl
@[simp] theorem State.modPlanIsl_spec (f : PlanIsl → PlanIsl) : (s.modPlanIsl f).spec = s.spec := rfl
@[simp] theorem State.modPlanIsl_ev (f : PlanIsl → PlanIsl) : (s.modPlanIsl f).ev = s.ev := rfl
@[simp] theorem State.modPlanIsl_red (f : PlanIsl → PlanIsl) : (s.modPlanIsl f).red = s.red := rfl
@[simp] theorem State.modPlanIsl_lc (f : PlanIsl → PlanIsl) : (s.modPlanIsl f).lc = s.lc := rfl
@[simp] theorem State.modPlanIsl_cal (f : PlanIsl → PlanIsl) : (s.modPlanIsl f).cal = s.cal := rfl
@[simp] theorem State.modPlanIsl_gal (f : PlanIsl → PlanIsl) : (s.modPlanIsl f).gal = s.gal := rfl
@[simp] theorem State.modPlanIsl_mt (f : PlanIsl → PlanIsl) : (s.modPlanIsl f).mt = s.mt := rfl
@[simp] theorem State.modPlanIsl_host (f : PlanIsl → PlanIsl) : (s.modPlanIsl f).host = s.host := rfl
@[simp] theorem State.modPlanIsl_role (f : PlanIsl → PlanIsl) : (s.modPlanIsl f).role = s.role := rfl
@[simp] theorem State.modPlanIsl_tmp (f : PlanIsl → PlanIsl) : (s.modPlanIsl f).tmp = s.tmp := rfl
@[simp] theorem State.modPlanIsl_pwr (f : PlanIsl → PlanIsl) : (s.modPlanIsl f).pwr = s.pwr := rfl
@[simp] theorem State.modPlanIsl_log (f : PlanIsl → PlanIsl) : (s.modPlanIsl f).log = s.log := rfl
@[simp] theorem State.modPlanIsl_fresh (f : PlanIsl → PlanIsl) : (s.modPlanIsl f).fresh = s.fresh := rfl
@[simp] theorem State.modPlanIsl_pending (f : PlanIsl → PlanIsl) : (s.modPlanIsl f).pending = s.pending := rfl
@[simp] theorem State.modPlanIsl_plan (f : PlanIsl → PlanIsl) : (s.modPlanIsl f).plan = f s.plan := rfl
/-- The entries of the other parts after modPlanIsl. -/
@[simp] theorem State.gets_modPlanIsl (f : PlanIsl → PlanIsl) :
    (s.modPlanIsl f).getPort j = s.getPort j ∧ (s.modPlanIsl f).getRing j = s.getRing j ∧ (s.modPlanIsl f).getHead j = s.getHead j ∧ (s.modPlanIsl f).getHeadAcc j = s.getHeadAcc j ∧ (s.modPlanIsl f).getEng j = s.getEng j ∧ (s.modPlanIsl f).getStrm j = s.getStrm j ∧ (s.modPlanIsl f).getWp j = s.getWp j ∧ (s.modPlanIsl f).getGrp j = s.getGrp j ∧ (s.modPlanIsl f).getCtx j = s.getCtx j ∧ (s.modPlanIsl f).getUnit j = s.getUnit j ∧ (s.modPlanIsl f).getOut j = s.getOut j ∧ (s.modPlanIsl f).getInp j = s.getInp j ∧ (s.modPlanIsl f).getSpBind j = s.getSpBind j ∧ (s.modPlanIsl f).getSpGrp j = s.getSpGrp j ∧ (s.modPlanIsl f).getSpEng j = s.getSpEng j ∧ (s.modPlanIsl f).getLane j = s.getLane j ∧ (s.modPlanIsl f).getEvc j = s.getEvc j ∧ (s.modPlanIsl f).getRedHead j = s.getRedHead j ∧ (s.modPlanIsl f).getRedNode j = s.getRedNode j ∧ (s.modPlanIsl f).getCalQ j = s.getCalQ j ∧ (s.modPlanIsl f).getGal j = s.getGal j ∧ (s.modPlanIsl f).getRolePort j = s.getRolePort j ∧ (s.modPlanIsl f).getHp j = s.getHp j ∧ (s.modPlanIsl f).getMon j = s.getMon j ∧ (s.modPlanIsl f).getLoop j = s.getLoop j ∧ (s.modPlanIsl f).getLogSrc j = s.getLogSrc j ∧ (s.modPlanIsl f).getLogPort j = s.getLogPort j ∧ (s.modPlanIsl f).getInj j = s.getInj j := by
  and_intros <;> rfl

@[simp] theorem State.modRedIsl_glb (f : Red → Red) : (s.modRedIsl f).glb = s.glb := rfl
@[simp] theorem State.modRedIsl_tb (f : Red → Red) : (s.modRedIsl f).tb = s.tb := rfl
@[simp] theorem State.modRedIsl_port (f : Red → Red) : (s.modRedIsl f).port = s.port := rfl
@[simp] theorem State.modRedIsl_ring (f : Red → Red) : (s.modRedIsl f).ring = s.ring := rfl
@[simp] theorem State.modRedIsl_head (f : Red → Red) : (s.modRedIsl f).head = s.head := rfl
@[simp] theorem State.modRedIsl_headAcc (f : Red → Red) : (s.modRedIsl f).headAcc = s.headAcc := rfl
@[simp] theorem State.modRedIsl_stair (f : Red → Red) : (s.modRedIsl f).stair = s.stair := rfl
@[simp] theorem State.modRedIsl_rs (f : Red → Red) : (s.modRedIsl f).rs = s.rs := rfl
@[simp] theorem State.modRedIsl_tally (f : Red → Red) : (s.modRedIsl f).tally = s.tally := rfl
@[simp] theorem State.modRedIsl_pulse (f : Red → Red) : (s.modRedIsl f).pulse = s.pulse := rfl
@[simp] theorem State.modRedIsl_spec (f : Red → Red) : (s.modRedIsl f).spec = s.spec := rfl
@[simp] theorem State.modRedIsl_ev (f : Red → Red) : (s.modRedIsl f).ev = s.ev := rfl
@[simp] theorem State.modRedIsl_plan (f : Red → Red) : (s.modRedIsl f).plan = s.plan := rfl
@[simp] theorem State.modRedIsl_lc (f : Red → Red) : (s.modRedIsl f).lc = s.lc := rfl
@[simp] theorem State.modRedIsl_cal (f : Red → Red) : (s.modRedIsl f).cal = s.cal := rfl
@[simp] theorem State.modRedIsl_gal (f : Red → Red) : (s.modRedIsl f).gal = s.gal := rfl
@[simp] theorem State.modRedIsl_mt (f : Red → Red) : (s.modRedIsl f).mt = s.mt := rfl
@[simp] theorem State.modRedIsl_host (f : Red → Red) : (s.modRedIsl f).host = s.host := rfl
@[simp] theorem State.modRedIsl_role (f : Red → Red) : (s.modRedIsl f).role = s.role := rfl
@[simp] theorem State.modRedIsl_tmp (f : Red → Red) : (s.modRedIsl f).tmp = s.tmp := rfl
@[simp] theorem State.modRedIsl_pwr (f : Red → Red) : (s.modRedIsl f).pwr = s.pwr := rfl
@[simp] theorem State.modRedIsl_log (f : Red → Red) : (s.modRedIsl f).log = s.log := rfl
@[simp] theorem State.modRedIsl_fresh (f : Red → Red) : (s.modRedIsl f).fresh = s.fresh := rfl
@[simp] theorem State.modRedIsl_pending (f : Red → Red) : (s.modRedIsl f).pending = s.pending := rfl
@[simp] theorem State.modRedIsl_red (f : Red → Red) : (s.modRedIsl f).red = f s.red := rfl
/-- The entries of the other parts after modRedIsl. -/
@[simp] theorem State.gets_modRedIsl (f : Red → Red) :
    (s.modRedIsl f).getPort j = s.getPort j ∧ (s.modRedIsl f).getRing j = s.getRing j ∧ (s.modRedIsl f).getHead j = s.getHead j ∧ (s.modRedIsl f).getHeadAcc j = s.getHeadAcc j ∧ (s.modRedIsl f).getEng j = s.getEng j ∧ (s.modRedIsl f).getStrm j = s.getStrm j ∧ (s.modRedIsl f).getWp j = s.getWp j ∧ (s.modRedIsl f).getGrp j = s.getGrp j ∧ (s.modRedIsl f).getCtx j = s.getCtx j ∧ (s.modRedIsl f).getUnit j = s.getUnit j ∧ (s.modRedIsl f).getOut j = s.getOut j ∧ (s.modRedIsl f).getInp j = s.getInp j ∧ (s.modRedIsl f).getSpBind j = s.getSpBind j ∧ (s.modRedIsl f).getSpGrp j = s.getSpGrp j ∧ (s.modRedIsl f).getSpEng j = s.getSpEng j ∧ (s.modRedIsl f).getLane j = s.getLane j ∧ (s.modRedIsl f).getEvc j = s.getEvc j ∧ (s.modRedIsl f).getCalQ j = s.getCalQ j ∧ (s.modRedIsl f).getGal j = s.getGal j ∧ (s.modRedIsl f).getRolePort j = s.getRolePort j ∧ (s.modRedIsl f).getHp j = s.getHp j ∧ (s.modRedIsl f).getMon j = s.getMon j ∧ (s.modRedIsl f).getLoop j = s.getLoop j ∧ (s.modRedIsl f).getLogSrc j = s.getLogSrc j ∧ (s.modRedIsl f).getLogPort j = s.getLogPort j ∧ (s.modRedIsl f).getInj j = s.getInj j := by
  and_intros <;> rfl

@[simp] theorem State.modLcIsl_glb (f : Lc → Lc) : (s.modLcIsl f).glb = s.glb := rfl
@[simp] theorem State.modLcIsl_tb (f : Lc → Lc) : (s.modLcIsl f).tb = s.tb := rfl
@[simp] theorem State.modLcIsl_port (f : Lc → Lc) : (s.modLcIsl f).port = s.port := rfl
@[simp] theorem State.modLcIsl_ring (f : Lc → Lc) : (s.modLcIsl f).ring = s.ring := rfl
@[simp] theorem State.modLcIsl_head (f : Lc → Lc) : (s.modLcIsl f).head = s.head := rfl
@[simp] theorem State.modLcIsl_headAcc (f : Lc → Lc) : (s.modLcIsl f).headAcc = s.headAcc := rfl
@[simp] theorem State.modLcIsl_stair (f : Lc → Lc) : (s.modLcIsl f).stair = s.stair := rfl
@[simp] theorem State.modLcIsl_rs (f : Lc → Lc) : (s.modLcIsl f).rs = s.rs := rfl
@[simp] theorem State.modLcIsl_tally (f : Lc → Lc) : (s.modLcIsl f).tally = s.tally := rfl
@[simp] theorem State.modLcIsl_pulse (f : Lc → Lc) : (s.modLcIsl f).pulse = s.pulse := rfl
@[simp] theorem State.modLcIsl_spec (f : Lc → Lc) : (s.modLcIsl f).spec = s.spec := rfl
@[simp] theorem State.modLcIsl_ev (f : Lc → Lc) : (s.modLcIsl f).ev = s.ev := rfl
@[simp] theorem State.modLcIsl_plan (f : Lc → Lc) : (s.modLcIsl f).plan = s.plan := rfl
@[simp] theorem State.modLcIsl_red (f : Lc → Lc) : (s.modLcIsl f).red = s.red := rfl
@[simp] theorem State.modLcIsl_cal (f : Lc → Lc) : (s.modLcIsl f).cal = s.cal := rfl
@[simp] theorem State.modLcIsl_gal (f : Lc → Lc) : (s.modLcIsl f).gal = s.gal := rfl
@[simp] theorem State.modLcIsl_mt (f : Lc → Lc) : (s.modLcIsl f).mt = s.mt := rfl
@[simp] theorem State.modLcIsl_host (f : Lc → Lc) : (s.modLcIsl f).host = s.host := rfl
@[simp] theorem State.modLcIsl_role (f : Lc → Lc) : (s.modLcIsl f).role = s.role := rfl
@[simp] theorem State.modLcIsl_tmp (f : Lc → Lc) : (s.modLcIsl f).tmp = s.tmp := rfl
@[simp] theorem State.modLcIsl_pwr (f : Lc → Lc) : (s.modLcIsl f).pwr = s.pwr := rfl
@[simp] theorem State.modLcIsl_log (f : Lc → Lc) : (s.modLcIsl f).log = s.log := rfl
@[simp] theorem State.modLcIsl_fresh (f : Lc → Lc) : (s.modLcIsl f).fresh = s.fresh := rfl
@[simp] theorem State.modLcIsl_pending (f : Lc → Lc) : (s.modLcIsl f).pending = s.pending := rfl
@[simp] theorem State.modLcIsl_lc (f : Lc → Lc) : (s.modLcIsl f).lc = f s.lc := rfl
/-- The entries of the other parts after modLcIsl. -/
@[simp] theorem State.gets_modLcIsl (f : Lc → Lc) :
    (s.modLcIsl f).getPort j = s.getPort j ∧ (s.modLcIsl f).getRing j = s.getRing j ∧ (s.modLcIsl f).getHead j = s.getHead j ∧ (s.modLcIsl f).getHeadAcc j = s.getHeadAcc j ∧ (s.modLcIsl f).getEng j = s.getEng j ∧ (s.modLcIsl f).getStrm j = s.getStrm j ∧ (s.modLcIsl f).getWp j = s.getWp j ∧ (s.modLcIsl f).getGrp j = s.getGrp j ∧ (s.modLcIsl f).getCtx j = s.getCtx j ∧ (s.modLcIsl f).getUnit j = s.getUnit j ∧ (s.modLcIsl f).getOut j = s.getOut j ∧ (s.modLcIsl f).getInp j = s.getInp j ∧ (s.modLcIsl f).getSpBind j = s.getSpBind j ∧ (s.modLcIsl f).getSpGrp j = s.getSpGrp j ∧ (s.modLcIsl f).getSpEng j = s.getSpEng j ∧ (s.modLcIsl f).getLane j = s.getLane j ∧ (s.modLcIsl f).getEvc j = s.getEvc j ∧ (s.modLcIsl f).getRedHead j = s.getRedHead j ∧ (s.modLcIsl f).getRedNode j = s.getRedNode j ∧ (s.modLcIsl f).getCalQ j = s.getCalQ j ∧ (s.modLcIsl f).getGal j = s.getGal j ∧ (s.modLcIsl f).getRolePort j = s.getRolePort j ∧ (s.modLcIsl f).getHp j = s.getHp j ∧ (s.modLcIsl f).getMon j = s.getMon j ∧ (s.modLcIsl f).getLoop j = s.getLoop j ∧ (s.modLcIsl f).getLogSrc j = s.getLogSrc j ∧ (s.modLcIsl f).getLogPort j = s.getLogPort j := by
  and_intros <;> rfl

@[simp] theorem State.modCalIsl_glb (f : Cal → Cal) : (s.modCalIsl f).glb = s.glb := rfl
@[simp] theorem State.modCalIsl_tb (f : Cal → Cal) : (s.modCalIsl f).tb = s.tb := rfl
@[simp] theorem State.modCalIsl_port (f : Cal → Cal) : (s.modCalIsl f).port = s.port := rfl
@[simp] theorem State.modCalIsl_ring (f : Cal → Cal) : (s.modCalIsl f).ring = s.ring := rfl
@[simp] theorem State.modCalIsl_head (f : Cal → Cal) : (s.modCalIsl f).head = s.head := rfl
@[simp] theorem State.modCalIsl_headAcc (f : Cal → Cal) : (s.modCalIsl f).headAcc = s.headAcc := rfl
@[simp] theorem State.modCalIsl_stair (f : Cal → Cal) : (s.modCalIsl f).stair = s.stair := rfl
@[simp] theorem State.modCalIsl_rs (f : Cal → Cal) : (s.modCalIsl f).rs = s.rs := rfl
@[simp] theorem State.modCalIsl_tally (f : Cal → Cal) : (s.modCalIsl f).tally = s.tally := rfl
@[simp] theorem State.modCalIsl_pulse (f : Cal → Cal) : (s.modCalIsl f).pulse = s.pulse := rfl
@[simp] theorem State.modCalIsl_spec (f : Cal → Cal) : (s.modCalIsl f).spec = s.spec := rfl
@[simp] theorem State.modCalIsl_ev (f : Cal → Cal) : (s.modCalIsl f).ev = s.ev := rfl
@[simp] theorem State.modCalIsl_plan (f : Cal → Cal) : (s.modCalIsl f).plan = s.plan := rfl
@[simp] theorem State.modCalIsl_red (f : Cal → Cal) : (s.modCalIsl f).red = s.red := rfl
@[simp] theorem State.modCalIsl_lc (f : Cal → Cal) : (s.modCalIsl f).lc = s.lc := rfl
@[simp] theorem State.modCalIsl_gal (f : Cal → Cal) : (s.modCalIsl f).gal = s.gal := rfl
@[simp] theorem State.modCalIsl_mt (f : Cal → Cal) : (s.modCalIsl f).mt = s.mt := rfl
@[simp] theorem State.modCalIsl_host (f : Cal → Cal) : (s.modCalIsl f).host = s.host := rfl
@[simp] theorem State.modCalIsl_role (f : Cal → Cal) : (s.modCalIsl f).role = s.role := rfl
@[simp] theorem State.modCalIsl_tmp (f : Cal → Cal) : (s.modCalIsl f).tmp = s.tmp := rfl
@[simp] theorem State.modCalIsl_pwr (f : Cal → Cal) : (s.modCalIsl f).pwr = s.pwr := rfl
@[simp] theorem State.modCalIsl_log (f : Cal → Cal) : (s.modCalIsl f).log = s.log := rfl
@[simp] theorem State.modCalIsl_fresh (f : Cal → Cal) : (s.modCalIsl f).fresh = s.fresh := rfl
@[simp] theorem State.modCalIsl_pending (f : Cal → Cal) : (s.modCalIsl f).pending = s.pending := rfl
@[simp] theorem State.modCalIsl_cal (f : Cal → Cal) : (s.modCalIsl f).cal = f s.cal := rfl
/-- The entries of the other parts after modCalIsl. -/
@[simp] theorem State.gets_modCalIsl (f : Cal → Cal) :
    (s.modCalIsl f).getPort j = s.getPort j ∧ (s.modCalIsl f).getRing j = s.getRing j ∧ (s.modCalIsl f).getHead j = s.getHead j ∧ (s.modCalIsl f).getHeadAcc j = s.getHeadAcc j ∧ (s.modCalIsl f).getEng j = s.getEng j ∧ (s.modCalIsl f).getStrm j = s.getStrm j ∧ (s.modCalIsl f).getWp j = s.getWp j ∧ (s.modCalIsl f).getGrp j = s.getGrp j ∧ (s.modCalIsl f).getCtx j = s.getCtx j ∧ (s.modCalIsl f).getUnit j = s.getUnit j ∧ (s.modCalIsl f).getOut j = s.getOut j ∧ (s.modCalIsl f).getInp j = s.getInp j ∧ (s.modCalIsl f).getSpBind j = s.getSpBind j ∧ (s.modCalIsl f).getSpGrp j = s.getSpGrp j ∧ (s.modCalIsl f).getSpEng j = s.getSpEng j ∧ (s.modCalIsl f).getLane j = s.getLane j ∧ (s.modCalIsl f).getEvc j = s.getEvc j ∧ (s.modCalIsl f).getRedHead j = s.getRedHead j ∧ (s.modCalIsl f).getRedNode j = s.getRedNode j ∧ (s.modCalIsl f).getGal j = s.getGal j ∧ (s.modCalIsl f).getRolePort j = s.getRolePort j ∧ (s.modCalIsl f).getHp j = s.getHp j ∧ (s.modCalIsl f).getMon j = s.getMon j ∧ (s.modCalIsl f).getLoop j = s.getLoop j ∧ (s.modCalIsl f).getLogSrc j = s.getLogSrc j ∧ (s.modCalIsl f).getLogPort j = s.getLogPort j ∧ (s.modCalIsl f).getInj j = s.getInj j := by
  and_intros <;> rfl

@[simp] theorem State.modMtIsl_glb (f : MemTest → MemTest) : (s.modMtIsl f).glb = s.glb := rfl
@[simp] theorem State.modMtIsl_tb (f : MemTest → MemTest) : (s.modMtIsl f).tb = s.tb := rfl
@[simp] theorem State.modMtIsl_port (f : MemTest → MemTest) : (s.modMtIsl f).port = s.port := rfl
@[simp] theorem State.modMtIsl_ring (f : MemTest → MemTest) : (s.modMtIsl f).ring = s.ring := rfl
@[simp] theorem State.modMtIsl_head (f : MemTest → MemTest) : (s.modMtIsl f).head = s.head := rfl
@[simp] theorem State.modMtIsl_headAcc (f : MemTest → MemTest) : (s.modMtIsl f).headAcc = s.headAcc := rfl
@[simp] theorem State.modMtIsl_stair (f : MemTest → MemTest) : (s.modMtIsl f).stair = s.stair := rfl
@[simp] theorem State.modMtIsl_rs (f : MemTest → MemTest) : (s.modMtIsl f).rs = s.rs := rfl
@[simp] theorem State.modMtIsl_tally (f : MemTest → MemTest) : (s.modMtIsl f).tally = s.tally := rfl
@[simp] theorem State.modMtIsl_pulse (f : MemTest → MemTest) : (s.modMtIsl f).pulse = s.pulse := rfl
@[simp] theorem State.modMtIsl_spec (f : MemTest → MemTest) : (s.modMtIsl f).spec = s.spec := rfl
@[simp] theorem State.modMtIsl_ev (f : MemTest → MemTest) : (s.modMtIsl f).ev = s.ev := rfl
@[simp] theorem State.modMtIsl_plan (f : MemTest → MemTest) : (s.modMtIsl f).plan = s.plan := rfl
@[simp] theorem State.modMtIsl_red (f : MemTest → MemTest) : (s.modMtIsl f).red = s.red := rfl
@[simp] theorem State.modMtIsl_lc (f : MemTest → MemTest) : (s.modMtIsl f).lc = s.lc := rfl
@[simp] theorem State.modMtIsl_cal (f : MemTest → MemTest) : (s.modMtIsl f).cal = s.cal := rfl
@[simp] theorem State.modMtIsl_gal (f : MemTest → MemTest) : (s.modMtIsl f).gal = s.gal := rfl
@[simp] theorem State.modMtIsl_host (f : MemTest → MemTest) : (s.modMtIsl f).host = s.host := rfl
@[simp] theorem State.modMtIsl_role (f : MemTest → MemTest) : (s.modMtIsl f).role = s.role := rfl
@[simp] theorem State.modMtIsl_tmp (f : MemTest → MemTest) : (s.modMtIsl f).tmp = s.tmp := rfl
@[simp] theorem State.modMtIsl_pwr (f : MemTest → MemTest) : (s.modMtIsl f).pwr = s.pwr := rfl
@[simp] theorem State.modMtIsl_log (f : MemTest → MemTest) : (s.modMtIsl f).log = s.log := rfl
@[simp] theorem State.modMtIsl_fresh (f : MemTest → MemTest) : (s.modMtIsl f).fresh = s.fresh := rfl
@[simp] theorem State.modMtIsl_pending (f : MemTest → MemTest) : (s.modMtIsl f).pending = s.pending := rfl
@[simp] theorem State.modMtIsl_mt (f : MemTest → MemTest) : (s.modMtIsl f).mt = f s.mt := rfl
/-- The entries of the other parts after modMtIsl. -/
@[simp] theorem State.gets_modMtIsl (f : MemTest → MemTest) :
    (s.modMtIsl f).getPort j = s.getPort j ∧ (s.modMtIsl f).getRing j = s.getRing j ∧ (s.modMtIsl f).getHead j = s.getHead j ∧ (s.modMtIsl f).getHeadAcc j = s.getHeadAcc j ∧ (s.modMtIsl f).getEng j = s.getEng j ∧ (s.modMtIsl f).getStrm j = s.getStrm j ∧ (s.modMtIsl f).getWp j = s.getWp j ∧ (s.modMtIsl f).getGrp j = s.getGrp j ∧ (s.modMtIsl f).getCtx j = s.getCtx j ∧ (s.modMtIsl f).getUnit j = s.getUnit j ∧ (s.modMtIsl f).getOut j = s.getOut j ∧ (s.modMtIsl f).getInp j = s.getInp j ∧ (s.modMtIsl f).getSpBind j = s.getSpBind j ∧ (s.modMtIsl f).getSpGrp j = s.getSpGrp j ∧ (s.modMtIsl f).getSpEng j = s.getSpEng j ∧ (s.modMtIsl f).getLane j = s.getLane j ∧ (s.modMtIsl f).getEvc j = s.getEvc j ∧ (s.modMtIsl f).getRedHead j = s.getRedHead j ∧ (s.modMtIsl f).getRedNode j = s.getRedNode j ∧ (s.modMtIsl f).getCalQ j = s.getCalQ j ∧ (s.modMtIsl f).getGal j = s.getGal j ∧ (s.modMtIsl f).getRolePort j = s.getRolePort j ∧ (s.modMtIsl f).getHp j = s.getHp j ∧ (s.modMtIsl f).getMon j = s.getMon j ∧ (s.modMtIsl f).getLoop j = s.getLoop j ∧ (s.modMtIsl f).getLogSrc j = s.getLogSrc j ∧ (s.modMtIsl f).getLogPort j = s.getLogPort j ∧ (s.modMtIsl f).getInj j = s.getInj j := by
  and_intros <;> rfl

@[simp] theorem State.modHostIsl_glb (f : HostIsl → HostIsl) : (s.modHostIsl f).glb = s.glb := rfl
@[simp] theorem State.modHostIsl_tb (f : HostIsl → HostIsl) : (s.modHostIsl f).tb = s.tb := rfl
@[simp] theorem State.modHostIsl_port (f : HostIsl → HostIsl) : (s.modHostIsl f).port = s.port := rfl
@[simp] theorem State.modHostIsl_ring (f : HostIsl → HostIsl) : (s.modHostIsl f).ring = s.ring := rfl
@[simp] theorem State.modHostIsl_head (f : HostIsl → HostIsl) : (s.modHostIsl f).head = s.head := rfl
@[simp] theorem State.modHostIsl_headAcc (f : HostIsl → HostIsl) : (s.modHostIsl f).headAcc = s.headAcc := rfl
@[simp] theorem State.modHostIsl_stair (f : HostIsl → HostIsl) : (s.modHostIsl f).stair = s.stair := rfl
@[simp] theorem State.modHostIsl_rs (f : HostIsl → HostIsl) : (s.modHostIsl f).rs = s.rs := rfl
@[simp] theorem State.modHostIsl_tally (f : HostIsl → HostIsl) : (s.modHostIsl f).tally = s.tally := rfl
@[simp] theorem State.modHostIsl_pulse (f : HostIsl → HostIsl) : (s.modHostIsl f).pulse = s.pulse := rfl
@[simp] theorem State.modHostIsl_spec (f : HostIsl → HostIsl) : (s.modHostIsl f).spec = s.spec := rfl
@[simp] theorem State.modHostIsl_ev (f : HostIsl → HostIsl) : (s.modHostIsl f).ev = s.ev := rfl
@[simp] theorem State.modHostIsl_plan (f : HostIsl → HostIsl) : (s.modHostIsl f).plan = s.plan := rfl
@[simp] theorem State.modHostIsl_red (f : HostIsl → HostIsl) : (s.modHostIsl f).red = s.red := rfl
@[simp] theorem State.modHostIsl_lc (f : HostIsl → HostIsl) : (s.modHostIsl f).lc = s.lc := rfl
@[simp] theorem State.modHostIsl_cal (f : HostIsl → HostIsl) : (s.modHostIsl f).cal = s.cal := rfl
@[simp] theorem State.modHostIsl_gal (f : HostIsl → HostIsl) : (s.modHostIsl f).gal = s.gal := rfl
@[simp] theorem State.modHostIsl_mt (f : HostIsl → HostIsl) : (s.modHostIsl f).mt = s.mt := rfl
@[simp] theorem State.modHostIsl_role (f : HostIsl → HostIsl) : (s.modHostIsl f).role = s.role := rfl
@[simp] theorem State.modHostIsl_tmp (f : HostIsl → HostIsl) : (s.modHostIsl f).tmp = s.tmp := rfl
@[simp] theorem State.modHostIsl_pwr (f : HostIsl → HostIsl) : (s.modHostIsl f).pwr = s.pwr := rfl
@[simp] theorem State.modHostIsl_log (f : HostIsl → HostIsl) : (s.modHostIsl f).log = s.log := rfl
@[simp] theorem State.modHostIsl_fresh (f : HostIsl → HostIsl) : (s.modHostIsl f).fresh = s.fresh := rfl
@[simp] theorem State.modHostIsl_pending (f : HostIsl → HostIsl) : (s.modHostIsl f).pending = s.pending := rfl
@[simp] theorem State.modHostIsl_host (f : HostIsl → HostIsl) : (s.modHostIsl f).host = f s.host := rfl
/-- The entries of the other parts after modHostIsl. -/
@[simp] theorem State.gets_modHostIsl (f : HostIsl → HostIsl) :
    (s.modHostIsl f).getPort j = s.getPort j ∧ (s.modHostIsl f).getRing j = s.getRing j ∧ (s.modHostIsl f).getHead j = s.getHead j ∧ (s.modHostIsl f).getHeadAcc j = s.getHeadAcc j ∧ (s.modHostIsl f).getEng j = s.getEng j ∧ (s.modHostIsl f).getStrm j = s.getStrm j ∧ (s.modHostIsl f).getWp j = s.getWp j ∧ (s.modHostIsl f).getGrp j = s.getGrp j ∧ (s.modHostIsl f).getCtx j = s.getCtx j ∧ (s.modHostIsl f).getUnit j = s.getUnit j ∧ (s.modHostIsl f).getOut j = s.getOut j ∧ (s.modHostIsl f).getInp j = s.getInp j ∧ (s.modHostIsl f).getSpBind j = s.getSpBind j ∧ (s.modHostIsl f).getSpGrp j = s.getSpGrp j ∧ (s.modHostIsl f).getSpEng j = s.getSpEng j ∧ (s.modHostIsl f).getLane j = s.getLane j ∧ (s.modHostIsl f).getEvc j = s.getEvc j ∧ (s.modHostIsl f).getRedHead j = s.getRedHead j ∧ (s.modHostIsl f).getRedNode j = s.getRedNode j ∧ (s.modHostIsl f).getCalQ j = s.getCalQ j ∧ (s.modHostIsl f).getGal j = s.getGal j ∧ (s.modHostIsl f).getRolePort j = s.getRolePort j ∧ (s.modHostIsl f).getMon j = s.getMon j ∧ (s.modHostIsl f).getLoop j = s.getLoop j ∧ (s.modHostIsl f).getLogSrc j = s.getLogSrc j ∧ (s.modHostIsl f).getLogPort j = s.getLogPort j ∧ (s.modHostIsl f).getInj j = s.getInj j := by
  and_intros <;> rfl

@[simp] theorem State.modRoleIsl_glb (f : Role → Role) : (s.modRoleIsl f).glb = s.glb := rfl
@[simp] theorem State.modRoleIsl_tb (f : Role → Role) : (s.modRoleIsl f).tb = s.tb := rfl
@[simp] theorem State.modRoleIsl_port (f : Role → Role) : (s.modRoleIsl f).port = s.port := rfl
@[simp] theorem State.modRoleIsl_ring (f : Role → Role) : (s.modRoleIsl f).ring = s.ring := rfl
@[simp] theorem State.modRoleIsl_head (f : Role → Role) : (s.modRoleIsl f).head = s.head := rfl
@[simp] theorem State.modRoleIsl_headAcc (f : Role → Role) : (s.modRoleIsl f).headAcc = s.headAcc := rfl
@[simp] theorem State.modRoleIsl_stair (f : Role → Role) : (s.modRoleIsl f).stair = s.stair := rfl
@[simp] theorem State.modRoleIsl_rs (f : Role → Role) : (s.modRoleIsl f).rs = s.rs := rfl
@[simp] theorem State.modRoleIsl_tally (f : Role → Role) : (s.modRoleIsl f).tally = s.tally := rfl
@[simp] theorem State.modRoleIsl_pulse (f : Role → Role) : (s.modRoleIsl f).pulse = s.pulse := rfl
@[simp] theorem State.modRoleIsl_spec (f : Role → Role) : (s.modRoleIsl f).spec = s.spec := rfl
@[simp] theorem State.modRoleIsl_ev (f : Role → Role) : (s.modRoleIsl f).ev = s.ev := rfl
@[simp] theorem State.modRoleIsl_plan (f : Role → Role) : (s.modRoleIsl f).plan = s.plan := rfl
@[simp] theorem State.modRoleIsl_red (f : Role → Role) : (s.modRoleIsl f).red = s.red := rfl
@[simp] theorem State.modRoleIsl_lc (f : Role → Role) : (s.modRoleIsl f).lc = s.lc := rfl
@[simp] theorem State.modRoleIsl_cal (f : Role → Role) : (s.modRoleIsl f).cal = s.cal := rfl
@[simp] theorem State.modRoleIsl_gal (f : Role → Role) : (s.modRoleIsl f).gal = s.gal := rfl
@[simp] theorem State.modRoleIsl_mt (f : Role → Role) : (s.modRoleIsl f).mt = s.mt := rfl
@[simp] theorem State.modRoleIsl_host (f : Role → Role) : (s.modRoleIsl f).host = s.host := rfl
@[simp] theorem State.modRoleIsl_tmp (f : Role → Role) : (s.modRoleIsl f).tmp = s.tmp := rfl
@[simp] theorem State.modRoleIsl_pwr (f : Role → Role) : (s.modRoleIsl f).pwr = s.pwr := rfl
@[simp] theorem State.modRoleIsl_log (f : Role → Role) : (s.modRoleIsl f).log = s.log := rfl
@[simp] theorem State.modRoleIsl_fresh (f : Role → Role) : (s.modRoleIsl f).fresh = s.fresh := rfl
@[simp] theorem State.modRoleIsl_pending (f : Role → Role) : (s.modRoleIsl f).pending = s.pending := rfl
@[simp] theorem State.modRoleIsl_role (f : Role → Role) : (s.modRoleIsl f).role = f s.role := rfl
/-- The entries of the other parts after modRoleIsl. -/
@[simp] theorem State.gets_modRoleIsl (f : Role → Role) :
    (s.modRoleIsl f).getPort j = s.getPort j ∧ (s.modRoleIsl f).getRing j = s.getRing j ∧ (s.modRoleIsl f).getHead j = s.getHead j ∧ (s.modRoleIsl f).getHeadAcc j = s.getHeadAcc j ∧ (s.modRoleIsl f).getEng j = s.getEng j ∧ (s.modRoleIsl f).getStrm j = s.getStrm j ∧ (s.modRoleIsl f).getWp j = s.getWp j ∧ (s.modRoleIsl f).getGrp j = s.getGrp j ∧ (s.modRoleIsl f).getCtx j = s.getCtx j ∧ (s.modRoleIsl f).getUnit j = s.getUnit j ∧ (s.modRoleIsl f).getOut j = s.getOut j ∧ (s.modRoleIsl f).getInp j = s.getInp j ∧ (s.modRoleIsl f).getSpBind j = s.getSpBind j ∧ (s.modRoleIsl f).getSpGrp j = s.getSpGrp j ∧ (s.modRoleIsl f).getSpEng j = s.getSpEng j ∧ (s.modRoleIsl f).getLane j = s.getLane j ∧ (s.modRoleIsl f).getEvc j = s.getEvc j ∧ (s.modRoleIsl f).getRedHead j = s.getRedHead j ∧ (s.modRoleIsl f).getRedNode j = s.getRedNode j ∧ (s.modRoleIsl f).getCalQ j = s.getCalQ j ∧ (s.modRoleIsl f).getGal j = s.getGal j ∧ (s.modRoleIsl f).getHp j = s.getHp j ∧ (s.modRoleIsl f).getMon j = s.getMon j ∧ (s.modRoleIsl f).getLoop j = s.getLoop j ∧ (s.modRoleIsl f).getLogSrc j = s.getLogSrc j ∧ (s.modRoleIsl f).getLogPort j = s.getLogPort j ∧ (s.modRoleIsl f).getInj j = s.getInj j := by
  and_intros <;> rfl

@[simp] theorem State.modTmpIsl_glb (f : Tmp → Tmp) : (s.modTmpIsl f).glb = s.glb := rfl
@[simp] theorem State.modTmpIsl_tb (f : Tmp → Tmp) : (s.modTmpIsl f).tb = s.tb := rfl
@[simp] theorem State.modTmpIsl_port (f : Tmp → Tmp) : (s.modTmpIsl f).port = s.port := rfl
@[simp] theorem State.modTmpIsl_ring (f : Tmp → Tmp) : (s.modTmpIsl f).ring = s.ring := rfl
@[simp] theorem State.modTmpIsl_head (f : Tmp → Tmp) : (s.modTmpIsl f).head = s.head := rfl
@[simp] theorem State.modTmpIsl_headAcc (f : Tmp → Tmp) : (s.modTmpIsl f).headAcc = s.headAcc := rfl
@[simp] theorem State.modTmpIsl_stair (f : Tmp → Tmp) : (s.modTmpIsl f).stair = s.stair := rfl
@[simp] theorem State.modTmpIsl_rs (f : Tmp → Tmp) : (s.modTmpIsl f).rs = s.rs := rfl
@[simp] theorem State.modTmpIsl_tally (f : Tmp → Tmp) : (s.modTmpIsl f).tally = s.tally := rfl
@[simp] theorem State.modTmpIsl_pulse (f : Tmp → Tmp) : (s.modTmpIsl f).pulse = s.pulse := rfl
@[simp] theorem State.modTmpIsl_spec (f : Tmp → Tmp) : (s.modTmpIsl f).spec = s.spec := rfl
@[simp] theorem State.modTmpIsl_ev (f : Tmp → Tmp) : (s.modTmpIsl f).ev = s.ev := rfl
@[simp] theorem State.modTmpIsl_plan (f : Tmp → Tmp) : (s.modTmpIsl f).plan = s.plan := rfl
@[simp] theorem State.modTmpIsl_red (f : Tmp → Tmp) : (s.modTmpIsl f).red = s.red := rfl
@[simp] theorem State.modTmpIsl_lc (f : Tmp → Tmp) : (s.modTmpIsl f).lc = s.lc := rfl
@[simp] theorem State.modTmpIsl_cal (f : Tmp → Tmp) : (s.modTmpIsl f).cal = s.cal := rfl
@[simp] theorem State.modTmpIsl_gal (f : Tmp → Tmp) : (s.modTmpIsl f).gal = s.gal := rfl
@[simp] theorem State.modTmpIsl_mt (f : Tmp → Tmp) : (s.modTmpIsl f).mt = s.mt := rfl
@[simp] theorem State.modTmpIsl_host (f : Tmp → Tmp) : (s.modTmpIsl f).host = s.host := rfl
@[simp] theorem State.modTmpIsl_role (f : Tmp → Tmp) : (s.modTmpIsl f).role = s.role := rfl
@[simp] theorem State.modTmpIsl_pwr (f : Tmp → Tmp) : (s.modTmpIsl f).pwr = s.pwr := rfl
@[simp] theorem State.modTmpIsl_log (f : Tmp → Tmp) : (s.modTmpIsl f).log = s.log := rfl
@[simp] theorem State.modTmpIsl_fresh (f : Tmp → Tmp) : (s.modTmpIsl f).fresh = s.fresh := rfl
@[simp] theorem State.modTmpIsl_pending (f : Tmp → Tmp) : (s.modTmpIsl f).pending = s.pending := rfl
@[simp] theorem State.modTmpIsl_tmp (f : Tmp → Tmp) : (s.modTmpIsl f).tmp = f s.tmp := rfl
/-- The entries of the other parts after modTmpIsl. -/
@[simp] theorem State.gets_modTmpIsl (f : Tmp → Tmp) :
    (s.modTmpIsl f).getPort j = s.getPort j ∧ (s.modTmpIsl f).getRing j = s.getRing j ∧ (s.modTmpIsl f).getHead j = s.getHead j ∧ (s.modTmpIsl f).getHeadAcc j = s.getHeadAcc j ∧ (s.modTmpIsl f).getEng j = s.getEng j ∧ (s.modTmpIsl f).getStrm j = s.getStrm j ∧ (s.modTmpIsl f).getWp j = s.getWp j ∧ (s.modTmpIsl f).getGrp j = s.getGrp j ∧ (s.modTmpIsl f).getCtx j = s.getCtx j ∧ (s.modTmpIsl f).getUnit j = s.getUnit j ∧ (s.modTmpIsl f).getOut j = s.getOut j ∧ (s.modTmpIsl f).getInp j = s.getInp j ∧ (s.modTmpIsl f).getSpBind j = s.getSpBind j ∧ (s.modTmpIsl f).getSpGrp j = s.getSpGrp j ∧ (s.modTmpIsl f).getSpEng j = s.getSpEng j ∧ (s.modTmpIsl f).getLane j = s.getLane j ∧ (s.modTmpIsl f).getEvc j = s.getEvc j ∧ (s.modTmpIsl f).getRedHead j = s.getRedHead j ∧ (s.modTmpIsl f).getRedNode j = s.getRedNode j ∧ (s.modTmpIsl f).getCalQ j = s.getCalQ j ∧ (s.modTmpIsl f).getGal j = s.getGal j ∧ (s.modTmpIsl f).getRolePort j = s.getRolePort j ∧ (s.modTmpIsl f).getHp j = s.getHp j ∧ (s.modTmpIsl f).getLogSrc j = s.getLogSrc j ∧ (s.modTmpIsl f).getLogPort j = s.getLogPort j ∧ (s.modTmpIsl f).getInj j = s.getInj j := by
  and_intros <;> rfl

@[simp] theorem State.modPwrIsl_glb (f : Pwr → Pwr) : (s.modPwrIsl f).glb = s.glb := rfl
@[simp] theorem State.modPwrIsl_tb (f : Pwr → Pwr) : (s.modPwrIsl f).tb = s.tb := rfl
@[simp] theorem State.modPwrIsl_port (f : Pwr → Pwr) : (s.modPwrIsl f).port = s.port := rfl
@[simp] theorem State.modPwrIsl_ring (f : Pwr → Pwr) : (s.modPwrIsl f).ring = s.ring := rfl
@[simp] theorem State.modPwrIsl_head (f : Pwr → Pwr) : (s.modPwrIsl f).head = s.head := rfl
@[simp] theorem State.modPwrIsl_headAcc (f : Pwr → Pwr) : (s.modPwrIsl f).headAcc = s.headAcc := rfl
@[simp] theorem State.modPwrIsl_stair (f : Pwr → Pwr) : (s.modPwrIsl f).stair = s.stair := rfl
@[simp] theorem State.modPwrIsl_rs (f : Pwr → Pwr) : (s.modPwrIsl f).rs = s.rs := rfl
@[simp] theorem State.modPwrIsl_tally (f : Pwr → Pwr) : (s.modPwrIsl f).tally = s.tally := rfl
@[simp] theorem State.modPwrIsl_pulse (f : Pwr → Pwr) : (s.modPwrIsl f).pulse = s.pulse := rfl
@[simp] theorem State.modPwrIsl_spec (f : Pwr → Pwr) : (s.modPwrIsl f).spec = s.spec := rfl
@[simp] theorem State.modPwrIsl_ev (f : Pwr → Pwr) : (s.modPwrIsl f).ev = s.ev := rfl
@[simp] theorem State.modPwrIsl_plan (f : Pwr → Pwr) : (s.modPwrIsl f).plan = s.plan := rfl
@[simp] theorem State.modPwrIsl_red (f : Pwr → Pwr) : (s.modPwrIsl f).red = s.red := rfl
@[simp] theorem State.modPwrIsl_lc (f : Pwr → Pwr) : (s.modPwrIsl f).lc = s.lc := rfl
@[simp] theorem State.modPwrIsl_cal (f : Pwr → Pwr) : (s.modPwrIsl f).cal = s.cal := rfl
@[simp] theorem State.modPwrIsl_gal (f : Pwr → Pwr) : (s.modPwrIsl f).gal = s.gal := rfl
@[simp] theorem State.modPwrIsl_mt (f : Pwr → Pwr) : (s.modPwrIsl f).mt = s.mt := rfl
@[simp] theorem State.modPwrIsl_host (f : Pwr → Pwr) : (s.modPwrIsl f).host = s.host := rfl
@[simp] theorem State.modPwrIsl_role (f : Pwr → Pwr) : (s.modPwrIsl f).role = s.role := rfl
@[simp] theorem State.modPwrIsl_tmp (f : Pwr → Pwr) : (s.modPwrIsl f).tmp = s.tmp := rfl
@[simp] theorem State.modPwrIsl_log (f : Pwr → Pwr) : (s.modPwrIsl f).log = s.log := rfl
@[simp] theorem State.modPwrIsl_fresh (f : Pwr → Pwr) : (s.modPwrIsl f).fresh = s.fresh := rfl
@[simp] theorem State.modPwrIsl_pending (f : Pwr → Pwr) : (s.modPwrIsl f).pending = s.pending := rfl
@[simp] theorem State.modPwrIsl_pwr (f : Pwr → Pwr) : (s.modPwrIsl f).pwr = f s.pwr := rfl
/-- The entries of the other parts after modPwrIsl. -/
@[simp] theorem State.gets_modPwrIsl (f : Pwr → Pwr) :
    (s.modPwrIsl f).getPort j = s.getPort j ∧ (s.modPwrIsl f).getRing j = s.getRing j ∧ (s.modPwrIsl f).getHead j = s.getHead j ∧ (s.modPwrIsl f).getHeadAcc j = s.getHeadAcc j ∧ (s.modPwrIsl f).getEng j = s.getEng j ∧ (s.modPwrIsl f).getStrm j = s.getStrm j ∧ (s.modPwrIsl f).getWp j = s.getWp j ∧ (s.modPwrIsl f).getGrp j = s.getGrp j ∧ (s.modPwrIsl f).getCtx j = s.getCtx j ∧ (s.modPwrIsl f).getUnit j = s.getUnit j ∧ (s.modPwrIsl f).getOut j = s.getOut j ∧ (s.modPwrIsl f).getInp j = s.getInp j ∧ (s.modPwrIsl f).getSpBind j = s.getSpBind j ∧ (s.modPwrIsl f).getSpGrp j = s.getSpGrp j ∧ (s.modPwrIsl f).getSpEng j = s.getSpEng j ∧ (s.modPwrIsl f).getLane j = s.getLane j ∧ (s.modPwrIsl f).getEvc j = s.getEvc j ∧ (s.modPwrIsl f).getRedHead j = s.getRedHead j ∧ (s.modPwrIsl f).getRedNode j = s.getRedNode j ∧ (s.modPwrIsl f).getCalQ j = s.getCalQ j ∧ (s.modPwrIsl f).getGal j = s.getGal j ∧ (s.modPwrIsl f).getRolePort j = s.getRolePort j ∧ (s.modPwrIsl f).getHp j = s.getHp j ∧ (s.modPwrIsl f).getMon j = s.getMon j ∧ (s.modPwrIsl f).getLoop j = s.getLoop j ∧ (s.modPwrIsl f).getLogSrc j = s.getLogSrc j ∧ (s.modPwrIsl f).getLogPort j = s.getLogPort j ∧ (s.modPwrIsl f).getInj j = s.getInj j := by
  and_intros <;> rfl

@[simp] theorem State.modLogIsl_glb (f : Log → Log) : (s.modLogIsl f).glb = s.glb := rfl
@[simp] theorem State.modLogIsl_tb (f : Log → Log) : (s.modLogIsl f).tb = s.tb := rfl
@[simp] theorem State.modLogIsl_port (f : Log → Log) : (s.modLogIsl f).port = s.port := rfl
@[simp] theorem State.modLogIsl_ring (f : Log → Log) : (s.modLogIsl f).ring = s.ring := rfl
@[simp] theorem State.modLogIsl_head (f : Log → Log) : (s.modLogIsl f).head = s.head := rfl
@[simp] theorem State.modLogIsl_headAcc (f : Log → Log) : (s.modLogIsl f).headAcc = s.headAcc := rfl
@[simp] theorem State.modLogIsl_stair (f : Log → Log) : (s.modLogIsl f).stair = s.stair := rfl
@[simp] theorem State.modLogIsl_rs (f : Log → Log) : (s.modLogIsl f).rs = s.rs := rfl
@[simp] theorem State.modLogIsl_tally (f : Log → Log) : (s.modLogIsl f).tally = s.tally := rfl
@[simp] theorem State.modLogIsl_pulse (f : Log → Log) : (s.modLogIsl f).pulse = s.pulse := rfl
@[simp] theorem State.modLogIsl_spec (f : Log → Log) : (s.modLogIsl f).spec = s.spec := rfl
@[simp] theorem State.modLogIsl_ev (f : Log → Log) : (s.modLogIsl f).ev = s.ev := rfl
@[simp] theorem State.modLogIsl_plan (f : Log → Log) : (s.modLogIsl f).plan = s.plan := rfl
@[simp] theorem State.modLogIsl_red (f : Log → Log) : (s.modLogIsl f).red = s.red := rfl
@[simp] theorem State.modLogIsl_lc (f : Log → Log) : (s.modLogIsl f).lc = s.lc := rfl
@[simp] theorem State.modLogIsl_cal (f : Log → Log) : (s.modLogIsl f).cal = s.cal := rfl
@[simp] theorem State.modLogIsl_gal (f : Log → Log) : (s.modLogIsl f).gal = s.gal := rfl
@[simp] theorem State.modLogIsl_mt (f : Log → Log) : (s.modLogIsl f).mt = s.mt := rfl
@[simp] theorem State.modLogIsl_host (f : Log → Log) : (s.modLogIsl f).host = s.host := rfl
@[simp] theorem State.modLogIsl_role (f : Log → Log) : (s.modLogIsl f).role = s.role := rfl
@[simp] theorem State.modLogIsl_tmp (f : Log → Log) : (s.modLogIsl f).tmp = s.tmp := rfl
@[simp] theorem State.modLogIsl_pwr (f : Log → Log) : (s.modLogIsl f).pwr = s.pwr := rfl
@[simp] theorem State.modLogIsl_fresh (f : Log → Log) : (s.modLogIsl f).fresh = s.fresh := rfl
@[simp] theorem State.modLogIsl_pending (f : Log → Log) : (s.modLogIsl f).pending = s.pending := rfl
@[simp] theorem State.modLogIsl_log (f : Log → Log) : (s.modLogIsl f).log = f s.log := rfl
/-- The entries of the other parts after modLogIsl. -/
@[simp] theorem State.gets_modLogIsl (f : Log → Log) :
    (s.modLogIsl f).getPort j = s.getPort j ∧ (s.modLogIsl f).getRing j = s.getRing j ∧ (s.modLogIsl f).getHead j = s.getHead j ∧ (s.modLogIsl f).getHeadAcc j = s.getHeadAcc j ∧ (s.modLogIsl f).getEng j = s.getEng j ∧ (s.modLogIsl f).getStrm j = s.getStrm j ∧ (s.modLogIsl f).getWp j = s.getWp j ∧ (s.modLogIsl f).getGrp j = s.getGrp j ∧ (s.modLogIsl f).getCtx j = s.getCtx j ∧ (s.modLogIsl f).getUnit j = s.getUnit j ∧ (s.modLogIsl f).getOut j = s.getOut j ∧ (s.modLogIsl f).getInp j = s.getInp j ∧ (s.modLogIsl f).getSpBind j = s.getSpBind j ∧ (s.modLogIsl f).getSpGrp j = s.getSpGrp j ∧ (s.modLogIsl f).getSpEng j = s.getSpEng j ∧ (s.modLogIsl f).getLane j = s.getLane j ∧ (s.modLogIsl f).getEvc j = s.getEvc j ∧ (s.modLogIsl f).getRedHead j = s.getRedHead j ∧ (s.modLogIsl f).getRedNode j = s.getRedNode j ∧ (s.modLogIsl f).getCalQ j = s.getCalQ j ∧ (s.modLogIsl f).getGal j = s.getGal j ∧ (s.modLogIsl f).getRolePort j = s.getRolePort j ∧ (s.modLogIsl f).getHp j = s.getHp j ∧ (s.modLogIsl f).getMon j = s.getMon j ∧ (s.modLogIsl f).getLoop j = s.getLoop j ∧ (s.modLogIsl f).getInj j = s.getInj j := by
  and_intros <;> rfl

end Sys2Proof.Machine
end

