-- ==== Sys2Proof/Laws/Ops.lean ====
section
/-! SUPPORT. What the shared operations do, once for each: what they change, and what they leave. -/

namespace Sys2Proof.Machine

/-! ## Islands, lists and conditions -/

/-- A command of an island that is clocked. -/
theorem onIsl_up {i : Nat} {s : State} {f : State → State} (h : s.up i = true) : onIsl i s f = .next (f s) := by simp [onIsl, h]

/-- R12: a command of an island that is held idle changes nothing. -/
theorem onIsl_down {i : Nat} {s : State} {f : State → State} (h : s.up i = false) : onIsl i s f = .next s := by simp [onIsl, h]

/-- A command of the steward while it runs. -/
theorem onStew_up {s : State} {f : State → State} (h : s.stewUp = true) : onStew s f = .next (f s) := by simp [onStew, h]

/-- R31: a command of the steward while it does not run changes nothing. -/
theorem onStew_down {s : State} {f : State → State} (h : s.stewUp = false) : onStew s f = .next s := by simp [onStew, h]

/-- A command of a link island that is clocked. -/
theorem onLink_up {r : Nat} {s : State} {f : State → State} (h : s.linkUp r = true) : onLink r s f = .next (f s) := by simp [onLink, h]

/-- R12: a command of a link island that is held idle changes nothing. -/
theorem onLink_down {r : Nat} {s : State} {f : State → State} (h : s.linkUp r = false) : onLink r s f = .next s := by simp [onLink, h]

/-- Inserting an element adds it. -/
theorem insertBy_perm {α : Type} (le : α → α → Bool) (x : α) (l : List α) : (insertBy le x l).Perm (x :: l) := by
  induction l with
  | nil => exact .refl _
  | cons y l ih =>
    unfold insertBy
    split
    · exact .refl _
    · exact (ih.cons y).trans (.swap x y l)

/-- Sorting a list keeps its elements, each as often as it was. -/
theorem sortBy_perm {α : Type} (le : α → α → Bool) (l : List α) : (sortBy le l).Perm l := by
  induction l with
  | nil => exact .refl _
  | cons x l ih => exact (insertBy_perm le x _).trans (ih.cons x)

/-- What is in a sorted list. -/
@[simp] theorem mem_sortBy {α : Type} {le : α → α → Bool} {x : α} {l : List α} : x ∈ sortBy le l ↔ x ∈ l := (sortBy_perm le l).mem_iff

/-- How long a sorted list is. -/
@[simp] theorem length_sortBy {α : Type} (le : α → α → Bool) (l : List α) : (sortBy le l).length = l.length := (sortBy_perm le l).length_eq

/-- A property that one application keeps holds after all of them. -/
theorem each_keeps {α : Type} (P : State → Prop) {f : State → α → State} (hf : ∀ s a, P s → P (f s a)) (l : List α) {s : State} (h : P s) :
    P (each l f s) := by
  induction l generalizing s with
  | nil => exact h
  | cons a l ih => exact ih (hf s a h)

/-- A part of the state that no application changes is as it was. -/
theorem each_same {α β : Type} (g : State → β) {f : State → α → State} (hf : ∀ s a, g (f s a) = g s) (l : List α) (s : State) :
    g (each l f s) = g s := each_keeps (fun t => g t = g s) (fun t a h => (hf t a).trans h) l rfl

/-- An application for no element. -/
@[simp] theorem each_nil {α : Type} (f : State → α → State) (s : State) : each [] f s = s := rfl

/-- An application for one element more. -/
@[simp] theorem each_cons {α : Type} (f : State → α → State) (a : α) (l : List α) (s : State) : each (a :: l) f s = each l f (f s a) := rfl

/-- A condition that holds. -/
@[simp] theorem whenDo_true (f : State → State) (s : State) : whenDo true f s = f s := rfl

/-- A condition that does not. -/
@[simp] theorem whenDo_false (f : State → State) (s : State) : whenDo false f s = s := rfl

/-- A property that the application keeps holds with the condition or without it. -/
theorem whenDo_keeps (P : State → Prop) {f : State → State} (hf : ∀ s, P s → P (f s)) (b : Bool) {s : State} (h : P s) :
    P (whenDo b f s) := by
  cases b
  · exact h
  · exact hf s h

/-! ## The trouble channels (R468) -/

/-- R468: an entry that is sent changes the log alone. -/
@[simp] theorem sendEnt_same (src : Nat) (e : LogEnt) (s : State) :
    (sendEnt src e s).glb = s.glb ∧ (sendEnt src e s).tb = s.tb ∧ (sendEnt src e s).port = s.port ∧ (sendEnt src e s).ring = s.ring ∧ (sendEnt src e s).head = s.head ∧ (sendEnt src e s).headAcc = s.headAcc ∧ (sendEnt src e s).stair = s.stair ∧ (sendEnt src e s).rs = s.rs ∧ (sendEnt src e s).tally = s.tally ∧ (sendEnt src e s).pulse = s.pulse ∧ (sendEnt src e s).spec = s.spec ∧ (sendEnt src e s).ev = s.ev ∧ (sendEnt src e s).plan = s.plan ∧ (sendEnt src e s).red = s.red ∧ (sendEnt src e s).lc = s.lc ∧ (sendEnt src e s).cal = s.cal ∧ (sendEnt src e s).gal = s.gal ∧ (sendEnt src e s).mt = s.mt ∧ (sendEnt src e s).host = s.host ∧ (sendEnt src e s).role = s.role ∧ (sendEnt src e s).tmp = s.tmp ∧ (sendEnt src e s).pwr = s.pwr ∧ (sendEnt src e s).fresh = s.fresh ∧ (sendEnt src e s).pending = s.pending := by
  simp only [sendEnt]
  repeat' split
  all_goals (and_intros <;> rfl)

/-- R468: an entry that is always logged, or finds its channel below 28, stands in the channel or waits for a place. -/
theorem sendEnt_logged (src : Nat) (e : LogEnt) (s : State) (h : e.always = true ∨ (s.getLogSrc src).chan.length < 28) :
    e ∈ ((sendEnt src e s).getLogSrc src).chan ∨ e ∈ ((sendEnt src e s).getLogSrc src).waiting := by
  simp only [sendEnt]
  split
  · split <;> simp
  · next ha =>
    have hl : (s.getLogSrc src).chan.length < 28 := by simpa [ha] using h
    simp [hl]

/-- R468: what stood in a channel, or waited for a place in it, still does after another entry was sent. -/
theorem sendEnt_kept (src k : Nat) (e x : LogEnt) (s : State) (h : x ∈ (s.getLogSrc k).chan ∨ x ∈ (s.getLogSrc k).waiting) :
    x ∈ ((sendEnt src e s).getLogSrc k).chan ∨ x ∈ ((sendEnt src e s).getLogSrc k).waiting := by
  by_cases hk : k = src
  · subst hk
    simp only [sendEnt]
    repeat' split
    all_goals
      simp only [State.getLogSrc] at h
      rcases h with h | h <;> simp [h, State.getLogSrc, State.modLogIsl, State.modLogSrc]
  · simp only [sendEnt]
    repeat' split
    all_goals simpa [State.getLogSrc, State.modLogIsl, State.modLogSrc, tget_tset_ne _ _ _ _ _ hk] using h

/-- A trouble record changes the log alone. -/
@[simp] theorem raiseSev_same (c : LogCode) (v w i : Nat) (l : List (Nat × Nat)) (s : State) :
    (raiseSev c v w i l s).glb = s.glb ∧ (raiseSev c v w i l s).tb = s.tb ∧ (raiseSev c v w i l s).port = s.port ∧ (raiseSev c v w i l s).ring = s.ring ∧ (raiseSev c v w i l s).head = s.head ∧ (raiseSev c v w i l s).headAcc = s.headAcc ∧ (raiseSev c v w i l s).stair = s.stair ∧ (raiseSev c v w i l s).rs = s.rs ∧ (raiseSev c v w i l s).tally = s.tally ∧ (raiseSev c v w i l s).pulse = s.pulse ∧ (raiseSev c v w i l s).spec = s.spec ∧ (raiseSev c v w i l s).ev = s.ev ∧ (raiseSev c v w i l s).plan = s.plan ∧ (raiseSev c v w i l s).red = s.red ∧ (raiseSev c v w i l s).lc = s.lc ∧ (raiseSev c v w i l s).cal = s.cal ∧ (raiseSev c v w i l s).gal = s.gal ∧ (raiseSev c v w i l s).mt = s.mt ∧ (raiseSev c v w i l s).host = s.host ∧ (raiseSev c v w i l s).role = s.role ∧ (raiseSev c v w i l s).tmp = s.tmp ∧ (raiseSev c v w i l s).pwr = s.pwr ∧ (raiseSev c v w i l s).fresh = s.fresh ∧ (raiseSev c v w i l s).pending = s.pending := by
  simp [raiseSev]

/-- A trouble record changes the log alone. -/
@[simp] theorem raiseAt_same (c : LogCode) (w i : Nat) (l : List (Nat × Nat)) (s : State) :
    (raiseAt c w i l s).glb = s.glb ∧ (raiseAt c w i l s).tb = s.tb ∧ (raiseAt c w i l s).port = s.port ∧ (raiseAt c w i l s).ring = s.ring ∧ (raiseAt c w i l s).head = s.head ∧ (raiseAt c w i l s).headAcc = s.headAcc ∧ (raiseAt c w i l s).stair = s.stair ∧ (raiseAt c w i l s).rs = s.rs ∧ (raiseAt c w i l s).tally = s.tally ∧ (raiseAt c w i l s).pulse = s.pulse ∧ (raiseAt c w i l s).spec = s.spec ∧ (raiseAt c w i l s).ev = s.ev ∧ (raiseAt c w i l s).plan = s.plan ∧ (raiseAt c w i l s).red = s.red ∧ (raiseAt c w i l s).lc = s.lc ∧ (raiseAt c w i l s).cal = s.cal ∧ (raiseAt c w i l s).gal = s.gal ∧ (raiseAt c w i l s).mt = s.mt ∧ (raiseAt c w i l s).host = s.host ∧ (raiseAt c w i l s).role = s.role ∧ (raiseAt c w i l s).tmp = s.tmp ∧ (raiseAt c w i l s).pwr = s.pwr ∧ (raiseAt c w i l s).fresh = s.fresh ∧ (raiseAt c w i l s).pending = s.pending := by
  simp [raiseAt]

/-- A trouble record changes the log alone. -/
@[simp] theorem raise_same (c : LogCode) (i : Nat) (l : List (Nat × Nat)) (s : State) :
    (raise c i l s).glb = s.glb ∧ (raise c i l s).tb = s.tb ∧ (raise c i l s).port = s.port ∧ (raise c i l s).ring = s.ring ∧ (raise c i l s).head = s.head ∧ (raise c i l s).headAcc = s.headAcc ∧ (raise c i l s).stair = s.stair ∧ (raise c i l s).rs = s.rs ∧ (raise c i l s).tally = s.tally ∧ (raise c i l s).pulse = s.pulse ∧ (raise c i l s).spec = s.spec ∧ (raise c i l s).ev = s.ev ∧ (raise c i l s).plan = s.plan ∧ (raise c i l s).red = s.red ∧ (raise c i l s).lc = s.lc ∧ (raise c i l s).cal = s.cal ∧ (raise c i l s).gal = s.gal ∧ (raise c i l s).mt = s.mt ∧ (raise c i l s).host = s.host ∧ (raise c i l s).role = s.role ∧ (raise c i l s).tmp = s.tmp ∧ (raise c i l s).pwr = s.pwr ∧ (raise c i l s).fresh = s.fresh ∧ (raise c i l s).pending = s.pending := by
  simp [raise]

/-- R416: counting an audit record changes the role registers alone. -/
@[simp] theorem countAudit_same (s : State) :
    (countAudit s).glb = s.glb ∧ (countAudit s).tb = s.tb ∧ (countAudit s).port = s.port ∧ (countAudit s).ring = s.ring ∧ (countAudit s).head = s.head ∧ (countAudit s).headAcc = s.headAcc ∧ (countAudit s).stair = s.stair ∧ (countAudit s).rs = s.rs ∧ (countAudit s).tally = s.tally ∧ (countAudit s).pulse = s.pulse ∧ (countAudit s).spec = s.spec ∧ (countAudit s).ev = s.ev ∧ (countAudit s).plan = s.plan ∧ (countAudit s).red = s.red ∧ (countAudit s).lc = s.lc ∧ (countAudit s).cal = s.cal ∧ (countAudit s).gal = s.gal ∧ (countAudit s).mt = s.mt ∧ (countAudit s).host = s.host ∧ (countAudit s).tmp = s.tmp ∧ (countAudit s).pwr = s.pwr ∧ (countAudit s).log = s.log ∧ (countAudit s).fresh = s.fresh ∧ (countAudit s).pending = s.pending := by
  simp [countAudit]

/-- R416: ROLE_AUDIT_CNT goes on by one. -/
@[simp] theorem countAudit_role (s : State) : (countAudit s).role = { s.role with audit := (s.role.audit + 1) % 2 ^ 32 } := rfl

/-- R415: an audit record under a code of its own changes the log and the count. -/
@[simp] theorem raiseAudit_same (c : LogCode) (i : Nat) (l : List (Nat × Nat)) (s : State) :
    (raiseAudit c i l s).glb = s.glb ∧ (raiseAudit c i l s).tb = s.tb ∧ (raiseAudit c i l s).port = s.port ∧ (raiseAudit c i l s).ring = s.ring ∧ (raiseAudit c i l s).head = s.head ∧ (raiseAudit c i l s).headAcc = s.headAcc ∧ (raiseAudit c i l s).stair = s.stair ∧ (raiseAudit c i l s).rs = s.rs ∧ (raiseAudit c i l s).tally = s.tally ∧ (raiseAudit c i l s).pulse = s.pulse ∧ (raiseAudit c i l s).spec = s.spec ∧ (raiseAudit c i l s).ev = s.ev ∧ (raiseAudit c i l s).plan = s.plan ∧ (raiseAudit c i l s).red = s.red ∧ (raiseAudit c i l s).lc = s.lc ∧ (raiseAudit c i l s).cal = s.cal ∧ (raiseAudit c i l s).gal = s.gal ∧ (raiseAudit c i l s).mt = s.mt ∧ (raiseAudit c i l s).host = s.host ∧ (raiseAudit c i l s).tmp = s.tmp ∧ (raiseAudit c i l s).pwr = s.pwr ∧ (raiseAudit c i l s).fresh = s.fresh ∧ (raiseAudit c i l s).pending = s.pending := by
  simp [raiseAudit]

/-- R416: an audit record under a code of its own counts. -/
@[simp] theorem raiseAudit_role (c : LogCode) (i : Nat) (l : List (Nat × Nat)) (s : State) :
    (raiseAudit c i l s).role = { s.role with audit := (s.role.audit + 1) % 2 ^ 32 } := by simp [raiseAudit]

/-- R415: an AUDIT record changes the log and the count. -/
@[simp] theorem auditWrite_same (r p a : Nat) (v w : Word) (s : State) :
    (auditWrite r p a v w s).glb = s.glb ∧ (auditWrite r p a v w s).tb = s.tb ∧ (auditWrite r p a v w s).port = s.port ∧ (auditWrite r p a v w s).ring = s.ring ∧ (auditWrite r p a v w s).head = s.head ∧ (auditWrite r p a v w s).headAcc = s.headAcc ∧ (auditWrite r p a v w s).stair = s.stair ∧ (auditWrite r p a v w s).rs = s.rs ∧ (auditWrite r p a v w s).tally = s.tally ∧ (auditWrite r p a v w s).pulse = s.pulse ∧ (auditWrite r p a v w s).spec = s.spec ∧ (auditWrite r p a v w s).ev = s.ev ∧ (auditWrite r p a v w s).plan = s.plan ∧ (auditWrite r p a v w s).red = s.red ∧ (auditWrite r p a v w s).lc = s.lc ∧ (auditWrite r p a v w s).cal = s.cal ∧ (auditWrite r p a v w s).gal = s.gal ∧ (auditWrite r p a v w s).mt = s.mt ∧ (auditWrite r p a v w s).host = s.host ∧ (auditWrite r p a v w s).tmp = s.tmp ∧ (auditWrite r p a v w s).pwr = s.pwr ∧ (auditWrite r p a v w s).fresh = s.fresh ∧ (auditWrite r p a v w s).pending = s.pending := by
  simp [auditWrite]

/-- R416: an AUDIT record counts. -/
@[simp] theorem auditWrite_role (r p a : Nat) (v w : Word) (s : State) :
    (auditWrite r p a v w s).role = { s.role with audit := (s.role.audit + 1) % 2 ^ 32 } := by simp [auditWrite]

/-! ## Interrupt sources (R392) -/

/-- R392: a source changes the host ports alone. -/
@[simp] theorem irqPort_same (b p : Nat) (s : State) :
    (irqPort b p s).glb = s.glb ∧ (irqPort b p s).tb = s.tb ∧ (irqPort b p s).port = s.port ∧ (irqPort b p s).ring = s.ring ∧ (irqPort b p s).head = s.head ∧ (irqPort b p s).headAcc = s.headAcc ∧ (irqPort b p s).stair = s.stair ∧ (irqPort b p s).rs = s.rs ∧ (irqPort b p s).tally = s.tally ∧ (irqPort b p s).pulse = s.pulse ∧ (irqPort b p s).spec = s.spec ∧ (irqPort b p s).ev = s.ev ∧ (irqPort b p s).plan = s.plan ∧ (irqPort b p s).red = s.red ∧ (irqPort b p s).lc = s.lc ∧ (irqPort b p s).cal = s.cal ∧ (irqPort b p s).gal = s.gal ∧ (irqPort b p s).mt = s.mt ∧ (irqPort b p s).role = s.role ∧ (irqPort b p s).tmp = s.tmp ∧ (irqPort b p s).pwr = s.pwr ∧ (irqPort b p s).log = s.log ∧ (irqPort b p s).fresh = s.fresh ∧ (irqPort b p s).pending = s.pending := by
  simp [irqPort]

/-- R392: a source is set in its port. -/
theorem irqPort_hp (b p : Nat) (s : State) :
    (irqPort b p s).getHp p = { s.getHp p with intStat := (s.getHp p).intStat ||| BitVec.ofNat 32 (2 ^ b) } := by simp [irqPort]

/-- R392: a source of one port leaves the others. -/
theorem irqPort_hp_ne (b p q : Nat) (s : State) (h : q ≠ p) : (irqPort b p s).getHp q = s.getHp q := State.getHp_modHp_ne _ _ _ _ h

/-- R392: an event changes the host ports alone. -/
@[simp] theorem irqAll_same (b : Nat) (s : State) :
    (irqAll b s).glb = s.glb ∧ (irqAll b s).tb = s.tb ∧ (irqAll b s).port = s.port ∧ (irqAll b s).ring = s.ring ∧ (irqAll b s).head = s.head ∧ (irqAll b s).headAcc = s.headAcc ∧ (irqAll b s).stair = s.stair ∧ (irqAll b s).rs = s.rs ∧ (irqAll b s).tally = s.tally ∧ (irqAll b s).pulse = s.pulse ∧ (irqAll b s).spec = s.spec ∧ (irqAll b s).ev = s.ev ∧ (irqAll b s).plan = s.plan ∧ (irqAll b s).red = s.red ∧ (irqAll b s).lc = s.lc ∧ (irqAll b s).cal = s.cal ∧ (irqAll b s).gal = s.gal ∧ (irqAll b s).mt = s.mt ∧ (irqAll b s).role = s.role ∧ (irqAll b s).tmp = s.tmp ∧ (irqAll b s).pwr = s.pwr ∧ (irqAll b s).log = s.log ∧ (irqAll b s).fresh = s.fresh ∧ (irqAll b s).pending = s.pending := by
  simp [irqAll]

/-- R392: an event sets its source in every port. -/
theorem irqAll_hp (b p : Nat) (s : State) (h : p < 4) :
    (irqAll b s).getHp p = { s.getHp p with intStat := (s.getHp p).intStat ||| BitVec.ofNat 32 (2 ^ b) } := by
  have : p = 0 ∨ p = 1 ∨ p = 2 ∨ p = 3 := by omega
  rcases this with rfl | rfl | rfl | rfl <;> simp [irqAll, irqPort_hp, irqPort_hp_ne]

/-! ## Galleries (R359) -/

/-- Bytes stored in a gallery change the galleries alone. -/
@[simp] theorem galPuts_same (g a : Nat) (bs : List Byte) (s : State) :
    (galPuts g a bs s).glb = s.glb ∧ (galPuts g a bs s).tb = s.tb ∧ (galPuts g a bs s).port = s.port ∧ (galPuts g a bs s).ring = s.ring ∧ (galPuts g a bs s).head = s.head ∧ (galPuts g a bs s).headAcc = s.headAcc ∧ (galPuts g a bs s).stair = s.stair ∧ (galPuts g a bs s).rs = s.rs ∧ (galPuts g a bs s).tally = s.tally ∧ (galPuts g a bs s).pulse = s.pulse ∧ (galPuts g a bs s).spec = s.spec ∧ (galPuts g a bs s).ev = s.ev ∧ (galPuts g a bs s).plan = s.plan ∧ (galPuts g a bs s).red = s.red ∧ (galPuts g a bs s).lc = s.lc ∧ (galPuts g a bs s).cal = s.cal ∧ (galPuts g a bs s).mt = s.mt ∧ (galPuts g a bs s).host = s.host ∧ (galPuts g a bs s).role = s.role ∧ (galPuts g a bs s).tmp = s.tmp ∧ (galPuts g a bs s).pwr = s.pwr ∧ (galPuts g a bs s).log = s.log ∧ (galPuts g a bs s).fresh = s.fresh ∧ (galPuts g a bs s).pending = s.pending := by
  simp only [galPuts]
  split
  · simp
  · simp

/-- Bytes stored in one gallery leave the others. -/
theorem galPuts_ne (g a j : Nat) (bs : List Byte) (s : State) (h : j ≠ g) : (galPuts g a bs s).getGal j = s.getGal j := by
  simp only [galPuts]
  split
  · exact State.getGal_modGal_ne _ _ _ _ h
  · rfl

/-- R359: a gallery whose domain runs and that keeps its contents takes the bytes. -/
theorem galPuts_mem (g a : Nat) (bs : List Byte) (s : State) (h : s.galOn g = true) :
    ((galPuts g a bs s).getGal g).mem = mputs galDefault (s.getGal g).mem a bs := by simp [galPuts, h, galTouch]

/-- Every gallery in a table is canonical: the form in which the commands keep it. -/
theorem modGal_canonical {s : State} (h : ∀ e ∈ s.gal, memWf galDefault e.2.mem = true) (g : Nat) (f : Gal → Gal)
    (hf : memWf galDefault (s.getGal g).mem = true → memWf galDefault (f (s.getGal g)).mem = true) :
    ∀ e ∈ (s.modGal g f).gal, memWf galDefault e.2.mem = true := by
  intro e he
  rw [State.modGal_gal] at he
  rcases mem_tset he with rfl | he
  · refine hf ?_
    rcases tget_mem ({} : Gal) s.gal g with hd | hm
    · simp only [State.getGal, hd]; rfl
    · exact h _ hm
  · exact h e he

/-- Storing bytes keeps every gallery canonical. -/
theorem galPuts_canonical {s : State} (h : ∀ e ∈ s.gal, memWf galDefault e.2.mem = true) (g a : Nat) (bs : List Byte) :
    ∀ e ∈ (galPuts g a bs s).gal, memWf galDefault e.2.mem = true := by
  simp only [galPuts]
  split
  · exact modGal_canonical h g _ (fun hw => memWf_mputs a bs hw)
  · exact h

/-! ## Sessions (R412) -/

/-- R412: the end of a session changes the role registers, the port's context latch and the log. -/
@[simp] theorem endSession_same (c p : Nat) (s : State) :
    (endSession c p s).glb = s.glb ∧ (endSession c p s).tb = s.tb ∧ (endSession c p s).port = s.port ∧ (endSession c p s).ring = s.ring ∧ (endSession c p s).head = s.head ∧ (endSession c p s).headAcc = s.headAcc ∧ (endSession c p s).stair = s.stair ∧ (endSession c p s).rs = s.rs ∧ (endSession c p s).tally = s.tally ∧ (endSession c p s).pulse = s.pulse ∧ (endSession c p s).spec = s.spec ∧ (endSession c p s).ev = s.ev ∧ (endSession c p s).plan = s.plan ∧ (endSession c p s).red = s.red ∧ (endSession c p s).lc = s.lc ∧ (endSession c p s).cal = s.cal ∧ (endSession c p s).gal = s.gal ∧ (endSession c p s).mt = s.mt ∧ (endSession c p s).tmp = s.tmp ∧ (endSession c p s).pwr = s.pwr ∧ (endSession c p s).fresh = s.fresh ∧ (endSession c p s).pending = s.pending := by
  simp only [endSession]
  split
  · simp
  · simp

/-- R412: the port has no session. -/
theorem endSession_role (c p : Nat) (s : State) : ((endSession c p s).getRolePort p).role = 0 := by
  simp only [endSession]
  split
  · assumption
  · simp [State.getRolePort, State.modRolePort]

/-- R412: no other port's session ends. -/
theorem endSession_ne (c p q : Nat) (s : State) (h : q ≠ p) : (endSession c p s).getRolePort q = s.getRolePort q := by
  simp only [endSession]
  split
  · rfl
  · simp [State.getRolePort, State.modRolePort, tget_tset_ne _ _ _ _ _ h]

end Sys2Proof.Machine
end

