-- ==== Sys2Proof/Tests/Slice0.lean ====
section
/-! SUPPORT. Small tests: the checks of WellFormed, single steps against worked values of the spec, and for each statement with
hypotheses a state and operands that meet them (theorems `witness_…`, one part for each clause). -/

namespace Sys2Proof.Tests

open Sys2Proof Sys2Proof.Machine Sys2Proof.Cert

/-- The main domain runs, every island is clocked, no warning is on. -/
def up : State :=
  { glb := { lock := 0x3FF, linkLock := 0xFFFFFFFF }, pwr := { st := .normal, mainOn := true, pg := true, railsPg := 0xF } }

/-- The same with a maker's session in port 0. -/
def upM : State := { up with role := { port := [(0, { role := 3 })] } }

theorem mayAct_upM : ∀ r ≤ 3, ∀ t ≤ 9, MayAct upM 0 r t := by unfold MayAct; decide

/-! ## The queue, the timebase, islands, power and save -/

theorem witness_StepRunsFrontCommand : State.reset.pending = [] := rfl

theorem witness_TickAdvancesIndexAndNco :
    let s := { up with tb := { disc := .acquire }, ring := [(0, { st := .run })] }
    s.tbOn = true ∧ s.tb.idx + 1 < 2 ^ 64 ∧ s.tb.disc = .acquire ∧ s.up islHost = true ∧ s.pwr.mainOn = true ∧
      0 < s.ringCount ∧ s.linkUp 0 = true ∧ (s.getRing 0).st ≠ .off ∧ (s.getRing 1).st = .off := by decide

/-- The timebase at index `n` in state `d`, the latest accepted edge at index 0. -/
def tbAt (n : Nat) (d : Disc) : State := { up with tb := { idx := n, disc := d, lastEdge := some 0 } }

theorem witness_PpsEdgeIgnoredAcceptedOrOutlier_ignored : (tbAt 191999 .locked).tbOn = true ∧ (191999 * 65536) / 65536 = (tbAt 191999 .locked).tb.idx ∧
    (∃ e, (tbAt 191999 .locked).tb.lastEdge = some e ∧ 191999 * 65536 < e + 192000 * 65536) := by
  exact ⟨by decide, by decide, 0, by decide, by decide⟩

theorem witness_PpsEdgeIgnoredAcceptedOrOutlier_accepted :
    let s := tbAt 384040 .acquire
    let l := tbAt 384000 .locked
    s.tbOn = true ∧ l.tbOn = true ∧ (∀ e, s.tb.lastEdge = some e → e + 192000 * 65536 ≤ 384040 * 65536) ∧
      (∀ e, l.tb.lastEdge = some e → e + 192000 * 65536 ≤ 384000 * 65536) ∧ s.tb.takeNext = false ∧ l.tb.takeNext = false ∧
      (s.tb.nearest ((384040 * 65536 : Int) - s.tb.delay)).2.natAbs ≤ 40 * 65536 ∧
      (l.tb.nearest ((384000 * 65536 : Int) - l.tb.delay)).2.natAbs * 10 ^ 9 ≤ 2000 * 65536 * 384000 ∧
      0x4FFBE76C8B44 ≤ s.tb.ratio ∧ s.tb.ratio ≤ 0x5004189374BC := by
  refine ⟨by decide, by decide, ?_, ?_, by decide, by decide, by decide, by decide, by decide, by decide⟩ <;>
    (intro e h; cases h; decide)

theorem witness_PpsEdgeIgnoredAcceptedOrOutlier_outlier :
    let s := tbAt 384001 .locked
    s.tbOn = true ∧ (∀ e, s.tb.lastEdge = some e → e + 192000 * 65536 ≤ 384001 * 65536) ∧ s.tb.takeNext = false ∧
      2000 * 65536 * 384000 < (s.tb.nearest ((384001 * 65536 : Int) - s.tb.delay)).2.natAbs * 10 ^ 9 ∧ s.tb.outRun.length < 2 := by
  refine ⟨by decide, ?_, by decide, by decide, by decide⟩; intro e h; cases h; decide

theorem witness_PpsEdgeIgnoredAcceptedOrOutlier_holdover :
    (tbAt 192000 .holdover).tbOn = true ∧ (tbAt 192000 .free).tb.discEn = true ∧
      (∀ e, (tbAt 192000 .holdover).tb.lastEdge = some e → e + 192000 * 65536 ≤ 192000 * 65536) := by
  refine ⟨by decide, by decide, ?_⟩; intro e h; cases h; decide

theorem witness_DisciplineLossAndTimeOfDay_timeout :
    (tbAt 576000 .locked).tbOn = true ∧
      (∀ e, (tbAt 576000 .locked).tb.lastEdge = some e → e + 576000 * 65536 ≤ (tbAt 576000 .locked).tb.idx * 65536) := by
  refine ⟨by decide, ?_⟩; intro e h; cases h; decide

theorem witness_DisciplineLossAndTimeOfDay_write : MayAct upM 0 2 islSteward := mayAct_upM 2 (by decide) _ (by decide)

theorem witness_DisciplineLossAndTimeOfDay_boundary :
    let s := { up with tb := { idx := 384000, arm := true, taiHist := [(0, 5)] } }
    s.tbOn = true ∧ s.tb.second + 384000 ≤ s.tb.idx ∧ s.tb.arm = true ∧ s.tb.armAt < s.tb.second + 384000 ∧
      (tbAt 384000 .free).tb.arm = false ∧ (tbAt 384000 .free).tb.second + 384000 ≤ (tbAt 384000 .free).tb.idx := by decide

theorem witness_IslandsAndCloakroomClocked :
    bit up.glb.linkLost 31 = false ∧ bit up.glb.lost (islBit .stair) = false ∧
      bit up.glb.lost (islBit .analogue) = false ∧ { up with glb := { lock := 0x3BF } }.up islAnalog = false ∧
      (∀ r, Island.stair ≠ .link r) ∧ up.linkUp 31 = true ∧ up.up (islBit .resamp) = true ∧ (∀ r, Island.resamp ≠ .link r) ∧
      up.pwr.pg = true ∧ up.refBad = false ∧ { up with tmp := { sample := 1023, refBadAt := some 0 } }.refBad = true := by
  refine ⟨by decide, by decide, by decide, by decide, nofun, by decide, by decide, nofun, by decide, by decide, by decide⟩

/-- A save record with nothing in it. -/
def rec0 (n : Nat) : SaveRec :=
  { seq := n, epoch := 7, idx := 0, warning := true, ctx := [], pulses := [], inputs := [], retired := [], sealed := false
    operator := none, installer := none, audit := 0, mons := [], loops := [], tempHi := 125, tempLo := -45, minver := 0, slot := 0
    pfwEn := true, ewThr := 85, period := 10, logNext := 0, warnings := 0 }

theorem witness_PowerGoodAndMainRelease_powerGood :
    State.reset.pwr.pg = false ∧ State.reset.pwr.mainOn = false ∧ State.reset.pwr.resetting = false ∧ State.reset.tmp.otpCount ≤ 2048 ∧
      (Backup.mk true true true).kept = true ∧ (Backup.mk true true false).mirrorOk = false ∧ (Backup.mk true false true).tailOk = false := by
  decide

theorem witness_PowerGoodAndMainRelease_release :
    let s : State := { pwr := { pg := true, copyA := some (rec0 1), copyB := some (rec0 2), epochs := [9, 8] } }
    s.pwr.mainOn = false ∧ s.pwr.pg = true ∧ s.pwr.resetting = false ∧ 9 ∈ s.pwr.epochs ∧ (∀ f ∈ s.pwr.epochs, f ≤ 9) ∧
      s.tmp.pending = 0 ∧ s.inWarning = false ∧ s.pwr.copyA = some (rec0 1) ∧ s.pwr.copyB = some (rec0 2) ∧ s.pwr.single = false ∧ (rec0 1).seq < (rec0 2).seq ∧
      (rec0 1).epoch ≤ 9 ∧ (rec0 2).epoch ≤ 9 := by decide

theorem witness_PowerGoodAndMainRelease_afterReset :
    let s : State := { pwr := { pg := true, resetting := true } }
    s.pwr.mainOn = false ∧ s.pwr.pg = true ∧ s.pwr.resetting = true ∧ s.inWarning = false := by decide

/-- A plan that declares nothing. -/
def plan0 : Plan :=
  { id := 1, version := 1, rings := [], heads := [], groups := [], ctxs := [], nodes := [], pulses := [], rosterGroup := 0
    rosterDwell := 0, roster := [], budgets := [] }

theorem witness_PowerWarningSheds :
    let a := { up with ring := [(3, { st := .run })], pwr := { up.pwr with copyA := some (rec0 4), copyB := some (rec0 5) }, plan := { cur := some plan0 } }
    let s := { a with pwr := { a.pwr with saveDue := true } }
    let w : State := { pwr := { pg := true } }
    s.maySave = true ∧ a.maySave = false ∧ bit s.glb.lost islPower = false ∧ s.pwr.single = false ∧ (rec0 4).seq < (rec0 5).seq ∧
      s.pwr.copyA = some (rec0 4) ∧ s.pwr.copyB = some (rec0 5) ∧ w.pwr.mainOn = false ∧ w.pwr.resetting = false ∧ w.pwr.pg = true ∧
      w.pwr.st ≠ .warning ∧ w.pwr.st ≠ .saved ∧ bit w.glb.lost islPower = false ∧ (1#3).getLsbD 0 = true ∧
    s.pwr.mainOn = true ∧ s.pwr.st ≠ .warning ∧ s.pwr.st ≠ .saved ∧ (2#3).getLsbD 1 = true ∧ s.pwr.pfwEn = true ∧
      s.plan.st ≠ .preparing ∧ (s.getRing 3).st = .run ∧ { up with pwr := { st := .saved } }.pwr.st = .saved := by decide

/-- A warning is on since index 10; the index now is `n`. -/
def warned (n : Nat) : State := { up with tb := { idx := n }, pwr := { mainOn := true, pg := true, st := .warning, w := 10 } }

theorem witness_SavesWrittenInWarningAndInPeriod_warning :
    (warned 778).inWarning = true ∧ (warned 778).pwr.w + 768 ≤ (warned 778).tb.idx ∧ (warned 522).pwr.st = .warning ∧
      (warned 522).pwr.interrupted = false ∧ (warned 522).pwr.recGone = false ∧ (warned 522).pwr.single = false ∧
      (∀ u, u < 9 → ((warned 522).getUnit u).replay = none) ∧ (warned 522).pwr.w + 512 ≤ (warned 522).tb.idx ∧
      bit (warned 522).glb.lost islPower = false ∧ (warned 522).tb.idx < max 10 (warned 522).tally.replayAt + 2048 ∧ (warned 522).specSent = true ∧
      (warned 522).pwr.tailAt + 96 ≤ (warned 522).tb.idx ∧ (warned 2058).pwr.recDone = false ∧ (warned 2058).pwr.w + 2048 ≤ (warned 2058).tb.idx := by decide

theorem witness_SavesWrittenInWarningAndInPeriod_periodic :
    let s := { up with plan := { cur := some plan0 }, pwr := { up.pwr with saveDue := true, copyA := some (rec0 4), copyB := some (rec0 5) } }
    s.up islPower = true ∧ s.pwr.st = .normal ∧ s.plan.cur.isSome = true ∧ s.pwr.resetAt = none ∧ s.pwr.saveDue = true ∧
      s.pwr.single = false ∧ s.pwr.copyA = some (rec0 4) ∧ s.pwr.copyB = some (rec0 5) ∧ (rec0 4).seq < (rec0 5).seq ∧
      MayAct upM 0 3 islPower := by
  exact ⟨by decide, by decide, by decide, by decide, by decide, by decide, by decide, by decide, by decide, mayAct_upM 3 (by decide) _ (by decide)⟩

theorem witness_MainDomainStopsOrIsReset :
    let s := { warned 512 with pwr := { mainOn := true, st := .normal, resetAt := some 0 } }
    (warned 10).pwr.mainOn = true ∧ (warned 10).inWarning = true ∧ (warned 2314).pwr.w + 2304 ≤ (warned 2314).tb.idx ∧
      bit (warned 10).glb.lost islPower = false ∧ (warned 600).freezeDue = true ∧ (warned 600).pwr.single = false ∧ bit s.glb.lost islPower = false ∧
      (∃ torn, Instr.vholdShutdown 1 = .vholdShutdown torn) ∧ s.pwr.resetAt = some 0 ∧ s.pwr.mainOn = true ∧ s.inWarning = false ∧ s.pwr.single = false ∧
      (∀ u, u < 9 → (s.getUnit u).replay = none) ∧ 0 + 512 ≤ s.tb.idx := by
  refine ⟨by decide, by decide, by decide, by decide, by decide, by decide, by decide, ⟨1, rfl⟩, by decide⟩

/-! ## Chapters 3 and 4: ports, rings and heads -/

/-- Ring 31 is in state `x`, its port 63 is `q`, its port 62 in FRAME_LOCK. -/
def ringIn (x : Ring) (q : Port) : State := { up with ring := [(31, x)], port := [(62, { rx := .frameLock }), (63, q)], tb := { idx := 500000 } }

theorem witness_PortReceiverStates :
    let s := fun q => ringIn { st := .run } q
    (∀ q ∈ [({} : Port), { rx := .signal }, { rx := .frameLock, badRun := 2 }, { rx := .frameLock, badRun := 3, cdr := true }, { rx := .charAlign }],
      PortServes (s q) 63) ∧
      ((s {}).getPort 63).rx = .down ∧ ((s { rx := .signal }).getPort 63).rx = .signal ∧ ((s {}).getRing 31).st ≠ .shed ∧
      ((s {}).getPort 63).lockAt + 384000 < (s {}).tb.idx ∧ (s {}).tb.idx < 2 ^ 64 ∧
      ((s {}).getLogSrc (troubleChan ((ent .lnkLockLost 0 63 [] (s {})).code / 256))).chan.length < 28 := by
  unfold PortServes; decide

/-- A frame with correct check words that reaches port 63 as number `n`: its control characters, 128 empty slots, its cells. -/
def frame63 (n : Nat) : List Chr :=
  let b := fun (l : List Byte) => l.map (fun x => x.setWidth 9)
  let hd := leBytes 6 n ++ [0, 0, 31, 255] ++ leBytes 4 0
  let slots : List Byte := List.replicate 1024 0
  let cells : List Byte := List.replicate 232 0
  [kComma, kEast] ++ b (hd ++ slots ++ cells ++ leBytes 4 (crc32 (hd ++ cells)).toNat ++ leBytes 4 (crc32 slots).toNat)

theorem witness_FrameReceptionAndLock_header :
    let h := frameHdr (frame63 9)
    h.comma = true ∧ h.ctlOk = true ∧ h.rid = 63 / 2 ∧ h.looped = false ∧ h.backfill = false ∧
      h.dir = (if (63 : Nat) % 2 = 0 then kWest else kEast) ∧ h.idx = 9 % 2 ^ 48 ∧
      (frameHdr (kComma :: (frame63 9).tail.set 3 1)).ctlOk = false := by decide +kernel

theorem witness_FrameReceptionAndLock_states :
    let a := ringIn { st := .run } { rx := .bitLock, commaRun := 2, lastArr := some 100 }
    let b := ringIn { st := .run } { rx := .charAlign, goodRun := 3, expIdx := 9 }
    let c := ringIn { st := .run, runFrame := some 4, k := 3, nextRel := 6 } { rx := .frameLock, expIdx := 9, lastArr := some 107 }
    let d := ringIn { st := .run } { retired := true }
    (d.linkUp 31 = true ∧ d.portLive 63 = false) ∧ PortServes a 63 ∧ PortServes b 63 ∧ PortServes c 63 ∧
      (a.getRing 31).st ≠ .shed ∧ (a.getPort 63).rx = .bitLock ∧ (a.getPort 63).commaRun = 2 ∧ samePhase (a.getPort 63) 107 = true ∧
      (b.getPort 63).rx = .charAlign ∧ (b.getPort 63).goodRun = 3 ∧ 9 = (b.getPort 63).expIdx % 2 ^ 48 ∧
      (c.getPort 63).rx = .frameLock ∧ samePhase (c.getPort 63) 100 = true ∧ (c.getPort 63).badRun < 3 ∧
      (c.getRing 31).st = .run ∧ (c.getRing 31).runFrame = some 4 ∧ 4 ≤ (c.getPort 63).expIdx ∧
      (c.getRing 31).k + (c.getRing 31).nextRel ≤ (c.getPort 63).expIdx := by
  unfold PortServes; decide

/-- A plan entry of head 3970 (ring 31, position 2). -/
def planHead2 : PlanHead := { serial := 77, ring := 31, pos := 2, typ := 1, gainP := 2, gainA := 3, trimP := 5, trimA := 6 }

/-- A plan that declares ring 31 with that head. -/
def plan31 : Plan := { plan0 with rings := [{ ring := 31, cfg := {}, swing := 8 }], heads := [planHead2] }

theorem witness_RingEnumeratesMeasuresAndRuns_enumerates :
    let a := { ringIn { st := .train } { rx := .frameLock, hop := 1 } with plan := { cur := some plan31 } }
    let b := ringIn { st := .enum, enumFailAt := some 461600 } { rx := .frameLock }
    a.linkUp 31 = true ∧ (a.getRing 31).st = .train ∧ a.trained 31 = true ∧ (a.getPort 62).retired = false ∧ (a.getPort 63).retired = false ∧
      (a.getPort 62).hop ≠ (a.getPort 63).hop ∧ (b.getPort 62).hop = (b.getPort 63).hop ∧ b.loopedRing 31 = false ∧ a.loopedRing 31 = false ∧
      (b.getRing 31).st = .enum ∧ (b.getRing 31).enumFailAt = some 461600 ∧ 461600 + 38400 ≤ b.tb.idx ∧ a.ringPlan 31 = some plan31 ∧
      (planHeadsOn plan31 31).Pairwise (fun a b => a.serial ≠ b.serial ∧ a.pos ≠ b.pos) ∧ planHead2 ∈ planHeadsOn plan31 31 ∧
      (∀ h ∈ planHeadsOn plan31 31, h.pos < 128) := by decide

theorem witness_RingEnumeratesMeasuresAndRuns_measures :
    let l := ringIn { st := .measure } { rx := .frameLock, arrMean := some (96 * 10240 * 256 + 1) }
    let m := { ringIn { st := .measure } { rx := .frameLock, arrMean := some (96 * 10240 * 256) } with head := [(3970, { st := .joining })] }
    let r := { ringIn { st := .run } {} with head := [(3970, { st := .admitted })] }
    let w := { ringIn { st := .waits, waitsDone := true } {} with head := [(3970, { st := .admitted })] }
    l.linkUp 31 = true ∧ l.loopedRing 31 = false ∧ 96 * 10240 * 256 < l.arrOf 63 ∧ (m.getRing 31).st = .measure ∧ m.linkUp 31 = true ∧
      m.loopedRing 31 = false ∧ m.arrOf 63 ≤ 96 * 10240 * 256 ∧ m.arrOf 62 ≤ 96 * 10240 * 256 ∧ ([2, 127].map (fun x : Fin 128 => x)).Nodup ∧
      (r.getRing 31).st = .run ∧ (r.getHead (128 * 31 + 2)).st = .admitted ∧ (w.getRing 31).st = .waits ∧ 2 ∈ w.ringPos 31 ∧
      w.ringPos 31 ≠ [] ∧ w.waitsHeld 31 = true ∧ w.linkUp 31 = true := by decide +kernel

theorem witness_SlotReleaseOrder :
    let a := ringIn { st := .run, nextRel := 500001 } {}
    let b := ringIn { st := .train, nextRel := 500000 } {}
    let c := ringIn { st := .wrap, nextRel := 499000, runFrame := some 499000 } {}
    let e : HeldIdx := { idx := 499000, due := 499616, slots := List.replicate 128 (.failed, []) }
    let d := ringIn { st := .wrap, held := [e] } {}
    a.linkUp 31 = true ∧ (a.getRing 31).held = [] ∧ a.gradable 31 = false ∧ b.gradable 31 = true ∧ (b.getRing 31).held = [] ∧
      (b.getRing 31).chan.length ≤ 128 ∧ (b.getRing 31).st ≠ .wrap ∧ (b.getHead (128 * 31)).st = .notDeclared ∧
      (∃ f, (c.getRing 31).runFrame = some f ∧ f ≤ (c.getRing 31).nextRel + (c.getRing 31).k) ∧ c.linkUp 31 = true ∧
      c.gradable 31 = true ∧ (c.getRing 31).st = .wrap ∧ hasHole (gradeNext 31 c).1.slots = true ∧
      (d.getRing 31).held = e :: [] ∧ e.slots.length = 128 ∧ e.due + 384 ≤ d.tb.idx ∧ (d.getRing 31).chan.length ≤ 128 := by
  refine ⟨by decide, by decide, by decide, by decide, by decide, by decide, by decide, by decide, ⟨499000, by decide, by decide⟩, by decide, by decide,
    by decide, by decide +kernel, by decide, by decide +kernel, by decide, by decide⟩

/-- A request of the maker. -/
def rawReq : CellReq := { use := .maker, chars := [] }

/-- The 32 characters of a reply under SEQ 9 with RESP 1. -/
def reply9 : List Byte :=
  let b : List Byte := [2, 1, 9] ++ List.replicate 23 0 ++ [1, 0, 0, 0]
  b ++ leBytes 2 (crc16 b).toNat

/-- The same with RESP 2. -/
def reply2 : List Byte :=
  let b : List Byte := [2, 1, 9] ++ List.replicate 23 0 ++ [2, 0, 0, 0]
  b ++ leBytes 2 (crc16 b).toNat

theorem witness_CellsRingCommandsAndUnwrap_cells :
    let s := fun (l : CellLane) => ringIn { st := .run, cells := [(0, l)] } {}
    let a := s { waiting := [rawReq] }
    let f : CellFly := { req := rawReq, frame := 1, seq := 9 }
    let hp : CellReq := { use := .health 3970, chars := [], tries := 3 }
    let g : CellFly := { req := hp, frame := 1, seq := 9 }
    let ac : CellFly := { req := { use := .accRead 2, chars := [] }, frame := 1, seq := 9 }
    (a.linkUp 31 = true ∧ (a.getRing 31).st = .run ∧ (lane a 31 0).waiting = rawReq :: [] ∧ (∀ h off, rawReq.use ≠ .change h off) ∧
      a.cellTaken 31 0 = false) ∧
    ((∀ x ∈ [f, g, ac], (lane (s { fly := [x] }) 31 0).fly.find? (fun y => y.seq == (reply9.getD 2 0).toNat) = some x) ∧
      cellAnswers reply9 = true ∧ f.req.use = .maker ∧ g.req.use = .health 3970 ∧ reply9.getD 26 0 = 1 ∧ ac.req.use = .accRead 2 ∧
      cellAnswers reply2 = true ∧ reply2.getD 26 0 = 2 ∧ (waitsCell 31 2 500000 {}).use = .waits 3970 0 0 ∧
      (s {}).tb.idx < (waitsCell 31 2 500000 {}).at_ + 400000) ∧
    ((lane (s { fly := [f] }) 31 0).fly = f :: [] ∧ f.req.tries < 3 ∧ 3 ≤ g.req.tries ∧ 3970 / 128 = 31 ∧
      ((s { fly := [g] }).getLogSrc (troubleChan 3)).chan.length < 28 ∧ 3 ≤ ({ rawReq with tries := 3 } : CellReq).tries) := by
  refine ⟨⟨by decide, by decide, by decide, nofun, by decide⟩, ⟨by decide +kernel, by decide +kernel, rfl, rfl, by decide, rfl, by decide +kernel, by decide, by decide, by decide⟩, by decide⟩

theorem witness_CellsRingCommandsAndUnwrap_rings :
    let u := ringIn { st := .wrap, eastHead := 2 } { restoreAt := some 116000 }
    let u' := { u with port := [(62, { retired := true }), (63, { restoreAt := some 116000 })] }
    let turns := fun (k : Nat) => (u'.getPort k).retired = false ∧
      ((k = 2 * 31 ∧ (u'.getRing 31).westHead ≠ 255) ∨ (k = 2 * 31 + 1 ∧ (u'.getRing 31).eastHead ≠ 255))
    let v := ringIn { st := .wrap, fu := some 400000, measAt := some 400000 } {}
    (MayAct upM 0 3 (100 + 31) ∧ (upM.glb.half = true → 31 < 16) ∧ (upM.getRing 31).cmdGo = false) ∧
    (u'.linkUp 31 = true ∧ (u'.getRing 31).st = .wrap ∧ (u'.getRing 31).fu = none ∧
      (∃ k, turns k) ∧ (∀ k, turns k → ∃ a, (u'.getPort k).restoreAt = some a ∧ a + 384000 ≤ u'.tb.idx) ∧
      u'.tb.idx + 112 + 192 ≤ 500304) ∧
    (v.linkUp 31 = true ∧ (v.getRing 31).st = .wrap ∧ (v.getRing 31).fu = some 400000 ∧ (v.getRing 31).measAt = some 400000 ∧
      v.loopedRing 31 = false) := by
  refine ⟨⟨by unfold MayAct; decide, by decide, by decide⟩, ⟨by decide, by decide, by decide, ⟨63, by decide⟩, ?_, by decide⟩, by decide⟩
  rintro k ⟨hk, ⟨rfl, _⟩ | ⟨rfl, _⟩⟩
  · exact absurd hk (by decide)
  · exact ⟨116000, by decide, by decide⟩

theorem witness_HeadAdmissionAndRejoin :
    let s := fun (rs : RingSt) (hs : HeadSt) =>
      { ringIn { st := rs, nextRel := 500000, waitsDone := true, waitsFor := 500000 } {} with plan := { cur := some plan31 }, head := [(3970, { st := hs })] }
    ((s .waits .joining).getRing (3970 / 128)).waitsDone = true ∧ ((s .waits .joining).getRing (3970 / 128)).waitsFor = 500000 ∧
      ((s .run .joining).getRing 31).st = .run ∧ ((s .run .joining).getHead 3970).st = .joining ∧
      0 ≤ (ringIn { st := .run, k := 113 } {}).dragMargin 3970 ∧
      (s .waits .joining).linkUp (3970 / 128) = true ∧ (s .waits .joining).planHead 3970 = some planHead2 ∧
      ((s .waits .joining).getRing (3970 / 128)).nextRel ≤ 500000 ∧ ((s .waits .joining).getHead 3970).st = .joining ∧
      ((s .waits .joining).getRing (3970 / 128)).st = .waits ∧ ((s .run .absent).getHead 3970).st = .absent ∧
      ((s .run .absent).getRing (3970 / 128)).st = .run ∧ (s .run .absent).planHead 3970 = some planHead2 ∧
      (s .waits .joining).cal.store.find? (fun e => e.1 == 3970) = none ∧ planHead2.serial = 77 ∧
      ((s .waits .joining).getLogSrc (troubleChan 3)).chan.length < 27 := by decide

theorem witness_HeadRequestsAndChanges :
    let s := fun (role : Nat) (a : HeadAcc) (x : Head) =>
      { upM with role := { port := [(0, { role := role })] }, headAcc := [(0, a)], head := [(3970, x)] }
    let a : HeadAcc := { head := 3970, reg := 0x21 }
    let x : Head := { st := .admitted }
    let c : Change := { reg := 0x20, value := 1, asker := .px }
    (∀ r ≤ 3, 1 ≤ r → MayAct (s r a x) 0 1 islSteward) ∧ (s 2 a x).stewUp = true ∧ ((s 2 a x).getHead 3970).st = .admitted ∧
      ((s 2 a x).getHeadAcc 0).busy = false ∧ a.head < (s 2 a x).headCount ∧ a.len < 4 ∧ a.len = 0 ∧ a.reg = 0x21 ∧
      ((s 2 a {}).getHead a.head).st ≠ .admitted ∧ 2 ≤ ((s 2 a x).getRolePort 0).role ∧ x.queue.length < 4 ∧
      ({ x with pUse := 0 } : Head).partnerDown (a.reg == 0x21) = false ∧ ({ a with force := true } : HeadAcc).force = true ∧
      ((s 1 a x).getRolePort 0).role = 1 ∧ 4 ≤ ({ x with queue := [c, c, c, c] } : Head).queue.length ∧
      ((s 2 a { waiting := [c] }).getHead 3970).waiting = [c] ∧ ((s 2 a { waiting := [c] }).getHead 3970).queue.length < 4 := by
  unfold MayAct; decide

/-! ## Chapters 5 to 7: the staircase, groups, energy and the commit -/

/-- A full slot at position 127: a good sample of both detectors. -/
def slot127 : StairIn := { idx := 7, pos := 127, clsP := 0, clsA := 5, codeP := -1, codeA := 0, chgP := false, chgA := false, stepP := 0, stepA := 0 }

theorem witness_StaircaseSamplesAndEngines :
    let s := fun (h : Bool) => { up with
      ring := [(31, { st := .run, chan := [slot127], half := h })]
      stair := { map := [(31, 4)], strm := [(256 * 4 + 2 * 127, { pendReset := false })] } }
    let y := { up with stair := { map := [(31, 4)], taker := [(31, 32)], eng := [(4, { st := .handingOver }), (32, { made := 36 })] } }
    ((s false).up islStair = true ∧ ((s false).getRing 31).chan = slot127 :: [] ∧ (s false).engOf 31 = some 4 ∧ (s false).takerOf 31 = none ∧
      slot127.pos < 128 ∧ (s false).stairHeld 31 (2 * 127 + 0) 7 = none ∧ (s true).stairHeld 31 (2 * 127 + 1) 7 = none ∧ ((s false).getEng 4).startAt ≤ 7 ∧ ((s true).getRing 31).half = true ∧ (sampleOf slot127 true).cls = 5 ∧ (sampleOf slot127 false).cls ≠ 5 ∧
      (sampleOf slot127 false).cls ≠ 6 ∧ ((s false).getStrm (256 * 4 + 2 * 127)).pendReset = false ∧ (sampleOf slot127 false).chg = false ∧
      0 < ((s false).getEng 4).cfg.n ∧ ((s false).getStrm (256 * 4 + 2 * 127)).i = 0 :: [0, 0, 0, 0] ∧
      (strmStep ((s false).getEng 4).cfg (sampleOf slot127 false) ((s false).getStrm (256 * 4 + 2 * 127))).1 = none ∧
      (strmStep ((s false).getEng 4).cfg (sampleOf { slot127 with idx := 11 } false) ((s false).getStrm (256 * 4 + 2 * 127))).1 ≠ none) ∧
    (y.up islStair = true ∧ y.takerOf 31 = some 32 ∧ y.engOf 31 = some 4 ∧ (y.getEng 32).moveAt = none ∧ (y.getEng 32).from_ = none ∧
      (y.getEng 32).cfg.n + 31 ≤ (y.getEng 32).made ∧ y.nextWhole 31 % (y.getEng 32).cfg.m = 0 ∧ y.atWhole 31 = true) ∧
    ((s false).getEng 9).st = .spare ∧ ((s false).getEng 9).testDue (s false).now = true ∧ ((s false).getEng 9).failRun = 0 ∧
    1 ≤ ({ up with stair := { eng := [(9, { failRun := 1 })] } }.getEng 9).failRun ∧ up.pwr.mainOn = true ∧ MayAct upM 0 2 islStair := by
  unfold MayAct; decide

/-- Context 5 of group 0: one phase, its voltage at head 3970 and its current at head 3971. -/
def ctx5 : PlanCtx :=
  { c := 5, kind := 1, grp := 0, hmax := 50, key := 0, il := 0, evCfg := 0, udin := 0, evTh := 0, disRel := 0, disAbsV := 0, disAbsI := 0
    bind := [{ head := some 3970, scale := List.replicate 16 (2 ^ 20, 0) }, {}, {}, {}, { head := some 3971 }] }

/-- Group 0: 50 Hz, 10 cycles, reference context 5. -/
def group0 : PlanGroup := { g := 0, nom60 := false, w := 10, l := 1, refs := [5, 255, 255], ctrl := 0, bank := [] }

/-- A plan with that group and context. -/
def plan5 : Plan := { plan31 with groups := [group0], ctxs := [ctx5] }

/-- A cycle of 20 ms (7,680 ticks) that begins `n` cycles after the output position 3. -/
def cyc50 (n : Nat) : Cyc := { p0 := 3 * 2 ^ 32 + n * 640 * 2 ^ 32, step := 640 * 2 ^ 23, f := 50 * 2 ^ 24, unlocked := true, held := false }

/-- Plan 5 in force, group 0 as given, ring 31 served by engine 0, context 5 by tally unit 0. -/
def met (g : Grp) : State :=
  { up with
    tb := { idx := 100000 }, plan := { st := .inForce, cur := some plan5 }, rs := { grp := [(0, g)] }, stair := { map := [(31, 0)] }
    tally := { unitOf := [(0, 0)] }, ring := [(31, { st := .run })] }

/-- Group 0 with `d` cycles done, before its first window has closed. -/
def grpAt (d : Nat) : Grp := { st := .locked, started := true, done := d, cycles := [(d, cyc50 d), (d + 1, cyc50 (d + 1))], tw := [(0, 0)] }

/-- Group 0 with its first window closed. -/
def grp1 : Grp := { grpAt 10 with closed := 1, tw := [(0, 0), (1, 76808)] }

/-- The two streams of one detector pair have each given output 11 and the flat sample of index 215. -/
def fedStrm (v : Int) (cls : Nat) : Strm :=
  { outs := [{ val := v, cls := cls, step := 0, sat := false, unset := false, nlast := 131 }]
    flats := [{ val := v, cls := cls, step := 0, fsat := false, nlast := 215 }] }

/-- The samples that context 5 asks for first have arrived: the voltage good, the current of class `c`. -/
def metFedC (c : Nat) : State :=
  { met (grpAt 0) with
    head := [(3970, { st := .admitted, serial := 77, timing := [{ dw := 112 * 10240 * 1024 }] }), (3971, { st := .admitted, timing := [{ dw := 112 * 10240 * 1024 }] })]
    stair := { map := [(31, 0)], strm := [(4, fedStrm 100 0), (5, fedStrm 90 5), (6, fedStrm 7 c), (7, fedStrm 8 5)] }
    tally := { unitOf := [(0, 0)], ctx := [(5, { wins := [(1, {})] })] } }

/-- The current comes from an unhealthy head. -/
def metFed : State := metFedC 3

theorem witness_SamplesFormedAndCounted_form :
    let x : CSample :=
      { m := 0, val := 0, cls := 1, det := false, subst := false, step := 0, csat := false, unlocked := true, held := false, fade := false, tau := 491520 }
    metFed.up islResamp = true ∧ metFed.ctxKeys 5 = [5] ∧ metFed.ctxGrp 5 = some 0 ∧ (metFed.getGrp 0).started = true ∧ metFed.beyondSwap 0 (metFed.nextOf 5 0 / 512) = false ∧
      (metFed.getGrp 0).cyc (metFed.nextOf 5 0 / 512) = some (cyc50 0) ∧
      1 = (metFed.getGrp 0).winOf (metFed.winCycles 0) (metFed.nextOf 5 0 / 512) ∧
      ((metFed.planWin 0 1).bind (fun p => p.ctx? 5)).bind (fun y => y.headOf 0) = some 3970 ∧
      formSample metFed (metFed.getGrp 0) 3970 (metFed.nextOf 5 0) (cyc50 0) (metFed.serveFor 0 3970 1 ((cyc50 0).tau 0)) = some x ∧
      (metFed.inputsOf 3970 (metFed.serveFor 0 3970 1 ((cyc50 0).tau 0)) ((cyc50 0).pos 0)).isSome = true ∧
      (metFed.inputsOf 3970 (!metFed.serveFor 0 3970 1 ((cyc50 0).tau 0)) ((cyc50 0).pos 0)).isSome = true ∧
      metFed.listedHead 0 1 3970 = true ∧ metFed.cycleHeld ctx5 0 x.tau = none := by
  decide +kernel

theorem witness_CycleEndUpdatesTracker :
    let s := fun (d : Nat) (st : FgSt) (q : Bool) =>
      { met {} with rs := { grp := [(0, { grpAt d with st := st, reacq := q })], next := [(40, 5120), (44, 5120)] } }
    (∀ d ∈ [8, 9], (s d .locked false).up islResamp = true ∧ (s d .locked false).cycleDone 0 = true ∧
      (s d .locked false).planWin 0 (((s d .locked false).getGrp 0).closed + 1) = some plan5 ∧ plan5.grp? 0 = some group0 ∧
      ((s d .locked false).getGrp 0).done = d ∧ ((s d .locked false).getGrp 0).cyc d = some (cyc50 d) ∧
      ((s d .locked false).getGrp 0).cyc (d + 1) = some (cyc50 (d + 1)) ∧
      (s d .locked false).findRef 0 plan5 group0 d (presenceOf ((s d .locked false).getGrp 0).ctrl) = none) ∧
      (9 + 1) % group0.w = 0 ∧ (8 + 1) % group0.w ≠ 0 ∧ ((s 8 .hold true).getGrp 0).reacq = true ∧
      ((s 8 .hold true).getGrp 0).noRef + 1 < ((s 8 .hold true).getGrp 0).ctrl.holdMax ∧ (s 8 .hold true).cycleDone 0 = true := by
  decide +kernel

theorem witness_GroupStartAndReacquire :
    let m := { met grp1 with role := { port := [(0, { role := 2 })] } }
    (met {}).up islResamp = true ∧ (met {}).plan.cur = some plan5 ∧ plan5.grp? 0 = some group0 ∧ ((met {}).getGrp 0).started = false ∧
      (met {}).ringsReady plan5 0 = true ∧ 0 < (plan5.grpCfg 0).2 ∧ MayAct m 0 2 islResamp ∧
      (m.planNow 0).bind (fun p => p.grp? 0) = some group0 ∧ (m.getGrp 0).st ≠ .off ∧ (m.getGrp 0).ctrlShown.bw < 4 ∧
      (m.getGrp 0).ctrlShown.presence < 64 ∧ (m.getGrp 0).ctrlShown.holdMax < 65536 := by
  unfold MayAct; decide

/-- What the first flat instant of context 5 selects: a usable voltage, a current of class `c`. -/
def sels5 (c : Nat) : List Sel :=
  let none_ : Sel := { cls := 5, val := none }
  [{ cls := 0, val := some (100 * 2 ^ 20) }, none_, none_, none_, { cls := c, val := none }, none_, none_, none_]

theorem witness_SamplesFormedAndCounted_flat :
    (∀ c ∈ [1, 3], (metFedC c).up islTally = true ∧ (metFedC c).ctxKeys 5 = [5] ∧ (metFedC c).tallyRuns 5 = true ∧
      (metFedC c).ctxGrp 5 = some 0 ∧ ((metFedC c).getGrp 0).started = true ∧ (metFedC c).flatNext 0 5 = some (ctx5, 215, 12, 3) ∧
      (metFedC c).windowAt 0 (3 : Int).toNat = some 1 ∧ (metFedC c).flatSels 0 ctx5 3 215 1 = some (sels5 c) ∧ (metFedC c).stopAt = none ∧
      (tget {} ((metFedC c).getCtx 5).wins 1).flat.a.length = 4 ∧
      ctx5.phaseVal (fun j => ((sels5 c).getD j { cls := 5, val := none }).val) (0 + 1) = none) ∧
    (∀ q, (metFed.getGrp 0).swapClose (metFed.winCycles 0) = some q → (3 : Int) < 2 * (q.2 : Int)) ∧ 0 < phasesOf ctx5.kind ∧
    ctx5.phaseGap (fun i => (sels5 3).getD i { cls := 5, val := none }) (0 + 1) = true ∧
    ctx5.phaseUnset (fun i => (sels5 1).getD i { cls := 5, val := none }) (0 + 1) = true := by
  refine ⟨by decide +kernel, ?_, by decide, by decide, by decide⟩
  intro q h; cases h

/-- Cycle 0 of both bindings has been formed, locked or not. -/
def metCyc (u : Bool) : State :=
  let l : List CSample := (List.range 512).map (fun i =>
    { m := 511 - i, val := 1, cls := 0, det := false, subst := false, step := 0, csat := false, unlocked := u, held := false, fade := false, tau := 0 })
  { met (grpAt 0) with rs := { grp := [(0, grpAt 0)], next := [(40, 512), (44, 512)], hamper := [(40, l), (44, l)] } }

theorem witness_SamplesFormedAndCounted_cycle :
    (∀ u ∈ [false, true], (metCyc u).up islTally = true ∧ (metCyc u).ctxKeys 5 = [5] ∧ (metCyc u).tallyRuns 5 = true ∧ (metCyc u).ctxGrp 5 = some 0 ∧
      ((metCyc u).getGrp 0).started = true ∧ (metCyc u).beyondSwap 0 ((metCyc u).getCtx 5).nextCyc = false ∧
      ((metCyc u).getGrp 0).cyc ((metCyc u).getCtx 5).nextCyc = some (cyc50 0) ∧ (metCyc u).cycleStopped (cyc50 0) = false ∧
      1 = ((metCyc u).getGrp 0).winOf ((metCyc u).winCycles 0) ((metCyc u).getCtx 5).nextCyc ∧
      ((metCyc u).planWin 0 1).bind (fun p => p.ctx? 5) = some ctx5 ∧
      (∀ i ∈ ctx5.bound, 512 * (((metCyc u).getCtx 5).nextCyc + 1) ≤ (metCyc u).nextOf 5 i)) ∧
    (∃ e ∈ (metCyc true).selCycle ctx5 0 0, e.2 = true) ∧ 0 ∈ ctx5.bound ∧
    (∀ i ∈ ctx5.bound, ∀ e ∈ (metCyc false).selCycle ctx5 i 0, e.1.cls = 0 ∧ e.2 = false) ∧
    ((metCyc true).getUnit 0).retired = false ∧ ((metCyc true).getUnit 0).replay = none ∧ ((metCyc true).getUnit 0).ckDue (metCyc true).now = true ∧
    5 ∈ (metCyc true).unitCtxs 0 ∧ 25 ∉ (metCyc true).unitCtxs 0 := by
  decide +kernel

/-- Window 1 closed, and context 5 counted up to its close; output 3 counts its accumulator 0. -/
def metDone : State :=
  { met grp1 with
    tally := { unitOf := [(0, 0)], ctx := [(5, { nextFlat := some 153616, nextCyc := 10 })] }
    pulse := { out := [(3, { cur := { mode := 1, acc := 0, ctx := 5 } })] } }

theorem witness_TallyWindowCreditsAndSendsToken :
    let w := (metDone.getOut 3).useAt 0
    metDone.up islTally = true ∧ (metDone.getGrp 0).lastK + 1 = 1 ∧ (metDone.getGrp 0).twOf 0 = 0 ∧ (metDone.getUnit 0).retired = false ∧
      (metDone.getUnit 0).replay = none ∧ 1 ≤ (metDone.getGrp 0).closed ∧ metDone.unitBlocks 0 = [0] ∧ metDone.blockWin 0 0 1 ≠ [] ∧
      metDone.hasToken 0 1 0 = false ∧ metDone.blockFull 0 0 1 = true ∧
      (metDone.planWin 0 1).bind (fun p => p.num? w.cfg.ctx) = some ctx5 ∧ ctx5 ∈ metDone.blockWin 0 0 1 ∧ w.isFor 0 = true ∧
      w.cfg.mode = 1 ∧ w.cfg.acc < 0x28 ∧
      (metDone.planWin 0 1).bind (fun p => p.num? ((metDone.getOut 4).useAt 0).cfg.ctx) = none := by decide +kernel

theorem witness_CommitsChangeResultsTogether :
    let g := { grp1 with tw := [(0, 8), (1, 76808)] }
    let y : Ctx := { preset := some { acc := 0, val := 9, effAt := 3, role := 3, host := 0 } }
    let s := { met g with
      rs := { grp := [(0, g)], tokens := [(0, 1, 0), (0, 1, 16)] }, tally := { unitOf := [(0, 0)], ctx := [(5, y)] }, spec := { shed := true }
      host := { hp := [(2, { intGrp := 1 })] } }
    let m := met grp1
    (s.up islResamp = true ∧ (s.getGrp 0).lastK + 1 = 1 ∧ s.planWin 0 1 = some plan5 ∧ s.mayCommit 0 1 = true ∧ s.tokensMissing 0 1 plan5 = [] ∧
      s.plan.tsw.find? (fun e => e.1 == 0) = none ∧ (plan5.ctxsOf 0).Pairwise (fun x y => x.c ≠ y.c) ∧ ctx5 ∈ plan5.ctxsOf 0 ∧
      (s.getCtx ctx5.c).presetNow ((s.getGrp 0).twOf (1 - 1)) ≠ none ∧ Delivered s 0 1 ctx5 ∧ bit (s.getHp 2).intGrp 0 = true) ∧
    (m.up islResamp = true ∧ m.planWin 0 1 = some plan5 ∧ m.mayCommit 0 1 = true ∧ m.tokensMissing 0 1 plan5 ≠ [] ∧
      (m.getGrp 0).twOf 1 + 7680 ≤ m.tb.idx ∧ 0 ∈ m.tokensMissing 0 1 plan5 ∧ m.tallyLost 0 1 ctx5 = true ∧ (m.getCtx 5).gapFrom = none) := by
  unfold Delivered; decide

theorem witness_LatchesPresetsAndClearingReads :
    let s := fun (r : Nat) => { met grp1 with role := { port := [(0, { role := r })] } }
    MayAct (s 1) 0 1 islTally ∧ MayAct (s 3) 0 3 islTally ∧ (s 1).ctxNow 5 = some ctx5 ∧ accExists ctx5.kind (0x01#8).toNat = true ∧
      accExists ctx5.kind (0x02#8).toNat = false ∧ (s 1).mayRead 0 0x105100 = true ∧ (s 1).tgtUp (place 0x105100).target = true ∧
      (s 1).red.stewardDown = false ∧ (s 1).ctxCovers 0 (place 0x105100) = false ∧ (s 1).latched 0 0x105100 = none ∧
      snapWords (place 0x105100) ≠ [] ∧ place 0x105100 = .ctx 5 0x100 ∧
      (∀ a ∈ [0x1104C, 0xF03EC, 0x1F0804], (s 1).mayRead 0 a = true ∧ (s 1).tgtUp (place a).target = true ∧ (s 1).latched 0 a = none) ∧
      place 0x1104C = .fg 0 0x4C ∧ place 0xF03EC = .pulseOut 15 0x2C ∧ place 0x1F0804 = .hp 0x04 := by
  unfold MayAct; decide

/-! ## Chapters 8 to 10: pulses, spectra, events -/

theorem witness_PulseTrainsAndAssignments :
    let s := fun (x : PulseOut) => { metDone with pulse := { out := [(3, x)] }, role := { port := [(0, { role := 2 })] } }
    let a : PulseOut := { pend := 1, nu := 2 ^ 31 }
    let b : PulseOut := { a with phase := 2 ^ 31 }
    (s a).up islTally = true ∧ ((s { a with pend := 0 }).getOut 3).pend = 0 ∧ a.stopped = false ∧ a.hold = false ∧ 0 < a.pend ∧
      a.phase + a.nu < 2 ^ 32 ∧ 2 ^ 32 ≤ b.phase + b.nu ∧ b.active = false ∧ ({ b with active := true } : PulseOut).active = true ∧
      ((s a).getOut 3).active = false ∧ ((s { active := true }).getOut 3).left = 0 ∧ ((s { active := true }).getOut 3).due = 0 ∧
      0 < ((s { active := true, due := 1 }).getOut 3).due ∧ MayAct (s a) 0 (if bits 0x40010500 31 30 = 2 then 3 else 2) islTally ∧
      (s a).outBad 0x40020500 = true ∧ (s a).outBad 0x40010500 = false ∧
      ({ ((s a).getOut 3).cfg with mode := 1, acc := 1, ctx := 5 } : PlsCfg) ≠ ((s a).getOut 3).cfg ∧
      (s a).ctxGrp (bits 0x40010500 15 8) = some 0 := by
  unfold MayAct; decide

theorem witness_LegacyPulseInputs :
    let x : PulseIn := { mode := 1, dir := 2, edges := [(9, true), (12, false)], log := [(9, false, false, 1)], presetGo := some (99999, 0, 2) }
    let s := { metDone with pulse := { inp := [(15, x)] } }
    s.up islTally = true ∧ (s.getInp 15).edges = (9, true) :: [(12, false)] ∧ (s.getInp 15).mode = 1 ∧ (s.getInp 15).stopped = false ∧
      ((s.getInp 15).dir = 2 ∧ ((9, true) : Nat × Bool).2 = true) ∧
      ¬ ((s.getInp 15).dir = 1 ∨ ((s.getInp 15).dir = 2 ∧ ((12, false) : Nat × Bool).2 = true)) ∧ (s.getInp 14).mode ≠ 1 ∧
      MayAct upM 0 2 islTally ∧ (s.getInp 15).presetGo = some (99999, 0, 2) ∧ 99999 < s.tb.idx ∧ (∀ e ∈ (s.getInp 15).log, e.1 ≤ 99999) := by
  unfold MayAct; decide

/-- Context 6: three wires, two current heads, the second current derived. -/
def ctx6 : PlanCtx :=
  { ctx5 with c := 6, kind := 3, bind := [{ head := some 3970 }, { head := some 3972 }, { head := some 3973 }, {}, { head := some 3971 }, {}, { head := some 3974 }] }

/-- A cycle sample 0. -/
def cs0 : CSample :=
  { m := 0, val := 1, cls := 0, det := false, subst := false, step := 0, csat := false, unlocked := false, held := false, fade := false, tau := 0 }

/-- Contexts 5 and 6 in harmonic engine 0, the first samples of their bindings formed; stream 4 of ring 31 on the roster. -/
def metSpec : State :=
  { met (grpAt 0) with
    plan := { st := .inForce, cur := some { plan5 with ctxs := [ctx5, ctx6] } }
    rs := { grp := [(0, grpAt 0)], hamper := [(40, [cs0]), (44, [cs0]), (52, [cs0]), (54, [cs0])] }
    spec := {
      blkEng := [(0, 0)], roster := [{ ring := 31, stream := 4, scale := [(1, 0)] }], rounds := [{ v := 0, k0 := 1, d := 2, both := true, solo := 0 }]
      lane := [(0, { queue := [{ idx := 100, code := 5, cls := 0, step := 0 }] }), (1, { queue := [{ idx := 100, code := 5, cls := 0, step := 0 }] })] } }

theorem witness_SpectralSamplesTaken :
    (metSpec.up islSpect = true ∧ metSpec.ctxKeys 5 = [5] ∧ metSpec.ctxKeys 6 = [6] ∧ metSpec.harmFor 5 < 5 ∧ metSpec.spRuns (metSpec.harmFor 5) = true ∧ metSpec.ctxGrp 5 = some 0 ∧
      metSpec.ctxGrp 6 = some 0 ∧ 1 = (metSpec.getGrp 0).winOf (metSpec.winCycles 0) ((metSpec.getSpBind (8 * 5 + 0)).next / 512) ∧
      (metSpec.planWin 0 1).bind (fun p => p.ctx? 5) = some ctx5 ∧ (metSpec.planWin 0 1).bind (fun p => p.ctx? 6) = some ctx6 ∧
      (metSpec.getGrp 0).started = true ∧ metSpec.beyondSwap 0 ((metSpec.getSpBind (8 * 5 + 0)).next / 512) = false ∧
      (ctx5.headOf 0).isSome = true ∧ metSpec.csample 5 0 0 = some cs0 ∧ ctx6.kind = 3 ∧ ctx6.headOf 5 = none ∧
      metSpec.csample 6 4 0 = some cs0 ∧ metSpec.csample 6 6 0 = some cs0) ∧
    (metSpec.inWarning = false ∧ (metSpec.getLane 0).queue = { idx := 100, code := 5, cls := 0, step := 0 } :: [] ∧
      metSpec.windowAt metSpec.spec.refGrp (2 * 100) = some 1 ∧ metSpec.roundOf 1 = some { v := 0, k0 := 1, d := 2, both := true, solo := 0 } ∧
      (ShRound.mk 0 1 2 true 0).visit metSpec.spec.roster.length 0 1 = some (0, 1) ∧ metSpec.spec.roster[0]?.isSome = true ∧
      (ShRound.mk 0 1 2 true 0).visit metSpec.spec.roster.length 1 1 = none) ∧ MayAct upM 0 2 islSpect := by
  unfold MayAct; decide +kernel

theorem witness_SpectralWindowsDone :
    let s := { metDone with
      rs := { grp := [(0, grp1)], tokens := [(0, 1, 16)] }, pulse := { out := [(3, { cur := { mode := 1, acc := 0x40, ctx := 5 } })] }
      spec := { blkEng := [(0, 0)], bind := [(40, { next := 5120 }), (44, { next := 5120 })] } }
    let r := { metSpec with
      rs := { grp := [(0, { grp1 with tw := [(0, 5), (1, 8)] })] }
      spec := { metSpec.spec with lane := [(0, { wins := [(1, { z := [1, 2, 3] })] })] } }
    (s.up islSpect = true ∧ (s.getGrp 0).lastK + 1 = 1 ∧ s.spRuns 0 = true ∧ 1 ≤ (s.getGrp 0).closed ∧ s.engWin 0 0 1 ≠ [] ∧
      (s.getGrp 0).twOf 0 = 0 ∧ s.engBlocks 0 = [0] ∧ s.hasToken 0 1 (8 + 0) = false ∧ s.engFull 0 0 1 = true ∧ s.hasToken 0 1 16 = true ∧
      (s.engWin 0 0 1).Pairwise (fun x y => x.c ≠ y.c) ∧ ctx5 ∈ s.engWin 0 0 1 ∧
      (s.planWin 0 1).bind (fun p => p.num? ((s.getOut 3).useAt 0).cfg.ctx) = some ctx5 ∧ ((s.getOut 3).useAt 0).isFor 0 = true ∧
      ((s.getOut 3).useAt 0).cfg.mode = 1 ∧ 0x28 ≤ ((s.getOut 3).useAt 0).cfg.acc) ∧
    (r.up islSpect = true ∧ max (r.getSpEng 5).doneK (r.getGrp 0).winBase + 1 = 1 ∧ r.spRuns (5 + 0) = true ∧ r.inWarning = false ∧
      r.rosterEnds 1 = false ∧ r.spec.swap = none ∧ 1 ≤ (r.getGrp r.spec.refGrp).closed ∧ 1 ≤ (r.getGrp r.spec.refGrp).lastK + 1 ∧ r.spec.roster ≠ [] ∧ (r.roundOf 1).isSome = true ∧ 0 ∈ r.shLanes 0 1 ∧
      (∀ l ∈ r.shLanes 0 1, (tget ({} : ShWin) (r.getLane l).wins 1).z.length =
        (r.getGrp r.spec.refGrp).twOf 1 - (r.getGrp r.spec.refGrp).twOf (1 - 1))) := by
  decide +kernel

/-- Context 5 in the event unit with the settings given; its first cycle is formed. -/
def metEv (e : EvCtx) (n : Nat) : State :=
  { metCyc false with
    ev := { ctx := [(5, e)] }, rs := { (metCyc false).rs with grp := [(0, { grpAt 0 with closed := n })], next := [(40, 5120), (44, 5120)] } }

theorem witness_EventsDetectedAndWindowsClosed_value :
    let e := fun (u : Nat) => ({ set_ := { enable := true, udin := u }, armed := true } : EvCtx)
    let s := metEv (e 4096) 0
    (s.up islResamp = true ∧ s.ev.down = false ∧ s.ctxKeys 5 = [5] ∧ s.ctxGrp 5 = some 0 ∧ (s.getEvc 5).zAsk = [] ∧ (s.getEvc 5).nextB = 512 ∧
      (s.planWin 0 (s.evDone 0 + 1)).bind (fun p => p.ctx? 5) = some ctx5 ∧ ctx5.c = 5 ∧ (s.getGrp 0).started = true ∧ s.swapHold 0 = false ∧
      1 = (s.getGrp 0).winOf (s.winCycles 0) ((512 - 1) / 512) ∧ 1 ≤ s.evDone 0 + 1 ∧ (∀ i ∈ ctx5.voltSlots, 512 ≤ s.nextOf 5 i) ∧
      ((s.getGrp 0).cyc (512 / 512)).isSome = true) ∧
    ((s.halfCycle 0 ctx5 512 1).u = [4096] ∧ (s.halfCycle 0 ctx5 512 1).ok = [true] ∧ (e 4096).set_.limits.1 ≤ 4096 ∧
      4096 < (e 100000).set_.limits.1 ∧ ((metEv (e 100000) 0).halfCycle 0 ctx5 512 1).u = [4096] ∧ (e 4096).sag.active = false ∧
      (e 0).set_.udin = 0) ∧
    3 ≤ (addFault (met grp1).now [99999, 99998]).length := by
  decide +kernel

theorem witness_EventsDetectedAndWindowsClosed_window :
    let s := metEv { lastB := 5120 } 1
    let m := { met grp1 with role := { port := [(0, { role := 2 })] } }
    (s.up islResamp = true ∧ s.ev.down = false ∧ s.evDone 0 + 1 = 1 ∧ s.planWin 0 1 = some plan5 ∧ (s.getGrp 0).started = true ∧
      1 ≤ (s.getGrp 0).closed ∧ 1 ≤ (s.getGrp 0).lastK + 1 ∧ s.switchDue 0 1 = false ∧ 512 * (s.getGrp 0).firstCyc (s.winCycles 0) (1 + 1) = 5120 ∧
      (∀ x ∈ plan5.ctxsOf 0, 5120 < (s.getEvc x.c).nextB ∧ ∀ i ∈ x.voltSlots, 5120 ≤ s.nextOf x.c i)) ∧
    MayAct m 0 2 tgtEvent ∧ m.ctxNow 5 = some ctx5 := by
  unfold MayAct; decide +kernel

theorem witness_WaitingSamplesAreTaken_tally :
    (metFed.up islResamp = true ∧ metFed.ctxKeys 5 = [5] ∧ metFed.ctxGrp 5 = some 0 ∧ (metFed.getGrp 0).started = true ∧
      metFed.beyondSwap 0 (metFed.nextOf 5 0 / 512) = false ∧ (metFed.getGrp 0).cyc (metFed.nextOf 5 0 / 512) = some (cyc50 0) ∧
      (metFed.planWin 0 ((metFed.getGrp 0).winOf (metFed.winCycles 0) (metFed.nextOf 5 0 / 512))).bind (fun p => p.ctx? 5) = some ctx5 ∧
      ctx5.headOf 0 = some 3970 ∧ metFed.cycleHeld ctx5 0 491520 = none ∧
      (formSample metFed (metFed.getGrp 0) 3970 (metFed.nextOf 5 0) (cyc50 0) (metFed.serveFor 0 3970 1 ((cyc50 0).tau 0))).isSome = true) ∧
    (metFed.up islTally = true ∧ metFed.tallyRuns 5 = true ∧ metFed.flatNext 0 5 = some (ctx5, 215, 12, 3) ∧
      metFed.windowAt 0 (3 : Int).toNat = some 1 ∧ (metFed.flatSels 0 ctx5 3 215 1).isSome = true ∧ metFed.stopAt = none ∧
      (metFed.getGrp 0).swapClose (metFed.winCycles 0) = none) ∧
    (let s := metCyc false
     s.up islTally = true ∧ s.ctxKeys 5 = [5] ∧ s.tallyRuns 5 = true ∧ s.ctxGrp 5 = some 0 ∧ (s.getGrp 0).started = true ∧
      s.beyondSwap 0 (s.getCtx 5).nextCyc = false ∧ (s.getGrp 0).cyc (s.getCtx 5).nextCyc = some (cyc50 0) ∧ s.cycleStopped (cyc50 0) = false ∧
      (s.planWin 0 ((s.getGrp 0).winOf (s.winCycles 0) (s.getCtx 5).nextCyc)).bind (fun p => p.ctx? 5) = some ctx5 ∧
      (∀ i ∈ ctx5.bound, 512 * ((s.getCtx 5).nextCyc + 1) ≤ s.nextOf 5 i) ∧ (s.getUnit 8).retired = false ∧ (s.getUnit 8).replay = none ∧
      (s.getUnit 8).ckDue s.now = true) := by
  decide +kernel

theorem witness_WaitingSamplesAreTaken_spectra :
    metSpec.up islSpect = true ∧ metSpec.ctxKeys 5 = [5] ∧ metSpec.harmFor 5 < 5 ∧ metSpec.spRuns (metSpec.harmFor 5) = true ∧
      metSpec.ctxGrp 5 = some 0 ∧ (metSpec.planWin 0 1).bind (fun p => p.ctx? 5) = some ctx5 ∧
      1 = (metSpec.getGrp 0).winOf (metSpec.winCycles 0) ((metSpec.getSpBind (8 * 5 + 0)).next / 512) ∧ (metSpec.getGrp 0).started = true ∧
      metSpec.beyondSwap 0 ((metSpec.getSpBind (8 * 5 + 0)).next / 512) = false ∧ (ctx5.headOf 0).isSome = true ∧
      metSpec.csample 5 0 (metSpec.getSpBind (8 * 5 + 0)).next = some cs0 ∧ metSpec.inWarning = false ∧
      (metSpec.getLane 0).queue = { idx := 100, code := 5, cls := 0, step := 0 } :: [] ∧
      (metSpec.windowAt metSpec.spec.refGrp (2 * 100)).isSome = true ∧ MayAct upM 0 2 islSpect := by
  unfold MayAct; decide +kernel

theorem witness_WaitingSamplesAreTaken_events :
    let s := metEv {} 0
    let w := metEv { lastB := 5120 } 1
    let m := { met grp1 with role := { port := [(0, { role := 2 })] } }
    (s.up islResamp = true ∧ s.ev.down = false ∧ s.ctxKeys 5 = [5] ∧ s.ctxGrp 5 = some 0 ∧ (s.getEvc 5).zAsk = [] ∧
      (s.planWin 0 (s.evDone 0 + 1)).bind (fun p => p.ctx? 5) = some ctx5 ∧ ctx5.c = 5 ∧ (s.getGrp 0).started = true ∧ s.swapHold 0 = false ∧
      (s.getGrp 0).winOf (s.winCycles 0) (((s.getEvc 5).nextB - 1) / 512) ≤ s.evDone 0 + 1 ∧
      (∀ i ∈ ctx5.voltSlots, (s.getEvc 5).nextB ≤ s.nextOf 5 i) ∧ ((s.getGrp 0).cyc ((s.getEvc 5).nextB / 512)).isSome = true) ∧
    (w.up islResamp = true ∧ w.ev.down = false ∧ w.planWin 0 (w.evDone 0 + 1) = some plan5 ∧ (w.getGrp 0).started = true ∧
      w.evDone 0 + 1 ≤ (w.getGrp 0).closed ∧ w.evDone 0 + 1 ≤ (w.getGrp 0).lastK + 1 ∧ w.switchDue 0 (w.evDone 0 + 1) = false ∧
      (∀ x ∈ plan5.ctxsOf 0, 512 * (w.getGrp 0).firstCyc (w.winCycles 0) (w.evDone 0 + 1 + 1) < (w.getEvc x.c).nextB ∧
        ∀ i ∈ x.voltSlots, 512 * (w.getGrp 0).firstCyc (w.winCycles 0) (w.evDone 0 + 1 + 1) ≤ w.nextOf x.c i)) ∧
    MayAct m 0 2 tgtEvent ∧ m.ctxNow 5 = some ctx5 := by
  unfold MayAct; decide +kernel

/-! ## Chapter 11: the hall plan -/

theorem witness_PlanCommands :
    let s := fun (st : PlanSt) => { met { grp1 with fadeAt := some 5120, fadeLen := 32 } with
      plan := { st := st, cur := some plan5 }, role := { port := [(0, { role := 2 })] } }
    (s .staged).inWarning = false ∧ ({ s .staged with pwr := { up.pwr with st := .warning } } : State).inWarning = true ∧ MayAct (s .staged) 0 2 islSteward ∧ (s .staged).plan.st = .staged ∧ (s .switching).plan.st = .switching ∧ (s .none).plan.st = .none ∧
      (s .staged).fading = true := by
  unfold MayAct; decide +kernel

theorem witness_PlanLoadedOrStaged :
    let s := { upM with plan := { st := .loading } }
    let g := { upM with plan := { st := .staging, cur := some plan5, flash := [(0x200004, 3), (0x200040, 1), (0x200041, 0), (0x200042, 0), (0x200043, 0), (0x200044, 1)] } }
    let b := { g with gal := [(5, { bad := [0x60010] })], plan := { g.plan with stageLen := 256, runLen := 256 } }
    (s.inWarning = false ∧ g.inWarning = false ∧ g.badWords 5 0x60000 g.stageImage.2 = [] ∧ b.plan.runSrc = false ∧
      b.badWords 5 0x60000 b.stageImage.2 ≠ [] ∧ b.plan.st = .staging ∧ b.plan.dirty = false ∧
      ({ g with plan := { g.plan with dirty := true } } : State).plan.dirty = true) ∧
    (s.stewUp = true ∧ s.plan.st = .loading ∧
      (s.slotImage s.plan.slot).loadCheck (s.planEnv 0x100000) = some { code := 1, sect := 0, entry := 0xFFFF, off := 0 }) ∧
    (MayAct g 0 2 islSteward ∧ histSeq? g.plan.flash ((1 : Word).toNat % 16384) = some (1 : Word).toNat ∧
      histSeq? g.plan.flash ((2 : Word).toNat % 16384) ≠ some (2 : Word).toNat) ∧
    (g.stewUp = true ∧ g.plan.st = .staging ∧ g.plan.dirty = false ∧
      g.stageImage.1.stageCheck (g.planEnv g.stageImage.2) g.plan.cur g.spareEngines.length = some { code := 1, sect := 0, entry := 0xFFFF, off := 0 }) := by
  unfold MayAct; decide +kernel

/-- The plan that replaces `plan5`: ring 30 with a head besides, and other coefficients for group 0. -/
def plan6 : Plan :=
  { plan5 with
    version := 2, rings := plan5.rings ++ [{ ring := 30, cfg := {}, swing := 8 }]
    heads := plan5.heads ++ [{ planHead2 with ring := 30, serial := 78 }], groups := [{ group0 with bank := [1] }] }

theorem witness_SwapPreparedSwitchedCompleted :
    let s := fun (p : PlanIsl) (r : RingSt) (h : HeadSt) =>
      { met grp1 with plan := { p with cur := some plan5, next := some plan6 }, ring := [(30, { st := r }), (31, { st := .run })], head := [(3842, { st := h })]
                      tb := { idx := 200000 } }
    let w := s { st := .swapWait } .off .notDeclared
    let p := s { st := .preparing, prepAt := 8000 } .run .admitted
    let a := s { st := .preparing, loaded := true } .run .admitted
    let t : State := { s { st := .switching, switched := [] } .run .admitted with rs := { grp := [(0, { grp1 with tsw := some 76000 })] } }
    (w.inWarning = false ∧ p.inWarning = false ∧ (p.getLogSrc (troubleChan 3)).chan.length + (newHeads plan5 plan6).length +
      (takeOverHeads plan5 plan6).length ≤ 28 ∧ w.stewUp = true ∧ w.plan.cur = some plan5 ∧ w.plan.next = some plan6 ∧ w.plan.st = .swapWait ∧ w.fading = false ∧ newRings plan5 plan6 ≠ []) ∧
    (p.plan.loaded = false ∧ p.prepared = true ∧ p.fading = false ∧ plan6.groups.Pairwise (fun a b => a.g ≠ b.g) ∧
      (p.getGrp group0.g).started = true ∧ (if (p.getGrp 0).bankNow then (p.getGrp 0).hB else (p.getGrp 0).hA) ≠ [1] ∧
      p.plan.cut = false ∧ p.plan.prepAt + 192000 ≤ p.tb.idx ∧ newHeads plan5 plan6 ≠ [] ∧
      (p.getLogSrc (troubleChan 3)).chan.length + (newHeads plan5 plan6).length ≤ 28 ∧
      ((s { st := .preparing } .run .joining).getHead 3842).st = .joining ∧ (newHeads plan5 plan6).map PlanHead.num = [3842]) ∧
    (a.plan.loaded = true ∧ a.settledHeads plan5 plan6 = true ∧ a.plan.swapFrom ≤ a.tb.idx ∧ a.allMoved = true ∧
      (plan5.grp? 0).isSome = true ∧ a.movesOf 0 = []) ∧
    (t.plan.st = .switching ∧ 0 ∉ t.plan.switched ∧ (plan6.grp? 0).isSome = true ∧
      (t.getGrp 0).swapClose (t.winCycles 0) = some (1, 76808) ∧ (t.getGrp 0).closed = 1) ∧
    (∀ g ∈ plan6.groups, g.g ∈ [0]) := by
  decide +kernel

/-! ## Chapters 12 to 14: redundancy, the local converter, calibration -/

theorem witness_StreamsStewardAndTallyFaults :
    let h := { up with head := [(4095, { absP := 1152001, absA := 1152000 })] }
    let u := fun (f : List Nat) (m : Tab Nat) => { up with tb := { idx := 4000000 }, tally := { unitOf := m, unit := [(0, { faults := f })] } }
    let a := u [3999999, 100000] [(0, 0)]
    let b := u [3999999, 160001] [(0, 0)]
    let c := u [3999999, 160001] [(0, 0), (1, 1), (2, 2), (3, 3), (4, 4), (5, 5), (6, 6), (7, 7), (8, 8)]
    (h.stewUp = true ∧ (h.getHead 4095).retP = false ∧ 1152000 < (h.getHead 4095).absP ∧ (h.getHead 4095).absA ≤ 1152000 ∧
      up.up islSteward = true ∧ up.red.stewardDown = false) ∧
    (a.up islTally = true ∧ (a.getUnit 0).retired = false ∧ a.unitBlocks 0 ≠ [] ∧ (addFault a.now (a.getUnit 0).faults).length < 3 ∧
      a.unitFor 25 ≠ 0 ∧ 3 ≤ (addFault b.now (b.getUnit 0).faults).length ∧
      (b.spareUnits.filter (fun w => w != 0)).head? = some 1 ∧ b.unitBlocks 0 ≠ [] ∧ 3 ≤ (addFault c.now (c.getUnit 0).faults).length ∧
      c.spareUnits.filter (fun w => w != 0) = [] ∧ c.unitBlocks 0 ≠ []) := by
  decide +kernel

theorem witness_SpectralFaultsReplayAndRestoration_faults :
    let s := fun (f : List Nat) => { up with
      tb := { idx := 100 }, spec := { blkEng := [(0, 0), (1, 1), (2, 2), (3, 3), (4, 4)], eng := [(0, { faults := f, replay := some 90 }), (6, { faults := f })] }
      tally := { unit := [(8, { replay := some 90 })] } }
    (s []).up islSpect = true ∧ ((s []).getSpEng 0).retired = false ∧ (addFault (s []).now ((s []).getSpEng 0).faults).length < 3 ∧
      (s []).engBlocks 0 ≠ [] ∧ 3 ≤ (addFault (s [1, 2]).now ((s [1, 2]).getSpEng 0).faults).length ∧ (s [1, 2]).engBlocks 0 ≠ [] ∧
      (s [1, 2]).spareHarm.filter (fun v => v != 0) = [] ∧ ((s []).getSpEng (5 + 1)).retired = false ∧
      (addFault (s []).now ((s []).getSpEng (5 + 1)).faults).length < 3 ∧
      3 ≤ (addFault (s [1, 2]).now ((s [1, 2]).getSpEng (5 + 1)).faults).length ∧ (s []).up islTally = true ∧
      ((s []).getUnit 8).replay = some 90 ∧ ((s []).getSpEng 0).replay = some 90 := by
  decide +kernel

theorem witness_SpectralFaultsReplayAndRestoration_restore :
    let s := fun (k i : Nat) (j : Option (Nat × Nat × Nat × Nat)) => { upM with
      port := [(63, { retired := true })], tally := { unit := [(8, { retired := true })] }, red := { selKind := k, selIndex := i, job := j } }
    (∀ e ∈ [(0, 8192, 2), (7, 0, 2), (1, 62, 1)], restoreRefused e.1 e.2.1 (s 0 0 none) = some e.2.2) ∧
      (∀ r ≤ 3, MayAct (s 1 63 none) 0 r islSteward) ∧ (s 1 63 none).red.busy = false ∧ (s 7 8191 none).red.selKind < 8 ∧
      (s 7 8191 none).red.selIndex < 8192 ∧ restoreRefused 1 63 (s 1 63 none) = none ∧ restoreRefused 3 8 (s 3 8 none) = none ∧
      (s 3 8 (some (3, 8, 0, 3))).stewUp = true ∧ (s 3 8 (some (3, 8, 0, 3))).red.job = some (3, 8, 0, 3) ∧
      ((s 3 8 (some (3, 8, 0, 3))).getUnit 8).retired = true := by
  unfold MayAct; decide +kernel

theorem witness_LocalConversions :
    let e : LcEnt := { chan := 3, repeat_ := 1, delay := 2, fifo := true }
    let c : LcConv := { slice := 0, wait := 0, raw := 0, inj := false, first := true, stale := false, entry := 0, rep := 0, ent := e, idx := 0, trim := 0, burst := none }
    let lc : Lc := { act := [e, { e with chan := 0x17 }], run := true, running := true, ready := true }
    let s := fun (l : Lc) => { up with lc := l, cal := { q := [(15, { st := .waiting, kind := 2 })] } }
    ((s lc).up islAnalog = true ∧ lc.down = false ∧ lc.now_ = .seq ∧ lc.run = true ∧ lc.running = true ∧ lc.ready = true ∧ lc.stopped = false ∧ lc.anyGood = true ∧ lc.burstReady = false ∧ lc.nextInj = none ∧
      0 < ({ lc with idle := 1 } : Lc).idle ∧ lc.idle = 0 ∧ lc.rep < (lc.act.getD lc.entry {}).repeat_ ∧
      (lc.act.getD 0 {}).repeat_ ≤ ({ lc with rep := 1 } : Lc).rep ∧ (({ lc with rep := 1 } : Lc).goodFrom (lc.entry + 1)).isSome = true) ∧
    ((s { lc with fly := [c] }).lc.fly = c :: [] ∧ c.wait = 0 ∧ c.burst = none ∧ c.inj = false ∧ c.ent.fifo = true ∧
      lc.fifo.length < 1024 ∧ 1024 ≤ ({ lc with fifo := List.replicate 1024 (0, 0, 0) } : Lc).fifo.length ∧
      ({ c with wait := 1 } : LcConv).wait ≠ 0 ∧ ({ e with fifo := false } : LcEnt).fifo = false) ∧
    (∀ n ∈ ({ lc with calib := List.replicate 9 1 } : Lc).calib, 1 ≤ n) ∧ ((s lc).getCalQ 15).kind = 2 ∧ ((s lc).getCalQ 15).st = .waiting ∧
    256 ≤ lc.sinceBurst ∧ lc.burstAsk = none ∧ (∀ x ∈ ({ lc with fly := [c] } : Lc).fly, x.burst = none) := by
  decide +kernel

theorem witness_ConverterRotationControlAndFifo :
    let l : Lc := { shadowLen := 63, owner := 0, fifo := [(1, 2, 3)] }
    let s := fun (l : Lc) => { upM with lc := l }
    ((s l).up islAnalog = true ∧ l.down = false ∧ l.ages = 0 :: [1, 2, 3, 4, 5, 6, 7] ∧ l.spare = some 8 ∧
      ¬ (512 < (512 : Int).natAbs ∨ 20000 < (-20000 : Int).natAbs) ∧ (512 < (-513 : Int).natAbs ∨ 20000 < (0 : Int).natAbs) ∧
      (512 < (0 : Int).natAbs ∨ 20000 < (20001 : Int).natAbs) ∧ l.stale = false ∧ ({ l with spare := none, stale := true } : Lc).spare = none ∧
      ({ l with spare := none, stale := true } : Lc).stale = true ∧ 76800 ≤ ({ l with sinceRot := 76800 } : Lc).sinceRot ∧
      ({ l with sinceRot := 76799 } : Lc).sinceRot < 76800 ∧ 0 ∈ l.ages ∧ ¬ (({ l with spare := none } : Lc).spare = some 8 ∨ 8 ∈ l.ages) ∧
      l.commitPending = false ∧ ({ l with commitPending := true } : Lc).commitPending = true) ∧
    (∀ r ≤ 2, MayAct (s l) 0 r islAnalog) ∧ l.shadowLen < 64 ∧ ({ l with run := true } : Lc).run = true ∧ l.run = false ∧
      ((s l).getInj 3).pending = false ∧ ((s { l with inj := [(3, { pending := true })] }).getInj 3).pending = true ∧
      lcBad 0x17 true = true ∧ lcBad 0x17 false = false ∧ l.owner = 0 ∧ ({ l with owner := 1 } : Lc).owner ≠ 0 ∧
      l.fifo = (1, 2, 3) :: [] ∧ ({ l with fifo := [] } : Lc).fifo = [] := by
  unfold MayAct; decide +kernel

theorem witness_CalibrationRequests :
    let s := fun (n : Nat) => { upM with
      head := [(7, { st := .admitted }), (9, { st := .admitted, okA := false })]
      cal := { q := (List.range n).map (fun i => (i, { st := .queued, kind := 1, index := 100 + i })) } }
    (∀ t ≤ 9, MayAct (s 15) 0 2 t) ∧ calRefused 1 false 8 (s 15) = some 1 ∧ calRefused 1 true 9 (s 15) = some 4 ∧
      calRefused 1 false 7 (s 16) = some 2 ∧ calRefused 1 false 7 (s 15) = none ∧ calRefused 2 false 36 (s 15) = some 1 ∧
      calRefused 2 false 35 (s 15) = none ∧ (List.range 16).find? (fun j => !((s 15).getCalQ j).busy) = some 15 := by
  unfold MayAct; decide +kernel

theorem witness_CalibrationImagesAndOutings :
    let s := fun (c : Cal) => { upM with cal := c, tb := { idx := 384 } }
    let q : CalQ := { st := .queued, kind := 1, index := 7 }
    let r : CalQ := { q with st := .measuring, tmo := 384 }
    (MayAct (s {}) 0 2 islSteward ∧ (s {}).cal.index < 4096 ∧ ({ imgBusy := true } : Cal).imgBusy = true ∧
      ¬ ((s {}).plan.st = .staging ∨ (s {}).cal.imgBusy = true) ∧ (∃ i, i < 16 ∧ ((s { q := [(15, q)] }).getCalQ i).st ≠ .free) ∧
      ¬ (∃ i, i < 16 ∧ ((s {}).getCalQ i).st ≠ .free)) ∧
    ((s {}).outingOf 1 false 7 = none ∧ (s { q := [(15, q)] }).outingOf 1 false 7 = some 15 ∧
      (s { imgBusy := true, imgOp := 3 }).stewUp = true ∧ ({ imgBusy := true, imgOp := 4, imgLen := 20 } : Cal).imgOp = 4 ∧
      calImgOk (mslice galDefault ((s { imgBusy := true, imgOp := 4, imgLen := 20 }).getGal 5).mem 0x60000 20).toArray 20 = false) ∧
    ((s {}).inWarning = false ∧ (s { imgBusy := true, imgOp := 4, imgLen := 20 }).badWords 5 0x60000 20 = [] ∧
      ({ s { imgBusy := true, imgOp := 4, imgLen := 20 } with gal := [(5, { bad := [0x60010] })] } : State).badWords 5 0x60000 20 ≠ [] ∧
      ((s { q := [(15, q)] }).getCalQ 15).st = .queued ∧ (s { q := [(15, q)] }).mayStart 15 = true ∧
      (∀ j, j < 16 → ((s { q := [(15, q)] }).getCalQ j).st = .queued →
        ((s { q := [(15, q)] }).getCalQ j).order < ((s { q := [(15, q)] }).getCalQ 15).order → (s { q := [(15, q)] }).mayStart j = false) ∧
      ((s { q := [(15, r)] }).getCalQ 15).st = .measuring ∧ ((s { q := [(15, r)] }).getCalQ 15).startAt + r.tmo ≤ (s {}).tb.idx ∧
      ((s { q := [(15, r)] }).getHead 7).st ≠ .absent) := by
  refine ⟨⟨by unfold MayAct; decide, by decide, by decide, by decide, ⟨15, by decide, by decide⟩, ?_⟩, by decide +kernel, by decide +kernel⟩
  rintro ⟨i, h, hn⟩
  exact hn rfl

/-! ## Chapter 15: galleries -/

theorem witness_GalleryWordAccesses :
    let s := fun (sel : Nat) => { upM with
      gal := [(2, { power := .on, mem := [(65537, 3)], bad := [0x10004] }), (5, { power := .retain })], host := { hp := [(0, { galSel := sel, held := [1] })] } }
    (∀ w ∈ (s 2).host.posted, w.host = 0 → w.island ≠ islHost) ∧ (s 2).up islHost = true ∧ (s 2).galPlace 0 0x10000 = (2, 0x10000) ∧ (∀ o ∈ [GalOp.read, .write, .set, .clear], (s 2).galAllowed o 0 0x10000 = true) ∧
      (∀ o ∈ [GalOp.read, .write, .set, .clear], (s 2).galAllowed o 0 0x20000 = false) ∧ memWf galDefault ((s 2).getGal 2).mem = true ∧
      (s 5).galPlace 0 0x60000 = (5, 0x60000) ∧ (s 5).galAllowed .write 0 0x60000 = true ∧ (s 5).galAllowed .write 0 0x5FFFC = false ∧
      (s 5).galAllowed .clear 0 0x160F00 = true ∧ memWf galDefault ((s 5).getGal 5).mem = true ∧
      (s 2).galBad 2 0x10000 = false ∧ (s 2).galBad 2 0x10004 = true ∧ (s 2).galPlace 0 0x10004 = (2, 0x10004) ∧ (s 2).galAllowed .set 0 0x10004 = true ∧
      (∀ a, ((s 2).getGal 2).collLogAt = some a → a + 384000 ≤ (s 2).now) := by
  refine ⟨by decide, by decide, by decide, by decide, by decide, by decide, by decide, by decide, by decide, by decide, by decide, by decide, by decide, by decide, by decide, ?_⟩
  intro a h; cases h

theorem witness_GalleryPowerAndScrub :
    let s := fun (x : Gal) => { upM with gal := [(2, x), (7, x)], tb := { idx := 3840 } }
    MayAct (s {}) 0 2 islHost ∧ ((s { power := .clearing }).getGal 2).power = .clearing ∧ ((s {}).getGal 2).shed = false ∧
      ((s {}).getGal 2).power = .off ∧ ((s { power := .on }).getGal 2).power ≠ .off ∧ (s {}).galOwner 2 = false ∧ (s {}).galOwner 3 = true ∧
      (3 : Word).toNat % 4 = 3 ∧ (2 : Word).toNat % 4 = 2 ∧ (1 : Word).toNat % 4 < 2 ∧ (s {}).up islGal = true ∧
      ((s { power := .on, req := 2 }).getGal 2).req = 2 ∧ ((s {}).getGal 2).lastAccess + 3840 ≤ (s {}).now ∧
      (s {}).now < ((s { lastAccess := 1 }).getGal 2).lastAccess + 3840 ∧ (s {}).stewUp = true ∧ (∀ d ∈ [0, galSize 2 - 4], d < galSize 2) ∧
      ((s {}).getGal 2).scrubAt = none ∧ ((s { scrubAt := some 0 }).getGal 2).scrubAt = some 0 ∧ (s {}).now < 0 + 3840000 ∧
      ((s { power := .on, woken := true }).getGal 2).woken = true ∧ up.mt.borrowed = false ∧
      ({ up with mt := { borrowed := true } } : State).badWords 4 (0x10000 * 0) 65536 = [] := by
  unfold MayAct; decide

theorem witness_MemoryTestBorrowsAndRestores :
    let b := { up with mt := { borrowed := true }, gal := [(4, { power := .on, bad := [8] }), (7, { power := .on, bad := [12] })] }
    b.badWords 4 0 65536 ≠ [] ∧ b.badWords 7 0 65536 ≠ [] ∧ b.mt.borrowed = true ∧ b.galOn 7 = true ∧
    let s := fun (m : MemTest) (p : GalPower) => { up with mt := m, gal := [(4, { power := .on, mem := [(9, 1)] }), (7, { power := p })] }
    (s {} .on).badWords 4 0 65536 = [] ∧ (s {} .on).badWords 7 0 65536 = [] ∧ (s {} .off).up islGal = true ∧ memWf galDefault ((s {} .on).getGal 4).mem = true ∧ memWf galDefault ((s {} .on).getGal 7).mem = true ∧
      ({ en := false } : MemTest).en = false ∧ (s {} .on).mt.en = true ∧ (s {} .on).mt.borrowed = false ∧ (s {} .on).mt.stopped = false ∧
      (s {} .on).galOn 4 = true ∧ (s {} .on).mt.lastAt = none ∧ (s { lastAt := some 0 } .on).now < 0 + 384000 ∧ (s { next := 31 } .on).mt.next < 32 ∧
      (∀ r ∈ (s { remaps := [(3, 0)] } .on).mt.remaps, r.1 ≠ 31) ∧ ((s {} .on).getGal 7).shed = false ∧
      (s {} .on).galOn 7 = true ∧ (s {} .off).galOn 7 = false ∧
      (s { borrowed := true, segment := 31 } .on).mt.borrowed = true ∧ ({ remaps := [(3, 0)] } : MemTest).remaps.length < 2 ∧
      2 ≤ ({ remaps := [(3, 0), (4, 1)] } : MemTest).remaps.length ∧ ({ yieldRun := 6 } : MemTest).yieldRun < 7 ∧
      7 ≤ ({ yieldRun := 7 } : MemTest).yieldRun := by
  decide


/-! ## Chapter 16: host ports -/

/-- A host port 0 as given, with a maker's session. -/
def upH (h : Hp) : State := { upM with host := { hp := [(0, h)] } }

/-- A reply of 18 bytes to request `n`. -/
def rep (n : Nat) : Reply := { seq := n, bytes := List.replicate 18 0 }

theorem witness_TransactionsCarryFrames :
    let body : List Byte := [0xD5, 0, 1, 1, 0, 0, 0, 0]
    State.reset.up islHost = false ∧ (1 : Byte) ≠ 0xD5 ∧ up.up islHost = true ∧ (∀ b ∈ ([1, 2] : List Byte), b ≠ 0xD5) ∧ ([7, 8] : List Word).length < 256 ∧ ([1] : List Byte).length < 7 ∧
      body.length = 8 ∧ body.head? = some 0xD5 ∧ body.getD 2 0 ≠ 2 ∧ ([0, 0] : List Byte).length = 2 ∧
      leNat [0, 0] ≠ (crc16 body).toNat ∧ ((upH { replies := [rep 0, rep 1] }).getHp 0).replies = [rep 0] ++ [rep 1] ∧
      8 + ([rep 0].map (fun x => x.bytes.length)).sum ≤ 43 ∧
      (∀ x ∈ [rep 1].head?, 43 < 8 + ([rep 0].map (fun x => x.bytes.length)).sum + x.bytes.length) ∧
      (0x54 : Byte) ≠ 0x53 ∧ (0x54 : Byte) ≠ 0x43 := by
  decide +kernel

theorem witness_RequestsAdmittedOrTurnedAway :
    let back := fun (r : Nat) (seq : Byte) => (r + 256 - seq.toNat) % 256
    (upH {}).up islHost = true ∧ IsRequest (.nop 0 3) 0 3 0 ∧ IsRequest (.read 0 3 0 8) 0 3 8 ∧ IsRequest (.write 0 3 0 [1, 2]) 0 3 2 ∧
      IsRequest (.fence 0 3) 0 3 0 ∧ IsRequest (.fenceCommit 0 3 0) 0 3 0 ∧ back 32 0 = 32 ∧ back 33 0 = 33 ∧ back 0 255 = 1 ∧ back 3 3 = 0 ∧
      ((upH { fences := List.replicate 32 { seq := 0, before := 0 } }).getHp 0).free = 0 ∧ 0 < ((upH { credit := 39 }).getHp 0).free ∧
      ((upH { credit := 39 }).getHp 0).credit < 5 * max 8 1 ∧ Admits (upH { resume := 3 }) 0 3 0 ∧ Admits (upH { resume := 3, credit := 5 }) 0 3 0 ∧
      (∃ r ∈ ((upH { replies := [rep 3] }).getHp 0).replies, r.seq = (3 : Byte).toNat) ∧
      (∀ r ∈ ((upH { replies := [rep 4] }).getHp 0).replies, r.seq ≠ (3 : Byte).toNat) := by
  refine ⟨by decide, by simp [IsRequest], by simp [IsRequest], by simp [IsRequest], by simp [IsRequest], by simp [IsRequest], by decide, by decide,
    by decide, by decide, by decide, by decide, by decide, ?_, ?_, by decide, by decide⟩ <;> (unfold Admits; decide)

theorem witness_ReadsAndWritesAnswered :
    let s := upH {}
    let u := fun (n op a : Nat) => taken s 0 n (needsSession op a n)
    let down := { s with red := { s.red with stewardDown := true } }
    s.up islHost = true ∧ NonePosted s 0 (place 0x1F0814).target ∧ (∀ n : Nat, n < 9 → Admits s 0 0 n) ∧ Admits s 0 0 255 ∧
      (0x1F0815 : BitVec 24).toNat % 4 ≠ 0 ∧ ((u 1 1 0xC10).reqRefused 0 false 0xC10 1 []).isSome = true ∧
      (u 1 1 0x1F0814).reqRefused 0 false 0x1F0814 1 [] = none ∧ (u 1 1 0x1C0008).reqRefused 0 false 0x1C0008 1 [] = none ∧
      down.red.stewardDown = true ∧ (place 0x100).target = islSteward ∧
      (taken down 0 1 true).reqRefused 0 false 0x100 1 [] = none ∧ (taken down 0 1 true).reqRefused 0 true 0x104 1 [7] = none ∧
      (place 0x104).target = islSteward ∧ s.red.stewardDown = false ∧ s.readFails 0 0x1F0814 = 0 ∧ s.readFails 0 0x1C0008 = 0 ∧ s.latched 0 0x1F0814 = none ∧ s.latched 0 0x1C0008 = none ∧
      (place 0x1C0008 = .cal 8) ∧ (u 9 2 0x1F0814).reqRefused 0 true 0x1F0814 9 (List.replicate 9 7) = some { status := 2, cause := 2 } ∧
      (u 1 2 0x1F0814).reqRefused 0 true 0x1F0814 1 [7] = none := by
  refine ⟨by decide, ?_, ?_, ?_, ?_⟩
  · intro w h; cases h
  · unfold Admits; decide
  · unfold Admits; decide
  · decide

/-- A word of port 0 posted to the host island, then one to an island that is down. -/
def postedW (isl a : Nat) : Posted := { ord := 0, host := 0, role := 3, island := isl, addr := a, v := 7 }

/-- The given port, with a word posted. -/
def upP (h : Hp) (w : Posted) : State :=
  { upH h with host := { hp := [(0, h)], posted := [w], nextOrd := 1 } }

theorem witness_FencesAndRegisterWrites_fences :
    let s := upP {} (postedW islHost 0x1F0814)
    let f : Fence := { seq := 9, before := 0 }
    s.up islHost = true ∧ Admits s 0 0 0 ∧ (∃ w ∈ s.host.posted, w.host = 0 ∧ w.ord < s.host.nextOrd) ∧
      ¬ (∃ w ∈ (upH {}).host.posted, w.host = 0 ∧ w.ord < (upH {}).host.nextOrd) ∧
      (∀ o ∈ ((upH { lates := [3] }).getHp 0).lates, (upH {}).host.nextOrd ≤ o) ∧ (∃ o ∈ ((upP { lates := [0] } (postedW 0 0)).getHp 0).lates, o < 1) ∧
      ((upH { fences := [f] }).getHp 0).fences.find? (fun f => f.group.isNone && !(upH {}).postedBefore 0 f.before) = some f ∧
      (∀ x ∈ ((upP { fences := [{ f with before := 1 }] } (postedW 0 0)).getHp 0).fences, x.group = none →
        (upP {} (postedW 0 0)).postedBefore 0 x.before = true) := by
  unfold Admits; decide

theorem witness_FencesAndRegisterWrites_commit :
    let m := { met (grpAt 10) with role := upM.role }
    Admits m 0 0 0 ∧ (taken m 0 0 true).grpDeclared ((0 : BitVec 24).toNat % 16) = true ∧ (taken m 0 0 true).grpDeclared 1 = false ∧
      m.up islHost = true ∧ (m.getRolePort 0).role ≠ 0 ∧ ((met (grpAt 10)).getRolePort 0).role = 0 ∧ (∀ e ∈ (m.getHp 0).fcAt, e.1 ≠ 0) := by
  unfold Admits; decide +kernel

theorem witness_FencesAndRegisterWrites_posted :
    let w := postedW islHost 0x1F0814
    let s := upP {} w
    let rest := { s with host := { s.host with posted := [] } }
    let down := { upP {} (postedW islResamp 0x100000) with glb := { lock := 0x3FF - 2 ^ islResamp, linkLock := 0xFFFFFFFF } }
    NonePosted rest 0 w.island ∧ s.postedUncorr w = false ∧ s.up islHost = true ∧ s.host.posted.find? (fun w => (islTargets .host).contains w.island) = some w ∧
      (∀ w ∈ s.host.posted, w.island ∉ islTargets .power) ∧ w.host = (0 : Fin 4).val ∧ w.addr < 2 ^ 24 ∧
      w.role = (s.getRolePort 0).role ∧ w.island = (place w.addr).target ∧ rest.mayWrite 0 w.addr w.v = true ∧ s.tgtUp w.island = true ∧
      s.red.stewardDown = false ∧ down.up islHost = true ∧ down.tgtUp islResamp = false ∧ islResamp ≠ islSteward ∧
      (down.host.posted.find? (fun w => (islTargets .resamp).contains w.island)).isSome = true := by
  refine ⟨?_, by decide +kernel⟩
  intro w h; cases h

theorem witness_FencesAndRegisterWrites_registers :
    NonePosted up 0 islHost ∧ upM.up islHost = true ∧ up.mayWrite 0 0x1F0814 7 = false ∧ (up.getRolePort 0).role = 0 ∧ MayAct upM 0 1 islHost ∧ MayAct upM 0 3 islHost := by
  unfold MayAct NonePosted; decide

theorem witness_BlocksBudgetsAndEvictions :
    let s := fun (h : Hp) => { upH h with gal := [(2, { power := .on })] }
    MayAct (s {}) 0 1 islHost ∧ MayAct (s {}) 0 3 islHost ∧ (0 : BitVec 9).toNat = 0 ∧ 256 < (257 : BitVec 9).toNat ∧
      ((s {}).getHp 0).budget < ((s {}).getHp 0).held.length + (65 : BitVec 9).toNat ∧ ((s {}).getHp 0).held.length + (64 : BitVec 9).toNat ≤ ((s {}).getHp 0).budget ∧
      (64 : BitVec 9).toNat ≤ (s {}).freeBlocks.length ∧ (s { budget := 256, held := [9] }).freeBlocks.length = 255 ∧
      galKept ((s {}).getGal 2).power = true ∧
      (let x := s { held := [3], cap := { busy := true, runFirst := 3 } }
       (x.getHp 0).cap.busy = true ∧ x.capUses 0 3 = true ∧ 3 ∈ (x.getHp 0).held) ∧ ((s {}).getHp 0).cap.busy = false ∧
      256 + ((s {}).getHp 0).budget < 4 * 64 + 65 ∧ 4 * 64 + 64 ≤ 256 + ((s {}).getHp 0).budget ∧ ((s { held := [1, 2] }).getHp 0).overBudget = false ∧
      (0 : Nat) < ((s { held := [1, 2] }).getHp 0).held.length ∧ ((s { held := [1, 2] }).getHp 0).held.Nodup ∧
      ((s { held := [1, 2] }).getHp 0).held.Pairwise (fun a b => a < b) ∧ ((s { budget := 1, held := [1, 2] }).getHp 0).budget < 2 ∧
      (up.getRolePort 0).role < 3 ∧ NonePosted up 0 islHost := by
  unfold MayAct NonePosted; decide +kernel

/-- The free blocks fall short: another port holds 200 of them. -/
theorem witness_BlocksBudgetsAndEvictions_noneFree :
    let s : State := { upM with host := { hp := [(0, { budget := 64 }), (1, { budget := 200, held := List.range 200 })] } }
    ((s.getHp 0).held.length + (57 : BitVec 9).toNat ≤ (s.getHp 0).budget) ∧ s.freeBlocks.length < (57 : BitVec 9).toNat ∧ MayAct s 0 1 islHost := by
  unfold MayAct; decide +kernel

theorem witness_CapturesRunInBlocks :
    let m := met (grpAt 10)
    let e : CapEnt := { value := -5, flags := 255, idx := 2 ^ 24 }
    let s := fun (c : Cap) => { m with role := upM.role, host := { hp := [(0, { held := [255], cap := c })] }, gal := [(2, { power := .on })] }
    MayAct (s {}) 0 1 islHost ∧ ({ source := 3, first := 255, src := 0x500 } : Cap).source < 4 ∧ ((s { busy := true }).getHp 0).cap.busy = true ∧
      (s { source := 3, first := 255, src := 0x500 }).capBad 0 = false ∧ (s { source := 3, first := 254, src := 0x500 }).capBad 0 = true ∧
      (s {}).up islGal = true ∧ ((s { busy := true, queue := [e], entries := 8191 }).getHp 0).cap.queue = e :: [] ∧ e.flags < 256 ∧
      galKept ((s {}).getGal 2).power = true ∧ memWf galDefault ((s {}).getGal 2).mem = true ∧ 8191 + 1 = 8192 * (0 + 1) ∧
      0 + 1 ≠ 8192 * (0 + 1) ∧ ({ up with ring := [(31, { nextRel := 5 })] } : State).capLatest 0 0x1F000000 = some 4 := by
  unfold MayAct; decide +kernel

/-- Port 0 holds block 1 of G2, whose word at 0x10004 has been found uncorrectable. -/
def upBad (ws : List Posted) : State :=
  { upM with gal := [(2, { power := .on, bad := [0x10004] })], host := { hp := [(0, { galSel := 2, held := [1] })], posted := ws } }

theorem witness_ReadsAndWritesAnswered_uncorrectable :
    Admits (upBad []) 0 0 1 ∧ (upBad []).up islHost = true ∧ NonePosted (upBad []) 0 (place 0x410004).target ∧
      (taken (upBad []) 0 1 (needsSession 1 0x410004 1)).reqRefused 0 false 0x410004 1 [] = none ∧ (upBad []).red.stewardDown = false ∧
      (upBad []).readFails 0 0x410004 = 5 := by
  refine ⟨by unfold Admits; decide, by decide, ?_, by decide +kernel, by decide, by decide⟩
  intro w h; cases h

theorem witness_FencesAndRegisterWrites_uncorrectable :
    let w := postedW islHost 0x810004
    let s := upBad [w]
    s.host.posted.find? (fun w => (islTargets .host).contains w.island) = some w ∧ place w.addr = .window .set 0x10004 ∧
      s.postedUncorr w = true ∧ w.island ≠ islSteward ∧ (upP {} (postedW islHost 0x1F0814)).postedUncorr (postedW islHost 0x1F0814) = false := by
  decide +kernel


/-! ## Chapters 17, 18 and 20: roles, tamper, the trouble log -/

/-- Port 0 as given; the operator key is 7, the epoch 0. -/
def upR (x : RolePort) : State := { up with role := { port := [(0, x)], operator := some 7 }, tb := { idx := 384000 } }

/-- The response of operator key 7 to challenge 5 of port 0 in epoch 0: HMAC-SHA-256 from an independent implementation. -/
def resp7 : BitVec 256 := 0x5bcea52f344055cd7c2bc6c90475d3252dd2a8ddfce268d83f3ff6e9466aa1bb

/-- Challenge 5 for a role, drawn at index 0. -/
def chal5 (r : Nat) : Option Chal := some { bytes := 5, role := r, at_ := 0 }

theorem witness_SessionsOpenAndEnd_response :
    let s := upR { chal := chal5 1, resp := resp7, fails := 1 }
    s.up islHost = true ∧ (s.getRolePort 0).chal = chal5 1 ∧ s.now ≤ 0 + 384000 ∧
      ((s.getRolePort 0).lockUntil ≤ s.now ∧ s.role.heldUntil ≤ s.now) ∧ s.roleKey 1 = some 7 ∧
      hmac256 (keyBytes 7) (chalMsg { bytes := 5, role := 1, at_ := 0 } 0 s.tb.epoch) = keyBytes (s.getRolePort 0).resp ∧
      hmac256 (keyBytes 7) (chalMsg { bytes := 5, role := 1, at_ := 0 } 1 s.tb.epoch) ≠ keyBytes (s.getRolePort 0).resp := by
  decide +kernel

theorem witness_SessionsOpenAndEnd_refused :
    let s := fun (x : RolePort) => upR x
    ((s { chal := chal5 1 }).getRolePort 0).chal = chal5 1 ∧ ¬ ({ s {} with tb := { idx := 384001 } } : State).now ≤ 0 + 384000 ∧
      (s {}).now < ((s { lockUntil := 384001 }).getRolePort 0).lockUntil ∧
      (s {}).now < ({ s {} with role := { heldUntil := 384001 } } : State).role.heldUntil ∧ (s {}).roleKey 2 = none ∧
      (({ s {} with role := { installer := some 8, sealed := true } } : State).roleKey 2).isSome = true ∧
      (∃ q, q < 4 ∧ (upM.getRolePort q).role = 3) ∧ (s {}).roleKey 3 = some Config.makerKey0 ∧ (∀ q, q < 4 → ((s {}).getRolePort q).role ≠ 3) := by
  refine ⟨by decide, by decide, by decide, by decide, by decide, by decide, by decide, rfl, by decide⟩

theorem witness_SessionsOpenAndEnd_others :
    let s := upR { role := 1 }
    NonePosted s 0 islHost ∧ NonePosted upM 0 islHost ∧ (s.getRolePort 0).role ≠ 0 ∧ ((upR {}).getRolePort 0).role = 0 ∧ (1 : BitVec 2) ≠ 0 ∧ ((upR {}).getRolePort 0).chal = none ∧
      s.now < (s.getRolePort 0).lastUse + max 60 s.role.idle * 384000 ∧
      (let z : State := { s with role := { s.role with idle := 60 }, tb := { idx := 60 * 384000 } }
       (z.getRolePort 0).lastUse + max 60 z.role.idle * 384000 ≤ z.now) ∧
      (upM.getRolePort 0).role = 3 ∧ ({ upM with role := { upM.role with sealed := true } } : State).role.sealed = true ∧ upM.role.sealed = false := by
  unfold NonePosted; decide

theorem witness_KeysSetAndOtpProgrammed :
    let s := fun (x : RolePort) => upR x
    let o := fun (b : OtpSlot) => ({ upM with role := { upM.role with otp := [(0, b)], otpData := 9 } } : State)
    let w := fun (x : State) => { x with pwr := { x.pwr with st := .warning } }
    NonePosted upM 0 islHost ∧ 2 ≤ ((s { role := 2 }).getRolePort 0).role ∧ (w (s { role := 2 })).inWarning = true ∧
      (s {}).up islHost = true ∧ ((s { role := 1 }).getRolePort 0).role < 2 ∧ 2 ≤ ((s { role := 2 }).getRolePort 0).role ∧
      ((s { role := 2, keyJob := some (1, 9) }).getRolePort 0).keyJob.isSome = true ∧ ((s { role := 2 }).getRolePort 0).keyJob = none ∧
      3 ≤ (upM.getRolePort 0).role ∧ (w upM).inWarning = true ∧ upM.inWarning = false ∧
      3 ≤ ({ upM with role := { upM.role with makers := [1, 2, 3] } } : State).role.makers.length ∧ upM.role.makers.length < 3 ∧
      (∀ g ∈ [1, 2, 3], ((s { keyJob := some (g, 9) }).getRolePort 0).keyJob = some (g, 9)) ∧
      (upM.getRolePort 0).role = 3 ∧ (({ upM with role := { upM.role with otpJob := some (1, 0, 9) } } : State).role.otpJob).isSome = true ∧
      (o .empty).role.otpJob = none ∧ tget .empty (o (.key [1])).role.otp 0 ≠ .empty ∧ tget .empty (o .empty).role.otp 0 = .empty ∧
      tget .empty (o (.key [1])).role.otp 0 = .key [1] ∧ (up.getRolePort 0).role ≠ 3 ∧ ((1 : Nat) = 1 ↔ tget .empty (o .empty).role.otp 0 = .empty) ∧
      ((2 : Nat) = 1 ↔ tget .empty (o (.key [1])).role.otp 0 = .empty) ∧ (w (o .empty)).inWarning = true := by
  unfold NonePosted; decide

/-- Nothing is seen in a sample: the switches rest at level `hi`. -/
def obs0 (hi : BitVec 8) : TamperObs :=
  { swHigh := hi, swMid := 0, loopLow := 0, loopBits := List.replicate 8 0, loopOhms := List.replicate 8 100, vstaHits := 0, vcoreHits := 0
    vbakLow := false, refWatchdog := false, refCount := false, temps := [25, 25, 25, 25], testCond := false, badCells := 0 }

theorem witness_TamperSamplesFilteredAndAnswered :
    let s := fun (x : Mon) => { up with tmp := { mon := [(0, x)], sample := 5 } }
    let raw := fun (o : TamperObs) (x : Mon) =>
      let d1 := o.swHigh.getLsbD 0 == x.opt
      let d2 := o.swMid.getLsbD 0 || o.swUp.getLsbD 0 == x.opt
      d1 || d2 || (d1 != d2 && decide (64 ≤ x.disRun))
    let x : Mon := { enable := true, state := .armed, response := 4, count := 3, window := 3, opt := true }
    (s x).pwr.mainOn = true ∧ (s x).tmp.test = none ∧ ((s x).getMon 0).newCfg = none ∧ ((s x).getMon 0).enable = true ∧
      ((s x).getMon 0).state = .armed ∧ ((s x).getMon 0).opened = none ∧ ((s x).getMon 0).n = 0 ∧ raw (obs0 0xFF) x = true ∧
      raw (obs0 0) x = false ∧ 1 < x.count ∧ ({ x with count := 1 } : Mon).count ≤ 1 ∧
      ((s { x with newCfg := some (1, 2) }).getMon 0).newCfg = some (1, 2) ∧
      (let y := { x with opened := some 4, n := 2 }
       ((s y).getMon 0).opened = some 4 ∧ raw (obs0 0xFF) y = true ∧ y.count = y.n + 1 ∧ (s y).tmp.sample + 1 < 4 + y.window ∧ 1 ≤ y.response) ∧
      (upM.role.heldUntil ≤ upM.now ∧ upM.role.sealed = false) ∧ (s x).inWarning = false ∧ (s x).tmp.otpCount < 2048 ∧ (warned 1).inWarning = true ∧ (warned 1).tmp.pending < 255 ∧
      (∀ m, m < 23 → (({ up with tmp := { mon := (List.range 23).map (fun m => (m, {})) } } : State).getMon m).enable = false ∧
        (({ up with tmp := { mon := (List.range 23).map (fun m => (m, {})) } } : State).getMon m).newCfg = none) := by
  decide +kernel

theorem witness_ShadowsTestsAndMonitorSettings :
    let s := { upM with pwr := { upM.pwr with copyA := some (rec0 4) }, tmp := { stopped := false } }
    State.reset.pwr.mainOn = false ∧ s.pwr.mainOn = true ∧ s.stewUp = true ∧ s.tmp.stopped = false ∧ (∀ m, ShadowField.seal ≠ .monCfg m) ∧
      (∀ p, ShadowField.seal ≠ .roleStat p) ∧ s.pwr.copyA = some (rec0 4) ∧ s.pwr.copyB = none ∧ MayAct upM 0 2 islCloak ∧ MayAct upM 0 3 islCloak ∧
      (17 : BitVec 5).toNat < 18 ∧ 22 < (23 : BitVec 5).toNat ∧
      ¬ ((18 : BitVec 5).toNat < 18 ∨ 22 < (18 : BitVec 5).toNat ∨ (({ upM with tmp := { mon := [(18, { state := .armed })] } } : State).getMon 18).state = .off ∨
        (({ upM with tmp := { mon := [(18, { state := .armed })] } } : State).getMon 18).state = .tripped ∨ upM.tmp.test.isSome = true ∨
        upM.inWarning = true) ∧
      4 < (0x50000000 : Word).toNat / 2 ^ 28 % 8 ∧ ¬ 4 < (0x40000000 : Word).toNat / 2 ^ 28 % 8 ∧ (0xFFFF : Word).toNat / 2 ^ 16 = 0 ∧
      (0x10000 : Word).toNat % 2 ^ 16 = 0 ∧ (0x20001 : Word).toNat % 2 ^ 16 < (0x20001 : Word).toNat / 2 ^ 16 := by
  unfold MayAct
  refine ⟨by decide, by decide, by decide, by decide, nofun, nofun, by decide, by decide, by decide, by decide, by decide, by decide, by decide,
    by decide, by decide, by decide, by decide, by decide⟩

/-- An entry of severity 1 that is not always logged, and the same always logged. -/
def ent1 (always : Bool) : LogEnt := { code := 0x0101, sev := 1, always := always, when_ := 5, epoch := 0, data := [0, 0] }

theorem witness_TroubleLogWritten :
    let s := fun (x : LogSrc) (sp : Tab Span) => { upM with gal := [(3, { power := .on })], log := { src := [(1, x)], span := sp }, tb := { idx := 384000 } }
    let full : Span := { start := 0, written := 64, count := 2 }
    memWf galDefault ((s {} []).getGal 3).mem = true ∧ (s {} []).log.next < 2 ^ 32 ∧ (s {} []).logUp = true ∧ upM.logUp = false ∧
      ((s { chan := [ent1 true, ent1 false], waiting := [ent1 true] } []).getLogSrc 1).chan = ent1 true :: [ent1 false] ∧ (ent1 true).always = true ∧
      (ent1 true).data.length ≤ 12 ∧ (ent1 false).sev < 2 ∧ (ent1 false).always = false ∧
      (s {} [(0x0101, full)]).log.span.find? (fun y => y.1 == 0x0101) = some (0x0101, full) ∧ (ent1 false).when_ < full.start + 384000 ∧
      64 ≤ full.written ∧ full.start + 384000 ≤ (s {} []).now ∧ full.count ≠ 0 ∧
      ((s { drops := 3, chan := List.replicate 15 (ent1 false) } []).getLogSrc 1).drops ≠ 0 ∧
      ((s { drops := 3, chan := List.replicate 15 (ent1 false) } []).getLogSrc 1).chan.length < 16 ∧
      16 ≤ (List.replicate 16 (ent1 false)).length ∧ MayAct upM 0 1 islSteward := by
  unfold MayAct; decide

/-- The steward's own entry of index 5 waits in channel 0, and a span of code 0x0101 has just been filled. -/
def zeroAt0 : State :=
  { upM with
    gal := [(3, { power := .on })], tb := { idx := 384000 }
    log := { src := [(0, { chan := [{ ent1 true with code := 5 }] }), (1, { chan := [ent1 false] })], span := [(0x0101, { start := 0, written := 64, count := 2 })] } }

/-- From index 6 on an entry waits for that of channel 0, unless it comes from there; up to index 5 none does. -/
theorem witness_TroubleLogWritten_order :
    (∀ i ∈ [1, 12], ZeroFirst i 6 zeroAt0) ∧ (∀ i, ¬ ZeroFirst i 5 zeroAt0) ∧ (zeroAt0.getLogSrc 0).chan = { ent1 true with code := 5 } :: [] ∧
      InTurn 0 { ent1 true with code := 5 } zeroAt0 ∧ (zeroAt0.getLogSrc 1).chan = ent1 false :: [] ∧ InTurn 1 (ent1 false) zeroAt0 := by
  have none_ : ∀ i, ¬ ZeroFirst i 5 zeroAt0 := by
    have h : ∀ j < 12, ∀ x ∈ (zeroAt0.getLogSrc j).chan ++ (zeroAt0.getLogSrc j).waiting, ¬ x.when_ < 5 := by decide
    rintro i ⟨j, x, hj, _, hx, _, hw⟩
    exact h j hj x (List.mem_append.mpr hx) hw
  refine ⟨?_, none_, rfl, ?_, rfl, ?_⟩
  · intro i hi
    refine ⟨0, { ent1 true with code := 5 }, by decide, ?_, by decide, by decide, by decide⟩
    rintro rfl
    revert hi; decide
  · exact ⟨none_ 0, by decide⟩
  · intro y h
    cases h
    decide

/-! ## Rules of the whole block -/

theorem reset_memories : Safety.MemoriesCanonical State.reset := by unfold Safety.MemoriesCanonical; decide

theorem witness_StepKeepsMemoriesCanonical :
    Safety.MemoriesCanonical { up with gal := [(3, { mem := [(7, 1), (9, 2)] })], plan := { flash := [(0, 0xD5)] }, pending := [.tick 0] } ∧
      (∃ t, step { up with pending := [.tick 0] } = .next t) := by
  refine ⟨?_, _, rfl⟩
  unfold Safety.MemoriesCanonical; decide

theorem witness_RatioStaysWithinLimits : Safety.RatioWithinLimits State.reset := by unfold Safety.RatioWithinLimits; decide

/-- `setRatio` at both limits, asked beyond them. -/
theorem witness_RatioStaysWithinLimits_limits :
    ∀ n ∈ [0x4FFBE76C8B44, 0x5004189374BC], 0x4FFBE76C8B44 ≤ n ∧ n ≤ 0x5004189374BC ∧
      n ≤ 0x4FFBE76C8B44 + n * 384000000000000 / (2000000 * 384000) := by decide

theorem witness_StepKeepsBlocksExclusiveAndCreditBounded :
    (State.reset.getHp 0).held = [] ∧ (State.reset.getHp 0).credit = 5 * 256 ∧ ∃ t, step State.reset = .next t := ⟨rfl, rfl, _, rfl⟩

theorem witness_OtpOnlyGrows :
    let s : State := { up with role := { otpJob := some (1, 2, 9), otp := [(0, .key [1]), (1, .revoked [2])] }, tmp := { otpCount := 2048 } }
    OtpJobSound s ∧ s.tmp.otpCount ≤ 2048 ∧ tget .empty s.role.otp 0 = .key [1] ∧ tget .empty s.role.otp 1 = .revoked [2] ∧
      ∃ t, step s = .next t := by
  refine ⟨?_, by decide, by decide, by decide, _, rfl⟩
  intro i d h
  cases h
  decide

theorem witness_CommandsLeaveTheQueue : ∃ t, exec (.tick 0) State.reset = .next t := ⟨_, rfl⟩

theorem witness_StoppedMainDomainChangesNothing :
    State.reset.pwr.mainOn = false ∧ State.reset.pwr.resetting = false ∧ (∀ b o, (Instr.tick 0) ≠ .powerGood b o) ∧
      (∀ v w, (Instr.tick 0) ≠ .powerWarning v w) ∧ (Instr.tick 0) ≠ .mainRelease ∧
      (∀ o, (Instr.tick 0) ≠ .tamperSample o) ∧ (∀ v, (Instr.tick 0) ≠ .cloakSupplySwitch v) ∧ (∀ v, (Instr.tick 0) ≠ .cloakroomTrim v) ∧
      (∀ i, (Instr.tick 0) ≠ .logDropped i) := by
  refine ⟨rfl, rfl, nofun, nofun, nofun, nofun, nofun, nofun, nofun⟩

/-! ## The checks of WellFormed -/

theorem test_wf_holds :
    (Instr.cellReply 0 0 (List.replicate 32 0)).wf = true ∧ (Instr.write 0 0 0 [1]).wf = true ∧ (Instr.write 0 0 0 (List.replicate 8 1)).wf = true ∧
      (Instr.rcRead 0 0x01104C).wf = true ∧ (Instr.galleryScrub 0 0 [0, 4]).wf = true ∧ (Instr.memtestDone (some 65535)).wf = true ∧
      (Instr.tamperSample (obs0 0)).wf = true ∧ (Instr.ringEnum 0 (List.replicate 255 (some 0))).wf = true := by decide +kernel

theorem test_wf_frame_too_long : (Instr.frameReceive 0 0 0 (List.replicate 1281 default)).wf = false := by decide +kernel
theorem test_wf_too_many_heads :
    (Instr.ringEnum 0 (List.replicate 256 none)).wf = false ∧ (Instr.ringEnumRetry 0 (List.replicate 256 none)).wf = false := by decide +kernel
theorem test_wf_cell_of_31_or_33 :
    (Instr.cellReply 0 0 (List.replicate 31 0)).wf = false ∧ (Instr.cellReply 0 0 (List.replicate 33 0)).wf = false := by decide
theorem test_wf_write_of_0_or_9 : (Instr.write 0 0 0 []).wf = false ∧ (Instr.write 0 0 0 (List.replicate 9 0)).wf = false := by decide
theorem test_wf_misaligned_register :
    (Instr.snapshotWord0Read 0 1).wf = false ∧ (Instr.rcRead 0 2).wf = false ∧ (Instr.pulseOutConfig 0 3 0).wf = false ∧
      (Instr.registerWrite 0 0x1F0815 0).wf = false := by decide
theorem test_wf_misaligned_gallery :
    (Instr.galleryRead 0 1 .clean).wf = false ∧ (Instr.galleryWrite 0 2 0 .idle).wf = false ∧ (Instr.aliasSet 0 3 0 .idle).wf = false ∧
      (Instr.aliasClear 0 5 0 .idle).wf = false ∧ (Instr.galleryScrub 0 0 [0, 6]).wf = false := by decide
theorem test_wf_segment_offset : (Instr.memtestDone (some 65536)).wf = false := by decide
theorem test_wf_observations :
    (Instr.tamperSample { obs0 0 with loopBits := [] }).wf = false ∧ (Instr.tamperSample { obs0 0 with loopOhms := [1] }).wf = false ∧
      (Instr.tamperSample { obs0 0 with temps := [25] }).wf = false := by decide

/-- No word spells a command: the table gives no bits. -/
theorem test_decode_none : decodeTableWord 32 0x12345678 = none := rfl

/-! ## Worked values of the spec -/

/-- R377: the check over the ASCII bytes "123456789". -/
theorem test_crc16 : crc16 [0x31, 0x32, 0x33, 0x34, 0x35, 0x36, 0x37, 0x38, 0x39] = 0x29B1 := by decide +kernel
/-- R73: the IEEE CRC-32 of the same bytes (its published check value). -/
theorem test_crc32 : crc32 [0x31, 0x32, 0x33, 0x34, 0x35, 0x36, 0x37, 0x38, 0x39] = 0xCBF43926 := by decide +kernel
/-- R409: SHA-256 of "abc" (FIPS 180-4). -/
theorem test_sha256 :
    sha256 [0x61, 0x62, 0x63] = (leBytes 32 0xba7816bf8f01cfea414140de5dae2223b00361a396177a9cb410ff61f20015ad).reverse := by decide +kernel
/-- The waits of head 512 in the chapter on the links: west and east, primary and alternate. -/
theorem test_waits :
    headWaits { dw := 1770 * 1024, de := 17000 * 1024, modP := 24576, modA := 57344 } = [1120534, 1087766, 1105304, 1072536] := by decide
/-- The outputs 1 to 6 after the gain change of head 512: code 2,000,000 from index 5,000,257 on, s_4 = 3 and s_5 = 15. -/
theorem test_staircase_settles :
    (((List.range 71).foldl (fun x i => (strmStep { shifts := [0, 0, 0, 3, 15] }
        { n := 5000257 + i, cls := 0, code := 2000000, chg := i == 0, step := 2 } x).2) ({} : Strm)).outs.map
        (fun o => (o.nlast, o.val, o.unset))) =
      [(5000327, 1898438, false), (5000315, 1898438, true), (5000303, 1888618, true), (5000291, 1542183, true), (5000279, 501366, true),
       (5000267, 22911, true)] := by decide +kernel
/-- The scale of the export cable's current: m and e of R175. -/
theorem test_scaled : ({ scale := List.replicate 16 (2761681646, 17) } : PlanBind).scaled false 2 1 1000000 = 21069958847 := by decide
/-- The frequency of a window of 10 cycles between positions 2,000,000 and 2,006,400 (R171): exactly 50 Hz. -/
theorem test_window_frequency : rneN (10 * 384000 * 2 ^ 57) (tau33 5 12 (2006400 * 2 ^ 32) - tau33 5 12 (2000000 * 2 ^ 32)).toNat = 838860800 := by
  decide
/-- The rates of PLS_OUT[0] for 3,333 and 3,334 pulses in a window of 76,800 ticks (R203). -/
theorem test_pulse_rate : pulseRate 3333 76800 = 715756299 ∧ pulseRate 3334 76800 = 715971048 := by decide
/-- The V1 record of export cable context C100 (R224, R229). -/
theorem test_spectrum_codes :
    sf16 (32512000 ^ 2) 1 = 0x7781 ∧ sf16 (390144 ^ 2) 1 = 0x43E8 ∧ sf16 (292608 ^ 2) 1 = 0x40EE ∧ spRecord 0 100 0 = 0x490000 ∧
      spRecord 1 100 0 = 0x710000 ∧ root32 ((1524 ^ 2 + 1143 ^ 2) * 2 ^ 48) (127000 ^ 2) = 251658 := by decide +kernel
/-- The VBAK result of the injected slot: 1.500 V is code 48,000. -/
theorem test_converter_code : lcWord 48000 false false false = 0xBB80 ∧ lcWord 48000 false false true = 0xBB800000 := by decide
/-- The RING_WRAP entry of ring 4: its slot, and its words from offset 4 on. -/
theorem test_log_entry :
    logAt 76864 = 0x118800 ∧
      byteWords 7 (logBody (ent .ringWrap 81000002 4 [(1, 30), (1, 31), (8, 80999999)] { up with tb := { epoch := 17 } }) false false
        (leBytes 2 4 ++ packVals [(1, 30), (1, 31), (8, 80999999)])) =
      [0x02020208, 0x04D3F642, 0, 0x11, 0x1F1E0004, 0x04D3F63F, 0] := by decide +kernel

/-! ## Single steps -/

/-- R378: the one command is a NOP with the next number: its reply is queued, and the number moves on. -/
theorem test_nop_answered :
    (match step { up with pending := [.nop 0 0] } with
     | .next t => ((t.getHp 0).resume, ((t.getHp 0).replies.map (fun r => r.bytes.take 4)), (t.getHp 0).credit)
     | _ => (0, [], 0)) = (1, [[0xD5, 0, 5, 0]], 1275) := by decide +kernel
/-- R394: the lowest free blocks are granted. -/
theorem test_blocks_granted :
    (match step { upM with pending := [.blockRequest 0 2] } with | .next t => (t.getHp 0).held | _ => []) = [0, 1] := by decide +kernel
/-- R393, R392: HP_INT_EN takes its bits. -/
theorem test_register_write :
    (match step { upM with pending := [.registerWrite 0 0x1F0814 0xFFFFFFFF] } with | .next t => (t.getHp 0).intEn | _ => 0) = 0xF0000FFF := by
  decide +kernel
/-- R40: the sample index counts. -/
theorem test_tick_counts : (match step { up with pending := [.tick 0] } with | .next t => t.tb.idx | _ => 0) = 1 := by decide +kernel
/-- R409: the operator's challenge, answered rightly, opens the session. -/
theorem test_session_opens :
    (match step { upR { chal := chal5 1, resp := resp7 } with pending := [.roleSubmit 0] } with
     | .next t => ((t.getRolePort 0).role, (t.getRolePort 0).result) | _ => (9, 9)) = (1, 0) := by decide +kernel

end Sys2Proof.Tests
end

section
/-! PROOF. The ratio in use stays within the limits of R41 (O56). Three parts: what the timebase itself does to its ratio; that every
operation of another chapter leaves the timebase as it was, one lemma for each operation in the model's order; and the commands that do
reach the timebase: the tick, the discipline, a host's accesses, and the starts and stops of the main domain.

The lemmas of the second part are `@[simp]`, so each proof unfolds its own operation alone and rewrites by the lemmas of those it calls.
Some run `simp -implicitDefEqProofs`: there the kernel would otherwise compare two large states to accept that an update leaves the
timebase, where the lemma of Laws/State.lean says so at once. -/

namespace Sys2Proof.Machine

/-! ## The ratio and its limits (R41, R43) -/

/-- R41: a ratio within the limits. -/
def InLimits (r : Nat) : Prop := ratioLo ≤ r ∧ r ≤ ratioHi

/-- The ratio in use and the one from which FREE and HOLDOVER slew lie within the limits of R41. -/
def Tb.Within (t : Tb) : Prop := InLimits t.ratio ∧ InLimits t.slewFrom

/-- The invariant of Safety.lean speaks of the timebase alone. -/
theorem ratioWithinLimits_iff (s : State) : Safety.RatioWithinLimits s ↔ s.tb.Within :=
  ⟨fun ⟨a, b, c, d⟩ => ⟨⟨a, b⟩, c, d⟩, fun ⟨⟨a, b⟩, c, d⟩ => ⟨a, b, c, d⟩⟩

theorem inLimits_clampRatio (r : Nat) : InLimits (clampRatio r) := by
  simp only [InLimits, clampRatio, ratioLo, ratioHi]; omega

theorem clampRatio_below {r : Nat} (h : r < ratioLo) : clampRatio r = ratioLo := by
  simp only [clampRatio, ratioLo, ratioHi] at *; omega

theorem clampRatio_above {r : Nat} (h : ratioHi < r) : clampRatio r = ratioHi := by
  simp only [clampRatio, ratioLo, ratioHi] at *; omega

/-- R43: the ratio stops between where it stands and its goal, so it never leaves limits that hold both. -/
theorem inLimits_slew {r goal : Nat} (hr : InLimits r) (hg : InLimits goal) (ticks : Nat) : InLimits (slew r goal ticks) := by
  obtain ⟨hr₁, hr₂⟩ := hr
  obtain ⟨hg₁, hg₂⟩ := hg
  simp only [InLimits, slew]
  split
  · omega
  · split <;> omega

/-- R43: a goal above, no farther than the allowance, is reached. -/
theorem slew_up {r goal ticks : Nat} (h : r ≤ goal) (hm : goal ≤ r + slewLimit r ticks) : slew r goal ticks = goal := by
  simp only [slew]
  split
  · omega
  · split <;> omega

/-- R43: a goal below, no farther than the allowance, is reached. -/
theorem slew_down {r goal ticks : Nat} (h : goal ≤ r) (hm : r ≤ goal + slewLimit r ticks) : slew r goal ticks = goal := by
  simp only [slew]
  split
  · omega
  · split <;> omega

@[simp] theorem setRatio_ratio (asked ticks : Nat) (t : Tb) : (setRatio asked ticks t).ratio = slew t.ratio (clampRatio asked) ticks := rfl

/-- R41: RANGE is 1 exactly while the ratio stands at the limit to which the one asked for was clamped. -/
theorem setRatio_range (asked ticks : Nat) (t : Tb) : (setRatio asked ticks t).range = true ↔
    (asked < ratioLo ∧ (setRatio asked ticks t).ratio = ratioLo) ∨ (ratioHi < asked ∧ (setRatio asked ticks t).ratio = ratioHi) := by
  simp [setRatio, slewHere, useRatio]

/-! ## What keeps the ratio of the timebase within its limits -/

/-- Only the two ratios count. -/
theorem Tb.Within.congr {t u : Tb} (h : t.Within) (hr : u.ratio = t.ratio) (hs : u.slewFrom = t.slewFrom) : u.Within := by
  simpa only [Tb.Within, hr, hs] using h

theorem within_default (e : Nat) : ({ epoch := e } : Tb).Within := by
  simp [Tb.Within, InLimits, ratioLo, ratioHi]

theorem useRatio_within {r : Nat} {t : Tb} (hr : InLimits r) (h : t.Within) (asked : Nat) : (useRatio asked r t).Within := ⟨hr, h.2⟩

theorem slewHere_within {t : Tb} (h : t.Within) : (slewHere t).Within := ⟨h.1, h.1⟩

theorem setRatio_within {t : Tb} (h : t.Within) (asked ticks : Nat) : (setRatio asked ticks t).Within :=
  slewHere_within (useRatio_within (inLimits_slew h.1 (inLimits_clampRatio asked) ticks) h asked)

theorem slewTo_within {t : Tb} (h : t.Within) (asked : Nat) : (slewTo asked t).Within :=
  useRatio_within (inLimits_slew h.2 (inLimits_clampRatio asked) _) h asked

/-- R50: in every state of the discipline. -/
theorem restRatio_within {t : Tb} (h : t.Within) : (restRatio t).Within := by
  unfold restRatio
  split
  · exact slewTo_within h _
  · exact slewTo_within h _
  · exact h
  · exact h

/-- R40: a tick. -/
theorem ncoTick_within {t : Tb} (h : t.Within) : (ncoTick t).Within := restRatio_within (h.congr rfl rfl)

theorem setDisc_within {t : Tb} (h : t.Within) (d : Disc) : (setDisc d t).Within := slewHere_within (h.congr rfl rfl)

theorem writeDiscEn_within {t : Tb} (h : t.Within) (en : Bool) : (writeDiscEn en t).Within := by
  cases en
  · exact setDisc_within (h.congr rfl rfl) .free
  · exact h.congr rfl rfl

theorem writeTaiSet_within {t : Tb} (h : t.Within) (v : Nat) : (writeTaiSet v t).Within := h.congr rfl rfl

theorem writeTaiBy_within {t : Tb} (h : t.Within) (role host : Nat) : (writeTaiBy role host t).Within := h.congr rfl rfl

/-- R66: no write of a timebase register moves the ratio: TB_NCO is read only, and TB_NCO_NOM is where FREE moves to. -/
theorem tbWrite_within {t : Tb} (h : t.Within) (role host off : Nat) (v : Word) : (tbWrite role host off v t).Within := by
  unfold tbWrite
  split
  · refine writeDiscEn_within ?_ _
    exact h.congr rfl rfl
  · exact h.congr rfl rfl
  · exact h.congr rfl rfl
  · refine slewHere_within ?_
    exact h.congr rfl rfl
  · exact h.congr rfl rfl
  · exact writeTaiBy_within (writeTaiSet_within h _) role host
  · exact writeTaiBy_within (writeTaiSet_within h _) role host
  · split
    · refine writeTaiBy_within ?_ role host
      exact h.congr rfl rfl
    · exact h
  · exact h

theorem tbClear_within {t : Tb} (h : t.Within) (off : Nat) : (tbClear off t).Within := by
  unfold tbClear
  split
  · exact h.congr rfl rfl
  · exact h

/-- R50: an accepted edge's move to another state. -/
theorem edgeState_within {t : Tb} (h : t.Within) (e : Int) : (edgeState e t).Within := by
  unfold edgeState
  extract_lets good bad u
  have hu : u.Within := h.congr rfl rfl
  clear_value u good bad
  split
  · split
    · exact setDisc_within hu _
    · exact hu
  · split
    · exact (setDisc_within hu .acquire).congr rfl rfl
    · exact hu
  · exact hu
  · exact hu

/-! ## What leaves the timebase as it was -/

/-! ### Lists, conditions and islands -/

/-- The timebase of the state that a command answers. -/
def tbAfter : Out → Option Tb
  | .next t => some t.tb
  | .fault _ | .refused _ => none

@[simp] theorem tbAfter_next (t : State) : tbAfter (.next t) = some t.tb := rfl

@[simp] theorem ite_tb (c : Prop) [Decidable c] (s t : State) : (if c then s else t).tb = if c then s.tb else t.tb :=
  apply_ite State.tb c s t

@[simp] theorem each_tb {α : Type} {f : State → α → State} (hf : ∀ s a, (f s a).tb = s.tb) (l : List α) (s : State) :
    (each l f s).tb = s.tb := each_same State.tb hf l s

@[simp] theorem foldl_tb {α : Type} {f : State → α → State} (hf : ∀ s a, (f s a).tb = s.tb) (l : List α) (s : State) :
    (l.foldl f s).tb = s.tb := each_same State.tb hf l s

/-- A fold that gathers something beside the state. -/
@[simp] theorem foldl_snd_tb {α β : Type} {f : β × State → α → β × State} (hf : ∀ a x, (f a x).2.tb = a.2.tb) (l : List α)
    (a : β × State) : (l.foldl f a).2.tb = a.2.tb :=
  List.foldlRecOn l f (motive := fun b => b.2.tb = a.2.tb) rfl (fun b hb x _ => (hf b x).trans hb)

@[simp] theorem whenDo_tb {f : State → State} (hf : ∀ s, (f s).tb = s.tb) (b : Bool) (s : State) : (whenDo b f s).tb = s.tb :=
  whenDo_keeps (·.tb = s.tb) (fun t ht => (hf t).trans ht) b rfl

/-- R12: whether the island is clocked or held idle. -/
@[simp] theorem onIsl_tb {f : State → State} {s : State} (hf : (f s).tb = s.tb) (i : Nat) : tbAfter (onIsl i s f) = some s.tb := by
  simp [onIsl, hf]

@[simp] theorem onLink_tb {f : State → State} {s : State} (hf : (f s).tb = s.tb) (r : Nat) : tbAfter (onLink r s f) = some s.tb := by
  simp [onLink, hf]

@[simp] theorem onStew_tb {f : State → State} {s : State} (hf : (f s).tb = s.tb) : tbAfter (onStew s f) = some s.tb := by
  simp [onStew, hf]

/-! ### Shared operations -/

@[simp] theorem galPutW_tb (g off : Nat) (w : Word) (s : State) : (galPutW g off w s).tb = s.tb := by simp [galPutW]
@[simp] theorem noteStalls_tb (s : State) : (noteStalls s).tb = s.tb := by simp [noteStalls]
@[simp] theorem stall_tb (c : Chan) (ticks : Nat) (s : State) : (stall c ticks s).tb = s.tb := by simp [stall]
@[simp] theorem unstall_tb (c : Chan) (s : State) : (unstall c s).tb = s.tb := by simp [unstall]
@[simp] theorem State.freeNext_tb (s : State) : (State.freeNext s).2.tb = s.tb := by simp [State.freeNext]

/-! ### Galleries (chapter 15) -/

@[simp] theorem galSettle_tb (g : Nat) (s : State) : (galSettle g s).tb = s.tb := by simp [galSettle]
@[simp] theorem galSettleAll_tb (s : State) : (galSettleAll s).tb = s.tb := by simp [galSettleAll]
@[simp] theorem galClear_tb (g : Nat) (s : State) : (galClear g s).tb = s.tb := by simp [galClear]
@[simp] theorem galCollide_tb (g off user host : Nat) (s : State) : (galCollide g off user host s).tb = s.tb := by simp [galCollide]

@[simp] theorem galHostOp_tb (host g off : Nat) (op other : PortA) (s : State) : (galHostOp host g off op other s).tb = s.tb := by
  unfold galHostOp
  dsimp only
  split <;> simp

@[simp] theorem galUncorr_tb (g off : Nat) (s : State) : (galUncorr g off s).tb = s.tb := by simp [galUncorr]
@[simp] theorem galRead_tb (g off : Nat) (ecc : Ecc) (s : State) : (galRead g off ecc s).tb = s.tb := by unfold galRead; split <;> simp
@[simp] theorem noteUpload_tb (g off : Nat) (s : State) : (noteUpload g off s).tb = s.tb := by simp [noteUpload]
@[simp] theorem readRange_tb (g a n : Nat) (s : State) : (readRange g a n s).tb = s.tb := by simp [readRange]
@[simp] theorem segCopy_tb (g a g' a' : Nat) (s : State) : (segCopy g a g' a' s).tb = s.tb := by simp [segCopy]
@[simp] theorem segShadow_tb (s : State) : (segShadow s).tb = s.tb := by simp [segShadow]
@[simp] theorem segRestore_tb (s : State) : (segRestore s).tb = s.tb := by simp [segRestore]
@[simp] theorem execMemtestBorrow_tb (s : State) : tbAfter (execMemtestBorrow s) = some s.tb := by simp [execMemtestBorrow]
@[simp] theorem segBad_tb (x : Nat) (s : State) : (segBad x s).tb = s.tb := by simp [segBad]

@[simp] theorem execMemtestDone_tb (bad : Option Nat) (s : State) : tbAfter (execMemtestDone bad s) = some s.tb := by
  unfold execMemtestDone
  split <;> simp

@[simp] theorem memYield_tb (s : State) : (memYield s).tb = s.tb := by simp [memYield]
@[simp] theorem execMemtestYield_tb (s : State) : tbAfter (execMemtestYield s) = some s.tb := by simp [execMemtestYield]

@[simp] theorem execGalleryClearDone_tb (g : Fin 8) (s : State) : tbAfter (execGalleryClearDone g s) = some s.tb := by
  simp [execGalleryClearDone]

@[simp] theorem execGalleryIdleRetain_tb (g : Fin 8) (s : State) : tbAfter (execGalleryIdleRetain g s) = some s.tb := by
  simp [execGalleryIdleRetain]

@[simp] theorem execGalleryScrub_tb (g : Fin 8) (singles : Nat) (doubles : List Nat) (s : State) :
    tbAfter (execGalleryScrub g singles doubles s) = some s.tb := by
  simp [execGalleryScrub]

@[simp] theorem galRegClear_tb (off : Nat) (s : State) : (galRegClear off s).tb = s.tb := by
  unfold galRegClear
  repeat' split
  all_goals simp

@[simp] theorem galRegWrite_tb (p off : Nat) (v : Word) (s : State) : (galRegWrite p off v s).tb = s.tb := by simp [galRegWrite]

/-! ### Blocks, captures and budgets (chapter 16) -/

@[simp] theorem checkBudget_tb (p : Nat) (s : State) : (checkBudget p s).tb = s.tb := by simp [checkBudget]
@[simp] theorem capEnd_tb (code p : Nat) (s : State) : (capEnd code p s).tb = s.tb := by simp [capEnd]
@[simp] theorem loseBlocks_tb (code p : Nat) (l : List Nat) (s : State) : (loseBlocks code p l s).tb = s.tb := by simp [loseBlocks]
@[simp] theorem blockGo_tb (p n : Nat) (s : State) : (blockGo p n s).tb = s.tb := by simp [blockGo]
@[simp] theorem releaseBlocks_tb (p w : Nat) (mask : Word) (s : State) : (releaseBlocks p w mask s).tb = s.tb := by simp [releaseBlocks]
@[simp] theorem evictPort_tb (role host p : Nat) (s : State) : (evictPort role host p s).tb = s.tb := by simp [evictPort]
@[simp] theorem budgetSet_tb (role host p : Nat) (v : Word) (s : State) : (budgetSet role host p v s).tb = s.tb := by simp [budgetSet]

@[simp] theorem capSee_tb (source : Nat) (hit : Word → Bool) (e : CapEnt) (s : State) : (capSee source hit e s).tb = s.tb := by
  simp [capSee]

@[simp] theorem captureEntry_tb (p : Nat) (s : State) : (captureEntry p s).tb = s.tb := by unfold captureEntry; dsimp only; split <;> simp
@[simp] theorem execCaptureEntry_tb (host : Fin 4) (s : State) : tbAfter (execCaptureEntry host s) = some s.tb := by simp [execCaptureEntry]
@[simp] theorem capGone_tb (gone : Nat → Word → Bool) (s : State) : (capGone gone s).tb = s.tb := by simp [capGone]
@[simp] theorem capRingGone_tb (r : Nat) (s : State) : (capRingGone r s).tb = s.tb := by simp [capRingGone]
@[simp] theorem capCtxGone_tb (c : Nat) (s : State) : (capCtxGone c s).tb = s.tb := by simp [capCtxGone]

/-! ### Rings -/

@[simp] theorem dropService_tb (r : Nat) (s : State) : (dropService r s).tb = s.tb := by simp [dropService]
@[simp] theorem retirePort_tb (crit k : Nat) (s : State) : (retirePort crit k s).tb = s.tb := by simp [retirePort]
@[simp] theorem leaveLock_tb (k : Nat) (rx : Rx) (s : State) : (leaveLock k rx s).tb = s.tb := by simp [leaveLock]
@[simp] theorem badPeriod_tb (k : Nat) (s : State) : (badPeriod k s).tb = s.tb := by simp [badPeriod]
@[simp] theorem noComma_tb (k : Nat) (s : State) : (noComma k s).tb = s.tb := by unfold noComma; split <;> simp

@[simp] theorem waitsFrom_tb (h f : Nat) (waits : List Nat) (dw de : Int) (s : State) : (waitsFrom h f waits dw de s).tb = s.tb := by
  simp [waitsFrom]

@[simp] theorem turnHead_tb (h f : Nat) (east : Bool) (s : State) : (turnHead h f east s).tb = s.tb := by simp [turnHead]
@[simp] theorem fillHole_tb (r frame pos : Nat) (bs : List Byte) (s : State) : (fillHole r frame pos bs s).tb = s.tb := by simp [fillHole]
@[simp] theorem laneFill_tb (r near : Nat) (cs : List Chr) (s : State) : (laneFill r near cs s).tb = s.tb := by simp [laneFill]
@[simp] theorem turnHalf_tb (k w ft : Nat) (s : State) : (turnHalf k w ft s).tb = s.tb := by simp [turnHalf]
@[simp] theorem firstTurned_tb (k : Nat) (h : FrameHdr) (s : State) : (firstTurned k h s).tb = s.tb := by simp [firstTurned]
@[simp] theorem seeLooped_tb (k : Nat) (h : FrameHdr) (s : State) : (seeLooped k h s).tb = s.tb := by simp [seeLooped]

@[simp] theorem keepCopy_tb (k frame arrival : Nat) (looped : Bool) (slots : List (Grade × List Byte)) (s : State) :
    (keepCopy k frame arrival looped slots s).tb = s.tb := by
  simp [keepCopy]

@[simp] theorem goodFrame_tb (k arrival : Nat) (h : FrameHdr) (s : State) : (goodFrame k arrival h s).tb = s.tb := by simp [goodFrame]
@[simp] theorem ridMismatch_tb (k : Nat) (s : State) : (ridMismatch k s).tb = s.tb := by simp [ridMismatch]

@[simp] theorem lockedFrame_tb (k arrival : Nat) (h : FrameHdr) (cs : List Chr) (s : State) : (lockedFrame k arrival h cs s).tb = s.tb := by
  simp -implicitDefEqProofs [lockedFrame]

@[simp] theorem alignFrame_tb (k arrival : Nat) (h : FrameHdr) (s : State) : (alignFrame k arrival h s).tb = s.tb := by simp [alignFrame]

@[simp] theorem receiveFrame_tb (k arrival codeErr : Nat) (cs : List Chr) (s : State) :
    (receiveFrame k arrival codeErr cs s).tb = s.tb := by
  simp only [receiveFrame]
  repeat' split
  all_goals simp

@[simp] theorem askCell_tb (r c : Nat) (q : CellReq) (s : State) : (askCell r c q s).tb = s.tb := by simp [askCell]
@[simp] theorem sendFrames_tb (s : State) : (sendFrames s).tb = s.tb := by simp -implicitDefEqProofs [sendFrames]
@[simp] theorem foundHead_tb (r hop pos : Nat) (s : State) : (foundHead r hop pos s).tb = s.tb := by simp [foundHead]

@[simp] theorem resolveHop_tb (p : Plan) (r : Nat) (s : State) (e : Option (BitVec 64) × Nat) : (resolveHop p r s e).tb = s.tb := by
  unfold resolveHop
  repeat' split
  all_goals simp

@[simp] theorem resolveHeads_tb (r : Nat) (ids : List (Option (BitVec 64))) (s : State) : (resolveHeads r ids s).tb = s.tb := by
  unfold resolveHeads
  split <;> simp

@[simp] theorem enumRing_tb (r : Nat) (ids : List (Option (BitVec 64))) (s : State) : (enumRing r ids s).tb = s.tb := by simp [enumRing]
@[simp] theorem setDelays_tb (r : Nat) (s : State) (e : Nat × Int) : (setDelays r s e).tb = s.tb := by simp [setDelays]
@[simp] theorem sendWaits_tb (r at_ : Nat) (s : State) (pos : Nat) : (sendWaits r at_ s pos).tb = s.tb := by simp [sendWaits]
@[simp] theorem refreshWaits_tb (r : Nat) (s : State) : (refreshWaits r s).tb = s.tb := by simp [refreshWaits]

@[simp] theorem measureRing_tb (r : Nat) (deltas : List (Nat × Int)) (s : State) : (measureRing r deltas s).tb = s.tb := by
  unfold measureRing
  extract_lets rg half arr de dw lim s₁ s₂ s₃ long s₄ s₅ s₆
  have h₁ : s₁.tb = s.tb := by simp [s₁]
  have h₆ : s₆.tb = s.tb := by simp [s₆, s₅, s₄, s₃, s₂, h₁]
  clear_value s₆ rg
  split
  · simp [h₁]
  · repeat' split
    all_goals simp [h₆]

@[simp] theorem setMods_tb (r : Nat) (s : State) (e : Nat × Nat × Nat) : (setMods r s e).tb = s.tb := by simp [setMods]
@[simp] theorem waitsRing_tb (r : Nat) (mods : List (Nat × Nat × Nat)) (s : State) : (waitsRing r mods s).tb = s.tb := by simp [waitsRing]
@[simp] theorem broadcast_tb (r f : Nat) (s : State) : (broadcast r f s).tb = s.tb := by simp [broadcast]
@[simp] theorem runRing_tb (r f : Nat) (s : State) : (runRing r f s).tb = s.tb := by simp [runRing]
@[simp] theorem gradeNext_tb (r : Nat) (s : State) : (gradeNext r s).2.tb = s.tb := by simp -implicitDefEqProofs [gradeNext]
@[simp] theorem cellDone_tb (r c seq : Nat) (s : State) : (cellDone r c seq s).tb = s.tb := by simp [cellDone]
@[simp] theorem ringGo_tb (r : Nat) (s : State) : (ringGo r s).tb = s.tb := by simp [ringGo]
@[simp] theorem linkWrite_tb (k off : Nat) (v : Word) (s : State) : (linkWrite k off v s).tb = s.tb := by unfold linkWrite; split <;> simp
@[simp] theorem ringWrite_tb (r off : Nat) (v : Word) (s : State) : (ringWrite r off v s).tb = s.tb := by unfold ringWrite; split <;> simp
@[simp] theorem linkClear_tb (k off : Nat) (s : State) : (linkClear k off s).tb = s.tb := by unfold linkClear; split <;> simp
@[simp] theorem ringClear_tb (r off : Nat) (s : State) : (ringClear r off s).tb = s.tb := by unfold ringClear; split <;> simp

@[simp] theorem execPortSignalDetect_tb (k : Fin 64) (s : State) : tbAfter (execPortSignalDetect k s) = some s.tb := by
  simp [execPortSignalDetect]

@[simp] theorem execClockRecoveryLocked_tb (k : Fin 64) (s : State) : tbAfter (execClockRecoveryLocked k s) = some s.tb := by
  simp [execClockRecoveryLocked]

@[simp] theorem execPortSignalLost_tb (k : Fin 64) (s : State) : tbAfter (execPortSignalLost k s) = some s.tb := by
  simp [execPortSignalLost]

@[simp] theorem execFrameReceive_tb (k : Fin 64) (arrival codeErr : Nat) (chars : List Chr) (s : State) :
    tbAfter (execFrameReceive k arrival codeErr chars s) = some s.tb := by
  simp [execFrameReceive]

@[simp] theorem execCommaMissing_tb (k : Fin 64) (s : State) : tbAfter (execCommaMissing k s) = some s.tb := by simp [execCommaMissing]
@[simp] theorem execPortRetire_tb (k : Fin 64) (s : State) : tbAfter (execPortRetire k s) = some s.tb := by simp [execPortRetire]

@[simp] theorem execRingEnum_tb (r : Fin 32) (ids : List (Option (BitVec 64))) (s : State) :
    tbAfter (execRingEnum r ids s) = some s.tb := by
  simp [execRingEnum]

@[simp] theorem execRingEnumRetry_tb (r : Fin 32) (ids : List (Option (BitVec 64))) (s : State) :
    tbAfter (execRingEnumRetry r ids s) = some s.tb := by
  refine onLink_tb ?_ _
  split <;> simp

@[simp] theorem execRingMeasureCycle_tb (r : Fin 32) (deltas : List (Fin 128 × Int)) (s : State) :
    tbAfter (execRingMeasureCycle r deltas s) = some s.tb := by
  refine onLink_tb ?_ _
  split <;> simp

@[simp] theorem execRingRun_tb (r : Fin 32) (frame : Nat) (s : State) : tbAfter (execRingRun r frame s) = some s.tb := by simp [execRingRun]
@[simp] theorem unwrapRing_tb (r fu : Nat) (s : State) : (unwrapRing r fu s).tb = s.tb := by simp [unwrapRing]

@[simp] theorem execRingUnwrap_tb (r : Fin 32) (fu : Nat) (s : State) : tbAfter (execRingUnwrap r fu s) = some s.tb := by
  simp [execRingUnwrap]

@[simp] theorem execRingRestored_tb (r : Fin 32) (s : State) : tbAfter (execRingRestored r s) = some s.tb := by
  refine onLink_tb ?_ _
  dsimp only
  split <;> simp -implicitDefEqProofs

/-! ### Heads -/

@[simp] theorem pushChange_tb (h : Nat) (c : Change) (s : State) : (pushChange h c s).tb = s.tb := by simp [pushChange]
@[simp] theorem pushOff_tb (h : Nat) (c : Change) (s : State) : (pushOff h c s).tb = s.tb := by simp [pushOff]
@[simp] theorem pushPx_tb (h : Nat) (c : Change) (s : State) : (pushPx h c s).tb = s.tb := by simp [pushPx]
@[simp] theorem accEnd_tb (p result resp : Nat) (s : State) : (accEnd p result resp s).tb = s.tb := by simp [accEnd]

@[simp] theorem changeLost_tb (result resp : Nat) (c : Change) (s : State) : (changeLost result resp c s).tb = s.tb := by
  unfold changeLost
  split <;> simp

@[simp] theorem detFaults_tb (h causeP causeA : Nat) (s : State) : (detFaults h causeP causeA s).tb = s.tb := by
  simp only [detFaults]
  repeat' split
  all_goals simp

@[simp] theorem restoreEnd_tb (kind idx role host result : Nat) (s : State) : (restoreEnd kind idx role host result s).tb = s.tb := by
  simp [restoreEnd]

@[simp] theorem restoreDropped_tb (h : Nat) (s : State) : (restoreDropped h s).tb = s.tb := by unfold restoreDropped; split <;> simp
@[simp] theorem headAbsent_tb (h : Nat) (s : State) : (headAbsent h s).tb = s.tb := by simp [headAbsent]

@[simp] theorem admitHead_tb (h : Nat) (id : HeadIdent) (a0 : Nat) (ph : PlanHead) (trimP trimA : Word) (s : State) :
    (admitHead h id a0 ph trimP trimA s).tb = s.tb := by
  simp [admitHead]

@[simp] theorem healthReply_tb (h : Nat) (w : Word) (s : State) : (healthReply h w s).tb = s.tb := by simp [healthReply]

@[simp] theorem updChange_tb (h : Nat) (off : Bool) (t : Change → Bool) (f : Change → Option Change) (s : State) :
    (updChange h off t f s).tb = s.tb := by
  simp [updChange]

@[simp] theorem updNext_tb (h : Nat) (off : Bool) (f : Change → Change) (s : State) : (updNext h off f s).tb = s.tb := by simp [updNext]

@[simp] theorem updSent_tb (h : Nat) (off : Bool) (fl : CellFly) (f : Change → Option Change) (s : State) :
    (updSent h off fl f s).tb = s.tb := by
  simp [updSent]

@[simp] theorem changeAccepted_tb (h : Nat) (off : Bool) (f : CellFly) (s : State) : (changeAccepted h off f s).tb = s.tb := by
  unfold changeAccepted
  repeat' split
  all_goals simp

@[simp] theorem changeRefused_tb (h : Nat) (off : Bool) (f : CellFly) (result resp : Nat) (s : State) :
    (changeRefused h off f result resp s).tb = s.tb := by
  unfold changeRefused
  split <;> simp

@[simp] theorem cellExhausted_tb (r : Nat) (f : CellFly) (s : State) : (cellExhausted r f s).tb = s.tb := by
  unfold cellExhausted
  split <;> simp

@[simp] theorem accGo_tb (role p : Nat) (s : State) : (accGo role p s).tb = s.tb := by unfold accGo; split <;> simp
@[simp] theorem headClear_tb (h off : Nat) (s : State) : (headClear h off s).tb = s.tb := by unfold headClear; split <;> simp

@[simp] theorem accWrite_tb (role p off : Nat) (v : Word) (s : State) : (accWrite role p off v s).tb = s.tb := by
  unfold accWrite
  split <;> simp

@[simp] theorem execHealthPoll_tb (h : Fin 4096) (s : State) : tbAfter (execHealthPoll h s) = some s.tb := by simp [execHealthPoll]

/-! ### The staircase -/

@[simp] theorem startEngine_tb (e r : Nat) (cfg : StairCfg) (st : EngSt) (s : State) : (startEngine e r cfg st s).tb = s.tb := by
  simp [startEngine]

@[simp] theorem freeEngine_tb (e : Nat) (s : State) : (freeEngine e s).tb = s.tb := by simp [freeEngine]
@[simp] theorem retireEngine_tb (crit e : Nat) (s : State) : (retireEngine crit e s).tb = s.tb := by simp [retireEngine]
@[simp] theorem startHandover_tb (e : Nat) (s : State) : (startHandover e s).tb = s.tb := by unfold startHandover; split <;> simp
@[simp] theorem replaceTaker_tb (e r : Nat) (s : State) : (replaceTaker e r s).tb = s.tb := by unfold replaceTaker; split <;> simp

@[simp] theorem engineFault_tb (e : Nat) (s : State) : (engineFault e s).tb = s.tb := by
  simp only [engineFault]
  repeat' split
  all_goals simp

@[simp] theorem noteSat_tb (e r st : Nat) (s : State) : (noteSat e r st s).tb = s.tb := by simp [noteSat]

@[simp] theorem engineSample_tb (e r st : Nat) (q : Samp) (s : State) : (engineSample e r st q s).2.tb = s.tb := by
  unfold engineSample
  dsimp only
  split <;> simp -implicitDefEqProofs

@[simp] theorem watchOutput_tb (r st : Nat) (cfg : StairCfg) (o : StOut) (s : State) : (watchOutput r st cfg o s).tb = s.tb := by
  refine each_tb (fun s a => ?_) _ _
  dsimp only
  repeat' split
  all_goals simp

@[simp] theorem wpWrite_tb (w off : Nat) (v : Word) (s : State) : (wpWrite w off v s).tb = s.tb := by unfold wpWrite; split <;> simp
@[simp] theorem stcWrite_tb (e off : Nat) (v : Word) (s : State) : (stcWrite e off v s).tb = s.tb := by simp [stcWrite]
@[simp] theorem stcClear_tb (e off : Nat) (s : State) : (stcClear e off s).tb = s.tb := by simp [stcClear]
@[simp] theorem keepDelivered_tb (e t st : Nat) (s : State) : (keepDelivered e t st s).tb = s.tb := by simp [keepDelivered]
@[simp] theorem switchEngine_tb (r e t : Nat) (s : State) : (switchEngine r e t s).tb = s.tb := by simp -implicitDefEqProofs [switchEngine]

@[simp] theorem execHandoverSwitch_tb (r : Fin 32) (s : State) : tbAfter (execHandoverSwitch r s) = some s.tb := by
  refine onIsl_tb ?_ _
  split <;> simp

@[simp] theorem execStairSelftest_tb (e : Fin 33) (pass : Bool) (s : State) : tbAfter (execStairSelftest e pass s) = some s.tb := by
  simp [execStairSelftest]

/-! ### Groups and cycles -/

@[simp] theorem keepSample_tb (gi k slot tick : Nat) (pc : PlanCtx) (x : CSample) (s : State) :
    (keepSample gi k slot tick pc x s).tb = s.tb := by
  simp [keepSample]

@[simp] theorem formNext_tb (c slot : Nat) (s : State) : (formNext c slot s).tb = s.tb := by
  simp only [formNext]
  repeat' split
  all_goals simp

@[simp] theorem endCycle_tb (gi : Nat) (s : State) : (endCycle gi s).tb = s.tb := by
  unfold endCycle
  dsimp only
  split
  · split
    · rfl
    · simp
  · rfl

@[simp] theorem declareGroup_tb (gi : Nat) (p : Plan) (s : State) : (declareGroup gi p s).tb = s.tb := by
  unfold declareGroup
  split <;> simp

@[simp] theorem beginGroup_tb (gi start : Nat) (p : Plan) (s : State) : (beginGroup gi start p s).tb = s.tb := by
  unfold beginGroup
  split <;> simp

@[simp] theorem fgWrite_tb (gi off : Nat) (v : Word) (s : State) : (fgWrite gi off v s).tb = s.tb := by unfold fgWrite; split <;> simp
@[simp] theorem fgClear_tb (gi off : Nat) (s : State) : (fgClear gi off s).tb = s.tb := by unfold fgClear; split <;> simp
@[simp] theorem commitFreq_tb (gi k : Nat) (s : State) : (commitFreq gi k s).tb = s.tb := by simp [commitFreq]

@[simp] theorem execCycleSampleForm_tb (c : Fin 160) (slot : Fin 8) (s : State) : tbAfter (execCycleSampleForm c slot s) = some s.tb := by
  simp [execCycleSampleForm]

/-! ### The tally units -/

@[simp] theorem sendToken_tb (gi k tok : Nat) (s : State) : (sendToken gi k tok s).tb = s.tb := by simp [sendToken]

@[simp] theorem flatStep_tb (c : Nat) (s : State) : ((flatStep c s).getD s).tb = s.tb := by
  unfold flatStep
  split
  · rfl
  · extract_lets g
    split
    · rfl
    · split
      · rfl
      · extract_lets hold
        split
        · rfl
        · split
          · split <;> rfl
          · rfl

@[simp] theorem cycStep_tb (c : Nat) (s : State) : ((cycStep c s).getD s).tb = s.tb := by
  unfold cycStep
  split
  · rfl
  · extract_lets g cyc
    split
    · split
      · rfl
      · split
        · rfl
        · split <;> rfl
    · rfl

@[simp] theorem ctxLatchGo_tb (p c : Nat) (s : State) : (ctxLatchGo p c s).tb = s.tb := by simp [ctxLatchGo]
@[simp] theorem presetGo_tb (role p c : Nat) (s : State) : (presetGo role p c s).tb = s.tb := by unfold presetGo; split <;> simp

@[simp] theorem ctxWrite_tb (role p c off : Nat) (v : Word) (s : State) : (ctxWrite role p c off v s).tb = s.tb := by
  unfold ctxWrite
  split <;> simp

@[simp] theorem execTallyFlatSample_tb (c : Fin 160) (s : State) : tbAfter (execTallyFlatSample c s) = some s.tb := by
  simp [execTallyFlatSample]

@[simp] theorem execTallyCycle_tb (c : Fin 160) (s : State) : tbAfter (execTallyCycle c s) = some s.tb := by simp [execTallyCycle]

@[simp] theorem execTallyFlatCheckpoint_tb (u : Fin 9) (s : State) : tbAfter (execTallyFlatCheckpoint u s) = some s.tb := by
  simp -implicitDefEqProofs [execTallyFlatCheckpoint]

/-! ### Pulses -/

@[simp] theorem logRebases_tb (o : Nat) (taken : List OutChange) (s : State) : (logRebases o taken s).tb = s.tb := by simp [logRebases]

@[simp] theorem newUse_tb (o a k : Nat) (grp : Option Nat) (taken : List OutChange) (c : OutChange) (s : State) :
    (newUse o a k grp taken c s).tb = s.tb := by
  simp [newUse]

@[simp] theorem applyChanges_tb (gi k a : Nat) (s : State) : (applyChanges gi k a s).tb = s.tb := by
  refine each_tb (fun s a => ?_) _ _
  dsimp only
  repeat' split
  all_goals simp

@[simp] theorem creditOut_tb (o k a len quanta : Nat) (s : State) : (creditOut o k a len quanta s).tb = s.tb := by simp [creditOut]

@[simp] theorem creditCtxs_tb (gi k : Nat) (harm : Bool) (cs : List Nat) (s : State) : (creditCtxs gi k harm cs s).tb = s.tb := by
  refine each_tb (fun s a => ?_) _ _
  dsimp only
  repeat' split
  all_goals simp

@[simp] theorem resumeOuts_tb (gi k : Nat) (s : State) : (resumeOuts gi k s).tb = s.tb := by simp [resumeOuts]
@[simp] theorem execPulseUnit_tb (s : State) : tbAfter (execPulseUnit s) = some s.tb := by simp -implicitDefEqProofs [execPulseUnit]

@[simp] theorem execPulseEnd_tb (o : Fin 16) (s : State) : tbAfter (execPulseEnd o s) = some s.tb := by
  simp -implicitDefEqProofs [execPulseEnd]

@[simp] theorem setOut_tb (role host o : Nat) (rebase : Bool) (c : PlsCfg) (width : Nat) (s : State) :
    (setOut role host o rebase c width s).tb = s.tb := by
  unfold setOut
  dsimp only
  split <;> simp

@[simp] theorem setOutCfg_tb (role host o : Nat) (c : PlsCfg) (s : State) : (setOutCfg role host o c s).tb = s.tb := by simp [setOutCfg]

@[simp] theorem outWrite_tb (role host o off : Nat) (v : Word) (s : State) : (outWrite role host o off v s).tb = s.tb := by
  unfold outWrite
  dsimp only
  split <;> simp

@[simp] theorem outClear_tb (o off : Nat) (s : State) : (outClear o off s).tb = s.tb := by unfold outClear; split <;> simp
@[simp] theorem sampleInputs_tb (lv : BitVec 16) (s : State) : (sampleInputs lv s).tb = s.tb := by simp -implicitDefEqProofs [sampleInputs]

@[simp] theorem execPulseInEdge_tb (i : Fin 16) (s : State) : tbAfter (execPulseInEdge i s) = some s.tb := by
  simp -implicitDefEqProofs [execPulseInEdge]

@[simp] theorem commitInputs_tb (gi k close : Nat) (s : State) : (commitInputs gi k close s).tb = s.tb := by
  simp -implicitDefEqProofs [commitInputs]

@[simp] theorem applyPreset_tb (i : Nat) (s : State) : (applyPreset i s).tb = s.tb := by unfold applyPreset; dsimp only; split <;> simp

@[simp] theorem execLegacyPresetApply_tb (i : Fin 16) (s : State) : tbAfter (execLegacyPresetApply i s) = some s.tb := by
  simp [execLegacyPresetApply]

@[simp] theorem inWrite_tb (role host i off : Nat) (v : Word) (s : State) : (inWrite role host i off v s).tb = s.tb := by
  unfold inWrite
  split <;> simp

@[simp] theorem inClear_tb (i off : Nat) (s : State) : (inClear i off s).tb = s.tb := by unfold inClear; split <;> simp
@[simp] theorem loseTally_tb (k c : Nat) (s : State) : (loseTally k c s).tb = s.tb := by simp [loseTally]
@[simp] theorem blockDone_tb (gi k b : Nat) (s : State) : (blockDone gi k b s).tb = s.tb := by simp [blockDone]

@[simp] theorem execTallyWindowDone_tb (u : Fin 9) (g : Fin 16) (s : State) : tbAfter (execTallyWindowDone u g s) = some s.tb := by
  simp [execTallyWindowDone]

/-! ### Spectra -/

@[simp] theorem harmTake_tb (c slot : Nat) (s : State) : (harmTake c slot s).tb = s.tb := by
  simp only [harmTake]
  repeat' split
  all_goals simp

@[simp] theorem putRecord_tb (c k close : Nat) (o : HarmOut) (a : AggOut) (s : State) : (putRecord c k close o a s).tb = s.tb := by
  simp [putRecord]

@[simp] theorem harmCtx_tb (gi k : Nat) (lost : Bool) (x : PlanCtx) (s : State) : (harmCtx gi k lost x s).tb = s.tb := by simp [harmCtx]
@[simp] theorem harmBlockDone_tb (gi k b : Nat) (s : State) : (harmBlockDone gi k b s).tb = s.tb := by simp [harmBlockDone]

@[simp] theorem execHarmWindowDone_tb (e : Fin 5) (g : Fin 16) (s : State) : tbAfter (execHarmWindowDone e g s) = some s.tb := by
  simp [execHarmWindowDone]

@[simp] theorem execHarmCycleSample_tb (c : Fin 160) (slot : Fin 8) (s : State) : tbAfter (execHarmCycleSample c slot s) = some s.tb := by
  simp [execHarmCycleSample]

@[simp] theorem advanceRounds_tb (k : Nat) (s : State) : (advanceRounds k s).tb = s.tb := by simp [advanceRounds]
@[simp] theorem startRounds_tb (k0 : Nat) (s : State) : (startRounds k0 s).tb = s.tb := by simp [startRounds]
@[simp] theorem copyShPage_tb (src dst : Nat) (s : State) : (copyShPage src dst s).tb = s.tb := by simp [copyShPage]

@[simp] theorem restartRounds_tb (s : State) : (restartRounds s).tb = s.tb := by
  simp only [restartRounds]
  repeat' split
  all_goals simp

@[simp] theorem routeRaw_tb (j k : Nat) (q : Raw) (s : State) : (routeRaw j k q s).tb = s.tb := by
  unfold routeRaw
  dsimp only
  split <;> simp

@[simp] theorem flushRaw_tb (n : Nat) (s : State) : (flushRaw n s).tb = s.tb := by
  induction n generalizing s with
  | zero => rfl
  | succ n ih =>
    unfold flushRaw
    repeat' split
    all_goals simp [ih]

@[simp] theorem selectRaw_tb (r st : Nat) (q : Raw) (s : State) : (selectRaw r st q s).tb = s.tb := by simp [selectRaw]

@[simp] theorem execShRawSample_tb (lane : Fin 8) (s : State) : tbAfter (execShRawSample lane s) = some s.tb := by
  refine onIsl_tb ?_ _
  dsimp only
  repeat' split
  all_goals simp

@[simp] theorem putShRecord_tb (at_ : Nat) (bs : List Byte) (s : State) : (putShRecord at_ bs s).tb = s.tb := by simp [putShRecord]
@[simp] theorem openShPage_tb (k : Nat) (s : State) : (openShPage k s).tb = s.tb := by simp [openShPage]
@[simp] theorem putShPages_tb (k off : Nat) (bs : List Byte) (s : State) : (putShPages k off bs s).tb = s.tb := by simp [putShPages]

@[simp] theorem endVisit_tb (k l : Nat) (cut : Bool) (s : State) : (endVisit k l cut s).tb = s.tb := by
  unfold endVisit
  dsimp only
  split <;> simp

@[simp] theorem laneDone_tb (k l : Nat) (lost : Bool) (s : State) : (laneDone k l lost s).tb = s.tb := by
  unfold laneDone
  repeat' split
  all_goals simp

@[simp] theorem newRoster_tb (q : ShSwap) (s : State) : (newRoster q s).tb = s.tb := by simp [newRoster]
@[simp] theorem settleRoster_tb (s : State) : (settleRoster s).tb = s.tb := by unfold settleRoster; split <;> simp
@[simp] theorem execShWindowDone_tb (e : Fin 2) (s : State) : tbAfter (execShWindowDone e s) = some s.tb := by simp [execShWindowDone]
@[simp] theorem commitSh_tb (k : Nat) (s : State) : (commitSh k s).tb = s.tb := by simp [commitSh]
@[simp] theorem spWrite_tb (off : Nat) (v : Word) (s : State) : (spWrite off v s).tb = s.tb := by unfold spWrite; split <;> simp
@[simp] theorem spClear_tb (off : Nat) (s : State) : (spClear off s).tb = s.tb := by simp [spClear]

/-! ### The event unit -/

@[simp] theorem askZ_tb (gi c : Nat) (p : Plan) (s : State) : (askZ gi c p s).tb = s.tb := by simp -implicitDefEqProofs [askZ]

@[simp] theorem resolveZ_tb (x : PlanCtx) (s : State) : (resolveZ x s).tb = s.tb := by
  refine each_tb (fun s a => ?_) _ _
  split <;> simp

@[simp] theorem addWindow_tb (x : PlanCtx) (k upto : Nat) (s : State) : (addWindow x k upto s).tb = s.tb := by simp [addWindow]
@[simp] theorem putEvRec_tb (s : State) (r : EvRec) : (putEvRec s r).tb = s.tb := by simp [putEvRec]
@[simp] theorem writeRecs_tb (c k : Nat) (s : State) : (writeRecs c k s).tb = s.tb := by simp [writeRecs]
@[simp] theorem eventUnitDown_tb (crit : Nat) (s : State) : (eventUnitDown crit s).tb = s.tb := by simp -implicitDefEqProofs [eventUnitDown]

@[simp] theorem eventFaults_tb (n : Nat) (s : State) : (eventFaults n s).tb = s.tb := by
  induction n generalizing s with
  | zero => rfl
  | succ n ih =>
    unfold eventFaults
    rw [ih]
    split <;> simp

@[simp] theorem halfStep_tb (c : Nat) (s : State) : (halfStep c s).tb = s.tb := by
  unfold halfStep
  repeat' split
  all_goals simp

@[simp] theorem execEventHalfCycle_tb (c : Fin 160) (residue : Nat) (s : State) : tbAfter (execEventHalfCycle c residue s) = some s.tb := by
  simp [execEventHalfCycle]

@[simp] theorem finishCtx_tb (gi k : Nat) (x : PlanCtx) (s : State) : (finishCtx gi k x s).tb = s.tb := by simp [finishCtx]
@[simp] theorem finishEvents_tb (gi k : Nat) (p : Plan) (s : State) : (finishEvents gi k p s).tb = s.tb := by simp [finishEvents]

@[simp] theorem execEventWindowDone_tb (g : Fin 16) (s : State) : tbAfter (execEventWindowDone g s) = some s.tb := by
  refine onIsl_tb ?_ _
  dsimp only
  split <;> simp

@[simp] theorem commitEv_tb (c : Nat) (s : State) : (commitEv c s).tb = s.tb := by simp [commitEv]

@[simp] theorem evCtxWrite_tb (c off : Nat) (v : Word) (s : State) : (evCtxWrite c off v s).tb = s.tb := by
  unfold evCtxWrite
  repeat' split
  all_goals simp

@[simp] theorem evClear_tb (off : Nat) (s : State) : (evClear off s).tb = s.tb := by unfold evClear; split <;> simp

@[simp] theorem execCycleEnd_tb (g : Fin 16) (s : State) : tbAfter (execCycleEnd g s) = some s.tb := by
  refine onIsl_tb ?_ _
  split
  · dsimp only
    split <;> simp
  · rfl

/-! ### Calibration -/

@[simp] theorem leaveCell_tb (r l c frame : Nat) (w : List CellReq) (q : CellReq) (s : State) :
    (leaveCell r l c frame w q s).tb = s.tb := by
  simp [leaveCell]

@[simp] theorem placeFrom_tb (r l c frame : Nat) (kept waiting : List CellReq) (s : State) :
    (placeFrom r l c frame kept waiting s).tb = s.tb := by
  induction waiting generalizing kept s with
  | nil => rfl
  | cons q rest ih =>
    unfold placeFrom
    extract_lets go later
    have hgo : ∀ q s, (go q s).tb = s.tb := by simp [go]
    have hlater : (later s).tb = s.tb := by simp [later, ih]
    repeat' split
    all_goals simp [ih, hgo, hlater]

@[simp] theorem placeLane_tb (r l c : Nat) (s : State) : (placeLane r l c s).tb = s.tb := by simp [placeLane]
@[simp] theorem placeCell_tb (r c : Nat) (s : State) : (placeCell r c s).tb = s.tb := by simp [placeCell]

@[simp] theorem cellSilent_tb (r c : Nat) (s : State) : (cellSilent r c s).tb = s.tb := by
  unfold cellSilent
  repeat' split
  all_goals simp

@[simp] theorem execMailboxCellSend_tb (r : Fin 32) (cell : Fin 4) (s : State) : tbAfter (execMailboxCellSend r cell s) = some s.tb := by
  refine onLink_tb ?_ _
  split <;> simp

@[simp] theorem execCellNoReply_tb (r : Fin 32) (cell : Fin 4) (s : State) : tbAfter (execCellNoReply r cell s) = some s.tb := by
  simp [execCellNoReply]

@[simp] theorem setTrim_tb (h : Nat) (d : Bool) (w : Word) (src t : Nat) (s : State) : (setTrim h d w src t s).tb = s.tb := by
  simp [setTrim]

@[simp] theorem storeTrim_tb (h : Nat) (d : Bool) (w : Word) (src : Nat) (s : State) : (storeTrim h d w src s).tb = s.tb := by
  simp [storeTrim]

@[simp] theorem storeLocal_tb (set_ : Nat) (w : Word) (src : Nat) (s : State) : (storeLocal set_ w src s).tb = s.tb := by simp [storeLocal]

@[simp] theorem startLocalTrims_tb (s : State) : (startLocalTrims s).tb = s.tb := by
  unfold startLocalTrims
  rw [State.modCalIsl_tb]
  refine each_tb (fun s a => ?_) _ _
  split <;> simp -implicitDefEqProofs

@[simp] theorem admitTrims_tb (h : Nat) (serial : BitVec 64) (ph : PlanHead) (s : State) : (admitTrims h serial ph s).2.2.tb = s.tb := by
  unfold admitTrims
  repeat' split
  all_goals simp

@[simp] theorem withdraw_tb (h : Nat) (d : Bool) (s : State) : (withdraw h d s).tb = s.tb := by simp [withdraw]

@[simp] theorem endOuting_tb (i result : Nat) (s : State) : (endOuting i result s).tb = s.tb := by
  unfold endOuting
  split <;> simp -implicitDefEqProofs

@[simp] theorem endOutings_tb (kind result : Nat) (d : Bool) (idx : Nat) (s : State) : (endOutings kind result d idx s).tb = s.tb := by
  unfold endOutings
  split <;> simp

@[simp] theorem abortOutings_tb (s : State) : (abortOutings s).tb = s.tb := by simp [abortOutings]
@[simp] theorem calResult_tb (v : Nat) (s : State) : (calResult v s).tb = s.tb := by simp [calResult]

@[simp] theorem calAsk_tb (kind : Nat) (d : Bool) (idx : Nat) (s : State) : (calAsk kind d idx s).tb = s.tb := by
  unfold calAsk
  repeat' split
  all_goals simp

@[simp] theorem calImage_tb (op : Nat) (s : State) : (calImage op s).tb = s.tb := by simp [calImage]

@[simp] theorem calCancel_tb (isLocal d : Bool) (idx : Nat) (s : State) : (calCancel isLocal d idx s).tb = s.tb := by
  unfold calCancel
  split <;> simp

@[simp] theorem calGo_tb (s : State) : (calGo s).tb = s.tb := by unfold calGo; dsimp only; split <;> simp
@[simp] theorem startPass_tb (i : Nat) (s : State) : (startPass i s).tb = s.tb := by simp [startPass]
@[simp] theorem execOutingStart_tb (q : Fin 16) (s : State) : tbAfter (execOutingStart q s) = some s.tb := by simp [execOutingStart]
@[simp] theorem execOutingTimeout_tb (q : Fin 16) (s : State) : tbAfter (execOutingTimeout q s) = some s.tb := by simp [execOutingTimeout]
@[simp] theorem stimOn_tb (h : Nat) (d : Bool) (at_ : Nat) (s : State) : (stimOn h d at_ s).tb = s.tb := by unfold stimOn; split <;> simp
@[simp] theorem stimSeen_tb (h : Nat) (s : State) : (stimSeen h s).tb = s.tb := by simp [stimSeen]

@[simp] theorem calSample_tb (h : Nat) (d : Bool) (n : Nat) (clean : Bool) (step : Nat) (s : State) :
    (calSample h d n clean step s).tb = s.tb := by
  unfold calSample
  split <;> simp

@[simp] theorem proposeTrim_tb (old : Word) (a c : Int) (b d gn gd : Nat) (kn kd sc : Nat) (e : Nat) (s : State) :
    (proposeTrim old a c b d gn gd kn kd sc e s).2.tb = s.tb := by
  unfold proposeTrim
  dsimp only
  split <;> simp

@[simp] theorem endPass_tb (i : Nat) (cfg : StairCfg) (s : State) : (endPass i cfg s).tb = s.tb := by simp [endPass]

@[simp] theorem calOutput_tb (h : Nat) (d : Bool) (nlast : Nat) (val : Int) (cfg : StairCfg) (s : State) :
    (calOutput h d nlast val cfg s).tb = s.tb := by
  unfold calOutput
  split
  · rfl
  · extract_lets i q
    split
    · simp -implicitDefEqProofs
    · rfl

@[simp] theorem trimApplied_tb (h : Nat) (c : Change) (at_ : Nat) (old : Word) (s : State) : (trimApplied h c at_ old s).tb = s.tb := by
  unfold trimApplied
  dsimp only
  split <;> simp

@[simp] theorem calSupersede_tb (h reg : Nat) (s : State) : (calSupersede h reg s).tb = s.tb := by simp [calSupersede]
@[simp] theorem accWriteCal_tb (role p off : Nat) (v : Word) (s : State) : (accWriteCal role p off v s).tb = s.tb := by simp [accWriteCal]
@[simp] theorem queueLocal_tb (set_ : Nat) (w : Word) (src : Nat) (s : State) : (queueLocal set_ w src s).tb = s.tb := by simp [queueLocal]

@[simp] theorem endBurst_tb (zero ref : List Int) (void : Bool) (s : State) : (endBurst zero ref void s).tb = s.tb := by
  unfold endBurst
  split <;> simp

@[simp] theorem applyLocalTrims_tb (s : State) : (applyLocalTrims s).tb = s.tb := by
  refine each_tb (fun s a => ?_) _ _
  dsimp only
  repeat' split
  all_goals simp

@[simp] theorem restoreHead_tb (serial p a : Nat) (s : State) : (restoreHead serial p a s).tb = s.tb := by
  unfold restoreHead
  split <;> simp

@[simp] theorem restoreImage_tb (s : State) : (restoreImage s).tb = s.tb := by simp [restoreImage]
@[simp] theorem execCalImageDone_tb (s : State) : tbAfter (execCalImageDone s) = some s.tb := by simp [execCalImageDone]
@[simp] theorem calWrite_tb (off : Nat) (v : Word) (s : State) : (calWrite off v s).tb = s.tb := by unfold calWrite; split <;> simp

/-! ### The local converter -/

@[simp] theorem lcBoundary_tb (s : State) : (lcBoundary s).tb = s.tb := by simp [lcBoundary]
@[simp] theorem lcWrap_tb (s : State) : (lcWrap s).tb = s.tb := by simp [lcWrap]
@[simp] theorem lcIndex_tb (s : State) : (lcIndex s).2.tb = s.tb := by simp [lcIndex]

@[simp] theorem lcSample_tb (raw : Int) (inj : Bool) (entry rep : Nat) (ent : LcEnt) (burst : Option Bool) (trim : Word) (s : State) :
    (lcSample raw inj entry rep ent burst trim s).tb = s.tb := by
  simp [lcSample]

@[simp] theorem lcSeqSlot_tb (raw : Int) (s : State) : (lcSeqSlot raw s).tb = s.tb := by
  simp only [lcSeqSlot]
  repeat' split
  all_goals simp

@[simp] theorem lcInjSlot_tb (raw : Int) (i left : Nat) (s : State) : (lcInjSlot raw i left s).tb = s.tb := by simp [lcInjSlot]
@[simp] theorem lcBurstSlot_tb (raw : Int) (left : Nat) (s : State) : (lcBurstSlot raw left s).tb = s.tb := by simp [lcBurstSlot]
@[simp] theorem lcMeasuring_tb (s : State) : (lcMeasuring s).tb = s.tb := by simp [lcMeasuring]

@[simp] theorem lcSlotWork_tb (raw : Int) (s : State) : (lcSlotWork raw s).tb = s.tb := by
  unfold lcSlotWork
  split <;> simp -implicitDefEqProofs

@[simp] theorem lcHolder_tb (s : State) : (lcHolder s).tb = s.tb := by
  simp only [lcHolder]
  repeat' split
  all_goals simp

@[simp] theorem execLcSlot_tb (raw : Int) (s : State) : tbAfter (execLcSlot raw s) = some s.tb := by simp [execLcSlot]
@[simp] theorem execLcCalBurst_tb (s : State) : tbAfter (execLcCalBurst s) = some s.tb := by simp [execLcCalBurst]
@[simp] theorem lcPush_tb (w tag : Word) (idx : Nat) (s : State) : (lcPush w tag idx s).tb = s.tb := by simp [lcPush]
@[simp] theorem lcInjEnd_tb (i result : Nat) (s : State) : (lcInjEnd i result s).tb = s.tb := by simp [lcInjEnd]
@[simp] theorem lcDeliver_tb (c : LcConv) (s : State) : (lcDeliver c s).tb = s.tb := by unfold lcDeliver; dsimp only; split <;> simp

@[simp] theorem execLcResult_tb (s : State) : tbAfter (execLcResult s) = some s.tb := by
  refine onIsl_tb ?_ _
  split <;> simp

@[simp] theorem lcDown_tb (s : State) : (lcDown s).tb = s.tb := by simp [lcDown]
@[simp] theorem lcFail_tb (slice : Nat) (s : State) : (lcFail slice s).tb = s.tb := by simp [lcFail]

@[simp] theorem execLcRotate_tb (slice : Fin 9) (corr : Int × Int × Int) (s : State) : tbAfter (execLcRotate slice corr s) = some s.tb := by
  simp [execLcRotate]

@[simp] theorem execLcReady_tb (s : State) : tbAfter (execLcReady s) = some s.tb := by simp [execLcReady]
@[simp] theorem lcFifoTake_tb (s : State) : (lcFifoTake s).tb = s.tb := by simp [lcFifoTake]
@[simp] theorem lcInjWrite_tb (i : Nat) (v : Word) (s : State) : (lcInjWrite i v s).tb = s.tb := by simp [lcInjWrite]
@[simp] theorem lcCtrlWrite_tb (v : Word) (s : State) : (lcCtrlWrite v s).tb = s.tb := by simp [lcCtrlWrite]
@[simp] theorem lcFifoCfg_tb (v : Word) (s : State) : (lcFifoCfg v s).tb = s.tb := by simp [lcFifoCfg]
@[simp] theorem lcWrite_tb (off : Nat) (v : Word) (s : State) : (lcWrite off v s).tb = s.tb := by unfold lcWrite; split <;> simp
@[simp] theorem lcClear_tb (off : Nat) (s : State) : (lcClear off s).tb = s.tb := by unfold lcClear; split <;> simp

/-! ### Redundancy -/

@[simp] theorem evalNode_tb (p : Plan) (v : PlanNode) (gi k a b : Nat) (dis : List Nat) (s : State) :
    (evalNode p v gi k a b dis s).2.tb = s.tb := by
  simp only [evalNode]
  repeat' split
  all_goals simp

@[simp] theorem retireStream_tb (h : Nat) (d : Bool) (crit : Nat) (s : State) : (retireStream h d crit s).tb = s.tb := by
  simp [retireStream]

@[simp] theorem execStreamAbsentRetire_tb (h : Fin 4096) (d : Det) (s : State) : tbAfter (execStreamAbsentRetire h d s) = some s.tb := by
  simp [execStreamAbsentRetire]

@[simp] theorem settleHead_tb (gi k : Nat) (t : PairTest) (dec : Nat) (s : State) : (settleHead gi k t dec s).tb = s.tb := by
  simp [settleHead]

@[simp] theorem pruneOuts_tb (gi b : Nat) (p : Plan) (h : Nat) (s : State) : (pruneOuts gi b p h s).tb = s.tb := by simp [pruneOuts]

@[simp] theorem arbitrate_tb (gi k : Nat) (p : Plan) (s : State) : (arbitrate gi k p s).tb = s.tb := by
  simp -implicitDefEqProofs [arbitrate]

@[simp] theorem pairOutput_tb (h : Nat) (tau2 : Int) (p a : StOut) (s : State) : (pairOutput h tau2 p a s).tb = s.tb := by simp [pairOutput]
@[simp] theorem reloadCtx_tb (c : Nat) (s : State) : (reloadCtx c s).tb = s.tb := by unfold reloadCtx; split <;> simp
@[simp] theorem startReplay_tb (u t : Nat) (s : State) : (startReplay u t s).tb = s.tb := by simp [startReplay]
@[simp] theorem retireUnit_tb (u t : Nat) (s : State) : (retireUnit u t s).tb = s.tb := by unfold retireUnit; dsimp only; split <;> simp
@[simp] theorem execTallyFault_tb (u : Fin 9) (s : State) : tbAfter (execTallyFault u s) = some s.tb := by simp [execTallyFault]

@[simp] theorem repeatDo_tb {f : State → State} (hf : ∀ s, (f s).tb = s.tb) (n : Nat) (s : State) : (repeatDo f n s).tb = s.tb := by
  induction n generalizing s with
  | zero => rfl
  | succ n ih => simp [repeatDo, ih, hf]

@[simp] theorem flatsUpTo_tb (c n : Nat) (s : State) : (flatsUpTo c n s).tb = s.tb := by
  induction n generalizing s with
  | zero => rfl
  | succ n ih =>
    have h := flatStep_tb c s
    unfold flatsUpTo
    split
    · rfl
    · next t ht => rw [ih]; simpa [ht] using h

@[simp] theorem cyclesUpTo_tb (c n : Nat) (s : State) : (cyclesUpTo c n s).tb = s.tb := by
  induction n generalizing s with
  | zero => rfl
  | succ n ih =>
    have h := cycStep_tb c s
    unfold cyclesUpTo
    split
    · rfl
    · next t ht => rw [ih]; simpa [ht] using h

@[simp] theorem unitCurrent_tb (u t : Nat) (s : State) : (unitCurrent u t s).tb = s.tb := by simp [unitCurrent]

@[simp] theorem reloadBind_tb (c slot : Nat) (s : State) : (reloadBind c slot s).tb = s.tb := by
  unfold reloadBind
  dsimp only
  split <;> simp

@[simp] theorem startHarmReplay_tb (e t : Nat) (taking : Bool) (s : State) : (startHarmReplay e t taking s).tb = s.tb := by
  simp [startHarmReplay]

@[simp] theorem retireHarm_tb (e t : Nat) (s : State) : (retireHarm e t s).tb = s.tb := by unfold retireHarm; dsimp only; split <;> simp
@[simp] theorem noteSpFault_tb (e : Nat) (s : State) : (noteSpFault e s).2.tb = s.tb := by simp [noteSpFault]
@[simp] theorem execHarmFault_tb (e : Fin 5) (s : State) : tbAfter (execHarmFault e s) = some s.tb := by simp [execHarmFault]
@[simp] theorem execShFault_tb (e : Fin 2) (s : State) : tbAfter (execShFault e s) = some s.tb := by simp -implicitDefEqProofs [execShFault]
@[simp] theorem harmCurrent_tb (e t : Nat) (s : State) : (harmCurrent e t s).tb = s.tb := by simp [harmCurrent]

@[simp] theorem execReplayDone_tb (u : ReplayUnit) (s : State) : tbAfter (execReplayDone u s) = some s.tb := by
  unfold execReplayDone
  split
  · refine onIsl_tb ?_ _
    split <;> simp
  · refine onIsl_tb ?_ _
    split <;> simp

@[simp] theorem restorePlaced_tb (h : Nat) (s : State) : (restorePlaced h s).tb = s.tb := by unfold restorePlaced; split <;> simp
@[simp] theorem streamBack_tb (h : Nat) (d : Bool) (t : Nat) (s : State) : (streamBack h d t s).tb = s.tb := by simp [streamBack]

@[simp] theorem restoreGo_tb (role host : Nat) (s : State) : (restoreGo role host s).tb = s.tb := by
  simp only [restoreGo]
  repeat' split
  all_goals simp

@[simp] theorem joinUnit_tb (u : Nat) (s : State) : (joinUnit u s).tb = s.tb := by
  unfold joinUnit
  dsimp only
  split
  · simp
  · refine (each_tb (fun s a => ?_) _ _).trans (by simp)
    split <;> simp

@[simp] theorem joinHarm_tb (e : Nat) (s : State) : (joinHarm e s).tb = s.tb := by
  unfold joinHarm
  dsimp only
  split
  · simp
  · refine (each_tb (fun s a => ?_) _ _).trans (by simp)
    split
    · rfl
    · split <;> simp -implicitDefEqProofs

@[simp] theorem execRestoreSelftestDone_tb (pass : Bool) (s : State) : tbAfter (execRestoreSelftestDone pass s) = some s.tb := by
  refine onStew_tb ?_
  repeat' split
  all_goals simp

@[simp] theorem execStewardRestart_tb (s : State) : tbAfter (execStewardRestart s) = some s.tb := by simp [execStewardRestart]

@[simp] theorem execStewardRestartComplete_tb (s : State) : tbAfter (execStewardRestartComplete s) = some s.tb := by
  simp -implicitDefEqProofs [execStewardRestartComplete]

@[simp] theorem redWrite_tb (role host a : Nat) (v : Word) (s : State) : (redWrite role host a v s).tb = s.tb := by simp [redWrite]
@[simp] theorem redClear_tb (a : Nat) (s : State) : (redClear a s).tb = s.tb := by simp [redClear]

/-! ### The hall plan -/

@[simp] theorem history_tb (ev result slot : Nat) (by_ : Nat × Nat) (id : Word) (version : Nat) (e : PlanErr) (s : State) :
    (history ev result slot by_ id version e s).tb = s.tb := by
  simp [history]

@[simp] theorem histSelect_tb (seq : Nat) (s : State) : (histSelect seq s).tb = s.tb := by simp [histSelect]
@[simp] theorem setPlanSt_tb (st : PlanSt) (s : State) : (setPlanSt st s).tb = s.tb := by simp [setPlanSt]
@[simp] theorem planResult_tb (code : Nat) (s : State) : (planResult code s).tb = s.tb := by simp [planResult]
@[simp] theorem errField_tb (e : PlanErr) (s : State) : (errField e s).2.tb = s.tb := by unfold errField; split <;> simp
@[simp] theorem planFailed_tb (e : PlanErr) (s : State) : (planFailed e s).tb = s.tb := by simp [planFailed]
@[simp] theorem setInput_tb (p : Plan) (i : Nat) (s : State) : (setInput p i s).tb = s.tb := by unfold setInput; split <;> simp
@[simp] theorem startRing_tb (r : PlanRing) (s : State) : (startRing r s).tb = s.tb := by simp [startRing]
@[simp] theorem serveRing_tb (r : PlanRing) (s : State) : (serveRing r s).tb = s.tb := by unfold serveRing; split <;> simp
@[simp] theorem serveRings_tb (rs : List PlanRing) (s : State) : (serveRings rs s).tb = s.tb := by simp [serveRings]
@[simp] theorem listHead_tb (h : PlanHead) (s : State) : (listHead h s).tb = s.tb := by simp [listHead]
@[simp] theorem putLedger_tb (x : PlanCtx) (y : Ctx) (tsw : Nat) (s : State) : (putLedger x y tsw s).tb = s.tb := by simp [putLedger]
@[simp] theorem logCarried_tb (old new key : Nat) (s : State) : (logCarried old new key s).tb = s.tb := by simp [logCarried]
@[simp] theorem unsavedOf_tb (c : Nat) (s : State) : (unsavedOf c s).tb = s.tb := by unfold unsavedOf; split <;> simp

@[simp] theorem startContexts_tb (p : Plan) (s : State) : (startContexts p s).tb = s.tb := by
  unfold startContexts
  extract_lets saved same s₁
  have h₁ : s₁.tb = s.tb := by
    refine each_tb (fun s x => ?_) _ _
    dsimp only
    split <;> simp
  simp -implicitDefEqProofs [h₁]

@[simp] theorem startOutputs_tb (p : Plan) (s : State) : (startOutputs p s).tb = s.tb := by
  refine each_tb (fun s a => ?_) _ _
  repeat' split
  all_goals simp

@[simp] theorem setBudgets_tb (p : Plan) (s : State) : (setBudgets p s).tb = s.tb := by simp [setBudgets]
@[simp] theorem bringInForce_tb (p : Plan) (s : State) : (bringInForce p s).tb = s.tb := by simp [bringInForce]
@[simp] theorem tryLoad_tb (k : Nat) (s : State) : (tryLoad k s).2.tb = s.tb := by unfold tryLoad; dsimp only; split <;> simp
@[simp] theorem loaded_tb (k : Nat) (p : Plan) (fallback : Bool) (s : State) : (loaded k p fallback s).tb = s.tb := by simp [loaded]
@[simp] theorem noteLoad_tb (s : State) : (noteLoad s).tb = s.tb := by simp [noteLoad]

@[simp] theorem execPlanLoad_tb (s : State) : tbAfter (execPlanLoad s) = some s.tb := by
  refine onStew_tb ?_
  split
  · rfl
  · extract_lets k
    have h₁ := tryLoad_tb k s
    split
    · next p t ht => simpa [ht] using h₁
    · next t ht =>
      rw [ht] at h₁
      have h₂ := (tryLoad_tb (1 - k) t).trans h₁
      split
      · next p u hu => simpa [hu] using h₂
      · next u hu => simpa [hu] using h₂

@[simp] theorem logCommand_tb (role host cmd before code : Nat) (s : State) : (logCommand role host cmd before code s).tb = s.tb := by
  simp [logCommand]

@[simp] theorem swapReplaced_tb (role host : Nat) (s : State) : (swapReplaced role host s).tb = s.tb := by simp [swapReplaced]

@[simp] theorem stageCmd_tb (role host : Nat) (s : State) : (stageCmd role host s).2.tb = s.tb := by
  unfold stageCmd
  repeat' split
  all_goals simp

@[simp] theorem stageFailed_tb (b : Img) (e : PlanErr) (s : State) : (stageFailed b e s).tb = s.tb := by simp [stageFailed]
@[simp] theorem programSlot_tb (bs : List Byte) (s : State) : (programSlot bs s).tb = s.tb := by simp [programSlot]
@[simp] theorem flashFailed_tb (b : Img) (s : State) : (flashFailed b s).tb = s.tb := by simp [flashFailed]
@[simp] theorem dirtyStage_tb (b : Img) (s : State) : (dirtyStage b s).tb = s.tb := by simp [dirtyStage]
@[simp] theorem breakStage_tb (s : State) : (breakStage s).tb = s.tb := by simp [breakStage]

@[simp] theorem execPlanStageDone_tb (flashOk : Bool) (s : State) : tbAfter (execPlanStageDone flashOk s) = some s.tb := by
  refine onStew_tb ?_
  dsimp only
  repeat' split
  all_goals simp -implicitDefEqProofs

@[simp] theorem enumInService_tb (r : Nat) (s : State) : (enumInService r s).tb = s.tb := by simp [enumInService]
@[simp] theorem joinListed_tb (served : Bool) (h : PlanHead) (s : State) : (joinListed served h s).tb = s.tb := by simp [joinListed]
@[simp] theorem enterPreparing_tb (s : State) : (enterPreparing s).tb = s.tb := by unfold enterPreparing; split <;> simp

@[simp] theorem releaseRing_tb (r : Nat) (s : State) : (releaseRing r s).tb = s.tb := by
  simp only [releaseRing]
  repeat' split
  all_goals simp

@[simp] theorem undoPreparing_tb (s : State) : (undoPreparing s).tb = s.tb := by unfold undoPreparing; split <;> simp
@[simp] theorem loadBanks_tb (s : State) : (loadBanks s).tb = s.tb := by unfold loadBanks; split <;> simp

@[simp] theorem execPlanPrepare_tb (s : State) : tbAfter (execPlanPrepare s) = some s.tb := by
  refine onStew_tb ?_
  repeat' split
  all_goals simp

@[simp] theorem cutHead_tb (h : Nat) (s : State) : (cutHead h s).tb = s.tb := by unfold cutHead; split <;> simp

@[simp] theorem execPrepareTimeout_tb (s : State) : tbAfter (execPrepareTimeout s) = some s.tb := by
  refine onStew_tb ?_
  dsimp only
  repeat' split
  all_goals simp

@[simp] theorem swapCmd_tb (role host : Nat) (s : State) : (swapCmd role host s).2.tb = s.tb := by
  unfold swapCmd
  repeat' split
  all_goals simp

@[simp] theorem cancelCmd_tb (role host : Nat) (s : State) : (cancelCmd role host s).2.tb = s.tb := by unfold cancelCmd; split <;> simp

@[simp] theorem planDo_tb {f : State → Nat × State} {s : State} (hf : (f s).2.tb = s.tb) (cmd role host : Nat) :
    (planDo cmd f role host s).tb = s.tb := by
  simp [planDo, hf]

@[simp] theorem planCmd_tb (role host : Nat) (v : Word) (s : State) : (planCmd role host v s).tb = s.tb := by simp [planCmd]
@[simp] theorem abortPlan_tb (s : State) : (abortPlan s).tb = s.tb := by unfold abortPlan; split <;> simp
@[simp] theorem fixSwitch_tb (gi t : Nat) (s : State) : (fixSwitch gi t s).tb = s.tb := by simp [fixSwitch]

@[simp] theorem startMoves_tb (gi : Nat) (n : Plan) (s : State) : (startMoves gi n s).tb = s.tb := by
  unfold startMoves
  extract_lets s₁
  have h : s₁.tb = s.tb := by
    refine each_tb (fun s r => ?_) _ _
    split <;> simp
  simp [h]

@[simp] theorem startAllMoves_tb (n : Plan) (gs : List Nat) (s : State) : (startAllMoves n gs s).tb = s.tb := by
  induction gs generalizing s with
  | nil => rfl
  | cons g gs ih => simp [startAllMoves, ih]

@[simp] theorem armSwap_tb (o n : Plan) (s : State) : (armSwap o n s).tb = s.tb := by simp [armSwap]
@[simp] theorem freeMove_tb (r : Nat) (cfg : StairCfg) (s : State) : (freeMove r cfg s).tb = s.tb := by unfold freeMove; split <;> simp

@[simp] theorem startFreeMoves_tb (s : State) : (startFreeMoves s).tb = s.tb := by
  unfold startFreeMoves
  split
  · rfl
  · refine each_tb (fun s r => ?_) _ _
    split <;> simp

@[simp] theorem execSwapArm_tb (s : State) : tbAfter (execSwapArm s) = some s.tb := by
  refine onStew_tb ?_
  split <;> simp

@[simp] theorem switchGroup_tb (gi k w : Nat) (o n : Plan) (s : State) : (switchGroup gi k w o n s).tb = s.tb := by
  unfold switchGroup
  split <;> simp

@[simp] theorem addBindings_tb (first : Nat) (o n : Plan) (gi : Nat) (s : State) : (addBindings first o n gi s).tb = s.tb := by
  simp [addBindings]

@[simp] theorem swapOutput_tb (o w k : Nat) (old new : Plan) (s : State) : (swapOutput o w k old new s).tb = s.tb := by simp [swapOutput]
@[simp] theorem swapRoster_tb (k w : Nat) (n : Plan) (s : State) : (swapRoster k w n s).tb = s.tb := by simp [swapRoster]

@[simp] theorem moveFrom_tb (gi w : Nat) (s : State) : (moveFrom gi w s).tb = s.tb := by
  refine each_tb (fun s a => ?_) _ _
  split <;> simp

@[simp] theorem headOutings_tb (h : Nat) (s : State) : (headOutings h s).tb = s.tb := by simp [headOutings]
@[simp] theorem switchOld_tb (gi k w : Nat) (o n : Plan) (s : State) : (switchOld gi k w o n s).tb = s.tb := by simp [switchOld]

@[simp] theorem switchNew_tb (gi w : Nat) (o n : Plan) (s : State) : (switchNew gi w o n s).tb = s.tb := by
  simp -implicitDefEqProofs [switchNew]

@[simp] theorem execSwapSwitch_tb (g : Fin 16) (s : State) : tbAfter (execSwapSwitch g s) = some s.tb := by
  refine onStew_tb ?_
  repeat' split
  all_goals simp

@[simp] theorem placeCtx_tb (x : PlanCtx) (k w first : Nat) (src : Option (Nat × Ctx × EvCtx)) (here : Ctx) (hereEv : EvCtx) (s : State) :
    (placeCtx x k w first src here hereEv s).tb = s.tb := by
  simp -implicitDefEqProofs [placeCtx]

@[simp] theorem moveHamper_tb (oldC newC first : Nat) (s0 s : State) : (moveHamper oldC newC first s0 s).tb = s.tb := by
  simp -implicitDefEqProofs [moveHamper]

@[simp] theorem dropCtx_tb (x : PlanCtx) (w : Nat) (s : State) : (dropCtx x w s).tb = s.tb := by unfold dropCtx; dsimp only; split <;> simp
@[simp] theorem ownNumber_tb (c : Nat) (s : State) : (ownNumber c s).tb = s.tb := by simp [ownNumber]

@[simp] theorem moveContexts_tb (gi k : Nat) (s : State) : (moveContexts gi k s).tb = s.tb := by
  unfold moveContexts
  split
  · split
    · rfl
    · extract_lets olds news first carries s₁ s₀ s₂ s₃ s₄ s₅
      have h₁ : s₁.tb = s.tb := by simp [s₁]
      have h₂ : s₂.tb = s.tb := by
        refine (each_tb (fun s x => ?_) _ _).trans h₁
        split <;> simp -implicitDefEqProofs
      have h₅ : s₅.tb = s.tb := by simp -implicitDefEqProofs [s₅, s₄, s₃, h₂]
      clear_value s₅
      split <;> simp [h₅]
  · rfl

@[simp] theorem stopRing_tb (r : Nat) (s : State) : (stopRing r s).tb = s.tb := by simp [stopRing]
@[simp] theorem dropHead_tb (h : Nat) (s : State) : (dropHead h s).tb = s.tb := by simp [dropHead]
@[simp] theorem headSettings_tb (h : PlanHead) (s : State) : (headSettings h s).tb = s.tb := by simp [headSettings]
@[simp] theorem completeSwap_tb (o n : Plan) (s : State) : (completeSwap o n s).tb = s.tb := by simp -implicitDefEqProofs [completeSwap]

@[simp] theorem execSwapComplete_tb (s : State) : tbAfter (execSwapComplete s) = some s.tb := by
  refine onStew_tb ?_
  split <;> simp

@[simp] theorem execGroupStart_tb (g : Fin 16) (s : State) : tbAfter (execGroupStart g s) = some s.tb := by
  refine onIsl_tb ?_ _
  split <;> simp -implicitDefEqProofs

@[simp] theorem planWrite_tb (role host off : Nat) (v : Word) (s : State) : (planWrite role host off v s).tb = s.tb := by
  unfold planWrite
  split <;> simp -implicitDefEqProofs

/-! ### Replies and fences -/

@[simp] theorem putReply_tb (p seq op : Nat) (a : Answer) (taken : Nat) (data : List Word) (s : State) :
    (putReply p seq op a taken data s).tb = s.tb := by
  simp [putReply]

@[simp] theorem replyFence_tb (p : Nat) (f : Fence) (a : Answer) (s : State) : (replyFence p f a s).tb = s.tb := by simp [replyFence]
@[simp] theorem answerFence_tb (p : Nat) (f : Fence) (a : Answer) (s : State) : (answerFence p f a s).tb = s.tb := by simp [answerFence]
@[simp] theorem commitFences_tb (gi a : Nat) (ends : Bool) (s : State) : (commitFences gi a ends s).tb = s.tb := by simp [commitFences]
@[simp] theorem wordDone_tb (p : Nat) (s : State) : (wordDone p s).tb = s.tb := by simp [wordDone]

/-! ### Commits -/

@[simp] theorem logGap_tb (c : Nat) (g : Option (Nat × Nat × Nat)) (s : State) : (logGap c g s).tb = s.tb := by
  unfold logGap
  split <;> simp

@[simp] theorem logCarriedIn_tb (gi c fresh : Nat) (s : State) : (logCarriedIn gi c fresh s).tb = s.tb := by
  unfold logCarriedIn
  split <;> simp

@[simp] theorem commitCtx_tb (gi k a b serving : Nat) (lost : Bool) (p : Plan) (x : PlanCtx) (s : State) :
    (commitCtx gi k a b serving lost p x s).tb = s.tb := by
  unfold commitCtx
  dsimp only
  split <;> simp

@[simp] theorem commitParts_tb (c : Nat) (s : State) : (commitParts c s).tb = s.tb := by simp [commitParts]
@[simp] theorem commitRecords_tb (gi k : Nat) (s : State) : (commitRecords gi k s).tb = s.tb := by simp [commitRecords]
@[simp] theorem irqCommit_tb (gi : Nat) (s : State) : (irqCommit gi s).tb = s.tb := by simp [irqCommit]
@[simp] theorem noteFirst_tb (gi : Nat) (s : State) : (noteFirst gi s).tb = s.tb := by simp [noteFirst]
@[simp] theorem commitWindow_tb (gi k : Nat) (p : Plan) (s : State) : (commitWindow gi k p s).tb = s.tb := by simp [commitWindow]

@[simp] theorem execCommit_tb (g : Fin 16) (s : State) : tbAfter (execCommit g s) = some s.tb := by
  refine onIsl_tb ?_ _
  dsimp only
  split <;> simp

@[simp] theorem execCommitDeadline_tb (g : Fin 16) (s : State) : tbAfter (execCommitDeadline g s) = some s.tb := by
  refine onIsl_tb ?_ _
  dsimp only
  split <;> simp

/-! ### The flow of samples -/

@[simp] theorem changeIndex_tb (h : Nat) (d : Bool) (a : Nat) (s : State) : (changeIndex h d a s).tb = s.tb := by simp [changeIndex]

@[simp] theorem noteChange_tb (h : Nat) (c : Change) (old : Nat) (s : State) : (noteChange h c old s).tb = s.tb := by
  unfold noteChange
  split <;> simp

@[simp] theorem applySampling_tb (h : Nat) (c : Change) (s : State) : (applySampling h c s).tb = s.tb := by simp [applySampling]
@[simp] theorem applyDue_tb (h n : Nat) (s : State) : (applyDue h n s).2.tb = s.tb := by simp [applyDue]
@[simp] theorem noteOk_tb (h n : Nat) (okP okA : Bool) (s : State) : (noteOk h n okP okA s).tb = s.tb := by simp [noteOk]

@[simp] theorem noteClip_tb (h n : Nat) (any both : Bool) (s : State) : (noteClip h n any both s).tb = s.tb := by
  simp -implicitDefEqProofs [noteClip]

@[simp] theorem voidSlot_tb (h n : Nat) (g : Grade) (s : State) : (voidSlot h n g s).tb = s.tb := by simp [voidSlot]
@[simp] theorem gainsFrom_tb (h n : Nat) (s : State) : (gainsFrom h n s).tb = s.tb := by unfold gainsFrom; dsimp only; split <;> simp
@[simp] theorem stimExpire_tb (h n : Nat) (s : State) : (stimExpire h n s).tb = s.tb := by simp [stimExpire]

@[simp] theorem takeSlot_tb (r n pos : Nat) (g : Grade) (bs : List Byte) (s : State) : (takeSlot r n pos g bs s).2.tb = s.tb := by
  unfold takeSlot
  dsimp only
  split <;> simp

@[simp] theorem noteFull_tb (r : Nat) (s : State) : (noteFull r s).tb = s.tb := by simp -implicitDefEqProofs [noteFull]
@[simp] theorem captureRaw_tb (r : Nat) (e : StairIn) (s : State) : (captureRaw r e s).tb = s.tb := by simp [captureRaw]

@[simp] theorem deliverSlot_tb (r n : Nat) (s : State) (e : (Grade × List Byte) × Nat) : (deliverSlot r n s e).tb = s.tb := by
  simp [deliverSlot]

@[simp] theorem logWrap_tb (r n : Nat) (s : State) : (logWrap r n s).tb = s.tb := by simp [logWrap]
@[simp] theorem overrun_tb (r : Nat) (s : State) : (overrun r s).tb = s.tb := by unfold overrun; dsimp only; split <;> simp
@[simp] theorem deliverIdx_tb (r : Nat) (e : HeldIdx) (s : State) : (deliverIdx r e s).tb = s.tb := by simp [deliverIdx]
@[simp] theorem gradeOne_tb (r : Nat) (s : State) : (gradeOne r s).tb = s.tb := by simp [gradeOne]
@[simp] theorem slotRelease_tb (r : Nat) (s : State) : (slotRelease r s).tb = s.tb := by unfold slotRelease; dsimp only; split <;> simp
@[simp] theorem execSlotRelease_tb (r : Fin 32) (s : State) : tbAfter (execSlotRelease r s) = some s.tb := by simp [execSlotRelease]
@[simp] theorem holdTimeout_tb (r : Nat) (s : State) : (holdTimeout r s).tb = s.tb := by unfold holdTimeout; dsimp only; split <;> simp
@[simp] theorem execHoldTimeout_tb (r : Fin 32) (s : State) : tbAfter (execHoldTimeout r s) = some s.tb := by simp [execHoldTimeout]

@[simp] theorem outputSeen_tb (r pos e : Nat) (d : Bool) (o : StOut) (s : State) : (outputSeen r pos e d o s).tb = s.tb := by
  simp only [outputSeen]
  repeat' split
  all_goals simp

@[simp] theorem flatSeen_tb (r pos e : Nat) (d : Bool) (o : StOut) (s : State) : (flatSeen r pos e d o s).tb = s.tb := by
  unfold flatSeen
  dsimp only
  split <;> simp

@[simp] theorem keepBefore_tb (old t st : Nat) (s : State) : (keepBefore old t st s).tb = s.tb := by simp [keepBefore]

@[simp] theorem endMove_tb (r e : Nat) (o : StOut) (s : State) : (endMove r e o s).tb = s.tb := by
  unfold endMove
  repeat' split
  all_goals simp -implicitDefEqProofs

@[simp] theorem runEngine_tb (r pos e : Nat) (d : Bool) (q : Samp) (s : State) : (runEngine r pos e d q s).tb = s.tb := by
  simp only [runEngine]
  repeat' split
  all_goals simp

@[simp] theorem noteResidue_tb (e residue corrected : Nat) (s : State) : (noteResidue e residue corrected s).tb = s.tb := by
  simp [noteResidue]

@[simp] theorem takerRuns_tb (r pos : Nat) (d : Bool) (q : Samp) (upT : Nat × Nat) (s : State) : (takerRuns r pos d q upT s).tb = s.tb := by
  unfold takerRuns
  split <;> simp

@[simp] theorem stairFree_tb (r : Nat) (s : State) : (stairFree r s).tb = s.tb := by simp [stairFree]

@[simp] theorem stairTake_tb (r : Nat) (up upT : Nat × Nat) (x : StairIn) (rest : List StairIn) (s : State) :
    (stairTake r up upT x rest s).tb = s.tb := by
  unfold stairTake
  extract_lets d s₁ s₂ h q s₃ s₄ s₅
  have h₄ : s₄.tb = s.tb := by simp [s₄, s₃, s₂, s₁]
  have h₅ : s₅.tb = s.tb := by
    simp only [s₅]
    split <;> simp [h₄]
  clear_value s₅ q
  split <;> simp [h₅]

@[simp] theorem stairProcess_tb (r : Nat) (up upT : Nat × Nat) (s : State) : (stairProcess r up upT s).tb = s.tb := by
  unfold stairProcess
  repeat' split
  all_goals simp

@[simp] theorem execStairProcess_tb (r : Fin 32) (up upT : Nat × Nat) (s : State) : tbAfter (execStairProcess r up upT s) = some s.tb := by
  simp [execStairProcess]

@[simp] theorem accData_tb (p : Nat) (ws : List Word) (s : State) : (accData p ws s).tb = s.tb := by simp [accData]

@[simp] theorem storeAccepted_tb (h : Nat) (c : Option Change) (s : State) : (storeAccepted h c s).tb = s.tb := by
  unfold storeAccepted
  split <;> simp

@[simp] theorem answered_tb (r : Nat) (f : CellFly) (chars : List Byte) (s : State) : (answered r f chars s).tb = s.tb := by
  unfold answered
  split <;> simp

@[simp] theorem execCellReply_tb (r : Fin 32) (cell : Fin 4) (chars : List Byte) (s : State) :
    tbAfter (execCellReply r cell chars s) = some s.tb := by
  refine onLink_tb ?_ _
  dsimp only
  split <;> simp

@[simp] theorem wrongHead_tb (h : Nat) (listed found : BitVec 64) (s : State) : (wrongHead h listed found s).tb = s.tb := by
  simp [wrongHead]

@[simp] theorem hopOf_tb (h : Nat) (serial : BitVec 64) (s : State) : (hopOf h serial s).2.tb = s.tb := by unfold hopOf; split <;> simp

@[simp] theorem admissionCells_tb (h a0 : Nat) (ph : PlanHead) (w : Word × Word) (s : State) : (admissionCells h a0 ph w s).tb = s.tb := by
  simp [admissionCells]

@[simp] theorem bringHead_tb (h : Nat) (id : HeadIdent) (a0 : Nat) (ph : PlanHead) (s : State) : (bringHead h id a0 ph s).tb = s.tb := by
  simp -implicitDefEqProofs [bringHead]

@[simp] theorem sendSettings_tb (r : Nat) (s : State) : (sendSettings r s).tb = s.tb := by
  refine each_tb (fun s a => ?_) _ _
  split <;> simp

@[simp] theorem execRingWaits_tb (r : Fin 32) (s : State) (mods : List (Fin 128 × BitVec 17 × BitVec 17)) :
    tbAfter (execRingWaits r s mods) = some s.tb := by
  simp [execRingWaits]

@[simp] theorem headAdmit_tb (h : Nat) (id : HeadIdent) (a0 : Nat) (s : State) : (headAdmit h id a0 s).tb = s.tb := by
  unfold headAdmit
  split <;> simp

@[simp] theorem execHeadAdmit_tb (h : Fin 4096) (ident : HeadIdent) (a0 : Nat) (s : State) :
    tbAfter (execHeadAdmit h ident a0 s) = some s.tb := by
  simp [execHeadAdmit]

@[simp] theorem resumeOuting_tb (h a0 : Nat) (was : Bool → Word) (s : State) (d : Bool) : (resumeOuting h a0 was s d).tb = s.tb := by
  simp only [resumeOuting]
  repeat' split
  all_goals simp

@[simp] theorem headRejoin_tb (h : Nat) (id : HeadIdent) (a0 : Nat) (s : State) : (headRejoin h id a0 s).tb = s.tb := by
  unfold headRejoin
  split <;> simp

@[simp] theorem execHeadRejoin_tb (h : Fin 4096) (ident : HeadIdent) (a0 : Nat) (s : State) :
    tbAfter (execHeadRejoin h ident a0 s) = some s.tb := by
  simp [execHeadRejoin]

@[simp] theorem placeWaiting_tb (h n : Nat) (s : State) : (placeWaiting h n s).tb = s.tb := by
  induction n generalizing s with
  | zero => rfl
  | succ n ih =>
    unfold placeWaiting
    extract_lets x
    split
    · split <;> simp [ih]
    · rfl

@[simp] theorem execChangeQueuePlace_tb (h : Fin 4096) (s : State) : tbAfter (execChangeQueuePlace h s) = some s.tb := by
  simp [execChangeQueuePlace]

/-! ### The trouble log -/

@[simp] theorem logOverwritten_tb (old : Nat) (s : State) : (logOverwritten old s).tb = s.tb := by simp [logOverwritten]
@[simp] theorem putSlot_tb (seq : Nat) (body : List Byte) (s : State) : (putSlot seq body s).tb = s.tb := by simp [putSlot]

@[simp] theorem writePart_tb (e : LogEnt) (part : Bool × Bool × List Byte) (s : State) : (writePart e part s).tb = s.tb := by
  simp [writePart]

@[simp] theorem logIrq_tb (sev : Nat) (s : State) : (logIrq sev s).tb = s.tb := by simp [logIrq]
@[simp] theorem writeRecord_tb (e : LogEnt) (s : State) : (writeRecord e s).tb = s.tb := by simp [writeRecord]
@[simp] theorem closeSpan_tb (code : Nat) (s : State) : (closeSpan code s).tb = s.tb := by unfold closeSpan; split <;> simp
@[simp] theorem closeSpans_tb (w : Nat) (s : State) : (closeSpans w s).tb = s.tb := by simp [closeSpans]
@[simp] theorem takeRecord_tb (e : LogEnt) (s : State) : (takeRecord e s).tb = s.tb := by simp [takeRecord]

@[simp] theorem execLogEntryWrite_tb (isl : Fin 12) (s : State) : tbAfter (execLogEntryWrite isl s) = some s.tb := by
  unfold execLogEntryWrite
  repeat' split
  all_goals simp

@[simp] theorem execLogDropped_tb (isl : Fin 12) (s : State) : tbAfter (execLogDropped isl s) = some s.tb := by simp [execLogDropped]

@[simp] theorem execLogSuppressed_tb (code : BitVec 16) (s : State) : tbAfter (execLogSuppressed code s) = some s.tb := by
  unfold execLogSuppressed
  repeat' split
  all_goals simp

@[simp] theorem batteryRecord_tb (e : LogEnt) (s : State) : (batteryRecord e s).tb = s.tb := by simp -implicitDefEqProofs [batteryRecord]
@[simp] theorem logStart_tb (saved : Nat) (s : State) : (logStart saved s).tb = s.tb := by simp [logStart]
@[simp] theorem logClear_tb (p off : Nat) (s : State) : (logClear p off s).tb = s.tb := by unfold logClear; split <;> simp
@[simp] theorem logWrite_tb (p off : Nat) (v : Word) (s : State) : (logWrite p off v s).tb = s.tb := by unfold logWrite; split <;> simp

/-! ### Counted seconds -/

@[simp] theorem spTick_tb (b : Nat) (moved : Bool) (s : State) (gi : Nat) : (spTick b moved s gi).tb = s.tb := by simp [spTick]
@[simp] theorem rtcBoundary_tb (s : State) : (rtcBoundary s).tb = s.tb := by simp [rtcBoundary]

/-! ### Roles and keys -/

@[simp] theorem sessionReset_tb (s : State) : (sessionReset s).tb = s.tb := by simp -implicitDefEqProofs [sessionReset]
@[simp] theorem voidChals_tb (role : Nat) (s : State) : (voidChals role s).tb = s.tb := by simp -implicitDefEqProofs [voidChals]
@[simp] theorem sealUp_tb (s : State) : (sealUp s).tb = s.tb := by simp [sealUp]
@[simp] theorem roleReq_tb (p role : Nat) (bytes : BitVec 256) (s : State) : (roleReq p role bytes s).tb = s.tb := by simp [roleReq]
@[simp] theorem authFail_tb (p role : Nat) (s : State) : (authFail p role s).tb = s.tb := by simp [authFail]
@[simp] theorem roleSubmit_tb (p : Nat) (s : State) : (roleSubmit p s).tb = s.tb := by simp [roleSubmit]

@[simp] theorem execRoleReq_tb (host : Fin 4) (role : BitVec 2) (chal : BitVec 256) (s : State) :
    tbAfter (execRoleReq host role chal s) = some s.tb := by
  simp [execRoleReq]

@[simp] theorem execRoleSubmit_tb (host : Fin 4) (s : State) : tbAfter (execRoleSubmit host s) = some s.tb := by simp [execRoleSubmit]
@[simp] theorem execRoleClose_tb (host : Fin 4) (s : State) : tbAfter (execRoleClose host s) = some s.tb := by simp [execRoleClose]

@[simp] theorem execSessionIdleTimeout_tb (host : Fin 4) (s : State) : tbAfter (execSessionIdleTimeout host s) = some s.tb := by
  simp -implicitDefEqProofs [execSessionIdleTimeout]

@[simp] theorem keyGo_tb (role p target : Nat) (s : State) : (keyGo role p target s).2.tb = s.tb := by
  simp only [keyGo]
  repeat' split
  all_goals simp

@[simp] theorem askSave_tb (s : State) : (askSave s).tb = s.tb := by simp [askSave]
@[simp] theorem putKey_tb (target : Nat) (k : BitVec 256) (s : State) : (putKey target k s).tb = s.tb := by simp [putKey]

@[simp] theorem execKeySetDone_tb (host : Fin 4) (s : State) : tbAfter (execKeySetDone host s) = some s.tb := by
  refine onIsl_tb ?_ _
  split <;> simp

@[simp] theorem otpGo_tb (role p op slot : Nat) (s : State) : (otpGo role p op slot s).2.tb = s.tb := by
  simp only [otpGo]
  repeat' split
  all_goals simp

@[simp] theorem execOtpKeyDone_tb (ok : Bool) (s : State) : tbAfter (execOtpKeyDone ok s) = some s.tb := by
  refine onIsl_tb ?_ _
  split <;> simp

@[simp] theorem sealClear_tb (role p : Nat) (s : State) : (sealClear role p s).2.tb = s.tb := by unfold sealClear; split <;> simp

@[simp] theorem freeBytes_tb (n : Nat) (s : State) : (freeBytes n s).2.tb = s.tb := by
  induction n generalizing s with
  | zero => rfl
  | succ n ih => simp [freeBytes, ih]

@[simp] theorem roleOpenWrite_tb (p : Nat) (v : Word) (s : State) : (roleOpenWrite p v s).tb = s.tb := by simp [roleOpenWrite]

@[simp] theorem roleWrite_tb (role p off : Nat) (v : Word) (s : State) : (roleWrite role p off v s).2.tb = s.tb := by
  unfold roleWrite
  repeat' split
  all_goals simp

/-! ### Tamper monitors -/

@[simp] theorem applyCfgs_tb (s : State) : (applyCfgs s).tb = s.tb := by simp -implicitDefEqProofs [applyCfgs]

@[simp] theorem senseMon_tb (m : Nat) (obs : TamperObs) (s : State) : (senseMon m obs s).2.tb = s.tb := by
  simp only [senseMon]
  repeat' split
  all_goals simp

@[simp] theorem tamperRecord_tb (c : LogCode) (sev inst : Nat) (vals : List (Nat × Nat)) (s : State) :
    (tamperRecord c sev inst vals s).tb = s.tb := by
  simp [tamperRecord]

@[simp] theorem alarmRecord_tb (m : Nat) (s : State) : (alarmRecord m s).tb = s.tb := by simp [alarmRecord]
@[simp] theorem otpStep_tb (bad : Nat) (s : State) : (otpStep bad s).tb = s.tb := by simp [otpStep]
@[simp] theorem otpPend_tb (s : State) : (otpPend s).tb = s.tb := by simp [otpPend]
@[simp] theorem respond_tb (r : Nat) (s : State) : (respond r s).tb = s.tb := by unfold respond; split <;> simp
@[simp] theorem respondOnCell_tb (r : Nat) (s : State) : (respondOnCell r s).tb = s.tb := by simp [respondOnCell]
@[simp] theorem resolve_tb (ms : List Nat) (bad : Nat) (s : State) : (resolve ms bad s).tb = s.tb := by simp [resolve]
@[simp] theorem testSample_tb (cond : Bool) (s : State) : (testSample cond s).tb = s.tb := by unfold testSample; split <;> simp
@[simp] theorem sampleMon_tb (m : Nat) (obs : TamperObs) (s : State) : (sampleMon m obs s).2.tb = s.tb := by simp [sampleMon]

@[simp] theorem sampleAll_tb (obs : TamperObs) (ms : List Nat) (s : State) : (sampleAll obs ms s).2.tb = s.tb := by
  induction ms generalizing s with
  | nil => rfl
  | cons m ms ih => simp [sampleAll, ih]

@[simp] theorem cellSecond_tb (s : State) : (cellSecond s).tb = s.tb := by simp [cellSecond]

@[simp] theorem execTamperSample_tb (obs : TamperObs) (s : State) : tbAfter (execTamperSample obs s) = some s.tb := by
  simp [execTamperSample]

@[simp] theorem shadowRestore_tb (f : ShadowField) (s : State) : (shadowRestore f s).tb = s.tb := by unfold shadowRestore; split <;> simp
@[simp] theorem shadowFound_tb (d1 : Bool) (f : ShadowField) (s : State) : (shadowFound d1 f s).tb = s.tb := by simp [shadowFound]

@[simp] theorem execShadowMismatch_tb (f : ShadowField) (s : State) : tbAfter (execShadowMismatch f s) = some s.tb := by
  simp [execShadowMismatch]

@[simp] theorem execShadowSweep_tb (bad : List ShadowField) (s : State) : tbAfter (execShadowSweep bad s) = some s.tb := by
  simp [execShadowSweep]

@[simp] theorem testGo_tb (m : Nat) (s : State) : (testGo m s).tb = s.tb := by simp [testGo]
@[simp] theorem tmpClear_tb (off : Nat) (s : State) : (tmpClear off s).tb = s.tb := by simp [tmpClear]

@[simp] theorem tmpWrite_tb (off : Nat) (v : Word) (s : State) : (tmpWrite off v s).tb = s.tb := by
  unfold tmpWrite
  repeat' split
  all_goals simp -implicitDefEqProofs

/-! ### Power -/

@[simp] theorem noteSaved_tb (r : SaveRec) (copies : Nat) (s : State) : (noteSaved r copies s).tb = s.tb := by simp [noteSaved]
@[simp] theorem saveFailed_tb (copy : Nat) (s : State) : (saveFailed copy s).tb = s.tb := by simp [saveFailed]
@[simp] theorem spendTail_tb (s : State) : (spendTail s).tb = s.tb := by simp [spendTail]
@[simp] theorem periodicSave_tb (ok1 ok2 : Bool) (s : State) : (periodicSave ok1 ok2 s).tb = s.tb := by simp [periodicSave]

@[simp] theorem execPeriodicSave_tb (ok1 ok2 : Bool) (s : State) : tbAfter (execPeriodicSave ok1 ok2 s) = some s.tb := by
  simp [execPeriodicSave]

@[simp] theorem countArrived_tb (s : State) : (countArrived s).tb = s.tb := by simp [countArrived]
@[simp] theorem shedRings_tb (s : State) : (shedRings s).tb = s.tb := by simp [shedRings]
@[simp] theorem shedGalleries_tb (s : State) : (shedGalleries s).tb = s.tb := by simp [shedGalleries]
@[simp] theorem tearSave_tb (s : State) : (tearSave s).tb = s.tb := by simp [tearSave]
@[simp] theorem warn_tb (src : Nat) (s : State) : (warn src s).tb = s.tb := by simp -implicitDefEqProofs [warn]
@[simp] theorem giveUpStart_tb (src : Nat) (s : State) : (giveUpStart src s).tb = s.tb := by simp [giveUpStart]

@[simp] theorem execPowerWarning_tb (src : BitVec 3) (s : State) (saving : Bool) : tbAfter (execPowerWarning src s saving) = some s.tb := by
  simp [execPowerWarning]

@[simp] theorem execSpectralShed_tb (s : State) : tbAfter (execSpectralShed s) = some s.tb := by simp [execSpectralShed]

@[simp] theorem writeBoth_tb {fin : State → State} (hfin : ∀ s, (fin s).tb = s.tb) (okA okB : Bool) (r : SaveRec) (s : State) :
    (writeBoth okA okB r fin s).tb = s.tb := by
  simp [writeBoth, hfin]

@[simp] theorem freeze_tb (okA okB : Bool) (s : State) : (freeze okA okB s).tb = s.tb := by simp -implicitDefEqProofs [freeze]

@[simp] theorem execTotalsFreeze_tb (okA okB : Bool) (s : State) : tbAfter (execTotalsFreeze okA okB s) = some s.tb := by
  simp [execTotalsFreeze]

@[simp] theorem dropRecord_tb (s : State) : (dropRecord s).tb = s.tb := by simp [dropRecord]
@[simp] theorem execSaveDeadline_tb (s : State) : tbAfter (execSaveDeadline s) = some s.tb := by simp [execSaveDeadline]
@[simp] theorem copyTail_tb (s : State) : (copyTail s).tb = s.tb := by simp [copyTail]
@[simp] theorem execTailCopy_tb (s : State) : tbAfter (execTailCopy s) = some s.tb := by simp [execTailCopy]
@[simp] theorem drainLog_tb (s : State) : (drainLog s).tb = s.tb := by simp [drainLog]

@[simp] theorem execCloakSupplySwitch_tb (vio33 : Bool) (s : State) : tbAfter (execCloakSupplySwitch vio33 s) = some s.tb := by
  simp [execCloakSupplySwitch]

@[simp] theorem pwrClear_tb (off : Nat) (s : State) : (pwrClear off s).tb = s.tb := by unfold pwrClear; split <;> simp
@[simp] theorem pwrWrite_tb (off : Nat) (v : Word) (s : State) : (pwrWrite off v s).tb = s.tb := by unfold pwrWrite; split <;> simp

/-! ### Starts, resets and islands -/

@[simp] theorem loseTail_tb (s : State) : (loseTail s).tb = s.tb := by simp [loseTail]
@[simp] theorem loseMirror_tb (s : State) : (loseMirror s).tb = s.tb := by simp [loseMirror]
@[simp] theorem loseCloakroom_tb (s : State) : (loseCloakroom s).tb = s.tb := by simp [loseCloakroom]
@[simp] theorem commitPending_tb (bad : Nat) (s : State) : (commitPending bad s).tb = s.tb := by simp [commitPending]

@[simp] theorem execPowerGood_tb (bak : Backup) (badCells : Nat) (s : State) : tbAfter (execPowerGood bak badCells s) = some s.tb := by
  simp [execPowerGood]

@[simp] theorem disagreeEntry_tb (copy seq : Nat) (s : State) : (disagreeEntry copy seq s).tb = s.tb := by simp [disagreeEntry]
@[simp] theorem chooseRecord_tb (s : State) : (chooseRecord s).tb = s.tb := by unfold chooseRecord; split <;> simp
@[simp] theorem retireSaved_tb (s : State) (e : Nat × Nat) : (retireSaved s e).tb = s.tb := by unfold retireSaved; split <;> simp

@[simp] theorem restoreSettings_tb (cloakLost : Bool) (s : State) : (restoreSettings cloakLost s).tb = s.tb := by
  unfold restoreSettings
  split <;> simp

@[simp] theorem legacyUnsaved_tb (r : SaveRec) (from_ upTo : Nat) (s : State) : (legacyUnsaved r from_ upTo s).tb = s.tb := by
  simp [legacyUnsaved]

@[simp] theorem applyKept_tb (s : State) : (applyKept s).tb = s.tb := by simp -implicitDefEqProofs [applyKept]

@[simp] theorem settleLoss_tb (s : State) : (settleLoss s).tb = s.tb := by
  simp only [settleLoss]
  repeat' split
  all_goals simp

@[simp] theorem beginStart_tb (s : State) : (beginStart s).tb = s.tb := by simp [beginStart]
@[simp] theorem startRest_tb (s : State) : (startRest s).tb = s.tb := by simp [startRest]
@[simp] theorem resetOn_tb (s : State) : (resetOn s).tb = s.tb := by unfold resetOn; dsimp only; split <;> simp
@[simp] theorem releaseIsland_tb (i : Island) (s : State) : (releaseIsland i s).tb = s.tb := by unfold releaseIsland; split <;> simp

@[simp] theorem execIslandResetRelease_tb (i : Island) (s : State) : tbAfter (execIslandResetRelease i s) = some s.tb := by
  simp [execIslandResetRelease]

@[simp] theorem loseStair_tb (s : State) : (loseStair s).tb = s.tb := by simp [loseStair]
@[simp] theorem loseTallies_tb (s : State) : (loseTallies s).tb = s.tb := by simp [loseTallies]
@[simp] theorem loseSpectral_tb (s : State) : (loseSpectral s).tb = s.tb := by simp [loseSpectral]
@[simp] theorem loseContents_tb (i : Island) (s : State) : (loseContents i s).tb = s.tb := by unfold loseContents; split <;> simp
@[simp] theorem loseClock_tb (i : Island) (s : State) : (loseClock i s).tb = s.tb := by unfold loseClock; split <;> simp

@[simp] theorem execIslandClockLost_tb (i : Island) (s : State) : tbAfter (execIslandClockLost i s) = some s.tb := by
  simp [execIslandClockLost]

@[simp] theorem execCloakroomTrim_tb (trim : Int) (s : State) : tbAfter (execCloakroomTrim trim s) = some s.tb := by
  simp [execCloakroomTrim]

/-! ### Registers -/

@[simp] theorem glbWrite_tb (off : Nat) (v : Word) (s : State) : (glbWrite off v s).tb = s.tb := by unfold glbWrite; split <;> simp
@[simp] theorem glbClear_tb (off : Nat) (s : State) : (glbClear off s).tb = s.tb := by unfold glbClear; split <;> simp
@[simp] theorem hpClear_tb (p off : Nat) (s : State) : (hpClear p off s).tb = s.tb := by unfold hpClear; split <;> simp
@[simp] theorem capGo_tb (p : Nat) (s : State) : (capGo p s).tb = s.tb := by simp [capGo]
@[simp] theorem capCtrlWrite_tb (p : Nat) (v : Word) (s : State) : (capCtrlWrite p v s).tb = s.tb := by simp [capCtrlWrite]

@[simp] theorem hpWrite_tb (role p off : Nat) (v : Word) (s : State) : (hpWrite role p off v s).tb = s.tb := by
  unfold hpWrite
  split <;> simp

@[simp] theorem takeLatch_tb (p a : Nat) (pl : Place) (s : State) : (takeLatch p a pl s).tb = s.tb := by simp [takeLatch]

/-! ### Requests -/

@[simp] theorem discardWord_tb (w : Posted) (s : State) : (discardWord w s).tb = s.tb := by unfold discardWord; split <;> simp
@[simp] theorem postWord_tb (p : Nat) (s : State) (e : Nat × Word) : (postWord p s e).tb = s.tb := by simp [postWord]
@[simp] theorem answerFenceReq_tb (p seq : Nat) (s : State) : (answerFenceReq p seq s).tb = s.tb := by simp [answerFenceReq]

@[simp] theorem answerFenceCommit_tb (p seq a : Nat) (s : State) : (answerFenceCommit p seq a s).tb = s.tb := by
  simp only [answerFenceCommit]
  repeat' split
  all_goals simp

@[simp] theorem execFenceAnswer_tb (host : Fin 4) (s : State) : tbAfter (execFenceAnswer host s) = some s.tb := by
  refine onIsl_tb ?_ _
  split <;> simp

@[simp] theorem duplicate_tb (p seq : Nat) (s : State) : (duplicate p seq s).tb = s.tb := by simp [duplicate]

@[simp] theorem execCollect_tb (host : Fin 4) (clocked : Nat) (s : State) : tbAfter (execCollect host clocked s) = some s.tb := by
  simp [execCollect]

@[simp] theorem execBadTxn_tb (host : Fin 4) (code : Byte) (s : State) : tbAfter (execBadTxn host code s) = some s.tb := by
  simp [execBadTxn]

@[simp] theorem earnCredit_tb (s : State) : (earnCredit s).tb = s.tb := by simp [earnCredit]

/-! ## Commands that reach the timebase -/

/-- What a command leaves, if it answers a state, keeps the ratio within its limits. -/
def WithinAfter (o : Out) : Prop := ∀ t ∈ tbAfter o, t.Within

theorem withinAfter_next {s : State} (h : s.tb.Within) : WithinAfter (.next s) := by simpa [WithinAfter] using h

/-- A command that leaves the timebase as it was. -/
theorem withinAfter_of_tb {s : State} {o : Out} (h : s.tb.Within) (ho : tbAfter o = some s.tb) : WithinAfter o := by
  simpa [WithinAfter, ho] using h

theorem withinAfter_next_ite {s t : State} (c : Prop) [Decidable c] (h : s.tb.Within) (ht : t.tb.Within) :
    WithinAfter (.next (if c then t else s)) := withinAfter_next (by split <;> assumption)

theorem onIsl_within {s : State} {f : State → State} (h : s.tb.Within) (hf : (f s).tb.Within) (i : Nat) : WithinAfter (onIsl i s f) :=
  withinAfter_next_ite _ h hf

/-! ### The tick, the counted second and the edges of PPS (R40, R48 to R52) -/

theorem execTick_within {s : State} (h : s.tb.Within) (plsIn : BitVec 16) : WithinAfter (execTick plsIn s) :=
  withinAfter_next_ite _ h (by simpa -implicitDefEqProofs using ncoTick_within h)

/-- R52, R54, R55: a counted boundary moves the second and TAI. -/
theorem taiBoundary_within {s : State} (h : s.tb.Within) (b : Nat) : (taiBoundary b s).tb.Within := by
  simp only [taiBoundary]
  split
  · rw [(raiseAt_same _ _ _ _ _).2.1]
    exact h.congr rfl rfl
  · exact h.congr rfl rfl

theorem countBoundary_within {s : State} (h : s.tb.Within) (b : Nat) : (countBoundary b s).tb.Within := by
  have hb := taiBoundary_within h b
  simpa -implicitDefEqProofs [countBoundary] using hb

theorem execSecondBoundary_within {s : State} (h : s.tb.Within) : WithinAfter (execSecondBoundary s) :=
  withinAfter_next_ite _ h (countBoundary_within h _)

theorem moveBoundary_within {s : State} (h : s.tb.Within) (old : Nat) (at16 : Int) : (moveBoundary old at16 s).tb.Within := by
  unfold moveBoundary
  extract_lets new s₁
  have h₁ : s₁.tb.Within := by
    unfold s₁
    split
    · exact countBoundary_within h new
    · exact h.congr rfl rfl
  split
  · exact h
  · rw [(raise_same _ _ _ _).2.1]
    exact h₁.congr rfl rfl

theorem acceptEdge_within {s : State} (h : s.tb.Within) (at16 : Nat) (e : Int) : (acceptEdge at16 e s).tb.Within := by
  refine edgeState_within ?_ e
  refine Tb.Within.congr (setRatio_within (t := { s.tb with err := e, lastEdge := some at16, takeNext := false }) ?_ _ _) rfl rfl
  exact h.congr rfl rfl

theorem takeEdge_within {s : State} (h : s.tb.Within) (at16 : Nat) : (takeEdge at16 s).tb.Within :=
  acceptEdge_within (moveBoundary_within h _ _) _ _

theorem outlierEdge_within {s : State} (h : s.tb.Within) (at16 : Nat) (e : Int) : (outlierEdge at16 e s).tb.Within := by
  unfold outlierEdge
  extract_lets s₁
  have h₁ : s₁.tb.Within := h.congr rfl rfl
  split
  · exact takeEdge_within (setDisc_within h₁ .acquire) at16
  · exact h₁

theorem checkEdge_within {s : State} (h : s.tb.Within) (at16 : Nat) : (checkEdge at16 s).tb.Within := by
  unfold checkEdge
  extract_lets e ok
  split
  · exact acceptEdge_within h _ _
  · exact outlierEdge_within h _ _

theorem ppsEdge_within {s : State} (h : s.tb.Within) (at16 : Nat) : (ppsEdge at16 s).tb.Within := by
  have hacq : (takeEdge at16 (s.modTbIsl (setDisc .acquire))).tb.Within := takeEdge_within (setDisc_within h .acquire) at16
  unfold ppsEdge
  split
  · exact h
  · split
    · split
      · exact hacq
      · exact h
    · exact hacq
    all_goals
      split
      · exact takeEdge_within h at16
      · exact checkEdge_within h at16

theorem execPpsEdge_within {s : State} (h : s.tb.Within) (at16 : Nat) : WithinAfter (execPpsEdge at16 s) :=
  withinAfter_next_ite _ h (ppsEdge_within h at16)

theorem execPpsTimeout_within {s : State} (h : s.tb.Within) : WithinAfter (execPpsTimeout s) :=
  withinAfter_next_ite _ h ((setDisc_within h .holdover).congr rfl rfl)

/-! ### The stop, the start and the reset of the main domain (R439, R456, R459) -/

/-- R41: a timebase that has been reset stands at the nominal ratio. -/
theorem stopMain_within (s : State) : (stopMain s).tb.Within := within_default _

theorem execMainStop_within {s : State} (h : s.tb.Within) : WithinAfter (execMainStop s) :=
  withinAfter_next_ite _ h (stopMain_within _)

theorem execVholdShutdown_within {s : State} (h : s.tb.Within) (torn : Fin 3) : WithinAfter (execVholdShutdown s torn) :=
  withinAfter_next_ite _ h (stopMain_within _)

theorem nextEpoch_within {s : State} (h : s.tb.Within) : (nextEpoch s).tb.Within := by
  unfold nextEpoch
  extract_lets of_ l e s₁
  have h₁ : s₁.tb.Within := h.congr rfl rfl
  simpa using h₁

theorem powerOn_within (s : State) : (powerOn s).tb.Within := by
  unfold powerOn
  extract_lets lost cloak w s₁ s₂ s₃ s₄ s₅ s₆ s₇ s₈ s₉
  have h₄ : s₄.tb.Within := by simpa [s₄] using nextEpoch_within (within_default _)
  have h₈ : s₈.tb.Within := by simpa [s₈, s₇, s₆, s₅] using h₄
  have h₉ : s₉.tb.Within := by
    unfold s₉
    split
    · split
      · simpa using h₈
      · exact h₈
    · exact h₈
  simpa using h₉

/-- R459: the restart after a FULL_RESET leaves the timebase running. -/
theorem execMainRelease_within {s : State} (h : s.tb.Within) : WithinAfter (execMainRelease s) := by
  refine withinAfter_next ?_
  split
  · exact h
  · split
    · simpa using h
    · split
      · exact powerOn_within s
      · exact h

/-- R459: the timebase runs on through a FULL_RESET. -/
@[simp] theorem resetMain_tb (at_ : Nat) (s : State) : (resetMain at_ s).tb = s.tb := by
  unfold resetMain
  exact each_tb (by simp) _ _

@[simp] theorem execFullReset_tb (okA okB : Bool) (s : State) : tbAfter (execFullReset s okA okB) = some s.tb := by
  unfold execFullReset
  split <;> simp

/-! ### Registers and the accesses of a host -/

/-- R7: of what a read clears, the timebase counts are the only ones there. -/
theorem regClear_within {s : State} (h : s.tb.Within) (p : Nat) (pl : Place) : (regClear p pl s).tb.Within := by
  cases pl with
  | tb off => exact tbClear_within h off
  | _ => simpa [regClear] using h

/-- R66: of the registers a host writes, those of the timebase are the only ones that reach it. -/
theorem regWrite_within {s : State} (h : s.tb.Within) (role p : Nat) (pl : Place) (v : Word) : (regWrite role p pl v s).2.tb.Within := by
  cases pl with
  | tb off => exact tbWrite_within h role p off v
  | pulseOut o off => simp only [regWrite]; split <;> simpa using h
  | _ => simpa [regWrite] using h

theorem readReg_within {s : State} (h : s.tb.Within) (p a : Nat) (pl : Place) : (readReg p a pl s).2.tb.Within := by
  unfold readReg
  extract_lets live
  split
  · exact h
  · split
    · exact h
    · exact regClear_within h p _
    · exact regClear_within (by simpa using h) p _

theorem readWord_within {s : State} (h : s.tb.Within) (p a : Nat) : (readWord p a s).2.tb.Within := by
  unfold readWord
  split
  · extract_lets w f
    split <;> simpa [f] using h
  · exact readReg_within h p a _

theorem writeWord_within {s : State} (h : s.tb.Within) (role p a : Nat) (v : Word) : (writeWord role p a v s).tb.Within := by
  unfold writeWord
  split
  · simpa using h
  · simpa using regWrite_within h role p _ v

theorem hostWrite_within {s : State} (h : s.tb.Within) (p a : Nat) (v : Word) : (hostWrite p a v s).tb.Within := by
  unfold hostWrite
  split
  · exact writeWord_within h _ p a v
  · exact h

theorem hostRead_within {s : State} (h : s.tb.Within) (p a : Nat) : (hostRead p a s).tb.Within := by
  unfold hostRead
  split
  · exact readWord_within h p a
  · exact h

/-- R386, R387: a posted word that takes effect, or is discarded. -/
theorem runPosted_within {s : State} (h : s.tb.Within) (w : Posted) : (runPosted w s).tb.Within := by
  unfold runPosted
  extract_lets s₁
  have h₁ : s₁.tb.Within := h
  rw [wordDone_tb]
  split
  · simpa using h₁
  · exact writeWord_within h₁ _ _ _ _

theorem drainTo_within {s : State} (h : s.tb.Within) (p t : Nat) : (drainTo p t s).tb.Within := by
  unfold drainTo
  split
  · exact h
  · exact each_keeps (·.tb.Within) (fun _ w hs => runPosted_within hs w) _ h

theorem execPostedWriteExecute_within {s : State} (h : s.tb.Within) (i : Island) : WithinAfter (execPostedWriteExecute i s) := by
  refine onIsl_within h ?_ _
  split
  · exact h
  · split
    · exact h
    · exact runPosted_within h _

theorem portWrite_within {s : State} (h : s.tb.Within) (p a : Nat) (v : Word) : (portWrite p a v s).tb.Within := by
  have hd := drainTo_within h p (place a).target
  unfold portWrite
  extract_lets s₁
  split
  · simpa using hostWrite_within hd p a v
  · exact hd

theorem portRead_within {s : State} (h : s.tb.Within) (p a : Nat) : (portRead p a s).tb.Within :=
  hostRead_within (drainTo_within h _ _) p a

theorem rowWrite_within {s : State} (h : s.tb.Within) (p a : Nat) (v : Word) : WithinAfter (rowWrite p a v s) :=
  onIsl_within h (portWrite_within h p a v) _

theorem galHostWrite_within {s : State} (h : s.tb.Within) (op : GalOp) (mine : PortA) (host x : Nat) (other : PortA) :
    (galHostWrite op mine host x other s).tb.Within := by
  have hd := drainTo_within h host islHost
  unfold galHostWrite
  extract_lets s₁
  split
  · simpa using hd
  · exact hd

theorem execGalleryRead_within {s : State} (h : s.tb.Within) (host : Fin 4) (x : BitVec 22) (ecc : Ecc) :
    WithinAfter (execGalleryRead host x ecc s) := by
  refine onIsl_within h ?_ _
  have hd := drainTo_within h host islHost
  extract_lets s₁
  split
  · simpa using hd
  · exact hd

theorem execSnapshotWord0Read_within {s : State} (h : s.tb.Within) (host : Fin 4) (addr : BitVec 24) :
    WithinAfter (execSnapshotWord0Read host addr s) := by
  refine onIsl_within h ?_ _
  split
  · exact h
  · exact portRead_within h _ _

theorem execPulseOutConfig_within {s : State} (h : s.tb.Within) (host : Fin 4) (addr : BitVec 24) (v : Word) :
    WithinAfter (execPulseOutConfig host addr v s) := by
  refine onIsl_within h ?_ _
  split
  · exact portWrite_within h _ _ v
  · exact h

/-! ### Requests (R381 to R391) -/

theorem readOne_within (p : Nat) {r : List Word × Option Answer × State} (h : r.2.2.tb.Within) (a : Nat) : (readOne p r a).2.2.tb.Within := by
  obtain ⟨ws, e, s⟩ := r
  have hr := readWord_within (s := s) h p a
  simp only [readOne]
  split <;> split <;> assumption

theorem answerRead_within {s : State} (h : s.tb.Within) (p seq a n : Nat) : (answerRead p seq a n s).tb.Within := by
  unfold answerRead
  extract_lets s₁
  have h₁ : s₁.tb.Within := by
    unfold s₁
    split
    · exact drainTo_within h _ _
    · exact h
  split
  · simpa using h₁
  · split
    · simpa using h₁
    · have hr := List.foldlRecOn (reqAddrs a n) (readOne p) (motive := (·.2.2.tb.Within))
        (b := ([], none, s₁.modHp p (fun h => { h with inHand := true }))) h₁ (fun r hr a _ => readOne_within p hr a)
      simpa using hr

theorem answerWrite_within {s : State} (h : s.tb.Within) (p seq a n : Nat) (data : List Word) : (answerWrite p seq a n data s).tb.Within := by
  unfold answerWrite
  extract_lets s₁
  have h₁ : s₁.tb.Within := by
    unfold s₁
    split
    · exact drainTo_within h _ _
    · exact h
  split
  · simpa using h₁
  · split <;> simpa using h₁

theorem execute_within {s : State} (h : s.tb.Within) (p seq op n a : Nat) (data : List Word) : (execute p seq op n a data s).tb.Within := by
  unfold execute
  extract_lets s₁
  have h₁ : s₁.tb.Within := by simpa -implicitDefEqProofs [s₁] using h
  split
  · exact answerRead_within h₁ _ _ _ _
  · split
    · exact answerWrite_within h₁ _ _ _ _ _
    · simpa using h₁

theorem admitReq_within {s : State} (h : s.tb.Within) (p seq op n a : Nat) (data : List Word) : (admitReq p seq op n a data s).tb.Within := by
  have hx : ∀ f, (execute p seq op n a data (s.modHp p f)).tb.Within := fun f =>
    execute_within (s := s.modHp p f) h p seq op n a data
  unfold admitReq
  extract_lets x back
  split
  · simpa using h
  · split
    · simpa using h
    · split
      · exact h
      · split
        · exact h
        · exact hx _

theorem takeFrame_within {s : State} (h : s.tb.Within) (p : Nat) (fr : List Byte) : (takeFrame p fr s).tb.Within := by
  unfold takeFrame
  extract_lets n at_
  split
  · exact h
  · exact admitReq_within h _ _ _ _ _ _

theorem takeBytes_within {s : State} (h : s.tb.Within) (p fuel : Nat) (bs : List Byte) : (takeBytes p fuel bs s).tb.Within := by
  induction fuel generalizing bs s with
  | zero => exact h
  | succ fuel ih =>
    cases bs with
    | nil => exact h
    | cons b bs =>
      unfold takeBytes
      split
      · exact ih h bs
      · split
        · exact h
        · exact ih (takeFrame_within h p _) _

/-! ### All commands -/

/-- Every command keeps the ratio in use, and the one from which FREE and HOLDOVER slew, within the limits of R41: the tick and the
discipline by the rules above, a host's accesses since no register gives the ratio, the starts and stops since they reset it, and all
others since they leave the timebase alone. -/
theorem exec_within {s : State} (h : s.tb.Within) (c : Instr) : WithinAfter (exec c s) := by
  cases c with
  | tick => exact execTick_within h _
  | ppsEdge => exact execPpsEdge_within h _
  | ppsTimeout => exact execPpsTimeout_within h
  | discEnWrite | taiArm | ringCmdGo | headAccRead | headAccWrite | wpCfgWrite | fgReacq | ctxLatchGo | ctxLatchRelease
  | energyPresetGo | legacyPresetGo | spUtcWrite | evCfgWrite | planStage | planSwap | planCancel | planHistSelect | restoreGo
  | lcCommit | lcRun | lcInject | lcFifoFlush | calHead | calLocal | calExport | calRestore | calCancel | galPwrWrite | registerWrite
  | blockRequest | blockRelease | captureGo | captureStop | budgetWrite | evict | keySet | otpKeyProgram | otpKeyRevoke | sealClear
  | tamperTest | tamperConfigWrite | saveAck | logAck => exact rowWrite_within h _ _ _
  | secondBoundary => exact execSecondBoundary_within h
  | snapshotWord0Read => exact execSnapshotWord0Read_within h _ _
  | rcRead | lcFifoRead => exact onIsl_within h (portRead_within h _ _) _
  | pulseOutConfig => exact execPulseOutConfig_within h _ _ _
  | galleryRead => exact execGalleryRead_within h _ _ _
  | galleryWrite | aliasSet | aliasClear => exact onIsl_within h (galHostWrite_within h _ _ _ _ _) _
  | submit => exact onIsl_within h (takeBytes_within h _ _ _) _
  | read | write | fence | fenceCommit | nop | resync => exact onIsl_within h (admitReq_within h _ _ _ _ _ _) _
  | postedWriteExecute => exact execPostedWriteExecute_within h _
  | mainRelease => exact execMainRelease_within h
  | mainStop => exact execMainStop_within h
  | vholdShutdown => exact execVholdShutdown_within h _
  | _ => exact withinAfter_of_tb h (by simp [exec])

/-! ## The obligation -/

theorem step_within {s t : State} (h : s.tb.Within) (ht : step s = .next t) : t.tb.Within := by
  unfold step at ht
  split at ht
  · cases ht; exact h
  · next c rest _ => exact exec_within (s := { s with pending := rest }) h c t.tb (by simp [ht])

/-- Settles O56: `setRatio` moves the ratio towards a clamped goal and never past it, and no command sets it otherwise. -/
theorem ratioStaysWithinLimits : Obligations.RatioStaysWithinLimits := by
  unfold Obligations.RatioStaysWithinLimits
  refine ⟨rfl, rfl, fun n => by omega, fun n => by omega, fun asked ticks t hlo hhi => ⟨?_, fun ha hm => ?_, fun ha hm => ?_, ?_⟩,
    fun s t h ht => ?_⟩
  · exact inLimits_slew ⟨hlo, hhi⟩ (inLimits_clampRatio asked) ticks
  · rw [setRatio_ratio, clampRatio_below ha]
    exact slew_down hlo hm
  · rw [setRatio_ratio, clampRatio_above ha]
    exact slew_up hhi hm
  · exact setRatio_range asked ticks t
  · exact (ratioWithinLimits_iff t).2 (step_within ((ratioWithinLimits_iff s).1 h) ht)

end Sys2Proof.Machine
end

section
/-! PROOF. No operation that a transaction reaches touches the queue of commands: the registers that a posted word or a READ may reach, the
answers, and the bytes of a SUBMIT (O43). One lemma for each operation, in the model's order and `@[simp]`, so that each proof unfolds its
own operation alone, as in the proof of O56 above; with `simp -implicitDefEqProofs` for the same reason as there. -/

namespace Sys2Proof.Machine

/-! ### Lists and conditions -/

@[simp] theorem ite_pending (c : Prop) [Decidable c] (s t : State) :
    (if c then s else t).pending = if c then s.pending else t.pending :=
  apply_ite State.pending c s t

@[simp] theorem each_pending {α : Type} {f : State → α → State} (hf : ∀ s a, (f s a).pending = s.pending) (l : List α)
    (s : State) :
    (each l f s).pending = s.pending :=
  each_same State.pending hf l s

@[simp] theorem foldl_pending {α : Type} {f : State → α → State} (hf : ∀ s a, (f s a).pending = s.pending) (l : List α)
    (s : State) :
    (l.foldl f s).pending = s.pending :=
  each_same State.pending hf l s

@[simp] theorem whenDo_pending {f : State → State} (hf : ∀ s, (f s).pending = s.pending) (b : Bool) (s : State) :
    (whenDo b f s).pending = s.pending :=
  whenDo_keeps (·.pending = s.pending) (fun t ht => (hf t).trans ht) b rfl

/-! ### Shared operations -/

@[simp] theorem State.freeNext_pending (s : State) : (State.freeNext s).2.pending = s.pending := by simp [State.freeNext]

/-! ### Galleries (chapter 15) -/

@[simp] theorem galSettle_pending (g : Nat) (s : State) : (galSettle g s).pending = s.pending := by simp [galSettle]

@[simp] theorem galCollide_pending (g off user host : Nat) (s : State) : (galCollide g off user host s).pending = s.pending := by
  simp [galCollide]

@[simp] theorem galHostOp_pending (host g off : Nat) (op other : PortA) (s : State) :
    (galHostOp host g off op other s).pending = s.pending := by
  unfold galHostOp
  dsimp only
  split <;> simp

@[simp] theorem galUncorr_pending (g off : Nat) (s : State) : (galUncorr g off s).pending = s.pending := by simp [galUncorr]

@[simp] theorem galRead_pending (g off : Nat) (ecc : Ecc) (s : State) : (galRead g off ecc s).pending = s.pending := by
  unfold galRead
  split <;> simp

@[simp] theorem noteUpload_pending (g off : Nat) (s : State) : (noteUpload g off s).pending = s.pending := by simp [noteUpload]

@[simp] theorem galRegClear_pending (off : Nat) (s : State) : (galRegClear off s).pending = s.pending := by
  unfold galRegClear
  repeat' split
  all_goals simp

@[simp] theorem galRegWrite_pending (p off : Nat) (v : Word) (s : State) : (galRegWrite p off v s).pending = s.pending := by
  simp [galRegWrite]

/-! ### Blocks, captures and budgets (chapter 16) -/

@[simp] theorem checkBudget_pending (p : Nat) (s : State) : (checkBudget p s).pending = s.pending := by simp [checkBudget]
@[simp] theorem capEnd_pending (code p : Nat) (s : State) : (capEnd code p s).pending = s.pending := by simp [capEnd]

@[simp] theorem loseBlocks_pending (code p : Nat) (l : List Nat) (s : State) : (loseBlocks code p l s).pending = s.pending := by
  simp [loseBlocks]

@[simp] theorem blockGo_pending (p n : Nat) (s : State) : (blockGo p n s).pending = s.pending := by simp [blockGo]

@[simp] theorem releaseBlocks_pending (p w : Nat) (mask : Word) (s : State) : (releaseBlocks p w mask s).pending = s.pending := by
  simp [releaseBlocks]

@[simp] theorem evictPort_pending (role host p : Nat) (s : State) : (evictPort role host p s).pending = s.pending := by simp [evictPort]

@[simp] theorem budgetSet_pending (role host p : Nat) (v : Word) (s : State) : (budgetSet role host p v s).pending = s.pending := by
  simp [budgetSet]

/-! ### Rings -/

@[simp] theorem askCell_pending (r c : Nat) (q : CellReq) (s : State) : (askCell r c q s).pending = s.pending := by simp [askCell]
@[simp] theorem ringGo_pending (r : Nat) (s : State) : (ringGo r s).pending = s.pending := by simp [ringGo]

@[simp] theorem linkWrite_pending (k off : Nat) (v : Word) (s : State) : (linkWrite k off v s).pending = s.pending := by
  unfold linkWrite
  split <;> simp

@[simp] theorem ringWrite_pending (r off : Nat) (v : Word) (s : State) : (ringWrite r off v s).pending = s.pending := by
  unfold ringWrite
  split <;> simp

@[simp] theorem linkClear_pending (k off : Nat) (s : State) : (linkClear k off s).pending = s.pending := by unfold linkClear; split <;> simp
@[simp] theorem ringClear_pending (r off : Nat) (s : State) : (ringClear r off s).pending = s.pending := by unfold ringClear; split <;> simp

/-! ### Heads -/

@[simp] theorem pushChange_pending (h : Nat) (c : Change) (s : State) : (pushChange h c s).pending = s.pending := by simp [pushChange]
@[simp] theorem pushPx_pending (h : Nat) (c : Change) (s : State) : (pushPx h c s).pending = s.pending := by simp [pushPx]
@[simp] theorem accEnd_pending (p result resp : Nat) (s : State) : (accEnd p result resp s).pending = s.pending := by simp [accEnd]

@[simp] theorem changeLost_pending (result resp : Nat) (c : Change) (s : State) : (changeLost result resp c s).pending = s.pending := by
  unfold changeLost
  split <;> simp

@[simp] theorem detFaults_pending (h causeP causeA : Nat) (s : State) : (detFaults h causeP causeA s).pending = s.pending := by
  simp only [detFaults]
  repeat' split
  all_goals simp

@[simp] theorem restoreEnd_pending (kind idx role host result : Nat) (s : State) :
    (restoreEnd kind idx role host result s).pending = s.pending := by
  simp [restoreEnd]

@[simp] theorem restoreDropped_pending (h : Nat) (s : State) : (restoreDropped h s).pending = s.pending := by
  unfold restoreDropped
  split <;> simp

@[simp] theorem headAbsent_pending (h : Nat) (s : State) : (headAbsent h s).pending = s.pending := by simp [headAbsent]
@[simp] theorem accGo_pending (role p : Nat) (s : State) : (accGo role p s).pending = s.pending := by unfold accGo; split <;> simp
@[simp] theorem headClear_pending (h off : Nat) (s : State) : (headClear h off s).pending = s.pending := by unfold headClear; split <;> simp

@[simp] theorem accWrite_pending (role p off : Nat) (v : Word) (s : State) : (accWrite role p off v s).pending = s.pending := by
  unfold accWrite
  split <;> simp

/-! ### The staircase -/

@[simp] theorem startEngine_pending (e r : Nat) (cfg : StairCfg) (st : EngSt) (s : State) :
    (startEngine e r cfg st s).pending = s.pending := by
  simp [startEngine]

@[simp] theorem freeEngine_pending (e : Nat) (s : State) : (freeEngine e s).pending = s.pending := by simp [freeEngine]
@[simp] theorem retireEngine_pending (crit e : Nat) (s : State) : (retireEngine crit e s).pending = s.pending := by simp [retireEngine]

@[simp] theorem wpWrite_pending (w off : Nat) (v : Word) (s : State) : (wpWrite w off v s).pending = s.pending := by
  unfold wpWrite
  split <;> simp

@[simp] theorem stcWrite_pending (e off : Nat) (v : Word) (s : State) : (stcWrite e off v s).pending = s.pending := by simp [stcWrite]
@[simp] theorem stcClear_pending (e off : Nat) (s : State) : (stcClear e off s).pending = s.pending := by simp [stcClear]

/-! ### Groups and cycles -/

@[simp] theorem fgWrite_pending (gi off : Nat) (v : Word) (s : State) : (fgWrite gi off v s).pending = s.pending := by
  unfold fgWrite
  split <;> simp

@[simp] theorem fgClear_pending (gi off : Nat) (s : State) : (fgClear gi off s).pending = s.pending := by unfold fgClear; split <;> simp

/-! ### The tally units -/

@[simp] theorem ctxLatchGo_pending (p c : Nat) (s : State) : (ctxLatchGo p c s).pending = s.pending := by simp [ctxLatchGo]

@[simp] theorem presetGo_pending (role p c : Nat) (s : State) : (presetGo role p c s).pending = s.pending := by
  unfold presetGo
  split <;> simp

@[simp] theorem ctxWrite_pending (role p c off : Nat) (v : Word) (s : State) : (ctxWrite role p c off v s).pending = s.pending := by
  unfold ctxWrite
  split <;> simp

/-! ### Pulses -/

@[simp] theorem logRebases_pending (o : Nat) (taken : List OutChange) (s : State) : (logRebases o taken s).pending = s.pending := by
  simp [logRebases]

@[simp] theorem newUse_pending (o a k : Nat) (grp : Option Nat) (taken : List OutChange) (c : OutChange) (s : State) :
    (newUse o a k grp taken c s).pending = s.pending := by
  simp [newUse]

@[simp] theorem setOut_pending (role host o : Nat) (rebase : Bool) (c : PlsCfg) (width : Nat) (s : State) :
    (setOut role host o rebase c width s).pending = s.pending := by
  unfold setOut
  dsimp only
  split <;> simp

@[simp] theorem setOutCfg_pending (role host o : Nat) (c : PlsCfg) (s : State) : (setOutCfg role host o c s).pending = s.pending := by
  simp [setOutCfg]

@[simp] theorem outWrite_pending (role host o off : Nat) (v : Word) (s : State) : (outWrite role host o off v s).pending = s.pending := by
  unfold outWrite
  dsimp only
  split <;> simp

@[simp] theorem outClear_pending (o off : Nat) (s : State) : (outClear o off s).pending = s.pending := by unfold outClear; split <;> simp

@[simp] theorem inWrite_pending (role host i off : Nat) (v : Word) (s : State) : (inWrite role host i off v s).pending = s.pending := by
  unfold inWrite
  split <;> simp

@[simp] theorem inClear_pending (i off : Nat) (s : State) : (inClear i off s).pending = s.pending := by unfold inClear; split <;> simp

/-! ### Spectra -/

@[simp] theorem spWrite_pending (off : Nat) (v : Word) (s : State) : (spWrite off v s).pending = s.pending := by
  unfold spWrite
  split <;> simp

@[simp] theorem spClear_pending (off : Nat) (s : State) : (spClear off s).pending = s.pending := by simp [spClear]

/-! ### The event unit -/

@[simp] theorem evCtxWrite_pending (c off : Nat) (v : Word) (s : State) : (evCtxWrite c off v s).pending = s.pending := by
  unfold evCtxWrite
  repeat' split
  all_goals simp

@[simp] theorem evClear_pending (off : Nat) (s : State) : (evClear off s).pending = s.pending := by unfold evClear; split <;> simp

/-! ### Calibration -/

@[simp] theorem withdraw_pending (h : Nat) (d : Bool) (s : State) : (withdraw h d s).pending = s.pending := by simp [withdraw]

@[simp] theorem endOuting_pending (i result : Nat) (s : State) : (endOuting i result s).pending = s.pending := by
  unfold endOuting
  split <;> simp -implicitDefEqProofs

@[simp] theorem endOutings_pending (kind result : Nat) (d : Bool) (idx : Nat) (s : State) :
    (endOutings kind result d idx s).pending = s.pending := by
  unfold endOutings
  split <;> simp

@[simp] theorem calResult_pending (v : Nat) (s : State) : (calResult v s).pending = s.pending := by simp [calResult]

@[simp] theorem calAsk_pending (kind : Nat) (d : Bool) (idx : Nat) (s : State) : (calAsk kind d idx s).pending = s.pending := by
  unfold calAsk
  repeat' split
  all_goals simp

@[simp] theorem calImage_pending (op : Nat) (s : State) : (calImage op s).pending = s.pending := by simp [calImage]

@[simp] theorem calCancel_pending (isLocal d : Bool) (idx : Nat) (s : State) : (calCancel isLocal d idx s).pending = s.pending := by
  unfold calCancel
  split <;> simp

@[simp] theorem calGo_pending (s : State) : (calGo s).pending = s.pending := by unfold calGo; dsimp only; split <;> simp
@[simp] theorem calSupersede_pending (h reg : Nat) (s : State) : (calSupersede h reg s).pending = s.pending := by simp [calSupersede]

@[simp] theorem accWriteCal_pending (role p off : Nat) (v : Word) (s : State) : (accWriteCal role p off v s).pending = s.pending := by
  simp [accWriteCal]

@[simp] theorem calWrite_pending (off : Nat) (v : Word) (s : State) : (calWrite off v s).pending = s.pending := by
  unfold calWrite
  split <;> simp

/-! ### The local converter -/

@[simp] theorem lcFifoTake_pending (s : State) : (lcFifoTake s).pending = s.pending := by simp [lcFifoTake]
@[simp] theorem lcInjWrite_pending (i : Nat) (v : Word) (s : State) : (lcInjWrite i v s).pending = s.pending := by simp [lcInjWrite]
@[simp] theorem lcCtrlWrite_pending (v : Word) (s : State) : (lcCtrlWrite v s).pending = s.pending := by simp [lcCtrlWrite]
@[simp] theorem lcFifoCfg_pending (v : Word) (s : State) : (lcFifoCfg v s).pending = s.pending := by simp [lcFifoCfg]

@[simp] theorem lcWrite_pending (off : Nat) (v : Word) (s : State) : (lcWrite off v s).pending = s.pending := by
  unfold lcWrite
  split <;> simp

@[simp] theorem lcClear_pending (off : Nat) (s : State) : (lcClear off s).pending = s.pending := by unfold lcClear; split <;> simp

/-! ### Redundancy -/

@[simp] theorem restorePlaced_pending (h : Nat) (s : State) : (restorePlaced h s).pending = s.pending := by
  unfold restorePlaced
  split <;> simp

@[simp] theorem restoreGo_pending (role host : Nat) (s : State) : (restoreGo role host s).pending = s.pending := by
  simp only [restoreGo]
  repeat' split
  all_goals simp

@[simp] theorem redWrite_pending (role host a : Nat) (v : Word) (s : State) : (redWrite role host a v s).pending = s.pending := by
  simp [redWrite]

@[simp] theorem redClear_pending (a : Nat) (s : State) : (redClear a s).pending = s.pending := by simp [redClear]

/-! ### The hall plan -/

@[simp] theorem history_pending (ev result slot : Nat) (by_ : Nat × Nat) (id : Word) (version : Nat) (e : PlanErr) (s : State) :
    (history ev result slot by_ id version e s).pending = s.pending := by
  simp [history]

@[simp] theorem histSelect_pending (seq : Nat) (s : State) : (histSelect seq s).pending = s.pending := by simp [histSelect]
@[simp] theorem setPlanSt_pending (st : PlanSt) (s : State) : (setPlanSt st s).pending = s.pending := by simp [setPlanSt]
@[simp] theorem planResult_pending (code : Nat) (s : State) : (planResult code s).pending = s.pending := by simp [planResult]
@[simp] theorem startRing_pending (r : PlanRing) (s : State) : (startRing r s).pending = s.pending := by simp [startRing]
@[simp] theorem serveRing_pending (r : PlanRing) (s : State) : (serveRing r s).pending = s.pending := by unfold serveRing; split <;> simp
@[simp] theorem serveRings_pending (rs : List PlanRing) (s : State) : (serveRings rs s).pending = s.pending := by simp [serveRings]
@[simp] theorem listHead_pending (h : PlanHead) (s : State) : (listHead h s).pending = s.pending := by simp [listHead]

@[simp] theorem logCommand_pending (role host cmd before code : Nat) (s : State) :
    (logCommand role host cmd before code s).pending = s.pending := by
  simp [logCommand]

@[simp] theorem swapReplaced_pending (role host : Nat) (s : State) : (swapReplaced role host s).pending = s.pending := by
  simp [swapReplaced]

@[simp] theorem stageCmd_pending (role host : Nat) (s : State) : (stageCmd role host s).2.pending = s.pending := by
  unfold stageCmd
  repeat' split
  all_goals simp

@[simp] theorem programSlot_pending (bs : List Byte) (s : State) : (programSlot bs s).pending = s.pending := by simp [programSlot]
@[simp] theorem breakStage_pending (s : State) : (breakStage s).pending = s.pending := by simp [breakStage]
@[simp] theorem enumInService_pending (r : Nat) (s : State) : (enumInService r s).pending = s.pending := by simp [enumInService]

@[simp] theorem joinListed_pending (served : Bool) (h : PlanHead) (s : State) : (joinListed served h s).pending = s.pending := by
  simp [joinListed]

@[simp] theorem enterPreparing_pending (s : State) : (enterPreparing s).pending = s.pending := by unfold enterPreparing; split <;> simp

@[simp] theorem releaseRing_pending (r : Nat) (s : State) : (releaseRing r s).pending = s.pending := by
  simp only [releaseRing]
  repeat' split
  all_goals simp

@[simp] theorem undoPreparing_pending (s : State) : (undoPreparing s).pending = s.pending := by unfold undoPreparing; split <;> simp

@[simp] theorem swapCmd_pending (role host : Nat) (s : State) : (swapCmd role host s).2.pending = s.pending := by
  unfold swapCmd
  repeat' split
  all_goals simp

@[simp] theorem cancelCmd_pending (role host : Nat) (s : State) : (cancelCmd role host s).2.pending = s.pending := by
  unfold cancelCmd
  split <;> simp

@[simp] theorem planDo_pending {f : State → Nat × State} {s : State} (hf : (f s).2.pending = s.pending) (cmd role host : Nat) :
    (planDo cmd f role host s).pending = s.pending := by
  simp [planDo, hf]

@[simp] theorem planCmd_pending (role host : Nat) (v : Word) (s : State) : (planCmd role host v s).pending = s.pending := by simp [planCmd]

@[simp] theorem planWrite_pending (role host off : Nat) (v : Word) (s : State) : (planWrite role host off v s).pending = s.pending := by
  unfold planWrite
  split <;> simp -implicitDefEqProofs

/-! ### Replies and fences -/

@[simp] theorem putReply_pending (p seq op : Nat) (a : Answer) (taken : Nat) (data : List Word) (s : State) :
    (putReply p seq op a taken data s).pending = s.pending := by
  simp [putReply]

@[simp] theorem replyFence_pending (p : Nat) (f : Fence) (a : Answer) (s : State) : (replyFence p f a s).pending = s.pending := by
  simp [replyFence]

@[simp] theorem wordDone_pending (p : Nat) (s : State) : (wordDone p s).pending = s.pending := by simp [wordDone]

/-! ### The trouble log -/

@[simp] theorem logClear_pending (p off : Nat) (s : State) : (logClear p off s).pending = s.pending := by unfold logClear; split <;> simp

@[simp] theorem logWrite_pending (p off : Nat) (v : Word) (s : State) : (logWrite p off v s).pending = s.pending := by
  unfold logWrite
  split <;> simp

/-! ### Roles and keys -/

@[simp] theorem roleReq_pending (p role : Nat) (bytes : BitVec 256) (s : State) : (roleReq p role bytes s).pending = s.pending := by
  simp [roleReq]

@[simp] theorem authFail_pending (p role : Nat) (s : State) : (authFail p role s).pending = s.pending := by simp [authFail]
@[simp] theorem roleSubmit_pending (p : Nat) (s : State) : (roleSubmit p s).pending = s.pending := by simp [roleSubmit]

@[simp] theorem keyGo_pending (role p target : Nat) (s : State) : (keyGo role p target s).2.pending = s.pending := by
  simp only [keyGo]
  repeat' split
  all_goals simp

@[simp] theorem askSave_pending (s : State) : (askSave s).pending = s.pending := by simp [askSave]

@[simp] theorem otpGo_pending (role p op slot : Nat) (s : State) : (otpGo role p op slot s).2.pending = s.pending := by
  simp only [otpGo]
  repeat' split
  all_goals simp

@[simp] theorem sealClear_pending (role p : Nat) (s : State) : (sealClear role p s).2.pending = s.pending := by
  unfold sealClear
  split <;> simp

@[simp] theorem freeBytes_pending (n : Nat) (s : State) : (freeBytes n s).2.pending = s.pending := by
  induction n generalizing s with
  | zero => rfl
  | succ n ih => simp [freeBytes, ih]

@[simp] theorem roleOpenWrite_pending (p : Nat) (v : Word) (s : State) : (roleOpenWrite p v s).pending = s.pending := by
  simp [roleOpenWrite]

@[simp] theorem roleWrite_pending (role p off : Nat) (v : Word) (s : State) : (roleWrite role p off v s).2.pending = s.pending := by
  unfold roleWrite
  repeat' split
  all_goals simp

/-! ### Tamper monitors -/

@[simp] theorem testGo_pending (m : Nat) (s : State) : (testGo m s).pending = s.pending := by simp [testGo]
@[simp] theorem tmpClear_pending (off : Nat) (s : State) : (tmpClear off s).pending = s.pending := by simp [tmpClear]

@[simp] theorem tmpWrite_pending (off : Nat) (v : Word) (s : State) : (tmpWrite off v s).pending = s.pending := by
  unfold tmpWrite
  repeat' split
  all_goals simp -implicitDefEqProofs

/-! ### Power -/

@[simp] theorem pwrClear_pending (off : Nat) (s : State) : (pwrClear off s).pending = s.pending := by unfold pwrClear; split <;> simp

@[simp] theorem pwrWrite_pending (off : Nat) (v : Word) (s : State) : (pwrWrite off v s).pending = s.pending := by
  unfold pwrWrite
  split <;> simp

/-! ### Registers -/

@[simp] theorem glbWrite_pending (off : Nat) (v : Word) (s : State) : (glbWrite off v s).pending = s.pending := by
  unfold glbWrite
  split <;> simp

@[simp] theorem glbClear_pending (off : Nat) (s : State) : (glbClear off s).pending = s.pending := by unfold glbClear; split <;> simp
@[simp] theorem hpClear_pending (p off : Nat) (s : State) : (hpClear p off s).pending = s.pending := by unfold hpClear; split <;> simp
@[simp] theorem capGo_pending (p : Nat) (s : State) : (capGo p s).pending = s.pending := by simp [capGo]
@[simp] theorem capCtrlWrite_pending (p : Nat) (v : Word) (s : State) : (capCtrlWrite p v s).pending = s.pending := by simp [capCtrlWrite]

@[simp] theorem hpWrite_pending (role p off : Nat) (v : Word) (s : State) : (hpWrite role p off v s).pending = s.pending := by
  unfold hpWrite
  split <;> simp

@[simp] theorem takeLatch_pending (p a : Nat) (pl : Place) (s : State) : (takeLatch p a pl s).pending = s.pending := by simp [takeLatch]

/-! ### Requests -/

@[simp] theorem discardWord_pending (w : Posted) (s : State) : (discardWord w s).pending = s.pending := by
  unfold discardWord
  split <;> simp

@[simp] theorem postWord_pending (p : Nat) (s : State) (e : Nat × Word) : (postWord p s e).pending = s.pending := by simp [postWord]
@[simp] theorem answerFenceReq_pending (p seq : Nat) (s : State) : (answerFenceReq p seq s).pending = s.pending := by simp [answerFenceReq]

@[simp] theorem answerFenceCommit_pending (p seq a : Nat) (s : State) : (answerFenceCommit p seq a s).pending = s.pending := by
  simp only [answerFenceCommit]
  repeat' split
  all_goals simp

@[simp] theorem duplicate_pending (p seq : Nat) (s : State) : (duplicate p seq s).pending = s.pending := by simp [duplicate]

/-! ### Accesses of one word -/

@[simp] theorem regClear_pending (p : Nat) (pl : Place) (s : State) : (regClear p pl s).pending = s.pending := by
  cases pl <;> simp [regClear]

@[simp] theorem regWrite_pending (role p : Nat) (pl : Place) (v : Word) (s : State) : (regWrite role p pl v s).2.pending = s.pending := by
  cases pl with
  | pulseOut o off => simp only [regWrite]; split <;> simp
  | _ => simp [regWrite]

@[simp] theorem readReg_pending (p a : Nat) (pl : Place) (s : State) : (readReg p a pl s).2.pending = s.pending := by
  unfold readReg
  extract_lets live
  split
  · rfl
  · split <;> simp

@[simp] theorem readWord_pending (p a : Nat) (s : State) : (readWord p a s).2.pending = s.pending := by
  unfold readWord
  split
  · dsimp only
    split <;> simp
  · simp

@[simp] theorem writeWord_pending (role p a : Nat) (v : Word) (s : State) : (writeWord role p a v s).pending = s.pending := by
  unfold writeWord
  split <;> simp

@[simp] theorem runPosted_pending (w : Posted) (s : State) : (runPosted w s).pending = s.pending := by simp [runPosted]
@[simp] theorem drainTo_pending (p t : Nat) (s : State) : (drainTo p t s).pending = s.pending := by simp [drainTo]

/-! ### Requests, frames and the bytes of a SUBMIT -/

@[simp] theorem readOne_pending (p : Nat) (r : List Word × Option Answer × State) (a : Nat) :
    (readOne p r a).2.2.pending = r.2.2.pending := by
  obtain ⟨ws, e, s⟩ := r
  simp only [readOne]
  split <;> split <;> simp

/-- R384: the words of a READ, read one after the other. -/
theorem foldl_readOne_pending (p : Nat) (l : List Nat) (r : List Word × Option Answer × State) :
    (l.foldl (readOne p) r).2.2.pending = r.2.2.pending :=
  List.foldlRecOn l (readOne p) (motive := fun b => b.2.2.pending = r.2.2.pending) rfl
    (fun b hb a _ => (readOne_pending p b a).trans hb)

@[simp] theorem answerRead_pending (p seq a n : Nat) (s : State) : (answerRead p seq a n s).pending = s.pending := by
  unfold answerRead
  dsimp only
  split
  · simp
  · split <;> simp [foldl_readOne_pending]

@[simp] theorem answerWrite_pending (p seq a n : Nat) (data : List Word) (s : State) :
    (answerWrite p seq a n data s).pending = s.pending := by
  unfold answerWrite
  dsimp only
  split
  · simp
  · split <;> simp

@[simp] theorem execute_pending (p seq op n a : Nat) (data : List Word) (s : State) :
    (execute p seq op n a data s).pending = s.pending := by
  simp -implicitDefEqProofs [execute]

@[simp] theorem admitReq_pending (p seq op n a : Nat) (data : List Word) (s : State) :
    (admitReq p seq op n a data s).pending = s.pending := by
  simp [admitReq]

@[simp] theorem takeFrame_pending (p : Nat) (fr : List Byte) (s : State) : (takeFrame p fr s).pending = s.pending := by
  simp [takeFrame]

/-- R374: a SUBMIT leaves the queue as it was, whatever bytes it carries. -/
@[simp] theorem takeBytes_pending (p fuel : Nat) (bs : List Byte) (s : State) : (takeBytes p fuel bs s).pending = s.pending := by
  induction fuel generalizing bs s with
  | zero => rfl
  | succ fuel ih =>
    cases bs with
    | nil => rfl
    | cons b bs =>
      unfold takeBytes
      split
      · exact ih bs s
      · split
        · simp
        · simp [ih]

end Sys2Proof.Machine
end

section
/-! PROOF. Transactions, frames and the admission of requests (O43, O44). First what a change of one host port does to the state, then
what each branch of R381 to R385 makes of a request. -/

namespace Sys2Proof.Machine

open Sys2Proof.Cert

/-! ## One port changes -/

theorem hostIs_modHp (s : State) (p : Nat) (f : Hp → Hp) : HostIs p (f (s.getHp p)) s (s.modHp p f) :=
  ⟨State.getHp_modHp s p f, fun q hq => State.getHp_modHp_ne s p q f hq⟩

theorem portsOnly_modHp (s : State) (p : Nat) (f : Hp → Hp) : PortsOnly s (s.modHp p f) := rfl

theorem modHp_modHp_hostIs (s : State) (p : Nat) (f g : Hp → Hp) :
    HostIs p (g (f (s.getHp p))) s ((s.modHp p f).modHp p g) :=
  ⟨by simp, fun q hq => (State.getHp_modHp_ne _ p q g hq).trans (State.getHp_modHp_ne s p q f hq)⟩

theorem modHp_modHp_portsOnly (s : State) (p : Nat) (f g : Hp → Hp) : PortsOnly s ((s.modHp p f).modHp p g) := rfl

/-! ## Admission (R381, R382, R385) -/

/-- R381: how far the sequence number of a request lies behind the next one. -/
def Hp.behind (h : Hp) (seq : Nat) : Nat := (h.resume + 256 - seq) % 256

/-- R382: the copies that a duplicate adds to the reply queue: none while the reply still waits there, else the one of the history. -/
def Hp.resent (h : Hp) (seq : Nat) : List Reply :=
  if h.replies.any (fun r => r.seq == seq) then []
  else ((h.history.find? (fun r => r.seq == seq)).map (fun r => { r with copy := true })).toList

theorem Hp.resent_of_waiting {h : Hp} {seq : Nat} (hw : ∃ r ∈ h.replies, r.seq = seq) : h.resent seq = [] := by
  rw [Hp.resent, if_pos (by simpa using hw)]

theorem Hp.resent_of_not_waiting {h : Hp} {seq : Nat} (hw : ∀ r ∈ h.replies, r.seq ≠ seq) :
    h.resent seq = ((h.history.find? (fun r => r.seq == seq)).map (fun r => { r with copy := true })).toList := by
  rw [Hp.resent, if_neg (by simpa using hw)]

/-- R382: what is sent again is marked as a copy. -/
theorem Hp.copy_of_mem_resent {h : Hp} {seq : Nat} {r : Reply} (hr : r ∈ h.resent seq) : r.copy = true := by
  unfold Hp.resent at hr
  split at hr
  · cases hr
  · simp only [Option.mem_toList, Option.map_eq_some_iff] at hr
    obtain ⟨_, _, rfl⟩ := hr
    rfl

/-- R382, R383: a copy takes no vestibule entry. -/
theorem Hp.free_append_resent (h : Hp) (n seq : Nat) :
    ({ h with duplicate := n, replies := h.replies ++ h.resent seq } : Hp).free = h.free := by
  have hnone : (h.resent seq).filter (fun r => !r.copy) = [] := by
    simpa using fun r hr => Hp.copy_of_mem_resent hr
  simp [Hp.free, Hp.used, hnone]

theorem duplicate_eq (p seq : Nat) (s : State) :
    duplicate p seq s =
      s.modHp p (fun h => { h with duplicate := min 0xFF (h.duplicate + 1), replies := h.replies ++ h.resent seq }) := by
  unfold duplicate
  congr 1
  funext h
  simp only [Hp.resent, satAdd]
  split
  · simp
  · split <;> simp [*]

section Admission

variable {s : State} {p seq op n a : Nat} {data : List Word}

theorem admitReq_duplicate (hop : op ≠ opResync) (hlo : 1 ≤ (s.getHp p).behind seq) (hhi : (s.getHp p).behind seq ≤ 32) :
    admitReq p seq op n a data s = duplicate p seq s := by
  unfold Hp.behind at hlo hhi
  simp [admitReq, hop, hhi, Nat.ne_of_gt hlo]

theorem admitReq_outside (hop : op ≠ opResync) (h : 32 < (s.getHp p).behind seq) :
    admitReq p seq op n a data s = s.modHp p (fun h => setFlag 1 { h with badSeq := satAdd 0xFF h.badSeq 1 }) := by
  unfold Hp.behind at h
  simp [admitReq, hop, Nat.not_le_of_gt h, Nat.ne_of_gt (Nat.zero_lt_of_lt h)]

theorem admitReq_full (hop : op ≠ opResync) (h : (s.getHp p).behind seq = 0) (hfree : (s.getHp p).free = 0) :
    admitReq p seq op n a data s = s.modHp p (fun h => setFlag 2 { h with full := satAdd 0xFF h.full 1 }) := by
  unfold Hp.behind at h
  simp [admitReq, hop, h, hfree]

theorem admitReq_throttled (hop : op ≠ opResync) (h : (s.getHp p).behind seq = 0) (hfree : 0 < (s.getHp p).free)
    (hcost : (s.getHp p).credit < reqCost n) :
    admitReq p seq op n a data s = s.modHp p (fun h => setFlag 3 { h with throttled := satAdd 0xFF h.throttled 1 }) := by
  unfold Hp.behind at h
  simp [admitReq, hop, h, Nat.ne_of_gt hfree, hcost]

theorem admitReq_admitted (hop : op ≠ opResync) (h : (s.getHp p).behind seq = 0) (hfree : 0 < (s.getHp p).free)
    (hcost : reqCost n ≤ (s.getHp p).credit) :
    admitReq p seq op n a data s = execute p seq op n a data
      (s.modHp p (fun h => { h with resume := (h.resume + 1) % 256, credit := h.credit - reqCost n })) := by
  unfold Hp.behind at h
  simp [admitReq, hop, h, Nat.ne_of_gt hfree, Nat.not_lt_of_ge hcost]

theorem admitReq_resync (hfree : 0 < (s.getHp p).free) :
    admitReq p seq opResync n a data s =
      putReply p seq opResync {} s.now [] (s.modHp p (fun h => { h with resume := (seq + 1) % 256, history := [] })) := by
  simp [admitReq, hfree]

theorem execute_nop : execute p seq opNop 0 a data s = putReply p seq opNop {} s.now [] s := rfl

end Admission

/-- Every request of R378 but RESYNC goes through admission alone, under an operation that is not RESYNC. -/
theorem exec_request {c : Instr} {p : Fin 4} {seq : Byte} {n : Nat} (hc : IsRequest c p seq n) :
    ∃ op a data, op ≠ opResync ∧ ∀ s : State, s.up islHost = true → exec c s = .next (admitReq p seq.toNat op n a data s) := by
  rcases hc with ⟨a, k, rfl, rfl⟩ | ⟨a, d, rfl, rfl⟩ | ⟨rfl, rfl⟩ | ⟨a, rfl, rfl⟩ | ⟨rfl, rfl⟩
  · exact ⟨opRead, a.toNat, [], by decide, fun s => onIsl_up⟩
  · exact ⟨opWrite, a.toNat, d, by decide, fun s => onIsl_up⟩
  · exact ⟨opFence, 0, [], by decide, fun s => onIsl_up⟩
  · exact ⟨opFenceCommit, a.toNat, [], by decide, fun s => onIsl_up⟩
  · exact ⟨opNop, 0, [], by decide, fun s => onIsl_up⟩

theorem exec_nop {s : State} (hs : s.up islHost = true) (p : Fin 4) (seq : Byte) :
    exec (.nop p seq) s = .next (admitReq p seq.toNat opNop 0 0 [] s) := onIsl_up hs

theorem exec_resync {s : State} (hs : s.up islHost = true) (p : Fin 4) (seq : Byte) :
    exec (.resync p seq) s = .next (admitReq p seq.toNat opResync 0 0 [] s) := onIsl_up hs

/-! ## Replies without words (R379) -/

@[simp] theorem length_leBytes (n v : Nat) : (leBytes n v).length = n := by
  induction n generalizing v with
  | zero => rfl
  | succ n ih => simp [leBytes, ih]

theorem replyFrame_ok_take (seq : Byte) (op taken : Nat) :
    (replyFrame seq.toNat op {} taken []).take 16 = [0xD5, seq, BitVec.ofNat 8 op, 0, 0, 0, 0, 0] ++ leBytes 8 taken := by
  simp [replyFrame, leBytes]

theorem replyFrame_ok_length (seq op taken : Nat) : (replyFrame seq op {} taken []).length = 18 := by
  simp [replyFrame]

/-- R386: an answer without words enters the queue as 18 bytes: SYNC, the number, the operation, OK, and the index. -/
theorem putReply_ok (s : State) (p : Nat) (seq : Byte) (op taken : Nat) :
    ∃ r, r.bytes.take 16 = [0xD5, seq, BitVec.ofNat 8 op, 0, 0, 0, 0, 0] ++ leBytes 8 taken ∧ r.seq = seq.toNat ∧ r.bytes.length = 18 ∧
      putReply p seq.toNat op {} taken [] s = s.modHp p (fun h => { h with replies := h.replies ++ [r] }) :=
  ⟨_, replyFrame_ok_take seq op taken, rfl, replyFrame_ok_length _ _ _, rfl⟩

/-! ## The obligation O44 -/

/-- Settles O44: the branches of admission, one for each way in which R381, R382 and R385 turn a request away, and the answers of NOP and
RESYNC. -/
theorem requestsAdmittedOrTurnedAway : Obligations.RequestsAdmittedOrTurnedAway := by
  unfold Obligations.RequestsAdmittedOrTurnedAway
  intro p seq s hs h back
  refine ⟨fun c n hc => ?_, fun hadm => ?_, fun hfree => ?_⟩
  · obtain ⟨op, a, data, hop, hexec⟩ := exec_request hc
    rw [hexec s hs]
    refine ⟨fun hlo hhi => ?_, fun hout => ?_, fun hnext hfull => ?_, fun hnext hfree hcost => ?_⟩
    · rw [admitReq_duplicate hop hlo hhi, duplicate_eq]
      refine ⟨_, h.resent seq.toNat, rfl, hostIs_modHp _ _ _, portsOnly_modHp _ _ _, Hp.resent_of_waiting, ?_,
        Hp.resent_of_not_waiting⟩
      rw [State.getHp_modHp]
      exact Hp.free_append_resent _ _ _
    · rw [admitReq_outside hop hout]
      exact ⟨_, rfl, hostIs_modHp _ _ _, portsOnly_modHp _ _ _⟩
    · rw [admitReq_full hop hnext hfull]
      exact ⟨_, rfl, hostIs_modHp _ _ _, portsOnly_modHp _ _ _⟩
    · rw [admitReq_throttled hop hnext hfree hcost]
      exact ⟨_, rfl, hostIs_modHp _ _ _, portsOnly_modHp _ _ _⟩
  · obtain ⟨hnext, hfree, hcost⟩ := hadm
    obtain ⟨r, hbytes, hseq, hlen, hput⟩ := putReply_ok
      (s.modHp p (fun h => { h with resume := (h.resume + 1) % 256, credit := h.credit - reqCost 0 })) p seq opNop s.now
    rw [exec_nop hs, admitReq_admitted (by decide) hnext hfree hcost, execute_nop]
    exact ⟨_, r, congrArg _ hput, hbytes, hseq, hlen, modHp_modHp_hostIs _ _ _ _, modHp_modHp_portsOnly _ _ _ _⟩
  · obtain ⟨r, hbytes, hseq, hlen, hput⟩ := putReply_ok
      (s.modHp p (fun h => { h with resume := (seq.toNat + 1) % 256, history := [] })) p seq opResync s.now
    rw [exec_resync hs, admitReq_resync hfree]
    exact ⟨_, r, congrArg _ hput, hbytes, hseq, hlen, modHp_modHp_hostIs _ _ _ _, modHp_modHp_portsOnly _ _ _ _⟩

end Sys2Proof.Machine
end

section
/-! PROOF. The bytes of a SUBMIT and of a COLLECT (O43). A SUBMIT is read frame by frame: `takeBytes_frame` says what one whole frame at its
front does, `takeFrame_eq` what request it spells, and with `submit_reqFrame` each command of a request is the SUBMIT of its frame. -/

namespace Sys2Proof.Machine

open Sys2Proof.Cert

/-! ## Numbers as bytes (R10) -/

theorem leNat_leBytes (n v : Nat) : leNat (leBytes n v) = v % 256 ^ n := by
  induction n generalizing v with
  | zero => simp [leBytes, leNat, Nat.mod_one]
  | succ n ih =>
    calc leNat (leBytes (n + 1) v) = v % 256 + 256 * (v / 256 % 256 ^ n) := by simp [leBytes, leNat, ih]
      _ = v % 256 ^ (n + 1) := by rw [Nat.pow_succ', Nat.mod_mul]

theorem leNat_leBytes_word (w : Word) : BitVec.ofNat 32 (leNat (leBytes 4 w.toNat)) = w := by
  rw [leNat_leBytes]
  apply BitVec.eq_of_toNat_eq
  have hw := w.isLt
  simp only [BitVec.toNat_ofNat]
  omega

theorem length_wordBytes (d : List Word) : (d.flatMap (fun w => leBytes 4 w.toNat)).length = 4 * d.length := by
  induction d with
  | nil => rfl
  | cons w d ih => simp only [List.flatMap_cons, List.length_append, length_leBytes, ih, List.length_cons]; omega

/-- R376: the words of a WRITE are read back from its frame, whatever follows them. -/
theorem byteWords_wordBytes (d : List Word) (rest : List Byte) :
    byteWords d.length (d.flatMap (fun w => leBytes 4 w.toNat) ++ rest) = d := by
  induction d with
  | nil => rfl
  | cons w d ih =>
    have hl : (leBytes 4 w.toNat).length = 4 := length_leBytes 4 _
    simp only [List.flatMap_cons, List.append_assoc, List.length_cons, byteWords, List.take_left' hl, List.drop_left' hl, ih,
      leNat_leBytes_word]

/-! ## The bytes of a SUBMIT (R374, R377) -/

theorem takeBytes_nil (p fuel : Nat) (s : State) : takeBytes p fuel [] s = s := by cases fuel <;> rfl

theorem frameLen_pos (bs : List Byte) : 0 < frameLen bs := by unfold frameLen; omega

/-- The bytes there are suffice as fuel. -/
theorem takeBytes_fuel {p fuel : Nat} {bs : List Byte} (h : bs.length ≤ fuel) (s : State) :
    takeBytes p fuel bs s = takeBytes p bs.length bs s := by
  induction fuel using Nat.strongRecOn generalizing bs s with
  | ind fuel ih =>
    cases fuel with
    | zero => rw [List.eq_nil_of_length_eq_zero (Nat.le_zero.1 h)]; rfl
    | succ fuel =>
      cases bs with
      | nil => rfl
      | cons b bs =>
        have hlen : bs.length ≤ fuel := by simpa using h
        have hdrop : ((b :: bs).drop (frameLen (b :: bs))).length ≤ bs.length := by
          have := frameLen_pos (b :: bs)
          simp only [List.length_drop, List.length_cons]
          omega
        simp only [List.length_cons, takeBytes]
        split
        · exact ih fuel (by omega) hlen s
        · split
          · rfl
          · rw [ih fuel (by omega) (hdrop.trans hlen), ih bs.length (by omega) hdrop]

theorem takeBytes_skip {b : Byte} (hb : b ≠ 0xD5) (p : Nat) (bs : List Byte) (s : State) :
    takeBytes p (b :: bs).length (b :: bs) s = takeBytes p bs.length bs s := by
  simp only [List.length_cons, takeBytes, if_pos hb]

theorem takeBytes_noSync {bs : List Byte} (h : ∀ b ∈ bs, b ≠ 0xD5) (p : Nat) (s : State) : takeBytes p bs.length bs s = s := by
  induction bs with
  | nil => rfl
  | cons b bs ih =>
    rw [takeBytes_skip (h b List.mem_cons_self)]
    exact ih (fun c hc => h c (List.mem_cons_of_mem b hc))

theorem takeBytes_cut {bs : List Byte} (h : bs.length < 7) (p : Nat) (s : State) :
    takeBytes p (0xD5 :: bs).length (0xD5 :: bs) s = s.modHp p (fun h => { h with cut := satAdd 0xFF h.cut 1 }) := by
  simp [takeBytes, h]

/-- R376: a frame that is no WRITE carries no words. -/
theorem frameLen_of_not_write {fr : List Byte} (h : fr.getD 2 0 ≠ 2) : frameLen fr = 10 := by
  have hop : (fr.getD 2 0).toNat ≠ opWrite := fun he => h (BitVec.eq_of_toNat_eq he)
  rw [frameLen, if_neg hop]

/-- The length of a frame is told by its first four bytes. -/
theorem frameLen_append {fr : List Byte} (h : 4 ≤ fr.length) (bs : List Byte) : frameLen (fr ++ bs) = frameLen fr := by
  simp only [frameLen, List.getD_eq_getElem?_getD, List.getElem?_append_left (show 2 < fr.length by omega),
    List.getElem?_append_left (show 3 < fr.length by omega)]

/-- R374: a whole frame at the front is taken, and then what follows it. -/
theorem takeBytes_frame {fr : List Byte} (hsync : fr.head? = some 0xD5) (hlen : fr.length = frameLen fr) (p : Nat) (bs : List Byte)
    (s : State) : takeBytes p (fr ++ bs).length (fr ++ bs) s = takeBytes p bs.length bs (takeFrame p fr s) := by
  obtain ⟨rest, rfl⟩ := List.head?_eq_some_iff.1 hsync
  have hmin : 10 ≤ frameLen (0xD5 :: rest) := Nat.le_add_right _ _
  have hfl : frameLen (0xD5 :: (rest ++ bs)) = (0xD5 :: rest).length :=
    (frameLen_append (fr := 0xD5 :: rest) (by omega) bs).trans hlen.symm
  have hwhole : ¬((rest ++ bs).length < 7 ∨ (rest ++ bs).length + 1 < frameLen (0xD5 :: (rest ++ bs))) := by
    rw [← hlen, List.length_cons] at hmin
    simp only [hfl, List.length_append, List.length_cons]
    omega
  rw [List.cons_append, List.length_cons, takeBytes, if_neg (by simp), if_neg hwhole, hfl, ← List.cons_append, List.drop_left,
    List.take_left]
  exact takeBytes_fuel (by simp) _

/-! ## Request frames (R376, R377) -/

/-- R377: a frame that ends in the check of what comes before it is the request that its bytes spell. -/
theorem takeFrame_checked {fr body : List Byte} (hfr : fr = body ++ leBytes 2 (crc16 body).toNat) (p : Nat) (s : State) :
    takeFrame p fr s = admitReq p (fr.getD 1 0).toNat (fr.getD 2 0).toNat (fr.getD 3 0).toNat (leNat ((fr.drop 4).take 3))
      (byteWords ((body.length - 8) / 4) (fr.drop 8)) s := by
  have hn : fr.length - 2 = body.length := by simp [hfr]
  have hcheck : leNat (leBytes 2 (crc16 body).toNat) = (crc16 body).toNat := by
    rw [leNat_leBytes]
    exact Nat.mod_eq_of_lt (crc16 body).isLt
  have hok : leNat (fr.drop body.length) = (crc16 (fr.take body.length)).toNat := by
    rw [hfr, List.drop_left, List.take_left, hcheck]
  simp only [takeFrame, hn, hok, ne_eq, not_true_eq_false, if_false]

/-- R377: a frame that ends in another check is counted. -/
theorem takeFrame_bad {body c : List Byte} (hc : c.length = 2) (hbad : leNat c ≠ (crc16 body).toNat) (p : Nat) (s : State) :
    takeFrame p (body ++ c) s = s.modHp p (fun h => setFlag 0 { h with crcFail := satAdd 0xFF h.crcFail 1 }) := by
  have hn : (body ++ c).length - 2 = body.length := by simp [hc]
  simp only [takeFrame, hn, List.drop_left, List.take_left, ne_eq, hbad, not_false_eq_true, if_true]

/-- R376: what the check of a request covers: its header, byte by byte, and its words. -/
def reqBody (seq op n a : Nat) (d : List Word) : List Byte :=
  0xD5 :: BitVec.ofNat 8 seq :: BitVec.ofNat 8 op :: BitVec.ofNat 8 n :: (leBytes 3 a ++ 0 :: d.flatMap (fun w => leBytes 4 w.toNat))

theorem reqFrame_eq (seq op n a : Nat) (d : List Word) :
    reqFrame seq op n a d = reqBody seq op n a d ++ leBytes 2 (crc16 (reqBody seq op n a d)).toNat := rfl

theorem reqBody_length (seq op n a : Nat) (d : List Word) : (reqBody seq op n a d).length = 8 + 4 * d.length := by
  simp only [reqBody, List.length_cons, List.length_append, length_leBytes, length_wordBytes]
  omega

/-- R376: a frame of R378 is as long as its operation and its count say. -/
theorem reqFrame_frameLen {op n : Nat} {d : List Word} (hop : op < 256) (hn : n < 256)
    (hd : (op = opWrite ∧ n = d.length) ∨ (op ≠ opWrite ∧ d = [])) (seq a : Nat) :
    (reqFrame seq op n a d).length = frameLen (reqFrame seq op n a d) := by
  have hlen : (reqFrame seq op n a d).length = 10 + 4 * d.length := by
    rw [reqFrame_eq, List.length_append, length_leBytes, reqBody_length]
    omega
  have hfl : frameLen (reqFrame seq op n a d) = 10 + if op = opWrite then 4 * n else 0 := by
    simp [frameLen, reqFrame_eq, reqBody, Nat.mod_eq_of_lt hop, Nat.mod_eq_of_lt hn]
  rw [hlen, hfl]
  rcases hd with ⟨rfl, rfl⟩ | ⟨hne, rfl⟩
  · rw [if_pos rfl]
  · rw [if_neg hne, List.length_nil]

/-- R376, R377: the frame of a request is that request. -/
theorem takeFrame_reqFrame (seq : Byte) {op n a : Nat} (hop : op < 256) (hn : n < 256) (ha : a < 2 ^ 24) (d : List Word) (p : Nat)
    (s : State) : takeFrame p (reqFrame seq.toNat op n a d) s = admitReq p seq.toNat op n a d s := by
  have haddr : leNat (leBytes 3 a) = a := by
    rw [leNat_leBytes]
    exact Nat.mod_eq_of_lt ha
  have hwords : (reqBody seq.toNat op n a d).length - 8 = 4 * d.length := by
    rw [reqBody_length]
    omega
  have hdrop (x : Byte) (rest : List Byte) : (leBytes 3 a ++ x :: rest).drop 4 = rest := rfl
  rw [takeFrame_checked (reqFrame_eq _ _ _ _ _), hwords, Nat.mul_div_cancel_left _ (by decide), reqFrame_eq]
  simp [reqBody, Nat.mod_eq_of_lt hop, Nat.mod_eq_of_lt hn, haddr, hdrop, byteWords_wordBytes, List.take_left' (length_leBytes 3 a)]

/-! ## SUBMIT, COLLECT and BAD_TXN -/

/-- R375, R382: the port once `n` bytes of a COLLECT have been clocked, the header among them. -/
def collected (n : Nat) (h : Hp) : Hp :=
  { h with
    flags := 0, replies := (splitReplies (n - 8) h.replies).2
    history := ((splitReplies (n - 8) h.replies).1.reverse ++ h.history).take 32 }

section Transactions

variable {s : State} (hs : s.up islHost = true) (p : Fin 4)
include hs

theorem exec_submit (bs : List Byte) : exec (.submit p bs) s = .next (takeBytes p bs.length bs s) := onIsl_up hs

/-- R374, R376: a request frame at the front of a SUBMIT, and then what follows it. -/
theorem exec_submit_reqFrame (seq : Byte) {op n a : Nat} {d : List Word} (hop : op < 256) (hn : n < 256) (ha : a < 2 ^ 24)
    (hd : (op = opWrite ∧ n = d.length) ∨ (op ≠ opWrite ∧ d = [])) (bs : List Byte) :
    exec (.submit p (reqFrame seq.toNat op n a d ++ bs)) s = .next (takeBytes p bs.length bs (admitReq p seq.toNat op n a d s)) := by
  rw [exec_submit hs, takeBytes_frame rfl (reqFrame_frameLen hop hn hd _ _), takeFrame_reqFrame seq hop hn ha]

/-- R374, R376: a SUBMIT of one request frame and nothing more. -/
theorem exec_submit_one (seq : Byte) {op n a : Nat} {d : List Word} (hop : op < 256) (hn : n < 256) (ha : a < 2 ^ 24)
    (hd : (op = opWrite ∧ n = d.length) ∨ (op ≠ opWrite ∧ d = [])) :
    exec (.submit p (reqFrame seq.toNat op n a d)) s = .next (admitReq p seq.toNat op n a d s) := by
  have h := exec_submit_reqFrame hs p seq hop hn ha hd []
  rwa [List.append_nil, takeBytes_nil] at h

theorem exec_collect_header {n : Nat} (h : 8 ≤ n) : exec (.collect p n) s = .next (s.modHp p (collected n)) := by
  have hc : exec (.collect p n) s = execCollect p n s := rfl
  rw [hc, execCollect, onIsl_up hs, if_neg (by omega)]
  rfl

theorem exec_collect_short {n : Nat} (h : n < 8) : exec (.collect p n) s = .next s := by
  have hc : exec (.collect p n) s = execCollect p n s := rfl
  rw [hc, execCollect, onIsl_up hs, if_pos h]

theorem exec_badTxn_known {code : Byte} (h : code = 0x53 ∨ code = 0x43) : exec (.badTxn p code) s = .next s := by
  have hc : exec (.badTxn p code) s = execBadTxn p code s := rfl
  rw [hc, execBadTxn, onIsl_up hs, if_pos h]

theorem exec_badTxn_other {code : Byte} (h : ¬(code = 0x53 ∨ code = 0x43)) :
    exec (.badTxn p code) s = .next (s.modHp p (fun h => { h with badTxn := satAdd 0xFF h.badTxn 1 })) := by
  have hc : exec (.badTxn p code) s = execBadTxn p code s := rfl
  rw [hc, execBadTxn, onIsl_up hs, if_neg h]

end Transactions

/-- R375: replies that the bytes clocked cover in full leave the queue; the first that they do not cover stays, with those after it. -/
theorem splitReplies_append {l r : List Reply} {n : Nat} (hl : (l.map (fun x => x.bytes.length)).sum ≤ n)
    (hr : ∀ x ∈ r.head?, n < (l.map (fun x => x.bytes.length)).sum + x.bytes.length) : splitReplies n (l ++ r) = (l, r) := by
  induction l generalizing n with
  | nil =>
    cases r with
    | nil => rfl
    | cons x r =>
      have hx : ¬ x.bytes.length ≤ n := by simpa using hr x rfl
      simp [splitReplies, hx]
  | cons y l ih =>
    simp only [List.map_cons, List.sum_cons] at hl hr
    have hy : y.bytes.length ≤ n := by omega
    have ihl := ih (n := n - y.bytes.length) (by omega) (fun x hx => by have := hr x hx; omega)
    simp [splitReplies, hy, ihl]

/-- A NOP changes the ports alone, admitted or not. -/
theorem admitReq_nop_portsOnly (p seq : Nat) (s : State) : PortsOnly s (admitReq p seq opNop 0 0 [] s) := by
  unfold admitReq
  dsimp only
  split
  · rfl
  · split
    · split <;> rfl
    · split
      · rfl
      · split <;> rfl

theorem up_of_portsOnly {s t : State} (h : PortsOnly s t) (i : Nat) : t.up i = s.up i := by
  rw [h]
  rfl

/-! ## The obligation O43 -/

/-- Settles O43: one whole frame at the front of a SUBMIT is taken and then what follows it, by induction on the bytes; a frame of R376
spells its request; and no operation that a request reaches touches the queue. -/
theorem transactionsCarryFrames : Obligations.TransactionsCarryFrames := by
  unfold Obligations.TransactionsCarryFrames
  intro p seq a s hs
  have hzero : (0 : Nat) < 2 ^ 24 := by decide
  have hone {op n a} (hop hn ha hd) := exec_submit_one hs p seq (op := op) (n := n) (a := a) (d := []) hop hn ha (.inr ⟨hd, rfl⟩)
  refine ⟨fun bs => ?_, fun bs u hu => ?_, fun bs hbs => ?_, fun b bs hb => ?_, fun bs => ?_, fun k => ?_, fun d hd => ?_, ?_, ?_, ?_, ?_,
    fun bs hbs => ?_, fun body c hlen hhead hop hc hbad => ?_, fun n hn => ?_, fun n l r hreplies hl hr => ?_, fun code => ⟨?_, ?_⟩⟩
  · exact ⟨_, exec_submit hs p bs, takeBytes_pending _ _ _ _⟩
  · exact onIsl_down hu
  · rw [exec_submit hs, takeBytes_noSync hbs]
  · rw [exec_submit hs, exec_submit hs, takeBytes_skip hb]
  · refine ⟨_, exec_nop hs p seq, ?_⟩
    have hu := (up_of_portsOnly (admitReq_nop_portsOnly p seq.toNat s) islHost).trans hs
    rw [exec_submit hu]
    exact exec_submit_reqFrame hs p seq (by decide) (by decide) hzero (.inr ⟨by decide, rfl⟩) bs
  · exact (hone (by decide) k.isLt a.isLt (by decide)).trans (onIsl_up hs).symm
  · exact (exec_submit_one hs p seq (by decide) hd a.isLt (.inl ⟨rfl, rfl⟩)).trans (onIsl_up hs).symm
  · exact (hone (by decide) (by decide) hzero (by decide)).trans (onIsl_up hs).symm
  · exact (hone (by decide) (by decide) a.isLt (by decide)).trans (onIsl_up hs).symm
  · exact (hone (by decide) (by decide) hzero (by decide)).trans (onIsl_up hs).symm
  · exact (hone (by decide) (by decide) hzero (by decide)).trans (onIsl_up hs).symm
  · rw [exec_submit hs, takeBytes_cut hbs]
    exact ⟨_, rfl, hostIs_modHp _ _ _, portsOnly_modHp _ _ _⟩
  · have hframe : (body ++ c).length = frameLen (body ++ c) := by
      rw [frameLen_append (by omega), frameLen_of_not_write hop, List.length_append, hlen, hc]
    have hsync : (body ++ c).head? = some 0xD5 := by rw [List.head?_append, hhead]; rfl
    have hbytes := takeBytes_frame hsync hframe p [] s
    rw [List.append_nil, takeBytes_nil, takeFrame_bad hc hbad] at hbytes
    rw [exec_submit hs, hbytes]
    exact ⟨_, rfl, hostIs_modHp _ _ _, portsOnly_modHp _ _ _⟩
  · exact exec_collect_short hs p hn
  · rw [exec_collect_header hs p (by omega)]
    refine ⟨_, rfl, ?_, portsOnly_modHp _ _ _⟩
    have hsplit := splitReplies_append (n := n - 8) (l := l) (r := r) (by omega) (fun x hx => by have := hr x hx; omega)
    have hcollected := hostIs_modHp s p (collected n)
    simpa only [collected, hreplies, hsplit] using hcollected
  · exact exec_badTxn_known hs p
  · intro h53 h43
    rw [exec_badTxn_other hs p (not_or.2 ⟨h53, h43⟩)]
    exact ⟨_, rfl, hostIs_modHp _ _ _, portsOnly_modHp _ _ _⟩

end Sys2Proof.Machine
end

section
/-! PROOF. Blocks, budgets and evictions (O47). What each of them does to its port is a function of the port alone (`Hp.granted`,
`Hp.loses`, `Hp.budgetChecked`); `blockGo_granted`, `loseBlocks_eq` and `checkBudget_eq` tie these to the model. A command is the write of
one host register, `rowWrite_hp`. -/

namespace Sys2Proof.Machine

open Sys2Proof.Cert

/-! ## Tables: an entry set twice, and a test over all entries -/

theorem tset_tset {α : Type} (t : Tab α) (k : Nat) (v w : α) : tset (tset t k v) k w = tset t k w := by
  induction t with
  | nil => simp [tset]
  | cons e t ih =>
    obtain ⟨j, x⟩ := e
    rcases Nat.lt_trichotomy k j with h | rfl | h
    · simp [tset, h]
    · simp [tset]
    · simp [tset, Nat.not_lt_of_gt h, Nat.ne_of_gt h, ih]

theorem mem_tset_self {α : Type} (t : Tab α) (k : Nat) (v : α) : (k, v) ∈ tset t k v := by
  induction t with
  | nil => simp [tset]
  | cons e t ih =>
    obtain ⟨j, x⟩ := e
    rcases Nat.lt_trichotomy k j with h | rfl | h
    · simp [tset, h]
    · simp [tset]
    · simp [tset, Nat.not_lt_of_gt h, Nat.ne_of_gt h, ih]

/-- A test that the new entry meets exactly if the old one did, and an unlisted one does not, has the same answer over the table. -/
theorem any_tset {α : Type} {P : α → Bool} {d : α} (hd : P d = false) (t : Tab α) (k : Nat) {v : α} (hv : P v = P (tget d t k)) :
    (tset t k v).any (fun e => P e.2) = t.any (fun e => P e.2) := by
  induction t with
  | nil => simp [tset, hv, tget, hd]
  | cons e t ih =>
    obtain ⟨j, x⟩ := e
    rcases Nat.lt_trichotomy k j with h | rfl | h
    · have hold : P (tget d ((j, x) :: t) k) = true → ((j, x) :: t).any (fun e => P e.2) = true := by
        intro hp
        rcases tget_mem d ((j, x) :: t) k with he | he
        · rw [he, hd] at hp; cases hp
        · exact List.any_eq_true.2 ⟨_, he, hp⟩
      simp only [tset, h, if_true]
      rw [List.any_cons, hv, Bool.or_eq_right_iff_imp.2 hold]
    · simp [tset, hv, tget]
    · have hne : j ≠ k := Nat.ne_of_lt h
      rw [tget, if_neg hne] at hv
      simp [tset, Nat.not_lt_of_gt h, hne.symm, ih hv]

theorem State.modHp_modHp (s : State) (p : Nat) (f g : Hp → Hp) : (s.modHp p f).modHp p g = s.modHp p (fun h => g (f h)) := by
  have h := State.getHp_modHp s p f
  simp only [State.modHp] at h ⊢
  rw [h, tset_tset]

/-! ## Words of a register -/

theorem bit_or (a b : Word) (i : Nat) : bit (a ||| b) i = (bit a i || bit b i) := BitVec.getLsbD_or

theorem bit_two_pow {b : Nat} (h : b < 32) : bit (BitVec.ofNat 32 (2 ^ b)) b = true := by
  rw [bit, BitVec.getLsbD_ofNat, Nat.testBit_two_pow_self, Bool.and_true, decide_eq_true h]

/-- The bit that starts a command. -/
theorem bit_goBit_or (w : Word) : bit (goBit ||| w) 31 = true := by
  rw [bit_or, show bit goBit 31 = true from by decide, Bool.true_or]

/-- The lowest bits of a word that starts a command. -/
theorem bits_goBit_or (w : Word) {hi : Nat} (h : hi < 31) : bits (goBit ||| w) hi 0 = w.toNat % 2 ^ (hi + 1) := by
  have hgo : goBit.toNat % 2 ^ (hi + 1) = 0 := Nat.mod_eq_zero_of_dvd (Nat.pow_dvd_pow 2 (show hi + 1 ≤ 31 by omega))
  simp only [bits, BitVec.toNat_or, Nat.pow_zero, Nat.div_one, Nat.sub_zero, Nat.or_mod_two_pow, hgo, Nat.zero_or]

/-! ## The write of a host register (R389, R402) -/

theorem place_hp {off : Nat} (h : off < 0xF800) : place (0x1F0800 + off) = .hp off := by
  unfold place
  simp (disch := omega) only [if_neg, if_pos, Nat.add_sub_cancel_left]

theorem drainTo_none {s : State} {p t : Nat} (h : ∀ w ∈ s.host.posted, w.host = p → w.island ≠ t) : drainTo p t s = s := by
  have hnone : s.host.posted.filter (fun w => w.host == p && w.island == t) = [] := by
    simpa [List.filter_eq_nil_iff] using h
  simp [drainTo, hnone]

/-- R384: a write that the checks refuse has no effect, with no word of the port before it. -/
theorem rowWrite_refused {s : State} {p a : Nat} {v : Word} (hnone : NonePosted s p (place a).target)
    (hno : s.canWrite p a v = false) : rowWrite p a v s = .next s := by
  simp [rowWrite, onIsl, portWrite, drainTo_none hnone, hno]

theorem absentHalf_hp (off : Nat) : absentHalf (0x1F0800 + off) = false := by
  simp only [absentHalf, Bool.or_eq_false_iff, Bool.and_eq_false_iff, decide_eq_false_iff_not]
  omega

/-- R384, R402: of the checks of a write, a host register makes those of the role and of the value. -/
theorem canWrite_hp (s : State) (p : Nat) {off : Nat} (v : Word) (hoff : off < 0xF800) (halign : off % 4 = 0) :
    s.canWrite p (0x1F0800 + off) v =
      (decide (wrNeed (.hp off) v ≤ (s.getRolePort p).role) && !s.valueBad (.hp off) v && s.up islHost) := by
  have ha : (0x1F0800 + off) % 4 = 0 := by omega
  have htgt : (Place.hp off).target = islHost := rfl
  have hup : s.tgtUp islHost = s.up islHost := rfl
  have hne : (islHost == islSteward) = false := rfl
  have hcause : (s.cause3 p true (0x1F0800 + off) v == 0) = decide (wrNeed (.hp off) v ≤ (s.getRolePort p).role) := by
    simp only [State.cause3, place_hp hoff, absentHalf_hp, Bool.and_false, State.denied, Bool.or_false]
    by_cases h : wrNeed (.hp off) v ≤ (s.getRolePort p).role <;> simp [h]
  have hcause4 : s.cause4 p (0x1F0800 + off) = 0 := by simp only [State.cause4, place_hp hoff]
  simp only [State.canWrite, State.mayWrite, ha, hcause, hcause4, place_hp hoff, htgt, hup, hne, Bool.and_false, Bool.not_false,
    beq_self_eq_true, Bool.true_and, Bool.and_true]

/-- R389, R402: a write of a host register that its role and its value allow, and that leaves an entry of its own or needs no audit,
is what `hpWrite` says. -/
theorem rowWrite_hp {s : State} {p role off : Nat} {v : Word} (hact : MayAct s p role islHost) (hoff : off < 0xF800)
    (halign : off % 4 = 0) (hneed : wrNeed (.hp off) v ≤ role) (hval : s.valueBad (.hp off) v = false)
    (hown : ∀ r, (decide (wrNeed (.hp off) v ≥ 2) && !(regWrite r p (.hp off) v s).1) = false) :
    rowWrite p (0x1F0800 + off) v s = .next (wordDone p (hpWrite (s.getRolePort p).role p off v s)) := by
  obtain ⟨hup, -, -, hrole, hnone⟩ := hact
  have hcan : s.canWrite p (0x1F0800 + off) v = true := by
    rw [canWrite_hp s p v hoff halign, hval, hup, decide_eq_true (hneed.trans hrole)]
    rfl
  have hdrain : drainTo p (place (0x1F0800 + off)).target s = s := by
    rw [place_hp hoff]
    exact drainTo_none hnone
  have hwrite : writeWord (s.getRolePort p).role p (0x1F0800 + off) v s = hpWrite (s.getRolePort p).role p off v s := by
    simp only [writeWord, place_hp hoff, hown, whenDo_false]
    rfl
  simp [rowWrite, onIsl_up hup, portWrite, hdrain, hcan, hostWrite, hwrite]

/-! ## The budget check, the end of a capture and the loss of blocks, as changes of one port -/

theorem State.modHp_congr {s : State} {p : Nat} {f g : Hp → Hp} (h : f (s.getHp p) = g (s.getHp p)) : s.modHp p f = s.modHp p g := by
  simp only [State.modHp, h]

/-- R392: a source set in the port. -/
def Hp.irq (b : Nat) (h : Hp) : Hp := { h with intStat := h.intStat ||| BitVec.ofNat 32 (2 ^ b) }

theorem irqPort_eq (b p : Nat) (s : State) : irqPort b p s = s.modHp p (Hp.irq b) := rfl

/-- R397: the port once OVER has been looked at: source BUDGET is set when it becomes 1. -/
def Hp.budgetChecked (h : Hp) : Hp :=
  { h with
    overBudget := decide (h.budget < h.held.length)
    intStat := if h.budget < h.held.length ∧ h.overBudget = false then h.intStat ||| BitVec.ofNat 32 (2 ^ irqBudget) else h.intStat }

theorem checkBudget_eq (p : Nat) (s : State) : checkBudget p s = s.modHp p Hp.budgetChecked := by
  simp only [checkBudget, State.overBudget]
  by_cases hnew : (s.getHp p).budget < (s.getHp p).held.length ∧ (s.getHp p).overBudget = false
  · simp only [decide_eq_true hnew.1, hnew.2, Bool.not_false, Bool.and_self, whenDo_true, irqPort_eq, State.modHp_modHp]
    exact State.modHp_congr (by simp [Hp.irq, Hp.budgetChecked, hnew])
  · have hno : (decide ((s.getHp p).budget < (s.getHp p).held.length) && !(s.getHp p).overBudget) = false := by simpa using hnew
    simp only [gt_iff_lt, hno, whenDo_false]
    exact State.modHp_congr (by simp [Hp.budgetChecked, hnew])

/-- R397: within the budget, source BUDGET is not set. -/
theorem Hp.budgetChecked_within {h : Hp} (hw : h.held.length ≤ h.budget) : h.budgetChecked = { h with overBudget := false } := by
  simp [Hp.budgetChecked, Nat.not_lt_of_ge hw]

/-- R397: beyond the budget for the first time, it is. -/
theorem Hp.bit_budgetChecked_over {h : Hp} (hover : h.budget < h.held.length) (hwas : h.overBudget = false) :
    bit h.budgetChecked.intStat irqBudget = true := by
  simp only [Hp.budgetChecked, hover, hwas, and_self, if_true, bit_or, bit_two_pow (show irqBudget < 32 by decide), Bool.or_true]

/-- R392: no source is cleared. -/
theorem Hp.bit_budgetChecked {h : Hp} {i : Nat} (hb : bit h.intStat i = true) : bit h.budgetChecked.intStat i = true := by
  simp only [Hp.budgetChecked]
  split <;> simp [bit_or, hb]

/-- R395: the port's capture has ended. -/
def Hp.capEnded (code : Nat) (h : Hp) : Hp :=
  { h with cap := { h.cap with busy := false, ended := code, queue := [] }, intStat := h.intStat ||| BitVec.ofNat 32 (2 ^ irqCapture) }

theorem capEnd_busy {p : Nat} {s : State} (hb : (s.getHp p).cap.busy = true) (code : Nat) :
    capEnd code p s = s.modHp p (Hp.capEnded code) := by
  simp only [capEnd, hb, if_true, irqPort_eq, State.modHp_modHp]
  rfl

/-- R395: the port's running capture uses one of the blocks `l` that the port holds. -/
def Hp.capIn (l : List Nat) (h : Hp) : Bool :=
  l.any (fun b => h.held.contains b && (h.cap.busy && decide (h.cap.runFirst ≤ b) && decide (b ≤ h.cap.runFirst + h.cap.runBlocks)))

theorem Hp.busy_of_capIn {l : List Nat} {h : Hp} (hc : h.capIn l = true) : h.cap.busy = true := by
  obtain ⟨b, -, hb⟩ := List.any_eq_true.1 hc
  simp only [Bool.and_eq_true] at hb
  exact hb.2.1.1

/-- R394, R398: the port without the blocks `l`; a capture that uses one of them has ended with `code`. -/
def Hp.loses (code : Nat) (l : List Nat) (h : Hp) : Hp :=
  { (if h.capIn l then h.capEnded code else h) with held := h.held.filter (fun b => !l.contains b) }

theorem loseBlocks_eq (code p : Nat) (l : List Nat) (s : State) :
    loseBlocks code p l s = (galSettle 2 (s.modHp p (Hp.loses code l))).modHp p Hp.budgetChecked := by
  have hcap : (l.any (fun b => (s.getHp p).held.contains b && s.capUses p b)) = (s.getHp p).capIn l := rfl
  simp only [loseBlocks, checkBudget_eq, hcap]
  congr 2
  cases hc : (s.getHp p).capIn l
  · exact State.modHp_congr (by simp [Hp.loses, hc])
  · rw [whenDo_true, capEnd_busy (Hp.busy_of_capIn hc), State.modHp_modHp]
    exact State.modHp_congr (by simp [Hp.loses, hc, Hp.capEnded])

section Loses

variable (code : Nat) (l : List Nat) (h : Hp)

@[simp] theorem Hp.loses_held : (h.loses code l).held = h.held.filter (fun b => !l.contains b) := rfl

@[simp] theorem Hp.loses_budget : (h.loses code l).budget = h.budget := by unfold Hp.loses; split <;> rfl

variable {code l h}

theorem Hp.loses_cap_idle (hb : h.cap.busy = false) : (h.loses code l).cap = h.cap := by
  have hc : h.capIn l = false := by
    cases hc : h.capIn l
    · rfl
    · rw [Hp.busy_of_capIn hc] at hb; cases hb
  simp [Hp.loses, hc]

theorem Hp.loses_cap_used (hc : h.capIn l = true) : (h.loses code l).cap = { h.cap with busy := false, ended := code, queue := [] } ∧
    bit (h.loses code l).intStat irqCapture = true := by
  have hbit := bit_two_pow (show irqCapture < 32 by decide)
  simp only [Hp.loses, hc, if_true, Hp.capEnded, bit_or, hbit, Bool.or_true, and_self]

/-- R392: no source is cleared. -/
theorem Hp.bit_loses {i : Nat} (hb : bit h.intStat i = true) : bit (h.loses code l).intStat i = true := by
  simp only [Hp.loses]
  split <;> simp [Hp.capEnded, bit_or, hb]

end Loses

/-! ## What a loss of blocks leaves of the state -/

@[simp] theorem getHp_galSettle (g p : Nat) (s : State) : (galSettle g s).getHp p = s.getHp p := rfl

@[simp] theorem getGal_galSettle (g : Nat) (s : State) : (galSettle g s).getGal g = galFollow (s.galDemand g) (s.getGal g) :=
  State.getGal_modGal _ _ _

theorem getGal_galSettle_ne {g j : Nat} (h : j ≠ g) (s : State) : (galSettle g s).getGal j = s.getGal j :=
  State.getGal_modGal_ne _ _ _ _ h

section LoseBlocks

variable (code p : Nat) (l : List Nat) (s : State)

theorem getHp_loseBlocks : (loseBlocks code p l s).getHp p = ((s.getHp p).loses code l).budgetChecked := by
  simp [loseBlocks_eq]

theorem getHp_loseBlocks_ne {q : Nat} (h : q ≠ p) : (loseBlocks code p l s).getHp q = s.getHp q := by
  rw [loseBlocks_eq, State.getHp_modHp_ne _ _ _ _ h, getHp_galSettle, State.getHp_modHp_ne _ _ _ _ h]

theorem getGal_loseBlocks {g : Nat} (h : g ≠ 2) : (loseBlocks code p l s).getGal g = s.getGal g := by
  rw [loseBlocks_eq]
  exact getGal_galSettle_ne h (s.modHp p (Hp.loses code l))

/-- R394, R398: the ports' registers and the galleries alone change. -/
theorem loseBlocks_frame : ∃ hp gal, loseBlocks code p l s = { s with host := { s.host with hp := hp }, gal := gal } :=
  ⟨_, _, loseBlocks_eq code p l s⟩

end LoseBlocks

/-! ## Requests for blocks (R394) -/

/-- The free blocks are those that no port holds. -/
theorem freeBlocks_modHp {s : State} {p : Nat} {f : Hp → Hp} (hf : (f (s.getHp p)).held = (s.getHp p).held) :
    (s.modHp p f).freeBlocks = s.freeBlocks := by
  have hany (b : Nat) : (s.modHp p f).host.hp.any (fun e => e.2.held.contains b) = s.host.hp.any (fun e => e.2.held.contains b) :=
    any_tset (P := fun h : Hp => h.held.contains b) (d := {}) rfl s.host.hp p (congrArg (·.contains b) hf)
  simp only [State.freeBlocks, hany]

section BlockGo

variable {s : State} {p n : Nat}

theorem blockGo_count (h : n = 0 ∨ 256 < n) : blockGo p n s = s.modHp p (fun h => { h with blkResult := 3 }) := by
  simp only [blockGo, gt_iff_lt, h, if_true]

theorem blockGo_beyondBudget (h1 : 1 ≤ n) (h2 : n ≤ 256) (h : (s.getHp p).budget < (s.getHp p).held.length + n) :
    blockGo p n s = s.modHp p (fun h => { h with blkResult := 1 }) := by
  have hn : ¬(n = 0 ∨ n > 256) := by omega
  simp only [blockGo, hn, if_false, gt_iff_lt, h, if_true]

theorem blockGo_noneFree (h1 : 1 ≤ n) (h2 : n ≤ 256) (hb : (s.getHp p).held.length + n ≤ (s.getHp p).budget)
    (h : s.freeBlocks.length < n) : blockGo p n s = s.modHp p (fun h => { h with blkResult := 2 }) := by
  have hn : ¬(n = 0 ∨ n > 256) := by omega
  simp only [blockGo, hn, if_false, gt_iff_lt, Nat.not_lt_of_ge hb, h, if_true]

/-- The port with the blocks `got` added to those it holds. -/
def Hp.granted (got : List Nat) (h : Hp) : Hp :=
  { h with blkResult := 0, held := sortBy (fun a b => decide (a ≤ b)) (h.held ++ got) }

/-- R394: the blocks `got` are cleared. -/
def Gal.blocksCleared (got : List Nat) (g : Gal) : Gal :=
  { g with
    mem := got.foldl (fun m b => mclear m (0x10000 * b) 0x10000) g.mem
    bad := g.bad.filter (fun a => !got.contains (a / 0x10000)) }

theorem blockGo_granted (h1 : 1 ≤ n) (h2 : n ≤ 256) (hb : (s.getHp p).held.length + n ≤ (s.getHp p).budget)
    (h : n ≤ s.freeBlocks.length) : blockGo p n s =
      (galSettle 2 ((s.modHp p (Hp.granted (s.freeBlocks.take n))).modGal 2 (Gal.blocksCleared (s.freeBlocks.take n)))).modHp p
        Hp.budgetChecked := by
  have hn : ¬(n = 0 ∨ n > 256) := by omega
  simp only [blockGo, hn, if_false, gt_iff_lt, Nat.not_lt_of_ge hb, Nat.not_lt_of_ge h, checkBudget_eq, State.modHp_modHp]
  rfl

end BlockGo

theorem mget_blocksCleared (d : Byte) (got : List Nat) (m : Mem) (a : Nat) :
    mget d (got.foldl (fun m b => mclear m (0x10000 * b) 0x10000) m) a = if a / 65536 ∈ got then d else mget d m a := by
  induction got generalizing m with
  | nil => simp
  | cons b got ih =>
    have hb : (65536 * b ≤ a ∧ a < 65536 * b + 65536) ↔ a / 65536 = b := by omega
    rw [List.foldl_cons, ih, mget_mclear]
    simp only [hb, List.mem_cons]
    by_cases h : a / 65536 ∈ got
    · simp [h]
    · simp [h]

/-- R359, R360: a gallery that keeps its contents goes on keeping them while it is not to be OFF. -/
theorem galFollow_mem {x : Gal} {d : GalPower} (hx : galKept x.power = true) (hd : galKept d = true) : (galFollow d x).mem = x.mem := by
  unfold galFollow
  split
  · rfl
  · simp_all [galKept]
  · simp_all [galKept]
  · cases hd
  · split <;> rfl
  · rfl

/-- R357, R360: while a port holds a block, G2 is to keep its contents. -/
theorem galDemand_two_kept {s : State} (h : s.host.hp.any (fun e => !e.2.held.isEmpty) = true) : galKept (s.galDemand 2) = true := by
  have howner : s.galOwner 2 = true := h
  simp only [State.galDemand, howner, if_true]
  split <;> rfl

theorem length_held_granted {s : State} {n : Nat} (h : n ≤ s.freeBlocks.length) (x : Hp) :
    (x.granted (s.freeBlocks.take n)).held.length = x.held.length + n := by
  simp [Hp.granted, h]

section Granted

variable {s : State} {p n : Nat} (h1 : 1 ≤ n) (h2 : n ≤ 256) (hb : (s.getHp p).held.length + n ≤ (s.getHp p).budget)
  (h : n ≤ s.freeBlocks.length)
include h1 h2 hb h

theorem getHp_blockGo :
    (blockGo p n s).getHp p = { (s.getHp p).granted (s.freeBlocks.take n) with overBudget := false } := by
  have hlen := length_held_granted h (s.getHp p)
  rw [blockGo_granted h1 h2 hb h, State.getHp_modHp, getHp_galSettle]
  have hhp : ((s.modHp p (Hp.granted (s.freeBlocks.take n))).modGal 2 (Gal.blocksCleared (s.freeBlocks.take n))).getHp p =
      (s.getHp p).granted (s.freeBlocks.take n) := State.getHp_modHp _ _ _
  rw [hhp]
  exact Hp.budgetChecked_within (hlen ▸ hb)

theorem getHp_blockGo_ne {q : Nat} (hq : q ≠ p) : (blockGo p n s).getHp q = s.getHp q := by
  rw [blockGo_granted h1 h2 hb h, State.getHp_modHp_ne _ _ _ _ hq]
  exact State.getHp_modHp_ne _ _ _ _ hq

theorem getGal_blockGo_ne {g : Nat} (hg : g ≠ 2) : (blockGo p n s).getGal g = s.getGal g := by
  rw [blockGo_granted h1 h2 hb h]
  exact (getGal_galSettle_ne hg _).trans (State.getGal_modGal_ne _ _ _ _ hg)

/-- R394: the ports' registers and the galleries alone change. -/
theorem blockGo_frame : ∃ hp gal, blockGo p n s = { s with host := { s.host with hp := hp }, gal := gal } :=
  ⟨_, _, blockGo_granted h1 h2 hb h⟩

/-- R394: granted blocks read 0, and nothing else in G2 is touched: it holds a block now, so it keeps its contents. -/
theorem galByte_blockGo (hk : galKept (s.getGal 2).power = true) (a : Nat) :
    galByte (blockGo p n s) 2 a = if a / 65536 ∈ s.freeBlocks.take n then 0 else galByte s 2 a := by
  have hlen := length_held_granted h (s.getHp p)
  obtain ⟨u, hu⟩ : ∃ u, u = (s.modHp p (Hp.granted (s.freeBlocks.take n))).modGal 2 (Gal.blocksCleared (s.freeBlocks.take n)) := ⟨_, rfl⟩
  have hheld : u.host.hp.any (fun e => !e.2.held.isEmpty) = true := by
    refine List.any_eq_true.2 ⟨(p, (s.getHp p).granted (s.freeBlocks.take n)), hu ▸ mem_tset_self s.host.hp p _, ?_⟩
    have hne : ((s.getHp p).granted (s.freeBlocks.take n)).held ≠ [] := List.ne_nil_of_length_pos (by omega)
    simpa using hne
  have hgal : u.getGal 2 = (s.getGal 2).blocksCleared (s.freeBlocks.take n) := by
    rw [hu, State.getGal_modGal]
    rfl
  have hmem : ((blockGo p n s).getGal 2).mem = ((s.getGal 2).blocksCleared (s.freeBlocks.take n)).mem := by
    rw [blockGo_granted h1 h2 hb h, ← hu, ← hgal]
    exact (congrArg Gal.mem (getGal_galSettle 2 u)).trans (galFollow_mem (by rwa [hgal]) (galDemand_two_kept hheld))
  rw [galByte, hmem]
  exact mget_blocksCleared _ _ _ _

end Granted

/-! ## The commands -/

theorem exec_blockRequest {s : State} {p : Fin 4} (hact : MayAct s p 1 islHost) (n : BitVec 9) :
    exec (.blockRequest p n) s =
      .next (wordDone p (blockGo p n.toNat (s.modHp p (fun h => { h with blkCount := n.toNat })))) := by
  have hn : bits (goBit ||| n.setWidth 32) 8 0 = n.toNat := by
    rw [bits_goBit_or _ (by decide), BitVec.toNat_setWidth]
    have := n.isLt
    omega
  refine (rowWrite_hp (off := 0x20) (v := goBit ||| n.setWidth 32) hact (by decide) rfl (Nat.le_refl 1) rfl (fun _ => rfl)).trans ?_
  simp only [hpWrite, hn, bit_goBit_or, whenDo_true]

theorem exec_blockRelease {s : State} {p : Fin 4} (hact : MayAct s p 1 islHost) (w : Fin 8) (mask : Word) :
    exec (.blockRelease p w mask) s = .next (wordDone p (releaseBlocks p w mask s)) := by
  have haddr : 0x1F0840 + 4 * w.val = 0x1F0800 + (0x40 + 4 * w.val) := by omega
  have hw : w.val < 8 := w.isLt
  have hwrite (role : Nat) : hpWrite role p (0x40 + 4 * w.val) mask s = releaseBlocks p w mask s := by fin_cases w <;> rfl
  have hneed : wrNeed (.hp (0x40 + 4 * w.val)) mask = 1 := by fin_cases w <;> rfl
  have hval : s.valueBad (.hp (0x40 + 4 * w.val)) mask = false := by fin_cases w <;> rfl
  have hexec : exec (.blockRelease p w mask) s = rowWrite p (0x1F0840 + 4 * w.val) mask s := rfl
  rw [hexec, haddr, rowWrite_hp hact (by omega) (by omega) hneed.le hval (fun r => by rw [hneed]; rfl), hwrite]

section BudgetWrite

variable {s : State} {p : Fin 4} (q : Fin 4) (v : Word)

theorem exec_budgetWrite_eq : exec (.budgetWrite p q v) s = rowWrite p (0x1F0800 + (0x80 + 4 * q.val)) v s := by
  have haddr : 0x1F0800 + (0x80 + 4 * q.val) = 0x1F0880 + 4 * q.val := by omega
  rw [haddr]
  rfl

theorem valueBad_budget : s.valueBad (.hp (0x80 + 4 * q.val)) v = s.budgetBad q v := by fin_cases q <;> rfl

theorem exec_budgetWrite_refused (hnone : NonePosted s p islHost) (hbad : s.budgetBad q v = true) :
    exec (.budgetWrite p q v) s = .next s := by
  have hq := q.isLt
  have hoff : 0x80 + 4 * q.val < 0xF800 := by omega
  rw [exec_budgetWrite_eq]
  refine rowWrite_refused (by rwa [place_hp hoff]) ?_
  rw [canWrite_hp s p v hoff (by omega), valueBad_budget, hbad]
  simp

theorem exec_budgetWrite (hact : MayAct s p 3 islHost) (hgood : s.budgetBad q v = false) :
    exec (.budgetWrite p q v) s = .next (wordDone p (budgetSet (s.getRolePort p).role p q v s)) := by
  have hq := q.isLt
  have hneed : wrNeed (.hp (0x80 + 4 * q.val)) v = 3 := by fin_cases q <;> rfl
  have hown (r : Nat) : (regWrite r p (.hp (0x80 + 4 * q.val)) v s).1 = true := by fin_cases q <;> rfl
  have hwrite (role : Nat) : hpWrite role p (0x80 + 4 * q.val) v s = if s.budgetBad q v then s else budgetSet role p q v s := by
    fin_cases q <;> rfl
  rw [exec_budgetWrite_eq, rowWrite_hp hact (by omega) (by omega) hneed.le (by rw [valueBad_budget, hgood])
    (fun r => by rw [hown, Bool.not_true, Bool.and_false]), hwrite, hgood]
  rfl

end BudgetWrite

section Evict

variable {s : State} {p : Fin 4} (q : Fin 4)

theorem exec_evict_eq : exec (.evict p q) s = rowWrite p (0x1F0800 + 0x90) (goBit ||| packW [(q.val, 0)]) s := rfl

/-- R398: only a maker evicts. -/
theorem exec_evict_refused (hnone : NonePosted s p islHost) (hrole : (s.getRolePort p).role < 3) : exec (.evict p q) s = .next s := by
  rw [exec_evict_eq]
  refine rowWrite_refused hnone ?_
  have hneed : wrNeed (.hp 0x90) (goBit ||| packW [(q.val, 0)]) = 3 := rfl
  rw [canWrite_hp s p _ (by decide) rfl, hneed, decide_eq_false (Nat.not_le_of_gt hrole)]
  simp

theorem exec_evict (hact : MayAct s p 3 islHost) : exec (.evict p q) s =
    .next (wordDone p (evictPort (s.getRolePort p).role p q (s.modHostIsl (fun i => { i with evictPort := q })))) := by
  have hq : bits (goBit ||| packW [(q.val, 0)]) 1 0 = q := by fin_cases q <;> rfl
  have hneed : wrNeed (.hp 0x90) (goBit ||| packW [(q.val, 0)]) = 3 := rfl
  have hown (r : Nat) : (regWrite r p (.hp 0x90) (goBit ||| packW [(q.val, 0)]) s).1 = true := by simp [regWrite, bit_goBit_or]
  rw [exec_evict_eq, rowWrite_hp hact (by decide) rfl hneed.le rfl (fun r => by rw [hown, Bool.not_true, Bool.and_false])]
  simp only [hpWrite, hq, bit_goBit_or, whenDo_true]

end Evict

/-! ## Budgets and the audit records (R397, R398, R416) -/

theorem sendEnt_eq (src : Nat) (e : LogEnt) (s : State) : sendEnt src e s = { s with log := (sendEnt src e s).log } := by
  simp only [sendEnt]
  repeat' split
  all_goals rfl

theorem raiseAudit_eq (c : LogCode) (i : Nat) (l : List (Nat × Nat)) (s : State) :
    raiseAudit c i l s =
      { s with role := { s.role with audit := (s.role.audit + 1) % 2 ^ 32 }, log := (raiseAudit c i l s).log } := by
  simp only [raiseAudit, raise, raiseAt, raiseSev]
  rw [sendEnt_eq]
  rfl

/-- R416, R468: an audit record that is always logged stands in its channel, with its number as the last value. -/
theorem logged_raiseAudit {c : LogCode} (hc : c.info.2.2 = true) (i : Nat) (l : List (Nat × Nat)) (s : State) :
    Logged (ent c s.now i (l ++ [(4, s.role.audit)]) s) (raiseAudit c i l s) :=
  sendEnt_logged _ _ s (.inl hc)

theorem logged_congr {e : LogEnt} {t u : State} (h : t.log = u.log) (hu : Logged e u) : Logged e t := by
  simpa only [Logged, State.getLogSrc, h] using hu

@[simp] theorem getHp_raiseAudit (c : LogCode) (i : Nat) (l : List (Nat × Nat)) (p : Nat) (s : State) :
    (raiseAudit c i l s).getHp p = s.getHp p := by simp [State.getHp]

@[simp] theorem getGal_raiseAudit (c : LogCode) (i : Nat) (l : List (Nat × Nat)) (g : Nat) (s : State) :
    (raiseAudit c i l s).getGal g = s.getGal g := by simp [State.getGal]

/-- What the other ports have of a total, and the port's own part. -/
theorem others_add (q : Fin 4) (f : Nat → Nat) :
    (([0, 1, 2, 3].filter (fun r => r != q.val)).map f).foldl (· + ·) 0 + f q = f 0 + f 1 + f 2 + f 3 := by
  fin_cases q <;> simp <;> omega

/-- R397: a value is refused exactly if it takes the total of the blocks or of the shares above 256. -/
theorem budgetBad_iff (s : State) (q : Fin 4) (v : Word) : s.budgetBad q v = true ↔
    256 + (s.getHp q).budget < (s.getHp 0).budget + (s.getHp 1).budget + (s.getHp 2).budget + (s.getHp 3).budget + bits v 17 9 ∨
    256 + (s.getHp q).share < (s.getHp 0).share + (s.getHp 1).share + (s.getHp 2).share + (s.getHp 3).share + bits v 8 0 := by
  have hb := others_add q (fun r => (s.getHp r).budget)
  have hs := others_add q (fun r => (s.getHp r).share)
  simp only [State.budgetBad, Bool.or_eq_true, decide_eq_true_eq]
  omega

/-- R397: the port with the budget and the share of a word. -/
def Hp.budgetTaken (v : Word) (h : Hp) : Hp := { h with budget := bits v 17 9, share := bits v 8 0 }

theorem budgetWord_congr {s t : State} {p : Nat} (hheld : (t.getHp p).held = (s.getHp p).held)
    (hbudget : (t.getHp p).budget = (s.getHp p).budget) (hshare : (t.getHp p).share = (s.getHp p).share) :
    t.budgetWord p = s.budgetWord p := by
  simp only [State.budgetWord, State.overBudget, hheld, hbudget, hshare]

section BudgetSet

variable (role host p : Nat) (v : Word) (s : State)

theorem getHp_budgetSet : (budgetSet role host p v s).getHp p = ((s.getHp p).budgetTaken v).budgetChecked := by
  simp [budgetSet, checkBudget_eq, Hp.budgetTaken]

theorem getHp_budgetSet_ne {q : Nat} (h : q ≠ p) : (budgetSet role host p v s).getHp q = s.getHp q := by
  simp only [budgetSet, checkBudget_eq]
  rw [State.getHp_modHp_ne _ _ _ _ h, getHp_raiseAudit, State.getHp_modHp_ne _ _ _ _ h]

/-- R397: the record has the old word and the new one. -/
theorem logged_budgetSet : Logged (ent .hostBudget s.now p [(1, role), (1, host), (4, (s.budgetWord p).toNat),
    (4, ((budgetSet role host p v s).budgetWord p).toNat), (4, s.role.audit)] s) (budgetSet role host p v s) := by
  have hword : (budgetSet role host p v s).budgetWord p = (s.modHp p (Hp.budgetTaken v)).budgetWord p := by
    apply budgetWord_congr <;> rw [getHp_budgetSet, State.getHp_modHp] <;> rfl
  rw [hword]
  have hlog := logged_raiseAudit (c := .hostBudget) rfl p [(1, role), (1, host), (4, (s.budgetWord p).toNat),
    (4, ((s.modHp p (Hp.budgetTaken v)).budgetWord p).toNat)] (s.modHp p (Hp.budgetTaken v))
  refine logged_congr ?_ hlog
  simp only [budgetSet, checkBudget_eq]
  rfl

theorem budgetSet_frame : ∃ hp log, budgetSet role host p v s = { s with
    host := { s.host with hp := hp }, role := { s.role with audit := (s.role.audit + 1) % 2 ^ 32 }, log := log } := by
  simp only [budgetSet, checkBudget_eq]
  rw [raiseAudit_eq]
  exact ⟨_, _, rfl⟩

end BudgetSet

/-! ## Evictions (R398) -/

/-- What is left of a list without repetitions when all from the n-th element on goes. -/
theorem filter_not_mem_drop {l : List Nat} (h : l.Nodup) (n : Nat) : l.filter (fun b => !(l.drop n).contains b) = l.take n := by
  have hdisj : ∀ b ∈ l.take n, b ∉ l.drop n := by
    rw [← List.take_append_drop n l, List.nodup_append'] at h
    exact fun b hb hd => h.2.2 hb hd
  have htake : (l.take n).filter (fun b => !(l.drop n).contains b) = l.take n :=
    List.filter_eq_self.2 (by simpa using hdisj)
  have hdrop : (l.drop n).filter (fun b => !(l.drop n).contains b) = [] := by simp
  calc l.filter (fun b => !(l.drop n).contains b)
      = (l.take n ++ l.drop n).filter (fun b => !(l.drop n).contains b) := by rw [List.take_append_drop]
    _ = l.take n := by rw [List.filter_append, htake, hdrop, List.append_nil]

/-- What goes from an ascending list lies above all that stays. -/
theorem lt_of_not_mem_take {l : List Nat} (h : l.Pairwise (fun a b => a < b)) {n b c : Nat} (hb : b ∈ l) (hgone : b ∉ l.take n)
    (hc : c ∈ l.take n) : c < b := by
  rw [← List.take_append_drop n l] at h hb
  have hdrop : b ∈ l.drop n := (List.mem_append.1 hb).resolve_left hgone
  exact (List.pairwise_append.1 h).2.2 c hc b hdrop

/-- R398: the blocks of the port beyond its budget. -/
def Hp.beyond (h : Hp) : List Nat := h.held.drop h.budget

/-- R398: the port without the blocks beyond its budget; source BUDGET tells it of them. -/
def Hp.evicted (h : Hp) : Hp := ((if h.beyond.isEmpty then h else h.irq irqBudget).loses 3 h.beyond).budgetChecked

theorem Hp.evicted_held {h : Hp} (hn : h.held.Nodup) : h.evicted.held = h.held.take h.budget := by
  have hheld : h.evicted.held = h.held.filter (fun b => !h.beyond.contains b) := by
    simp only [Hp.evicted, Hp.budgetChecked, Hp.loses_held]
    split <;> rfl
  rw [hheld]
  exact filter_not_mem_drop hn h.budget

theorem Hp.evicted_budget (h : Hp) : h.evicted.budget = h.budget := by
  simp only [Hp.evicted, Hp.budgetChecked, Hp.loses_budget]
  split <;> rfl

theorem Hp.bit_evicted {h : Hp} (hb : h.budget < h.held.length) : bit h.evicted.intStat irqBudget = true := by
  have hne : h.beyond.isEmpty = false := by
    rw [List.isEmpty_eq_false_iff, Hp.beyond, ne_eq, List.drop_eq_nil_iff]
    exact Nat.not_le_of_gt hb
  rw [Hp.evicted, hne]
  refine Hp.bit_budgetChecked (Hp.bit_loses ?_)
  rw [if_neg Bool.false_ne_true, Hp.irq, bit_or, bit_two_pow (by decide), Bool.or_true]

section EvictPort

variable (role host p : Nat) (s : State)

/-- R398: the state before the blocks go. -/
def toldBudget : State := whenDo (!(s.getHp p).beyond.isEmpty) (irqPort irqBudget p) s

theorem evictPort_eq : evictPort role host p s = raiseAudit .hostEvict p [(1, role), (1, host), (2, (s.getHp p).beyond.length)]
    (loseBlocks 3 p (s.getHp p).beyond (toldBudget p s)) := rfl

theorem getHp_toldBudget :
    (toldBudget p s).getHp p = if (s.getHp p).beyond.isEmpty then s.getHp p else (s.getHp p).irq irqBudget := by
  unfold toldBudget
  cases (s.getHp p).beyond.isEmpty <;> simp [irqPort_eq]

theorem getHp_toldBudget_ne {q : Nat} (h : q ≠ p) : (toldBudget p s).getHp q = s.getHp q :=
  whenDo_keeps (·.getHp q = s.getHp q) (fun t ht => (irqPort_hp_ne _ _ _ t h).trans ht) _ rfl

theorem toldBudget_frame : ∃ hp, toldBudget p s = { s with host := { s.host with hp := hp } } := by
  unfold toldBudget
  cases (s.getHp p).beyond.isEmpty <;> exact ⟨_, rfl⟩

theorem getHp_evictPort : (evictPort role host p s).getHp p = (s.getHp p).evicted := by
  rw [evictPort_eq, getHp_raiseAudit, getHp_loseBlocks, getHp_toldBudget]
  rfl

theorem getHp_evictPort_ne {q : Nat} (h : q ≠ p) : (evictPort role host p s).getHp q = s.getHp q := by
  rw [evictPort_eq, getHp_raiseAudit, getHp_loseBlocks_ne _ _ _ _ h, getHp_toldBudget_ne _ _ h]

theorem evictPort_loses_frame : ∃ hp gal,
    loseBlocks 3 p (s.getHp p).beyond (toldBudget p s) = { s with host := { s.host with hp := hp }, gal := gal } := by
  obtain ⟨hp, gal, hlose⟩ := loseBlocks_frame 3 p (s.getHp p).beyond (toldBudget p s)
  obtain ⟨hp', htold⟩ := toldBudget_frame p s
  exact ⟨hp, gal, by rw [hlose, htold]⟩

/-- R398, R416: the ports' registers, the galleries and the log change, and the audit records are counted. -/
theorem evictPort_frame : ∃ hp gal log, evictPort role host p s = { s with
    host := { s.host with hp := hp }, gal := gal, role := { s.role with audit := (s.role.audit + 1) % 2 ^ 32 }, log := log } := by
  obtain ⟨hp, gal, hlose⟩ := evictPort_loses_frame p s
  rw [evictPort_eq, raiseAudit_eq, hlose]
  exact ⟨_, _, _, rfl⟩

theorem getGal_evictPort {g : Nat} (h : g ≠ 2) : (evictPort role host p s).getGal g = s.getGal g := by
  rw [evictPort_eq, getGal_raiseAudit, getGal_loseBlocks _ _ _ _ h]
  obtain ⟨hp, htold⟩ := toldBudget_frame p s
  rw [htold]
  rfl

theorem logged_evictPort : Logged (ent .hostEvict s.now p
    [(1, role), (1, host), (2, (s.getHp p).held.length - (s.getHp p).budget), (4, s.role.audit)] s) (evictPort role host p s) := by
  have hlog := logged_raiseAudit (c := .hostEvict) rfl p [(1, role), (1, host), (2, (s.getHp p).beyond.length)]
    (loseBlocks 3 p (s.getHp p).beyond (toldBudget p s))
  rw [← evictPort_eq] at hlog
  obtain ⟨hp, gal, hlose⟩ := evictPort_loses_frame p s
  rw [hlose, Hp.beyond, List.length_drop] at hlog
  exact hlog

end EvictPort

/-! ## The commands, as R394, R397 and R398 give them -/

/-- R394: a request that is refused as a whole: for its count, for the budget, or for the free blocks. -/
theorem exec_blockRequest_refused {s : State} {p : Fin 4} (hact : MayAct s p 1 islHost) (n : BitVec 9) {code : Nat}
    (hcode : ((n.toNat = 0 ∨ 256 < n.toNat) ∧ code = 3) ∨
      (1 ≤ n.toNat ∧ n.toNat ≤ 256 ∧ (s.getHp p).budget < (s.getHp p).held.length + n.toNat ∧ code = 1) ∨
      (1 ≤ n.toNat ∧ n.toNat ≤ 256 ∧ (s.getHp p).held.length + n.toNat ≤ (s.getHp p).budget ∧ s.freeBlocks.length < n.toNat ∧ code = 2)) :
    ∃ t, exec (.blockRequest p n) s = .next (wordDone p t) ∧
      HostIs p { s.getHp p with blkCount := n.toNat, blkResult := code } s t ∧ PortsOnly s t := by
  rw [exec_blockRequest hact]
  rcases hcode with ⟨hcount, rfl⟩ | ⟨h1, h2, hb, rfl⟩ | ⟨h1, h2, hb, hfree, rfl⟩
  · rw [blockGo_count hcount]
    exact ⟨_, rfl, modHp_modHp_hostIs _ _ _ _, modHp_modHp_portsOnly _ _ _ _⟩
  · rw [blockGo_beyondBudget h1 h2 (by simpa using hb)]
    exact ⟨_, rfl, modHp_modHp_hostIs _ _ _ _, modHp_modHp_portsOnly _ _ _ _⟩
  · rw [blockGo_noneFree h1 h2 (by simpa using hb) (by rwa [freeBlocks_modHp rfl])]
    exact ⟨_, rfl, modHp_modHp_hostIs _ _ _ _, modHp_modHp_portsOnly _ _ _ _⟩

/-- R394: a request that is granted. -/
theorem exec_blockRequest_granted {s : State} {p : Fin 4} (hact : MayAct s p 1 islHost) (n : BitVec 9) (h1 : 1 ≤ n.toNat)
    (h2 : n.toNat ≤ 256) (hb : (s.getHp p).held.length + n.toNat ≤ (s.getHp p).budget) (hfree : n.toNat ≤ s.freeBlocks.length) :
    let got := s.freeBlocks.take n.toNat
    ∃ t, exec (.blockRequest p n) s = .next (wordDone p t) ∧
      HostIs p { s.getHp p with blkCount := n.toNat, blkResult := 0, held := (t.getHp p).held, overBudget := false } s t ∧
      (t.getHp p).held.length = (s.getHp p).held.length + n.toNat ∧ (∀ b, b ∈ (t.getHp p).held ↔ b ∈ (s.getHp p).held ∨ b ∈ got) ∧
      (galKept (s.getGal 2).power = true → ∀ a, galByte t 2 a = if a / 65536 ∈ got then 0 else galByte s 2 a) ∧
      (∀ g, g ≠ 2 → t.getGal g = s.getGal g) ∧ t = { s with host := { s.host with hp := t.host.hp }, gal := t.gal } := by
  intro got
  obtain ⟨u, hu⟩ : ∃ u, u = s.modHp p (fun h => { h with blkCount := n.toNat }) := ⟨_, rfl⟩
  have hport : u.getHp p = { s.getHp p with blkCount := n.toNat } := by rw [hu, State.getHp_modHp]
  have hgal : u.gal = s.gal := by rw [hu]; rfl
  have hblocks : u.freeBlocks = s.freeBlocks := hu ▸ freeBlocks_modHp rfl
  have hb' : (u.getHp p).held.length + n.toNat ≤ (u.getHp p).budget := by rwa [hport]
  have hfree' : n.toNat ≤ u.freeBlocks.length := hblocks ▸ hfree
  have hnew := getHp_blockGo h1 h2 hb' hfree'
  rw [exec_blockRequest hact, ← hu]
  refine ⟨_, rfl, ⟨?_, fun q hq => ?_⟩, ?_, fun b => ?_, fun hk a => ?_, fun g hg => ?_, ?_⟩
  · rw [hnew, hport]
    rfl
  · rw [getHp_blockGo_ne h1 h2 hb' hfree' hq, hu, State.getHp_modHp_ne _ _ _ _ hq]
  · rw [hnew]
    exact (length_held_granted hfree' _).trans (by rw [hport])
  · rw [hnew, hport, hblocks]
    simp [Hp.granted, got]
  · have hbyte := galByte_blockGo h1 h2 hb' hfree' (by rwa [State.getGal, hgal]) a
    simpa only [galByte, State.getGal, hgal, hblocks] using hbyte
  · rw [getGal_blockGo_ne h1 h2 hb' hfree' hg, State.getGal, hgal]
    rfl
  · obtain ⟨hp, gal, hframe⟩ := blockGo_frame h1 h2 hb' hfree'
    rw [hframe, hu]
    rfl

/-- R394: the blocks that a word of HP_BLK_MAP names. -/
def namedBlocks (w : Nat) (mask : Word) : List Nat := ((List.range 32).filter (fun i => bit mask i)).map (fun i => 32 * w + i)

theorem mem_namedBlocks {w b : Nat} {mask : Word} : b ∈ namedBlocks w mask ↔ b / 32 = w ∧ bit mask (b % 32) = true := by
  simp only [namedBlocks, List.mem_map, List.mem_filter, List.mem_range]
  constructor
  · rintro ⟨i, ⟨hi, hb⟩, rfl⟩
    rw [show (32 * w + i) / 32 = w by omega, show (32 * w + i) % 32 = i by omega]
    exact ⟨rfl, hb⟩
  · rintro ⟨rfl, hb⟩
    exact ⟨b % 32, ⟨Nat.mod_lt _ (by decide), hb⟩, Nat.div_add_mod b 32⟩

/-- R394, R395: a release. -/
theorem exec_blockRelease_releases {s : State} {p : Fin 4} (hact : MayAct s p 1 islHost) (w : Fin 8) (mask : Word) :
    ∃ t, exec (.blockRelease p w mask) s = .next (wordDone p t) ∧
      (∀ b, b ∈ (t.getHp p).held ↔ b ∈ (s.getHp p).held ∧ ¬ (b / 32 = w.val ∧ bit mask (b % 32) = true)) ∧
      ((s.getHp p).cap.busy = false → (t.getHp p).cap = (s.getHp p).cap) ∧
      ((s.getHp p).cap.busy = true → (∃ b ∈ (s.getHp p).held, b ∉ (t.getHp p).held ∧ s.capUses p b = true) →
        (t.getHp p).cap.busy = false ∧ (t.getHp p).cap.ended = 4 ∧ bit (t.getHp p).intStat 11 = true) ∧
      (t.getHp p).budget = (s.getHp p).budget ∧ (∀ q, q ≠ p.val → t.getHp q = s.getHp q) ∧ (∀ g, g ≠ 2 → t.getGal g = s.getGal g) ∧
      t = { s with host := { s.host with hp := t.host.hp }, gal := t.gal } := by
  obtain ⟨t, ht⟩ : ∃ t, t = loseBlocks 4 p (namedBlocks w mask) s := ⟨_, rfl⟩
  have hnew : t.getHp p = ((s.getHp p).loses 4 (namedBlocks w mask)).budgetChecked := by rw [ht, getHp_loseBlocks]
  have hheld (b : Nat) : b ∈ (t.getHp p).held ↔ b ∈ (s.getHp p).held ∧ b ∉ namedBlocks w mask := by
    simp [hnew, Hp.budgetChecked]
  refine ⟨t, ht ▸ exec_blockRelease hact w mask, fun b => by rw [hheld, mem_namedBlocks], fun hidle => ?_,
    fun _ ⟨b, hb, hgone, huses⟩ => ?_, ?_, fun q hq => ?_, fun g hg => ?_, ?_⟩
  · rw [hnew]
    exact Hp.loses_cap_idle hidle
  · have hin : b ∈ namedBlocks w mask := by
      rw [hheld] at hgone
      exact not_not.1 fun hn => hgone ⟨hb, hn⟩
    have hcap : (s.getHp p).capIn (namedBlocks w mask) = true :=
      List.any_eq_true.2 ⟨b, hin, (Bool.and_eq_true _ _).mpr ⟨List.contains_iff_mem.2 hb, huses⟩⟩
    obtain ⟨hended, hbit⟩ := Hp.loses_cap_used (code := 4) hcap
    have hcapNew : (t.getHp p).cap = _ := (congrArg Hp.cap hnew).trans hended
    rw [hcapNew, hnew]
    exact ⟨rfl, rfl, Hp.bit_budgetChecked hbit⟩
  · rw [hnew]
    exact Hp.loses_budget _ _ _
  · rw [ht, getHp_loseBlocks_ne _ _ _ _ hq]
  · rw [ht, getGal_loseBlocks _ _ _ _ hg]
  · obtain ⟨hp, gal, hframe⟩ := loseBlocks_frame 4 p (namedBlocks w mask) s
    rw [ht, hframe]

/-- R397: a budget that is accepted, of `b` blocks and the share `sh`. -/
theorem exec_budgetWrite_sets {s : State} {p : Fin 4} (q : Fin 4) {v : Word} {b sh : Nat} (hact : MayAct s p 3 islHost)
    (hgood : s.budgetBad q v = false) (hb : bits v 17 9 = b) (hsh : bits v 8 0 = sh) :
    ∃ t, exec (.budgetWrite p q v) s = .next (wordDone p t) ∧
      HostIs q { s.getHp q with
        budget := b, share := sh, overBudget := decide (b < (s.getHp q).held.length), intStat := (t.getHp q).intStat } s t ∧
      (b < (s.getHp q).held.length → (s.getHp q).overBudget = false → bit (t.getHp q).intStat 10 = true) ∧
      ((s.getHp q).held.length ≤ b → (t.getHp q).intStat = (s.getHp q).intStat) ∧
      Logged (ent .hostBudget s.now q
        [(1, (s.getRolePort p).role), (1, p), (4, (s.budgetWord q).toNat), (4, (t.budgetWord q).toNat), (4, s.role.audit)] s) t ∧
      t = { s with
        host := { s.host with hp := t.host.hp }, role := { s.role with audit := (s.role.audit + 1) % 2 ^ 32 }, log := t.log } := by
  subst hb hsh
  have hnew := getHp_budgetSet (s.getRolePort p).role p q v s
  refine ⟨_, exec_budgetWrite q v hact hgood, ⟨?_, fun r hr => getHp_budgetSet_ne _ _ _ _ _ hr⟩, fun hover hwas => ?_,
    fun hwithin => ?_, logged_budgetSet _ _ _ _ _, ?_⟩
  · rw [hnew]
    rfl
  · rw [hnew]
    exact Hp.bit_budgetChecked_over (h := (s.getHp q).budgetTaken v) hover hwas
  · rw [hnew, Hp.budgetChecked_within (h := (s.getHp q).budgetTaken v) hwithin]
    rfl
  · obtain ⟨hp, log, hframe⟩ := budgetSet_frame (s.getRolePort p).role p q v s
    rw [hframe]

/-- R398: an eviction. -/
theorem exec_evict_releases {s : State} {p : Fin 4} (q : Fin 4) (hact : MayAct s p 3 islHost) (hnodup : (s.getHp q).held.Nodup)
    (hsorted : (s.getHp q).held.Pairwise (fun a b => a < b)) :
    ∃ t, exec (.evict p q) s = .next (wordDone p t) ∧ (t.getHp q).held = (s.getHp q).held.take (s.getHp q).budget ∧ t.host.evictPort = q ∧
      (∀ b ∈ (s.getHp q).held, ∀ c ∈ (t.getHp q).held, b ∉ (t.getHp q).held → c < b) ∧
      (∀ b ∈ (s.getHp q).held, b ∉ (t.getHp q).held → ∀ i, i < 65536 → t.galBlock q 2 (0x10000 * b + i) = false) ∧
      (t.getHp q).budget = (s.getHp q).budget ∧ (∀ r, r ≠ q.val → t.getHp r = s.getHp r) ∧
      ((s.getHp q).budget < (s.getHp q).held.length → bit (t.getHp q).intStat 10 = true) ∧
      Logged (ent .hostEvict s.now q
        [(1, (s.getRolePort p).role), (1, p), (2, (s.getHp q).held.length - (s.getHp q).budget), (4, s.role.audit)] s) t ∧
      (∀ g, g ≠ 2 → t.getGal g = s.getGal g) ∧
      t = { s with host := { s.host with hp := t.host.hp, evictPort := t.host.evictPort }, gal := t.gal
                   role := { s.role with audit := (s.role.audit + 1) % 2 ^ 32 }, log := t.log } := by
  obtain ⟨u, hu⟩ : ∃ u, u = s.modHostIsl (fun i => { i with evictPort := q }) := ⟨_, rfl⟩
  obtain ⟨t, ht⟩ : ∃ t, t = evictPort (s.getRolePort p).role p q u := ⟨_, rfl⟩
  have hport (r : Nat) : u.getHp r = s.getHp r := by rw [hu]; rfl
  have hnew : t.getHp q = (s.getHp q).evicted := by rw [ht, getHp_evictPort, hport]
  have hheld : (t.getHp q).held = (s.getHp q).held.take (s.getHp q).budget := by rw [hnew, Hp.evicted_held hnodup]
  obtain ⟨hp, gal, log, hframe⟩ := evictPort_frame (s.getRolePort p).role p q u
  rw [← ht] at hframe
  refine ⟨t, by rw [ht, hu, exec_evict q hact], hheld, by rw [hframe, hu]; rfl, fun b hb c hc hgone => ?_,
    fun b _ hgone i hi => ?_, by rw [hnew, Hp.evicted_budget], fun r hr => ?_, fun hover => ?_, ?_, fun g hg => ?_, ?_⟩
  · rw [hheld] at hc hgone
    exact lt_of_not_mem_take hsorted hb hgone hc
  · have hblock : (0x10000 * b + i) / 0x10000 = b := by omega
    simpa [State.galBlock, hblock] using hgone
  · rw [ht, getHp_evictPort_ne _ _ _ _ hr, hport]
  · rw [hnew]
    exact Hp.bit_evicted hover
  · have hlog := logged_evictPort (s.getRolePort p).role p q u
    rw [← ht, hport, hu] at hlog
    exact hlog
  · rw [ht, getGal_evictPort _ _ _ _ hg, hu]
    rfl
  · rw [hframe, hu]
    rfl

/-! ## The obligation O47 -/

/-- Settles O47: each command is the write of one host register, and what that write does to the port is a function of the port. -/
theorem blocksBudgetsAndEvictions : Obligations.BlocksBudgetsAndEvictions := by
  unfold Obligations.BlocksBudgetsAndEvictions
  refine ⟨fun p n s hact => ⟨fun code hcode => exec_blockRequest_refused hact n hcode, exec_blockRequest_granted hact n⟩,
    fun p w mask s hact => exec_blockRelease_releases hact w mask, fun p q v s hact => ?_,
    fun p q s hnone hrole => exec_evict_refused q hnone hrole,
    fun p q s hact hnodup hsorted => exec_evict_releases q hact hnodup hsorted⟩
  intro blocks shares b sh
  have hb : bits v 17 9 = b := rfl
  have hsh : bits v 8 0 = sh := by simp [bits, sh]
  have hbad := budgetBad_iff s q v
  rw [hb, hsh] at hbad
  obtain ⟨-, -, -, -, hnone⟩ := id hact
  refine ⟨fun hover => exec_budgetWrite_refused q v hnone (hbad.2 hover), fun hblocks hshares => ?_⟩
  have hgood : s.budgetBad q v = false := by
    rw [← Bool.not_eq_true, hbad]
    omega
  exact exec_budgetWrite_sets q hact hgood hb hsh

end Sys2Proof.Machine
end

section
-- One proof after another: elaborated side by side they take more memory than the check allows.
set_option Elab.async false
/-! SUPPORT. What every operation keeps, for O55, O57, O58 and O59: the queue, the canonical form of the memories, the blocks and the credit of the ports
and what is written in OTP. The invariants speak of few parts of the state,
  `State.tracked`; `Keeps` says of those parts what a
command may do to them. An operation that leaves them as they were has a lemma `(f s).tracked = s.tracked`; one that changes them
has a lemma `Keeps a (f s).tracked`, given that the state before was kept. One lemma for each operation, in the model's order and
`@[simp]`, as in the proof of O56. -/

namespace Sys2Proof.Machine

/-! ## What is tracked, and what a command may do to it -/

/-- The queue; the galleries and the boot flash; what each port holds and its credit; the OTP operation in progress, the plan key slots,
  the
maker keys and the evidence counter. -/
abbrev Tracked :=
  List Instr × Tab Gal × Mem × (Nat → List Nat × Nat) × Option (Nat × Nat × BitVec 512) × Tab OtpSlot × List (BitVec 256) × Nat

/-- The parts of the state that the invariants of the block and its queue speak of. -/
def State.tracked (s : State) : Tracked :=
  (s.pending, s.gal, s.plan.flash, fun p => ((s.getHp p).held, (s.getHp p).credit), s.role.otpJob, s.role.otp, s.role.makers,
    s.tmp.otpCount)

/-- The memories are in canonical form. -/
def MemsOk (g : Tab Gal) (f : Mem) : Prop := (∀ e ∈ g, memWf galDefault e.2.mem = true) ∧ memWf flashDefault f = true

/-- R394: blocks 0 to 255, none held twice. -/
def HeldOk (h : Nat → List Nat × Nat) : Prop :=
  (∀ p, (∀ b ∈ (h p).1, b < 256) ∧ (h p).1.Nodup) ∧ ∀ p q, p < 4 → q < 4 → p ≠ q → ∀ b ∈ (h p).1, b ∉ (h q).1

/-- R385: no credit beyond 256 words. -/
def CreditOk (h : Nat → List Nat × Nat) : Prop := ∀ p, (h p).2 ≤ 5 * 256

/-- R408: the slot being programmed is empty. -/
def JobOk (j : Option (Nat × Nat × BitVec 512)) (o : Tab OtpSlot) : Prop := ∀ i d, j = some (1, i, d) → tget .empty o i = .empty

/-- R408: what a slot that is written may become. -/
def SlotGrows : OtpSlot → OtpSlot → Prop
  | .empty, _ => True
  | .key xy, y => y = .key xy ∨ y = .revoked xy
  | .revoked xy, y => y = .revoked xy

/-- What a command may do to the parts that are tracked. -/
def Keeps : Tracked → Tracked → Prop
  | (q, g, f, h, j, o, m, n), (q', g', f', h', j', o', m', n') =>
    q' = q ∧ (MemsOk g f → MemsOk g' f') ∧ (HeldOk h → HeldOk h') ∧ (CreditOk h → CreditOk h') ∧
    (JobOk j o → JobOk j' o' ∧ ∀ i, SlotGrows (tget .empty o i) (tget .empty o' i)) ∧ m <+: m' ∧ (n ≤ 2048 → n ≤ n' ∧ n' ≤ 2048)

theorem SlotGrows.refl (x : OtpSlot) : SlotGrows x x := by
  cases x <;> simp [SlotGrows]

theorem SlotGrows.trans {x y z : OtpSlot} (h : SlotGrows x y) (h' : SlotGrows y z) : SlotGrows x z := by
  cases x with
  | empty => trivial
  | key xy =>
    rcases h with rfl | rfl
    · exact h'
    · exact .inr h'
  | revoked xy =>
    cases h
    exact h'

@[simp] theorem Keeps.refl (a : Tracked) : Keeps a a :=
  ⟨rfl, id, id, id, fun h => ⟨h, fun _ => .refl _⟩, List.prefix_refl _, fun h => ⟨Nat.le_refl _, h⟩⟩

theorem Keeps.trans {a b c : Tracked} (h : Keeps a b) (h' : Keeps b c) : Keeps a c := by
  obtain ⟨hq, hm, hb, hc, ho, hk, hn⟩ := h
  obtain ⟨hq', hm', hb', hc', ho', hk', hn'⟩ := h'
  refine ⟨hq'.trans hq, hm' ∘ hm, hb' ∘ hb, hc' ∘ hc, fun hj => ?_, hk.trans hk', fun hle => ?_⟩
  · obtain ⟨hj₁, hs₁⟩ := ho hj
    obtain ⟨hj₂, hs₂⟩ := ho' hj₁
    exact ⟨hj₂, fun i => (hs₁ i).trans (hs₂ i)⟩
  · have h₁ := hn hle
    have h₂ := hn' h₁.2
    exact ⟨h₁.1.trans h₂.1, h₂.2⟩

/-- `keeps_ite` for a condition that picks one of two states. -/
@[simp] theorem keeps_ite (a : Tracked) (c : Prop) [Decidable c] (s t : Tracked) :
    Keeps a (if c then s else t) ↔ if c then Keeps a s else Keeps a t := by
  split <;> rfl

/-! ## Updates -/

@[simp] theorem State.modPort_tracked (s : State) (k : Nat) (f : Port → Port) : (s.modPort k f).tracked = s.tracked := (rfl)
@[simp] theorem State.modRing_tracked (s : State) (k : Nat) (f : Ring → Ring) : (s.modRing k f).tracked = s.tracked := (rfl)
@[simp] theorem State.modHead_tracked (s : State) (k : Nat) (f : Head → Head) : (s.modHead k f).tracked = s.tracked := (rfl)
@[simp] theorem State.modHeadAcc_tracked (s : State) (k : Nat) (f : HeadAcc → HeadAcc) : (s.modHeadAcc k f).tracked = s.tracked := (rfl)
@[simp] theorem State.modEng_tracked (s : State) (k : Nat) (f : Eng → Eng) : (s.modEng k f).tracked = s.tracked := (rfl)
@[simp] theorem State.modStrm_tracked (s : State) (k : Nat) (f : Strm → Strm) : (s.modStrm k f).tracked = s.tracked := (rfl)
@[simp] theorem State.modWp_tracked (s : State) (k : Nat) (f : Watch → Watch) : (s.modWp k f).tracked = s.tracked := (rfl)
@[simp] theorem State.modGrp_tracked (s : State) (k : Nat) (f : Grp → Grp) : (s.modGrp k f).tracked = s.tracked := (rfl)
@[simp] theorem State.modCtx_tracked (s : State) (k : Nat) (f : Ctx → Ctx) : (s.modCtx k f).tracked = s.tracked := (rfl)
@[simp] theorem State.modOut_tracked (s : State) (k : Nat) (f : PulseOut → PulseOut) : (s.modOut k f).tracked = s.tracked := (rfl)
@[simp] theorem State.modInp_tracked (s : State) (k : Nat) (f : PulseIn → PulseIn) : (s.modInp k f).tracked = s.tracked := (rfl)
@[simp] theorem State.modSpBind_tracked (s : State) (k : Nat) (f : SpBind → SpBind) : (s.modSpBind k f).tracked = s.tracked := (rfl)
@[simp] theorem State.modSpGrp_tracked (s : State) (k : Nat) (f : SpGrp → SpGrp) : (s.modSpGrp k f).tracked = s.tracked := (rfl)
@[simp] theorem State.modSpEng_tracked (s : State) (k : Nat) (f : SpEng → SpEng) : (s.modSpEng k f).tracked = s.tracked := (rfl)
@[simp] theorem State.modLane_tracked (s : State) (k : Nat) (f : ShLane → ShLane) : (s.modLane k f).tracked = s.tracked := (rfl)
@[simp] theorem State.modEvc_tracked (s : State) (k : Nat) (f : EvCtx → EvCtx) : (s.modEvc k f).tracked = s.tracked := (rfl)
@[simp] theorem State.modRedHead_tracked (s : State) (k : Nat) (f : RedHead → RedHead) : (s.modRedHead k f).tracked = s.tracked := (rfl)
@[simp] theorem State.modRedNode_tracked (s : State) (k : Nat) (f : RedNode → RedNode) : (s.modRedNode k f).tracked = s.tracked := (rfl)
@[simp] theorem State.modCalQ_tracked (s : State) (k : Nat) (f : CalQ → CalQ) : (s.modCalQ k f).tracked = s.tracked := (rfl)
@[simp] theorem State.modRolePort_tracked (s : State) (k : Nat) (f : RolePort → RolePort) :
    (s.modRolePort k f).tracked = s.tracked := (rfl)
@[simp] theorem State.modMon_tracked (s : State) (k : Nat) (f : Mon → Mon) : (s.modMon k f).tracked = s.tracked := (rfl)
@[simp] theorem State.modLoop_tracked (s : State) (k : Nat) (f : Loop → Loop) : (s.modLoop k f).tracked = s.tracked := (rfl)
@[simp] theorem State.modLogSrc_tracked (s : State) (k : Nat) (f : LogSrc → LogSrc) : (s.modLogSrc k f).tracked = s.tracked := (rfl)
@[simp] theorem State.modLogPort_tracked (s : State) (k : Nat) (f : LogPort → LogPort) : (s.modLogPort k f).tracked = s.tracked := (rfl)
@[simp] theorem State.modGlbIsl_tracked (s : State) (f : Glb → Glb) : (s.modGlbIsl f).tracked = s.tracked := (rfl)
@[simp] theorem State.modTbIsl_tracked (s : State) (f : Tb → Tb) : (s.modTbIsl f).tracked = s.tracked := (rfl)
@[simp] theorem State.modStairIsl_tracked (s : State) (f : Stair → Stair) : (s.modStairIsl f).tracked = s.tracked := (rfl)
@[simp] theorem State.modRsIsl_tracked (s : State) (f : Resamp → Resamp) : (s.modRsIsl f).tracked = s.tracked := (rfl)
@[simp] theorem State.modTallyIsl_tracked (s : State) (f : Tally → Tally) : (s.modTallyIsl f).tracked = s.tracked := (rfl)
@[simp] theorem State.modSpecIsl_tracked (s : State) (f : Spec → Spec) : (s.modSpecIsl f).tracked = s.tracked := (rfl)
@[simp] theorem State.modEvIsl_tracked (s : State) (f : Ev → Ev) : (s.modEvIsl f).tracked = s.tracked := (rfl)
@[simp] theorem State.modRedIsl_tracked (s : State) (f : Red → Red) : (s.modRedIsl f).tracked = s.tracked := (rfl)
@[simp] theorem State.modLcIsl_tracked (s : State) (f : Lc → Lc) : (s.modLcIsl f).tracked = s.tracked := (rfl)
@[simp] theorem State.modCalIsl_tracked (s : State) (f : Cal → Cal) : (s.modCalIsl f).tracked = s.tracked := (rfl)
@[simp] theorem State.modMtIsl_tracked (s : State) (f : MemTest → MemTest) : (s.modMtIsl f).tracked = s.tracked := (rfl)
@[simp] theorem State.modPwrIsl_tracked (s : State) (f : Pwr → Pwr) : (s.modPwrIsl f).tracked = s.tracked := (rfl)
@[simp] theorem State.modLogIsl_tracked (s : State) (f : Log → Log) : (s.modLogIsl f).tracked = s.tracked := (rfl)
@[simp] theorem State.modInj_tracked (s : State) (k : Nat) (f : LcInj → LcInj) : (s.modInj k f).tracked = s.tracked := (rfl)
@[simp] theorem State.modUnit_tracked (s : State) (k : Nat) (f : Unit' → Unit') : (s.modUnit k f).tracked = s.tracked := (rfl)

@[simp] theorem State.modPlanIsl_tracked {s : State} {f : PlanIsl → PlanIsl} (hf : (f s.plan).flash = s.plan.flash) :
    (s.modPlanIsl f).tracked = s.tracked := by simp [State.tracked, State.getHp, hf]

@[simp] theorem State.modHostIsl_tracked {s : State} {f : HostIsl → HostIsl} (hf : (f s.host).hp = s.host.hp) :
    (s.modHostIsl f).tracked = s.tracked := by simp [State.tracked, State.getHp, State.modHostIsl, hf]

@[simp] theorem State.modRoleIsl_tracked {s : State} {f : Role → Role} (hj : (f s.role).otpJob = s.role.otpJob)
    (ho : (f s.role).otp = s.role.otp) (hm : (f s.role).makers = s.role.makers) : (s.modRoleIsl f).tracked = s.tracked := by
  simp [State.tracked, State.getHp, State.modRoleIsl, hj, ho, hm]

@[simp] theorem State.modTmpIsl_tracked {s : State} {f : Tmp → Tmp} (hf : (f s.tmp).otpCount = s.tmp.otpCount) :
    (s.modTmpIsl f).tracked = s.tracked := by simp [State.tracked, State.getHp, State.modTmpIsl, hf]

/-- What each port holds, and its credit, after a change of one port. -/
theorem State.modHp_held (s : State) (k : Nat) (f : Hp → Hp) :
    (fun p => (((s.modHp k f).getHp p).held, ((s.modHp k f).getHp p).credit)) =
      fun p => if p = k then ((f (s.getHp k)).held, (f (s.getHp k)).credit) else ((s.getHp p).held, (s.getHp p).credit) := by
  funext p
  split
  · next hp => subst hp; simp
  · next hp => simp [State.getHp_modHp_ne _ _ _ _ hp]

@[simp] theorem State.modHp_tracked {s : State} {k : Nat} {f : Hp → Hp} (hh : (f (s.getHp k)).held = (s.getHp k).held)
    (hc : (f (s.getHp k)).credit = (s.getHp k).credit) : (s.modHp k f).tracked = s.tracked := by
  have h : (fun p => if p = k then ((f (s.getHp k)).held, (f (s.getHp k)).credit) else ((s.getHp p).held, (s.getHp p).credit)) =
      fun p => ((s.getHp p).held, (s.getHp p).credit) := by
    funext p
    split
    · next hp => rw [hp, hh, hc]
    · rfl
  simp only [State.tracked, State.modHp_held, h]
  rfl

theorem State.modGal_keeps {t₀ : Tracked} {s : State} {k : Nat} {f : Gal → Gal} (h : Keeps t₀ s.tracked)
    (hf : memWf galDefault (s.getGal k).mem = true → memWf galDefault (f (s.getGal k)).mem = true) : Keeps t₀ (s.modGal k f).tracked :=
  h.trans ⟨rfl, fun ⟨hg, hp⟩ => ⟨modGal_canonical hg k f hf, hp⟩, id, id, fun hj => ⟨hj, fun _ => .refl _⟩, List.prefix_refl _,
    fun hn => ⟨Nat.le_refl _, hn⟩⟩

/-- A change of a gallery that leaves its words. -/
@[simp] theorem State.modGal_keeps_mem {t₀ : Tracked} {s : State} {k : Nat} {f : Gal → Gal} (h : Keeps t₀ s.tracked)
    (hf : (f (s.getGal k)).mem = (s.getGal k).mem) : Keeps t₀ (s.modGal k f).tracked :=
  State.modGal_keeps h (fun hw => by rwa [hf])

theorem State.modPlanIsl_keeps {t₀ : Tracked} {s : State} {f : PlanIsl → PlanIsl} (h : Keeps t₀ s.tracked)
    (hf : memWf flashDefault s.plan.flash = true → memWf flashDefault (f s.plan).flash = true) : Keeps t₀ (s.modPlanIsl f).tracked :=
  h.trans ⟨rfl, fun ⟨hg, hp⟩ => ⟨hg, hf hp⟩, id, id, fun hj => ⟨hj, fun _ => .refl _⟩, List.prefix_refl _, fun hn => ⟨Nat.le_refl _, hn⟩⟩

/-- A change of one port: what it may hold then, and how much credit. -/
theorem State.modHp_keeps {t₀ : Tracked} {s : State} {k : Nat} {f : Hp → Hp} (h : Keeps t₀ s.tracked)
    (hh : HeldOk (fun p => ((s.getHp p).held, (s.getHp p).credit)) →
      HeldOk (fun p => if p = k then ((f (s.getHp k)).held, (f (s.getHp k)).credit) else ((s.getHp p).held, (s.getHp p).credit)))
    (hc : (s.getHp k).credit ≤ 1280 → (f (s.getHp k)).credit ≤ 1280) : Keeps t₀ (s.modHp k f).tracked := by
  refine h.trans ⟨rfl, id, fun hb => ?_, fun hb => ?_, fun hj => ⟨hj, fun _ => .refl _⟩, List.prefix_refl _, fun hn => ⟨Nat.le_refl _,
    hn⟩⟩
  · rw [State.modHp_held]
    exact hh hb
  · rw [State.modHp_held]
    intro p
    dsimp only
    split
    · exact hc (hb k)
    · exact hb p

/-! ## Lists, conditions and islands -/

/-- The tracked parts of the state that a command answers. -/
def trackedAfter : Out → Option Tracked
  | .next t => some t.tracked
  | .fault _ | .refused _ => none

/-- What a command leaves, if it answers a state, is kept. -/
def Out.Keeps (a : Tracked) (o : Out) : Prop := ∀ t, o = .next t → Machine.Keeps a t.tracked

@[simp] theorem Out.keeps_next {a : Tracked} {t : State} : Out.Keeps a (.next t) ↔ Machine.Keeps a t.tracked :=
  ⟨fun h => h t rfl, fun h u hu => by cases hu; exact h⟩

/-- A command that leaves the tracked parts as they were. -/
theorem Out.keeps_of_tracked {a : Tracked} {s : State} {o : Out} (h : Machine.Keeps a s.tracked) (ho : trackedAfter o = some s.tracked) :
    Out.Keeps a o := by
  rintro t rfl
  rw [trackedAfter, Option.some_inj] at ho
  rwa [ho]

@[simp] theorem trackedAfter_next (t : State) : trackedAfter (.next t) = some t.tracked := rfl

@[simp] theorem ite_tracked (c : Prop) [Decidable c] (s t : State) : (if c then s else t).tracked = if c then s.tracked else t.tracked :=
  apply_ite State.tracked c s t

@[simp] theorem each_tracked {α : Type} {f : State → α → State} (hf : ∀ s a, (f s a).tracked = s.tracked) (l : List α) (s : State) :
    (each l f s).tracked = s.tracked := each_same State.tracked hf l s

@[simp] theorem foldl_tracked {α : Type} {f : State → α → State} (hf : ∀ s a, (f s a).tracked = s.tracked) (l : List α) (s : State) :
    (l.foldl f s).tracked = s.tracked := each_same State.tracked hf l s

/-- A fold that gathers something beside the state. -/
@[simp] theorem foldl_snd_tracked {α β : Type} {f : β × State → α → β × State} (hf : ∀ a x, (f a x).2.tracked = a.2.tracked) (l : List α)
    (a : β × State) : (l.foldl f a).2.tracked = a.2.tracked :=
  List.foldlRecOn l f (motive := fun b => b.2.tracked = a.2.tracked) rfl (fun b hb x _ => (hf b x).trans hb)

@[simp] theorem whenDo_tracked {f : State → State} (hf : ∀ s, (f s).tracked = s.tracked) (b : Bool) (s : State) :
    (whenDo b f s).tracked = s.tracked :=
  whenDo_keeps (·.tracked = s.tracked) (fun t ht => (hf t).trans ht) b rfl

@[simp] theorem onIsl_tracked {f : State → State} {s : State} (hf : (f s).tracked = s.tracked) (i : Nat) :
    trackedAfter (onIsl i s f) = some s.tracked := by
  simp [onIsl, hf]

@[simp] theorem onLink_tracked {f : State → State} {s : State} (hf : (f s).tracked = s.tracked) (r : Nat) :
    trackedAfter (onLink r s f) = some s.tracked := by
  simp [onLink, hf]

@[simp] theorem onStew_tracked {f : State → State} {s : State} (hf : (f s).tracked = s.tracked) :
    trackedAfter (onStew s f) = some s.tracked := by
  simp [onStew, hf]

@[simp] theorem each_keeps_tracked {α : Type} {t₀ : Tracked} {f : State → α → State} (hf : ∀ s a, Keeps s.tracked (f s a).tracked)
    (l : List α) {s : State} (h : Keeps t₀ s.tracked) : Keeps t₀ (each l f s).tracked :=
  each_keeps (Keeps t₀ ·.tracked) (fun s a hs => hs.trans (hf s a)) l h

@[simp] theorem foldl_keeps_tracked {α : Type} {t₀ : Tracked} {f : State → α → State} (hf : ∀ s a, Keeps s.tracked (f s a).tracked)
    (l : List α) {s : State} (h : Keeps t₀ s.tracked) : Keeps t₀ (l.foldl f s).tracked :=
  each_keeps_tracked hf l h

@[simp] theorem whenDo_keeps_tracked {t₀ : Tracked} {f : State → State} (hf : ∀ s, Keeps s.tracked (f s).tracked) (b : Bool) {s : State}
    (h : Keeps t₀ s.tracked) : Keeps t₀ (whenDo b f s).tracked :=
  whenDo_keeps (Keeps t₀ ·.tracked) (fun s hs => hs.trans (hf s)) b h

theorem Out.next_ite_keeps {t₀ : Tracked} {s t : State} (c : Prop) [Decidable c] (h : Machine.Keeps t₀ s.tracked)
    (ht : Machine.Keeps t₀ t.tracked) : Out.Keeps t₀ (.next (if c then t else s)) :=
  Out.keeps_next.2 (by split <;> assumption)

@[simp] theorem onIsl_keeps {t₀ : Tracked} {f : State → State} {s : State} (h : Keeps t₀ s.tracked) (hf : Keeps t₀ (f s).tracked)
    (i : Nat) : Out.Keeps t₀ (onIsl i s f) := Out.next_ite_keeps _ h hf

@[simp] theorem onLink_keeps {t₀ : Tracked} {f : State → State} {s : State} (h : Keeps t₀ s.tracked) (hf : Keeps t₀ (f s).tracked)
    (r : Nat) : Out.Keeps t₀ (onLink r s f) := Out.next_ite_keeps _ h hf

@[simp] theorem onStew_keeps {t₀ : Tracked} {f : State → State} {s : State} (h : Keeps t₀ s.tracked) (hf : Keeps t₀ (f s).tracked) :
    Out.Keeps t₀ (onStew s f) := Out.next_ite_keeps _ h hf

/-! ## What each operation does to the tracked parts -/

/-! ### Shared operations -/

@[simp] theorem sendEnt_tracked (src : Nat) (e : LogEnt) (s : State) : (sendEnt src e s).tracked = s.tracked := by
  simp [State.tracked, State.getHp]

@[simp] theorem raiseSev_tracked (c : LogCode) (v w i : Nat) (l : List (Nat × Nat)) (s : State) :
    (raiseSev c v w i l s).tracked = s.tracked := by
  simp [raiseSev]

@[simp] theorem raiseAt_tracked (c : LogCode) (w i : Nat) (l : List (Nat × Nat)) (s : State) :
    (raiseAt c w i l s).tracked = s.tracked := by
  simp [raiseAt]

@[simp] theorem raise_tracked (c : LogCode) (i : Nat) (l : List (Nat × Nat)) (s : State) : (raise c i l s).tracked = s.tracked := by
  simp [raise]

@[simp] theorem countAudit_tracked (s : State) : (countAudit s).tracked = s.tracked := by simp [countAudit]

@[simp] theorem raiseAudit_tracked (c : LogCode) (i : Nat) (l : List (Nat × Nat)) (s : State) :
    (raiseAudit c i l s).tracked = s.tracked := by
  simp [raiseAudit]

@[simp] theorem auditWrite_tracked (r p a : Nat) (v w : Word) (s : State) : (auditWrite r p a v w s).tracked = s.tracked := by
  simp [auditWrite]

@[simp] theorem irqPort_tracked (b p : Nat) (s : State) : (irqPort b p s).tracked = s.tracked := by simp [irqPort]
@[simp] theorem irqAll_tracked (b : Nat) (s : State) : (irqAll b s).tracked = s.tracked := by simp [irqAll]

@[simp] theorem galPuts_keeps {t₀ : Tracked} (g a : Nat) (bs : List Byte) {s : State} (h : Keeps t₀ s.tracked) :
    Keeps t₀ (galPuts g a bs s).tracked := by
  unfold galPuts
  split
  · exact State.modGal_keeps h (fun hw => memWf_mputs a bs hw)
  · exact h

@[simp] theorem endSession_tracked (c p : Nat) (s : State) : (endSession c p s).tracked = s.tracked := by
  simp only [endSession]
  split <;> simp

/-! ### Shared operations -/

@[simp] theorem galPutW_keeps {t₀ : Tracked} (g off : Nat) (w : Word) {s : State} (h : Keeps t₀ s.tracked) :
    Keeps t₀ (galPutW g off w s).tracked := by
  simp [h, galPutW]

@[simp] theorem noteStalls_tracked (s : State) : (noteStalls s).tracked = s.tracked := by simp [noteStalls]

@[simp] theorem stall_tracked (c : Chan) (ticks : Nat) (s : State) : (stall c ticks s).tracked = s.tracked := by simp [stall]

@[simp] theorem unstall_tracked (c : Chan) (s : State) : (unstall c s).tracked = s.tracked := by simp [unstall]

@[simp] theorem State.freeNext_tracked (s : State) : (State.freeNext s).2.tracked = s.tracked := (rfl)

/-! ### Galleries (chapter 15) -/

theorem galFollow_wf (d : GalPower) {x : Gal} (h : memWf galDefault x.mem = true) : memWf galDefault (galFollow d x).mem = true := by
  unfold galFollow
  split
  · exact h
  · exact h
  · rfl
  · rfl
  · split <;> exact h
  · exact h

@[simp] theorem galTouch_mem (now : Nat) (x : Gal) : (galTouch now x).mem = x.mem := rfl

@[simp] theorem galSettle_keeps {t₀ : Tracked} (g : Nat) {s : State} (h : Keeps t₀ s.tracked) :
    Keeps t₀ (galSettle g s).tracked := State.modGal_keeps h (galFollow_wf _)

@[simp] theorem galSettleAll_keeps {t₀ : Tracked} {s : State} (h : Keeps t₀ s.tracked) : Keeps t₀ (galSettleAll s).tracked := by
  simp [h, galSettleAll]

@[simp] theorem galClear_keeps {t₀ : Tracked} (g : Nat) {s : State} (h : Keeps t₀ s.tracked) :
    Keeps t₀ (galClear g s).tracked := State.modGal_keeps h (fun _ => rfl)

@[simp] theorem galCollide_keeps {t₀ : Tracked} (g off user host : Nat) {s : State} (h : Keeps t₀ s.tracked) :
    Keeps t₀ (galCollide g off user host s).tracked := by simp [galCollide, h]

@[simp] theorem galHostOp_keeps {t₀ : Tracked} (host g off : Nat) (op other : PortA) {s : State} (h : Keeps t₀ s.tracked) :
    Keeps t₀ (galHostOp host g off op other s).tracked := by
  unfold galHostOp
  split
  split
  extract_lets w s₁ s₂
  have h₁ : Keeps t₀ s₁.tracked := State.modGal_keeps h (fun hw => memWf_mputW _ _ hw)
  have h₂ : Keeps t₀ s₂.tracked := State.modGal_keeps_mem h₁ rfl
  split <;> simp [h₂]

@[simp] theorem galUncorr_keeps {t₀ : Tracked} (g off : Nat) {s : State} (h : Keeps t₀ s.tracked) :
    Keeps t₀ (galUncorr g off s).tracked := by simp [galUncorr, h]

@[simp] theorem galRead_keeps {t₀ : Tracked} (g off : Nat) (ecc : Ecc) {s : State} (h : Keeps t₀ s.tracked) :
    Keeps t₀ (galRead g off ecc s).tracked := by
  unfold galRead
  extract_lets s₁
  have h₁ : Keeps t₀ s₁.tracked := State.modGal_keeps_mem h rfl
  split
  · simp [h₁]
  · cases ecc <;> simp [h₁]

@[simp] theorem noteUpload_tracked (g off : Nat) (s : State) : (noteUpload g off s).tracked = s.tracked := by simp [noteUpload]

@[simp] theorem readRange_keeps {t₀ : Tracked} (g a n : Nat) {s : State} (h : Keeps t₀ s.tracked) :
    Keeps t₀ (readRange g a n s).tracked := by
  simp [h, readRange]

@[simp] theorem segCopy_keeps {t₀ : Tracked} (g a g' a' : Nat) {s : State} (h : Keeps t₀ s.tracked) :
    Keeps t₀ (segCopy g a g' a' s).tracked := by
  refine State.modGal_keeps ?_ (fun hw => memWf_mfill _ _ hw)
  simp [h]

@[simp] theorem segShadow_keeps {t₀ : Tracked} {s : State} (h : Keeps t₀ s.tracked) :
    Keeps t₀ (segShadow s).tracked := segCopy_keeps _ _ _ _ h

@[simp] theorem segRestore_keeps {t₀ : Tracked} {s : State} (h : Keeps t₀ s.tracked) : Keeps t₀ (segRestore s).tracked := by
  simp [h, segRestore]

@[simp] theorem execMemtestBorrow_keeps {t₀ : Tracked} {s : State} (h : Keeps t₀ s.tracked) :
    Out.Keeps t₀ (execMemtestBorrow s) := by
  refine onIsl_keeps h ?_ _
  split
  · extract_lets s₁ s₂
    have h₂ : Keeps t₀ s₂.tracked := by simp [s₂, s₁, h]
    simp [h₂]
  · exact h

@[simp] theorem segBad_keeps {t₀ : Tracked} (x : Nat) {s : State} (h : Keeps t₀ s.tracked) : Keeps t₀ (segBad x s).tracked := by
  simp [h, segBad]

@[simp] theorem execMemtestDone_keeps {t₀ : Tracked} (bad : Option Nat) {s : State} (h : Keeps t₀ s.tracked) :
    Out.Keeps t₀ (execMemtestDone bad s) := by
  refine onIsl_keeps h ?_ _
  split
  · cases bad <;> simp [h]
  · exact h

@[simp] theorem memYield_keeps {t₀ : Tracked} {s : State} (h : Keeps t₀ s.tracked) : Keeps t₀ (memYield s).tracked := by
  simp [h, memYield]

@[simp] theorem execMemtestYield_keeps {t₀ : Tracked} {s : State} (h : Keeps t₀ s.tracked) : Out.Keeps t₀ (execMemtestYield s) := by
  simp [h, execMemtestYield]

@[simp] theorem execGalleryClearDone_keeps {t₀ : Tracked} (g : Fin 8) {s : State} (h : Keeps t₀ s.tracked) :
    Out.Keeps t₀ (execGalleryClearDone g s) := by
  refine onIsl_keeps h ?_ _
  split
  · extract_lets d s₁
    have h₁ : Keeps t₀ s₁.tracked := State.modGal_keeps_mem h rfl
    simp [h₁]
  · exact h

@[simp] theorem execGalleryIdleRetain_keeps {t₀ : Tracked} (g : Fin 8) {s : State} (h : Keeps t₀ s.tracked) :
    Out.Keeps t₀ (execGalleryIdleRetain g s) := by
  simp [h, execGalleryIdleRetain]

@[simp] theorem execGalleryScrub_keeps {t₀ : Tracked} (g : Fin 8) (singles : Nat) (doubles : List Nat) {s : State}
  (h : Keeps t₀ s.tracked) :
    Out.Keeps t₀ (execGalleryScrub g singles doubles s) := by
  refine onStew_keeps h ?_
  split
  · extract_lets s₁
    have h₁ : Keeps t₀ s₁.tracked := State.modGal_keeps_mem h rfl
    simp [h₁]
  · exact h

@[simp] theorem galRegClear_keeps {t₀ : Tracked} (off : Nat) {s : State} (h : Keeps t₀ s.tracked) :
    Keeps t₀ (galRegClear off s).tracked := by
  unfold galRegClear
  split
  · split <;> simp [h]
  · split
    · simp [h]
    · split <;> simp [h]

@[simp] theorem galRegWrite_keeps {t₀ : Tracked} (p off : Nat) (v : Word) {s : State} (h : Keeps t₀ s.tracked) :
    Keeps t₀ (galRegWrite p off v s).tracked := by
  unfold galRegWrite
  repeat' split
  all_goals simp [h]

/-! ### Blocks, captures and budgets (chapter 16) -/

@[simp] theorem checkBudget_tracked (p : Nat) (s : State) : (checkBudget p s).tracked = s.tracked := by simp [checkBudget]

@[simp] theorem capEnd_tracked (code p : Nat) (s : State) : (capEnd code p s).tracked = s.tracked := by simp [capEnd]

/-- R394: a port that gives up blocks. -/
theorem HeldOk.shrink {h : Nat → List Nat × Nat} (hh : HeldOk h) (k : Nat) {l : List Nat} (hl : l.Sublist (h k).1) (c : Nat) :
    HeldOk (fun p => if p = k then (l, c) else h p) := by
  obtain ⟨hb, hx⟩ := hh
  have hsub : ∀ p, ∀ b ∈ (if p = k then (l, c) else h p).1, b ∈ (h p).1 := by
    intro p b hbm
    split at hbm
    · next hp => subst hp; exact hl.subset hbm
    · exact hbm
  refine ⟨fun p => ⟨fun b hbm => (hb p).1 b (hsub p b hbm), ?_⟩, fun p q hp hq hpq b hbp hbq => hx p q hp hq hpq b (hsub p b hbp)
    (hsub q b hbq)⟩
  dsimp only
  split
  · exact (hb k).2.sublist hl
  · exact (hb p).2

@[simp] theorem loseBlocks_keeps {t₀ : Tracked} (code p : Nat) (l : List Nat) {s : State} (h : Keeps t₀ s.tracked) :
    Keeps t₀ (loseBlocks code p l s).tracked := by
  unfold loseBlocks
  extract_lets s₁
  have h₁ : Keeps t₀ s₁.tracked := by simp [s₁, h]
  have h₂ := State.modHp_keeps (k := p) (f := fun x => { x with held := x.held.filter (fun b => !l.contains b) }) h₁
    (fun hh => hh.shrink p List.filter_sublist _) id
  rw [checkBudget_tracked]
  exact galSettle_keeps _ h₂

/-- R394: a free block lies in 0 to 255 and no port holds it. -/
theorem not_held_of_free {s : State} {b : Nat} (hb : b ∈ s.freeBlocks) : b < 256 ∧ ∀ p, b ∉ (s.getHp p).held := by
  obtain ⟨hlt, hno⟩ := List.mem_filter.1 hb
  refine ⟨List.mem_range.1 hlt, fun p hp => ?_⟩
  rcases tget_mem ({} : Hp) s.host.hp p with hd | hm
  · rw [State.getHp, hd] at hp
    cases hp
  · have hany : s.host.hp.any (fun e => e.2.held.contains b) = true :=
      List.any_eq_true.2 ⟨_, hm, by simpa [State.getHp] using hp⟩
    rw [hany] at hno
    cases hno

/-- R394: a port that takes free blocks. -/
theorem HeldOk.take {h : Nat → List Nat × Nat} (hh : HeldOk h) (k : Nat) {got l : List Nat} (hl : l.Perm ((h k).1 ++ got))
    (hn : got.Nodup) (hfree : ∀ b ∈ got, b < 256 ∧ ∀ p, b ∉ (h p).1) (c : Nat) : HeldOk (fun p => if p = k then (l, c) else h p) := by
  obtain ⟨hb, hx⟩ := hh
  have hmem : ∀ b, b ∈ l ↔ b ∈ (h k).1 ∨ b ∈ got := fun b => by rw [hl.mem_iff, List.mem_append]
  have hother : ∀ p, p < 4 → k < 4 → p ≠ k → ∀ b ∈ (h p).1, b ∉ l := by
    intro p hp hk hpk b hbp hbl
    rcases (hmem b).1 hbl with hbk | hbg
    · exact hx p k hp hk hpk b hbp hbk
    · exact (hfree b hbg).2 p hbp
  refine ⟨fun p => ?_, fun p q hp hq hpq b hbp => ?_⟩
  · dsimp only
    split
    · refine ⟨fun b hbl => ?_, hl.nodup_iff.2 ((hb k).2.append hn (fun b hbk hbg => (hfree b hbg).2 k hbk))⟩
      rcases (hmem b).1 hbl with hbk | hbg
      · exact (hb k).1 b hbk
      · exact (hfree b hbg).1
    · exact hb p
  · by_cases hpk : p = k
    · subst hpk
      simp only [if_true, if_neg (Ne.symm hpq)] at hbp ⊢
      exact fun hbq => hother q hq hp (Ne.symm hpq) b hbq hbp
    · simp only [if_neg hpk] at hbp
      by_cases hqk : q = k
      · subst hqk
        simpa only [if_true] using hother p hp hq hpk b hbp
      · simpa only [if_neg hqk] using hx p q hp hq hpq b hbp

/-- Clearing blocks keeps a gallery's form. -/
theorem memWf_blocksCleared (got : List Nat) {m : Mem} (h : memWf galDefault m = true) :
    memWf galDefault (got.foldl (fun m b => mclear m (0x10000 * b) 0x10000) m) = true :=
  List.foldlRecOn got _ (motive := (memWf galDefault · = true)) h (fun _ hm _ _ => memWf_mclear _ _ hm)

@[simp] theorem blockGo_keeps {t₀ : Tracked} (p n : Nat) {s : State} (h : Keeps t₀ s.tracked) :
    Keeps t₀ (blockGo p n s).tracked := by
  unfold blockGo
  extract_lets free res got s₁ s₂
  have hres : ∀ v {s : State}, Keeps t₀ s.tracked → Keeps t₀ (res v s).tracked := fun v s h => by simp [res, h]
  have h₁ : Keeps t₀ s₁.tracked := by
    refine hres 0 (State.modHp_keeps h (fun hh => ?_) id)
    exact hh.take p (sortBy_perm _ _) ((List.nodup_range.filter _).sublist (List.take_sublist _ _))
      (fun b hb => not_held_of_free (List.mem_of_mem_take hb)) _
  have h₂ : Keeps t₀ s₂.tracked := State.modGal_keeps h₁ (fun hw => memWf_blocksCleared got hw)
  split
  · exact hres 3 h
  · split
    · exact hres 1 h
    · split
      · exact hres 2 h
      · rw [checkBudget_tracked]
        exact galSettle_keeps 2 h₂

@[simp] theorem releaseBlocks_keeps {t₀ : Tracked} (p w : Nat) (mask : Word) {s : State} (h : Keeps t₀ s.tracked) :
    Keeps t₀ (releaseBlocks p w mask s).tracked := by
  simp [h, releaseBlocks]

@[simp] theorem evictPort_keeps {t₀ : Tracked} (role host p : Nat) {s : State} (h : Keeps t₀ s.tracked) :
    Keeps t₀ (evictPort role host p s).tracked := by
  simp [h, evictPort]

@[simp] theorem budgetSet_tracked (role host p : Nat) (v : Word) (s : State) : (budgetSet role host p v s).tracked = s.tracked := by
  simp [budgetSet]

@[simp] theorem capSee_tracked (source : Nat) (hit : Word → Bool) (e : CapEnt) (s : State) :
    (capSee source hit e s).tracked = s.tracked := by
  simp [capSee]

@[simp] theorem captureEntry_keeps {t₀ : Tracked} (p : Nat) {s : State} (h : Keeps t₀ s.tracked) :
    Keeps t₀ (captureEntry p s).tracked := by
  unfold captureEntry
  extract_lets c
  split
  · next e rest _ _ =>
    extract_lets s₁ s₂
    have h₂ : Keeps t₀ s₂.tracked := by simp [s₂, s₁, h]
    split <;> simp [h₂]
  · exact h

@[simp] theorem execCaptureEntry_keeps {t₀ : Tracked} (host : Fin 4) {s : State} (h : Keeps t₀ s.tracked) :
    Out.Keeps t₀ (execCaptureEntry host s) := by
  simp [h, execCaptureEntry]

@[simp] theorem capGone_tracked (gone : Nat → Word → Bool) (s : State) : (capGone gone s).tracked = s.tracked := by simp [capGone]

@[simp] theorem capRingGone_tracked (r : Nat) (s : State) : (capRingGone r s).tracked = s.tracked := by simp [capRingGone]

@[simp] theorem capCtxGone_tracked (c : Nat) (s : State) : (capCtxGone c s).tracked = s.tracked := by simp [capCtxGone]

/-! ### Rings -/

@[simp] theorem dropService_tracked (r : Nat) (s : State) : (dropService r s).tracked = s.tracked := by simp [dropService]

@[simp] theorem retirePort_tracked (crit k : Nat) (s : State) : (retirePort crit k s).tracked = s.tracked := by simp [retirePort]

@[simp] theorem leaveLock_tracked (k : Nat) (rx : Rx) (s : State) : (leaveLock k rx s).tracked = s.tracked := by simp [leaveLock]

@[simp] theorem badPeriod_tracked (k : Nat) (s : State) : (badPeriod k s).tracked = s.tracked := by simp [badPeriod]

@[simp] theorem noComma_tracked (k : Nat) (s : State) : (noComma k s).tracked = s.tracked := by unfold noComma; split <;> simp

@[simp] theorem waitsFrom_tracked (h f : Nat) (waits : List Nat) (dw de : Int) (s : State) :
    (waitsFrom h f waits dw de s).tracked = s.tracked := by
  simp [waitsFrom]

@[simp] theorem turnHead_tracked (h f : Nat) (east : Bool) (s : State) : (turnHead h f east s).tracked = s.tracked := by simp [turnHead]

@[simp] theorem fillHole_tracked (r frame pos : Nat) (bs : List Byte) (s : State) : (fillHole r frame pos bs s).tracked = s.tracked := by
  simp [fillHole]

@[simp] theorem laneFill_tracked (r near : Nat) (cs : List Chr) (s : State) : (laneFill r near cs s).tracked = s.tracked := by
  simp [laneFill]

@[simp] theorem turnHalf_tracked (k w ft : Nat) (s : State) : (turnHalf k w ft s).tracked = s.tracked := by simp [turnHalf]

@[simp] theorem firstTurned_tracked (k : Nat) (h : FrameHdr) (s : State) : (firstTurned k h s).tracked = s.tracked := by
  simp [firstTurned]

@[simp] theorem seeLooped_tracked (k : Nat) (h : FrameHdr) (s : State) : (seeLooped k h s).tracked = s.tracked := by simp [seeLooped]

@[simp] theorem keepCopy_tracked (k frame arrival : Nat) (looped : Bool) (slots : List (Grade × List Byte)) (s : State) :
    (keepCopy k frame arrival looped slots s).tracked = s.tracked := by
  simp [keepCopy]

@[simp] theorem goodFrame_tracked (k arrival : Nat) (h : FrameHdr) (s : State) : (goodFrame k arrival h s).tracked = s.tracked := by
  simp [goodFrame]

@[simp] theorem ridMismatch_tracked (k : Nat) (s : State) : (ridMismatch k s).tracked = s.tracked := by simp [ridMismatch]

@[simp] theorem lockedFrame_tracked (k arrival : Nat) (h : FrameHdr) (cs : List Chr) (s : State) :
    (lockedFrame k arrival h cs s).tracked = s.tracked := by
  simp -implicitDefEqProofs [lockedFrame]

@[simp] theorem alignFrame_tracked (k arrival : Nat) (h : FrameHdr) (s : State) : (alignFrame k arrival h s).tracked = s.tracked := by
  simp [alignFrame]

@[simp] theorem receiveFrame_tracked (k arrival codeErr : Nat) (cs : List Chr) (s : State) :
    (receiveFrame k arrival codeErr cs s).tracked = s.tracked := by
  simp only [receiveFrame]
  repeat' split
  all_goals simp

@[simp] theorem askCell_tracked (r c : Nat) (q : CellReq) (s : State) : (askCell r c q s).tracked = s.tracked := by simp [askCell]

@[simp] theorem sendFrames_tracked (s : State) : (sendFrames s).tracked = s.tracked := by simp -implicitDefEqProofs [sendFrames]

@[simp] theorem foundHead_tracked (r hop pos : Nat) (s : State) : (foundHead r hop pos s).tracked = s.tracked := by simp [foundHead]

@[simp] theorem resolveHop_tracked (p : Plan) (r : Nat) (s : State) (e : Option (BitVec 64) × Nat) :
    (resolveHop p r s e).tracked = s.tracked := by
  unfold resolveHop
  repeat' split
  all_goals simp

@[simp] theorem resolveHeads_tracked (r : Nat) (ids : List (Option (BitVec 64))) (s : State) :
    (resolveHeads r ids s).tracked = s.tracked := by
  unfold resolveHeads
  split <;> simp

@[simp] theorem enumRing_tracked (r : Nat) (ids : List (Option (BitVec 64))) (s : State) : (enumRing r ids s).tracked = s.tracked := by
  simp [enumRing]

@[simp] theorem setDelays_tracked (r : Nat) (s : State) (e : Nat × Int) : (setDelays r s e).tracked = s.tracked := by simp [setDelays]

@[simp] theorem sendWaits_tracked (r at_ : Nat) (s : State) (pos : Nat) : (sendWaits r at_ s pos).tracked = s.tracked := by
  simp [sendWaits]

@[simp] theorem refreshWaits_tracked (r : Nat) (s : State) : (refreshWaits r s).tracked = s.tracked := by simp [refreshWaits]

@[simp] theorem measureRing_tracked (r : Nat) (deltas : List (Nat × Int)) (s : State) : (measureRing r deltas s).tracked = s.tracked := by
  unfold measureRing
  extract_lets rg half arr de dw lim s₁ s₂ s₃ long s₄ s₅ s₆
  have h₁ : s₁.tracked = s.tracked := by simp [s₁]
  have h₆ : s₆.tracked = s.tracked := by simp [s₆, s₅, s₄, s₃, s₂, h₁]
  clear_value s₆ rg
  split
  · simp [h₁]
  · repeat' split
    all_goals simp [h₆]

@[simp] theorem setMods_tracked (r : Nat) (s : State) (e : Nat × Nat × Nat) : (setMods r s e).tracked = s.tracked := by simp [setMods]

@[simp] theorem waitsRing_tracked (r : Nat) (mods : List (Nat × Nat × Nat)) (s : State) : (waitsRing r mods s).tracked = s.tracked := by
  simp [waitsRing]

@[simp] theorem broadcast_tracked (r f : Nat) (s : State) : (broadcast r f s).tracked = s.tracked := by simp [broadcast]

@[simp] theorem runRing_tracked (r f : Nat) (s : State) : (runRing r f s).tracked = s.tracked := by simp [runRing]

@[simp] theorem gradeNext_tracked (r : Nat) (s : State) : (gradeNext r s).2.tracked = s.tracked := by
  simp -implicitDefEqProofs [gradeNext]

@[simp] theorem cellDone_tracked (r c seq : Nat) (s : State) : (cellDone r c seq s).tracked = s.tracked := by simp [cellDone]

@[simp] theorem ringGo_tracked (r : Nat) (s : State) : (ringGo r s).tracked = s.tracked := by simp [ringGo]

@[simp] theorem linkWrite_tracked (k off : Nat) (v : Word) (s : State) : (linkWrite k off v s).tracked = s.tracked := by
  unfold linkWrite; split <;> simp

@[simp] theorem ringWrite_tracked (r off : Nat) (v : Word) (s : State) : (ringWrite r off v s).tracked = s.tracked := by
  unfold ringWrite; split <;> simp

@[simp] theorem linkClear_tracked (k off : Nat) (s : State) : (linkClear k off s).tracked = s.tracked := by
  unfold linkClear; split <;> simp

@[simp] theorem ringClear_tracked (r off : Nat) (s : State) : (ringClear r off s).tracked = s.tracked := by
  unfold ringClear; split <;> simp

@[simp] theorem execPortSignalDetect_tracked (k : Fin 64) (s : State) : trackedAfter (execPortSignalDetect k s) = some s.tracked := by
  simp [execPortSignalDetect]

@[simp] theorem execClockRecoveryLocked_tracked (k : Fin 64) (s : State) :
    trackedAfter (execClockRecoveryLocked k s) = some s.tracked := by
  simp [execClockRecoveryLocked]

@[simp] theorem execPortSignalLost_tracked (k : Fin 64) (s : State) : trackedAfter (execPortSignalLost k s) = some s.tracked := by
  simp [execPortSignalLost]

@[simp] theorem execFrameReceive_tracked (k : Fin 64) (arrival codeErr : Nat) (chars : List Chr) (s : State) :
    trackedAfter (execFrameReceive k arrival codeErr chars s) = some s.tracked := by
  simp [execFrameReceive]

@[simp] theorem execCommaMissing_tracked (k : Fin 64) (s : State) : trackedAfter (execCommaMissing k s) = some s.tracked := by
  simp [execCommaMissing]

@[simp] theorem execPortRetire_tracked (k : Fin 64) (s : State) : trackedAfter (execPortRetire k s) = some s.tracked := by
  simp [execPortRetire]

@[simp] theorem execRingEnum_tracked (r : Fin 32) (ids : List (Option (BitVec 64))) (s : State) :
    trackedAfter (execRingEnum r ids s) = some s.tracked := by
  simp [execRingEnum]

@[simp] theorem execRingEnumRetry_tracked (r : Fin 32) (ids : List (Option (BitVec 64))) (s : State) :
    trackedAfter (execRingEnumRetry r ids s) = some s.tracked := by
  refine onLink_tracked ?_ _
  split <;> simp

@[simp] theorem execRingMeasureCycle_tracked (r : Fin 32) (deltas : List (Fin 128 × Int)) (s : State) :
    trackedAfter (execRingMeasureCycle r deltas s) = some s.tracked := by
  refine onLink_tracked ?_ _
  split <;> simp

@[simp] theorem execRingRun_tracked (r : Fin 32) (frame : Nat) (s : State) : trackedAfter (execRingRun r frame s) = some s.tracked := by
  simp [execRingRun]

@[simp] theorem unwrapRing_tracked (r fu : Nat) (s : State) : (unwrapRing r fu s).tracked = s.tracked := by simp [unwrapRing]

@[simp] theorem execRingUnwrap_tracked (r : Fin 32) (fu : Nat) (s : State) : trackedAfter (execRingUnwrap r fu s) = some s.tracked := by
  simp [execRingUnwrap]

@[simp] theorem execRingRestored_tracked (r : Fin 32) (s : State) : trackedAfter (execRingRestored r s) = some s.tracked := by
  refine onLink_tracked ?_ _
  dsimp only
  split <;> simp -implicitDefEqProofs

/-! ### Heads -/

@[simp] theorem pushChange_tracked (h : Nat) (c : Change) (s : State) : (pushChange h c s).tracked = s.tracked := by simp [pushChange]

@[simp] theorem pushOff_tracked (h : Nat) (c : Change) (s : State) : (pushOff h c s).tracked = s.tracked := by simp [pushOff]

@[simp] theorem pushPx_tracked (h : Nat) (c : Change) (s : State) : (pushPx h c s).tracked = s.tracked := by simp [pushPx]

@[simp] theorem accEnd_tracked (p result resp : Nat) (s : State) : (accEnd p result resp s).tracked = s.tracked := by simp [accEnd]

@[simp] theorem changeLost_tracked (result resp : Nat) (c : Change) (s : State) : (changeLost result resp c s).tracked = s.tracked := by
  unfold changeLost
  split <;> simp

@[simp] theorem detFaults_tracked (h causeP causeA : Nat) (s : State) : (detFaults h causeP causeA s).tracked = s.tracked := by
  simp only [detFaults]
  repeat' split
  all_goals simp

@[simp] theorem restoreEnd_tracked (kind idx role host result : Nat) (s : State) :
    (restoreEnd kind idx role host result s).tracked = s.tracked := by
  simp [restoreEnd]

@[simp] theorem restoreDropped_tracked (h : Nat) (s : State) : (restoreDropped h s).tracked = s.tracked := by
  unfold restoreDropped; split <;> simp

@[simp] theorem headAbsent_tracked (h : Nat) (s : State) : (headAbsent h s).tracked = s.tracked := by simp [headAbsent]

@[simp] theorem admitHead_tracked (h : Nat) (id : HeadIdent) (a0 : Nat) (ph : PlanHead) (trimP trimA : Word) (s : State) :
    (admitHead h id a0 ph trimP trimA s).tracked = s.tracked := by
  simp [admitHead]

@[simp] theorem healthReply_tracked (h : Nat) (w : Word) (s : State) : (healthReply h w s).tracked = s.tracked := by simp [healthReply]

@[simp] theorem updChange_tracked (h : Nat) (off : Bool) (t : Change → Bool) (f : Change → Option Change) (s : State) :
    (updChange h off t f s).tracked = s.tracked := by
  simp [updChange]

@[simp] theorem updNext_tracked (h : Nat) (off : Bool) (f : Change → Change) (s : State) : (updNext h off f s).tracked = s.tracked := by
  simp [updNext]

@[simp] theorem updSent_tracked (h : Nat) (off : Bool) (fl : CellFly) (f : Change → Option Change) (s : State) :
    (updSent h off fl f s).tracked = s.tracked := by
  simp [updSent]

@[simp] theorem changeAccepted_tracked (h : Nat) (off : Bool) (f : CellFly) (s : State) :
    (changeAccepted h off f s).tracked = s.tracked := by
  unfold changeAccepted
  repeat' split
  all_goals simp

@[simp] theorem changeRefused_tracked (h : Nat) (off : Bool) (f : CellFly) (result resp : Nat) (s : State) :
    (changeRefused h off f result resp s).tracked = s.tracked := by
  unfold changeRefused
  split <;> simp

@[simp] theorem cellExhausted_tracked (r : Nat) (f : CellFly) (s : State) : (cellExhausted r f s).tracked = s.tracked := by
  unfold cellExhausted
  split <;> simp

@[simp] theorem accGo_tracked (role p : Nat) (s : State) : (accGo role p s).tracked = s.tracked := by unfold accGo; split <;> simp

@[simp] theorem headClear_tracked (h off : Nat) (s : State) : (headClear h off s).tracked = s.tracked := by
  unfold headClear; split <;> simp

@[simp] theorem accWrite_tracked (role p off : Nat) (v : Word) (s : State) : (accWrite role p off v s).tracked = s.tracked := by
  unfold accWrite
  split <;> simp

@[simp] theorem execHealthPoll_tracked (h : Fin 4096) (s : State) : trackedAfter (execHealthPoll h s) = some s.tracked := by
  simp [execHealthPoll]

/-! ### The staircase -/

@[simp] theorem startEngine_tracked (e r : Nat) (cfg : StairCfg) (st : EngSt) (s : State) :
    (startEngine e r cfg st s).tracked = s.tracked := by
  simp [startEngine]

@[simp] theorem freeEngine_tracked (e : Nat) (s : State) : (freeEngine e s).tracked = s.tracked := by simp [freeEngine]

@[simp] theorem retireEngine_tracked (crit e : Nat) (s : State) : (retireEngine crit e s).tracked = s.tracked := by simp [retireEngine]

@[simp] theorem startHandover_tracked (e : Nat) (s : State) : (startHandover e s).tracked = s.tracked := by
  unfold startHandover; split <;> simp

@[simp] theorem replaceTaker_tracked (e r : Nat) (s : State) : (replaceTaker e r s).tracked = s.tracked := by
  unfold replaceTaker; split <;> simp

@[simp] theorem engineFault_tracked (e : Nat) (s : State) : (engineFault e s).tracked = s.tracked := by
  simp only [engineFault]
  repeat' split
  all_goals simp

@[simp] theorem noteSat_tracked (e r st : Nat) (s : State) : (noteSat e r st s).tracked = s.tracked := by simp [noteSat]

@[simp] theorem engineSample_tracked (e r st : Nat) (q : Samp) (s : State) : (engineSample e r st q s).2.tracked = s.tracked := by
  unfold engineSample
  dsimp only
  split <;> simp -implicitDefEqProofs

@[simp] theorem watchOutput_tracked (r st : Nat) (cfg : StairCfg) (o : StOut) (s : State) :
    (watchOutput r st cfg o s).tracked = s.tracked := by
  refine each_tracked (fun s a => ?_) _ _
  dsimp only
  repeat' split
  all_goals simp

@[simp] theorem wpWrite_tracked (w off : Nat) (v : Word) (s : State) : (wpWrite w off v s).tracked = s.tracked := by
  unfold wpWrite; split <;> simp

@[simp] theorem stcWrite_tracked (e off : Nat) (v : Word) (s : State) : (stcWrite e off v s).tracked = s.tracked := by simp [stcWrite]

@[simp] theorem stcClear_tracked (e off : Nat) (s : State) : (stcClear e off s).tracked = s.tracked := by simp [stcClear]

@[simp] theorem keepDelivered_tracked (e t st : Nat) (s : State) : (keepDelivered e t st s).tracked = s.tracked := by simp [keepDelivered]

@[simp] theorem switchEngine_tracked (r e t : Nat) (s : State) : (switchEngine r e t s).tracked = s.tracked := by
  simp -implicitDefEqProofs [switchEngine]

@[simp] theorem execHandoverSwitch_tracked (r : Fin 32) (s : State) : trackedAfter (execHandoverSwitch r s) = some s.tracked := by
  refine onIsl_tracked ?_ _
  split <;> simp

@[simp] theorem execStairSelftest_tracked (e : Fin 33) (pass : Bool) (s : State) :
    trackedAfter (execStairSelftest e pass s) = some s.tracked := by
  simp [execStairSelftest]

/-! ### Groups and cycles -/

@[simp] theorem keepSample_tracked (gi k slot tick : Nat) (pc : PlanCtx) (x : CSample) (s : State) :
    (keepSample gi k slot tick pc x s).tracked = s.tracked := by
  simp [keepSample]

@[simp] theorem formNext_tracked (c slot : Nat) (s : State) : (formNext c slot s).tracked = s.tracked := by
  simp only [formNext]
  repeat' split
  all_goals simp

@[simp] theorem endCycle_tracked (gi : Nat) (s : State) : (endCycle gi s).tracked = s.tracked := by
  unfold endCycle
  dsimp only
  split
  · split
    · rfl
    · simp
  · rfl

@[simp] theorem declareGroup_tracked (gi : Nat) (p : Plan) (s : State) : (declareGroup gi p s).tracked = s.tracked := by
  unfold declareGroup
  split <;> simp

@[simp] theorem beginGroup_tracked (gi start : Nat) (p : Plan) (s : State) : (beginGroup gi start p s).tracked = s.tracked := by
  unfold beginGroup
  split <;> simp

@[simp] theorem fgWrite_tracked (gi off : Nat) (v : Word) (s : State) : (fgWrite gi off v s).tracked = s.tracked := by
  unfold fgWrite; split <;> simp

@[simp] theorem fgClear_tracked (gi off : Nat) (s : State) : (fgClear gi off s).tracked = s.tracked := by unfold fgClear; split <;> simp

@[simp] theorem commitFreq_tracked (gi k : Nat) (s : State) : (commitFreq gi k s).tracked = s.tracked := by simp [commitFreq]

@[simp] theorem execCycleSampleForm_tracked (c : Fin 160) (slot : Fin 8) (s : State) :
    trackedAfter (execCycleSampleForm c slot s) = some s.tracked := by
  simp [execCycleSampleForm]

/-! ### The tally units -/

@[simp] theorem sendToken_tracked (gi k tok : Nat) (s : State) : (sendToken gi k tok s).tracked = s.tracked := by simp [sendToken]

@[simp] theorem flatStep_tracked (c : Nat) (s : State) : ((flatStep c s).getD s).tracked = s.tracked := by
  unfold flatStep
  split
  · rfl
  · extract_lets g
    split
    · rfl
    · split
      · rfl
      · extract_lets hold
        split
        · rfl
        · split
          · split <;> rfl
          · rfl

@[simp] theorem cycStep_tracked (c : Nat) (s : State) : ((cycStep c s).getD s).tracked = s.tracked := by
  unfold cycStep
  split
  · rfl
  · extract_lets g cyc
    split
    · split
      · rfl
      · split
        · rfl
        · split <;> rfl
    · rfl

@[simp] theorem ctxLatchGo_tracked (p c : Nat) (s : State) : (ctxLatchGo p c s).tracked = s.tracked := by simp [ctxLatchGo]

@[simp] theorem presetGo_tracked (role p c : Nat) (s : State) : (presetGo role p c s).tracked = s.tracked := by
  unfold presetGo; split <;> simp

@[simp] theorem ctxWrite_tracked (role p c off : Nat) (v : Word) (s : State) : (ctxWrite role p c off v s).tracked = s.tracked := by
  unfold ctxWrite
  split <;> simp

@[simp] theorem execTallyFlatSample_tracked (c : Fin 160) (s : State) : trackedAfter (execTallyFlatSample c s) = some s.tracked := by
  simp [execTallyFlatSample]

@[simp] theorem execTallyCycle_tracked (c : Fin 160) (s : State) : trackedAfter (execTallyCycle c s) = some s.tracked := by
  simp [execTallyCycle]

@[simp] theorem execTallyFlatCheckpoint_tracked (u : Fin 9) (s : State) :
    trackedAfter (execTallyFlatCheckpoint u s) = some s.tracked := by
  simp -implicitDefEqProofs [execTallyFlatCheckpoint]

/-! ### Pulses -/

@[simp] theorem logRebases_tracked (o : Nat) (taken : List OutChange) (s : State) : (logRebases o taken s).tracked = s.tracked := by
  simp [logRebases]

@[simp] theorem newUse_tracked (o a k : Nat) (grp : Option Nat) (taken : List OutChange) (c : OutChange) (s : State) :
    (newUse o a k grp taken c s).tracked = s.tracked := by
  simp [newUse]

@[simp] theorem applyChanges_tracked (gi k a : Nat) (s : State) : (applyChanges gi k a s).tracked = s.tracked := by
  refine each_tracked (fun s a => ?_) _ _
  dsimp only
  repeat' split
  all_goals simp

@[simp] theorem creditOut_tracked (o k a len quanta : Nat) (s : State) : (creditOut o k a len quanta s).tracked = s.tracked := by
  simp [creditOut]

@[simp] theorem creditCtxs_tracked (gi k : Nat) (harm : Bool) (cs : List Nat) (s : State) :
    (creditCtxs gi k harm cs s).tracked = s.tracked := by
  refine each_tracked (fun s a => ?_) _ _
  dsimp only
  repeat' split
  all_goals simp

@[simp] theorem resumeOuts_tracked (gi k : Nat) (s : State) : (resumeOuts gi k s).tracked = s.tracked := by simp [resumeOuts]

@[simp] theorem execPulseUnit_tracked (s : State) : trackedAfter (execPulseUnit s) = some s.tracked := by
  simp -implicitDefEqProofs [execPulseUnit]

@[simp] theorem execPulseEnd_tracked (o : Fin 16) (s : State) : trackedAfter (execPulseEnd o s) = some s.tracked := by
  simp -implicitDefEqProofs [execPulseEnd]

@[simp] theorem setOut_tracked (role host o : Nat) (rebase : Bool) (c : PlsCfg) (width : Nat) (s : State) :
    (setOut role host o rebase c width s).tracked = s.tracked := by
  unfold setOut
  dsimp only
  split <;> simp

@[simp] theorem setOutCfg_tracked (role host o : Nat) (c : PlsCfg) (s : State) : (setOutCfg role host o c s).tracked = s.tracked := by
  simp [setOutCfg]

@[simp] theorem outWrite_tracked (role host o off : Nat) (v : Word) (s : State) : (outWrite role host o off v s).tracked = s.tracked := by
  unfold outWrite
  dsimp only
  split <;> simp

@[simp] theorem outClear_tracked (o off : Nat) (s : State) : (outClear o off s).tracked = s.tracked := by unfold outClear; split <;> simp

@[simp] theorem sampleInputs_tracked (lv : BitVec 16) (s : State) : (sampleInputs lv s).tracked = s.tracked := by
  simp -implicitDefEqProofs [sampleInputs]

@[simp] theorem execPulseInEdge_tracked (i : Fin 16) (s : State) : trackedAfter (execPulseInEdge i s) = some s.tracked := by
  simp -implicitDefEqProofs [execPulseInEdge]

@[simp] theorem commitInputs_tracked (gi k close : Nat) (s : State) : (commitInputs gi k close s).tracked = s.tracked := by
  simp -implicitDefEqProofs [commitInputs]

@[simp] theorem applyPreset_tracked (i : Nat) (s : State) : (applyPreset i s).tracked = s.tracked := by
  unfold applyPreset; dsimp only; split <;> simp

@[simp] theorem execLegacyPresetApply_tracked (i : Fin 16) (s : State) : trackedAfter (execLegacyPresetApply i s) = some s.tracked := by
  simp [execLegacyPresetApply]

@[simp] theorem inWrite_tracked (role host i off : Nat) (v : Word) (s : State) : (inWrite role host i off v s).tracked = s.tracked := by
  unfold inWrite
  split <;> simp

@[simp] theorem inClear_tracked (i off : Nat) (s : State) : (inClear i off s).tracked = s.tracked := by unfold inClear; split <;> simp

@[simp] theorem loseTally_tracked (k c : Nat) (s : State) : (loseTally k c s).tracked = s.tracked := by simp [loseTally]

@[simp] theorem blockDone_tracked (gi k b : Nat) (s : State) : (blockDone gi k b s).tracked = s.tracked := by simp [blockDone]

@[simp] theorem execTallyWindowDone_tracked (u : Fin 9) (g : Fin 16) (s : State) :
    trackedAfter (execTallyWindowDone u g s) = some s.tracked := by
  simp [execTallyWindowDone]

/-! ### Spectra -/

@[simp] theorem harmTake_tracked (c slot : Nat) (s : State) : (harmTake c slot s).tracked = s.tracked := by
  simp only [harmTake]
  repeat' split
  all_goals simp

@[simp] theorem putRecord_keeps {t₀ : Tracked} (c k close : Nat) (o : HarmOut) (a : AggOut) {s : State} (h : Keeps t₀ s.tracked) :
    Keeps t₀ (putRecord c k close o a s).tracked := galPuts_keeps _ _ _ (galPuts_keeps _ _ _ (galPuts_keeps _ _ _
      (galPuts_keeps _ _ _ h)))

@[simp] theorem harmCtx_keeps {t₀ : Tracked} (gi k : Nat) (lost : Bool) (x : PlanCtx) {s : State} (h : Keeps t₀ s.tracked) :
    Keeps t₀ (harmCtx gi k lost x s).tracked := by
  refine foldl_keeps_tracked (fun s i => ?_) _ h
  exact putRecord_keeps _ _ _ _ _ (.refl _)

@[simp] theorem harmBlockDone_keeps {t₀ : Tracked} (gi k b : Nat) {s : State} (h : Keeps t₀ s.tracked) :
    Keeps t₀ (harmBlockDone gi k b s).tracked := by
  simp [h, harmBlockDone]

@[simp] theorem execHarmWindowDone_keeps {t₀ : Tracked} (e : Fin 5) (g : Fin 16) {s : State} (h : Keeps t₀ s.tracked) :
    Out.Keeps t₀ (execHarmWindowDone e g s) := by
  refine onIsl_keeps h ?_ _
  dsimp only
  split
  · exact h
  · exact each_keeps_tracked (fun s b => harmBlockDone_keeps _ _ b (.refl _)) _ h

@[simp] theorem execHarmCycleSample_tracked (c : Fin 160) (slot : Fin 8) (s : State) :
    trackedAfter (execHarmCycleSample c slot s) = some s.tracked := by
  simp [execHarmCycleSample]

@[simp] theorem advanceRounds_tracked (k : Nat) (s : State) : (advanceRounds k s).tracked = s.tracked := by simp [advanceRounds]

@[simp] theorem startRounds_tracked (k0 : Nat) (s : State) : (startRounds k0 s).tracked = s.tracked := by simp [startRounds]

@[simp] theorem copyShPage_keeps {t₀ : Tracked} (src dst : Nat) {s : State} (h : Keeps t₀ s.tracked) :
    Keeps t₀ (copyShPage src dst s).tracked := by
  unfold copyShPage
  split
  · exact State.modGal_keeps h (fun hw => memWf_memCopy _ _ _ hw)
  · exact h

@[simp] theorem restartRounds_keeps {t₀ : Tracked} {s : State} (h : Keeps t₀ s.tracked) : Keeps t₀ (restartRounds s).tracked := by
  simp only [restartRounds]
  repeat' split
  all_goals simp [h]

@[simp] theorem routeRaw_keeps {t₀ : Tracked} (j k : Nat) (q : Raw) {s : State} (h : Keeps t₀ s.tracked) :
    Keeps t₀ (routeRaw j k q s).tracked := by
  unfold routeRaw
  dsimp only
  split <;> simp [h]

@[simp] theorem flushRaw_keeps {t₀ : Tracked} (n : Nat) {s : State} (h : Keeps t₀ s.tracked) : Keeps t₀ (flushRaw n s).tracked := by
  induction n generalizing s with
  | zero => exact h
  | succ n ih =>
    unfold flushRaw
    split
    · exact h
    · extract_lets pop
      have hp : Keeps t₀ (pop s).tracked := by simp [pop, h]
      split
      · exact h
      · split
        · exact ih (routeRaw_keeps _ _ _ hp)
        · exact ih hp

@[simp] theorem selectRaw_keeps {t₀ : Tracked} (r st : Nat) (q : Raw) {s : State} (h : Keeps t₀ s.tracked) :
    Keeps t₀ (selectRaw r st q s).tracked := by
  simp [h, selectRaw]

@[simp] theorem execShRawSample_keeps {t₀ : Tracked} (lane : Fin 8) {s : State} (h : Keeps t₀ s.tracked) :
    Out.Keeps t₀ (execShRawSample lane s) := by
  refine onIsl_keeps h ?_ _
  dsimp only
  split
  · exact h
  · split
    · exact flushRaw_keeps _ h
    · repeat' split
      all_goals simp [h]

@[simp] theorem putShRecord_keeps {t₀ : Tracked} (at_ : Nat) (bs : List Byte) {s : State} (h : Keeps t₀ s.tracked) :
    Keeps t₀ (putShRecord at_ bs s).tracked := galPuts_keeps _ _ _ (galPuts_keeps _ _ _ (galPuts_keeps _ _ _ (galPuts_keeps _ _ _ h)))

@[simp] theorem openShPage_keeps {t₀ : Tracked} (k : Nat) {s : State} (h : Keeps t₀ s.tracked) :
    Keeps t₀ (openShPage k s).tracked := by
  unfold openShPage
  split <;> simp [h]

@[simp] theorem putShPages_keeps {t₀ : Tracked} (k off : Nat) (bs : List Byte) {s : State} (h : Keeps t₀ s.tracked) :
    Keeps t₀ (putShPages k off bs s).tracked := by
  simp [h, putShPages]

@[simp] theorem endVisit_keeps {t₀ : Tracked} (k l : Nat) (cut : Bool) {s : State} (h : Keeps t₀ s.tracked) :
    Keeps t₀ (endVisit k l cut s).tracked := by
  unfold endVisit
  dsimp only
  split <;> simp [h]

@[simp] theorem laneDone_keeps {t₀ : Tracked} (k l : Nat) (lost : Bool) {s : State} (h : Keeps t₀ s.tracked) :
    Keeps t₀ (laneDone k l lost s).tracked := by
  unfold laneDone
  split
  · exact h
  · split
    · exact h
    · extract_lets e w valid sq s₁ flags s₂ s₃
      have h₂ : Keeps t₀ s₂.tracked := putShPages_keeps _ _ _ (openShPage_keeps _ h)
      have h₃ : Keeps t₀ s₃.tracked := by simp [s₃, h₂]
      split
      · simp [h₂]
      · split
        · exact endVisit_keeps _ _ _ h₃
        · exact h₃

/-- R243: the flags taken out of a page. -/
theorem memWf_foldl_mput {α : Type} (a : α → Nat) (b : Mem → α → Byte) (l : List α) {m : Mem} (h : memWf galDefault m = true) :
    memWf galDefault (l.foldl (fun m j => mput galDefault m (a j) (b m j)) m) = true :=
  List.foldlRecOn l _ (motive := (memWf galDefault · = true)) h (fun _ hm _ _ => memWf_mput _ _ hm)

@[simp] theorem newRoster_keeps {t₀ : Tracked} (q : ShSwap) {s : State} (h : Keeps t₀ s.tracked) :
    Keeps t₀ (newRoster q s).tracked := by
  unfold newRoster
  extract_lets k s₁
  have h₁ : Keeps t₀ s₁.tracked := by
    refine whenDo_keeps_tracked (fun s => ?_) _ h
    refine each_keeps_tracked (fun s k => State.modGal_keeps (.refl _) (fun hw => ?_)) _ ?_
    · dsimp only
      generalize List.range 256 = l
      exact memWf_foldl_mput _ _ l hw
    · generalize List.range 8 = l
      exact each_keeps_tracked (fun s l => endVisit_keeps k l true (.refl _)) l (.refl _)
  simp [h₁]

@[simp] theorem settleRoster_keeps {t₀ : Tracked} {s : State} (h : Keeps t₀ s.tracked) : Keeps t₀ (settleRoster s).tracked := by
  unfold settleRoster; split <;> simp [h]

@[simp] theorem execShWindowDone_keeps {t₀ : Tracked} (e : Fin 2) {s : State} (h : Keeps t₀ s.tracked) :
    Out.Keeps t₀ (execShWindowDone e s) := by
  refine onIsl_keeps h ?_ _
  extract_lets ref g k len full s₁
  split
  · exact h
  · have h₁ : Keeps t₀ s₁.tracked := foldl_keeps_tracked (fun s l => laneDone_keeps k l false (.refl _)) _ h
    simp [h₁]

@[simp] theorem commitSh_keeps {t₀ : Tracked} (k : Nat) {s : State} (h : Keeps t₀ s.tracked) :
    Keeps t₀ (commitSh k s).tracked := by
  unfold commitSh
  extract_lets ref s₁ s₂ s₃
  have h₁ : Keeps t₀ s₁.tracked := by simp [s₁, h]
  split
  · exact h₁
  · have h₂ : Keeps t₀ s₂.tracked := by
      refine foldl_keeps_tracked (fun s e => ?_) _ h₁
      split
      · exact .refl _
      · dsimp only
        split
        · simp
        · simp
    have h₃ : Keeps t₀ s₃.tracked := openShPage_keeps _ h₂
    simp [h₃]

@[simp] theorem spWrite_tracked (off : Nat) (v : Word) (s : State) : (spWrite off v s).tracked = s.tracked := by
  unfold spWrite; split <;> simp

@[simp] theorem spClear_tracked (off : Nat) (s : State) : (spClear off s).tracked = s.tracked := by simp [spClear]

/-! ### The event unit -/

@[simp] theorem askZ_tracked (gi c : Nat) (p : Plan) (s : State) : (askZ gi c p s).tracked = s.tracked := by
  simp -implicitDefEqProofs [askZ]

@[simp] theorem resolveZ_tracked (x : PlanCtx) (s : State) : (resolveZ x s).tracked = s.tracked := by
  refine each_tracked (fun s a => ?_) _ _
  split <;> simp

@[simp] theorem addWindow_tracked (x : PlanCtx) (k upto : Nat) (s : State) : (addWindow x k upto s).tracked = s.tracked := by
  simp [addWindow]

@[simp] theorem putEvRec_keeps {t₀ : Tracked} (r : EvRec) {s : State} (h : Keeps t₀ s.tracked) :
    Keeps t₀ (putEvRec s r).tracked := galPuts_keeps _ _ _ (galPuts_keeps _ _ _ (galPuts_keeps _ _ _ h))

@[simp] theorem writeRecs_keeps {t₀ : Tracked} (c k : Nat) {s : State} (h : Keeps t₀ s.tracked) :
    Keeps t₀ (writeRecs c k s).tracked := by
  unfold writeRecs
  extract_lets due s₁
  have h₁ : Keeps t₀ s₁.tracked := by simp [s₁, h]
  exact foldl_keeps_tracked (fun s r => putEvRec_keeps r (.refl _)) _ h₁

@[simp] theorem eventUnitDown_keeps {t₀ : Tracked} (crit : Nat) {s : State} (h : Keeps t₀ s.tracked) :
    Keeps t₀ (eventUnitDown crit s).tracked := by
  simp -implicitDefEqProofs [h, eventUnitDown]

@[simp] theorem eventFaults_keeps {t₀ : Tracked} (n : Nat) {s : State} (h : Keeps t₀ s.tracked) :
    Keeps t₀ (eventFaults n s).tracked := by
  induction n generalizing s with
  | zero => exact h
  | succ n ih =>
    unfold eventFaults
    refine ih ?_
    split <;> simp [h]

@[simp] theorem halfStep_tracked (c : Nat) (s : State) : (halfStep c s).tracked = s.tracked := by
  unfold halfStep
  repeat' split
  all_goals simp

@[simp] theorem execEventHalfCycle_keeps {t₀ : Tracked} (c : Fin 160) (residue : Nat) {s : State} (h : Keeps t₀ s.tracked) :
    Out.Keeps t₀ (execEventHalfCycle c residue s) := by
  refine onIsl_keeps h ?_ _
  split
  · exact h
  · extract_lets s₁
    have h₁ : Keeps t₀ s₁.tracked := eventFaults_keeps _ h
    split
    · exact h₁
    · simp [h₁]

@[simp] theorem finishCtx_tracked (gi k : Nat) (x : PlanCtx) (s : State) : (finishCtx gi k x s).tracked = s.tracked := by simp [finishCtx]

@[simp] theorem finishEvents_keeps {t₀ : Tracked} (gi k : Nat) (p : Plan) {s : State} (h : Keeps t₀ s.tracked) :
    Keeps t₀ (finishEvents gi k p s).tracked := by
  simp [h, finishEvents]

@[simp] theorem execEventWindowDone_keeps {t₀ : Tracked} (g : Fin 16) {s : State} (h : Keeps t₀ s.tracked) :
    Out.Keeps t₀ (execEventWindowDone g s) := by
  refine onIsl_keeps h ?_ _
  dsimp only
  split
  · exact h
  · split
    · exact h
    · exact finishEvents_keeps _ _ _ h

@[simp] theorem commitEv_tracked (c : Nat) (s : State) : (commitEv c s).tracked = s.tracked := by simp [commitEv]

@[simp] theorem evCtxWrite_tracked (c off : Nat) (v : Word) (s : State) : (evCtxWrite c off v s).tracked = s.tracked := by
  unfold evCtxWrite
  repeat' split
  all_goals simp

@[simp] theorem evClear_tracked (off : Nat) (s : State) : (evClear off s).tracked = s.tracked := by unfold evClear; split <;> simp

@[simp] theorem execCycleEnd_tracked (g : Fin 16) (s : State) : trackedAfter (execCycleEnd g s) = some s.tracked := by
  refine onIsl_tracked ?_ _
  split
  · dsimp only
    split <;> simp
  · rfl

/-! ### Calibration -/

@[simp] theorem leaveCell_tracked (r l c frame : Nat) (w : List CellReq) (q : CellReq) (s : State) :
    (leaveCell r l c frame w q s).tracked = s.tracked := by
  simp [leaveCell]

@[simp] theorem placeFrom_tracked (r l c frame : Nat) (kept waiting : List CellReq) (s : State) :
    (placeFrom r l c frame kept waiting s).tracked = s.tracked := by
  induction waiting generalizing kept s with
  | nil => rfl
  | cons q rest ih =>
    unfold placeFrom
    extract_lets go later
    have hgo : ∀ q s, (go q s).tracked = s.tracked := by simp [go]
    have hlater : (later s).tracked = s.tracked := by simp [later, ih]
    repeat' split
    all_goals simp [ih, hgo, hlater]

@[simp] theorem placeLane_tracked (r l c : Nat) (s : State) : (placeLane r l c s).tracked = s.tracked := by simp [placeLane]

@[simp] theorem placeCell_tracked (r c : Nat) (s : State) : (placeCell r c s).tracked = s.tracked := by simp [placeCell]

@[simp] theorem cellSilent_tracked (r c : Nat) (s : State) : (cellSilent r c s).tracked = s.tracked := by
  unfold cellSilent
  repeat' split
  all_goals simp

@[simp] theorem execMailboxCellSend_tracked (r : Fin 32) (cell : Fin 4) (s : State) :
    trackedAfter (execMailboxCellSend r cell s) = some s.tracked := by
  refine onLink_tracked ?_ _
  split <;> simp

@[simp] theorem execCellNoReply_tracked (r : Fin 32) (cell : Fin 4) (s : State) :
    trackedAfter (execCellNoReply r cell s) = some s.tracked := by
  simp [execCellNoReply]

@[simp] theorem setTrim_tracked (h : Nat) (d : Bool) (w : Word) (src t : Nat) (s : State) :
    (setTrim h d w src t s).tracked = s.tracked := by
  simp [setTrim]

@[simp] theorem storeTrim_tracked (h : Nat) (d : Bool) (w : Word) (src : Nat) (s : State) :
    (storeTrim h d w src s).tracked = s.tracked := by
  simp [storeTrim]

@[simp] theorem storeLocal_tracked (set_ : Nat) (w : Word) (src : Nat) (s : State) : (storeLocal set_ w src s).tracked = s.tracked := by
  simp [storeLocal]

@[simp] theorem startLocalTrims_tracked (s : State) : (startLocalTrims s).tracked = s.tracked := by
  unfold startLocalTrims
  rw [State.modCalIsl_tracked]
  refine each_tracked (fun s a => ?_) _ _
  split <;> simp -implicitDefEqProofs

@[simp] theorem admitTrims_tracked (h : Nat) (serial : BitVec 64) (ph : PlanHead) (s : State) :
    (admitTrims h serial ph s).2.2.tracked = s.tracked := by
  unfold admitTrims
  repeat' split
  all_goals simp

@[simp] theorem withdraw_tracked (h : Nat) (d : Bool) (s : State) : (withdraw h d s).tracked = s.tracked := by simp [withdraw]

@[simp] theorem endOuting_tracked (i result : Nat) (s : State) : (endOuting i result s).tracked = s.tracked := by
  unfold endOuting
  split <;> simp -implicitDefEqProofs

@[simp] theorem endOutings_tracked (kind result : Nat) (d : Bool) (idx : Nat) (s : State) :
    (endOutings kind result d idx s).tracked = s.tracked := by
  unfold endOutings
  split <;> simp

@[simp] theorem abortOutings_tracked (s : State) : (abortOutings s).tracked = s.tracked := by simp [abortOutings]

@[simp] theorem calResult_tracked (v : Nat) (s : State) : (calResult v s).tracked = s.tracked := by simp [calResult]

@[simp] theorem calAsk_tracked (kind : Nat) (d : Bool) (idx : Nat) (s : State) : (calAsk kind d idx s).tracked = s.tracked := by
  unfold calAsk
  repeat' split
  all_goals simp

@[simp] theorem calImage_tracked (op : Nat) (s : State) : (calImage op s).tracked = s.tracked := by simp [calImage]

@[simp] theorem calCancel_tracked (isLocal d : Bool) (idx : Nat) (s : State) : (calCancel isLocal d idx s).tracked = s.tracked := by
  unfold calCancel
  split <;> simp

@[simp] theorem calGo_tracked (s : State) : (calGo s).tracked = s.tracked := by unfold calGo; dsimp only; split <;> simp

@[simp] theorem startPass_tracked (i : Nat) (s : State) : (startPass i s).tracked = s.tracked := by simp [startPass]

@[simp] theorem execOutingStart_tracked (q : Fin 16) (s : State) : trackedAfter (execOutingStart q s) = some s.tracked := by
  simp [execOutingStart]

@[simp] theorem execOutingTimeout_tracked (q : Fin 16) (s : State) : trackedAfter (execOutingTimeout q s) = some s.tracked := by
  simp [execOutingTimeout]

@[simp] theorem stimOn_tracked (h : Nat) (d : Bool) (at_ : Nat) (s : State) : (stimOn h d at_ s).tracked = s.tracked := by
  unfold stimOn; split <;> simp

@[simp] theorem stimSeen_tracked (h : Nat) (s : State) : (stimSeen h s).tracked = s.tracked := by simp [stimSeen]

@[simp] theorem calSample_tracked (h : Nat) (d : Bool) (n : Nat) (clean : Bool) (step : Nat) (s : State) :
    (calSample h d n clean step s).tracked = s.tracked := by
  unfold calSample
  split <;> simp

@[simp] theorem proposeTrim_tracked (old : Word) (a c : Int) (b d gn gd : Nat) (kn kd sc : Nat) (e : Nat) (s : State) :
    (proposeTrim old a c b d gn gd kn kd sc e s).2.tracked = s.tracked := by
  unfold proposeTrim
  dsimp only
  split <;> simp

@[simp] theorem endPass_tracked (i : Nat) (cfg : StairCfg) (s : State) : (endPass i cfg s).tracked = s.tracked := by simp [endPass]

@[simp] theorem calOutput_tracked (h : Nat) (d : Bool) (nlast : Nat) (val : Int) (cfg : StairCfg) (s : State) :
    (calOutput h d nlast val cfg s).tracked = s.tracked := by
  unfold calOutput
  split
  · rfl
  · extract_lets i q
    split
    · simp -implicitDefEqProofs
    · rfl

@[simp] theorem trimApplied_tracked (h : Nat) (c : Change) (at_ : Nat) (old : Word) (s : State) :
    (trimApplied h c at_ old s).tracked = s.tracked := by
  unfold trimApplied
  dsimp only
  split <;> simp

@[simp] theorem calSupersede_tracked (h reg : Nat) (s : State) : (calSupersede h reg s).tracked = s.tracked := by simp [calSupersede]

@[simp] theorem accWriteCal_tracked (role p off : Nat) (v : Word) (s : State) : (accWriteCal role p off v s).tracked = s.tracked := by
  simp [accWriteCal]

@[simp] theorem queueLocal_tracked (set_ : Nat) (w : Word) (src : Nat) (s : State) : (queueLocal set_ w src s).tracked = s.tracked := by
  simp [queueLocal]

@[simp] theorem endBurst_tracked (zero ref : List Int) (void : Bool) (s : State) : (endBurst zero ref void s).tracked = s.tracked := by
  unfold endBurst
  split <;> simp

@[simp] theorem applyLocalTrims_tracked (s : State) : (applyLocalTrims s).tracked = s.tracked := by
  refine each_tracked (fun s a => ?_) _ _
  dsimp only
  repeat' split
  all_goals simp

@[simp] theorem restoreHead_tracked (serial p a : Nat) (s : State) : (restoreHead serial p a s).tracked = s.tracked := by
  unfold restoreHead
  split <;> simp

@[simp] theorem restoreImage_keeps {t₀ : Tracked} {s : State} (h : Keeps t₀ s.tracked) : Keeps t₀ (restoreImage s).tracked := by
  simp [h, restoreImage]

@[simp] theorem execCalImageDone_keeps {t₀ : Tracked} {s : State} (h : Keeps t₀ s.tracked) : Out.Keeps t₀ (execCalImageDone s) := by
  simp [h, execCalImageDone]

@[simp] theorem calWrite_tracked (off : Nat) (v : Word) (s : State) : (calWrite off v s).tracked = s.tracked := by
  unfold calWrite; split <;> simp

/-! ### The local converter -/

@[simp] theorem lcBoundary_tracked (s : State) : (lcBoundary s).tracked = s.tracked := by simp [lcBoundary]

@[simp] theorem lcWrap_tracked (s : State) : (lcWrap s).tracked = s.tracked := by simp [lcWrap]

@[simp] theorem lcIndex_tracked (s : State) : (lcIndex s).2.tracked = s.tracked := by simp [lcIndex]

@[simp] theorem lcSample_tracked (raw : Int) (inj : Bool) (entry rep : Nat) (ent : LcEnt) (burst : Option Bool) (trim : Word)
    (s : State) :
    (lcSample raw inj entry rep ent burst trim s).tracked = s.tracked := by
  simp [lcSample]

@[simp] theorem lcSeqSlot_tracked (raw : Int) (s : State) : (lcSeqSlot raw s).tracked = s.tracked := by
  simp only [lcSeqSlot]
  repeat' split
  all_goals simp

@[simp] theorem lcInjSlot_tracked (raw : Int) (i left : Nat) (s : State) : (lcInjSlot raw i left s).tracked = s.tracked := by
  simp [lcInjSlot]

@[simp] theorem lcBurstSlot_tracked (raw : Int) (left : Nat) (s : State) : (lcBurstSlot raw left s).tracked = s.tracked := by
  simp [lcBurstSlot]

@[simp] theorem lcMeasuring_tracked (s : State) : (lcMeasuring s).tracked = s.tracked := by simp [lcMeasuring]

@[simp] theorem lcSlotWork_tracked (raw : Int) (s : State) : (lcSlotWork raw s).tracked = s.tracked := by
  unfold lcSlotWork
  split <;> simp -implicitDefEqProofs

@[simp] theorem lcHolder_tracked (s : State) : (lcHolder s).tracked = s.tracked := by
  simp only [lcHolder]
  repeat' split
  all_goals simp

@[simp] theorem execLcSlot_tracked (raw : Int) (s : State) : trackedAfter (execLcSlot raw s) = some s.tracked := by simp [execLcSlot]

@[simp] theorem execLcCalBurst_tracked (s : State) : trackedAfter (execLcCalBurst s) = some s.tracked := by simp [execLcCalBurst]

@[simp] theorem lcPush_tracked (w tag : Word) (idx : Nat) (s : State) : (lcPush w tag idx s).tracked = s.tracked := by simp [lcPush]

@[simp] theorem lcInjEnd_tracked (i result : Nat) (s : State) : (lcInjEnd i result s).tracked = s.tracked := by simp [lcInjEnd]

@[simp] theorem lcDeliver_tracked (c : LcConv) (s : State) : (lcDeliver c s).tracked = s.tracked := by
  unfold lcDeliver; dsimp only; split <;> simp

@[simp] theorem execLcResult_tracked (s : State) : trackedAfter (execLcResult s) = some s.tracked := by
  refine onIsl_tracked ?_ _
  split <;> simp

@[simp] theorem lcDown_tracked (s : State) : (lcDown s).tracked = s.tracked := by simp [lcDown]

@[simp] theorem lcFail_tracked (slice : Nat) (s : State) : (lcFail slice s).tracked = s.tracked := by simp [lcFail]

@[simp] theorem execLcRotate_tracked (slice : Fin 9) (corr : Int × Int × Int) (s : State) :
    trackedAfter (execLcRotate slice corr s) = some s.tracked := by
  simp [execLcRotate]

@[simp] theorem execLcReady_tracked (s : State) : trackedAfter (execLcReady s) = some s.tracked := by simp [execLcReady]

@[simp] theorem lcFifoTake_tracked (s : State) : (lcFifoTake s).tracked = s.tracked := by simp [lcFifoTake]

@[simp] theorem lcInjWrite_tracked (i : Nat) (v : Word) (s : State) : (lcInjWrite i v s).tracked = s.tracked := by simp [lcInjWrite]

@[simp] theorem lcCtrlWrite_tracked (v : Word) (s : State) : (lcCtrlWrite v s).tracked = s.tracked := by simp [lcCtrlWrite]

@[simp] theorem lcFifoCfg_tracked (v : Word) (s : State) : (lcFifoCfg v s).tracked = s.tracked := by simp [lcFifoCfg]

@[simp] theorem lcWrite_tracked (off : Nat) (v : Word) (s : State) : (lcWrite off v s).tracked = s.tracked := by
  unfold lcWrite; split <;> simp

@[simp] theorem lcClear_tracked (off : Nat) (s : State) : (lcClear off s).tracked = s.tracked := by unfold lcClear; split <;> simp

/-! ### Redundancy -/

@[simp] theorem evalNode_tracked (p : Plan) (v : PlanNode) (gi k a b : Nat) (dis : List Nat) (s : State) :
    (evalNode p v gi k a b dis s).2.tracked = s.tracked := by
  simp only [evalNode]
  repeat' split
  all_goals simp

@[simp] theorem retireStream_tracked (h : Nat) (d : Bool) (crit : Nat) (s : State) : (retireStream h d crit s).tracked = s.tracked := by
  simp [retireStream]

@[simp] theorem execStreamAbsentRetire_tracked (h : Fin 4096) (d : Det) (s : State) :
    trackedAfter (execStreamAbsentRetire h d s) = some s.tracked := by
  simp [execStreamAbsentRetire]

@[simp] theorem settleHead_tracked (gi k : Nat) (t : PairTest) (dec : Nat) (s : State) :
    (settleHead gi k t dec s).tracked = s.tracked := by
  simp [settleHead]

@[simp] theorem pruneOuts_tracked (gi b : Nat) (p : Plan) (h : Nat) (s : State) : (pruneOuts gi b p h s).tracked = s.tracked := by
  simp [pruneOuts]

@[simp] theorem arbitrate_tracked (gi k : Nat) (p : Plan) (s : State) : (arbitrate gi k p s).tracked = s.tracked := by
  simp -implicitDefEqProofs [arbitrate]

@[simp] theorem pairOutput_tracked (h : Nat) (tau2 : Int) (p a : StOut) (s : State) : (pairOutput h tau2 p a s).tracked = s.tracked := by
  simp [pairOutput]

@[simp] theorem reloadCtx_tracked (c : Nat) (s : State) : (reloadCtx c s).tracked = s.tracked := by unfold reloadCtx; split <;> simp

@[simp] theorem startReplay_tracked (u t : Nat) (s : State) : (startReplay u t s).tracked = s.tracked := by simp [startReplay]

@[simp] theorem retireUnit_tracked (u t : Nat) (s : State) : (retireUnit u t s).tracked = s.tracked := by
  unfold retireUnit; dsimp only; split <;> simp

@[simp] theorem execTallyFault_tracked (u : Fin 9) (s : State) : trackedAfter (execTallyFault u s) = some s.tracked := by
  simp [execTallyFault]

@[simp] theorem repeatDo_tracked {f : State → State} (hf : ∀ s, (f s).tracked = s.tracked) (n : Nat) (s : State) :
    (repeatDo f n s).tracked = s.tracked := by
  induction n generalizing s with
  | zero => rfl
  | succ n ih => simp [repeatDo, ih, hf]

@[simp] theorem repeatDo_keeps {f : State → State} {t₀ : Tracked} (hf : ∀ s, Keeps s.tracked (f s).tracked) (n : Nat) {s : State}
    (h : Keeps t₀ s.tracked) : Keeps t₀ (repeatDo f n s).tracked := by
  induction n generalizing s with
  | zero => exact h
  | succ n ih => exact ih (h.trans (hf s))

@[simp] theorem flatsUpTo_tracked (c n : Nat) (s : State) : (flatsUpTo c n s).tracked = s.tracked := by
  induction n generalizing s with
  | zero => rfl
  | succ n ih =>
    have h := flatStep_tracked c s
    unfold flatsUpTo
    split
    · rfl
    · next t ht => rw [ih]; simpa [ht] using h

@[simp] theorem cyclesUpTo_tracked (c n : Nat) (s : State) : (cyclesUpTo c n s).tracked = s.tracked := by
  induction n generalizing s with
  | zero => rfl
  | succ n ih =>
    have h := cycStep_tracked c s
    unfold cyclesUpTo
    split
    · rfl
    · next t ht => rw [ih]; simpa [ht] using h

@[simp] theorem unitCurrent_tracked (u t : Nat) (s : State) : (unitCurrent u t s).tracked = s.tracked := by simp [unitCurrent]

@[simp] theorem reloadBind_tracked (c slot : Nat) (s : State) : (reloadBind c slot s).tracked = s.tracked := by
  unfold reloadBind
  dsimp only
  split <;> simp

@[simp] theorem startHarmReplay_tracked (e t : Nat) (taking : Bool) (s : State) : (startHarmReplay e t taking s).tracked = s.tracked := by
  simp [startHarmReplay]

@[simp] theorem retireHarm_keeps {t₀ : Tracked} (e t : Nat) {s : State} (h : Keeps t₀ s.tracked) :
    Keeps t₀ (retireHarm e t s).tracked := by
  unfold retireHarm
  extract_lets blocks spare s₁ move
  have h₁ : Keeps t₀ s₁.tracked := by simp [s₁, h]
  clear_value blocks spare
  split <;> simp [move, h₁]

@[simp] theorem noteSpFault_tracked (e : Nat) (s : State) : (noteSpFault e s).2.tracked = s.tracked := by simp [noteSpFault]

@[simp] theorem execHarmFault_keeps {t₀ : Tracked} (e : Fin 5) {s : State} (h : Keeps t₀ s.tracked) :
    Out.Keeps t₀ (execHarmFault e s) := by
  simp [h, execHarmFault]

@[simp] theorem execShFault_keeps {t₀ : Tracked} (e : Fin 2) {s : State} (h : Keeps t₀ s.tracked) :
    Out.Keeps t₀ (execShFault e s) := by
  refine onIsl_keeps h ?_ _
  extract_lets x
  split
  · exact h
  · have hn : Keeps t₀ (noteSpFault (5 + e) s).2.tracked := by simp [h]
    split
    next fs s₁ hs =>
    rw [hs] at hn
    split
    · simpa using hn
    · extract_lets other k lanes s₂ s₃
      have h₂ : Keeps t₀ s₂.tracked := each_keeps_tracked (fun s l => endVisit_keeps k l true (.refl _)) _ hn
      simp [s₃, h₂]

@[simp] theorem harmCurrent_tracked (e t : Nat) (s : State) : (harmCurrent e t s).tracked = s.tracked := by simp [harmCurrent]

@[simp] theorem execReplayDone_tracked (u : ReplayUnit) (s : State) : trackedAfter (execReplayDone u s) = some s.tracked := by
  unfold execReplayDone
  split
  · refine onIsl_tracked ?_ _
    split <;> simp
  · refine onIsl_tracked ?_ _
    split <;> simp

@[simp] theorem restorePlaced_tracked (h : Nat) (s : State) : (restorePlaced h s).tracked = s.tracked := by
  unfold restorePlaced; split <;> simp

@[simp] theorem streamBack_tracked (h : Nat) (d : Bool) (t : Nat) (s : State) : (streamBack h d t s).tracked = s.tracked := by
  simp [streamBack]

@[simp] theorem restoreGo_tracked (role host : Nat) (s : State) : (restoreGo role host s).tracked = s.tracked := by
  simp only [restoreGo]
  repeat' split
  all_goals simp

@[simp] theorem joinUnit_tracked (u : Nat) (s : State) : (joinUnit u s).tracked = s.tracked := by
  unfold joinUnit
  dsimp only
  split
  · simp
  · refine (each_tracked (fun s a => ?_) _ _).trans (by simp)
    split <;> simp

@[simp] theorem joinHarm_keeps {t₀ : Tracked} (e : Nat) {s : State} (h : Keeps t₀ s.tracked) :
    Keeps t₀ (joinHarm e s).tracked := by
  unfold joinHarm
  extract_lets s₁
  have h₁ : Keeps t₀ s₁.tracked := by simp [s₁, h]
  split
  · exact h₁
  · refine each_keeps_tracked (fun s c => ?_) _ (by simp [h₁])
    split
    · exact .refl _
    · dsimp only
      split <;> simp -implicitDefEqProofs

@[simp] theorem execRestoreSelftestDone_keeps {t₀ : Tracked} (pass : Bool) {s : State} (h : Keeps t₀ s.tracked) :
    Out.Keeps t₀ (execRestoreSelftestDone pass s) := by
  refine onStew_keeps h ?_
  split
  · exact h
  · split
    · exact h
    · extract_lets s₁ s₂
      have h₁ : Keeps t₀ s₁.tracked := by
        unfold s₁
        split <;> simp [h]
      have h₂ : Keeps t₀ s₂.tracked := by
        unfold s₂
        split <;> simp [h₁]
      split
      · simp [h₁]
      · simp [h₂]

@[simp] theorem execStewardRestart_tracked (s : State) : trackedAfter (execStewardRestart s) = some s.tracked := by
  simp [execStewardRestart]

@[simp] theorem execStewardRestartComplete_tracked (s : State) : trackedAfter (execStewardRestartComplete s) = some s.tracked := by
  simp -implicitDefEqProofs [execStewardRestartComplete]

@[simp] theorem redWrite_tracked (role host a : Nat) (v : Word) (s : State) : (redWrite role host a v s).tracked = s.tracked := by
  simp [redWrite]

@[simp] theorem redClear_tracked (a : Nat) (s : State) : (redClear a s).tracked = s.tracked := by simp [redClear]

/-! ### The hall plan -/

@[simp] theorem history_keeps {t₀ : Tracked} (ev result slot : Nat) (by_ : Nat × Nat) (id : Word) (version : Nat)
  (e : PlanErr) {s : State} (h : Keeps t₀ s.tracked) :
    Keeps t₀ (history ev result slot by_ id version e s).tracked := by
  refine State.modPlanIsl_keeps h (fun hw => ?_)
  dsimp only
  refine memWf_mputs _ _ ?_
  split
  · exact memWf_mclear _ _ hw
  · exact hw

@[simp] theorem histSelect_tracked (seq : Nat) (s : State) : (histSelect seq s).tracked = s.tracked := by simp [histSelect]

@[simp] theorem setPlanSt_tracked (st : PlanSt) (s : State) : (setPlanSt st s).tracked = s.tracked := by simp [setPlanSt]

@[simp] theorem planResult_tracked (code : Nat) (s : State) : (planResult code s).tracked = s.tracked := by simp [planResult]

@[simp] theorem errField_tracked (e : PlanErr) (s : State) : (errField e s).2.tracked = s.tracked := by unfold errField; split <;> simp

@[simp] theorem planFailed_tracked (e : PlanErr) (s : State) : (planFailed e s).tracked = s.tracked := by simp [planFailed]

@[simp] theorem setInput_tracked (p : Plan) (i : Nat) (s : State) : (setInput p i s).tracked = s.tracked := by
  unfold setInput; split <;> simp

@[simp] theorem startRing_tracked (r : PlanRing) (s : State) : (startRing r s).tracked = s.tracked := by simp [startRing]

@[simp] theorem serveRing_tracked (r : PlanRing) (s : State) : (serveRing r s).tracked = s.tracked := by unfold serveRing; split <;> simp

@[simp] theorem serveRings_tracked (rs : List PlanRing) (s : State) : (serveRings rs s).tracked = s.tracked := by simp [serveRings]

@[simp] theorem listHead_tracked (h : PlanHead) (s : State) : (listHead h s).tracked = s.tracked := by simp [listHead]

@[simp] theorem putLedger_keeps {t₀ : Tracked} (x : PlanCtx) (y : Ctx) (tsw : Nat) {s : State} (h : Keeps t₀ s.tracked) :
    Keeps t₀ (putLedger x y tsw s).tracked := by
  unfold putLedger
  extract_lets base old img s₁ s₂ s₃ s₄
  have h₁ : Keeps t₀ s₁.tracked := by simp [s₁, h]
  have h₂ : Keeps t₀ s₂.tracked := galPuts_keeps _ _ _ h₁
  have h₃ : Keeps t₀ s₃.tracked := galPuts_keeps _ _ _ h₂
  have h₄ : Keeps t₀ s₄.tracked := by simp [s₄, h₃]
  simp [h₄]

@[simp] theorem logCarried_tracked (old new key : Nat) (s : State) : (logCarried old new key s).tracked = s.tracked := by
  simp [logCarried]

@[simp] theorem unsavedOf_tracked (c : Nat) (s : State) : (unsavedOf c s).tracked = s.tracked := by unfold unsavedOf; split <;> simp

@[simp] theorem startContexts_keeps {t₀ : Tracked} (p : Plan) {s : State} (h : Keeps t₀ s.tracked) :
    Keeps t₀ (startContexts p s).tracked := by
  unfold startContexts
  extract_lets saved same s₁
  have h₁ : s₁.tracked = s.tracked := by
    refine each_tracked (fun s x => ?_) _ _
    dsimp only
    split <;> simp
  simp -implicitDefEqProofs [h, h₁]

@[simp] theorem startOutputs_tracked (p : Plan) (s : State) : (startOutputs p s).tracked = s.tracked := by
  refine each_tracked (fun s a => ?_) _ _
  repeat' split
  all_goals simp

@[simp] theorem setBudgets_tracked (p : Plan) (s : State) : (setBudgets p s).tracked = s.tracked := by simp [setBudgets]

@[simp] theorem bringInForce_keeps {t₀ : Tracked} (p : Plan) {s : State} (h : Keeps t₀ s.tracked) :
    Keeps t₀ (bringInForce p s).tracked := by
  unfold bringInForce
  extract_lets s₁ s₂ s₃ s₄ s₅ s₆ s₇ s₈ s₉ s₁₀
  have h₄ : Keeps t₀ s₄.tracked := by simp [s₄, s₃, s₂, s₁, h]
  have h₇ : Keeps t₀ s₇.tracked := by simp [s₇, s₆, s₅, h₄]
  have h₁₀ : Keeps t₀ s₁₀.tracked := by simp [s₁₀, s₉, s₈, h₇]
  simp [h₁₀]

@[simp] theorem tryLoad_keeps {t₀ : Tracked} (k : Nat) {s : State} (h : Keeps t₀ s.tracked) : Keeps t₀ (tryLoad k s).2.tracked := by
  unfold tryLoad; dsimp only; split <;> simp [h]

@[simp] theorem loaded_keeps {t₀ : Tracked} (k : Nat) (p : Plan) (fallback : Bool) {s : State} (h : Keeps t₀ s.tracked) :
    Keeps t₀ (loaded k p fallback s).tracked := by
  unfold loaded
  extract_lets s₁ s₂
  have h₂ : Keeps t₀ s₂.tracked := history_keeps _ _ _ _ _ _ _ (by simp [s₁, h])
  exact bringInForce_keeps p h₂

@[simp] theorem noteLoad_tracked (s : State) : (noteLoad s).tracked = s.tracked := by simp [noteLoad]

@[simp] theorem execPlanLoad_keeps {t₀ : Tracked} {s : State} (h : Keeps t₀ s.tracked) :
    Out.Keeps t₀ (execPlanLoad s) := by
  refine onStew_keeps h ?_
  split
  · exact h
  · extract_lets k
    have h₁ := tryLoad_keeps k h
    split
    · next p t ht =>
      rw [ht] at h₁
      exact loaded_keeps _ _ _ (by simpa using h₁)
    · next t ht =>
      rw [ht] at h₁
      have h₂ := tryLoad_keeps (1 - k) h₁
      split
      · next p u hu =>
        rw [hu] at h₂
        exact loaded_keeps _ _ _ (by simpa using h₂)
      · next u hu =>
        rw [hu] at h₂
        simpa using h₂

@[simp] theorem logCommand_tracked (role host cmd before code : Nat) (s : State) :
    (logCommand role host cmd before code s).tracked = s.tracked := by
  simp [logCommand]

@[simp] theorem swapReplaced_keeps {t₀ : Tracked} (role host : Nat) {s : State} (h : Keeps t₀ s.tracked) :
    Keeps t₀ (swapReplaced role host s).tracked := by
  simp [h, swapReplaced]

@[simp] theorem stageCmd_keeps {t₀ : Tracked} (role host : Nat) {s : State} (h : Keeps t₀ s.tracked) :
    Keeps t₀ (stageCmd role host s).2.tracked := by
  unfold stageCmd
  repeat' split
  all_goals simp [h]

@[simp] theorem stageFailed_keeps {t₀ : Tracked} (b : Img) (e : PlanErr) {s : State} (h : Keeps t₀ s.tracked) :
    Keeps t₀ (stageFailed b e s).tracked := by
  simp [h, stageFailed]

@[simp] theorem programSlot_keeps {t₀ : Tracked} (bs : List Byte) {s : State} (h : Keeps t₀ s.tracked) :
    Keeps t₀ (programSlot bs s).tracked := State.modPlanIsl_keeps h (fun hw => memWf_mfill _ _ (memWf_mclear _ _ hw))

@[simp] theorem flashFailed_keeps {t₀ : Tracked} (b : Img) {s : State} (h : Keeps t₀ s.tracked) : Keeps t₀ (flashFailed b s).tracked := by
  simp [h, flashFailed]

@[simp] theorem dirtyStage_keeps {t₀ : Tracked} (b : Img) {s : State} (h : Keeps t₀ s.tracked) :
    Keeps t₀ (dirtyStage b s).tracked := by
  have hv : Keeps t₀ s.freeNext.2.tracked := h
  unfold dirtyStage
  dsimp only
  split
  · exact flashFailed_keeps b hv
  · exact stageFailed_keeps b _ hv

@[simp] theorem breakStage_keeps {t₀ : Tracked} {s : State} (h : Keeps t₀ s.tracked) :
    Keeps t₀ (breakStage s).tracked := by
  have hv : Keeps t₀ s.freeNext.2.tracked := h
  unfold breakStage
  dsimp only
  split
  · exact programSlot_keeps _ hv
  · exact hv

@[simp] theorem execPlanStageDone_keeps {t₀ : Tracked} (flashOk : Bool) {s : State} (h : Keeps t₀ s.tracked) :
    Out.Keeps t₀ (execPlanStageDone flashOk s) := by
  refine onStew_keeps h ?_
  split
  · exact h
  · split
    extract_lets spoilt s₁ s₂ p s₃ k s₄ s₅ s₆ s₇
    have h₁ : Keeps t₀ s₁.tracked := by
      unfold s₁
      split <;> simp [h]
    split
    · exact dirtyStage_keeps _ h₁
    · split
      · exact stageFailed_keeps _ _ h₁
      · split
        · exact stageFailed_keeps _ _ h₁
        · split
          · exact flashFailed_keeps _ h₁
          · have h₃ : Keeps t₀ s₃.tracked := history_keeps _ _ _ _ _ _ _ (programSlot_keeps _ h₁)
            split
            · have h₅ : Keeps t₀ s₅.tracked := history_keeps _ _ _ _ _ _ _ (by simp [s₄, h₃])
              have h₆ : Keeps t₀ s₆.tracked := bringInForce_keeps p h₅
              simp [s₇, h₆]
            · simp [h₃]

@[simp] theorem enumInService_tracked (r : Nat) (s : State) : (enumInService r s).tracked = s.tracked := by simp [enumInService]

@[simp] theorem joinListed_tracked (served : Bool) (h : PlanHead) (s : State) : (joinListed served h s).tracked = s.tracked := by
  simp [joinListed]

@[simp] theorem enterPreparing_tracked (s : State) : (enterPreparing s).tracked = s.tracked := by unfold enterPreparing; split <;> simp

@[simp] theorem releaseRing_tracked (r : Nat) (s : State) : (releaseRing r s).tracked = s.tracked := by
  simp only [releaseRing]
  repeat' split
  all_goals simp

@[simp] theorem undoPreparing_tracked (s : State) : (undoPreparing s).tracked = s.tracked := by unfold undoPreparing; split <;> simp

@[simp] theorem loadBanks_tracked (s : State) : (loadBanks s).tracked = s.tracked := by unfold loadBanks; split <;> simp

@[simp] theorem execPlanPrepare_tracked (s : State) : trackedAfter (execPlanPrepare s) = some s.tracked := by
  refine onStew_tracked ?_
  repeat' split
  all_goals simp

@[simp] theorem cutHead_tracked (h : Nat) (s : State) : (cutHead h s).tracked = s.tracked := by unfold cutHead; split <;> simp

@[simp] theorem execPrepareTimeout_tracked (s : State) : trackedAfter (execPrepareTimeout s) = some s.tracked := by
  refine onStew_tracked ?_
  dsimp only
  repeat' split
  all_goals simp

@[simp] theorem swapCmd_keeps {t₀ : Tracked} (role host : Nat) {s : State} (h : Keeps t₀ s.tracked) :
    Keeps t₀ (swapCmd role host s).2.tracked := by
  unfold swapCmd
  repeat' split
  all_goals simp [h]

@[simp] theorem cancelCmd_keeps {t₀ : Tracked} (role host : Nat) {s : State} (h : Keeps t₀ s.tracked) :
    Keeps t₀ (cancelCmd role host s).2.tracked := by
  unfold cancelCmd; split <;> simp [h]

@[simp] theorem planDo_keeps {t₀ : Tracked} (cmd : Nat) (f : State → Nat × State) (role host : Nat) {s : State}
    (hf : Keeps t₀ (f s).2.tracked) : Keeps t₀ (planDo cmd f role host s).tracked := by
  unfold planDo
  simp [hf]

@[simp] theorem planCmd_keeps {t₀ : Tracked} (role host : Nat) (v : Word) {s : State} (h : Keeps t₀ s.tracked) :
    Keeps t₀ (planCmd role host v s).tracked := by
  unfold planCmd
  extract_lets s₁ s₂ s₃
  have h₁ : Keeps t₀ s₁.tracked := by simp [s₁, h]
  have h₂ : Keeps t₀ s₂.tracked := whenDo_keeps_tracked (fun s => planDo_keeps _ _ _ _ (stageCmd_keeps _ _ (.refl _))) _ h₁
  have h₃ : Keeps t₀ s₃.tracked := whenDo_keeps_tracked (fun s => planDo_keeps _ _ _ _ (swapCmd_keeps _ _ (.refl _))) _ h₂
  exact whenDo_keeps_tracked (fun s => planDo_keeps _ _ _ _ (cancelCmd_keeps _ _ (.refl _))) _ h₃

@[simp] theorem abortPlan_keeps {t₀ : Tracked} {s : State} (h : Keeps t₀ s.tracked) : Keeps t₀ (abortPlan s).tracked := by
  unfold abortPlan; split <;> simp [h]

@[simp] theorem fixSwitch_tracked (gi t : Nat) (s : State) : (fixSwitch gi t s).tracked = s.tracked := by simp [fixSwitch]

@[simp] theorem startMoves_tracked (gi : Nat) (n : Plan) (s : State) : (startMoves gi n s).tracked = s.tracked := by
  unfold startMoves
  extract_lets s₁
  have h : s₁.tracked = s.tracked := by
    refine each_tracked (fun s r => ?_) _ _
    split <;> simp
  simp [h]

@[simp] theorem startAllMoves_tracked (n : Plan) (gs : List Nat) (s : State) : (startAllMoves n gs s).tracked = s.tracked := by
  induction gs generalizing s with
  | nil => rfl
  | cons g gs ih => simp [startAllMoves, ih]

@[simp] theorem armSwap_keeps {t₀ : Tracked} (o n : Plan) {s : State} (h : Keeps t₀ s.tracked) : Keeps t₀ (armSwap o n s).tracked := by
  simp [h, armSwap]

@[simp] theorem freeMove_tracked (r : Nat) (cfg : StairCfg) (s : State) : (freeMove r cfg s).tracked = s.tracked := by
  unfold freeMove; split <;> simp

@[simp] theorem startFreeMoves_tracked (s : State) : (startFreeMoves s).tracked = s.tracked := by
  unfold startFreeMoves
  split
  · rfl
  · refine each_tracked (fun s r => ?_) _ _
    split <;> simp

@[simp] theorem execSwapArm_keeps {t₀ : Tracked} {s : State} (h : Keeps t₀ s.tracked) :
    Out.Keeps t₀ (execSwapArm s) := by
  refine onStew_keeps h ?_
  split
  · split <;> simp [h]
  · simp [h]
  · simp [h]

@[simp] theorem switchGroup_tracked (gi k w : Nat) (o n : Plan) (s : State) : (switchGroup gi k w o n s).tracked = s.tracked := by
  unfold switchGroup
  split <;> simp

@[simp] theorem addBindings_tracked (first : Nat) (o n : Plan) (gi : Nat) (s : State) :
    (addBindings first o n gi s).tracked = s.tracked := by
  simp [addBindings]

@[simp] theorem swapOutput_tracked (o w k : Nat) (old new : Plan) (s : State) : (swapOutput o w k old new s).tracked = s.tracked := by
  simp [swapOutput]

@[simp] theorem swapRoster_keeps {t₀ : Tracked} (k w : Nat) (n : Plan) {s : State} (h : Keeps t₀ s.tracked) :
    Keeps t₀ (swapRoster k w n s).tracked := by
  unfold swapRoster
  split <;> simp [h]

@[simp] theorem moveFrom_tracked (gi w : Nat) (s : State) : (moveFrom gi w s).tracked = s.tracked := by
  refine each_tracked (fun s a => ?_) _ _
  split <;> simp

@[simp] theorem headOutings_tracked (h : Nat) (s : State) : (headOutings h s).tracked = s.tracked := by simp [headOutings]

@[simp] theorem switchOld_keeps {t₀ : Tracked} (gi k w : Nat) (o n : Plan) {s : State} (h : Keeps t₀ s.tracked) :
    Keeps t₀ (switchOld gi k w o n s).tracked := by
  simp [h, switchOld]

@[simp] theorem switchNew_keeps {t₀ : Tracked} (gi w : Nat) (o n : Plan) {s : State} (h : Keeps t₀ s.tracked) :
    Keeps t₀ (switchNew gi w o n s).tracked := by
  simp -implicitDefEqProofs [h, switchNew]

@[simp] theorem execSwapSwitch_keeps {t₀ : Tracked} (g : Fin 16) {s : State} (h : Keeps t₀ s.tracked) :
    Out.Keeps t₀ (execSwapSwitch g s) := by
  refine onStew_keeps h ?_
  repeat' split
  all_goals simp [h]

@[simp] theorem placeCtx_tracked (x : PlanCtx) (k w first : Nat) (src : Option (Nat × Ctx × EvCtx)) (here : Ctx) (hereEv : EvCtx)
    (s : State) :
    (placeCtx x k w first src here hereEv s).tracked = s.tracked := by
  simp -implicitDefEqProofs [placeCtx]

@[simp] theorem moveHamper_tracked (oldC newC first : Nat) (s0 s : State) : (moveHamper oldC newC first s0 s).tracked = s.tracked := by
  simp -implicitDefEqProofs [moveHamper]

@[simp] theorem dropCtx_keeps {t₀ : Tracked} (x : PlanCtx) (w : Nat) {s : State} (h : Keeps t₀ s.tracked) :
    Keeps t₀ (dropCtx x w s).tracked := by
  unfold dropCtx
  extract_lets y s₁ s₂
  have h₁ : Keeps t₀ s₁.tracked := by
    unfold s₁
    split <;> simp [h]
  have h₂ : Keeps t₀ s₂.tracked := writeRecs_keeps _ _ (by simp [h₁])
  exact putLedger_keeps _ _ _ h₂

@[simp] theorem ownNumber_tracked (c : Nat) (s : State) : (ownNumber c s).tracked = s.tracked := by
  unfold ownNumber
  extract_lets g rekey s₁ s₂ s₃ s₄
  have h₁ : s₁.tracked = s.tracked := State.modPlanIsl_tracked (by split <;> rfl)
  have h₄ : s₄.tracked = s.tracked := by
    refine Eq.trans ?_ h₁
    simp -implicitDefEqProofs [s₄, s₃, s₂]
  clear_value s₄
  split
  · rfl
  · refine (each_tracked (fun s i => ?_) _ _).trans h₄
    simp -implicitDefEqProofs

@[simp] theorem moveContexts_keeps {t₀ : Tracked} (gi k : Nat) {s : State} (h : Keeps t₀ s.tracked) :
    Keeps t₀ (moveContexts gi k s).tracked := by
  unfold moveContexts
  split
  · split
    · exact h
    · extract_lets olds news first carries s₁ s₀ s₂ s₃ s₄ s₅
      have h₁ : Keeps t₀ s₁.tracked := each_keeps_tracked (fun s y => dropCtx_keeps y _ (.refl _)) _ h
      have h₂ : Keeps t₀ s₂.tracked := by
        refine each_keeps_tracked (fun s x => ?_) _ h₁
        split <;> simp -implicitDefEqProofs
      have h₅ : Keeps t₀ s₅.tracked := by simp -implicitDefEqProofs [s₅, s₄, s₃, h₂]
      clear_value s₅
      split <;> simp [h₅]
  · exact h

@[simp] theorem stopRing_tracked (r : Nat) (s : State) : (stopRing r s).tracked = s.tracked := by simp [stopRing]

@[simp] theorem dropHead_tracked (h : Nat) (s : State) : (dropHead h s).tracked = s.tracked := by simp [dropHead]

@[simp] theorem headSettings_tracked (h : PlanHead) (s : State) : (headSettings h s).tracked = s.tracked := by simp [headSettings]

@[simp] theorem completeSwap_keeps {t₀ : Tracked} (o n : Plan) {s : State} (h : Keeps t₀ s.tracked) :
    Keeps t₀ (completeSwap o n s).tracked := by
  unfold completeSwap
  extract_lets slot s₁ s₂ s₃ s₄ s₅ s₆ s₇ s₈ s₉ s₁₀ s₁₁ s₁₂ s₁₃
  have h₅ : Keeps t₀ s₅.tracked := by simp -implicitDefEqProofs [s₅, s₄, s₃, s₂, s₁, h]
  have h₈ : Keeps t₀ s₈.tracked := by simp -implicitDefEqProofs [s₈, s₇, s₆, h₅]
  have h₁₁ : Keeps t₀ s₁₁.tracked := by simp -implicitDefEqProofs [s₁₁, s₁₀, s₉, h₈]
  have h₁₂ : Keeps t₀ s₁₂.tracked := history_keeps _ _ _ _ _ _ _ h₁₁
  simp -implicitDefEqProofs [s₁₃, h₁₂]

@[simp] theorem execSwapComplete_keeps {t₀ : Tracked} {s : State} (h : Keeps t₀ s.tracked) :
    Out.Keeps t₀ (execSwapComplete s) := by
  refine onStew_keeps h ?_
  split
  · split
    · exact completeSwap_keeps _ _ h
    · exact h
  · exact h

@[simp] theorem execGroupStart_tracked (g : Fin 16) (s : State) : trackedAfter (execGroupStart g s) = some s.tracked := by
  refine onIsl_tracked ?_ _
  split <;> simp -implicitDefEqProofs

@[simp] theorem planWrite_keeps {t₀ : Tracked} (role host off : Nat) (v : Word) {s : State} (h : Keeps t₀ s.tracked) :
    Keeps t₀ (planWrite role host off v s).tracked := by
  unfold planWrite
  split <;> simp -implicitDefEqProofs [h]

/-! ### Replies and fences -/

@[simp] theorem putReply_tracked (p seq op : Nat) (a : Answer) (taken : Nat) (data : List Word) (s : State) :
    (putReply p seq op a taken data s).tracked = s.tracked := by
  simp [putReply]

@[simp] theorem replyFence_tracked (p : Nat) (f : Fence) (a : Answer) (s : State) : (replyFence p f a s).tracked = s.tracked := by
  simp [replyFence]

@[simp] theorem answerFence_tracked (p : Nat) (f : Fence) (a : Answer) (s : State) : (answerFence p f a s).tracked = s.tracked := by
  simp [answerFence]

@[simp] theorem commitFences_tracked (gi a : Nat) (ends : Bool) (s : State) : (commitFences gi a ends s).tracked = s.tracked := by
  simp [commitFences]

@[simp] theorem wordDone_tracked (p : Nat) (s : State) : (wordDone p s).tracked = s.tracked := by simp [wordDone]

/-! ### Commits -/

@[simp] theorem logGap_tracked (c : Nat) (g : Option (Nat × Nat × Nat)) (s : State) : (logGap c g s).tracked = s.tracked := by
  unfold logGap
  split <;> simp

@[simp] theorem logCarriedIn_tracked (gi c fresh : Nat) (s : State) : (logCarriedIn gi c fresh s).tracked = s.tracked := by
  unfold logCarriedIn
  split <;> simp

@[simp] theorem commitCtx_tracked (gi k a b serving : Nat) (lost : Bool) (p : Plan) (x : PlanCtx) (s : State) :
    (commitCtx gi k a b serving lost p x s).tracked = s.tracked := by
  unfold commitCtx
  dsimp only
  split <;> simp

@[simp] theorem commitParts_tracked (c : Nat) (s : State) : (commitParts c s).tracked = s.tracked := by simp [commitParts]

@[simp] theorem commitRecords_tracked (gi k : Nat) (s : State) : (commitRecords gi k s).tracked = s.tracked := by simp [commitRecords]

@[simp] theorem irqCommit_tracked (gi : Nat) (s : State) : (irqCommit gi s).tracked = s.tracked := by simp [irqCommit]

@[simp] theorem noteFirst_tracked (gi : Nat) (s : State) : (noteFirst gi s).tracked = s.tracked := by simp [noteFirst]

@[simp] theorem commitWindow_keeps {t₀ : Tracked} (gi k : Nat) (p : Plan) {s : State} (h : Keeps t₀ s.tracked) :
    Keeps t₀ (commitWindow gi k p s).tracked := by
  unfold commitWindow
  extract_lets g a b xs lostT lostH s₁ s₂ s₃ s₄ serving s₅ s₆ s₇ s₈ s₉ s₁₀ s₁₁ s₁₂ s₁₃ s₁₄ s₁₅
  have h₁ : Keeps t₀ s₁.tracked := by simp [s₁, h]
  have h₂ : Keeps t₀ s₂.tracked := by
    unfold s₂
    split
    · exact h₁
    · exact foldl_keeps_tracked (fun s x => harmCtx_keeps gi k true x (.refl _)) _ h₁
  have h₄ : Keeps t₀ s₄.tracked := by simp [s₄, s₃, h₂]
  have h₇ : Keeps t₀ s₇.tracked := by simp [s₇, s₆, s₅, h₄]
  have h₁₁ : Keeps t₀ s₁₁.tracked := by simp [s₁₁, s₁₀, s₉, s₈, h₇]
  have h₁₂ : Keeps t₀ s₁₂.tracked := by simp [s₁₂, h₁₁]
  have h₁₅ : Keeps t₀ s₁₅.tracked := by simp [s₁₅, s₁₄, s₁₃, h₁₂]
  exact moveContexts_keeps gi k h₁₅

@[simp] theorem execCommit_keeps {t₀ : Tracked} (g : Fin 16) {s : State} (h : Keeps t₀ s.tracked) :
    Out.Keeps t₀ (execCommit g s) := by
  refine onIsl_keeps h ?_ _
  dsimp only
  split
  · exact h
  · split
    · exact commitWindow_keeps _ _ _ h
    · exact h

@[simp] theorem execCommitDeadline_keeps {t₀ : Tracked} (g : Fin 16) {s : State} (h : Keeps t₀ s.tracked) :
    Out.Keeps t₀ (execCommitDeadline g s) := by
  refine onIsl_keeps h ?_ _
  dsimp only
  split
  · exact h
  · split
    · exact commitWindow_keeps _ _ _ (by simp [h])
    · exact h

/-! ### The flow of samples -/

@[simp] theorem changeIndex_tracked (h : Nat) (d : Bool) (a : Nat) (s : State) : (changeIndex h d a s).tracked = s.tracked := by
  simp [changeIndex]

@[simp] theorem noteChange_tracked (h : Nat) (c : Change) (old : Nat) (s : State) : (noteChange h c old s).tracked = s.tracked := by
  unfold noteChange
  split <;> simp

@[simp] theorem applySampling_tracked (h : Nat) (c : Change) (s : State) : (applySampling h c s).tracked = s.tracked := by
  simp [applySampling]

@[simp] theorem applyDue_tracked (h n : Nat) (s : State) : (applyDue h n s).2.tracked = s.tracked := by simp [applyDue]

@[simp] theorem noteOk_tracked (h n : Nat) (okP okA : Bool) (s : State) : (noteOk h n okP okA s).tracked = s.tracked := by simp [noteOk]

@[simp] theorem noteClip_tracked (h n : Nat) (any both : Bool) (s : State) : (noteClip h n any both s).tracked = s.tracked := by
  simp -implicitDefEqProofs [noteClip]

@[simp] theorem voidSlot_tracked (h n : Nat) (g : Grade) (s : State) : (voidSlot h n g s).tracked = s.tracked := by simp [voidSlot]

@[simp] theorem gainsFrom_tracked (h n : Nat) (s : State) : (gainsFrom h n s).tracked = s.tracked := by
  unfold gainsFrom; dsimp only; split <;> simp

@[simp] theorem stimExpire_tracked (h n : Nat) (s : State) : (stimExpire h n s).tracked = s.tracked := by simp [stimExpire]

@[simp] theorem takeSlot_tracked (r n pos : Nat) (g : Grade) (bs : List Byte) (s : State) :
    (takeSlot r n pos g bs s).2.tracked = s.tracked := by
  unfold takeSlot
  dsimp only
  split <;> simp

@[simp] theorem noteFull_tracked (r : Nat) (s : State) : (noteFull r s).tracked = s.tracked := by simp -implicitDefEqProofs [noteFull]

@[simp] theorem captureRaw_tracked (r : Nat) (e : StairIn) (s : State) : (captureRaw r e s).tracked = s.tracked := by simp [captureRaw]

@[simp] theorem deliverSlot_tracked (r n : Nat) (s : State) (e : (Grade × List Byte) × Nat) :
    (deliverSlot r n s e).tracked = s.tracked := by
  simp [deliverSlot]

@[simp] theorem logWrap_tracked (r n : Nat) (s : State) : (logWrap r n s).tracked = s.tracked := by simp [logWrap]

@[simp] theorem overrun_tracked (r : Nat) (s : State) : (overrun r s).tracked = s.tracked := by unfold overrun; dsimp only; split <;> simp

@[simp] theorem deliverIdx_tracked (r : Nat) (e : HeldIdx) (s : State) : (deliverIdx r e s).tracked = s.tracked := by simp [deliverIdx]

@[simp] theorem gradeOne_tracked (r : Nat) (s : State) : (gradeOne r s).tracked = s.tracked := by simp [gradeOne]

@[simp] theorem slotRelease_tracked (r : Nat) (s : State) : (slotRelease r s).tracked = s.tracked := by
  unfold slotRelease; dsimp only; split <;> simp

@[simp] theorem execSlotRelease_tracked (r : Fin 32) (s : State) : trackedAfter (execSlotRelease r s) = some s.tracked := by
  simp [execSlotRelease]

@[simp] theorem holdTimeout_tracked (r : Nat) (s : State) : (holdTimeout r s).tracked = s.tracked := by
  unfold holdTimeout; dsimp only; split <;> simp

@[simp] theorem execHoldTimeout_tracked (r : Fin 32) (s : State) : trackedAfter (execHoldTimeout r s) = some s.tracked := by
  simp [execHoldTimeout]

@[simp] theorem outputSeen_tracked (r pos e : Nat) (d : Bool) (o : StOut) (s : State) :
    (outputSeen r pos e d o s).tracked = s.tracked := by
  simp only [outputSeen]
  repeat' split
  all_goals simp

@[simp] theorem flatSeen_tracked (r pos e : Nat) (d : Bool) (o : StOut) (s : State) : (flatSeen r pos e d o s).tracked = s.tracked := by
  unfold flatSeen
  dsimp only
  split <;> simp

@[simp] theorem keepBefore_tracked (old t st : Nat) (s : State) : (keepBefore old t st s).tracked = s.tracked := by simp [keepBefore]

@[simp] theorem endMove_tracked (r e : Nat) (o : StOut) (s : State) : (endMove r e o s).tracked = s.tracked := by
  unfold endMove
  repeat' split
  all_goals simp -implicitDefEqProofs

@[simp] theorem runEngine_tracked (r pos e : Nat) (d : Bool) (q : Samp) (s : State) : (runEngine r pos e d q s).tracked = s.tracked := by
  simp only [runEngine]
  repeat' split
  all_goals simp

@[simp] theorem noteResidue_tracked (e residue corrected : Nat) (s : State) :
    (noteResidue e residue corrected s).tracked = s.tracked := by
  simp [noteResidue]

@[simp] theorem takerRuns_tracked (r pos : Nat) (d : Bool) (q : Samp) (upT : Nat × Nat) (s : State) :
    (takerRuns r pos d q upT s).tracked = s.tracked := by
  unfold takerRuns
  split <;> simp

@[simp] theorem stairFree_tracked (r : Nat) (s : State) : (stairFree r s).tracked = s.tracked := by simp [stairFree]

@[simp] theorem stairTake_keeps {t₀ : Tracked} (r : Nat) (up upT : Nat × Nat) (x : StairIn) (rest : List StairIn) {s : State}
  (h : Keeps t₀ s.tracked) :
    Keeps t₀ (stairTake r up upT x rest s).tracked := by
  unfold stairTake
  extract_lets d s₁ s₂ n q s₃ s₄ s₅
  have h₃ : Keeps t₀ s₃.tracked := by simp [s₃, s₂, s₁, h]
  clear_value q s₃
  have h₄ : Keeps t₀ s₄.tracked := by simp [s₄, h₃]
  have h₅ : Keeps t₀ s₅.tracked := by
    unfold s₅
    split <;> simp [h₄]
  split <;> simp [h₅]

@[simp] theorem stairProcess_keeps {t₀ : Tracked} (r : Nat) (up upT : Nat × Nat) {s : State} (h : Keeps t₀ s.tracked) :
    Keeps t₀ (stairProcess r up upT s).tracked := by
  unfold stairProcess
  repeat' split
  all_goals simp [h]

@[simp] theorem execStairProcess_keeps {t₀ : Tracked} (r : Fin 32) (up upT : Nat × Nat) {s : State} (h : Keeps t₀ s.tracked) :
    Out.Keeps t₀ (execStairProcess r up upT s) := by
  simp [h, execStairProcess]

@[simp] theorem accData_tracked (p : Nat) (ws : List Word) (s : State) : (accData p ws s).tracked = s.tracked := by simp [accData]

@[simp] theorem storeAccepted_tracked (h : Nat) (c : Option Change) (s : State) : (storeAccepted h c s).tracked = s.tracked := by
  unfold storeAccepted
  split <;> simp

@[simp] theorem answered_tracked (r : Nat) (f : CellFly) (chars : List Byte) (s : State) :
    (answered r f chars s).tracked = s.tracked := by
  unfold answered
  split <;> simp

@[simp] theorem execCellReply_tracked (r : Fin 32) (cell : Fin 4) (chars : List Byte) (s : State) :
    trackedAfter (execCellReply r cell chars s) = some s.tracked := by
  refine onLink_tracked ?_ _
  dsimp only
  split <;> simp

@[simp] theorem wrongHead_tracked (h : Nat) (listed found : BitVec 64) (s : State) :
    (wrongHead h listed found s).tracked = s.tracked := by
  simp [wrongHead]

@[simp] theorem hopOf_tracked (h : Nat) (serial : BitVec 64) (s : State) : (hopOf h serial s).2.tracked = s.tracked := by
  unfold hopOf; split <;> simp

@[simp] theorem admissionCells_tracked (h a0 : Nat) (ph : PlanHead) (w : Word × Word) (s : State) :
    (admissionCells h a0 ph w s).tracked = s.tracked := by
  simp [admissionCells]

@[simp] theorem bringHead_tracked (h : Nat) (id : HeadIdent) (a0 : Nat) (ph : PlanHead) (s : State) :
    (bringHead h id a0 ph s).tracked = s.tracked := by
  simp -implicitDefEqProofs [bringHead]

@[simp] theorem sendSettings_tracked (r : Nat) (s : State) : (sendSettings r s).tracked = s.tracked := by
  refine each_tracked (fun s a => ?_) _ _
  split <;> simp

@[simp] theorem execRingWaits_tracked (r : Fin 32) (s : State) (mods : List (Fin 128 × BitVec 17 × BitVec 17)) :
    trackedAfter (execRingWaits r s mods) = some s.tracked := by
  simp [execRingWaits]

@[simp] theorem headAdmit_tracked (h : Nat) (id : HeadIdent) (a0 : Nat) (s : State) : (headAdmit h id a0 s).tracked = s.tracked := by
  unfold headAdmit
  split <;> simp

@[simp] theorem execHeadAdmit_tracked (h : Fin 4096) (ident : HeadIdent) (a0 : Nat) (s : State) :
    trackedAfter (execHeadAdmit h ident a0 s) = some s.tracked := by
  simp [execHeadAdmit]

@[simp] theorem resumeOuting_tracked (h a0 : Nat) (was : Bool → Word) (s : State) (d : Bool) :
    (resumeOuting h a0 was s d).tracked = s.tracked := by
  simp only [resumeOuting]
  repeat' split
  all_goals simp

@[simp] theorem headRejoin_tracked (h : Nat) (id : HeadIdent) (a0 : Nat) (s : State) : (headRejoin h id a0 s).tracked = s.tracked := by
  unfold headRejoin
  split <;> simp

@[simp] theorem execHeadRejoin_tracked (h : Fin 4096) (ident : HeadIdent) (a0 : Nat) (s : State) :
    trackedAfter (execHeadRejoin h ident a0 s) = some s.tracked := by
  simp [execHeadRejoin]

@[simp] theorem placeWaiting_tracked (h n : Nat) (s : State) : (placeWaiting h n s).tracked = s.tracked := by
  induction n generalizing s with
  | zero => rfl
  | succ n ih =>
    unfold placeWaiting
    extract_lets x
    split
    · split <;> simp [ih]
    · rfl

@[simp] theorem execChangeQueuePlace_tracked (h : Fin 4096) (s : State) : trackedAfter (execChangeQueuePlace h s) = some s.tracked := by
  simp [execChangeQueuePlace]

/-! ### The trouble log -/

@[simp] theorem logOverwritten_tracked (old : Nat) (s : State) : (logOverwritten old s).tracked = s.tracked := by simp [logOverwritten]

@[simp] theorem putSlot_keeps {t₀ : Tracked} (seq : Nat) (body : List Byte) {s : State} (h : Keeps t₀ s.tracked) :
    Keeps t₀ (putSlot seq body s).tracked := galPuts_keeps _ _ _ (galPuts_keeps _ _ _ (galPuts_keeps _ _ _ h))

@[simp] theorem writePart_keeps {t₀ : Tracked} (e : LogEnt) (part : Bool × Bool × List Byte) {s : State} (h : Keeps t₀ s.tracked) :
    Keeps t₀ (writePart e part s).tracked := by
  simp [h, writePart]

@[simp] theorem logIrq_tracked (sev : Nat) (s : State) : (logIrq sev s).tracked = s.tracked := by simp [logIrq]

@[simp] theorem writeRecord_keeps {t₀ : Tracked} (e : LogEnt) {s : State} (h : Keeps t₀ s.tracked) :
    Keeps t₀ (writeRecord e s).tracked := by
  simp [h, writeRecord]

@[simp] theorem closeSpan_keeps {t₀ : Tracked} (code : Nat) {s : State} (h : Keeps t₀ s.tracked) :
    Keeps t₀ (closeSpan code s).tracked := by
  unfold closeSpan
  split
  · exact h
  · dsimp only
    split
    · simp [h]
    · exact writeRecord_keeps _ (by simp [h])

@[simp] theorem closeSpans_keeps {t₀ : Tracked} (w : Nat) {s : State} (h : Keeps t₀ s.tracked) :
    Keeps t₀ (closeSpans w s).tracked := each_keeps_tracked (fun _ c => closeSpan_keeps c (.refl _)) _ h

@[simp] theorem takeRecord_keeps {t₀ : Tracked} (e : LogEnt) {s : State} (h : Keeps t₀ s.tracked) :
    Keeps t₀ (takeRecord e s).tracked := by
  unfold takeRecord
  extract_lets s₁ past s₂ x
  have h₁ : Keeps t₀ s₁.tracked := by simp [s₁, h]
  have h₂ : Keeps t₀ s₂.tracked := by simp [s₂, h₁]
  split
  · exact writeRecord_keeps e h₁
  · split
    · exact writeRecord_keeps e (by simp [h₂])
    · simp [h₂]

@[simp] theorem execLogEntryWrite_keeps {t₀ : Tracked} (isl : Fin 12) {s : State} (h : Keeps t₀ s.tracked) :
    Out.Keeps t₀ (execLogEntryWrite isl s) := by
  unfold execLogEntryWrite
  repeat' split
  all_goals simp [h]

@[simp] theorem execLogDropped_tracked (isl : Fin 12) (s : State) : trackedAfter (execLogDropped isl s) = some s.tracked := by
  simp [execLogDropped]

@[simp] theorem execLogSuppressed_keeps {t₀ : Tracked} (code : BitVec 16) {s : State} (h : Keeps t₀ s.tracked) :
    Out.Keeps t₀ (execLogSuppressed code s) := by
  unfold execLogSuppressed
  repeat' split
  all_goals simp [h]

@[simp] theorem batteryRecord_tracked (e : LogEnt) (s : State) : (batteryRecord e s).tracked = s.tracked := by
  simp -implicitDefEqProofs [batteryRecord]

/-- R472: the slots as MAIN_RELEASE writes them. -/
theorem memWf_mirrored (es : List MirrorEnt) {m : Mem} (h : memWf galDefault m = true) :
    memWf galDefault (es.foldl copyMirror (logBlank m)) = true :=
  List.foldlRecOn es copyMirror (motive := (memWf galDefault · = true)) (memWf_logBlank h) (fun _ hm e _ => memWf_copyMirror e hm)

@[simp] theorem logStart_keeps {t₀ : Tracked} (saved : Nat) {s : State} (h : Keeps t₀ s.tracked) :
    Keeps t₀ (logStart saved s).tracked := by
  unfold logStart
  extract_lets es s₁
  have h₁ : Keeps t₀ s₁.tracked := State.modGal_keeps h (fun hw => memWf_mirrored es hw)
  simp [h₁]

@[simp] theorem logClear_tracked (p off : Nat) (s : State) : (logClear p off s).tracked = s.tracked := by unfold logClear; split <;> simp

@[simp] theorem logWrite_tracked (p off : Nat) (v : Word) (s : State) : (logWrite p off v s).tracked = s.tracked := by
  unfold logWrite; split <;> simp

/-! ### Counted seconds -/

@[simp] theorem spTick_tracked (b : Nat) (moved : Bool) (s : State) (gi : Nat) : (spTick b moved s gi).tracked = s.tracked := by
  simp [spTick]

@[simp] theorem rtcBoundary_tracked (s : State) : (rtcBoundary s).tracked = s.tracked := by simp [rtcBoundary]

/-! ### Roles and keys -/

@[simp] theorem sessionReset_tracked (s : State) : (sessionReset s).tracked = s.tracked := by simp -implicitDefEqProofs [sessionReset]

@[simp] theorem voidChals_tracked (role : Nat) (s : State) : (voidChals role s).tracked = s.tracked := by
  simp -implicitDefEqProofs [voidChals]

@[simp] theorem sealUp_tracked (s : State) : (sealUp s).tracked = s.tracked := by simp [sealUp]

@[simp] theorem roleReq_tracked (p role : Nat) (bytes : BitVec 256) (s : State) : (roleReq p role bytes s).tracked = s.tracked := by
  simp [roleReq]

@[simp] theorem authFail_tracked (p role : Nat) (s : State) : (authFail p role s).tracked = s.tracked := by simp [authFail]

@[simp] theorem roleSubmit_tracked (p : Nat) (s : State) : (roleSubmit p s).tracked = s.tracked := by simp [roleSubmit]

@[simp] theorem execRoleReq_tracked (host : Fin 4) (role : BitVec 2) (chal : BitVec 256) (s : State) :
    trackedAfter (execRoleReq host role chal s) = some s.tracked := by
  simp [execRoleReq]

@[simp] theorem execRoleSubmit_tracked (host : Fin 4) (s : State) : trackedAfter (execRoleSubmit host s) = some s.tracked := by
  simp [execRoleSubmit]

@[simp] theorem execRoleClose_tracked (host : Fin 4) (s : State) : trackedAfter (execRoleClose host s) = some s.tracked := by
  simp [execRoleClose]

@[simp] theorem execSessionIdleTimeout_tracked (host : Fin 4) (s : State) :
    trackedAfter (execSessionIdleTimeout host s) = some s.tracked := by
  simp -implicitDefEqProofs [execSessionIdleTimeout]

@[simp] theorem keyGo_tracked (role p target : Nat) (s : State) : (keyGo role p target s).2.tracked = s.tracked := by
  simp only [keyGo]
  repeat' split
  all_goals simp

@[simp] theorem askSave_tracked (s : State) : (askSave s).tracked = s.tracked := by simp [askSave]

/-- A change of the role registers that leaves OTP plan key slots and adds maker keys. -/
theorem State.modRoleIsl_keeps {t₀ : Tracked} {s : State} {f : Role → Role} (h : Keeps t₀ s.tracked)
    (hj : JobOk s.role.otpJob s.role.otp → JobOk (f s.role).otpJob (f s.role).otp ∧
      ∀ i, SlotGrows (tget .empty s.role.otp i) (tget .empty (f s.role).otp i))
    (hm : s.role.makers <+: (f s.role).makers) : Keeps t₀ (s.modRoleIsl f).tracked :=
  h.trans ⟨rfl, id, id, id, hj, hm, fun hn => ⟨Nat.le_refl _, hn⟩⟩

@[simp] theorem putKey_keeps {t₀ : Tracked} (target : Nat) (k : BitVec 256) {s : State} (h : Keeps t₀ s.tracked) :
    Keeps t₀ (putKey target k s).tracked := by
  unfold putKey
  rw [askSave_tracked]
  split
  · simp [h]
  · simp [h]
  · exact State.modRoleIsl_keeps h (fun hj => ⟨hj, fun _ => .refl _⟩) (List.prefix_append _ _)

@[simp] theorem execKeySetDone_keeps {t₀ : Tracked} (host : Fin 4) {s : State} (h : Keeps t₀ s.tracked) :
    Out.Keeps t₀ (execKeySetDone host s) := by
  refine onIsl_keeps h ?_ _
  split
  · exact h
  · extract_lets own s₁ s₂
    have h₁ : Keeps t₀ s₁.tracked := by simp [s₁, h]
    have h₂ : Keeps t₀ s₂.tracked := by simp [s₂, h₁]
    simp [h₂]

/-- R408: a slot that is to be programmed is empty. -/
theorem otpRefused_program {s : State} {i : Nat} (h : s.otpRefused 1 i = none) : tget .empty s.role.otp i = .empty := by
  unfold State.otpRefused at h
  cases hs : tget .empty s.role.otp i <;> simp_all

@[simp] theorem otpGo_keeps {t₀ : Tracked} (role p op slot : Nat) {s : State} (h : Keeps t₀ s.tracked) :
    Keeps t₀ (otpGo role p op slot s).2.tracked := by
  unfold otpGo
  extract_lets s₁ data s₂
  have h₁ : Keeps t₀ s₁.tracked := by simp [s₁, h]
  have h₂ : Keeps t₀ s₂.tracked := by simp [s₂, h₁]
  split
  · exact h₁
  · split
    · simp [h₂]
    · next hr =>
      rw [raiseAudit_tracked]
      refine State.modRoleIsl_keeps h₂ (fun _ => ⟨fun i d hi => ?_, fun _ => .refl _⟩) (List.prefix_refl _)
      simp only [Option.some.injEq, Prod.mk.injEq] at hi
      obtain ⟨rfl, rfl, -⟩ := hi
      exact otpRefused_program hr

/-- R408: what a completed operation makes of its slot. -/
theorem slotGrows_otpAfter {op slot : Nat} {data : BitVec 512} {o : Tab OtpSlot} (hj : JobOk (some (op, slot, data)) o) :
    SlotGrows (tget .empty o slot) (otpAfter op data (tget .empty o slot)) := by
  by_cases hop : op = 1
  · subst hop
    rw [hj slot data rfl]
    trivial
  · unfold otpAfter
    split
    · contradiction
    · next hx => simp [hx, SlotGrows]
    · next hx => exact .refl _

@[simp] theorem execOtpKeyDone_keeps {t₀ : Tracked} (ok : Bool) {s : State} (h : Keeps t₀ s.tracked) :
    Out.Keeps t₀ (execOtpKeyDone ok s) := by
  refine onIsl_keeps h ?_ _
  split
  · exact h
  · next op slot data hjob =>
    refine State.modRoleIsl_keeps h (fun hj => ⟨fun i d hi => (by cases hi), fun i => ?_⟩) (List.prefix_refl _)
    rw [hjob] at hj
    cases ok with
    | false => exact .refl _
    | true =>
      simp only [if_true, tget_tset]
      split
      · next hi => subst hi; exact slotGrows_otpAfter hj
      · exact .refl _

@[simp] theorem sealClear_tracked (role p : Nat) (s : State) : (sealClear role p s).2.tracked = s.tracked := by
  unfold sealClear; split <;> simp

@[simp] theorem freeBytes_tracked (n : Nat) (s : State) : (freeBytes n s).2.tracked = s.tracked := by
  induction n generalizing s with
  | zero => rfl
  | succ n ih => simp [freeBytes, ih]

@[simp] theorem roleOpenWrite_tracked (p : Nat) (v : Word) (s : State) : (roleOpenWrite p v s).tracked = s.tracked := by
  simp [roleOpenWrite]

@[simp] theorem roleWrite_keeps {t₀ : Tracked} (role p off : Nat) (v : Word) {s : State} (h : Keeps t₀ s.tracked) :
    Keeps t₀ (roleWrite role p off v s).2.tracked := by
  unfold roleWrite
  repeat' split
  all_goals simp [h]

/-! ### Tamper monitors -/

@[simp] theorem applyCfgs_tracked (s : State) : (applyCfgs s).tracked = s.tracked := by simp -implicitDefEqProofs [applyCfgs]

@[simp] theorem senseMon_tracked (m : Nat) (obs : TamperObs) (s : State) : (senseMon m obs s).2.tracked = s.tracked := by
  simp only [senseMon]
  repeat' split
  all_goals simp

@[simp] theorem tamperRecord_tracked (c : LogCode) (sev inst : Nat) (vals : List (Nat × Nat)) (s : State) :
    (tamperRecord c sev inst vals s).tracked = s.tracked := by
  simp [tamperRecord]

@[simp] theorem alarmRecord_tracked (m : Nat) (s : State) : (alarmRecord m s).tracked = s.tracked := by simp [alarmRecord]

@[simp] theorem otpStep_keeps {t₀ : Tracked} (bad : Nat) {s : State} (h : Keeps t₀ s.tracked) :
    Keeps t₀ (otpStep bad s).tracked := by
  unfold otpStep
  split
  · exact h
  · extract_lets n s₁
    have h₁ : Keeps t₀ s₁.tracked := h.trans
      ⟨rfl, id, id, id, fun hj => ⟨hj, fun _ => .refl _⟩, List.prefix_refl _, fun hn => ⟨by simp only [s₁, n, State.modTmpIsl]; omega,
        Nat.min_le_left _ _⟩⟩
    split <;> simp [h₁]

@[simp] theorem otpPend_tracked  (s : State) : (otpPend s).tracked = s.tracked := State.modTmpIsl_tracked (by split <;> rfl)

@[simp] theorem respond_tracked (r : Nat) (s : State) : (respond r s).tracked = s.tracked := by unfold respond; split <;> simp

@[simp] theorem respondOnCell_tracked (r : Nat) (s : State) : (respondOnCell r s).tracked = s.tracked := by
  unfold respondOnCell
  split <;> simp -implicitDefEqProofs

@[simp] theorem resolve_keeps {t₀ : Tracked} (ms : List Nat) (bad : Nat) {s : State} (h : Keeps t₀ s.tracked) :
    Keeps t₀ (resolve ms bad s).tracked := by
  simp [h, resolve]

@[simp] theorem testSample_tracked (cond : Bool) (s : State) : (testSample cond s).tracked = s.tracked := by
  unfold testSample; split <;> simp

@[simp] theorem sampleMon_tracked (m : Nat) (obs : TamperObs) (s : State) : (sampleMon m obs s).2.tracked = s.tracked := by
  simp [sampleMon]

@[simp] theorem sampleAll_tracked (obs : TamperObs) (ms : List Nat) (s : State) : (sampleAll obs ms s).2.tracked = s.tracked := by
  induction ms generalizing s with
  | nil => rfl
  | cons m ms ih => simp [sampleAll, ih]

@[simp] theorem cellSecond_tracked (s : State) : (cellSecond s).tracked = s.tracked := by simp [cellSecond]

@[simp] theorem execTamperSample_keeps {t₀ : Tracked} (obs : TamperObs) {s : State} (h : Keeps t₀ s.tracked) :
    Out.Keeps t₀ (execTamperSample obs s) := by
  simp [h, execTamperSample]

@[simp] theorem shadowRestore_tracked (f : ShadowField) (s : State) : (shadowRestore f s).tracked = s.tracked := by
  unfold shadowRestore; split <;> simp

@[simp] theorem shadowFound_tracked (d1 : Bool) (f : ShadowField) (s : State) : (shadowFound d1 f s).tracked = s.tracked := by
  simp [shadowFound]

@[simp] theorem execShadowMismatch_tracked (f : ShadowField) (s : State) : trackedAfter (execShadowMismatch f s) = some s.tracked := by
  simp [execShadowMismatch]

@[simp] theorem execShadowSweep_tracked (bad : List ShadowField) (s : State) : trackedAfter (execShadowSweep bad s) = some s.tracked := by
  simp [execShadowSweep]

@[simp] theorem testGo_tracked (m : Nat) (s : State) : (testGo m s).tracked = s.tracked := by
  unfold testGo
  extract_lets s₁
  have h₁ : s₁.tracked = s.tracked := by simp [s₁]
  clear_value s₁
  split <;> simp [h₁]

@[simp] theorem tmpClear_tracked (off : Nat) (s : State) : (tmpClear off s).tracked = s.tracked := by simp [tmpClear]

@[simp] theorem tmpWrite_tracked (off : Nat) (v : Word) (s : State) : (tmpWrite off v s).tracked = s.tracked := by
  unfold tmpWrite
  repeat' split
  all_goals simp -implicitDefEqProofs

/-! ### Power -/

@[simp] theorem noteSaved_tracked (r : SaveRec) (copies : Nat) (s : State) : (noteSaved r copies s).tracked = s.tracked := by
  simp [noteSaved]

@[simp] theorem saveFailed_tracked (copy : Nat) (s : State) : (saveFailed copy s).tracked = s.tracked := by simp [saveFailed]

@[simp] theorem spendTail_tracked (s : State) : (spendTail s).tracked = s.tracked := by simp [spendTail]

@[simp] theorem periodicSave_tracked (ok1 ok2 : Bool) (s : State) : (periodicSave ok1 ok2 s).tracked = s.tracked := by simp [periodicSave]

@[simp] theorem execPeriodicSave_tracked (ok1 ok2 : Bool) (s : State) : trackedAfter (execPeriodicSave ok1 ok2 s) = some s.tracked := by
  simp [execPeriodicSave]

@[simp] theorem countArrived_tracked (s : State) : (countArrived s).tracked = s.tracked := by simp [countArrived]

@[simp] theorem shedRings_tracked (s : State) : (shedRings s).tracked = s.tracked := by simp [shedRings]

@[simp] theorem shedGalleries_keeps {t₀ : Tracked} {s : State} (h : Keeps t₀ s.tracked) :
    Keeps t₀ (shedGalleries s).tracked := by
  unfold shedGalleries
  extract_lets s₁ s₂
  have h₁ : Keeps t₀ s₁.tracked := by
    unfold s₁
    split <;> simp [h]
  exact each_keeps_tracked (fun s g => galSettle_keeps g (State.modGal_keeps_mem (.refl _) rfl)) _ h₁

@[simp] theorem tearSave_tracked (s : State) : (tearSave s).tracked = s.tracked := by simp [tearSave]

@[simp] theorem warn_keeps {t₀ : Tracked} (src : Nat) {s : State} (h : Keeps t₀ s.tracked) : Keeps t₀ (warn src s).tracked := by
  simp -implicitDefEqProofs [h, warn]

@[simp] theorem giveUpStart_tracked (src : Nat) (s : State) : (giveUpStart src s).tracked = s.tracked := by simp [giveUpStart]

@[simp] theorem execPowerWarning_keeps {t₀ : Tracked} (src : BitVec 3) {s : State} (saving : Bool) (h : Keeps t₀ s.tracked) :
    Out.Keeps t₀ (execPowerWarning src s saving) := by
  simp [h, execPowerWarning]

@[simp] theorem execSpectralShed_tracked (s : State) : trackedAfter (execSpectralShed s) = some s.tracked := by simp [execSpectralShed]

@[simp] theorem writeBoth_tracked (okA okB : Bool) (r : SaveRec) {fin : State → State} (hf : ∀ s, (fin s).tracked = s.tracked)
  (s : State) :
    (writeBoth okA okB r fin s).tracked = s.tracked := by
  unfold writeBoth
  extract_lets s₁
  have h₁ : s₁.tracked = s.tracked := by simp [s₁]
  repeat' split
  all_goals simp -implicitDefEqProofs [hf, h₁]

@[simp] theorem freeze_tracked (okA okB : Bool) (s : State) : (freeze okA okB s).tracked = s.tracked := by
  simp -implicitDefEqProofs [freeze]

@[simp] theorem execTotalsFreeze_tracked (okA okB : Bool) (s : State) : trackedAfter (execTotalsFreeze okA okB s) = some s.tracked := by
  simp [execTotalsFreeze]

@[simp] theorem dropRecord_tracked (s : State) : (dropRecord s).tracked = s.tracked := by simp [dropRecord]

@[simp] theorem execSaveDeadline_tracked (s : State) : trackedAfter (execSaveDeadline s) = some s.tracked := by simp [execSaveDeadline]

@[simp] theorem copyTail_tracked (s : State) : (copyTail s).tracked = s.tracked := by simp [copyTail]

@[simp] theorem execTailCopy_tracked (s : State) : trackedAfter (execTailCopy s) = some s.tracked := by simp [execTailCopy]

@[simp] theorem drainLog_keeps {t₀ : Tracked} {s : State} (h : Keeps t₀ s.tracked) : Keeps t₀ (drainLog s).tracked := by
  simp [h, drainLog]

@[simp] theorem execCloakSupplySwitch_tracked (vio33 : Bool) (s : State) :
    trackedAfter (execCloakSupplySwitch vio33 s) = some s.tracked := by
  simp [execCloakSupplySwitch]

@[simp] theorem pwrClear_tracked (off : Nat) (s : State) : (pwrClear off s).tracked = s.tracked := by unfold pwrClear; split <;> simp

@[simp] theorem pwrWrite_tracked (off : Nat) (v : Word) (s : State) : (pwrWrite off v s).tracked = s.tracked := by
  unfold pwrWrite; split <;> simp

/-! ### Starts, resets and islands -/

@[simp] theorem loseTail_tracked (s : State) : (loseTail s).tracked = s.tracked := by simp [loseTail]

@[simp] theorem loseMirror_tracked (s : State) : (loseMirror s).tracked = s.tracked := by simp [loseMirror]

@[simp] theorem loseCloakroom_tracked  (s : State) : (loseCloakroom s).tracked = s.tracked := by
  simp -implicitDefEqProofs [loseCloakroom]

@[simp] theorem commitPending_keeps {t₀ : Tracked} (bad : Nat) {s : State} (h : Keeps t₀ s.tracked) :
    Keeps t₀ (commitPending bad s).tracked := by
  have hv : Keeps t₀ s.freeNext.2.tracked := h
  unfold commitPending
  extract_lets n w s₁ s₂
  have h₂ : Keeps t₀ s₂.tracked := by
    unfold s₂
    split
    · exact hv
    · exact repeatDo_keeps (fun s => otpStep_keeps 0 (.refl _)) _ (otpStep_keeps bad hv)
  simp [h₂]

@[simp] theorem execPowerGood_keeps {t₀ : Tracked} (bak : Backup) (badCells : Nat) {s : State} (h : Keeps t₀ s.tracked) :
    Out.Keeps t₀ (execPowerGood bak badCells s) := by
  refine Out.keeps_next.2 ?_
  split
  · exact h
  · extract_lets s₁ s₂
    have h₁ : Keeps t₀ s₁.tracked := by
      unfold s₁
      split <;> simp [h]
    have h₂ : Keeps t₀ s₂.tracked := by simp [s₂, h₁]
    exact each_keeps_tracked (fun s g => galClear_keeps g (.refl _)) _ (commitPending_keeps badCells h₂)

@[simp] theorem disagreeEntry_tracked (copy seq : Nat) (s : State) : (disagreeEntry copy seq s).tracked = s.tracked := by
  simp [disagreeEntry]

@[simp] theorem chooseRecord_tracked (s : State) : (chooseRecord s).tracked = s.tracked := by unfold chooseRecord; split <;> simp

@[simp] theorem retireSaved_tracked (s : State) (e : Nat × Nat) : (retireSaved s e).tracked = s.tracked := by
  unfold retireSaved; split <;> simp

@[simp] theorem restoreSettings_tracked (cloakLost : Bool) (s : State) : (restoreSettings cloakLost s).tracked = s.tracked := by
  unfold restoreSettings
  split
  · simp -implicitDefEqProofs
  · next r _ =>
    extract_lets s₁ s₂ s₃ s₄ p s₅
    have h₄ : s₄.tracked = s.tracked := by simp -implicitDefEqProofs [s₄, s₃, s₂, s₁]
    have h₅ : s₅.tracked = s.tracked := h₄
    clear_value s₅
    split <;> simp [h₅]

@[simp] theorem legacyUnsaved_tracked (r : SaveRec) (from_ upTo : Nat) (s : State) :
    (legacyUnsaved r from_ upTo s).tracked = s.tracked := by
  simp [legacyUnsaved]

@[simp] theorem applyKept_tracked (s : State) : (applyKept s).tracked = s.tracked := by simp -implicitDefEqProofs [applyKept]

@[simp] theorem settleLoss_tracked (s : State) : (settleLoss s).tracked = s.tracked := by
  simp only [settleLoss]
  repeat' split
  all_goals simp

@[simp] theorem beginStart_tracked (s : State) : (beginStart s).tracked = s.tracked := by simp [beginStart]

@[simp] theorem startRest_tracked  (s : State) : (startRest s).tracked = s.tracked := by
  simp -implicitDefEqProofs [startRest]

@[simp] theorem resetOn_tracked (s : State) : (resetOn s).tracked = s.tracked := by unfold resetOn; dsimp only; split <;> simp

@[simp] theorem releaseIsland_tracked (i : Island) (s : State) : (releaseIsland i s).tracked = s.tracked := by
  unfold releaseIsland; split <;> simp

@[simp] theorem execIslandResetRelease_tracked (i : Island) (s : State) : trackedAfter (execIslandResetRelease i s) = some s.tracked := by
  simp [execIslandResetRelease]

@[simp] theorem loseStair_tracked (s : State) : (loseStair s).tracked = s.tracked := by simp [loseStair]

@[simp] theorem loseTallies_tracked (s : State) : (loseTallies s).tracked = s.tracked := by simp [loseTallies]

@[simp] theorem loseSpectral_keeps {t₀ : Tracked} {s : State} (h : Keeps t₀ s.tracked) :
    Keeps t₀ (loseSpectral s).tracked := by
  unfold loseSpectral
  extract_lets k s₁ s₂
  have h₁ : Keeps t₀ s₁.tracked := by simp [s₁, h]
  have h₂ : Keeps t₀ s₂.tracked := by simp [s₂, h₁]
  simp [h₂]

@[simp] theorem loseContents_keeps {t₀ : Tracked} (i : Island) {s : State} (h : Keeps t₀ s.tracked) :
    Keeps t₀ (loseContents i s).tracked := by
  unfold loseContents; split <;> simp [h]

@[simp] theorem loseClock_keeps {t₀ : Tracked} (i : Island) {s : State} (h : Keeps t₀ s.tracked) : Keeps t₀ (loseClock i s).tracked := by
  unfold loseClock; split <;> simp [h]

@[simp] theorem execIslandClockLost_keeps {t₀ : Tracked} (i : Island) {s : State} (h : Keeps t₀ s.tracked) :
    Out.Keeps t₀ (execIslandClockLost i s) := by
  simp [h, execIslandClockLost]

@[simp] theorem execCloakroomTrim_tracked (trim : Int) (s : State) : trackedAfter (execCloakroomTrim trim s) = some s.tracked := by
  simp [execCloakroomTrim]

/-! ### Registers -/

@[simp] theorem glbWrite_tracked (off : Nat) (v : Word) (s : State) : (glbWrite off v s).tracked = s.tracked := by
  unfold glbWrite; split <;> simp

@[simp] theorem glbClear_tracked (off : Nat) (s : State) : (glbClear off s).tracked = s.tracked := by unfold glbClear; split <;> simp

@[simp] theorem hpClear_tracked (p off : Nat) (s : State) : (hpClear p off s).tracked = s.tracked := by unfold hpClear; split <;> simp

@[simp] theorem capGo_tracked (p : Nat) (s : State) : (capGo p s).tracked = s.tracked := by simp [capGo]

@[simp] theorem capCtrlWrite_tracked (p : Nat) (v : Word) (s : State) : (capCtrlWrite p v s).tracked = s.tracked := by simp [capCtrlWrite]

@[simp] theorem hpWrite_keeps {t₀ : Tracked} (role p off : Nat) (v : Word) {s : State} (h : Keeps t₀ s.tracked) :
    Keeps t₀ (hpWrite role p off v s).tracked := by
  unfold hpWrite
  split <;> simp [h]

@[simp] theorem takeLatch_tracked (p a : Nat) (pl : Place) (s : State) : (takeLatch p a pl s).tracked = s.tracked := by simp [takeLatch]

/-! ### Requests -/

@[simp] theorem discardWord_keeps {t₀ : Tracked} (w : Posted) {s : State} (h : Keeps t₀ s.tracked) :
    Keeps t₀ (discardWord w s).tracked := by
  unfold discardWord; split <;> simp [h]

@[simp] theorem postWord_tracked (p : Nat) (s : State) (e : Nat × Word) : (postWord p s e).tracked = s.tracked := by simp [postWord]

@[simp] theorem answerFenceReq_tracked (p seq : Nat) (s : State) : (answerFenceReq p seq s).tracked = s.tracked := by
  simp [answerFenceReq]

@[simp] theorem answerFenceCommit_tracked (p seq a : Nat) (s : State) : (answerFenceCommit p seq a s).tracked = s.tracked := by
  simp only [answerFenceCommit]
  repeat' split
  all_goals simp

@[simp] theorem execFenceAnswer_tracked (host : Fin 4) (s : State) : trackedAfter (execFenceAnswer host s) = some s.tracked := by
  refine onIsl_tracked ?_ _
  split <;> simp

@[simp] theorem duplicate_tracked (p seq : Nat) (s : State) : (duplicate p seq s).tracked = s.tracked := by
  refine State.modHp_tracked ?_ ?_
  all_goals
    dsimp only
    split
    · rfl
    · split <;> rfl

@[simp] theorem execCollect_tracked (host : Fin 4) (clocked : Nat) (s : State) :
    trackedAfter (execCollect host clocked s) = some s.tracked := by
  simp [execCollect]

@[simp] theorem execBadTxn_tracked (host : Fin 4) (code : Byte) (s : State) : trackedAfter (execBadTxn host code s) = some s.tracked := by
  simp [execBadTxn]

@[simp] theorem earnCredit_keeps {t₀ : Tracked} {s : State} (h : Keeps t₀ s.tracked) :
    Keeps t₀ (earnCredit s).tracked := by
  unfold earnCredit
  split
  · exact each_keeps_tracked (fun s p => State.modHp_keeps (.refl _) (fun hh => hh.shrink p (.refl _) _)
    (fun _ => Nat.min_le_left _ _)) _ h
  · exact h

/-! ## The timebase, the start and the stop of the main domain, and a host's accesses -/

/-! ### The tick, the counted second and the edges of PPS (R40, R48 to R52) -/

@[simp] theorem execTick_keeps {t₀ : Tracked} (plsIn : BitVec 16) {s : State} (h : Keeps t₀ s.tracked) :
    Out.Keeps t₀ (execTick plsIn s) := by
  refine Out.next_ite_keeps _ h ?_
  extract_lets s₁ s₂
  have h₁ : Keeps t₀ s₁.tracked := earnCredit_keeps (by simp [h])
  have h₂ : Keeps t₀ s₂.tracked := by
    unfold s₂
    split <;> simp [h₁]
  simp [h₂]

@[simp] theorem taiBoundary_tracked (b : Nat) (s : State) : (taiBoundary b s).tracked = s.tracked := by
  simp only [taiBoundary]
  split
  · rw [raiseAt_tracked]
    rfl
  · rfl

@[simp] theorem countBoundary_tracked (b : Nat) (s : State) : (countBoundary b s).tracked = s.tracked := by
  simp -implicitDefEqProofs [countBoundary]

@[simp] theorem execSecondBoundary_tracked (s : State) : trackedAfter (execSecondBoundary s) = some s.tracked := by
  simp [execSecondBoundary]

@[simp] theorem moveBoundary_tracked (old : Nat) (at16 : Int) (s : State) : (moveBoundary old at16 s).tracked = s.tracked := by
  unfold moveBoundary
  extract_lets new s₁
  have h₁ : s₁.tracked = s.tracked := by
    unfold s₁
    split <;> simp
  split
  · rfl
  · simp [h₁]

@[simp] theorem acceptEdge_tracked (at16 : Nat) (e : Int) (s : State) : (acceptEdge at16 e s).tracked = s.tracked := (rfl)
@[simp] theorem takeEdge_tracked (at16 : Nat) (s : State) : (takeEdge at16 s).tracked = s.tracked := by simp [takeEdge]

@[simp] theorem outlierEdge_tracked (at16 : Nat) (e : Int) (s : State) : (outlierEdge at16 e s).tracked = s.tracked := by
  simp [outlierEdge]

@[simp] theorem checkEdge_tracked (at16 : Nat) (s : State) : (checkEdge at16 s).tracked = s.tracked := by simp [checkEdge]

@[simp] theorem ppsEdge_tracked (at16 : Nat) (s : State) : (ppsEdge at16 s).tracked = s.tracked := by
  unfold ppsEdge
  repeat' split
  all_goals simp

@[simp] theorem execPpsEdge_tracked (at16 : Nat) (s : State) : trackedAfter (execPpsEdge at16 s) = some s.tracked := by
  simp [execPpsEdge]

@[simp] theorem execPpsTimeout_tracked (s : State) : trackedAfter (execPpsTimeout s) = some s.tracked := by simp [execPpsTimeout]

/-! ### The stop, the start and the reset of the main domain (R439, R456, R459) -/

/-- A domain that is reset keeps the queue, the flash, what OTP holds and the evidence counter; no port holds a block then,
  and each has full
credit. -/
theorem Keeps.of_reset {t₀ : Tracked} {s t : State} (h : Keeps t₀ s.tracked) (hq : t.pending = s.pending)
    (hg : MemsOk s.gal s.plan.flash → MemsOk t.gal t.plan.flash) (hp : t.host.hp = []) (hj : t.role.otpJob = none)
    (ho : t.role.otp = s.role.otp) (hm : t.role.makers = s.role.makers) (hn : t.tmp.otpCount = s.tmp.otpCount) : Keeps t₀ t.tracked := by
  have hhp : ∀ p, t.getHp p = {} := fun p => by rw [State.getHp, hp]; rfl
  refine h.trans ⟨hq, hg, fun _ => ?_, fun _ p => ?_, fun _ => ⟨fun i d hi => ?_, fun i => ?_⟩, ?_, fun hle => ?_⟩
  · simp [HeldOk, hhp]
  · simp [hhp]
  · rw [hj] at hi
    cases hi
  · rw [ho]
    exact .refl _
  · rw [hm]
  · rw [hn]
    exact ⟨Nat.le_refl _, hle⟩

theorem stopMain_keeps {t₀ : Tracked} {s : State} (h : Keeps t₀ s.tracked) : Keeps t₀ (stopMain s).tracked := by
  unfold stopMain
  extract_lets s₁ r
  have h₁ : Keeps t₀ s₁.tracked := by
    simp only [s₁, noteLoss, State.modPwrIsl_tracked]
    exact drainLog_keeps (by simp [h])
  clear_value s₁
  exact h₁.of_reset rfl (fun hg => ⟨by simp [r, State.reset], hg.2⟩) rfl rfl rfl rfl rfl

@[simp] theorem noCopyYet_tracked (s : State) : (noCopyYet s).tracked = s.tracked := by simp [noCopyYet]
@[simp] theorem tearRecord_tracked (torn : Nat) (s : State) : (tearRecord torn s).tracked = s.tracked := by simp [tearRecord]

@[simp] theorem execMainStop_keeps {t₀ : Tracked} {s : State} (h : Keeps t₀ s.tracked) : Out.Keeps t₀ (execMainStop s) :=
  Out.next_ite_keeps _ h (stopMain_keeps (by simp [h]))

@[simp] theorem execVholdShutdown_keeps {t₀ : Tracked} {s : State} (h : Keeps t₀ s.tracked) (torn : Fin 3) :
    Out.Keeps t₀ (execVholdShutdown s torn) :=
  Out.next_ite_keeps _ h (stopMain_keeps (by simp [h]))

@[simp] theorem nextEpoch_tracked (s : State) : (nextEpoch s).tracked = s.tracked := by
  simp [nextEpoch]

theorem powerOn_keeps {t₀ : Tracked} {s : State} (h : Keeps t₀ s.tracked) : Keeps t₀ (powerOn s).tracked := by
  unfold powerOn
  extract_lets lost cloak w s₁ s₂ s₃ s₄ s₅ s₆ s₇ s₈ s₉
  have h₅ : Keeps t₀ s₅.tracked := by simp [s₅, s₄, s₃, s₂, s₁, w, h]
  have h₈ : Keeps t₀ s₈.tracked := by simp [s₈, s₇, s₆, h₅]
  have h₉ : Keeps t₀ s₉.tracked := by
    unfold s₉
    repeat' split
    all_goals simp [h₈]
  simp [h₉]

@[simp] theorem execMainRelease_keeps {t₀ : Tracked} {s : State} (h : Keeps t₀ s.tracked) : Out.Keeps t₀ (execMainRelease s) := by
  refine Out.keeps_next.2 ?_
  split
  · exact h
  · split
    · simp [h]
    · split
      · exact powerOn_keeps h
      · exact h

/-- R459: G3 keeps its words through a FULL_RESET, and every other gallery is cleared. -/
theorem resetMain_keeps {t₀ : Tracked} (a : Nat) {s : State} (h : Keeps t₀ s.tracked) : Keeps t₀ (resetMain a s).tracked := by
  unfold resetMain
  extract_lets r p l n
  have hn : Keeps t₀ n.tracked := by
    refine h.of_reset rfl (fun hg => ⟨fun e he => ?_, hg.2⟩) rfl rfl rfl rfl rfl
    obtain rfl := List.mem_singleton.1 he
    rcases tget_mem ({} : Gal) s.gal 3 with hd | hm
    · simp only [Gal.contents, State.getGal, hd]
      rfl
    · exact hg.1 (3, tget {} s.gal 3) hm
  exact each_keeps_tracked (fun s g => galClear_keeps g (.refl _)) _ hn

theorem writeBoth_keeps {t₀ : Tracked} (okA okB : Bool) (r : SaveRec) {fin : State → State} {s : State}
    (hf : ∀ s, Keeps t₀ s.tracked → Keeps t₀ (fin s).tracked) (h : Keeps t₀ s.tracked) :
    Keeps t₀ (writeBoth okA okB r fin s).tracked := by
  unfold writeBoth
  extract_lets s₁
  have h₁ : Keeps t₀ s₁.tracked := by simp [s₁, h]
  split
  · simp [h₁]
  · split
    · simp [h₁]
    · exact hf _ (by simp [h₁])

@[simp] theorem execFullReset_keeps {t₀ : Tracked} (okA okB : Bool) {s : State} (h : Keeps t₀ s.tracked) :
    Out.Keeps t₀ (execFullReset s okA okB) := by
  refine Out.keeps_next.2 ?_
  split
  · exact h
  · split
    · refine writeBoth_keeps _ _ _ (fun s hs => resetMain_keeps _ hs) (drainLog_keeps ?_)
      simp [h]
    · exact h

/-! ### Registers and the accesses of a host -/

@[simp] theorem regClear_keeps {t₀ : Tracked} (p : Nat) (pl : Place) {s : State} (h : Keeps t₀ s.tracked) :
    Keeps t₀ (regClear p pl s).tracked := by
  cases pl with
  | _ => simp [regClear, h]

@[simp] theorem regWrite_keeps {t₀ : Tracked} (role p : Nat) (pl : Place) (v : Word) {s : State} (h : Keeps t₀ s.tracked) :
    Keeps t₀ (regWrite role p pl v s).2.tracked := by
  cases pl with
  | pulseOut o off =>
    simp only [regWrite]
    split <;> simp [h]
  | role off => exact roleWrite_keeps _ _ _ _ h
  | _ => simp [regWrite, h]

@[simp] theorem readReg_keeps {t₀ : Tracked} (p a : Nat) (pl : Place) {s : State} (h : Keeps t₀ s.tracked) :
    Keeps t₀ (readReg p a pl s).2.tracked := by
  unfold readReg
  extract_lets live
  split
  · exact h
  · split <;> simp [h]

@[simp] theorem readWord_keeps {t₀ : Tracked} (p a : Nat) {s : State} (h : Keeps t₀ s.tracked) : Keeps t₀ (readWord p a s).2.tracked := by
  unfold readWord
  split
  · extract_lets w f
    split <;> simp [f, h]
  · simp [h]

@[simp] theorem writeWord_keeps {t₀ : Tracked} (role p a : Nat) (v : Word) {s : State} (h : Keeps t₀ s.tracked) :
    Keeps t₀ (writeWord role p a v s).tracked := by
  unfold writeWord
  split <;> simp [h]

@[simp] theorem hostWrite_keeps {t₀ : Tracked} (p a : Nat) (v : Word) {s : State} (h : Keeps t₀ s.tracked) :
    Keeps t₀ (hostWrite p a v s).tracked := by
  unfold hostWrite
  split <;> simp [h]

@[simp] theorem hostRead_keeps {t₀ : Tracked} (p a : Nat) {s : State} (h : Keeps t₀ s.tracked) : Keeps t₀ (hostRead p a s).tracked := by
  unfold hostRead
  split <;> simp [h]

@[simp] theorem runPosted_keeps {t₀ : Tracked} (w : Posted) {s : State} (h : Keeps t₀ s.tracked) : Keeps t₀ (runPosted w s).tracked := by
  unfold runPosted
  extract_lets s₁
  have h₁ : Keeps t₀ s₁.tracked := by simp [s₁, h]
  rw [wordDone_tracked]
  split <;> simp [h₁]

@[simp] theorem drainTo_keeps {t₀ : Tracked} (p t : Nat) {s : State} (h : Keeps t₀ s.tracked) : Keeps t₀ (drainTo p t s).tracked := by
  unfold drainTo
  split
  · exact h
  · exact foldl_keeps_tracked (fun s w => runPosted_keeps w (.refl _)) _ h

@[simp] theorem execPostedWriteExecute_keeps {t₀ : Tracked} (i : Island) {s : State} (h : Keeps t₀ s.tracked) :
    Out.Keeps t₀ (execPostedWriteExecute i s) := by
  refine onIsl_keeps h ?_ _
  split
  · exact h
  · split <;> simp [h]

@[simp] theorem portWrite_keeps {t₀ : Tracked} (p a : Nat) (v : Word) {s : State} (h : Keeps t₀ s.tracked) :
    Keeps t₀ (portWrite p a v s).tracked := by
  have hd := drainTo_keeps p (place a).target h
  unfold portWrite
  extract_lets s₁
  split
  · simpa using hostWrite_keeps p a v hd
  · exact hd

@[simp] theorem portRead_keeps {t₀ : Tracked} (p a : Nat) {s : State} (h : Keeps t₀ s.tracked) : Keeps t₀ (portRead p a s).tracked :=
  hostRead_keeps p a (drainTo_keeps _ _ h)

theorem rowWrite_keeps {t₀ : Tracked} (p a : Nat) (v : Word) {s : State} (h : Keeps t₀ s.tracked) : Out.Keeps t₀ (rowWrite p a v s) :=
  onIsl_keeps h (portWrite_keeps p a v h) _

theorem galHostWrite_keeps {t₀ : Tracked} (op : GalOp) (mine : PortA) (host x : Nat) (other : PortA) {s : State}
  (h : Keeps t₀ s.tracked) :
    Keeps t₀ (galHostWrite op mine host x other s).tracked := by
  have hd := drainTo_keeps host islHost h
  unfold galHostWrite
  extract_lets s₁
  split
  · rw [wordDone_tracked]
    split <;> simp [s₁, hd]
  · exact hd

@[simp] theorem execGalleryRead_keeps {t₀ : Tracked} (host : Fin 4) (x : BitVec 22) (ecc : Ecc) {s : State} (h : Keeps t₀ s.tracked) :
    Out.Keeps t₀ (execGalleryRead host x ecc s) := by
  refine onIsl_keeps h ?_ _
  have hd := drainTo_keeps host.val islHost h
  extract_lets s₁
  split
  · exact galRead_keeps _ _ _ hd
  · exact hd

@[simp] theorem execSnapshotWord0Read_keeps {t₀ : Tracked} (host : Fin 4) (addr : BitVec 24) {s : State} (h : Keeps t₀ s.tracked) :
    Out.Keeps t₀ (execSnapshotWord0Read host addr s) := by
  refine onIsl_keeps h ?_ _
  split <;> simp [h]

@[simp] theorem execPulseOutConfig_keeps {t₀ : Tracked} (host : Fin 4) (addr : BitVec 24) (v : Word) {s : State}
  (h : Keeps t₀ s.tracked) :
    Out.Keeps t₀ (execPulseOutConfig host addr v s) := by
  refine onIsl_keeps h ?_ _
  split <;> simp [h]

/-! ### Requests (R381 to R391) -/

theorem readOne_keeps {t₀ : Tracked} (p : Nat) {r : List Word × Option Answer × State} (h : Keeps t₀ r.2.2.tracked) (a : Nat) :
    Keeps t₀ (readOne p r a).2.2.tracked := by
  obtain ⟨ws, e, s⟩ := r
  have hr := readWord_keeps (s := s) p a h
  simp only [readOne]
  split <;> split <;> assumption

theorem answerRead_keeps {t₀ : Tracked} (p seq a n : Nat) {s : State} (h : Keeps t₀ s.tracked) :
    Keeps t₀ (answerRead p seq a n s).tracked := by
  unfold answerRead
  extract_lets s₁
  have h₁ : Keeps t₀ s₁.tracked := by
    unfold s₁
    split <;> simp [h]
  split
  · simp [h₁]
  · split
    · simp [h₁]
    · have hr := List.foldlRecOn (reqAddrs a n) (readOne p) (motive := fun r => Keeps t₀ r.2.2.tracked)
        (b := ([], none, s₁.modHp p (fun h => { h with inHand := true }))) (by simp [h₁]) (fun r hr a _ => readOne_keeps p hr a)
      simpa using hr

theorem answerWrite_keeps {t₀ : Tracked} (p seq a n : Nat) (data : List Word) {s : State} (h : Keeps t₀ s.tracked) :
    Keeps t₀ (answerWrite p seq a n data s).tracked := by
  unfold answerWrite
  extract_lets s₁
  have h₁ : Keeps t₀ s₁.tracked := by
    unfold s₁
    split <;> simp [h]
  split
  · simp [h₁]
  · split <;> simp [h₁]

theorem execute_keeps {t₀ : Tracked} (p seq op n a : Nat) (data : List Word) {s : State} (h : Keeps t₀ s.tracked) :
    Keeps t₀ (execute p seq op n a data s).tracked := by
  unfold execute
  extract_lets s₁
  have h₁ : Keeps t₀ s₁.tracked := by simp [s₁, h]
  split
  · exact answerRead_keeps _ _ _ _ h₁
  · split
    · exact answerWrite_keeps _ _ _ _ _ h₁
    · simp [h₁]

theorem admitReq_keeps {t₀ : Tracked} (p seq op n a : Nat) (data : List Word) {s : State} (h : Keeps t₀ s.tracked) :
    Keeps t₀ (admitReq p seq op n a data s).tracked := by
  unfold admitReq
  extract_lets x back
  split
  · simp [h]
  · split
    · split <;> simp [h, setFlag]
    · split
      · simp [h, setFlag]
      · split
        · simp [h, setFlag]
        · refine execute_keeps _ _ _ _ _ _ (State.modHp_keeps h (fun hh => hh.shrink p (.refl _) _) (fun hc => ?_))
          exact (Nat.sub_le _ _).trans hc

theorem takeFrame_keeps {t₀ : Tracked} (p : Nat) (fr : List Byte) {s : State} (h : Keeps t₀ s.tracked) :
    Keeps t₀ (takeFrame p fr s).tracked := by
  unfold takeFrame
  extract_lets n at_
  split
  · simp [h, setFlag]
  · exact admitReq_keeps _ _ _ _ _ _ h

theorem takeBytes_keeps {t₀ : Tracked} (p fuel : Nat) (bs : List Byte) {s : State} (h : Keeps t₀ s.tracked) :
    Keeps t₀ (takeBytes p fuel bs s).tracked := by
  induction fuel generalizing bs s with
  | zero => exact h
  | succ fuel ih =>
    cases bs with
    | nil => exact h
    | cons b bs =>
      unfold takeBytes
      split
      · exact ih bs h
      · split
        · simp [h]
        · exact ih _ (takeFrame_keeps p _ h)

end Sys2Proof.Machine
end

section
/-! PROOF. What every step keeps, from the lemmas of the operations before (O55, O57, O58, O59). -/

namespace Sys2Proof.Machine

/-! ## All commands -/

/-- What every command keeps: a host's accesses, the stop, the start and the reset of the main domain by the lemmas above,
  the others by the
lemma of the command. -/
theorem exec_keeps {t₀ : Tracked} {s : State} (h : Keeps t₀ s.tracked) (c : Instr) : Out.Keeps t₀ (exec c s) := by
  cases c with
  | discEnWrite | taiArm | ringCmdGo | headAccRead | headAccWrite | wpCfgWrite | fgReacq | ctxLatchGo | ctxLatchRelease
  | energyPresetGo | legacyPresetGo | spUtcWrite | evCfgWrite | planStage | planSwap | planCancel | planHistSelect | restoreGo
  | lcCommit | lcRun | lcInject | lcFifoFlush | calHead | calLocal | calExport | calRestore | calCancel | galPwrWrite | registerWrite
  | blockRequest | blockRelease | captureGo | captureStop | budgetWrite | evict | keySet | otpKeyProgram | otpKeyRevoke | sealClear
  | tamperTest | tamperConfigWrite | saveAck | logAck => exact rowWrite_keeps _ _ _ h
  | rcRead | lcFifoRead => exact onIsl_keeps h (portRead_keeps _ _ h) _
  | galleryWrite | aliasSet | aliasClear => exact onIsl_keeps h (galHostWrite_keeps _ _ _ _ _ h) _
  | submit => exact onIsl_keeps h (takeBytes_keeps _ _ _ h) _
  | read | write | fence | fenceCommit | nop | resync => exact onIsl_keeps h (admitReq_keeps _ _ _ _ _ _ h) _
  | tick => exact execTick_keeps _ h
  | islandClockLost => exact execIslandClockLost_keeps _ h
  | stairProcess => exact execStairProcess_keeps _ _ _ h
  | commit => exact execCommit_keeps _ h
  | commitDeadline => exact execCommitDeadline_keeps _ h
  | snapshotWord0Read => exact execSnapshotWord0Read_keeps _ _ h
  | pulseOutConfig => exact execPulseOutConfig_keeps _ _ _ h
  | harmWindowDone => exact execHarmWindowDone_keeps _ _ h
  | shRawSample => exact execShRawSample_keeps _ h
  | shWindowDone => exact execShWindowDone_keeps _ h
  | eventHalfCycle => exact execEventHalfCycle_keeps _ _ h
  | eventWindowDone => exact execEventWindowDone_keeps _ h
  | planLoad => exact execPlanLoad_keeps h
  | planStageDone => exact execPlanStageDone_keeps _ h
  | swapArm => exact execSwapArm_keeps h
  | swapSwitch => exact execSwapSwitch_keeps _ h
  | swapComplete => exact execSwapComplete_keeps h
  | harmFault => exact execHarmFault_keeps _ h
  | shFault => exact execShFault_keeps _ h
  | restoreSelftestDone => exact execRestoreSelftestDone_keeps _ h
  | calImageDone => exact execCalImageDone_keeps h
  | galleryRead => exact execGalleryRead_keeps _ _ _ h
  | galleryClearDone => exact execGalleryClearDone_keeps _ h
  | galleryIdleRetain => exact execGalleryIdleRetain_keeps _ h
  | galleryScrub => exact execGalleryScrub_keeps _ _ _ h
  | memtestBorrow => exact execMemtestBorrow_keeps h
  | memtestDone => exact execMemtestDone_keeps _ h
  | memtestYield => exact execMemtestYield_keeps h
  | postedWriteExecute => exact execPostedWriteExecute_keeps _ h
  | captureEntry => exact execCaptureEntry_keeps _ h
  | keySetDone => exact execKeySetDone_keeps _ h
  | otpKeyDone => exact execOtpKeyDone_keeps _ h
  | tamperSample => exact execTamperSample_keeps _ h
  | fullReset => exact execFullReset_keeps _ _ h
  | powerGood => exact execPowerGood_keeps _ _ h
  | mainRelease => exact execMainRelease_keeps h
  | powerWarning => exact execPowerWarning_keeps _ _ h
  | mainStop => exact execMainStop_keeps h
  | vholdShutdown => exact execVholdShutdown_keeps h _
  | logEntryWrite => exact execLogEntryWrite_keeps _ h
  | logSuppressed => exact execLogSuppressed_keeps _ h
  | _ => exact Out.keeps_of_tracked h (by simp [exec])

/-! ## The obligations -/

/-- What every step keeps: the command at the front of the queue leaves what stood behind it, and keeps the rest. -/
theorem step_keeps {s t : State} (ht : step s = .next t) : ∃ q, Keeps { s with pending := q }.tracked t.tracked := by
  unfold step at ht
  split at ht
  · cases ht
    exact ⟨s.pending, .refl _⟩
  · next c rest _ => exact ⟨rest, exec_keeps (.refl _) c t ht⟩

/-- The invariant of Safety.lean, of the parts that are tracked. -/
theorem blocksExclusive_iff (s : State) : Safety.BlocksExclusive s ↔ HeldOk (fun p => ((s.getHp p).held, (s.getHp p).credit)) := Iff.rfl

/-- Settles O59: no operation that a command is made of touches the queue (the first component of `Keeps`). -/
theorem commandsLeaveTheQueue : Obligations.CommandsLeaveTheQueue := by
  have hexec : ∀ (c : Instr) (s t : State), exec c s = .next t → t.pending = s.pending := fun c s t ht => by
    obtain ⟨hq, -⟩ := exec_keeps (.refl s.tracked) c t ht
    exact hq
  exact ⟨hexec, fun c rest s t ht => hexec c { s with pending := rest } t ht⟩

/-- Settles O55: a command changes a memory only by storing, clearing, filling or copying bytes,
  each of which keeps the canonical form. -/
theorem stepKeepsMemoriesCanonical : Obligations.StepKeepsMemoriesCanonical := by
  intro s t h ht
  obtain ⟨q, -, hm, -⟩ := step_keeps ht
  exact hm h

/-- Settles O57: a port takes only free blocks and credit up to 256 words. -/
theorem stepKeepsBlocksExclusiveAndCreditBounded : Obligations.StepKeepsBlocksExclusiveAndCreditBounded := by
  intro s t ht
  obtain ⟨q, -, -, hb, hc, -⟩ := step_keeps ht
  exact ⟨hb, hc⟩

/-- Settles O58: an operation on a plan key slot programs an empty one or revokes a key, maker keys are added behind those there are,
  and the
evidence counter goes on up to 2,048. -/
theorem otpOnlyGrows : Obligations.OtpOnlyGrows := by
  intro s t hj hn ht
  obtain ⟨q, -, -, -, -, ho, hm, hc⟩ := step_keeps ht
  obtain ⟨hj', hs⟩ := ho hj
  obtain ⟨hle, hle'⟩ := hc hn
  obtain ⟨l, hl⟩ := hm
  refine ⟨hj', hle, hle', ⟨l, hl.symm⟩, fun i => ⟨fun xy hi => ?_, fun xy hi => ?_⟩⟩
  · have h := hs i
    rw [show tget .empty ({ s with pending := q } : State).role.otp i = .revoked xy from hi] at h
    exact h
  · have h := hs i
    rw [show tget .empty ({ s with pending := q } : State).role.otp i = .key xy from hi] at h
    exact h

end Sys2Proof.Machine
end

section
/-! PROOF. The state after reset (O2, O54), and the step (O1). -/

namespace Sys2Proof.Machine

/-! ## One step -/

theorem step_cons {c : Instr} {rest : List Instr} (s : State) : step { s with pending := c :: rest } = exec c { s with pending := rest } := rfl

theorem step_idle {s : State} (h : s.pending = []) : step s = .next s := by
  unfold step
  rw [h]

/-- Settles O1: the two branches of `step`. -/
theorem stepRunsFrontCommand : Obligations.StepRunsFrontCommand := ⟨fun _ _ s => step_cons s, fun _ h => step_idle h⟩

/-! ## The parts of the state after reset

Each is a closed fact, which the kernel evaluates. A table lists nothing but the monitors, so every other entry has the values of one that
has never been touched. -/

theorem reset_idx : State.reset.tb.idx = 0 := by decide +kernel
theorem reset_ratio : State.reset.tb.ratio = 80 * 2 ^ 40 := by decide +kernel
theorem reset_nom : State.reset.tb.nom = 80 * 2 ^ 40 := by decide +kernel
theorem reset_disc : State.reset.tb.disc = .free := by decide +kernel
theorem reset_taiValid : State.reset.tb.taiValid = false := by decide +kernel
theorem reset_arm : State.reset.tb.arm = false := by decide +kernel
theorem reset_second : State.reset.tb.second = 0 := by decide +kernel
theorem reset_ring : State.reset.ring = [] := by decide +kernel
theorem reset_head : State.reset.head = [] := by decide +kernel
theorem reset_grp : State.reset.rs.grp = [] := by decide +kernel
theorem reset_wp : State.reset.stair.wp = [] := by decide +kernel
theorem reset_planSt : State.reset.plan.st = .none := by decide +kernel
theorem reset_planCur : State.reset.plan.cur = none := by decide +kernel
theorem reset_flash : State.reset.plan.flash = [] := by decide +kernel
theorem reset_rolePort : State.reset.role.port = [] := by decide +kernel
theorem reset_sealed : State.reset.role.sealed = false := by decide +kernel
theorem reset_otpJob : State.reset.role.otpJob = none := by decide +kernel
theorem reset_hp : State.reset.host.hp = [] := by decide +kernel
theorem reset_gal : State.reset.gal = [] := by decide +kernel
theorem reset_otp : State.reset.tmp.otpCount ≤ 2048 ∧ State.reset.role.makers.length ≤ 3 := by decide +kernel
theorem reset_pfw : State.reset.pwr.pfwEn = true ∧ State.reset.pwr.ewThr = 85 := by decide +kernel
theorem reset_logNext : State.reset.log.next = 0 := by decide +kernel
theorem reset_pending : State.reset.pending = [] := by decide +kernel

theorem reset_getHp (p : Nat) : State.reset.getHp p = {} := by rw [State.getHp, reset_hp]; rfl

/-- A table built from a list of keys gives each of them its value, and every other key the default. -/
theorem tget_map {α : Type} (f : Nat → α) (d : α) (l : List Nat) (k : Nat) :
    tget d (l.map (fun m => (m, f m))) k = if k ∈ l then f k else d := by
  induction l with
  | nil => rfl
  | cons m l ih =>
    simp only [List.map_cons, tget, List.mem_cons]
    by_cases hm : m = k
    · simp [hm]
    · simp [hm, Ne.symm hm, ih]

/-- R425: every monitor has the settings of a device never configured. -/
theorem reset_getMon (m : Nat) : State.reset.getMon m = monDefault m := by
  refine (tget_map monDefault (monDefault m) (List.range 23) m).trans ?_
  split <;> rfl

theorem monDefault_state (m : Nat) : (monDefault m).state = .off := by
  unfold monDefault
  repeat' split
  all_goals rfl

theorem monDefault_switch {m : Nat} (h : m < 8) :
    (monDefault m).enable = false ∧ (monDefault m).count = 20 ∧ (monDefault m).window = 20 := by
  simp [monDefault, h]

/-- Settles O2: the tables are empty, and every part has the values that its structure gives. -/
theorem resetStateAsSpecified : Obligations.ResetStateAsSpecified := by
  refine ⟨reset_idx, reset_ratio, reset_nom, reset_disc, reset_taiValid, reset_arm, reset_second, fun r => ?_, fun h => ?_, fun g => ?_,
    fun w => ?_, reset_planSt, reset_planCur, fun p => ?_, fun p => ?_, fun p => ?_, fun p => ?_, fun g => ?_, fun m hm => ?_, fun m => ?_,
    reset_sealed, reset_pfw.1, reset_pfw.2, reset_logNext, reset_pending⟩
  · rw [State.getRing, reset_ring]; rfl
  · rw [State.getHead, reset_head]; rfl
  · rw [State.getGrp, reset_grp]; rfl
  · rw [State.getWp, reset_wp]; rfl
  · rw [State.getRolePort, reset_rolePort]; rfl
  · rw [reset_getHp]
  · rw [reset_getHp]
  · rw [reset_getHp]
  · rw [State.getGal, reset_gal]
    exact ⟨rfl, rfl⟩
  · rw [reset_getMon]
    exact monDefault_switch hm
  · rw [reset_getMon]
    exact monDefault_state m

/-- Settles O54: nothing is listed, held or programmed, and the ratio is the nominal one. -/
theorem resetMeetsTheInvariants : Obligations.ResetMeetsTheInvariants := by
  refine ⟨⟨fun e he => ?_, ?_⟩, (ratioWithinLimits_iff _).2 (within_default 0), ⟨fun p => ?_, fun p q _ _ _ b hb => ?_⟩, fun p => ?_,
    fun i d hi => ?_, reset_otp⟩
  · rw [reset_gal] at he
    cases he
  · rw [reset_flash]
    rfl
  · simp [reset_getHp]
  · rw [reset_getHp] at hb
    cases hb
  · simp [reset_getHp]
  · rw [reset_otpJob] at hi
    cases hi

end Sys2Proof.Machine
end

section
-- One proof after another: elaborated side by side they take more memory than the check allows.
set_option Elab.async false
/-! PROOF. A stopped main domain (O60): none of its islands is clocked, so a command of an island changes nothing, and neither does one that
asks for the running timebase, steward, log or warning. -/

namespace Sys2Proof.Machine

section Stopped

variable {s : State} (h : s.pwr.mainOn = false)
include h

theorem up_of_stopped (i : Nat) : s.up i = false := by simp [State.up, h]
theorem linkUp_of_stopped (r : Nat) : s.linkUp r = false := by simp [State.linkUp, h]
theorem linkGone_of_stopped (r : Nat) : s.linkGone r = false := by simp [State.linkGone, h]
theorem stewUp_of_stopped : s.stewUp = false := by simp [State.stewUp, up_of_stopped h]
theorem logUp_of_stopped : s.logUp = false := by simp [State.logUp, stewUp_of_stopped h]
theorem freezeDue_of_stopped : s.freezeDue = false := by simp [State.freezeDue, h]

theorem tbOn_of_stopped (hr : s.pwr.resetting = false) : s.tbOn = false := by simp [State.tbOn, h, hr]

theorem onIsl_of_stopped (i : Nat) (f : State → State) : onIsl i s f = .next s := onIsl_down (up_of_stopped h i)
theorem onLink_of_stopped (r : Nat) (f : State → State) : onLink r s f = .next s := onLink_down (linkUp_of_stopped h r)
theorem onStew_of_stopped (f : State → State) : onStew s f = .next s := onStew_down (stewUp_of_stopped h)

/-- R12, R39: an island of a stopped main domain has no clock to lose. -/
theorem loseClock_of_stopped (i : Island) : loseClock i s = s := by
  cases i <;> simp [loseClock, up_of_stopped h, linkUp_of_stopped h, h]

end Stopped

/-- Settles O60: every command but those excluded runs in an island of the main domain, or asks whether the domain runs. -/
theorem stoppedMainDomainChangesNothing : Obligations.StoppedMainDomainChangesNothing := by
  intro c s h hr hgood hwarn hrel hsample hswitch htrim hdropped
  cases c with
  | powerGood b o => exact absurd rfl (hgood b o)
  | powerWarning v w => exact absurd rfl (hwarn v w)
  | mainRelease => exact absurd rfl hrel
  | tamperSample o => exact absurd rfl (hsample o)
  | cloakSupplySwitch v => exact absurd rfl (hswitch v)
  | cloakroomTrim v => exact absurd rfl (htrim v)
  | logDropped i => exact absurd rfl (hdropped i)
  | discEnWrite | taiArm | ringCmdGo | headAccRead | headAccWrite | wpCfgWrite | fgReacq | ctxLatchGo | ctxLatchRelease | energyPresetGo |
  legacyPresetGo | spUtcWrite | evCfgWrite | planStage | planSwap | planCancel | planHistSelect | restoreGo | lcCommit | lcRun | lcInject
  | lcFifoFlush | calHead | calLocal | calExport | calRestore | calCancel | galPwrWrite | registerWrite | blockRequest | blockRelease |
  captureGo | captureStop | budgetWrite | evict | keySet | otpKeyProgram | otpKeyRevoke | sealClear | tamperTest | tamperConfigWrite |
  saveAck | logAck => exact onIsl_of_stopped h _ _
  | stairProcess | handoverSwitch | stairSelftest | cycleSampleForm | cycleEnd | groupStart | tallyFlatSample | tallyCycle |
  tallyFlatCheckpoint | tallyWindowDone | commit | commitDeadline | snapshotWord0Read | rcRead | pulseUnit | pulseEnd | pulseOutConfig |
  pulseInEdge | legacyPresetApply | harmCycleSample | harmWindowDone | shRawSample | shWindowDone | eventHalfCycle | eventWindowDone |
  tallyFault | harmFault | shFault | stewardRestart | lcSlot | lcResult | lcRotate | lcReady | lcCalBurst | lcFifoRead | galleryRead |
  galleryWrite | aliasSet | aliasClear | galleryClearDone | galleryIdleRetain | memtestBorrow | memtestDone | memtestYield | submit |
  collect | badTxn | read | write | fence | fenceCommit | nop | resync | postedWriteExecute | fenceAnswer | captureEntry | roleReq |
  roleSubmit | roleClose | sessionIdleTimeout | keySetDone | otpKeyDone | periodicSave | stewardRestartComplete =>
    simp only [exec, execStairProcess, execHandoverSwitch, execStairSelftest, execCycleSampleForm, execCycleEnd, execGroupStart,
      execTallyFlatSample, execTallyCycle, execTallyFlatCheckpoint, execTallyWindowDone, execCommit, execCommitDeadline,
      execSnapshotWord0Read, execRcRead, execPulseUnit, execPulseEnd, execPulseOutConfig, execPulseInEdge, execLegacyPresetApply,
      execHarmCycleSample, execHarmWindowDone, execShRawSample, execShWindowDone, execEventHalfCycle, execEventWindowDone, execTallyFault,
      execHarmFault, execShFault, execStewardRestart, execLcSlot, execLcResult, execLcRotate, execLcReady, execLcCalBurst, execLcFifoRead,
      execGalleryRead, execGalleryWrite, execAliasSet, execAliasClear, execGalleryClearDone, execGalleryIdleRetain, execMemtestBorrow,
      execMemtestDone, execMemtestYield, execSubmit, execCollect, execBadTxn, execRead, execWrite, execFence, execFenceCommit, execNop,
      execResync, execPostedWriteExecute, execFenceAnswer, execCaptureEntry, execRoleReq, execRoleSubmit, execRoleClose,
      execSessionIdleTimeout, execKeySetDone, execOtpKeyDone, execPeriodicSave, execStewardRestartComplete, onIsl_of_stopped h]
  | portSignalDetect | portSignalLost | frameReceive | portRetire | ringEnum | ringEnumRetry | ringMeasureCycle | ringWaits | ringRun |
  mailboxCellSend | cellReply | cellNoReply | ringUnwrap | ringRestored | headAdmit | headRejoin | clockRecoveryLocked | commaMissing =>
    simp only [exec, execPortSignalDetect, execPortSignalLost, execFrameReceive, execPortRetire, execRingEnum, execRingEnumRetry,
      execRingMeasureCycle, execRingWaits, execRingRun, execMailboxCellSend, execCellReply, execCellNoReply, execRingUnwrap,
      execRingRestored, execHeadAdmit, execHeadRejoin, execClockRecoveryLocked, execCommaMissing, onLink_of_stopped h]
  | healthPoll | changeQueuePlace | planLoad | planStageDone | planPrepare | prepareTimeout | swapArm | swapSwitch | swapComplete |
  streamAbsentRetire | restoreSelftestDone | calImageDone | outingStart | outingTimeout | galleryScrub | shadowSweep =>
    simp only [exec, execHealthPoll, execChangeQueuePlace, execPlanLoad, execPlanStageDone, execPlanPrepare, execPrepareTimeout,
      execSwapArm, execSwapSwitch, execSwapComplete, execStreamAbsentRetire, execRestoreSelftestDone, execCalImageDone, execOutingStart,
      execOutingTimeout, execGalleryScrub, execShadowSweep, onStew_of_stopped h]
  | islandResetRelease => simp [exec, execIslandResetRelease, h]
  | islandClockLost i => exact congrArg Host.Outcome.next (loseClock_of_stopped h i)
  | tick => simp [exec, execTick, tbOn_of_stopped h hr]
  | ppsEdge => simp [exec, execPpsEdge, tbOn_of_stopped h hr]
  | ppsTimeout => simp [exec, execPpsTimeout, tbOn_of_stopped h hr]
  | secondBoundary => simp [exec, execSecondBoundary, tbOn_of_stopped h hr]
  | slotRelease => simp [exec, execSlotRelease, linkUp_of_stopped h, linkGone_of_stopped h]
  | holdTimeout => simp [exec, execHoldTimeout, linkUp_of_stopped h, linkGone_of_stopped h]
  | replayDone u => cases u <;> simp only [exec, execReplayDone, onIsl_of_stopped h]
  | shadowMismatch => simp [exec, execShadowMismatch, h]
  | fullReset =>
    simp only [exec, execFullReset]
    split <;> simp [h]
  | spectralShed => simp [exec, execSpectralShed, h]
  | totalsFreeze => simp [exec, execTotalsFreeze, freezeDue_of_stopped h]
  | saveDeadline => simp [exec, execSaveDeadline, h]
  | tailCopy => simp [exec, execTailCopy, h]
  | mainStop => simp [exec, execMainStop, h, hr]
  | vholdShutdown => simp [exec, execVholdShutdown, h, hr]
  | logEntryWrite => simp [exec, execLogEntryWrite, logUp_of_stopped h]
  | logSuppressed => simp [exec, execLogSuppressed, logUp_of_stopped h]

end Sys2Proof.Machine
end

section
-- One proof after another: elaborated side by side they take more memory than the check allows.
set_option Elab.async false
/-! SUPPORT. What the proofs below share: when two states are equal, and what a loop over a list leaves and changes. -/

namespace Sys2Proof.Machine
open Sys2Proof.Cert

/-! ## Frames -/

/-- Two states are equal when their parts are. -/
theorem State.eq_of_parts {s t : State}
    (h : t.glb = s.glb ∧ t.tb = s.tb ∧ t.port = s.port ∧ t.ring = s.ring ∧ t.head = s.head ∧ t.headAcc = s.headAcc ∧ t.stair = s.stair ∧
      t.rs = s.rs ∧ t.tally = s.tally ∧ t.pulse = s.pulse ∧ t.spec = s.spec ∧ t.ev = s.ev ∧ t.plan = s.plan ∧ t.red = s.red ∧
      t.lc = s.lc ∧ t.cal = s.cal ∧ t.gal = s.gal ∧ t.mt = s.mt ∧ t.host = s.host ∧ t.role = s.role ∧ t.tmp = s.tmp ∧ t.pwr = s.pwr ∧
      t.log = s.log ∧ t.fresh = s.fresh ∧ t.pending = s.pending) : t = s := by
  cases s; cases t; simpa using h

/-! ## Loops over a list -/

/-- What no step of a loop over `l` changes in a state that meets `inv`, which every step keeps, the loop does not change. -/
theorem each_view {α β : Type} {inv : State → Prop} (g : State → β) {f : State → α → State} {l : List α}
    (hinv : ∀ s a, inv s → inv (f s a)) (hg : ∀ s, ∀ a ∈ l, inv s → g (f s a) = g s) {s : State} (hs : inv s) :
    g (each l f s) = g s := by
  induction l generalizing s with
  | nil => rfl
  | cons a l ih =>
    rw [each_cons, ih (fun s b hb => hg s b (List.mem_cons_of_mem _ hb)) (hinv s a hs), hg s a List.mem_cons_self hs]

/-- What only the step for `k` changes changes as it does there: every step keeps `inv`, and no other step changes `g`. -/
theorem each_view_once {α β : Type} {inv : State → Prop} (g : State → β) (k : α) (F : β → β) {f : State → α → State} {l : List α}
    (hinv : ∀ s a, inv s → inv (f s a)) (hne : ∀ s a, a ≠ k → inv s → g (f s a) = g s) (hk : ∀ s, inv s → g (f s k) = F (g s))
    (hl : l.Nodup) (hmem : k ∈ l) {s : State} (hs : inv s) : g (each l f s) = F (g s) := by
  induction l generalizing s with
  | nil => cases hmem
  | cons a l ih =>
    obtain ⟨ha, hl⟩ := List.nodup_cons.1 hl
    rw [each_cons]
    by_cases hak : a = k
    · subst hak
      rw [each_view g hinv (fun s b hb => hne s b (fun hba => ha (hba ▸ hb))) (hinv s a hs), hk s hs]
    · rw [ih hl ((List.mem_cons.1 hmem).resolve_left (Ne.symm hak)) (hinv s a hs), hne s a hak hs]

end Sys2Proof.Machine
end

section
-- One proof after another: elaborated side by side they take more memory than the check allows.
set_option Elab.async false
/-! PROOF. The tick (O3). It has four parts, the counters of the timebase, the credit of the ports, the frames of the rings, and the
legacy inputs; each has a lemma for what it changes (`_frame`) and one for what it gives. -/

namespace Sys2Proof.Machine

open Sys2Proof.Cert

/-- R40: the number of REFCLK cycles after which the accumulator has reached the ratio. -/
theorem cdiv_least (n d m : Nat) (hd : 0 < d) : n ≤ cdiv n d * d ∧ (n ≤ m * d → cdiv n d ≤ m) := by
  unfold cdiv
  constructor
  · have := Nat.div_add_mod (n + d - 1) d
    have := Nat.mod_lt (n + d - 1) hd
    rw [Nat.mul_comm]; omega
  · intro h
    exact Nat.le_of_lt_succ (Nat.div_lt_of_lt_mul (by rw [Nat.mul_succ, Nat.mul_comm]; omega))

theorem restRatio_eq (t : Tb) : restRatio t = { t with
    ratio := (restRatio t).ratio, range := (restRatio t).range, chgAt := (restRatio t).chgAt } := by
  unfold restRatio
  split <;> rfl

theorem restRatio_disciplined {t : Tb} (h : t.disc = .acquire ∨ t.disc = .locked) : restRatio t = t := by
  rcases h with h | h <;> simp [restRatio, h]

/-- The timebase between two ticks, before FREE and HOLDOVER slew the ratio. -/
def Tb.advanced (t : Tb) : Tb :=
  { t with phase := t.phase + cdiv (t.ratio - t.phase) (2 ^ 40) * 2 ^ 40 - t.ratio, idx := (t.idx + 1) % 2 ^ 64 }

theorem ncoTick_eq (t : Tb) : ncoTick t = restRatio t.advanced := rfl

@[simp] theorem ncoTick_idx (t : Tb) : (ncoTick t).idx = (t.idx + 1) % 2 ^ 64 := by rw [ncoTick_eq, restRatio_eq]; rfl

theorem ncoTick_phase (t : Tb) : (ncoTick t).phase = t.phase + cdiv (t.ratio - t.phase) (2 ^ 40) * 2 ^ 40 - t.ratio := by
  rw [ncoTick_eq, restRatio_eq]; rfl

theorem earnCredit_frame (s : State) : earnCredit s = { s with host := (earnCredit s).host } := by
  unfold earnCredit
  split <;> rfl

theorem getHp_earnCredit {s : State} (h : s.up islHost = true) {p : Nat} (hp : p < 4) :
    (earnCredit s).getHp p = { s.getHp p with credit := min 1280 ((s.getHp p).credit + 6 * max (s.getHp p).share 1) } := by
  rw [earnCredit, if_pos h]
  exact each_view_once (inv := fun _ => True) (State.getHp · p) p
    (fun h => { h with credit := min 1280 (h.credit + 6 * max h.share 1) }) (fun _ _ h => h)
    (fun s a ha _ => State.getHp_modHp_ne _ _ _ _ (Ne.symm ha)) (fun s _ => State.getHp_modHp _ _ _) (by decide)
    (by simp; omega) trivial

/-- What a ring sends at one tick (R57, R72). -/
def sendFrame (s : State) (r : Nat) : State :=
  let on := [2 * r, 2 * r + 1].filter s.txOn
  if on.isEmpty then s
  else
    let s := each on (fun s k => s.modPort k (fun p => { p with swingUsed := p.swing })) s
    let frame := s.now + lead
    s.modRing r (fun rg => { rg with sent := rg.sent + 1, out := some { frame := frame, mode := rg.modeOf frame, wrap := rg.wraps frame } })

theorem sendFrames_eq (s : State) : sendFrames s = each (List.range s.ringCount) sendFrame s := rfl

/-- A transmitter of ring r is on (R72). -/
def State.ringTxOn (s : State) (r : Nat) : Bool := s.txOn (2 * r) || s.txOn (2 * r + 1)

theorem ringTxOn_of_live {s : State} {r : Nat} (hl : s.linkUp r = true)
    (hp : s.portLive (2 * r) = true ∨ s.portLive (2 * r + 1) = true) : s.ringTxOn r = true := by
  have hone : (2 * r + 1) / 2 = r := by omega
  rcases hp with hp | hp <;> simp [State.ringTxOn, State.txOn, hone, hl, hp]

/-- The ring after a frame was sent in which the frame `frame` left. -/
def Ring.sentFrame (frame : Nat) (rg : Ring) : Ring :=
  { rg with sent := rg.sent + 1, out := some { frame := frame, mode := rg.modeOf frame, wrap := rg.wraps frame } }

theorem sendFrame_silent {s : State} {r : Nat} (h : s.ringTxOn r = false) : sendFrame s r = s := by
  simp only [State.ringTxOn, Bool.or_eq_false_iff] at h
  simp [sendFrame, h]

/-- A loop of port updates changes no part but the ports. -/
theorem each_modPort_frame (f : Port → Port) (l : List Nat) (s : State) :
    each l (fun s k => s.modPort k f) s = { s with port := (each l (fun s k => s.modPort k f) s).port } := by
  induction l generalizing s with
  | nil => rfl
  | cons k l ih => rw [each_cons, ih]; rfl

theorem each_modPort_get {β : Type} (v : Port → β) {f : Port → Port} (hf : ∀ p, v (f p) = v p) (l : List Nat) (s : State) (k : Nat) :
    v ((each l (fun s k => s.modPort k f) s).getPort k) = v (s.getPort k) := by
  refine each_same (fun s => v (s.getPort k)) (fun s a => ?_) l s
  by_cases h : k = a
  · subst h; simp [hf]
  · rw [State.getPort_modPort_ne _ _ _ _ h]

theorem sendFrame_frame (s : State) (r : Nat) :
    sendFrame s r = { s with port := (sendFrame s r).port, ring := (sendFrame s r).ring } := by
  unfold sendFrame
  extract_lets on s₁ frame
  split
  · rfl
  · have h₁ : s₁ = { s with port := s₁.port } := each_modPort_frame _ on s
    rw [h₁]; rfl

theorem getRing_sendFrame {s : State} {r : Nat} (h : s.ringTxOn r = true) :
    (sendFrame s r).getRing r = (s.getRing r).sentFrame (s.now + lead) := by
  have hon : ([2 * r, 2 * r + 1].filter s.txOn).isEmpty = false := by
    cases h0 : s.txOn (2 * r) <;> cases h1 : s.txOn (2 * r + 1) <;> simp_all [State.ringTxOn]
  unfold sendFrame
  extract_lets on s₁ frame
  have h₁ : s₁ = { s with port := s₁.port } := each_modPort_frame _ on s
  have hf : frame = s.now + lead := by rw [show frame = s₁.now + lead from rfl, h₁]; rfl
  rw [if_neg (by simp [on, hon]), State.getRing_modRing, hf, h₁]
  rfl

theorem getRing_sendFrame_ne {s : State} {r q : Nat} (h : q ≠ r) : (sendFrame s r).getRing q = s.getRing q := by
  cases hs : s.ringTxOn r with
  | false => rw [sendFrame_silent hs]
  | true =>
    unfold sendFrame
    extract_lets on s₁ frame
    have h₁ : s₁ = { s with port := s₁.port } := each_modPort_frame _ on s
    split
    · rfl
    · rw [State.getRing_modRing_ne _ _ _ _ h, h₁]; rfl

theorem retired_sendFrame (s : State) (r k : Nat) : ((sendFrame s r).getPort k).retired = (s.getPort k).retired := by
  unfold sendFrame
  extract_lets on s₁ frame
  split
  · rfl
  · exact each_modPort_get (f := fun p => { p with swingUsed := p.swing }) Port.retired (fun _ => rfl) on s k

theorem st_sendFrame (s : State) (r q : Nat) : ((sendFrame s r).getRing q).st = (s.getRing q).st := by
  by_cases h : q = r
  · subst h
    cases hs : s.ringTxOn q with
    | false => rw [sendFrame_silent hs]
    | true => rw [getRing_sendFrame hs]; rfl
  · rw [getRing_sendFrame_ne h]

/-- What decides which transmitters are on, and for which frame they send: no frame sent changes it. -/
def SendsAs (u s : State) : Prop :=
  s.tb = u.tb ∧ s.glb = u.glb ∧ s.pwr = u.pwr ∧ (∀ q, (s.getRing q).st = (u.getRing q).st) ∧
    ∀ k, (s.getPort k).retired = (u.getPort k).retired

theorem SendsAs.ringTxOn {u s : State} (h : SendsAs u s) (r : Nat) : s.ringTxOn r = u.ringTxOn r := by
  obtain ⟨-, hglb, hpwr, hst, hret⟩ := h
  simp [State.ringTxOn, State.txOn, State.portLive, State.linkUp, hglb, hpwr, hst, hret]

theorem SendsAs.sendFrame {u s : State} (h : SendsAs u s) (r : Nat) : SendsAs u (sendFrame s r) := by
  obtain ⟨htb, hglb, hpwr, hst, hret⟩ := h
  refine ⟨?_, ?_, ?_, fun q => (st_sendFrame s r q).trans (hst q), fun k => (retired_sendFrame s r k).trans (hret k)⟩
  · rw [sendFrame_frame]; exact htb
  · rw [sendFrame_frame]; exact hglb
  · rw [sendFrame_frame]; exact hpwr

theorem SendsAs.refl (s : State) : SendsAs s s := ⟨rfl, rfl, rfl, fun _ => rfl, fun _ => rfl⟩

theorem sendFrames_frame (s : State) :
    sendFrames s = { s with port := (sendFrames s).port, ring := (sendFrames s).ring } := by
  rw [sendFrames_eq]
  generalize List.range s.ringCount = l
  induction l generalizing s with
  | nil => rfl
  | cons a l ih => rw [each_cons, ih, sendFrame_frame s a]

theorem getRing_sendFrames {s : State} {r : Nat} (hr : r < s.ringCount) (h : s.ringTxOn r = true) :
    (sendFrames s).getRing r = (s.getRing r).sentFrame (s.now + lead) := by
  rw [sendFrames_eq]
  exact each_view_once (inv := SendsAs s) (State.getRing · r) r (Ring.sentFrame (s.now + lead)) (fun _ a h => h.sendFrame a)
    (fun _ _ ha _ => getRing_sendFrame_ne (Ne.symm ha))
    (fun t ht => by rw [getRing_sendFrame ((ht.ringTxOn r).trans h), State.now, ht.1]; rfl)
    List.nodup_range (List.mem_range.2 hr) (SendsAs.refl s)

theorem getRing_sendFrames_off {s : State} {r : Nat} (h : (s.getRing r).st = .off) : (sendFrames s).getRing r = s.getRing r := by
  rw [sendFrames_eq]
  refine each_view (inv := SendsAs s) (State.getRing · r) (fun _ a h => h.sendFrame a) (fun t a _ ht => ?_) (SendsAs.refl s)
  by_cases ha : r = a
  · subst ha
    have hoff : s.ringTxOn r = false := by
      simp [State.ringTxOn, State.txOn, State.portLive, h, show (2 * r + 1) / 2 = r by omega]
    rw [sendFrame_silent ((ht.ringTxOn r).trans hoff)]
  · exact getRing_sendFrame_ne ha

theorem sampleLevel_counts (lv : Bool) (x : PulseIn) :
    (sampleLevel lv x).2.imp = x.imp ∧ (sampleLevel lv x).2.exp = x.exp ∧ (sampleLevel lv x).2.count = x.count := by
  unfold sampleLevel
  split
  · split <;> exact ⟨rfl, rfl, rfl⟩
  · split <;> exact ⟨rfl, rfl, rfl⟩

/-- A loop of updates of inputs that keep `v` of an input keeps it. -/
theorem each_modInp_get {β : Type} (v : PulseIn → β) {f : State → Nat → PulseIn → PulseIn} (hf : ∀ s i x, v (f s i x) = v x)
    (l : List Nat) (s : State) (j : Nat) : v ((each l (fun s i => s.modInp i (f s i)) s).getInp j) = v (s.getInp j) := by
  refine each_same (fun s => v (s.getInp j)) (fun s a => ?_) l s
  by_cases h : j = a
  · subst h; simp [hf]
  · rw [State.getInp_modInp_ne _ _ _ _ h]

/-- R209: what samples the inputs changes no accumulator. -/
theorem getInp_sampleInputs {β : Type} (v : PulseIn → β) (hs : ∀ lv x, v (sampleLevel lv x).2 = v x)
    (he : ∀ x l, v { x with edges := l } = v x) (lv : BitVec 16) (s : State) (i : Nat) :
    v ((sampleInputs lv s).getInp i) = v (s.getInp i) := by
  unfold sampleInputs
  extract_lets hits s₁
  exact (each_modInp_get v (fun _ _ _ => he _ _) hits s₁ i).trans (each_modInp_get v (fun _ _ _ => hs _ _) _ s i)

/-- A loop of updates of inputs changes no part but the inputs. -/
theorem each_modInp_frame (f : State → Nat → PulseIn → PulseIn) (l : List Nat) (s : State) :
    each l (fun s i => s.modInp i (f s i)) s =
      { s with pulse := { s.pulse with inp := (each l (fun s i => s.modInp i (f s i)) s).pulse.inp } } := by
  induction l generalizing s with
  | nil => rfl
  | cons k l ih => rw [each_cons, ih]; rfl

theorem sampleInputs_frame (lv : BitVec 16) (s : State) :
    sampleInputs lv s = { s with pulse := { s.pulse with inp := (sampleInputs lv s).pulse.inp } } := by
  unfold sampleInputs
  extract_lets hits s₁
  have h₁ := each_modInp_frame (fun _ i x => (sampleLevel (lv.getLsbD i) x).2) (List.range 16) s
  have h₂ := each_modInp_frame (fun s i x => { x with edges := x.edges ++ [(s.now, (s.getInp (i ^^^ 1)).level)] }) hits s₁
  rw [h₂, show s₁ = _ from h₁]

/-- The block after the counters of a tick: the timebase's, then the ports' credit. -/
def State.ticked (s : State) : State := earnCredit (s.modTbIsl ncoTick)

/-- The block after the frames of a tick. -/
def State.framed (s : State) : State := if s.pwr.mainOn then sendFrames s.ticked else s.ticked

theorem execTick_on {s : State} (h : s.tbOn = true) (lv : BitVec 16) :
    execTick lv s = .next (whenDo (s.framed.up islTally) (sampleInputs lv) s.framed) := by
  have hp : s.ticked.pwr = s.pwr := by rw [State.ticked, earnCredit_frame]; rfl
  simp only [execTick, if_pos h, State.framed, State.ticked] at hp ⊢
  rw [hp]

/-- A command that a tick runs last changes the inputs alone. -/
theorem whenDo_sampleInputs_frame (b : Bool) (lv : BitVec 16) (s : State) :
    whenDo b (sampleInputs lv) s = { s with pulse := { s.pulse with inp := (whenDo b (sampleInputs lv) s).pulse.inp } } := by
  cases b
  · rfl
  · exact sampleInputs_frame lv s

theorem State.ticked_frame (s : State) : s.ticked = { s with tb := ncoTick s.tb, host := s.ticked.host } := by
  rw [State.ticked, earnCredit_frame]; rfl

theorem State.framed_frame (s : State) :
    s.framed = { s with tb := ncoTick s.tb, host := s.ticked.host, port := s.framed.port, ring := s.framed.ring } := by
  unfold State.framed
  split
  · rw [sendFrames_frame, State.ticked_frame]
  · rw [State.ticked_frame]

/-- Settles O3: each part of a tick changes what belongs to it (`execTick_on` and the frames of the parts). -/
theorem tickAdvancesIndexAndNco : Obligations.TickAdvancesIndexAndNco := by
  intro lv s hon hidx
  have hmod : (s.tb.idx + 1) % 2 ^ 64 = s.tb.idx + 1 := Nat.mod_eq_of_lt hidx
  refine ⟨_, execTick_on hon lv, ?_⟩
  have hlast := whenDo_sampleInputs_frame (s.framed.up islTally) lv s.framed
  have hinp : ∀ {β : Type} (v : PulseIn → β), (∀ lv x, v (sampleLevel lv x).2 = v x) → (∀ x l, v { x with edges := l } = v x) → ∀ i,
      v ((whenDo (s.framed.up islTally) (sampleInputs lv) s.framed).getInp i) = v (s.framed.getInp i) := by
    intro β v hs he i
    cases s.framed.up islTally
    · rfl
    · exact getInp_sampleInputs v hs he lv s.framed i
  generalize whenDo (s.framed.up islTally) (sampleInputs lv) s.framed = t at hlast hinp ⊢
  have hframed := s.framed_frame
  have htb : t.tb = ncoTick s.tb := by rw [hlast, hframed]
  have hring : t.getRing = s.framed.getRing := by rw [hlast]; rfl
  refine ⟨?_, ⟨cdiv (s.tb.ratio - s.tb.phase) (2 ^ 40), ?_, fun m hm => ?_⟩, ?_, fun hd => ?_, fun hup p hp => ?_, fun r hr hl hp => ?_,
    fun r hoff => ?_, fun o => ?_, fun i => ?_, ?_⟩
  · rw [htb, ncoTick_idx, hmod]
  · have := (cdiv_least (s.tb.ratio - s.tb.phase) (2 ^ 40) 0 (by decide)).1
    rw [htb, ncoTick_phase]; omega
  · exact (cdiv_least (s.tb.ratio - s.tb.phase) (2 ^ 40) m (by decide)).2 (by omega)
  · rw [htb, ncoTick_eq, restRatio_eq]; rfl
  · rw [htb, ncoTick_eq, restRatio_disciplined (t := s.tb.advanced) hd]; exact ⟨rfl, rfl, rfl⟩
  · have : t.getHp p = s.ticked.getHp p := by rw [hlast, hframed]; rfl
    rw [this, State.ticked, getHp_earnCredit (s := s.modTbIsl ncoTick) hup hp]; rfl
  · have hmain : s.pwr.mainOn = true := by simp only [State.linkUp, Bool.and_eq_true] at hl; exact hl.1
    have htick := s.ticked_frame
    have hsends : s.ticked.ringTxOn r = true := by
      rw [htick]; exact ringTxOn_of_live hl hp
    have hnow : s.ticked.now = s.tb.idx + 1 := by rw [htick, State.now, ncoTick_idx, hmod]
    have hrt : s.ticked.getRing r = s.getRing r := by rw [htick]; rfl
    rw [hring, State.framed, if_pos hmain, getRing_sendFrames (by rw [htick]; exact hr) hsends, hnow, hrt]
    rfl
  · rw [hring, State.framed]
    have hrt : s.ticked.getRing r = s.getRing r := by rw [s.ticked_frame]; rfl
    split
    · rw [getRing_sendFrames_off (by rw [hrt]; exact hoff), hrt]
    · exact hrt
  · rw [hlast, hframed]; rfl
  · have hi : s.framed.getInp i = s.getInp i := by rw [hframed]; rfl
    rw [hinp PulseIn.imp (fun lv x => (sampleLevel_counts lv x).1) (fun _ _ => rfl),
      hinp PulseIn.exp (fun lv x => (sampleLevel_counts lv x).2.1) (fun _ _ => rfl),
      hinp PulseIn.count (fun lv x => (sampleLevel_counts lv x).2.2) (fun _ _ => rfl), hi]
    exact ⟨rfl, rfl, rfl⟩
  · rw [hlast, hframed]

end Sys2Proof.Machine
end

section
-- One proof after another: elaborated side by side they take more memory than the check allows.
set_option Elab.async false
/-! SUPPORT. The trouble records and the host's writes of registers, as the proofs below use them: a record that is sent stands in its
channel and stays there, and a write that its checks allow is what `regWrite` says, with the audit record of R415 where one is due. -/

namespace Sys2Proof.Machine

open Sys2Proof.Cert

/-! ## Trouble records (R468) -/

theorem raise_eq (c : LogCode) (i : Nat) (l : List (Nat × Nat)) (s : State) : raise c i l s = { s with log := (raise c i l s).log } :=
  sendEnt_eq _ _ _

theorem raiseAt_eq (c : LogCode) (w i : Nat) (l : List (Nat × Nat)) (s : State) :
    raiseAt c w i l s = { s with log := (raiseAt c w i l s).log } :=
  sendEnt_eq _ _ _

theorem raiseSev_eq (c : LogCode) (v w i : Nat) (l : List (Nat × Nat)) (s : State) :
    raiseSev c v w i l s = { s with log := (raiseSev c v w i l s).log } :=
  sendEnt_eq _ _ _

theorem logged_raiseAt {c : LogCode} (hc : c.info.2.2 = true) (w i : Nat) (l : List (Nat × Nat)) (s : State) :
    Logged (ent c w i l s) (raiseAt c w i l s) :=
  sendEnt_logged _ _ s (.inl hc)

theorem logged_raise {c : LogCode} (hc : c.info.2.2 = true) (i : Nat) (l : List (Nat × Nat)) (s : State) :
    Logged (ent c s.now i l s) (raise c i l s) :=
  logged_raiseAt hc _ _ _ _

theorem loggedIfRoom_raise (c : LogCode) (i : Nat) (l : List (Nat × Nat)) (s : State) :
    LoggedIfRoom (ent c s.now i l s) s (raise c i l s) :=
  fun h => sendEnt_logged _ _ s (.inr h)

/-- A record that stands in a channel still does after another was sent. -/
theorem Logged.sendEnt {e x : LogEnt} {src : Nat} {s : State} (h : Logged e s) : Logged e (sendEnt src x s) :=
  sendEnt_kept _ _ _ _ _ h

theorem Logged.raise {e : LogEnt} {c : LogCode} {i : Nat} {l : List (Nat × Nat)} {s : State} (h : Logged e s) :
    Logged e (raise c i l s) :=
  Logged.sendEnt h

theorem ent_congr {c : LogCode} {w i : Nat} {l : List (Nat × Nat)} {s t : State} (h : t.tb.epoch = s.tb.epoch) :
    ent c w i l t = ent c w i l s := by
  simp only [ent, entSev, h]

theorem loggedIfRoom_congr {e : LogEnt} {s t s' t' : State} (hs : s'.log = s.log) (ht : t'.log = t.log) (h : LoggedIfRoom e s t) :
    LoggedIfRoom e s' t' := by
  simpa only [LoggedIfRoom, Logged, State.getLogSrc, hs, ht] using h

/-! ## Writes of registers (R384, R389, R391, R415) -/

/-- The places behind the fixed registers: a gallery word has its own checks (R365), and an unmapped range is refused (R479). -/
def Place.isReg : Place → Bool
  | .window _ _ | .unmapped _ => false
  | _ => true

/-- What a port's own mailbox adds to the checks of a write: it is the port's (R126). -/
def Place.ownedBy (p : Nat) : Place → Prop
  | .acc q _ => q = p
  | _ => True

/-- What a register takes from a write by port p in a role, with the audit record of R415 where the write leaves none of its own. -/
def writeAudited (role p a : Nat) (pl : Place) (v : Word) (s : State) : State :=
  whenDo (decide (wrNeed pl v ≥ 2) && !(regWrite role p pl v s).1)
    (auditWrite role p a (regRead s p pl) (if pl.keyWord then 0 else v)) (regWrite role p pl v s).2

theorem writeWord_reg {role p a : Nat} {v : Word} {s : State} (hreg : (place a).isReg = true) :
    writeWord role p a v s = writeAudited role p a (place a) v s := by
  unfold writeWord writeAudited
  split
  · next h => rw [h] at hreg; cases hreg
  · rfl

theorem canWrite_reg {s : State} {p a : Nat} {v : Word} (hreg : (place a).isReg = true) (hown : (place a).ownedBy p)
    (halign : a % 4 = 0) (hhalf : s.glb.half = true → absentHalf a = false) (hrole : wrNeed (place a) v ≤ (s.getRolePort p).role)
    (hval : s.valueBad (place a) v = false) (hup : s.tgtUp (place a).target = true) (hstew : s.red.stewardDown = false) :
    s.canWrite p a v = true := by
  have hden : s.denied p true (place a) v = false := by
    unfold State.denied
    simp only [if_true, Bool.or_eq_false_iff, decide_eq_false_iff_not, Nat.not_lt]
    refine ⟨hrole, ?_⟩
    split
    · next h => rw [h] at hown; simpa [Place.ownedBy] using hown
    · rfl
    · next h => rw [h] at hreg; cases hreg
    · rfl
  have hcause : s.cause3 p true a v = 0 := by
    unfold State.cause3
    split
    · next h => rw [h] at hreg; cases hreg
    · rw [hden]
      cases hh : s.glb.half
      · rfl
      · rw [hhalf hh]; rfl
  have hcause4 : s.cause4 p a = 0 := by
    unfold State.cause4
    split
    · next h => rw [h] at hreg; cases hreg
    · rfl
  simp [State.canWrite, State.mayWrite, halign, hcause, hcause4, hval, hup, hstew]

/-- A write that its checks allow. -/
theorem rowWrite_reg {s : State} {p role a : Nat} {v : Word} (hact : MayAct s p role (place a).target) (hreg : (place a).isReg = true)
    (hown : (place a).ownedBy p) (halign : a % 4 = 0) (hhalf : s.glb.half = true → absentHalf a = false)
    (hneed : wrNeed (place a) v ≤ role) (hval : s.valueBad (place a) v = false) :
    rowWrite p a v s = .next (wordDone p (writeAudited (s.getRolePort p).role p a (place a) v s)) := by
  obtain ⟨hup, htgt, hstew, hrole, hnone⟩ := hact
  have hcan := canWrite_reg hreg hown halign hhalf (hneed.trans hrole) hval htgt hstew
  simp [rowWrite, onIsl_up hup, portWrite, drainTo_none hnone, hcan, hostWrite, writeWord_reg hreg]

/-- A write that needs no more than an operator leaves no audit record. -/
theorem writeAudited_operator {role p a : Nat} {pl : Place} {v : Word} {s : State} (h : wrNeed pl v < 2) :
    writeAudited role p a pl v s = (regWrite role p pl v s).2 := by
  have : decide (wrNeed pl v ≥ 2) = false := decide_eq_false (by omega)
  simp [writeAudited, this]

/-- A write that leaves an entry of its own leaves no audit record. -/
theorem writeAudited_own {role p a : Nat} {pl : Place} {v : Word} {s : State} (h : (regWrite role p pl v s).1 = true) :
    writeAudited role p a pl v s = (regWrite role p pl v s).2 := by
  simp [writeAudited, h]

/-- R415, R416: a write that needs more, and leaves no entry of its own, leaves the audit record with the value before and after. -/
theorem audited_writeAudited {p a : Nat} {pl : Place} {v : Word} {s u : State} (hneed : 2 ≤ wrNeed pl v)
    (hu : regWrite (s.getRolePort p).role p pl v s = (false, u)) (hkey : pl.keyWord = false) (hnow : u.now = s.now)
    (hep : u.tb.epoch = s.tb.epoch) :
    Audited p a (regRead s p pl) v s u (wordDone p (writeAudited (s.getRolePort p).role p a pl v s)) := by
  have h : writeAudited (s.getRolePort p).role p a pl v s = auditWrite (s.getRolePort p).role p a (regRead s p pl) v u := by
    simp [writeAudited, hu, hkey, hneed]
  have hlog := logged_raise (c := .audit) rfl (a % 65536) [(1, a / 65536), (1, (s.getRolePort p).role), (1, p), (1, 0),
    (4, (regRead s p pl).toNat), (4, v.toNat), (4, u.role.audit), (6, 0)] u
  rw [hnow, ent_congr hep] at hlog
  rw [h]
  refine ⟨?_, hlog⟩
  unfold auditWrite
  rw [raise_eq]
  rfl

/-- A write that its checks allow, and that R415 audits: what the register takes is `u`. -/
theorem rowWrite_audited {s u : State} {p role a : Nat} {v : Word} {pl : Place} (hpl : place a = pl) (hact : MayAct s p role pl.target)
    (hreg : pl.isReg = true) (hown : pl.ownedBy p) (halign : a % 4 = 0) (hhalf : s.glb.half = true → absentHalf a = false)
    (hneed : wrNeed pl v ≤ role) (haudit : 2 ≤ wrNeed pl v) (hval : s.valueBad pl v = false) (hkey : pl.keyWord = false)
    (hu : regWrite (s.getRolePort p).role p pl v s = (false, u)) (hnow : u.now = s.now) (hep : u.tb.epoch = s.tb.epoch) :
    ∃ t, rowWrite p a v s = .next t ∧ Audited p a (regRead s p pl) v s u t := by
  subst hpl
  exact ⟨_, rowWrite_reg hact hreg hown halign hhalf hneed hval, audited_writeAudited haudit hu hkey hnow hep⟩

end Sys2Proof.Machine
end

section
-- One proof after another: elaborated side by side they take more memory than the check allows.
set_option Elab.async false
/-! PROOF. The edges of PPS and the counted seconds (O4, O5). `acceptEdge_eq` and `moveBoundary_frame` say what an accepted edge changes;
`countBoundary_frame` says what a counted boundary changes. -/

namespace Sys2Proof.Machine

open Sys2Proof.Cert

/-! ## A counted boundary (R52, R54, R55) -/

@[simp] theorem ncoOf_setDisc (d : Disc) (t : Tb) : (setDisc d t).ratio = t.ratio ∧ (setDisc d t).idx = t.idx ∧
    (setDisc d t).second = t.second ∧ (setDisc d t).taiSec = t.taiSec ∧ (setDisc d t).outliers = t.outliers ∧
    (setDisc d t).steps = t.steps ∧ (setDisc d t).disc = d ∧ (setDisc d t).lastEdge = t.lastEdge ∧ (setDisc d t).err = t.err :=
  ⟨rfl, rfl, rfl, rfl, rfl, rfl, rfl, rfl, rfl⟩

/-- What every change of the discipline by an edge leaves of the timebase. -/
structure Tb.SameTime (t u : Tb) : Prop where
  second : u.second = t.second
  idx : u.idx = t.idx
  taiSec : u.taiSec = t.taiSec
  outliers : u.outliers = t.outliers
  steps : u.steps = t.steps
  ratio : u.ratio = t.ratio
  err : u.err = t.err
  lastEdge : u.lastEdge = t.lastEdge

theorem edgeState_sameTime (e : Int) (t : Tb) : Tb.SameTime t (edgeState e t) := by
  unfold edgeState
  extract_lets good bad u
  split
  · split <;> exact ⟨rfl, rfl, rfl, rfl, rfl, rfl, rfl, rfl⟩
  · split <;> exact ⟨rfl, rfl, rfl, rfl, rfl, rfl, rfl, rfl⟩
  all_goals exact ⟨rfl, rfl, rfl, rfl, rfl, rfl, rfl, rfl⟩

/-- R50: the eighth edge in a row within 50 ns leads to LOCKED, none before it. -/
theorem edgeState_acquire {e : Int} {t : Tb} (h : t.disc = .acquire) (hgood : t.goodRun = 0) : (edgeState e t).disc = .acquire := by
  have hrun : ¬ (if withinNs e 50 = true then t.goodRun + 1 else 0) ≥ 8 := by rw [hgood]; split <;> omega
  simp [edgeState, h, hrun]

/-- The timebase that an accepted edge leaves (R49, R50). -/
def Tb.accepted (asked at16 : Nat) (e : Int) (t : Tb) : Tb :=
  let t := setRatio asked (t.idx - t.chgAt) { t with err := e, lastEdge := some at16, takeNext := false }
  edgeState e { t with ratios := (t.ratio :: t.ratios).take 16 }

theorem acceptEdge_eq (at16 : Nat) (e : Int) (s : State) : acceptEdge at16 e s =
    { s with tb := s.tb.accepted (Config.loopRatio s.fresh e (min s.tb.tau 5)) at16 e, fresh := s.fresh + 1 } := rfl

theorem acceptEdge_frame (at16 : Nat) (e : Int) (s : State) :
    acceptEdge at16 e s = { s with tb := (acceptEdge at16 e s).tb, fresh := (acceptEdge at16 e s).fresh } := rfl

theorem accepted_sameTime (asked at16 : Nat) (e : Int) (t : Tb) :
    (t.accepted asked at16 e).second = t.second ∧ (t.accepted asked at16 e).idx = t.idx ∧ (t.accepted asked at16 e).taiSec = t.taiSec ∧
    (t.accepted asked at16 e).outliers = t.outliers ∧ (t.accepted asked at16 e).steps = t.steps ∧
    (t.accepted asked at16 e).err = e ∧ (t.accepted asked at16 e).lastEdge = some at16 ∧
    (InLimits t.ratio → InLimits (t.accepted asked at16 e).ratio) := by
  unfold Tb.accepted
  extract_lets u
  obtain ⟨h1, h2, h3, h4, h5, h6, h7, h8⟩ := edgeState_sameTime e { u with ratios := (u.ratio :: u.ratios).take 16 }
  refine ⟨h1, h2, h3, h4, h5, h7, h8, fun h => ?_⟩
  rw [h6]
  exact inLimits_slew h (inLimits_clampRatio asked) _

theorem taiBoundary_frame (b : Nat) (s : State) : taiBoundary b s = { s with tb := (taiBoundary b s).tb, log := (taiBoundary b s).log } := by
  unfold taiBoundary
  extract_lets t v by_
  split
  · rw [raiseAt_eq]
  · rfl

theorem taiBoundary_sameRatio (b : Nat) (s : State) : (taiBoundary b s).tb.second = b ∧ (taiBoundary b s).tb.idx = s.tb.idx ∧
    (taiBoundary b s).tb.ratio = s.tb.ratio ∧ (taiBoundary b s).tb.disc = s.tb.disc ∧ (taiBoundary b s).tb.goodRun = s.tb.goodRun := by
  unfold taiBoundary
  extract_lets t v by_
  split
  · rw [raiseAt_eq]; exact ⟨rfl, rfl, rfl, rfl, rfl⟩
  · exact ⟨rfl, rfl, rfl, rfl, rfl⟩

theorem each_spTick_frame (b : Nat) (moved : Bool) (l : List Nat) (s : State) :
    each l (spTick b moved) s = { s with spec := (each l (spTick b moved) s).spec } := by
  induction l generalizing s with
  | nil => rfl
  | cons a l ih =>
    have h : spTick b moved s a = { s with spec := (spTick b moved s a).spec } := by
      simp only [spTick]; split <;> rfl
    rw [each_cons, ih, h]

/-- R52: the tenth-of-a-second bounds that a counted boundary adds to a started group. -/
def boundGroup (b : Nat) (s : State) (gi : Nat) : State :=
  if (s.getGrp gi).started then s.modGrp gi (tenBound b s.tb) else s

theorem boundGroup_frame (b : Nat) (s : State) (gi : Nat) : boundGroup b s gi = { s with rs := (boundGroup b s gi).rs } := by
  unfold boundGroup; split <;> rfl

theorem each_boundGroup_frame (b : Nat) (l : List Nat) (s : State) :
    each l (boundGroup b) s = { s with rs := (each l (boundGroup b) s).rs } := by
  induction l generalizing s with
  | nil => rfl
  | cons a l ih => rw [each_cons, ih, boundGroup_frame]

theorem tenBound_same (b : Nat) (t : Tb) (g : Grp) : (tenBound b t g).cycles = g.cycles ∧ (tenBound b t g).tw = g.tw := by
  unfold tenBound; split <;> exact ⟨rfl, rfl⟩

theorem boundGroup_same (b : Nat) (s : State) (gi g : Nat) :
    ((boundGroup b s gi).getGrp g).cycles = (s.getGrp g).cycles ∧ ((boundGroup b s gi).getGrp g).tw = (s.getGrp g).tw := by
  unfold boundGroup
  split
  · by_cases h : g = gi
    · subst h; rw [State.getGrp_modGrp]; exact tenBound_same _ _ _
    · rw [State.getGrp_modGrp_ne _ _ _ _ h]; exact ⟨rfl, rfl⟩
  · exact ⟨rfl, rfl⟩

/-- The block between the spectral ticks of a counted boundary and its groups. -/
def spectralBounds (b : Nat) (s : State) : State :=
  each (List.range 16) (spTick b (s.spec.utcSetNow && s.spec.utcNow != s.spec.utc))
    (s.modSpecIsl (fun x => { x with utcNow := x.utc, utcSetNow := x.utcSet }))

theorem countBoundary_eq (b : Nat) (s : State) :
    countBoundary b s = each (List.range 16) (boundGroup b) (spectralBounds b (rtcBoundary (taiBoundary b s))) := rfl

theorem spectralBounds_frame (b : Nat) (s : State) : spectralBounds b s = { s with spec := (spectralBounds b s).spec } := by
  exact each_spTick_frame _ _ _ _

theorem countBoundary_frame (b : Nat) (s : State) : countBoundary b s =
    { s with tb := (taiBoundary b s).tb, log := (taiBoundary b s).log, pwr := { s.pwr with rtc := (countBoundary b s).pwr.rtc },
             spec := (countBoundary b s).spec, rs := (countBoundary b s).rs } := by
  have h₁ := taiBoundary_frame b s
  have h₂ := spectralBounds_frame b (rtcBoundary (taiBoundary b s))
  have h₃ := each_boundGroup_frame b (List.range 16) (spectralBounds b (rtcBoundary (taiBoundary b s)))
  rw [← countBoundary_eq] at h₃
  generalize countBoundary b s = t at h₃ ⊢
  generalize spectralBounds b (rtcBoundary (taiBoundary b s)) = u at h₂ h₃
  generalize taiBoundary b s = v at h₁ h₂ ⊢
  rw [h₃, h₂, h₁]
  rfl

theorem getGrp_countBoundary (b : Nat) (s : State) (g : Nat) :
    ((countBoundary b s).getGrp g).cycles = (s.getGrp g).cycles ∧ ((countBoundary b s).getGrp g).tw = (s.getGrp g).tw := by
  have hrs : (spectralBounds b (rtcBoundary (taiBoundary b s))).getGrp g = s.getGrp g := by
    have h₁ := taiBoundary_frame b s
    have h₂ := spectralBounds_frame b (rtcBoundary (taiBoundary b s))
    generalize spectralBounds b (rtcBoundary (taiBoundary b s)) = u at h₂ ⊢
    generalize taiBoundary b s = v at h₁ h₂
    rw [h₂, h₁]
    rfl
  rw [countBoundary_eq, each_same (fun s => (s.getGrp g).cycles) (fun s a => (boundGroup_same b s a g).1),
    each_same (fun s => (s.getGrp g).tw) (fun s a => (boundGroup_same b s a g).2), hrs]
  exact ⟨rfl, rfl⟩

/-! ## An edge (R48 to R51) -/

theorem moveBoundary_frame (old : Nat) (at16 : Int) (s : State) : moveBoundary old at16 s =
    { s with tb := (moveBoundary old at16 s).tb, pwr := (moveBoundary old at16 s).pwr, spec := (moveBoundary old at16 s).spec,
             rs := (moveBoundary old at16 s).rs, log := (moveBoundary old at16 s).log } := by
  unfold moveBoundary
  extract_lets new s₁
  have h₁ : s₁ = { s with tb := s₁.tb, pwr := s₁.pwr, spec := s₁.spec, rs := s₁.rs, log := s₁.log } := by
    unfold s₁
    split
    · have h := countBoundary_frame new s
      generalize countBoundary new s = t at h ⊢
      rw [h]
    · rfl
  clear_value s₁
  split
  · rfl
  · rw [raise_eq, h₁]; rfl

theorem moveBoundary_same (old : Nat) (at16 : Int) (s : State) : (moveBoundary old at16 s).tb.idx = s.tb.idx ∧
    (moveBoundary old at16 s).tb.disc = s.tb.disc ∧ (moveBoundary old at16 s).tb.goodRun = s.tb.goodRun := by
  unfold moveBoundary
  extract_lets new s₁
  have h₁ : s₁.tb.idx = s.tb.idx ∧ s₁.tb.disc = s.tb.disc ∧ s₁.tb.goodRun = s.tb.goodRun := by
    unfold s₁
    split
    · rw [countBoundary_frame]
      obtain ⟨-, hidx, -, hdisc, hgood⟩ := taiBoundary_sameRatio new s
      exact ⟨hidx, hdisc, hgood⟩
    · exact ⟨rfl, rfl, rfl⟩
  split
  · exact ⟨rfl, rfl, rfl⟩
  · rw [raise_eq]; exact h₁

theorem takeEdge_eq (at16 : Nat) (s : State) : ∃ old inst e, takeEdge at16 s = acceptEdge at16 e (moveBoundary old inst s) :=
  ⟨_, _, _, rfl⟩

/-- R51: an edge taken without a window check after the discipline went to ACQUIRE. -/
theorem takeEdge_acquire (at16 : Nat) (s : State) : ∃ t, takeEdge at16 (s.modTbIsl (setDisc .acquire)) = t ∧
    t.tb.disc = .acquire ∧ t.tb.lastEdge = some at16 ∧ t.tb.idx = s.tb.idx ∧
      t = { s with tb := t.tb, fresh := t.fresh, pwr := t.pwr, spec := t.spec, rs := t.rs, log := t.log } := by
  obtain ⟨old, inst, e, ht⟩ := takeEdge_eq at16 (s.modTbIsl (setDisc .acquire))
  obtain ⟨hidx, hdisc, hgood⟩ := moveBoundary_same old inst (s.modTbIsl (setDisc .acquire))
  have hu := moveBoundary_frame old inst (s.modTbIsl (setDisc .acquire))
  generalize moveBoundary old inst (s.modTbIsl (setDisc .acquire)) = u at ht hidx hdisc hgood hu
  obtain ⟨-, h2, -, -, -, -, h7, -⟩ := accepted_sameTime (Config.loopRatio u.fresh e (min u.tb.tau 5)) at16 e u.tb
  refine ⟨_, ht, edgeState_acquire hdisc hgood, h7, h2.trans hidx, ?_⟩
  have hframe := acceptEdge_frame at16 e u
  generalize acceptEdge at16 e u = t at hframe ⊢
  rw [hframe, hu]
  rfl

theorem tooSoon_false {t : Tb} {at16 : Nat} (h : ∀ e, t.lastEdge = some e → e + 192000 * 65536 ≤ at16) : t.tooSoon at16 = false := by
  unfold Tb.tooSoon
  split
  · rfl
  · next e he => exact decide_eq_false (Nat.not_lt.2 (h e he))

theorem outliersAgree_short {l : List Int} (h : l.length < 3) : outliersAgree l = false := by
  simp [outliersAgree, Nat.not_le.2 h]

/-- Settles O4, by the discipline's state and the distance of the edge. -/
theorem ppsEdgeIgnoredAcceptedOrOutlier : Obligations.PpsEdgeIgnoredAcceptedOrOutlier := by
  intro at16 s hon hat
  have hexec : exec (.ppsEdge at16) s = .next (ppsEdge at16 s) := by
    change Host.Outcome.next (if _ then _ else _) = _
    rw [if_pos ⟨hon, hat⟩]
  rw [hexec]
  refine ⟨fun e he hsoon => ?_, fun hlate => ?_⟩
  · have : s.tb.tooSoon at16 = true := by simp [Tb.tooSoon, he, hsoon]
    simp [ppsEdge, this]
  have hsoon := tooSoon_false hlate
  refine ⟨fun hnext => ⟨fun hwin => ?_, fun hlock hfar hrun => ?_⟩, fun hdisc => ?_⟩
  · have hcheck : ppsEdge at16 s = checkEdge at16 s := by
      rcases hwin with ⟨hd, -⟩ | ⟨hd, -⟩ <;> simp [ppsEdge, hsoon, hd, hnext]
    have hacc : checkEdge at16 s = acceptEdge at16 (s.tb.nearest ((at16 : Int) - s.tb.delay)).2 s := by
      rcases hwin with ⟨hd, hw⟩ | ⟨hd, hw⟩
      · simp [checkEdge, hd, hw]
      · have hok : withinNs (s.tb.nearest ((at16 : Int) - s.tb.delay)).2 2000 = true := decide_eq_true hw
        simp [checkEdge, hd, hok]
    rw [hcheck, hacc, acceptEdge_eq]
    obtain ⟨h1, h2, h3, h4, h5, h6, h7, h8⟩ := accepted_sameTime
      (Config.loopRatio s.fresh (s.tb.nearest ((at16 : Int) - s.tb.delay)).2 (min s.tb.tau 5)) at16
      (s.tb.nearest ((at16 : Int) - s.tb.delay)).2 s.tb
    exact ⟨_, rfl, h7, h6, h8, h1, h2, h3, h4, h5, rfl⟩
  · have hout : outliersAgree (((s.tb.nearest ((at16 : Int) - s.tb.delay)).2 :: s.tb.outRun).take 3) = false :=
      outliersAgree_short (by simp; omega)
    have hwin : withinNs (s.tb.nearest ((at16 : Int) - s.tb.delay)).2 2000 = false := decide_eq_false (by simp only [ticksPerSec]; omega)
    have hcheck : ppsEdge at16 s = outlierEdge at16 (s.tb.nearest ((at16 : Int) - s.tb.delay)).2 s := by
      simp [ppsEdge, hsoon, hlock, hnext, checkEdge, hwin]
    rw [hcheck, outlierEdge]
    simp only [State.modTbIsl_tb, hout, Bool.and_false, Bool.false_eq_true, if_false]
    rfl
  · have htake : ppsEdge at16 s = takeEdge at16 (s.modTbIsl (setDisc .acquire)) := by
      rcases hdisc with hd | ⟨hd, hen⟩
      · simp [ppsEdge, hsoon, hd]
      · simp [ppsEdge, hsoon, hd, hen]
    rw [htake]
    obtain ⟨t, ht, h⟩ := takeEdge_acquire at16 s
    exact ⟨t, congrArg _ ht, h⟩

/-! ## The discipline and the time of day (R50, R54, R55, R66) -/

theorem taiBoundary_unarmed {s : State} (h : s.tb.arm = false) (b : Nat) : taiBoundary b s =
    { s with tb := { s.tb with second := b, taiSec := if s.tb.taiValid then (s.tb.taiSec + 1) % 2 ^ 48 else s.tb.taiSec } } := by
  simp [taiBoundary, h]

theorem taiBoundary_armed {s : State} {b : Nat} (h : s.tb.arm = true) (hat : s.tb.armAt < b) : taiBoundary b s =
    raiseAt .tbTaiApplied b 0 [(1, (heldBefore b (0, 0) s.tb.taiBy).1), (1, (heldBefore b (0, 0) s.tb.taiBy).2),
      (8, heldBefore b 0 s.tb.taiHist)]
      { s with tb := { s.tb with second := b, taiSec := heldBefore b 0 s.tb.taiHist, taiValid := true
                                 arm := decide (s.tb.armLast ≥ b), armAt := s.tb.armLast } } := by
  simp [taiBoundary, h, hat]

theorem ppsTimeout_holdover {s : State} (hon : s.tbOn = true) (hd : s.tb.disc = .acquire ∨ s.tb.disc = .locked)
    (hlost : ∀ e, s.tb.lastEdge = some e → e + 576000 * 65536 ≤ s.tb.idx * 65536) :
    ∃ t, exec .ppsTimeout s = .next t ∧ t.tb.disc = .holdover ∧ t.tb.ratio = s.tb.ratio ∧
       t.tb.lockLost = (s.tb.lockLost || decide (s.tb.disc = .locked)) ∧ t.tb.second = s.tb.second ∧ t.tb.idx = s.tb.idx ∧
       t = { s with tb := t.tb } := by
  have hedge : s.tb.edgeLost = true := by
    unfold Tb.edgeLost
    split
    · rfl
    · next e he => exact decide_eq_true (hlost e he)
  have hexec : exec .ppsTimeout s = .next (s.modTbIsl (fun t => { setDisc .holdover t with takeNext := false })) := by
    change Host.Outcome.next (if _ then _ else _) = _
    rw [if_pos ⟨hon, hd, hedge⟩]
  refine ⟨_, hexec, rfl, rfl, ?_, rfl, rfl, rfl⟩
  rcases hd with hd | hd <;> simp [setDisc, slewHere, hd]

theorem discEnWrite_sets (p : Fin 4) (en : Bool) {s : State} (hact : MayAct s p 2 islSteward) :
    ∃ t, exec (.discEnWrite p en) s = .next t ∧ t.tb.discEn = en ∧
       t.tb.disc = (if en then s.tb.disc else .free) ∧ t.tb.ratio = s.tb.ratio ∧ t.tb.idx = s.tb.idx ∧
       Audited p 0x010000 (tbRead s.tb 0) ((tbRead s.tb 0 &&& 0xE) ||| (if en then 1 else 0)) s { s with tb := t.tb } t := by
  generalize hv : (tbRead s.tb 0 &&& 0xE) ||| (if en then (1 : Word) else 0) = v
  have hexec : exec (.discEnWrite p en) s = rowWrite p 0x010000 v s := by cases en <;> (rw [← hv]; rfl)
  have hbit : bit v 0 = en := by
    rw [← hv, bit_or]
    cases en <;> simp [bit]
  have htb (r : Nat) : (tbWrite r p 0 v s.tb).discEn = en ∧ (tbWrite r p 0 v s.tb).disc = (if en then s.tb.disc else .free) ∧
      (tbWrite r p 0 v s.tb).ratio = s.tb.ratio ∧ (tbWrite r p 0 v s.tb).idx = s.tb.idx ∧
      (tbWrite r p 0 v s.tb).epoch = s.tb.epoch := by
    simp only [tbWrite, hbit]
    cases en <;> exact ⟨rfl, rfl, rfl, rfl, rfl⟩
  obtain ⟨hen, hdisc, hratio, hidx, hep⟩ := htb (s.getRolePort p).role
  obtain ⟨t, ht, haud⟩ := rowWrite_audited (a := 0x010000) (pl := .tb 0) (v := v) rfl hact rfl trivial rfl (fun _ => rfl) (Nat.le_refl 2)
    (Nat.le_refl 2) rfl rfl rfl hidx hep
  have hsame : t.tb = tbWrite (s.getRolePort p).role p 0 v s.tb := congrArg State.tb haud.1
  refine ⟨t, hexec.trans ht, ?_⟩
  rw [hsame]
  exact ⟨hen, hdisc, hratio, hidx, haud⟩

theorem secondBoundary_counts {s : State} (hon : s.tbOn = true) (hdue : s.tb.second + 384000 ≤ s.tb.idx) :
    ∃ t, exec .secondBoundary s = .next t ∧ t.tb.second = s.tb.second + 384000 ∧ t.tb.idx = s.tb.idx ∧
       t.tb.ratio = s.tb.ratio ∧ t.tb.disc = s.tb.disc ∧
       (s.tb.arm = false → t.tb.taiValid = s.tb.taiValid ∧
         t.tb.taiSec = (if s.tb.taiValid then (s.tb.taiSec + 1) % 2 ^ 48 else s.tb.taiSec) ∧ t.log = s.log) ∧
       (s.tb.arm = true → s.tb.armAt < s.tb.second + 384000 →
         let set_ := heldBefore (s.tb.second + 384000) 0 s.tb.taiHist
         let by_ := heldBefore (s.tb.second + 384000) (0, 0) s.tb.taiBy
         t.tb.taiSec = set_ ∧ t.tb.taiValid = true ∧ t.tb.arm = decide (s.tb.second + 384000 ≤ s.tb.armLast) ∧
         Logged (ent .tbTaiApplied (s.tb.second + 384000) 0 [(1, by_.1), (1, by_.2), (8, set_)] s) t) ∧
       (∀ g, (t.getGrp g).cycles = (s.getGrp g).cycles ∧ (t.getGrp g).tw = (s.getGrp g).tw) ∧
       t = { s with tb := t.tb, log := t.log, pwr := { s.pwr with rtc := t.pwr.rtc }, spec := t.spec, rs := t.rs } := by
  have hexec : exec .secondBoundary s = .next (countBoundary (s.tb.second + 384000) s) := by
    change Host.Outcome.next (if _ then _ else _) = _
    rw [if_pos ⟨hon, hdue⟩]
    rfl
  generalize s.tb.second + 384000 = b at hexec
  obtain ⟨hsec, hidx, hratio, hdisc, -⟩ := taiBoundary_sameRatio b s
  have hgrp := getGrp_countBoundary b s
  have hframe := countBoundary_frame b s
  refine ⟨_, hexec, ?_⟩
  generalize countBoundary b s = t at hframe hgrp ⊢
  have htb : t.tb = (taiBoundary b s).tb := by rw [hframe]
  have hlog : t.log = (taiBoundary b s).log := by rw [hframe]
  rw [htb]
  refine ⟨hsec, hidx, hratio, hdisc, fun harm => ?_, fun harm hat => ?_, hgrp, ?_⟩
  · rw [hlog, taiBoundary_unarmed harm]
    exact ⟨rfl, rfl, rfl⟩
  · have h := taiBoundary_armed harm hat
    refine ⟨?_, ?_, ?_, logged_congr (hlog.trans (congrArg State.log h)) (logged_raiseAt rfl _ _ _ _)⟩
    all_goals rw [h, raiseAt_eq]
  · rw [hframe]

theorem taiArm_sets (p : Fin 4) {s : State} (hact : MayAct s p 2 islSteward) :
    ∃ t, exec (.taiArm p) s = .next (wordDone p t) ∧ t.tb = { s.tb with
         arm := true, armAt := (if s.tb.arm then s.tb.armAt else s.tb.idx), armLast := s.tb.idx, taiBy := t.tb.taiBy } ∧
       t.tb.taiBy.head? = some (s.tb.idx, (s.getRolePort p).role, p.val) ∧ t = { s with tb := t.tb } := by
  have hexec := rowWrite_reg (v := 1) (a := 0x010048) hact rfl trivial rfl (fun _ => rfl) (Nat.le_refl 2) rfl
  rw [writeAudited_own rfl] at hexec
  exact ⟨_, hexec, rfl, rfl, rfl⟩

/-- Settles O5, one lemma for each command. -/
theorem disciplineLossAndTimeOfDay : Obligations.DisciplineLossAndTimeOfDay :=
  ⟨⟨fun _ hon hd hlost => ppsTimeout_holdover hon hd hlost, fun p en _ hact => discEnWrite_sets p en hact⟩,
    fun _ hon hdue => secondBoundary_counts hon hdue, fun p _ hact => taiArm_sets p hact⟩

end Sys2Proof.Machine
end

section
-- One proof after another: elaborated side by side they take more memory than the check allows.
set_option Elab.async false
/-! SUPPORT. Which parts of the state an operation writes. `s.outside m` is the state with the parts named by `m` blanked, so that
`(f s).outside m = s.outside m` says that f writes no part but those, and simp composes such facts by rewriting. `State.eq_onto` reads them
as the frame of a statement. -/

namespace Sys2Proof.Machine

open Sys2Proof.Cert

/-- A choice of parts of the state. -/
structure Parts where
  (glb : Bool := false) (tb : Bool := false) (port : Bool := false) (ring : Bool := false) (head : Bool := false)
  (headAcc : Bool := false) (stair : Bool := false) (rs : Bool := false) (tally : Bool := false) (pulse : Bool := false)
  (spec : Bool := false) (ev : Bool := false) (plan : Bool := false) (red : Bool := false) (lc : Bool := false)
  (cal : Bool := false) (gal : Bool := false) (mt : Bool := false) (host : Bool := false) (role : Bool := false)
  (tmp : Bool := false) (pwr : Bool := false) (log : Bool := false) (fresh : Bool := false) (pending : Bool := false)

variable {m : Parts}

/-- The state with the chosen parts blanked. -/
def State.outside (m : Parts) (s : State) : State where
  glb := bif m.glb then {} else s.glb
  tb := bif m.tb then {} else s.tb
  port := bif m.port then [] else s.port
  ring := bif m.ring then [] else s.ring
  head := bif m.head then [] else s.head
  headAcc := bif m.headAcc then [] else s.headAcc
  stair := bif m.stair then {} else s.stair
  rs := bif m.rs then {} else s.rs
  tally := bif m.tally then {} else s.tally
  pulse := bif m.pulse then {} else s.pulse
  spec := bif m.spec then {} else s.spec
  ev := bif m.ev then {} else s.ev
  plan := bif m.plan then {} else s.plan
  red := bif m.red then {} else s.red
  lc := bif m.lc then {} else s.lc
  cal := bif m.cal then {} else s.cal
  gal := bif m.gal then [] else s.gal
  mt := bif m.mt then {} else s.mt
  host := bif m.host then {} else s.host
  role := bif m.role then {} else s.role
  tmp := bif m.tmp then {} else s.tmp
  pwr := bif m.pwr then {} else s.pwr
  log := bif m.log then {} else s.log
  fresh := bif m.fresh then 0 else s.fresh
  pending := bif m.pending then [] else s.pending

/-- The state s with the chosen parts of t. -/
def State.onto (m : Parts) (s t : State) : State where
  glb := bif m.glb then t.glb else s.glb
  tb := bif m.tb then t.tb else s.tb
  port := bif m.port then t.port else s.port
  ring := bif m.ring then t.ring else s.ring
  head := bif m.head then t.head else s.head
  headAcc := bif m.headAcc then t.headAcc else s.headAcc
  stair := bif m.stair then t.stair else s.stair
  rs := bif m.rs then t.rs else s.rs
  tally := bif m.tally then t.tally else s.tally
  pulse := bif m.pulse then t.pulse else s.pulse
  spec := bif m.spec then t.spec else s.spec
  ev := bif m.ev then t.ev else s.ev
  plan := bif m.plan then t.plan else s.plan
  red := bif m.red then t.red else s.red
  lc := bif m.lc then t.lc else s.lc
  cal := bif m.cal then t.cal else s.cal
  gal := bif m.gal then t.gal else s.gal
  mt := bif m.mt then t.mt else s.mt
  host := bif m.host then t.host else s.host
  role := bif m.role then t.role else s.role
  tmp := bif m.tmp then t.tmp else s.tmp
  pwr := bif m.pwr then t.pwr else s.pwr
  log := bif m.log then t.log else s.log
  fresh := bif m.fresh then t.fresh else s.fresh
  pending := bif m.pending then t.pending else s.pending

theorem cond_blanked {α : Type} (b : Bool) (x y z : α) : (bif b then x else bif b then y else z) = bif b then x else z := by
  cases b <;> rfl

theorem State.onto_outside (m : Parts) (s t : State) : (s.outside m).onto m t = s.onto m t := by
  simp only [State.onto, State.outside]
  congr 1 <;> exact cond_blanked _ _ _ _

theorem State.onto_self (m : Parts) (s : State) : s.onto m s = s := by
  simp [State.onto]

/-- A state that differs from s in the chosen parts alone, as an equation. -/
theorem State.eq_onto {s t : State} (h : t.outside m = s.outside m) : t = s.onto m t := by
  rw [← State.onto_outside, ← h, State.onto_outside, State.onto_self]

/-- The parts of m are among those of n. -/
def Parts.sub (m n : Parts) : Bool :=
  (!m.glb || n.glb) && (!m.tb || n.tb) && (!m.port || n.port) && (!m.ring || n.ring) && (!m.head || n.head) && (!m.headAcc || n.headAcc) &&
  (!m.stair || n.stair) && (!m.rs || n.rs) && (!m.tally || n.tally) && (!m.pulse || n.pulse) && (!m.spec || n.spec) && (!m.ev || n.ev) &&
  (!m.plan || n.plan) && (!m.red || n.red) && (!m.lc || n.lc) && (!m.cal || n.cal) && (!m.gal || n.gal) && (!m.mt || n.mt) &&
  (!m.host || n.host) && (!m.role || n.role) && (!m.tmp || n.tmp) && (!m.pwr || n.pwr) && (!m.log || n.log) && (!m.fresh || n.fresh) &&
  (!m.pending || n.pending)

theorem cond_blanked_of_imp {α : Type} {a b : Bool} (h : (!a || b) = true) (x y : α) :
    (bif b then x else bif a then x else y) = bif b then x else y := by
  cases a <;> cases b <;> simp_all

theorem State.outside_outside {n : Parts} (h : m.sub n = true) (s : State) : (s.outside m).outside n = s.outside n := by
  simp only [Parts.sub, Bool.and_eq_true, and_assoc] at h
  simp only [State.outside]
  congr 1 <;> exact cond_blanked_of_imp (by simp only [h]) _ _

/-- What writes the parts of m alone writes no part but those of n. -/
theorem State.outside_mono {n : Parts} {s t : State} (h : m.sub n = true) (ho : t.outside m = s.outside m) : t.outside n = s.outside n := by
  rw [← State.outside_outside h t, ho, State.outside_outside h s]

/-! A part that is not chosen is as it was. -/

theorem State.glb_eq {s t : State} (hm : m.glb = false) (h : t.outside m = s.outside m) : t.glb = s.glb := by
  simpa [State.outside, hm] using congrArg State.glb h

theorem State.tb_eq {s t : State} (hm : m.tb = false) (h : t.outside m = s.outside m) : t.tb = s.tb := by
  simpa [State.outside, hm] using congrArg State.tb h

theorem State.port_eq {s t : State} (hm : m.port = false) (h : t.outside m = s.outside m) : t.port = s.port := by
  simpa [State.outside, hm] using congrArg State.port h

theorem State.ring_eq {s t : State} (hm : m.ring = false) (h : t.outside m = s.outside m) : t.ring = s.ring := by
  simpa [State.outside, hm] using congrArg State.ring h

theorem State.head_eq {s t : State} (hm : m.head = false) (h : t.outside m = s.outside m) : t.head = s.head := by
  simpa [State.outside, hm] using congrArg State.head h

theorem State.headAcc_eq {s t : State} (hm : m.headAcc = false) (h : t.outside m = s.outside m) : t.headAcc = s.headAcc := by
  simpa [State.outside, hm] using congrArg State.headAcc h

theorem State.stair_eq {s t : State} (hm : m.stair = false) (h : t.outside m = s.outside m) : t.stair = s.stair := by
  simpa [State.outside, hm] using congrArg State.stair h

theorem State.rs_eq {s t : State} (hm : m.rs = false) (h : t.outside m = s.outside m) : t.rs = s.rs := by
  simpa [State.outside, hm] using congrArg State.rs h

theorem State.tally_eq {s t : State} (hm : m.tally = false) (h : t.outside m = s.outside m) : t.tally = s.tally := by
  simpa [State.outside, hm] using congrArg State.tally h

theorem State.pulse_eq {s t : State} (hm : m.pulse = false) (h : t.outside m = s.outside m) : t.pulse = s.pulse := by
  simpa [State.outside, hm] using congrArg State.pulse h

theorem State.spec_eq {s t : State} (hm : m.spec = false) (h : t.outside m = s.outside m) : t.spec = s.spec := by
  simpa [State.outside, hm] using congrArg State.spec h

theorem State.ev_eq {s t : State} (hm : m.ev = false) (h : t.outside m = s.outside m) : t.ev = s.ev := by
  simpa [State.outside, hm] using congrArg State.ev h

theorem State.plan_eq {s t : State} (hm : m.plan = false) (h : t.outside m = s.outside m) : t.plan = s.plan := by
  simpa [State.outside, hm] using congrArg State.plan h

theorem State.red_eq {s t : State} (hm : m.red = false) (h : t.outside m = s.outside m) : t.red = s.red := by
  simpa [State.outside, hm] using congrArg State.red h

theorem State.lc_eq {s t : State} (hm : m.lc = false) (h : t.outside m = s.outside m) : t.lc = s.lc := by
  simpa [State.outside, hm] using congrArg State.lc h

theorem State.cal_eq {s t : State} (hm : m.cal = false) (h : t.outside m = s.outside m) : t.cal = s.cal := by
  simpa [State.outside, hm] using congrArg State.cal h

theorem State.gal_eq {s t : State} (hm : m.gal = false) (h : t.outside m = s.outside m) : t.gal = s.gal := by
  simpa [State.outside, hm] using congrArg State.gal h

theorem State.mt_eq {s t : State} (hm : m.mt = false) (h : t.outside m = s.outside m) : t.mt = s.mt := by
  simpa [State.outside, hm] using congrArg State.mt h

theorem State.host_eq {s t : State} (hm : m.host = false) (h : t.outside m = s.outside m) : t.host = s.host := by
  simpa [State.outside, hm] using congrArg State.host h

theorem State.role_eq {s t : State} (hm : m.role = false) (h : t.outside m = s.outside m) : t.role = s.role := by
  simpa [State.outside, hm] using congrArg State.role h

theorem State.tmp_eq {s t : State} (hm : m.tmp = false) (h : t.outside m = s.outside m) : t.tmp = s.tmp := by
  simpa [State.outside, hm] using congrArg State.tmp h

theorem State.pwr_eq {s t : State} (hm : m.pwr = false) (h : t.outside m = s.outside m) : t.pwr = s.pwr := by
  simpa [State.outside, hm] using congrArg State.pwr h

theorem State.log_eq {s t : State} (hm : m.log = false) (h : t.outside m = s.outside m) : t.log = s.log := by
  simpa [State.outside, hm] using congrArg State.log h

theorem State.fresh_eq {s t : State} (hm : m.fresh = false) (h : t.outside m = s.outside m) : t.fresh = s.fresh := by
  simpa [State.outside, hm] using congrArg State.fresh h

theorem State.pending_eq {s t : State} (hm : m.pending = false) (h : t.outside m = s.outside m) : t.pending = s.pending := by
  simpa [State.outside, hm] using congrArg State.pending h

@[simp] theorem outside_ite (c : Prop) [Decidable c] (s t : State) :
    (if c then s else t).outside m = if c then s.outside m else t.outside m :=
  apply_ite _ c s t

@[simp] theorem outside_each {α : Type} {f : State → α → State} (hf : ∀ s a, (f s a).outside m = s.outside m) (l : List α) (s : State) :
    (each l f s).outside m = s.outside m :=
  each_same (State.outside m) hf l s

@[simp] theorem outside_foldl {α : Type} {f : State → α → State} (hf : ∀ s a, (f s a).outside m = s.outside m) (l : List α) (s : State) :
    (l.foldl f s).outside m = s.outside m :=
  each_same (State.outside m) hf l s

@[simp] theorem outside_whenDo {f : State → State} (hf : ∀ s, (f s).outside m = s.outside m) (b : Bool) (s : State) :
    (whenDo b f s).outside m = s.outside m :=
  whenDo_keeps (·.outside m = s.outside m) (fun t ht => (hf t).trans ht) b rfl

section Updates

variable (s : State) {k : Nat}

theorem outside_set_glb (h : m.glb = true) (x : Glb) : ({ s with glb := x } : State).outside m = s.outside m := by
  simp [State.outside, h]

theorem outside_set_tb (h : m.tb = true) (x : Tb) : ({ s with tb := x } : State).outside m = s.outside m := by
  simp [State.outside, h]

theorem outside_set_port (h : m.port = true) (x : Tab Port) : ({ s with port := x } : State).outside m = s.outside m := by
  simp [State.outside, h]

theorem outside_set_ring (h : m.ring = true) (x : Tab Ring) : ({ s with ring := x } : State).outside m = s.outside m := by
  simp [State.outside, h]

theorem outside_set_head (h : m.head = true) (x : Tab Head) : ({ s with head := x } : State).outside m = s.outside m := by
  simp [State.outside, h]

theorem outside_set_headAcc (h : m.headAcc = true) (x : Tab HeadAcc) : ({ s with headAcc := x } : State).outside m = s.outside m := by
  simp [State.outside, h]

theorem outside_set_stair (h : m.stair = true) (x : Stair) : ({ s with stair := x } : State).outside m = s.outside m := by
  simp [State.outside, h]

theorem outside_set_rs (h : m.rs = true) (x : Resamp) : ({ s with rs := x } : State).outside m = s.outside m := by
  simp [State.outside, h]

theorem outside_set_tally (h : m.tally = true) (x : Tally) : ({ s with tally := x } : State).outside m = s.outside m := by
  simp [State.outside, h]

theorem outside_set_pulse (h : m.pulse = true) (x : Pulse) : ({ s with pulse := x } : State).outside m = s.outside m := by
  simp [State.outside, h]

theorem outside_set_spec (h : m.spec = true) (x : Spec) : ({ s with spec := x } : State).outside m = s.outside m := by
  simp [State.outside, h]

theorem outside_set_ev (h : m.ev = true) (x : Ev) : ({ s with ev := x } : State).outside m = s.outside m := by
  simp [State.outside, h]

theorem outside_set_plan (h : m.plan = true) (x : PlanIsl) : ({ s with plan := x } : State).outside m = s.outside m := by
  simp [State.outside, h]

theorem outside_set_red (h : m.red = true) (x : Red) : ({ s with red := x } : State).outside m = s.outside m := by
  simp [State.outside, h]

theorem outside_set_lc (h : m.lc = true) (x : Lc) : ({ s with lc := x } : State).outside m = s.outside m := by
  simp [State.outside, h]

theorem outside_set_cal (h : m.cal = true) (x : Cal) : ({ s with cal := x } : State).outside m = s.outside m := by
  simp [State.outside, h]

theorem outside_set_gal (h : m.gal = true) (x : Tab Gal) : ({ s with gal := x } : State).outside m = s.outside m := by
  simp [State.outside, h]

theorem outside_set_mt (h : m.mt = true) (x : MemTest) : ({ s with mt := x } : State).outside m = s.outside m := by
  simp [State.outside, h]

theorem outside_set_host (h : m.host = true) (x : HostIsl) : ({ s with host := x } : State).outside m = s.outside m := by
  simp [State.outside, h]

theorem outside_set_role (h : m.role = true) (x : Role) : ({ s with role := x } : State).outside m = s.outside m := by
  simp [State.outside, h]

theorem outside_set_tmp (h : m.tmp = true) (x : Tmp) : ({ s with tmp := x } : State).outside m = s.outside m := by
  simp [State.outside, h]

theorem outside_set_pwr (h : m.pwr = true) (x : Pwr) : ({ s with pwr := x } : State).outside m = s.outside m := by
  simp [State.outside, h]

theorem outside_set_log (h : m.log = true) (x : Log) : ({ s with log := x } : State).outside m = s.outside m := by
  simp [State.outside, h]

theorem outside_set_fresh (h : m.fresh = true) (x : Nat) : ({ s with fresh := x } : State).outside m = s.outside m := by
  simp [State.outside, h]

theorem outside_set_pending (h : m.pending = true) (x : List Instr) : ({ s with pending := x } : State).outside m = s.outside m := by
  simp [State.outside, h]

@[simp] theorem outside_modPort (h : m.port = true) (f : Port → Port) : (s.modPort k f).outside m = s.outside m :=
  outside_set_port s h _

@[simp] theorem outside_modRing (h : m.ring = true) (f : Ring → Ring) : (s.modRing k f).outside m = s.outside m :=
  outside_set_ring s h _

@[simp] theorem outside_modHead (h : m.head = true) (f : Head → Head) : (s.modHead k f).outside m = s.outside m :=
  outside_set_head s h _

@[simp] theorem outside_modHeadAcc (h : m.headAcc = true) (f : HeadAcc → HeadAcc) : (s.modHeadAcc k f).outside m = s.outside m :=
  outside_set_headAcc s h _

@[simp] theorem outside_modEng (h : m.stair = true) (f : Eng → Eng) : (s.modEng k f).outside m = s.outside m :=
  outside_set_stair s h _

@[simp] theorem outside_modStrm (h : m.stair = true) (f : Strm → Strm) : (s.modStrm k f).outside m = s.outside m :=
  outside_set_stair s h _

@[simp] theorem outside_modWp (h : m.stair = true) (f : Watch → Watch) : (s.modWp k f).outside m = s.outside m :=
  outside_set_stair s h _

@[simp] theorem outside_modGrp (h : m.rs = true) (f : Grp → Grp) : (s.modGrp k f).outside m = s.outside m :=
  outside_set_rs s h _

@[simp] theorem outside_modCtx (h : m.tally = true) (f : Ctx → Ctx) : (s.modCtx k f).outside m = s.outside m :=
  outside_set_tally s h _

@[simp] theorem outside_modUnit (h : m.tally = true) (f : Unit' → Unit') : (s.modUnit k f).outside m = s.outside m :=
  outside_set_tally s h _

@[simp] theorem outside_modOut (h : m.pulse = true) (f : PulseOut → PulseOut) : (s.modOut k f).outside m = s.outside m :=
  outside_set_pulse s h _

@[simp] theorem outside_modInp (h : m.pulse = true) (f : PulseIn → PulseIn) : (s.modInp k f).outside m = s.outside m :=
  outside_set_pulse s h _

@[simp] theorem outside_modSpBind (h : m.spec = true) (f : SpBind → SpBind) : (s.modSpBind k f).outside m = s.outside m :=
  outside_set_spec s h _

@[simp] theorem outside_modSpGrp (h : m.spec = true) (f : SpGrp → SpGrp) : (s.modSpGrp k f).outside m = s.outside m :=
  outside_set_spec s h _

@[simp] theorem outside_modSpEng (h : m.spec = true) (f : SpEng → SpEng) : (s.modSpEng k f).outside m = s.outside m :=
  outside_set_spec s h _

@[simp] theorem outside_modLane (h : m.spec = true) (f : ShLane → ShLane) : (s.modLane k f).outside m = s.outside m :=
  outside_set_spec s h _

@[simp] theorem outside_modEvc (h : m.ev = true) (f : EvCtx → EvCtx) : (s.modEvc k f).outside m = s.outside m :=
  outside_set_ev s h _

@[simp] theorem outside_modRedHead (h : m.red = true) (f : RedHead → RedHead) : (s.modRedHead k f).outside m = s.outside m :=
  outside_set_red s h _

@[simp] theorem outside_modRedNode (h : m.red = true) (f : RedNode → RedNode) : (s.modRedNode k f).outside m = s.outside m :=
  outside_set_red s h _

@[simp] theorem outside_modCalQ (h : m.cal = true) (f : CalQ → CalQ) : (s.modCalQ k f).outside m = s.outside m :=
  outside_set_cal s h _

@[simp] theorem outside_modGal (h : m.gal = true) (f : Gal → Gal) : (s.modGal k f).outside m = s.outside m :=
  outside_set_gal s h _

@[simp] theorem outside_modRolePort (h : m.role = true) (f : RolePort → RolePort) : (s.modRolePort k f).outside m = s.outside m :=
  outside_set_role s h _

@[simp] theorem outside_modHp (h : m.host = true) (f : Hp → Hp) : (s.modHp k f).outside m = s.outside m :=
  outside_set_host s h _

@[simp] theorem outside_modMon (h : m.tmp = true) (f : Mon → Mon) : (s.modMon k f).outside m = s.outside m :=
  outside_set_tmp s h _

@[simp] theorem outside_modLoop (h : m.tmp = true) (f : Loop → Loop) : (s.modLoop k f).outside m = s.outside m :=
  outside_set_tmp s h _

@[simp] theorem outside_modLogSrc (h : m.log = true) (f : LogSrc → LogSrc) : (s.modLogSrc k f).outside m = s.outside m :=
  outside_set_log s h _

@[simp] theorem outside_modLogPort (h : m.log = true) (f : LogPort → LogPort) : (s.modLogPort k f).outside m = s.outside m :=
  outside_set_log s h _

@[simp] theorem outside_modInj (h : m.lc = true) (f : LcInj → LcInj) : (s.modInj k f).outside m = s.outside m :=
  outside_set_lc s h _

@[simp] theorem outside_modGlbIsl (h : m.glb = true) (f : Glb → Glb) : (s.modGlbIsl f).outside m = s.outside m :=
  outside_set_glb s h _

@[simp] theorem outside_modTbIsl (h : m.tb = true) (f : Tb → Tb) : (s.modTbIsl f).outside m = s.outside m :=
  outside_set_tb s h _

@[simp] theorem outside_modStairIsl (h : m.stair = true) (f : Stair → Stair) : (s.modStairIsl f).outside m = s.outside m :=
  outside_set_stair s h _

@[simp] theorem outside_modRsIsl (h : m.rs = true) (f : Resamp → Resamp) : (s.modRsIsl f).outside m = s.outside m :=
  outside_set_rs s h _

@[simp] theorem outside_modTallyIsl (h : m.tally = true) (f : Tally → Tally) : (s.modTallyIsl f).outside m = s.outside m :=
  outside_set_tally s h _

@[simp] theorem outside_modSpecIsl (h : m.spec = true) (f : Spec → Spec) : (s.modSpecIsl f).outside m = s.outside m :=
  outside_set_spec s h _

@[simp] theorem outside_modEvIsl (h : m.ev = true) (f : Ev → Ev) : (s.modEvIsl f).outside m = s.outside m :=
  outside_set_ev s h _

@[simp] theorem outside_modPlanIsl (h : m.plan = true) (f : PlanIsl → PlanIsl) : (s.modPlanIsl f).outside m = s.outside m :=
  outside_set_plan s h _

@[simp] theorem outside_modRedIsl (h : m.red = true) (f : Red → Red) : (s.modRedIsl f).outside m = s.outside m :=
  outside_set_red s h _

@[simp] theorem outside_modLcIsl (h : m.lc = true) (f : Lc → Lc) : (s.modLcIsl f).outside m = s.outside m :=
  outside_set_lc s h _

@[simp] theorem outside_modCalIsl (h : m.cal = true) (f : Cal → Cal) : (s.modCalIsl f).outside m = s.outside m :=
  outside_set_cal s h _

@[simp] theorem outside_modMtIsl (h : m.mt = true) (f : MemTest → MemTest) : (s.modMtIsl f).outside m = s.outside m :=
  outside_set_mt s h _

@[simp] theorem outside_modHostIsl (h : m.host = true) (f : HostIsl → HostIsl) : (s.modHostIsl f).outside m = s.outside m :=
  outside_set_host s h _

@[simp] theorem outside_modRoleIsl (h : m.role = true) (f : Role → Role) : (s.modRoleIsl f).outside m = s.outside m :=
  outside_set_role s h _

@[simp] theorem outside_modTmpIsl (h : m.tmp = true) (f : Tmp → Tmp) : (s.modTmpIsl f).outside m = s.outside m :=
  outside_set_tmp s h _

@[simp] theorem outside_modPwrIsl (h : m.pwr = true) (f : Pwr → Pwr) : (s.modPwrIsl f).outside m = s.outside m :=
  outside_set_pwr s h _

@[simp] theorem outside_modLogIsl (h : m.log = true) (f : Log → Log) : (s.modLogIsl f).outside m = s.outside m :=
  outside_set_log s h _

end Updates

@[simp] theorem outside_sendEnt (h : m.log = true) (src : Nat) (e : LogEnt) (s : State) : (sendEnt src e s).outside m = s.outside m := by
  rw [sendEnt_eq]
  exact outside_set_log s h _

@[simp] theorem outside_raise (h : m.log = true) (c : LogCode) (i : Nat) (l : List (Nat × Nat)) (s : State) :
    (raise c i l s).outside m = s.outside m :=
  outside_sendEnt h _ _ s

@[simp] theorem outside_raiseAt (h : m.log = true) (c : LogCode) (w i : Nat) (l : List (Nat × Nat)) (s : State) :
    (raiseAt c w i l s).outside m = s.outside m :=
  outside_sendEnt h _ _ s

@[simp] theorem outside_raiseSev (h : m.log = true) (c : LogCode) (v w i : Nat) (l : List (Nat × Nat)) (s : State) :
    (raiseSev c v w i l s).outside m = s.outside m :=
  outside_sendEnt h _ _ s

@[simp] theorem outside_irqPort (h : m.host = true) (b p : Nat) (s : State) : (irqPort b p s).outside m = s.outside m :=
  outside_modHp s h _

@[simp] theorem outside_irqAll (h : m.host = true) (b : Nat) (s : State) : (irqAll b s).outside m = s.outside m := by
  simp [irqAll, h]

@[simp] theorem outside_galSettle (h : m.gal = true) (g : Nat) (s : State) : (galSettle g s).outside m = s.outside m :=
  outside_modGal s h _

/-- A record changes no entry of another part. -/
@[simp] theorem gets_sendEnt (src : Nat) (e : LogEnt) (s : State) (j : Nat) :
    (sendEnt src e s).getPort j = s.getPort j ∧ (sendEnt src e s).getRing j = s.getRing j ∧ (sendEnt src e s).getHead j = s.getHead j ∧
      (sendEnt src e s).getHeadAcc j = s.getHeadAcc j ∧ (sendEnt src e s).getEng j = s.getEng j ∧
      (sendEnt src e s).getStrm j = s.getStrm j ∧ (sendEnt src e s).getWp j = s.getWp j ∧ (sendEnt src e s).getGrp j = s.getGrp j ∧
      (sendEnt src e s).getCtx j = s.getCtx j ∧ (sendEnt src e s).getUnit j = s.getUnit j ∧ (sendEnt src e s).getOut j = s.getOut j ∧
      (sendEnt src e s).getInp j = s.getInp j ∧ (sendEnt src e s).getSpBind j = s.getSpBind j ∧
      (sendEnt src e s).getSpGrp j = s.getSpGrp j ∧ (sendEnt src e s).getSpEng j = s.getSpEng j ∧
      (sendEnt src e s).getLane j = s.getLane j ∧ (sendEnt src e s).getEvc j = s.getEvc j ∧
      (sendEnt src e s).getRedHead j = s.getRedHead j ∧ (sendEnt src e s).getRedNode j = s.getRedNode j ∧
      (sendEnt src e s).getCalQ j = s.getCalQ j ∧ (sendEnt src e s).getGal j = s.getGal j ∧
      (sendEnt src e s).getRolePort j = s.getRolePort j ∧ (sendEnt src e s).getHp j = s.getHp j ∧
      (sendEnt src e s).getMon j = s.getMon j ∧ (sendEnt src e s).getLoop j = s.getLoop j ∧ (sendEnt src e s).getInj j = s.getInj j := by
  rw [sendEnt_eq]
  and_intros <;> rfl

@[simp] theorem gets_raise (c : LogCode) (i : Nat) (l : List (Nat × Nat)) (s : State) (j : Nat) :
    (raise c i l s).getPort j = s.getPort j ∧ (raise c i l s).getRing j = s.getRing j ∧ (raise c i l s).getHead j = s.getHead j ∧
      (raise c i l s).getHeadAcc j = s.getHeadAcc j ∧ (raise c i l s).getEng j = s.getEng j ∧ (raise c i l s).getStrm j = s.getStrm j ∧
      (raise c i l s).getWp j = s.getWp j ∧ (raise c i l s).getGrp j = s.getGrp j ∧ (raise c i l s).getCtx j = s.getCtx j ∧
      (raise c i l s).getUnit j = s.getUnit j ∧ (raise c i l s).getOut j = s.getOut j ∧ (raise c i l s).getInp j = s.getInp j ∧
      (raise c i l s).getSpBind j = s.getSpBind j ∧ (raise c i l s).getSpGrp j = s.getSpGrp j ∧
      (raise c i l s).getSpEng j = s.getSpEng j ∧ (raise c i l s).getLane j = s.getLane j ∧ (raise c i l s).getEvc j = s.getEvc j ∧
      (raise c i l s).getRedHead j = s.getRedHead j ∧ (raise c i l s).getRedNode j = s.getRedNode j ∧
      (raise c i l s).getCalQ j = s.getCalQ j ∧ (raise c i l s).getGal j = s.getGal j ∧ (raise c i l s).getRolePort j = s.getRolePort j ∧
      (raise c i l s).getHp j = s.getHp j ∧ (raise c i l s).getMon j = s.getMon j ∧ (raise c i l s).getLoop j = s.getLoop j ∧
      (raise c i l s).getInj j = s.getInj j :=
  gets_sendEnt _ _ s j

@[simp] theorem gets_raiseAt (c : LogCode) (w i : Nat) (l : List (Nat × Nat)) (s : State) (j : Nat) :
    (raiseAt c w i l s).getPort j = s.getPort j ∧ (raiseAt c w i l s).getRing j = s.getRing j ∧
      (raiseAt c w i l s).getHead j = s.getHead j ∧ (raiseAt c w i l s).getHeadAcc j = s.getHeadAcc j ∧
      (raiseAt c w i l s).getEng j = s.getEng j ∧ (raiseAt c w i l s).getStrm j = s.getStrm j ∧ (raiseAt c w i l s).getWp j = s.getWp j ∧
      (raiseAt c w i l s).getGrp j = s.getGrp j ∧ (raiseAt c w i l s).getCtx j = s.getCtx j ∧
      (raiseAt c w i l s).getUnit j = s.getUnit j ∧ (raiseAt c w i l s).getOut j = s.getOut j ∧
      (raiseAt c w i l s).getInp j = s.getInp j ∧ (raiseAt c w i l s).getSpBind j = s.getSpBind j ∧
      (raiseAt c w i l s).getSpGrp j = s.getSpGrp j ∧ (raiseAt c w i l s).getSpEng j = s.getSpEng j ∧
      (raiseAt c w i l s).getLane j = s.getLane j ∧ (raiseAt c w i l s).getEvc j = s.getEvc j ∧
      (raiseAt c w i l s).getRedHead j = s.getRedHead j ∧ (raiseAt c w i l s).getRedNode j = s.getRedNode j ∧
      (raiseAt c w i l s).getCalQ j = s.getCalQ j ∧ (raiseAt c w i l s).getGal j = s.getGal j ∧
      (raiseAt c w i l s).getRolePort j = s.getRolePort j ∧ (raiseAt c w i l s).getHp j = s.getHp j ∧
      (raiseAt c w i l s).getMon j = s.getMon j ∧ (raiseAt c w i l s).getLoop j = s.getLoop j ∧
      (raiseAt c w i l s).getInj j = s.getInj j :=
  gets_sendEnt _ _ s j

@[simp] theorem gets_galSettle (g : Nat) (s : State) (j : Nat) :
    (galSettle g s).getPort j = s.getPort j ∧ (galSettle g s).getRing j = s.getRing j ∧ (galSettle g s).getHead j = s.getHead j ∧
      (galSettle g s).getHeadAcc j = s.getHeadAcc j ∧ (galSettle g s).getEng j = s.getEng j ∧ (galSettle g s).getStrm j = s.getStrm j ∧
      (galSettle g s).getWp j = s.getWp j ∧ (galSettle g s).getGrp j = s.getGrp j ∧ (galSettle g s).getCtx j = s.getCtx j ∧
      (galSettle g s).getUnit j = s.getUnit j ∧ (galSettle g s).getOut j = s.getOut j ∧ (galSettle g s).getInp j = s.getInp j ∧
      (galSettle g s).getSpBind j = s.getSpBind j ∧ (galSettle g s).getSpGrp j = s.getSpGrp j ∧
      (galSettle g s).getSpEng j = s.getSpEng j ∧ (galSettle g s).getLane j = s.getLane j ∧ (galSettle g s).getEvc j = s.getEvc j ∧
      (galSettle g s).getRedHead j = s.getRedHead j ∧ (galSettle g s).getRedNode j = s.getRedNode j ∧
      (galSettle g s).getCalQ j = s.getCalQ j ∧ (galSettle g s).getRolePort j = s.getRolePort j ∧ (galSettle g s).getHp j = s.getHp j ∧
      (galSettle g s).getMon j = s.getMon j ∧ (galSettle g s).getLoop j = s.getLoop j ∧ (galSettle g s).getLogSrc j = s.getLogSrc j ∧
      (galSettle g s).getLogPort j = s.getLogPort j ∧ (galSettle g s).getInj j = s.getInj j := by
  and_intros <;> rfl

end Sys2Proof.Machine
end

section
-- One proof after another: elaborated side by side they take more memory than the check allows.
set_option Elab.async false
/-! PROOF. The islands' clocks (O6): what a lost island's contents write, what they leave retired or down, and what stands in a trouble
channel still does. -/

namespace Sys2Proof.Machine

open Sys2Proof.Cert

variable {m : Parts}

/-! ## What the operations on an island's contents write -/

@[simp] theorem outside_galPuts (h : m.gal = true) (g a : Nat) (bs : List Byte) (s : State) : (galPuts g a bs s).outside m = s.outside m := by
  simp [galPuts, h]

@[simp] theorem outside_dropService (h : m.ring = true) (r : Nat) (s : State) : (dropService r s).outside m = s.outside m := by
  simp [dropService, h]

@[simp] theorem outside_retirePort (hp : m.port = true) (hr : m.ring = true) (hl : m.log = true) (c k : Nat) (s : State) :
    (retirePort c k s).outside m = s.outside m := by
  simp [retirePort, hp, hr, hl]

@[simp] theorem outside_retireEngine (hs : m.stair = true) (hl : m.log = true) (c e : Nat) (s : State) :
    (retireEngine c e s).outside m = s.outside m := by
  simp [retireEngine, hs, hl]

@[simp] theorem outside_loseStair (hs : m.stair = true) (hl : m.log = true) (s : State) : (loseStair s).outside m = s.outside m := by
  simp [loseStair, hs, hl]

@[simp] theorem outside_loseTallies (ht : m.tally = true) (hr : m.red = true) (hl : m.log = true) (s : State) :
    (loseTallies s).outside m = s.outside m := by
  simp [loseTallies, ht, hr, hl]

@[simp] theorem outside_putShRecord (hg : m.gal = true) (a : Nat) (bs : List Byte) (s : State) :
    (putShRecord a bs s).outside m = s.outside m := by
  simp [putShRecord, hg]

@[simp] theorem outside_copyShPage (hg : m.gal = true) (i k : Nat) (s : State) : (copyShPage i k s).outside m = s.outside m := by
  simp [copyShPage, hg]

@[simp] theorem outside_openShPage (hs : m.spec = true) (hg : m.gal = true) (k : Nat) (s : State) :
    (openShPage k s).outside m = s.outside m := by
  simp [openShPage, hs, hg]

@[simp] theorem outside_putShPages (hg : m.gal = true) (k a : Nat) (bs : List Byte) (s : State) :
    (putShPages k a bs s).outside m = s.outside m := by
  simp [putShPages, hg]

@[simp] theorem outside_endVisit (hs : m.spec = true) (hg : m.gal = true) (k l : Nat) (cut : Bool) (s : State) :
    (endVisit k l cut s).outside m = s.outside m := by
  unfold endVisit
  extract_lets x
  split
  · rfl
  · simp [hs, hg]

@[simp] theorem outside_loseSpectral (hs : m.spec = true) (hg : m.gal = true) (hr : m.red = true) (hl : m.log = true) (s : State) :
    (loseSpectral s).outside m = s.outside m := by
  simp [loseSpectral, hs, hg, hr, hl]

@[simp] theorem outside_putEvRec (he : m.ev = true) (hg : m.gal = true) (r : EvRec) (s : State) :
    (putEvRec s r).outside m = s.outside m := by
  simp [putEvRec, he, hg]

@[simp] theorem outside_writeRecs (he : m.ev = true) (hg : m.gal = true) (c k : Nat) (s : State) :
    (writeRecs c k s).outside m = s.outside m := by
  simp [writeRecs, he, hg]

@[simp] theorem outside_eventUnitDown (he : m.ev = true) (hg : m.gal = true) (hl : m.log = true) (c : Nat) (s : State) :
    (eventUnitDown c s).outside m = s.outside m := by
  simp [eventUnitDown, he, hg, hl]

@[simp] theorem outside_withdraw (h : m.head = true) (i : Nat) (d : Bool) (s : State) : (withdraw i d s).outside m = s.outside m := by
  simp [withdraw, h]

@[simp] theorem outside_endOuting (hh : m.head = true) (hlc : m.lc = true) (hc : m.cal = true) (hho : m.host = true) (hl : m.log = true)
    (i r : Nat) (s : State) : (endOuting i r s).outside m = s.outside m := by
  unfold endOuting
  extract_lets q s₁ s₂ s₃ s₄
  have h₁ : s₁.outside m = s.outside m := by simp [s₁, hh]
  have h₂ : s₂.outside m = s.outside m := by simp [s₂, hlc, h₁]
  have h₃ : s₃.outside m = s.outside m := by simp [s₃, hc, h₂]
  have h₄ : s₄.outside m = s.outside m := by
    unfold s₄
    split <;> simp [hl, h₃]
  simp [hho, h₄]

@[simp] theorem outside_lcInjEnd (hlc : m.lc = true) (i r : Nat) (s : State) : (lcInjEnd i r s).outside m = s.outside m := by
  simp [lcInjEnd, hlc]

@[simp] theorem outside_lcDown (hh : m.head = true) (hlc : m.lc = true) (hc : m.cal = true) (hho : m.host = true) (hl : m.log = true)
    (s : State) : (lcDown s).outside m = s.outside m := by
  unfold lcDown
  extract_lets s₁ s₂ s₃
  have h₁ : s₁.outside m = s.outside m := by simp [s₁, hlc]
  have h₂ : s₂.outside m = s₁.outside m := outside_each (fun t i => by simp [hlc]) _ _
  have h₃ : s₃.outside m = s₂.outside m := outside_each (fun t i => by simp [hh, hlc, hc, hho, hl]) _ _
  simp [hl, h₁, h₂, h₃]

@[simp] theorem outside_startLocalTrims (hc : m.cal = true) (hl : m.log = true) (s : State) :
    (startLocalTrims s).outside m = s.outside m := by
  unfold startLocalTrims
  extract_lets s₁
  have h₁ : s₁.outside m = s.outside m := by
    refine outside_each (fun u i => ?_) _ _
    split <;> simp [hc, hl]
  simp [hc, h₁]

/-! ## Loops that reach an end -/

/-- What the step for one entry of the list brings about, and every step keeps, holds after the loop. -/
theorem each_establishes {α : Type} {P : State → Prop} {f : State → α → State} {l : List α} (hk : ∀ s b, P s → P (f s b)) {a : α}
    (ha : ∀ s, P (f s a)) (hmem : a ∈ l) (s : State) : P (each l f s) := by
  induction l generalizing s with
  | nil => cases hmem
  | cons b l ih =>
    rw [each_cons]
    rcases List.mem_cons.1 hmem with rfl | h
    · exact each_keeps P hk l (ha s)
    · exact ih h _

/-! ## Lost contents (R31, R33) -/

theorem st_retireEngine (c e i : Nat) (s : State) :
    ((retireEngine c e s).getEng i).st = if i = e then .retired else (s.getEng i).st := by
  unfold retireEngine
  simp only [gets_raise]
  split
  · next h => subst h; rw [State.getEng_modEng]
  · next h => rw [State.getEng_modEng_ne _ _ _ _ h]

/-- R31: every engine of a lost staircase is retired. -/
theorem st_loseStair (s : State) {e : Nat} (he : e < 33) : ((loseStair s).getEng e).st = .retired := by
  unfold loseStair
  have hkeep : ∀ (t : State) (b : Nat), (t.getEng e).st = .retired → ((retireEngine 2 b t).getEng e).st = .retired := by
    intro t b h; rw [st_retireEngine, h, ite_self]
  by_cases h : (s.getEng e).st = .retired
  · exact each_keeps (fun t => (t.getEng e).st = .retired) hkeep _ h
  · refine each_establishes (P := fun t => (t.getEng e).st = .retired) hkeep (a := e) (fun t => ?_) ?_ _
    · rw [st_retireEngine, if_pos rfl]
    · simp [he, h]

/-- What a lost tally island does to one unit. -/
def dropUnit (s : State) (u : Nat) : State :=
  raise .tallyRetired u [(1, 1), (1, 0xFF)] (s.modUnit u (fun x => { x with retired := true, replay := none }))

theorem loseTallies_eq (s : State) : loseTallies s =
    ((each ((List.range 9).filter (fun u => !(s.getUnit u).retired)) dropUnit s).modTallyIsl (fun y =>
      { y with unitOf := y.unitOf.map (fun e => (e.1, 15)) })).modRedIsl (fun r => { r with noSpare := true }) := rfl

theorem retired_dropUnit (s : State) (u i : Nat) :
    ((dropUnit s u).getUnit i).retired = if i = u then true else (s.getUnit i).retired := by
  unfold dropUnit
  simp only [gets_raise]
  split
  · next h => subst h; rw [State.getUnit_modUnit]
  · next h => rw [State.getUnit_modUnit_ne _ _ _ _ h]

theorem getCtx_dropUnit (s : State) (u c : Nat) : (dropUnit s u).getCtx c = s.getCtx c := by
  simp [dropUnit]

/-- R31: every unit of a lost tally island is retired; no context changes. -/
theorem retired_loseTallies (s : State) {u : Nat} (hu : u < 9) : ((loseTallies s).getUnit u).retired = true := by
  rw [loseTallies_eq]
  have hkeep : ∀ (t : State) (b : Nat), (t.getUnit u).retired = true → ((dropUnit t b).getUnit u).retired = true := by
    intro t b h; rw [retired_dropUnit, h, ite_self]
  by_cases h : (s.getUnit u).retired = true
  · exact each_keeps (fun t => (t.getUnit u).retired = true) hkeep _ h
  · refine each_establishes (P := fun t => (t.getUnit u).retired = true) hkeep (a := u) (fun t => ?_) ?_ _
    · rw [retired_dropUnit, if_pos rfl]
    · simp [hu, h]

theorem getCtx_loseTallies (s : State) (c : Nat) : (loseTallies s).getCtx c = s.getCtx c := by
  rw [loseTallies_eq]
  exact each_same (State.getCtx · c) (fun t u => getCtx_dropUnit t u c) _ s

/-- What a lost spectral island does to one engine. -/
def dropSpEng (s : State) (e : Nat) : State :=
  raise (if e < 5 then .harmRetired else .shRetired) (if e < 5 then e else e - 5) [(1, 1), (1, 0xFF)]
    (s.modSpEng e (fun x => { x with retired := true, replay := none, taking := false }))

theorem retired_dropSpEng (s : State) (u i : Nat) :
    ((dropSpEng s u).getSpEng i).retired = if i = u then true else (s.getSpEng i).retired := by
  unfold dropSpEng
  simp only [gets_raise]
  split
  · next h => subst h; rw [State.getSpEng_modSpEng]
  · next h => rw [State.getSpEng_modSpEng_ne _ _ _ _ h]

/-- The engines of a lost spectral island, dropped. -/
def dropSpEngs (s : State) : State := each ((List.range 7).filter (fun e => !(s.getSpEng e).retired)) dropSpEng s

theorem retired_dropSpEngs (s : State) {e : Nat} (he : e < 7) : ((dropSpEngs s).getSpEng e).retired = true := by
  have hkeep : ∀ (t : State) (b : Nat), (t.getSpEng e).retired = true → ((dropSpEng t b).getSpEng e).retired = true := by
    intro t b h; rw [retired_dropSpEng, h, ite_self]
  by_cases h : (s.getSpEng e).retired = true
  · exact each_keeps (fun t => (t.getSpEng e).retired = true) hkeep _ h
  · refine each_establishes (P := fun t => (t.getSpEng e).retired = true) hkeep (a := e) (fun t => ?_) ?_ _
    · rw [retired_dropSpEng, if_pos rfl]
    · simp [he, h]

theorem retired_loseSpectral (s : State) {e : Nat} (he : e < 7) : ((loseSpectral s).getSpEng e).retired = true := by
  unfold loseSpectral
  extract_lets k s₁ s₂
  have h₂ : (s₂.getSpEng e).retired = true := retired_dropSpEngs s₁ he
  clear_value s₂
  simp only [gets_galSettle, State.gets_modRedIsl]
  exact h₂

theorem down_eventUnitDown (c : Nat) (s : State) : (eventUnitDown c s).ev.down = true := by
  unfold eventUnitDown
  extract_lets cs s₁ s₂
  rw [raise_eq]
  rfl

theorem down_lcInjEnd (i r : Nat) (s : State) : (lcInjEnd i r s).lc.down = s.lc.down := rfl

theorem down_endOuting (i r : Nat) (s : State) : (endOuting i r s).lc.down = s.lc.down := by
  unfold endOuting
  extract_lets q s₁ s₂ s₃ s₄
  have h₁ : s₁.lc = s.lc := State.lc_eq (m := { head := true }) rfl (by simp [s₁])
  have h₂ : s₂.lc.down = s.lc.down := by
    rw [← h₁]
    unfold s₂ whenDo
    split
    · simp only [State.modLcIsl_lc]; split <;> rfl
    · rfl
  have h₃ : s₄.lc = s₂.lc := State.lc_eq (m := { cal := true, log := true }) rfl (by unfold s₄ s₃; split <;> simp)
  have h₅ : (irqAll irqCal s₄).lc = s₄.lc := State.lc_eq (m := { host := true }) rfl (by simp)
  rw [h₅, h₃, h₂]

/-- R31: the local converter of a lost analogue island is down. -/
theorem down_lcDown (s : State) : (lcDown s).lc.down = true := by
  unfold lcDown
  extract_lets s₁ s₂ s₃
  have h₁ : s₁.lc.down = true := by
    unfold s₁
    rw [State.modLcIsl_lc]
  have h₂ : s₂.lc.down = s₁.lc.down := by
    unfold s₂
    exact each_same (fun t => t.lc.down) (fun t i => whenDo_keeps (fun u => u.lc.down = t.lc.down)
      (fun u hu => (down_lcInjEnd i 2 u).trans hu) _ rfl) _ _
  have h₃ : s₃.lc.down = s₂.lc.down := by
    unfold s₃
    exact each_same (fun t => t.lc.down) (fun t i => whenDo_keeps (fun u => u.lc.down = t.lc.down)
      (fun u hu => (down_endOuting i 5 u).trans hu) _ rfl) _ _
  clear_value s₃
  simp only [raise_same, h₃, h₂, h₁]

/-! ## Clocks (R12) -/

theorem bit_not (w : Word) {i : Nat} (h : i < 32) : bit (~~~w) i = !bit w i := by
  simp [bit, h]

theorem bit_putBit (w : Word) {i : Nat} (hi : i < 32) (b : Bool) (j : Nat) : bit (putBit w i b) j = if j = i then b else bit w j := by
  have hp : bit (BitVec.ofNat 32 (2 ^ i)) j = decide (j = i) := by
    simp only [bit, BitVec.getLsbD_ofNat, Nat.testBit_two_pow]
    by_cases h : j = i
    · subst h; simp [hi]
    · simp [h, Ne.symm h]
  cases b
  · by_cases hj : j < 32
    · simp only [putBit, Bool.false_eq_true, if_false]
      rw [show bit (w &&& ~~~BitVec.ofNat 32 (2 ^ i)) j = (bit w j && bit (~~~BitVec.ofNat 32 (2 ^ i)) j) from BitVec.getLsbD_and, bit_not _ hj, hp]
      by_cases h : j = i <;> simp [h]
    · have : ∀ x : Word, bit x j = false := fun x => BitVec.getLsbD_of_ge x j (by omega)
      simp [this]
  · simp only [putBit, if_true, bit_or, hp]
    by_cases h : j = i <;> simp [h]

theorem islBit_lt (i : Island) : islBit i < 32 := by
  unfold islBit
  split <;> decide

/-- An island whose clock bit was put, and no other. -/
theorem up_putBit {s t : State} (hpwr : t.pwr = s.pwr) {i : Nat} (hi : i < 32) {b : Bool} (hlock : t.glb.lock = putBit s.glb.lock i b) :
    t.up i = (s.pwr.mainOn && b) ∧ ∀ j, j ≠ i → t.up j = s.up j := by
  refine ⟨?_, fun j hj => ?_⟩
  · rw [State.up, hpwr, hlock, bit_putBit _ hi, if_pos rfl]
  · rw [State.up, hpwr, hlock, bit_putBit _ hi, if_neg hj, State.up]

theorem linkUp_putBit {s t : State} (hpwr : t.pwr = s.pwr) {i : Nat} (hi : i < 32) {b : Bool}
    (hlock : t.glb.linkLock = putBit s.glb.linkLock i b) :
    t.linkUp i = (s.pwr.mainOn && b) ∧ ∀ j, j ≠ i → t.linkUp j = s.linkUp j := by
  refine ⟨?_, fun j hj => ?_⟩
  · rw [State.linkUp, hpwr, hlock, bit_putBit _ hi, if_pos rfl]
  · rw [State.linkUp, hpwr, hlock, bit_putBit _ hi, if_neg hj, State.linkUp]

/-- R12: a link island leaves reset. -/
theorem linkReset_released (r : Fin 32) {s : State} (hon : s.pwr.mainOn = true) (hlost : bit s.glb.linkLost r = false) :
    ∃ t, exec (.islandResetRelease (.link r)) s = .next t ∧ t.linkUp r = true ∧
      (∀ q, q < 32 → q ≠ r.val → t.linkUp q = s.linkUp q) ∧ t = { s with glb := { s.glb with linkLock := t.glb.linkLock } } := by
  have hexec : exec (.islandResetRelease (.link r)) s =
      .next (s.modGlbIsl (fun g => { g with linkLock := putBit g.linkLock r true })) := by
    simp only [exec, execIslandResetRelease, hon, if_true, releaseIsland, hlost, Bool.false_eq_true, if_false]
  obtain ⟨h1, h2⟩ := linkUp_putBit (s := s) (b := true) (t := s.modGlbIsl (fun g => { g with linkLock := putBit g.linkLock r true })) rfl r.isLt rfl
  exact ⟨_, hexec, by rw [h1, hon]; rfl, fun q _ hq => h2 q hq, rfl⟩

/-- R353: a correction of the local converter that the store does not hold is said once. -/
def noteLocalTrim (s : State) (i : Nat) : State :=
  match s.cal.store.find? (fun e => e.1 == 4096 + i) with
  | some e => whenDo (!e.2.ok && !e.2.said) (fun s =>
      raise .calStoreBad i [] (s.modCalIsl (fun c => { c with store := tset c.store (4096 + i) { e.2 with said := true } }))) s
  | none => s

theorem noteLocalTrim_frame (s : State) (i : Nat) : noteLocalTrim s i =
    { s with cal := { s.cal with store := (noteLocalTrim s i).cal.store }, log := (noteLocalTrim s i).log } := by
  unfold noteLocalTrim
  split
  · unfold whenDo
    split
    · dsimp only; rw [raise_eq]; rfl
    · rfl
  · rfl

theorem each_noteLocalTrim_frame (l : List Nat) (s : State) : each l noteLocalTrim s =
    { s with cal := { s.cal with store := (each l noteLocalTrim s).cal.store }, log := (each l noteLocalTrim s).log } := by
  induction l generalizing s with
  | nil => rfl
  | cons a l ih => rw [each_cons, ih, noteLocalTrim_frame]

/-- The corrections of the local converter that a start takes from the store. -/
def Cal.withLocalTrims (c : Cal) : Cal := { c with
  trimL := (List.range 36).filterMap (fun i => match c.store.find? (fun e => e.1 == 4096 + i) with
    | some e => if e.2.ok then some (i, (e.2.trimP, e.2.srcP)) else none
    | none => none) }

theorem startLocalTrims_eq (s : State) : startLocalTrims s = (each (List.range 36) noteLocalTrim s).modCalIsl Cal.withLocalTrims := rfl

theorem startLocalTrims_frame (s : State) : startLocalTrims s =
    { s with cal := { s.cal with trimL := (startLocalTrims s).cal.trimL, store := (startLocalTrims s).cal.store }
             log := (startLocalTrims s).log } := by
  rw [startLocalTrims_eq]
  have h := each_noteLocalTrim_frame (List.range 36) s
  generalize each (List.range 36) noteLocalTrim s = t at h ⊢
  rw [h]
  rfl

theorem releaseIsland_eq {i : Island} {s : State} (hi : ∀ r, i ≠ .link r) (ha : i ≠ .analogue) : releaseIsland i s =
    if bit s.glb.lost (islBit i) then s else s.modGlbIsl (fun g => { g with lock := putBit g.lock (islBit i) true }) := by
  cases i with
  | link r => exact absurd rfl (hi r)
  | analogue => exact absurd rfl ha
  | _ => rfl

/-- R12: another island leaves reset. -/
theorem islandReset_released {i : Island} {s : State} (hon : s.pwr.mainOn = true) (hi : ∀ r, i ≠ .link r)
    (hlost : bit s.glb.lost (islBit i) = false) (hdown : i = .analogue → s.up islAnalog = false) :
    ∃ t, exec (.islandResetRelease i) s = .next t ∧ t.up (islBit i) = true ∧
       (∀ b, b < 32 → b ≠ islBit i → t.up b = s.up b) ∧
       t = { s with glb := { s.glb with lock := t.glb.lock }, cal := { s.cal with trimL := t.cal.trimL, store := t.cal.store }, log := t.log } ∧
       (i ≠ .analogue → t.cal = s.cal ∧ t.log = s.log) := by
  have hrel := up_putBit (s := s) (b := true) (t := s.modGlbIsl (fun g => { g with lock := putBit g.lock (islBit i) true })) rfl (islBit_lt i) rfl
  obtain ⟨h1, h2⟩ := hrel
  by_cases ha : i = .analogue
  · subst ha
    have hlock : bit s.glb.lock islAnalog = false := by simpa [State.up, hon] using hdown rfl
    have hexec : exec (.islandResetRelease .analogue) s =
        .next (startLocalTrims (s.modGlbIsl (fun g => { g with lock := putBit g.lock islAnalog true }))) := by
      simp only [exec, execIslandResetRelease, hon, if_true, releaseIsland, hlock, show bit s.glb.lost islAnalog = false from hlost,
        Bool.or_false, Bool.false_eq_true, if_false]
    have hframe := startLocalTrims_frame (s.modGlbIsl (fun g => { g with lock := putBit g.lock islAnalog true }))
    refine ⟨_, hexec, ?_⟩
    generalize startLocalTrims _ = t at hframe ⊢
    have hup : ∀ b, t.up b = (s.modGlbIsl (fun g => { g with lock := putBit g.lock islAnalog true })).up b := by
      intro b; rw [hframe]; rfl
    refine ⟨(hup _).trans (h1.trans (by rw [hon]; rfl)), fun b _ hb => (hup b).trans (h2 b hb), ?_, fun h => absurd rfl h⟩
    rw [hframe]
    rfl
  · have hexec : exec (.islandResetRelease i) s = .next (s.modGlbIsl (fun g => { g with lock := putBit g.lock (islBit i) true })) := by
      simp only [exec, execIslandResetRelease, hon, if_true, releaseIsland_eq hi ha, hlost, Bool.false_eq_true, if_false]
    exact ⟨_, hexec, h1.trans (by rw [hon]; rfl), fun b _ hb => h2 b hb, rfl, fun _ => ⟨rfl, rfl⟩⟩

/-! ## A lost clock (R12, R33) -/

theorem getPort_dropService (r k : Nat) (s : State) : (dropService r s).getPort k = s.getPort k := by
  unfold dropService; split <;> rfl

theorem getRing_dropService_ne {r q : Nat} (h : q ≠ r) (s : State) : (dropService r s).getRing q = s.getRing q := by
  unfold dropService
  split
  · exact State.getRing_modRing_ne _ _ _ _ h
  · rfl

/-- The port that has been retired. -/
def Port.taken (p : Port) : Port := { p with retired := true, rx := .down, signal := false, cdr := false, lastLooped := false }

theorem retirePort_live {k : Nat} {s : State} (h : (s.getPort k).retired = false) (c : Nat) : retirePort c k s =
    dropService (k / 2) (raise .portRetired k [(1, c), (4, s.unlockTicks k)] (s.modPort k Port.taken)) := by
  simp only [retirePort, h, Bool.false_eq_true, if_false]
  rfl

theorem retirePort_retired {k : Nat} {s : State} (h : (s.getPort k).retired = true) (c : Nat) : retirePort c k s = s := by
  simp only [retirePort, h, if_true]

theorem getPort_retirePort (c k : Nat) (s : State) : ((retirePort c k s).getPort k).retired = true := by
  cases h : (s.getPort k).retired
  · rw [retirePort_live h, getPort_dropService]
    simp only [gets_raise, State.getPort_modPort, Port.taken]
  · rw [retirePort_retired h, h]

theorem getPort_retirePort_ne {k j : Nat} (hj : j ≠ k) (c : Nat) (s : State) : (retirePort c k s).getPort j = s.getPort j := by
  cases h : (s.getPort k).retired
  · rw [retirePort_live h, getPort_dropService]
    simp only [gets_raise, State.getPort_modPort_ne _ _ _ _ hj]
  · rw [retirePort_retired h]

theorem getRing_retirePort_ne {k q : Nat} (hq : q ≠ k / 2) (c : Nat) (s : State) : (retirePort c k s).getRing q = s.getRing q := by
  cases h : (s.getPort k).retired
  · rw [retirePort_live h, getRing_dropService_ne hq]
    simp only [gets_raise, State.gets_modPort]
  · rw [retirePort_retired h]

/-- R501: a ring whose two ports are retired is in service no more. -/
def Ring.outOfService (rg : Ring) : Ring :=
  { rg with st := if rg.st == .off then .off else .train, runFrame := none, copies := [], turned := none, fu := none, waitsDone := false }

theorem getRing_dropService {r : Nat} {s : State} : (dropService r s).getRing r =
    if (s.getPort (2 * r)).retired && (s.getPort (2 * r + 1)).retired then (s.getRing r).outOfService else s.getRing r := by
  unfold dropService
  split
  · rw [State.getRing_modRing]; rfl
  · rfl

/-- The last port of ring r to be retired takes it out of service. -/
theorem getRing_retirePort {r k j : Nat} {s : State} (hk : k = 2 * r ∧ j = 2 * r + 1 ∨ k = 2 * r + 1 ∧ j = 2 * r)
    (h : (s.getPort k).retired = false) (c : Nat) : (retirePort c k s).getRing r =
      if (s.getPort j).retired then (s.getRing r).outOfService else s.getRing r := by
  have hr : k / 2 = r := by omega
  have hj : j ≠ k := by omega
  have hself : ((s.modPort k Port.taken).getPort k).retired = true := by rw [State.getPort_modPort]; rfl
  rw [retirePort_live h, hr, getRing_dropService]
  simp only [gets_raise, State.gets_modPort]
  rcases hk with ⟨rfl, rfl⟩ | ⟨rfl, rfl⟩
  · rw [hself, State.getPort_modPort_ne _ _ _ _ hj, Bool.true_and]
  · rw [hself, State.getPort_modPort_ne _ _ _ _ hj, Bool.and_true]

theorem outOfService_twice (rg : Ring) : rg.outOfService.outOfService = rg.outOfService := by
  unfold Ring.outOfService
  cases rg.st <;> rfl

theorem Logged.dropService {e : LogEnt} {r : Nat} {s : State} (h : Logged e s) : Logged e (dropService r s) :=
  logged_congr (State.log_eq (m := { ring := true }) rfl (outside_dropService rfl r s)) h

theorem Logged.retirePort {e : LogEnt} {c k : Nat} {s : State} (h : Logged e s) : Logged e (retirePort c k s) := by
  cases hr : (s.getPort k).retired
  · rw [retirePort_live hr]
    exact Logged.dropService (Logged.raise (logged_congr rfl h))
  · rwa [retirePort_retired hr]

theorem loseClock_link {r : Fin 32} {s : State} (h : s.linkUp r = true) : loseClock (.link r) s =
    (retirePort 1 (2 * r + 1) (retirePort 1 (2 * r) (raise .islandClockLost 0 [] s))).modGlbIsl (fun g =>
      { g with linkLock := putBit g.linkLock r false, linkLost := putBit g.linkLost r true }) := by
  simp only [loseClock, h, Bool.not_true, Bool.false_eq_true, if_false]

/-- R12, R33, R501: a link island that loses its clock. -/
theorem link_lost (r : Fin 32) {s : State} (h : s.linkUp r = true) :
    ∃ t, exec (.islandClockLost (.link r)) s = .next t ∧ t.linkUp r = false ∧ (∀ q, q < 32 → q ≠ r.val → t.linkUp q = s.linkUp q) ∧
       (t.getPort (2 * r)).retired = true ∧ (t.getPort (2 * r + 1)).retired = true ∧
       (∀ k, k ≠ 2 * r.val → k ≠ 2 * r.val + 1 → t.getPort k = s.getPort k) ∧
       ((s.getPort (2 * r)).retired = false ∨ (s.getPort (2 * r + 1)).retired = false →
         (t.getRing r).st = (if (s.getRing r).st = .off then .off else .train) ∧ (t.getRing r).runFrame = none) ∧
       (∀ q, q ≠ r.val → t.getRing q = s.getRing q) ∧
       Logged (ent .islandClockLost s.now 0 [] s) t ∧ t = { s with glb := t.glb, port := t.port, ring := t.ring, log := t.log } := by
  obtain ⟨r, hr⟩ := r
  refine ⟨_, congrArg Host.Outcome.next (loseClock_link h), ?_⟩
  dsimp only
  generalize hs₀ : raise .islandClockLost 0 [] s = s₀
  generalize hs₁ : retirePort 1 (2 * r) s₀ = s₁
  generalize hs₂ : retirePort 1 (2 * r + 1) s₁ = s₂
  have ho₀ : s₀.outside { log := true } = s.outside { log := true } := by simp [← hs₀]
  have ho : s₂.outside { port := true, ring := true, log := true } = s.outside { port := true, ring := true, log := true } := by
    simp [← hs₂, ← hs₁, ← hs₀]
  have hp₀ : ∀ k, s₀.getPort k = s.getPort k := fun k => by simp only [← hs₀, gets_raise]
  have hr₀ : ∀ k, s₀.getRing k = s.getRing k := fun k => by simp only [← hs₀, gets_raise]
  have hp₁ : ∀ k, k ≠ 2 * r → s₁.getPort k = s.getPort k := fun k hk => by rw [← hs₁, getPort_retirePort_ne hk, hp₀]
  have hp₂ : ∀ k, k ≠ 2 * r + 1 → s₂.getPort k = s₁.getPort k := fun k hk => by rw [← hs₂, getPort_retirePort_ne hk]
  have hret₁ : (s₁.getPort (2 * r)).retired = true := by rw [← hs₁]; exact getPort_retirePort _ _ _
  have hlink := linkUp_putBit (s := s) (b := false) (i := r) (t := s₂.modGlbIsl (fun g =>
    { g with linkLock := putBit g.linkLock r false, linkLost := putBit g.linkLost r true }))
    ((State.modGlbIsl_pwr _ _).trans (State.pwr_eq (m := { port := true, ring := true, log := true }) rfl ho)) hr
    (congrArg (fun g => putBit (Glb.linkLock g) r false) (State.glb_eq (m := { port := true, ring := true, log := true }) rfl ho))
  refine ⟨by rw [hlink.1, Bool.and_false], fun q _ hq => hlink.2 q hq, ?_, ?_, fun k h0 h1 => ?_, fun hlive => ?_, fun q hq => ?_, ?_, ?_⟩
  · exact (congrArg Port.retired (hp₂ _ (by omega))).trans hret₁
  · change (s₂.getPort (2 * r + 1)).retired = true
    rw [← hs₂]; exact getPort_retirePort _ _ _
  · exact (hp₂ k h1).trans (hp₁ k h0)
  · change (s₂.getRing r).st = _ ∧ (s₂.getRing r).runFrame = none
    have hout : s₂.getRing r = (s.getRing r).outOfService := by
      cases h1 : (s.getPort (2 * r + 1)).retired
      · have h1' : (s₁.getPort (2 * r + 1)).retired = false := by rw [hp₁ _ (by omega), h1]
        rw [← hs₂, getRing_retirePort (j := 2 * r) (.inr ⟨rfl, rfl⟩) h1', hret₁, if_pos rfl]
        cases h0 : (s.getPort (2 * r)).retired
        · rw [← hs₁, getRing_retirePort (j := 2 * r + 1) (.inl ⟨rfl, rfl⟩) (by rw [hp₀, h0]), hp₀, h1, hr₀]
          rfl
        · rw [← hs₁, retirePort_retired (by rw [hp₀, h0]), hr₀]
      · have h0 : (s.getPort (2 * r)).retired = false := hlive.resolve_right (by rw [h1]; decide)
        rw [← hs₂, retirePort_retired (by rw [hp₁ _ (by omega), h1]), ← hs₁,
          getRing_retirePort (j := 2 * r + 1) (.inl ⟨rfl, rfl⟩) (by rw [hp₀, h0]), hp₀, h1, if_pos rfl, hr₀]
    rw [hout]
    refine ⟨?_, rfl⟩
    unfold Ring.outOfService
    cases (s.getRing r).st <;> rfl
  · change s₂.getRing q = s.getRing q
    rw [← hs₂, getRing_retirePort_ne (by omega), ← hs₁, getRing_retirePort_ne (by omega), hr₀]
  · refine logged_congr (u := s₂) rfl ?_
    rw [← hs₂, ← hs₁, ← hs₀]
    exact Logged.retirePort (Logged.retirePort (logged_raise rfl _ _ _))
  · exact State.eq_onto (m := { glb := true, port := true, ring := true, log := true })
      (by simp [← hs₂, ← hs₁, ← hs₀])

/-! ## What stands in a channel still does (R468) -/

/-- An operation that does not write the log leaves what stands in it. -/
theorem Logged.of_outside {e : LogEnt} {s t : State} (hm : m.log = false) (ho : t.outside m = s.outside m) (h : Logged e s) : Logged e t :=
  logged_congr (State.log_eq hm ho) h

theorem Logged.each {α : Type} {e : LogEnt} {f : State → α → State} (hf : ∀ s a, Logged e s → Logged e (f s a)) (l : List α) {s : State}
    (h : Logged e s) : Logged e (each l f s) :=
  each_keeps (Logged e) hf l h

theorem Logged.loseStair {e : LogEnt} {s : State} (h : Logged e s) : Logged e (loseStair s) :=
  Logged.each (f := fun s i => retireEngine 2 i s) (fun _ _ h => Logged.raise (logged_congr rfl h)) _ (logged_congr rfl h)

theorem Logged.loseTallies {e : LogEnt} {s : State} (h : Logged e s) : Logged e (loseTallies s) := by
  rw [loseTallies_eq]
  exact logged_congr rfl (Logged.each (f := dropUnit) (fun _ _ h => Logged.raise (logged_congr rfl h)) _ h)

theorem Logged.dropSpEngs {e : LogEnt} {s : State} (h : Logged e s) : Logged e (dropSpEngs s) :=
  Logged.each (f := dropSpEng) (fun _ _ h => Logged.raise (logged_congr rfl h)) _ h

theorem Logged.loseSpectral {e : LogEnt} {s : State} (h : Logged e s) : Logged e (loseSpectral s) := by
  unfold Machine.loseSpectral
  extract_lets k s₁ s₂
  have h₁ : Logged e s₁ := Logged.of_outside (m := { spec := true, gal := true }) rfl (by simp [s₁]) h
  have h₂ : Logged e s₂ := Logged.dropSpEngs h₁
  clear_value s₂
  exact logged_congr rfl h₂

theorem Logged.eventUnitDown {e : LogEnt} {c : Nat} {s : State} (h : Logged e s) : Logged e (eventUnitDown c s) := by
  unfold Machine.eventUnitDown
  extract_lets cs s₁ s₂
  have h₂ : Logged e s₂ := Logged.of_outside (m := { ev := true, gal := true }) rfl (by simp [s₂, s₁]) h
  exact Logged.raise (logged_congr rfl h₂)

theorem Logged.endOuting {e : LogEnt} {i r : Nat} {s : State} (h : Logged e s) : Logged e (endOuting i r s) := by
  unfold Machine.endOuting
  extract_lets q s₁ s₂ s₃ s₄
  have h₁ : Logged e s₁ := Logged.of_outside (m := { head := true }) rfl (by simp [s₁]) h
  have h₃ : Logged e s₃ := Logged.of_outside (m := { lc := true, cal := true }) rfl (by simp [s₂, s₃]) h₁
  have h₄ : Logged e s₄ := by
    unfold s₄
    split
    · exact h₃
    all_goals exact Logged.raise h₃
  exact Logged.of_outside (m := { host := true }) rfl (by simp) h₄

theorem Logged.lcDown {e : LogEnt} {s : State} (h : Logged e s) : Logged e (lcDown s) := by
  unfold Machine.lcDown
  extract_lets s₁ s₂ s₃
  have h₂ : Logged e s₂ := Logged.of_outside (m := { lc := true }) rfl
    ((outside_each (fun t i => by simp) _ _).trans (outside_modLcIsl _ rfl _)) h
  clear_value s₂
  have h₃ : Logged e s₃ := by
    unfold s₃
    exact Logged.each (f := fun s i => whenDo ((s.getCalQ i).busy && (s.getCalQ i).kind == 2) (Machine.endOuting i 5) s)
      (fun t i ht => whenDo_keeps (Logged e) (fun _ hu => Logged.endOuting hu) _ ht) _ h₂
  exact Logged.raise h₃

theorem Logged.loseContents {e : LogEnt} {i : Island} {s : State} (h : Logged e s) : Logged e (loseContents i s) := by
  cases i with
  | stair => exact Logged.loseStair h
  | tally => exact Logged.loseTallies h
  | spectral => exact Logged.loseSpectral h
  | resamp => unfold Machine.loseContents; dsimp only; split; exacts [h, Logged.eventUnitDown h]
  | analogue => unfold Machine.loseContents; dsimp only; split; exacts [h, Logged.lcDown h]
  | _ => exact h

/-- The parts that a lost island's contents take with them. -/
def lostParts : Parts :=
  { head := true, stair := true, tally := true, spec := true, ev := true, red := true, lc := true, cal := true, gal := true, host := true
    log := true }

theorem outside_loseContents (i : Island) (s : State) : (loseContents i s).outside lostParts = s.outside lostParts := by
  cases i <;> simp [loseContents, lostParts]

theorem loseClock_island {i : Island} {s : State} (hi : ∀ r, i ≠ .link r) (hup : s.up (islBit i) = true)
    (hc : i = .cloak → bit s.glb.lost islCloak = false) : loseClock i s =
      (loseContents i (raise .islandClockLost 0 [] s)).modGlbIsl (fun g =>
        { g with lock := putBit g.lock (islBit i) false, lost := putBit g.lost (islBit i) true }) := by
  cases i with
  | link r => exact absurd rfl (hi r)
  | cloak =>
    have hon : s.pwr.mainOn = true := by simp only [State.up, Bool.and_eq_true] at hup; exact hup.1
    simp only [loseClock, hon, hc rfl, Bool.not_true, Bool.or_false, Bool.false_eq_true, if_false]
    rfl
  | _ => simp only [loseClock, hup, Bool.not_true, Bool.false_eq_true, if_false]

/-- R12, R31: another island that loses its clock. -/
theorem island_lost {i : Island} {s : State} (hi : ∀ r, i ≠ .link r) (hup : s.up (islBit i) = true)
    (hc : i = .cloak → bit s.glb.lost islCloak = false) :
    ∃ t, exec (.islandClockLost i) s = .next t ∧ t.up (islBit i) = false ∧ (∀ b, b < 32 → b ≠ islBit i → t.up b = s.up b) ∧
       bit t.glb.lost (islBit i) = true ∧ Logged (ent .islandClockLost s.now 0 [] s) t ∧
       (i = .stair → ∀ e, e < 33 → (t.getEng e).st = .retired) ∧
       (i = .tally → (∀ u, u < 9 → (t.getUnit u).retired = true) ∧ ∀ c, t.getCtx c = s.getCtx c) ∧
       (i = .spectral → ∀ e, e < 7 → (t.getSpEng e).retired = true) ∧ (i = .resamp → t.ev.down = true) ∧
       (i = .analogue → t.lc.down = true) ∧
       (i = .steward ∨ i = .host ∨ i = .power ∨ i = .gallery ∨ i = .cloak → t = { s with glb := t.glb, log := t.log }) ∧
       t = { s with glb := t.glb, head := t.head, stair := t.stair, tally := t.tally, spec := t.spec, ev := t.ev, red := t.red, lc := t.lc,
                    cal := t.cal, gal := t.gal, host := t.host, log := t.log } := by
  refine ⟨_, congrArg Host.Outcome.next (loseClock_island hi hup hc), ?_⟩
  have hlog := Logged.loseContents (i := i) (logged_raise (c := .islandClockLost) rfl 0 [] s)
  have hout := outside_loseContents i (raise .islandClockLost 0 [] s)
  have hraise : (raise .islandClockLost 0 [] s).outside lostParts = s.outside lostParts := outside_raise rfl _ _ _ _
  have hu : ∀ P : State → Prop, P (loseContents i (raise .islandClockLost 0 [] s)) →
      ∃ u, loseContents i (raise .islandClockLost 0 [] s) = u ∧ P u := fun P h => ⟨_, rfl, h⟩
  obtain ⟨u, hu, hlog⟩ := hu _ hlog
  rw [hu] at hout ⊢
  have ho : u.outside lostParts = s.outside lostParts := hout.trans hraise
  have hup' := up_putBit (s := s) (b := false) (t := u.modGlbIsl (fun g =>
    { g with lock := putBit g.lock (islBit i) false, lost := putBit g.lost (islBit i) true }))
    ((State.modGlbIsl_pwr _ _).trans (State.pwr_eq rfl ho)) (islBit_lt i)
    (congrArg (fun g => putBit (Glb.lock g) (islBit i) false) (State.glb_eq rfl ho))
  refine ⟨by rw [hup'.1, Bool.and_false], fun b _ hb => hup'.2 b hb, ?_, logged_congr rfl hlog, ?_, ?_, ?_, ?_, ?_, ?_, ?_⟩
  · exact (bit_putBit _ (islBit_lt i) true _).trans (if_pos rfl)
  · rintro rfl e he
    change (u.getEng e).st = .retired
    rw [← hu]
    exact st_loseStair _ he
  · rintro rfl
    refine ⟨fun v hv => ?_, fun c => ?_⟩
    · change (u.getUnit v).retired = true
      rw [← hu]
      exact retired_loseTallies _ hv
    · change u.getCtx c = s.getCtx c
      rw [← hu, show loseContents .tally = loseTallies from rfl, getCtx_loseTallies]
      simp only [gets_raise]
  · rintro rfl e he
    change (u.getSpEng e).retired = true
    rw [← hu]
    exact retired_loseSpectral _ he
  · rintro rfl
    change u.ev.down = true
    rw [← hu, loseContents]
    split
    · assumption
    · exact down_eventUnitDown _ _
  · rintro rfl
    change u.lc.down = true
    rw [← hu, loseContents]
    split
    · assumption
    · exact down_lcDown _
  · intro hplain
    have hsame : u = raise .islandClockLost 0 [] s := by
      rw [← hu]
      rcases hplain with rfl | rfl | rfl | rfl | rfl <;> rfl
    exact State.eq_onto (m := { glb := true, log := true }) (by simp [hsame])
  · exact State.eq_onto (m := { lostParts with glb := true }) (by
      rw [outside_modGlbIsl _ rfl, ← hu]
      cases i <;> simp [loseContents, lostParts])

/-- Settles O6: the islands' clocks, then the cloakroom's trim and supply. -/
theorem islandsAndCloakroomClocked : Obligations.IslandsAndCloakroomClocked := by
  refine ⟨⟨fun r s hon hlost => linkReset_released r hon hlost, fun i s hon hi hlost hdown => islandReset_released hon hi hlost hdown,
    fun r s h => link_lost r h, fun i s hi hup hc => island_lost hi hup hc⟩, fun v s hpg href => ?_, fun v s href => ?_, fun v s => ?_⟩
  · simp only [exec, execCloakroomTrim, hpg, href]
    rfl
  · simp only [exec, execCloakroomTrim, href]
    simp
  · cases v <;> rfl

end Sys2Proof.Machine
end

section
-- One proof after another: elaborated side by side they take more memory than the check allows.
set_option Elab.async false
/-! PROOF. The start of the main domain (O7): what each step of it writes, and what it leaves of the power island's registers. -/

namespace Sys2Proof.Machine

open Sys2Proof.Cert

variable {m : Parts}

/-! ## What the steps of a start write -/

@[simp] theorem outside_freeNext (h : m.fresh = true) (s : State) : s.freeNext.2.outside m = s.outside m :=
  outside_set_fresh s h _

@[simp] theorem outside_batteryRecord (h : m.log = true) (e : LogEnt) (s : State) : (batteryRecord e s).outside m = s.outside m := by
  simp [batteryRecord, h]

@[simp] theorem outside_tamperRecord (h : m.log = true) (c : LogCode) (v i : Nat) (l : List (Nat × Nat)) (s : State) :
    (tamperRecord c v i l s).outside m = s.outside m := by
  simp [tamperRecord, h]

@[simp] theorem outside_otpStep (ht : m.tmp = true) (hl : m.log = true) (n : Nat) (s : State) : (otpStep n s).outside m = s.outside m := by
  simp [otpStep, ht, hl]

theorem outside_repeatDo {f : State → State} (hf : ∀ s, (f s).outside m = s.outside m) (n : Nat) (s : State) :
    (repeatDo f n s).outside m = s.outside m := by
  induction n generalizing s with
  | zero => rfl
  | succ n ih => exact (ih (f s)).trans (hf s)

@[simp] theorem outside_commitPending (hf : m.fresh = true) (ht : m.tmp = true) (hl : m.log = true) (hp : m.pwr = true) (n : Nat)
    (s : State) : (commitPending n s).outside m = s.outside m := by
  unfold commitPending
  extract_lets k w s₁ s₂
  have h₂ : s₂.outside m = s.outside m := by
    unfold s₂
    split
    · exact outside_freeNext hf s
    · rw [outside_repeatDo (outside_otpStep ht hl 0), outside_otpStep ht hl, show s₁ = s.freeNext.2 from rfl, outside_freeNext hf]
  simp [ht, hp, h₂]

@[simp] theorem outside_loseMirror (h : m.log = true) (s : State) : (loseMirror s).outside m = s.outside m := by simp [loseMirror, h]

@[simp] theorem outside_loseTail (h : m.pwr = true) (s : State) : (loseTail s).outside m = s.outside m := by simp [loseTail, h]

@[simp] theorem outside_loseCloakroom (hf : m.fresh = true) (ht : m.tmp = true) (hl : m.log = true) (hp : m.pwr = true) (hr : m.role = true)
    (s : State) : (loseCloakroom s).outside m = s.outside m := by
  simp [loseCloakroom, hf, ht, hl, hp, hr]

@[simp] theorem outside_galClear (h : m.gal = true) (g : Nat) (s : State) : (galClear g s).outside m = s.outside m := by
  simp [galClear, h]

@[simp] theorem outside_beginStart (h : m.pwr = true) (s : State) : (beginStart s).outside m = s.outside m := by simp [beginStart, h]

@[simp] theorem outside_nextEpoch (ht : m.tb = true) (hp : m.pwr = true) (hl : m.log = true) (s : State) :
    (nextEpoch s).outside m = s.outside m := by
  simp [nextEpoch, ht, hp, hl]

@[simp] theorem outside_disagreeEntry (hf : m.fresh = true) (hl : m.log = true) (c q : Nat) (s : State) :
    (disagreeEntry c q s).outside m = s.outside m := by
  simp [disagreeEntry, hf, hl]

@[simp] theorem outside_chooseRecord (hf : m.fresh = true) (hl : m.log = true) (hp : m.pwr = true) (s : State) :
    (chooseRecord s).outside m = s.outside m := by
  unfold chooseRecord
  split <;> simp [hf, hl, hp]

/-- The parts that hold what the save store keeps of retired items. -/
def retiredParts (m : Parts) : Prop :=
  m.head = true ∧ m.port = true ∧ m.stair = true ∧ m.tally = true ∧ m.spec = true ∧ m.ev = true

theorem outside_retireSaved (h : retiredParts m) (e : Nat × Nat) (s : State) : (retireSaved s e).outside m = s.outside m := by
  obtain ⟨hh, hp, hs, ht, hsp, he⟩ := h
  unfold retireSaved
  split <;> simp [hh, hp, hs, ht, hsp, he]

theorem outside_restoreSettings (h : retiredParts m) (hr : m.role = true) (hp : m.pwr = true) (hpl : m.plan = true) (hpu : m.pulse = true)
    (ht : m.tmp = true) (b : Bool) (s : State) : (restoreSettings b s).outside m = s.outside m := by
  unfold restoreSettings
  split
  · simp [hr, hp, ht]
  · next r hr' =>
    extract_lets s₁ s₂ s₃ s₄ pu s₅
    have h₁ : s₁.outside m = s.outside m := outside_foldl (fun s e => outside_retireSaved h e s) _ _
    have h₅ : s₅.outside m = s.outside m := by
      rw [show s₅ = { s₄ with pulse := s₅.pulse } from rfl, outside_set_pulse _ hpu]
      simp [s₄, s₃, s₂, hr, hp, hpl, h₁]
    simp [ht, h₅]

@[simp] theorem outside_logStart (hg : m.gal = true) (hl : m.log = true) (n : Nat) (s : State) : (logStart n s).outside m = s.outside m := by
  simp [logStart, hg, hl]

@[simp] theorem outside_settleLoss (hp : m.pwr = true) (hl : m.log = true) (s : State) : (settleLoss s).outside m = s.outside m := by
  unfold settleLoss
  extract_lets p s₁
  have h₁ : s₁.outside m = s.outside m := by simp [s₁, hl]
  split
  · simp [hl, h₁]
  · split
    · simp [hp, hl, h₁]
    · split
      · exact h₁
      · split <;> simp [hp, hl, h₁]

@[simp] theorem outside_legacyUnsaved (hl : m.log = true) (r : SaveRec) (a b : Nat) (s : State) :
    (legacyUnsaved r a b s).outside m = s.outside m := by
  simp [legacyUnsaved, hl]

@[simp] theorem outside_applyKept (ht : m.tmp = true) (hh : m.host = true) (hr : m.role = true) (s : State) :
    (applyKept s).outside m = s.outside m := by
  simp [applyKept, ht, hh, hr]

@[simp] theorem outside_startRest (hp : m.plan = true) (hc : m.cal = true) (ht : m.tmp = true) (hg : m.glb = true) (s : State) :
    (startRest s).outside m = s.outside m := by
  simp [startRest, hp, hc, ht, hg]

/-! ## Power-good (R430, R433, R438, R453) -/

theorem mirrorVoid_sendEnt (src : Nat) (e : LogEnt) (s : State) : (sendEnt src e s).log.mirrorVoid = s.log.mirrorVoid := by
  unfold sendEnt
  extract_lets c
  split
  · split <;> rfl
  · split <;> rfl

theorem mirrorVoid_batteryRecord (e : LogEnt) (s : State) : (batteryRecord e s).log.mirrorVoid = s.log.mirrorVoid := by
  unfold batteryRecord
  extract_lets e'
  exact each_same (f := fun s (part : Bool × Bool × List Byte) => s.modLogIsl (fun l => pushMirror
    { seq := l.cloakNext, ent := { e' with data := part.2.2 }, more := part.1, cont := part.2.1, copied := false }
    { l with cloakNext := (l.cloakNext + 1) % 2 ^ 32 })) (fun t => t.log.mirrorVoid) (fun _ _ => rfl) _ s

theorem mirrorVoid_otpStep (n : Nat) (s : State) : (otpStep n s).log.mirrorVoid = s.log.mirrorVoid := by
  unfold otpStep
  split
  · rfl
  · extract_lets k t
    split
    · unfold tamperRecord
      split
      · exact mirrorVoid_batteryRecord _ t
      · exact mirrorVoid_sendEnt _ _ t
    · rfl

theorem otpCount_otpStep {s : State} (h : s.tmp.otpCount ≤ 2048) (n : Nat) :
    (otpStep n s).tmp.otpCount = min 2048 (s.tmp.otpCount + n + 1) := by
  unfold otpStep
  split
  · omega
  · extract_lets k t
    split
    · rw [State.tmp_eq (m := { log := true }) rfl (outside_tamperRecord rfl _ _ _ _ _)]; rfl
    · rfl

theorem pending_otpStep (n : Nat) (s : State) : (otpStep n s).tmp.pending = s.tmp.pending := by
  unfold otpStep
  split
  · rfl
  · extract_lets k t
    split
    · rw [State.tmp_eq (m := { log := true }) rfl (outside_tamperRecord rfl _ _ _ _ _)]; rfl
    · rfl

/-- What every repetition keeps holds at the end. -/
theorem repeatDo_holds {f : State → State} (P : State → Prop) (hf : ∀ s, P s → P (f s)) (n : Nat) {s : State} (h : P s) :
    P (repeatDo f n s) := by
  induction n generalizing s with
  | zero => exact h
  | succ n ih => exact ih (hf s h)

theorem otpCount_repeatDo (n : Nat) {s : State} (h : s.tmp.otpCount ≤ 2048) :
    (repeatDo (otpStep 0) n s).tmp.otpCount = min 2048 (s.tmp.otpCount + n) := by
  induction n generalizing s with
  | zero => simp only [repeatDo]; omega
  | succ n ih =>
    have hs := otpCount_otpStep h 0
    rw [repeatDo, ih (by omega), hs]
    omega

/-- R433, R430: what the steps that wait do to the counter, the latch and the log. -/
theorem commitPending_spec (bad : Nat) (s : State) :
    (commitPending bad s).tmp.pending = 0 ∧ (commitPending bad s).log.mirrorVoid = s.log.mirrorVoid ∧
    (∃ n, (commitPending bad s).pwr = { s.pwr with otpMs := n }) ∧
    (s.tmp.otpCount ≤ 2048 → (commitPending bad s).tmp.otpCount =
      min 2048 (s.tmp.otpCount + s.tmp.pending + (if s.tmp.pending = 0 then 0 else bad))) := by
  unfold commitPending
  extract_lets n w s₁ s₂
  have hpwr : s₂.pwr = s.pwr := State.pwr_eq (m := { fresh := true, tmp := true, log := true }) rfl (by
    unfold s₂
    split
    · exact outside_freeNext rfl s
    · rw [outside_repeatDo (outside_otpStep rfl rfl 0), outside_otpStep rfl rfl, show s₁ = s.freeNext.2 from rfl, outside_freeNext rfl])
  have hvoid : s₂.log.mirrorVoid = s.log.mirrorVoid := by
    unfold s₂
    split
    · rfl
    · exact (repeatDo_holds (fun t => t.log.mirrorVoid = (otpStep bad s₁).log.mirrorVoid)
        (fun t ht => (mirrorVoid_otpStep 0 t).trans ht) _ rfl).trans (mirrorVoid_otpStep bad s₁)
  have hcount : s.tmp.otpCount ≤ 2048 →
      s₂.tmp.otpCount = min 2048 (s.tmp.otpCount + s.tmp.pending + (if s.tmp.pending = 0 then 0 else bad)) := by
    intro h
    unfold s₂
    split
    · next hn =>
      rw [show s.tmp.pending = 0 from hn, Nat.add_zero, Nat.min_eq_right h]
      rfl
    · next hn =>
      have h₁ : (otpStep bad s₁).tmp.otpCount = min 2048 (s.tmp.otpCount + bad + 1) := otpCount_otpStep (s := s₁) h bad
      have hne : s.tmp.pending ≠ 0 := hn
      rw [otpCount_repeatDo _ (by omega), h₁, show n = s.tmp.pending from rfl]
      omega
  clear_value s₂
  refine ⟨rfl, hvoid, ⟨if n = 0 then 0 else w.1.toNat % (n + 1), ?_⟩, hcount⟩
  rw [State.modPwrIsl_pwr, State.modTmpIsl_pwr, hpwr]

/-- R361: every gallery starts to clear. -/
theorem getGal_each_galClear {g : Nat} (hg : g < 8) (s : State) :
    (each (List.range 8) (fun s g => galClear g s) s).getGal g = { (s.getGal g).lose with power := .clearing } :=
  each_view_once (inv := fun _ => True) (State.getGal · g) g (fun x => { x.lose with power := .clearing }) (fun _ _ h => h)
    (fun _ _ ha _ => State.getGal_modGal_ne _ _ _ _ (Ne.symm ha)) (fun _ _ => State.getGal_modGal _ _ _) List.nodup_range
    (List.mem_range.2 hg) trivial

/-- The cloakroom as power-good finds it (R453). -/
def cloakroomFound (bak : Backup) (s : State) : State :=
  if bak.kept then whenDo (!bak.mirrorOk) loseMirror (whenDo (!bak.tailOk) loseTail s) else loseCloakroom s

/-- The block when the rails are in their windows, before what waits is committed. -/
def railsGood (bak : Backup) (s : State) : State :=
  s.modPwrIsl (fun p => { p with
    pg := true, fromVio := true, railsPg := 0xF
    bakLost := p.bakLost || !(bak.kept && bak.tailOk && bak.mirrorOk), cloakLost := p.cloakLost || !bak.kept
    outage := match p.stopRtc with | none => 0xFFFFFFFF | some t => if p.lastValid then min (p.rtc - t) 0xFFFFFFFF else 0xFFFFFFFF })

theorem execPowerGood_starts (bak : Backup) (badCells : Nat) {s : State} (hpg : s.pwr.pg = false) (hon : s.pwr.mainOn = false)
    (hres : s.pwr.resetting = false) : execPowerGood bak badCells s =
      .next (each (List.range 8) (fun s g => galClear g s) (commitPending badCells (railsGood bak (cloakroomFound bak s)))) := by
  simp only [execPowerGood, hpg, hon, hres, Bool.false_eq_true, or_self, if_false]
  rfl

theorem cloakroomFound_frame (bak : Backup) (s : State) : cloakroomFound bak s =
    { s with role := { s.role with sealed := (cloakroomFound bak s).role.sealed }, tmp := (cloakroomFound bak s).tmp
             pwr := (cloakroomFound bak s).pwr, log := (cloakroomFound bak s).log, fresh := (cloakroomFound bak s).fresh } := by
  have h : (cloakroomFound bak s).outside { role := true, tmp := true, pwr := true, log := true, fresh := true } =
      s.outside { role := true, tmp := true, pwr := true, log := true, fresh := true } := by
    simp [cloakroomFound]
  have hr : (cloakroomFound bak s).role = { s.role with sealed := (cloakroomFound bak s).role.sealed } := by
    unfold cloakroomFound
    cases bak.kept
    · rfl
    · cases bak.mirrorOk <;> cases bak.tailOk <;> rfl
  rw [← hr]
  exact State.eq_onto h

/-- What power-good finds of the cloakroom, by what VBAK and the blocks' CRCs kept. -/
theorem cloakroomFound_spec (bak : Backup) (s : State) :
    (bak.kept = true → (cloakroomFound bak s).tmp = s.tmp) ∧
    (bak.kept = false ∨ bak.mirrorOk = false → (cloakroomFound bak s).log.mirrorVoid = true) ∧
    (bak.kept = false ∨ bak.tailOk = false → (cloakroomFound bak s).pwr.tailVoid = true ∧ (cloakroomFound bak s).pwr.tailA = none ∧
      (cloakroomFound bak s).pwr.tailB = none) ∧
    (bak.kept = true → bak.tailOk = true → (cloakroomFound bak s).pwr.tailVoid = s.pwr.tailVoid ∧
      (cloakroomFound bak s).pwr.tailA = s.pwr.tailA ∧ (cloakroomFound bak s).pwr.tailB = s.pwr.tailB) ∧
    (cloakroomFound bak s).pwr.copyA = s.pwr.copyA ∧ (cloakroomFound bak s).pwr.copyB = s.pwr.copyB ∧
    (cloakroomFound bak s).pwr.epochs = s.pwr.epochs ∧ (cloakroomFound bak s).pwr.mainOn = s.pwr.mainOn := by
  obtain ⟨kept, tailOk, mirrorOk⟩ := bak
  cases kept
  · exact ⟨fun h => (Bool.false_ne_true h).elim, fun _ => rfl, fun _ => ⟨rfl, rfl, rfl⟩, fun h => (Bool.false_ne_true h).elim, rfl, rfl, rfl, rfl⟩
  · refine ⟨fun _ => ?_, fun h => ?_, fun h => ?_, fun _ h => ?_, ?_⟩
    · cases mirrorOk <;> cases tailOk <;> rfl
    · obtain rfl : mirrorOk = false := h.resolve_left (by simp)
      rfl
    · obtain rfl : tailOk = false := h.resolve_left (by simp)
      cases mirrorOk <;> exact ⟨rfl, rfl, rfl⟩
    · obtain rfl : tailOk = true := h
      cases mirrorOk <;> exact ⟨rfl, rfl, rfl⟩
    · cases mirrorOk <;> cases tailOk <;> exact ⟨rfl, rfl, rfl, rfl⟩

theorem powerGood_starts (bak : Backup) (badCells : Nat) {s : State} (hpg : s.pwr.pg = false) (hon : s.pwr.mainOn = false)
    (hres : s.pwr.resetting = false) :
    ∃ t, exec (.powerGood bak badCells) s = .next t ∧ t.pwr.pg = true ∧ t.pwr.railsPg = 0xF ∧ t.pwr.mainOn = false ∧
       (∀ g, g < 8 → (t.getGal g).power = .clearing ∧ (t.getGal g).mem = []) ∧
       t.tmp.pending = 0 ∧
       (bak.kept = true → s.tmp.otpCount ≤ 2048 →
         t.tmp.otpCount = min 2048 (s.tmp.otpCount + s.tmp.pending + (if s.tmp.pending = 0 then 0 else badCells))) ∧
       (bak.kept = false ∨ bak.mirrorOk = false → t.log.mirrorVoid = true) ∧
       (bak.kept = false ∨ bak.tailOk = false → t.pwr.tailVoid = true ∧ t.pwr.tailA = none ∧ t.pwr.tailB = none) ∧
       (bak.kept = true → bak.tailOk = true → t.pwr.tailVoid = s.pwr.tailVoid ∧ t.pwr.tailA = s.pwr.tailA ∧ t.pwr.tailB = s.pwr.tailB) ∧
       t.pwr.copyA = s.pwr.copyA ∧ t.pwr.copyB = s.pwr.copyB ∧ t.pwr.epochs = s.pwr.epochs ∧
       t = { s with gal := t.gal, role := { s.role with sealed := t.role.sealed }, tmp := t.tmp, pwr := t.pwr, log := t.log, fresh := t.fresh } := by
  refine ⟨_, execPowerGood_starts bak badCells hpg hon hres, ?_⟩
  have hfound := cloakroomFound_frame bak s
  obtain ⟨htmp, hmirror, hlost, hkept, hA, hB, hep, hmain⟩ := cloakroomFound_spec bak s
  generalize cloakroomFound bak s = u at *
  obtain ⟨hpend, hvoid, ⟨ms, hpwr⟩, hcount⟩ := commitPending_spec badCells (railsGood bak u)
  have ho : (commitPending badCells (railsGood bak u)).outside { fresh := true, tmp := true, log := true, pwr := true } =
      u.outside { fresh := true, tmp := true, log := true, pwr := true } := by simp [railsGood]
  have hgal := fun g (hg : g < 8) => getGal_each_galClear hg (commitPending badCells (railsGood bak u))
  have hog : (each (List.range 8) (fun s g => galClear g s) (commitPending badCells (railsGood bak u))).outside { gal := true } =
      (commitPending badCells (railsGood bak u)).outside { gal := true } := by simp
  generalize commitPending badCells (railsGood bak u) = v at *
  generalize each (List.range 8) (fun s g => galClear g s) v = t at *
  have hv := State.eq_onto ho
  have ht := State.eq_onto hog
  have htp : t.pwr = v.pwr := State.pwr_eq rfl hog
  have htt : t.tmp = v.tmp := State.tmp_eq rfl hog
  rw [htp, htt, State.log_eq rfl hog, hpwr]
  refine ⟨rfl, rfl, hmain.trans hon, fun g hg => ?_, hpend, fun hk hle => ?_, fun h => hvoid.trans (hmirror h), hlost, hkept, hA, hB, hep, ?_⟩
  · rw [hgal g hg]
    exact ⟨rfl, rfl⟩
  · have h : (railsGood bak u).tmp = s.tmp := htmp hk
    rw [h] at hcount
    exact hcount hle
  · rw [← hpwr, ht, hv, hfound]
    rfl

/-! ## The release of the main domain (R451, R452, R456, R459) -/

/-- What the steps of a start after its first leave of the power island. -/
structure Pwr.SameStart (p q : Pwr) : Prop where
  st : q.st = p.st
  mainOn : q.mainOn = p.mainOn
  resetting : q.resetting = p.resetting
  copyA : q.copyA = p.copyA
  copyB : q.copyB = p.copyB
  epochs : q.epochs = p.epochs

theorem Pwr.SameStart.trans {p q r : Pwr} (h : p.SameStart q) (k : q.SameStart r) : p.SameStart r :=
  ⟨k.1.trans h.1, k.2.trans h.2, k.3.trans h.3, k.4.trans h.4, k.5.trans h.5, k.6.trans h.6⟩

theorem Pwr.SameStart.refl (p : Pwr) : p.SameStart p := ⟨rfl, rfl, rfl, rfl, rfl, rfl⟩

theorem pwr_disagreeEntry (c q : Nat) (s : State) : (disagreeEntry c q s).pwr = s.pwr :=
  State.pwr_eq (m := { fresh := true, log := true }) rfl (by simp)

/-- R451: which of the valid copies is the record of the start. -/
theorem chooseRecord_spec (s : State) : s.pwr.SameStart (chooseRecord s).pwr ∧
    (chooseRecord s).pwr.pfwEn = s.pwr.pfwEn ∧ (chooseRecord s).pwr.ewThr = s.pwr.ewThr ∧
    (∀ a b, s.pwr.copyA = some a → s.pwr.copyB = some b → s.pwr.single = false → a.seq < b.seq → (chooseRecord s).pwr.chosen = some b) ∧
    (∀ a b, s.pwr.copyA = some a → s.pwr.copyB = some b → b.seq < a.seq → (chooseRecord s).pwr.chosen = some a) ∧
    (s.pwr.copyA = none → s.pwr.copyB = none → (chooseRecord s).pwr.chosen = none) := by
  unfold chooseRecord
  extract_lets pick
  split
  · next hA hB =>
    rw [State.pwr_eq (m := { log := true }) rfl (outside_raise rfl _ _ _ _)]
    exact ⟨⟨rfl, rfl, rfl, rfl, rfl, rfl⟩, rfl, rfl, fun a b h => (by rw [hA] at h; cases h), fun a b h => (by rw [hA] at h; cases h),
      fun _ _ => rfl⟩
  · next a hA hB =>
    exact ⟨⟨rfl, rfl, rfl, rfl, rfl, rfl⟩, rfl, rfl, fun a b _ h => (by rw [hB] at h; cases h), fun a b _ h => (by rw [hB] at h; cases h),
      fun h => (by rw [hA] at h; cases h)⟩
  · next b hA hB =>
    exact ⟨⟨rfl, rfl, rfl, rfl, rfl, rfl⟩, rfl, rfl, fun a b h => (by rw [hA] at h; cases h), fun a b h => (by rw [hA] at h; cases h),
      fun _ h => (by rw [hB] at h; cases h)⟩
  · next a b hA hB =>
    have hnone : s.pwr.copyA = none → s.pwr.copyB = none → False := fun h => by rw [hA] at h; cases h
    have hab : ∀ a' b', s.pwr.copyA = some a' → s.pwr.copyB = some b' → a' = a ∧ b' = b := fun a' b' h k => by
      rw [hA] at h; rw [hB] at k
      exact ⟨(Option.some.inj h).symm, (Option.some.inj k).symm⟩
    split
    · next heq =>
      subst heq
      refine ⟨⟨rfl, rfl, rfl, rfl, rfl, rfl⟩, rfl, rfl, fun a' b' h k _ hlt => ?_, fun a' b' h k hlt => ?_, fun h k => (hnone h k).elim⟩
      · obtain ⟨rfl, rfl⟩ := hab a' b' h k; exact absurd hlt (Nat.lt_irrefl _)
      · obtain ⟨rfl, rfl⟩ := hab a' b' h k; exact absurd hlt (Nat.lt_irrefl _)
    · split
      · next hseq =>
        extract_lets s₁
        have h₁ : s₁.pwr = s.pwr := by unfold s₁; rw [pwr_disagreeEntry, pwr_disagreeEntry]
        clear_value s₁
        simp only [pick, State.modPwrIsl_pwr, h₁]
        refine ⟨⟨rfl, rfl, rfl, rfl, rfl, rfl⟩, trivial, trivial, fun a' b' h k _ hlt => ?_, fun a' b' h k hlt => ?_, fun h k => (hnone h k).elim⟩
        · obtain ⟨rfl, rfl⟩ := hab a' b' h k; omega
        · obtain ⟨rfl, rfl⟩ := hab a' b' h k; omega
      · split
        · next hpick =>
          refine ⟨⟨rfl, rfl, rfl, rfl, rfl, rfl⟩, rfl, rfl, fun a' b' h k hs hlt => ?_, fun a' b' h k _ => ?_, fun h k => (hnone h k).elim⟩
          · obtain ⟨rfl, rfl⟩ := hab a' b' h k
            rw [hs, Bool.false_or, decide_eq_true_iff] at hpick
            omega
          · obtain ⟨rfl, rfl⟩ := hab a' b' h k; rfl
        · next hpick =>
          refine ⟨⟨rfl, rfl, rfl, rfl, rfl, rfl⟩, rfl, rfl, fun a' b' h k _ _ => ?_, fun a' b' h k hlt => ?_, fun h k => (hnone h k).elim⟩
          · obtain ⟨rfl, rfl⟩ := hab a' b' h k; rfl
          · obtain ⟨rfl, rfl⟩ := hab a' b' h k
            exact absurd (by rw [decide_eq_true hlt, Bool.or_true]) hpick

theorem restoreSettings_spec (c : Bool) (s : State) : s.pwr.SameStart (restoreSettings c s).pwr ∧
    (restoreSettings c s).pwr.chosen = s.pwr.chosen ∧ (restoreSettings c s).plan.flash = s.plan.flash ∧
    (restoreSettings c s).role.otp = s.role.otp ∧
    (s.pwr.chosen = none → (restoreSettings c s).pwr.pfwEn = true ∧ (restoreSettings c s).pwr.ewThr = 85) := by
  unfold restoreSettings
  split
  · next h => exact ⟨⟨rfl, rfl, rfl, rfl, rfl, rfl⟩, rfl, rfl, rfl, fun _ => ⟨rfl, rfl⟩⟩
  · next r h =>
    extract_lets s₁ s₂ s₃ s₄ pu s₅
    have ho : s₁.outside { head := true, port := true, stair := true, tally := true, spec := true, ev := true } = s.outside _ :=
      outside_foldl (fun s e => outside_retireSaved ⟨rfl, rfl, rfl, rfl, rfl, rfl⟩ e s) _ _
    have hpwr : s₅.pwr = { s.pwr with pfwEn := r.pfwEn, ewThr := r.ewThr, period := r.period, warnings := r.warnings } := by
      rw [← State.pwr_eq rfl ho]; rfl
    have hplan : s₅.plan.flash = s.plan.flash := by rw [← State.plan_eq rfl ho]; rfl
    have hrole : s₅.role.otp = s.role.otp := by rw [← State.role_eq rfl ho]; rfl
    have hnone : s.pwr.chosen = none → False := fun k => by rw [h] at k; cases k
    clear_value s₅
    split
    · simp only [State.modTmpIsl_pwr, State.modTmpIsl_plan, State.modTmpIsl_role, hpwr]
      exact ⟨⟨rfl, rfl, rfl, rfl, rfl, rfl⟩, trivial, hplan, hrole, fun k => (hnone k).elim⟩
    · rw [hpwr]
      exact ⟨⟨rfl, rfl, rfl, rfl, rfl, rfl⟩, rfl, hplan, hrole, fun k => (hnone k).elim⟩

theorem settleLoss_spec (s : State) : s.pwr.SameStart (settleLoss s).pwr ∧ (settleLoss s).pwr.chosen = s.pwr.chosen ∧
    (settleLoss s).pwr.pfwEn = s.pwr.pfwEn ∧ (settleLoss s).pwr.ewThr = s.pwr.ewThr := by
  unfold settleLoss
  extract_lets p s₁
  have h₁ : s₁.pwr = s.pwr := State.pwr_eq (m := { log := true }) rfl (by simp [s₁])
  have hlog : ∀ (b : Bool) (c : LogCode) (l : List (Nat × Nat)) (u : State), (whenDo b (raise c 0 l) u).pwr = u.pwr := fun b c l u =>
    State.pwr_eq (m := { log := true }) rfl (by simp)
  clear_value s₁
  split
  · rw [hlog, h₁]; exact ⟨.refl _, rfl, rfl, rfl⟩
  · split
    · simp only [raise_same, State.modPwrIsl_pwr, h₁]
      exact ⟨⟨rfl, rfl, rfl, rfl, rfl, rfl⟩, trivial, trivial, trivial⟩
    · split
      · rw [h₁]; exact ⟨.refl _, rfl, rfl, rfl⟩
      · split
        · simp only [State.modPwrIsl_pwr, h₁]
          exact ⟨⟨rfl, rfl, rfl, rfl, rfl, rfl⟩, trivial, trivial, trivial⟩
        · extract_lets short
          rw [hlog, State.modPwrIsl_pwr, h₁]
          exact ⟨⟨rfl, rfl, rfl, rfl, rfl, rfl⟩, rfl, rfl, rfl⟩

theorem le_foldl_max (l : List Nat) (b : Nat) : b ≤ l.foldl max b ∧ ∀ e ∈ l, e ≤ l.foldl max b := by
  induction l generalizing b with
  | nil => exact ⟨Nat.le_refl b, fun e h => (by cases h)⟩
  | cons a l ih =>
    obtain ⟨h1, h2⟩ := ih (max b a)
    refine ⟨(Nat.le_max_left b a).trans h1, fun e he => ?_⟩
    rcases List.mem_cons.1 he with rfl | he
    · exact (Nat.le_max_right b e).trans h1
    · exact h2 e he

theorem foldl_max_le (l : List Nat) {b c : Nat} (hb : b ≤ c) (h : ∀ e ∈ l, e ≤ c) : l.foldl max b ≤ c := by
  induction l generalizing b with
  | nil => exact hb
  | cons a l ih => exact ih (Nat.max_le.2 ⟨hb, h a List.mem_cons_self⟩) (fun e he => h e (List.mem_cons_of_mem _ he))

/-- R452: the epochs that the save store holds. -/
def Pwr.epochsHeld (p : Pwr) : List Nat := p.epochs ++ (p.copyA.map SaveRec.epoch).toList ++ (p.copyB.map SaveRec.epoch).toList

/-- R452: the epoch of the start. -/
def State.epochNext (s : State) : Nat :=
  (if s.pwr.epochsHeld.isEmpty then histEpoch s.plan.flash else s.pwr.epochsHeld.foldl max 0) + 1

theorem nextEpoch_eq (s : State) : nextEpoch s = whenDo s.pwr.epochsHeld.isEmpty (raise .epochRecovered 0 [])
    ((s.modTbIsl (fun t => { t with epoch := s.epochNext })).modPwrIsl (fun p => { p with epochs := [s.epochNext, s.epochNext] })) := by
  unfold nextEpoch State.epochNext Pwr.epochsHeld
  cases s.pwr.copyA <;> cases s.pwr.copyB <;> rfl

theorem nextEpoch_spec (s : State) : (nextEpoch s).tb = { s.tb with epoch := s.epochNext } ∧
    (nextEpoch s).pwr = { s.pwr with epochs := [s.epochNext, s.epochNext] } := by
  rw [nextEpoch_eq]
  cases s.pwr.epochsHeld.isEmpty
  · exact ⟨rfl, rfl⟩
  · simp only [whenDo_true, raise_same]
    exact ⟨rfl, rfl⟩

theorem lt_epochNext {s : State} {e : Nat} (h : e ∈ s.pwr.epochsHeld) : e < s.epochNext := by
  have hne : s.pwr.epochsHeld.isEmpty = false := by
    cases hl : s.pwr.epochsHeld with
    | nil => rw [hl] at h; cases h
    | cons a l => rfl
  simp only [State.epochNext, hne, Bool.false_eq_true, if_false]
  exact Nat.lt_succ_of_le ((le_foldl_max s.pwr.epochsHeld 0).2 e h)

theorem epochNext_of_highest {s : State} {e : Nat} (he : e ∈ s.pwr.epochsHeld) (h : ∀ f ∈ s.pwr.epochsHeld, f ≤ e) :
    s.epochNext = e + 1 := by
  have hlt := lt_epochNext he
  have hne : s.pwr.epochsHeld.isEmpty = false := by
    cases hl : s.pwr.epochsHeld with
    | nil => rw [hl] at he; cases he
    | cons a l => rfl
  have hle := foldl_max_le s.pwr.epochsHeld (Nat.zero_le e) h
  simp only [State.epochNext, hne, Bool.false_eq_true, if_false] at hlt ⊢
  omega

theorem mem_epochsHeld {p : Pwr} {e : Nat} : e ∈ p.epochsHeld ↔
    e ∈ p.epochs ∨ (∃ a, p.copyA = some a ∧ a.epoch = e) ∨ ∃ b, p.copyB = some b ∧ b.epoch = e := by
  simp [Pwr.epochsHeld]

/-- What a start does once the record is chosen: the settings, the log's start and the losses (R451, R453, R455, R457). -/
def settleStart (cloak lost : Bool) (s : State) : State :=
  let s := restoreSettings cloak s
  let s := logStart (match s.pwr.chosen with | none => 0 | some r => r.logNext) s
  settleLoss (whenDo lost (raise .bakLost 0 []) s)

/-- R210: what the legacy inputs lost over an outage. -/
def unsavedInputs (s : State) : State :=
  match s.pwr.chosen with
  | some r => if s.pwr.lastValid then legacyUnsaved r s.pwr.lastW 0 s else s
  | none => s

/-- The first steps of a power-on. -/
def powerBegun (s : State) : State :=
  ((beginStart s.freeNext.2).modPwrIsl (fun p => { p with pgAt := 0, heldMs := p.otpMs + s.freeNext.1.toNat % 6 })).modTbIsl
    (fun t => { epoch := t.epoch })

theorem powerOn_eq (s : State) : powerOn s =
    applyKept (startRest (unsavedInputs (settleStart s.pwr.cloakLost s.pwr.bakLost (chooseRecord (nextEpoch (powerBegun s)))))) := rfl

/-- The parts that the steps of a start after the epoch write. -/
def startParts : Parts :=
  { port := true, head := true, stair := true, tally := true, pulse := true, spec := true, ev := true, plan := true, gal := true
    role := true, tmp := true, pwr := true, log := true }

theorem outside_settleStart (c l : Bool) (s : State) : (settleStart c l s).outside startParts = s.outside startParts := by
  unfold settleStart
  extract_lets s₁ s₂
  have h₁ : s₁.outside startParts = s.outside startParts :=
    outside_restoreSettings ⟨rfl, rfl, rfl, rfl, rfl, rfl⟩ rfl rfl rfl rfl rfl c s
  have h₂ : s₂.outside startParts = s₁.outside startParts := outside_logStart rfl rfl _ _
  rw [outside_settleLoss rfl rfl, outside_whenDo (fun u => outside_raise rfl _ _ _ u), h₂, h₁]

theorem outside_unsavedInputs (h : m.log = true) (s : State) : (unsavedInputs s).outside m = s.outside m := by
  unfold unsavedInputs
  split
  · simp [h]
  · rfl

theorem settleStart_spec (c l : Bool) (s : State) : s.pwr.SameStart (settleStart c l s).pwr ∧
    (settleStart c l s).pwr.chosen = s.pwr.chosen ∧ (settleStart c l s).plan.flash = s.plan.flash ∧
    (settleStart c l s).role.otp = s.role.otp ∧
    (s.pwr.chosen = none → (settleStart c l s).pwr.pfwEn = true ∧ (settleStart c l s).pwr.ewThr = 85) := by
  unfold settleStart
  extract_lets s₁ s₂
  obtain ⟨h1, h2, h3, h4, h5⟩ := restoreSettings_spec c s
  have ho : (whenDo l (raise .bakLost 0 []) s₂).outside { gal := true, log := true } = s₁.outside { gal := true, log := true } := by
    simp [s₂]
  generalize whenDo l (raise .bakLost 0 []) s₂ = u at ho ⊢
  obtain ⟨k1, k2, k3, k4⟩ := settleLoss_spec u
  have hs : (settleLoss u).outside { pwr := true, log := true } = u.outside { pwr := true, log := true } := by simp
  rw [State.plan_eq rfl hs, State.role_eq rfl hs, State.plan_eq rfl ho, State.role_eq rfl ho]
  rw [State.pwr_eq rfl ho] at k1 k2 k3 k4
  exact ⟨h1.trans k1, k2.trans h2, h3, h4, fun hn => ⟨k3.trans (h5 hn).1, k4.trans (h5 hn).2⟩⟩

theorem applyKept_startRest_spec (s : State) :
    (applyKept (startRest s)).pwr = s.pwr ∧ (applyKept (startRest s)).tb = s.tb ∧ (applyKept (startRest s)).plan.st = .loading ∧
    (applyKept (startRest s)).plan.flash = s.plan.flash ∧ (applyKept (startRest s)).role.otp = s.role.otp := by
  have ho : (applyKept (startRest s)).outside { tmp := true, host := true, role := true } =
      (startRest s).outside { tmp := true, host := true, role := true } := by simp
  have hrole : (applyKept (startRest s)).role.otp = (startRest s).role.otp := by
    unfold applyKept
    extract_lets r s₁ s₂ s₃
    have h₃ : s₃.role = (startRest s).role := State.role_eq (m := { tmp := true, host := true }) rfl (by simp [s₃, s₂, s₁])
    clear_value s₃
    split
    · rw [State.modRoleIsl_role, h₃]
    · rw [h₃]
  rw [State.pwr_eq rfl ho, State.tb_eq rfl ho, State.plan_eq rfl ho, hrole]
  exact ⟨rfl, rfl, rfl, rfl, rfl⟩

/-- R456, R451, R452: the main domain is released after an outage. -/
theorem mainRelease_powerOn {s : State} (hon : s.pwr.mainOn = false) (hpg : s.pwr.pg = true) (hres : s.pwr.resetting = false)
    (hpend : s.tmp.pending = 0) (hwarn : s.inWarning = false) :
    ∃ t, exec .mainRelease s = .next t ∧ t.pwr.mainOn = true ∧ t.pwr.st = .start ∧ t.tb.idx = 0 ∧ t.tb.ratio = 80 * 2 ^ 40 ∧
       t.tb.disc = .free ∧ t.tb.taiValid = false ∧ t.plan.st = .loading ∧
       (∀ e ∈ s.pwr.epochs, e < t.tb.epoch) ∧
       (∀ a, s.pwr.copyA = some a → a.epoch < t.tb.epoch) ∧ (∀ b, s.pwr.copyB = some b → b.epoch < t.tb.epoch) ∧
       (∀ e ∈ s.pwr.epochs, (∀ f ∈ s.pwr.epochs, f ≤ e) → (∀ a, s.pwr.copyA = some a → a.epoch ≤ e) →
         (∀ b, s.pwr.copyB = some b → b.epoch ≤ e) → t.tb.epoch = e + 1) ∧
       t.pwr.epochs = [t.tb.epoch, t.tb.epoch] ∧
       (∀ a b, s.pwr.copyA = some a → s.pwr.copyB = some b → s.pwr.single = false → a.seq < b.seq → t.pwr.chosen = some b) ∧
       (∀ a b, s.pwr.copyA = some a → s.pwr.copyB = some b → b.seq < a.seq → t.pwr.chosen = some a) ∧
       (s.pwr.copyA = none → s.pwr.copyB = none → t.pwr.chosen = none ∧ t.pwr.pfwEn = true ∧ t.pwr.ewThr = 85) ∧
       t.pwr.copyA = s.pwr.copyA ∧ t.pwr.copyB = s.pwr.copyB ∧ t.plan.flash = s.plan.flash ∧ t.role.otp = s.role.otp ∧
       t = { s with glb := t.glb, tb := t.tb, port := t.port, head := t.head, stair := t.stair, tally := t.tally, pulse := t.pulse,
                    spec := t.spec, ev := t.ev, plan := t.plan, cal := t.cal, gal := t.gal, host := t.host, role := t.role, tmp := t.tmp,
                    pwr := t.pwr, log := t.log, fresh := t.fresh } := by
  have hexec : exec .mainRelease s = .next (powerOn s) := by
    simp only [exec, execMainRelease, hon, hpg, hwarn, hres, hpend, Bool.false_eq_true, Bool.not_true, or_self, if_false, if_true]
  refine ⟨_, hexec, ?_⟩
  rw [powerOn_eq]
  have hbegun : (powerBegun s).pwr.SameStart { s.pwr with st := .start, mainOn := true, resetting := false } := ⟨rfl, rfl, rfl, rfl, rfl, rfl⟩
  have hsingle : (powerBegun s).pwr.single = s.pwr.single := rfl
  have hheld : (powerBegun s).epochNext = s.epochNext := rfl
  obtain ⟨htb, hpwr⟩ := nextEpoch_spec (powerBegun s)
  have ho₁ : (nextEpoch (powerBegun s)).outside { tb := true, pwr := true, log := true, fresh := true } =
      s.outside { tb := true, pwr := true, log := true, fresh := true } := by simp [powerBegun]
  generalize nextEpoch (powerBegun s) = u at *
  obtain ⟨c1, c2, c3, c4, c5, c6⟩ := chooseRecord_spec u
  have ho₂ : (chooseRecord u).outside { fresh := true, log := true, pwr := true } = u.outside { fresh := true, log := true, pwr := true } := outside_chooseRecord rfl rfl rfl u
  generalize chooseRecord u = v at *
  obtain ⟨d1, d2, d3, d4, d5⟩ := settleStart_spec s.pwr.cloakLost s.pwr.bakLost v
  have ho₃ := outside_settleStart s.pwr.cloakLost s.pwr.bakLost v
  generalize settleStart s.pwr.cloakLost s.pwr.bakLost v = w at *
  have ho₄ : (unsavedInputs w).outside { log := true } = w.outside { log := true } := outside_unsavedInputs rfl w
  generalize unsavedInputs w = x at *
  obtain ⟨e1, e2, e3, e4, e5⟩ := applyKept_startRest_spec x
  have ho₅ : (applyKept (startRest x)).outside { tmp := true, host := true, role := true, plan := true, cal := true, glb := true } =
      x.outside { tmp := true, host := true, role := true, plan := true, cal := true, glb := true } := by simp
  generalize applyKept (startRest x) = t at *
  have htbt : t.tb = { (powerBegun s).tb with epoch := s.epochNext } := by
    rw [e2, State.tb_eq rfl ho₄, State.tb_eq rfl ho₃, State.tb_eq rfl ho₂, htb, hheld]
  have hpx : t.pwr = w.pwr := by rw [e1, State.pwr_eq rfl ho₄]
  have hsame : u.pwr.SameStart t.pwr := by rw [hpx]; exact c1.trans d1
  have hchosen : t.pwr.chosen = v.pwr.chosen := by rw [hpx, d2]
  have hcopyA : u.pwr.copyA = s.pwr.copyA := by rw [hpwr]; rfl
  have hcopyB : u.pwr.copyB = s.pwr.copyB := by rw [hpwr]; rfl
  have hu1 : u.pwr.single = s.pwr.single := by rw [hpwr]; rfl
  rw [hcopyA, hcopyB] at c4 c5 c6
  rw [hu1] at c4
  rw [htbt, hchosen]
  refine ⟨by rw [hsame.mainOn, hpwr]; rfl, by rw [hsame.st, hpwr]; rfl, rfl, rfl, rfl, rfl, e3,
    fun e he => lt_epochNext (mem_epochsHeld.2 (.inl he)), fun a ha => lt_epochNext (mem_epochsHeld.2 (.inr (.inl ⟨a, ha, rfl⟩))),
    fun b hb => lt_epochNext (mem_epochsHeld.2 (.inr (.inr ⟨b, hb, rfl⟩))), fun e he hmax hA hB => ?_, ?_, c4, c5, fun hA hB => ?_,
    hsame.copyA.trans hcopyA, hsame.copyB.trans hcopyB, ?_, ?_, ?_⟩
  · refine epochNext_of_highest (mem_epochsHeld.2 (.inl he)) (fun f hf => ?_)
    rcases mem_epochsHeld.1 hf with hf | ⟨a, ha, rfl⟩ | ⟨b, hb, rfl⟩
    · exact hmax f hf
    · exact hA a ha
    · exact hB b hb
  · rw [hsame.epochs, hpwr, hheld]
  · have hn := c6 hA hB
    rw [hpx]
    exact ⟨hn, d5 hn⟩
  · rw [e4, State.plan_eq rfl ho₄, d3, State.plan_eq rfl ho₂, State.plan_eq rfl ho₁]
  · rw [e5, State.role_eq rfl ho₄, d4, State.role_eq rfl ho₂, State.role_eq rfl ho₁]
  · rw [← htbt]
    exact State.eq_onto (m := { startParts with tb := true, fresh := true, glb := true, host := true, cal := true })
      ((State.outside_mono rfl ho₅).trans ((State.outside_mono rfl ho₄).trans ((State.outside_mono rfl ho₃).trans
        ((State.outside_mono rfl ho₂).trans (State.outside_mono rfl ho₁)))))

/-- The first steps of the start after a FULL_RESET. -/
def resetBegun (s : State) : State := (beginStart s).modPwrIsl (fun p => { p with pgAt := s.now, heldMs := 0 })

/-- What the legacy inputs lost over a FULL_RESET. -/
def resetInputs (s : State) : State :=
  match s.pwr.chosen with
  | none => s
  | some r => legacyUnsaved r r.idx s.now s

theorem resetOn_eq (s : State) : resetOn s = startRest (resetInputs (restoreSettings false (chooseRecord (resetBegun s)))) := rfl

theorem outside_resetInputs (h : m.log = true) (s : State) : (resetInputs s).outside m = s.outside m := by
  unfold resetInputs
  split
  · rfl
  · simp [h]

/-- The parts that the start after a FULL_RESET writes. -/
def resetParts : Parts := { startParts with gal := false, fresh := true, glb := true, cal := true }

/-- R459: the main domain is released after a FULL_RESET; the timebase and the galleries run on. -/
theorem mainRelease_resetOn {s : State} (hon : s.pwr.mainOn = false) (hpg : s.pwr.pg = true) (hres : s.pwr.resetting = true)
    (hwarn : s.inWarning = false) :
    ∃ t, exec .mainRelease s = .next t ∧ t.pwr.mainOn = true ∧ t.pwr.resetting = false ∧ t.pwr.st = .start ∧ t.tb = s.tb ∧
       t.plan.st = .loading ∧ t.gal = s.gal ∧ t.pwr.copyA = s.pwr.copyA ∧ t.pwr.copyB = s.pwr.copyB ∧ t.pwr.epochs = s.pwr.epochs := by
  have hexec : exec .mainRelease s = .next (resetOn s) := by
    simp only [exec, execMainRelease, hon, hpg, hwarn, hres, Bool.false_eq_true, Bool.not_true, or_self, if_false, if_true]
  refine ⟨_, hexec, ?_⟩
  rw [resetOn_eq]
  have ho : (startRest (resetInputs (restoreSettings false (chooseRecord (resetBegun s))))).outside
      resetParts = s.outside resetParts := by
    rw [outside_startRest rfl rfl rfl rfl, outside_resetInputs rfl,
      outside_restoreSettings ⟨rfl, rfl, rfl, rfl, rfl, rfl⟩ rfl rfl rfl rfl rfl, outside_chooseRecord rfl rfl rfl]
    rfl
  obtain ⟨c1, -⟩ := chooseRecord_spec (resetBegun s)
  obtain ⟨d1, -⟩ := restoreSettings_spec false (chooseRecord (resetBegun s))
  have hsame : (resetBegun s).pwr.SameStart (startRest (resetInputs (restoreSettings false (chooseRecord (resetBegun s))))).pwr := by
    change Pwr.SameStart _ (resetInputs (restoreSettings false (chooseRecord (resetBegun s)))).pwr
    rw [State.pwr_eq (m := { log := true }) rfl (outside_resetInputs rfl _)]
    exact c1.trans d1
  exact ⟨hsame.mainOn, hsame.resetting, hsame.st, State.tb_eq rfl ho, rfl, State.gal_eq rfl ho, hsame.copyA, hsame.copyB, hsame.epochs⟩

/-- Settles O7: power-good, then the release after an outage and after a FULL_RESET. -/
theorem powerGoodAndMainRelease : Obligations.PowerGoodAndMainRelease :=
  ⟨fun bak badCells _ hpg hon hres => powerGood_starts bak badCells hpg hon hres,
    fun _ hon hpg hres hpend hwarn => mainRelease_powerOn hon hpg hres hpend hwarn,
    fun _ hon hpg hres hwarn => mainRelease_resetOn hon hpg hres hwarn⟩

end Sys2Proof.Machine
end

section
-- One proof after another: elaborated side by side they take more memory than the check allows.
set_option Elab.async false
/-! SUPPORT. Which parts of the state the functions of the model write, continued: one fact for each function, which says that it
writes no part but those that its hypotheses name. -/

namespace Sys2Proof.Machine

open Sys2Proof.Cert

variable {m : Parts}

@[simp] theorem outside_abortOutings (hhead : m.head = true) (hlc : m.lc = true) (hcal : m.cal = true) (hhost : m.host = true)
    (hlog : m.log = true) (s : State) : (abortOutings s).outside m = s.outside m := by
  unfold abortOutings
  exact outside_each (fun t i => by simp [hhead, hlc, hcal, hhost, hlog]) _ _

@[simp] theorem outside_programSlot (hplan : m.plan = true) (bs : List Byte) (s : State) :
    (programSlot bs s).outside m = s.outside m := by
  simp [programSlot, hplan]

@[simp] theorem outside_breakStage (hplan : m.plan = true) (hfresh : m.fresh = true) (s : State) :
    (breakStage s).outside m = s.outside m := by
  simp [breakStage, hplan, hfresh]

@[simp] theorem outside_history (hplan : m.plan = true) (ev result slot : Nat) (by_ : Nat × Nat) (id : Word) (version : Nat)
    (e : PlanErr) (s : State) : (history ev result slot by_ id version e s).outside m = s.outside m := by
  simp [history, hplan]

@[simp] theorem outside_planResult (hplan : m.plan = true) (code : Nat) (s : State) : (planResult code s).outside m = s.outside m := by
  simp [planResult, hplan]

@[simp] theorem outside_setPlanSt (hplan : m.plan = true) (hhost : m.host = true) (st : PlanSt) (s : State) :
    (setPlanSt st s).outside m = s.outside m := by
  simp [setPlanSt, hplan, hhost]

@[simp] theorem outside_errField (hfresh : m.fresh = true) (e : PlanErr) (s : State) : (errField e s).2.outside m = s.outside m := by
  unfold errField
  split <;> simp [hfresh]

@[simp] theorem outside_planFailed (hplan : m.plan = true) (hhost : m.host = true) (e : PlanErr) (s : State) :
    (planFailed e s).outside m = s.outside m := by
  simp [planFailed, hplan, hhost]

@[simp] theorem outside_stageFailed (hplan : m.plan = true) (hhost : m.host = true) (hlog : m.log = true) (hfresh : m.fresh = true)
    (b : Img) (e : PlanErr) (s : State) : (stageFailed b e s).outside m = s.outside m := by
  simp [stageFailed, hplan, hhost, hlog, hfresh]

@[simp] theorem outside_accEnd (hheadAcc : m.headAcc = true) (p result resp : Nat) (s : State) :
    (accEnd p result resp s).outside m = s.outside m := by
  simp [accEnd, hheadAcc]

@[simp] theorem outside_changeLost (hheadAcc : m.headAcc = true) (result resp : Nat) (c : Change) (s : State) :
    (changeLost result resp c s).outside m = s.outside m := by
  unfold changeLost
  split <;> simp [hheadAcc]

@[simp] theorem outside_detFaults (hhead : m.head = true) (hlog : m.log = true) (h causeP causeA : Nat) (s : State) :
    (detFaults h causeP causeA s).outside m = s.outside m := by
  simp only [detFaults]
  repeat' split
  all_goals simp [hhead, hlog]

@[simp] theorem outside_restoreEnd (hred : m.red = true) (hlog : m.log = true) (kind idx role host result : Nat) (s : State) :
    (restoreEnd kind idx role host result s).outside m = s.outside m := by
  simp [restoreEnd, hred, hlog]

@[simp] theorem outside_restoreDropped (hred : m.red = true) (hlog : m.log = true) (h : Nat) (s : State) :
    (restoreDropped h s).outside m = s.outside m := by
  unfold restoreDropped
  split <;> simp [hred, hlog]

@[simp] theorem outside_headAbsent (hring : m.ring = true) (hhead : m.head = true) (hheadAcc : m.headAcc = true) (hred : m.red = true)
    (hlog : m.log = true) (h : Nat) (s : State) : (headAbsent h s).outside m = s.outside m := by
  simp [headAbsent, hring, hhead, hheadAcc, hred, hlog]

@[simp] theorem outside_freeEngine (hstair : m.stair = true) (e : Nat) (s : State) : (freeEngine e s).outside m = s.outside m := by
  simp [freeEngine, hstair]

@[simp] theorem outside_releaseRing (hstair : m.stair = true) (hlog : m.log = true) (r : Nat) (s : State) :
    (releaseRing r s).outside m = s.outside m := by
  simp only [releaseRing]
  repeat' split
  all_goals simp [hstair, hlog]

@[simp] theorem outside_undoPreparing (hring : m.ring = true) (hhead : m.head = true) (hheadAcc : m.headAcc = true)
    (hstair : m.stair = true) (hplan : m.plan = true) (hred : m.red = true) (hlog : m.log = true) (s : State) :
    (undoPreparing s).outside m = s.outside m := by
  unfold undoPreparing
  split <;> simp [hring, hhead, hheadAcc, hstair, hplan, hred, hlog]

@[simp] theorem outside_abortPlan (hring : m.ring = true) (hhead : m.head = true) (hheadAcc : m.headAcc = true)
    (hstair : m.stair = true) (hplan : m.plan = true) (hred : m.red = true) (hhost : m.host = true) (hlog : m.log = true)
    (hfresh : m.fresh = true) (s : State) : (abortPlan s).outside m = s.outside m := by
  unfold abortPlan
  split <;> simp [hring, hhead, hheadAcc, hstair, hplan, hred, hhost, hlog, hfresh]

@[simp] theorem outside_accData (hheadAcc : m.headAcc = true) (p : Nat) (ws : List Word) (s : State) :
    (accData p ws s).outside m = s.outside m := by
  simp [accData, hheadAcc]

@[simp] theorem outside_askCell (hring : m.ring = true) (r c : Nat) (q : CellReq) (s : State) :
    (askCell r c q s).outside m = s.outside m := by
  simp [askCell, hring]

@[simp] theorem outside_pushChange (hring : m.ring = true) (hhead : m.head = true) (h : Nat) (c : Change) (s : State) :
    (pushChange h c s).outside m = s.outside m := by
  simp [pushChange, hring, hhead]

@[simp] theorem outside_endOutings (hhead : m.head = true) (hlc : m.lc = true) (hcal : m.cal = true) (hhost : m.host = true)
    (hlog : m.log = true) (kind result : Nat) (d : Bool) (idx : Nat) (s : State) :
    (endOutings kind result d idx s).outside m = s.outside m := by
  unfold endOutings
  split <;> simp [hhead, hlc, hcal, hhost, hlog]

@[simp] theorem outside_hopOf (hfresh : m.fresh = true) (h : Nat) (serial : BitVec 64) (s : State) :
    (hopOf h serial s).2.outside m = s.outside m := by
  unfold hopOf
  split <;> simp [hfresh]

@[simp] theorem outside_sendWaits (hring : m.ring = true) (r at_ : Nat) (s : State) (pos : Nat) :
    (sendWaits r at_ s pos).outside m = s.outside m := by
  simp [sendWaits, hring]

@[simp] theorem outside_admissionCells (hring : m.ring = true) (hfresh : m.fresh = true) (h a0 : Nat) (ph : PlanHead) (w : Word × Word)
    (s : State) : (admissionCells h a0 ph w s).outside m = s.outside m := by
  simp [admissionCells, hring, hfresh]

@[simp] theorem outside_waitsFrom (hhead : m.head = true) (h f : Nat) (waits : List Nat) (dw de : Int) (s : State) :
    (waitsFrom h f waits dw de s).outside m = s.outside m := by
  simp [waitsFrom, hhead]

@[simp] theorem outside_admitHead (hhead : m.head = true) (h : Nat) (id : HeadIdent) (a0 : Nat) (ph : PlanHead) (trimP trimA : Word)
    (s : State) : (admitHead h id a0 ph trimP trimA s).outside m = s.outside m := by
  simp [admitHead, hhead]

@[simp] theorem outside_admitTrims (hcal : m.cal = true) (hlog : m.log = true) (h : Nat) (serial : BitVec 64) (ph : PlanHead)
    (s : State) : (admitTrims h serial ph s).2.2.outside m = s.outside m := by
  unfold admitTrims
  extract_lets neutral
  split
  · rfl
  · split
    · rfl
    · split
      · exact outside_whenDo (fun t => by simp [hcal, hlog]) _ s
      · split <;> rfl

@[simp] theorem outside_turnHead (hhead : m.head = true) (h f : Nat) (east : Bool) (s : State) :
    (turnHead h f east s).outside m = s.outside m := by
  simp [turnHead, hhead]

@[simp] theorem outside_updChange (hhead : m.head = true) (h : Nat) (off : Bool) (t : Change → Bool) (f : Change → Option Change)
    (s : State) : (updChange h off t f s).outside m = s.outside m := by
  simp [updChange, hhead]

@[simp] theorem outside_updSent (hhead : m.head = true) (h : Nat) (off : Bool) (fl : CellFly) (f : Change → Option Change) (s : State) :
    (updSent h off fl f s).outside m = s.outside m := by
  simp [updSent, hhead]

@[simp] theorem outside_changeAccepted (hhead : m.head = true) (hheadAcc : m.headAcc = true) (h : Nat) (off : Bool) (f : CellFly)
    (s : State) : (changeAccepted h off f s).outside m = s.outside m := by
  unfold changeAccepted
  repeat' split
  all_goals simp [hhead, hheadAcc]

@[simp] theorem outside_changeRefused (hhead : m.head = true) (hheadAcc : m.headAcc = true) (h : Nat) (off : Bool) (f : CellFly)
    (result resp : Nat) (s : State) : (changeRefused h off f result resp s).outside m = s.outside m := by
  unfold changeRefused
  split <;> simp [hhead, hheadAcc]

@[simp] theorem outside_healthReply (hhead : m.head = true) (hlog : m.log = true) (h : Nat) (w : Word) (s : State) :
    (healthReply h w s).outside m = s.outside m := by
  simp [healthReply, hhead, hlog]

@[simp] theorem outside_storeTrim (hcal : m.cal = true) (h : Nat) (d : Bool) (w : Word) (src : Nat) (s : State) :
    (storeTrim h d w src s).outside m = s.outside m := by
  simp [storeTrim, hcal]

@[simp] theorem outside_storeAccepted (hcal : m.cal = true) (h : Nat) (c : Option Change) (s : State) :
    (storeAccepted h c s).outside m = s.outside m := by
  unfold storeAccepted
  split <;> simp [hcal]

@[simp] theorem outside_countAudit (hrole : m.role = true) (s : State) : (countAudit s).outside m = s.outside m := by
  simp [countAudit, hrole]

@[simp] theorem outside_raiseAudit (hrole : m.role = true) (hlog : m.log = true) (c : LogCode) (inst : Nat) (vals : List (Nat × Nat))
    (s : State) : (raiseAudit c inst vals s).outside m = s.outside m := by
  simp [raiseAudit, hrole, hlog]

@[simp] theorem outside_changeIndex (hhead : m.head = true) (h : Nat) (d : Bool) (a : Nat) (s : State) :
    (changeIndex h d a s).outside m = s.outside m := by
  simp [changeIndex, hhead]

@[simp] theorem outside_noteChange (hheadAcc : m.headAcc = true) (hlog : m.log = true) (h : Nat) (c : Change) (old : Nat) (s : State) :
    (noteChange h c old s).outside m = s.outside m := by
  unfold noteChange
  split <;> simp [hheadAcc, hlog]

@[simp] theorem outside_setTrim (hhead : m.head = true) (hcal : m.cal = true) (h : Nat) (d : Bool) (w : Word) (src t : Nat) (s : State)
    : (setTrim h d w src t s).outside m = s.outside m := by
  simp [setTrim, hhead, hcal]

@[simp] theorem outside_stimOn (hcal : m.cal = true) (h : Nat) (d : Bool) (at_ : Nat) (s : State) :
    (stimOn h d at_ s).outside m = s.outside m := by
  unfold stimOn
  split <;> simp [hcal]

@[simp] theorem outside_streamBack (hhead : m.head = true) (hred : m.red = true) (h : Nat) (d : Bool) (t : Nat) (s : State) :
    (streamBack h d t s).outside m = s.outside m := by
  simp [streamBack, hhead, hred]

@[simp] theorem outside_trimApplied (hhead : m.head = true) (hlc : m.lc = true) (hcal : m.cal = true) (hhost : m.host = true)
    (hlog : m.log = true) (h : Nat) (c : Change) (at_ : Nat) (old : Word) (s : State) :
    (trimApplied h c at_ old s).outside m = s.outside m := by
  simp only [trimApplied]
  split <;> simp [hhead, hlc, hcal, hhost, hlog]

@[simp] theorem outside_applySampling (hhead : m.head = true) (hheadAcc : m.headAcc = true) (hred : m.red = true) (hlc : m.lc = true)
    (hcal : m.cal = true) (hhost : m.host = true) (hlog : m.log = true) (h : Nat) (c : Change) (s : State) :
    (applySampling h c s).outside m = s.outside m := by
  simp [applySampling, hhead, hheadAcc, hred, hlc, hcal, hhost, hlog]

@[simp] theorem outside_applyDue (hhead : m.head = true) (hheadAcc : m.headAcc = true) (hred : m.red = true) (hlc : m.lc = true)
    (hcal : m.cal = true) (hhost : m.host = true) (hlog : m.log = true) (h n : Nat) (s : State) :
    (applyDue h n s).2.outside m = s.outside m := by
  simp -implicitDefEqProofs [applyDue, hhead, hheadAcc, hred, hlc, hcal, hhost, hlog]

@[simp] theorem outside_retireStream (hhead : m.head = true) (hred : m.red = true) (hlc : m.lc = true) (hcal : m.cal = true)
    (hhost : m.host = true) (hlog : m.log = true) (h : Nat) (d : Bool) (crit : Nat) (s : State) :
    (retireStream h d crit s).outside m = s.outside m := by
  simp [retireStream, hhead, hred, hlc, hcal, hhost, hlog]

@[simp] theorem outside_auditWrite (hrole : m.role = true) (hlog : m.log = true) (role host a : Nat) (old new : Word) (s : State) :
    (auditWrite role host a old new s).outside m = s.outside m := by
  simp [auditWrite, hrole, hlog]

@[simp] theorem outside_creditOut (hpulse : m.pulse = true) (hhost : m.host = true) (hlog : m.log = true) (o k a len quanta : Nat)
    (s : State) : (creditOut o k a len quanta s).outside m = s.outside m := by
  simp [creditOut, hpulse, hhost, hlog]

@[simp] theorem outside_creditCtxs (hpulse : m.pulse = true) (hhost : m.host = true) (hlog : m.log = true) (gi k : Nat) (harm : Bool)
    (cs : List Nat) (s : State) : (creditCtxs gi k harm cs s).outside m = s.outside m := by
  unfold creditCtxs
  extract_lets g a len
  refine outside_each (fun t o => ?_) _ _
  extract_lets u x
  split
  · rfl
  · split
    · simp [*]
    · rfl

@[simp] theorem outside_bringHead (hring : m.ring = true) (hhead : m.head = true) (hcal : m.cal = true) (hlog : m.log = true)
    (hfresh : m.fresh = true) (h : Nat) (id : HeadIdent) (a0 : Nat) (ph : PlanHead) (s : State) :
    (bringHead h id a0 ph s).outside m = s.outside m := by
  simp [bringHead, hring, hhead, hcal, hlog, hfresh]

@[simp] theorem outside_startEngine (hstair : m.stair = true) (e r : Nat) (cfg : StairCfg) (st : EngSt) (s : State) :
    (startEngine e r cfg st s).outside m = s.outside m := by
  simp [startEngine, hstair]

@[simp] theorem outside_broadcast (hring : m.ring = true) (hfresh : m.fresh = true) (r f : Nat) (s : State) :
    (broadcast r f s).outside m = s.outside m := by
  simp [broadcast, hring, hfresh]

@[simp] theorem outside_calResult (hcal : m.cal = true) (v : Nat) (s : State) : (calResult v s).outside m = s.outside m := by
  simp [calResult, hcal]

@[simp] theorem outside_calImage (hcal : m.cal = true) (op : Nat) (s : State) : (calImage op s).outside m = s.outside m := by
  simp [calImage, hcal]

@[simp] theorem outside_pushPx (hring : m.ring = true) (hhead : m.head = true) (h : Nat) (c : Change) (s : State) :
    (pushPx h c s).outside m = s.outside m := by
  simp [pushPx, hring, hhead]

@[simp] theorem outside_startPass (hring : m.ring = true) (hhead : m.head = true) (hcal : m.cal = true) (i : Nat) (s : State) :
    (startPass i s).outside m = s.outside m := by
  simp [startPass, hring, hhead, hcal]

@[simp] theorem outside_capSee (hhost : m.host = true) (source : Nat) (hit : Word → Bool) (e : CapEnt) (s : State) :
    (capSee source hit e s).outside m = s.outside m := by
  simp [capSee, hhost]

@[simp] theorem outside_captureRaw (hhost : m.host = true) (r : Nat) (e : StairIn) (s : State) :
    (captureRaw r e s).outside m = s.outside m := by
  simp [captureRaw, hhost]

@[simp] theorem outside_cellExhausted (hring : m.ring = true) (hhead : m.head = true) (hheadAcc : m.headAcc = true)
    (hred : m.red = true) (hlog : m.log = true) (r : Nat) (f : CellFly) (s : State) : (cellExhausted r f s).outside m = s.outside m := by
  unfold cellExhausted
  split <;> simp [hring, hhead, hheadAcc, hred, hlog]

@[simp] theorem outside_logIrq (hhost : m.host = true) (sev : Nat) (s : State) : (logIrq sev s).outside m = s.outside m := by
  simp [logIrq, hhost]

@[simp] theorem outside_logOverwritten (hlog : m.log = true) (old : Nat) (s : State) :
    (logOverwritten old s).outside m = s.outside m := by
  simp [logOverwritten, hlog]

@[simp] theorem outside_putSlot (hgal : m.gal = true) (seq : Nat) (body : List Byte) (s : State) :
    (putSlot seq body s).outside m = s.outside m := by
  simp [putSlot, hgal]

@[simp] theorem outside_writePart (hgal : m.gal = true) (hlog : m.log = true) (e : LogEnt) (part : Bool × Bool × List Byte) (s : State)
    : (writePart e part s).outside m = s.outside m := by
  simp [writePart, hgal, hlog]

@[simp] theorem outside_writeRecord (hgal : m.gal = true) (hhost : m.host = true) (hlog : m.log = true) (e : LogEnt) (s : State) :
    (writeRecord e s).outside m = s.outside m := by
  simp [writeRecord, hgal, hhost, hlog]

@[simp] theorem outside_closeSpan (hgal : m.gal = true) (hhost : m.host = true) (hlog : m.log = true) (code : Nat) (s : State) :
    (closeSpan code s).outside m = s.outside m := by
  unfold closeSpan
  split <;> simp [hgal, hhost, hlog]

@[simp] theorem outside_closeSpans (hgal : m.gal = true) (hhost : m.host = true) (hlog : m.log = true) (w : Nat) (s : State) :
    (closeSpans w s).outside m = s.outside m := by
  simp [closeSpans, hgal, hhost, hlog]

@[simp] theorem outside_laneDone (hspec : m.spec = true) (hgal : m.gal = true) (k l : Nat) (lost : Bool) (s : State) :
    (laneDone k l lost s).outside m = s.outside m := by
  unfold laneDone
  repeat' split
  all_goals simp [hspec, hgal]

@[simp] theorem outside_newRoster (hspec : m.spec = true) (hgal : m.gal = true) (q : ShSwap) (s : State) :
    (newRoster q s).outside m = s.outside m := by
  unfold newRoster
  extract_lets k s₁
  have h₁ : s₁.outside m = s.outside m := by
    refine outside_whenDo (fun u => ?_) _ _
    extract_lets u₁
    exact (outside_each (fun _ _ => outside_modGal _ hgal _) _ _).trans (outside_each (fun t l => by simp [hspec, hgal]) _ _)
  simpa [hspec, hgal, galSettle] using h₁

@[simp] theorem outside_settleRoster (hspec : m.spec = true) (hgal : m.gal = true) (s : State) :
    (settleRoster s).outside m = s.outside m := by
  unfold settleRoster
  split <;> simp [hspec, hgal]

@[simp] theorem outside_putRecord (hgal : m.gal = true) (c k close : Nat) (o : HarmOut) (a : AggOut) (s : State) :
    (putRecord c k close o a s).outside m = s.outside m := by
  simp [putRecord, hgal]

@[simp] theorem outside_harmCtx (htally : m.tally = true) (hspec : m.spec = true) (hgal : m.gal = true) (gi k : Nat) (lost : Bool)
    (x : PlanCtx) (s : State) : (harmCtx gi k lost x s).outside m = s.outside m := by
  simp [harmCtx, htally, hspec, hgal]

@[simp] theorem outside_noteStalls (hglb : m.glb = true) (s : State) : (noteStalls s).outside m = s.outside m := by
  simp [noteStalls, hglb]

@[simp] theorem outside_unstall (hglb : m.glb = true) (c : Chan) (s : State) : (unstall c s).outside m = s.outside m := by
  simp [unstall, hglb]

@[simp] theorem outside_gainsFrom (hhead : m.head = true) (h n : Nat) (s : State) : (gainsFrom h n s).outside m = s.outside m := by
  simp only [gainsFrom]
  split <;> simp [hhead]

@[simp] theorem outside_noteClip (hhead : m.head = true) (hlog : m.log = true) (h n : Nat) (any both : Bool) (s : State) :
    (noteClip h n any both s).outside m = s.outside m := by
  simp [noteClip, hhead, hlog]

@[simp] theorem outside_noteOk (hhead : m.head = true) (h n : Nat) (okP okA : Bool) (s : State) :
    (noteOk h n okP okA s).outside m = s.outside m := by
  simp [noteOk, hhead]

@[simp] theorem outside_stimExpire (hhead : m.head = true) (h n : Nat) (s : State) : (stimExpire h n s).outside m = s.outside m := by
  simp [stimExpire, hhead]

@[simp] theorem outside_pushOff (hring : m.ring = true) (hhead : m.head = true) (h : Nat) (c : Change) (s : State) :
    (pushOff h c s).outside m = s.outside m := by
  simp [pushOff, hring, hhead]

@[simp] theorem outside_stimSeen (hring : m.ring = true) (hhead : m.head = true) (h : Nat) (s : State) :
    (stimSeen h s).outside m = s.outside m := by
  simp [stimSeen, hring, hhead]

@[simp] theorem outside_voidSlot (hring : m.ring = true) (hhead : m.head = true) (hheadAcc : m.headAcc = true) (hred : m.red = true)
    (hlog : m.log = true) (h n : Nat) (g : Grade) (s : State) : (voidSlot h n g s).outside m = s.outside m := by
  simp [voidSlot, hring, hhead, hheadAcc, hred, hlog]

@[simp] theorem outside_takeSlot (hring : m.ring = true) (hhead : m.head = true) (hheadAcc : m.headAcc = true) (hred : m.red = true)
    (hlc : m.lc = true) (hcal : m.cal = true) (hhost : m.host = true) (hlog : m.log = true) (r n pos : Nat) (g : Grade) (bs : List Byte)
    (s : State) : (takeSlot r n pos g bs s).2.outside m = s.outside m := by
  simp only [takeSlot]
  split <;> simp [hring, hhead, hheadAcc, hred, hlc, hcal, hhost, hlog]

@[simp] theorem outside_deliverSlot (hring : m.ring = true) (hhead : m.head = true) (hheadAcc : m.headAcc = true) (hred : m.red = true)
    (hlc : m.lc = true) (hcal : m.cal = true) (hhost : m.host = true) (hlog : m.log = true) (r n : Nat) (s : State)
    (e : (Grade × List Byte) × Nat) : (deliverSlot r n s e).outside m = s.outside m := by
  simp [deliverSlot, hring, hhead, hheadAcc, hred, hlc, hcal, hhost, hlog]

@[simp] theorem outside_logWrap (hring : m.ring = true) (hlog : m.log = true) (r n : Nat) (s : State) :
    (logWrap r n s).outside m = s.outside m := by
  simp [logWrap, hring, hlog]

@[simp] theorem outside_noteFull (hglb : m.glb = true) (hring : m.ring = true) (r : Nat) (s : State) :
    (noteFull r s).outside m = s.outside m := by
  simp [noteFull, hglb, hring]

@[simp] theorem outside_replaceTaker (hstair : m.stair = true) (hred : m.red = true) (hlog : m.log = true) (e r : Nat) (s : State) :
    (replaceTaker e r s).outside m = s.outside m := by
  unfold replaceTaker
  split <;> simp [hstair, hred, hlog]

@[simp] theorem outside_startHandover (hstair : m.stair = true) (hred : m.red = true) (hlog : m.log = true) (e : Nat) (s : State) :
    (startHandover e s).outside m = s.outside m := by
  unfold startHandover
  split <;> simp [hstair, hred, hlog]

@[simp] theorem outside_engineFault (hstair : m.stair = true) (hred : m.red = true) (hlog : m.log = true) (e : Nat) (s : State) :
    (engineFault e s).outside m = s.outside m := by
  simp only [engineFault]
  repeat' split
  all_goals simp [hstair, hred, hlog]

@[simp] theorem outside_overrun (hglb : m.glb = true) (hstair : m.stair = true) (hred : m.red = true) (hlog : m.log = true) (r : Nat)
    (s : State) : (overrun r s).outside m = s.outside m := by
  simp only [overrun]
  split <;> simp [hglb, hstair, hred, hlog]

@[simp] theorem outside_deliverIdx (hglb : m.glb = true) (hring : m.ring = true) (hhead : m.head = true) (hheadAcc : m.headAcc = true)
    (hstair : m.stair = true) (hred : m.red = true) (hlc : m.lc = true) (hcal : m.cal = true) (hhost : m.host = true)
    (hlog : m.log = true) (r : Nat) (e : HeldIdx) (s : State) : (deliverIdx r e s).outside m = s.outside m := by
  simp [deliverIdx, hglb, hring, hhead, hheadAcc, hstair, hred, hlc, hcal, hhost, hlog]

@[simp] theorem outside_galUncorr (hgal : m.gal = true) (hlog : m.log = true) (g off : Nat) (s : State) :
    (galUncorr g off s).outside m = s.outside m := by
  simp [galUncorr, hgal, hlog]

@[simp] theorem outside_galRead (hgal : m.gal = true) (hlog : m.log = true) (g off : Nat) (ecc : Ecc) (s : State) :
    (galRead g off ecc s).outside m = s.outside m := by
  unfold galRead
  split <;> simp [hgal, hlog]

@[simp] theorem outside_takeRecord (hgal : m.gal = true) (hhost : m.host = true) (hlog : m.log = true) (e : LogEnt) (s : State) :
    (takeRecord e s).outside m = s.outside m := by
  simp [takeRecord, hgal, hhost, hlog]

@[simp] theorem outside_drainLog (hgal : m.gal = true) (hhost : m.host = true) (hlog : m.log = true) (s : State) :
    (drainLog s).outside m = s.outside m := by
  simp [drainLog, hgal, hhost, hlog]

@[simp] theorem outside_endSession (hhost : m.host = true) (hrole : m.role = true) (hlog : m.log = true) (cause p : Nat) (s : State) :
    (endSession cause p s).outside m = s.outside m := by
  simp [endSession, hhost, hrole, hlog]

@[simp] theorem outside_evClear (hev : m.ev = true) (off : Nat) (s : State) : (evClear off s).outside m = s.outside m := by
  unfold evClear
  split <;> simp [hev]

@[simp] theorem outside_fgClear (hrs : m.rs = true) (gi off : Nat) (s : State) : (fgClear gi off s).outside m = s.outside m := by
  unfold fgClear
  split <;> simp [hrs]

@[simp] theorem outside_galCollide (hgal : m.gal = true) (hlog : m.log = true) (g off user host : Nat) (s : State) :
    (galCollide g off user host s).outside m = s.outside m := by
  simp [galCollide, hgal, hlog]

@[simp] theorem outside_gradeNext (hport : m.port = true) (hring : m.ring = true) (r : Nat) (s : State) :
    (gradeNext r s).2.outside m = s.outside m := by
  simp [gradeNext, hport, hring]

@[simp] theorem outside_wrongHead (hhead : m.head = true) (hlog : m.log = true) (h : Nat) (listed found : BitVec 64) (s : State) :
    (wrongHead h listed found s).outside m = s.outside m := by
  simp [wrongHead, hhead, hlog]

@[simp] theorem outside_headClear (hhead : m.head = true) (h off : Nat) (s : State) : (headClear h off s).outside m = s.outside m := by
  unfold headClear
  split <;> simp [hhead]

@[simp] theorem outside_resumeOuting (hring : m.ring = true) (hhead : m.head = true) (hlc : m.lc = true) (hcal : m.cal = true)
    (hhost : m.host = true) (hlog : m.log = true) (h a0 : Nat) (was : Bool → Word) (s : State) (d : Bool) :
    (resumeOuting h a0 was s d).outside m = s.outside m := by
  simp only [resumeOuting]
  repeat' split
  all_goals simp [hring, hhead, hlc, hcal, hhost, hlog]

@[simp] theorem outside_headRejoin (hring : m.ring = true) (hhead : m.head = true) (hlc : m.lc = true) (hcal : m.cal = true)
    (hhost : m.host = true) (hlog : m.log = true) (hfresh : m.fresh = true) (h : Nat) (id : HeadIdent) (a0 : Nat) (s : State) :
    (headRejoin h id a0 s).outside m = s.outside m := by
  unfold headRejoin
  split <;> simp [hring, hhead, hlc, hcal, hhost, hlog, hfresh]

@[simp] theorem outside_inClear (hpulse : m.pulse = true) (i off : Nat) (s : State) : (inClear i off s).outside m = s.outside m := by
  unfold inClear
  split <;> simp [hpulse]

@[simp] theorem outside_lcClear (hlc : m.lc = true) (off : Nat) (s : State) : (lcClear off s).outside m = s.outside m := by
  unfold lcClear
  split <;> simp [hlc]

@[simp] theorem outside_linkClear (hport : m.port = true) (k off : Nat) (s : State) : (linkClear k off s).outside m = s.outside m := by
  unfold linkClear
  split <;> simp [hport]

@[simp] theorem outside_logClear (hlog : m.log = true) (p off : Nat) (s : State) : (logClear p off s).outside m = s.outside m := by
  unfold logClear
  split <;> simp [hlog]

@[simp] theorem outside_readRange (hgal : m.gal = true) (hlog : m.log = true) (g a n : Nat) (s : State) :
    (readRange g a n s).outside m = s.outside m := by
  simp [readRange, hgal, hlog]

@[simp] theorem outside_segCopy (hgal : m.gal = true) (hlog : m.log = true) (g a g' a' : Nat) (s : State) :
    (segCopy g a g' a' s).outside m = s.outside m := by
  simp [segCopy, hgal, hlog]

@[simp] theorem outside_segRestore (hgal : m.gal = true) (hmt : m.mt = true) (hlog : m.log = true) (s : State) :
    (segRestore s).outside m = s.outside m := by
  simp [segRestore, hgal, hmt, hlog]

@[simp] theorem outside_memYield (hgal : m.gal = true) (hmt : m.mt = true) (hlog : m.log = true) (s : State) :
    (memYield s).outside m = s.outside m := by
  simp [memYield, hgal, hmt, hlog]

@[simp] theorem outside_outClear (hpulse : m.pulse = true) (o off : Nat) (s : State) : (outClear o off s).outside m = s.outside m := by
  unfold outClear
  split <;> simp [hpulse]

@[simp] theorem outside_redClear (hred : m.red = true) (a : Nat) (s : State) : (redClear a s).outside m = s.outside m := by
  simp [redClear, hred]

@[simp] theorem outside_reloadCtx (htally : m.tally = true) (c : Nat) (s : State) : (reloadCtx c s).outside m = s.outside m := by
  unfold reloadCtx
  split <;> simp [htally]

@[simp] theorem outside_startReplay (htally : m.tally = true) (hred : m.red = true) (u t : Nat) (s : State) :
    (startReplay u t s).outside m = s.outside m := by
  simp [startReplay, htally, hred]

@[simp] theorem outside_ringClear (hring : m.ring = true) (r off : Nat) (s : State) : (ringClear r off s).outside m = s.outside m := by
  unfold ringClear
  split <;> simp [hring]

@[simp] theorem outside_shadowRestore (hplan : m.plan = true) (hhost : m.host = true) (hrole : m.role = true) (htmp : m.tmp = true)
    (hlog : m.log = true) (f : ShadowField) (s : State) : (shadowRestore f s).outside m = s.outside m := by
  unfold shadowRestore
  split <;> simp [hplan, hhost, hrole, htmp, hlog]

@[simp] theorem outside_shadowFound (hplan : m.plan = true) (hhost : m.host = true) (hrole : m.role = true) (htmp : m.tmp = true)
    (hlog : m.log = true) (d1 : Bool) (f : ShadowField) (s : State) : (shadowFound d1 f s).outside m = s.outside m := by
  simp [shadowFound, hplan, hhost, hrole, htmp, hlog]

@[simp] theorem outside_shedGalleries (hgal : m.gal = true) (hmt : m.mt = true) (hlog : m.log = true) (s : State) :
    (shedGalleries s).outside m = s.outside m := by
  simp [shedGalleries, hgal, hmt, hlog]

@[simp] theorem outside_shedRings (hring : m.ring = true) (s : State) : (shedRings s).outside m = s.outside m := by
  simp [shedRings, hring]

@[simp] theorem outside_spClear (hspec : m.spec = true) (off : Nat) (s : State) : (spClear off s).outside m = s.outside m := by
  simp [spClear, hspec]

@[simp] theorem outside_stcClear (hstair : m.stair = true) (e off : Nat) (s : State) : (stcClear e off s).outside m = s.outside m := by
  simp [stcClear, hstair]

@[simp] theorem outside_tmpClear (htmp : m.tmp = true) (off : Nat) (s : State) : (tmpClear off s).outside m = s.outside m := by
  simp [tmpClear, htmp]

@[simp] theorem outside_unwrapRing (hring : m.ring = true) (hhead : m.head = true) (hfresh : m.fresh = true) (r fu : Nat) (s : State) :
    (unwrapRing r fu s).outside m = s.outside m := by
  simp [unwrapRing, hring, hhead, hfresh]

@[simp] theorem outside_wordDone (hhost : m.host = true) (p : Nat) (s : State) : (wordDone p s).outside m = s.outside m := by
  simp [wordDone, hhost]

end Sys2Proof.Machine
end

section
-- One proof after another: elaborated side by side they take more memory than the check allows.
set_option Elab.async false
/-! PROOF. The legacy pulse inputs (O26). -/

namespace Sys2Proof.Machine

open Sys2Proof.Cert

theorem bit_goBit_or_0 (v : Word) : bit (goBit ||| v) 0 = bit v 0 := by
  rw [bit_or]; simp [bit, goBit]

/-- The fields of an input that folding old entries of its log into the base leaves. -/
theorem foldLog_same (now : Nat) (x : PulseIn) : (foldLog now x).edges = x.edges ∧ (foldLog now x).count = x.count ∧
    (foldLog now x).last = x.last ∧ (foldLog now x).imp = x.imp ∧ (foldLog now x).exp = x.exp ∧ (foldLog now x).cImp = x.cImp ∧
    (foldLog now x).cExp = x.cExp :=
  ⟨rfl, rfl, rfl, rfl, rfl, rfl, rfl⟩

/-- R210: the direction of a counted edge: the one set, or the partner's level at the edge. -/
def PulseIn.exports (x : PulseIn) (e : Nat × Bool) : Prop := x.dir = 1 ∨ (x.dir = 2 ∧ e.2 = true)

theorem countEdge_off {x : PulseIn} (h : x.mode ≠ 1 ∨ x.stopped = true) (now : Nat) (e : Nat × Bool) : countEdge now e x = x := by
  rcases h with h | h <;> simp [countEdge, h]

theorem countEdge_on {x : PulseIn} (hm : x.mode = 1) (hs : x.stopped = false) (now : Nat) (e : Nat × Bool) :
    (countEdge now e x).edges = x.edges ∧ (countEdge now e x).count = (x.count + 1) % 2 ^ 32 ∧ (countEdge now e x).last = e.1 ∧
    (x.exports e → (countEdge now e x).exp = addWeight x.weight x.exp ∧ (countEdge now e x).imp = x.imp) ∧
    (¬ x.exports e → (countEdge now e x).imp = addWeight x.weight x.imp ∧ (countEdge now e x).exp = x.exp) ∧
    (countEdge now e x).cImp = x.cImp ∧ (countEdge now e x).cExp = x.cExp := by
  unfold countEdge PulseIn.exports
  rw [if_pos (by simp [hm, hs])]
  extract_lets ex y z
  have hex : ex = true ↔ (x.dir = 1 ∨ (x.dir = 2 ∧ e.2 = true)) := by
    unfold ex
    split <;> simp_all
  obtain ⟨h1, h2, h3, h4, h5, h6, h7⟩ := foldLog_same now z
  simp only [h1, h2, h3, h4, h5, h6, h7, ← hex]
  unfold z
  cases ex <;> simp [y]

theorem place_presetGo (i : Fin 16) : place (0x0F0474 + 0x80 * i.val) = .pulseIn i 0x74 := by
  revert i; decide

/-- R210: the edge that waits longest is counted. -/
theorem pulseInEdge_counts (i : Fin 16) {s : State} {e : Nat × Bool} {rest : List (Nat × Bool)} (hup : s.up islTally = true)
    (hedges : (s.getInp i).edges = e :: rest) :
    exec (.pulseInEdge i) s = .next (s.modInp i (fun x => countEdge s.now e { x with edges := rest })) := by
  refine (onIsl_up hup : execPulseInEdge i s = _).trans ?_
  simp only [State.modInp, hedges]

theorem legacyPresetGo_asks (p : Fin 4) (i : Fin 16) (v : Word) {s : State} (hact : MayAct s p 2 islTally) :
    exec (.legacyPresetGo p i v) s = .next (wordDone p (s.modInp i (fun x => { x with
      presetDir := bit v 0, presetGo := some (s.tb.idx, p.val, (s.getRolePort p).role) }))) := by
  have hpl := place_presetGo i
  have hexec := rowWrite_reg (v := goBit ||| v) (a := 0x0F0474 + 0x80 * i.val) (s := s) (p := p) (role := 2) (by rw [hpl]; exact hact)
    (by rw [hpl]; rfl) (by rw [hpl]; trivial) (by omega) (fun _ => by revert i; decide) (by rw [hpl]; exact Nat.le_refl 2)
    (by rw [hpl]; rfl)
  rw [hpl] at hexec
  have hown : (regWrite (s.getRolePort p).role p (.pulseIn i 0x74) (goBit ||| v) s).1 = true := by
    simp [regWrite, bit_goBit_or]
  rw [writeAudited_own hown] at hexec
  refine hexec.trans ?_
  change Host.Outcome.next (wordDone p (inWrite (s.getRolePort p).role p i 0x74 (goBit ||| v) s)) = _
  simp only [inWrite, bit_goBit_or, bit_goBit_or_0, if_true]
  rfl

theorem legacyPresetApply_takes (i : Fin 16) {s : State} {a h r : Nat} (hup : s.up islTally = true)
    (hgo : (s.getInp i).presetGo = some (a, h, r)) (ha : a < s.tb.idx) (hlog : ∀ e ∈ (s.getInp i).log, e.1 ≤ a) :
    ∃ t, exec (.legacyPresetApply i) s = .next t ∧ (t.getInp i).presetGo = none ∧
      (t.getInp i).imp = (if (s.getInp i).presetDir then (s.getInp i).imp else { val := (s.getInp i).presetVal }) ∧
      (t.getInp i).exp = (if (s.getInp i).presetDir then { val := (s.getInp i).presetVal } else (s.getInp i).exp) ∧
      (t.getInp i).count = (s.getInp i).count ∧ (∀ j, j ≠ i.val → t.getInp j = s.getInp j) ∧
      Logged (ent .legacyPreset s.now i [(1, r), (1, h),
        (9, (if (s.getInp i).presetDir then (s.getInp i).exp else (s.getInp i).imp).val), (9, (s.getInp i).presetVal),
        (4, s.role.audit)] s) t ∧
      t = { s with pulse := { s.pulse with inp := t.pulse.inp }, log := t.log
                   role := { s.role with audit := (s.role.audit + 1) % 2 ^ 32 } } := by
  refine ⟨applyPreset i s, onIsl_up hup, ?_⟩
  have hnow : ¬ s.now ≤ a := by simp only [State.now]; omega
  have hlater : (s.getInp i).log.filter (fun e => decide (e.1 ≥ a + 1) && e.2.2.1 == (s.getInp i).presetDir && !e.2.1) = [] := by
    rw [List.filter_eq_nil_iff]
    intro e he
    have := hlog e he
    have hlt : ¬ e.1 ≥ a + 1 := by omega
    simp [hlt]
  unfold applyPreset
  simp only [hgo, if_neg hnow, hlater, List.foldl_nil]
  unfold raiseAudit
  refine ⟨?_, ?_, ?_, ?_, fun j hj => ?_, logged_raise rfl _ _ _, ?_⟩
  · simp [countAudit]
  · simp [countAudit]
  · simp [countAudit]
  · simp [countAudit]
  · simp [countAudit, State.getInp_modInp_ne _ _ _ _ hj]
  · rw [raise_eq]; rfl

/-- Settles O26, one lemma for each command. -/
theorem legacyPulseInputs : Obligations.LegacyPulseInputs := by
  refine ⟨fun i s e rest hup hedges => ?_, fun p i v s hact => ?_, fun i s a h r hup hgo ha hlog =>
    legacyPresetApply_takes i hup hgo ha hlog⟩
  · refine ⟨_, pulseInEdge_counts i hup hedges, ?_⟩
    simp only [State.getInp_modInp]
    refine ⟨?_, fun j hj => State.getInp_modInp_ne _ _ _ _ hj, fun hoff =>
      countEdge_off (x := { s.getInp i with edges := rest }) hoff _ _, fun hm hs => ?_, rfl⟩
    · by_cases hon : (s.getInp i).mode = 1 ∧ (s.getInp i).stopped = false
      · exact (countEdge_on (x := { s.getInp i with edges := rest }) hon.1 hon.2 _ _).1
      · rw [countEdge_off (x := { s.getInp i with edges := rest }) (by by_cases hm : (s.getInp i).mode = 1 <;> simp_all)]
    · exact (countEdge_on (x := { s.getInp i with edges := rest }) hm hs _ _).2
  · exact ⟨_, legacyPresetGo_asks p i v hact, State.getInp_modInp _ _ _, fun j hj => State.getInp_modInp_ne _ _ _ _ hj, rfl⟩

end Sys2Proof.Machine
end

section
-- One proof after another: elaborated side by side they take more memory than the check allows.
set_option Elab.async false
/-! PROOF. The pulse outputs (O25). `pulseUnit` and `pulseEnd` are said once for an output; the loop over the 16 outputs applies them to
each. -/

namespace Sys2Proof.Machine

open Sys2Proof.Cert

/-! ## A unit and an end of one output (R202 to R204, R208) -/

/-- R204: the unit runs off a pulse in progress. -/
def PulseOut.runOff (x : PulseOut) : PulseOut := { x with left := if x.active then x.left - 1 else x.left }

theorem runOff_eq (x : PulseOut) : (if x.active then { x with left := x.left - 1 } else x) = x.runOff := by
  unfold PulseOut.runOff
  split <;> rfl

theorem pulseUnit_idle {x : PulseOut} (h : x.stopped = true ∨ x.hold = true ∨ x.pend = 0) : pulseUnit x = x.runOff := by
  have hidle : ¬ (x.stopped || x.hold) = true → ¬ 0 < x.pend := by
    rcases h with h | h | h <;> simp [h]
  unfold pulseUnit
  rw [runOff_eq]
  by_cases hrun : (x.stopped || x.hold) = true
  · exact if_pos hrun
  · exact (if_neg hrun).trans (if_neg (hidle hrun))

theorem pulseUnit_counts {x : PulseOut} (hs : x.stopped = false) (hh : x.hold = false) (hp : 0 < x.pend) :
    pulseUnit x =
      if 2 ^ 32 ≤ x.phase + x.nu then
        if x.active then { x.runOff with phase := (x.phase + x.nu) % 2 ^ 32, due := min x.pend (x.due + 1) }
        else startPulse { x.runOff with phase := (x.phase + x.nu) % 2 ^ 32 }
      else { x.runOff with phase := (x.phase + x.nu) % 2 ^ 32 } := by
  have hrun : ¬ (x.stopped || x.hold) = true := by simp [hs, hh]
  unfold pulseUnit
  rw [runOff_eq]
  exact (if_neg hrun).trans (if_pos hp)

/-- R202: a pulse moves from those pending to those issued. -/
theorem startPulse_sum {x : PulseOut} (hp : 0 < x.pend) :
    ((startPulse x).issued + (startPulse x).pend) % 2 ^ 64 = (x.issued + x.pend) % 2 ^ 64 := by
  simp only [startPulse]; omega

theorem pulseUnit_sum (x : PulseOut) : ((pulseUnit x).issued + (pulseUnit x).pend) % 2 ^ 64 = (x.issued + x.pend) % 2 ^ 64 := by
  by_cases h : x.stopped = true ∨ x.hold = true ∨ x.pend = 0
  · rw [pulseUnit_idle h]; rfl
  · obtain ⟨hs, hh, hp⟩ : x.stopped = false ∧ x.hold = false ∧ x.pend ≠ 0 := by simpa using h
    rw [pulseUnit_counts hs hh (by omega)]
    split
    · split
      · rfl
      · exact startPulse_sum (x := { x.runOff with phase := (x.phase + x.nu) % 2 ^ 32 }) (Nat.pos_of_ne_zero hp)
    · rfl

theorem pulseUnit_same (x : PulseOut) : (pulseUnit x).credited = x.credited ∧ (pulseUnit x).rho = x.rho ∧ (pulseUnit x).cur = x.cur ∧
    (pulseUnit x).cfg = x.cfg ∧ (pulseUnit x).changes = x.changes ∧ (pulseUnit x).uses = x.uses := by
  by_cases h : x.stopped = true ∨ x.hold = true ∨ x.pend = 0
  · rw [pulseUnit_idle h]; exact ⟨rfl, rfl, rfl, rfl, rfl, rfl⟩
  · obtain ⟨hs, hh, hp⟩ : x.stopped = false ∧ x.hold = false ∧ x.pend ≠ 0 := by simpa using h
    rw [pulseUnit_counts hs hh (by omega)]
    split
    · split <;> exact ⟨rfl, rfl, rfl, rfl, rfl, rfl⟩
    · exact ⟨rfl, rfl, rfl, rfl, rfl, rfl⟩

theorem pulseUnit_phase {x : PulseOut} (hs : x.stopped = false) (hh : x.hold = false) (hp : 0 < x.pend) :
    (pulseUnit x).phase = (x.phase + x.nu) % 2 ^ 32 ∧
    (x.phase + x.nu < 2 ^ 32 → (pulseUnit x).pend = x.pend ∧ (pulseUnit x).issued = x.issued ∧ (pulseUnit x).due = x.due ∧
      (pulseUnit x).active = x.active) ∧
    (2 ^ 32 ≤ x.phase + x.nu → (pulseUnit x).active = true ∧
      (x.active = false → (pulseUnit x).pend = x.pend - 1 ∧ (pulseUnit x).issued = (x.issued + 1) % 2 ^ 64 ∧
        (pulseUnit x).left = pulseWidth x.nu x.curWidth ∧ (pulseUnit x).due = x.due) ∧
      (x.active = true → (pulseUnit x).pend = x.pend ∧ (pulseUnit x).issued = x.issued ∧ (pulseUnit x).left = x.left - 1 ∧
        (pulseUnit x).due = min x.pend (x.due + 1))) := by
  rw [pulseUnit_counts hs hh hp]
  by_cases hov : 2 ^ 32 ≤ x.phase + x.nu
  · rw [if_pos hov]
    cases hx : x.active
    · exact ⟨rfl, fun h => by omega, fun _ => ⟨rfl, fun _ => ⟨rfl, rfl, rfl, rfl⟩, nofun⟩⟩
    · exact ⟨rfl, fun h => by omega, fun _ => ⟨hx, nofun, fun _ => ⟨rfl, rfl, by simp [PulseOut.runOff, hx], rfl⟩⟩⟩
  · rw [if_neg hov]
    exact ⟨rfl, fun _ => ⟨rfl, rfl, rfl, rfl⟩, fun h => absurd h hov⟩

theorem pulseEnd_running {x : PulseOut} (h : x.active = false ∨ x.left ≠ 0) : pulseEnd x = x := by
  rcases h with h | h <;> simp [pulseEnd, h]

theorem pulseEnd_last {x : PulseOut} (ha : x.active = true) (hl : x.left = 0) (h : x.due = 0 ∨ x.stopped = true) :
    pulseEnd x = { x with active := false } := by
  rcases h with h | h <;> simp [pulseEnd, ha, hl, h]

theorem pulseEnd_next {x : PulseOut} (ha : x.active = true) (hl : x.left = 0) (hd : 0 < x.due) (hs : x.stopped = false) :
    pulseEnd x = startPulse { x with due := x.due - 1 } := by
  simp [pulseEnd, ha, hl, hd, hs, startPulse]

theorem pulseEnd_sum {x : PulseOut} (h : x.due ≤ x.pend) :
    ((pulseEnd x).issued + (pulseEnd x).pend) % 2 ^ 64 = (x.issued + x.pend) % 2 ^ 64 := by
  by_cases hrun : x.active = false ∨ x.left ≠ 0
  · rw [pulseEnd_running hrun]
  obtain ⟨ha, hl⟩ : x.active = true ∧ x.left = 0 := by simpa using hrun
  by_cases hlast : x.due = 0 ∨ x.stopped = true
  · rw [pulseEnd_last ha hl hlast]
  obtain ⟨hd, hs⟩ : x.due ≠ 0 ∧ x.stopped = false := by simpa using hlast
  rw [pulseEnd_next ha hl (by omega) hs]
  exact startPulse_sum (x := { x with due := x.due - 1 }) (by simp only; omega)

/-! ## The commands -/

theorem getOut_each_pulseUnit (o : Fin 16) (s : State) :
    (each (List.range 16) (fun s o => s.modOut o pulseUnit) s).getOut o = pulseUnit (s.getOut o) :=
  each_view_once (inv := fun _ => True) (fun s => s.getOut o) o.val pulseUnit (fun _ _ _ => trivial)
    (fun _ _ h _ => State.getOut_modOut_ne _ _ _ _ (Ne.symm h)) (fun _ _ => State.getOut_modOut _ _ _) List.nodup_range
    (List.mem_range.2 o.isLt) trivial

theorem each_modOut_frame (f : PulseOut → PulseOut) (l : List Nat) (s : State) : each l (fun s o => s.modOut o f) s =
    { s with pulse := { s.pulse with out := (each l (fun s o => s.modOut o f) s).pulse.out } } := by
  induction l generalizing s with
  | nil => rfl
  | cons o l ih => rw [each_cons, ih]; rfl

theorem place_outCfg (o : Fin 16) : place (BitVec.ofNat 24 (0x0F0000 + 0x40 * o.val)).toNat = .pulseOut o 0 := by
  revert o; decide

theorem outCfg_fixed (o : Fin 16) : (BitVec.ofNat 24 (0x0F0000 + 0x40 * o.val)).toNat % 4 = 0 ∧
    absentHalf (BitVec.ofNat 24 (0x0F0000 + 0x40 * o.val)).toNat = false := by
  revert o; decide

/-- R206: an output whose new assignment waits for its window. -/
def PulseOut.assigned (now role host : Nat) (c : PlsCfg) (x : PulseOut) : PulseOut :=
  { x with
    cfg := c
    changes := { at_ := now, host := host, role := role, rebase := true, cfg := c, width := x.width } :: x.changes }

theorem setOut_waits {role host o gi : Nat} {c : PlsCfg} {s : State} (hctx : s.ctxGrp c.ctx = some gi) :
    setOut role host o true c (s.getOut o).width s = s.modOut o (PulseOut.assigned s.now role host c) := by
  unfold setOut
  extract_lets e s₁
  have hcfg : (s₁.getOut o).cfg.ctx = c.ctx := by simp [s₁]
  have hgrp : s₁.changeGrp o = some gi := by
    simp only [State.changeGrp, hcfg, show s₁.ctxGrp c.ctx = some gi from hctx]
  rw [hgrp]
  rfl

section
variable {p : Fin 4} {o : Fin 16} {a : BitVec 24} {v : Word} {s : State}

theorem pulseOutConfig_refused (hpl : place a.toNat = .pulseOut o 0) {role : Nat} (hact : MayAct s p role islTally)
    (hbad : s.outBad v = true) : exec (.pulseOutConfig p a v) s = .next s := by
  obtain ⟨hup, -, -, -, hnone⟩ := hact
  have hval : s.valueBad (.pulseOut o 0) v = true := by simp [State.valueBad, hbad]
  have hcan : s.canWrite p a.toNat v = false := by simp [State.canWrite, State.mayWrite, hpl, hval]
  refine (onIsl_up hup : execPulseOutConfig p a v s = _).trans ?_
  rw [hpl]
  simp [Place.outAssign, portWrite, hpl, Place.target, drainTo_none hnone, hcan]

theorem outWrite_waits {role host gi : Nat} {c : PlsCfg}
    (hc : c = { (s.getOut o).cfg with mode := bits v 31 30, pol := bit v 29, acc := bits v 23 16, ctx := bits v 15 8 })
    (hne : c ≠ (s.getOut o).cfg) (hctx : s.ctxGrp (bits v 15 8) = some gi) :
    regWrite role host (.pulseOut o 0) v s = (true, s.modOut o (PulseOut.assigned s.now role host c)) := by
  have hset : outWrite role host o 0 v s = s.modOut o (PulseOut.assigned s.now role host c) := by
    subst hc
    refine (if_neg ?_ : setOutCfg _ _ _ _ _ = _).trans (setOut_waits (gi := gi) ?_)
    · exact hne
    · exact hctx
  unfold regWrite
  simp only [o.isLt, if_true, hset, State.getOut_modOut]
  rw [show ((s.getOut o).assigned s.now role host c).cfg = c from rfl, bne_iff_ne.2 hne]

theorem pulseOutConfig_waits (hpl : place a.toNat = .pulseOut o 0) (halign : a.toNat % 4 = 0) (hhalf : absentHalf a.toNat = false)
    {gi : Nat} (hact : MayAct s p (if bits v 31 30 = 2 then 3 else 2) islTally) (hbad : s.outBad v = false) {c : PlsCfg}
    (hc : c = { (s.getOut o).cfg with mode := bits v 31 30, pol := bit v 29, acc := bits v 23 16, ctx := bits v 15 8 })
    (hne : c ≠ (s.getOut o).cfg) (hctx : s.ctxGrp (bits v 15 8) = some gi) :
    exec (.pulseOutConfig p a v) s = .next (wordDone p (s.modOut o (PulseOut.assigned s.now (s.getRolePort p).role p c))) := by
  have hwrite := outWrite_waits (role := (s.getRolePort p).role) (host := p) hc hne hctx
  have hexec := rowWrite_reg (v := v) (p := p) (s := s) (by rw [hpl]; exact hact)
    (by rw [hpl]; rfl) (by rw [hpl]; trivial) halign (fun _ => hhalf) (by rw [hpl]; simp [wrNeed, Nat.not_le.2 o.isLt])
    (by rw [hpl]; simp [State.valueBad, hbad])
  rw [hpl, writeAudited_own (by rw [hwrite]), hwrite, rowWrite, onIsl_up hact.1] at hexec
  refine (onIsl_up hact.1 : execPulseOutConfig p a v s = _).trans ?_
  rw [hpl, if_pos (by simp [Place.outAssign])]
  exact hexec

end

theorem pulseEnd_output (o : Fin 16) {s : State} (hup : s.up islTally = true) :
    exec (.pulseEnd o) s = .next (s.modOut o pulseEnd) :=
  (onIsl_up hup : execPulseEnd o s = _)

theorem pulseUnit_outputs {s : State} (hup : s.up islTally = true) :
    exec .pulseUnit s = .next (each (List.range 16) (fun s o => s.modOut o pulseUnit) s) := onIsl_up hup

/-- Settles O25, by the output's state for a unit and an end, and by the checks of the write for an assignment. -/
theorem pulseTrainsAndAssignments : Obligations.PulseTrainsAndAssignments := by
  refine ⟨⟨fun s hup => ⟨_, pulseUnit_outputs hup, each_modOut_frame _ _ _, fun o => ?_⟩, fun o s hup => ?_⟩, fun p o v s gi hact => ?_⟩
  · simp only [getOut_each_pulseUnit]
    exact ⟨fun h => pulseUnit_idle h, fun hs hh hp => pulseUnit_phase hs hh hp, pulseUnit_sum _, pulseUnit_same _⟩
  · refine ⟨_, pulseEnd_output o hup, rfl, fun i hi => State.getOut_modOut_ne _ _ _ _ hi, ?_⟩
    simp only [State.getOut_modOut]
    exact ⟨pulseEnd_running, pulseEnd_last, pulseEnd_next, pulseEnd_sum⟩
  · obtain ⟨halign, hhalf⟩ := outCfg_fixed o
    refine ⟨pulseOutConfig_refused (place_outCfg o) hact, fun hbad hne hctx =>
      ⟨_, pulseOutConfig_waits (place_outCfg o) halign hhalf hact hbad rfl hne hctx, ?_, ?_, rfl⟩⟩
    · exact State.getOut_modOut _ _ _
    · exact fun i hi => State.getOut_modOut_ne _ _ _ _ hi

end Sys2Proof.Machine
end

section
-- One proof after another: elaborated side by side they take more memory than the check allows.
set_option Elab.async false
/-! PROOF. The latches of the ports, the presets of contexts, and the reads that clear (O24). -/

namespace Sys2Proof.Machine

open Sys2Proof.Cert

/-! ## The words of a latch (R10, R186) -/

theorem find?_tset_same {α : Type} (t : Tab α) (k : Nat) (v : α) : (tset t k v).find? (fun e => e.1 == k) = some (k, v) := by
  induction t with
  | nil => simp [tset]
  | cons e t ih =>
    obtain ⟨j, w⟩ := e
    unfold tset
    split
    · simp
    · split
      · simp
      · next h1 h2 => simp [Ne.symm h2, ih]

theorem find?_tset_ne {α : Type} (t : Tab α) {k j : Nat} (v : α) (h : j ≠ k) :
    (tset t k v).find? (fun e => e.1 == j) = t.find? (fun e => e.1 == j) := by
  induction t with
  | nil => simp [tset, Ne.symm h]
  | cons e t ih =>
    obtain ⟨i, w⟩ := e
    unfold tset
    split
    · simp [Ne.symm h]
    · split
      · next h1 h2 => subst h2; simp [Ne.symm h]
      · simp [List.find?_cons, ih]

/-- A table that takes values of `F` at each address of a list holds `F` at each of them. -/
theorem find?_foldl_tset {α : Type} {F : Nat → α} {l : List (Nat × α)} (hF : ∀ e ∈ l, e.2 = F e.1) (t : Tab α) {k : Nat}
    (hk : (k, F k) ∈ l ∨ t.find? (fun e => e.1 == k) = some (k, F k)) :
    (l.foldl (fun t e => tset t e.1 e.2) t).find? (fun e => e.1 == k) = some (k, F k) := by
  induction l generalizing t with
  | nil => simpa using hk
  | cons e l ih =>
    refine ih (fun x hx => hF x (List.mem_cons_of_mem _ hx)) _ ?_
    by_cases hek : e.1 = k
    · subst hek
      rw [find?_tset_same, hF e List.mem_cons_self]
      exact .inr rfl
    · rw [find?_tset_ne _ _ (Ne.symm hek)]
      rcases hk with hk | hk
      · rcases List.mem_cons.1 hk with h | h
        · exact absurd (congrArg Prod.fst h.symm) hek
        · exact .inl h
      · exact .inr hk

/-- What a read of an address latches is what the registers read as then. -/
theorem mem_snapTake {s : State} {p a : Nat} {pl : Place} {e : Nat × Word} (h : e ∈ snapTake s p a pl) :
    e.2 = regRead s p (place e.1) := by
  unfold snapTake at h
  extract_lets at_ l at h
  have hat (b : Nat) : (at_ b).2 = regRead s p (place (at_ b).1) := rfl
  have hl : ∀ e ∈ l, e.2 = regRead s p (place e.1) := by
    intro e he
    obtain ⟨d, -, rfl⟩ := List.mem_map.1 he
    exact hat _
  split at h
  · rcases List.mem_append.1 h with h | h
    · exact hl e h
    · obtain ⟨d, -, rfl⟩ := List.mem_map.1 h
      exact hat _
  · rcases List.mem_append.1 h with h | h
    · exact hl e h
    · rw [List.mem_singleton.1 h]
  · exact hl e h

theorem snapTake_mem {s : State} {p a d : Nat} {pl : Place} (h : d ∈ snapWords pl) :
    (a + d, regRead s p (place (a + d))) ∈ snapTake s p a pl := by
  have hmem : (a + d, regRead s p (place (a + d))) ∈ (snapWords pl).map (fun d => (a + d, regRead s p (place (a + d)))) :=
    List.mem_map.2 ⟨d, h, rfl⟩
  unfold snapTake
  split
  · exact List.mem_append_left _ hmem
  · exact List.mem_append_left _ hmem
  · exact hmem

theorem snapTake_nil {s : State} {p a : Nat} {pl : Place} (h : snapWords pl = []) : snapTake s p a pl = [] := by
  unfold snapTake
  rw [h]
  split
  · simp [snapWords] at h
  · simp [snapWords] at h
  · rfl

/-- The words that a port has latched after a read of word 0 at address `a`. -/
def latchAfter (s : State) (p a : Nat) (pl : Place) : Tab Word :=
  (snapTake s p a pl).foldl (fun t e => tset t e.1 e.2)
    (if pl.triple then (s.getHp p).latch.filter (fun e => !(place e.1).triple) else (s.getHp p).latch)

theorem takeLatch_takes {s : State} {p a : Nat} {pl : Place} (h : snapWords pl ≠ []) (hcov : s.ctxCovers p pl = false) :
    takeLatch p a pl s = s.modHp p (fun h => { h with latch := latchAfter s p a pl }) := by
  have hne : (snapTake s p a pl).isEmpty = false := by
    obtain ⟨d, hd⟩ := List.exists_mem_of_ne_nil _ h
    cases hl : snapTake s p a pl with
    | nil => exact absurd (snapTake_mem hd) (by rw [hl]; exact List.not_mem_nil)
    | cons => rfl
  simp only [takeLatch, hne, hcov, Bool.or_self, Bool.false_eq_true, if_false]
  rfl

theorem takeLatch_none {s : State} {p a : Nat} {pl : Place} (h : snapWords pl = []) : takeLatch p a pl s = s := by
  simp [takeLatch, snapTake_nil h]

/-! ## What a register of a value in several words clears when it is read (R7) -/

theorem redClear_host (a : Nat) (s : State) : (redClear a s).host = s.host := by
  unfold redClear; split
  · rfl
  · split <;> rfl

theorem galRegClear_host (a : Nat) (s : State) : (galRegClear a s).host = s.host := by
  unfold galRegClear; split
  · split <;> rfl
  · split
    · rfl
    · split <;> rfl

theorem fgClear_host (g off : Nat) (s : State) : (fgClear g off s).host = s.host := by unfold fgClear; split <;> rfl

theorem ringClear_host (r off : Nat) (s : State) : (ringClear r off s).host = s.host := by unfold ringClear; split <;> rfl

theorem headClear_host (h off : Nat) (s : State) : (headClear h off s).host = s.host := by unfold headClear; split <;> rfl

theorem stcClear_host (e off : Nat) (s : State) : (stcClear e off s).host = s.host := by
  unfold stcClear; repeat' split
  all_goals rfl

theorem spClear_host (off : Nat) (s : State) : (spClear off s).host = s.host := by unfold spClear; split <;> rfl

theorem outClear_host (o off : Nat) (s : State) : (outClear o off s).host = s.host := by unfold outClear; split <;> rfl

theorem inClear_host (i off : Nat) (s : State) : (inClear i off s).host = s.host := by unfold inClear; split <;> rfl

theorem lcClear_host (off : Nat) (s : State) : (lcClear off s).host = s.host := by unfold lcClear; split <;> rfl

theorem tmpClear_host (off : Nat) (s : State) : (tmpClear off s).host = s.host := by
  unfold tmpClear; repeat' split
  all_goals rfl

theorem pwrClear_host (off : Nat) (s : State) : (pwrClear off s).host = s.host := by unfold pwrClear; split <;> rfl

/-- Word 0 of a value in several words is no counter of a port. -/
theorem regClear_host {pl : Place} (h : snapWords pl ≠ []) (p : Nat) (s : State) : (regClear p pl s).host = s.host := by
  cases pl with
  | glb | log | link | ev => exact absurd rfl h
  | plan | acc | ctx | spCtx | evCtx | cal | role | window | unmapped => rfl
  | tb off => rfl
  | red a => exact redClear_host a s
  | gal a => exact galRegClear_host a s
  | fg g off => exact fgClear_host g off s
  | ring r off => exact ringClear_host r off s
  | head k off => simp only [regClear]; split <;> simp [headClear_host]
  | stc e off => exact stcClear_host e off s
  | sp off => exact spClear_host off s
  | pulseOut o off => simp only [regClear]; split <;> simp [outClear_host]
  | pulseIn i off => exact inClear_host i off s
  | tmp off => exact tmpClear_host off s
  | pwr off => exact pwrClear_host off s
  | lc off =>
    have hoff : off ≠ 0x20 := by rintro rfl; exact h rfl
    simp only [regClear, if_neg hoff, lcClear_host]
  | hp off =>
    have hoff : off = 0x74 := by by_contra hne; exact h (by simp [snapWords, hne])
    subst hoff; rfl

/-! ## Reads (R10, R186) -/

theorem portRead_reg {p a role : Nat} {s : State} (hact : MayAct s p role (place a).target) (hread : s.mayRead p a = true)
    (hreg : (place a).isReg = true) : portRead p a s = (readReg p a (place a) s).2 := by
  obtain ⟨-, htgt, hstew, -, hnone⟩ := hact
  have hword : readWord p a s = readReg p a (place a) s := by
    unfold readWord
    split
    · next h => rw [h] at hreg; cases hreg
    · rfl
  simp [portRead, drainTo_none hnone, hostRead, hread, htgt, hstew, hword]

section
variable {p : Fin 4} {a : BitVec 24} {s : State}

theorem readReg_live (hcov : s.ctxCovers p (place a.toNat) = false) (hlatch : s.latched p a.toNat = none) :
    (readReg p a.toNat (place a.toNat) s).2 = regClear p (place a.toNat) (takeLatch p a.toNat (place a.toNat) s) := by
  simp [readReg, hcov, hlatch]

theorem isReg_of_snapWords {pl : Place} (h : snapWords pl ≠ []) : pl.isReg = true := by
  cases pl with
  | window | unmapped => exact absurd rfl h
  | _ => rfl

/-- R10: a read of word 0 takes the latch and then clears what it clears. -/
theorem snapshotWord0Read_latches (hact : MayAct s p 0 (place a.toNat).target) (hread : s.mayRead p a.toNat = true)
    (hcov : s.ctxCovers p (place a.toNat) = false) (hlatch : s.latched p a.toNat = none) (hsnap : snapWords (place a.toNat) ≠ []) :
    exec (.snapshotWord0Read p a) s = .next (regClear p (place a.toNat)
      (s.modHp p (fun h => { h with latch := latchAfter s p a.toNat (place a.toNat) }))) := by
  have hne : ¬ (snapWords (place a.toNat)).isEmpty = true := by simpa using hsnap
  refine (onIsl_up hact.1 : execSnapshotWord0Read p a s = _).trans ?_
  rw [if_neg hne, portRead_reg hact hread (isReg_of_snapWords hsnap), readReg_live hcov hlatch, takeLatch_takes hsnap hcov]

/-- R7: a read of a counter in one word clears what it clears. -/
theorem rcRead_clears (hact : MayAct s p 0 (place a.toNat).target) (hread : s.mayRead p a.toNat = true)
    (hreg : (place a.toNat).isReg = true) (hcov : s.ctxCovers p (place a.toNat) = false) (hlatch : s.latched p a.toNat = none)
    (hsnap : snapWords (place a.toNat) = []) : exec (.rcRead p a) s = .next (regClear p (place a.toNat) s) := by
  refine (onIsl_up hact.1 : execRcRead p a s = _).trans ?_
  rw [portRead_reg hact hread hreg, readReg_live hcov hlatch, takeLatch_none hsnap]

end

/-! ## Context latches and presets (R187, R188) -/

theorem place_ctxAddr {c off : Nat} (hc : c < 160) (hoff : off < 0xA80) : place (ctxAddr c off) = .ctx c off := by
  have hdiv : (ctxAddr c off - 0x100000) / 0x1000 = c := by unfold ctxAddr; omega
  have hmod : ctxAddr c off % 0x1000 = off := by unfold ctxAddr; omega
  have hlo : ∀ n, n ≤ 0x100000 → ¬ ctxAddr c off < n := by unfold ctxAddr; omega
  have hhi : ctxAddr c off < 0x1A0000 := by unfold ctxAddr; omega
  unfold place
  simp (disch := omega) only [hlo, hdiv, hmod, hhi, hoff, if_true, if_false]

theorem absentHalf_ctxAddr {c off : Nat} (hc : c < 80) (hoff : off < 0x1000) : absentHalf (ctxAddr c off) = false := by
  have hlo : ∀ n, n ≤ 0x100000 → ¬ ctxAddr c off < n := by unfold ctxAddr; omega
  have hhi : ∀ n, 0x150000 ≤ n → ¬ n ≤ ctxAddr c off := by unfold ctxAddr; omega
  simp (disch := omega) [absentHalf, hlo, hhi]

section
variable {p : Fin 4} {c : Fin 160} {s : State} {x : PlanCtx}

theorem rowWrite_ctx {off role : Nat} {v : Word} (hoff : off < 0xA80) (halign : off % 4 = 0) (hact : MayAct s p role islTally)
    (hhalf : s.glb.half = true → c.val < 80) (hneed : wrNeed (.ctx c off) v ≤ role)
    (hown : wrNeed (.ctx c off) v < 2 ∨ (regWrite (s.getRolePort p).role p (.ctx c off) v s).1 = true) (hx : s.ctxNow c = some x) :
    rowWrite p (ctxAddr c off) v s = .next (wordDone p (ctxWrite (s.getRolePort p).role p c off v s)) := by
  have hpl := place_ctxAddr c.isLt hoff
  have hexec := rowWrite_reg (v := v) (a := ctxAddr c off) (s := s) (p := p) (role := role) (by rw [hpl]; exact hact)
    (by rw [hpl]; rfl) (by rw [hpl]; trivial) (by unfold ctxAddr; omega) (fun h => absentHalf_ctxAddr (hhalf h) (by omega))
    (by rw [hpl]; exact hneed) (by rw [hpl]; rfl)
  rw [hpl] at hexec
  rw [hexec]
  rcases hown with h | h
  · rw [writeAudited_operator h]; simp [regWrite, hx]
  · rw [writeAudited_own h]; simp [regWrite, hx]

theorem ctxLatchGo_holds (hact : MayAct s p 1 islTally) (hhalf : s.glb.half = true → c.val < 80) (hx : s.ctxNow c = some x) :
    exec (.ctxLatchGo p c) s = .next (wordDone p (s.modHp p (fun h => { h with ctxLatch := some ((s.getCtx c).view c) }))) :=
  rowWrite_ctx (by norm_num) rfl hact hhalf (Nat.le_refl 1) (.inl Nat.one_lt_two) hx

theorem ctxLatchRelease_drops (hact : MayAct s p 1 islTally) (hhalf : s.glb.half = true → c.val < 80) (hx : s.ctxNow c = some x) :
    exec (.ctxLatchRelease p c) s = .next (wordDone p (s.modHp p (fun h => { h with ctxLatch := none }))) :=
  rowWrite_ctx (by norm_num) rfl hact hhalf (Nat.le_refl 1) (.inl Nat.one_lt_two) hx

/-- A context after GO of a preset of accumulator `a`, where it exists and where not. -/
def Ctx.presetAsked (now role host kind a : Nat) (y : Ctx) : Ctx :=
  { y with
    presetAcc := a
    preset := if accExists kind a then some { acc := a, val := y.presetVal, effAt := now, role := role, host := host } else y.preset }

theorem State.modCtx_modCtx (s : State) (c : Nat) (f g : Ctx → Ctx) : (s.modCtx c f).modCtx c g = s.modCtx c (fun y => g (f y)) := by
  have h := State.getCtx_modCtx s c f
  unfold State.modCtx at h ⊢
  rw [h]
  simp only [tset_tset]

theorem energyPresetGo_asks {a : BitVec 8} (hact : MayAct s p 3 islTally) (hhalf : s.glb.half = true → c.val < 80)
    (hx : s.ctxNow c = some x) :
    exec (.energyPresetGo p c a) s =
      .next (wordDone p (s.modCtx c (Ctx.presetAsked s.now (s.getRolePort p).role p x.kind a.toNat))) := by
  have hbit := bit_goBit_or (a.setWidth 32)
  have hbits : bits (goBit ||| a.setWidth 32) 7 0 = a.toNat := by
    rw [bits_goBit_or _ (by norm_num)]
    have := a.isLt
    simp only [BitVec.toNat_setWidth]
    omega
  have hexec := rowWrite_ctx (off := 0x38) (v := goBit ||| a.setWidth 32) (by norm_num) rfl hact hhalf (Nat.le_refl 3)
    (.inr (by simp [regWrite, hx, hbit])) hx
  refine (hexec : execEnergyPresetGo p c a s = _).trans ?_
  have hctx (f : Ctx → Ctx) : (s.modCtx c f).ctxNow c = some x := hx
  simp only [ctxWrite, hbits, hbit, if_true, presetGo, hctx, State.modCtx_modCtx]
  congr 3
  funext y
  unfold Ctx.presetAsked
  split <;> rfl

end

/-- Settles O24. -/
theorem latchesPresetsAndClearingReads : Obligations.LatchesPresetsAndClearingReads := by
  refine ⟨⟨fun p c s x hact hhalf hx => ⟨⟨_, ctxLatchGo_holds hact hhalf hx, ?_, ?_, rfl⟩, _, ctxLatchRelease_drops hact hhalf hx, ?_, ?_, rfl⟩,
    fun p c a s x hact hhalf hx => ⟨fun hacc => ⟨_, energyPresetGo_asks hact hhalf hx, ?_, ?_, rfl⟩, fun hacc =>
      ⟨_, energyPresetGo_asks hact hhalf hx, ?_, ?_, rfl⟩⟩⟩, fun p a s hact hread hcov hlatch hsnap =>
    ⟨_, snapshotWord0Read_latches hact hread hcov hlatch hsnap, fun d hd => ?_, fun c off hpl => ?_, fun q hq => ?_⟩,
    fun p a s hact hread hlatch => ⟨fun g hpl => ?_, fun o ho hpl => ?_, fun hpl => ?_⟩⟩
  · exact State.getHp_modHp _ _ _
  · exact fun q hq => State.getHp_modHp_ne _ _ _ _ hq
  · exact State.getHp_modHp _ _ _
  · exact fun q hq => State.getHp_modHp_ne _ _ _ _ hq
  · rw [State.getCtx_modCtx, Ctx.presetAsked, if_pos hacc]
  · exact fun j hj => State.getCtx_modCtx_ne _ _ _ _ hj
  · rw [State.getCtx_modCtx, Ctx.presetAsked, if_neg (by simp [hacc])]
  · exact fun j hj => State.getCtx_modCtx_ne _ _ _ _ hj
  · have hhost := regClear_host hsnap p (s.modHp p (fun h => { h with latch := latchAfter s p a.toNat (place a.toNat) }))
    simp only [State.latched, State.getHp, hhost]
    change Option.map _ (List.find? _ ((s.modHp p _).getHp p).latch) = _
    rw [State.getHp_modHp]
    exact congrArg _ (find?_foldl_tset (F := fun b => regRead s p (place b)) (fun e he => mem_snapTake he) _ (.inl (snapTake_mem hd)))
  · rw [hpl]
    refine ⟨rfl, ?_⟩
    simp only [regClear, State.getHp_modHp]
  · simp only [State.getHp, regClear_host hsnap]
    exact State.getHp_modHp_ne _ _ _ _ hq
  · have h := rcRead_clears hact hread (by rw [hpl]; rfl) (by rw [hpl]; rfl) hlatch (by rw [hpl]; rfl)
    rw [hpl] at h
    exact ⟨_, h, State.getGrp_modGrp _ _ _, fun j hj => State.getGrp_modGrp_ne _ _ _ _ hj, rfl⟩
  · have h := rcRead_clears hact hread (by rw [hpl]; rfl) (by rw [hpl]; rfl) hlatch (by rw [hpl]; rfl)
    rw [hpl] at h
    simp only [regClear, ho, if_true] at h
    exact ⟨_, h, State.getOut_modOut _ _ _, fun j hj => State.getOut_modOut_ne _ _ _ _ hj, rfl⟩
  · have h := rcRead_clears hact hread (by rw [hpl]; rfl) (by rw [hpl]; rfl) hlatch (by rw [hpl]; rfl)
    rw [hpl] at h
    exact ⟨_, h, State.getHp_modHp _ _ _, fun j hj => State.getHp_modHp_ne _ _ _ _ hj, rfl⟩

end Sys2Proof.Machine
end

section
-- One proof after another: elaborated side by side they take more memory than the check allows.
set_option Elab.async false
/-! PROOF. The requests for calibration (O38). The command word gives back the fields that it packs; what it asks for is refused or
queued by `calAsk`. -/

namespace Sys2Proof.Machine

open Sys2Proof.Cert

/-! ## Fields of a packed word -/

theorem bits_or (a b : Word) (hi lo : Nat) : bits (a ||| b) hi lo = bits a hi lo ||| bits b hi lo := by
  simp only [bits, BitVec.toNat_or, ← Nat.shiftRight_eq_div_pow, Nat.shiftRight_or_distrib, Nat.or_mod_two_pow]

theorem bit_ofNat_mul (n lo i : Nat) (hi : i < 32) : bit (BitVec.ofNat 32 (n * 2 ^ lo)) i = (decide (lo ≤ i) && n.testBit (i - lo)) := by
  rw [bit, BitVec.getLsbD_ofNat, Nat.testBit_mul_two_pow]
  simp [hi]

/-- The word of CAL_CMD that starts a command. -/
def calWord (op : Nat) (d loc : Bool) (idx : Nat) : Word := goBit ||| packW [(op, 28), (b2n d, 27), (b2n loc, 26), (idx, 0)]

theorem calWord_fields {op idx : Nat} (hop : op < 8) (d loc : Bool) (hidx : idx < 4096) :
    bits (calWord op d loc idx) 30 28 = op ∧ bit (calWord op d loc idx) 27 = d ∧ bit (calWord op d loc idx) 26 = loc ∧
    bits (calWord op d loc idx) 11 0 = idx ∧ bit (calWord op d loc idx) 31 = true := by
  have htop : ∀ i, 12 ≤ i → idx.testBit i = false := fun i hi =>
    Nat.testBit_lt_two_pow (Nat.lt_of_lt_of_le hidx (Nat.pow_le_pow_right (by decide) hi : 2 ^ 12 ≤ 2 ^ i))
  have h1 : bits (BitVec.ofNat 32 (op * 2 ^ 28)) 30 28 = op := by simp only [bits, BitVec.toNat_ofNat]; omega
  have h2 : bits (BitVec.ofNat 32 (op * 2 ^ 28)) 11 0 = 0 := by simp only [bits, BitVec.toNat_ofNat]; omega
  have h3 : bits (BitVec.ofNat 32 (idx * 2 ^ 0)) 30 28 = 0 := by simp only [bits, BitVec.toNat_ofNat]; omega
  have h4 : bits (BitVec.ofNat 32 (idx * 2 ^ 0)) 11 0 = idx := by simp only [bits, BitVec.toNat_ofNat]; omega
  refine ⟨?_, ?_, ?_, ?_, bit_goBit_or _⟩
  · simp only [calWord, packW, bits_or, h1, h3]
    cases d <;> cases loc <;> simp [bits, goBit, b2n]
  · simp only [calWord, packW, bit_or, bit_ofNat_mul _ _ 27 (by decide), htop 27 (by decide)]
    cases d <;> cases loc <;> simp [goBit, b2n, bit, Nat.testBit]
  · simp only [calWord, packW, bit_or, bit_ofNat_mul _ _ 26 (by decide), htop 26 (by decide)]
    cases d <;> cases loc <;> simp [goBit, b2n, bit]
  · simp only [calWord, packW, bits_or, h2, h4]
    cases d <;> cases loc <;> simp [bits, goBit, b2n]

/-! ## The request (R339) -/

/-- The registers of CAL_CMD that a request leaves. -/
def Cal.asked (op : Nat) (d loc : Bool) (idx : Nat) (c : Cal) : Cal := { c with op := op, det := d, loc := loc, index := idx }

/-- What CAL_CMD does when it starts a command. -/
theorem regWrite_calCmd {op idx : Nat} (hop : op < 8) (d loc : Bool) (hidx : idx < 4096) (role p : Nat) (s : State) :
    regWrite role p (.cal 0) (calWord op d loc idx) s = (false, calGo (s.modCalIsl (Cal.asked op d loc idx))) := by
  obtain ⟨h1, h2, h3, h4, h5⟩ := calWord_fields hop d loc hidx
  simp only [regWrite, calWrite, h1, h2, h3, h4, h5, if_true]
  rfl

theorem calRefused_asked (kind : Nat) (d : Bool) (idx : Nat) (s : State) (op : Nat) (d' loc : Bool) (i : Nat) :
    calRefused kind d idx (s.modCalIsl (Cal.asked op d' loc i)) = calRefused kind d idx s := rfl

/-- R339: the request that takes its place in the queue. -/
def CalQ.ask (kind : Nat) (d : Bool) (idx order : Nat) (q : CalQ) : CalQ :=
  { result := q.result, st := .queued, kind := kind, det := d, index := idx, order := order }

theorem calAsk_refused {kind idx e : Nat} {d : Bool} {s : State} (h : calRefused kind d idx s = some e) :
    calAsk kind d idx s = s.modCalIsl (fun c => { c with cmdResult := e }) := by
  simp only [calAsk, h]; rfl

theorem calAsk_queued {kind idx j : Nat} {d : Bool} {s : State} (h : calRefused kind d idx s = none)
    (hj : (List.range 16).find? (fun j => !(s.getCalQ j).busy) = some j) :
    ∃ u, calAsk kind d idx s = u ∧ u.getCalQ j = CalQ.ask kind d idx s.cal.order (s.getCalQ j) ∧
      (∀ k, k ≠ j → u.getCalQ k = s.getCalQ k) ∧
      u = { s with cal := { s.cal with q := u.cal.q, order := s.cal.order + 1, cmdResult := 0 } } := by
  simp only [calAsk, h, hj]
  exact ⟨_, rfl, State.getCalQ_modCalQ _ _ _, fun k hk => State.getCalQ_modCalQ_ne _ _ _ _ hk, rfl⟩

/-- The accepted write of CAL_CMD. -/
theorem calRow_audited {p op idx : Nat} {d loc : Bool} {s u : State} (hop : op < 8) (hidx : idx < 4096) (hact : MayAct s p 2 islSteward)
    (hu : calGo (s.modCalIsl (Cal.asked op d loc idx)) = u) (hnow : u.now = s.now) (hep : u.tb.epoch = s.tb.epoch) :
    ∃ t, calRow p op d loc idx s = .next t ∧ Audited p 0x1C0000 (calRead s 0) (calWord op d loc idx) s u t :=
  rowWrite_audited (pl := .cal 0) rfl hact rfl trivial rfl (fun _ => rfl) (Nat.le_refl 2) (Nat.le_refl 2) rfl rfl
    ((regWrite_calCmd hop d loc hidx _ _ _).trans (by rw [hu])) hnow hep

theorem calWord_head (d : Bool) (h : Fin 4096) :
    calWord 1 d false h = packW [(1, 31), (1, 28), (if d then 1 else 0, 27), (h, 0)] := by
  simp [calWord, packW, goBit, b2n]

theorem calWord_local (i : Fin 4096) : calWord 2 false false i = packW [(1, 31), (2, 28), (i, 0)] := by
  simp [calWord, packW, goBit, b2n]

/-- Settles O38, by whether a check fails. -/
theorem calibrationRequests : Obligations.CalibrationRequests := by
  intro p d h i s hact c1 c2 v1 v2
  have hv1 : v1 = calWord 1 d false h := (calWord_head d h).symm
  have hv2 : v2 = calWord 2 false false i := (calWord_local i).symm
  rw [hv1, hv2]
  refine ⟨fun e he => ?_, fun e he => ?_, fun j hj => ⟨fun hok => ?_, fun hok => ?_⟩⟩
  · exact calRow_audited (op := 1) (d := d) (loc := false) (by decide) h.isLt hact (calAsk_refused he) rfl rfl
  · exact calRow_audited (op := 2) (d := false) (loc := false) (by decide) i.isLt hact (calAsk_refused he) rfl rfl
  · obtain ⟨u, hu, hq, hne, hframe⟩ := calAsk_queued (s := s.modCalIsl (Cal.asked 1 d false h)) hok hj
    obtain ⟨t, ht, haud⟩ := calRow_audited (op := 1) (d := d) (loc := false) (by decide) h.isLt hact hu (by rw [hframe]; rfl)
      (by rw [hframe]; rfl)
    exact ⟨t, u, ht, by rw [hframe], hq, hne, hframe, haud⟩
  · obtain ⟨u, hu, hq, hne, hframe⟩ := calAsk_queued (s := s.modCalIsl (Cal.asked 2 false false i)) hok hj
    obtain ⟨t, ht, haud⟩ := calRow_audited (op := 2) (d := false) (loc := false) (by decide) i.isLt hact hu (by rw [hframe]; rfl)
      (by rw [hframe]; rfl)
    exact ⟨t, u, ht, hq, hne, hframe, haud⟩

end Sys2Proof.Machine
end

section
-- One proof after another: elaborated side by side they take more memory than the check allows.
set_option Elab.async false
/-! PROOF. The conversions of the local converter (O36). A slot of a running sequence that nothing interrupts does its work, and neither
its boundary nor the choice of the next holder changes anything (`lcBoundary_running`, `lcHolder_seq`). -/

namespace Sys2Proof.Machine

open Sys2Proof.Cert

/-! ## What can interrupt the sequence (R325 to R328) -/

/-- Whether an injected conversion of slot i is in flight. -/
def Lc.injFlies (l : Lc) (i : Nat) : Bool := l.fly.any (fun c => c.inj && c.entry == i)

theorem Lc.nextInj_congr {l : Lc} (m : Lc) (hinj : m.inj = l.inj) (hask : m.burstAsk = l.burstAsk) (hfly : ∀ i, m.injFlies i = l.injFlies i) :
    m.nextInj = l.nextInj := by
  unfold Lc.nextInj
  simp only [hinj, hask]
  refine congrArg (fun f => List.find? f _) (funext fun i => ?_)
  have := hfly i
  unfold Lc.injFlies at this
  rw [this]

/-- The clock moves the conversions in flight on, and adds none. -/
theorem injFlies_clock (l : Lc) (i : Nat) : (lcClock l).injFlies i = l.injFlies i := by
  simp [Lc.injFlies, lcClock, List.any_map, Function.comp_def]

/-- The sequence has the converter, and nothing cuts it. -/
structure Lc.InSequence (l : Lc) : Prop where
  now : l.now_ = .seq
  run : l.run = true
  running : l.running = true
  good : l.anyGood = true
  up : l.down = false
  go : l.stopped = false
  noBurst : l.burstReady = false
  noInj : l.nextInj = none

theorem Lc.InSequence.cut {l : Lc} (h : l.InSequence) : l.cut = false := by
  simp [Lc.cut, h.noBurst, h.noInj, h.go, h.run]

theorem State.modLcIsl_self {s : State} {f : Lc → Lc} (h : f s.lc = s.lc) : s.modLcIsl f = s := by
  rw [State.modLcIsl, h]

theorem lcBoundary_running {s : State} (h : s.lc.InSequence) : lcBoundary s = s := by
  obtain ⟨-, hrun, hrunning, hgood, hup, hgo, -, -⟩ := h
  have hidle : (!s.lc.run || !s.lc.anyGood) = false := by simp [hrun, hgood]
  have hstay : ({ s.lc with stopped := false } : Lc) = s.lc := by rw [← hgo]
  simp only [lcBoundary, hidle, Bool.false_eq_true, if_false]
  refine State.modLcIsl_self ?_
  rw [if_neg (by simp [hrun, hgood, hup]), if_neg (by simp [hrunning, hgo])]
  exact hstay

theorem lcHolder_seq {s : State} (h : s.lc.InSequence) : lcHolder s = s := by
  simp only [lcHolder, h.now, h.noBurst, h.noInj, Bool.false_eq_true, if_false, ite_self]

/-! ## A slot of the sequence (R314, R320) -/

/-- The converter after the clock of a slot of sequence work. -/
def Lc.worked (l : Lc) : Lc := { lcClock l with sinceBurst := l.sinceBurst + 1 }

theorem Lc.InSequence.worked {l : Lc} (h : l.InSequence) : l.worked.InSequence :=
  ⟨h.now, h.run, h.running, h.good, h.up, h.go, h.noBurst, (Lc.nextInj_congr (l := l) l.worked rfl rfl (injFlies_clock l)).trans h.noInj⟩

/-- A slot of a running sequence that leaves it in sequence does its work. -/
theorem lcSlot_seq {raw : Int} {s t : State} (hup : s.up islAnalog = true) (h : s.lc.InSequence) (hready : s.lc.ready = true)
    (ht : lcSeqSlot raw (s.modLcIsl Lc.worked) = t) (hseq : t.lc.InSequence) : exec (.lcSlot raw) s = .next t := by
  have hwork : lcSlotWork raw (s.modLcIsl lcClock) = lcSeqSlot raw (s.modLcIsl Lc.worked) := by
    have hnow : (s.modLcIsl lcClock).lc.now_ = .seq := h.now
    have hrunning : (s.modLcIsl lcClock).lc.running = true := h.running
    simp only [lcSlotWork, hnow, hrunning, whenDo_true]
    rfl
  have hdo : (!s.lc.down && s.lc.ready) = true := by simp [h.up, hready]
  refine (onIsl_up hup : execLcSlot raw s = _).trans ?_
  simp only []
  rw [hdo, whenDo_true, hwork, ht, lcBoundary_running hseq, lcHolder_seq hseq]

theorem lcSlot_idle {raw : Int} {s : State} (hup : s.up islAnalog = true) (h : s.lc.InSequence) (hready : s.lc.ready = true)
    (hidle : 0 < s.lc.idle) : exec (.lcSlot raw) s = .next (s.modLcIsl (fun l => { l.worked with idle := l.idle - 1 })) := by
  have hw := h.worked
  refine lcSlot_seq hup h hready ?_ ⟨hw.now, hw.run, hw.running, hw.good, hw.up, hw.go, hw.noBurst, hw.noInj⟩
  have hrunning : (s.modLcIsl Lc.worked).lc.running = true := hw.running
  have hidle' : 0 < (s.modLcIsl Lc.worked).lc.idle := hidle
  simp only [lcSeqSlot, hrunning, Bool.not_true, Bool.false_eq_true, if_false, hidle', if_true]
  rfl

/-- The conversion that the tracking slot of the present entry starts; its index is within 1 of the present one. -/
def Lc.sampled (raw : Int) (trim : Word) (idx : Nat) (l : Lc) : LcConv :=
  { slice := l.slice, wait := 8, raw := raw, inj := false, first := l.firstRes, stale := l.stale, entry := l.entry, rep := l.rep
    ent := l.act.getD l.entry {}, idx := idx, trim := trim, burst := none }

/-- The converter with that conversion in flight. -/
def Lc.launch (raw : Int) (trim : Word) (idx : Nat) (l : Lc) : Lc :=
  { l with fly := l.fly ++ [l.sampled raw trim idx], firstRes := false }

theorem injFlies_launch (raw : Int) (trim : Word) (idx : Nat) (l : Lc) (i : Nat) : (l.launch raw trim idx).injFlies i = l.injFlies i := by
  simp [Lc.injFlies, Lc.launch, Lc.sampled]

theorem lcSample_seq (raw : Int) (s : State) (trim : Word) :
    lcSample raw false s.lc.entry s.lc.rep (s.lc.act.getD s.lc.entry {}) none trim s =
      { s with lc := s.lc.launch raw trim (lcIndex s).1, fresh := s.fresh + 1 } := rfl

theorem lcIndex_near (s : State) : s.tb.idx - 1 ≤ (lcIndex s).1 ∧ (lcIndex s).1 ≤ s.tb.idx + 1 := by
  simp only [lcIndex, State.now]
  omega

/-- Where the sequence goes on after a conversion (R320): to the next repeat, or to the next good entry. -/
def Lc.goOn (l : Lc) : Lc :=
  if l.rep < (l.act.getD l.entry {}).repeat_ then { l.redo with rep := l.rep + 1 } else l.enter ((l.goodFrom (l.entry + 1)).getD 0)

theorem Lc.goOn_repeats {l : Lc} (h : l.rep < (l.act.getD l.entry {}).repeat_) : l.goOn = { l.redo with rep := l.rep + 1 } := if_pos h

theorem Lc.goOn_enters {l : Lc} {i : Nat} (h : ¬ l.rep < (l.act.getD l.entry {}).repeat_) (hi : l.goodFrom (l.entry + 1) = some i) :
    l.goOn = l.enter i := by
  rw [Lc.goOn, if_neg h, hi]
  rfl

theorem Lc.goOn_same (l : Lc) : l.goOn.fly = l.fly ∧ l.goOn.passes = l.passes ∧ l.goOn.fifo = l.fifo ∧ l.goOn.last = l.last ∧
    l.goOn.inj = l.inj ∧ l.goOn.burstAsk = l.burstAsk ∧ l.goOn.now_ = l.now_ ∧ l.goOn.run = l.run ∧ l.goOn.running = l.running ∧
    l.goOn.act = l.act ∧ l.goOn.down = l.down ∧ l.goOn.stopped = l.stopped := by
  unfold Lc.goOn
  split <;> exact ⟨rfl, rfl, rfl, rfl, rfl, rfl, rfl, rfl, rfl, rfl, rfl, rfl⟩

theorem Lc.InSequence.goOn {l : Lc} (h : l.InSequence) : l.goOn.InSequence := by
  obtain ⟨hfly, -, -, -, hinj, hask, hnow, hrun, hrunning, hact, hdown, hstopped⟩ := l.goOn_same
  refine ⟨hnow.trans h.now, hrun.trans h.run, hrunning.trans h.running, ?_, hdown.trans h.up, hstopped.trans h.go, ?_, ?_⟩
  · simpa only [Lc.anyGood, Lc.goodFrom, hact] using h.good
  · simpa only [Lc.burstReady, hask] using h.noBurst
  · exact (Lc.nextInj_congr _ hinj hask (fun i => by simp only [Lc.injFlies, hfly])).trans h.noInj

theorem Lc.InSequence.launch {l : Lc} (h : l.InSequence) (raw : Int) (trim : Word) (idx : Nat) : (l.launch raw trim idx).InSequence :=
  ⟨h.now, h.run, h.running, h.good, h.up, h.go, h.noBurst, (Lc.nextInj_congr (l := l) (l.launch raw trim idx) rfl rfl (injFlies_launch raw trim idx l)).trans h.noInj⟩

theorem lcSeqSlot_tracks {raw : Int} {s : State} (h : s.lc.InSequence) (hidle : s.lc.idle = 0)
    (hnext : s.lc.rep < (s.lc.act.getD s.lc.entry {}).repeat_ ∨ (s.lc.goodFrom (s.lc.entry + 1)).isSome = true) :
    lcSeqSlot raw s = { s with
      lc := (s.lc.launch raw (s.lcTrim (s.lc.act.getD s.lc.entry {}).chan (s.lc.act.getD s.lc.entry {}).diff) (lcIndex s).1).goOn
      fresh := s.fresh + 1 } := by
  have hidle' : ¬ 0 < s.lc.idle := Nat.not_lt.2 (Nat.le_of_eq hidle)
  simp only [lcSeqSlot, h.running, Bool.not_true, Bool.false_eq_true, if_false, hidle', h.cut, lcSample_seq]
  by_cases hrep : s.lc.rep < (s.lc.act.getD s.lc.entry {}).repeat_
  · rw [if_pos hrep, Lc.goOn_repeats (l := s.lc.launch raw _ _) hrep]
    rfl
  · obtain ⟨i, hi⟩ := Option.isSome_iff_exists.1 (hnext.resolve_left hrep)
    rw [if_neg hrep, Lc.goOn_enters (l := s.lc.launch raw _ _) hrep hi, hi]
    rfl

/-- R320: the tracking slot of a conversion that does not end a pass. -/
theorem lcSlot_tracks {raw : Int} {s : State} (hup : s.up islAnalog = true) (h : s.lc.InSequence) (hready : s.lc.ready = true)
    (hidle : s.lc.idle = 0)
    (hnext : s.lc.rep < (s.lc.act.getD s.lc.entry {}).repeat_ ∨ (s.lc.goodFrom (s.lc.entry + 1)).isSome = true) :
    exec (.lcSlot raw) s = .next { s with
      lc := (s.lc.worked.launch raw (s.lcTrim (s.lc.act.getD s.lc.entry {}).chan (s.lc.act.getD s.lc.entry {}).diff) (lcIndex s).1).goOn
      fresh := s.fresh + 1 } :=
  lcSlot_seq hup h hready (lcSeqSlot_tracks (s := s.modLcIsl Lc.worked) h.worked hidle hnext) (h.worked.launch _ _ _).goOn

/-! ## A result (R330, R331) -/

theorem lcPush_full {w tag : Word} {idx : Nat} {s : State} (h : 1024 ≤ s.lc.fifo.length) :
    (lcPush w tag idx s).lc.fifo = s.lc.fifo ∧ (lcPush w tag idx s).lc.ovf = true ∧
    (lcPush w tag idx s).lc.lost = min 0xFFFF (s.lc.lost + 1) := by
  unfold lcPush
  rw [if_pos h]
  extract_lets due t
  cases due
  · exact ⟨rfl, rfl, rfl⟩
  · rw [whenDo_true, raise_eq]; exact ⟨rfl, rfl, rfl⟩

theorem lcPush_room {w tag : Word} {idx : Nat} {s : State} (h : s.lc.fifo.length < 1024) :
    lcPush w tag idx s = s.modLcIsl (fun l => { l with fifo := l.fifo ++ [(w, tag, idx)] }) := by
  unfold lcPush
  rw [if_neg (Nat.not_le.2 h)]

theorem lcPush_same (w tag : Word) (idx : Nat) (s : State) : (lcPush w tag idx s).lc.last = s.lc.last ∧
    (lcPush w tag idx s).lc.fly = s.lc.fly ∧ (lcPush w tag idx s).lc.entry = s.lc.entry ∧ (lcPush w tag idx s).lc.inj = s.lc.inj ∧
    lcPush w tag idx s = { s with lc := (lcPush w tag idx s).lc, log := (lcPush w tag idx s).log } := by
  unfold lcPush
  split
  · extract_lets due t
    cases due
    · exact ⟨rfl, rfl, rfl, rfl, rfl⟩
    · rw [whenDo_true, raise_eq]; exact ⟨rfl, rfl, rfl, rfl, rfl⟩
  · exact ⟨rfl, rfl, rfl, rfl, rfl⟩

/-- R330: the result of a conversion of the sequence is the latest of its channel, and goes into the FIFO where its entry says so. -/
theorem lcDeliver_seq {c : LcConv} (hburst : c.burst = none) (hinj : c.inj = false) (s : State) :
    lcDeliver c s =
      let v := lcCode c.raw c.trim c.ent.diff
      let w := lcWord v.1 c.ent.diff c.ent.fmt c.ent.align
      let u := s.modLcIsl (fun l => { l with last := tset l.last c.ent.chan w })
      if c.ent.fifo then lcPush w (lcTag c v.2) c.idx u else u := by
  simp only [lcDeliver, hburst, hinj, Bool.false_eq_true, if_false]

theorem lcResult_due {s : State} {c : LcConv} {rest : List LcConv} (hup : s.up islAnalog = true) (hfly : s.lc.fly = c :: rest)
    (hwait : c.wait = 0) : exec .lcResult s = .next (lcDeliver c (s.modLcIsl (fun l => { l with fly := rest }))) := by
  refine (onIsl_up hup : execLcResult s = _).trans ?_
  simp only [hfly, hwait, if_true]

/-- Settles O36, one lemma for each command and case. -/
theorem localConversions : Obligations.LocalConversions := by
  refine ⟨fun raw s hup hdown hnow hrun hrunning hgood hready hstop hburst hinj => ?_, fun s c rest hup hfly => ⟨fun hwait => ?_,
    fun hwait hburst hinj => ?_⟩, fun s hup hcal => ?_, fun s i hup hkind hst hdown hnow hsince hask hfly => ?_⟩
  · have h : s.lc.InSequence := ⟨hnow, hrun, hrunning, hgood, hdown, hstop, hburst, hinj⟩
    refine ⟨fun hidle => lcSlot_idle hup h hready hidle, fun hidle => ?_⟩
    intro e hnext
    obtain ⟨hfly, hpasses, hfifo, hlast, -⟩ := Lc.goOn_same (s.lc.worked.launch raw (s.lcTrim e.chan e.diff) (lcIndex s).1)
    refine ⟨_, s.lc.worked.sampled raw (s.lcTrim e.chan e.diff) (lcIndex s).1, lcSlot_tracks hup h hready hidle hnext, hfly, rfl,
      (lcIndex_near s).1, (lcIndex_near s).2, fun hrep => ?_, fun hrep => ?_, hpasses, hfifo, hlast, rfl⟩
    · rw [Lc.goOn_repeats (l := s.lc.worked.launch raw _ _) hrep]
      exact ⟨rfl, rfl, rfl⟩
    · obtain ⟨i, hi⟩ := Option.isSome_iff_exists.1 (hnext.resolve_left (Nat.not_lt.2 hrep))
      rw [Lc.goOn_enters (l := s.lc.worked.launch raw _ _) (Nat.not_lt.2 hrep) hi, hi]
      exact ⟨rfl, rfl⟩
  · refine (onIsl_up hup : execLcResult s = _).trans ?_
    simp only [hfly, hwait, if_false]
  · intro v w
    rw [lcResult_due hup hfly hwait, lcDeliver_seq hburst hinj]
    extract_lets u
    have hlast : tget 0 u.lc.last c.ent.chan = w := tget_tset_same _ _ _ _
    cases hpush : c.ent.fifo
    · exact ⟨u, rfl, hlast, rfl, fun _ => rfl, nofun, nofun, rfl, rfl, rfl⟩
    · obtain ⟨h1, h2, h3, h4, h5⟩ := lcPush_same w (lcTag c v.2) c.idx u
      refine ⟨_, rfl, by rw [if_pos rfl, h1]; exact hlast, h2, nofun, fun _ hroom => ?_, fun _ hfull => ?_, h3, h4, ?_⟩
      · rw [if_pos rfl, lcPush_room (s := u) hroom]; exact ⟨rfl, rfl⟩
      · exact lcPush_full hfull
      · exact h5
  · have hready : s.lc.calibrated = true := by
      rcases hcal with h | h
      · simp [Lc.calibrated, h]
      · simpa [Lc.calibrated] using .inr h
    refine (onIsl_up hup : execLcReady s = _).trans ?_
    simp only [hready, if_true]
    rfl
  · have hasks : (List.range 16).any (fun i => (s.getCalQ i).kind == 2 && (s.getCalQ i).st == .waiting) = true :=
      List.any_eq_true.2 ⟨i, List.mem_range.2 i.isLt, by simp [hkind, hst]⟩
    have hnone : s.lc.fly.any (fun c => c.burst.isSome) = false := by
      rw [List.any_eq_false]
      intro c hc
      simp [hfly c hc]
    refine (onIsl_up hup : execLcCalBurst s = _).trans (congrArg Host.Outcome.next (if_neg ?_))
    simp [hasks, hdown, hnow, hask, hnone, Nat.not_lt.2 hsince]

end Sys2Proof.Machine
end

section
-- One proof after another: elaborated side by side they take more memory than the check allows.
set_option Elab.async false
/-! PROOF. The rotation of the slices, the control of the sequence, the injected requests and the FIFO (O37). -/

namespace Sys2Proof.Machine

open Sys2Proof.Cert

/-! ## A converter that stops (R316) -/

/-- What the end of an outing leaves of the converter. -/
structure Lc.SameSlices (l m : Lc) : Prop where
  failed : m.failed = l.failed
  running : m.running = l.running
  inj : m.inj = l.inj

theorem endOuting_sameSlices (i r : Nat) (s : State) : s.lc.SameSlices (endOuting i r s).lc := by
  unfold endOuting
  extract_lets q s₁ s₂ s₃ s₄
  have h₁ : s₁.lc = s.lc := State.lc_eq (m := { head := true }) rfl (by simp [s₁])
  have h₂ : s₁.lc.SameSlices s₂.lc := by
    unfold s₂ whenDo
    split
    · simp only [State.modLcIsl_lc]; split <;> exact ⟨rfl, rfl, rfl⟩
    · exact ⟨rfl, rfl, rfl⟩
  have h₃ : s₄.lc = s₂.lc := State.lc_eq (m := { cal := true, log := true }) rfl (by unfold s₄ s₃; split <;> simp)
  have h₅ : (irqAll irqCal s₄).lc = s₄.lc := State.lc_eq (m := { host := true }) rfl (by simp)
  rw [h₅, h₃, ← h₁]
  exact h₂

theorem getInj_modLcIsl {s : State} {f : Lc → Lc} (h : (f s.lc).inj = s.lc.inj) (j : Nat) : (s.modLcIsl f).getInj j = s.getInj j := by
  simp only [State.getInj, State.modLcIsl, h]

theorem pending_lcInjEnd (i r : Nat) (s : State) : ((lcInjEnd i r s).getInj i).pending = false := by
  unfold lcInjEnd
  rw [getInj_modLcIsl rfl, State.getInj_modInj]

theorem getInj_lcInjEnd_ne {i j : Nat} (h : j ≠ i) (r : Nat) (s : State) : (lcInjEnd i r s).getInj j = s.getInj j := by
  unfold lcInjEnd
  rw [getInj_modLcIsl rfl, State.getInj_modInj_ne _ _ _ _ h]

/-- R316: a converter that stops has ended every injected request. -/
theorem lcDown_stops (s : State) : (lcDown s).lc.failed = s.lc.failed ∧ (lcDown s).lc.running = false ∧
    ∀ j, j < 4 → ((lcDown s).getInj j).pending = false := by
  unfold lcDown
  extract_lets s₁ s₂ s₃
  have h₂ : s₂.lc.failed = s.lc.failed ∧ s₂.lc.running = false := by
    unfold s₂
    refine each_keeps (fun u : State => u.lc.failed = s.lc.failed ∧ u.lc.running = false)
      (f := fun s i => whenDo (s.getInj i).pending (lcInjEnd i 2) s) (fun u j hu => ?_) _ ⟨rfl, rfl⟩
    cases (u.getInj j).pending <;> exact hu
  have hend : ∀ (u : State) (j : Nat), ((whenDo (u.getInj j).pending (lcInjEnd j 2) u).getInj j).pending = false := by
    intro u j
    cases hb : (u.getInj j).pending
    · exact hb
    · exact pending_lcInjEnd j 2 u
  have hinj : ∀ j, j < 4 → (s₂.getInj j).pending = false := by
    intro j hj
    unfold s₂
    refine each_establishes (P := fun u => (u.getInj j).pending = false) (f := fun s i => whenDo (s.getInj i).pending (lcInjEnd i 2) s)
      (fun u b hu => ?_) (fun u => hend u j) (List.mem_range.2 hj) _
    by_cases hjb : j = b
    · subst hjb; exact hend u j
    · exact whenDo_keeps (fun w => (w.getInj j).pending = false) (fun w hw => by rwa [getInj_lcInjEnd_ne hjb]) _ hu
  have h₃ : s₂.lc.SameSlices s₃.lc := by
    unfold s₃
    refine each_keeps (fun u : State => s₂.lc.SameSlices u.lc)
      (f := fun s i => whenDo ((s.getCalQ i).busy && (s.getCalQ i).kind == 2) (endOuting i 5) s) (fun u j hu => ?_) _ ⟨rfl, rfl, rfl⟩
    refine whenDo_keeps (fun u : State => s₂.lc.SameSlices u.lc) (fun v hv => ?_) _ hu
    have h := endOuting_sameSlices j 5 v
    exact ⟨h.failed.trans hv.failed, h.running.trans hv.running, h.inj.trans hv.inj⟩
  clear_value s₃
  rw [raise_eq]
  refine ⟨h₃.failed.trans h₂.1, h₃.running.trans h₂.2, fun j hj => ?_⟩
  have : s₃.getInj j = s₂.getInj j := by simp only [State.getInj, h₃.inj]
  exact (congrArg LcInj.pending this).trans (hinj j hj)

/-! ## Rotation (R315, R316) -/

section
variable {i : Fin 9} {corr : Int × Int × Int} {s : State}

theorem lcRotate_eq (hup : s.up islAnalog = true) (hdown : s.lc.down = false) (hworks : s.lc.works i = true) :
    exec (.lcRotate i corr) s = .next
      (if decide (corr.1.natAbs > 512) || decide (corr.2.1.natAbs > 20000) then lcFail i s
       else if s.lc.spare == some i.val && s.lc.rotateDue then s.modLcIsl (Lc.rotate i corr) else s) := by
  refine (onIsl_up hup : execLcRotate i corr s = _).trans ?_
  simp only [hdown, hworks, Bool.not_true, Bool.or_self, Bool.false_eq_true, if_false]

theorem lcRotate_outside (hup : s.up islAnalog = true) (hworks : s.lc.works i = false) : exec (.lcRotate i corr) s = .next s := by
  refine (onIsl_up hup : execLcRotate i corr s = _).trans ?_
  simp only [hworks, Bool.not_false, Bool.or_true, if_true]

theorem works_iff {l : Lc} {n : Nat} : l.works n = true ↔ (l.spare = some n ∨ n ∈ l.ages) := by
  simp [Lc.works]

theorem bad_iff : (decide (corr.1.natAbs > 512) || decide (corr.2.1.natAbs > 20000)) = true ↔
    (512 < corr.1.natAbs ∨ 20000 < corr.2.1.natAbs) := by
  simp

/-- R316: a slice that fails is marked and logged. -/
theorem failSlice_marks (l : Lc) (n : Nat) : (l.failSlice n).failed.testBit n = true := by
  simp [Lc.failSlice, Nat.testBit_two_pow_self]

theorem lcFail_first (n : Nat) (hstale : s.lc.stale = false) :
    lcFail n s = (raise .lcSliceFail n [] s).modLcIsl (fun l => l.failSlice n) := by
  have : (raise .lcSliceFail n [] s).lc.stale = false := by rw [raise_eq]; exact hstale
  simp only [lcFail, this, Bool.false_eq_true, if_false]

theorem lcFail_second (n : Nat) (hstale : s.lc.stale = true) :
    lcFail n s = lcDown ((raise .lcSliceFail n [] s).modLcIsl (fun l => l.failSlice n)) := by
  have : (raise .lcSliceFail n [] s).lc.stale = true := by rw [raise_eq]; exact hstale
  simp only [lcFail, this, if_true]

theorem rotate_eq {old : Nat} {rest : List Nat} (hages : s.lc.ages = old :: rest) (n : Nat) :
    s.lc.rotate n corr = { s.lc with
      corr := tset s.lc.corr n corr, ages := rest ++ [n], spare := some old, pos := s.lc.pos.map (fun a => if a = old then n else a)
      rotations := satAdd 0xFFFF s.lc.rotations 1, sinceRot := 0, calib := s.lc.calib.set n (s.lc.calib.getD n 0 + 1) } := by
  simp only [Lc.rotate, hages]

end

/-- What a stop of the converter may change. -/
def Parts.converterStop : Parts := { head := true, lc := true, cal := true, host := true, log := true }

theorem lcFail_outside (n : Nat) (s : State) : (lcFail n s).outside Parts.converterStop = s.outside Parts.converterStop := by
  have h : ((raise .lcSliceFail n [] s).modLcIsl (fun l => l.failSlice n)).outside Parts.converterStop = s.outside Parts.converterStop := by
    simp [Parts.converterStop]
  unfold lcFail
  extract_lets s₁ second s₂
  split
  · exact (outside_lcDown rfl rfl rfl rfl rfl s₂).trans h
  · exact h

theorem lcRotate_all (i : Fin 9) (corr : Int × Int × Int) (s : State) (old : Nat) (rest : List Nat) (hup : s.up islAnalog = true)
    (hdown : s.lc.down = false) (hages : s.lc.ages = old :: rest) :
    let bad : Prop := 512 < corr.1.natAbs ∨ 20000 < corr.2.1.natAbs
    let works : Prop := s.lc.spare = some i.val ∨ i.val ∈ s.lc.ages
    (s.lc.spare = some i.val → ¬ bad → 76800 ≤ s.lc.sinceRot → ∃ t, exec (.lcRotate i corr) s = .next t ∧
       tget (0, 0, 0) t.lc.corr i = corr ∧ t.lc.spare = some old ∧ t.lc.ages = rest ++ [i.val] ∧
       t.lc.pos = s.lc.pos.map (fun a => if a = old then i.val else a) ∧ t.lc.rotations = min 0xFFFF (s.lc.rotations + 1) ∧
       t.lc.failed = s.lc.failed ∧ t = { s with lc := t.lc }) ∧
    (works → bad → s.lc.stale = false → ∃ t, exec (.lcRotate i corr) s = .next t ∧ t.lc.failed.testBit i = true ∧
       t.lc.spare = none ∧ t.lc.stale = true ∧ t.lc.down = false ∧ t.lc.running = s.lc.running ∧
       LoggedIfRoom (ent .lcSliceFail s.now i [] s) s t ∧ t = { s with lc := t.lc, log := t.log }) ∧
    (works → bad → s.lc.stale = true → ∃ t, exec (.lcRotate i corr) s = .next t ∧ t.lc.failed.testBit i = true ∧
       t.lc.down = true ∧ t.lc.running = false ∧ (∀ j, j < 4 → (t.getInj j).pending = false) ∧
       t = { s with head := t.head, lc := t.lc, cal := t.cal, host := t.host, log := t.log }) ∧
    (¬ works ∨ (¬ bad ∧ (s.lc.spare ≠ some i.val ∨ s.lc.sinceRot < 76800)) → exec (.lcRotate i corr) s = .next s) := by
  intro bad works
  refine ⟨fun hspare hgood hdue => ?_, fun hw hb hstale => ?_, fun hw hb hstale => ?_, fun hno => ?_⟩
  · have hrot : (s.lc.spare == some i.val && s.lc.rotateDue) = true := by simp [hspare, Lc.rotateDue, hdue]
    rw [lcRotate_eq hup hdown (works_iff.2 (.inl hspare)), if_neg (fun h => hgood (bad_iff.1 h)), if_pos hrot]
    refine ⟨_, congrArg (fun l => Host.Outcome.next { s with lc := l }) (rotate_eq hages i), ?_⟩
    exact ⟨tget_tset_same _ _ _ _, rfl, rfl, rfl, rfl, rfl, rfl⟩
  · rw [lcRotate_eq hup hdown (works_iff.2 hw), if_pos (bad_iff.2 hb), lcFail_first i hstale]
    refine ⟨_, rfl, failSlice_marks _ _, rfl, rfl, ?_, ?_, loggedIfRoom_raise _ _ _ _, by rw [raise_eq]; rfl⟩
    · rw [raise_eq]; exact hdown
    · rw [raise_eq]; rfl
  · refine ⟨lcFail i s, ?_, ?_⟩
    · rw [lcRotate_eq hup hdown (works_iff.2 hw), if_pos (bad_iff.2 hb)]
    have hframe := State.eq_onto (lcFail_outside i s)
    rw [lcFail_second i hstale] at hframe ⊢
    obtain ⟨hfailed, hrunning, hinj⟩ := lcDown_stops ((raise .lcSliceFail i [] s).modLcIsl (fun l => l.failSlice i))
    exact ⟨by rw [hfailed]; exact failSlice_marks _ _, down_lcDown _, hrunning, hinj, hframe⟩
  · by_cases hw : works
    · obtain ⟨hgood, hearly⟩ := hno.resolve_left (fun h => h hw)
      have hrot : ¬ (s.lc.spare == some i.val && s.lc.rotateDue) = true := by
        rcases hearly with h | h
        · simp [h]
        · simp [Lc.rotateDue, Nat.not_le.2 h]
      rw [lcRotate_eq hup hdown (works_iff.2 hw), if_neg (fun h => hgood (bad_iff.1 h)), if_neg hrot]
    · exact lcRotate_outside hup (by simpa using mt works_iff.1 hw)

/-! ## The control register and the FIFO's (R322, R323, R331) -/

/-- What LC_CTRL makes of the converter: RUN, LEN and, with COMMIT or one that waits, the table. -/
def Lc.controlled (run commit : Bool) (len : Nat) (l : Lc) : Lc :=
  let l := { l with run := run, stopped := l.stopped || !run, shadowLen := len }
  let l := if commit then { l with commitPending := true } else l
  if l.commitPending && !l.run then l.commit else l

theorem regWrite_lcCtrl (role p : Nat) (v : Word) (s : State) :
    regWrite role p (.lc 0) v s = (false, s.modLcIsl (Lc.controlled (bit v 30) (bit v 31) (bits v 5 0))) := rfl

theorem lcCtrl_audited {p : Fin 4} {v : Word} {s u : State} (hact : MayAct s p 2 islAnalog)
    (hu : s.modLcIsl (Lc.controlled (bit v 30) (bit v 31) (bits v 5 0)) = u) :
    ∃ t, rowWrite p 0x1B0000 v s = .next t ∧ Audited p 0x1B0000 (lcRead s 0) v s u t := by
  subst hu
  exact rowWrite_audited (pl := .lc 0) rfl hact rfl trivial rfl (fun _ => rfl) (Nat.le_refl 2) (Nat.le_refl 2) rfl rfl
    (regWrite_lcCtrl _ _ _ _) rfl rfl

/-- The fields that LC_CTRL reads as. -/
theorem lcRead_ctrl (s : State) (h : s.lc.shadowLen < 64) : bit (lcRead s 0) 30 = s.lc.run ∧ bits (lcRead s 0) 5 0 = s.lc.shadowLen := by
  have hlen : s.lc.shadowLen.testBit 30 = false :=
    Nat.testBit_lt_two_pow (Nat.lt_of_lt_of_le h (Nat.pow_le_pow_right (by decide) (by decide) : 2 ^ 6 ≤ 2 ^ 30))
  have hlow : bits (BitVec.ofNat 32 (s.lc.shadowLen * 2 ^ 0)) 5 0 = s.lc.shadowLen := by
    simp only [bits, BitVec.toNat_ofNat]; omega
  have hread : lcRead s 0 = packW [(b2n s.lc.run, 30), (s.lc.shadowLen, 0)] := rfl
  rw [hread]
  constructor
  · simp only [packW, bit_or, bit_ofNat_mul _ _ 30 (by decide), hlen]
    cases s.lc.run <;> simp [b2n, bit]
  · simp only [packW, bits_or, hlow]
    cases s.lc.run <;> simp [b2n, bits]

theorem commitWord_fields (s : State) (h : s.lc.shadowLen < 64) : bit (lcRead s 0 ||| goBit) 30 = s.lc.run ∧
    bit (lcRead s 0 ||| goBit) 31 = true ∧ bits (lcRead s 0 ||| goBit) 5 0 = s.lc.shadowLen := by
  obtain ⟨hrun, hlen⟩ := lcRead_ctrl s h
  refine ⟨?_, ?_, ?_⟩
  · rw [bit_or, hrun]; simp [bit, goBit]
  · rw [bit_or]; simp [bit, goBit]
  · rw [bits_or, hlen]; simp [bits, goBit]

/-- The word of LC_CTRL that gives RUN and leaves LEN. -/
def lcRunWord (s : State) (run : Bool) : Word := (lcRead s 0 &&& 0x3F) ||| packW [(b2n run, 30)]

theorem lcRunWord_fields (s : State) (h : s.lc.shadowLen < 64) (run : Bool) : bit (lcRunWord s run) 30 = run ∧
    bit (lcRunWord s run) 31 = false ∧ bits (lcRunWord s run) 5 0 = s.lc.shadowLen := by
  obtain ⟨-, hlen⟩ := lcRead_ctrl s h
  have hmask : bits (lcRead s 0 &&& 0x3F) 5 0 = bits (lcRead s 0) 5 0 := by
    simp only [bits, BitVec.toNat_and]
    exact (Nat.and_two_pow_sub_one_eq_mod _ 6).symm ▸ by simp
  refine ⟨?_, ?_, ?_⟩
  · simp only [lcRunWord, bit_or, packW]
    cases run <;> simp [bit, b2n]
  · simp only [lcRunWord, bit_or, packW]
    cases run <;> simp [bit, b2n]
  · simp only [lcRunWord, bits_or, hmask, hlen, packW]
    cases run <;> simp [bits, b2n]

theorem lcRunWord_eq (s : State) (run : Bool) : lcRunWord s run = (lcRead s 0 &&& 0x3F) ||| (if run then 0x40000000 else 0) := by
  cases run <;> rfl

/-- The table that COMMIT takes. -/
def Lc.shadowTable (l : Lc) : List LcEnt := (List.range (l.shadowLen + 1)).map (fun i => tget {} l.shadow i)

theorem controlled_keep (l : Lc) {run : Bool} (h : run = true ∨ l.commitPending = false) :
    l.controlled run false l.shadowLen = { l with run := run, stopped := l.stopped || !run } := by
  have hno : (l.commitPending && !run) = false := by rcases h with h | h <;> simp [h]
  simp only [Lc.controlled, Bool.false_eq_true, if_false, hno]

theorem controlled_pending {l : Lc} (h : l.run = true) : l.controlled l.run true l.shadowLen = { l with commitPending := true } := by
  cases l
  subst h
  simp [Lc.controlled]

theorem controlled_commit {l : Lc} {commit : Bool} (h : commit = true ∨ l.commitPending = true) :
    l.controlled false commit l.shadowLen = { l with
      run := false, stopped := true, act := l.shadowTable, commitPending := false
      badEntry := l.badEntry || l.shadowTable.any LcEnt.bad } := by
  cases commit
  · have hp := h.resolve_left nofun
    simp only [Lc.controlled, Bool.false_eq_true, if_false, hp, Bool.not_false, Bool.and_self, if_true, Bool.or_true]
    rfl
  · simp only [Lc.controlled, if_true, Bool.not_false, Bool.and_self, Bool.or_true]
    rfl

theorem lcCommit_takes {p : Fin 4} {s : State} (hact : MayAct s p 2 islAnalog) (hlen : s.lc.shadowLen < 64) :
    ∃ t u, exec (.lcCommit p) s = .next t ∧
       (s.lc.run = true → u = { s with lc := { s.lc with commitPending := true } }) ∧
       (s.lc.run = false → u.lc.act = (List.range (s.lc.shadowLen + 1)).map (fun i => tget {} s.lc.shadow i) ∧
         u = { s with lc := { s.lc with stopped := true, act := u.lc.act, commitPending := false, badEntry := u.lc.badEntry } }) ∧
       Audited p 0x1B0000 (lcRead s 0) (lcRead s 0 ||| 0x80000000) s u t := by
  obtain ⟨h30, h31, h5⟩ := commitWord_fields s hlen
  obtain ⟨t, ht, haud⟩ := lcCtrl_audited (v := lcRead s 0 ||| goBit) hact rfl
  rw [h30, h31, h5] at haud
  refine ⟨t, _, ht, fun hrun => ?_, fun hrun => ?_, haud⟩
  · exact congrArg (fun l => { s with lc := l }) (controlled_pending hrun)
  · simp only [State.modLcIsl]
    rw [hrun, controlled_commit (.inl rfl)]
    exact ⟨rfl, by rw [← hrun]⟩

theorem lcRun_writes {p : Fin 4} {s : State} (hact : MayAct s p 2 islAnalog) (hlen : s.lc.shadowLen < 64) (run : Bool) :
    ∃ t u, exec (.lcRun p run) s = .next t ∧
       (run = true ∨ s.lc.commitPending = false → u = { s with lc := { s.lc with run := run, stopped := s.lc.stopped || !run } }) ∧
       (run = false → s.lc.commitPending = true →
         u.lc.act = (List.range (s.lc.shadowLen + 1)).map (fun i => tget {} s.lc.shadow i) ∧
         u = { s with lc := { s.lc with run := false, stopped := true, act := u.lc.act, commitPending := false, badEntry := u.lc.badEntry } }) ∧
       Audited p 0x1B0000 (lcRead s 0) ((lcRead s 0 &&& 0x3F) ||| (if run then 0x40000000 else 0)) s u t := by
  obtain ⟨h30, h31, h5⟩ := lcRunWord_fields s hlen run
  obtain ⟨t, ht, haud⟩ := lcCtrl_audited (v := lcRunWord s run) hact rfl
  rw [h30, h31, h5, lcRunWord_eq] at haud
  refine ⟨t, _, ht, fun hkeep => ?_, fun hrun hp => ?_, haud⟩
  · exact congrArg (fun l => { s with lc := l }) (controlled_keep s.lc hkeep)
  · subst hrun
    rw [State.modLcIsl, controlled_commit (l := s.lc) (commit := false) (.inr hp)]
    exact ⟨rfl, rfl⟩

theorem lcFifoFlush_empties {p : Fin 4} {s : State} (hact : MayAct s p 2 islAnalog) (v : Word) :
    ∃ t, exec (.lcFifoFlush p v) s = .next t ∧ Audited p 0x1B0010 (lcRead s 0x10) v s
       { s with lc := { s.lc with owner := bits v 31 30, watermark := bits v 10 0, fifo := [] } } t :=
  rowWrite_audited (pl := .lc 0x10) rfl hact rfl trivial rfl (fun _ => rfl) (Nat.le_refl 2) (Nat.le_refl 2) rfl rfl rfl rfl rfl

/-! ## Injected requests (R325) -/

/-- The fields of a word below the bit that starts a command. -/
theorem bits_goBit_or_field (v : Word) {hi lo : Nat} (hlo : lo ≤ hi) (h : hi < 31) : bits (goBit ||| v) hi lo = bits v hi lo := by
  have hgo : bits goBit hi lo = 0 := by
    rw [bits, show goBit.toNat = 2 ^ 31 from rfl, Nat.pow_div (by omega) (by decide)]
    exact Nat.mod_eq_zero_of_dvd (Nat.pow_dvd_pow 2 (by omega))
  rw [bits_or, hgo, Nat.zero_or]

theorem bit_goBit_or_low (v : Word) {i : Nat} (h : i < 31) : bit (goBit ||| v) i = bit v i := by
  have hgo : bit goBit i = false := by
    rw [bit, show goBit = BitVec.twoPow 32 31 from rfl, BitVec.getLsbD_twoPow]
    simp; omega
  rw [bit_or, hgo, Bool.false_or]

/-- R325: the fields that a request takes from the word written. -/
def LcInj.asked (v : Word) (q : LcInj) : LcInj :=
  { q with chan := bits v 29 24, diff := bit v 23, align := bit v 22, fmt := bit v 21, delay := bits v 15 0 }

/-- R325: what GO makes of a slot that is not pending. -/
def LcInj.started (v : Word) (down : Bool) (q : LcInj) : LcInj :=
  if lcBad (bits v 29 24) (bit v 23) then { q.asked v with done := true, result := 1 }
  else if down then { q.asked v with done := true, result := 2 } else { q.asked v with pending := true }

theorem State.modInj_modInj (s : State) (i : Nat) (f g : LcInj → LcInj) : (s.modInj i f).modInj i g = s.modInj i (fun q => g (f q)) := by
  have h := State.getInj_modInj s i f
  unfold State.modInj at h ⊢
  rw [h]
  simp only [tset_tset]

theorem lcInjWrite_busy {i : Nat} {v : Word} {s : State} (h : (s.getInj i).pending = true) : lcInjWrite i v s = s := by
  simp only [lcInjWrite, h, if_true]

theorem lcInjWrite_go {i : Nat} (v : Word) {s : State} (h : (s.getInj i).pending = false) :
    lcInjWrite i (goBit ||| v) s = s.modInj i (LcInj.started v s.lc.down) := by
  have h1 := bits_goBit_or_field v (hi := 29) (lo := 24) (by decide) (by decide)
  have h2 := bits_goBit_or_field v (hi := 15) (lo := 0) (by decide) (by decide)
  have h3 := bit_goBit_or_low v (i := 23) (by decide)
  have h4 := bit_goBit_or_low v (i := 22) (by decide)
  have h5 := bit_goBit_or_low v (i := 21) (by decide)
  simp only [lcInjWrite, h, h1, h2, h3, h4, h5, bit_goBit_or, Bool.not_true, Bool.false_eq_true, if_false, State.modInj_modInj]
  have hdown (f : LcInj → LcInj) : (s.modInj i f).lc.down = s.lc.down := rfl
  rw [hdown]
  unfold LcInj.started
  split
  · rfl
  · split <;> rfl

theorem place_lcInj (slot : Fin 4) : place (0x1B0100 + 0x20 * slot.val) = .lc (0x100 + 0x20 * slot.val) := by
  revert slot; decide

theorem absentHalf_lcInj (slot : Fin 4) : absentHalf (0x1B0100 + 0x20 * slot.val) = false := by
  revert slot; decide

theorem lcInject_writes {p slot : Fin 4} {v : Word} {s : State} (hact : MayAct s p 1 islAnalog) :
    exec (.lcInject p slot v) s = .next (wordDone p (lcInjWrite slot (goBit ||| v) s)) := by
  have hpl := place_lcInj slot
  have hwrite : lcWrite (0x100 + 0x20 * slot.val) (goBit ||| v) s = lcInjWrite slot (goBit ||| v) s := by
    fin_cases slot <;> rfl
  have hneed : wrNeed (.lc (0x100 + 0x20 * slot.val)) (goBit ||| v) = 1 := by fin_cases slot <;> rfl
  have hexec := rowWrite_reg (v := goBit ||| v) (a := 0x1B0100 + 0x20 * slot.val) (s := s) (p := p) (role := 1) (by rw [hpl]; exact hact)
    (by rw [hpl]; rfl) (by rw [hpl]; trivial) (by omega) (fun _ => absentHalf_lcInj slot) (by rw [hpl, hneed])
    (by rw [hpl]; rfl)
  rw [hpl, writeAudited_operator (by rw [hneed]; decide)] at hexec
  exact hexec.trans (congrArg (fun t => Host.Outcome.next (wordDone p t)) hwrite)

/-! ## The FIFO (R331, R334) -/

/-- R334, R384: of the checks of a read, LC_FIFO makes those of the role and the owner. -/
theorem mayRead_lcFifo {p : Nat} {s : State} (hrole : 1 ≤ (s.getRolePort p).role) :
    s.mayRead p 0x1B0020 = (s.lc.owner == p) := by
  have hden : s.denied p false (.lc 0x20) 0 = (s.lc.owner != p) := by simp [State.denied, rdNeed, Nat.not_lt.2 hrole]
  have hcause : s.cause3 p false 0x1B0020 0 = if s.lc.owner != p then 2 else 0 := by
    rw [← hden]
    exact if_neg (by simp [absentHalf])
  have hcause4 : s.cause4 p 0x1B0020 = 0 := rfl
  rw [State.mayRead, hcause, hcause4]
  by_cases h : s.lc.owner = p <;> simp [h]

theorem lcFifoRead_refused {p : Fin 4} {s : State} (hact : MayAct s p 1 islAnalog) (h : s.lc.owner ≠ p) :
    exec (.lcFifoRead p) s = .next s := by
  obtain ⟨hup, -, -, hrole, hnone⟩ := hact
  have hno : s.mayRead p 0x1B0020 = false := by rw [mayRead_lcFifo hrole]; simp [h]
  refine (onIsl_up hup : execLcFifoRead p s = _).trans ?_
  rw [portRead, show (place 0x1B0020).target = islAnalog from rfl, drainTo_none hnone, hostRead, hno]
  rfl

theorem lcFifoRead_takes {p : Fin 4} {s : State} (hact : MayAct s p 1 islAnalog) (h : s.lc.owner = p) :
    exec (.lcFifoRead p) s = .next (lcFifoTake s) := by
  have hyes : s.mayRead p 0x1B0020 = true := by rw [mayRead_lcFifo hact.2.2.2.1]; simp [h]
  refine (onIsl_up hact.1 : execLcFifoRead p s = _).trans ?_
  rw [portRead_reg hact hyes rfl, show place 0x1B0020 = .lc 0x20 from rfl]
  have hcov : s.ctxCovers p (.lc 0x20) = false := rfl
  unfold readReg
  rw [hcov]
  cases s.latched p 0x1B0020 <;> rfl

theorem lcFifoTake_entry {s : State} {e : Word × Word × Nat} {rest : List (Word × Word × Nat)} (h : s.lc.fifo = e :: rest) :
    lcFifoTake s = { s with lc := { s.lc with fifo := rest, fifoLatch := (e.2.1, e.2.2) } } := by
  rw [lcFifoTake, State.modLcIsl, h]

theorem lcFifoTake_empty {s : State} (h : s.lc.fifo = []) :
    lcFifoTake s = s.modLcIsl (fun l => { l with fifoLatch := (packW [(1, 12)], 0) }) := by
  simp only [lcFifoTake, State.modLcIsl, h]

/-- Settles O37, one lemma for each command. -/
theorem converterRotationControlAndFifo : Obligations.ConverterRotationControlAndFifo := by
  refine ⟨lcRotate_all, fun p s hact => ⟨fun hlen => ⟨lcCommit_takes hact hlen, fun run => lcRun_writes hact hlen run⟩,
    fun v => lcFifoFlush_empties hact v⟩, fun p slot v s hact => ?_, fun p s hact => ⟨fun h => lcFifoRead_refused hact h, fun h =>
      ⟨fun e rest hfifo => ?_, fun hfifo => ?_⟩⟩⟩
  · refine ⟨fun hpend => ?_, fun hpend => ⟨s.modInj slot (LcInj.started v s.lc.down), ?_, ?_, ?_, ?_⟩⟩
    · rw [lcInject_writes hact, lcInjWrite_busy hpend]
    · rw [lcInject_writes hact, lcInjWrite_go v hpend]
    · exact State.getInj_modInj _ _ _
    · exact fun j hj => State.getInj_modInj_ne _ _ _ _ hj
    · rfl
  · rw [lcFifoRead_takes hact h, lcFifoTake_entry hfifo]
  · exact ⟨_, (lcFifoRead_takes hact h).trans (congrArg _ (lcFifoTake_empty hfifo)), hfifo, rfl⟩

end Sys2Proof.Machine
end

section
-- One proof after another: elaborated side by side they take more memory than the check allows.
set_option Elab.async false
/-! PROOF. The start of a frequency group and its new acquisition (O20). `OutputsOnly` says what new assignments of the
outputs may change: the outputs, the log, and the count of audit records. -/

namespace Sys2Proof.Machine

open Sys2Proof.Cert

/-! ## New assignments of the outputs (R206) -/

/-- A state that differs from another in the outputs, the log and the count of audit records only. -/
def OutputsOnly (s t : State) : Prop :=
  t = { s with pulse := { s.pulse with out := t.pulse.out }, log := t.log, role := { s.role with audit := t.role.audit } }

theorem OutputsOnly.refl (s : State) : OutputsOnly s s := rfl

theorem OutputsOnly.trans {s t u : State} (h : OutputsOnly s t) (h' : OutputsOnly t u) : OutputsOnly s u := by
  unfold OutputsOnly at *
  rw [h', h]

theorem outputsOnly_modOut (o : Nat) (f : PulseOut → PulseOut) (s : State) : OutputsOnly s (s.modOut o f) := rfl

theorem outputsOnly_raise (c : LogCode) (i : Nat) (l : List (Nat × Nat)) (s : State) : OutputsOnly s (raise c i l s) := by
  unfold OutputsOnly
  rw [raise_eq]

theorem outputsOnly_raiseAudit (c : LogCode) (i : Nat) (l : List (Nat × Nat)) (s : State) : OutputsOnly s (raiseAudit c i l s) := by
  unfold OutputsOnly raiseAudit
  rw [raise_eq]
  rfl

theorem OutputsOnly.each {α : Type} {f : State → α → State} (hf : ∀ s a, OutputsOnly s (f s a)) (l : List α) (s : State) :
    OutputsOnly s (each l f s) :=
  each_keeps (OutputsOnly s) (fun t a ht => ht.trans (hf t a)) l (OutputsOnly.refl s)

theorem OutputsOnly.whenDo {f : State → State} (hf : ∀ s, OutputsOnly s (f s)) (b : Bool) (s : State) : OutputsOnly s (whenDo b f s) :=
  whenDo_keeps (OutputsOnly s) (fun t ht => ht.trans (hf t)) b (OutputsOnly.refl s)

theorem outputsOnly_newUse (o a k : Nat) (grp : Option Nat) (taken : List OutChange) (c : OutChange) (s : State) :
    OutputsOnly s (newUse o a k grp taken c s) := by
  unfold newUse
  extract_lets s₁
  have hlog : OutputsOnly s₁ (logRebases o taken s₁) := OutputsOnly.each (fun s e => outputsOnly_raiseAudit _ _ _ s) _ _
  exact ((outputsOnly_modOut o _ s).trans hlog).trans (OutputsOnly.whenDo (fun s => outputsOnly_raise _ _ _ s) _ _)

theorem outputsOnly_applyChanges (gi k a : Nat) (s : State) : OutputsOnly s (applyChanges gi k a s) := by
  unfold applyChanges
  refine OutputsOnly.each (fun t o => ?_) _ _
  split
  · dsimp only
    split
    · exact OutputsOnly.refl t
    · exact outputsOnly_newUse _ _ _ _ _ _ _
  · exact OutputsOnly.refl t

/-! ## The start of a group (R154, R164) -/

theorem beginGroup_frame (gi start : Nat) (p : Plan) (s : State) : beginGroup gi start p s =
    { s with rs := (beginGroup gi start p s).rs } := by
  unfold beginGroup; split <;> rfl

theorem beginGroup_tokens (gi start : Nat) (p : Plan) (s : State) : (beginGroup gi start p s).rs.tokens = s.rs.tokens := by
  unfold beginGroup; split <;> rfl

theorem getGrp_modRsIsl {s : State} {f : Resamp → Resamp} (h : (f s.rs).grp = s.rs.grp) (j : Nat) : (s.modRsIsl f).getGrp j = s.getGrp j := by
  simp only [State.getGrp, State.modRsIsl, h]

theorem getGrp_beginGroup_ne {gi j : Nat} (h : j ≠ gi) (start : Nat) (p : Plan) (s : State) :
    (beginGroup gi start p s).getGrp j = s.getGrp j := by
  unfold beginGroup
  split
  · rfl
  · dsimp only
    rw [getGrp_modRsIsl rfl, State.getGrp_modGrp_ne _ _ _ _ h]

/-- Cycle i of a group that begins, on the ring parameters n and m (R154). -/
def firstCyc (pg : PlanGroup) (n m start i : Nat) : Cyc :=
  { p0 := startPos n m start + 512 * i * stepOf m pg.nominal, step := stepOf m pg.nominal, f := pg.nominal, unlocked := true
    held := false, gn := n, gm := m }

theorem getGrp_beginGroup {gi : Nat} {p : Plan} {pg : PlanGroup} (hg : p.grp? gi = some pg) (start : Nat) (s : State) :
    let x := (beginGroup gi start p s).getGrp gi
    x.started = true ∧ x.st = .search ∧ x.startIdx = start ∧ x.done = 0 ∧ x.closed = (s.getGrp gi).winBase ∧
      x.cycles = [(0, firstCyc pg (p.grpCfg gi).1 (p.grpCfg gi).2 start 0), (1, firstCyc pg (p.grpCfg gi).1 (p.grpCfg gi).2 start 1)] := by
  intro x
  unfold x beginGroup
  simp only [hg]
  rw [getGrp_modRsIsl rfl, State.getGrp_modGrp]
  exact ⟨rfl, rfl, rfl, rfl, rfl, rfl⟩

/-- R154: the first sample of cycle 0 lies at the start or after it. -/
theorem firstCyc_begins (pg : PlanGroup) (n start : Nat) {m : Nat} (hm : 0 < m) :
    (start : Int) * 2 ^ 33 ≤ (firstCyc pg n m start 0).tau 0 := by
  have hq : 2 * start + 2 + n * (m - 1) ≤ 2 * m * cdiv (2 * start + 2 + n * (m - 1)) (2 * m) := by
    have := Nat.div_add_mod (2 * start + 2 + n * (m - 1) + 2 * m - 1) (2 * m)
    have := Nat.mod_lt (2 * start + 2 + n * (m - 1) + 2 * m - 1) (show 0 < 2 * m by omega)
    unfold cdiv
    omega
  simp only [Cyc.tau, Cyc.pos, firstCyc, tau33, startPos, Nat.mul_zero, Nat.zero_mul, Nat.add_zero]
  generalize cdiv (2 * start + 2 + n * (m - 1)) (2 * m) = q at hq ⊢
  generalize hx : n * (m - 1) = x at hq ⊢
  have h : ((2 * start + 2 + x : Nat) : Int) ≤ ((2 * m * q : Nat) : Int) := Int.ofNat_le.2 hq
  push_cast at h ⊢
  nlinarith

theorem firstCyc_pos (pg : PlanGroup) (n m start i : Nat) :
    (firstCyc pg n m start i).p0 % 2 ^ 32 = (512 * i * (firstCyc pg n m start i).step) % 2 ^ 32 := by
  simp only [firstCyc, startPos]
  rw [Nat.add_comm, Nat.add_mul_mod_self_right]

theorem each_applySettings_frame (l : List PlanCtx) (b : State → Nat) (s : State) :
    each l (fun s x => s.modEvc x.c (applySettings (b s))) s = { s with ev := (each l (fun s x => s.modEvc x.c (applySettings (b s))) s).ev } := by
  induction l generalizing s with
  | nil => rfl
  | cons x l ih => rw [each_cons, ih]; rfl

theorem startRounds_frame (k : Nat) (s : State) : startRounds k s = { s with spec := (startRounds k s).spec } := rfl

theorem whenDo_startRounds_frame (b : Bool) (k : Nat) (s : State) :
    whenDo b (startRounds k) s = { s with spec := (whenDo b (startRounds k) s).spec } := by
  cases b
  · rfl
  · rw [whenDo_true]; exact startRounds_frame k s

/-- What GROUP_START does to a group that can begin: its cycles, the settings of its event contexts and outputs, and the rounds of the
supraharmonic engines where it is their reference. -/
def openGroup (g : Nat) (p : Plan) (s : State) : State :=
  let s₁ := beginGroup g s.now p s
  let s₂ := each (p.ctxsOf g) (fun s x => s.modEvc x.c (applySettings ((s.getGrp g).twOf (s.getGrp g).winBase))) s₁
  let s₃ := applyChanges g ((s₂.getGrp g).winBase + 1) ((s₂.getGrp g).twOf (s₂.getGrp g).winBase) s₂
  whenDo (s₃.spec.refGrp == g && s₃.spec.rounds.isEmpty && s₃.spec.restart.isNone && s₃.spec.swap.isNone && !s₃.spec.roster.isEmpty)
    (startRounds ((s₃.getGrp g).winBase + 1)) s₃

theorem groupStart_eq {g : Fin 16} {s : State} {p : Plan} {pg : PlanGroup} (hup : s.up islResamp = true) (hcur : s.plan.cur = some p)
    (hg : p.grp? g = some pg) (hstart : (s.getGrp g).started = false) (hready : s.ringsReady p g = true) :
    exec (.groupStart g) s = .next (openGroup g p s) := by
  have hno : ¬ ((s.getGrp g).started || (p.grp? g).isNone || !s.ringsReady p g) = true := by simp [hg, hstart, hready]
  refine (onIsl_up hup : execGroupStart g s = _).trans (congrArg Host.Outcome.next ?_)
  rw [hcur]
  exact if_neg hno

theorem openGroup_frame (g : Nat) (p : Plan) (s : State) : (openGroup g p s).rs = (beginGroup g s.now p s).rs ∧
    openGroup g p s = { s with
      rs := (openGroup g p s).rs, ev := (openGroup g p s).ev, pulse := { s.pulse with out := (openGroup g p s).pulse.out }
      spec := (openGroup g p s).spec, log := (openGroup g p s).log, role := { s.role with audit := (openGroup g p s).role.audit } } := by
  unfold openGroup
  extract_lets s₁ s₂ s₃
  have h₁ : s₁ = { s with rs := s₁.rs } := beginGroup_frame g s.now p s
  have h₂ : s₂ = { s₁ with ev := s₂.ev } := each_applySettings_frame _ _ s₁
  have h₃ : OutputsOnly s₂ s₃ := outputsOnly_applyChanges _ _ _ _
  have h₄ := whenDo_startRounds_frame (s₃.spec.refGrp == g && s₃.spec.rounds.isEmpty && s₃.spec.restart.isNone && s₃.spec.swap.isNone &&
    !s₃.spec.roster.isEmpty) ((s₃.getGrp g).winBase + 1) s₃
  generalize whenDo _ _ s₃ = t at h₄ ⊢
  clear_value s₂ s₃
  unfold OutputsOnly at h₃
  have hrs : t.rs = s₁.rs := by rw [h₄, h₃, h₂]
  refine ⟨hrs, ?_⟩
  clear_value s₁
  rw [h₄, h₃, h₂, h₁]

theorem getGrp_openGroup (g : Nat) (p : Plan) (s : State) (j : Nat) : (openGroup g p s).getGrp j = (beginGroup g s.now p s).getGrp j := by
  simp only [State.getGrp, (openGroup_frame g p s).1]

/-! ## REACQ (R172) -/

theorem place_fgCtrl (g : Fin 16) : place (0x011008 + 0x100 * g.val) = .fg g 0x08 := by
  revert g; decide

theorem absentHalf_fgCtrl (g : Fin 16) : absentHalf (0x011008 + 0x100 * g.val) = false := by
  revert g; decide

/-- A field above the rest of a word adds to it. -/
theorem toNat_field_or {v lo : Nat} {w : Word} (hw : w.toNat < 2 ^ lo) (hv : v * 2 ^ lo < 2 ^ 32) :
    (BitVec.ofNat 32 (v * 2 ^ lo) ||| w).toNat = v * 2 ^ lo + w.toNat := by
  rw [BitVec.toNat_or, BitVec.toNat_ofNat, Nat.mod_eq_of_lt hv, ← Nat.shiftLeft_eq, Nat.shiftLeft_add_eq_or_of_lt hw]

/-- FG_CTRL gives back the settings that it shows. -/
theorem fgCtrlOf_shown {f : FgCtrl} (hbw : f.bw < 4) (hp : f.presence < 64) (hm : f.holdMax < 65536) (r : Bool) :
    fgCtrlOf (packW [(b2n r, 31), (f.holdMax, 8), (f.presence, 2), (f.bw, 0)] ||| goBit) = f := by
  have h0 : (packW [(f.bw, 0)]).toNat = f.bw := by
    rw [packW, toNat_field_or (by simp [packW]) (by omega)]
    simp [packW]
  have h1 : (packW [(f.presence, 2), (f.bw, 0)]).toNat = f.presence * 2 ^ 2 + f.bw := by
    rw [packW, toNat_field_or (by omega) (by omega), h0]
  have h2 : (packW [(f.holdMax, 8), (f.presence, 2), (f.bw, 0)]).toNat = f.holdMax * 2 ^ 8 + f.presence * 2 ^ 2 + f.bw := by
    rw [packW, toNat_field_or (by omega) (by omega), h1, Nat.add_assoc]
  have hgo : packW [(b2n r, 31), (f.holdMax, 8), (f.presence, 2), (f.bw, 0)] ||| goBit =
      packW [(1, 31), (f.holdMax, 8), (f.presence, 2), (f.bw, 0)] := by
    rw [packW, BitVec.or_comm, ← BitVec.or_assoc, packW]
    cases r <;> rfl
  have h : (packW [(b2n r, 31), (f.holdMax, 8), (f.presence, 2), (f.bw, 0)] ||| goBit).toNat =
      2 ^ 31 + f.holdMax * 2 ^ 8 + f.presence * 2 ^ 2 + f.bw := by
    rw [hgo, packW, toNat_field_or (by omega) (by omega), h2]
    omega
  have h1 : bits (packW [(b2n r, 31), (f.holdMax, 8), (f.presence, 2), (f.bw, 0)] ||| goBit) 1 0 = f.bw := by
    rw [bits, h]; omega
  have h2 : bits (packW [(b2n r, 31), (f.holdMax, 8), (f.presence, 2), (f.bw, 0)] ||| goBit) 7 2 = f.presence := by
    rw [bits, h]; omega
  have h3 : bits (packW [(b2n r, 31), (f.holdMax, 8), (f.presence, 2), (f.bw, 0)] ||| goBit) 23 8 = f.holdMax := by
    rw [bits, h]; omega
  unfold fgCtrlOf
  rw [h1, h2, h3]

theorem fgRead_ctrl {s : State} {g : Nat} {pg : PlanGroup} (hpg : (s.planNow g).bind (fun p => p.grp? g) = some pg) :
    fgRead s g 0x08 = packW [(b2n (s.getGrp g).reacq, 31), ((s.getGrp g).ctrlShown.holdMax, 8), ((s.getGrp g).ctrlShown.presence, 2),
      ((s.getGrp g).ctrlShown.bw, 0)] := by
  simp only [fgRead, hpg]

/-- Settles O20. -/
theorem groupStartAndReacquire : Obligations.GroupStartAndReacquire := by
  refine ⟨fun g s p pg hup hcur hg hstart hready hm => ⟨_, groupStart_eq hup hcur hg hstart hready, ?_⟩, fun q g s pg hact hpg hst => ?_⟩
  · obtain ⟨h1, h2, h3, h4, h5, h6⟩ := getGrp_beginGroup hg s.now s
    obtain ⟨hrs, hframe⟩ := openGroup_frame g p s
    simp only [getGrp_openGroup]
    refine ⟨h1, h2, h3, h4, h5, fun i hi => ?_, fun j hj => getGrp_beginGroup_ne hj _ _ _, ?_, hframe⟩
    · refine ⟨firstCyc pg (p.grpCfg g).1 (p.grpCfg g).2 s.now i, ?_, rfl, rfl, firstCyc_pos _ _ _ _ _, fun h0 => ?_⟩
      · rw [Grp.cyc, h6]
        interval_cases i <;> rfl
      · rw [h0]; exact firstCyc_begins _ _ _ hm
    · rw [hrs, beginGroup_tokens]
  · intro f hbw hp hm
    have hpl := place_fgCtrl g
    have hwrite : regWrite (s.getRolePort q).role q (.fg g 0x08) (fgRead s g 0x08 ||| goBit) s =
        (false, s.modGrp g (fun x => if x.st == .off then x else
          { x with ctrlWr := (s.now, f) :: x.ctrlWr, reacq := x.reacq || true })) := by
      have hf : fgCtrlOf (fgRead s g 0x08 ||| goBit) = f := by rw [fgRead_ctrl hpg]; exact fgCtrlOf_shown hbw hp hm _
      have hgo : bit (fgRead s g 0x08 ||| goBit) 31 = true := by rw [BitVec.or_comm]; exact bit_goBit_or _
      simp only [regWrite, fgWrite, hf, hgo]
    obtain ⟨t, ht, haud⟩ := rowWrite_audited (v := fgRead s g 0x08 ||| goBit) hpl hact rfl trivial (by omega)
      (fun _ => absentHalf_fgCtrl g) (Nat.le_refl 2) (Nat.le_refl 2) rfl rfl hwrite rfl rfl
    refine ⟨t, _, ht, ?_, fun j hj => State.getGrp_modGrp_ne _ _ _ _ hj, rfl, haud⟩
    rw [State.getGrp_modGrp, if_neg (by simpa using hst), Bool.or_true]
    rfl

end Sys2Proof.Machine
end

section
-- One proof after another: elaborated side by side they take more memory than the check allows.
set_option Elab.async false
/-! PROOF. Captures (O48). What GO and STOP do is a change of the port alone (`Hp.capStarted`, `Hp.capRefused`, `Hp.capEnded`); an entry is
two words of gallery G2. -/

namespace Sys2Proof.Machine

open Sys2Proof.Cert

/-! ## HP_CAP_CTRL -/

theorem bit_eq_bits (w : Word) (i : Nat) : bit w i = decide (bits w i i = 1) := by
  rw [bit, ← BitVec.testBit_toNat, Nat.testBit_eq_decide_div_mod_eq, bits, Nat.sub_self, Nat.zero_add, Nat.pow_one]

/-- HP_CAP_CTRL as it reads, with a command bit at 30 or 31. -/
theorem capWord_toNat {source first blocks n : Nat} (hs : source < 4) (hf : first < 256) (hb : blocks < 256) (hn : n = 1 ∨ n = 2) :
    (BitVec.ofNat 32 (n * 2 ^ 30) ||| packW [(source, 28), (first, 8), (blocks, 0)]).toNat =
      n * 2 ^ 30 + (source * 2 ^ 28 + (first * 2 ^ 8 + blocks)) := by
  have h0 : (packW [(blocks, 0)]).toNat = blocks := by
    rw [packW, toNat_field_or (by simp [packW]) (by omega)]
    simp [packW]
  have h1 : (packW [(first, 8), (blocks, 0)]).toNat = first * 2 ^ 8 + blocks := by
    rw [packW, toNat_field_or (by omega) (by omega), h0]
  have h2 : (packW [(source, 28), (first, 8), (blocks, 0)]).toNat = source * 2 ^ 28 + (first * 2 ^ 8 + blocks) := by
    rw [packW, toNat_field_or (by omega) (by omega), h1]
  rw [toNat_field_or (by omega) (by rcases hn with h | h <;> rw [h] <;> decide), h2]

section
variable {p : Fin 4} {s : State}

/-- The word written to HP_CAP_CTRL leaves the configuration and carries the command. -/
theorem capWord_fields {c : Cap} (hs : c.source < 4) (hf : c.first < 256) (hb : c.blocks < 256) {n : Nat} (hn : n = 1 ∨ n = 2)
    {w : Word} (hw : w = BitVec.ofNat 32 (n * 2 ^ 30) ||| packW [(c.source, 28), (c.first, 8), (c.blocks, 0)]) :
    bits w 29 28 = c.source ∧ bits w 15 8 = c.first ∧ bits w 7 0 = c.blocks ∧ bit w 31 = decide (n = 2) ∧ bit w 30 = decide (n = 1) := by
  have h : w.toNat = n * 2 ^ 30 + (c.source * 2 ^ 28 + (c.first * 2 ^ 8 + c.blocks)) := by rw [hw]; exact capWord_toNat hs hf hb hn
  have h30 : bits w 30 30 = n % 2 := by rw [bits, h]; omega
  have h31 : bits w 31 31 = n / 2 := by rw [bits, h]; omega
  rw [bit_eq_bits, bit_eq_bits, h30, h31]
  simp only [bits, h]
  refine ⟨by omega, by omega, by omega, ?_, ?_⟩ <;> rcases hn with rfl | rfl <;> rfl

/-- A write of HP_CAP_CTRL that leaves the configuration runs its command. -/
theorem capCtrl_command (hact : MayAct s p 1 islHost) (hs : (s.getHp p).cap.source < 4) (hf : (s.getHp p).cap.first < 256)
    (hb : (s.getHp p).cap.blocks < 256) {n : Nat} (hn : n = 1 ∨ n = 2) :
    ∃ u, PortsOnly s u ∧ (∀ q, u.getHp q = s.getHp q) ∧ (∀ a w, u.capLatest a w = s.capLatest a w) ∧ u.capBad p = s.capBad p ∧
      rowWrite p 0x1F0860 (hpRead s p 0x60 ||| BitVec.ofNat 32 (n * 2 ^ 30)) s =
        .next (wordDone p (if n = 2 then capGo p u else capEnd 2 p u)) := by
  obtain ⟨h1, h2, h3, h4, h5⟩ := capWord_fields hs hf hb hn (w := hpRead s p 0x60 ||| BitVec.ofNat 32 (n * 2 ^ 30)) (BitVec.or_comm _ _)
  have hexec := rowWrite_hp (off := 0x60) (v := hpRead s p 0x60 ||| BitVec.ofNat 32 (n * 2 ^ 30)) hact (by decide) rfl (Nat.le_refl 1) rfl
    (fun _ => rfl)
  have hget (q : Nat) : (s.modHp p id).getHp q = s.getHp q := by
    by_cases hq : q = p.val
    · rw [hq, State.getHp_modHp]; rfl
    · exact State.getHp_modHp_ne _ _ _ _ hq
  refine ⟨s.modHp p id, rfl, hget, fun a w => rfl, ?_, hexec.trans ?_⟩
  · simp only [State.capBad, hget]
    rfl
  · have hsame : s.modHp p (fun h => { h with cap := { h.cap with
        source := (s.getHp p).cap.source, first := (s.getHp p).cap.first, blocks := (s.getHp p).cap.blocks } }) = s.modHp p id :=
      State.modHp_congr rfl
    simp only [hpWrite, capCtrlWrite, h1, h2, h3, h4, h5, hsame]
    rcases hn with rfl | rfl <;> rfl

end

/-! ## GO and STOP (R395) -/

/-- The port whose latest capture's results are cleared. -/
def Hp.capCleared (h : Hp) : Hp := { h with cap := { h.cap with ended := 0, late := false, entries := 0, firstIdx := 0, queue := [] } }

/-- The port whose capture has started as configured. -/
def Hp.capStarted (late : Bool) (h : Hp) : Hp :=
  { h with cap := { h.cap with
      busy := true, ended := 0, late := late, entries := 0, firstIdx := 0, queue := [], runSource := h.cap.source, runSrc := h.cap.src
      runFirst := h.cap.first, runBlocks := h.cap.blocks, runStart := h.cap.start } }

/-- The port whose capture ended at once with BAD_CFG. -/
def Hp.capRefused (h : Hp) : Hp :=
  { h with cap := { h.cap with ended := 6, late := false, entries := 0, firstIdx := 0, queue := [] }
           intStat := h.intStat ||| BitVec.ofNat 32 (2 ^ irqCapture) }

/-- R395: whether a capture that starts is late: its first index has passed. -/
def capLate (start : Nat) (latest : Option Nat) : Bool :=
  match latest with
  | none => false
  | some i => decide (start ≠ 0) && decide (start ≤ i)

theorem bit_irq_capture (w : Word) : bit (w ||| BitVec.ofNat 32 (2 ^ irqCapture)) 11 = true := by
  rw [bit_or, show 11 = irqCapture from rfl, bit_two_pow (by decide), Bool.or_true]

section
variable {p : Nat} {s : State}

theorem capBad_capCleared : (s.modHp p Hp.capCleared).capBad p = s.capBad p := by
  simp only [State.capBad, State.getHp_modHp, Hp.capCleared]
  rfl

theorem capGo_busy (h : (s.getHp p).cap.busy = true) : capGo p s = s := by
  simp only [capGo, h, if_true]

theorem capGo_idle (h : (s.getHp p).cap.busy = false) : capGo p s =
    if s.capBad p then s.modHp p Hp.capRefused
    else s.modHp p (Hp.capStarted (capLate (s.getHp p).cap.start (s.capLatest (s.getHp p).cap.source (s.getHp p).cap.src))) := by
  have hclear : capGo p s =
      if (s.modHp p Hp.capCleared).capBad p then
        irqPort irqCapture p ((s.modHp p Hp.capCleared).modHp p (fun h => { h with cap := { h.cap with ended := 6 } }))
      else (s.modHp p Hp.capCleared).modHp p (fun h => { h with cap := { h.cap with
        busy := true, late := capLate (s.getHp p).cap.start (s.capLatest (s.getHp p).cap.source (s.getHp p).cap.src)
        runSource := (s.getHp p).cap.source, runSrc := (s.getHp p).cap.src, runFirst := (s.getHp p).cap.first
        runBlocks := (s.getHp p).cap.blocks, runStart := (s.getHp p).cap.start } }) := by
    unfold capGo
    simp only [h, Bool.false_eq_true, if_false]
    rfl
  rw [hclear, capBad_capCleared, irqPort_eq, State.modHp_modHp, State.modHp_modHp, State.modHp_modHp]
  split <;> rfl

theorem capEnd_idle (h : (s.getHp p).cap.busy = false) (code : Nat) : capEnd code p s = s := by
  simp only [capEnd, h, Bool.false_eq_true, if_false]

end

theorem PortsOnly.modHp {s u : State} (h : PortsOnly s u) (p : Nat) (f : Hp → Hp) : PortsOnly s (u.modHp p f) := by
  unfold PortsOnly at *
  rw [h]
  rfl

/-! ## An entry (R395, R396) -/

/-- An entry as the two words that it takes: the value; the flags and the low bits of the index. -/
def CapEnt.words (e : CapEnt) : Word × Word := (BitVec.ofInt 32 e.value, BitVec.ofNat 32 (e.flags + 256 * (e.idx % 2 ^ 24)))

theorem bytes_eq_words {e : CapEnt} (h : e.flags < 256) : e.bytes = leBytes 4 e.words.1.toNat ++ leBytes 4 e.words.2.toNat := by
  have hv : toU 32 e.value = e.words.1.toNat := by
    simp [toU, CapEnt.words]
  have hx : e.words.2.toNat = e.flags + 256 * (e.idx % 2 ^ 24) := by
    rw [CapEnt.words, BitVec.toNat_ofNat]
    omega
  have hlow : (e.flags + 256 * (e.idx % 2 ^ 24)) / 256 = e.idx % 2 ^ 24 := by omega
  have hbyte : BitVec.ofNat 8 (e.flags + 256 * (e.idx % 2 ^ 24)) = BitVec.ofNat 8 e.flags := by
    apply BitVec.eq_of_toNat_eq
    simp only [BitVec.toNat_ofNat]
    omega
  rw [CapEnt.bytes, hv, hx, List.append_assoc]
  refine congrArg _ ?_
  simp only [leBytes, hlow, hbyte, List.cons_append, List.nil_append]

theorem mputs_append (d : Byte) (m : Mem) (a : Nat) (l₁ l₂ : List Byte) :
    mputs d m a (l₁ ++ l₂) = mputs d (mputs d m a l₁) (a + l₁.length) l₂ := by
  induction l₁ generalizing m a with
  | nil => rfl
  | cons b l₁ ih => simp only [List.cons_append, mputs, ih, List.length_cons, Nat.add_assoc, Nat.add_comm 1]

theorem mgetW_mputW_ne {d : Byte} {m : Mem} {a c : Nat} (w : Word) (h : c + 4 ≤ a ∨ a + 4 ≤ c) :
    mgetW d (mputW d m a w) c = mgetW d m c := by
  have hout (i : Nat) (hi : i < 4) : mget d (mputs d m a (leBytes 4 w.toNat)) (c + i) = mget d m (c + i) :=
    mget_mputs_out _ _ _ (by rw [length_leBytes]; omega)
  simp only [mgetW, mputW, hout 3 (by decide), hout 2 (by decide), hout 1 (by decide)]
  rw [show mget d (mputs d m a (leBytes 4 w.toNat)) c = mget d m c from hout 0 (by decide)]

/-- An entry stored is two words stored. -/
theorem mputs_entry {e : CapEnt} (h : e.flags < 256) (m : Mem) (a : Nat) :
    mputs galDefault m a e.bytes = mputW galDefault (mputW galDefault m a e.words.1) (a + 4) e.words.2 := by
  rw [bytes_eq_words h, mputs_append, length_leBytes]
  rfl

/-- The port once its entry is written. -/
def Hp.capWrote (e : CapEnt) (rest : List CapEnt) (h : Hp) : Hp :=
  { h with cap := { h.cap with
      queue := rest, entries := h.cap.entries + 1, firstIdx := if h.cap.entries = 0 then e.idx else h.cap.firstIdx } }

theorem getHp_galPuts (g a : Nat) (bs : List Byte) (s : State) (p : Nat) : (galPuts g a bs s).getHp p = s.getHp p := by
  simp only [State.getHp, galPuts_same]

theorem galPuts_eq (g a : Nat) (bs : List Byte) (s : State) : galPuts g a bs s = { s with gal := (galPuts g a bs s).gal } := by
  unfold galPuts; split <;> rfl

theorem captureEntry_idle {p : Nat} {s : State} (h : (s.getHp p).cap.busy = false ∨ (s.getHp p).cap.queue = []) : captureEntry p s = s := by
  unfold captureEntry
  rcases h with h | h
  · simp only [h]
  · cases hb : (s.getHp p).cap.busy <;> simp only [hb, h]

/-- The port's state after the entry, ended where the entry is the last of the last block. -/
theorem captureEntry_writes {p : Nat} {s : State} {e : CapEnt} {rest : List CapEnt} (hbusy : (s.getHp p).cap.busy = true)
    (hq : (s.getHp p).cap.queue = e :: rest) :
    captureEntry p s = (galPuts 2 (0x10000 * (s.getHp p).cap.runFirst + 8 * (s.getHp p).cap.entries) e.bytes s).modHp p
      (fun h => if (s.getHp p).cap.entries + 1 = (s.getHp p).cap.room then (h.capWrote e rest).capEnded 1 else h.capWrote e rest) := by
  unfold captureEntry
  simp only [hbusy, hq]
  split
  · next hroom =>
    rw [capEnd_busy, State.modHp_modHp]
    · rfl
    · rw [State.getHp_modHp]
      exact (congrArg (fun h : Hp => h.cap.busy) (getHp_galPuts _ _ _ _ _)).trans hbusy
  · rfl

section
variable {p : Fin 4} {s : State}

theorem captureGo_runs (hact : MayAct s p 1 islHost) (hs : (s.getHp p).cap.source < 4) (hf : (s.getHp p).cap.first < 256)
    (hb : (s.getHp p).cap.blocks < 256) : ∃ u, PortsOnly s u ∧ (∀ q, u.getHp q = s.getHp q) ∧
      (∀ a w, u.capLatest a w = s.capLatest a w) ∧ u.capBad p = s.capBad p ∧ exec (.captureGo p) s = .next (wordDone p (capGo p u)) :=
  capCtrl_command hact hs hf hb (n := 2) (.inr rfl)

theorem captureStop_runs (hact : MayAct s p 1 islHost) (hs : (s.getHp p).cap.source < 4) (hf : (s.getHp p).cap.first < 256)
    (hb : (s.getHp p).cap.blocks < 256) :
    ∃ u, PortsOnly s u ∧ (∀ q, u.getHp q = s.getHp q) ∧ exec (.captureStop p) s = .next (wordDone p (capEnd 2 p u)) := by
  obtain ⟨u, hu, hget, -, -, h⟩ := capCtrl_command hact hs hf hb (n := 1) (.inl rfl)
  exact ⟨u, hu, hget, h⟩

/-- What a change of port p makes of a state in which the ports are as in `s`. -/
theorem hostIs_of_same {u : State} (hget : ∀ q, u.getHp q = s.getHp q) (f : Hp → Hp) : HostIs p (f (s.getHp p)) s (u.modHp p f) := by
  obtain ⟨h1, h2⟩ := hostIs_modHp u p f
  exact ⟨by rw [h1, hget], fun q hq => by rw [h2 q hq, hget]⟩

theorem captureEntry_stores {e : CapEnt} {rest : List CapEnt} (hbusy : (s.getHp p).cap.busy = true)
    (hq : (s.getHp p).cap.queue = e :: rest) (hflags : e.flags < 256) (hon : s.galOn 2 = true)
    (hwf : memWf galDefault (s.getGal 2).mem = true) :
    let at_ := 0x10000 * (s.getHp p).cap.runFirst + 8 * (s.getHp p).cap.entries
    let t := captureEntry p s
    t.galWord 2 at_ = BitVec.ofInt 32 e.value ∧ t.galWord 2 (at_ + 4) = BitVec.ofNat 32 (e.flags + 256 * (e.idx % 2 ^ 24)) ∧
      (∀ a, a < at_ ∨ at_ + 8 ≤ a → galByte t 2 a = galByte s 2 a) ∧ (∀ g, g ≠ 2 → t.getGal g = s.getGal g) := by
  intro at_ t
  have hgal (g : Nat) : t.getGal g = (galPuts 2 at_ e.bytes s).getGal g := by
    unfold t
    rw [captureEntry_writes hbusy hq]
    rfl
  have hmem : (t.getGal 2).mem = mputW galDefault (mputW galDefault (s.getGal 2).mem at_ e.words.1) (at_ + 4) e.words.2 := by
    rw [hgal, galPuts_mem _ _ _ _ hon, mputs_entry hflags]
  refine ⟨?_, ?_, fun a ha => ?_, fun g hg => ?_⟩
  · rw [State.galWord, hmem, mgetW_mputW_ne _ (by omega), mgetW_mputW _ _ hwf]
    rfl
  · rw [State.galWord, hmem, mgetW_mputW _ _ (memWf_mputW _ _ hwf)]
    rfl
  · rw [galByte, hmem, mputW, mget_mputs_out _ _ _ (by rw [length_leBytes]; omega), mputW,
      mget_mputs_out _ _ _ (by rw [length_leBytes]; omega)]
    rfl
  · rw [hgal, galPuts_ne _ _ _ _ _ hg]

theorem captureEntry_port {e : CapEnt} {rest : List CapEnt} (hbusy : (s.getHp p).cap.busy = true)
    (hq : (s.getHp p).cap.queue = e :: rest) :
    HostIs p (if (s.getHp p).cap.entries + 1 = 8192 * ((s.getHp p).cap.runBlocks + 1) then ((s.getHp p).capWrote e rest).capEnded 1
      else (s.getHp p).capWrote e rest) s (captureEntry p s) ∧
    captureEntry p s = { s with host := { s.host with hp := (captureEntry p s).host.hp }, gal := (captureEntry p s).gal } := by
  rw [captureEntry_writes hbusy hq]
  refine ⟨hostIs_of_same (fun q => getHp_galPuts _ _ _ _ _) _, ?_⟩
  rw [galPuts_eq]
  rfl

end

/-- Settles O48. -/
theorem capturesRunInBlocks : Obligations.CapturesRunInBlocks := by
  refine ⟨fun p s hact => ?_, fun p s hup => ?_⟩
  · intro c hs hf hb
    refine ⟨fun hbusy => ?_, fun hidle hok => ?_, fun hidle hbad => ?_, fun hbusy => ?_, fun hidle => ?_⟩
    · obtain ⟨u, hu, hget, -, -, h⟩ := captureGo_runs hact hs hf hb
      rw [capGo_busy (by rw [hget]; exact hbusy)] at h
      exact ⟨u, h, hget, hu⟩
    · obtain ⟨u, hu, hget, hlatest, hcap, h⟩ := captureGo_runs hact hs hf hb
      rw [capGo_idle (by rw [hget]; exact hidle), hcap, hok, if_neg Bool.false_ne_true, hget, hlatest] at h
      obtain ⟨hp, hne⟩ := hostIs_of_same (p := p) hget (Hp.capStarted (capLate c.start (s.capLatest c.source c.src)))
      refine ⟨_, h, ⟨?_, hne⟩, fun h0 => ?_, fun i hi hpos => ?_, PortsOnly.modHp hu _ _⟩
      · rw [hp]; rfl
      · rw [hp]
        simp only [Hp.capStarted, capLate, h0]
        split <;> simp
      · rw [hp]
        simp only [Hp.capStarted, capLate, hi, decide_eq_true (Nat.ne_of_gt hpos), Bool.true_and]
    · obtain ⟨u, hu, hget, -, hcap, h⟩ := captureGo_runs hact hs hf hb
      rw [capGo_idle (by rw [hget]; exact hidle), hcap, hbad, if_pos rfl] at h
      obtain ⟨hp, hne⟩ := hostIs_of_same (p := p) hget Hp.capRefused
      refine ⟨_, h, ?_, ?_, ?_, ?_, hne, PortsOnly.modHp hu _ _⟩
      · rw [hp]; exact hidle
      · rw [hp]; rfl
      · rw [hp]; exact bit_irq_capture _
      · rw [hp]; rfl
    · obtain ⟨u, hu, hget, h⟩ := captureStop_runs hact hs hf hb
      rw [capEnd_busy (by rw [hget]; exact hbusy)] at h
      exact ⟨_, h, hostIs_of_same hget (Hp.capEnded 2), PortsOnly.modHp hu _ _⟩
    · obtain ⟨u, hu, hget, h⟩ := captureStop_runs hact hs hf hb
      rw [capEnd_idle (by rw [hget]; exact hidle)] at h
      exact ⟨u, h, hget, hu⟩
  · intro c
    have hexec : exec (.captureEntry p) s = .next (captureEntry p s) := (onIsl_up hup : execCaptureEntry p s = _)
    refine ⟨fun h => by rw [hexec, captureEntry_idle h], fun e rest hbusy hq hflags hkept hwf => ?_⟩
    intro at_
    have hon : s.galOn 2 = true := by simp [State.galOn, hup, hkept]
    obtain ⟨h1, h2, h3, h4⟩ := captureEntry_stores hbusy hq hflags hon hwf
    obtain ⟨⟨hp, hne⟩, hframe⟩ := captureEntry_port (p := p) hbusy hq
    refine ⟨_, hexec, h1, h2, h3, ?_, ?_, fun hroom => ?_, fun hroom => ?_, ?_, hne, h4, hframe⟩
    · rw [hp]; split <;> rfl
    · rw [hp]; split <;> rfl
    · rw [hp, if_neg hroom]; exact ⟨hbusy, rfl⟩
    · rw [hp, if_pos hroom]
      exact ⟨rfl, rfl, bit_irq_capture _⟩
    · rw [hp]; split <;> rfl

end Sys2Proof.Machine
end

section
-- One proof after another: elaborated side by side they take more memory than the check allows.
set_option Elab.async false
/-! PROOF. The commands of the plan (O31). `planRow_runs` says that a write of PLAN_CMD with one command runs it; `planDo_logged` that it
leaves one counted record; the cases then say what each command does to the plan. -/

namespace Sys2Proof.Machine

open Sys2Proof.Cert

/-! ## PLAN_CMD -/

/-- The word of PLAN_CMD that carries one command. -/
theorem planWord_bits (src : Bool) {cmd i : Nat} (hi : i < 32) (hi0 : i ≠ 0) :
    bit (packW [(b2n src, 0)] ||| packW [(1, cmd)]) i = decide (i = cmd) := by
  have h0 : bit (BitVec.ofNat 32 (b2n src * 2 ^ 0)) i = false := by
    rw [bit, BitVec.getLsbD_ofNat]
    cases src
    · simp [b2n]
    · simp [b2n, show Nat.testBit 1 i = false from (Nat.testBit_two_pow (n := 0) (m := i)).trans (decide_eq_false (Ne.symm hi0))]
  have h1 : bit (BitVec.ofNat 32 (1 * 2 ^ cmd)) i = decide (i = cmd) := by
    rw [bit, BitVec.getLsbD_ofNat, Nat.one_mul, Nat.testBit_two_pow, decide_eq_true hi, Bool.true_and, decide_eq_decide, eq_comm]
  simp only [packW, bit_or, h0, h1]
  simp [bit]

theorem planWord_src (src : Bool) {cmd : Nat} (hcmd : 0 < cmd) : bit (packW [(b2n src, 0)] ||| packW [(1, cmd)]) 0 = src := by
  simp only [packW, bit_or, bit_ofNat_mul _ _ 0 (by decide), Nat.not_le.2 hcmd]
  cases src <;> simp [b2n, bit]

/-- The commands of PLAN_CMD by their bits. -/
inductive PlanCmd
  | stage | swap | cancel

def PlanCmd.bitNo : PlanCmd → Nat
  | .stage => 31
  | .swap => 30
  | .cancel => 29

/-- The number of a command in its record (R285). -/
def PlanCmd.no : PlanCmd → Nat
  | .stage => 1
  | .swap => 2
  | .cancel => 3

def PlanCmd.run : PlanCmd → Nat → Nat → State → Nat × State
  | .stage => stageCmd
  | .swap => swapCmd
  | .cancel => cancelCmd

theorem planRow_runs (c : PlanCmd) {p : Fin 4} {s : State} (hact : MayAct s p 2 islSteward) :
    planRow p c.bitNo s = .next (wordDone p (planDo c.no (c.run (s.getRolePort p).role p) (s.getRolePort p).role p s)) := by
  have hbit (i : Nat) (hi : i < 32) (h0 : i ≠ 0) := planWord_bits s.plan.stageSrc (cmd := c.bitNo) hi h0
  have hsrc := planWord_src s.plan.stageSrc (cmd := c.bitNo) (by cases c <;> decide)
  have hsame : s.modPlanIsl (fun q => { q with stageSrc := s.plan.stageSrc }) = s := rfl
  have h31 := hbit 31 (by decide) (by decide)
  have h30 := hbit 30 (by decide) (by decide)
  have h29 := hbit 29 (by decide) (by decide)
  have hcmd : regWrite (s.getRolePort p).role p (.plan 4) (planRead s 4 ||| packW [(1, c.bitNo)]) s =
      (true, planDo c.no (c.run (s.getRolePort p).role p) (s.getRolePort p).role p s) := by
    have hread : planRead s 4 = packW [(b2n s.plan.stageSrc, 0)] := rfl
    have hany : bits (packW [(b2n s.plan.stageSrc, 0)] ||| packW [(1, c.bitNo)]) 31 29 ≠ 0 := by
      simp only [packW, bits_or]
      cases c <;> cases s.plan.stageSrc <;> simp [bits, b2n, PlanCmd.bitNo]
    rw [hread]
    simp only [regWrite, planWrite, planCmd, h31, h30, h29, hsrc, hsame]
    refine Prod.ext (by simpa using hany) ?_
    cases c <;> rfl
  have hexec := rowWrite_reg (v := planRead s 4 ||| packW [(1, c.bitNo)]) (a := 0x104) hact rfl trivial rfl (fun _ => rfl) (Nat.le_refl 2) rfl
  rw [show place 0x104 = .plan 4 from rfl] at hexec
  rw [writeAudited_own (congrArg Prod.fst hcmd)] at hexec
  exact hexec.trans (congrArg (fun r => Host.Outcome.next (wordDone p (Prod.snd r))) hcmd)

/-- R285: the record of a command, counted. -/
theorem planDo_logged {cmd code : Nat} {f : State → Nat × State} {p : Fin 4} {s u : State} (hf : f s = (code, u)) (hrole : u.role = s.role)
    (htb : u.tb = s.tb) :
    ∃ t, planDo cmd f (s.getRolePort p).role p s = t ∧ t.plan = u.plan ∧ PlanLogged p cmd code s t ∧
      t = { u with role := t.role, log := t.log } := by
  have ht : planDo cmd f (s.getRolePort p).role p s =
      logCommand (s.getRolePort p).role p cmd (planStCode s.plan.st) code u := by
    simp only [planDo, hf]
  refine ⟨_, rfl, ?_⟩
  rw [ht, logCommand, raiseAudit]
  refine ⟨?_, ⟨?_, ?_⟩, ?_⟩
  · rw [raise_eq]; rfl
  · have hlog := logged_raise (c := .planCommand) rfl 0 ([(1, (s.getRolePort p).role), (1, p.val), (1, cmd), (1, planStCode s.plan.st),
      (1, planStCode u.plan.st), (1, code)] ++ [(4, u.role.audit)]) u
    rw [hrole, show u.now = s.now from congrArg Tb.idx htb, ent_congr (congrArg Tb.epoch htb)] at hlog
    have hst : (countAudit (raise .planCommand 0 ([(1, (s.getRolePort p).role), (1, p.val), (1, cmd), (1, planStCode s.plan.st),
      (1, planStCode u.plan.st), (1, code)] ++ [(4, u.role.audit)]) u)).plan = u.plan := by rw [raise_eq]; rfl
    rw [planEnt, hst, hrole]
    exact logged_congr rfl hlog
  · rw [raise_eq, ← hrole]; rfl
  · rw [raise_eq]; rfl

/-! ## The state of the plan -/

theorem setPlanSt_plan (st : PlanSt) (s : State) : (setPlanSt st s).plan = { s.plan with st := st } := by
  unfold setPlanSt
  split
  · next h => rw [← h]
  · simp

theorem setPlanSt_eq (st : PlanSt) (s : State) :
    setPlanSt st s = { s with plan := { s.plan with st := st }, host := (setPlanSt st s).host } := by
  have h := State.eq_onto (m := { plan := true, host := true }) (outside_setPlanSt rfl rfl st s)
  rw [← setPlanSt_plan]
  exact h

/-! ## The commands (R284 to R286, R443) -/

section
variable {p : Fin 4} {s : State}

/-- A command that its check refuses gives its result and changes nothing else. -/
theorem planCmd_refused (c : PlanCmd) {code : Nat} (hact : MayAct s p 2 islSteward)
    (hf : c.run (s.getRolePort p).role p s = (code, planResult code s)) :
    ∃ t, planRow p c.bitNo s = .next (wordDone p t) ∧ t.plan = { s.plan with result := code } ∧ PlanLogged p c.no code s t ∧
      t = { s with plan := t.plan, role := t.role, log := t.log } := by
  obtain ⟨t, ht, hplan, hlog, hframe⟩ := planDo_logged (cmd := c.no) hf rfl rfl
  refine ⟨t, (planRow_runs c hact).trans (by rw [ht]), hplan, hlog, ?_⟩
  rw [hplan]
  exact hframe

/-- A command that its check allows: what its function makes of the plan, and the record. -/
theorem planCmd_taken (c : PlanCmd) {code : Nat} {u : State} (hact : MayAct s p 2 islSteward)
    (hf : c.run (s.getRolePort p).role p s = (code, u)) (hrole : u.role = s.role) (htb : u.tb = s.tb) :
    ∃ t, planRow p c.bitNo s = .next (wordDone p t) ∧ t.plan = u.plan ∧ PlanLogged p c.no code s t ∧
      t = { u with role := t.role, log := t.log } := by
  obtain ⟨t, ht, hplan, hlog, hframe⟩ := planDo_logged (cmd := c.no) hf hrole htb
  exact ⟨t, (planRow_runs c hact).trans (by rw [ht]), hplan, hlog, hframe⟩

/-- The plan of a staging that starts. -/
def PlanIsl.stagingBy (role host now : Nat) (rest : PlanSt) (q : PlanIsl) : PlanIsl :=
  { q with
    st := .staging, next := none, result := 0, stagedFrom := rest, by_ := (host, role), runSrc := q.stageSrc, runLen := q.stageLen
    stageAt := now, dirty := false }

theorem stageCmd_starts (role host : Nat) (hw : s.inWarning = false)
    (hst : s.plan.st = .none ∨ s.plan.st = .inForce ∨ s.plan.st = .staged) :
    ∃ u, stageCmd role host s = (0, u) ∧ u = { s with plan := s.plan.stagingBy role host s.tb.idx s.restSt, host := u.host } := by
  have h : stageCmd role host s = (0, setPlanSt .staging (s.modPlanIsl (fun q => { q with
      next := none, result := 0, stagedFrom := s.restSt, by_ := (host, role), runSrc := q.stageSrc, runLen := q.stageLen
      stageAt := s.now, dirty := false }))) := by
    rcases hst with h | h | h <;> simp only [stageCmd, hw, h, Bool.false_eq_true, if_false]
  exact ⟨_, h, setPlanSt_eq _ _⟩

theorem stageCmd_busy (role host : Nat) (hw : s.inWarning = false)
    (hst : s.plan.st = .loading ∨ s.plan.st = .staging ∨ s.plan.st = .preparing ∨ s.plan.st = .switching) :
    stageCmd role host s = (0x20, planResult 0x20 s) := by
  rcases hst with h | h | h | h <;> simp only [stageCmd, hw, h, Bool.false_eq_true, if_false]

theorem swapCmd_busy (role host : Nat) (hw : s.inWarning = false)
    (hst : s.plan.st = .loading ∨ s.plan.st = .staging ∨ s.plan.st = .preparing ∨ s.plan.st = .switching) :
    swapCmd role host s = (0x20, planResult 0x20 s) := by
  rcases hst with h | h | h | h <;> simp only [swapCmd, hw, h, Bool.false_eq_true, if_false]

theorem swapCmd_noPlan (role host : Nat) (hw : s.inWarning = false) (hst : s.plan.st = .none ∨ s.plan.st = .inForce) :
    swapCmd role host s = (0x21, planResult 0x21 s) := by
  rcases hst with h | h <;> simp only [swapCmd, hw, h, Bool.false_eq_true, if_false]

theorem swapCmd_waits (role host : Nat) (hw : s.inWarning = false) (hst : s.plan.st = .staged) (hfade : s.fading = true) :
    ∃ u, swapCmd role host s = (0, u) ∧ u = { s with
      plan := { s.plan with st := .swapWait, swapFrom := s.plan.swapAt, result := 0, by_ := (host, role) }, host := u.host } := by
  have hfade' : (s.modPlanIsl (fun q => { q with swapFrom := q.swapAt, result := 0, by_ := (host, role) })).fading = true := hfade
  have h : swapCmd role host s = (0, setPlanSt .swapWait (s.modPlanIsl (fun q => { q with
      swapFrom := q.swapAt, result := 0, by_ := (host, role) }))) := by
    simp only [swapCmd, hw, hst, Bool.false_eq_true, if_false, hfade', if_true]
  exact ⟨_, h, setPlanSt_eq _ _⟩

theorem cancelCmd_nothing (role host : Nat) (hst : s.plan.st = .none ∨ s.plan.st = .loading ∨ s.plan.st = .inForce ∨ s.plan.st = .switching) :
    cancelCmd role host s = (0, s) := by
  rcases hst with h | h | h | h <;> simp only [cancelCmd, h]

/-- The step back of a CANCEL: the entry in the history, the result, and the state. -/
def cancelBack (role host : Nat) (id : Word × Nat) (st : PlanSt) (s : State) : State :=
  setPlanSt st (planResult 0x2A (history 7 0x2A s.freeSlot (host, role) id.1 id.2 noErr s))

theorem cancelBack_plan (role host : Nat) (id : Word × Nat) (st : PlanSt) (s : State) :
    let q := (cancelBack role host id st s).plan
    q.st = st ∧ q.result = 0x2A ∧ q.cur = s.plan.cur ∧ q.next = s.plan.next ∧ q.slot = s.plan.slot := by
  intro q
  unfold q cancelBack
  rw [setPlanSt_plan]
  exact ⟨rfl, rfl, rfl, rfl, rfl⟩

theorem cancelBack_outside (role host : Nat) (id : Word × Nat) (st : PlanSt) (s : State) :
    (cancelBack role host id st s).outside { plan := true, host := true } = s.outside { plan := true, host := true } := by
  simp [cancelBack, planResult]

theorem breakStage_plan (s : State) : (breakStage s).plan.cur = s.plan.cur ∧ (breakStage s).plan.slot = s.plan.slot := by
  unfold breakStage
  dsimp only
  split <;> exact ⟨rfl, rfl⟩

theorem cancelCmd_staged (role host : Nat) (hst : s.plan.st = .staged) :
    cancelCmd role host s = (0x2A, (cancelBack role host s.stagedId s.restSt s).modPlanIsl (fun q => { q with next := none })) := by
  simp only [cancelCmd, hst]
  rfl

theorem cancelCmd_staging (role host : Nat) (hst : s.plan.st = .staging) :
    ∃ id, cancelCmd role host s = (0x2A, cancelBack role host id s.restSt (breakStage s)) := by
  simp only [cancelCmd, hst]
  exact ⟨_, rfl⟩

theorem cancelCmd_preparing (role host : Nat) (hst : s.plan.st = .preparing) :
    ∃ id, cancelCmd role host s = (0x2A, cancelBack role host id .staged (undoPreparing s)) := by
  simp only [cancelCmd, hst]
  exact ⟨_, rfl⟩

/-- What the end of a preparation leaves of the plan. -/
theorem undoPreparing_plan (s : State) : (undoPreparing s).plan.cur = s.plan.cur ∧ (undoPreparing s).plan.next = s.plan.next := by
  unfold undoPreparing
  split
  · next o n ho hn =>
    extract_lets s₁ s₂
    have h₁ : s₁.plan = s.plan := State.plan_eq (m := { ring := true, stair := true, log := true }) rfl
      (outside_each (f := fun s (r : PlanRing) => (releaseRing r.ring s).modRing r.ring (fun _ => {})) (fun t r => by simp) _ _)
    have h₂ : s₂.plan = s₁.plan := State.plan_eq (m := { head := true, headAcc := true, ring := true, stair := true, red := true, log := true }) rfl
      (outside_each (f := fun s (h : PlanHead) => (headAbsent h.num s).modHead h.num Head.kept) (fun t h => by simp) _ _)
    rw [State.modPlanIsl_plan, h₂, h₁]
    exact ⟨rfl, rfl⟩
  · exact ⟨rfl, rfl⟩

end

/-- Settles O31, by the state of the plan. -/
theorem planCommands : Obligations.PlanCommands := by
  intro p s hact
  refine ⟨fun hw => ⟨?_, ?_⟩, fun hw hst => ?_, fun hw hst => ⟨?_, ?_⟩, fun hw hst => ?_, fun hw hst hfade => ?_, fun hst => ?_,
    fun hst => ?_, fun hst => ?_, fun hst => ?_⟩
  · exact planCmd_refused .stage hact (by simp only [PlanCmd.run, stageCmd, hw, if_true])
  · exact planCmd_refused .swap hact (by simp only [PlanCmd.run, swapCmd, hw, if_true])
  · obtain ⟨u, hu, hframe⟩ := stageCmd_starts (s.getRolePort p).role p hw hst
    obtain ⟨t, ht, hplan, hlog, htu⟩ := planCmd_taken .stage hact hu (by rw [hframe]) (by rw [hframe])
    refine ⟨t, ht, hplan.trans (by rw [hframe]; rfl), hlog, ?_⟩
    rw [hplan]
    rw [hframe] at htu ⊢
    rw [htu]
  · exact planCmd_refused .stage hact (stageCmd_busy _ _ hw hst)
  · exact planCmd_refused .swap hact (swapCmd_busy _ _ hw hst)
  · exact planCmd_refused .swap hact (swapCmd_noPlan _ _ hw hst)
  · obtain ⟨u, hu, hframe⟩ := swapCmd_waits (s.getRolePort p).role p hw hst hfade
    obtain ⟨t, ht, hplan, hlog, htu⟩ := planCmd_taken .swap hact hu (by rw [hframe]) (by rw [hframe])
    refine ⟨t, ht, hplan.trans (by rw [hframe]), hlog, ?_⟩
    rw [hplan]
    rw [hframe] at htu ⊢
    rw [htu]
  · obtain ⟨t, ht, hplan, hlog, htu⟩ := planCmd_taken .cancel hact (cancelCmd_nothing _ _ hst) rfl rfl
    exact ⟨t, ht, hplan, hlog, htu⟩
  · have hout := State.eq_onto (cancelBack_outside (s.getRolePort p).role p s.stagedId s.restSt s)
    obtain ⟨h1, h2, h3, h4, h5⟩ := cancelBack_plan (s.getRolePort p).role p s.stagedId s.restSt s
    have hu := cancelCmd_staged (s.getRolePort p).role p hst
    generalize cancelBack _ _ _ _ s = b at hout h1 h2 h3 h4 h5 hu
    obtain ⟨t, ht, hplan, hlog, htu⟩ := planCmd_taken .cancel hact hu (by rw [hout]; rfl) (by rw [hout]; rfl)
    refine ⟨t, ht, ?_, ?_, ?_, ?_, ?_, hlog, ?_⟩
    · rw [hplan]; exact h1
    · rw [hplan]; rfl
    · rw [hplan]; exact h3
    · rw [hplan]; exact h5
    · rw [hplan]; exact h2
    · rw [htu, hout]; rfl
  · obtain ⟨id, hu⟩ := cancelCmd_staging (s.getRolePort p).role p hst
    obtain ⟨hcur, hslot⟩ := breakStage_plan s
    have hbreak : (breakStage s).outside { plan := true, host := true, fresh := true } = s.outside { plan := true, host := true, fresh := true } := by
      simp
    have hback := State.outside_mono (n := { plan := true, host := true, fresh := true }) rfl
      (cancelBack_outside (s.getRolePort p).role p id s.restSt (breakStage s))
    have hout := State.eq_onto (hback.trans hbreak)
    obtain ⟨h1, h2, h3, h4, h5⟩ := cancelBack_plan (s.getRolePort p).role p id s.restSt (breakStage s)
    generalize cancelBack _ _ _ _ _ = b at hout h1 h2 h3 h4 h5 hu
    obtain ⟨t, ht, hplan, hlog, htu⟩ := planCmd_taken .cancel hact hu (by rw [hout]; rfl) (by rw [hout]; rfl)
    refine ⟨t, ht, ?_, ?_, ?_, ?_, hlog, ?_⟩
    · rw [hplan]; exact h1
    · rw [hplan]; exact h3.trans hcur
    · rw [hplan]; exact h5.trans hslot
    · rw [hplan]; exact h2
    · rw [htu, hout]; rfl
  · obtain ⟨id, hu⟩ := cancelCmd_preparing (s.getRolePort p).role p hst
    obtain ⟨hcur, hnext⟩ := undoPreparing_plan s
    obtain ⟨h1, h2, h3, h4, -⟩ := cancelBack_plan (s.getRolePort p).role p id .staged (undoPreparing s)
    have hrole : (cancelBack (s.getRolePort p).role p id .staged (undoPreparing s)).role = s.role :=
      (State.role_eq rfl (cancelBack_outside _ _ _ _ _)).trans (State.role_eq
        (m := { ring := true, head := true, headAcc := true, stair := true, plan := true, red := true, log := true }) rfl (by simp))
    have htb : (cancelBack (s.getRolePort p).role p id .staged (undoPreparing s)).tb = s.tb :=
      (State.tb_eq rfl (cancelBack_outside _ _ _ _ _)).trans (State.tb_eq
        (m := { ring := true, head := true, headAcc := true, stair := true, plan := true, red := true, log := true }) rfl (by simp))
    obtain ⟨t, ht, hplan, hlog, -⟩ := planCmd_taken .cancel hact hu hrole htb
    exact ⟨t, ht, by rw [hplan]; exact h1, by rw [hplan]; exact h3.trans hcur, by rw [hplan]; exact h4.trans hnext, by rw [hplan]; exact h2, hlog⟩

end Sys2Proof.Machine
end

section
-- One proof after another: elaborated side by side they take more memory than the check allows.
set_option Elab.async false
/-! PROOF. The power warning (O8). -/

namespace Sys2Proof.Machine

open Sys2Proof.Cert

/-! ## What stands in a channel still does, over the steps of a warning -/

theorem Logged.readRange {e : LogEnt} {g a n : Nat} {s : State} (h : Logged e s) : Logged e (readRange g a n s) :=
  Logged.each (f := fun s x => galUncorr g x s) (fun _ _ ht => Logged.raise (logged_congr rfl ht)) _ h

theorem Logged.memYield {e : LogEnt} {s : State} (h : Logged e s) : Logged e (memYield s) := by
  unfold Machine.memYield
  extract_lets s₁
  refine logged_congr (u := s₁) rfl ?_
  unfold s₁
  split
  · exact logged_congr rfl (Logged.readRange h)
  · exact h

theorem Logged.shedGalleries {e : LogEnt} {s : State} (h : Logged e s) : Logged e (shedGalleries s) := by
  unfold Machine.shedGalleries
  extract_lets s₁ s₂
  refine Logged.each (f := fun s g => galSettle g (s.modGal g (fun x => { x with shed := true, woken := false })))
    (fun _ _ ht => logged_congr rfl ht) _ (logged_congr (u := s₁) rfl ?_)
  unfold s₁
  split
  · exact Logged.memYield h
  · exact h

theorem Logged.abortOutings {e : LogEnt} {s : State} (h : Logged e s) : Logged e (abortOutings s) :=
  Logged.each (fun _ _ ht => whenDo_keeps (Logged e) (fun _ hu => Logged.endOuting hu) _ ht) _ h

theorem Logged.detFaults {e : LogEnt} {i p a : Nat} {s : State} (h : Logged e s) : Logged e (detFaults i p a s) := by
  unfold Machine.detFaults
  extract_lets x s₁ s₂
  have h₁ : Logged e s₁ := by unfold s₁; split; exacts [h, Logged.sendEnt h]
  have h₂ : Logged e s₂ := by unfold s₂; split; exacts [h₁, Logged.sendEnt h₁]
  exact h₂

theorem Logged.restoreDropped {e : LogEnt} {i : Nat} {s : State} (h : Logged e s) : Logged e (restoreDropped i s) := by
  unfold Machine.restoreDropped
  split
  · split
    · exact Logged.raise (logged_congr rfl h)
    · exact h
  · exact h

theorem Logged.headAbsent {e : LogEnt} {i : Nat} {s : State} (h : Logged e s) : Logged e (headAbsent i s) := by
  unfold Machine.headAbsent
  extract_lets s₁ x lost s₂
  have h₁ : Logged e s₁ := Logged.restoreDropped (Logged.detFaults h)
  have h₂ : Logged e s₂ := Logged.of_outside (m := { headAcc := true }) rfl (outside_foldl (fun t c => outside_changeLost rfl _ _ _ _) _ _) h₁
  exact logged_congr rfl h₂

theorem Logged.releaseRing {e : LogEnt} {r : Nat} {s : State} (h : Logged e s) : Logged e (releaseRing r s) := by
  unfold Machine.releaseRing
  extract_lets drop
  have hdrop : ∀ o t, Logged e t → Logged e (drop o t) := by
    intro o t ht
    simp only [drop]
    split
    · exact ht
    · split
      · exact Logged.raise (logged_congr rfl ht)
      · exact ht
  exact logged_congr rfl (hdrop _ _ (hdrop _ _ h))

theorem Logged.undoPreparing {e : LogEnt} {s : State} (h : Logged e s) : Logged e (undoPreparing s) := by
  unfold Machine.undoPreparing
  split
  · next o n _ _ =>
    extract_lets s₁ s₂
    have h₁ : Logged e s₁ := Logged.each (f := fun s (r : PlanRing) => (Machine.releaseRing r.ring s).modRing r.ring (fun _ => {}))
      (fun t r ht => logged_congr (u := Machine.releaseRing r.ring t) rfl (Logged.releaseRing ht)) _ h
    have h₂ : Logged e s₂ := Logged.each (f := fun s (h : PlanHead) => (Machine.headAbsent h.num s).modHead h.num Head.kept)
      (fun t h ht => logged_congr (u := Machine.headAbsent h.num t) rfl (Logged.headAbsent ht)) _ h₁
    exact h₂
  · exact h

theorem Logged.history {e : LogEnt} {ev res slot ver : Nat} {b : Nat × Nat} {id : Word} {x : PlanErr} {s : State} (h : Logged e s) :
    Logged e (history ev res slot b id ver x s) :=
  Logged.of_outside (m := { plan := true }) rfl (outside_history rfl _ _ _ _ _ _ _ _) h

theorem Logged.setPlanSt {e : LogEnt} {st : PlanSt} {s : State} (h : Logged e s) : Logged e (setPlanSt st s) :=
  Logged.of_outside (m := { plan := true, host := true }) rfl (outside_setPlanSt rfl rfl _ _) h

theorem Logged.stageFailed {e : LogEnt} {b : Img} {x : PlanErr} {s : State} (h : Logged e s) : Logged e (stageFailed b x s) := by
  unfold Machine.stageFailed
  have h₁ : Logged e (errField x s).2 := Logged.of_outside (m := { fresh := true }) rfl (outside_errField rfl _ _) h
  have h₂ : Logged e (planFailed (errField x s).1 (errField x s).2) :=
    Logged.of_outside (m := { plan := true, host := true }) rfl (outside_planFailed rfl rfl _ _) h₁
  exact Logged.setPlanSt (Logged.history (Logged.raise h₂))

theorem Logged.abortPlan {e : LogEnt} {s : State} (h : Logged e s) : Logged e (abortPlan s) := by
  unfold Machine.abortPlan
  split
  · exact Logged.stageFailed (Logged.of_outside (m := { plan := true, fresh := true }) rfl (outside_breakStage rfl rfl _) h)
  · exact Logged.setPlanSt (Logged.of_outside (m := { plan := true }) rfl (outside_planResult rfl _ _)
      (Logged.history (Logged.undoPreparing h)))
  · exact h

/-! ## What the parts of a warning write -/

/-- The parts of the state that the abandoned outings and the abandoned plan operation write. -/
abbrev Parts.abandon : Parts where
  ring := true; head := true; headAcc := true; stair := true; plan := true; red := true; lc := true; cal := true; host := true
  log := true; fresh := true

theorem abandon_outside (s : State) : (abortPlan (abortOutings s)).outside Parts.abandon = s.outside Parts.abandon := by simp

/-- Only a plan that is being prepared has rings to release. -/
theorem abortPlan_ring {s : State} (h : s.plan.st ≠ .preparing) : (abortPlan s).ring = s.ring := by
  unfold abortPlan
  split
  · exact State.ring_eq (m := { plan := true, host := true, log := true, fresh := true }) rfl (by simp)
  · next hst => exact absurd hst h
  · rfl

theorem abandon_ring {s : State} (h : s.plan.st ≠ .preparing) : (abortPlan (abortOutings s)).ring = s.ring := by
  have ho : (abortOutings s).outside { head := true, lc := true, cal := true, host := true, log := true }
      = s.outside { head := true, lc := true, cal := true, host := true, log := true } := by simp
  rw [abortPlan_ring (by rw [State.plan_eq rfl ho]; exact h), State.ring_eq rfl ho]

theorem shedRings_getRing {r : Nat} {s : State} (hr : r < s.ringCount) :
    ((shedRings s).getRing r).st = if (s.getRing r).st = .run then .shed else (s.getRing r).st := by
  refine each_view_once (inv := fun _ => True) (fun t => (t.getRing r).st) r (fun x => if x = .run then .shed else x)
    (fun _ _ _ => trivial) ?_ ?_ List.nodup_range (List.mem_range.2 hr) trivial
  · intro t a ha _
    split
    · rw [State.getRing_modRing_ne _ _ _ _ (Ne.symm ha)]
    · rfl
  · intro t _
    split
    · rw [State.getRing_modRing]
    · rfl

theorem galFollow_shed (d : GalPower) (x : Gal) : (galFollow d x).shed = x.shed := by
  unfold galFollow
  split
  case h_5 => split <;> rfl
  all_goals rfl

theorem galSettle_shed (g k : Nat) (s : State) : ((galSettle k s).getGal g).shed = (s.getGal g).shed := by
  unfold galSettle
  by_cases h : g = k
  · subst h
    rw [State.getGal_modGal]
    exact galFollow_shed _ _
  · rw [State.getGal_modGal_ne _ _ _ _ h]

theorem shedGalleries_shed {g : Nat} (hg : g = 1 ∨ g = 6 ∨ g = 7) (s : State) : ((shedGalleries s).getGal g).shed = true := by
  unfold shedGalleries
  refine each_establishes (P := fun t => (t.getGal g).shed = true)
    (f := fun s g => galSettle g (s.modGal g (fun x => { x with shed := true, woken := false }))) ?_ (a := g) ?_ ?_ _
  · intro t k ht
    rw [galSettle_shed]
    by_cases h : g = k
    · subst h; simp
    · rw [State.getGal_modGal_ne _ _ _ _ h, ht]
  · intro t
    rw [galSettle_shed]
    simp
  · simp; omega

theorem shedGalleries_stopped (s : State) : (shedGalleries s).mt.stopped = true := by
  unfold shedGalleries
  exact congrArg MemTest.stopped (State.mt_eq (m := { gal := true }) rfl (outside_each (fun t g => by simp [galSettle]) _ _))

/-- The parts that the first half of a warning writes, from the log entry to the galleries. -/
theorem shed_outside (s : State) : (shedGalleries (shedRings s)).outside { ring := true, gal := true, mt := true, log := true }
    = s.outside { ring := true, gal := true, mt := true, log := true } := by simp

theorem stopOuts_getOut {o : Nat} (ho : o < 16) (s : State) :
    ((each (List.range 16) (fun s o => s.modOut o (fun x => { x with stopped := true, due := 0 })) s).getOut o).stopped = true ∧
    ((each (List.range 16) (fun s o => s.modOut o (fun x => { x with stopped := true, due := 0 })) s).getOut o).issued
      = (s.getOut o).issued := by
  constructor
  · refine each_establishes (P := fun t => (t.getOut o).stopped = true)
      (f := fun s k => s.modOut k (fun x => { x with stopped := true, due := 0 })) ?_ (a := o) ?_ (List.mem_range.2 ho) s
    · intro t k ht
      by_cases h : o = k
      · subst h; simp
      · rw [State.getOut_modOut_ne _ _ _ _ h, ht]
    · intro t; simp
  · refine each_same (fun t => (t.getOut o).issued) (f := fun s k => s.modOut k (fun x => { x with stopped := true, due := 0 })) ?_ _ s
    intro t k
    by_cases h : o = k
    · subst h; simp
    · exact congrArg PulseOut.issued (State.getOut_modOut_ne _ _ _ _ h)

theorem getRing_congr {s t : State} (h : t.ring = s.ring) (r : Nat) : t.getRing r = s.getRing r := by
  unfold State.getRing
  rw [h]

theorem getGal_congr {s t : State} (h : t.gal = s.gal) (g : Nat) : t.getGal g = s.getGal g := by
  unfold State.getGal
  rw [h]

theorem getOut_congr {s t : State} (h : t.pulse.out = s.pulse.out) (o : Nat) : t.getOut o = s.getOut o := by
  unfold State.getOut
  rw [h]

/-- The first part of a warning: its entry, its registers, and the tails of the accumulators. -/
def warnRaised (src : Nat) (s : State) : State :=
  let rails := s.freeNext
  let u := if src ≥ 4 then rails.2 else s
  let u := (raise .powerWarning 0 [(1, src)] u)
  let u := u.modPwrIsl (fun p => { p with
    st := .warning, w := s.now, ewSrc := src, warnings := satAdd 0xFFFF p.warnings 1, resetAt := none, recDone := false, recGone := false
    warnSeq := none, tailAt := s.now
    railsPg := if src ≥ 4 then bits rails.1 3 0 % 15 else p.railsPg
    fromVio := if src ≥ 4 then decide (bits rails.1 3 0 % 15 ≥ 8) else p.fromVio, interrupted := u.notAllFirst })
  u.modTallyIsl (fun t => { t with ctx := t.ctx.map (fun e => (e.1, { e.2 with
    tail := [0, 0, 0, 0], ckFlat := e.2.ckFlat.map (fun q => { q with tail := [0, 0, 0, 0] }) })) })

/-- The second part: what is shed and what stops. -/
def warnSheds (w : Nat) (s : State) : State :=
  let s := shedGalleries (shedRings s)
  let s := each (List.range 16) (fun s o => s.modOut o (fun x => { x with stopped := true, due := 0 })) s
  let s := each (List.range 16) (fun s i => s.modInp i (fun x => { x.upTo w with stopped := true })) s
  s.modTmpIsl (fun t => { t with stopped := true })

theorem warn_eq (src : Nat) (s : State) : warn src s = abortPlan (abortOutings (warnSheds s.now (warnRaised src s))) := rfl

theorem warnRaised_outside (src : Nat) (s : State) : (warnRaised src s).outside { tally := true, pwr := true, log := true, fresh := true }
    = s.outside { tally := true, pwr := true, log := true, fresh := true } := by
  unfold warnRaised
  extract_lets rails s₁ s₂ s₃
  have h₁ : s₁.outside { tally := true, pwr := true, log := true, fresh := true }
      = s.outside { tally := true, pwr := true, log := true, fresh := true } := by
    unfold s₁; split <;> rfl
  simpa [s₃, s₂] using h₁

theorem warnRaised_pwr (src : Nat) (s : State) : (warnRaised src s).pwr.st = .warning ∧ (warnRaised src s).pwr.w = s.now ∧
    (warnRaised src s).pwr.ewSrc = src ∧ (warnRaised src s).pwr.warnings = satAdd 0xFFFF s.pwr.warnings 1 ∧
    (warnRaised src s).pwr.copyA = s.pwr.copyA ∧ (warnRaised src s).pwr.copyB = s.pwr.copyB := by
  unfold warnRaised
  extract_lets rails s₁ s₂ s₃
  have h₂ : s₂.pwr = s.pwr := by
    have h₁ : s₁.pwr = s.pwr := by unfold s₁; split <;> rfl
    rw [← h₁]
    exact State.pwr_eq (m := { log := true }) rfl (by simp [s₂])
  rw [← h₂]
  exact ⟨rfl, rfl, rfl, rfl, rfl, rfl⟩

theorem warnRaised_logged (src : Nat) (s : State) : Logged (ent .powerWarning s.now 0 [(1, src)] s) (warnRaised src s) := by
  unfold warnRaised
  extract_lets rails s₁ s₂ s₃
  have hent : ent .powerWarning s₁.now 0 [(1, src)] s₁ = ent .powerWarning s.now 0 [(1, src)] s := by
    unfold s₁; split <;> rfl
  exact logged_congr (u := s₂) rfl (hent ▸ logged_raise rfl 0 [(1, src)] s₁)

section Sheds

variable (w : Nat) (s : State)

theorem warnSheds_outside :
    (warnSheds w s).outside { ring := true, pulse := true, gal := true, mt := true, tmp := true, log := true }
      = s.outside { ring := true, pulse := true, gal := true, mt := true, tmp := true, log := true } := by
  simp [warnSheds]

theorem warnSheds_logged {e : LogEnt} {s : State} (h : Logged e s) : Logged e (warnSheds w s) := by
  have h₁ : Logged e (shedGalleries (shedRings s)) := Logged.shedGalleries (Logged.of_outside (m := { ring := true }) rfl (outside_shedRings rfl s) h)
  exact Logged.of_outside (m := { pulse := true, tmp := true }) rfl (by simp [warnSheds]) h₁

theorem warnSheds_tmp : (warnSheds w s).tmp.stopped = true := rfl

theorem warnSheds_ring {r : Nat} (hr : r < s.ringCount) :
    ((warnSheds w s).getRing r).st = if (s.getRing r).st = .run then .shed else (s.getRing r).st := by
  rw [← shedRings_getRing hr]
  have h : (warnSheds w s).ring = (shedRings s).ring :=
    State.ring_eq (m := { pulse := true, gal := true, mt := true, tmp := true, log := true }) rfl (by simp [warnSheds])
  rw [getRing_congr h]

theorem warnSheds_galleries : (warnSheds w s).gal = (shedGalleries (shedRings s)).gal ∧
    (warnSheds w s).mt = (shedGalleries (shedRings s)).mt := by
  have h : (warnSheds w s).outside { pulse := true, tmp := true } = (shedGalleries (shedRings s)).outside { pulse := true, tmp := true } := by
    simp [warnSheds]
  exact ⟨State.gal_eq rfl h, State.mt_eq rfl h⟩

theorem warnSheds_gal {g : Nat} (hg : g = 1 ∨ g = 6 ∨ g = 7) : ((warnSheds w s).getGal g).shed = true := by
  rw [getGal_congr (warnSheds_galleries w s).1]
  exact shedGalleries_shed hg _

theorem warnSheds_mt : (warnSheds w s).mt.stopped = true := by
  rw [(warnSheds_galleries w s).2]
  exact shedGalleries_stopped _

theorem warnSheds_out {o : Nat} (ho : o < 16) :
    ((warnSheds w s).getOut o).stopped = true ∧ ((warnSheds w s).getOut o).issued = (s.getOut o).issued := by
  have hp : (shedGalleries (shedRings s)).pulse = s.pulse :=
    State.pulse_eq (m := { ring := true, gal := true, mt := true, log := true }) rfl (by simp)
  have hs := stopOuts_getOut ho (shedGalleries (shedRings s))
  rw [getOut_congr (congrArg Pulse.out hp)] at hs
  have hi : (warnSheds w s).pulse.out = (each (List.range 16) (fun s o => s.modOut o (fun x => { x with stopped := true, due := 0 }))
      (shedGalleries (shedRings s))).pulse.out :=
    each_same (fun t => t.pulse.out) (f := fun s i => s.modInp i (fun x => { x.upTo w with stopped := true })) (fun _ _ => rfl) _ _
  rw [getOut_congr hi]
  exact hs

end Sheds

/-! ## The warning -/

/-- The parts that a warning writes. -/
abbrev Parts.warned : Parts where
  ring := true; head := true; headAcc := true; stair := true; tally := true; pulse := true; plan := true; red := true; lc := true
  cal := true; gal := true; mt := true; host := true; tmp := true; pwr := true; log := true; fresh := true

theorem warn_outside (src : Nat) (s : State) : (warn src s).outside Parts.warned = s.outside Parts.warned := by
  rw [warn_eq]
  exact (State.outside_mono rfl (abandon_outside _)).trans
    ((State.outside_mono rfl (warnSheds_outside _ _)).trans (State.outside_mono rfl (warnRaised_outside src s)))

/-- What a warning gives, in the words of the statement. -/
theorem warn_parts (src : Nat) (s : State) : (warn src s).pwr = (warnRaised src s).pwr ∧
    (s.plan.st ≠ .preparing → ∀ r, r < s.ringCount →
      ((warn src s).getRing r).st = if (s.getRing r).st = .run then .shed else (s.getRing r).st) ∧
    (∀ o, o < 16 → ((warn src s).getOut o).stopped = true ∧ ((warn src s).getOut o).issued = (s.getOut o).issued) ∧
    (warn src s).mt.stopped = true ∧ (∀ g, g = 1 ∨ g = 6 ∨ g = 7 → ((warn src s).getGal g).shed = true) ∧
    (warn src s).tmp.stopped = true ∧ Logged (ent .powerWarning s.now 0 [(1, src)] s) (warn src s) := by
  have h₁ := warnRaised_outside src s
  have h₂ := warnSheds_outside s.now (warnRaised src s)
  have h₃ := abandon_outside (warnSheds s.now (warnRaised src s))
  rw [warn_eq]
  refine ⟨(State.pwr_eq rfl h₃).trans (State.pwr_eq rfl h₂), ?_, ?_, ?_, ?_, ?_, ?_⟩
  · intro hst r hr
    have hplan : (warnSheds s.now (warnRaised src s)).plan = s.plan := (State.plan_eq rfl h₂).trans (State.plan_eq rfl h₁)
    have hring : (warnRaised src s).getRing r = s.getRing r := getRing_congr (State.ring_eq rfl h₁) r
    rw [getRing_congr (abandon_ring (by rw [hplan]; exact hst)),
      warnSheds_ring _ _ (by rw [State.ringCount, State.glb_eq rfl h₁]; exact hr), hring]
  · intro o ho
    have hout : (warnRaised src s).getOut o = s.getOut o := getOut_congr (congrArg Pulse.out (State.pulse_eq rfl h₁)) o
    rw [getOut_congr (congrArg Pulse.out (State.pulse_eq rfl h₃)), ← hout]
    exact warnSheds_out _ _ ho
  · rw [State.mt_eq rfl h₃]
    exact warnSheds_mt _ _
  · intro g hg
    rw [getGal_congr (State.gal_eq rfl h₃)]
    exact warnSheds_gal _ _ hg
  · rw [State.tmp_eq rfl h₃]
    exact warnSheds_tmp _ _
  · exact Logged.abortPlan (Logged.abortOutings (warnSheds_logged _ (warnRaised_logged src s)))

theorem tearSave_outside (b : Bool) (s : State) : (whenDo b tearSave s).outside { pwr := true } = s.outside { pwr := true } :=
  outside_whenDo (f := tearSave) (fun _ => rfl) b s

theorem tearSave_kept (b : Bool) (s : State) : (whenDo b tearSave s).pwr.warnings = s.pwr.warnings := by
  cases b
  · rfl
  · simp only [whenDo_true, tearSave, State.modPwrIsl]
    split <;> rfl

theorem tearSave_copies (s : State) {a b : SaveRec} (hs : s.pwr.single = false) (ha : s.pwr.copyA = some a) (hb : s.pwr.copyB = some b) :
    (a.seq < b.seq → (tearSave s).pwr.copyA = none ∧ (tearSave s).pwr.copyB = some b) ∧
    (b.seq < a.seq → (tearSave s).pwr.copyA = some a ∧ (tearSave s).pwr.copyB = none) := by
  constructor
  · intro hab
    have ht : s.pwr.periodicTarget.1 = false := by
      simp [Pwr.periodicTarget, hs, ha, hb, hab, hab.ne]
    simp [tearSave, ht, hb]
  · intro hba
    have ht : s.pwr.periodicTarget.1 = true := by
      simp [Pwr.periodicTarget, hs, ha, hb, hba.ne', Nat.not_lt.2 hba.le]
    simp [tearSave, ht, ha]

theorem warnSrc_eq (s : State) (src : BitVec 3) :
    s.warnSrc src.toNat = if s.pwr.pfwEn then src.toNat else src.toNat &&& 5 := by
  have h : src.toNat - 2 * (src.toNat / 2 % 2) = src.toNat &&& 5 := by
    revert src
    decide
  simp [State.warnSrc, h]

/-- A source that counts leaves something of its operand. -/
theorem warnSrc_pos {s : State} {src : BitVec 3}
    (h : src.getLsbD 0 = true ∨ src.getLsbD 2 = true ∨ (src.getLsbD 1 = true ∧ s.pwr.pfwEn = true)) : s.warnSrc src.toNat ≠ 0 := by
  rw [warnSrc_eq]
  generalize s.pwr.pfwEn = b at h
  revert src b
  decide

theorem inWarning_iff (s : State) : s.inWarning = true ↔ s.pwr.st = .warning ∨ s.pwr.st = .saved := by
  simp [State.inWarning]

/-- What comes before the main domain's release is given up, in the power save's registers and the mirror alone. -/
theorem giveUpStart_outside (src : Nat) (s : State) : (giveUpStart src s).outside { pwr := true, log := true, fresh := true }
    = s.outside { pwr := true, log := true, fresh := true } := by
  simp [giveUpStart, batteryRecord]

theorem giveUpStart_pwr (src : Nat) (s : State) :
    (giveUpStart src s).pwr = { s.pwr with pg := false, fromVio := false, railsPg := 0, interrupted := true } := by
  exact State.pwr_eq (m := { log := true }) (s := s.modPwrIsl (fun p => { p with pg := false, fromVio := false, railsPg := 0, interrupted := true }))
    rfl (by simp [giveUpStart, batteryRecord])

theorem warning_raised {src : BitVec 3} {saving : Bool} {s : State} (hon : s.pwr.mainOn = true ∨ s.pwr.resetting = true)
    (hw : s.pwr.st ≠ .warning) (hsv : s.pwr.st ≠ .saved) (hl : bit s.glb.lost islPower = false)
    (hsrc : src.getLsbD 0 = true ∨ src.getLsbD 2 = true ∨ (src.getLsbD 1 = true ∧ s.pwr.pfwEn = true)) :
    exec (.powerWarning src saving) s = .next (warn (s.warnSrc src.toNat) (whenDo (saving && s.maySave) tearSave s)) := by
  have hno : ¬(s.inWarning = true ∨ s.warnSrc src.toNat = 0 ∨ s.pwrIdle = true) := by
    simp [inWarning_iff, hw, hsv, warnSrc_pos hsrc, State.pwrIdle, hl]
  have : execPowerWarning src s saving = .next (warn (s.warnSrc src.toNat) (whenDo (saving && s.maySave) tearSave s)) := by
    unfold execPowerWarning
    rw [if_neg hno, if_pos hon]
  exact this

/-- Settles O8, from what each part of a warning writes. -/
theorem powerWarningSheds : Obligations.PowerWarningSheds := by
  unfold Obligations.PowerWarningSheds
  refine ⟨fun src saving s hon hw hsv hl hsrc => ⟨_, warning_raised hon hw hsv hl hsrc, ?_⟩, fun src saving s h => ?_,
    fun src saving s hm hr hpg hw hsv hl hsrc => ⟨giveUpStart (s.warnSrc src.toNat) s, ?_, ?_⟩⟩
  · have hu := tearSave_outside (saving && s.maySave) s
    have hk := tearSave_kept (saving && s.maySave) s
    have htear := fun a b => tearSave_copies s (a := a) (b := b)
    have hnone : saving = false ∨ s.maySave = false → whenDo (saving && s.maySave) tearSave s = s := by
      rintro (h | h) <;> simp [h]
    have hboth : saving = true → s.maySave = true → whenDo (saving && s.maySave) tearSave s = tearSave s := by
      intro h h'; simp [h, h']
    generalize whenDo (saving && s.maySave) tearSave s = u at *
    obtain ⟨hpwr, hring, hout, hmt, hgal, htmp, hlog⟩ := warn_parts (s.warnSrc src.toNat) u
    obtain ⟨hst, hwat, hsrcs, hcount, hcA, hcB⟩ := warnRaised_pwr (s.warnSrc src.toNat) u
    have hnow : u.now = s.now := congrArg Tb.idx (State.tb_eq rfl hu)
    have hent : ent .powerWarning u.now 0 [(1, s.warnSrc src.toNat)] u = ent .powerWarning s.now 0 [(1, s.warnSrc src.toNat)] s :=
      hnow ▸ ent_congr (congrArg Tb.epoch (State.tb_eq rfl hu))
    rw [← hpwr] at hst hwat hsrcs hcount hcA hcB
    refine ⟨hst, hwat.trans hnow, hsrcs.trans (warnSrc_eq s src), hcount.trans ?_, ?_, ?_, hmt, hgal, htmp, ?_, ?_, ?_, ?_⟩
    · rw [hk]
      rfl
    · intro hp r hr
      rw [← getRing_congr (State.ring_eq rfl hu)]
      exact hring (by rw [State.plan_eq rfl hu]; exact hp) r (by rw [State.ringCount, State.glb_eq rfl hu]; exact hr)
    · intro o ho
      rw [← getOut_congr (congrArg Pulse.out (State.pulse_eq rfl hu)) o]
      exact hout o ho
    · rw [hsrcs, ← hent]
      exact hlog
    · intro h
      rw [hcA, hcB, hnone h]
      exact ⟨rfl, rfl⟩
    · intro a b hsav hmay hs ha hb
      rw [hcA, hcB, hboth hsav hmay]
      exact htear a b hs ha hb
    · exact State.eq_onto ((warn_outside (s.warnSrc src.toNat) u).trans (State.outside_mono rfl hu))
  · have hin : s.inWarning = true := (inWarning_iff s).2 h
    exact congrArg Host.Outcome.next (if_pos (.inl hin))
  · have hno : ¬(s.inWarning = true ∨ s.warnSrc src.toNat = 0 ∨ s.pwrIdle = true) := by
      simp [inWarning_iff, hw, hsv, warnSrc_pos hsrc, State.pwrIdle, hl]
    have : execPowerWarning src s saving = .next (giveUpStart (s.warnSrc src.toNat) s) := by
      unfold execPowerWarning
      rw [if_neg hno, if_neg (by simp [hm, hr]), if_pos hpg]
    exact this
  · have hp := giveUpStart_pwr (s.warnSrc src.toNat) s
    exact ⟨by rw [hp], by rw [hp]; exact hm, by rw [hp], by rw [hp], by rw [hp], State.eq_onto (giveUpStart_outside _ s)⟩

end Sys2Proof.Machine
end

section
-- One proof after another: elaborated side by side they take more memory than the check allows.
set_option Elab.async false
/-! PROOF. The window that a tally unit has counted (O22), and what a completed window credits to the outputs (R201). -/

namespace Sys2Proof.Machine

open Sys2Proof.Cert

/-! ## The credit of an output (R201, R205, R206) -/

/-- Output x with `q` quanta of a window that begins at a, at the rate of a window of length len. -/
def creditedOut (a len q : Nat) (x : PulseOut) : PulseOut :=
  let u := x.useAt a
  let sum := (if u.rebase then 0 else x.rho) + q
  let n := sum / u.cfg.weight
  let p := x.pend + n
  { x with
    rho := sum % u.cfg.weight, credited := (x.credited + n) % 2 ^ 64, pend := min p 65535
    uses := x.allUses.takeWhile (fun e => decide (e.from_ > a)) ++ [{ u with rebase := false }]
    nu := pulseRate (min p 65535) len, hold := false
    ovf := x.ovf || decide (0 < p - 65535), lost := satAdd 0xFFFFFFFF x.lost (p - 65535) }

theorem creditOut_pulse (o k a len q : Nat) (s : State) :
    (creditOut o k a len q s).pulse = (s.modOut o (creditedOut a len q)).pulse := by
  unfold creditOut
  extract_lets x u sum n p lost s₁
  have h : (whenDo (decide (0 < lost)) (fun s => irqAll irqPulse (raise .pulseOverflow o [(8, k), (4, lost)] s)) s₁).pulse = s₁.pulse :=
    State.pulse_eq (m := { host := true, log := true }) rfl (by simp)
  rw [h]
  simp only [s₁, State.modOut]
  rfl

theorem creditOut_getOut (o k a len q : Nat) (s : State) : (creditOut o k a len q s).getOut o = creditedOut a len q (s.getOut o) := by
  rw [getOut_congr (congrArg Pulse.out (creditOut_pulse o k a len q s)), State.getOut_modOut]

theorem creditOut_getOut_ne {o j : Nat} (k a len q : Nat) (s : State) (h : j ≠ o) : (creditOut o k a len q s).getOut j = s.getOut j := by
  rw [getOut_congr (congrArg Pulse.out (creditOut_pulse o k a len q s)), State.getOut_modOut_ne _ _ _ _ h]

theorem creditOut_inp (o k a len q : Nat) (s : State) : (creditOut o k a len q s).pulse.inp = s.pulse.inp := by
  rw [creditOut_pulse]
  rfl

/-- Output x after the credit of window k of group gi by the unit that serves the contexts cs. -/
def creditedBy (s : State) (gi k : Nat) (harm : Bool) (cs : List Nat) (x : PulseOut) : PulseOut :=
  let a := (s.getGrp gi).twOf (k - 1)
  let u := x.useAt a
  match (s.planWin gi k).bind (fun p => p.num? u.cfg.ctx) with
  | none => x
  | some pc =>
    if u.cfg.modeNow == 1 && u.isFor gi && cs.contains pc.c && (harm == decide (u.cfg.acc ≥ 40)) then
      creditedOut a ((s.getGrp gi).twOf k - a) (s.quanta pc k u.cfg.acc) x
    else x

section Credit

variable (s : State) (gi k : Nat) (harm : Bool) (cs : List Nat)

/-- The step of `creditCtxs` for output o. -/
def creditStep (a len : Nat) (s : State) (o : Nat) : State :=
  match (s.planWin gi k).bind (fun p => p.num? ((s.getOut o).useAt a).cfg.ctx) with
  | none => s
  | some pc =>
    if ((s.getOut o).useAt a).cfg.modeNow == 1 && ((s.getOut o).useAt a).isFor gi && cs.contains pc.c &&
        (harm == decide (((s.getOut o).useAt a).cfg.acc ≥ 40)) then
      creditOut o k a len (s.quanta pc k ((s.getOut o).useAt a).cfg.acc) s
    else s

theorem creditCtxs_eq : creditCtxs gi k harm cs s
    = each (List.range 16) (creditStep gi k harm cs ((s.getGrp gi).twOf (k - 1)) ((s.getGrp gi).twOf k - (s.getGrp gi).twOf (k - 1))) s := rfl

theorem creditStep_outside (a len o : Nat) : (creditStep gi k harm cs a len s o).outside { pulse := true, host := true, log := true }
    = s.outside { pulse := true, host := true, log := true } := by
  unfold creditStep
  split
  · rfl
  · split <;> simp

theorem creditStep_getOut_ne (a len : Nat) {o j : Nat} (h : j ≠ o) : (creditStep gi k harm cs a len s o).getOut j = s.getOut j := by
  unfold creditStep
  split
  · rfl
  · split
    · exact creditOut_getOut_ne _ _ _ _ _ h
    · rfl

theorem creditStep_inp (a len o : Nat) : (creditStep gi k harm cs a len s o).pulse.inp = s.pulse.inp := by
  unfold creditStep
  split
  · rfl
  · split
    · exact creditOut_inp _ _ _ _ _ _
    · rfl

theorem creditStep_getOut (o : Nat) :
    (creditStep gi k harm cs ((s.getGrp gi).twOf (k - 1)) ((s.getGrp gi).twOf k - (s.getGrp gi).twOf (k - 1)) s o).getOut o
      = creditedBy s gi k harm cs (s.getOut o) := by
  unfold creditStep creditedBy
  extract_lets a u
  split
  · next h => simp only [u, a, h]
  · next pc h =>
    simp only [u, a, h]
    split
    · exact creditOut_getOut _ _ _ _ _ _
    · rfl

theorem creditCtxs_inp : (creditCtxs gi k harm cs s).pulse.inp = s.pulse.inp :=
  each_same (fun t => t.pulse.inp) (fun t o => creditStep_inp t gi k harm cs _ _ o) _ _

variable {s} in
/-- A state that differs in the outputs, the host ports and the log alone credits an output alike. -/
theorem creditedBy_congr {t : State} (h : t.outside { pulse := true, host := true, log := true }
    = s.outside { pulse := true, host := true, log := true }) : creditedBy t gi k harm cs = creditedBy s gi k harm cs := by
  rw [State.eq_onto h]
  rfl

theorem creditCtxs_getOut {o : Nat} (ho : o < 16) : (creditCtxs gi k harm cs s).getOut o = creditedBy s gi k harm cs (s.getOut o) := by
  rw [creditCtxs_eq]
  refine each_view_once (inv := fun t => t.outside { pulse := true, host := true, log := true }
    = s.outside { pulse := true, host := true, log := true }) (fun t => t.getOut o) o (creditedBy s gi k harm cs)
    (fun t j ht => (creditStep_outside t gi k harm cs _ _ j).trans ht) (fun t j hj _ => creditStep_getOut_ne t gi k harm cs _ _ (Ne.symm hj)) ?_
    List.nodup_range (List.mem_range.2 ho) rfl
  intro t ht
  have hg : s.getGrp gi = t.getGrp gi := by
    unfold State.getGrp
    rw [State.rs_eq rfl ht]
  rw [hg, creditStep_getOut, creditedBy_congr gi k harm cs ht]

theorem creditCtxs_getOut_ge {o : Nat} (ho : 16 ≤ o) : (creditCtxs gi k harm cs s).getOut o = s.getOut o := by
  rw [creditCtxs_eq]
  refine each_view (inv := fun _ => True) (fun t => t.getOut o) (fun _ _ _ => trivial) ?_ trivial
  intro t j hj _
  have := List.mem_range.1 hj
  exact creditStep_getOut_ne t gi k harm cs _ _ (by omega)

end Credit

theorem creditedOut_kept (a len q : Nat) (x : PulseOut) : (creditedOut a len q x).issued = x.issued ∧ (creditedOut a len q x).cfg = x.cfg :=
  ⟨rfl, rfl⟩

theorem creditCtxs_kept (s : State) (gi k : Nat) (harm : Bool) (cs : List Nat) (o : Nat) :
    ((creditCtxs gi k harm cs s).getOut o).issued = (s.getOut o).issued ∧ ((creditCtxs gi k harm cs s).getOut o).cfg = (s.getOut o).cfg := by
  rcases Nat.lt_or_ge o 16 with ho | ho
  · rw [creditCtxs_getOut s gi k harm cs ho]
    unfold creditedBy
    extract_lets a u
    split
    · exact ⟨rfl, rfl⟩
    · split <;> exact ⟨rfl, rfl⟩
  · rw [creditCtxs_getOut_ge s gi k harm cs ho]
    exact ⟨rfl, rfl⟩

/-- An output whose assignment names none of the contexts takes nothing. -/
theorem creditCtxs_other (s : State) (gi k : Nat) (harm : Bool) (cs : List Nat) {o : Nat}
    (h : ∀ x, (s.planWin gi k).bind (fun p => p.num? ((s.getOut o).useAt ((s.getGrp gi).twOf (k - 1))).cfg.ctx) = some x → x.c ∉ cs) :
    (creditCtxs gi k harm cs s).getOut o = s.getOut o := by
  rcases Nat.lt_or_ge o 16 with ho | ho
  · rw [creditCtxs_getOut s gi k harm cs ho]
    unfold creditedBy
    extract_lets a u
    split
    · rfl
    · next pc hpc => simp [h pc hpc]
  · exact creditCtxs_getOut_ge s gi k harm cs ho

/-- An output whose assignment names one of the contexts, in mode 1, takes the window's quanta. -/
theorem creditCtxs_named (s : State) {gi k : Nat} {harm : Bool} {cs : List Nat} {o : Nat} (ho : o < 16) {x : PlanCtx}
    (hx : (s.planWin gi k).bind (fun p => p.num? ((s.getOut o).useAt ((s.getGrp gi).twOf (k - 1))).cfg.ctx) = some x) (hc : x.c ∈ cs)
    (hg : ((s.getOut o).useAt ((s.getGrp gi).twOf (k - 1))).isFor gi = true)
    (hm : ((s.getOut o).useAt ((s.getGrp gi).twOf (k - 1))).cfg.mode = 1)
    (ha : decide (((s.getOut o).useAt ((s.getGrp gi).twOf (k - 1))).cfg.acc ≥ 40) = harm) :
    (creditCtxs gi k harm cs s).getOut o
      = creditedOut ((s.getGrp gi).twOf (k - 1)) ((s.getGrp gi).twOf k - (s.getGrp gi).twOf (k - 1))
          (s.quanta x k ((s.getOut o).useAt ((s.getGrp gi).twOf (k - 1))).cfg.acc) (s.getOut o) := by
  rw [creditCtxs_getOut s gi k harm cs ho]
  unfold creditedBy
  extract_lets a u
  simp [u, a, hx, PlsCfg.modeNow, hm, hg, hc, ha]

/-! ## The window done -/

theorem blockDone_full {gi k b : Nat} {s : State} (hw : s.blockWin b gi k ≠ []) (ht : s.hasToken gi k b = false)
    (hf : s.blockFull b gi k = true) :
    blockDone gi k b s = sendToken gi k b (creditCtxs gi k false ((s.blockWin b gi k).map (fun c => c.c)) s) := by
  have hne : (s.blockWin b gi k).isEmpty = false := by simpa using hw
  simp [blockDone, hne, ht, hf]

theorem tallyWindowDone_next {u : Fin 9} {g : Fin 16} {b : Nat} {s : State} (hup : s.up islTally = true)
    (hr : (s.getUnit u).retired = false) (hp : (s.getUnit u).replay = none) (hk : (s.getGrp g).lastK + 1 ≤ (s.getGrp g).closed)
    (hb : s.unitBlocks u = [b]) : exec (.tallyWindowDone u g) s = .next (blockDone g ((s.getGrp g).lastK + 1) b s) := by
  have h : execTallyWindowDone u g s = .next (blockDone g ((s.getGrp g).lastK + 1) b s) := by
    refine (onIsl_up hup : execTallyWindowDone u g s = _).trans (congrArg Host.Outcome.next ?_)
    simp [hr, hp, hb, Nat.not_lt.2 hk]
  exact h

/-- Settles O22, by the credit of each output. -/
theorem tallyWindowCreditsAndSendsToken : Obligations.TallyWindowCreditsAndSendsToken := by
  unfold Obligations.TallyWindowCreditsAndSendsToken
  intro u g b s hup k a hr hp hk hb hw ht hf
  refine ⟨_, tallyWindowDone_next hup hr hp hk hb, ?_⟩
  rw [blockDone_full hw ht hf]
  refine ⟨?_, ?_, fun o => creditCtxs_kept s g k false _ o, ?_, creditCtxs_inp s g k false _, ?_⟩
  · have hrs : (creditCtxs g k false ((s.blockWin b g k).map (fun c => c.c)) s).rs = s.rs :=
      State.rs_eq (m := { pulse := true, host := true, log := true }) rfl (by simp)
    exact congrArg (fun r => Resamp.tokens r ++ [(g.val, k, b)]) hrs
  · intro o x w rho hx hmem hfor hmode hacc n
    have hc : x.c ∈ (s.blockWin b g k).map (fun c => c.c) := List.mem_map_of_mem hmem
    have hcr := creditCtxs_named s (gi := g) (k := k) (harm := false) o.isLt hx hc hfor hmode (by simpa using hacc)
    change ((creditCtxs g k false _ s).getOut o).credited = _ ∧ ((creditCtxs g k false _ s).getOut o).pend = _ ∧
      ((creditCtxs g k false _ s).getOut o).rho = _ ∧ ((creditCtxs g k false _ s).getOut o).lost = _
    rw [hcr]
    exact ⟨rfl, Nat.min_comm _ _, rfl, rfl⟩
  · intro o ho
    refine creditCtxs_other s g k false _ (fun x hx hc => ?_)
    obtain ⟨y, hy, hyc⟩ := List.mem_map.1 hc
    exact ho x hx y hy hyc
  · have h : (creditCtxs g k false ((s.blockWin b g k).map (fun c => c.c)) s).outside { pulse := true, host := true, log := true }
        = s.outside { pulse := true, host := true, log := true } := by simp
    have hc := State.eq_onto h
    generalize creditCtxs g k false ((s.blockWin b g k).map (fun c => c.c)) s = c at hc
    rw [hc]
    rfl

end Sys2Proof.Machine
end

section
-- One proof after another: elaborated side by side they take more memory than the check allows.
set_option Elab.async false
/-! PROOF. The samples that the spectral engines take (O27). -/

namespace Sys2Proof.Machine

open Sys2Proof.Cert

/-! ## Cycle samples of a harmonic engine (R218, R225) -/

/-- The binding after a sample of value y, formed of the samples l, in window k. -/
def SpBind.take (k m : Nat) (y : Int) (l : List CSample) (b : SpBind) : SpBind :=
  let wins := tmod {} b.wins k (addHarm y l)
  { b with next := m + 1, wins := wins, ck := if (m + 1) % 512 = 0 then (m + 1, wins) :: b.ck.take 1 else b.ck }

theorem SpBind.take_win (k m : Nat) (y : Int) (l : List CSample) (b : SpBind) :
    tget {} (b.take k m y l).wins k = addHarm y l (tget {} b.wins k) := tget_tset_same _ _ _ _

theorem addHarm_gap (y : Int) (e : CSample) (w : HarmWin) :
    (addHarm y [e] w).gap = (w.gap || decide (e.cls = 2 ∨ e.cls = 3 ∨ e.cls = 5 ∨ e.cls = 6)) := by
  have h : [e].any (fun e => e.cls == 5 || e.cls == 6 || e.cls == 2 || e.cls == 3)
      = decide (e.cls = 2 ∨ e.cls = 3 ∨ e.cls = 5 ∨ e.cls = 6) := by
    rw [Bool.eq_iff_iff]
    simp
    omega
  exact congrArg (w.gap || ·) h

theorem addHarm_unsettled (y : Int) (e : CSample) (w : HarmWin) :
    (addHarm y [e] w).unsettled = (w.unsettled || decide (e.cls = 1)) :=
  congrArg (w.unsettled || ·) (Bool.or_false _)

section HarmTake

variable {s : State} {n slot gi k m : Nat} {x : PlanCtx}

theorem harmTake_eq (hgi : s.ctxGrp n = some gi) (hm : (s.getSpBind (8 * n + slot)).next = m)
    (hk : k = (s.getGrp gi).winOf (s.winCycles gi) (m / 512)) (hx : (s.planWin gi k).bind (fun p => p.ctx? n) = some x)
    (hstart : (s.getGrp gi).started = true) (hswap : s.beyondSwap gi (m / 512) = false) (hslot : slot ∈ x.specSlots) {l : List CSample}
    (hl : (x.specFrom slot).map (fun i => s.csample n i m) = l.map some) {y : Int}
    (hy : y = if (x.headOf slot).isSome then (((x.specFrom slot).zip l).map (fun e => (x.slot e.1).scaled e.2.det e.2.step 1 e.2.val)).headD 0
      else -((((x.specFrom slot).zip l).map (fun e => (x.slot e.1).scaled e.2.det e.2.step 1 e.2.val)).foldl (· + ·) 0)) :
    harmTake n slot s = s.modSpBind (8 * n + slot) (SpBind.take k m y l) := by
  subst hk hm
  have hsome : (l.map some).any Option.isNone = false := by simp
  have hid : (l.map some).filterMap id = l := by simp
  simp only [harmTake, bkey, hgi, hx, hl, hid, hsome, hstart, hswap, List.contains_iff_mem.2 hslot, Bool.not_true, Bool.or_self,
    Bool.false_eq_true, if_false]
  rw [hy]
  rfl

theorem harmCycleSample_next {c : Fin 160} {slot : Fin 8} (hup : s.up islSpect = true) (hc : s.ctxKeys c = [n]) (he : s.harmFor n < 5)
    (hr : s.spRuns (s.harmFor n) = true) : exec (.harmCycleSample c slot) s = .next (harmTake n slot s) := by
  refine (onIsl_up hup : execHarmCycleSample c slot s = _).trans (congrArg Host.Outcome.next ?_)
  rw [hc, each_cons, each_nil]
  simp [he, hr]

end HarmTake

theorem boundSlot_mem {x : PlanCtx} {slot : Fin 8} (h : (x.headOf slot).isSome = true) : slot.val ∈ x.specSlots :=
  List.mem_append_left _ (List.mem_filter.2 ⟨List.mem_range.2 slot.isLt, h⟩)

theorem derivedSlot_mem {x : PlanCtx} (hk : x.kind = 3) (h : x.headOf 5 = none) : 5 ∈ x.specSlots := by
  simp [PlanCtx.specSlots, hk, h]

/-! ## Raw samples of a lane (R237) -/

section Raw

variable {l : Fin 8} {s : State} {q : Raw} {rest : List Raw} {k : Nat}

theorem shRawSample_taken (hup : s.up islSpect = true) (hw : s.inWarning = false) (hq : (s.getLane l).queue = q :: rest)
    (hk : s.windowAt s.spec.refGrp (2 * q.idx) = some k) {r : ShRound} {j f : Nat} {e : PlanRoster} (hr : s.roundOf k = some r)
    (hv : r.visit s.spec.roster.length l k = some (j, f)) (he : s.spec.roster[j]? = some e) :
    exec (.shRawSample l) s = .next (s.modLane l (fun x => { x with queue := rest, wins := tmod {} x.wins k (addRaw e q) })) := by
  refine (onIsl_up hup : execShRawSample l s = _).trans (congrArg Host.Outcome.next ?_)
  simp only [hw, hq, hk, hr, Option.bind_some, hv, he, Bool.false_eq_true, if_false]

theorem shRawSample_passed (hup : s.up islSpect = true) (hw : s.inWarning = false) (hq : (s.getLane l).queue = q :: rest)
    (hk : s.windowAt s.spec.refGrp (2 * q.idx) = some k) (hv : ∀ r, s.roundOf k = some r → r.visit s.spec.roster.length l k = none) :
    exec (.shRawSample l) s = .next (s.modLane l (fun x => { x with queue := rest })) := by
  have hb : (s.roundOf k).bind (fun r => r.visit s.spec.roster.length l k) = none :=
    Option.bind_eq_none_iff.2 (fun r hr => hv r hr)
  refine (onIsl_up hup : execShRawSample l s = _).trans (congrArg Host.Outcome.next ?_)
  simp only [hw, hq, hk, hb, Bool.false_eq_true, if_false]

end Raw

/-! ## SP_UTC (R231) -/

theorem spUtcWrite_taken (p : Fin 4) (v : BitVec 16) {s : State} (hact : MayAct s p 2 islSpect) :
    ∃ t, exec (.spUtcWrite p v) s = .next t ∧ Audited p 0x0E1040 (spRead s 0x40) (v.setWidth 32) s
      { s with spec := { s.spec with utcSet := true, utc := v.toNat } } t := by
  have hpl : place 0x0E1040 = .sp 0x40 := by decide
  have hv : bits (v.setWidth 32) 15 0 = v.toNat := by
    have := v.isLt
    simp only [bits, BitVec.toNat_setWidth]
    omega
  have hwrite : regWrite (s.getRolePort p).role p (.sp 0x40) (v.setWidth 32) s
      = (false, { s with spec := { s.spec with utcSet := true, utc := v.toNat } }) := by
    simp only [regWrite, spWrite, hv]
    rfl
  have hhalf : absentHalf 0x0E1040 = false := by decide
  have hneed : wrNeed (.sp 0x40) (v.setWidth 32) = 2 := rfl
  have hval : s.valueBad (.sp 0x40) (v.setWidth 32) = false := rfl
  obtain ⟨t, ht, haud⟩ := rowWrite_audited (a := 0x0E1040) (pl := .sp 0x40) (v := v.setWidth 32) hpl hact rfl trivial rfl (fun _ => hhalf)
    hneed.le hneed.ge hval rfl hwrite rfl rfl
  exact ⟨t, ht, haud⟩

/-- Settles O27. -/
theorem spectralSamplesTaken : Obligations.SpectralSamplesTaken := by
  unfold Obligations.SpectralSamplesTaken
  refine ⟨fun c slot s n gi k x hup hc he hr hgi => ?_,
    fun l s q rest k hup hw hq hk => ⟨fun r j f e hr hv he => ?_, fun hv => ?_⟩, fun p v s hact => spUtcWrite_taken p v hact⟩
  · intro m hk hx hstart hswap w
    refine ⟨fun e hslot hs => ?_, fun e1 e3 h5 hkind hno h1 h3 => ?_⟩
    · have htake := harmTake_eq (l := [e]) (y := (x.slot slot).scaled e.det e.step 1 e.val) hgi rfl hk hx hstart hswap
        (boundSlot_mem hslot) (by simp [PlanCtx.specFrom, hslot, m, ← hs]) (by simp [PlanCtx.specFrom, hslot])
      refine ⟨_, (harmCycleSample_next hup hc he hr).trans (congrArg _ htake), ?_, ?_, ?_, ?_, ?_, rfl⟩
      · rw [State.getSpBind_modSpBind]; rfl
      · rw [State.getSpBind_modSpBind, SpBind.take_win]; rfl
      · rw [State.getSpBind_modSpBind, SpBind.take_win]
        exact addHarm_gap _ e w
      · rw [State.getSpBind_modSpBind, SpBind.take_win]
        exact addHarm_unsettled _ e w
      · intro j hj
        exact State.getSpBind_modSpBind_ne _ _ _ _ hj
    · subst h5
      have htake := harmTake_eq (l := [e1, e3])
        (y := -((x.slot 4).scaled e1.det e1.step 1 e1.val + (x.slot 6).scaled e3.det e3.step 1 e3.val)) hgi rfl hk hx hstart hswap
        (derivedSlot_mem hkind hno) (by simp [PlanCtx.specFrom, hno, m, ← h1, ← h3]) (by simp [PlanCtx.specFrom, hno])
      refine ⟨_, (harmCycleSample_next hup hc he hr).trans (congrArg _ htake), ?_, ?_, ?_, rfl⟩
      · rw [State.getSpBind_modSpBind]; rfl
      · rw [State.getSpBind_modSpBind, SpBind.take_win]; rfl
      · intro j hj
        exact State.getSpBind_modSpBind_ne _ _ _ _ hj
  · refine ⟨_, shRawSample_taken hup hw hq hk hr hv he, ?_, ?_, ?_, ?_, rfl⟩
    · rw [State.getLane_modLane]
    · rw [State.getLane_modLane, tmod, tget_tset_same]; rfl
    · intro w hne
      rw [State.getLane_modLane]
      exact tget_tset_ne _ _ _ _ _ hne
    · intro j hj
      exact State.getLane_modLane_ne _ _ _ _ hj
  · refine ⟨_, shRawSample_passed hup hw hq hk hv, ?_, ?_, rfl⟩
    · rw [State.getLane_modLane]
    · intro j hj
      exact State.getLane_modLane_ne _ _ _ _ hj

end Sys2Proof.Machine
end

section
-- One proof after another: elaborated side by side they take more memory than the check allows.
set_option Elab.async false
/-! PROOF. The windows that the spectral engines have done (O28). -/

namespace Sys2Proof.Machine

open Sys2Proof.Cert

/-! ## The window of one context (R216 to R230) -/

theorem end10_res (e : Ends) (o : AggOut) : (end10 e o).bind.res = o.bind.res := by
  unfold end10
  extract_lets t t₁ t₂ two two₁
  split
  · rfl
  · split <;> rfl

theorem aggWindow_res (e : Ends) (k : Nat) (valid event held : Bool) (sq : List (Nat × Nat)) (b : SpBind) :
    (aggWindow e k valid event held sq b).bind.res = b.res := by
  unfold aggWindow
  extract_lets o o₁ a x₁ o₂ x₂ o₃
  have h₁ : o₁.bind.res = b.res := by
    unfold o₁
    split
    · exact end10_res e o
    · rfl
  have h₃ : o₃.bind.res = b.res := by
    rw [← h₁]
    unfold o₃
    split <;> rfl
  split
  · exact (end10_res e o₃).trans h₃
  · exact h₃

theorem harmCompute_k (x : PlanCtx) (w k st slot : Nat) (event : Bool) (hw : HarmWin) (xs : Array (Int × Int)) (ref : Option (Int × Int)) :
    (harmCompute x w k st slot event hw xs ref).res.k = k := by
  unfold harmCompute
  extract_lets valid den f1 d il thdF tddF fl res orders
  change res.k = k
  unfold res
  split <;> rfl

/-- What a window of a context may change of the bindings: results for window k are prepared, and what is committed stays. -/
def Prepares (k : Nat) (s t : State) : Prop :=
  ∀ b, (t.getSpBind b).res = (s.getSpBind b).res ∧
    ((∃ r, (s.getSpBind b).pend = some r ∧ r.k = k) → ∃ r, (t.getSpBind b).pend = some r ∧ r.k = k)

theorem Prepares.trans {k : Nat} {s t u : State} (h : Prepares k s t) (h' : Prepares k t u) : Prepares k s u :=
  fun b => ⟨(h' b).1.trans (h b).1, fun hp => (h' b).2 ((h b).2 hp)⟩

theorem Prepares.of_bind {k : Nat} {s t : State} (h : t.spec = s.spec) : Prepares k s t := by
  intro b
  unfold State.getSpBind
  rw [h]
  exact ⟨rfl, id⟩

theorem prepares_modSpBind {k b : Nat} {f : SpBind → SpBind} {s : State} (hres : (f (s.getSpBind b)).res = (s.getSpBind b).res)
    (hpend : ∃ r, (f (s.getSpBind b)).pend = some r ∧ r.k = k) :
    Prepares k s (s.modSpBind b f) ∧ ∃ r, ((s.modSpBind b f).getSpBind b).pend = some r ∧ r.k = k := by
  constructor
  · intro j
    by_cases hj : j = b
    · subst hj
      rw [State.getSpBind_modSpBind]
      exact ⟨hres, fun _ => hpend⟩
    · rw [State.getSpBind_modSpBind_ne _ _ _ _ hj]
      exact ⟨rfl, id⟩
  · rw [State.getSpBind_modSpBind]
    exact hpend

/-- The record and the result of one binding. -/
def keepRecord (c k close b : Nat) (o : HarmOut) (a : AggOut) (s : State) : State :=
  (putRecord c k close o a s).modSpBind b (fun _ => { a.bind with
    pend := some o.res, wins := a.bind.wins.filter (fun e => decide (e.1 > k)) })

theorem keepRecord_prepares {c k close b : Nat} {o : HarmOut} {a : AggOut} {s : State} (ho : o.res.k = k)
    (ha : a.bind.res = (s.getSpBind b).res) :
    Prepares k s (keepRecord c k close b o a s) ∧ ∃ r, ((keepRecord c k close b o a s).getSpBind b).pend = some r ∧ r.k = k := by
  have hp : (putRecord c k close o a s).spec = s.spec := State.spec_eq (m := { gal := true }) rfl (by simp)
  have hb : (putRecord c k close o a s).getSpBind b = s.getSpBind b := by
    unfold State.getSpBind
    rw [hp]
  have hm := prepares_modSpBind (k := k) (b := b) (s := putRecord c k close o a s)
    (f := fun _ => { a.bind with pend := some o.res, wins := a.bind.wins.filter (fun e => decide (e.1 > k)) })
    (by rw [hb]; exact ha) ⟨o.res, rfl, ho⟩
  exact ⟨(Prepares.of_bind hp).trans hm.1, hm.2⟩

theorem harmCtx_prepares (gi k : Nat) (lost : Bool) (x : PlanCtx) (s : State) :
    Prepares k s (harmCtx gi k lost x s) ∧
    ∀ i ∈ x.specSlots, ∃ r, ((harmCtx gi k lost x s).getSpBind (8 * x.c + i)).pend = some r ∧ r.k = k := by
  unfold harmCtx
  extract_lets g w close withheld hw st bins bin ref event ends s₁ cyc md used h
  have hstep := fun (t : State) (i : Nat) =>
    keepRecord_prepares (c := x.c) (close := close) (b := bkey x.c i) (s := t)
      (harmCompute_k x w k (st i) i event (hw i) (bin i) ref)
      (aggWindow_res ends k (st i == 0) event (harmCompute x w k (st i) i event (hw i) (bin i) ref).held
        (harmCompute x w k (st i) i event (hw i) (bin i) ref).sq (t.getSpBind (bkey x.c i)))
  have h₁ : Prepares k s s₁ := each_keeps (Prepares k s) (fun t i ht => ht.trans (hstep t i).1) _ (Prepares.of_bind rfl)
  refine ⟨h₁, fun i hi => ?_⟩
  exact each_establishes (P := fun t => ∃ r, (t.getSpBind (8 * x.c + i)).pend = some r ∧ r.k = k)
    (fun t j ht => ((hstep t j).1 _).2 ht) (fun t => (hstep t i).2) hi s

/-- The window of a context leaves what it has committed. -/
theorem harmCtx_ctx (gi k : Nat) (lost : Bool) (x : PlanCtx) (s : State) (c : Nat) :
    ((harmCtx gi k lost x s).getCtx c).acc = (s.getCtx c).acc ∧ ((harmCtx gi k lost x s).getCtx c).k = (s.getCtx c).k := by
  unfold harmCtx
  extract_lets g w close withheld hw st bins bin ref event ends s₁ cyc md used h
  have ht : s₁.tally = s.tally := State.tally_eq (m := { gal := true, spec := true }) rfl
    (outside_foldl (fun t i => by simp) _ _)
  have hc : s₁.getCtx c = s.getCtx c := by
    unfold State.getCtx
    rw [ht]
  rw [← hc]
  by_cases hx : c = x.c
  · subst hx
    rw [State.getCtx_modCtx]
    exact ⟨rfl, rfl⟩
  · rw [State.getCtx_modCtx_ne _ _ _ _ hx]
    exact ⟨rfl, rfl⟩

/-! ## The windows of an engine (R216, R228) -/

section Block

variable (gi k : Nat) (cs : List PlanCtx) (s : State)

/-- The windows of the contexts cs. -/
def harmCtxs : State := cs.foldl (fun s x => harmCtx gi k false x s) s

theorem harmCtxs_outside : (harmCtxs gi k cs s).outside { tally := true, spec := true, gal := true }
    = s.outside { tally := true, spec := true, gal := true } := by
  unfold harmCtxs
  exact outside_foldl (fun t x => by simp) _ _

theorem harmCtxs_prepares : Prepares k s (harmCtxs gi k cs s) :=
  each_keeps (Prepares k s) (f := fun s x => harmCtx gi k false x s)
    (fun t x ht => ht.trans (harmCtx_prepares gi k false x t).1) cs (Prepares.of_bind rfl)

theorem harmCtxs_pend {x : PlanCtx} (hx : x ∈ cs) {i : Nat} (hi : i ∈ x.specSlots) :
    ∃ r, ((harmCtxs gi k cs s).getSpBind (8 * x.c + i)).pend = some r ∧ r.k = k :=
  each_establishes (P := fun t => ∃ r, (t.getSpBind (8 * x.c + i)).pend = some r ∧ r.k = k) (f := fun s x => harmCtx gi k false x s)
    (fun t y ht => ((harmCtx_prepares gi k false y t).1 _).2 ht) (fun t => (harmCtx_prepares gi k false x t).2 i hi) hx s

theorem harmCtxs_ctx (c : Nat) : ((harmCtxs gi k cs s).getCtx c).acc = (s.getCtx c).acc ∧
    ((harmCtxs gi k cs s).getCtx c).k = (s.getCtx c).k :=
  each_keeps (fun t => (t.getCtx c).acc = (s.getCtx c).acc ∧ (t.getCtx c).k = (s.getCtx c).k) (f := fun s x => harmCtx gi k false x s)
    (fun t x ht => ⟨(harmCtx_ctx gi k false x t c).1.trans ht.1, (harmCtx_ctx gi k false x t c).2.trans ht.2⟩) cs ⟨rfl, rfl⟩

end Block

theorem harmBlockDone_full {gi k b : Nat} {s : State} (hw : s.engWin b gi k ≠ []) (ht : s.hasToken gi k (8 + b) = false)
    (hf : s.engFull b gi k = true) :
    harmBlockDone gi k b s = sendToken gi k (8 + b) (creditCtxs gi k true ((s.engWin b gi k).map (fun c => c.c))
      (harmCtxs gi k (s.engWin b gi k) s)) := by
  have hne : (s.engWin b gi k).isEmpty = false := by simpa using hw
  simp [harmBlockDone, hne, ht, hf, harmCtxs]

theorem harmWindowDone_next {e : Fin 5} {g : Fin 16} {b : Nat} {s : State} (hup : s.up islSpect = true) (hr : s.spRuns e = true)
    (hk : (s.getGrp g).lastK + 1 ≤ (s.getGrp g).closed) (hb : s.engBlocks e = [b])
    (hev : s.hasToken g ((s.getGrp g).lastK + 1) 16 = true ∨ s.ev.down = true) :
    exec (.harmWindowDone e g) s = .next (harmBlockDone g ((s.getGrp g).lastK + 1) b s) := by
  refine (onIsl_up hup : execHarmWindowDone e g s = _).trans (congrArg Host.Outcome.next ?_)
  have hno : (!s.spRuns e || decide ((s.getGrp g).lastK + 1 > (s.getGrp g).closed) ||
      !(s.hasToken g ((s.getGrp g).lastK + 1) 16 || s.ev.down)) = false := by
    have : ¬ (s.getGrp g).lastK + 1 > (s.getGrp g).closed := Nat.not_lt.2 hk
    rcases hev with h | h <;> simp [hr, this, h]
  simp only [hno, hb]
  rfl

/-! ## The lanes of a supraharmonic engine (R239) -/

/-- What the end of a window of lane l may change of the spectral island: that lane, but not its queue, and the page. -/
def LaneOnly (l : Nat) (s t : State) : Prop :=
  { t.spec with lane := [], shPage := 0 } = { s.spec with lane := [], shPage := 0 } ∧ (∀ j, j ≠ l → t.getLane j = s.getLane j) ∧
  (t.getLane l).queue = (s.getLane l).queue

theorem LaneOnly.trans {l : Nat} {s t u : State} (h : LaneOnly l s t) (h' : LaneOnly l t u) : LaneOnly l s u :=
  ⟨h'.1.trans h.1, fun j hj => (h'.2.1 j hj).trans (h.2.1 j hj), h'.2.2.trans h.2.2⟩

theorem LaneOnly.of_spec {l : Nat} {s t : State} (h : t.spec = s.spec) : LaneOnly l s t := by
  unfold LaneOnly State.getLane
  rw [h]
  exact ⟨rfl, fun _ _ => rfl, rfl⟩

theorem laneOnly_modLane {l : Nat} {f : ShLane → ShLane} {s : State} (hf : (f (s.getLane l)).queue = (s.getLane l).queue) :
    LaneOnly l s (s.modLane l f) :=
  ⟨rfl, fun j hj => State.getLane_modLane_ne _ _ _ _ hj, by rw [State.getLane_modLane]; exact hf⟩

theorem laneOnly_openShPage (l k : Nat) (s : State) : LaneOnly l s (openShPage k s) := by
  unfold openShPage
  split
  · exact LaneOnly.of_spec rfl
  · have hs : LaneOnly l s (s.modSpecIsl (fun x => { x with shPage := k })) := ⟨rfl, fun _ _ => rfl, rfl⟩
    exact hs.trans (LaneOnly.of_spec (State.spec_eq (m := { gal := true }) rfl (by simp)))

theorem laneOnly_putShPages (l k off : Nat) (bs : List Byte) (s : State) : LaneOnly l s (putShPages k off bs s) :=
  LaneOnly.of_spec (State.spec_eq (m := { gal := true }) rfl (by simp))

theorem laneOnly_endVisit (k l : Nat) (cut : Bool) (s : State) : LaneOnly l s (endVisit k l cut s) := by
  unfold endVisit
  extract_lets x
  split
  · exact LaneOnly.of_spec rfl
  · next j _ =>
    extract_lets e s₁
    have h₁ : LaneOnly l s s₁ := (laneOnly_openShPage l k s).trans (laneOnly_putShPages _ _ _ _ _)
    exact h₁.trans (laneOnly_modLane rfl)

theorem laneOnly_laneDone (k l : Nat) (lost : Bool) (s : State) : LaneOnly l s (laneDone k l lost s) := by
  unfold laneDone
  split
  · exact LaneOnly.of_spec rfl
  · next r _ =>
    split
    · exact LaneOnly.of_spec rfl
    · next j f _ =>
      extract_lets e w valid sq s₁ flags s₂ s₃
      have h₂ : LaneOnly l s s₂ := (laneOnly_openShPage l k s).trans (laneOnly_putShPages _ _ _ _ _)
      clear_value s₂
      have h₃ : LaneOnly l s s₃ := by
        refine h₂.trans (laneOnly_modLane ?_)
        extract_lets y
        unfold y
        split <;> rfl
      split
      · exact h₂.trans (laneOnly_modLane rfl)
      · split
        · exact h₃.trans (laneOnly_endVisit _ _ _ _)
        · exact h₃

/-- The lanes ls have ended window k. -/
def lanesDone (k : Nat) (ls : List Nat) (s : State) : State := ls.foldl (fun s l => laneDone k l false s) s

theorem lanesDone_kept (k : Nat) (ls : List Nat) (s : State) :
    { (lanesDone k ls s).spec with lane := [], shPage := 0 } = { s.spec with lane := [], shPage := 0 } ∧
    (∀ l, ((lanesDone k ls s).getLane l).queue = (s.getLane l).queue) ∧ (∀ l, l ∉ ls → (lanesDone k ls s).getLane l = s.getLane l) := by
  refine ⟨each_same (fun t => { t.spec with lane := [], shPage := 0 }) (f := fun s l => laneDone k l false s)
    (fun t l => (laneOnly_laneDone k l false t).1) ls s, fun j => ?_, fun j hj => ?_⟩
  · refine each_same (fun t => (t.getLane j).queue) (f := fun s l => laneDone k l false s) (fun t l => ?_) ls s
    by_cases h : j = l
    · subst h; exact (laneOnly_laneDone k j false t).2.2
    · exact congrArg ShLane.queue ((laneOnly_laneDone k l false t).2.1 j h)
  · exact each_view (inv := fun _ => True) (fun t => t.getLane j) (f := fun s l => laneDone k l false s) (fun _ _ _ => trivial)
      (fun t l hl _ => (laneOnly_laneDone k l false t).2.1 j (fun h => hj (h ▸ hl))) trivial

theorem lanesDone_outside (k : Nat) (ls : List Nat) (s : State) :
    (lanesDone k ls s).outside { spec := true, gal := true } = s.outside { spec := true, gal := true } :=
  outside_foldl (fun t l => by simp) _ _

theorem newRoster_eng (q : ShSwap) (s : State) : (newRoster q s).spec.eng = s.spec.eng := by
  unfold newRoster
  extract_lets k s₁
  change s₁.spec.eng = s.spec.eng
  refine whenDo_keeps (fun t => t.spec.eng = s.spec.eng) (fun t ht => ?_) _ rfl
  extract_lets t₁
  have h₁ : t₁.spec.eng = t.spec.eng :=
    each_same (fun u => u.spec.eng) (f := fun s l => endVisit k l true s)
      (fun u l => (congrArg Spec.eng (laneOnly_endVisit k l true u).1 :)) _ _
  have h₂ := State.spec_eq (m := { gal := true }) rfl (outside_each (f := fun (s : State) (k : Nat) => s.modGal 6 (fun g => { g with
    mem := (List.range 256).foldl (fun m j =>
      let a := shPageAt k + 0x600 * j + 0x5DA
      mput galDefault m a (mget galDefault m a &&& 0xFE)) g.mem })) (fun t k => outside_modGal t rfl _) [k, k + 1] t₁)
  exact (congrArg Spec.eng h₂).trans (h₁.trans ht)

/-- A roster that a swap brings leaves the engines. -/
theorem settleRoster_eng (s : State) : (settleRoster s).spec.eng = s.spec.eng := by
  unfold settleRoster
  split
  · rfl
  · split
    · exact newRoster_eng _ _
    · rfl

theorem shWindowDone_next {e : Fin 2} {s : State} {k : Nat} (hk : k = max (s.getSpEng (5 + e)).doneK (s.getGrp s.spec.refGrp).winBase + 1)
    (hup : s.up islSpect = true) (hr : s.spRuns (5 + e) = true) (hw : s.inWarning = false) (hc : k ≤ (s.getGrp s.spec.refGrp).closed)
    (hl : k ≤ (s.getGrp s.spec.refGrp).lastK + 1) (hroster : s.spec.roster ≠ []) (hround : (s.roundOf k).isSome = true)
    (hfull : ∀ l ∈ s.shLanes e k, (tget {} (s.getLane l).wins k).z.length
      = (s.getGrp s.spec.refGrp).twOf k - (s.getGrp s.spec.refGrp).twOf (k - 1)) (hend : s.rosterEnds k = false) :
    exec (.shWindowDone e) s = .next (settleRoster (sendToken s.spec.refGrp k (14 + e)
      ((lanesDone k (s.shLanes e k) s).modSpEng (5 + e) (fun x => { x with doneK := k })))) := by
  refine (onIsl_up hup : execShWindowDone e s = _).trans (congrArg Host.Outcome.next ?_)
  extract_lets ref g k' len full s₁
  have hk' : k' = k := hk.symm
  have hs₁ : s₁ = lanesDone k (s.shLanes e k) s := by
    unfold s₁
    rw [hk']
    rfl
  have hlen : len = (s.getGrp s.spec.refGrp).twOf k - (s.getGrp s.spec.refGrp).twOf (k - 1) := by
    unfold len
    rw [hk']
  have hf : full = true := by
    unfold full
    rw [hk']
    exact List.all_eq_true.2 (fun l hm => beq_iff_eq.2 ((hfull l hm).trans hlen.symm))
  have hre : s.spec.roster.isEmpty = false := by simpa using hroster
  have hrn : (s.roundOf k).isNone = false := by simpa [← Option.not_isSome] using hround
  have hc' : decide (k > g.closed) = false := decide_eq_false (Nat.not_lt.2 hc)
  have hl' : decide (k > g.lastK + 1) = false := decide_eq_false (Nat.not_lt.2 hl)
  simp only [hk', hs₁, hf, hre, hrn, hc', hl', hr, hw, hend, Bool.not_true, Bool.or_self, Bool.false_eq_true, if_false]
  rfl

/-- Settles O28. -/
theorem spectralWindowsDone : Obligations.SpectralWindowsDone := by
  unfold Obligations.SpectralWindowsDone
  refine ⟨fun e g b s hup => ?_, fun e s hup => ?_⟩
  · intro k a hr hk hb hw ht hf hev _
    refine ⟨_, harmWindowDone_next hup hr hk hb hev, ?_⟩
    rw [harmBlockDone_full hw ht hf]
    have h₁ := harmCtxs_outside g k (s.engWin b g k) s
    have hprep := harmCtxs_prepares g k (s.engWin b g k) s
    have hpend := fun (x : PlanCtx) (hx : x ∈ s.engWin b g k) (i : Nat) (hi : i ∈ x.specSlots) =>
      harmCtxs_pend g k (s.engWin b g k) s hx hi
    have hctx := harmCtxs_ctx g k (s.engWin b g k) s
    have hout : ∀ o, (harmCtxs g k (s.engWin b g k) s).getOut o = s.getOut o :=
      getOut_congr (congrArg Pulse.out (State.pulse_eq rfl h₁))
    generalize harmCtxs g k (s.engWin b g k) s = u at h₁ hprep hpend hctx hout
    have h₂ : (creditCtxs g k true ((s.engWin b g k).map (fun c => c.c)) u).outside { pulse := true, host := true, log := true }
        = u.outside { pulse := true, host := true, log := true } := by simp
    have hgrp : u.getGrp g = s.getGrp g := by
      unfold State.getGrp
      rw [State.rs_eq rfl h₁]
    have hplan : u.planWin g k = s.planWin g k := by
      rw [State.eq_onto h₁]
      rfl
    have hkept := creditCtxs_kept u g k true ((s.engWin b g k).map (fun c => c.c))
    have hcredit := fun (o : Nat) (ho : o < 16) (x : PlanCtx) =>
      creditCtxs_named u (gi := g) (k := k) (harm := true) (cs := (s.engWin b g k).map (fun c => c.c)) ho (x := x)
    simp only [hgrp, hplan, hout] at hcredit hkept
    generalize creditCtxs g k true ((s.engWin b g k).map (fun c => c.c)) u = v at h₂ hcredit hkept
    have hspec : v.spec = u.spec := State.spec_eq rfl h₂
    have htally : v.tally = u.tally := State.tally_eq rfl h₂
    have h : v.outside { tally := true, pulse := true, spec := true, gal := true, host := true, log := true }
        = s.outside { tally := true, pulse := true, spec := true, gal := true, host := true, log := true } :=
      (State.outside_mono rfl h₂).trans (State.outside_mono rfl h₁)
    refine ⟨?_, ?_, ?_, fun o => (hkept o).1, ?_, ?_⟩
    · exact congrArg (fun r => Resamp.tokens r ++ [(g.val, k, 8 + b)]) (State.rs_eq rfl h)
    · intro x hx i hi
      have hb : (sendToken g k (8 + b) v).getSpBind (8 * x.c + i) = u.getSpBind (8 * x.c + i) := by
        change tget {} v.spec.bind _ = tget {} u.spec.bind _
        rw [hspec]
      rw [hb]
      exact ⟨hpend x hx i hi, (hprep _).1⟩
    · intro o x w hx hmem hfor hmode hacc
      have hq : (sendToken g k (8 + b) v).quanta x k w.cfg.acc = u.quanta x k w.cfg.acc := by
        unfold State.quanta
        change ((tget {} (tget {} v.tally.ctx x.c).acc _).r + incOf ((tget {} v.tally.ctx x.c).incs _ _) _) / _
          = ((tget {} (tget {} u.tally.ctx x.c).acc _).r + incOf ((tget {} u.tally.ctx x.c).incs _ _) _) / _
        rw [htally]
      rw [hq]
      have hcr := hcredit o o.isLt x hx (List.mem_map_of_mem hmem) hfor hmode (decide_eq_true hacc)
      change (v.getOut o).credited = _
      rw [hcr]
      rfl
    · intro c
      have hc : (sendToken g k (8 + b) v).getCtx c = u.getCtx c := by
        change tget {} v.tally.ctx c = tget {} u.tally.ctx c
        rw [htally]
      rw [hc]
      exact hctx c
    · have hv := State.eq_onto h
      rw [hv]
      rfl
  · intro g k hr hw hc hl hroster hround hfull hend
    refine ⟨_, shWindowDone_next rfl hup hr hw hc hl hroster hround hfull hend, ?_⟩
    obtain ⟨hspec, hqueue, hlane⟩ := lanesDone_kept k (s.shLanes e k) s
    have h₁ := lanesDone_outside k (s.shLanes e k) s
    generalize lanesDone k (s.shLanes e k) s = u at hspec hqueue hlane h₁ ⊢
    have heng : u.spec.eng = s.spec.eng := (congrArg Spec.eng hspec :)
    generalize hw : sendToken s.spec.refGrp k (14 + e) (u.modSpEng (5 + e) (fun x => { x with doneK := k })) = w
    have hset := settleRoster_eng w
    have h₂ : (settleRoster w).outside { spec := true, gal := true } = w.outside { spec := true, gal := true } := by simp
    have hget : ∀ j, (settleRoster w).getSpEng j = (u.modSpEng (5 + e) (fun x => { x with doneK := k })).getSpEng j := by
      intro j
      unfold State.getSpEng
      rw [hset, ← hw]
      rfl
    have hu : ∀ j, u.getSpEng j = s.getSpEng j := by
      intro j
      unfold State.getSpEng
      rw [heng]
    refine ⟨?_, ?_, ?_, ?_, ?_⟩
    · rw [hget, State.getSpEng_modSpEng, hu]
    · rw [State.rs_eq rfl h₂, ← hw]
      exact congrArg (fun r => Resamp.tokens r ++ [(s.spec.refGrp, k, 14 + e.val)]) (State.rs_eq rfl h₁)
    · intro j hj
      rw [hget, State.getSpEng_modSpEng_ne _ _ _ _ hj, hu]
    · intro hswap
      have hid : settleRoster w = w := by
        have : w.spec.swap = none := by
          rw [← hw]
          exact (congrArg Spec.swap hspec :).trans hswap
        simp [settleRoster, this]
      rw [hid, ← hw]
      exact ⟨hlane, hqueue, (congrArg Spec.roster hspec :), (congrArg Spec.shK hspec :), (congrArg Spec.bind hspec :)⟩
    · have ht := State.eq_onto h₂
      generalize settleRoster w = t at ht
      rw [ht, ← hw, State.eq_onto h₁]
      rfl

end Sys2Proof.Machine
end

section
-- One proof after another: elaborated side by side they take more memory than the check allows.
set_option Elab.async false
/-! PROOF. The release of graded indices (O14). -/

namespace Sys2Proof.Machine

open Sys2Proof.Cert

/-! ## What a delivered slot changes of the heads and the rings -/

/-- The slot of head h in ring r changes no other head and no other ring, and not what waits in the ring's own queues. -/
def SlotOnly (r h : Nat) (s t : State) : Prop :=
  (∀ j, j ≠ h → t.getHead j = s.getHead j) ∧ (∀ q, q ≠ r → t.getRing q = s.getRing q) ∧
  (t.getRing r).chan = (s.getRing r).chan ∧ (t.getRing r).held = (s.getRing r).held ∧ (t.getRing r).nextRel = (s.getRing r).nextRel

namespace SlotOnly

variable {r h : Nat} {s t u : State}

theorem refl (s : State) : SlotOnly r h s s := ⟨fun _ _ => rfl, fun _ _ => rfl, rfl, rfl, rfl⟩

theorem trans (a : SlotOnly r h s t) (b : SlotOnly r h t u) : SlotOnly r h s u :=
  ⟨fun j hj => (b.1 j hj).trans (a.1 j hj), fun q hq => (b.2.1 q hq).trans (a.2.1 q hq), b.2.2.1.trans a.2.2.1,
    b.2.2.2.1.trans a.2.2.2.1, b.2.2.2.2.trans a.2.2.2.2⟩

theorem of_outside {m : Parts} (hh : m.head = false) (hr : m.ring = false) (ho : t.outside m = s.outside m) : SlotOnly r h s t := by
  unfold SlotOnly State.getHead State.getRing
  rw [State.head_eq hh ho, State.ring_eq hr ho]
  exact ⟨fun _ _ => rfl, fun _ _ => rfl, rfl, rfl, rfl⟩

theorem modHead (s : State) (f : Head → Head) : SlotOnly r h s (s.modHead h f) :=
  ⟨fun _ hj => State.getHead_modHead_ne _ _ _ _ hj, fun _ _ => rfl, rfl, rfl, rfl⟩

theorem whenDo {f : State → State} (hf : ∀ s, SlotOnly r h s (f s)) (b : Bool) (s : State) : SlotOnly r h s (whenDo b f s) :=
  whenDo_keeps (SlotOnly r h s) (fun _ ht => ht.trans (hf _)) b (refl s)

theorem foldl {α : Type} {f : State → α → State} (hf : ∀ s a, SlotOnly r h s (f s a)) (l : List α) (s : State) :
    SlotOnly r h s (l.foldl f s) :=
  each_keeps (SlotOnly r h s) (fun _ a ht => ht.trans (hf _ a)) l (refl s)

end SlotOnly

section Slot

variable {r h : Nat}

theorem slotOnly_changeIndex (d : Bool) (a : Nat) (s : State) : SlotOnly r h s (changeIndex h d a s) := SlotOnly.modHead s _

theorem slotOnly_headAbsent (hr : h / 128 = r) (s : State) : SlotOnly r h s (headAbsent h s) := by
  subst hr
  unfold headAbsent
  extract_lets s₁ x lost s₂ s₃
  have h₁ : SlotOnly (h / 128) h s s₁ := by
    unfold s₁ detFaults
    extract_lets x₁ u₁ u₂
    have h₂ : SlotOnly (h / 128) h s u₂ := by
      refine SlotOnly.of_outside (m := { log := true }) rfl rfl ?_
      simp only [u₂, u₁]
      repeat' split
      all_goals simp
    have h₃ : SlotOnly (h / 128) h s (u₂.modHead h (fun x => { x with faultP := none, faultA := none })) := h₂.trans (SlotOnly.modHead _ _)
    exact h₃.trans (SlotOnly.of_outside (m := { red := true, log := true }) rfl rfl (outside_restoreDropped rfl rfl _ _))
  have h₂ : SlotOnly (h / 128) h s₁ s₂ :=
    SlotOnly.of_outside (m := { headAcc := true }) rfl rfl (outside_foldl (fun t c => outside_changeLost rfl _ _ _ _) _ _)
  have h₃ : SlotOnly (h / 128) h s s₃ := (h₁.trans h₂).trans (SlotOnly.modHead s₂ _)
  refine h₃.trans ?_
  exact ⟨fun _ _ => rfl, fun q hq => State.getRing_modRing_ne _ _ _ _ hq, by simp, by simp, by simp⟩

theorem slotOnly_voidSlot (hr : h / 128 = r) (n : Nat) (g : Grade) (s : State) : SlotOnly r h s (voidSlot h n g s) := by
  unfold voidSlot
  extract_lets x since
  split
  · exact SlotOnly.trans (SlotOnly.of_outside (m := { log := true }) rfl rfl (by simp)) (slotOnly_headAbsent hr _)
  · exact SlotOnly.refl s

theorem slotOnly_gainsFrom (n : Nat) (s : State) : SlotOnly r h s (gainsFrom h n s) := by
  unfold gainsFrom
  extract_lets x
  split
  · split
    · exact SlotOnly.modHead s _
    · exact SlotOnly.refl s
  · exact SlotOnly.refl s

theorem slotOnly_stimExpire (n : Nat) (s : State) : SlotOnly r h s (stimExpire h n s) :=
  SlotOnly.whenDo (fun t => (slotOnly_changeIndex _ _ t).trans (SlotOnly.modHead _ _)) _ s

theorem slotOnly_streamBack (d : Bool) (t : Nat) (s : State) : SlotOnly r h s (streamBack h d t s) := by
  unfold streamBack
  extract_lets s₁ q
  have h₁ : SlotOnly r h s s₁ := SlotOnly.modHead s _
  exact h₁.trans (SlotOnly.of_outside (m := { red := true }) rfl rfl (outside_modRedHead _ rfl _))

theorem slotOnly_noteChange (c : Change) (old : Nat) (s : State) : SlotOnly r h s (noteChange h c old s) :=
  SlotOnly.of_outside (m := { log := true, headAcc := true }) rfl rfl (by simp)

theorem slotOnly_setTrim (d : Bool) (w : Word) (src t : Nat) (s : State) : SlotOnly r h s (setTrim h d w src t s) := by
  unfold setTrim
  extract_lets was s₁
  have h₁ : SlotOnly r h s s₁ := SlotOnly.modHead s _
  exact h₁.trans (SlotOnly.of_outside (m := { cal := true }) rfl rfl (outside_modCalIsl _ rfl _))

/-- An outing that ends with result 0 ends in its own registers. -/
theorem slotOnly_endOuting (i : Nat) (s : State) : SlotOnly r h s (endOuting i 0 s) :=
  SlotOnly.of_outside (m := { cal := true, host := true }) rfl rfl (by simp [endOuting])

theorem slotOnly_trimApplied (c : Change) (a : Nat) (old : Word) (s : State) : SlotOnly r h s (trimApplied h c a old s) := by
  unfold trimApplied
  extract_lets d
  split
  · exact SlotOnly.refl s
  · extract_lets q
    split
    · exact SlotOnly.trans (SlotOnly.of_outside (m := { log := true }) rfl rfl (by simp)) (slotOnly_endOuting _ _)
    · exact SlotOnly.refl s

theorem slotOnly_stimOn (d : Bool) (a : Nat) (s : State) : SlotOnly r h s (stimOn h d a s) :=
  SlotOnly.of_outside (m := { cal := true }) rfl rfl (by simp)

theorem slotOnly_applySampling (c : Change) (s : State) : SlotOnly r h s (applySampling h c s) := by
  unfold applySampling
  extract_lets a x d s₁ old
  have h₁ : SlotOnly r h s s₁ := slotOnly_noteChange _ _ _
  have hd : ∀ d, SlotOnly r h s (changeIndex h d a s₁) := fun d => h₁.trans (slotOnly_changeIndex _ _ _)
  split
  · exact (slotOnly_changeIndex _ _ s).trans (slotOnly_streamBack _ _ _)
  · split
    · exact (hd d).trans (SlotOnly.modHead _ _)
    · split
      · exact (hd d).trans (SlotOnly.modHead _ _)
      · split
        · exact (hd d).trans ((slotOnly_setTrim _ _ _ _ _).trans (slotOnly_trimApplied _ _ _ _))
        · split
          · exact (hd d).trans (SlotOnly.modHead _ _)
          · exact h₁.trans ((SlotOnly.modHead _ _).trans ((slotOnly_stimOn _ _ _).trans (SlotOnly.refl _)))

theorem slotOnly_applyDue (n : Nat) (s : State) : SlotOnly r h s (applyDue h n s).2 :=
  (SlotOnly.modHead s _).trans (SlotOnly.foldl (fun t c => slotOnly_applySampling c t) _ _)

theorem slotOnly_askCell (hr : h / 128 = r) (c : Nat) (q : CellReq) (s : State) : SlotOnly r h s (askCell (h / 128) c q s) := by
  subst hr
  exact ⟨fun _ _ => rfl, fun q hq => State.getRing_modRing_ne _ _ _ _ hq, by simp [askCell], by simp [askCell], by simp [askCell]⟩

theorem slotOnly_stimSeen (hr : h / 128 = r) (s : State) : SlotOnly r h s (stimSeen h s) := by
  exact (SlotOnly.modHead s _).trans (slotOnly_askCell hr _ _ _)

theorem slotOnly_noteClip (n : Nat) (any both : Bool) (s : State) : SlotOnly r h s (noteClip h n any both s) := by
  unfold noteClip
  extract_lets x due s₁
  refine SlotOnly.trans (SlotOnly.whenDo (fun t => SlotOnly.modHead t _) any s) (SlotOnly.whenDo (fun t => ?_) _ s₁)
  have h₁ : SlotOnly r h t (t.modHead h (fun x => { x with clipLogAt := some t.now })) := SlotOnly.modHead t _
  exact h₁.trans (SlotOnly.of_outside (m := { log := true }) rfl rfl (outside_raise rfl _ _ _ _))

theorem slotOnly_takeSlot {n pos : Nat} (hr : (128 * r + pos) / 128 = r) (g : Grade) (bs : List Byte) (s : State) :
    SlotOnly r (128 * r + pos) s (takeSlot r n pos g bs s).2 := by
  unfold takeSlot
  extract_lets h
  split
  · exact SlotOnly.refl s
  · have h₁ : SlotOnly r h s (applyDue h n (stimExpire h n (gainsFrom h n (voidSlot h n g s)))).2 :=
      (slotOnly_voidSlot hr n g s).trans ((slotOnly_gainsFrom n _).trans ((slotOnly_stimExpire n _).trans (slotOnly_applyDue n _)))
    generalize applyDue h n (stimExpire h n (gainsFrom h n (voidSlot h n g s))) = d at h₁ ⊢
    exact h₁.trans ((SlotOnly.whenDo (slotOnly_stimSeen hr) _ _).trans ((SlotOnly.whenDo (fun t => SlotOnly.modHead t _) _ _).trans
      ((SlotOnly.whenDo (slotOnly_noteClip n _ _) _ _).trans (SlotOnly.modHead _ _))))

end Slot

/-! ## The slots of an index (R91, R112) -/

/-- What a position without a declared head delivers. -/
def AbsentSlot (s : State) (r : Nat) (e : StairIn) : Prop :=
  (s.getHead (128 * r + e.pos)).st = .notDeclared → e.codeP = 0 ∧ e.codeA = 0 ∧
    e.clsP = (if (s.getHead (128 * r + e.pos)).retP then 6 else 5) ∧ e.clsA = (if (s.getHead (128 * r + e.pos)).retA then 6 else 5)

section Take

variable (r n pos : Nat) (g : Grade) (bs : List Byte) (s : State)

theorem takeSlot_place : (takeSlot r n pos g bs s).1.idx = n ∧ (takeSlot r n pos g bs s).1.pos = pos := by
  unfold takeSlot
  extract_lets h
  split
  · exact ⟨rfl, rfl⟩
  · exact ⟨rfl, rfl⟩

theorem takeSlot_absent : AbsentSlot s r (takeSlot r n pos g bs s).1 := by
  unfold AbsentSlot
  rw [(takeSlot_place r n pos g bs s).2]
  intro h
  have ht : (s.getHead (128 * r + pos)).st == .notDeclared := beq_iff_eq.2 h
  simp [takeSlot, ht, sampleClass]

/-- A head that is not declared takes nothing of a slot. -/
theorem takeSlot_undeclared {j : Nat} (hr : (128 * r + pos) / 128 = r) (h : (s.getHead j).st = .notDeclared) :
    (takeSlot r n pos g bs s).2.getHead j = s.getHead j := by
  by_cases hj : j = 128 * r + pos
  · subst hj
    have ht : (s.getHead (128 * r + pos)).st == .notDeclared := beq_iff_eq.2 h
    unfold takeSlot
    simp only [ht, if_true]
  · exact (slotOnly_takeSlot hr g bs s).1 j hj

end Take

/-- What the slots of index n at the positions ps do to the rings when ring r delivers them. -/
def Delivers (r n : Nat) (ps : List Nat) (s t : State) : Prop :=
  (∀ q, q ≠ r → t.getRing q = s.getRing q) ∧ (t.getRing r).held = (s.getRing r).held ∧ (t.getRing r).nextRel = (s.getRing r).nextRel ∧
  ∃ l, (t.getRing r).chan = (s.getRing r).chan ++ l ∧ l.map (fun e => (e.idx, e.pos)) = ps.map (fun p => (n, p)) ∧
    ∀ e ∈ l, AbsentSlot s r e

theorem deliverSlot_steps (r n : Nat) (s : State) (e : (Grade × List Byte) × Nat) (he : e.2 < 128) :
    Delivers r n [e.2] s (deliverSlot r n s e) ∧ ∀ j, (s.getHead j).st = .notDeclared → (deliverSlot r n s e).getHead j = s.getHead j := by
  have hr : (128 * r + e.2) / 128 = r := by omega
  obtain ⟨_, hq, hc, hh, hn⟩ := slotOnly_takeSlot (n := n) hr e.1.1 e.1.2 s
  have hplace := takeSlot_place r n e.2 e.1.1 e.1.2 s
  have habs := takeSlot_absent r n e.2 e.1.1 e.1.2 s
  have hund := fun j => takeSlot_undeclared r n e.2 e.1.1 e.1.2 s (j := j) hr
  unfold deliverSlot
  generalize takeSlot r n e.2 e.1.1 e.1.2 s = x at *
  have ho : (captureRaw r x.1 (x.2.modRing r (fun rg => { rg with chan := rg.chan ++ [x.1] }))).outside { host := true }
      = (x.2.modRing r (fun rg => { rg with chan := rg.chan ++ [x.1] })).outside { host := true } := by simp
  have hring := getRing_congr (State.ring_eq rfl ho)
  have hhead := State.head_eq rfl ho
  refine ⟨⟨fun q hne => ?_, ?_, ?_, [x.1], ?_, ?_, ?_⟩, fun j hj => ?_⟩
  · exact (hring q).trans ((State.getRing_modRing_ne _ _ _ _ hne).trans (hq q hne))
  · exact (congrArg Ring.held ((hring r).trans (State.getRing_modRing _ _ _))).trans hh
  · exact (congrArg Ring.nextRel ((hring r).trans (State.getRing_modRing _ _ _))).trans hn
  · refine (congrArg Ring.chan ((hring r).trans (State.getRing_modRing _ _ _))).trans ?_
    exact congrArg (· ++ [x.1]) hc
  · simp [hplace.1, hplace.2]
  · intro y hy
    rw [List.mem_singleton.1 hy]
    exact habs
  · have hsame : (captureRaw r x.1 (x.2.modRing r (fun rg => { rg with chan := rg.chan ++ [x.1] }))).getHead j = x.2.getHead j := by
      unfold State.getHead
      rw [hhead]
      rfl
    exact hsame.trans (hund j hj)

theorem deliverSlots (r n : Nat) (slots : List ((Grade × List Byte) × Nat)) (hs : ∀ e ∈ slots, e.2 < 128) (s : State) :
    Delivers r n (slots.map Prod.snd) s (slots.foldl (deliverSlot r n) s) := by
  induction slots generalizing s with
  | nil => exact ⟨fun _ _ => rfl, rfl, rfl, [], by simp, rfl, by simp⟩
  | cons e slots ih =>
    rw [List.foldl_cons, List.map_cons]
    obtain ⟨⟨hq, hh, hn, l, hc, hl, habs⟩, hund⟩ := deliverSlot_steps r n s e (hs e List.mem_cons_self)
    obtain ⟨hq', hh', hn', l', hc', hl', habs'⟩ := ih (fun x hx => hs x (List.mem_cons_of_mem _ hx)) (deliverSlot r n s e)
    generalize deliverSlot r n s e = u at *
    generalize slots.foldl (deliverSlot r n) u = v at *
    refine ⟨fun q hne => (hq' q hne).trans (hq q hne), hh'.trans hh, hn'.trans hn, l ++ l', ?_, ?_, ?_⟩
    · rw [hc', hc, List.append_assoc]
    · rw [List.map_append, hl, hl']
      rfl
    · intro x hx
      rcases List.mem_append.1 hx with hx | hx
      · exact habs x hx
      · intro hst
        have hsame := hund _ hst
        have := habs' x hx
        unfold AbsentSlot at this
        rw [hsame] at this
        exact this hst

/-! ## The index (R91, R92) -/

/-- Steps that leave the heads and the ring's queues, before and after, do not change what is delivered. -/
theorem Delivers.of_same {r n h h' : Nat} {ps : List Nat} {s t u v : State} (hd : Delivers r n ps t u) (hs : SlotOnly r h s t)
    (hh : t.head = s.head) (hv : SlotOnly r h' u v) : Delivers r n ps s v := by
  obtain ⟨hq, hheld, hn, l, hc, hl, habs⟩ := hd
  refine ⟨fun q hne => (hv.2.1 q hne).trans ((hq q hne).trans (hs.2.1 q hne)), hv.2.2.2.1.trans (hheld.trans hs.2.2.2.1),
    hv.2.2.2.2.trans (hn.trans hs.2.2.2.2), l, by rw [hv.2.2.1, hc, hs.2.2.1], hl, fun e he => ?_⟩
  have := habs e he
  unfold AbsentSlot State.getHead at *
  rwa [hh] at this

theorem slotOnly_logWrap (r h n : Nat) (s : State) : SlotOnly r h s (logWrap r n s) ∧ (logWrap r n s).head = s.head := by
  unfold logWrap
  extract_lets rg
  split
  · have h₁ : SlotOnly r h s (s.modRing r (fun rg => { rg with turned := none })) :=
      ⟨fun _ _ => rfl, fun q hq => State.getRing_modRing_ne _ _ _ _ hq, by simp, by simp, by simp⟩
    have ho := outside_raise (m := { log := true }) rfl .ringWrap r [(1, rg.westHead), (1, rg.eastHead), (8, rg.wrapAt)]
      (s.modRing r (fun rg => { rg with turned := none }))
    have hh := State.head_eq rfl ho
    exact ⟨h₁.trans (SlotOnly.of_outside rfl rfl ho), hh⟩
  · exact ⟨SlotOnly.refl s, rfl⟩

theorem slotOnly_noteFull (r h : Nat) (s : State) : SlotOnly r h s (noteFull r s) := by
  unfold noteFull
  extract_lets rg long s₁
  have h₁ : SlotOnly r h s s₁ :=
    SlotOnly.whenDo (fun t => SlotOnly.of_outside (m := { glb := true }) rfl rfl (outside_modGlbIsl _ rfl _)) _ s
  exact h₁.trans ⟨fun _ _ => rfl, fun q hq => State.getRing_modRing_ne _ _ _ _ hq, by simp, by simp, by simp⟩

theorem deliverIdx_delivers (r : Nat) (e : HeldIdx) (s : State) (hlen : e.slots.length = 128) (hroom : (s.getRing r).chan.length ≤ 128) :
    Delivers r e.idx (List.range 128) s (deliverIdx r e s) := by
  unfold deliverIdx
  extract_lets rg room slots serve miss s₁ s₂
  have hroom' : ¬ room < 128 := by
    simp only [room, rg, chanDepth]
    omega
  have h₁ : s₁ = s := by
    simp [s₁, hroom']
  have hmap : slots.map Prod.snd = List.range 128 := by
    have hsnd : (Prod.snd ∘ fun x : (Grade × List Byte) × Nat => if x.2 < room then x else ((.failed, []), x.2)) = Prod.snd := by
      funext x
      simp only [Function.comp]
      split <;> rfl
    rw [List.map_map, hsnd, List.zipIdx_map_snd, hlen, List.range_eq_range']
  have hs : ∀ x ∈ slots, x.2 < 128 := by
    intro x hx
    have : x.2 ∈ slots.map Prod.snd := List.mem_map_of_mem hx
    rw [hmap] at this
    exact List.mem_range.1 this
  have hd := deliverSlots r e.idx slots hs (logWrap r e.idx s₂)
  rw [hmap] at hd
  have h₂ : SlotOnly r 0 s s₂ := by
    unfold s₂
    rw [h₁]
    exact ⟨fun _ _ => rfl, fun q hq => State.getRing_modRing_ne _ _ _ _ hq, by simp, by simp, by simp⟩
  have hh₁ : s₁.head = s.head := congrArg State.head h₁
  have hh₂ : s₂.head = s.head := hh₁
  obtain ⟨hw, hwh⟩ := slotOnly_logWrap r 0 e.idx s₂
  exact hd.of_same (h₂.trans hw) (hwh.trans hh₂) (slotOnly_noteFull r 0 _)

/-! ## The grade of an index -/

theorem gradeNext_idx (r : Nat) (s : State) : (gradeNext r s).1.idx = (s.getRing r).nextRel := rfl

theorem gradeNext_slots (r : Nat) (s : State) : (gradeNext r s).1.slots.length = 128 := by
  unfold gradeNext
  extract_lets rg n frame cs serve m m' fb s₁ s₂ s₃
  have hm : m.length = 128 := by
    unfold m
    split
    · simp [mergeCopies]
    · simp
  have hm' : m'.length = 128 := by
    unfold m'
    split
    · simp [hm]
    · exact hm
  simp [hm']

/-- The grade of an index takes the index and its copies out of the ring, and leaves the rest to the ports. -/
theorem gradeNext_state (r : Nat) (s : State) : (gradeNext r s).2.outside { port := true }
    = (s.modRing r (fun rg => { rg with
        nextRel := rg.nextRel + 1, copies := rg.copies.filter (fun c => decide (c.frame > (s.getRing r).nextRel + (s.getRing r).k)) })).outside
        { port := true } := by
  unfold gradeNext
  extract_lets rg n frame cs serve m m' fb s₁ s₂ s₃
  have h₂ : s₂.outside { port := true } = s₁.outside { port := true } := outside_whenDo (fun t => outside_modPort t rfl _) _ _
  exact (outside_whenDo (fun t => outside_modPort t rfl _) _ _).trans h₂

theorem gradeNext_ring (r : Nat) (s : State) : ((gradeNext r s).2.getRing r).chan = (s.getRing r).chan ∧
    ((gradeNext r s).2.getRing r).held = (s.getRing r).held ∧ ((gradeNext r s).2.getRing r).nextRel = (s.getRing r).nextRel + 1 ∧
    ((gradeNext r s).2.getRing r).st = (s.getRing r).st ∧ ((gradeNext r s).2.getRing r).runFrame = (s.getRing r).runFrame ∧
    ((gradeNext r s).2.getRing r).k = (s.getRing r).k ∧ (∀ q, q ≠ r → (gradeNext r s).2.getRing q = s.getRing q) := by
  have h := getRing_congr (State.ring_eq rfl (gradeNext_state r s))
  refine ⟨?_, ?_, ?_, ?_, ?_, ?_, fun q hq => (h q).trans (State.getRing_modRing_ne _ _ _ _ hq)⟩ <;>
    rw [h, State.getRing_modRing]

/-! ## The commands -/

section Release

variable {r : Fin 32} {s : State}

theorem slotRelease_runs (hl : s.linkUp r = true ∨ s.linkGone r = true) : exec (.slotRelease r) s = .next (slotRelease r s) :=
  congrArg Host.Outcome.next (if_pos (by simpa using hl))

theorem slotRelease_grades (hheld : (s.getRing r).held = []) (hg : s.gradable r = true) :
    slotRelease r s = if !((gradeNext r s).2.getRing r).held.isEmpty || decide (((gradeNext r s).2.getRing r).chan.length > 128) ||
        ((gradeNext r s).2.getRing r).holds (gradeNext r s).1 then
      (gradeNext r s).2.modRing r (fun rg => { rg with held := rg.held ++ [(gradeNext r s).1] })
    else deliverIdx r (gradeNext r s).1 (gradeNext r s).2 := by
  simp only [slotRelease, hheld, gradeOne, hg, Bool.not_true, Bool.false_eq_true, if_false]

end Release

/-- The parts of the state that a delivered index writes. -/
abbrev Parts.released : Parts where
  glb := true; ring := true; head := true; headAcc := true; stair := true; red := true; lc := true; cal := true; host := true; log := true

/-- Settles O14. -/
theorem slotReleaseOrder : Obligations.SlotReleaseOrder := by
  unfold Obligations.SlotReleaseOrder
  refine ⟨fun r s hheld hg => ?_, fun r s hl hheld hg hroom hst => ?_, fun r s hl hheld hg hst hrun hhole => ?_,
    fun r e rest s hl hheld hlen hdue hroom => ?_⟩
  · refine congrArg Host.Outcome.next (ite_eq_right_iff.2 (fun _ => ?_))
    simp [slotRelease, hheld, gradeOne, hg]
  · obtain ⟨hchan, hh, hn, hs, hf, hk, hq⟩ := gradeNext_ring r s
    refine ⟨_, slotRelease_runs hl, ?_⟩
    rw [slotRelease_grades hheld hg, if_neg (by
      rw [hh, hheld, hchan]
      have : ¬ (s.getRing r).chan.length > 128 := Nat.not_lt.2 hroom
      simp [this, Ring.holds, hs, hst])]
    obtain ⟨hdq, hdh, hdn, l, hdc, hdl, habs⟩ :=
      deliverIdx_delivers r (gradeNext r s).1 (gradeNext r s).2 (gradeNext_slots r s) (by rw [hchan]; exact hroom)
    have hhead : (gradeNext r s).2.head = s.head := State.head_eq (m := { port := true, ring := true }) rfl (by simp)
    refine ⟨hdn.trans hn, hdh.trans (hh.trans hheld), l, hdc.trans (by rw [hchan]), hdl, fun e he => ?_,
      fun q hne => (hdq q hne).trans (hq q hne), ?_⟩
    · have := habs e he
      unfold AbsentSlot State.getHead at this
      rw [hhead] at this
      exact this
    · exact State.eq_onto (m := { Parts.released with port := true }) (by simp)
  · obtain ⟨hchan, hh, hn, hs, hf, hk, hq⟩ := gradeNext_ring r s
    refine ⟨_, slotRelease_runs hl, ?_⟩
    rw [slotRelease_grades hheld hg, if_pos (by
      obtain ⟨f, hf', hle⟩ := hrun
      simp [Ring.holds, hs, hst, hf, hf', hk, gradeNext_idx, hle, hhole])]
    rw [State.getRing_modRing]
    refine ⟨hn, by rw [hh, hheld]; rfl, hchan, State.eq_onto (m := { port := true, ring := true }) (by simp)⟩
  · have hnow : decide (s.now ≥ e.due + 384) = true := decide_eq_true hdue
    have hrm : decide ((s.getRing r).chan.length ≤ 128) = true := decide_eq_true hroom
    have ht : exec (.holdTimeout r) s = .next (deliverIdx r e (s.modRing r (fun rg => { rg with held := rest }))) := by
      refine congrArg Host.Outcome.next ((if_pos (by simpa using hl)).trans ?_)
      simp [holdTimeout, hheld, hnow, hrm]
    obtain ⟨hdq, hdh, hdn, l, hdc, hdl, habs⟩ :=
      deliverIdx_delivers r e (s.modRing r (fun rg => { rg with held := rest })) hlen (by rw [State.getRing_modRing]; exact hroom)
    rw [State.getRing_modRing] at hdh hdn hdc
    refine ⟨_, ht, hdh, hdn, l, hdc, hdl, State.eq_onto (m := Parts.released) (by simp)⟩

end Sys2Proof.Machine
end

section
-- One proof after another: elaborated side by side they take more memory than the check allows.
set_option Elab.async false
/-! PROOF. Sessions (O49) and keys (O50): both say what a port may not do whose role is not 3, the maker's, and both quantify over every
state. ROLE is a number in the model, and the checks of R384 compare it with the role that a register needs, so a state in which a port
has a number above 3 meets the hypothesis and passes the check. No command gives a port such a role. -/

namespace Sys2Proof.Machine

open Sys2Proof.Cert

/-- A running block in which port 0 has role 4. -/
def aboveMaker : State where
  glb := { lock := 0x3FF }
  pwr := { mainOn := true }
  role := { port := [(0, { role := 4 })] }

theorem aboveMaker_up : aboveMaker.up islHost = true := by decide

theorem aboveMaker_nonePosted : NonePosted aboveMaker 0 islHost := fun _ hw => absurd hw (List.not_mem_nil)

theorem aboveMaker_role : (aboveMaker.getRolePort 0).role ≠ 3 := by decide

/-- The number of the next audit record after a command. -/
def auditAfter (o : Out) : Nat :=
  match o with
  | .next t => t.role.audit
  | _ => 0

/-- The operation that ROLE_OTP_CMD shows after a command. -/
def otpOpAfter (o : Out) : Nat :=
  match o with
  | .next t => t.role.otpOp
  | _ => 0

/-- SEAL_CLEAR by port 0 leaves an audit record. -/
theorem sealClear_aboveMaker : auditAfter (exec (.sealClear 0) aboveMaker) = 1 := by decide +kernel

/-- OTP_KEY_PROGRAM by port 0 is taken. -/
theorem otpKeyProgram_aboveMaker : otpOpAfter (exec (.otpKeyProgram 0 0) aboveMaker) = 1 := by decide +kernel

/-- Refutes O49: SEAL_CLEAR by a port in role 4, which is not 3, leaves an audit record. -/
theorem not_sessionsOpenAndEnd : ¬ Obligations.SessionsOpenAndEnd := by
  unfold Obligations.SessionsOpenAndEnd
  intro h
  obtain ⟨-, -, -, -, -, -, -, -, hseal, -⟩ := h 0 aboveMaker aboveMaker_up
  have hnext := congrArg auditAfter (hseal aboveMaker_nonePosted aboveMaker_role)
  rw [sealClear_aboveMaker] at hnext
  exact absurd hnext (by decide)

/-- Refutes O50: OTP_KEY_PROGRAM by a port in role 4, which is not 3, is taken. -/
theorem not_keysSetAndOtpProgrammed : ¬ Obligations.KeysSetAndOtpProgrammed := by
  unfold Obligations.KeysSetAndOtpProgrammed
  intro h
  obtain ⟨-, -, hotp, -⟩ := h
  obtain ⟨hshort, -⟩ := hotp 0 0 aboveMaker aboveMaker_up aboveMaker_nonePosted
  have hnext := congrArg otpOpAfter (hshort aboveMaker_role).1
  rw [otpKeyProgram_aboveMaker] at hnext
  exact absurd hnext (by decide)

end Sys2Proof.Machine
end

section
-- One proof after another: elaborated side by side they take more memory than the check allows.
set_option Elab.async false
/-! PROOF. The trouble log: records, suppression, dropped counts, acknowledgements (O53). -/

namespace Sys2Proof.Machine

open Sys2Proof.Cert

/-! ## A slot of the log (R462, R470) -/

theorem galPuts_on {g a : Nat} {bs : List Byte} {s : State} (h : s.galOn g = true) : (galPuts g a bs s).galOn g = true := by
  have hup : s.up islGal = true := (Bool.and_eq_true_iff.1 h).1
  unfold galPuts
  rw [if_pos h]
  unfold State.galOn
  rw [State.getGal_modGal]
  exact Bool.and_eq_true_iff.2 ⟨hup, rfl⟩

theorem length_logBody (e : LogEnt) (more cont : Bool) (data : List Byte) : (logBody e more cont data).length = 28 := by
  simp [logBody]

theorem logParts_single {e : LogEnt} (h : e.data.length ≤ 12) : logParts e = [(false, false, e.data)] := by
  have hn : max 1 (cdiv e.data.length 12) = 1 := by
    unfold cdiv
    omega
  simp [logParts, hn, pieces, List.take_of_length_le h]

section Slot

variable {s : State} {n : Nat} {body : List Byte}

theorem putSlot_mem (hon : s.galOn 3 = true) : ((putSlot n body s).getGal 3).mem = mputs galDefault (mputs galDefault
    (mputs galDefault (s.getGal 3).mem (logAt n) (leBytes 4 0xFFFFFFFF)) (logAt n + 4) body) (logAt n) (leBytes 4 n) := by
  unfold putSlot
  rw [galPuts_mem _ _ _ _ (galPuts_on (galPuts_on hon)), galPuts_mem _ _ _ _ (galPuts_on hon), galPuts_mem _ _ _ _ hon]

theorem putSlot_ne {g : Nat} (hg : g ≠ 3) : (putSlot n body s).getGal g = s.getGal g := by
  unfold putSlot
  rw [galPuts_ne _ _ _ _ _ hg, galPuts_ne _ _ _ _ _ hg, galPuts_ne _ _ _ _ _ hg]

theorem putSlot_holds (hon : s.galOn 3 = true) (hwf : memWf galDefault (s.getGal 3).mem = true) (hn : n < 2 ^ 32) {e : LogEnt}
    (hb : body = logBody e false false e.data) : SlotHolds n e (putSlot n body s) := by
  have hw : leBytes 4 n = leBytes 4 (BitVec.ofNat 32 n).toNat := by
    rw [BitVec.toNat_ofNat, Nat.mod_eq_of_lt hn]
  have hat : logAt n = 0x100000 + 0x20 * (n % 8192) := rfl
  constructor
  · rw [State.galWord, putSlot_mem hon, hw, ← hat]
    exact mgetW_mputW _ _ (memWf_mputs _ _ (memWf_mputs _ _ hwf))
  · intro i hi
    have hlen : i < body.length := by rw [hb, length_logBody]; exact hi
    rw [galByte, putSlot_mem hon, ← hat, mget_mputs_out _ _ _ (by rw [length_leBytes]; omega), mget_mputs_in _ _ _ (memWf_mputs _ _ hwf) hlen,
      ← hb, List.getD_eq_getElem _ _ hlen]

theorem putSlot_rest (hon : s.galOn 3 = true) (hb : body.length = 28) {a : Nat} (ha : a < logAt n ∨ logAt n + 32 ≤ a) :
    galByte (putSlot n body s) 3 a = galByte s 3 a := by
  rw [galByte, putSlot_mem hon, mget_mputs_out _ _ _ (by rw [length_leBytes]; omega), mget_mputs_out _ _ _ (by rw [hb]; omega),
    mget_mputs_out _ _ _ (by rw [length_leBytes]; omega)]
  rfl

theorem putSlot_eq : putSlot n body s = { s with gal := (putSlot n body s).gal } :=
  State.eq_onto (m := { gal := true }) (by simp [putSlot])

end Slot

/-! ## A record (R463, R470, R471, R473) -/

/-- What the writing of one entry e under SEQ n leaves: its slot, the mirror, and nothing else of the galleries, the channels and the spans. -/
def Written (e : LogEnt) (s t : State) : Prop :=
  SlotHolds s.log.next e t ∧ (∀ a, a < logAt s.log.next ∨ logAt s.log.next + 32 ≤ a → galByte t 3 a = galByte s 3 a) ∧
  (∀ g, g ≠ 3 → t.getGal g = s.getGal g) ∧ t.log.next = (s.log.next + 1) % 2 ^ 32 ∧ t.log.src = s.log.src ∧ t.log.span = s.log.span ∧
  (2 ≤ e.sev ∨ e.always = true →
    t.log.mirror = { seq := s.log.next, ent := e, more := false, cont := false, copied := true } :: s.log.mirror.take 255)

theorem logOverwritten_log (old : Nat) (s : State) : (logOverwritten old s).log = { s.log with port := (logOverwritten old s).log.port } :=
  each_keeps (fun t => t.log = { s.log with port := t.log.port }) (fun t p ht => by
    simp only
    split
    · rw [State.modLogPort_log, ht]
    · exact ht) _ rfl

section Part

variable {e : LogEnt} {s : State}

/-- The state with what the slot holds now counted as overwritten. -/
def slotReady (s : State) : State :=
  whenDo ((s.galWord 3 (logAt s.log.next)).toNat != s.log.next && (s.galWord 3 (logAt s.log.next)).toNat != 0xFFFFFFFF)
    (logOverwritten (s.galWord 3 (logAt s.log.next)).toNat) s

/-- The state with the slot written. -/
def slotWritten (e : LogEnt) (s : State) : State :=
  putSlot s.log.next (logBody e false false e.data) (slotReady s)

theorem slotWritten_log : (slotWritten e s).log = { s.log with port := (slotWritten e s).log.port } := by
  unfold slotWritten
  rw [putSlot_eq]
  exact whenDo_keeps (fun t => t.log = { s.log with port := t.log.port }) (fun t ht => by
    rw [logOverwritten_log, ht]) _ rfl

theorem writePart_eq : writePart e (false, false, e.data) s =
    (slotWritten e s).modLogIsl (fun l => (if decide (e.sev ≥ 2) || e.always then
      pushMirror { seq := s.log.next, ent := e, more := false, cont := false, copied := true } else id)
      { l with next := (s.log.next + 1) % 2 ^ 32, cloakNext := (s.log.next + 1) % 2 ^ 32 }) := by
  unfold writePart
  extract_lets seq old s₁ s₂ next s₃
  split
  · rfl
  · rfl

theorem writePart_written (hon : s.galOn 3 = true) (hwf : memWf galDefault (s.getGal 3).mem = true) (hn : s.log.next < 2 ^ 32) :
    Written e s (writePart e (false, false, e.data) s) := by
  have hgal : ∀ g, (writePart e (false, false, e.data) s).getGal g = (slotWritten e s).getGal g := by
    rw [writePart_eq]
    exact fun _ => rfl
  have hlog := slotWritten_log (e := e) (s := s)
  have hv : (slotReady s).outside { log := true } = s.outside { log := true } :=
    outside_whenDo (fun t => outside_logOverwritten rfl _ t) _ s
  have hsame := getGal_congr (State.gal_eq rfl hv)
  have hon' : (slotReady s).galOn 3 = true := by
    rw [State.galOn, hsame 3, State.up, State.pwr_eq rfl hv, State.glb_eq rfl hv]
    exact hon
  have hwf' := (congrArg (memWf galDefault ∘ Gal.mem) (hsame 3)).trans hwf
  have hslot := putSlot_holds hon' hwf' hn (e := e) rfl
  refine ⟨?_, fun a ha => ?_, fun g hg => ?_, ?_, ?_, ?_, fun hbig => ?_⟩
  · unfold SlotHolds State.galWord galByte at *
    rw [hgal]
    exact hslot
  · unfold galByte
    rw [hgal, ← hsame 3]
    exact putSlot_rest hon' (length_logBody _ _ _ _) ha
  · rw [hgal, ← hsame g]
    exact putSlot_ne hg
  · rw [writePart_eq]
    simp only [State.modLogIsl]
    split <;> rfl
  · rw [writePart_eq]
    simp only [State.modLogIsl]
    split <;> exact (congrArg Log.src hlog :)
  · rw [writePart_eq]
    simp only [State.modLogIsl]
    split <;> exact (congrArg Log.span hlog :)
  · have hb : (decide (e.sev ≥ 2) || e.always) = true := by simpa using hbig
    rw [writePart_eq, hb, if_pos rfl]
    exact (congrArg (fun l : Log => MirrorEnt.mk s.log.next e false false true :: l.mirror.take 255) hlog :)

end Part

/-- Only the galleries, the host ports and the log differ. -/
def LogWritesOnly (s t : State) : Prop := t = { s with gal := t.gal, host := { s.host with hp := t.host.hp }, log := t.log }

theorem LogWritesOnly.trans {s t u : State} (h : LogWritesOnly s t) (h' : LogWritesOnly t u) : LogWritesOnly s u := by
  unfold LogWritesOnly at *
  rw [h', h]

theorem Written.congr {e : LogEnt} {s t u : State} (h : Written e s t) (hg : u.gal = t.gal) (hl : u.log = t.log) : Written e s u := by
  unfold Written SlotHolds State.galWord galByte State.getGal at *
  rw [hg, hl]
  exact h

/-- R463: a port whose LOG_SEV the severity meets sees source LOG. -/
def Hp.logSeen (sev : Nat) (h : Hp) : Hp := if bits h.intEn 31 28 ≤ sev then { h with intStat := h.intStat ||| 0x80 } else h

theorem logIrq_getHp (sev : Nat) {p : Nat} (hp : p < 4) (s : State) : (logIrq sev s).getHp p = (s.getHp p).logSeen sev := by
  refine each_view_once (inv := fun _ => True) (fun t => t.getHp p) p (Hp.logSeen sev) (fun _ _ _ => trivial) (fun t q hq _ => ?_)
    (fun t _ => ?_) (by decide) ?_ trivial
  · split
    · exact State.getHp_modHp_ne _ _ _ _ (Ne.symm hq)
    · rfl
  · unfold Hp.logSeen
    split
    · next h => rw [if_pos (of_decide_eq_true h)]; exact State.getHp_modHp _ _ _
    · next h => rw [if_neg (fun h' => h (decide_eq_true h'))]
  · simp only [List.mem_cons, List.not_mem_nil, or_false]
    omega

theorem logIrq_only (sev : Nat) (s : State) : logIrq sev s = { s with host := { s.host with hp := (logIrq sev s).host.hp } } :=
  each_keeps (fun t => t = { s with host := { s.host with hp := t.host.hp } }) (fun t p ht => by
    split
    · rw [ht]; rfl
    · exact ht) _ rfl

theorem writeRecord_single {e : LogEnt} (hd : e.data.length ≤ 12) (s : State) :
    writeRecord e s = logIrq e.sev (writePart e (false, false, e.data) s) := by
  rw [writeRecord, logParts_single hd, each_cons, each_nil]

theorem writePart_only (e : LogEnt) (s : State) : LogWritesOnly s (writePart e (false, false, e.data) s) := by
  have h := State.eq_onto (m := { gal := true, log := true }) (outside_writePart rfl rfl e (false, false, e.data) s)
  unfold LogWritesOnly
  rw [h]
  rfl

section Record

variable {e : LogEnt} {s : State} (hd : e.data.length ≤ 12)

include hd

theorem writeRecord_only : LogWritesOnly s (writeRecord e s) := by
  rw [writeRecord_single hd]
  refine (writePart_only e s).trans ?_
  unfold LogWritesOnly
  rw [logIrq_only]

theorem writeRecord_written (hon : s.galOn 3 = true) (hwf : memWf galDefault (s.getGal 3).mem = true) (hn : s.log.next < 2 ^ 32) :
    Written e s (writeRecord e s) := by
  rw [writeRecord_single hd]
  have h := logIrq_only e.sev (writePart e (false, false, e.data) s)
  exact (writePart_written hon hwf hn).congr (congrArg State.gal h :) (congrArg State.log h :)

theorem writeRecord_intStat {p : Nat} (hp : p < 4) : ((writeRecord e s).getHp p).intStat =
    if bits (s.getHp p).intEn 31 28 ≤ e.sev then (s.getHp p).intStat ||| 0x80 else (s.getHp p).intStat := by
  have hh : (writePart e (false, false, e.data) s).host = s.host := State.host_eq (m := { gal := true, log := true }) rfl (by simp)
  have hget : (writePart e (false, false, e.data) s).getHp p = s.getHp p := by
    unfold State.getHp
    rw [hh]
  rw [writeRecord_single hd, logIrq_getHp _ hp, hget]
  unfold Hp.logSeen
  split <;> rfl

end Record

/-! ## Spans (R469) -/

theorem writePart_span (e : LogEnt) (s : State) : (writePart e (false, false, e.data) s).log.span = s.log.span := by
  rw [writePart_eq]
  simp only [State.modLogIsl]
  split <;> exact (congrArg Log.span slotWritten_log :)

theorem writeRecord_span {e : LogEnt} (hd : e.data.length ≤ 12) (s : State) : (writeRecord e s).log.span = s.log.span := by
  have h := logIrq_only e.sev (writePart e (false, false, e.data) s)
  rw [writeRecord_single hd, (congrArg State.log h :), writePart_span]

theorem writeRecord_gal {e : LogEnt} (hd : e.data.length ≤ 12) (s : State) {g : Nat} (hg : g ≠ 3) :
    (writeRecord e s).getGal g = s.getGal g := by
  have h := logIrq_only e.sev (writePart e (false, false, e.data) s)
  rw [writeRecord_single hd, getGal_congr (congrArg State.gal h :), writePart_eq]
  have hv : (slotReady s).outside { log := true } = s.outside { log := true } :=
    outside_whenDo (fun t => outside_logOverwritten rfl _ t) _ s
  exact (putSlot_ne hg).trans (getGal_congr (State.gal_eq rfl hv) g)

theorem suppressedEnt_data (s : State) (code : Nat) (x : Span) : (suppressedEnt s code x).data.length ≤ 12 := by
  simp [suppressedEnt]

section Close

variable {s : State} {code : Nat}

theorem closeSpan_none (h : s.log.span.find? (fun e => e.1 == code) = none) : closeSpan code s = s := by
  simp [closeSpan, h]

theorem closeSpan_some {y : Nat × Span} (h : s.log.span.find? (fun e => e.1 == code) = some y) :
    closeSpan code s = if y.2.count = 0 then s.modLogIsl (fun l => { l with span := tdel l.span code })
      else writeRecord (suppressedEnt s code y.2) (s.modLogIsl (fun l => { l with span := tdel l.span code })) := by
  simp only [closeSpan, h]
  rfl

theorem closeSpan_span : (closeSpan code s).log.span = tdel s.log.span code := by
  cases h : s.log.span.find? (fun e => e.1 == code) with
  | none =>
    rw [closeSpan_none h]
    refine (List.filter_eq_self.2 (fun e he => ?_)).symm
    have := List.find?_eq_none.1 h e he
    simpa using this
  | some y =>
    rw [closeSpan_some h]
    split
    · rfl
    · exact writeRecord_span (suppressedEnt_data _ _ _) _

theorem find?_tdel_same (t : Tab Span) (k : Nat) : (tdel t k).find? (fun e => e.1 == k) = none := by
  refine List.find?_eq_none.2 (fun e he => ?_)
  have := (List.mem_filter.1 he).2
  simpa using this

theorem find?_tdel_ne (t : Tab Span) {k j : Nat} (h : j ≠ k) : (tdel t k).find? (fun e => e.1 == j) = t.find? (fun e => e.1 == j) := by
  unfold tdel
  rw [List.find?_filter]
  congr 1
  funext e
  by_cases hj : e.1 = j
  · simp [hj, h]
  · simp [hj]

theorem closeSpan_only (code : Nat) (s : State) : LogWritesOnly s (closeSpan code s) ∧ ∀ g, g ≠ 3 → (closeSpan code s).getGal g = s.getGal g := by
  cases h : s.log.span.find? (fun e => e.1 == code) with
  | none =>
    rw [closeSpan_none h]
    exact ⟨rfl, fun _ _ => rfl⟩
  | some y =>
    rw [closeSpan_some h]
    split
    · exact ⟨rfl, fun _ _ => rfl⟩
    · refine ⟨?_, fun g hg => writeRecord_gal (suppressedEnt_data _ _ _) _ hg⟩
      have h₁ : LogWritesOnly s (s.modLogIsl (fun l => { l with span := tdel l.span code })) := rfl
      exact h₁.trans (writeRecord_only (suppressedEnt_data _ _ _))

/-- The codes of the spans that are over by index w with a count, in the order of their closing. -/
def State.dueCodes (s : State) (w : Nat) : List Nat :=
  (sortBy (fun a b => decide (a.2.start ≤ b.2.start))
    (s.log.span.filter (fun e => decide (e.2.start + 384000 ≤ w) && e.2.count != 0))).map (fun e => e.1)

theorem mem_dueCodes {w c : Nat} : c ∈ s.dueCodes w ↔ ∃ y ∈ s.log.span, y.1 = c ∧ y.2.start + 384000 ≤ w ∧ y.2.count ≠ 0 := by
  simp [State.dueCodes]

theorem closeSpans_eq (w : Nat) : closeSpans w s = each (s.dueCodes w) (fun s c => closeSpan c s) s := rfl

theorem closeSpans_idle {w : Nat} (h : ∀ y ∈ s.log.span, w < y.2.start + 384000 ∨ y.2.count = 0) : closeSpans w s = s := by
  have hnil : s.dueCodes w = [] := by
    refine List.eq_nil_iff_forall_not_mem.2 (fun c hc => ?_)
    obtain ⟨y, hy, -, hw, hn⟩ := mem_dueCodes.1 hc
    exact (h y hy).elim (fun h => Nat.not_lt.2 hw h) hn
  rw [closeSpans_eq, hnil, each_nil]

theorem closeSpans_only (w : Nat) : LogWritesOnly s (closeSpans w s) ∧ ∀ g, g ≠ 3 → (closeSpans w s).getGal g = s.getGal g :=
  each_keeps (fun t => LogWritesOnly s t ∧ ∀ g, g ≠ 3 → t.getGal g = s.getGal g)
    (fun t c ht => ⟨ht.1.trans (closeSpan_only c t).1, fun g hg => ((closeSpan_only c t).2 g hg).trans (ht.2 g hg)⟩) _ ⟨rfl, fun _ _ => rfl⟩

theorem closeSpan_find_none {c : Nat} (h : s.log.span.find? (fun e => e.1 == code) = none) :
    (closeSpan c s).log.span.find? (fun e => e.1 == code) = none := by
  rw [closeSpan_span]
  by_cases hc : code = c
  · rw [hc, find?_tdel_same]
  · rw [find?_tdel_ne _ hc, h]

theorem closeSpans_closed {w : Nat} (h : code ∈ s.dueCodes w) : (closeSpans w s).log.span.find? (fun e => e.1 == code) = none := by
  refine each_establishes (P := fun t => t.log.span.find? (fun e => e.1 == code) = none) (f := fun s c => closeSpan c s) (fun t c ht => ?_)
    (fun t => ?_) h s
  · exact closeSpan_find_none ht
  · rw [closeSpan_span, find?_tdel_same]

/-- Where only spans of one code are over, closing them closes the code once. -/
theorem closeSpans_single {w : Nat} (h : code ∈ s.dueCodes w) (hall : ∀ c ∈ s.dueCodes w, c = code) : closeSpans w s = closeSpan code s := by
  rw [closeSpans_eq]
  cases hl : s.dueCodes w with
  | nil => rw [hl] at h; cases h
  | cons c l =>
    rw [hl] at hall
    rw [each_cons, hall c List.mem_cons_self]
    refine each_view (inv := fun t => t.log.span.find? (fun e => e.1 == code) = none) id (f := fun s c => closeSpan c s)
      (fun t c ht => closeSpan_find_none ht) (fun t c hc ht => ?_) ?_
    · rw [hall c (List.mem_cons_of_mem _ hc)]
      exact closeSpan_none ht
    · rw [closeSpan_span, find?_tdel_same]

end Close

/-! ## The commands -/

theorem LogEnt.source_zero (e : LogEnt) : e.source = 0 ↔ e.code < 256 := by
  unfold LogEnt.source
  omega

theorem zeroBefore_iff (s : State) (i w : Nat) : s.zeroBefore i w = true ↔ ZeroFirst i w s := by
  simp only [State.zeroBefore, ZeroFirst, List.any_eq_true, List.mem_range, Bool.and_eq_true, bne_iff_ne, List.mem_append, beq_iff_eq,
    LogEnt.source_zero, decide_eq_true_eq]
  constructor
  · rintro ⟨j, hj, hne, x, hx, hcode, hw⟩
    exact ⟨j, x, hj, hne, hx, hcode, hw⟩
  · rintro ⟨j, x, hj, hne, hx, hcode, hw⟩
    exact ⟨j, hj, hne, x, hx, hcode, hw⟩

section Take

variable {i : Fin 12} {s : State} {e : LogEnt} {rest : List LogEnt}

/-- The state with the front of channel i taken out. -/
def logPopped (i : Nat) (s : State) : State := s.modLogSrc i popChan

theorem logEntryWrite_eq (hup : s.logUp = true) (hc : (s.getLogSrc i).chan = e :: rest) :
    exec (.logEntryWrite i) s = .next (if (match s.zeroWhen e with | none => false | some w => s.zeroBefore i w) then s
      else takeRecord e (logPopped i s)) := by
  refine congrArg Host.Outcome.next ?_
  simp only [hup, if_true, hc]
  rfl

theorem zeroWhen_own (h : e.code < 256) : s.zeroWhen e = some e.when_ := if_pos ((LogEnt.source_zero e).2 h)

theorem logEntryWrite_waits (h : e.code < 256) (hc : (s.getLogSrc i).chan = e :: rest) (hz : ZeroFirst i e.when_ s) :
    exec (.logEntryWrite i) s = .next s := by
  by_cases hup : s.logUp = true
  · rw [logEntryWrite_eq hup hc, zeroWhen_own h]
    simp only [(zeroBefore_iff s i e.when_).2 hz, if_true]
  · exact congrArg Host.Outcome.next (if_neg hup)

/-- Nothing of the steward's own source has to be written before e. -/
theorem logEntryWrite_takes (hup : s.logUp = true) (hc : (s.getLogSrc i).chan = e :: rest) (ht : InTurn i e s) :
    exec (.logEntryWrite i) s = .next (takeRecord e (logPopped i s)) := by
  rw [logEntryWrite_eq hup hc]
  unfold InTurn at ht
  split at ht
  · next h =>
    have hno : s.zeroBefore i e.when_ = false := Bool.eq_false_iff.2 (fun h => ht.1 ((zeroBefore_iff s i e.when_).1 h))
    rw [zeroWhen_own h]
    simp only [hno, Bool.false_eq_true, if_false]
  · next h =>
    have hsrc : e.source ≠ 0 := fun h' => h ((LogEnt.source_zero e).1 h')
    have hnone : s.zeroWhen e = none := by
      unfold State.zeroWhen
      rw [if_neg hsrc]
      split
      · next c x hx =>
        refine if_neg (fun h' => ?_)
        exact (ht (c, x) hx).elim (fun hlt => Nat.not_lt.2 h'.1 hlt) h'.2
      · rfl
    simp only [hnone, Bool.false_eq_true, if_false]

/-- No span is closed before e. -/
theorem takeRecord_inTurn (ht : InTurn i e s) : whenDo (e.source == 0) (closeSpans e.when_) (logPopped i s) = logPopped i s := by
  unfold InTurn at ht
  split at ht
  · next h =>
    have hs : (e.source == 0) = true := beq_iff_eq.2 ((LogEnt.source_zero e).2 h)
    rw [hs]
    exact closeSpans_idle ht.2
  · next h =>
    have hs : (e.source == 0) = false := beq_eq_false_iff_ne.2 (fun h' => h ((LogEnt.source_zero e).1 h'))
    rw [hs]
    rfl

theorem takeRecord_big (ht : InTurn i e s) (hbig : 2 ≤ e.sev ∨ e.always = true) : takeRecord e (logPopped i s) = writeRecord e (logPopped i s) := by
  unfold takeRecord
  rw [takeRecord_inTurn ht]
  exact if_pos (by simpa [or_comm] using hbig)

theorem takeRecord_counted (ht : InTurn i e s) {x : Span} (hsev : e.sev < 2) (ha : e.always = false)
    (hx : s.log.span.find? (fun y => y.1 == e.code) = some (e.code, x)) (hw : e.when_ < x.start + 384000) (hn : 64 ≤ x.written) :
    takeRecord e (logPopped i s) = (logPopped i s).modLogIsl (fun l => { l with
      span := tset l.span e.code { x with count := x.count + 1 }, suppressed := satAdd 0xFFFF l.suppressed 1 }) := by
  have hx' : (logPopped i s).log.span.find? (fun y => y.1 == e.code) = some (e.code, x) := hx
  have hpast : decide (e.when_ ≥ x.start + 384000) = false := decide_eq_false (Nat.not_le.2 hw)
  have hbig : ¬(e.always || decide (e.sev ≥ 2)) = true := by simp [ha]; omega
  unfold takeRecord
  rw [takeRecord_inTurn ht]
  simp only [if_neg hbig, hx', hpast, whenDo_false, if_neg (Nat.not_lt.2 hn)]

end Take

section Pop

variable {i : Nat} {s : State} {e : LogEnt} {rest : List LogEnt}

theorem logPopped_src (hc : (s.getLogSrc i).chan = e :: rest) :
    ((s.getLogSrc i).waiting = [] → ((logPopped i s).getLogSrc i).chan = rest) ∧
    (∀ w ws, (s.getLogSrc i).waiting = w :: ws →
      ((logPopped i s).getLogSrc i).chan = rest ++ [w] ∧ ((logPopped i s).getLogSrc i).waiting = ws) ∧
    (∀ j, j ≠ i → (logPopped i s).getLogSrc j = s.getLogSrc j) := by
  refine ⟨fun hw => ?_, fun w ws hw => ?_, fun j hj => State.getLogSrc_modLogSrc_ne _ _ _ _ hj⟩
  · rw [logPopped, State.getLogSrc_modLogSrc]
    simp [popChan, hw, hc]
  · rw [logPopped, State.getLogSrc_modLogSrc]
    simp [popChan, hw, hc]

end Pop

theorem getLogSrc_congr {s t : State} (h : t.log.src = s.log.src) (j : Nat) : t.getLogSrc j = s.getLogSrc j := by
  unfold State.getLogSrc
  rw [h]

theorem logSuppressed_eq {code : BitVec 16} {s : State} {x : Span} (hup : s.logUp = true)
    (hx : s.log.span.find? (fun y => y.1 == code.toNat) = some (code.toNat, x)) : exec (.logSuppressed code) s =
      .next (if s.now ≥ x.start + 384000 ∧ x.count ≠ 0 ∧ !s.zeroBefore 12 (x.start + 384000) then closeSpans (x.start + 384000) s else s) := by
  refine congrArg Host.Outcome.next ((if_pos hup).trans ?_)
  simp only [hx]

theorem State.modLogSrc_modLogSrc (s : State) (k : Nat) (f g : LogSrc → LogSrc) :
    (s.modLogSrc k f).modLogSrc k g = s.modLogSrc k (fun c => g (f c)) := by
  have h := State.getLogSrc_modLogSrc s k f
  simp only [State.modLogSrc] at h ⊢
  rw [h, tset_tset]

/-- R466: an entry that is always logged goes into the channel where there is a place and none waits. -/
theorem sendEnt_room {k : Nat} {e : LogEnt} {s : State} (halways : e.always = true) (hw : (s.getLogSrc k).waiting = [])
    (hroom : (s.getLogSrc k).chan.length < 32) :
    sendEnt k e s = s.modLogSrc k (fun c => { c with chan := c.chan ++ [e] }) := by
  simp [sendEnt, halways, hw, hroom]

/-- Settles O53. -/
theorem troubleLogWritten : Obligations.TroubleLogWritten := by
  unfold Obligations.TroubleLogWritten
  refine ⟨fun i s hwf hn => ⟨?_, fun e rest hc hz hf => logEntryWrite_waits hz hc hf, fun e rest hup hc hd ht => ⟨fun hbig => ?_, fun x hsev ha hx hw hwr => ?_⟩⟩,
    fun code s hwf hn => ⟨?_, fun x hup hx => ⟨?_, ?_, fun hw hcount hz => ?_⟩⟩, fun i s => ?_, fun p seq s hact => ?_⟩
  · rintro (hup | hc)
    · exact congrArg Host.Outcome.next (if_neg (by simp [hup]))
    · refine congrArg Host.Outcome.next (ite_eq_right_iff.2 (fun _ => ?_))
      simp only [hc]
  · have hon : (logPopped i s).galOn 3 = true := (Bool.and_eq_true_iff.1 hup).2
    have hwrite := writeRecord_written (s := logPopped i s) hd hon hwf hn
    obtain ⟨hslot, hrest, hgal, hnext, hsrc, hspan, hmirror⟩ := hwrite
    obtain ⟨hp0, hp1, hp2⟩ := logPopped_src hc
    have hget := getLogSrc_congr hsrc
    refine ⟨_, logEntryWrite_takes hup hc ht, ?_⟩
    rw [takeRecord_big ht hbig]
    refine ⟨hslot, hnext, hrest, hmirror hbig, fun hw => ?_, fun w ws hw => ?_, fun j hj => ?_, hspan, fun p hp => writeRecord_intStat hd hp, hgal, ?_⟩
    · rw [hget]; exact hp0 hw
    · rw [hget]; exact hp1 w ws hw
    · rw [hget]; exact hp2 j hj
    · have h₁ : LogWritesOnly s (logPopped i s) := rfl
      exact h₁.trans (writeRecord_only hd)
  · refine ⟨_, logEntryWrite_takes hup hc ht, ?_⟩
    rw [takeRecord_counted ht hsev ha hx hw hwr]
    exact ⟨rfl, rfl, tget_tset_same _ _ _ _, rfl⟩
  · rintro (hup | hx)
    · exact congrArg Host.Outcome.next (if_neg (by simp [hup]))
    · refine congrArg Host.Outcome.next (ite_eq_right_iff.2 (fun _ => ?_))
      simp only [hx]
  · intro h
    rw [logSuppressed_eq hup hx]
    exact congrArg _ (if_neg (fun h' => h.elim (fun hlt => Nat.not_lt.2 h'.1 hlt) h'.2.1))
  · intro hz
    rw [logSuppressed_eq hup hx, (zeroBefore_iff s 12 _).2 hz]
    exact congrArg _ (if_neg (by simp))
  · have hno : s.zeroBefore 12 (x.start + 384000) = false := Bool.eq_false_iff.2 (fun h => hz ((zeroBefore_iff s 12 _).1 h))
    have ht : exec (.logSuppressed code) s = .next (closeSpans (x.start + 384000) s) := by
      rw [logSuppressed_eq hup hx, hno]
      exact congrArg _ (if_pos ⟨hw, hcount, rfl⟩)
    have hmem : code.toNat ∈ s.dueCodes (x.start + 384000) := mem_dueCodes.2 ⟨(code.toNat, x), List.mem_of_find?_eq_some hx, rfl, le_rfl, hcount⟩
    refine ⟨_, ht, closeSpans_closed hmem, fun hall => ?_, (closeSpans_only _).2, (closeSpans_only _).1⟩
    have hsingle : closeSpans (x.start + 384000) s = closeSpan code.toNat s := by
      refine closeSpans_single hmem (fun c hc => ?_)
      obtain ⟨y, hy, rfl, hle, hn⟩ := mem_dueCodes.1 hc
      by_contra hne
      exact (hall y hy hne).elim (fun h => by omega) hn
    rw [hsingle, closeSpan_some hx, if_neg hcount]
    have hwrite := writeRecord_written (s := s.modLogIsl (fun l => { l with span := tdel l.span code.toNat }))
      (suppressedEnt_data s code.toNat x) (Bool.and_eq_true_iff.1 hup).2 hwf hn
    obtain ⟨hslot, -, -, hnext, -, hspan, -⟩ := hwrite
    refine ⟨hslot, hnext, fun c hc => ?_⟩
    rw [hspan]
    exact find?_tdel_ne _ hc
  · intro c
    refine ⟨fun h => congrArg Host.Outcome.next (if_neg (fun h' => h.elim h'.1 (fun hle => Nat.not_lt.2 hle h'.2))), fun hd hlen hw => ?_⟩
    have hput : exec (.logDropped i) s = .next (s.modLogSrc i (fun c => { c with
        drops := 0, dropFirst := 0, dropLast := 0
        chan := c.chan ++ [ent .logDropped s.now 0 [(2, min 0xFFFF (s.getLogSrc i).drops), (8, (s.getLogSrc i).dropFirst),
          (8, (s.getLogSrc i).dropLast)] s] })) := by
      refine congrArg Host.Outcome.next ((if_pos ⟨hd, hlen⟩).trans ?_)
      rw [sendEnt_room rfl (by rw [State.getLogSrc_modLogSrc]; exact hw) (by rw [State.getLogSrc_modLogSrc]; exact Nat.lt_trans hlen (by decide)),
        State.modLogSrc_modLogSrc]
      rfl
    refine ⟨_, hput, ?_, fun j hj => State.getLogSrc_modLogSrc_ne _ _ _ _ hj, rfl⟩
    have hc : (s.getLogSrc i).waiting = [] := hw
    rw [State.getLogSrc_modLogSrc, hc]
  · have hpl : place 0x1A0108 = .log 0x108 := by decide +kernel
    have hexec := rowWrite_reg (v := seq) (a := 0x1A0108) (s := s) (p := p) (role := 1) (by rw [hpl]; exact hact)
      (by rw [hpl]; rfl) (by rw [hpl]; trivial) (by decide) (fun _ => by decide +kernel) (by rw [hpl]; exact le_rfl) (by rw [hpl]; rfl)
    rw [hpl, writeAudited_operator (show wrNeed (.log 0x108) seq < 2 from Nat.one_lt_two)] at hexec
    refine ⟨_, hexec, ?_, fun q hq => tget_tset_ne _ _ _ _ _ hq, rfl⟩
    exact tget_tset_same _ _ _ _

end Sys2Proof.Machine
end

section
-- One proof after another: elaborated side by side they take more memory than the check allows.
set_option Elab.async false
/-! PROOF. Shadow mismatches, monitor tests and monitor settings (O52). -/

namespace Sys2Proof.Machine

open Sys2Proof.Cert

variable {s u : State} {p : Fin 4}

/-! ## Shadow mismatches (R422) -/

theorem raise_stores (c : LogCode) (i : Nat) (l : List (Nat × Nat)) (s : State) :
    (raise c i l s).tmp = s.tmp ∧ (raise c i l s).pwr = s.pwr ∧ (raise c i l s).role = s.role ∧ (raise c i l s).plan = s.plan ∧
    (raise c i l s).host = s.host := by
  rw [raise_eq]
  exact ⟨rfl, rfl, rfl, rfl, rfl⟩

/-- R422: a mismatch counted as a raw event of monitor 16. -/
def shadowHit (d1 : Bool) (s : State) : State :=
  if s.monStopped 16 then s
  else s.modMon 16 (fun x => { x with hits := x.hits + 1, hitD1 := x.hitD1 || d1, hitD2 := x.hitD2 || !d1 })

theorem shadowHit_eq (d1 : Bool) (s : State) : shadowHit d1 s = { s with tmp := { s.tmp with mon := (shadowHit d1 s).tmp.mon } } := by
  unfold shadowHit
  split
  · rfl
  · rfl

theorem shadowHit_getMon {d1 : Bool} (h : s.monStopped 16 = false) : (shadowHit d1 s).getMon 16 =
    { s.getMon 16 with hits := (s.getMon 16).hits + 1, hitD1 := (s.getMon 16).hitD1 || d1, hitD2 := (s.getMon 16).hitD2 || !d1 } := by
  unfold shadowHit
  rw [if_neg (by simp [h])]
  exact State.getMon_modMon _ _ _

/-- R422: a mismatch counted and logged, before the field is restored. -/
def shadowNoted (d1 : Bool) (f : ShadowField) (s : State) : State :=
  (raise .tamperShadow 16 [(4, shadowAddr f)] (shadowHit d1 s)).modTmpIsl (fun t => { t with
    shadowCount := satAdd 0xFFFF t.shadowCount 1, shadowAddr := shadowAddr f })

theorem shadowFound_eq (d1 : Bool) (f : ShadowField) (s : State) : shadowFound d1 f s = shadowRestore f (shadowNoted d1 f s) := rfl

theorem shadowNoted_tmp (d1 : Bool) (f : ShadowField) (s : State) : (shadowNoted d1 f s).tmp =
    { s.tmp with mon := (shadowHit d1 s).tmp.mon, shadowCount := min 0xFFFF (s.tmp.shadowCount + 1), shadowAddr := shadowAddr f } := by
  obtain ⟨htmp, -⟩ := raise_stores .tamperShadow 16 [(4, shadowAddr f)] (shadowHit d1 s)
  unfold shadowNoted State.modTmpIsl
  rw [htmp, shadowHit_eq]
  rfl

theorem shadowNoted_eq (d1 : Bool) (f : ShadowField) (s : State) : shadowNoted d1 f s =
    { s with tmp := (shadowNoted d1 f s).tmp, log := (shadowNoted d1 f s).log } := by
  unfold shadowNoted State.modTmpIsl
  rw [raise_eq, shadowHit_eq]

theorem shadowNoted_logged (d1 : Bool) (f : ShadowField) (s : State) :
    Logged (ent .tamperShadow s.now 16 [(4, shadowAddr f)] s) (shadowNoted d1 f s) := by
  have h := logged_raise (c := .tamperShadow) rfl 16 [(4, shadowAddr f)] (shadowHit d1 s)
  have htb : (shadowHit d1 s).tb = s.tb := by rw [shadowHit_eq]
  rw [ent_congr (congrArg Tb.epoch htb), show (shadowHit d1 s).now = s.now from congrArg Tb.idx htb] at h
  exact logged_congr rfl h

theorem Logged.endSession {e : LogEnt} {c q : Nat} (h : Logged e s) : Logged e (endSession c q s) := by
  unfold Machine.endSession
  extract_lets role s₁ s₂
  split
  · exact h
  · exact logged_congr rfl (Logged.raise (logged_congr rfl h))

theorem Logged.shadowRestore {e : LogEnt} {f : ShadowField} (h : Logged e s) : Logged e (shadowRestore f s) := by
  unfold Machine.shadowRestore
  split
  case h_1 => exact Logged.endSession h
  all_goals exact logged_congr rfl h

theorem endSession_stores (c q : Nat) (s : State) : (endSession c q s).tmp = s.tmp ∧ (endSession c q s).plan = s.plan ∧
    (endSession c q s).role.sealed = s.role.sealed := by
  have hm := outside_endSession (m := { host := true, role := true, log := true }) rfl rfl rfl c q s
  refine ⟨State.tmp_eq rfl hm, State.plan_eq rfl hm, ?_⟩
  unfold endSession
  extract_lets role s₁ s₂
  split
  · rfl
  · exact congrArg (fun r => r.sealed) (raise_stores _ _ _ s₂).2.2.1

theorem shadowRestore_tmp (f : ShadowField) (s : State) : (shadowRestore f s).tmp.shadowCount = s.tmp.shadowCount ∧
    (shadowRestore f s).tmp.shadowAddr = s.tmp.shadowAddr ∧ (shadowRestore f s).tmp.otpCount = s.tmp.otpCount := by
  unfold shadowRestore
  split
  case h_1 => rw [(endSession_stores _ _ _).1]; exact ⟨rfl, rfl, rfl⟩
  all_goals exact ⟨rfl, rfl, rfl⟩

theorem shadowRestore_mon {f : ShadowField} (hf : ∀ m, f ≠ .monCfg m) (s : State) : (shadowRestore f s).tmp.mon = s.tmp.mon := by
  unfold shadowRestore
  split
  case h_1 => rw [(endSession_stores _ _ _).1]
  case h_5 => exact absurd rfl (hf _)
  all_goals rfl

theorem shadowRestore_ports {f : ShadowField} (hf : ∀ p, f ≠ .roleStat p) (s : State) :
    (shadowRestore f s).role.port = s.role.port ∧ (shadowRestore f s).host = s.host := by
  unfold shadowRestore
  split
  case h_1 => exact absurd rfl (hf _)
  all_goals exact ⟨rfl, rfl⟩

theorem shadowRestore_sealed {f : ShadowField} (hf : f ≠ .seal) (s : State) : (shadowRestore f s).role.sealed = s.role.sealed := by
  unfold shadowRestore
  split
  case h_1 => exact (endSession_stores _ _ _).2.2
  case h_2 => exact absurd rfl hf
  all_goals rfl

theorem shadowRestore_plan {f : ShadowField} (hf : f ≠ .planMinver) (s : State) : (shadowRestore f s).plan = s.plan := by
  unfold shadowRestore
  split
  case h_1 => exact (endSession_stores _ _ _).2.1
  case h_4 => exact absurd rfl hf
  all_goals rfl

theorem shadowRestore_seal {r : SaveRec} (h : s.savedRec = some r) :
    shadowRestore .seal s = s.modRoleIsl (fun x => { x with sealed := r.sealed }) := by
  simp only [shadowRestore, h]

theorem shadowRestore_minver {r : SaveRec} (h : s.savedRec = some r) :
    shadowRestore .planMinver s = s.modPlanIsl (fun x => { x with minver := r.minver }) := by
  simp only [shadowRestore, h]

theorem shadowFound_eq_onto (d1 : Bool) (f : ShadowField) (s : State) : shadowFound d1 f s = { s with
    plan := (shadowFound d1 f s).plan, host := (shadowFound d1 f s).host, role := (shadowFound d1 f s).role
    tmp := (shadowFound d1 f s).tmp, log := (shadowFound d1 f s).log } :=
  State.eq_onto (m := { plan := true, host := true, role := true, tmp := true, log := true }) (by simp)

/-- R422: monitor 16 takes the event while it runs. -/
theorem monStopped_shadow (h : s.tmp.stopped = false) (hmain : s.pwr.mainOn = true) : s.monStopped 16 = false := by
  simp [State.monStopped, State.onCell, h, hmain]

theorem shadowFound_found (d1 : Bool) (f : ShadowField) (hmain : s.pwr.mainOn = true) : let t := shadowFound d1 f s
    t.tmp.shadowCount = min 0xFFFF (s.tmp.shadowCount + 1) ∧ t.tmp.shadowAddr = shadowAddr f ∧
    Logged (ent .tamperShadow s.now 16 [(4, shadowAddr f)] s) t ∧
    (s.tmp.stopped = false → (∀ m, f ≠ .monCfg m) → t.getMon 16 = { s.getMon 16 with
      hits := (s.getMon 16).hits + 1, hitD1 := (s.getMon 16).hitD1 || d1, hitD2 := (s.getMon 16).hitD2 || !d1 }) ∧
    (∀ p, f = .roleStat p → (t.getRolePort p).role = 0 ∧ ∀ q, q ≠ p.val → t.getRolePort q = s.getRolePort q) ∧
    ((∀ p, f ≠ .roleStat p) → t.role.port = s.role.port ∧ t.host = s.host) ∧
    (∀ a, f = .seal → s.pwr.copyA = some a → s.pwr.copyB = none → t.role.sealed = a.sealed) ∧
    (f ≠ .seal → t.role.sealed = s.role.sealed) ∧
    (∀ a, f = .planMinver → s.pwr.copyA = some a → s.pwr.copyB = none → t.plan = { s.plan with minver := a.minver }) ∧
    (f ≠ .planMinver → t.plan = s.plan) ∧ t.tmp.otpCount = s.tmp.otpCount ∧
    t = { s with plan := t.plan, host := t.host, role := t.role, tmp := t.tmp, log := t.log } := by
  have heq := shadowNoted_eq d1 f s
  have htmp := shadowNoted_tmp d1 f s
  have hlog := shadowNoted_logged d1 f s
  have hrole : (shadowNoted d1 f s).role = s.role := by rw [heq]
  have hplan : (shadowNoted d1 f s).plan = s.plan := by rw [heq]
  have hsaved : ∀ a, s.pwr.copyA = some a → s.pwr.copyB = none → (shadowNoted d1 f s).savedRec = some a := by
    intro a ha hb
    rw [heq]
    simp [State.savedRec, ha, hb]
  have hframe := shadowFound_eq_onto d1 f s
  rw [shadowFound_eq] at hframe ⊢
  generalize shadowNoted d1 f s = u at *
  obtain ⟨hcount, haddr, hotp⟩ := shadowRestore_tmp f u
  rw [htmp] at hcount haddr hotp
  refine ⟨hcount, haddr, Logged.shadowRestore hlog, fun hstop hf => ?_, ?_, fun hf => ?_, ?_, fun hf => ?_, ?_, fun hf => ?_, hotp,
    hframe⟩
  · have hmon : (shadowRestore f u).tmp.mon = (shadowHit d1 s).tmp.mon := by rw [shadowRestore_mon hf, htmp]
    rw [← shadowHit_getMon (monStopped_shadow hstop hmain), State.getMon, hmon]
    rfl
  · rintro q rfl
    exact ⟨endSession_role _ _ _, fun j hj => (endSession_ne _ _ _ _ hj).trans (by rw [State.getRolePort, hrole]; rfl)⟩
  · obtain ⟨hports, hhost⟩ := shadowRestore_ports hf u
    exact ⟨hports.trans (by rw [hrole]), hhost.trans (by rw [heq])⟩
  · rintro a rfl ha hb
    rw [shadowRestore_seal (hsaved a ha hb)]
    rfl
  · exact (shadowRestore_sealed hf u).trans (by rw [hrole])
  · rintro a rfl ha hb
    rw [shadowRestore_minver (hsaved a ha hb)]
    exact congrArg (fun x : PlanIsl => { x with minver := a.minver }) hplan
  · exact (shadowRestore_plan hf u).trans hplan

/-! ## Tests of monitors (R434, R435) -/

theorem testWord_fields (m : BitVec 5) : bit (0x80000000 ||| m.setWidth 32) 31 = true ∧ bits (0x80000000 ||| m.setWidth 32) 4 0 = m.toNat := by
  revert m
  decide

theorem tmpWrite_test (m : BitVec 5) (s : State) : tmpWrite 0x20 (0x80000000 ||| m.setWidth 32) s = testGo m.toNat s := by
  obtain ⟨hgo, hm⟩ := testWord_fields m
  rw [tmpWrite, if_neg (by decide), if_neg (by decide)]
  simp only [hgo, hm, if_true]

theorem testRefused_iff (m : Nat) (s : State) : s.testRefused m = true ↔ m < 18 ∨ 22 < m ∨ (s.getMon m).state = .off ∨
    (s.getMon m).state = .tripped ∨ s.tmp.test.isSome = true ∨ s.inWarning = true := by
  simp [State.testRefused, or_assoc]

theorem testGo_refused {m : Nat} (h : s.testRefused m = true) :
    testGo m s = { s with tmp := { s.tmp with testMon := m, testResult := 2 } } :=
  if_pos h

theorem testGo_runs {m : Nat} (h : s.testRefused m = false) : testGo m s =
    ({ s with tmp := { s.tmp with testMon := m, test := some (m, 0, true) } } : State).modMon m
      (fun x => { x with state := .test, opened := none, n := 0 }) :=
  if_neg (Bool.eq_false_iff.1 h)

theorem tamperTest_audited {m : BitVec 5} (hact : MayAct s p 2 islCloak) (hu : testGo m.toNat s = u) (htb : u.tb = s.tb) :
    ∃ t, exec (.tamperTest p m) s = .next t ∧ Audited p 0x1D0020 (tmpRead s 0x20) (0x80000000 ||| m.setWidth 32) s u t := by
  obtain ⟨t, ht, haud⟩ := rowWrite_audited (a := 0x1D0020) (pl := .tmp 0x20) (v := 0x80000000 ||| m.setWidth 32) rfl hact rfl trivial rfl
    (fun _ => rfl) (Nat.le_refl 2) (Nat.le_refl 2) rfl rfl (congrArg (Prod.mk false) ((tmpWrite_test m s).trans hu))
    (congrArg Tb.idx htb) (congrArg Tb.epoch htb)
  exact ⟨t, ht, haud⟩

/-! ## Settings of monitors (R425, R427) -/

section Settings

variable {m : Fin 23} {w : Fin 2} {v : Word}

theorem place_monCfg (m : Fin 23) (w : Fin 2) : place (0x1D0100 + 8 * m.val + 4 * w.val) = .tmp (0x100 + 8 * m.val + 4 * w.val) := by
  revert m w
  decide +kernel

theorem absentHalf_monCfg (m : Fin 23) (w : Fin 2) : absentHalf (0x1D0100 + 8 * m.val + 4 * w.val) = false := by
  revert m w
  decide +kernel

theorem monCfg_offset (m : Fin 23) (w : Fin 2) : (0x100 + 8 * m.val + 4 * w.val - 0x100) / 8 = m.val ∧
    (0x100 + 8 * m.val + 4 * w.val) % 8 / 4 = w.val ∧ ((0x100 + 8 * m.val + 4 * w.val) % 8 = 0 ↔ w = 0) ∧
    (decide (0x100 ≤ 0x100 + 8 * m.val + 4 * w.val) && decide (0x100 + 8 * m.val + 4 * w.val < 0x1B8)) = true := by
  revert m w
  decide

theorem wrNeed_monCfg (m : Fin 23) (w : Fin 2) (v : Word) : wrNeed (.tmp (0x100 + 8 * m.val + 4 * w.val)) v = 3 := by
  refine (if_neg (by omega : ¬ 0x100 + 8 * m.val + 4 * w.val = 0x20)).trans (if_pos ?_)
  rw [(monCfg_offset m w).2.2.2, Bool.or_true]

theorem valueBad_monCfg (m : Fin 23) (w : Fin 2) (v : Word) (s : State) :
    s.valueBad (.tmp (0x100 + 8 * m.val + 4 * w.val)) v = monBadValue m.val w.val v := by
  obtain ⟨hm, hw, -, hin⟩ := monCfg_offset m w
  simp only [State.valueBad, hin, hm, hw, Bool.true_and]

theorem monBadValue_iff (m : Fin 23) (w : Fin 2) (v : Word) : monBadValue m.val w.val v = true ↔
    if w = 0 then 4 < v.toNat / 2 ^ 28 % 8 ∨ (v.toNat / 2 ^ 28 % 8 = 4 ∧ m.val ≠ 16 ∧ m.val ≠ 17)
    else v.toNat / 2 ^ 16 = 0 ∨ v.toNat % 2 ^ 16 = 0 ∨ ((m.val < 16 ∨ 19 < m.val) ∧ v.toNat % 2 ^ 16 < v.toNat / 2 ^ 16) := by
  have hhigh : bits v 31 16 = v.toNat / 2 ^ 16 := by
    have := v.isLt
    simp only [bits]
    omega
  have hlow : bits v 15 0 = v.toNat % 2 ^ 16 := by simp [bits]
  have hresp : bits v 30 28 = v.toNat / 2 ^ 28 % 8 := rfl
  have hev : eventMon m.val = false ↔ m.val < 16 ∨ 19 < m.val := by simp [eventMon]; omega
  match w with
  | 0 => simp [monBadValue, hresp, and_assoc]
  | 1 => simp [monBadValue, hhigh, hlow, hev, or_assoc]

theorem tmpRead_monCfg (m : Fin 23) (w : Fin 2) (s : State) : tmpRead s (0x100 + 8 * m.val + 4 * w.val) =
    if w = 0 then (s.getMon m).cfgWords.1 else (s.getMon m).cfgWords.2 := by
  obtain ⟨hm, -, hw, hin⟩ := monCfg_offset m w
  unfold tmpRead
  simp only [hin, if_true, hm, hw]

/-- R421: the write of ENABLE that has a loop's R0 measured. -/
def loopArms (m w : Nat) (v : Word) (s : State) : Bool :=
  decide (8 ≤ m) && decide (m < 16) && w == 0 && bit v 31 && !bit (s.getMon m).cfgWords.1 31

theorem loopArms_iff {i : Nat} : (i < 8 ∧ i + 8 = m.val ∧ w = 0 ∧ bit v 31 = true ∧ bit (s.getMon m).cfgWords.1 31 = false) ↔
    loopArms m.val w.val v s = true ∧ i = m.val - 8 := by
  have hw : w = 0 ↔ w.val = 0 := Fin.ext_iff
  simp only [loopArms, Bool.and_eq_true, decide_eq_true_eq, beq_iff_eq, Bool.not_eq_true', hw]
  constructor
  · rintro ⟨hi, hm, hw, hv, hx⟩
    exact ⟨⟨⟨⟨⟨by omega, by omega⟩, hw⟩, hv⟩, hx⟩, by omega⟩
  · rintro ⟨⟨⟨⟨⟨h8, h16⟩, hw⟩, hv⟩, hx⟩, rfl⟩
    exact ⟨by omega, by omega, hw, hv, hx⟩

/-- R421, R425: the change that the write of a monitor's setting makes, before the save that it asks for. -/
def monCfgWritten (m : Nat) (w : Fin 2) (v : Word) (s : State) : State :=
  (whenDo (loopArms m w.val v s) (fun s => s.modLoop (m - 8) (fun l => { l with measure := true, prbs := 0 })) s).modMon m
    (fun x => { x with newCfg := some (if w = 0 then (monWord0 m v, x.cfgWords.2) else (x.cfgWords.1, v)), opened := none, n := 0 })

theorem tmpWrite_setting {off m : Nat} (hin : (decide (0x100 ≤ off) && decide (off < 0x1B8)) = true) (hm : (off - 0x100) / 8 = m)
    (hw : off % 8 = 0 ↔ w = 0) (s : State) : tmpWrite off v s = askSave (monCfgWritten m w v s) := by
  have hw' : (off % 8 == 0) = (w.val == 0) := by
    rw [Bool.eq_iff_iff, beq_iff_eq, beq_iff_eq, hw, Fin.ext_iff]
    rfl
  refine (if_pos hin).trans ?_
  simp only [hm, hw, hw']
  rfl

theorem tmpWrite_monCfg (m : Fin 23) (w : Fin 2) (v : Word) (s : State) :
    tmpWrite (0x100 + 8 * m.val + 4 * w.val) v s = askSave (monCfgWritten m.val w v s) := by
  obtain ⟨hm, -, hw, hin⟩ := monCfg_offset m w
  exact tmpWrite_setting hin hm hw s

theorem tamperConfig_refused (hact : MayAct s p 3 islCloak) (hbad : monBadValue m.val w.val v = true) :
    exec (.tamperConfigWrite p m w v) s = .next s := by
  obtain ⟨-, -, -, -, hnone⟩ := hact
  have hpl := place_monCfg m w
  refine rowWrite_refused (by rw [hpl]; exact hnone) ?_
  simp [State.canWrite, State.mayWrite, hpl, valueBad_monCfg, hbad]

theorem tamperConfig_audited (hact : MayAct s p 3 islCloak) (hok : monBadValue m.val w.val v = false)
    (hu : tmpWrite (0x100 + 8 * m.val + 4 * w.val) v s = u) (htb : u.tb = s.tb) :
    ∃ t, exec (.tamperConfigWrite p m w v) s = .next t ∧
      Audited p (0x1D0100 + 8 * m + 4 * w) (tmpRead s (0x100 + 8 * m.val + 4 * w.val)) v s u t := by
  obtain ⟨t, ht, haud⟩ := rowWrite_audited (v := v) (place_monCfg m w) hact rfl trivial (by omega) (fun _ => absentHalf_monCfg m w)
    (wrNeed_monCfg m w v).le (by rw [wrNeed_monCfg]; decide) ((valueBad_monCfg m w v s).trans hok) rfl (congrArg (Prod.mk false) hu)
    (congrArg Tb.idx htb) (congrArg Tb.epoch htb)
  exact ⟨t, ht, haud⟩

end Settings

theorem whenDo_modLoop_eq (b : Bool) (k : Nat) (f : Loop → Loop) (s : State) : whenDo b (fun s => s.modLoop k f) s =
    { s with tmp := { s.tmp with loop := (whenDo b (fun s => s.modLoop k f) s).tmp.loop } } := by
  cases b <;> rfl

theorem whenDo_modLoop_getLoop (b : Bool) (k i : Nat) (f : Loop → Loop) (s : State) :
    (whenDo b (fun s => s.modLoop k f) s).getLoop i = if b = true ∧ i = k then f (s.getLoop i) else s.getLoop i := by
  cases b
  · simp [whenDo]
  · by_cases h : i = k
    · subst h
      simp [whenDo]
    · simpa [whenDo, h] using State.getLoop_modLoop_ne _ _ _ _ h

/-- Settles O52, by the restored field for a mismatch, and by the checks of the write for a test and a setting. -/
theorem shadowsTestsAndMonitorSettings : Obligations.ShadowsTestsAndMonitorSettings := by
  refine ⟨fun f s => ⟨fun h => congrArg Host.Outcome.next (if_neg (by simp [h])), fun h => congrArg Host.Outcome.next (if_pos h), ?_⟩,
    fun p m s hact => ⟨fun hbad => ?_, fun hbad => ?_⟩, fun p m w v s hact => ⟨fun hbad => ?_, fun hbad => ?_⟩⟩
  · rintro c d1 (⟨rfl, hmain, rfl⟩ | ⟨rfl, hup, rfl⟩)
    · exact ⟨_, congrArg Host.Outcome.next (if_pos hmain), shadowFound_found true f hmain⟩
    · have hmain : s.pwr.mainOn = true := (Bool.and_eq_true_iff.1 (Bool.and_eq_true_iff.1 hup).1).1
      exact ⟨_, congrArg Host.Outcome.next (if_pos hup), shadowFound_found false f hmain⟩
  · exact tamperTest_audited hact (testGo_refused ((testRefused_iff _ _).2 hbad)) rfl
  · have hok : s.testRefused m.toNat = false := Bool.eq_false_iff.2 (fun h => hbad ((testRefused_iff _ _).1 h))
    obtain ⟨t, ht, haud⟩ := tamperTest_audited hact (testGo_runs hok) rfl
    refine ⟨t, _, ht, ?_, fun j hj => ?_, rfl, haud⟩
    · exact State.getMon_modMon _ _ _
    · exact State.getMon_modMon_ne _ _ _ _ hj
  · exact tamperConfig_refused hact ((monBadValue_iff m w v).2 hbad)
  · have hok : monBadValue m.val w.val v = false := Bool.eq_false_iff.2 (fun h => hbad ((monBadValue_iff m w v).1 h))
    have hloop := whenDo_modLoop_eq (loopArms m.val w.val v s) (m.val - 8) (fun l => { l with measure := true, prbs := 0 }) s
    have hget := fun i => whenDo_modLoop_getLoop (loopArms m.val w.val v s) (m.val - 8) i (fun l => { l with measure := true, prbs := 0 }) s
    have hu := tmpWrite_monCfg m w v s
    unfold monCfgWritten at hu
    generalize whenDo (loopArms m.val w.val v s) _ s = s₁ at hloop hget hu
    have hmon : ∀ j, s₁.getMon j = s.getMon j := fun j => by rw [hloop]; rfl
    obtain ⟨t, ht, haud⟩ := tamperConfig_audited hact hok hu (by rw [hloop]; rfl)
    rw [tmpRead_monCfg] at haud
    refine ⟨t, _, ht, ?_, fun j hj => ?_, fun i => ?_, ?_, haud⟩
    · exact (tget_tset_same _ _ _ _).trans (by rw [hmon])
    · exact (tget_tset_ne _ _ _ _ _ hj).trans (hmon j)
    · exact (hget i).trans (if_congr loopArms_iff.symm rfl rfl)
    · rw [hloop]
      rfl

end Sys2Proof.Machine
end

section
-- One proof after another: elaborated side by side they take more memory than the check allows.
set_option Elab.async false
/-! PROOF. The states of a port's receiver (O11). -/

namespace Sys2Proof.Machine

open Sys2Proof.Cert

variable {s : State} {k : Nat}

theorem State.modPort_modPort (s : State) (k : Nat) (f g : Port → Port) : (s.modPort k f).modPort k g = s.modPort k (fun p => g (f p)) := by
  have h := State.getPort_modPort s k f
  simp only [State.modPort] at h ⊢
  rw [h, tset_tset]

theorem portBecomes_modPort (k : Nat) (f : Port → Port) (s : State) : PortBecomes k (f (s.getPort k)) s (s.modPort k f) :=
  ⟨State.getPort_modPort _ _ _, fun _ hj => State.getPort_modPort_ne _ _ _ _ hj, rfl⟩

/-- A command of a port that serves. -/
theorem onLink_serves (h : PortServes s k) (f : State → State) : onLink (k / 2) s f = .next (f s) := by
  obtain ⟨hup, -, -⟩ := h
  exact congrArg Host.Outcome.next (if_pos hup)

/-! ## FRAME_LOCK is left (R79) -/

/-- A port that leaves FRAME_LOCK for `rx`. -/
def Port.unlocked (now : Nat) (rx : Rx) (p : Port) : Port :=
  { p with
    rx := rx, lockLost := true, lockAt := now, commaRun := 0, goodRun := 0, badRun := 0, arrSum := 0, arrCnt := 0
    restoreAt := none }

theorem leaveLock_eq (k : Nat) (rx : Rx) (s : State) :
    leaveLock k rx s = raise .lnkLockLost k [(8, s.now)] (s.modPort k (Port.unlocked s.now rx)) := rfl

/-- What leaving FRAME_LOCK after a change of the port does. -/
theorem leaveLock_modPort (k : Nat) (rx : Rx) (f : Port → Port) (s : State) : let t := leaveLock k rx (s.modPort k f)
    t.getPort k = (f (s.getPort k)).unlocked s.now rx ∧ (∀ j, j ≠ k → t.getPort j = s.getPort j) ∧
    LoggedIfRoom (ent .lnkLockLost s.now k [(8, s.tb.idx)] s) s t ∧ t = { s with port := t.port, log := t.log } := by
  have hlog := loggedIfRoom_raise .lnkLockLost k [(8, s.now)] (s.modPort k (fun p => (f p).unlocked s.now rx))
  have heq := raise_eq .lnkLockLost k [(8, s.now)] (s.modPort k (fun p => (f p).unlocked s.now rx))
  have hleave : leaveLock k rx (s.modPort k f) = raise .lnkLockLost k [(8, s.now)] (s.modPort k (fun p => (f p).unlocked s.now rx)) := by
    rw [leaveLock_eq, State.modPort_modPort]
    rfl
  rw [hleave]
  generalize raise .lnkLockLost k [(8, s.now)] (s.modPort k (fun p => (f p).unlocked s.now rx)) = t at hlog heq
  have hport : t.port = (s.modPort k (fun p => (f p).unlocked s.now rx)).port := by rw [heq]
  refine ⟨?_, fun j hj => ?_, hlog, by rw [hport]; exact heq⟩
  · rw [State.getPort, hport]
    exact State.getPort_modPort _ _ _
  · rw [State.getPort, hport]
    exact State.getPort_modPort_ne _ _ _ _ hj

/-- R79: the port after a bad frame period. -/
def Port.badFrame (p : Port) : Port :=
  { p with badRun := p.badRun + 1, expIdx := p.expIdx + 1, frameErr := satAdd 0xFFFF p.frameErr 1, restoreAt := none }

theorem badPeriod_eq (k : Nat) (s : State) : badPeriod k s = if 4 ≤ (s.getPort k).badRun + 1 then
    leaveLock k (if (s.getPort k).cdr then .bitLock else .down) (s.modPort k Port.badFrame) else s.modPort k Port.badFrame := rfl

theorem badPeriod_counted (k : Nat) (s : State) (hlock : (s.getPort k).rx = .frameLock) : let t := badPeriod k s
    (t.getPort k).frameErr = min 0xFFFF ((s.getPort k).frameErr + 1) ∧ (t.getPort k).expIdx = (s.getPort k).expIdx + 1 ∧
    ((s.getPort k).badRun < 3 → (t.getPort k).rx = .frameLock ∧ (t.getPort k).badRun = (s.getPort k).badRun + 1 ∧ t.log = s.log) ∧
    (3 ≤ (s.getPort k).badRun → (t.getPort k).rx = (if (s.getPort k).cdr then .bitLock else .down) ∧ (t.getPort k).lockLost = true ∧
      LoggedIfRoom (ent .lnkLockLost s.now k [(8, s.tb.idx)] s) s t) ∧
    (∀ j, j ≠ k → t.getPort j = s.getPort j) ∧ t = { s with port := t.port, log := t.log } := by
  rw [badPeriod_eq]
  split
  case isTrue hlast =>
    obtain ⟨hself, hne, hlog, hframe⟩ := leaveLock_modPort k (if (s.getPort k).cdr then .bitLock else .down) Port.badFrame s
    generalize leaveLock _ _ _ = t at hself hne hlog hframe
    intro t
    rw [hself]
    exact ⟨rfl, rfl, fun h => by omega, fun _ => ⟨rfl, rfl, hlog⟩, hne, hframe⟩
  case isFalse hmore =>
    obtain ⟨hself, hne, hframe⟩ := portBecomes_modPort k Port.badFrame s
    intro t
    rw [hself]
    exact ⟨rfl, rfl, fun _ => ⟨hlock, rfl, rfl⟩, fun h => by omega, hne, rfl⟩

/-! ## Retirement (R82, R501) -/

theorem unlockTicks_unlocked {k : Nat} (hlive : s.portLive k = true) (hrx : (s.getPort k).rx ≠ .frameLock) :
    s.unlockTicks k = min (s.tb.idx - (s.getPort k).lockAt) 0xFFFFF := by
  obtain ⟨hring, hretired⟩ := Bool.and_eq_true_iff.1 hlive
  refine if_neg ?_
  unfold portStateCode
  rw [if_neg (by simpa using ⟨by simpa using hretired, by simpa using hring⟩)]
  cases hx : (s.getPort k).rx with
  | frameLock => exact absurd hx hrx
  | _ => decide

/-- R501: a ring of whose ports one is not retired stays in service. -/
theorem retirePort_ring {r k j c : Nat} (hk : k = 2 * r ∧ j = 2 * r + 1 ∨ k = 2 * r + 1 ∧ j = 2 * r) (h : (s.getPort k).retired = false)
    (hj : (s.getPort j).retired = false) : (retirePort c k s).ring = s.ring := by
  have hr : k / 2 = r := by omega
  have hne : j ≠ k := by omega
  rw [retirePort_live h, hr, dropService, if_neg, raise_eq]
  · rfl
  · simp only [gets_raise]
    rcases hk with ⟨rfl, rfl⟩ | ⟨rfl, rfl⟩
    · simp [State.getPort_modPort_ne _ _ _ _ hne, hj]
    · simp [State.getPort_modPort_ne _ _ _ _ hne, hj]

/-- R82, R501: a port that has long been out of FRAME_LOCK is retired, and with the other one retired too its ring is out of service. -/
theorem retirePort_retires (k : Fin 64) (hlive : s.portLive k = true) (hrx : (s.getPort k).rx ≠ .frameLock) : let t := retirePort 0 k s
    t.getPort k = { s.getPort k with retired := true, rx := .down, signal := false, cdr := false, lastLooped := false } ∧
    (∀ j, j ≠ k.val → t.getPort j = s.getPort j) ∧
    Logged (ent .portRetired s.now k [(1, 0), (4, min (s.tb.idx - (s.getPort k).lockAt) 0xFFFFF)] s) t ∧
    (let other := if k.val % 2 = 0 then k.val + 1 else k.val - 1
     ((s.getPort other).retired = false → t.ring = s.ring) ∧
     ((s.getPort other).retired = true → (t.getRing (k / 2)).st = .train ∧ (t.getRing (k / 2)).runFrame = none)) ∧
    (∀ q, q ≠ k.val / 2 → t.getRing q = s.getRing q) ∧ t = { s with port := t.port, ring := t.ring, log := t.log } := by
  obtain ⟨hring, hretired⟩ := Bool.and_eq_true_iff.1 hlive
  have hlivePort : (s.getPort k).retired = false := by simpa using hretired
  have hlog : Logged (ent .portRetired s.now k [(1, 0), (4, s.unlockTicks k)] s) (raise .portRetired k [(1, 0), (4, s.unlockTicks k)]
      (s.modPort k Port.taken)) := logged_raise rfl _ _ _
  have hother : k.val = 2 * (k.val / 2) ∧ (if k.val % 2 = 0 then k.val + 1 else k.val - 1) = 2 * (k.val / 2) + 1 ∨
      k.val = 2 * (k.val / 2) + 1 ∧ (if k.val % 2 = 0 then k.val + 1 else k.val - 1) = 2 * (k.val / 2) := by split <;> omega
  refine ⟨?_, fun j hj => getPort_retirePort_ne hj _ _, ?_, ⟨fun ho => ?_, fun ho => ?_⟩, fun q hq => getRing_retirePort_ne hq _ _, ?_⟩
  · rw [retirePort_live hlivePort, getPort_dropService]
    simp only [gets_raise, State.getPort_modPort]
    rfl
  · rw [← unlockTicks_unlocked hlive hrx, retirePort_live hlivePort]
    exact Logged.dropService hlog
  · rw [retirePort_ring hother hlivePort ho]
  · have hring' := getRing_retirePort hother hlivePort 0
    rw [ho, if_pos rfl] at hring'
    rw [hring']
    exact ⟨if_neg (by simpa using hring), rfl⟩
  · exact State.eq_onto (m := { port := true, ring := true, log := true }) (by simp)

/-! ## The commands of a port that serves -/

section Serves

variable {k : Fin 64} (h : PortServes s k)

include h

theorem portSignalDetect_serves : exec (.portSignalDetect k) s = .next (if (s.getPort k).rx == .down then
    s.modPort k (fun p => { p with rx := .signal, signal := true }) else s) := by
  obtain ⟨-, hlive, hon⟩ := id h
  refine (onLink_serves h _ : execPortSignalDetect k s = _).trans ?_
  rw [hlive, hon]
  rfl

theorem clockRecoveryLocked_serves : exec (.clockRecoveryLocked k) s = .next (if (s.getPort k).rx == .signal then
    s.modPort k (fun p => { p with rx := .bitLock, cdr := true, commaRun := 0, lastArr := none }) else s) := by
  obtain ⟨-, hlive, hon⟩ := id h
  refine (onLink_serves h _ : execClockRecoveryLocked k s = _).trans ?_
  rw [hlive, hon]
  rfl

theorem portSignalLost_serves : exec (.portSignalLost k) s = .next (if (s.getPort k).rx == .frameLock then
    leaveLock k .down (s.modPort k (fun p => { p with signal := false, cdr := false, rx := .down }))
    else s.modPort k (fun p => { p with signal := false, cdr := false, rx := .down })) := by
  obtain ⟨-, hlive, hon⟩ := id h
  refine (onLink_serves h _ : execPortSignalLost k s = _).trans ?_
  rw [hlive, hon]
  rfl

theorem commaMissing_serves : exec (.commaMissing k) s = .next (noComma k s) := by
  obtain ⟨-, hlive, hon⟩ := id h
  refine (onLink_serves h _ : execCommaMissing k s = _).trans ?_
  rw [hlive, hon]
  rfl

theorem portRetire_serves (hrx : (s.getPort k).rx ≠ .frameLock) (hshed : (s.getRing (k / 2)).st ≠ .shed)
    (hlate : (s.getPort k).lockAt + 384000 < s.tb.idx) : exec (.portRetire k) s = .next (retirePort 0 k s) := by
  obtain ⟨-, hlive, -⟩ := id h
  refine (onLink_serves h _ : execPortRetire k s = _).trans (congrArg Host.Outcome.next (if_pos ?_))
  simp only [hlive, Bool.true_and, Bool.and_eq_true, bne_iff_ne, decide_eq_true_eq]
  exact ⟨⟨hrx, hshed⟩, hlate⟩

end Serves

theorem noComma_searching (hrx : (s.getPort k).rx = .bitLock ∨ (s.getPort k).rx = .charAlign) :
    noComma k s = s.modPort k (fun p => { p with commaRun := 0, goodRun := 0, lastArr := none }) := by
  unfold noComma
  rcases hrx with hrx | hrx <;> rw [hrx]

/-- Settles O11, by the port's state for each of the five commands. -/
theorem portReceiverStates : Obligations.PortReceiverStates := by
  refine ⟨fun k s h hrx => ?_, fun k s h hrx => ?_, fun k s h hrx => ?_, fun k s h hrx => ?_,
    fun k s h hrx => ⟨badPeriod k s, ?_, badPeriod_counted k s hrx⟩, fun k s h hrx => ?_,
    fun k s h hshed hrx hlate => ⟨_, portRetire_serves h hrx hshed hlate, retirePort_retires k h.2.1 hrx⟩⟩
  · exact ⟨_, (portSignalDetect_serves h).trans (congrArg Host.Outcome.next (if_pos (by simp [hrx]))), portBecomes_modPort _ _ _⟩
  · exact ⟨_, (clockRecoveryLocked_serves h).trans (congrArg Host.Outcome.next (if_pos (by simp [hrx]))), portBecomes_modPort _ _ _⟩
  · exact ⟨_, (portSignalLost_serves h).trans (congrArg Host.Outcome.next (if_neg (by simpa using hrx))), portBecomes_modPort _ _ _⟩
  · obtain ⟨hself, hne, hlog, hframe⟩ := leaveLock_modPort k .down (fun p => { p with signal := false, cdr := false, rx := .down }) s
    have hexec := portSignalLost_serves h
    rw [if_pos (by simp [hrx])] at hexec
    refine ⟨_, hexec, ?_, ?_, ?_, hne, hlog, hframe⟩
    all_goals
      rw [hself]
      rfl
  · rw [commaMissing_serves h, noComma, hrx]
  · exact ⟨_, (commaMissing_serves h).trans (congrArg Host.Outcome.next (noComma_searching hrx)), portBecomes_modPort _ _ _⟩

end Sys2Proof.Machine
end

section
-- One proof after another: elaborated side by side they take more memory than the check allows.
set_option Elab.async false
/-! PROOF. Retired streams, the steward's restart, faults of tally units (O34). -/

namespace Sys2Proof.Machine

open Sys2Proof.Cert

variable {s : State}

/-! ## A retired stream (R293, R349) -/

/-- What ending an outing leaves of head j: its state and the retirements of its streams. -/
def State.streams (s : State) (j : Nat) : HeadSt × Bool × Bool := ((s.getHead j).st, (s.getHead j).retP, (s.getHead j).retA)

theorem streams_congr {s t : State} (h : t.head = s.head) (j : Nat) : t.streams j = s.streams j := by
  simp only [State.streams, State.getHead, h]

theorem streams_modHead {k : Nat} {f : Head → Head} (hst : (f (s.getHead k)).st = (s.getHead k).st)
    (hretP : (f (s.getHead k)).retP = (s.getHead k).retP) (hretA : (f (s.getHead k)).retA = (s.getHead k).retA) (j : Nat) :
    (s.modHead k f).streams j = s.streams j := by
  by_cases hj : j = k
  · subst hj
    simp only [State.streams, State.getHead_modHead, hst, hretP, hretA]
  · simp only [State.streams, State.getHead_modHead_ne _ _ _ _ hj]

theorem withdraw_streams (h j : Nat) (d : Bool) (s : State) : (withdraw h d s).streams j = s.streams j := streams_modHead rfl rfl rfl j

theorem endOuting_streams (i r j : Nat) (s : State) : (endOuting i r s).streams j = s.streams j := by
  unfold endOuting
  extract_lets q s₁ s₂ s₃ s₄
  have h₁ : s₁.streams j = s.streams j :=
    whenDo_keeps (fun u => u.streams j = s.streams j) (fun u hu => (withdraw_streams _ _ _ u).trans hu) _ rfl
  have h₄ : s₄.outside { lc := true, cal := true, log := true } = s₁.outside { lc := true, cal := true, log := true } := by
    simp only [s₄, s₃, s₂]
    split <;> simp
  have h₅ : (irqAll irqCal s₄).outside { host := true } = s₄.outside { host := true } := by simp
  exact (streams_congr ((State.head_eq rfl h₅).trans (State.head_eq rfl h₄)) j).trans h₁

theorem endOutings_streams (kind r : Nat) (d : Bool) (idx j : Nat) (s : State) : (endOutings kind r d idx s).streams j = s.streams j := by
  unfold endOutings
  split
  · rfl
  · exact endOuting_streams _ _ _ _

theorem Logged.endOutings {e : LogEnt} {kind r idx : Nat} {d : Bool} (h : Logged e s) : Logged e (endOutings kind r d idx s) := by
  unfold Machine.endOutings
  split
  · exact h
  · exact Logged.endOuting h

theorem retireStream_streams (h c : Nat) (d : Bool) (s : State) :
    (retireStream h d c s).streams h = ((s.getHead h).st, (s.getHead h).retP || !d, (s.getHead h).retA || d) ∧
    ∀ j, j ≠ h → (retireStream h d c s).streams j = s.streams j := by
  unfold retireStream
  extract_lets n s₁
  have h₁ : ∀ j, s₁.streams j = (s.modHead h (fun x => if d then { x with retA := true, fromA := n } else
      { x with retP := true, fromP := n })).streams j := streams_congr (State.head_eq (m := { log := true }) rfl (by simp [s₁]))
  refine ⟨?_, fun j hj => ?_⟩
  · rw [endOutings_streams]
    refine (h₁ h).trans ?_
    cases d <;> simp [State.streams]
  · rw [endOutings_streams]
    refine (h₁ j).trans ?_
    simp only [State.streams, State.getHead_modHead_ne _ _ _ _ hj]

theorem retireStream_logged (h : Fin 4096) (d : Bool) (s : State) :
    Logged (ent .streamRetired s.now h [(1, if d then 1 else 0), (1, 0)] s) (retireStream h d 0 s) := by
  have hlog := logged_raise (c := .streamRetired) rfl h [(1, b2n d), (1, 0)] (s.modHead h (fun x =>
    if d then { x with retA := true, fromA := s.nextIdx (h / 128) } else { x with retP := true, fromP := s.nextIdx (h / 128) }))
  exact Logged.endOutings (logged_congr rfl hlog)

theorem streamAbsentRetire_eq (h : Fin 4096) (d : Det) (hup : s.stewUp = true) : exec (.streamAbsentRetire h d) s =
    .next (if (if d then (s.getHead h).retA else (s.getHead h).retP) = false ∧ 1152000 < (if d then (s.getHead h).absA else (s.getHead h).absP)
      then retireStream h d 0 s else s) := by
  refine (congrArg Host.Outcome.next (if_pos hup) : execStreamAbsentRetire h d s = _).trans (congrArg Host.Outcome.next ?_)
  cases d <;> simp

/-! ## Replays of tally units (R193, R308) -/

theorem reloadCtx_kept (c j : Nat) (s : State) : ((reloadCtx c s).getCtx j).acc = (s.getCtx j).acc ∧
    ((reloadCtx c s).getCtx j).k = (s.getCtx j).k ∧ (j ≠ c → (reloadCtx c s).getCtx j = s.getCtx j) := by
  unfold reloadCtx
  split
  · exact ⟨rfl, rfl, fun _ => rfl⟩
  next gi _ =>
    extract_lets f
    by_cases hj : j = c
    · subst hj
      rw [State.getCtx_modCtx]
      exact ⟨rfl, rfl, fun h => absurd rfl h⟩
    · rw [State.getCtx_modCtx_ne _ _ _ _ hj]
      exact ⟨rfl, rfl, fun _ => rfl⟩

theorem reloadCtx_units (c : Nat) (s : State) : (reloadCtx c s).tally.unit = s.tally.unit ∧ (reloadCtx c s).tally.unitOf = s.tally.unitOf := by
  unfold reloadCtx
  split <;> exact ⟨rfl, rfl⟩

theorem reloadAll_kept (l : List Nat) (s : State) : let t := each l (fun s c => reloadCtx c s) s
    t.tally.unit = s.tally.unit ∧ t.tally.unitOf = s.tally.unitOf ∧ (∀ j, (t.getCtx j).acc = (s.getCtx j).acc ∧ (t.getCtx j).k = (s.getCtx j).k) ∧
    ∀ j, j ∉ l → t.getCtx j = s.getCtx j := by
  refine ⟨each_same (f := fun s c => reloadCtx c s) (fun u => u.tally.unit) (fun u c => (reloadCtx_units c u).1) _ _,
    each_same (f := fun s c => reloadCtx c s) (fun u => u.tally.unitOf) (fun u c => (reloadCtx_units c u).2) _ _, fun j => ⟨?_, ?_⟩, fun j hj => ?_⟩
  · exact each_same (f := fun s c => reloadCtx c s) (fun u => (u.getCtx j).acc) (fun u c => (reloadCtx_kept c j u).1) _ _
  · exact each_same (f := fun s c => reloadCtx c s) (fun u => (u.getCtx j).k) (fun u c => (reloadCtx_kept c j u).2.1) _ _
  · exact each_view (inv := fun _ => True) (fun u => u.getCtx j) (fun _ _ h => h)
      (fun u c hc _ => (reloadCtx_kept c j u).2.2 (fun h => hj (h ▸ hc))) trivial

/-- A replay begun, before the contexts are reloaded. -/
def replayBegun (u since : Nat) (s : State) : State :=
  ((s.modUnit u (fun x => { x with replay := some since })).modTallyIsl (fun y => { y with replayAt := max y.replayAt since })).modRedIsl
    (fun r => { r with tReplays := tmod 0 r.tReplays u (fun n => satAdd 0xFF n 1) })

theorem startReplay_eq (u since : Nat) (s : State) : startReplay u since s =
    each ((replayBegun u since s).unitCtxs u) (fun s c => reloadCtx c s) (replayBegun u since s) := rfl

/-- R193, R308: a replay reloads the contexts that its unit serves, and changes no accumulator. -/
theorem startReplay_started (u since : Nat) (s : State) : let t := startReplay u since s
    t.getUnit u = { s.getUnit u with replay := some since } ∧ (∀ j, j ≠ u → t.getUnit j = s.getUnit j) ∧
    t.tally.unitOf = s.tally.unitOf ∧ (∀ c, (t.getCtx c).acc = (s.getCtx c).acc ∧ (t.getCtx c).k = (s.getCtx c).k) ∧
    (∀ c, s.unitFor c ≠ u → t.getCtx c = s.getCtx c) ∧ t = { s with tally := t.tally, red := t.red } := by
  have hframe : startReplay u since s = { s with tally := (startReplay u since s).tally, red := (startReplay u since s).red } :=
    State.eq_onto (m := { tally := true, red := true }) (by simp)
  rw [startReplay_eq] at hframe ⊢
  have hunit : (replayBegun u since s).tally.unit = (s.modUnit u (fun x => { x with replay := some since })).tally.unit := rfl
  have hctx : ∀ c, (replayBegun u since s).getCtx c = s.getCtx c := fun _ => rfl
  have hmem : ∀ c, s.unitFor c ≠ u → c ∉ (replayBegun u since s).unitCtxs u := by
    intro c hc hmem
    exact hc (by simpa using (Bool.and_eq_true_iff.1 (List.mem_filter.1 hmem).2).1 :)
  have hof : (replayBegun u since s).tally.unitOf = s.tally.unitOf := rfl
  obtain ⟨hu, ho, hk, hc⟩ := reloadAll_kept ((replayBegun u since s).unitCtxs u) (replayBegun u since s)
  refine ⟨?_, fun j hj => ?_, ho.trans hof, fun c => by rw [(hk c).1, (hk c).2, hctx]; exact ⟨rfl, rfl⟩, fun c h => (hc c (hmem c h)).trans (hctx c),
    hframe⟩
  · rw [State.getUnit, hu, hunit]
    exact State.getUnit_modUnit _ _ _
  · rw [State.getUnit, hu, hunit]
    exact State.getUnit_modUnit_ne _ _ _ _ hj

/-! ## Faults of tally units (R293, R304) -/

section TallyFault

variable {u : Fin 9}

/-- The unit of a fault, which is counted. -/
def Unit'.faulted (now : Nat) (x : Unit') : Unit' := { x with faults := addFault now x.faults, transients := x.transients + 1 }

/-- A tally unit's fault, counted. -/
def unitFaulted (u : Nat) (s : State) : State :=
  (s.modUnit u (Unit'.faulted s.now)).modRedIsl (fun r => { r with tFaults := tmod 0 r.tFaults u (fun n => satAdd 0xFF n 1) })

theorem tallyFault_eq (hup : s.up islTally = true) (hlive : (s.getUnit u).retired = false) (hblocks : s.unitBlocks u ≠ []) :
    exec (.tallyFault u) s = .next (if 3 ≤ (addFault s.now (s.getUnit u).faults).length then
      retireUnit u ((s.getUnit u).replay.getD s.tb.idx) (unitFaulted u s)
      else startReplay u ((s.getUnit u).replay.getD s.tb.idx) (unitFaulted u s)) := by
  have hsome : (s.unitBlocks u).isEmpty = false := by simpa using hblocks
  refine (onIsl_up hup : execTallyFault u s = _).trans (congrArg Host.Outcome.next ((if_neg (by simp [hlive])).trans ?_))
  refine if_congr Iff.rfl rfl (if_neg ?_)
  exact fun h => Bool.false_ne_true (hsome.symm.trans h)

theorem unitFaulted_self (u : Nat) (s : State) : (unitFaulted u s).getUnit u = (s.getUnit u).faulted s.now :=
  tget_tset_same _ _ _ _

theorem unitFaulted_ne {u j : Nat} (h : j ≠ u) (s : State) : (unitFaulted u s).getUnit j = s.getUnit j :=
  tget_tset_ne _ _ _ _ _ h

theorem unitFaulted_spares (u : Nat) (s : State) : (unitFaulted u s).spareUnits = s.spareUnits := by
  refine List.filter_congr (fun j _ => ?_)
  have hretired : ((unitFaulted u s).getUnit j).retired = (s.getUnit j).retired := by
    by_cases hj : j = u
    · subst hj
      rw [unitFaulted_self]
      rfl
    · rw [unitFaulted_ne hj]
  rw [hretired]
  rfl

/-- R293, R304: unit u retired, its blocks with unit v. -/
def unitMoved (u v : Nat) (s : State) : State :=
  (s.modUnit u (fun x => { x with retired := true, replay := none })).modTallyIsl (fun y =>
    { y with unitOf := y.unitOf.map (fun e => if e.2 = u then (e.1, v) else e) })

theorem unitMoved_modRedIsl (u v : Nat) (f : Red → Red) (s : State) :
    unitMoved u v (s.modRedIsl f) = { s with tally := (unitMoved u v s).tally, red := f s.red } := rfl

theorem retireUnit_spare {u v since : Nat} (hblocks : s.unitBlocks u ≠ []) (hv : (s.spareUnits.filter (fun w => w != u)).head? = some v) :
    retireUnit u since s = startReplay v since (raise .tallyRetired u [(1, 0), (1, v)] (unitMoved u v s)) := by
  obtain ⟨b, bs, hb⟩ := List.exists_cons_of_ne_nil hblocks
  simp only [retireUnit, hb, hv]
  rfl

theorem retireUnit_none {u since : Nat} (hblocks : s.unitBlocks u ≠ []) (hv : s.spareUnits.filter (fun w => w != u) = []) :
    retireUnit u since s = raise .tallyRetired u [(1, 0), (1, 0xFF)] (unitMoved u 15 (s.modRedIsl (fun r => { r with noSpare := true }))) := by
  obtain ⟨b, bs, hb⟩ := List.exists_cons_of_ne_nil hblocks
  simp only [retireUnit, hb, hv, List.head?_nil]
  rfl

end TallyFault

/-- Settles O34, by the streams that ending an outing leaves, and by what a replay reloads. -/
theorem streamsStewardAndTallyFaults : Obligations.StreamsStewardAndTallyFaults := by
  refine ⟨⟨fun h d s hup => ⟨fun hno => ?_, fun hret habs => ?_⟩, fun s hup => ⟨fun hdown => ?_, (onIsl_up hup : execStewardRestartComplete s = _)⟩⟩,
    fun u s hup hlive hblocks => ⟨fun hfew => ?_, fun v hmany hspare => ?_, fun hmany hspare => ?_⟩⟩
  · rw [streamAbsentRetire_eq h d hup, if_neg]
    rintro ⟨hret, habs⟩
    exact hno.elim (fun hr => by rw [hr] at hret; cases hret) (fun hle => Nat.not_lt.2 hle habs)
  · obtain ⟨hself, hne⟩ := retireStream_streams h 0 d s
    have hexec := streamAbsentRetire_eq h d hup
    rw [if_pos ⟨hret, habs⟩] at hexec
    refine ⟨_, hexec, congrArg (fun x => x.2.2) hself, congrArg (fun x => x.2.1) hself, congrArg (fun x => x.1) hself,
      fun j hj => ⟨congrArg (fun x => x.2.1) (hne j hj), congrArg (fun x => x.2.2) (hne j hj)⟩, retireStream_logged h d s, ?_⟩
    exact State.eq_onto (m := { head := true, red := true, lc := true, cal := true, host := true, log := true }) (by simp)
  · refine ⟨_, (onIsl_up hup : execStewardRestart s = _).trans (congrArg Host.Outcome.next (if_neg (by simp [hdown]))), ?_, ?_⟩
    · exact logged_raise rfl _ _ _
    · rw [raise_eq]
      rfl
  · have hexec := tallyFault_eq hup hlive hblocks
    rw [if_neg (Nat.not_le.2 hfew)] at hexec
    obtain ⟨hself, hne, hof, hkept, hother, hframe⟩ := startReplay_started u ((s.getUnit u).replay.getD s.tb.idx) (unitFaulted u s)
    refine ⟨_, hexec, ?_, fun j hj => (hne j hj).trans (unitFaulted_ne hj s), hof, hkept, hother, hframe⟩
    rw [hself, unitFaulted_self]
    rfl
  · have hexec := tallyFault_eq hup hlive hblocks
    have hne : v ≠ u.val := by simpa using (List.mem_filter.1 (List.mem_of_mem_head? (Option.mem_def.2 hspare))).2
    rw [if_pos hmany, retireUnit_spare (s := unitFaulted u s) (v := v) hblocks (by rw [unitFaulted_spares]; exact hspare)] at hexec
    have heq := raise_eq .tallyRetired u [(1, 0), (1, v)] (unitMoved u v (unitFaulted u s))
    have hlog := logged_raise (c := .tallyRetired) rfl u [(1, 0), (1, v)] (unitMoved u v (unitFaulted u s))
    generalize raise .tallyRetired u [(1, 0), (1, v)] (unitMoved u v (unitFaulted u s)) = s₁ at hexec heq hlog
    obtain ⟨hself, hunits, hof, hkept, -, hframe⟩ := startReplay_started v ((s.getUnit u).replay.getD s.tb.idx) s₁
    have htally : s₁.tally = (unitMoved u v (unitFaulted u s)).tally := by rw [heq]
    have hu : (startReplay v ((s.getUnit u).replay.getD s.tb.idx) s₁).getUnit u =
        { (unitFaulted u s).getUnit u with retired := true, replay := none } := by
      rw [hunits u (Ne.symm hne), State.getUnit, htally]
      exact tget_tset_same _ _ _ _
    generalize startReplay v _ s₁ = t at hexec hself hof hkept hframe hu
    refine ⟨t, hexec, by rw [hu], by rw [hu], by rw [hself], hof.trans (by rw [htally]; rfl), fun c => ?_, ?_, ?_⟩
    · rw [(hkept c).1, (hkept c).2, State.getCtx, htally]
      exact ⟨rfl, rfl⟩
    · exact logged_congr (by rw [hframe]) hlog
    · rw [hframe, heq]
      rfl
  · have hexec := tallyFault_eq hup hlive hblocks
    rw [if_pos hmany, retireUnit_none (s := unitFaulted u s) hblocks (by rw [unitFaulted_spares]; exact hspare)] at hexec
    have heq := raise_eq .tallyRetired u [(1, 0), (1, 0xFF)] (unitMoved u 15 ((unitFaulted u s).modRedIsl (fun r => { r with noSpare := true })))
    have hlog := logged_raise (c := .tallyRetired) rfl u [(1, 0), (1, 0xFF)]
      (unitMoved u 15 ((unitFaulted u s).modRedIsl (fun r => { r with noSpare := true })))
    generalize raise .tallyRetired u _ _ = t at hexec heq hlog
    rw [unitMoved_modRedIsl] at heq hlog
    have htally : t.tally = (unitMoved u 15 (unitFaulted u s)).tally := by rw [heq]
    have hred : t.red = { (unitFaulted u s).red with noSpare := true } := by rw [heq]
    refine ⟨t, hexec, ?_, by rw [hred], by rw [htally]; rfl, by rw [htally]; rfl, hlog, by rw [htally, hred]; exact heq⟩
    rw [State.getUnit, htally]
    exact congrArg Unit'.retired (tget_tset_same _ _ _ _)

end Sys2Proof.Machine
end

section
-- One proof after another: elaborated side by side they take more memory than the check allows.
set_option Elab.async false
/-! PROOF. The power of a gallery, and its scrub (O41). -/

namespace Sys2Proof.Machine

open Sys2Proof.Cert

variable {s : State}

/-! ## Uncorrectable words (R362) -/

/-- R362: a gallery whose word at an offset has been found uncorrectable. -/
def Gal.foundBad (x : Gal) (off : Nat) : Gal :=
  { x with uncorr := satAdd 0xFFFF x.uncorr 1, last := off, bad := off :: x.bad.filter (fun a => a != off) }

theorem galUncorr_getGal (g off : Nat) (s : State) : (galUncorr g off s).getGal g = ((s.getGal g).foundBad off) := by
  simp only [galUncorr, gets_raise, State.getGal_modGal]
  rfl

theorem galUncorr_getGal_ne {g j : Nat} (h : j ≠ g) (off : Nat) (s : State) : (galUncorr g off s).getGal j = s.getGal j := by
  simp only [galUncorr, gets_raise, State.getGal_modGal_ne _ _ _ _ h]

theorem galUncorr_eq (g off : Nat) (s : State) :
    galUncorr g off s = { s with gal := (galUncorr g off s).gal, log := (galUncorr g off s).log } := by
  unfold galUncorr
  rw [raise_eq]
  rfl

theorem galUncorrs_getGal (g : Nat) (l : List Nat) (s : State) :
    (each l (fun s off => galUncorr g off s) s).getGal g = l.foldl Gal.foundBad (s.getGal g) := by
  induction l generalizing s with
  | nil => rfl
  | cons off l ih => rw [each_cons, ih, galUncorr_getGal, List.foldl_cons]

theorem galUncorrs_getGal_ne {g j : Nat} (h : j ≠ g) (l : List Nat) (s : State) :
    (each l (fun s off => galUncorr g off s) s).getGal j = s.getGal j :=
  each_same (f := fun s off => galUncorr g off s) (fun u => u.getGal j) (fun u off => galUncorr_getGal_ne h off u) l s

theorem galUncorrs_eq (g : Nat) (l : List Nat) (s : State) : each l (fun s off => galUncorr g off s) s =
    { s with gal := (each l (fun s off => galUncorr g off s) s).gal, log := (each l (fun s off => galUncorr g off s) s).log } :=
  State.eq_onto (m := { gal := true, log := true })
    (each_same (f := fun s off => galUncorr g off s) (fun u => u.outside { gal := true, log := true }) (fun u off => by rw [galUncorr_eq]; rfl) l s)

theorem galUncorrs_logged {g : Nat} {l : List Nat} (hl : l ≠ []) (s : State) :
    LoggedIfRoom (ent .galUncorr s.now g [] s) s (each l (fun s off => galUncorr g off s) s) := by
  obtain ⟨off, l, rfl⟩ := List.exists_cons_of_ne_nil hl
  intro hroom
  rw [each_cons]
  refine Logged.each (f := fun s off => galUncorr g off s) (fun u off hu => Logged.raise (logged_congr rfl hu)) l ?_
  exact loggedIfRoom_raise .galUncorr g [] (s.modGal g (fun x => x.foundBad off)) hroom

/-- A gallery in which several words have been found uncorrectable. -/
theorem foundBad_foldl (l : List Nat) (x : Gal) : l.foldl Gal.foundBad x = { x with
    uncorr := if l = [] then x.uncorr else min 0xFFFF (x.uncorr + l.length), last := l.getLast?.getD x.last
    bad := l.foldl (fun b d => d :: b.filter (fun a => a != d)) x.bad } := by
  induction l generalizing x with
  | nil => rfl
  | cons off l ih =>
    rw [List.foldl_cons, ih]
    cases l with
    | nil => rfl
    | cons b l =>
      have hmin : min 0xFFFF (min 0xFFFF (x.uncorr + 1) + (l.length + 1)) = min 0xFFFF (x.uncorr + (l.length + 1 + 1)) := by omega
      simp [Gal.foundBad, satAdd, hmin, List.getLast?_cons]

/-- R363: a scrub in its turn. -/
theorem galleryScrub_scrubs {g : Fin 8} {n : Nat} {ds : List Nat} (hstew : s.stewUp = true) (hup : s.up islGal = true)
    (hon : (s.getGal g).power = .on) (hturn : ∀ a, (s.getGal g).scrubAt = some a → a + 3840000 ≤ s.now) (hds : ∀ d ∈ ds, d < galSize g) :
    exec (.galleryScrub g n ds) s = .next (each ds (fun s off => galUncorr g off s)
      (s.modGal g (fun x => { x with corrected := satAdd 0xFFFFFFFF x.corrected n, scrubAt := some s.now }))) := by
  have hover : periodOver 3840000 s.now (s.getGal g).scrubAt = true := by
    cases ha : (s.getGal g).scrubAt with
    | none => rfl
    | some a => exact decide_eq_true (hturn a ha)
  have hall : ds.filter (fun off => decide (off < galSize g)) = ds := List.filter_eq_self.2 (fun d hd => decide_eq_true (hds d hd))
  refine (congrArg Host.Outcome.next (if_pos hstew) : execGalleryScrub g n ds s = _).trans (congrArg Host.Outcome.next ((if_pos ?_).trans ?_))
  · simp [hup, hon, hover]
  · rw [hall]

theorem galleryScrub_waits {g : Fin 8} {n : Nat} {ds : List Nat} (hstew : s.stewUp = true) (h : s.up islGal = false ∨
    (s.getGal g).power ≠ .on ∨ ∃ a, (s.getGal g).scrubAt = some a ∧ s.now < a + 3840000) : exec (.galleryScrub g n ds) s = .next s := by
  refine (congrArg Host.Outcome.next (if_pos hstew) : execGalleryScrub g n ds s = _).trans (congrArg Host.Outcome.next (if_neg ?_))
  rcases h with h | h | ⟨a, ha, hlt⟩
  · simp [h]
  · simp [h]
  · simp [periodOver, ha, Nat.not_le.2 hlt]

/-! ## Power (R360, R361) -/

theorem galDemand_owned {g : Nat} (hshed : (s.getGal g).shed = false) (h : s.galOwner g = true) : s.galDemand g = .on := by
  simp [State.galDemand, hshed, h]

theorem galDemand_asked {g : Nat} (hshed : (s.getGal g).shed = false) (h : s.galOwner g = false) : s.galDemand g = reqPower (s.getGal g).req := by
  simp [State.galDemand, hshed, h]

theorem reqPower_eq (v : Nat) : reqPower v = if v = 3 then .on else if v = 2 then .retain else .off := by
  unfold reqPower
  split
  case h_3 h2 h3 => rw [if_neg h3, if_neg h2]
  all_goals rfl

theorem galDemand_eq (g : Nat) (s : State) : s.galDemand g = if (s.getGal g).shed then .retain else if s.galOwner g then .on
    else if (s.getGal g).req = 3 then .on else if (s.getGal g).req = 2 then .retain else .off := by
  unfold State.galDemand
  rw [reqPower_eq]

theorem galFollow_clearing {x : Gal} (d : GalPower) (h : x.power = .clearing) : galFollow d x = x := by
  unfold galFollow
  rw [h]

theorem galFollow_wakes {x : Gal} {d : GalPower} (h : x.power = .off) (hd : d ≠ .off) : galFollow d x = { x.lose with power := .clearing } := by
  unfold galFollow
  rw [h]
  cases d with
  | off => exact absurd rfl hd
  | _ => rfl

theorem galFollow_off (x : Gal) (h : x.power ≠ .clearing) : (galFollow .off x).power = .off ∧ (x.power ≠ .off → (galFollow .off x).mem = []) := by
  unfold galFollow
  cases hx : x.power with
  | clearing => exact absurd hx h
  | off => exact ⟨hx, fun h => absurd rfl h⟩
  | _ => exact ⟨rfl, fun _ => rfl⟩

/-- R360: a gallery that holds its contents and whose owner or request demands ON. -/
theorem galFollow_on {x : Gal} (h : x.power ≠ .clearing) (hoff : x.power ≠ .off) :
    (galFollow .on x).power = .on ∧ (galFollow .on x).mem = x.mem := by
  unfold galFollow
  cases hx : x.power with
  | clearing => exact absurd hx h
  | off => exact absurd hx hoff
  | _ => exact ⟨rfl, rfl⟩

theorem galFollow_retain {x : Gal} (h : x.power ≠ .clearing) (hoff : x.power ≠ .off) : (galFollow .retain x).mem = x.mem ∧
    (galFollow .retain x).power = if x.power = .on ∧ x.woken = true then .on else .retain := by
  unfold galFollow
  cases hx : x.power with
  | clearing => exact absurd hx h
  | off => exact absurd hx hoff
  | retain => exact ⟨rfl, rfl⟩
  | on =>
    cases hw : x.woken with
    | true => exact ⟨rfl, hx⟩
    | false => exact ⟨rfl, rfl⟩

theorem galFollow_kept (d : GalPower) (x : Gal) : (galFollow d x).req = x.req := by
  unfold galFollow
  split
  case h_5 => split <;> rfl
  all_goals rfl

/-! ## GAL_PWR (R371) -/

theorem place_galPwr (g : Fin 8) : place (0x810 + 4 * g.val) = .gal (0x810 + 4 * g.val) := by
  revert g
  decide

theorem absentHalf_galPwr (g : Fin 8) : absentHalf (0x810 + 4 * g.val) = false := by
  revert g
  decide

theorem galPwr_offset (g : Fin 8) : (decide (0x810 ≤ 0x810 + 4 * g.val) && decide (0x810 + 4 * g.val < 0x830)) = true ∧
    (0x810 + 4 * g.val - 0x810) / 4 = g.val := by
  revert g
  decide

theorem galRegWrite_pwr (g : Fin 8) (p : Nat) (v : Word) (s : State) : galRegWrite p (0x810 + 4 * g.val) v s =
    galSettle g (s.modGal g (fun x => { x with req := v.toNat % 4 })) := by
  obtain ⟨hin, hg⟩ := galPwr_offset g
  have hreq : bits v 1 0 = v.toNat % 4 := by simp [bits]
  refine (if_neg (by omega)).trans ((if_pos hin).trans ?_)
  rw [hg, hreq]

theorem galPwrWrite_audited {p : Fin 4} {g : Fin 8} {v : Word} {u : State} (hact : MayAct s p 2 islHost)
    (hu : galSettle g (s.modGal g (fun x => { x with req := v.toNat % 4 })) = u) (htb : u.tb = s.tb) :
    ∃ t, exec (.galPwrWrite p g v) s = .next t ∧ Audited p (0x810 + 4 * g) (galRegRead s p (0x810 + 4 * g)) v s u t := by
  have hneed : wrNeed (.gal (0x810 + 4 * g.val)) v = 2 := if_pos (galPwr_offset g).1
  obtain ⟨t, ht, haud⟩ := rowWrite_audited (v := v) (place_galPwr g) hact rfl trivial (by omega) (fun _ => absentHalf_galPwr g)
    hneed.le hneed.ge rfl rfl (congrArg (Prod.mk false) ((galRegWrite_pwr g p v s).trans hu)) (congrArg Tb.idx htb) (congrArg Tb.epoch htb)
  exact ⟨t, ht, haud⟩

/-! ## A segment copied (R362, R367) -/

theorem foundBad_mem (l : List Nat) (x : Gal) : (l.foldl Gal.foundBad x).mem = x.mem ∧ (l.foldl Gal.foundBad x).power = x.power := by
  rw [foundBad_foldl]
  exact ⟨rfl, rfl⟩

theorem readRange_none {g a n : Nat} (h : s.badWords g a n = []) : readRange g a n s = s := by
  unfold readRange
  rw [h, each_nil]

theorem readRange_eq (g a n : Nat) (s : State) :
    readRange g a n s = { s with gal := (readRange g a n s).gal, log := (readRange g a n s).log } := galUncorrs_eq _ _ _

theorem readRange_mem (g a n j : Nat) (s : State) : ((readRange g a n s).getGal j).mem = (s.getGal j).mem := by
  by_cases hj : j = g
  · subst hj
    exact (congrArg Gal.mem (galUncorrs_getGal _ _ _)).trans (foundBad_mem _ _).1
  · exact congrArg Gal.mem (galUncorrs_getGal_ne hj _ _)

theorem readRange_ne {g j : Nat} (h : j ≠ g) (a n : Nat) (s : State) : (readRange g a n s).getGal j = s.getGal j :=
  galUncorrs_getGal_ne h _ _

section Copy

variable {g g' : Nat} (a a' : Nat) (s : State)

theorem segCopy_dst (hne : g' ≠ g) : (segCopy g a g' a' s).getGal g' = { s.getGal g' with
    mem := mfill galDefault (s.getGal g').mem a' (mslice galDefault (s.getGal g).mem a 65536)
    bad := (s.badWords g a 65536).map (fun x => x - a + a') ++
      (s.getGal g').bad.filter (fun y => decide (y < a') || decide (a' + 65536 ≤ y)) } := by
  unfold segCopy
  rw [State.getGal_modGal, readRange_ne hne]

theorem segCopy_ne {j : Nat} (hj : j ≠ g') : (segCopy g a g' a' s).getGal j = (readRange g a 65536 s).getGal j :=
  State.getGal_modGal_ne _ _ _ _ hj

theorem segCopy_eq : segCopy g a g' a' s =
    { s with gal := (segCopy g a g' a' s).gal, log := (readRange g a 65536 s).log } := by
  have h : segCopy g a g' a' s = { readRange g a 65536 s with gal := (segCopy g a g' a' s).gal } := rfl
  refine h.trans ?_
  rw [readRange_eq]

end Copy

/-! ## The end of CLEARING -/

/-- The end of CLEARING for gallery g, before what it brings. -/
def galCleared (g : Nat) (s : State) : State := s.modGal g (fun x => { x with power := s.galDemand g, lastAccess := s.now })

theorem galleryClearDone_clears {g : Fin 8} (hup : s.up islGal = true) (h : (s.getGal g).power = .clearing) : exec (.galleryClearDone g) s =
    .next (whenDo (g.val == 7 && (galCleared g s).segTested) segShadow (galCleared g s)) :=
  (onIsl_up hup : execGalleryClearDone g s = _).trans (congrArg Host.Outcome.next (if_pos h))

theorem galCleared_self (g : Nat) (s : State) : (galCleared g s).getGal g = { s.getGal g with power := s.galDemand g, lastAccess := s.now } :=
  State.getGal_modGal _ _ _

theorem galCleared_ne {g j : Nat} (h : j ≠ g) (s : State) : (galCleared g s).getGal j = s.getGal j := State.getGal_modGal_ne _ _ _ _ h

/-- The segment under test is copied into the shadow once G7 has been cleared. -/
theorem galCleared_shadow (s : State) : let t := segShadow (galCleared 7 s)
    (t.getGal 7).power = s.galDemand 7 ∧ (∀ j, j ≠ 7 → j ≠ 4 → t.getGal j = s.getGal j) ∧ (t.getGal 4).mem = (s.getGal 4).mem ∧
    (s.badWords 4 (0x10000 * s.mt.segment) 65536 = [] → t.log = s.log ∧ t.getGal 4 = s.getGal 4) ∧
    t = { s with gal := t.gal, log := t.log } := by
  have hbad : (galCleared 7 s).badWords 4 (0x10000 * s.mt.segment) 65536 = s.badWords 4 (0x10000 * s.mt.segment) 65536 := by
    simp only [State.badWords, galCleared_ne (show 4 ≠ 7 by decide)]
  have hself := segCopy_dst (g := 4) (g' := 7) (0x10000 * s.mt.segment) 0 (galCleared 7 s) (by decide)
  have hne := fun j (hj : j ≠ 7) => segCopy_ne (g := 4) (g' := 7) (0x10000 * s.mt.segment) 0 (galCleared 7 s) hj
  have hframe := segCopy_eq (g := 4) (g' := 7) (0x10000 * s.mt.segment) 0 (galCleared 7 s)
  have hshadow : segShadow (galCleared 7 s) = segCopy 4 (0x10000 * s.mt.segment) 7 0 (galCleared 7 s) := rfl
  rw [hshadow]
  refine ⟨by rw [hself, galCleared_self], fun j h7 h4 => ?_, ?_, fun hnone => ⟨?_, ?_⟩, ?_⟩
  · rw [hne j h7, readRange_ne h4, galCleared_ne h7]
  · rw [hne 4 (by decide), readRange_mem, galCleared_ne (by decide)]
  · rw [hframe, readRange_none (hbad.trans hnone)]
    rfl
  · rw [hne 4 (by decide), readRange_none (hbad.trans hnone), galCleared_ne (by decide)]
  · rw [hframe]
    rfl

/-- Settles O41, by the demand on a gallery for its power, and by the words found uncorrectable for its scrub. -/
theorem galleryPowerAndScrub : Obligations.GalleryPowerAndScrub := by
  refine ⟨fun p g v s hact => ?_, fun g s hup => ⟨fun h => ?_, fun h => ?_⟩, fun g s hup hon hshed howner hreq => ?_,
    fun g n ds s hstew => ⟨galleryScrub_waits hstew, fun hup hon hturn hds => ?_⟩⟩
  · obtain ⟨t, ht, haud⟩ := galPwrWrite_audited hact (g := g) (v := v) rfl rfl
    have hself := State.getGal_modGal s g.val (fun x => { x with req := v.toNat % 4 })
    have hget : (galSettle g (s.modGal g (fun x => { x with req := v.toNat % 4 }))).getGal g =
        galFollow ((s.modGal g (fun x => { x with req := v.toNat % 4 })).galDemand g) { s.getGal g with req := v.toNat % 4 } := by
      rw [getGal_galSettle, hself]
    have hdemand : (s.getGal g).shed = false → (s.modGal g (fun x => { x with req := v.toNat % 4 })).galDemand g =
        if s.galOwner g then .on else if v.toNat % 4 = 3 then .on else if v.toNat % 4 = 2 then .retain else .off := by
      intro hshed
      rw [galDemand_eq, hself, if_neg (by simp [hshed])]
      rfl
    refine ⟨t, _, ht, by rw [hget, galFollow_kept], fun j hj => ?_, rfl, haud, fun hclear => ?_, fun hshed hpower => ⟨fun hwant => ?_, fun hno hv => ?_,
      fun hno hv => ?_⟩⟩
    · exact (getGal_galSettle_ne hj _).trans (State.getGal_modGal_ne _ _ _ _ hj)
    · rw [hget, galFollow_clearing (x := { s.getGal g with req := v.toNat % 4 }) _ hclear]
      exact ⟨hclear, rfl⟩
    · have hon : (s.modGal g (fun x => { x with req := v.toNat % 4 })).galDemand g = .on := by
        rw [hdemand hshed]
        rcases hwant with ho | hv
        · rw [if_pos ho]
        · rw [if_pos hv, ite_self]
      rw [hget, hon]
      refine ⟨fun hoff => ?_, fun hoff => galFollow_on (x := { s.getGal g with req := v.toNat % 4 }) hpower hoff⟩
      rw [galFollow_wakes (x := { s.getGal g with req := v.toNat % 4 }) hoff (by decide)]
      exact ⟨rfl, rfl⟩
    · have hret : (s.modGal g (fun x => { x with req := v.toNat % 4 })).galDemand g = .retain := by
        rw [hdemand hshed, if_neg (by simp [hno]), if_neg (by omega), if_pos hv]
      rw [hget, hret]
      refine ⟨fun hoff => ?_, fun hoff => galFollow_retain (x := { s.getGal g with req := v.toNat % 4 }) hpower hoff⟩
      rw [galFollow_wakes (x := { s.getGal g with req := v.toNat % 4 }) hoff (by decide)]
      exact ⟨rfl, rfl⟩
    · have hoff : (s.modGal g (fun x => { x with req := v.toNat % 4 })).galDemand g = .off := by
        rw [hdemand hshed, if_neg (by simp [hno]), if_neg (by omega), if_neg (by omega)]
      rw [hget, hoff]
      exact galFollow_off { s.getGal g with req := v.toNat % 4 } hpower
  · exact (onIsl_up hup : execGalleryClearDone g s = _).trans (congrArg Host.Outcome.next (if_neg h))
  · have hexec := galleryClearDone_clears hup h
    cases hseg : (g.val == 7 && (galCleared g s).segTested) with
    | false =>
      rw [hseg] at hexec
      refine ⟨_, hexec, ?_, fun _ => ?_, fun _ => ⟨rfl, fun j hj => galCleared_ne hj s⟩, fun j hj _ => galCleared_ne hj s, fun h4 => ?_, rfl⟩
      · exact (congrArg Gal.power (galCleared_self g s)).trans (galDemand_eq g s)
      · exact (congrArg Gal.mem (galCleared_self g s) :)
      · exact congrArg Gal.mem (galCleared_ne (Ne.symm h4) s)
    | true =>
      rw [hseg] at hexec
      obtain ⟨h7, htested⟩ := Bool.and_eq_true_iff.1 hseg
      have hg : g.val = 7 := by simpa using h7
      have hborrowed : s.mt.borrowed = true := (Bool.and_eq_true_iff.1 htested).1
      rw [hg] at hexec ⊢
      obtain ⟨hpower, hne, hmem, hnone, hframe⟩ := galCleared_shadow s
      refine ⟨_, hexec, hpower.trans (galDemand_eq 7 s), fun h => ?_, fun h => ?_, hne, fun _ => hmem, hframe⟩
      · exact absurd h (by simp [hborrowed])
      · obtain ⟨hlog, h4⟩ := hnone (by simpa [hborrowed] using h)
        refine ⟨hlog, fun j hj => ?_⟩
        by_cases hj4 : j = 4
        · rw [hj4]
          exact h4
        · exact hne j hj hj4
  · have hdemand : s.galDemand g = .retain := by rw [galDemand_eq, hshed, howner, hreq]; rfl
    have hexec := (onIsl_up hup : execGalleryIdleRetain g s = _)
    refine ⟨fun hlt => hexec.trans (congrArg Host.Outcome.next (if_neg (fun h => Nat.not_le.2 hlt h.2.2))), fun hle => ?_⟩
    refine ⟨_, hexec.trans (congrArg Host.Outcome.next (if_pos ⟨hon, hdemand, hle⟩)), ?_, fun j hj => State.getGal_modGal_ne _ _ _ _ hj, rfl⟩
    exact State.getGal_modGal _ _ _
  · refine ⟨_, galleryScrub_scrubs hstew hup hon hturn hds, ?_, fun hne => ?_, fun hnone => ?_, fun j hj => ?_, ?_⟩
    · rw [galUncorrs_getGal, State.getGal_modGal, foundBad_foldl]
      rfl
    · exact galUncorrs_logged hne (s.modGal g (fun x => { x with corrected := satAdd 0xFFFFFFFF x.corrected n, scrubAt := some s.now }))
    · rw [hnone]
      rfl
    · rw [galUncorrs_getGal_ne hj, State.getGal_modGal_ne _ _ _ _ hj]
    · rw [galUncorrs_eq]
      rfl

end Sys2Proof.Machine
end

section
-- One proof after another: elaborated side by side they take more memory than the check allows.
set_option Elab.async false
/-! PROOF. A host's accesses to a gallery word (O40). -/

namespace Sys2Proof.Machine

open Sys2Proof.Cert

variable {s : State} {g off : Nat}

/-! ## Reads (R362) -/

theorem State.modGal_modGal (s : State) (g : Nat) (f h : Gal → Gal) : (s.modGal g f).modGal g h = s.modGal g (fun x => h (f x)) := by
  have hget := State.getGal_modGal s g f
  simp only [State.modGal] at hget ⊢
  rw [hget, tset_tset]

section Read

variable (g off : Nat) (e : Ecc) (s : State)

theorem galRead_bad (h : e = .double ∨ s.galBad g off = true) : galRead g off e s = galUncorr g off (s.modGal g (galTouch s.now)) := by
  have hbad : (s.modGal g (galTouch s.now)).galBad g off = s.galBad g off := by
    unfold State.galBad
    rw [State.getGal_modGal]
    rfl
  unfold galRead
  extract_lets s₁
  split
  · rfl
  next hno =>
    rcases h with rfl | h
    · rfl
    · exact absurd (hbad.trans h) hno

theorem galRead_good (he : e ≠ .double) (h : s.galBad g off = false) : galRead g off e s = s.modGal g (fun x =>
    { galTouch s.now x with corrected := if e = .single then min 0xFFFFFFFF (x.corrected + 1) else x.corrected }) := by
  have hbad : (s.modGal g (galTouch s.now)).galBad g off = s.galBad g off := by
    unfold State.galBad
    rw [State.getGal_modGal]
    rfl
  refine (if_neg (by rw [hbad, h]; decide)).trans ?_
  cases e with
  | clean => rfl
  | single => exact State.modGal_modGal _ _ _ _
  | double => exact absurd rfl he

end Read

theorem galleryRead_allowed {p : Fin 4} {x : BitVec 22} (hup : s.up islHost = true) (hnone : NonePosted s p islHost)
    (h : s.galAllowed .read p x.toNat = true) (e : Ecc) : exec (.galleryRead p x e) s =
    .next (galRead (s.galPlace p x.toNat).1 (s.galPlace p x.toNat).2 e s) := by
  refine (onIsl_up hup : execGalleryRead p x e s = _).trans ?_
  rw [drainTo_none hnone]
  exact congrArg Host.Outcome.next (if_pos h)

theorem galleryRead_refused {p : Fin 4} {x : BitVec 22} (hup : s.up islHost = true) (hnone : NonePosted s p islHost)
    (h : s.galAllowed .read p x.toNat = false) (e : Ecc) : exec (.galleryRead p x e) s = .next s := by
  refine (onIsl_up hup : execGalleryRead p x e s = _).trans ?_
  rw [drainTo_none hnone]
  exact congrArg Host.Outcome.next (if_neg (by simp [h]))

/-! ## A word stored -/

/-- A gallery in which a host's access stores a word. -/
def Gal.stored (now off : Nat) (w : Word) (x : Gal) : Gal :=
  galTouch now { x with mem := mputW galDefault x.mem off w, bad := x.bad.filter (fun a => a != off) }

/-- The block in which a host's access stores a word. -/
def hostStored (g off : Nat) (w : Word) (s : State) : State := (noteUpload g off s).modGal g (Gal.stored s.now off w)

theorem noteUpload_eq (g off : Nat) (s : State) : noteUpload g off s = { s with plan := (noteUpload g off s).plan } := by
  unfold noteUpload
  split <;> rfl

theorem noteUpload_marked (g off : Nat) (s : State) : StageMarked g off s (noteUpload g off s) := by
  unfold StageMarked noteUpload
  split <;> rfl

theorem hostStored_self (g off : Nat) (w : Word) (s : State) : (hostStored g off w s).getGal g = (s.getGal g).stored s.now off w := by
  unfold hostStored
  rw [State.getGal_modGal, noteUpload_eq]
  rfl

theorem hostStored_ne {j : Nat} (h : j ≠ g) (off : Nat) (w : Word) (s : State) : (hostStored g off w s).getGal j = s.getGal j := by
  unfold hostStored
  rw [State.getGal_modGal_ne _ _ _ _ h, noteUpload_eq]
  rfl

theorem hostStored_eq (g off : Nat) (w : Word) (s : State) :
    hostStored g off w s = { s with gal := (hostStored g off w s).gal, plan := (noteUpload g off s).plan } := by
  unfold hostStored State.modGal
  rw [noteUpload_eq]

/-- A state whose gallery g holds the word stored. -/
theorem stored_of {t : State} {w : Word} (hwf : memWf galDefault (s.getGal g).mem = true)
    (hmem : (t.getGal g).mem = mputW galDefault (s.getGal g).mem off w) (hbad : (t.getGal g).bad = (s.getGal g).bad.filter (fun a => a != off))
    (hcount : (t.getGal g).corrected = (s.getGal g).corrected ∧ (t.getGal g).uncorr = (s.getGal g).uncorr)
    (hne : ∀ j, j ≠ g → t.getGal j = s.getGal j) : Stored g off w s t := by
  refine ⟨?_, fun a ha => ?_, hne, hcount.1, hcount.2, ?_⟩
  · rw [State.galWord, hmem, mgetW_mputW off w hwf]
  · rw [galByte, hmem]
    exact mget_mputs_out _ _ _ (by rw [length_leBytes]; exact ha)
  · rw [State.galBad, hbad]
    simp

theorem hostStored_only {w : Word} (hwf : memWf galDefault (s.getGal g).mem = true) : StoredOnly g off w s (hostStored g off w s) := by
  have hself := hostStored_self g off w s
  have hplan : (hostStored g off w s).plan = (noteUpload g off s).plan := rfl
  refine ⟨stored_of hwf ?_ ?_ ⟨?_, ?_⟩ (fun j hj => hostStored_ne hj off w s), ?_, ?_, hplan.trans (noteUpload_marked g off s),
    hostStored_eq g off w s⟩
  all_goals
    rw [hself]
    rfl

/-! ## A collision (R364) -/

/-- R364: the collision's entry is due. -/
def collideSays (g : Nat) (s : State) : Bool :=
  match (s.getGal g).collLogAt with
  | none => true
  | some t => decide (t + 384000 ≤ s.now)

/-- A gallery that records a collision. -/
def Gal.collided (off user host : Nat) (at_ : Option Nat) (x : Gal) : Gal :=
  { x with collSeen := true, collUser := user, collHost := host, collCount := satAdd 0xFFFF x.collCount 1, collOff := off, collLogAt := at_ }

theorem galCollide_eq (g off user host : Nat) (s : State) : galCollide g off user host s =
    whenDo (collideSays g s) (raise .galCollision g []) (s.modGal g (fun x =>
      x.collided off user host (if collideSays g s then some s.now else x.collLogAt))) := rfl

theorem galCollide_self (g off user host : Nat) (s : State) : (galCollide g off user host s).getGal g =
    (s.getGal g).collided off user host (if collideSays g s then some s.now else (s.getGal g).collLogAt) := by
  rw [galCollide_eq]
  cases collideSays g s <;> simp [whenDo]

theorem galCollide_ne {j : Nat} (h : j ≠ g) (off user host : Nat) (s : State) : (galCollide g off user host s).getGal j = s.getGal j := by
  rw [galCollide_eq]
  cases collideSays g s <;> simp [whenDo, State.getGal_modGal_ne _ _ _ _ h]

theorem galCollide_log (g off user host : Nat) (s : State) :
    ((∀ a, (s.getGal g).collLogAt = some a → a + 384000 ≤ s.now) →
      LoggedIfRoom (ent .galCollision s.now g [] s) s (galCollide g off user host s)) ∧
    ((∃ a, (s.getGal g).collLogAt = some a ∧ s.now < a + 384000) → (galCollide g off user host s).log = s.log) := by
  rw [galCollide_eq]
  refine ⟨fun hdue => ?_, fun ⟨a, ha, hlt⟩ => ?_⟩
  · have hsay : collideSays g s = true := by
      unfold collideSays
      split
      · rfl
      next a ha => exact decide_eq_true (hdue a ha)
    rw [hsay]
    exact loggedIfRoom_raise .galCollision g [] (s.modGal g (fun x => x.collided off user host (some s.now)))
  · have hsay : collideSays g s = false := by
      unfold collideSays
      rw [ha]
      exact decide_eq_false (Nat.not_le.2 hlt)
    rw [hsay]
    rfl

theorem galCollide_frame (g off user host : Nat) (s : State) : galCollide g off user host s =
    { s with gal := (galCollide g off user host s).gal, log := (galCollide g off user host s).log } :=
  State.eq_onto (m := { gal := true, log := true }) (by simp)

theorem hostStored_collided {w : Word} {user host : Nat} (hwf : memWf galDefault (s.getGal g).mem = true) :
    Stored g off w s (galCollide g off user host (hostStored g off w s)) ∧
    Collided g off user host s (galCollide g off user host (hostStored g off w s)) := by
  have hself := galCollide_self g off user host (hostStored g off w s)
  have hne := fun j (hj : j ≠ g) => galCollide_ne hj off user host (hostStored g off w s)
  obtain ⟨hdue, hnot⟩ := galCollide_log g off user host (hostStored g off w s)
  have hframe := galCollide_frame g off user host (hostStored g off w s)
  have hlogAt : ((hostStored g off w s).getGal g).collLogAt = (s.getGal g).collLogAt := by rw [hostStored_self]; rfl
  have heq := hostStored_eq g off w s
  have hplan : (galCollide g off user host (hostStored g off w s)).plan = (noteUpload g off s).plan := by rw [hframe, heq]
  have hlog : (hostStored g off w s).log = s.log := by rw [heq]
  have htb : (hostStored g off w s).tb = s.tb := by rw [heq]
  rw [hlogAt, show (hostStored g off w s).now = s.now from congrArg Tb.idx htb] at hdue hnot
  rw [hostStored_self] at hself
  refine ⟨stored_of hwf (by rw [hself]; rfl) (by rw [hself]; rfl) ⟨by rw [hself]; rfl, by rw [hself]; rfl⟩
    (fun j hj => (hne j hj).trans (hostStored_ne hj off w s)), ?_, ?_, ?_, ?_, ?_, fun h => ?_, fun h => (hnot h).trans hlog, ?_, ?_⟩
  · rw [hself]; rfl
  · rw [hself]; rfl
  · rw [hself]; rfl
  · rw [hself]; rfl
  · rw [hself]; rfl
  · have h' := loggedIfRoom_congr (s' := s) hlog.symm rfl (hdue h)
    rwa [ent_congr (congrArg Tb.epoch htb)] at h'
  · exact hplan.trans (noteUpload_marked g off s)
  · rw [hplan]
    exact hframe.trans (by rw [heq])

/-! ## Writes (R364, R366) -/

/-- The word that a host's operation leaves, in one clock with the other port's. -/
def hostWord (g : Nat) (mine other : PortA) (w : Word) : Word := if g = 5 then twoPorts mine other w else twoPorts other mine w

theorem galServed_self (hg : g ≠ 4) (off : Nat) (s : State) : s.galServed g off = (g, off) := if_neg hg

theorem modGal_stored (g off : Nat) (w : Word) (s : State) :
    ((noteUpload g off s).modGal g (fun x => { x with mem := mputW galDefault x.mem off w })).modGal g
      (fun x => galTouch ((noteUpload g off s).modGal g (fun x => { x with mem := mputW galDefault x.mem off w })).now
        { x with bad := x.bad.filter (fun a => a != off) }) = hostStored g off w s := by
  have hnow : ((noteUpload g off s).modGal g (fun x => { x with mem := mputW galDefault x.mem off w })).now = s.now := by
    rw [noteUpload_eq]
    rfl
  rw [hnow]
  exact State.modGal_modGal _ _ _ _

theorem galHostOp_eq {p : Nat} {mine other : PortA} (hg : g ≠ 4) : galHostOp p g off mine other (noteUpload g off s) =
    whenDo (collides (if g = 5 then mine else other) (if g = 5 then other else mine))
      (if g = 5 then galCollide g off 0 0 else galCollide g off 2 p) (hostStored g off (hostWord g mine other (s.galWord g off)) s) := by
  have hword : (noteUpload g off s).galWord g off = s.galWord g off := by rw [noteUpload_eq]; rfl
  unfold galHostOp hostWord
  by_cases h5 : g = 5
  · simp only [if_pos h5, galServed_self hg, hword, modGal_stored]
  · simp only [if_neg h5, galServed_self hg, hword, modGal_stored]

theorem galHostOp_apart {p : Nat} {mine other : PortA} (hg : g ≠ 4) (h : collides mine other = false) :
    galHostOp p g off mine other (noteUpload g off s) = hostStored g off (hostWord g mine other (s.galWord g off)) s := by
  have hcomm : collides other mine = false := by
    cases mine <;> cases other <;> simp_all [collides]
  rw [galHostOp_eq hg]
  split <;> simp [h, hcomm]

theorem galHostOp_collides {p : Nat} {v a : Word} (hg : g ≠ 4) :
    galHostOp p g off (.write v) (.write a) (noteUpload g off s) =
      (if g = 5 then galCollide g off 0 0 else galCollide g off 2 p) (hostStored g off (if g = 5 then v else a) s) := by
  rw [galHostOp_eq hg]
  by_cases h5 : g = 5
  · simp [h5, collides, hostWord, twoPorts]
  · simp [h5, collides, hostWord, twoPorts]

section HostWrite

variable {p : Fin 4} {x : BitVec 22} {op : GalOp} {mine other : PortA} (hup : s.up islHost = true) (hnone : NonePosted s p islHost)

include hnone in
theorem galHostWrite_refused (h : s.galAllowed op p x.toNat = false) : galHostWrite op mine p x.toNat other s = s := by
  unfold galHostWrite
  rw [drainTo_none hnone]
  exact if_neg (by simp [h])

include hnone in
theorem galHostWrite_bad (h : s.galAllowed op p x.toNat = true) (hreads : op.reads = true)
    (hbad : s.galBad (s.galPlace p x.toNat).1 (s.galPlace p x.toNat).2 = true) (hother : ∀ b, other ≠ .write b) :
    galHostWrite op mine p x.toNat other s = wordDone p (galRead (s.galPlace p x.toNat).1 (s.galPlace p x.toNat).2 .clean s) := by
  have hwhole : wholeWrite other = false := by
    cases other with
    | write b => exact absurd rfl (hother b)
    | _ => rfl
  unfold galHostWrite
  rw [drainTo_none hnone]
  refine (if_pos h).trans (congrArg (wordDone p) (if_pos ?_))
  exact Bool.and_eq_true_iff.2 ⟨Bool.and_eq_true_iff.2 ⟨hreads, hbad⟩, by rw [hwhole]; rfl⟩

include hnone in
theorem galHostWrite_done (h : s.galAllowed op p x.toNat = true)
    (hok : op.reads = false ∨ s.galBad (s.galPlace p x.toNat).1 (s.galPlace p x.toNat).2 = false ∨ wholeWrite other = true) :
    galHostWrite op mine p x.toNat other s = wordDone p (galHostOp p (s.galPlace p x.toNat).1 (s.galPlace p x.toNat).2 mine other
      (noteUpload (s.galPlace p x.toNat).1 (s.galPlace p x.toNat).2 s)) := by
  unfold galHostWrite
  rw [drainTo_none hnone]
  refine (if_pos h).trans (congrArg (wordDone p) (if_neg ?_))
  rw [Bool.and_eq_true_iff, Bool.and_eq_true_iff]
  rintro ⟨⟨hreads, hbad⟩, hwhole⟩
  rcases hok with h | h | h
  · exact absurd hreads (by simp [h])
  · exact Bool.false_ne_true (h.symm.trans hbad)
  · exact absurd hwhole (by simp [h])

end HostWrite

/-- R357, R366: where a host may write, and where its aliases reach. -/
theorem galAllowed_place {p x : Nat} {op : GalOp} (h : s.galAllowed op p x = true) (hop : op ≠ .read) :
    ((s.galPlace p x).1 = 2 ∨ (s.galPlace p x).1 = 5) ∧ (op = .set → (s.galPlace p x).1 = 2) := by
  have hright : galRight op (s.galPlace p x).1 (s.galPlace p x).2 (s.getRolePort p).role = true :=
    (Bool.and_eq_true_iff.1 (Bool.and_eq_true_iff.1 (Bool.and_eq_true_iff.1 h).1).1).1
  generalize (s.galPlace p x).1 = g at hright ⊢
  unfold galRight galMayWrite at hright
  by_cases h2 : g = 2
  · exact ⟨.inl h2, fun _ => h2⟩
  · by_cases h5 : g = 5
    · refine ⟨.inr h5, fun hset => ?_⟩
      simp [hset, h5] at hright
    · cases op <;> simp [h2, h5] at hright hop

/-- R357: a write that sets or clears bits reaches only words that its role may read. -/
theorem galRight_read {role : Nat} {op : GalOp} (hg : g = 2 ∨ g = 5) (hop : op = .set ∨ op = .clear)
    (h : galRight op g off role = true) : galRight .read g off role = true := by
  rcases hg with rfl | rfl <;> rcases hop with rfl | rfl <;> simp [galRight, galMayWrite, galReadRole] at h ⊢ <;> omega

theorem galAllowed_read {p x : Nat} {op : GalOp} (h : s.galAllowed op p x = true) (hop : op = .set ∨ op = .clear) :
    s.galAllowed .read p x = true := by
  obtain ⟨hrest, hon⟩ := Bool.and_eq_true_iff.1 h
  obtain ⟨hrest, hblock⟩ := Bool.and_eq_true_iff.1 hrest
  obtain ⟨hright, hsize⟩ := Bool.and_eq_true_iff.1 hrest
  refine Bool.and_eq_true_iff.2 ⟨Bool.and_eq_true_iff.2 ⟨Bool.and_eq_true_iff.2 ⟨?_, hsize⟩, hblock⟩, hon⟩
  exact galRight_read (galAllowed_place h (by rcases hop with rfl | rfl <;> decide)).1 hop hright

/-! ## The obligation -/

section Accesses

variable {p : Fin 4} {x : BitVec 22} {other : PortA} {v : Word} (hup : s.up islHost = true) (hnone : NonePosted s p islHost)

include hnone

/-- A write that sets or clears bits. -/
theorem alias_stores {op : GalOp} {mine : PortA} {c : Instr} (hc : exec c s = .next (galHostWrite op mine p x.toNat other s))
    (hop : op = .set ∨ op = .clear) (hmine : ∀ b, mine ≠ .write b) (hwf : memWf galDefault (s.getGal (s.galPlace p x.toNat).1).mem = true)
    (h : s.galAllowed op p x.toNat = true)
    (hok : s.galBad (s.galPlace p x.toNat).1 (s.galPlace p x.toNat).2 = false ∨ wholeWrite other = true) {w : Word}
    (hw : hostWord (s.galPlace p x.toNat).1 mine other (s.galWord (s.galPlace p x.toNat).1 (s.galPlace p x.toNat).2) = w) :
    ∃ t, exec c s = .next (wordDone p t) ∧ StoredOnly (s.galPlace p x.toNat).1 (s.galPlace p x.toNat).2 w s t := by
  have hapart : collides mine other = false := by
    cases mine with
    | write b => exact absurd rfl (hmine b)
    | _ => rfl
  have hg : (s.galPlace p x.toNat).1 ≠ 4 := by
    rcases (galAllowed_place h (by rcases hop with rfl | rfl <;> decide)).1 with hg | hg <;> omega
  rw [galHostWrite_done hnone h (.inr hok), galHostOp_apart hg hapart, hw] at hc
  exact ⟨_, hc, hostStored_only hwf⟩

include hup

theorem galleryWrite_refused (h : s.galAllowed .write p x.toNat = false) : exec (.galleryWrite p x v other) s = .next s :=
  (onIsl_up hup : execGalleryWrite p x v other s = _).trans (congrArg Host.Outcome.next (galHostWrite_refused hnone h))

theorem aliasSet_refused (h : s.galAllowed .set p x.toNat = false) : exec (.aliasSet p x v other) s = .next s :=
  (onIsl_up hup : execAliasSet p x v other s = _).trans (congrArg Host.Outcome.next (galHostWrite_refused hnone h))

theorem aliasClear_refused (h : s.galAllowed .clear p x.toNat = false) : exec (.aliasClear p x v other) s = .next s :=
  (onIsl_up hup : execAliasClear p x v other s = _).trans (congrArg Host.Outcome.next (galHostWrite_refused hnone h))

/-- A write with which the other port's operation does not collide. -/
theorem galleryWrite_stores (hwf : memWf galDefault (s.getGal (s.galPlace p x.toNat).1).mem = true)
    (h : s.galAllowed .write p x.toNat = true) (hother : ∀ b, other ≠ .write b) {w : Word}
    (hw : hostWord (s.galPlace p x.toNat).1 (.write v) other (s.galWord (s.galPlace p x.toNat).1 (s.galPlace p x.toNat).2) = w) :
    ∃ t, exec (.galleryWrite p x v other) s = .next (wordDone p t) ∧
      StoredOnly (s.galPlace p x.toNat).1 (s.galPlace p x.toNat).2 w s t := by
  have hapart : collides (.write v) other = false := by
    cases other with
    | write b => exact absurd rfl (hother b)
    | _ => rfl
  have hg : (s.galPlace p x.toNat).1 ≠ 4 := by
    rcases (galAllowed_place h (by decide)).1 with hg | hg <;> omega
  have hexec := (onIsl_up hup : execGalleryWrite p x v other s = _)
  rw [galHostWrite_done hnone h (.inl rfl), galHostOp_apart hg hapart, hw] at hexec
  exact ⟨_, hexec, hostStored_only hwf⟩

theorem galleryWrite_collides {a : Word} (h : s.galAllowed .write p x.toNat = true) : exec (.galleryWrite p x v (.write a)) s = .next (wordDone p
      ((if (s.galPlace p x.toNat).1 = 5 then galCollide (s.galPlace p x.toNat).1 (s.galPlace p x.toNat).2 0 0
        else galCollide (s.galPlace p x.toNat).1 (s.galPlace p x.toNat).2 2 p)
      (hostStored (s.galPlace p x.toNat).1 (s.galPlace p x.toNat).2 (if (s.galPlace p x.toNat).1 = 5 then v else a) s))) := by
  have hg : (s.galPlace p x.toNat).1 ≠ 4 := by
    rcases (galAllowed_place h (by decide)).1 with hg | hg <;> omega
  refine (onIsl_up hup : execGalleryWrite p x v (.write a) s = _).trans ?_
  rw [galHostWrite_done hnone h (.inl rfl), galHostOp_collides hg]

end Accesses

theorem aliasSet_eq {p : Fin 4} {x : BitVec 22} {other : PortA} {v : Word} (hup : s.up islHost = true) : exec (.aliasSet p x v other) s = .next (galHostWrite .set (.setBits v) p x.toNat other s) :=
  (onIsl_up hup : execAliasSet p x v other s = _)

theorem aliasClear_eq {p : Fin 4} {x : BitVec 22} {other : PortA} {v : Word} (hup : s.up islHost = true) : exec (.aliasClear p x v other) s = .next (galHostWrite .clear (.clearBits v) p x.toNat other s) :=
  (onIsl_up hup : execAliasClear p x v other s = _)

theorem hostWord_write {g : Nat} {v w : Word} {o : PortA} (ho : ∀ b, o ≠ .write b) : hostWord g (.write v) o w = portOp o v := by
  unfold hostWord
  cases o with
  | write b => exact absurd rfl (ho b)
  | _ => split <;> rfl

/-- R364, R366: the word after a write that sets bits in G2, in which the host island is port B. -/
theorem hostWord_set {g : Nat} (hg : g = 2) (v w : Word) (o : PortA) : hostWord g (.setBits v) o w = (match o with
    | .idle | .read => w ||| v
    | .write b => b ||| v
    | .setBits b => (w ||| b) ||| v
    | .clearBits b => (w &&& ~~~b) ||| v) := by
  subst hg
  cases o <;> rfl

theorem hostWord_clear {g : Nat} (hg : g = 2 ∨ g = 5) (v w : Word) (o : PortA) : hostWord g (.clearBits v) o w = (match o with
    | .idle | .read => w &&& ~~~v
    | .write b => b &&& ~~~v
    | .setBits b => if g = 5 then (w &&& ~~~v) ||| b else (w ||| b) &&& ~~~v
    | .clearBits b => (w &&& ~~~b) &&& ~~~v) := by
  have hcomm : ∀ b : Word, (w &&& ~~~v) &&& ~~~b = (w &&& ~~~b) &&& ~~~v := fun b => by
    rw [BitVec.and_assoc, BitVec.and_comm (~~~v), ← BitVec.and_assoc]
  rcases hg with rfl | rfl
  · cases o <;> rfl
  · cases o with
    | clearBits b => exact hcomm b
    | _ => rfl

/-- Settles O40, by the checks of an access, and by the word that two operations in one clock leave. -/
theorem galleryWordAccesses : Obligations.GalleryWordAccesses := by
  intro p x v a o s hup hnone g off w
  refine ⟨fun e h => galleryRead_refused hup hnone h e, galleryWrite_refused hup hnone, aliasSet_refused hup hnone, aliasClear_refused hup hnone,
    fun h e => ⟨_, galleryRead_allowed hup hnone h e, fun he hgood => ?_, fun hbad => ?_, fun j hj => ?_, fun hbad => ?_, ?_⟩,
    fun hwf => ⟨fun h => ⟨fun ho => ?_, ?_, ?_, ?_, ?_⟩, fun hbad => ?_, fun h hok => ?_, fun h hok => ?_⟩⟩
  · rw [galRead_good _ _ _ _ he hgood]
    exact ⟨rfl, State.getGal_modGal _ _ _⟩
  · rw [galRead_bad _ _ _ _ hbad, galUncorr_getGal, State.getGal_modGal]
    rfl
  · by_cases hbad : e = .double ∨ s.galBad g off = true
    · rw [galRead_bad _ _ _ _ hbad, galUncorr_getGal_ne hj, State.getGal_modGal_ne _ _ _ _ hj]
    · obtain ⟨he, hgood⟩ := not_or.1 hbad
      rw [galRead_good _ _ _ _ he (by simpa using hgood), State.getGal_modGal_ne _ _ _ _ hj]
  · rw [galRead_bad _ _ _ _ hbad]
    exact loggedIfRoom_raise .galUncorr g [] ((s.modGal g (galTouch s.now)).modGal g (fun x => x.foundBad off))
  · exact State.eq_onto (m := { gal := true, log := true }) (by simp)
  · refine galleryWrite_stores hup hnone hwf h ?_ ((hostWord_write ?_).trans ?_)
    all_goals rcases ho with rfl | rfl
    all_goals simp [portOp]
  · rintro rfl
    exact galleryWrite_stores hup hnone hwf h (by simp) (hostWord_write (by simp))
  · rintro rfl
    exact galleryWrite_stores hup hnone hwf h (by simp) (hostWord_write (by simp))
  · rintro rfl (hg : (s.galPlace p x.toNat).1 = 2)
    have hexec := galleryWrite_collides (v := v) (a := a) hup hnone h
    rw [if_neg (by omega), if_neg (by omega)] at hexec
    exact ⟨_, hexec, hostStored_collided hwf⟩
  · rintro rfl (hg : (s.galPlace p x.toNat).1 = 5)
    have hexec := galleryWrite_collides (v := v) (a := a) hup hnone h
    rw [if_pos hg, if_pos hg] at hexec
    exact ⟨_, hexec, hostStored_collided hwf⟩
  · cases hread : s.galAllowed .read p x.toNat with
    | false =>
      refine ⟨s, galleryRead_refused hup hnone hread _, fun h => ?_, fun h => ?_⟩
      · exact absurd (galAllowed_read h (.inl rfl)) (by simp [hread])
      · exact absurd (galAllowed_read h (.inr rfl)) (by simp [hread])
    | true =>
      refine ⟨_, galleryRead_allowed hup hnone hread _, fun h ho => ?_, fun h ho => ?_⟩
      · rw [aliasSet_eq hup, galHostWrite_bad hnone h rfl hbad ho]
      · rw [aliasClear_eq hup, galHostWrite_bad hnone h rfl hbad ho]
  · refine alias_stores hnone (aliasSet_eq hup) (.inl rfl) (by simp) hwf h (hok.imp_right (by rintro rfl; rfl)) ?_
    exact hostWord_set ((galAllowed_place h (by decide)).2 rfl) _ _ _
  · refine alias_stores hnone (aliasClear_eq hup) (.inr rfl) (by simp) hwf h (hok.imp_right (by rintro rfl; rfl)) ?_
    exact hostWord_clear (galAllowed_place h (by decide)).1 _ _ _

end Sys2Proof.Machine
end

section
-- One proof after another: elaborated side by side they take more memory than the check allows.
set_option Elab.async false
/-! PROOF. The memory test: a segment borrowed, restored, mapped to a spare, and yielded (O42). -/

namespace Sys2Proof.Machine

open Sys2Proof.Cert

/-! ## Ranges of a memory -/

theorem mget_none {d : Byte} {m : Mem} {c : Nat} (h : ∀ e ∈ m, e.1 ≠ c) : mget d m c = d := by
  induction m with
  | nil => rfl
  | cons e t ih =>
    obtain ⟨j, v⟩ := e
    rw [mget, if_neg (h _ List.mem_cons_self), ih (fun e he => h e (List.mem_cons_of_mem _ he))]

theorem mget_append_right {d : Byte} {m n : Mem} {c : Nat} (h : ∀ e ∈ m, e.1 ≠ c) : mget d (m ++ n) c = mget d n c := by
  induction m with
  | nil => rfl
  | cons e t ih =>
    obtain ⟨j, v⟩ := e
    rw [List.cons_append, mget, if_neg (h _ List.mem_cons_self), ih (fun e he => h e (List.mem_cons_of_mem _ he))]

theorem mget_append_left {d : Byte} {m n : Mem} {c : Nat} (h : ∀ e ∈ n, e.1 ≠ c) : mget d (m ++ n) c = mget d m c := by
  induction m with
  | nil => exact mget_none h
  | cons e t ih =>
    obtain ⟨j, v⟩ := e
    simp only [List.cons_append, mget, ih]

theorem mget_filter {d : Byte} {m : Mem} {c : Nat} {q : Nat × Byte → Bool} (h : ∀ v, q (c, v) = true) : mget d (m.filter q) c = mget d m c := by
  induction m with
  | nil => rfl
  | cons e t ih =>
    obtain ⟨j, v⟩ := e
    by_cases hj : j = c
    · subst hj
      rw [List.filter_cons_of_pos (h v), mget, mget, if_pos rfl, if_pos rfl]
    · rw [mget, if_neg hj, ← ih]
      cases hq : q (j, v)
      · rw [List.filter_cons_of_neg (by simp [hq])]
      · rw [List.filter_cons_of_pos hq, mget, if_neg hj]

/-- The entries that list the bytes of a range. -/
theorem mget_run (d : Byte) (bs : List Byte) (a i : Nat) :
    mget d (((bs.zipIdx a).filter (fun e => e.1 != d)).map (fun e => (e.2, e.1))) (a + i) = bs.getD i d := by
  induction bs generalizing a i with
  | nil => rfl
  | cons b bs ih =>
    rw [List.zipIdx_cons]
    cases i with
    | zero =>
      by_cases hb : b = d
      · rw [List.filter_cons_of_neg (by simp [hb])]
        refine (mget_none (fun e he => ?_)).trans hb.symm
        have hfrom := (memWfFrom_run d bs (a + 1)).1
        simp only [List.mem_map, List.mem_filter] at he
        obtain ⟨x, ⟨hx, -⟩, rfl⟩ := he
        have := List.le_snd_of_mem_zipIdx hx
        show x.2 ≠ a + 0
        omega
      · rw [List.filter_cons_of_pos (by simpa using hb)]
        simp [mget]
    | succ i =>
      have hne : a ≠ a + (i + 1) := by omega
      have hi := ih (a + 1) i
      rw [show a + 1 + i = a + (i + 1) by omega] at hi
      by_cases hb : b = d
      · rw [List.filter_cons_of_neg (by simp [hb])]
        exact hi
      · rw [List.filter_cons_of_pos (by simpa using hb), List.map_cons, mget, if_neg hne]
        exact hi

theorem mget_mfill {d : Byte} {m : Mem} (a : Nat) (bs : List Byte) (c : Nat) :
    mget d (mfill d m a bs) c = if a ≤ c ∧ c < a + bs.length then bs.getD (c - a) d else mget d m c := by
  have hrun := memWfFrom_run d bs a
  have hlow : ∀ e ∈ ((bs.zipIdx a).filter (fun e => e.1 != d)).map (fun e => (e.2, e.1)), a ≤ e.1 := by
    intro e he
    simp only [List.mem_map, List.mem_filter] at he
    obtain ⟨x, ⟨hx, -⟩, rfl⟩ := he
    exact List.le_snd_of_mem_zipIdx hx
  unfold mfill
  split
  next h =>
    rw [mget_append_left, mget_append_right]
    · obtain ⟨i, rfl⟩ := Nat.exists_eq_add_of_le h.1
      rw [mget_run, Nat.add_sub_cancel_left]
    · intro e he
      have := (List.mem_filter.1 he).2
      simp only [decide_eq_true_eq] at this
      omega
    · intro e he
      have := (List.mem_filter.1 he).2
      simp only [decide_eq_true_eq] at this
      omega
  next h =>
    rcases Nat.lt_or_ge c a with hc | hc
    · rw [List.append_assoc, mget_append_left]
      · exact mget_filter (fun _ => decide_eq_true hc)
      · intro e he
        rcases List.mem_append.1 he with he | he
        · have := hlow e he
          omega
        · have := (List.mem_filter.1 he).2
          simp only [decide_eq_true_eq] at this
          omega
    · have hc' : a + bs.length ≤ c := by omega
      rw [mget_append_right]
      · exact mget_filter (fun _ => decide_eq_true hc')
      · intro e he
        rcases List.mem_append.1 he with he | he
        · have := (List.mem_filter.1 he).2
          simp only [decide_eq_true_eq] at this
          omega
        · have := hrun.2 e he
          omega

theorem length_mslice (d : Byte) (m : Mem) (a n : Nat) : (mslice d m a n).length = n := by
  induction m generalizing a n with
  | nil => simp [mslice]
  | cons e t ih =>
    obtain ⟨j, v⟩ := e
    unfold mslice
    split
    next hn => rw [hn]; rfl
    split
    · exact ih a n
    split
    · simp
    · rw [List.length_append, List.length_replicate, List.length_cons, ih]
      omega

theorem getD_mslice {d : Byte} {m : Mem} {lo : Nat} (hwf : memWfFrom d lo m = true) (a n i : Nat) (hi : i < n) :
    (mslice d m a n).getD i d = mget d m (a + i) := by
  induction m generalizing lo a n i with
  | nil => simp [mslice, mget, hi]
  | cons e t ih =>
    obtain ⟨j, v⟩ := e
    have hwf' := hwf
    simp only [memWfFrom, Bool.and_eq_true, decide_eq_true_eq] at hwf'
    obtain ⟨-, ht⟩ := hwf'
    unfold mslice
    rw [if_neg (by omega)]
    by_cases hja : j < a
    · rw [if_pos hja, ih ht a n i hi, mget, if_neg (by omega)]
    rw [if_neg hja]
    by_cases hjn : a + n ≤ j
    · rw [if_pos hjn, mget, if_neg (by omega), mget_below ht (by omega)]
      simp [hi]
    · rw [if_neg hjn]
      rcases Nat.lt_trichotomy (a + i) j with h | h | h
      · rw [mget, if_neg (by omega), mget_below ht (by omega), List.getD_append _ _ _ _ (by rw [List.length_replicate]; omega)]
        simp
      · rw [mget, if_pos h.symm, List.getD_append_right _ _ _ _ (by rw [List.length_replicate]; omega), List.length_replicate,
          show i - (j - a) = 0 by omega]
        rfl
      · have hrest := ih ht (j + 1) (n - (j - a) - 1) (i - (j - a) - 1) (by omega)
        rw [show j + 1 + (i - (j - a) - 1) = a + i by omega] at hrest
        rw [mget, if_neg (by omega), List.getD_append_right _ _ _ _ (by rw [List.length_replicate]; omega), List.length_replicate,
          show i - (j - a) = (i - (j - a) - 1) + 1 by omega, List.getD_cons_succ]
        exact hrest

/-- The bytes of a range copied to another place. -/
theorem mget_mcopy {d : Byte} {m m' : Mem} (hwf : memWf d m = true) (a a' n c : Nat) :
    mget d (mfill d m' a' (mslice d m a n)) c = if a' ≤ c ∧ c < a' + n then mget d m (a + (c - a')) else mget d m' c := by
  rw [mget_mfill, length_mslice]
  split
  next h => exact getD_mslice hwf a n (c - a') (by omega)
  next => rfl

/-! ## A segment copied (R362, R367) -/

section Copy

variable (g a g' a' : Nat) (s : State)

theorem segCopy_self : (segCopy g a g' a' s).getGal g' = { (readRange g a 65536 s).getGal g' with
    mem := mfill galDefault (s.getGal g').mem a' (mslice galDefault (s.getGal g).mem a 65536)
    bad := (s.badWords g a 65536).map (fun x => x - a + a') ++
      ((readRange g a 65536 s).getGal g').bad.filter (fun y => decide (y < a') || decide (a' + 65536 ≤ y)) } := by
  unfold segCopy
  rw [State.getGal_modGal, readRange_mem]

theorem segCopy_byte (hwf : memWf galDefault (s.getGal g).mem = true) (c : Nat) : galByte (segCopy g a g' a' s) g' c =
    if a' ≤ c ∧ c < a' + 65536 then galByte s g (a + (c - a')) else galByte s g' c := by
  unfold galByte
  rw [segCopy_self]
  exact mget_mcopy hwf a a' 65536 c

theorem segCopy_bad {x : Nat} (hx : x ∈ s.badWords g a 65536) : (segCopy g a g' a' s).galBad g' (x - a + a') = true := by
  unfold State.galBad
  rw [segCopy_self]
  exact List.contains_iff_mem.2 (List.mem_append_left _ (List.mem_map_of_mem hx))

theorem segCopy_power : ((segCopy g a g' a' s).getGal g').power = (s.getGal g').power := by
  rw [segCopy_self]
  by_cases h : g' = g
  · subst h
    exact (congrArg Gal.power (galUncorrs_getGal _ _ _)).trans (foundBad_mem _ _).2
  · exact (congrArg Gal.power (readRange_ne h a 65536 s) :)

end Copy

/-! ## G7 follows its owner -/

section Settle

variable {s : State}

theorem galSettle_byte_ne {g k : Nat} (h : k ≠ g) (c : Nat) : galByte (galSettle g s) k c = galByte s k c := by
  unfold galByte
  rw [getGal_galSettle_ne h]

theorem galSettle_mem {g : Nat} (hkept : galKept (s.getGal g).power = true) (hdemand : galKept (s.galDemand g) = true) :
    ((galSettle g s).getGal g).mem = (s.getGal g).mem := by
  rw [getGal_galSettle]
  exact galFollow_mem hkept hdemand

theorem galDemand_kept {g : Nat} (h : s.galOwner g = true) : galKept (s.galDemand g) = true := by
  unfold State.galDemand
  rw [h]
  cases (s.getGal g).shed <;> rfl

end Settle

/-! ## The three commands -/

section Commands

variable {s : State}

/-- MEMTEST_BORROW in its turn. -/
def testBorrowed (s : State) : State := s.modMtIsl (fun m => { m with borrowed := true, segment := s.mt.next, lastAt := some s.now })

theorem memtestBorrow_waits (hup : s.up islGal = true)
    (h : s.mt.en = false ∨ s.mt.borrowed = true ∨ ∃ a, s.mt.lastAt = some a ∧ s.now < a + 384000) : exec .memtestBorrow s = .next s := by
  refine (onIsl_up hup : execMemtestBorrow s = _).trans (congrArg Host.Outcome.next (if_neg ?_))
  rcases h with h | h | ⟨a, ha, hlt⟩
  · simp [h]
  · simp [h]
  · simp [periodOver, ha, Nat.not_le.2 hlt]

theorem pick_next {m : MemTest} (hnext : m.next < 32) (hremaps : ∀ r ∈ m.remaps, r.1 ≠ m.next) : m.pick = m.next := by
  have hno : (m.remaps.any fun r => r.1 == m.next) = false := by simpa using hremaps
  unfold MemTest.pick
  rw [show List.range 32 = 0 :: (List.range 31).map Nat.succ from rfl, List.map_cons, Nat.add_zero, Nat.mod_eq_of_lt hnext,
    List.find?_cons_of_pos (by simp [hno])]
  rfl

theorem memtestBorrow_borrows (hup : s.up islGal = true) (hen : s.mt.en = true) (hfree : s.mt.borrowed = false) (hrun : s.mt.stopped = false)
    (hon : s.galOn 4 = true) (hturn : ∀ a, s.mt.lastAt = some a → a + 384000 ≤ s.now) (hnext : s.mt.next < 32)
    (hremaps : ∀ r ∈ s.mt.remaps, r.1 ≠ s.mt.next) : exec .memtestBorrow s = .next (whenDo ((galSettle 7 (testBorrowed s)).galOn 7) segShadow
      (galSettle 7 (testBorrowed s))) := by
  have hover : periodOver 384000 s.now s.mt.lastAt = true := by
    cases ha : s.mt.lastAt with
    | none => rfl
    | some a => exact decide_eq_true (hturn a ha)
  refine (onIsl_up hup : execMemtestBorrow s = _).trans (congrArg Host.Outcome.next ((if_pos ?_).trans ?_))
  · simp [hen, hfree, hrun, hon, hover]
  · have hpick : s.modMtIsl (fun m => { m with borrowed := true, segment := m.pick, lastAt := some s.now }) = testBorrowed s := by
      unfold testBorrowed State.modMtIsl
      simp only [pick_next hnext hremaps]
    simp only [hpick]

/-- G7 after a borrow has claimed it. -/
theorem testBorrowed_self (hshed : (s.getGal 7).shed = false) :
    (galSettle 7 (testBorrowed s)).getGal 7 = galFollow .on (s.getGal 7) := by
  rw [getGal_galSettle, galDemand_owned (s := testBorrowed s) hshed rfl]
  rfl

theorem testBorrowed_ne {j : Nat} (h : j ≠ 7) : (galSettle 7 (testBorrowed s)).getGal j = s.getGal j := getGal_galSettle_ne h _

theorem galKept_cases {x : GalPower} (h : galKept x = true) : x ≠ .clearing ∧ x ≠ .off := by
  cases x <;> simp_all [galKept]

theorem galKept_not {x : GalPower} (h : galKept x = false) : x = .clearing ∨ x = .off := by
  cases x <;> simp_all [galKept]

theorem galOn_kept {g : Nat} (h : s.galOn g = true) : galKept (s.getGal g).power = true := (Bool.and_eq_true_iff.1 h).2

/-- A borrow whose copy can be made at once. -/
theorem memtestBorrow_copies (hwf : memWf galDefault (s.getGal 4).mem = true) (hshed : (s.getGal 7).shed = false)
    (hon : s.galOn 7 = true) : let t := whenDo ((galSettle 7 (testBorrowed s)).galOn 7) segShadow (galSettle 7 (testBorrowed s))
    (∀ c, galByte t 7 c = if c < 65536 then galByte s 4 (0x10000 * s.mt.next + c) else galByte s 7 c) ∧
    (∀ x ∈ s.badWords 4 (0x10000 * s.mt.next) 65536, t.galBad 7 (x - 0x10000 * s.mt.next) = true) ∧
    (s.badWords 4 (0x10000 * s.mt.next) 65536 = [] → t.log = s.log ∧ ∀ j, j ≠ 7 → t.getGal j = s.getGal j) ∧
    (∀ j, j ≠ 7 → (t.getGal j).mem = (s.getGal j).mem) ∧ (∀ j, j ≠ 4 → j ≠ 7 → t.getGal j = s.getGal j) ∧
    t = { s with gal := t.gal, mt := { s.mt with borrowed := true, segment := s.mt.next, lastAt := some s.now }, log := t.log } := by
  obtain ⟨hclear, hoff⟩ := galKept_cases (galOn_kept hon)
  obtain ⟨hpower, hmem⟩ := galFollow_on hclear hoff
  have hself := testBorrowed_self hshed
  have hon' : (galSettle 7 (testBorrowed s)).galOn 7 = true := by
    refine Bool.and_eq_true_iff.2 ⟨(Bool.and_eq_true_iff.1 hon).1, ?_⟩
    rw [hself, hpower]
    rfl
  have hseg : segShadow (galSettle 7 (testBorrowed s)) = segCopy 4 (0x10000 * s.mt.next) 7 0 (galSettle 7 (testBorrowed s)) := rfl
  rw [hon', whenDo_true, hseg]
  have hne : ∀ j, j ≠ 7 → (galSettle 7 (testBorrowed s)).getGal j = s.getGal j := fun j hj => testBorrowed_ne hj
  have hframe : galSettle 7 (testBorrowed s) = { s with
      gal := (galSettle 7 (testBorrowed s)).gal, mt := { s.mt with borrowed := true, segment := s.mt.next, lastAt := some s.now } } := rfl
  have hbyte : galByte (galSettle 7 (testBorrowed s)) 7 = galByte s 7 := by
    unfold galByte
    rw [hself, hmem]
  generalize galSettle 7 (testBorrowed s) = u at hne hframe hbyte
  have h4 : u.getGal 4 = s.getGal 4 := hne 4 (by decide)
  have hbad : u.badWords 4 (0x10000 * s.mt.next) 65536 = s.badWords 4 (0x10000 * s.mt.next) 65536 := by
    unfold State.badWords
    rw [h4]
  have heq := segCopy_eq (g := 4) (g' := 7) (0x10000 * s.mt.next) 0 u
  refine ⟨fun c => ?_, fun x hx => ?_, fun hnone => ⟨?_, fun j hj => ?_⟩, fun j hj => ?_, fun j hj4 hj7 => ?_, ?_⟩
  · rw [segCopy_byte _ _ _ _ _ (by rw [h4]; exact hwf), hbyte]
    simp only [Nat.zero_le, true_and, Nat.zero_add, Nat.sub_zero]
    unfold galByte
    rw [h4]
  · exact segCopy_bad 4 (0x10000 * s.mt.next) 7 0 u (by rw [hbad]; exact hx)
  · rw [heq, readRange_none (hbad.trans hnone), hframe]
  · rw [segCopy_ne _ _ _ hj, readRange_none (hbad.trans hnone), hne j hj]
  · rw [segCopy_ne _ _ _ hj, readRange_mem, hne j hj]
  · rw [segCopy_ne _ _ _ hj7, readRange_ne hj4, hne j hj7]
  · rw [heq, hframe]

/-- A borrow for which G7 has to be cleared first. -/
theorem memtestBorrow_clears (hshed : (s.getGal 7).shed = false) (hup : s.up islGal = true) (hon : s.galOn 7 = false) :
    (galSettle 7 (testBorrowed s)).galOn 7 = false ∧ ((galSettle 7 (testBorrowed s)).getGal 7).power = .clearing := by
  have hnot : galKept (s.getGal 7).power = false := by simpa [State.galOn, hup] using hon
  have hpower : ((galSettle 7 (testBorrowed s)).getGal 7).power = .clearing := by
    rw [testBorrowed_self hshed]
    rcases galKept_not hnot with h | h
    · rw [galFollow_clearing _ h, h]
    · rw [galFollow_wakes h (by decide)]
  exact ⟨by unfold State.galOn; rw [hpower]; simp [galKept], hpower⟩

/-- A borrowed segment restored, after which the memory test takes the state that `f` gives. -/
theorem segRestore_settled (f : MemTest → MemTest) (hwf : memWf galDefault (s.getGal 7).mem = true) :
    let t := galSettle 7 ((segRestore s).modMtIsl f)
    t.mt = f { s.mt with borrowed := false } ∧
    (∀ i, galByte t 4 i = if 0x10000 * s.mt.segment ≤ i ∧ i < 0x10000 * s.mt.segment + 65536 then galByte s 7 (i - 0x10000 * s.mt.segment)
      else galByte s 4 i) ∧
    (s.badWords 7 0 65536 = [] → t.log = s.log) ∧ (∀ x ∈ s.badWords 7 0 65536, t.galBad 4 (x + 0x10000 * s.mt.segment) = true) ∧
    (∀ j, j ≠ 4 → j ≠ 7 → t.getGal j = s.getGal j) ∧ t = { s with gal := t.gal, mt := t.mt, log := t.log } := by
  have hrestore : segRestore s = (segCopy 7 0 4 (0x10000 * s.mt.segment) s).modMtIsl (fun m => { m with borrowed := false }) := rfl
  have heq := segCopy_eq (g := 7) (g' := 4) 0 (0x10000 * s.mt.segment) s
  have hbyte := segCopy_byte 7 0 4 (0x10000 * s.mt.segment) s hwf
  have hbad := fun x hx => segCopy_bad 7 0 4 (0x10000 * s.mt.segment) s (x := x) hx
  have hne := fun j (hj : j ≠ 4) => segCopy_ne (g := 7) (g' := 4) 0 (0x10000 * s.mt.segment) s hj
  simp only [Nat.zero_add, Nat.sub_zero] at hbyte hbad
  rw [hrestore]
  generalize segCopy 7 0 4 (0x10000 * s.mt.segment) s = u at heq hbyte hbad hne
  have hother : ∀ j, j ≠ 7 → (galSettle 7 ((u.modMtIsl (fun m => { m with borrowed := false })).modMtIsl f)).getGal j = u.getGal j :=
    fun j hj => getGal_galSettle_ne hj _
  have hmt : u.mt = s.mt := by rw [heq]
  have hlog : u.log = (readRange 7 0 65536 s).log := by rw [heq]
  refine ⟨congrArg (fun m : MemTest => f { m with borrowed := false }) hmt, fun i => ?_, fun hnone => ?_, fun x hx => ?_, fun j hj4 hj7 => ?_, ?_⟩
  · rw [galByte, hother 4 (by decide)]
    exact hbyte i
  · exact hlog.trans (by rw [readRange_none hnone])
  · rw [State.galBad, hother 4 (by decide)]
    exact hbad x hx
  · rw [hother j hj7, hne j hj4, readRange_ne hj7]
  · rw [heq]
    rfl

/-- The end of a march: the next segment is the next in turn. -/
def MemTest.marched (m : MemTest) : MemTest := { m with next := (m.segment + 1) % 32, yieldRun := 0 }

theorem memtestDone_ends (hup : s.up islGal = true) (hb : s.mt.borrowed = true) (hon : s.galOn 7 = true) (bad : Option Nat) :
    exec (.memtestDone bad) s = .next (galSettle 7 ((match bad with | none => segRestore s | some x => segBad x s).modMtIsl MemTest.marched)) :=
  (onIsl_up hup : execMemtestDone bad s = _).trans (congrArg Host.Outcome.next (if_pos (Bool.and_eq_true_iff.2 ⟨hb, hon⟩)))

theorem memtestDone_waits (hup : s.up islGal = true) (h : s.mt.borrowed = false ∨ s.galOn 7 = false) (bad : Option Nat) :
    exec (.memtestDone bad) s = .next s := by
  refine (onIsl_up hup : execMemtestDone bad s = _).trans (congrArg Host.Outcome.next (if_neg ?_))
  rcases h with h | h <;> simp [State.segTested, h]

/-- R368: a failed segment, counted and logged. -/
def testFailed (x : Nat) (s : State) : State :=
  raise .galTestFail 4 [(1, s.mt.segment), (4, x)] (s.modMtIsl (fun m => { m with fails := satAdd 0xF m.fails 1 }))

theorem testFailed_eq (x : Nat) (s : State) : testFailed x s =
    { s with mt := { s.mt with fails := min 0xF (s.mt.fails + 1) }, log := (testFailed x s).log } := by
  unfold testFailed
  rw [raise_eq]
  rfl

theorem testFailed_logged (x : Nat) (s : State) :
    LoggedIfRoom (ent .galTestFail s.now 4 [(1, s.mt.segment), (4, x)] s) s (testFailed x s) :=
  loggedIfRoom_raise .galTestFail 4 [(1, s.mt.segment), (4, x)] (s.modMtIsl (fun m => { m with fails := satAdd 0xF m.fails 1 }))

theorem segBad_spare {x : Nat} (h : s.mt.remaps.length < 2) : segBad x s =
    (segCopy 7 0 7 (0x10000 * (s.mt.remaps.length + 1)) (testFailed x s)).modMtIsl (fun m =>
      { m with remaps := m.remaps ++ [(s.mt.segment, s.mt.remaps.length)], borrowed := false }) := by
  have hlen : (testFailed x s).mt.remaps.length = s.mt.remaps.length := by rw [testFailed_eq]
  have hbad : segBad x s = if (testFailed x s).mt.remaps.length < 2 then
      (segCopy 7 0 7 (0x10000 * ((testFailed x s).mt.remaps.length + 1)) (testFailed x s)).modMtIsl (fun m =>
        { m with remaps := m.remaps ++ [(s.mt.segment, (testFailed x s).mt.remaps.length)], borrowed := false })
      else segRestore ((testFailed x s).modMtIsl (fun m => { m with noSpare := true })) := rfl
  rw [hbad, hlen, if_pos h]

theorem segBad_none {x : Nat} (h : 2 ≤ s.mt.remaps.length) : segBad x s =
    segRestore ((testFailed x s).modMtIsl (fun m => { m with noSpare := true })) := by
  have hlen : (testFailed x s).mt.remaps.length = s.mt.remaps.length := by rw [testFailed_eq]
  exact if_neg (by rw [← Nat.not_lt, ← hlen] at h; exact h)

theorem Logged.segCopy {e : LogEnt} {g a g' a' : Nat} (h : Logged e s) : Logged e (segCopy g a g' a' s) :=
  logged_congr rfl (Logged.readRange h)

theorem Logged.segRestore {e : LogEnt} (h : Logged e s) : Logged e (segRestore s) := by
  unfold Machine.segRestore
  have hcopy := Logged.segCopy (g := 7) (a := 0) (g' := 4) (a' := 0x10000 * s.mt.segment) h
  generalize Machine.segCopy 7 0 4 (0x10000 * s.mt.segment) s = u at hcopy
  exact logged_congr rfl hcopy

theorem Logged.settled {e : LogEnt} {f : MemTest → MemTest} (h : Logged e s) : Logged e (galSettle 7 (s.modMtIsl f)) :=
  logged_congr rfl h

/-- R368: a bad segment mapped to a spare, which is filled from the shadow. -/
theorem memtestDone_maps {x : Nat} (hwf : memWf galDefault (s.getGal 7).mem = true) (hon : s.galOn 7 = true)
    (hspare : s.mt.remaps.length < 2) : let t := galSettle 7 ((segBad x s).modMtIsl MemTest.marched)
    t.mt = { s.mt with
      fails := min 0xF (s.mt.fails + 1), remaps := s.mt.remaps ++ [(s.mt.segment, s.mt.remaps.length)], borrowed := false
      next := (s.mt.segment + 1) % 32, yieldRun := 0 } ∧
    (∀ i, i < 65536 → galByte t 7 (0x10000 * (s.mt.remaps.length + 1) + i) = galByte s 7 i) ∧
    LoggedIfRoom (ent .galTestFail s.now 4 [(1, s.mt.segment), (4, x)] s) s t ∧ (∀ j, j ≠ 7 → t.getGal j = s.getGal j) ∧
    t = { s with gal := t.gal, mt := t.mt, log := t.log } := by
  have hfail := testFailed_eq x s
  have hgal : ∀ j, (testFailed x s).getGal j = s.getGal j := fun j => by rw [hfail]; rfl
  have heq := segCopy_eq (g := 7) (g' := 7) 0 (0x10000 * (s.mt.remaps.length + 1)) (testFailed x s)
  have hbyte := segCopy_byte 7 0 7 (0x10000 * (s.mt.remaps.length + 1)) (testFailed x s) (by rw [hgal]; exact hwf)
  have hpower := segCopy_power 7 0 7 (0x10000 * (s.mt.remaps.length + 1)) (testFailed x s)
  have hne := fun j (hj : j ≠ 7) => segCopy_ne (g := 7) (g' := 7) 0 (0x10000 * (s.mt.remaps.length + 1)) (testFailed x s) hj
  have hlog : ∀ e, Logged e (testFailed x s) → Logged e (segCopy 7 0 7 (0x10000 * (s.mt.remaps.length + 1)) (testFailed x s)) :=
    fun e he => Logged.segCopy he
  have hroom := testFailed_logged x s
  rw [segBad_spare hspare]
  generalize segCopy 7 0 7 (0x10000 * (s.mt.remaps.length + 1)) (testFailed x s) = u at heq hbyte hpower hne hlog
  have hmt : u.mt = { s.mt with fails := min 0xF (s.mt.fails + 1) } := by rw [heq, hfail]
  have hmem : ∀ v : State, v.galOwner 7 = true → v.gal = u.gal → ((galSettle 7 v).getGal 7).mem = (u.getGal 7).mem := by
    intro v howner hv
    have hget : v.getGal 7 = u.getGal 7 := getGal_congr hv 7
    rw [galSettle_mem (by rw [hget, hpower, hgal]; exact galOn_kept hon) (galDemand_kept howner), hget]
  have howner : ((u.modMtIsl (fun m => { m with remaps := m.remaps ++ [(s.mt.segment, s.mt.remaps.length)], borrowed := false })).modMtIsl
      MemTest.marched).galOwner 7 = true := by simp [State.galOwner, State.modMtIsl, MemTest.marched]
  refine ⟨?_, fun i hi => ?_, fun h => logged_congr rfl (hlog _ (hroom h)), fun j hj => ?_, ?_⟩
  · exact congrArg (fun m : MemTest => MemTest.marched { m with
      remaps := m.remaps ++ [(s.mt.segment, s.mt.remaps.length)], borrowed := false }) hmt
  · have hcopy := hbyte (0x10000 * (s.mt.remaps.length + 1) + i)
    rw [if_pos ⟨by omega, by omega⟩, Nat.zero_add, Nat.add_sub_cancel_left] at hcopy
    have hsame : galByte (testFailed x s) 7 i = galByte s 7 i := by rw [galByte, hgal]; rfl
    refine Eq.trans ?_ (hcopy.trans hsame)
    rw [galByte, hmem _ howner rfl]
    rfl
  · rw [getGal_galSettle_ne hj]
    exact (hne j hj).trans ((readRange_ne hj _ _ _).trans (hgal j))
  · rw [heq, hfail]
    rfl

/-- R368: a bad segment stays in place with both spares in use. -/
theorem memtestDone_noSpare {x : Nat} (hwf : memWf galDefault (s.getGal 7).mem = true) (hnone : 2 ≤ s.mt.remaps.length) :
    let t := galSettle 7 ((segBad x s).modMtIsl MemTest.marched)
    t.mt = { s.mt with
      fails := min 0xF (s.mt.fails + 1), noSpare := true, borrowed := false, next := (s.mt.segment + 1) % 32, yieldRun := 0 } ∧
    LoggedIfRoom (ent .galTestFail s.now 4 [(1, s.mt.segment), (4, x)] s) s t ∧ t = { s with gal := t.gal, mt := t.mt, log := t.log } := by
  have hfail := testFailed_eq x s
  have hroom := testFailed_logged x s
  rw [segBad_none hnone]
  generalize testFailed x s = u at hfail hroom
  have hgal : u.getGal 7 = s.getGal 7 := by rw [hfail]; rfl
  obtain ⟨hmt, -, -, -, -, hframe⟩ := segRestore_settled (s := u.modMtIsl (fun m => { m with noSpare := true })) MemTest.marched
    (by rw [show (u.modMtIsl (fun m => { m with noSpare := true })).getGal 7 = u.getGal 7 from rfl, hgal]; exact hwf)
  have hlog : ∀ e, Logged e u → Logged e (galSettle 7 ((segRestore (u.modMtIsl (fun m => { m with noSpare := true }))).modMtIsl MemTest.marched)) :=
    fun e he => Logged.settled (Logged.segRestore (logged_congr rfl he))
  refine ⟨hmt.trans ?_, fun h => hlog _ (hroom h), ?_⟩
  · have : u.mt = { s.mt with fails := min 0xF (s.mt.fails + 1) } := by rw [hfail]
    exact congrArg (fun m : MemTest => MemTest.marched { m with noSpare := true, borrowed := false }) this
  · rw [hframe, hfail]
    rfl

/-- R369: a borrow yielded. -/
def MemTest.yielded (now : Nat) (m : MemTest) : MemTest :=
  if m.yieldRun + 1 ≥ 8 then
    { m with
      yields := satAdd 0xFF m.yields 1, lastAt := some now, yieldRun := 0, skipped := satAdd 0xF m.skipped 1, next := (m.segment + 1) % 32 }
  else { m with yields := satAdd 0xFF m.yields 1, lastAt := some now, yieldRun := m.yieldRun + 1, next := m.segment }

theorem segRestore_now (s : State) : (segRestore s).now = s.now := by
  unfold segRestore
  rw [segCopy_eq]
  rfl

theorem memYield_eq (s : State) : memYield s = galSettle 7 ((if s.segTested then segRestore s
    else s.modMtIsl (fun m => { m with borrowed := false })).modMtIsl (MemTest.yielded s.now)) := by
  unfold memYield
  extract_lets s₁
  have hnow : s₁.now = s.now := by
    unfold s₁
    split
    · exact segRestore_now s
    · rfl
  rw [← hnow]
  rfl

theorem yielded_eq (now : Nat) (m : MemTest) :
    (m.yieldRun < 7 → m.yielded now = { m with
      yields := min 0xFF (m.yields + 1), yieldRun := m.yieldRun + 1, next := m.segment, lastAt := some now }) ∧
    (7 ≤ m.yieldRun → m.yielded now = { m with
      yields := min 0xFF (m.yields + 1), yieldRun := 0, skipped := min 0xF (m.skipped + 1), next := (m.segment + 1) % 32, lastAt := some now }) :=
  ⟨fun h => if_neg (by omega), fun h => if_pos (by omega)⟩

end Commands

/-- Settles O42, by the bytes of a copied segment and by what the test makes of its own registers. -/
theorem memoryTestBorrowsAndRestores : Obligations.MemoryTestBorrowsAndRestores := by
  intro s hup hwf4 hwf7 base next bad badCopy
  refine ⟨memtestBorrow_waits hup, fun hen hfree hrun hon hturn hnext hremaps hshed => ?_, fun hb hon => ⟨?_, fun x hspare => ?_, fun x hnone => ?_⟩,
    fun hfree => ?_, fun h b => memtestDone_waits hup h b, fun hb => ?_⟩
  · have hexec := memtestBorrow_borrows hup hen hfree hrun hon hturn hnext hremaps
    cases h7 : s.galOn 7 with
    | true =>
      obtain ⟨hbyte, hbad, hnone, hmem, hne, hframe⟩ := memtestBorrow_copies hwf4 hshed h7
      refine ⟨_, hexec, by rw [hframe], fun _ => ⟨fun i hi => (hbyte i).trans (if_pos hi), fun i hi => (hbyte i).trans (if_neg (Nat.not_lt.2 hi)),
        hbad⟩, fun h => absurd h (by simp), fun h => hnone (h.resolve_left (by simp)), hmem, hne, ?_⟩
      rw [hframe]
    | false =>
      obtain ⟨hoff, hclear⟩ := memtestBorrow_clears hshed hup h7
      rw [hoff] at hexec
      exact ⟨_, hexec, rfl, fun h => absurd h (by simp), fun _ => hclear, fun _ => ⟨rfl, fun j hj => testBorrowed_ne hj⟩,
        fun j hj => congrArg Gal.mem (testBorrowed_ne hj), fun j _ hj => testBorrowed_ne hj, rfl⟩
  · obtain ⟨hmt, hbyte, hlog, hbad, hne, hframe⟩ := segRestore_settled MemTest.marched hwf7
    exact ⟨_, memtestDone_ends hup hb hon none, hmt, hbyte, hlog, hbad, hne, hframe⟩
  · exact ⟨_, memtestDone_ends hup hb hon (some x), memtestDone_maps hwf7 hon hspare⟩
  · exact ⟨_, memtestDone_ends hup hb hon (some x), memtestDone_noSpare hwf7 hnone⟩
  · exact (onIsl_up hup : execMemtestYield s = _).trans (congrArg Host.Outcome.next (if_neg (by simp [hfree])))
  · have hexec := (onIsl_up hup : execMemtestYield s = _).trans (congrArg Host.Outcome.next (if_pos hb))
    rw [memYield_eq] at hexec
    obtain ⟨hfew, hlast⟩ := yielded_eq s.now { s.mt with borrowed := false }
    cases h7 : s.galOn 7 with
    | true =>
      rw [if_pos (show s.segTested = true from Bool.and_eq_true_iff.2 ⟨hb, h7⟩)] at hexec
      obtain ⟨hmt, hbyte, hlog, -, hne, hframe⟩ := segRestore_settled (MemTest.yielded s.now) hwf7
      exact ⟨_, hexec, fun h => hmt.trans (hfew h), fun h => hmt.trans (hlast h), fun _ => hbyte, fun h => absurd h (by simp),
        fun h => hlog (h.resolve_left (by simp)), hne, hframe⟩
    | false =>
      rw [if_neg (by simp [State.segTested, h7])] at hexec
      exact ⟨_, hexec, hfew, hlast, fun h => absurd h (by simp), fun _ => getGal_galSettle_ne (by decide) _, fun _ => rfl,
        fun j _ hj => getGal_galSettle_ne hj _, rfl⟩

end Sys2Proof.Machine
end

section
-- One proof after another: elaborated side by side they take more memory than the check allows.
set_option Elab.async false
/-! PROOF. A mailbox whose OP field holds more than its two bits (O17). -/

namespace Sys2Proof.Machine

open Sys2Proof.Cert

/-- A running block in which port 0 is in role 1 and OP of its mailbox is 4, which runs over into FORCE. -/
def opBeyondField : State where
  glb := { lock := 0x3FF }
  pwr := { mainOn := true }
  role := { port := [(0, { role := 1 })] }
  headAcc := [(0, { op := 4 })]

theorem opBeyondField_mayAct : MayAct opBeyondField 0 1 islSteward :=
  ⟨by decide, by decide, by decide, by decide, fun _ hw => absurd hw List.not_mem_nil⟩

/-- FORCE of port p's mailbox after a command. -/
def forceAfter (p : Nat) (o : Out) : Bool :=
  match o with
  | .next t => (t.getHeadAcc p).force
  | _ => false

/-- HEAD_ACC_READ by port 0 sets FORCE. -/
theorem headAccRead_opBeyondField : forceAfter 0 (exec (.headAccRead 0) opBeyondField) = true := by decide +kernel

/-- Refutes O17: with OP at 4, GO of HEAD_ACC_READ sets FORCE of the mailbox. -/
theorem not_headRequestsAndChanges : ¬ Obligations.HeadRequestsAndChanges := by
  unfold Obligations.HeadRequestsAndChanges
  intro h
  obtain ⟨-, hread, -, -⟩ := h
  obtain ⟨-, hrefused⟩ := hread 0 opBeyondField opBeyondField_mayAct (by decide) (by decide) (by decide)
  obtain ⟨t, ht, hacc, -⟩ := hrefused (by decide)
  have hforce : forceAfter 0 (exec (.headAccRead 0) opBeyondField) = (t.getHeadAcc 0).force := by rw [ht]; rfl
  rw [headAccRead_opBeyondField] at hforce
  exact absurd (hforce.trans (congrArg HeadAcc.force hacc)) (by decide)

end Sys2Proof.Machine
end

section
-- One proof after another: elaborated side by side they take more memory than the check allows.
set_option Elab.async false
/-! PROOF. One sample of the tamper monitors (O51). -/

namespace Sys2Proof.Machine

open Sys2Proof.Cert

/-! ## The end of a session (R412) and of challenges (R407, R414) -/

/-- A state that differs from another in the ports' sessions, what the host ports hold, the log, and the count of audit records only. -/
def SessionsOnly (s t : State) : Prop :=
  t = { s with
    role := { s.role with port := t.role.port, audit := t.role.audit }
    host := { s.host with hp := t.host.hp }, log := t.log }

theorem SessionsOnly.refl (s : State) : SessionsOnly s s := rfl

theorem SessionsOnly.trans {s t u : State} (h : SessionsOnly s t) (h' : SessionsOnly t u) : SessionsOnly s u := by
  unfold SessionsOnly at *
  rw [h', h]

theorem SessionsOnly.each {α : Type} {f : State → α → State} (hf : ∀ s a, SessionsOnly s (f s a)) (l : List α) (s : State) :
    SessionsOnly s (each l f s) :=
  each_keeps (SessionsOnly s) (fun t a ht => ht.trans (hf t a)) l (SessionsOnly.refl s)

theorem sessionsOnly_modRolePort (s : State) (q : Nat) (f : RolePort → RolePort) : SessionsOnly s (s.modRolePort q f) := rfl

theorem sessionsOnly_endSession (c q : Nat) (s : State) : SessionsOnly s (endSession c q s) := by
  unfold endSession
  extract_lets role s₁ s₂
  split
  · exact SessionsOnly.refl s
  · have h₂ : SessionsOnly s s₂ := rfl
    refine h₂.trans ?_
    unfold SessionsOnly raiseAudit
    rw [raise_eq]
    rfl

theorem sessionsOnly_voidChals (role : Nat) (s : State) : SessionsOnly s (voidChals role s) :=
  SessionsOnly.each (fun t q => sessionsOnly_modRolePort t q _) _ s

theorem raiseAudit_getRolePort (c : LogCode) (i : Nat) (l : List (Nat × Nat)) (q : Nat) (s : State) :
    (raiseAudit c i l s).getRolePort q = s.getRolePort q := by
  unfold raiseAudit
  rw [raise_eq]
  rfl

/-- The sessions after the end of port q's. -/
theorem endSession_getRolePort {c q : Nat} {s : State} (h : (s.getRolePort q).role ≠ 0) :
    (endSession c q s).getRolePort q = { s.getRolePort q with role := 0, keyOwn := false } := by
  unfold endSession
  extract_lets role s₁ s₂
  rw [if_neg h, raiseAudit_getRolePort]
  exact State.getRolePort_modRolePort s q (fun x => { x with role := 0, keyOwn := false })

/-- A port without the challenges of a role. -/
def RolePort.void (role : Nat) (x : RolePort) : RolePort :=
  match x.chal with
  | none => x
  | some c => if c.role = role then { x with chal := none } else x

theorem RolePort.void_chal (role : Nat) (x : RolePort) : ∀ c, (x.void role).chal = some c → c.role ≠ role := by
  intro c hc
  unfold RolePort.void at hc
  split at hc
  · next h => rw [h] at hc; cases hc
  · next d hd =>
    split at hc
    · cases hc
    · next hne =>
      rw [hd] at hc
      exact Option.some.inj hc ▸ hne

theorem RolePort.void_kept (role : Nat) (x : RolePort) : (x.void role).role = x.role ∧ (x.void role).keyJob = x.keyJob ∧
    (x.void role).keyResult = x.keyResult := by
  unfold RolePort.void
  split
  · exact ⟨rfl, rfl, rfl⟩
  · split <;> exact ⟨rfl, rfl, rfl⟩

theorem voidChals_getRolePort {role q : Nat} (hq : q < 4) (s : State) : (voidChals role s).getRolePort q = (s.getRolePort q).void role := by
  refine each_view_once (inv := fun _ => True) (fun t => t.getRolePort q) q (RolePort.void role)
    (f := fun s p => s.modRolePort p (RolePort.void role)) (fun _ _ _ => trivial)
    (fun t j hj _ => State.getRolePort_modRolePort_ne _ _ _ _ (Ne.symm hj)) (fun t _ => State.getRolePort_modRolePort _ _ _) ?_ ?_ trivial
  · decide
  · simp [hostPorts]; omega

/-! ## One monitor in one sample (R418 to R424) -/

section Monitor

variable {m : Nat} {obs : TamperObs} {s : State}

theorem applyCfgs_getMon (hm : m < 23) (s : State) : (applyCfgs s).getMon m = (s.getMon m).applyCfg m := by
  refine each_view_once (inv := fun _ => True) (fun t => t.getMon m) m (Mon.applyCfg m) (f := fun s m => s.modMon m (Mon.applyCfg m))
    (fun _ _ _ => trivial) (fun t j hj _ => State.getMon_modMon_ne _ _ _ _ (Ne.symm hj)) (fun t _ => State.getMon_modMon _ _ _) ?_ ?_ trivial
  · exact List.nodup_range
  · exact List.mem_range.2 hm

theorem applyCfgs_eq (s : State) : applyCfgs s = { s with tmp := { s.tmp with mon := (applyCfgs s).tmp.mon } } :=
  each_keeps (fun t => t = { s with tmp := { s.tmp with mon := t.tmp.mon } }) (fun t m ht => by rw [ht]; rfl) _ rfl

/-- What monitor m leaves of itself in a sample that found `f`. -/
def Mon.sampled (m sample : Nat) (f : Found) (x : Mon) : Mon :=
  { (if x.state == .test then x else (x.filter m sample f.raw).1) with
    cond := decide (f.raw > 0), d1 := f.d1, d2 := f.d2, disRun := f.disRun
    dis := (if x.state == .test then x else (x.filter m sample f.raw).1).dis || f.disRun == 64, hits := 0, hitD1 := false, hitD2 := false }

/-- Whether it alarms. -/
def Mon.alarms? (m sample : Nat) (f : Found) (x : Mon) : Bool := if x.state == .test then false else (x.filter m sample f.raw).2

theorem senseMon_eq (m : Nat) (obs : TamperObs) (s : State) :
    (senseMon m obs s).2 = { s with tmp := { s.tmp with loop := (senseMon m obs s).2.tmp.loop } } := by
  unfold senseMon
  extract_lets x
  split
  · rfl
  · split <;> rfl

theorem sampleMon_eq (m : Nat) (obs : TamperObs) (s : State) : sampleMon m obs s =
    (((senseMon m obs s).2.getMon m).alarms? m (senseMon m obs s).2.tmp.sample (senseMon m obs s).1,
      whenDo ((senseMon m obs s).1.disRun == 64) (tamperRecord .tamperDetector LogCode.tamperDetector.info.2.1 m [])
        ((senseMon m obs s).2.modMon m (fun _ => ((senseMon m obs s).2.getMon m).sampled m (senseMon m obs s).2.tmp.sample (senseMon m obs s).1))) := by
  unfold sampleMon Mon.alarms? Mon.sampled
  generalize senseMon m obs s = fs
  obtain ⟨f, s₁⟩ := fs
  dsimp only
  split <;> rfl

theorem tamperRecord_eq (c : LogCode) (sev i : Nat) (l : List (Nat × Nat)) (s : State) :
    tamperRecord c sev i l s = { s with log := (tamperRecord c sev i l s).log } :=
  State.eq_onto (m := { log := true }) (by simp)

theorem whenDo_tamperRecord_eq (b : Bool) (c : LogCode) (sev i : Nat) (l : List (Nat × Nat)) (s : State) :
    whenDo b (tamperRecord c sev i l) s = { s with log := (whenDo b (tamperRecord c sev i l) s).log } := by
  cases b
  · rfl
  · exact tamperRecord_eq c sev i l s

/-- A sample of monitor m: the monitor, the others, and the rest of the block. -/
theorem sampleMon_does (m : Nat) (obs : TamperObs) (s : State) :
    (sampleMon m obs s).1 = (s.getMon m).alarms? m s.tmp.sample (senseMon m obs s).1 ∧
    (sampleMon m obs s).2.getMon m = (s.getMon m).sampled m s.tmp.sample (senseMon m obs s).1 ∧
    (∀ j, j ≠ m → (sampleMon m obs s).2.getMon j = s.getMon j) ∧
    (sampleMon m obs s).2 = { s with
      tmp := { s.tmp with mon := (sampleMon m obs s).2.tmp.mon, loop := (sampleMon m obs s).2.tmp.loop }
      log := (sampleMon m obs s).2.log } := by
  have hsense := senseMon_eq m obs s
  rw [sampleMon_eq]
  generalize senseMon m obs s = fs at hsense
  obtain ⟨f, s₁⟩ := fs
  have hmon : ∀ j, s₁.getMon j = s.getMon j := fun j => by rw [show s₁ = _ from hsense]; rfl
  have hsample : s₁.tmp.sample = s.tmp.sample := by rw [show s₁ = _ from hsense]
  have hrec := whenDo_tamperRecord_eq (f.disRun == 64) .tamperDetector LogCode.tamperDetector.info.2.1 m []
    (s₁.modMon m (fun _ => (s₁.getMon m).sampled m s₁.tmp.sample f))
  dsimp only at hrec ⊢
  generalize whenDo (f.disRun == 64) _ _ = t at hrec
  have htmp : t.tmp = (s₁.modMon m (fun _ => (s₁.getMon m).sampled m s₁.tmp.sample f)).tmp := by rw [hrec]
  refine ⟨by rw [hmon, hsample], ?_, fun j hj => ?_, ?_⟩
  · rw [State.getMon, htmp, hmon, hsample]
    exact State.getMon_modMon _ _ _
  · rw [State.getMon, htmp]
    exact (State.getMon_modMon_ne _ _ _ _ hj).trans (hmon j)
  · rw [htmp]
    exact hrec.trans (by rw [show s₁ = _ from hsense]; rfl)

/-- R418, R420: what an enclosure switch finds. -/
theorem senseMon_switch (hm : m < 8) (hen : (s.getMon m).enable = true) (obs : TamperObs) :
    (senseMon m obs s).1 = monFound m obs (s.getMon m) s.tmp.tempHi s.tmp.tempLo := by
  have hmain : mainMon m = false := by simp [mainMon]; omega
  unfold senseMon
  extract_lets x
  rw [if_neg (by simp [x, hen, State.monStopped, hmain]), if_neg (by omega)]

/-- A monitor that is OFF finds nothing. -/
theorem senseMon_off (hen : (s.getMon m).enable = false) (obs : TamperObs) : senseMon m obs s = ({}, s) := by
  unfold senseMon
  extract_lets x
  exact if_pos (by simp [x, hen])

theorem monFound_switch (hm : m < 8) (obs : TamperObs) (x : Mon) (hi lo : Int) :
    (monFound m obs x hi lo).raw = b2n ((obs.swHigh.getLsbD m == x.opt) || (obs.swMid.getLsbD m || obs.swUp.getLsbD m == x.opt) ||
      ((obs.swHigh.getLsbD m == x.opt) != (obs.swMid.getLsbD m || obs.swUp.getLsbD m == x.opt) && decide (64 ≤ x.disRun))) := by
  unfold monFound
  rw [if_pos hm]
  dsimp only
  congr 2
  split
  next h => rw [h, Bool.true_and]; exact decide_eq_decide.2 (by omega)
  next h => rw [Bool.eq_false_iff.2 h, Bool.false_and]; rfl

end Monitor

/-! ## The filter (R424, R425) -/

section Filter

variable {m sample raw : Nat} {x : Mon}

/-- The settings and the count of alarms of a monitor. -/
def Mon.config (x : Mon) : Bool × Nat × Nat × Nat × Option (Word × Word) := (x.enable, x.response, x.count, x.window, x.newCfg)

theorem rearm_kept (m raw : Nat) (x : Mon) : (x.rearm m raw).config = x.config ∧ (x.rearm m raw).alarms = x.alarms := by
  unfold Mon.rearm
  split
  · extract_lets q
    split <;> exact ⟨rfl, rfl⟩
  · exact ⟨rfl, rfl⟩

theorem expire_kept (sample : Nat) (x : Mon) : (x.expire sample).config = x.config ∧ (x.expire sample).alarms = x.alarms := by
  unfold Mon.expire
  split
  · exact ⟨rfl, rfl⟩
  · split <;> exact ⟨rfl, rfl⟩

theorem put_self (x : Mon) : (x.put x).config = x.config ∧ (x.put x).alarms = x.alarms := by
  unfold Mon.put
  extract_lets y
  split <;> exact ⟨rfl, rfl⟩

theorem filter_config (m sample raw : Nat) (x : Mon) : (x.filter m sample raw).1.config = x.config := by
  unfold Mon.filter
  extract_lets y z n
  have hy : y.config = x.config := by
    unfold y
    split
    · rfl
    · exact (put_self x).1
  have hz : z.config = x.config := (expire_kept _ _).1.trans ((rearm_kept _ _ _).1.trans hy)
  split
  · split <;> exact hz
  · exact hz

theorem sampled_config (m sample : Nat) (f : Found) (x : Mon) : (x.sampled m sample f).config = x.config := by
  unfold Mon.sampled
  split
  · rfl
  · exact filter_config m sample f.raw x

theorem filter_armed (m sample raw : Nat) (hen : x.enable = true) (hst : x.state = .armed) : x.filter m sample raw =
    if raw = 0 then (x.expire sample, false)
    else if x.count ≤ (x.expire sample).n + raw then ({ x.expire sample with
      state := .tripped, opened := none, n := 0, quiet := 0, alarms := min 0xFFFF (x.alarms + 1) }, true)
    else ({ x.expire sample with opened := some ((x.expire sample).opened.getD sample), n := (x.expire sample).n + raw }, false) := by
  have hput : x.put x = x := if_pos hen
  have hre : x.rearm m raw = x := if_neg (by simp [hst])
  have hstate : (x.expire sample).state = .armed := by
    unfold Mon.expire
    split
    · exact hst
    · split <;> exact hst
  have hcount : (x.expire sample).count = x.count := congrArg (fun y => y.2.2.1) (expire_kept sample x).1
  have halarms : (x.expire sample).alarms = x.alarms := (expire_kept sample x).2
  have hstart : (if (x.enable && x.state == .off) = true then { x with state := .armed } else x.put x) = x :=
    (if_neg (by simp [hst])).trans hput
  unfold Mon.filter
  simp only [hstart, hre, hstate, hcount, halarms]
  by_cases h : raw = 0
  · rw [if_pos h, if_neg (by omega)]
  · rw [if_neg h, if_pos ⟨trivial, by omega⟩]
    rfl

theorem expire_closed (sample : Nat) (h : x.opened = none) : x.expire sample = x := by
  unfold Mon.expire
  rw [h]

theorem expire_open {a : Nat} (h : x.opened = some a) (hlt : sample < a + x.window) : x.expire sample = x := by
  unfold Mon.expire
  rw [h]
  exact if_neg (Nat.not_le.2 hlt)

end Filter

/-! ## Every monitor (R419) -/

section All

variable {obs : TamperObs}

/-- The samples of several monitors change the monitors, the loops and the log only. -/
def MonitorsOnly (s t : State) : Prop := t = { s with tmp := { s.tmp with mon := t.tmp.mon, loop := t.tmp.loop }, log := t.log }

theorem MonitorsOnly.trans {s t u : State} (h : MonitorsOnly s t) (h' : MonitorsOnly t u) : MonitorsOnly s u := by
  unfold MonitorsOnly at *
  rw [h', h]

theorem sampleMon_only (m : Nat) (obs : TamperObs) (s : State) : MonitorsOnly s (sampleMon m obs s).2 := (sampleMon_does m obs s).2.2.2

theorem sampleAll_only (obs : TamperObs) (l : List Nat) (s : State) : MonitorsOnly s (sampleAll obs l s).2 := by
  induction l generalizing s with
  | nil => rfl
  | cons m l ih => exact (sampleMon_only m obs s).trans (ih _)

theorem sampleAll_sublist (obs : TamperObs) (l : List Nat) (s : State) : (sampleAll obs l s).1.Sublist l := by
  induction l generalizing s with
  | nil => exact List.Sublist.slnil
  | cons m l ih =>
    unfold sampleAll
    dsimp only
    split
    · exact (ih _).cons_cons m
    · exact (ih _).cons m

theorem sampleAll_ne (obs : TamperObs) {l : List Nat} {j : Nat} (hj : j ∉ l) (s : State) : (sampleAll obs l s).2.getMon j = s.getMon j := by
  induction l generalizing s with
  | nil => rfl
  | cons m l ih =>
    obtain ⟨hjm, hjl⟩ := not_or.1 (fun h => hj (List.mem_cons.2 h))
    exact (ih hjl _).trans ((sampleMon_does m obs s).2.2.1 j hjm)

/-- An enabled enclosure switch in the samples of several monitors. -/
theorem sampleAll_switch {l : List Nat} (hl : l.Nodup) {m : Nat} (hmem : m ∈ l) (hm : m < 8) (s : State) (hen : (s.getMon m).enable = true) :
    (sampleAll obs l s).2.getMon m = (s.getMon m).sampled m s.tmp.sample (monFound m obs (s.getMon m) s.tmp.tempHi s.tmp.tempLo) ∧
    (m ∈ (sampleAll obs l s).1 ↔
      (s.getMon m).alarms? m s.tmp.sample (monFound m obs (s.getMon m) s.tmp.tempHi s.tmp.tempLo) = true) := by
  induction l generalizing s with
  | nil => cases hmem
  | cons k l ih =>
    obtain ⟨hk, hl⟩ := List.nodup_cons.1 hl
    obtain ⟨halarm, hself, hne, honly⟩ := sampleMon_does k obs s
    unfold sampleAll
    dsimp only
    by_cases hmk : m = k
    · subst hmk
      rw [senseMon_switch hm hen] at halarm hself
      have hsub : m ∉ (sampleAll obs l (sampleMon m obs s).2).1 := fun h => hk ((sampleAll_sublist obs l _).subset h)
      refine ⟨(sampleAll_ne obs hk _).trans hself, ?_⟩
      rw [halarm]
      split
      next h => exact ⟨fun _ => h, fun _ => List.mem_cons_self⟩
      next h => exact ⟨fun hm => absurd hm hsub, fun h' => absurd h' h⟩
    · have hget := hne m hmk
      have htmp : (sampleMon k obs s).2.tmp.sample = s.tmp.sample ∧ (sampleMon k obs s).2.tmp.tempHi = s.tmp.tempHi ∧
          (sampleMon k obs s).2.tmp.tempLo = s.tmp.tempLo := by
        rw [honly]
        exact ⟨rfl, rfl, rfl⟩
      obtain ⟨hs, hhi, hlo⟩ := htmp
      have hrest := ih hl ((List.mem_cons.1 hmem).resolve_left hmk) (sampleMon k obs s).2 (by rw [hget]; exact hen)
      rw [hget, hs, hhi, hlo] at hrest
      refine ⟨hrest.1, Iff.trans ?_ hrest.2⟩
      split
      · exact ⟨fun h => (List.mem_cons.1 h).resolve_left hmk, List.mem_cons_of_mem _⟩
      · exact Iff.rfl

theorem filter_off {m sample : Nat} {x : Mon} : (x.filter m sample 0).2 = false ∧ (x.filter m sample 0).1.alarms = x.alarms := by
  unfold Mon.filter
  extract_lets y z n
  have hy : y.alarms = x.alarms := by
    unfold y
    split
    · rfl
    · exact (put_self x).2
  have hz : z.alarms = x.alarms := (expire_kept _ _).2.trans ((rearm_kept _ _ _).2.trans hy)
  rw [if_neg (by simp)]
  exact ⟨rfl, hz⟩

/-- The sample of a monitor that is OFF. -/
theorem sampleMon_off {m : Nat} {s : State} (hen : (s.getMon m).enable = false) : (sampleMon m obs s).1 = false ∧
    ((sampleMon m obs s).2.getMon m).cond = false ∧ ((sampleMon m obs s).2.getMon m).alarms = (s.getMon m).alarms ∧
    (sampleMon m obs s).2 = { s with tmp := { s.tmp with mon := (sampleMon m obs s).2.tmp.mon } } := by
  rw [sampleMon_eq, senseMon_off hen]
  dsimp only
  obtain ⟨hno, halarms⟩ := filter_off (m := m) (sample := s.tmp.sample) (x := s.getMon m)
  refine ⟨?_, ?_, ?_, rfl⟩
  · unfold Mon.alarms?
    rw [hno, ite_self]
  · exact congrArg Mon.cond (State.getMon_modMon _ _ _)
  · refine (congrArg Mon.alarms (State.getMon_modMon _ _ _)).trans ?_
    unfold Mon.sampled
    dsimp only
    split
    · rfl
    · exact halarms

/-- The samples of monitors that are all OFF. -/
theorem sampleAll_off {l : List Nat} (hl : l.Nodup) (s : State) (hen : ∀ m ∈ l, (s.getMon m).enable = false) :
    (sampleAll obs l s).1 = [] ∧ (∀ m ∈ l, ((sampleAll obs l s).2.getMon m).cond = false ∧
      ((sampleAll obs l s).2.getMon m).alarms = (s.getMon m).alarms) ∧
    (sampleAll obs l s).2 = { s with tmp := { s.tmp with mon := (sampleAll obs l s).2.tmp.mon } } := by
  induction l generalizing s with
  | nil => exact ⟨rfl, fun m hm => absurd hm List.not_mem_nil, rfl⟩
  | cons k l ih =>
    obtain ⟨hk, hl⟩ := List.nodup_cons.1 hl
    obtain ⟨hno, hcond, halarms, honly⟩ := sampleMon_off (obs := obs) (hen k List.mem_cons_self)
    have hne : ∀ j, j ≠ k → (sampleMon k obs s).2.getMon j = s.getMon j := (sampleMon_does k obs s).2.2.1
    have hlk : ∀ m ∈ l, m ≠ k := fun m hm h => hk (h ▸ hm)
    obtain ⟨hnone, hmons, hrest⟩ := ih hl (sampleMon k obs s).2 (fun m hm => by
      rw [hne m (hlk m hm)]
      exact hen m (List.mem_cons_of_mem _ hm))
    unfold sampleAll
    dsimp only
    rw [hno, hnone]
    refine ⟨rfl, fun m hm => ?_, ?_⟩
    · rcases List.mem_cons.1 hm with rfl | hm
      · rw [sampleAll_ne obs hk]
        exact ⟨hcond, halarms⟩
      · obtain ⟨h1, h2⟩ := hmons m hm
        exact ⟨h1, h2.trans (by rw [hne m (hlk m hm)])⟩
    · exact hrest.trans (by rw [honly])

end All

/-! ## The alarms answered (R426 to R431) -/

section Answer

variable {s : State} {ms : List Nat} {bad : Nat}

/-- The log alone changes. -/
def LogOnly (s t : State) : Prop := t = { s with log := t.log }

theorem LogOnly.trans {s t u : State} (h : LogOnly s t) (h' : LogOnly t u) : LogOnly s u := by
  unfold LogOnly at *
  rw [h', h]

theorem tamperRecord_raise (hcell : s.onCell = false) (c : LogCode) (sev i : Nat) (l : List (Nat × Nat)) :
    tamperRecord c sev i l s = raiseSev c sev s.now i l s := if_neg (by simp [hcell])

theorem tamperRecord_logged {c : LogCode} (hc : c.info.2.2 = true) (hcell : s.onCell = false) (sev i : Nat) (l : List (Nat × Nat)) :
    Logged (entSev c sev s.now i l s) (tamperRecord c sev i l s) := by
  rw [tamperRecord_raise hcell]
  exact sendEnt_logged _ _ s (.inl hc)

theorem Logged.tamperRecord {e : LogEnt} (hcell : s.onCell = false) {c : LogCode} {sev i : Nat} {l : List (Nat × Nat)} (h : Logged e s) :
    Logged e (tamperRecord c sev i l s) := by
  rw [tamperRecord_raise hcell]
  exact Logged.sendEnt h

/-- R428: the strongest response of several monitors. -/
def worst (ms : List Nat) (s : State) : Nat := ms.foldl (fun a m => max a (s.getMon m).response) 0

/-- R431: an alarm of a revenue-class monitor that has a response. -/
def evident (ms : List Nat) (s : State) : Bool := ms.any (fun m => revenueMon m && decide ((s.getMon m).response ≥ 1))

/-- R426: the alarms of several monitors, recorded. -/
def alarmed (ms : List Nat) (s : State) : State := each ms (fun s m => alarmRecord m s) s

theorem alarmed_only (ms : List Nat) (s : State) : LogOnly s (alarmed ms s) :=
  each_keeps (LogOnly s) (fun _ _ ht => ht.trans (tamperRecord_eq _ _ _ _ _)) _ rfl

theorem le_foldl_max_map (f : Nat → Nat) (ms : List Nat) (a : Nat) : a ≤ ms.foldl (fun a m => max a (f m)) a ∧
    ∀ m ∈ ms, f m ≤ ms.foldl (fun a m => max a (f m)) a := by
  induction ms generalizing a with
  | nil => exact ⟨le_rfl, fun m hm => absurd hm List.not_mem_nil⟩
  | cons k l ih =>
    obtain ⟨h1, h2⟩ := ih (max a (f k))
    refine ⟨(le_max_left _ _).trans h1, fun m hm => ?_⟩
    rcases List.mem_cons.1 hm with rfl | hm
    · exact (le_max_right _ _).trans h1
    · exact h2 m hm

theorem response_le_worst {m : Nat} (h : m ∈ ms) (s : State) : (s.getMon m).response ≤ worst ms s :=
  (le_foldl_max_map (fun m => (s.getMon m).response) ms 0).2 m h

theorem onCell_congr {s t : State} (h : t.pwr = s.pwr) : t.onCell = s.onCell := by simp only [State.onCell, h]

theorem Logged.alarmed {e : LogEnt} (hcell : s.onCell = false) (h : Logged e s) : Logged e (alarmed ms s) := by
  refine (each_keeps (fun u => LogOnly s u ∧ Logged e u) (fun u m hu => ?_) ms ⟨show LogOnly s s from rfl, h⟩).2
  have hpwr : u.pwr = s.pwr := by rw [hu.1]
  exact ⟨hu.1.trans (tamperRecord_eq _ _ _ _ _), Logged.tamperRecord ((onCell_congr hpwr).trans hcell) hu.2⟩

theorem alarmRecord_logged (hcell : s.onCell = false) (m : Nat) : Logged (entSev .tamperAlarm (respSev (s.getMon m).response) s.now m
    [(8, s.now), (2, s.tmp.sample % 1024)] s) (alarmRecord m s) := by
  unfold alarmRecord
  rw [if_neg (by simp [hcell])]
  exact tamperRecord_logged rfl hcell _ _ _

theorem alarmed_logged (hcell : s.onCell = false) {m : Nat} (h : m ∈ ms) : Logged (entSev .tamperAlarm (respSev (s.getMon m).response) s.now m
    [(8, s.now), (2, s.tmp.sample % 1024)] s) (alarmed ms s) := by
  have hall : ∀ u, LogOnly s u → Logged (entSev .tamperAlarm (respSev (s.getMon m).response) s.now m
      [(8, s.now), (2, s.tmp.sample % 1024)] s) (alarmed ms u) := by
    induction ms with
    | nil => cases h
    | cons k l ih =>
      intro u hu
      have hk : LogOnly s (alarmRecord k u) := hu.trans (tamperRecord_eq _ _ _ _ _)
      have hpwr : ∀ {v}, LogOnly s v → v.onCell = false := fun {v} hv => (onCell_congr (by rw [hv])).trans hcell
      by_cases hmk : m = k
      · subst hmk
        have hlog := alarmRecord_logged (hpwr hu) m
        have heq : entSev .tamperAlarm (respSev (u.getMon m).response) u.now m [(8, u.now), (2, u.tmp.sample % 1024)] u =
            entSev .tamperAlarm (respSev (s.getMon m).response) s.now m [(8, s.now), (2, s.tmp.sample % 1024)] s := by
          rw [show u = _ from hu]
          rfl
        rw [heq] at hlog
        exact (Logged.alarmed (hpwr hk) hlog : Logged _ (alarmed l (alarmRecord m u)))
      · exact ih ((List.mem_cons.1 h).resolve_left hmk) _ hk
  exact hall s rfl

/-- The alarms of a sample recorded and their response noted (R426, R428). -/
def answerNoted (ms : List Nat) (s : State) : State :=
  (tamperRecord .tamperResponse (respSev (worst ms s)) 0 [(1, worst ms s), (4, monSet ms)] (alarmed ms s)).modTmpIsl (fun t => { t with
    lastResp := worst ms s, lastIdx := s.now, lastMons := monSet ms, lastBattery := false, lastStep := evident ms s })

/-- R430, R431: the step of evidence that the alarms call for. -/
def evidenceTaken (step : Bool) (bad : Nat) (s : State) : State := if !step then s else if s.otpOn then otpStep bad s else otpPend s

theorem answerNoted_eq (ms : List Nat) (s : State) : answerNoted ms s = { s with
    tmp := { s.tmp with
      lastResp := worst ms s, lastIdx := s.now, lastMons := monSet ms, lastBattery := false, lastStep := evident ms s }
    log := (answerNoted ms s).log } := by
  have h : LogOnly s (tamperRecord .tamperResponse (respSev (worst ms s)) 0 [(1, worst ms s), (4, monSet ms)] (alarmed ms s)) :=
    (alarmed_only ms s).trans (tamperRecord_eq _ _ _ _ _)
  unfold answerNoted
  generalize tamperRecord .tamperResponse _ _ _ _ = u at h
  rw [show u = _ from h]
  rfl

theorem answerNoted_logged (hcell : s.onCell = false) : Logged (entSev .tamperResponse (respSev (worst ms s)) s.now 0
      [(1, worst ms s), (4, monSet ms)] s) (answerNoted ms s) ∧
    ∀ m ∈ ms, Logged (entSev .tamperAlarm (respSev (s.getMon m).response) s.now m [(8, s.now), (2, s.tmp.sample % 1024)] s) (answerNoted ms s) := by
  have honly := alarmed_only ms s
  have hcell' : (alarmed ms s).onCell = false := (onCell_congr (by rw [honly])).trans hcell
  refine ⟨?_, fun m hm => ?_⟩
  · have h := tamperRecord_logged (c := .tamperResponse) rfl hcell' (respSev (worst ms s)) 0 [(1, worst ms s), (4, monSet ms)]
    have heq : entSev .tamperResponse (respSev (worst ms s)) (alarmed ms s).now 0 [(1, worst ms s), (4, monSet ms)] (alarmed ms s) =
        entSev .tamperResponse (respSev (worst ms s)) s.now 0 [(1, worst ms s), (4, monSet ms)] s := by
      rw [show alarmed ms s = _ from honly]
      rfl
    rw [heq] at h
    exact logged_congr rfl h
  · exact logged_congr rfl (Logged.tamperRecord hcell' (alarmed_logged hcell hm))

theorem evidenceTaken_eq (step : Bool) (bad : Nat) (s : State) : evidenceTaken step bad s = { s with
    tmp := { s.tmp with
      otpCount := (evidenceTaken step bad s).tmp.otpCount, pending := (evidenceTaken step bad s).tmp.pending
      pendSat := (evidenceTaken step bad s).tmp.pendSat }
    log := (evidenceTaken step bad s).log } := by
  unfold evidenceTaken otpStep otpPend
  split
  · rfl
  split
  · split
    · rfl
    · extract_lets n s₁
      split
      · rw [tamperRecord_eq]
        rfl
      · rfl
  · unfold State.modTmpIsl
    dsimp only
    split <;> rfl

theorem Logged.evidenceTaken {e : LogEnt} {step : Bool} (hcell : s.onCell = false) (h : Logged e s) :
    Logged e (evidenceTaken step bad s) := by
  unfold Machine.evidenceTaken otpStep otpPend
  split
  · exact h
  split
  · split
    · exact h
    · extract_lets n s₁
      split
      · exact Logged.tamperRecord (s := s₁) hcell (logged_congr rfl h)
      · exact logged_congr rfl h
  · exact logged_congr rfl h

/-- The alarms of a sample recorded, in the state `u`, and their response noted, in a block that may be on the cell. -/
def answerNotedIn (ms : List Nat) (u : State) : State :=
  let v := tamperRecord .tamperResponse (respSev (worst ms u)) 0 [(1, worst ms u), (4, monSet ms)] u
  v.modTmpIsl (fun t => { t with
    lastResp := worst ms u, lastIdx := if v.onCell then 0 else v.now, lastMons := monSet ms, lastBattery := v.onCell, lastStep := evident ms u })

theorem resolve_steps (hms : ms ≠ []) : resolve ms bad s =
    if (evidenceTaken (evident ms (alarmed ms s)) bad (answerNotedIn ms (alarmed ms s))).onCell then
      respondOnCell (worst ms (alarmed ms s)) (evidenceTaken (evident ms (alarmed ms s)) bad (answerNotedIn ms (alarmed ms s)))
    else respond (worst ms (alarmed ms s)) (evidenceTaken (evident ms (alarmed ms s)) bad (answerNotedIn ms (alarmed ms s))) :=
  if_neg (by simpa using hms)

theorem answerNotedIn_alarmed (hcell : s.onCell = false) : worst ms (alarmed ms s) = worst ms s ∧ evident ms (alarmed ms s) = evident ms s ∧
    answerNotedIn ms (alarmed ms s) = answerNoted ms s := by
  have honly := alarmed_only ms s
  have hworst : worst ms (alarmed ms s) = worst ms s := by
    rw [show alarmed ms s = _ from honly]
    rfl
  have hevident : evident ms (alarmed ms s) = evident ms s := by
    rw [show alarmed ms s = _ from honly]
    rfl
  refine ⟨hworst, hevident, ?_⟩
  unfold answerNotedIn answerNoted
  rw [hworst, hevident]
  generalize alarmed ms s = u at honly
  have hrec := tamperRecord_eq .tamperResponse (respSev (worst ms s)) 0 [(1, worst ms s), (4, monSet ms)] u
  generalize tamperRecord .tamperResponse (respSev (worst ms s)) 0 [(1, worst ms s), (4, monSet ms)] u = v at hrec
  have hv : LogOnly s v := honly.trans hrec
  have hcell' : v.onCell = false := (onCell_congr (by rw [hv])).trans hcell
  have hnow : v.now = s.now := by rw [hv]; rfl
  dsimp only
  rw [hcell', hnow]
  rfl

theorem resolve_eq (hms : ms ≠ []) (hcell : s.onCell = false) :
    resolve ms bad s = respond (worst ms s) (evidenceTaken (evident ms s) bad (answerNoted ms s)) := by
  obtain ⟨hworst, hevident, hnoted⟩ := answerNotedIn_alarmed (ms := ms) hcell
  have hoff : (evidenceTaken (evident ms s) bad (answerNoted ms s)).onCell = false := by
    refine (onCell_congr ?_).trans hcell
    rw [evidenceTaken_eq, answerNoted_eq]
  rw [resolve_steps hms, hworst, hevident, hnoted, hoff]
  rfl

/-- R430: a step that can be programmed now. -/
theorem evidenceTaken_now (hon : s.otpOn = true) (hroom : s.tmp.otpCount < 2048) :
    (evidenceTaken true bad s).tmp.otpCount = min 2048 (s.tmp.otpCount + bad + 1) ∧
    (evidenceTaken true bad s).tmp.pending = s.tmp.pending := by
  have h : evidenceTaken true bad s = otpStep bad s := if_pos hon
  rw [h]
  unfold otpStep
  rw [if_neg (Nat.not_le.2 hroom)]
  extract_lets n s₁
  split
  · rw [tamperRecord_eq]
    exact ⟨rfl, rfl⟩
  · exact ⟨rfl, rfl⟩

/-- R431: a step that waits in the pending latch. -/
theorem evidenceTaken_later (hon : s.otpOn = false) (hroom : s.tmp.pending < 255) :
    (evidenceTaken true bad s).tmp.otpCount = s.tmp.otpCount ∧ (evidenceTaken true bad s).tmp.pending = s.tmp.pending + 1 := by
  have h : evidenceTaken true bad s = otpPend s := by
    refine (if_neg (by decide)).trans (if_neg ?_)
    simp [hon]
  have hpend : otpPend s = s.modTmpIsl (fun t => { t with pending := t.pending + 1 }) := by
    unfold otpPend State.modTmpIsl
    dsimp only
    rw [if_neg (Nat.not_le.2 hroom)]
  rw [h, hpend]
  exact ⟨rfl, rfl⟩

/-! ## The response (R426 to R429) -/

/-- What a response changes. -/
def ResponseOnly (s t : State) : Prop :=
  t = { s with host := { s.host with hp := t.host.hp }, role := t.role, pwr := { s.pwr with resetAt := t.pwr.resetAt }, log := t.log }

theorem ResponseOnly.trans {s t u : State} (h : ResponseOnly s t) (h' : ResponseOnly t u) : ResponseOnly s u := by
  unfold ResponseOnly at *
  rw [h', h]

theorem SessionsOnly.response {s t : State} (h : SessionsOnly s t) : ResponseOnly s t := by
  unfold SessionsOnly ResponseOnly at *
  rw [h]

theorem ResponseOnly.refl (s : State) : ResponseOnly s s := rfl

/-- The tamper source of every port raised, for a response of 1 or more. -/
def irqTampered (r : Nat) (s : State) : State := whenDo (decide (r ≥ 1)) (irqAll irqTamper) s

theorem irqTampered_eq (r : Nat) (s : State) : irqTampered r s = { s with host := { s.host with hp := (irqTampered r s).host.hp } } := by
  unfold irqTampered
  cases decide (r ≥ 1)
  · rfl
  · exact each_keeps (fun t => t = { s with host := { s.host with hp := t.host.hp } }) (fun t p ht => by rw [ht]; rfl) _ rfl

theorem irqTampered_raised {r p : Nat} (hr : 1 ≤ r) (hp : p < 4) : bit ((irqTampered r s).getHp p).intStat 8 = true := by
  unfold irqTampered
  rw [decide_eq_true hr, whenDo_true, irqAll_hp _ _ _ hp, bit_or]
  exact Bool.or_eq_true_iff.2 (.inr rfl)

theorem raiseAudit_hp (c : LogCode) (i : Nat) (l : List (Nat × Nat)) (p : Nat) (s : State) : (raiseAudit c i l s).getHp p = s.getHp p := by
  unfold raiseAudit
  rw [raise_eq]
  rfl

theorem endSession_intStat (c q p : Nat) (s : State) : ((endSession c q s).getHp p).intStat = (s.getHp p).intStat := by
  unfold endSession
  extract_lets role s₁ s₂
  split
  · rfl
  · rw [raiseAudit_hp]
    by_cases h : p = q
    · subst h
      rw [show s₂ = s₁.modHp p (fun h => { h with ctxLatch := none }) from rfl, State.getHp_modHp]
      rfl
    · rw [show s₂ = s₁.modHp q (fun h => { h with ctxLatch := none }) from rfl, State.getHp_modHp_ne _ _ _ _ h]
      rfl

/-- R413: the sessions of every port ended, and every challenge voided. -/
def sessionsEnded (s : State) : State :=
  each hostPorts (fun s p => (endSession 2 p s).modRolePort p (fun x => { x with chal := none })) s

theorem sessionReset_eq (s : State) : sessionReset s = (if s.now < s.role.heldUntil then s else sessionsEnded s).modRoleIsl (fun r =>
    { r with heldUntil := (if s.now < s.role.heldUntil then s else sessionsEnded s).now + r.holdoff * 384000 }) := rfl

theorem sessionsEnded_only (s : State) : SessionsOnly s (sessionsEnded s) :=
  SessionsOnly.each (fun t q => (sessionsOnly_endSession 2 q t).trans (sessionsOnly_modRolePort _ q _)) _ s

theorem sessionsEnded_intStat (p : Nat) (s : State) : ((sessionsEnded s).getHp p).intStat = (s.getHp p).intStat :=
  each_same (f := fun s p => (endSession 2 p s).modRolePort p (fun x => { x with chal := none })) (fun t => (t.getHp p).intStat)
    (fun t q => endSession_intStat 2 q p t) _ s

/-- A port whose session has ended, without its challenge. -/
def RolePort.closed (x : RolePort) : RolePort :=
  if x.role = 0 then { x with chal := none } else { x with role := 0, keyOwn := false, chal := none }

theorem sessionsEnded_getRolePort {p : Nat} (hp : p < 4) (s : State) : (sessionsEnded s).getRolePort p = (s.getRolePort p).closed := by
  refine each_view_once (inv := fun _ => True) (fun t => t.getRolePort p) p RolePort.closed
    (f := fun s p => (endSession 2 p s).modRolePort p (fun x => { x with chal := none })) (fun _ _ _ => trivial)
    (fun t j hj _ => (State.getRolePort_modRolePort_ne _ _ _ _ (Ne.symm hj)).trans (endSession_ne _ _ _ _ (Ne.symm hj))) (fun t _ => ?_) ?_ ?_ trivial
  · rw [State.getRolePort_modRolePort]
    unfold RolePort.closed
    split
    next h => rw [endSession, if_pos h]
    next h => rw [endSession_getRolePort h]
  · decide
  · simp [hostPorts]; omega

theorem Logged.sessionsEnded {e : LogEnt} (h : Logged e s) : Logged e (sessionsEnded s) :=
  Logged.each (f := fun s p => (Machine.endSession 2 p s).modRolePort p (fun x => { x with chal := none }))
    (fun _ _ hu => logged_congr rfl (Logged.endSession hu)) _ h

/-- R429: the sessions in role 2 ended, with its challenges voided. -/
def installersEnded (s : State) : State :=
  voidChals 2 (each hostPorts (fun s p => if (s.getRolePort p).role = 2 then endSession 3 p s else s) s)

theorem sealUp_eq (s : State) : sealUp s = if s.role.sealed then s else (installersEnded s).modRoleIsl (fun r => { r with sealed := true }) := rfl

theorem sessionsOnly_endInstaller (p : Nat) (s : State) : SessionsOnly s (if (s.getRolePort p).role = 2 then endSession 3 p s else s) := by
  split
  · exact sessionsOnly_endSession 3 p s
  · exact SessionsOnly.refl s

theorem installersEnded_only (s : State) : SessionsOnly s (installersEnded s) :=
  (SessionsOnly.each (f := fun s p => if (s.getRolePort p).role = 2 then endSession 3 p s else s)
    (fun t q => sessionsOnly_endInstaller q t) _ s).trans (sessionsOnly_voidChals 2 _)

theorem installersEnded_intStat (p : Nat) (s : State) : ((installersEnded s).getHp p).intStat = (s.getHp p).intStat := by
  refine (each_same (f := fun s p => s.modRolePort p (RolePort.void 2)) (fun t => (t.getHp p).intStat) (fun _ _ => rfl) _ _).trans ?_
  refine each_same (f := fun s p => if (s.getRolePort p).role = 2 then endSession 3 p s else s) (fun t => (t.getHp p).intStat) (fun t q => ?_) _ s
  split
  · exact endSession_intStat 3 q p t
  · rfl

theorem installersEnded_getRolePort {p : Nat} (hp : p < 4) (s : State) : ((installersEnded s).getRolePort p).role ≠ 2 ∧
    ∀ c, ((installersEnded s).getRolePort p).chal = some c → c.role ≠ 2 := by
  have hrole : ((each hostPorts (fun s p => if (s.getRolePort p).role = 2 then endSession 3 p s else s) s).getRolePort p).role =
      if (s.getRolePort p).role = 2 then 0 else (s.getRolePort p).role := by
    refine each_view_once (inv := fun _ => True) (fun t => (t.getRolePort p).role) p (fun r => if r = 2 then 0 else r)
      (f := fun s p => if (s.getRolePort p).role = 2 then endSession 3 p s else s) (fun _ _ _ => trivial) (fun t j hj _ => ?_) (fun t _ => ?_) ?_ ?_ trivial
    · split
      · rw [endSession_ne _ _ _ _ (Ne.symm hj)]
      · rfl
    · split
      · exact endSession_role _ _ _
      · rfl
    · decide
    · simp [hostPorts]; omega
  unfold installersEnded
  rw [voidChals_getRolePort hp]
  refine ⟨?_, RolePort.void_chal 2 _⟩
  rw [(RolePort.void_kept 2 _).1, hrole]
  split
  · decide
  · assumption

theorem Logged.installersEnded {e : LogEnt} (h : Logged e s) : Logged e (installersEnded s) := by
  refine Logged.each (f := fun s p => s.modRolePort p (RolePort.void 2)) (fun _ _ hu => logged_congr rfl hu) _ ?_
  refine Logged.each (f := fun s p => if (s.getRolePort p).role = 2 then Machine.endSession 3 p s else s) (fun t q hu => ?_) _ h
  split
  · exact Logged.endSession hu
  · exact hu

/-- A response, with the tamper source raised already. -/
def responded (r : Nat) (u : State) : State :=
  match r with
  | 2 => sessionReset u
  | 3 => sealUp u
  | 4 => u.modPwrIsl (fun p => { p with resetAt := some (p.resetAt.getD u.now) })
  | _ => u

theorem respond_eq (r : Nat) (s : State) : respond r s = responded r (irqTampered r s) := rfl

theorem sessionReset_cases (s : State) : ∃ u, (u = s ∧ s.now < s.role.heldUntil ∨ u = sessionsEnded s ∧ s.role.heldUntil ≤ s.now) ∧
    sessionReset s = u.modRoleIsl (fun r => { r with heldUntil := u.now + r.holdoff * 384000 }) := by
  rw [sessionReset_eq]
  by_cases h : s.now < s.role.heldUntil
  · rw [if_pos h]
    exact ⟨s, .inl ⟨rfl, h⟩, rfl⟩
  · rw [if_neg h]
    exact ⟨_, .inr ⟨rfl, Nat.not_lt.1 h⟩, rfl⟩

theorem responseOnly_modRoleIsl (s : State) (f : Role → Role) : ResponseOnly s (s.modRoleIsl f) := rfl

theorem Logged.modRoleIsl {e : LogEnt} (f : Role → Role) (h : Logged e s) : Logged e (s.modRoleIsl f) := logged_congr rfl h

theorem modRoleIsl_role (f : Role → Role) (s : State) : (s.modRoleIsl f).role = f s.role := rfl

theorem modRoleIsl_getRolePort {f : Role → Role} (hf : ∀ r, (f r).port = r.port) (p : Nat) (s : State) :
    (s.modRoleIsl f).getRolePort p = s.getRolePort p := by
  rw [State.getRolePort, modRoleIsl_role, hf]
  rfl

theorem modRoleIsl_getHp (f : Role → Role) (p : Nat) (s : State) : (s.modRoleIsl f).getHp p = s.getHp p := rfl

theorem responded_only (r : Nat) (u : State) : ResponseOnly u (responded r u) := by
  unfold responded
  split
  · obtain ⟨v, hv, heq⟩ := sessionReset_cases u
    rw [heq]
    refine ResponseOnly.trans ?_ (responseOnly_modRoleIsl v _)
    rcases hv with ⟨rfl, -⟩ | ⟨rfl, -⟩
    · exact ResponseOnly.refl v
    · exact (sessionsEnded_only u).response
  · rw [sealUp_eq]
    split
    · exact ResponseOnly.refl u
    · exact (installersEnded_only u).response.trans (responseOnly_modRoleIsl _ _)
  · rfl
  · exact ResponseOnly.refl u

/-- What a response leaves as it is. -/
theorem respond_only (r : Nat) (s : State) : ResponseOnly s (respond r s) := by
  have hirq : ResponseOnly s (irqTampered r s) := by
    unfold ResponseOnly
    rw [irqTampered_eq]
  exact hirq.trans (responded_only r _)

theorem Logged.responded {e : LogEnt} {r : Nat} {u : State} (h : Logged e u) : Logged e (responded r u) := by
  unfold Machine.responded
  split
  · obtain ⟨v, hv, heq⟩ := sessionReset_cases u
    rw [heq]
    refine Logged.modRoleIsl _ ?_
    rcases hv with ⟨rfl, -⟩ | ⟨rfl, -⟩
    · exact h
    · exact Logged.sessionsEnded h
  · rw [sealUp_eq]
    split
    · exact h
    · exact Logged.modRoleIsl _ (Logged.installersEnded h)
  · exact logged_congr rfl h
  · exact h

theorem Logged.respond {e : LogEnt} {r : Nat} (h : Logged e s) : Logged e (respond r s) := by
  rw [respond_eq]
  refine Logged.responded ?_
  rw [irqTampered_eq]
  exact logged_congr rfl h

theorem responded_intStat (r p : Nat) (u : State) : ((responded r u).getHp p).intStat = (u.getHp p).intStat := by
  unfold responded
  split
  · obtain ⟨v, hv, heq⟩ := sessionReset_cases u
    rw [heq, modRoleIsl_getHp]
    rcases hv with ⟨rfl, -⟩ | ⟨rfl, -⟩
    · rfl
    · exact sessionsEnded_intStat p u
  · rw [sealUp_eq]
    split
    · rfl
    · rw [modRoleIsl_getHp, installersEnded_intStat]
  · rfl
  · rfl

theorem respond_intStat {r p : Nat} (hr : 1 ≤ r) (hp : p < 4) (s : State) : bit ((respond r s).getHp p).intStat 8 = true := by
  rw [respond_eq, responded_intStat]
  exact irqTampered_raised hr hp

theorem irqTampered_role (r : Nat) (s : State) : (irqTampered r s).role = s.role ∧ (irqTampered r s).now = s.now := by
  rw [irqTampered_eq]
  exact ⟨rfl, rfl⟩

theorem RolePort.closed_role (x : RolePort) : x.closed.role = 0 ∧ x.closed.chal = none := by
  unfold RolePort.closed
  split
  next h => exact ⟨h, rfl⟩
  next h => exact ⟨rfl, rfl⟩

/-- R429: response 2 in force: every session ended, unless a holdoff runs, which starts again. -/
theorem sessionReset_held (u : State) : (sessionReset u).role.heldUntil = u.now + u.role.holdoff * 384000 ∧
    (u.role.heldUntil ≤ u.now → ∀ p, p < 4 → ((sessionReset u).getRolePort p).role = 0 ∧ ((sessionReset u).getRolePort p).chal = none) := by
  obtain ⟨v, hv, heq⟩ := sessionReset_cases u
  have honly : SessionsOnly u v := by
    rcases hv with ⟨rfl, -⟩ | ⟨rfl, -⟩
    · exact SessionsOnly.refl v
    · exact sessionsEnded_only u
  have hnow : v.now = u.now ∧ v.role.holdoff = u.role.holdoff := by
    rw [show v = _ from honly]
    exact ⟨rfl, rfl⟩
  rw [heq, ← hnow.1, ← hnow.2]
  refine ⟨by rw [modRoleIsl_role], fun hheld p hp => ?_⟩
  obtain ⟨-, hlt⟩ | ⟨rfl, -⟩ := hv
  · omega
  · have hport := sessionsEnded_getRolePort hp u
    generalize sessionsEnded u = v at hport
    rw [modRoleIsl_getRolePort (fun r => by rfl), hport]
    exact RolePort.closed_role _

theorem respond_two (s : State) : (respond 2 s).role.heldUntil = s.now + s.role.holdoff * 384000 ∧
    (s.role.heldUntil ≤ s.now → ∀ p, p < 4 → ((respond 2 s).getRolePort p).role = 0 ∧ ((respond 2 s).getRolePort p).chal = none) := by
  obtain ⟨hrole, hnow⟩ := irqTampered_role 2 s
  have h := sessionReset_held (irqTampered 2 s)
  rw [hrole, hnow] at h
  exact h

/-- R429: response 3 in force. -/
theorem sealUp_sealed (u : State) : (sealUp u).role.sealed = true ∧
    (u.role.sealed = false → ∀ p, p < 4 → ((sealUp u).getRolePort p).role ≠ 2 ∧ ∀ c, ((sealUp u).getRolePort p).chal = some c → c.role ≠ 2) ∧
    (u.role.sealed = true → (sealUp u).role.port = u.role.port) := by
  rw [sealUp_eq]
  refine ⟨?_, fun hopen p hp => ?_, fun hsealed => ?_⟩
  · split
    · assumption
    · rfl
  · have hport := installersEnded_getRolePort hp u
    rw [if_neg (by simp [hopen])]
    generalize installersEnded u = v at hport
    exact hport
  · rw [if_pos hsealed]

theorem respond_three (s : State) : (respond 3 s).role.sealed = true ∧
    (s.role.sealed = false → ∀ p, p < 4 → ((respond 3 s).getRolePort p).role ≠ 2 ∧ ∀ c, ((respond 3 s).getRolePort p).chal = some c → c.role ≠ 2) ∧
    (s.role.sealed = true → (respond 3 s).role.port = s.role.port) := by
  obtain ⟨hrole, -⟩ := irqTampered_role 3 s
  have h := sealUp_sealed (irqTampered 3 s)
  rw [hrole] at h
  exact h

theorem respond_four (s : State) : (respond 4 s).pwr.resetAt.isSome = true := rfl

end Answer

/-! ## The sample -/

section Sample

variable {obs : TamperObs} {s : State}

theorem monSet_eq_sum (l : List Nat) : monSet l = (l.map (fun m => 2 ^ m)).sum := by
  unfold monSet
  rw [List.sum_eq_foldl, List.foldl_map]

/-- The set of numbers that rise holds each of them. -/
theorem monSet_testBit {l : List Nat} (hl : l.SortedLT) {m : Nat} (h : m ∈ l) : (monSet l).testBit m = true := by
  rw [← Nat.mem_bitIndices, monSet_eq_sum, Nat.bitIndices_sum_map_two_pow hl]
  exact h

theorem sampleAll_config (obs : TamperObs) (l : List Nat) (m : Nat) (s : State) :
    ((sampleAll obs l s).2.getMon m).config = (s.getMon m).config := by
  induction l generalizing s with
  | nil => rfl
  | cons k l ih =>
    refine (ih (sampleMon k obs s).2).trans ?_
    obtain ⟨-, hself, hne, -⟩ := sampleMon_does k obs s
    by_cases h : m = k
    · subst h
      rw [hself]
      exact sampled_config _ _ _ _
    · rw [hne m h]

/-- The block as a sample begins: the sample counted, the settings written in force (R425). -/
def sampleBegun (s : State) : State := applyCfgs (s.modTmpIsl (fun t => { t with sample := t.sample + 1 }))

/-- A REFCLK that is not good noted (R13). -/
def refNoted (obs : TamperObs) (s : State) : State :=
  if obs.refWatchdog || obs.refCount then s.modTmpIsl (fun t => { t with refBadAt := some t.sample }) else s

/-- The samples of every monitor taken. -/
def sampleTaken (obs : TamperObs) (s : State) : State := refNoted obs (sampleAll obs monitors (sampleBegun s)).2

theorem sampleBegun_eq (s : State) : sampleBegun s = { s with tmp := { s.tmp with sample := s.tmp.sample + 1, mon := (sampleBegun s).tmp.mon } } := by
  have h := applyCfgs_eq (s.modTmpIsl (fun t => { t with sample := t.sample + 1 }))
  unfold sampleBegun
  generalize applyCfgs _ = v at h
  exact h

theorem sampleBegun_getMon {m : Nat} (hm : m < 23) (s : State) : (sampleBegun s).getMon m = (s.getMon m).applyCfg m := by
  rw [sampleBegun, applyCfgs_getMon hm]
  rfl

theorem sampleTaken_getMon (m : Nat) (s : State) : (sampleTaken obs s).getMon m = (sampleAll obs monitors (sampleBegun s)).2.getMon m := by
  unfold sampleTaken refNoted
  generalize (sampleAll obs monitors (sampleBegun s)).2 = u
  split <;> rfl

/-- What the samples change. -/
theorem sampleTaken_eq (obs : TamperObs) (s : State) : sampleTaken obs s = { s with
    tmp := { s.tmp with
      sample := s.tmp.sample + 1, mon := (sampleTaken obs s).tmp.mon, loop := (sampleTaken obs s).tmp.loop
      refBadAt := if (obs.refWatchdog || obs.refCount) = true then some (s.tmp.sample + 1) else s.tmp.refBadAt }
    log := (sampleTaken obs s).log } := by
  have h : MonitorsOnly (sampleBegun s) (sampleAll obs monitors (sampleBegun s)).2 := sampleAll_only obs monitors _
  have hbegun := sampleBegun_eq s
  unfold sampleTaken refNoted
  generalize (sampleAll obs monitors (sampleBegun s)).2 = u at h
  generalize sampleBegun s = v at h hbegun
  rw [hbegun] at h
  split
  next hb =>
    rw [show u = _ from h]
    rfl
  next hb => exact h

theorem execTamperSample_eq (hon : s.pwr.mainOn = true) (htest : s.tmp.test = none) : exec (.tamperSample obs) s =
    .next (resolve (sampleAll obs monitors (sampleBegun s)).1 obs.badCells (sampleTaken obs s)) := by
  have hcell : cellSecond (sampleBegun s) = sampleBegun s := by
    refine if_neg ?_
    rw [sampleBegun_eq]
    simp [State.onCell, hon]
  have hnone : (sampleTaken obs s).tmp.test = none := by
    rw [sampleTaken_eq]
    exact htest
  have hskip : testSample obs.testCond (sampleTaken obs s) = sampleTaken obs s := by
    unfold testSample
    rw [hnone]
  have hexec : exec (.tamperSample obs) s = execTamperSample obs s := rfl
  have hbegun : applyCfgs (s.modTmpIsl (fun t => { t with sample := t.sample + 1 })) = sampleBegun s := rfl
  rw [hexec, execTamperSample, hbegun, hcell]
  rw [sampleTaken, refNoted] at hskip ⊢
  generalize sampleAll obs monitors (sampleBegun s) = r at hskip
  obtain ⟨ms, u⟩ := r
  dsimp only at hskip ⊢
  rw [hskip]

/-- What a sample and its answer change. -/
def SampleOnly (s t : State) : Prop :=
  t = { s with
    host := { s.host with hp := t.host.hp }, role := t.role, tmp := t.tmp, pwr := { s.pwr with resetAt := t.pwr.resetAt }, log := t.log }

theorem SampleOnly.trans {s t u : State} (h : SampleOnly s t) (h' : SampleOnly t u) : SampleOnly s u := by
  unfold SampleOnly at *
  rw [h', h]

theorem ResponseOnly.sample {s t : State} (h : ResponseOnly s t) : SampleOnly s t ∧ t.tmp = s.tmp := by
  unfold ResponseOnly at h
  unfold SampleOnly
  rw [h]
  exact ⟨rfl, rfl⟩

theorem sampleTaken_only (obs : TamperObs) (s : State) : SampleOnly s (sampleTaken obs s) := by
  have h := sampleTaken_eq obs s
  unfold SampleOnly
  generalize sampleTaken obs s = t at h
  rw [h]

theorem sampleTaken_onCell (hon : s.pwr.mainOn = true) : (sampleTaken obs s).onCell = false := by
  have h := sampleTaken_eq obs s
  generalize sampleTaken obs s = t at h
  rw [h]
  simp [State.onCell, hon]

end Sample

section Answered

variable {s : State} {ms : List Nat} {bad : Nat}

/-- The alarms recorded, their response noted, and the step of evidence taken. -/
def answerTaken (ms : List Nat) (bad : Nat) (s : State) : State := evidenceTaken (evident ms s) bad (answerNoted ms s)

/-- What stands in the monitors' status once their alarms have been answered. -/
theorem answerTaken_eq (ms : List Nat) (bad : Nat) (s : State) : answerTaken ms bad s = { s with
    tmp := { s.tmp with
      lastResp := worst ms s, lastIdx := s.now, lastMons := monSet ms, lastBattery := false, lastStep := evident ms s
      otpCount := (answerTaken ms bad s).tmp.otpCount, pending := (answerTaken ms bad s).tmp.pending
      pendSat := (answerTaken ms bad s).tmp.pendSat }
    log := (answerTaken ms bad s).log } := by
  have h := answerNoted_eq ms s
  have h' := evidenceTaken_eq (evident ms s) bad (answerNoted ms s)
  unfold answerTaken
  generalize evidenceTaken (evident ms s) bad (answerNoted ms s) = u at h'
  generalize answerNoted ms s = v at h h'
  rw [h', h]

theorem resolve_answered (hms : ms ≠ []) (hcell : s.onCell = false) :
    resolve ms bad s = respond (worst ms s) (answerTaken ms bad s) := resolve_eq hms hcell

theorem resolve_nil (bad : Nat) (s : State) : resolve [] bad s = s := rfl

theorem resolve_only (hcell : s.onCell = false) : SampleOnly s (resolve ms bad s) ∧
    (resolve ms bad s).tmp.mon = s.tmp.mon ∧ (resolve ms bad s).tmp.sample = s.tmp.sample := by
  by_cases hms : ms = []
  · rw [hms, resolve_nil]
    exact ⟨rfl, rfl, rfl⟩
  · have h := answerTaken_eq ms bad s
    obtain ⟨honly, htmp⟩ := (respond_only (worst ms s) (answerTaken ms bad s)).sample
    rw [resolve_answered hms hcell, htmp]
    generalize answerTaken ms bad s = u at h honly
    have hu : SampleOnly s u := by
      unfold SampleOnly
      rw [h]
    refine ⟨hu.trans honly, ?_, ?_⟩
    · rw [h]
    · rw [h]

/-- R430, R431: the evidence of an alarm that is a step. -/
theorem answerTaken_evidence (hstep : evident ms s = true) (hmain : s.onCell = false) :
    (s.inWarning = false → s.tmp.otpCount < 2048 → (answerTaken ms bad s).tmp.otpCount = min 2048 (s.tmp.otpCount + bad + 1) ∧
      (answerTaken ms bad s).tmp.pending = s.tmp.pending) ∧
    (s.inWarning = true → s.tmp.pending < 255 → (answerTaken ms bad s).tmp.otpCount = s.tmp.otpCount ∧
      (answerTaken ms bad s).tmp.pending = s.tmp.pending + 1) := by
  have h := answerNoted_eq ms s
  have hotp : (answerNoted ms s).otpOn = !s.inWarning := by
    have hpwr : (answerNoted ms s).pwr = s.pwr := by rw [h]
    rw [State.otpOn, onCell_congr hpwr, hmain, State.inWarning, hpwr]
    rfl
  have hcount : (answerNoted ms s).tmp.otpCount = s.tmp.otpCount ∧ (answerNoted ms s).tmp.pending = s.tmp.pending := by
    rw [h]
    exact ⟨rfl, rfl⟩
  rw [answerTaken, hstep]
  refine ⟨fun hw hroom => ?_, fun hw hroom => ?_⟩
  · rw [← hcount.1, ← hcount.2]
    exact evidenceTaken_now (by rw [hotp, hw]; rfl) (by rw [hcount.1]; exact hroom)
  · rw [← hcount.1, ← hcount.2]
    exact evidenceTaken_later (by rw [hotp, hw]; rfl) (by rw [hcount.2]; exact hroom)

theorem evident_of_mem {m : Nat} (hmem : m ∈ ms) (hm : m < 8) (hr : 1 ≤ (s.getMon m).response) : evident ms s = true := by
  refine List.any_eq_true.2 ⟨m, hmem, ?_⟩
  simp only [revenueMon, Bool.and_eq_true, decide_eq_true_eq]
  omega

/-- R426 to R431: what is so once the alarms of `s` have been answered, the alarm of monitor m among them. -/
structure Answered (s : State) (m resp bad : Nat) (t : State) : Prop where
  alarm : Logged (entSev .tamperAlarm (respSev resp) s.now m [(8, s.now), (2, s.tmp.sample % 1024)] s) t
  mons : t.tmp.lastMons.testBit m = true
  strongest : resp ≤ t.tmp.lastResp
  idx : t.tmp.lastIdx = s.now
  battery : t.tmp.lastBattery = false
  response : Logged (entSev .tamperResponse (respSev t.tmp.lastResp) s.now 0 [(1, t.tmp.lastResp), (4, t.tmp.lastMons)] s) t
  one : 1 ≤ t.tmp.lastResp → ∀ p, p < 4 → bit (t.getHp p).intStat 8 = true
  two : t.tmp.lastResp = 2 → s.role.holdoff * 384000 + s.now = t.role.heldUntil ∧
    (s.role.heldUntil ≤ s.now → ∀ p, p < 4 → (t.getRolePort p).role = 0 ∧ (t.getRolePort p).chal = none)
  three : t.tmp.lastResp = 3 → t.role.sealed = true ∧
    (s.role.sealed = false → ∀ p, p < 4 → (t.getRolePort p).role ≠ 2 ∧ ∀ c, (t.getRolePort p).chal = some c → c.role ≠ 2) ∧
    (s.role.sealed = true → t.role.port = s.role.port)
  four : t.tmp.lastResp = 4 → t.pwr.resetAt.isSome = true
  evidence : 1 ≤ resp → t.tmp.lastStep = true ∧
    (s.inWarning = false → s.tmp.otpCount < 2048 → t.tmp.otpCount = min 2048 (s.tmp.otpCount + bad + 1) ∧ t.tmp.pending = s.tmp.pending) ∧
    (s.inWarning = true → s.tmp.pending < 255 → t.tmp.otpCount = s.tmp.otpCount ∧ t.tmp.pending = s.tmp.pending + 1)

theorem resolve_does (hl : ms.SortedLT) {m : Nat} (hmem : m ∈ ms) (hm : m < 8) (hcell : s.onCell = false) :
    Answered s m (s.getMon m).response bad (resolve ms bad s) := by
  obtain ⟨hresp, halarm⟩ := answerNoted_logged (ms := ms) hcell
  have hcell' : (answerNoted ms s).onCell = false := (onCell_congr (by rw [answerNoted_eq])).trans hcell
  have hresp' : Logged _ (answerTaken ms bad s) := Logged.evidenceTaken (step := evident ms s) (bad := bad) hcell' hresp
  have halarm' : Logged _ (answerTaken ms bad s) := Logged.evidenceTaken (step := evident ms s) (bad := bad) hcell' (halarm m hmem)
  have hevid := fun h => answerTaken_evidence (bad := bad) (evident_of_mem (s := s) hmem hm h) hcell
  have htaken := answerTaken_eq ms bad s
  have htmp := (respond_only (worst ms s) (answerTaken ms bad s)).sample.2
  have hworst : worst ms s ≤ worst ms s := le_rfl
  rw [resolve_answered (List.ne_nil_of_mem hmem) hcell]
  generalize answerTaken ms bad s = u at hresp' halarm' hevid htaken htmp
  have hlast : u.tmp.lastMons = monSet ms ∧ u.tmp.lastResp = worst ms s ∧ u.tmp.lastIdx = s.now ∧ u.tmp.lastBattery = false ∧
      u.tmp.lastStep = evident ms s ∧ u.role = s.role ∧ u.now = s.now := by
    rw [htaken]
    exact ⟨rfl, rfl, rfl, rfl, rfl, rfl, rfl⟩
  obtain ⟨hmons, hworst, hidx, hbattery, hstep, hrole, hnow⟩ := hlast
  refine ⟨Logged.respond halarm', ?_, ?_, ?_, ?_, ?_, ?_, ?_, ?_, ?_, ?_⟩
  · rw [htmp, hmons]
    exact monSet_testBit hl hmem
  · rw [htmp, hworst]
    exact response_le_worst hmem s
  · rw [htmp, hidx]
  · rw [htmp, hbattery]
  · rw [htmp, hworst, hmons]
    exact Logged.respond hresp'
  · rw [htmp, hworst]
    exact fun h p hp => respond_intStat h hp u
  · rw [htmp, hworst]
    intro h
    obtain ⟨h1, h2⟩ := respond_two u
    rw [h, h1, ← hrole, ← hnow, Nat.add_comm]
    exact ⟨rfl, h2⟩
  · rw [htmp, hworst]
    intro h
    rw [h, ← hrole]
    exact respond_three u
  · rw [htmp, hworst]
    intro h
    rw [h]
    exact respond_four u
  · intro h
    rw [htmp, hstep]
    exact ⟨evident_of_mem hmem hm h, hevid h⟩

end Answered

section Settled

variable {obs : TamperObs} {s : State}

theorem monitors_sorted : monitors.SortedLT := List.sortedLT_range 23

theorem mem_monitors {m : Nat} (h : m < 23) : m ∈ monitors := List.mem_range.2 h

theorem applyCfg_none {m : Nat} {x : Mon} (h : x.newCfg = none) : x.applyCfg m = x := by
  unfold Mon.applyCfg
  rw [h]

/-- R425: the settings written of an enclosure switch in force. -/
theorem applyCfg_some {m : Nat} {x : Mon} {a b : Word} (hm : m < 8) (h : x.newCfg = some (a, b)) : (x.applyCfg m).config =
    (bit a 31, a.toNat / 2 ^ 28 % 8, b.toNat / 2 ^ 16 % 2 ^ 16, b.toNat % 2 ^ 16, none) := by
  have hen : (bit a 31 || m == 16 || m == 17) = bit a 31 := by
    rw [beq_false_of_ne (by omega), beq_false_of_ne (by omega), Bool.or_false, Bool.or_false]
  unfold Mon.applyCfg Mon.put bits
  rw [h]
  dsimp only
  rw [hen]
  split
  · simp [Mon.config]
  · simp [Mon.config]

theorem sampleTaken_config {m : Nat} (hm : m < 23) : ((sampleTaken obs s).getMon m).config = ((s.getMon m).applyCfg m).config := by
  rw [sampleTaken_getMon, sampleAll_config, sampleBegun_getMon hm]

/-- What a sample without a new setting does to an enabled enclosure switch. -/
theorem sampleTaken_switch {m : Nat} (hm : m < 8) (hcfg : (s.getMon m).newCfg = none) (hen : (s.getMon m).enable = true) :
    (sampleTaken obs s).getMon m = (s.getMon m).sampled m (s.tmp.sample + 1) (monFound m obs (s.getMon m) s.tmp.tempHi s.tmp.tempLo) ∧
    (m ∈ (sampleAll obs monitors (sampleBegun s)).1 ↔
      (s.getMon m).alarms? m (s.tmp.sample + 1) (monFound m obs (s.getMon m) s.tmp.tempHi s.tmp.tempLo) = true) := by
  have hget : (sampleBegun s).getMon m = s.getMon m := (sampleBegun_getMon (by omega) s).trans (applyCfg_none hcfg)
  have htmp : (sampleBegun s).tmp.sample = s.tmp.sample + 1 ∧ (sampleBegun s).tmp.tempHi = s.tmp.tempHi ∧
      (sampleBegun s).tmp.tempLo = s.tmp.tempLo := by
    rw [sampleBegun_eq]
    exact ⟨rfl, rfl, rfl⟩
  obtain ⟨hs, hhi, hlo⟩ := htmp
  have h := sampleAll_switch (obs := obs) monitors_sorted.nodup (mem_monitors (by omega)) hm (sampleBegun s) (by rw [hget]; exact hen)
  rw [hget, hs, hhi, hlo] at h
  rw [sampleTaken_getMon]
  exact h

/-- What a sample of an armed monitor leaves of it. -/
theorem sampled_armed {m sample : Nat} {f : Found} {x : Mon} (hen : x.enable = true) (hst : x.state = .armed)
    (hexp : x.expire sample = x) : (x.sampled m sample f).cond = decide (f.raw > 0) ∧
    (f.raw = 0 → (x.sampled m sample f).state = .armed ∧ (x.sampled m sample f).opened = x.opened ∧ (x.sampled m sample f).n = x.n ∧
      (x.sampled m sample f).alarms = x.alarms) ∧
    (f.raw = 1 → x.n + 1 < x.count → (x.sampled m sample f).state = .armed ∧
      (x.sampled m sample f).opened = some (x.opened.getD sample) ∧ (x.sampled m sample f).n = x.n + 1 ∧ (x.sampled m sample f).alarms = x.alarms) ∧
    (f.raw = 1 → x.count ≤ x.n + 1 → x.alarms? m sample f = true ∧ (x.sampled m sample f).state = .tripped ∧
      (x.sampled m sample f).opened = none ∧ (x.sampled m sample f).n = 0 ∧ (x.sampled m sample f).alarms = min 0xFFFF (x.alarms + 1)) := by
  have htest : ¬ (x.state == .test) = true := by simp [hst]
  have hfilter := filter_armed m sample f.raw hen hst
  rw [hexp] at hfilter
  unfold Mon.sampled Mon.alarms?
  simp only [if_neg htest, hfilter]
  refine ⟨trivial, fun h => ?_, fun h hlt => ?_, fun h hle => ?_⟩
  · rw [if_pos h]
    exact ⟨hst, rfl, rfl, rfl⟩
  · rw [h, if_neg (by decide), if_neg (by omega)]
    exact ⟨hst, rfl, rfl, rfl⟩
  · rw [h, if_neg (by decide), if_pos hle]
    exact ⟨rfl, rfl, rfl, rfl, rfl⟩

/-- What the switches m show of the detectors in a sample (R418, R420). -/
theorem monFound_raw {m : Nat} (hm : m < 8) (x : Mon) (hi lo : Int) (raw : Bool)
    (h : raw = ((obs.swHigh.getLsbD m == x.opt) || (obs.swMid.getLsbD m || obs.swUp.getLsbD m == x.opt) ||
      ((obs.swHigh.getLsbD m == x.opt) != (obs.swMid.getLsbD m || obs.swUp.getLsbD m == x.opt) && decide (64 ≤ x.disRun)))) :
    (monFound m obs x hi lo).raw = b2n raw := by
  rw [monFound_switch hm, h]

/-- Answered alarms as they stand for the block before the sample. -/
theorem Answered.before {m resp bad : Nat} {t : State} (h : Answered (sampleTaken obs s) m resp bad t) (ht : t.tmp.sample = s.tmp.sample + 1) :
    Answered { s with tmp := { s.tmp with sample := t.tmp.sample } } m resp bad t := by
  have heq := sampleTaken_eq obs s
  generalize sampleTaken obs s = u at h heq
  rw [ht]
  obtain ⟨h1, h2, h3, h4, h5, h6, h7, h8, h9, h10, h11⟩ := h
  rw [heq] at h1 h4 h6 h8 h9 h11
  exact ⟨h1, h2, h3, h4, h5, h6, h7, h8, h9, h10, h11⟩

/-- The second clause: no monitor that is enabled. -/
theorem sampleTaken_none (hoff : ∀ m, m < 23 → (s.getMon m).enable = false ∧ (s.getMon m).newCfg = none) :
    (sampleAll obs monitors (sampleBegun s)).1 = [] ∧ (sampleTaken obs s).tmp = { s.tmp with
      sample := s.tmp.sample + 1, mon := (sampleTaken obs s).tmp.mon
      refBadAt := if (obs.refWatchdog || obs.refCount) = true then some (s.tmp.sample + 1) else s.tmp.refBadAt } ∧
    (∀ m, m < 23 → ((sampleTaken obs s).getMon m).cond = false ∧ ((sampleTaken obs s).getMon m).alarms = (s.getMon m).alarms) ∧
    sampleTaken obs s = { s with tmp := (sampleTaken obs s).tmp } := by
  have hget : ∀ m, m < 23 → (sampleBegun s).getMon m = s.getMon m := fun m hm =>
    (sampleBegun_getMon hm s).trans (applyCfg_none (hoff m hm).2)
  obtain ⟨hnone, hmons, honly⟩ := sampleAll_off (obs := obs) monitors_sorted.nodup (sampleBegun s) (fun m hm => by
    have hm := List.mem_range.1 hm
    rw [hget m hm]
    exact (hoff m hm).1)
  have hbegun := sampleBegun_eq s
  refine ⟨hnone, ?_⟩
  have heach : ∀ m, m < 23 → ((sampleAll obs monitors (sampleBegun s)).2.getMon m).cond = false ∧
      ((sampleAll obs monitors (sampleBegun s)).2.getMon m).alarms = (s.getMon m).alarms := fun m hm => by
    obtain ⟨h1, h2⟩ := hmons m (mem_monitors hm)
    exact ⟨h1, h2.trans (by rw [hget m hm])⟩
  have hmon : (sampleTaken obs s).tmp.mon = (sampleAll obs monitors (sampleBegun s)).2.tmp.mon := by
    unfold sampleTaken refNoted
    generalize (sampleAll obs monitors (sampleBegun s)).2 = u
    split <;> rfl
  have hrest : sampleTaken obs s = { s with tmp := { s.tmp with
      sample := s.tmp.sample + 1, mon := (sampleTaken obs s).tmp.mon
      refBadAt := if (obs.refWatchdog || obs.refCount) = true then some (s.tmp.sample + 1) else s.tmp.refBadAt } } := by
    rw [hmon]
    unfold sampleTaken refNoted
    generalize (sampleAll obs monitors (sampleBegun s)).2 = u at honly
    generalize sampleBegun s = v at honly hbegun
    rw [hbegun] at honly
    split
    next hb =>
      rw [show u = _ from honly]
      rfl
    next hb => exact honly
  refine ⟨?_, fun m hm => ?_, ?_⟩
  · generalize sampleTaken obs s = u at hrest
    rw [hrest]
  · rw [sampleTaken_getMon]
    exact heach m hm
  · generalize sampleTaken obs s = u at hrest
    rw [hrest]

end Settled

/-- Settles O51: a sample as its parts, the settings in force, the monitors, and the answer to the alarms. -/
theorem tamperSamplesFilteredAndAnswered : Obligations.TamperSamplesFilteredAndAnswered := by
  intro o s hon htest
  have hexec := execTamperSample_eq (obs := o) hon htest
  have hcell := sampleTaken_onCell (obs := o) hon
  refine ⟨⟨_, hexec, ?_⟩, fun hoff => ?_⟩
  · have hsorted : (sampleAll o monitors (sampleBegun s)).1.SortedLT :=
      (monitors_sorted.pairwise.sublist (sampleAll_sublist o monitors _)).sortedLT
    have hswitch := fun m (hm : m < 8) => sampleTaken_switch (obs := o) (s := s) hm
    have hanswer := fun m (hm : m < 8) hmem => resolve_does (s := sampleTaken o s) (bad := o.badCells) hsorted (m := m) hmem hm hcell
    obtain ⟨honly, hmon, hsample⟩ := resolve_only (ms := (sampleAll o monitors (sampleBegun s)).1) (bad := o.badCells) hcell
    have hsample : (resolve (sampleAll o monitors (sampleBegun s)).1 o.badCells (sampleTaken o s)).tmp.sample = s.tmp.sample + 1 := by
      rw [hsample, sampleTaken_eq]
    have honly := (sampleTaken_only o s).trans honly
    have hget : ∀ m, (resolve (sampleAll o monitors (sampleBegun s)).1 o.badCells (sampleTaken o s)).getMon m = (sampleTaken o s).getMon m :=
      fun m => by rw [State.getMon, hmon]; rfl
    have hanswered := fun m (hm : m < 8) hmem => (hanswer m hm hmem).before hsample
    generalize resolve (sampleAll o monitors (sampleBegun s)).1 o.badCells (sampleTaken o s) = t at *
    refine ⟨hsample, fun m hm => ?_, honly⟩
    intro x y d1 d2 raw
    have hy : y = (sampleTaken o s).getMon m := hget m
    have hraw := fun hi lo => monFound_raw (obs := o) hm x hi lo raw rfl
    refine ⟨fun a b hab => ?_, fun hcfg hen hst hopen hn => ?_, fun a hcfg hen hst hopen hr hcount hlt => ?_⟩
    · have h := (congrArg Mon.config hy).trans ((sampleTaken_config (by omega)).trans (applyCfg_some hm hab))
      simp only [Mon.config, Prod.mk.injEq] at h
      exact h
    · obtain ⟨hself, -⟩ := hswitch m hm hcfg hen
      obtain ⟨hcond, hquiet, hcounted, htripped⟩ := sampled_armed (m := m) (f := monFound m o x s.tmp.tempHi s.tmp.tempLo) hen hst
        (expire_closed (s.tmp.sample + 1) hopen)
      rw [← hself, ← hy] at hcond hquiet hcounted htripped
      rw [hraw] at hcond hquiet hcounted htripped
      rw [hopen, hn] at hquiet
      rw [hopen, hn] at hcounted
      rw [hn] at htripped
      refine ⟨hcond.trans (by cases raw <;> rfl), fun h => hquiet (by rw [h]; rfl), fun h hlt => ?_, fun h hle => ?_⟩
      · rw [hsample]
        exact hcounted (by rw [h]; rfl) hlt
      · obtain ⟨-, h1, -, h3, h4⟩ := htripped (by rw [h]; rfl) hle
        exact ⟨h1, h3, h4⟩
    · obtain ⟨hself, hmem⟩ := hswitch m hm hcfg hen
      obtain ⟨-, -, -, htripped⟩ := sampled_armed (m := m) (f := monFound m o x s.tmp.tempHi s.tmp.tempLo) hen hst
        (expire_open hopen hlt)
      rw [← hself, ← hy] at htripped
      rw [hraw] at htripped
      obtain ⟨halarms, h1, h2, -, h4⟩ := htripped (by rw [hr]; rfl) (by omega)
      have hresp : ((sampleTaken o s).getMon m).response = x.response :=
        congrArg (fun y => y.2.1) ((congrArg Mon.config hself).trans (sampled_config _ _ _ _))
      have hdone := hanswered m hm (hmem.2 halarms)
      rw [hresp] at hdone
      exact ⟨h1, h2, h4, hdone.alarm, hdone.mons, hdone.strongest, hdone.idx, hdone.battery, hdone.response, hdone.one, hdone.two, hdone.three,
        hdone.four, hdone.evidence⟩
  · obtain ⟨hnone, htmp, hmons, honly⟩ := sampleTaken_none (obs := o) hoff
    rw [hnone, resolve_nil] at hexec
    exact ⟨_, hexec, htmp, hmons, honly⟩

end Sys2Proof.Machine
end

section
-- One proof after another: elaborated side by side they take more memory than the check allows.
set_option Elab.async false
/-! PROOF. Fences, posted words and register writes (O46). -/

namespace Sys2Proof.Machine

open Sys2Proof.Cert

/-! ## An admitted request (R381, R385, R412) -/

section Admitted

variable {s : State} {p n a : Nat} {seq : Byte} {data : List Word}

theorem taken_eq (s : State) (p n : Nat) (b : Bool) : whenDo b (fun s => s.modRolePort p (fun x => { x with lastUse := s.now }))
    (s.modHp p (fun h => { h with resume := (h.resume + 1) % 256, credit := h.credit - reqCost n })) = taken s p n b := by
  cases b <;> rfl

/-- What admission leaves as it is. -/
theorem taken_only (s : State) (p n : Nat) (b : Bool) : taken s p n b = { s with
    host := { s.host with hp := (taken s p n b).host.hp }, role := { s.role with port := (taken s p n b).role.port } } := by
  cases b <;> rfl

theorem taken_getHp (s : State) (p n : Nat) (b : Bool) :
    (taken s p n b).getHp p = { s.getHp p with resume := ((s.getHp p).resume + 1) % 256, credit := (s.getHp p).credit - 5 * max n 1 } := by
  have h := State.getHp_modHp s p (fun h => { h with resume := (h.resume + 1) % 256, credit := h.credit - 5 * max n 1 })
  cases b
  · exact h
  · exact h

theorem taken_getHp_ne (s : State) {p q : Nat} (n : Nat) (b : Bool) (h : q ≠ p) : (taken s p n b).getHp q = s.getHp q := by
  have h := State.getHp_modHp_ne s p q (fun h => { h with resume := (h.resume + 1) % 256, credit := h.credit - 5 * max n 1 }) h
  cases b
  · exact h
  · exact h

/-- The port of an admitted request changes once more. -/
theorem hostIs_taken (s : State) (p n : Nat) (b : Bool) (f : Hp → Hp) :
    HostIs p (f ((taken s p n b).getHp p)) s ((taken s p n b).modHp p f) :=
  ⟨State.getHp_modHp _ p f, fun _ hq => (State.getHp_modHp_ne _ p _ f hq).trans (taken_getHp_ne s n b hq)⟩

theorem taken_role (s : State) (p n : Nat) (b : Bool) : ((taken s p n b).getRolePort p).role = (s.getRolePort p).role := by
  cases b
  · rfl
  · unfold taken
    rw [if_pos rfl, State.getRolePort_modRolePort]
    rfl

theorem taken_false_portsOnly (s : State) (p n : Nat) : PortsOnly s (taken s p n false) := rfl

theorem admitReq_fence (h : Admits s p seq 0) : admitReq p seq.toNat opFence 0 a data s = answerFenceReq p seq.toNat (taken s p 0 false) := by
  obtain ⟨hnext, hfree, hcost⟩ := h
  rw [admitReq_admitted (by decide) hnext hfree hcost, ← taken_eq]
  rfl

theorem admitReq_fenceCommit (h : Admits s p seq 0) :
    admitReq p seq.toNat opFenceCommit 0 a data s = answerFenceCommit p seq.toNat a (taken s p 0 true) := by
  obtain ⟨hnext, hfree, hcost⟩ := h
  rw [admitReq_admitted (by decide) hnext hfree hcost, ← taken_eq]
  rfl

theorem exec_fence (hs : s.up islHost = true) (p : Fin 4) (seq : Byte) :
    exec (.fence p seq) s = .next (admitReq p seq.toNat opFence 0 0 [] s) := onIsl_up hs

theorem exec_fenceCommit (hs : s.up islHost = true) (p : Fin 4) (seq : Byte) (a : BitVec 24) :
    exec (.fenceCommit p seq a) s = .next (admitReq p seq.toNat opFenceCommit 0 a.toNat [] s) := onIsl_up hs

end Admitted

/-! ## Fences (R387, R390) -/

section Fences

variable {s : State} {p : Nat}

theorem postedBefore_iff (n : Nat) : s.postedBefore p n = true ↔ ∃ w ∈ s.host.posted, w.host = p ∧ w.ord < n := by
  simp [State.postedBefore]

theorem hostIs_putReply (s : State) (p seq op : Nat) (a : Answer) : HostIs p { s.getHp p with
    replies := (s.getHp p).replies ++ [{ seq := seq, bytes := replyFrame seq op a s.now [] }] } s (putReply p seq op a s.now [] s) :=
  hostIs_modHp s p _

theorem putReply_portsOnly (s : State) (p seq op : Nat) (a : Answer) (taken : Nat) (d : List Word) : PortsOnly s (putReply p seq op a taken d s) := rfl

/-- A fence without a word discarded before it. -/
theorem replyFence_ok {f : Fence} (hlates : ∀ o ∈ (s.getHp p).lates, f.before ≤ o) (hgroup : f.group = none) :
    replyFence p f {} s = putReply p f.seq opFence {} s.now [] s := by
  have hlate : (s.getHp p).lates.any (fun o => decide (o < f.before)) = false := by
    simp only [List.any_eq_false, decide_eq_true_eq, Nat.not_lt]
    exact hlates
  have hkeep : (s.getHp p).lates.filter (fun o => decide (o ≥ f.before)) = (s.getHp p).lates :=
    List.filter_eq_self.2 (fun o ho => decide_eq_true (hlates o ho))
  have hsame : s.modHp p (fun h => { h with lates := h.lates.filter (fun o => decide (o ≥ f.before)) }) = s.modHp p (fun h => h) :=
    State.modHp_congr (by rw [hkeep])
  unfold replyFence
  rw [hlate, hgroup, hsame]
  unfold putReply
  rw [State.modHp_modHp]
  rfl

/-- A fence after a discarded word. -/
theorem replyFence_late {f : Fence} {a : Answer} (hlates : ∃ o ∈ (s.getHp p).lates, o < f.before) (hgroup : f.group = none) :
    replyFence p f a s = s.modHp p (fun h => { h with
      lates := h.lates.filter (fun o => decide (f.before ≤ o))
      replies := h.replies ++ [{ seq := f.seq, bytes := replyFrame f.seq opFence (accErr 0x09 0) s.now [] }] }) := by
  have hlate : (s.getHp p).lates.any (fun o => decide (o < f.before)) = true := by
    simpa only [List.any_eq_true, decide_eq_true_eq] using hlates
  unfold replyFence
  rw [hlate, hgroup]
  unfold putReply
  rw [State.modHp_modHp]
  rfl

end Fences

/-! ## Posted words (R386, R387, R389) -/

section Posted

variable {s : State} {w : Posted} {i : Island}

/-- The block without a posted word. -/
def unposted (w : Posted) (s : State) : State := { s with host := { s.host with posted := s.host.posted.filter (fun x => x.ord != w.ord) } }

theorem exec_postedWrite (hs : s.up islHost = true) (hw : s.host.posted.find? (fun w => (islTargets i).contains w.island) = some w)
    (hbusy : s.tgtBusy w.island = false) : exec (.postedWriteExecute i) s = .next (runPosted w s) := by
  have hexec : exec (.postedWriteExecute i) s = execPostedWriteExecute i s := rfl
  rw [hexec, execPostedWriteExecute, onIsl_up hs, hw]
  dsimp only
  rw [hbusy]
  rfl

theorem exec_postedWrite_none (hs : s.up islHost = true) (hw : ∀ w ∈ s.host.posted, w.island ∉ islTargets i) :
    exec (.postedWriteExecute i) s = .next s := by
  have hnone : s.host.posted.find? (fun w => (islTargets i).contains w.island) = none := by
    simpa only [List.find?_eq_none, List.contains_iff_mem] using hw
  have hexec : exec (.postedWriteExecute i) s = execPostedWriteExecute i s := rfl
  rw [hexec, execPostedWriteExecute, onIsl_up hs, hnone]

theorem runPosted_eq (w : Posted) (s : State) : runPosted w s = wordDone w.host
    (if (unposted w s).postedLate w then discardWord w (unposted w s) else writeWord w.role w.host w.addr w.v (unposted w s)) := rfl

theorem unposted_postedUncorr : (unposted w s).postedUncorr w = s.postedUncorr w := rfl

/-- R384: what the checks of a write say of its place. -/
theorem mayWrite_window {p a x : Nat} {v : Word} {op : GalOp} (h : s.mayWrite p a v = true) (hpl : place a = .window op x) :
    s.galOn (s.galPlace p x).1 = true ∧ (s.galPlace p x).2 < galSize (s.galPlace p x).1 := by
  have hcause : s.cause4 p a = 0 := by
    simp only [State.mayWrite, Bool.and_eq_true, beq_iff_eq] at h
    exact h.1.2
  unfold State.cause4 at hcause
  rw [hpl] at hcause
  dsimp only at hcause
  split at hcause
  · cases hcause
  next hsize =>
    split at hcause
    · cases hcause
    · split at hcause
      · cases hcause
      next hon => exact ⟨by simpa using hon, by omega⟩

/-- A posted word that its checks still allow is not late. -/
theorem postedLate_none (hup : s.tgtUp w.island = true) (hgood : s.postedUncorr w = false) (hmay : s.mayWrite w.host w.addr w.v = true) :
    s.postedLate w = false := by
  unfold State.postedLate
  rw [hup, hgood]
  split
  next op x hpl =>
    obtain ⟨hon, hsize⟩ := mayWrite_window hmay hpl
    rw [hon, decide_eq_false (Nat.not_le.2 hsize)]
    rfl
  · rfl

theorem wordDone_eq (p : Nat) (s : State) : wordDone p s = { s with host := { s.host with hp := (wordDone p s).host.hp } } := rfl

theorem wordDone_getHp_ne {p q : Nat} (h : q ≠ p) (s : State) : (wordDone p s).getHp q = s.getHp q := State.getHp_modHp_ne s p q _ h

theorem wordDone_late (p : Nat) (s : State) : ((wordDone p s).getHp p).late = (s.getHp p).late ∧ ((wordDone p s).getHp p).lates = (s.getHp p).lates := by
  unfold wordDone
  rw [State.getHp_modHp]
  exact ⟨rfl, rfl⟩

/-- R387: the port that posted a discarded word. -/
def Hp.lost (w : Posted) (h : Hp) : Hp := { h with late := satAdd 0xFF h.late 1, lates := h.lates ++ [w.ord] }

/-- A word discarded, with its gallery as it is. -/
def wordLost (w : Posted) (s : State) : State := raise .hostLateWrite w.host [(4, w.addr)] (s.modHp w.host (Hp.lost w))

theorem wordLost_eq (w : Posted) (s : State) :
    wordLost w s = { s with host := { s.host with hp := (wordLost w s).host.hp }, log := (wordLost w s).log } := by
  unfold wordLost
  rw [raise_eq]
  rfl

theorem wordLost_getHp (w : Posted) (s : State) : (wordLost w s).getHp w.host = Hp.lost w (s.getHp w.host) := by
  unfold wordLost
  rw [raise_eq]
  exact State.getHp_modHp s w.host _

theorem wordLost_getHp_ne {q : Nat} (h : q ≠ w.host) (s : State) : (wordLost w s).getHp q = s.getHp q := by
  unfold wordLost
  rw [raise_eq]
  exact State.getHp_modHp_ne s w.host q _ h

theorem discardWord_bad {op : GalOp} {x : Nat} (hpl : place w.addr = .window op x) (hbad : s.postedUncorr w = true) :
    discardWord w s = wordLost w (galRead (s.galPlace w.host x).1 (s.galPlace w.host x).2 .clean s) := by
  unfold discardWord
  rw [hpl]
  dsimp only
  rw [hbad]
  rfl

theorem discardWord_good (hgood : s.postedUncorr w = false) : discardWord w s = wordLost w s := by
  unfold discardWord
  rw [hgood]
  split <;> rfl

/-- R362, R387: a word that sets or clears bits and is found uncorrectable. -/
theorem discardWord_found {op : GalOp} {x : Nat} (hpl : place w.addr = .window op x) (hbad : s.postedUncorr w = true) :
    (discardWord w s).getHp w.host = Hp.lost w (s.getHp w.host) ∧
    ((discardWord w s).getGal (s.galPlace w.host x).1).uncorr = min 0xFFFF ((s.getGal (s.galPlace w.host x).1).uncorr + 1) ∧
    ((discardWord w s).getGal (s.galPlace w.host x).1).mem = (s.getGal (s.galPlace w.host x).1).mem ∧
    (∀ j, j ≠ (s.galPlace w.host x).1 → (discardWord w s).getGal j = s.getGal j) ∧
    discardWord w s = { s with
      host := { s.host with hp := (discardWord w s).host.hp }, gal := (discardWord w s).gal, log := (discardWord w s).log } := by
  have hfound : s.galBad (s.galPlace w.host x).1 (s.galPlace w.host x).2 = true := by
    unfold State.postedUncorr at hbad
    rw [hpl] at hbad
    simp only [Bool.and_eq_true] at hbad
    exact hbad.2
  rw [discardWord_bad hpl hbad, galRead_bad _ _ _ _ (.inr hfound)]
  generalize (s.galPlace w.host x).1 = g
  generalize (s.galPlace w.host x).2 = off
  have hread := galUncorr_eq g off (s.modGal g (galTouch s.now))
  have hself := galUncorr_getGal g off (s.modGal g (galTouch s.now))
  have hne := fun j (h : j ≠ g) => galUncorr_getGal_ne h off (s.modGal g (galTouch s.now))
  rw [State.getGal_modGal] at hself
  generalize galUncorr g off (s.modGal g (galTouch s.now)) = u at hread hself hne
  have hlost := wordLost_eq w u
  have hport := wordLost_getHp w u
  have hgal : ∀ j, (wordLost w u).getGal j = u.getGal j := fun j => by rw [hlost]; rfl
  have hhost : u.host = s.host := by rw [hread]; rfl
  generalize wordLost w u = t at hlost hport hgal
  refine ⟨?_, ?_, ?_, fun j hj => ?_, ?_⟩
  · rw [hport, State.getHp, hhost]
    rfl
  · rw [hgal, hself]
    rfl
  · rw [hgal, hself]
    rfl
  · rw [hgal, hne j hj, State.getGal_modGal_ne _ _ _ _ hj]
  · rw [hlost, hread]
    rfl

end Posted

/-! ## The obligation O46 -/

/-- R390: a FENCE. -/
theorem fences_answered {s : State} {p : Fin 4} {seq : Byte} (hs : s.up islHost = true) (hadm : Admits s p seq 0) :
    let u := taken s p 0 false
    let h := u.getHp p
    let n := s.host.nextOrd
    let waits := ∃ w ∈ s.host.posted, w.host = p ∧ w.ord < n
    (waits → ∃ t, exec (.fence p seq) s = .next t ∧
      HostIs p { h with fences := h.fences ++ [{ seq := seq.toNat, before := n }] } s t ∧ PortsOnly s t) ∧
    (¬ waits → (∀ o ∈ h.lates, n ≤ o) → ∃ t, exec (.fence p seq) s = .next t ∧
      Replies p seq 3 {} u t) ∧
    (¬ waits → (∃ o ∈ h.lates, o < n) → ∃ t, exec (.fence p seq) s = .next t ∧
      HostIs p { h with
        lates := h.lates.filter (fun o => decide (n ≤ o))
        replies := h.replies ++ [{ seq := seq.toNat, bytes := replyFrame seq.toNat 3 { status := 1, cause := 0x09 } s.now [] }] } s t ∧
      PortsOnly s t) := by
  intro u h n waits
  have hexec : exec (.fence p seq) s = .next (answerFenceReq p seq.toNat u) := by
    rw [exec_fence hs, admitReq_fence hadm]
  have hwaits : u.postedBefore p n = true ↔ waits := postedBefore_iff (s := u) n
  have hreq : answerFenceReq p seq.toNat u = if u.postedBefore p n = true then
      u.modHp p (fun h => { h with fences := h.fences ++ [{ seq := seq.toNat, before := n }] })
    else replyFence p { seq := seq.toNat, before := n } {} u := rfl
  rw [hexec, hreq]
  refine ⟨fun hw => ?_, fun hw hlates => ?_, fun hw hlates => ?_⟩
  · rw [if_pos (hwaits.2 hw)]
    exact ⟨_, rfl, hostIs_taken s p 0 false _, rfl⟩
  · rw [if_neg (fun hp => hw (hwaits.1 hp)), replyFence_ok hlates rfl]
    exact ⟨_, rfl, hostIs_putReply _ _ _ _ _, putReply_portsOnly _ _ _ _ _ _ _⟩
  · rw [if_neg (fun hp => hw (hwaits.1 hp)), replyFence_late hlates rfl]
    exact ⟨_, rfl, hostIs_taken s p 0 false _, rfl⟩

/-- R390: FENCE_ANSWER. -/
theorem fenceAnswer_answers {s : State} {p : Fin 4} (hs : s.up islHost = true) :
    let h := s.getHp p
    (∀ f, h.fences.find? (fun f => f.group.isNone && !s.postedBefore p f.before) = some f → (∀ o ∈ h.lates, f.before ≤ o) →
      ∃ t, exec (.fenceAnswer p) s = .next t ∧
        HostIs p { h with
          fences := h.fences.erase f
          replies := h.replies ++ [{ seq := f.seq, bytes := replyFrame f.seq 3 {} s.now [] }] } s t ∧ PortsOnly s t) ∧
    ((∀ f ∈ h.fences, f.group = none → s.postedBefore p f.before = true) → exec (.fenceAnswer p) s = .next s) := by
  intro h
  have hexec : exec (.fenceAnswer p) s = execFenceAnswer p s := rfl
  rw [hexec, execFenceAnswer, onIsl_up hs]
  refine ⟨fun f hf hlates => ?_, fun hnone => ?_⟩
  · have hgroup : f.group = none := by
      have := List.find?_some hf
      simp only [Bool.and_eq_true, Option.isNone_iff_eq_none] at this
      exact this.1
    have hkept : ((s.modHp p (fun h => { h with fences := h.fences.erase f })).getHp p).lates = (s.getHp p).lates := by
      rw [State.getHp_modHp]
    rw [hf]
    dsimp only
    unfold answerFence
    rw [replyFence_ok (by rw [hkept]; exact hlates) hgroup]
    exact ⟨_, rfl, modHp_modHp_hostIs _ _ _ _, modHp_modHp_portsOnly _ _ _ _⟩
  · have hfind : (s.getHp p).fences.find? (fun f => f.group.isNone && !s.postedBefore p f.before) = none := by
      simp only [List.find?_eq_none, Bool.and_eq_true, Option.isNone_iff_eq_none, Bool.not_eq_true', not_and]
      intro f hf hg
      rw [hnone f hf hg]
      decide
    rw [hfind]

/-- R391: a FENCE_COMMIT. -/
theorem fenceCommit_answers {s : State} {p : Fin 4} {seq : Byte} {a : BitVec 24} (hs : s.up islHost = true) (hadm : Admits s p seq 0) :
    let u := taken s p 0 true
    let h := u.getHp p
    let waits := ∃ w ∈ s.host.posted, w.host = p ∧ w.ord < s.host.nextOrd
    ((16 ≤ a.toNat ∨ u.grpDeclared (a.toNat % 16) = false) → ∃ t, exec (.fenceCommit p seq a) s = .next t ∧
      Replies p seq 4 { status := 2, cause := 5 } u t) ∧
    (a.toNat < 16 → u.grpDeclared a.toNat = true → (s.getRolePort p).role = 0 → ∃ t, exec (.fenceCommit p seq a) s = .next t ∧
      Replies p seq 4 { status := 1, cause := 2 } u t) ∧
    (a.toNat < 16 → u.grpDeclared a.toNat = true → (s.getRolePort p).role ≠ 0 → (waits ∨ ∀ e ∈ h.fcAt, e.1 ≠ a.toNat) →
      ∃ t f, exec (.fenceCommit p seq a) s = .next t ∧ HostIs p { h with fences := h.fences ++ [f] } s t ∧
        f.seq = seq.toNat ∧ f.group = some a.toNat ∧ f.before = s.host.nextOrd ∧ (waits → f.effAt = none) ∧
        (¬ waits → f.effAt = some (h.lastEff.getD s.now)) ∧ t = { u with host := { u.host with hp := t.host.hp } }) := by
  intro u h waits
  have hexec : exec (.fenceCommit p seq a) s = .next (answerFenceCommit p seq.toNat a.toNat u) := by
    rw [exec_fenceCommit hs, admitReq_fenceCommit hadm]
  have hwaits : u.postedBefore p s.host.nextOrd = true ↔ waits := postedBefore_iff (s := u) _
  have hrole : (u.getRolePort p).role = (s.getRolePort p).role := taken_role s p 0 true
  have hsmall : ∀ {b : Bool}, a.toNat < 16 → u.grpDeclared a.toNat = true →
      (decide (a.toNat ≥ 16) || !u.grpDeclared (a.toNat % 16)) = b → b = false := fun ha hg hb => by
    rw [Nat.mod_eq_of_lt ha, hg, decide_eq_false (Nat.not_le.2 ha)] at hb
    exact hb.symm
  rw [hexec]
  unfold answerFenceCommit
  refine ⟨fun hbad => ?_, fun ha hg hr => ?_, fun ha hg hr hfc => ?_⟩
  · rw [if_pos (by
      rcases hbad with h | h
      · rw [decide_eq_true h]; rfl
      · rw [h]; simp)]
    exact ⟨_, rfl, hostIs_putReply _ _ _ _ _, putReply_portsOnly _ _ _ _ _ _ _⟩
  · rw [if_neg (by rw [hsmall ha hg rfl]; decide), if_pos (hrole.trans hr)]
    exact ⟨_, rfl, hostIs_putReply _ _ _ _ _, putReply_portsOnly _ _ _ _ _ _ _⟩
  · rw [if_neg (by rw [hsmall ha hg rfl]; decide), if_neg (by rw [hrole]; exact hr)]
    have hport : ∀ f, HostIs p { h with fences := h.fences ++ [f] } s (u.modHp p (fun h => { h with fences := h.fences ++ [f] })) :=
      fun f => hostIs_taken s p 0 true _
    have hmod : a.toNat % 16 = a.toNat := Nat.mod_eq_of_lt ha
    dsimp only
    rw [hmod]
    have hnow : u.host.nextOrd = s.host.nextOrd := rfl
    by_cases hw : waits
    · rw [hnow, hwaits.2 hw]
      exact ⟨_, _, rfl, hport _, rfl, rfl, rfl, fun _ => rfl, fun h => absurd hw h, rfl⟩
    · have hfind : h.fcAt.find? (fun e => e.1 == a.toNat) = none := by
        simp only [List.find?_eq_none, beq_iff_eq]
        exact hfc.resolve_left hw
      have hno : u.postedBefore p s.host.nextOrd = false := by
        rw [Bool.eq_false_iff]
        exact fun h => hw (hwaits.1 h)
      rw [hnow, hno, hfind]
      exact ⟨_, _, rfl, hport _, rfl, rfl, rfl, fun h => absurd h hw, fun _ => rfl, rfl⟩

/-- R386, R387, R389: POSTED_WRITE_EXECUTE of a word that acts. -/
theorem postedWrite_acts {i : Island} {s : State} {w : Posted} {p : Fin 4} (hs : s.up islHost = true)
    (hw : s.host.posted.find? (fun w => (islTargets i).contains w.island) = some w) (hp : w.host = p) (haddr : w.addr < 2 ^ 24)
    (hrole : w.role = (s.getRolePort p).role) (hisl : w.island = (place w.addr).target) (hgood : s.postedUncorr w = false)
    (hmay : (unposted w s).mayWrite p w.addr w.v = true) (hup : s.tgtUp w.island = true) (hstew : s.red.stewardDown = false) :
    exec (.postedWriteExecute i) s = .next (wordDone p (hostWrite p w.addr w.v (unposted w s))) ∧
    (NonePosted (unposted w s) p w.island →
      exec (.postedWriteExecute i) s = exec (.registerWrite p (BitVec.ofNat 24 w.addr) w.v) (unposted w s)) := by
  have hcan : (unposted w s).canWrite p w.addr w.v = true := by
    have hup' : (unposted w s).tgtUp (place w.addr).target = true := hisl ▸ hup
    have hstew' : (unposted w s).red.stewardDown = false := hstew
    rw [State.canWrite, hmay, hup', hstew']
    rfl
  have hlate : (unposted w s).postedLate w = false := postedLate_none (s := unposted w s) hup hgood (by rw [hp]; exact hmay)
  have hbusy : s.tgtBusy w.island = false := by rw [State.tgtBusy, hstew, Bool.and_false]
  have hexec : exec (.postedWriteExecute i) s = .next (wordDone p (hostWrite p w.addr w.v (unposted w s))) := by
    rw [exec_postedWrite hs hw hbusy, runPosted_eq, hlate, hp, hrole, hostWrite, if_pos hcan]
    rfl
  refine ⟨hexec, fun hnone => ?_⟩
  have hmod : (BitVec.ofNat 24 w.addr).toNat = w.addr := by
    rw [BitVec.toNat_ofNat]
    exact Nat.mod_eq_of_lt haddr
  have hreg : exec (.registerWrite p (BitVec.ofNat 24 w.addr) w.v) (unposted w s) = rowWrite p (BitVec.ofNat 24 w.addr).toNat w.v (unposted w s) := rfl
  have hhost : (unposted w s).up islHost = true := hs
  rw [hexec, hreg, hmod, rowWrite, onIsl_up hhost, portWrite, drainTo_none (by rw [← hisl]; exact hnone),
    if_pos hcan]

/-- R362, R387: POSTED_WRITE_EXECUTE of a word that sets or clears bits and is found uncorrectable. -/
theorem postedWrite_found {i : Island} {s : State} {w : Posted} {op : GalOp} {x : Nat} (hs : s.up islHost = true)
    (hw : s.host.posted.find? (fun w => (islTargets i).contains w.island) = some w) (hpl : place w.addr = .window op x)
    (hbad : s.postedUncorr w = true) (hstew : w.island = islSteward → s.red.stewardDown = false) :
    ∃ t, exec (.postedWriteExecute i) s = .next t ∧ t.host.posted = (unposted w s).host.posted ∧
      (t.getHp w.host).late = min 0xFF ((s.getHp w.host).late + 1) ∧ (t.getHp w.host).lates = (s.getHp w.host).lates ++ [w.ord] ∧
      (t.getGal (s.galPlace w.host x).1).uncorr = min 0xFFFF ((s.getGal (s.galPlace w.host x).1).uncorr + 1) ∧
      (t.getGal (s.galPlace w.host x).1).mem = (s.getGal (s.galPlace w.host x).1).mem ∧
      (∀ j, j ≠ (s.galPlace w.host x).1 → t.getGal j = s.getGal j) ∧ t = { s with host := t.host, gal := t.gal, log := t.log } := by
  have hbusy : s.tgtBusy w.island = false := by
    unfold State.tgtBusy
    by_cases h : w.island = islSteward
    · rw [hstew h, Bool.and_false]
    · rw [beq_false_of_ne h, Bool.false_and]
  have hlate : (unposted w s).postedLate w = true := by
    rw [State.postedLate, unposted_postedUncorr, hbad, Bool.or_true, Bool.true_or]
  obtain ⟨hport, huncorr, hmem, hne, honly⟩ := discardWord_found (s := unposted w s) hpl hbad
  rw [exec_postedWrite hs hw hbusy, runPosted_eq, hlate]
  generalize discardWord w (unposted w s) = u at hport huncorr hmem hne honly
  obtain ⟨hl, hls⟩ := wordDone_late w.host u
  refine ⟨_, rfl, ?_, ?_, ?_, huncorr, hmem, hne, ?_⟩
  · rw [honly]
    rfl
  · exact hl.trans (by rw [hport]; rfl)
  · exact hls.trans (by rw [hport]; rfl)
  · rw [if_pos rfl, honly]
    rfl

/-- R387: POSTED_WRITE_EXECUTE of a word whose island is down. -/
theorem postedWrite_down {i : Island} {s : State} {w : Posted} (hs : s.up islHost = true)
    (hw : s.host.posted.find? (fun w => (islTargets i).contains w.island) = some w) (hdown : s.tgtUp w.island = false)
    (hisl : w.island ≠ islSteward) (hgood : s.postedUncorr w = false) :
    ∃ t, exec (.postedWriteExecute i) s = .next t ∧ t.host.posted = (unposted w s).host.posted ∧
      (t.getHp w.host).late = min 0xFF ((s.getHp w.host).late + 1) ∧ (t.getHp w.host).lates = (s.getHp w.host).lates ++ [w.ord] ∧
      (∀ q, q ≠ w.host → t.getHp q = s.getHp q) ∧ LoggedIfRoom (ent .hostLateWrite s.now w.host [(4, w.addr)] s) s t ∧
      t = { s with host := t.host, log := t.log } := by
  have hbusy : s.tgtBusy w.island = false := by rw [State.tgtBusy, beq_false_of_ne hisl, Bool.false_and]
  have hlate : (unposted w s).postedLate w = true := by
    have hdown' : (unposted w s).tgtUp w.island = false := hdown
    rw [State.postedLate, hdown']
    rfl
  have hlog : LoggedIfRoom (ent .hostLateWrite s.now w.host [(4, w.addr)] s) s (wordLost w (unposted w s)) :=
    loggedIfRoom_raise .hostLateWrite w.host [(4, w.addr)] ((unposted w s).modHp w.host (Hp.lost w))
  have hport := wordLost_getHp w (unposted w s)
  have hne := fun q (h : q ≠ w.host) => wordLost_getHp_ne h (unposted w s)
  have honly := wordLost_eq w (unposted w s)
  rw [exec_postedWrite hs hw hbusy, runPosted_eq, hlate, if_pos rfl, discardWord_good (s := unposted w s) hgood]
  generalize wordLost w (unposted w s) = u at hlog hport hne honly
  obtain ⟨hl, hls⟩ := wordDone_late w.host u
  refine ⟨_, rfl, ?_, ?_, ?_, fun q hq => ?_, fun hroom => logged_congr rfl (hlog hroom), ?_⟩
  · rw [honly]
    rfl
  · exact hl.trans (by rw [hport]; rfl)
  · exact hls.trans (by rw [hport]; rfl)
  · exact (wordDone_getHp_ne hq u).trans (hne q hq)
  · rw [honly]
    rfl

/-- A host register that an operator writes, with no audit record. -/
theorem rowWrite_own {s : State} {p : Fin 4} {a : Nat} {v : Word} {f : Hp → Hp} (hact : MayAct s p 1 islHost) (htgt : (place a).target = islHost)
    (hreg : (place a).isReg = true) (hown : (place a).ownedBy p) (halign : a % 4 = 0) (hhalf : absentHalf a = false)
    (hneed : wrNeed (place a) v ≤ 1) (hval : s.valueBad (place a) v = false)
    (hdoes : ∀ r, (regWrite r p (place a) v s).2 = s.modHp p f) :
    ∃ t, rowWrite p a v s = .next (wordDone p t) ∧ HostIs p (f (s.getHp p)) s t ∧ PortsOnly s t := by
  rw [rowWrite_reg (by rw [htgt]; exact hact) hreg hown halign (fun _ => hhalf) hneed hval, writeAudited_operator (by omega), hdoes]
  exact ⟨_, rfl, hostIs_modHp _ _ _, portsOnly_modHp _ _ _⟩

/-- R8, R365, R393, R415: REGISTER_WRITE. -/
theorem registerWrite_takes (p : Fin 4) (a : BitVec 24) (v : Word) (s : State) :
    (NonePosted s p (place a.toNat).target → s.mayWrite p a.toNat v = false → exec (.registerWrite p a v) s = .next s) ∧
    (NonePosted s p islHost → (s.getRolePort p).role = 0 → exec (.registerWrite p 0x1F0814 v) s = .next s) ∧
    (MayAct s p 1 islHost →
      (∃ t, exec (.registerWrite p 0x1F0814 v) s = .next (wordDone p t) ∧ HostIs p { s.getHp p with intEn := v &&& 0xF0000FFF } s t ∧ PortsOnly s t) ∧
      (∃ t, exec (.registerWrite p 0x1F0810 v) s = .next (wordDone p t) ∧
        HostIs p { s.getHp p with intStat := (s.getHp p).intStat &&& ~~~(v &&& 0xFDE) } s t ∧ PortsOnly s t) ∧
      (∃ t, exec (.registerWrite p 0x000800 v) s = .next (wordDone p t) ∧
        HostIs p { s.getHp p with galSel := v.toNat / 2 ^ 28 % 8, galBase := v.toNat % 16 } s t ∧ PortsOnly s t)) ∧
    (MayAct s p 3 islHost → ∃ t, exec (.registerWrite p 0x1F0050 v) s = .next t ∧
      Audited p 0x1F0050 (roleRead s p 0x50) v s
        { s with role := { s.role with idle := v.toNat / 2 ^ 16 % 2 ^ 16, holdoff := v.toNat % 256 } } t) := by
  have hexec : ∀ a : BitVec 24, exec (.registerWrite p a v) s = rowWrite p a.toNat v s := fun _ => rfl
  refine ⟨fun hnone hno => ?_, fun hnone hrole => ?_, fun hact => ⟨?_, ?_, ?_⟩, fun hact => ?_⟩
  · rw [hexec, rowWrite_refused hnone (by rw [State.canWrite, hno]; rfl)]
  · rw [hexec]
    refine rowWrite_refused (a := 0x1F0800 + 0x14) hnone ?_
    rw [canWrite_hp s p v (by decide) (by decide), hrole]
    rfl
  · exact rowWrite_own (a := 0x1F0814) (f := fun h => { h with intEn := v &&& 0xF0000FFF }) hact rfl rfl trivial rfl (by decide)
      (Nat.le_refl 1) rfl (fun _ => rfl)
  · exact rowWrite_own (a := 0x1F0810) (f := fun h => { h with intStat := h.intStat &&& ~~~(v &&& 0xFDE) }) hact rfl rfl trivial rfl (by decide)
      (Nat.le_refl 1) rfl (fun _ => rfl)
  · exact rowWrite_own (a := 0x000800) (f := fun h => { h with galSel := v.toNat / 2 ^ 28 % 8, galBase := v.toNat % 16 }) hact rfl rfl trivial
      rfl (by decide) (Nat.le_refl 1) rfl (fun _ => by
        have hbase : bits v 3 0 = v.toNat % 16 := congrArg (· % 16) (Nat.div_one _)
        rw [← hbase]
        rfl)
  · exact rowWrite_audited (a := 0x1F0050) (pl := .role 0x50) rfl hact rfl trivial rfl (fun _ => by decide) (Nat.le_refl 3) (Nat.le_succ 2) rfl rfl
      (by
        have hoff : bits v 7 0 = v.toNat % 256 := congrArg (· % 256) (Nat.div_one _)
        rw [← hoff]
        rfl) rfl rfl

/-- Settles O46: fences by their branches, posted words by what they meet, and the writes of five registers. -/
theorem fencesAndRegisterWrites : Obligations.FencesAndRegisterWrites :=
  ⟨fun _ _ _ hs hadm => fences_answered hs hadm, fun _ _ hs => fenceAnswer_answers hs, fun _ _ _ _ hs hadm => fenceCommit_answers hs hadm,
    fun _ _ hs => ⟨exec_postedWrite_none hs, fun _ hw =>
      ⟨fun _ hp haddr hrole hisl hgood hmay hup hstew => postedWrite_acts hs hw hp haddr hrole hisl hgood hmay hup hstew,
        fun _ _ hpl hbad hstew => postedWrite_found hs hw hpl hbad hstew, postedWrite_down hs hw⟩⟩,
    fun p a v s _ => registerWrite_takes p a v s⟩

end Sys2Proof.Machine
end

section
-- One proof after another: elaborated side by side they take more memory than the check allows.
set_option Elab.async false
/-! PROOF. Admitted reads and writes (O45). What a READ under way needs of the block does not change as its words are read
(`readWord_basis`), so a word read first does not make a later one fail. -/

namespace Sys2Proof.Machine

open Sys2Proof.Cert

/-! ## What a READ under way needs of the block -/

/-- The index, the islands that run, the words found uncorrectable, and what of its port a read leaves as it is. -/
structure ReadBasis where
  (now : Nat) (lock linkLock : Word) (main : Bool) (bad : Nat → List Nat) (replies : List Reply) (resume credit galSel galBase : Nat)

def State.readBasis (p : Nat) (s : State) : ReadBasis :=
  { now := s.now, lock := s.glb.lock, linkLock := s.glb.linkLock, main := s.pwr.mainOn, bad := fun g => (s.getGal g).bad
    replies := (s.getHp p).replies, resume := (s.getHp p).resume, credit := (s.getHp p).credit
    galSel := (s.getHp p).galSel, galBase := (s.getHp p).galBase }

section Basis

variable {p : Nat} {s t : State}

theorem readFails_congr (h : t.readBasis p = s.readBasis p) (a : Nat) : t.readFails p a = s.readFails p a := by
  simp only [State.readBasis, ReadBasis.mk.injEq] at h
  obtain ⟨-, hlock, hlink, hmain, hbad, -, -, -, hsel, hbase⟩ := h
  have hup : t.up = s.up := by
    funext i
    rw [State.up, State.up, hlock, hmain]
  have htgt : t.tgtUp = s.tgtUp := by
    funext i
    rw [State.tgtUp, State.tgtUp, State.linkUp, State.linkUp, hup, hlink, hmain]
  have hplace : t.galPlace p = s.galPlace p := by
    funext x
    rw [State.galPlace, State.galPlace, hsel, hbase]
  have hgal : t.galBad = s.galBad := by
    funext g off
    rw [State.galBad, State.galBad, congrFun hbad g]
  rw [State.readFails, State.readFails, htgt, hplace, hgal]

theorem readBasis_of_outside {m : Parts} (htb : m.tb = false) (hglb : m.glb = false) (hpwr : m.pwr = false) (hgal : m.gal = false)
    (hhost : m.host = false) (h : t.outside m = s.outside m) : t.readBasis p = s.readBasis p := by
  have h' := State.eq_onto h
  rw [h']
  unfold State.onto
  rw [htb, hglb, hpwr, hgal, hhost]
  rfl

theorem readBasis_modGal (g : Nat) {f : Gal → Gal} (hf : ∀ x, (f x).bad = x.bad) : (s.modGal g f).readBasis p = s.readBasis p := by
  have hbad : (fun j => ((s.modGal g f).getGal j).bad) = fun j => (s.getGal j).bad := by
    funext j
    by_cases h : j = g
    · rw [h, State.getGal_modGal, hf]
    · rw [State.getGal_modGal_ne _ _ _ _ h]
  unfold State.readBasis
  rw [hbad]
  rfl

theorem readBasis_modHp {f : Hp → Hp} (hreplies : ∀ h, (f h).replies = h.replies) (hresume : ∀ h, (f h).resume = h.resume)
    (hcredit : ∀ h, (f h).credit = h.credit) (hgal : ∀ h, (f h).galSel = h.galSel ∧ (f h).galBase = h.galBase) :
    (s.modHp p f).readBasis p = s.readBasis p := by
  unfold State.readBasis
  rw [State.getHp_modHp, hreplies, hresume, hcredit, (hgal _).1, (hgal _).2]
  rfl

theorem galRegClear_basis (off : Nat) : (galRegClear off s).readBasis p = s.readBasis p := by
  unfold galRegClear
  split
  · dsimp only
    split
    · exact readBasis_modGal _ (fun _ => rfl)
    · exact readBasis_modGal _ (fun _ => rfl)
    · rfl
  · split
    · exact readBasis_modGal _ (fun _ => rfl)
    · split <;> rfl

theorem hpClear_basis (off : Nat) : (hpClear p off s).readBasis p = s.readBasis p := by
  unfold hpClear
  split
  · exact readBasis_modHp (fun _ => rfl) (fun _ => rfl) (fun _ => rfl) (fun _ => ⟨rfl, rfl⟩)
  · exact readBasis_modHp (fun _ => rfl) (fun _ => rfl) (fun _ => rfl) (fun _ => ⟨rfl, rfl⟩)
  · rfl

/-- What a read clears is nothing that a READ under way needs. -/
theorem regClear_basis (pl : Place) : (regClear p pl s).readBasis p = s.readBasis p := by
  cases pl with
  | glb off => simp only [regClear, glbClear]; split <;> rfl
  | red a => exact readBasis_of_outside (m := { red := true }) rfl rfl rfl rfl rfl (outside_redClear rfl a s)
  | gal a => exact galRegClear_basis a
  | tb off =>
    have hnow : (regClear p (.tb off) s).now = s.now := by
      change (tbClear off s.tb).idx = s.tb.idx
      unfold tbClear
      split <;> rfl
    unfold State.readBasis
    rw [hnow]
    rfl
  | fg g off => exact readBasis_of_outside (m := { rs := true }) rfl rfl rfl rfl rfl (outside_fgClear rfl g off s)
  | link k off =>
    simp only [regClear]
    split
    · exact readBasis_of_outside (m := { port := true }) rfl rfl rfl rfl rfl (outside_linkClear rfl k off s)
    · rfl
  | ring r off => exact readBasis_of_outside (m := { ring := true }) rfl rfl rfl rfl rfl (outside_ringClear rfl r off s)
  | head h off =>
    simp only [regClear]
    split
    · exact readBasis_of_outside (m := { head := true }) rfl rfl rfl rfl rfl (outside_headClear rfl h off s)
    · rfl
  | stc e off => exact readBasis_of_outside (m := { stair := true }) rfl rfl rfl rfl rfl (outside_stcClear rfl e off s)
  | sp off => exact readBasis_of_outside (m := { spec := true }) rfl rfl rfl rfl rfl (outside_spClear rfl off s)
  | pulseOut o off =>
    simp only [regClear]
    split
    · exact readBasis_of_outside (m := { pulse := true }) rfl rfl rfl rfl rfl (outside_outClear rfl o off s)
    · rfl
  | pulseIn i off => exact readBasis_of_outside (m := { pulse := true }) rfl rfl rfl rfl rfl (outside_inClear rfl i off s)
  | ev off => exact readBasis_of_outside (m := { ev := true }) rfl rfl rfl rfl rfl (outside_evClear rfl off s)
  | log off => exact readBasis_of_outside (m := { log := true }) rfl rfl rfl rfl rfl (outside_logClear rfl p off s)
  | lc off =>
    simp only [regClear]
    split
    · rfl
    · exact readBasis_of_outside (m := { lc := true }) rfl rfl rfl rfl rfl (outside_lcClear rfl off s)
  | tmp off => exact readBasis_of_outside (m := { tmp := true }) rfl rfl rfl rfl rfl (outside_tmpClear rfl off s)
  | pwr off => simp only [regClear, pwrClear]; split <;> rfl
  | hp off => exact hpClear_basis off
  | plan | acc | ctx | spCtx | evCtx | cal | role | window | unmapped => rfl

theorem takeLatch_basis (a : Nat) (pl : Place) : (takeLatch p a pl s).readBasis p = s.readBasis p := by
  unfold takeLatch
  dsimp only
  split
  · rfl
  · exact readBasis_modHp (fun _ => rfl) (fun _ => rfl) (fun _ => rfl) (fun _ => ⟨rfl, rfl⟩)

theorem readReg_basis (a : Nat) (pl : Place) : (readReg p a pl s).2.readBasis p = s.readBasis p := by
  unfold readReg
  dsimp only
  split
  · rfl
  · split
    · exact readBasis_modHp (fun _ => rfl) (fun _ => rfl) (fun _ => rfl) (fun _ => ⟨rfl, rfl⟩)
    · exact regClear_basis _
    · exact (regClear_basis _).trans (takeLatch_basis a _)

theorem galRead_basis {g off : Nat} (h : s.galBad g off = false) : (galRead g off .clean s).readBasis p = s.readBasis p := by
  rw [galRead_good g off .clean s (by decide) h]
  exact readBasis_modGal g (fun _ => rfl)

theorem readFails_window {a x : Nat} {op : GalOp} (hpl : place a = .window op x) (h : s.readFails p a = 0) :
    s.galBad (s.galPlace p x).1 (s.galPlace p x).2 = false := by
  unfold State.readFails at h
  rw [hpl] at h
  split at h
  · cases h
  · dsimp only at h
    split at h
    · cases h
    · next hb => exact Bool.eq_false_iff.2 hb

/-- A word that meets no condition is read. -/
theorem readWord_basis {a : Nat} (h : s.readFails p a = 0) : (readWord p a s).2.readBasis p = s.readBasis p := by
  unfold readWord
  split
  next op x hpl =>
    have hgood := readFails_window hpl h
    dsimp only
    split
    · exact galRead_basis (s := s.freeNext.2) hgood
    · exact galRead_basis hgood
  · exact readReg_basis a _

end Basis

/-! ## The words of a READ (R384, R386) -/

section Words

variable {p : Nat} {s : State}

theorem readOne_good {a : Nat} (h : s.readFails p a = 0) (ws : List Word) (e : Option Answer) :
    readOne p (ws, e, s) a = (ws ++ [(readWord p a s).1], e, (readWord p a s).2) := by
  unfold readOne
  dsimp only
  rw [h]
  rfl

theorem foldl_readOne_good (l : List Nat) (h : ∀ a ∈ l, s.readFails p a = 0) (ws : List Word) (e : Option Answer) :
    ∃ ws' t, l.foldl (readOne p) (ws, e, s) = (ws', e, t) ∧ ws'.length = ws.length + l.length ∧ t.readBasis p = s.readBasis p := by
  induction l generalizing s ws with
  | nil => exact ⟨ws, s, rfl, rfl, rfl⟩
  | cons a l ih =>
    have ha := h a List.mem_cons_self
    have hbasis := readWord_basis ha
    obtain ⟨ws', t, hfold, hlen, ht⟩ := ih (s := (readWord p a s).2)
      (fun b hb => (readFails_congr hbasis b).trans (h b (List.mem_cons_of_mem a hb))) (ws ++ [(readWord p a s).1])
    rw [List.foldl_cons, readOne_good ha]
    refine ⟨ws', t, hfold, ?_, ht.trans hbasis⟩
    rw [hlen, List.length_append, List.length_cons, List.length_cons, List.length_nil]
    omega

/-- R10: with nothing latched a register reads what stands in it. -/
theorem readReg_word {a : Nat} (h : s.latched p a = none) (pl : Place) : (readReg p a pl s).1 = regRead s p pl := by
  unfold readReg
  rw [h]
  dsimp only
  split <;> rfl

theorem readWord_reg {a : Nat} (hwin : ∀ op x, place a ≠ .window op x) : readWord p a s = readReg p a (place a) s := by
  unfold readWord
  split
  next op x hpl => exact absurd hpl (hwin op x)
  · rfl

/-- A word of the calibration registers takes and clears nothing. -/
theorem readReg_cal {a off : Nat} (hlatch : s.latched p a = none) (hoff : off < 0x8000) : (readReg p a (.cal off) s).2 = s := by
  have hnone : snapWords (.cal off) = [] := if_neg (by
    rw [decide_eq_false (Nat.not_le.2 hoff), Bool.false_and]
    decide)
  unfold readReg
  rw [hlatch]
  dsimp only
  split
  · rfl
  · exact takeLatch_none hnone

/-- R362: a gallery word leaves the index and the ports as they are. -/
theorem readWord_window {a x : Nat} {op : GalOp} (hpl : place a = .window op x) :
    (readWord p a s).2.now = s.now ∧ (readWord p a s).2.host = s.host := by
  have hgal : ∀ (g off : Nat) (u : State), (galRead g off .clean u).now = u.now ∧ (galRead g off .clean u).host = u.host := fun g off u => by
    rw [State.eq_onto (outside_galRead (m := { gal := true, log := true }) rfl rfl g off .clean u)]
    exact ⟨rfl, rfl⟩
  unfold readWord
  rw [hpl]
  dsimp only
  split
  · exact hgal _ _ s.freeNext.2
  · exact hgal _ _ s

/-- R387: what a word meets that is not the loss of its island is an uncorrectable gallery word. -/
theorem readFails_place {a c : Nat} (hc : 0 < c) (h : s.readFails p a = c) (hup : ¬ c = 0x0B) : ∃ op x, place a = .window op x := by
  unfold State.readFails at h
  split at h
  · exact absurd h.symm hup
  · split at h
    next op x hpl => exact ⟨op, x, hpl⟩
    · omega

/-- R387: the state after a word that meets a condition: the index and the ports are as they were. -/
theorem readOne_bad {a c : Nat} (hc : 0 < c) (h : s.readFails p a = c) :
    ∃ t, readOne p ([], none, s) a = ([0], some (accErr c 0), t) ∧ t.now = s.now ∧ t.host = s.host := by
  have hne : c ≠ 0 := by omega
  have hone : readOne p ([], none, s) a = ([0], some (accErr c 0), (if c = 0x0B then ((0 : Word), s) else readWord p a s).2) := by
    unfold readOne
    dsimp only
    rw [h, if_neg hne]
    rfl
  refine ⟨_, hone, ?_⟩
  split
  · exact ⟨rfl, rfl⟩
  next hup =>
    obtain ⟨op, x, hpl⟩ := readFails_place hc h hup
    exact readWord_window hpl

end Words

/-! ## Admitted requests (R384, R481) -/

section Requests

variable {s : State} {p n a : Nat} {seq : Byte} {data : List Word}

theorem admitReq_read (h : Admits s p seq n) : admitReq p seq.toNat opRead n a data s = answerRead p seq.toNat a n (taken s p n (needsSession 1 a n)) := by
  obtain ⟨hnext, hfree, hcost⟩ := h
  rw [admitReq_admitted (by decide) hnext hfree hcost, ← taken_eq]
  rfl

theorem admitReq_write (h : Admits s p seq n) :
    admitReq p seq.toNat opWrite n a data s = answerWrite p seq.toNat a n data (taken s p n (needsSession 2 a n)) := by
  obtain ⟨hnext, hfree, hcost⟩ := h
  rw [admitReq_admitted (by decide) hnext hfree hcost, ← taken_eq]
  rfl

theorem exec_read (hs : s.up islHost = true) (p : Fin 4) (seq : Byte) (a : BitVec 24) (n : Byte) :
    exec (.read p seq a n) s = .next (admitReq p seq.toNat opRead n.toNat a.toNat [] s) := onIsl_up hs

theorem exec_write (hs : s.up islHost = true) (p : Fin 4) (seq : Byte) (a : BitVec 24) (d : List Word) :
    exec (.write p seq a d) s = .next (admitReq p seq.toNat opWrite d.length a.toNat d s) := onIsl_up hs

theorem taken_nonePosted {t : Nat} {b : Bool} (h : NonePosted s p t) : drainTo p t (taken s p n b) = taken s p n b := by
  refine drainTo_none ?_
  rw [taken_only]
  exact h

theorem taken_basis (b : Bool) : (taken s p n b).now = s.now ∧ (taken s p n b).red = s.red := by
  rw [taken_only]
  exact ⟨rfl, rfl⟩

theorem taken_replies (b : Bool) : ((taken s p n b).getHp p).replies = (s.getHp p).replies := by rw [taken_getHp]

theorem taken_fails (b : Bool) (x : Nat) : (taken s p n b).readFails p x = s.readFails p x := by
  have hport := taken_getHp s p n b
  have hrest := taken_only s p n b
  generalize taken s p n b = u at hport hrest
  have hplace : u.galPlace p = s.galPlace p := by
    funext y
    rw [State.galPlace, State.galPlace, hport]
  have htgt : u.tgtUp = s.tgtUp := by
    rw [hrest]
    rfl
  have hgal : u.galBad = s.galBad := by
    rw [hrest]
    rfl
  rw [State.readFails, State.readFails, htgt, hplace, hgal]

/-- R481: what fails first. -/
theorem reqRefused_count {w : Bool} (h : n = 0 ∨ 8 < n) : s.reqRefused p w a n data = some { status := 2, cause := 2 } := by
  unfold State.reqRefused
  exact if_pos (by omega)

theorem reqRefused_align {w : Bool} (hlo : 1 ≤ n) (hhi : n ≤ 8) (h : a % 4 ≠ 0) :
    s.reqRefused p w a n data = some { status := 2, cause := 3 } := by
  unfold State.reqRefused
  dsimp only
  rw [if_neg (by omega), if_pos h]

/-- R384: the branches of an admitted READ with no earlier write outstanding. -/
theorem answerRead_refused {e : Answer} (hdrain : drainTo p (place a).target s = s) (h : s.reqRefused p false a n [] = some e) (q : Nat) :
    answerRead p q a n s = putReply p q opRead e s.now [] s := by
  unfold answerRead
  rw [hdrain, ite_self]
  dsimp only
  rw [h]

theorem answerRead_retry (hdrain : drainTo p (place a).target s = s) (h : s.reqRefused p false a n [] = none)
    (hbusy : s.tgtBusy (place a).target = true) (q : Nat) :
    answerRead p q a n s = putReply p q opRead { status := 3, cause := 1 } s.now [] s := by
  unfold answerRead
  rw [hdrain, ite_self]
  dsimp only
  rw [h]
  exact if_pos hbusy

/-- The words of a READ, what they meet, and the state after them. -/
def readAll (p a n : Nat) (s : State) : List Word × Option Answer × State :=
  (reqAddrs a n).foldl (readOne p) ([], none, s.modHp p (fun h => { h with inHand := true }))

theorem answerRead_words {ws : List Word} {e : Option Answer} {t : State} (hdrain : drainTo p (place a).target s = s)
    (h : s.reqRefused p false a n [] = none) (hbusy : s.tgtBusy (place a).target = false) (hall : readAll p a n s = (ws, e, t)) (q : Nat) :
    answerRead p q a n s = putReply p q opRead (e.getD {}) t.now ws (t.modHp p (fun h => { h with inHand := false })) := by
  unfold answerRead
  rw [hdrain, ite_self]
  dsimp only
  rw [h]
  refine (if_neg (by rw [hbusy]; decide)).trans ?_
  unfold readAll at hall
  rw [hall]

/-- The reply to a READ enters the queue. -/
theorem answerRead_port (q : Nat) (e : Answer) (ws : List Word) (t : State) :
    ((putReply p q opRead e t.now ws (t.modHp p (fun h => { h with inHand := false }))).getHp p) = { t.getHp p with
      inHand := false, replies := (t.getHp p).replies ++ [{ seq := q, bytes := replyFrame q opRead e t.now ws }] } := by
  unfold putReply
  rw [State.modHp_modHp, State.getHp_modHp]

theorem answerRead_port_ne {j : Nat} (hj : j ≠ p) (q : Nat) (e : Answer) (ws : List Word) (t : State) :
    ((putReply p q opRead e t.now ws (t.modHp p (fun h => { h with inHand := false }))).getHp j) = t.getHp j := by
  unfold putReply
  rw [State.modHp_modHp, State.getHp_modHp_ne _ _ _ _ hj]

/-- The words of a WRITE as they are posted (R386). -/
def postedAs (p role ord a : Nat) (d : List Word) (i : Nat) : Posted :=
  { ord := ord + i, host := p, role := role, island := (place (a + 4 * i)).target, addr := a + 4 * i, v := d.getD i 0 }

theorem foldl_postWord (d : List Word) (k : Nat) (s : State) :
    ((List.range k).map (fun i => (a + 4 * i, d.getD i 0))).foldl (postWord p) s = { s with host := { s.host with
      posted := s.host.posted ++ (List.range k).map (postedAs p (s.getRolePort p).role s.host.nextOrd a d), nextOrd := s.host.nextOrd + k } } := by
  induction k with
  | zero => simp
  | succ k ih =>
    rw [List.range_succ, List.map_append, List.foldl_append, ih, List.map_append, ← List.append_assoc]
    rfl

theorem reqAddrs_zip (a : Nat) (d : List Word) : (reqAddrs a d.length).zip d = (List.range d.length).map (fun i => (a + 4 * i, d.getD i 0)) := by
  refine List.ext_getElem (by simp [reqAddrs]) (fun i h₁ h₂ => ?_)
  have hi : i < d.length := by simpa using h₂
  simp [reqAddrs, hi]

theorem answerWrite_refused {e : Answer} (hdrain : drainTo p (place a).target s = s) (h : s.reqRefused p true a n data = some e) (q : Nat) :
    answerWrite p q a n data s = putReply p q opWrite e s.now [] s := by
  unfold answerWrite
  rw [hdrain, ite_self]
  dsimp only
  rw [h]

theorem answerWrite_retry (hdrain : drainTo p (place a).target s = s) (h : s.reqRefused p true a n data = none)
    (hbusy : s.tgtBusy (place a).target = true) (q : Nat) :
    answerWrite p q a n data s = putReply p q opWrite { status := 3, cause := 1 } s.now [] s := by
  unfold answerWrite
  rw [hdrain, ite_self]
  dsimp only
  rw [h]
  exact if_pos hbusy

theorem answerWrite_posts (hdrain : drainTo p (place a).target s = s) (h : s.reqRefused p true a data.length data = none)
    (hbusy : s.tgtBusy (place a).target = false) (q : Nat) : answerWrite p q a data.length data s =
      putReply p q opWrite {} s.now [] { s with host := { s.host with
        posted := s.host.posted ++ (List.range data.length).map (postedAs p (s.getRolePort p).role s.host.nextOrd a data)
        nextOrd := s.host.nextOrd + data.length } } := by
  unfold answerWrite
  rw [hdrain, ite_self]
  dsimp only
  rw [h]
  refine (if_neg (by rw [hbusy]; decide)).trans ?_
  rw [reqAddrs_zip, foldl_postWord]

end Requests

/-! ## The obligation O45 -/

theorem tgtBusy_iff {s : State} {t : Nat} : s.tgtBusy t = true ↔ t = islSteward ∧ s.red.stewardDown = true := by
  rw [State.tgtBusy, Bool.and_eq_true, beq_iff_eq]

theorem tgtBusy_false {s : State} (h : s.red.stewardDown = false) (t : Nat) : s.tgtBusy t = false := by
  rw [State.tgtBusy, h, Bool.and_false]

/-- A READ of one word that meets no condition. -/
theorem readAll_one {s : State} {p a : Nat} (h : s.readFails p a = 0) : readAll p a 1 s =
    ([(readWord p a (s.modHp p (fun h => { h with inHand := true }))).1], none,
      (readWord p a (s.modHp p (fun h => { h with inHand := true }))).2) := by
  have hhand : (s.modHp p (fun h => { h with inHand := true })).readBasis p = s.readBasis p :=
    readBasis_modHp (fun _ => rfl) (fun _ => rfl) (fun _ => rfl) (fun _ => ⟨rfl, rfl⟩)
  exact readOne_good ((readFails_congr hhand a).trans h) [] none

theorem latched_inHand {s : State} {p a : Nat} (h : s.latched p a = none) :
    (s.modHp p (fun h => { h with inHand := true })).latched p a = none := by
  rw [State.latched, State.getHp_modHp]
  exact h

/-- R384, R386, R387: a READ whose words meet no condition. -/
theorem answerRead_good {s : State} {p n a : Nat} (q : Nat) (hdrain : drainTo p (place a).target s = s)
    (h : s.reqRefused p false a n [] = none) (hstew : s.red.stewardDown = false) (hgood : ∀ i, i < n → s.readFails p (a + 4 * i) = 0) :
    ∃ ws, ws.length = n ∧
      ((answerRead p q a n s).getHp p).replies =
        (s.getHp p).replies ++ [{ seq := q, bytes := replyFrame q opRead {} s.now ws }] ∧
      ((answerRead p q a n s).getHp p).resume = (s.getHp p).resume ∧ ((answerRead p q a n s).getHp p).credit = (s.getHp p).credit ∧
      (n = 1 → s.latched p a = none → (∀ op x, place a ≠ .window op x) →
        ws = [regRead (s.modHp p (fun h => { h with inHand := true })) p (place a)]) ∧
      (n = 1 → s.latched p a = none → (∃ off, place a = .cal off ∧ off < 0x8000) →
        answerRead p q a n s = { s with host := (answerRead p q a n s).host } ∧
        ∀ j, j ≠ p → (answerRead p q a n s).getHp j = s.getHp j) := by
  have hhand : (s.modHp p (fun h => { h with inHand := true })).readBasis p = s.readBasis p :=
    readBasis_modHp (fun _ => rfl) (fun _ => rfl) (fun _ => rfl) (fun _ => ⟨rfl, rfl⟩)
  obtain ⟨ws, t, hall, hlen, hbasis⟩ := foldl_readOne_good (p := p) (s := s.modHp p (fun h => { h with inHand := true })) (reqAddrs a n)
    (fun b hb => by
      obtain ⟨i, hi, rfl⟩ := List.mem_map.1 hb
      exact (readFails_congr hhand _).trans (hgood i (List.mem_range.1 hi))) [] none
  have hall : readAll p a n s = (ws, none, t) := hall
  have hkept := hbasis.trans hhand
  simp only [State.readBasis, ReadBasis.mk.injEq] at hkept
  obtain ⟨hnow, -, -, -, -, hreplies, hresume, hcredit, -, -⟩ := hkept
  rw [answerRead_words hdrain h (tgtBusy_false hstew _) hall, answerRead_port]
  refine ⟨ws, by simpa [reqAddrs] using hlen, ?_, hresume, hcredit, fun hn hlatch hwin => ?_, fun hn hlatch hcal => ?_⟩
  · dsimp only
    rw [hreplies, hnow]
    rfl
  · subst hn
    rw [readAll_one (show s.readFails p a = 0 from hgood 0 (by decide)), readWord_reg hwin, Prod.mk.injEq] at hall
    rw [← hall.1, readReg_word (latched_inHand hlatch)]
  · subst hn
    obtain ⟨off, hpl, hoff⟩ := hcal
    rw [readAll_one (show s.readFails p a = 0 from hgood 0 (by decide)), readWord_reg (fun op x hop => by rw [hpl] at hop; cases hop), hpl, Prod.mk.injEq, Prod.mk.injEq,
      readReg_cal (latched_inHand hlatch) hoff] at hall
    obtain ⟨-, -, rfl⟩ := hall
    refine ⟨rfl, fun j hj => ?_⟩
    rw [answerRead_port_ne hj, State.getHp_modHp_ne _ _ _ _ hj]

/-- R387: a READ of one word that meets a condition. -/
theorem answerRead_bad {s : State} {p a c : Nat} (q : Nat) (hdrain : drainTo p (place a).target s = s)
    (h : s.reqRefused p false a 1 [] = none) (hstew : s.red.stewardDown = false) (hc : 0 < c) (hbad : s.readFails p a = c) :
    ((answerRead p q a 1 s).getHp p).replies =
      (s.getHp p).replies ++ [{ seq := q, bytes := replyFrame q opRead { status := 1, cause := c, word := 0 } s.now [0] }] := by
  have hhand : (s.modHp p (fun h => { h with inHand := true })).readBasis p = s.readBasis p :=
    readBasis_modHp (fun _ => rfl) (fun _ => rfl) (fun _ => rfl) (fun _ => ⟨rfl, rfl⟩)
  obtain ⟨t, hone, hnow, hhost⟩ := readOne_bad hc ((readFails_congr hhand a).trans hbad)
  have hall : readAll p a 1 s = ([0], some (accErr c 0), t) := hone
  have hport : (t.getHp p).replies = (s.getHp p).replies := by
    have hsame : t.getHp p = (s.modHp p (fun h => { h with inHand := true })).getHp p := by
      rw [State.getHp, hhost]
      rfl
    rw [hsame, State.getHp_modHp]
  rw [answerRead_words hdrain h (tgtBusy_false hstew _) hall, answerRead_port, hnow]
  dsimp only
  rw [hport]
  rfl

/-- READ, admitted. -/
theorem read_answered {s : State} {p : Fin 4} {seq n : Byte} {a : BitVec 24} (hs : s.up islHost = true)
    (hnone : NonePosted s p (place a.toNat).target) (hadm : Admits s p seq n.toNat) :
    let u := taken s p n.toNat (needsSession 1 a.toNat n.toNat)
    let v := u.modHp p (fun h => { h with inHand := true })
    ((n.toNat = 0 ∨ 8 < n.toNat) → ∃ t, exec (.read p seq a n) s = .next t ∧ Replies p seq 1 { status := 2, cause := 2 } u t) ∧
    (1 ≤ n.toNat → n.toNat ≤ 8 → a.toNat % 4 ≠ 0 →
      ∃ t, exec (.read p seq a n) s = .next t ∧ Replies p seq 1 { status := 2, cause := 3 } u t) ∧
    (∀ e, u.reqRefused p false a.toNat n.toNat [] = some e →
      ∃ t, exec (.read p seq a n) s = .next t ∧ Replies p seq 1 e u t) ∧
    (u.reqRefused p false a.toNat n.toNat [] = none →
      (s.red.stewardDown = true → (place a.toNat).target = islSteward →
        ∃ t, exec (.read p seq a n) s = .next t ∧ Replies p seq 1 { status := 3, cause := 1 } u t) ∧
      (s.red.stewardDown = false → n = 1 → ∀ c, 0 < c → s.readFails p a.toNat = c → ∃ t, exec (.read p seq a n) s = .next t ∧
        (t.getHp p).replies = (s.getHp p).replies ++
          [{ seq := seq.toNat, bytes := replyFrame seq.toNat 1 { status := 1, cause := c, word := 0 } s.now [0] }]) ∧
      (s.red.stewardDown = false → (∀ i, i < n.toNat → s.readFails p (a.toNat + 4 * i) = 0) →
        ∃ t ws, exec (.read p seq a n) s = .next t ∧ ws.length = n.toNat ∧
          (t.getHp p).replies = (s.getHp p).replies ++ [{ seq := seq.toNat, bytes := replyFrame seq.toNat 1 {} s.now ws }] ∧
          (t.getHp p).resume = (u.getHp p).resume ∧ (t.getHp p).credit = (u.getHp p).credit ∧
          (n = 1 → s.latched p a.toNat = none → (∀ op x, place a.toNat ≠ .window op x) → ws = [regRead v p (place a.toNat)]) ∧
          (n = 1 → s.latched p a.toNat = none → (∃ off, place a.toNat = .cal off ∧ off < 0x8000) →
            t = { u with host := t.host } ∧ ∀ q, q ≠ p.val → t.getHp q = s.getHp q))) := by
  intro u v
  have hexec : exec (.read p seq a n) s = .next (answerRead p seq.toNat a.toNat n.toNat u) := by
    rw [exec_read hs, admitReq_read hadm]
  have hdrain : drainTo p (place a.toNat).target u = u := taken_nonePosted hnone
  obtain ⟨hnow, hred⟩ := taken_basis (s := s) (p := p) (n := n.toNat) (needsSession 1 a.toNat n.toNat)
  have hreplies : (u.getHp p).replies = (s.getHp p).replies := taken_replies _
  have hfails : ∀ b, u.readFails p b = s.readFails p b := taken_fails _
  have hlatched : s.latched p a.toNat = none → u.latched p a.toNat = none := fun h => by
    rw [State.latched, taken_getHp]
    exact h
  have hrefused : ∀ e, u.reqRefused p false a.toNat n.toNat [] = some e →
      ∃ t, exec (.read p seq a n) s = .next t ∧ Replies p seq 1 e u t := fun e he =>
    ⟨_, hexec.trans (congrArg Host.Outcome.next (answerRead_refused hdrain he _)), hostIs_putReply _ _ _ _ _, putReply_portsOnly _ _ _ _ _ _ _⟩
  refine ⟨fun h => hrefused _ (reqRefused_count h), fun hlo hhi h => hrefused _ (reqRefused_align hlo hhi h), hrefused,
    fun hok => ⟨fun hdown htgt => ?_, fun hstew hn c hc hbad => ?_, fun hstew hgood => ?_⟩⟩
  · exact ⟨_, hexec.trans (congrArg Host.Outcome.next (answerRead_retry hdrain hok (tgtBusy_iff.2 ⟨htgt, (congrArg Red.stewardDown hred).trans hdown⟩) _)),
      hostIs_putReply _ _ _ _ _, putReply_portsOnly _ _ _ _ _ _ _⟩
  · subst hn
    refine ⟨_, hexec, ?_⟩
    have h := answerRead_bad seq.toNat hdrain hok ((congrArg Red.stewardDown hred).trans hstew) hc ((hfails _).trans hbad)
    rw [hreplies, hnow] at h
    exact h
  · obtain ⟨ws, hlen, hrep, hresume, hcredit, hreg, hcal⟩ := answerRead_good seq.toNat hdrain hok ((congrArg Red.stewardDown hred).trans hstew)
      (fun i hi => (hfails _).trans (hgood i hi))
    rw [hreplies, hnow] at hrep
    refine ⟨_, ws, hexec, hlen, hrep, hresume, hcredit, fun hn hl => hreg (congrArg BitVec.toNat hn) (hlatched hl), fun hn hl hp => ?_⟩
    obtain ⟨honly, hne⟩ := hcal (congrArg BitVec.toNat hn) (hlatched hl) hp
    exact ⟨honly, fun q hq => (hne q hq).trans (taken_getHp_ne s _ _ hq)⟩

/-- WRITE, admitted. -/
theorem write_answered {s : State} {p : Fin 4} {seq : Byte} {a : BitVec 24} {d : List Word} (hs : s.up islHost = true)
    (hnone : NonePosted s p (place a.toNat).target) (hadm : Admits s p seq d.length) :
    let u := taken s p d.length (needsSession 2 a.toNat d.length)
    (∀ e, u.reqRefused p true a.toNat d.length d = some e →
      ∃ t, exec (.write p seq a d) s = .next t ∧ Replies p seq 2 e u t) ∧
    (u.reqRefused p true a.toNat d.length d = none →
      (s.red.stewardDown = true → (place a.toNat).target = islSteward →
        ∃ t, exec (.write p seq a d) s = .next t ∧ Replies p seq 2 { status := 3, cause := 1 } u t) ∧
      (s.red.stewardDown = false → ∃ t, exec (.write p seq a d) s = .next t ∧
        HostIs p { u.getHp p with
          replies := (s.getHp p).replies ++ [{ seq := seq.toNat, bytes := replyFrame seq.toNat 2 {} s.now [] }] } u t ∧
        t.host.posted = s.host.posted ++ (List.range d.length).map (fun i => {
          ord := s.host.nextOrd + i, host := p, role := (s.getRolePort p).role, island := (place (a.toNat + 4 * i)).target
          addr := a.toNat + 4 * i, v := d.getD i 0 }) ∧
        t.host.nextOrd = s.host.nextOrd + d.length ∧
        t = { u with host := { u.host with hp := t.host.hp, posted := t.host.posted, nextOrd := t.host.nextOrd } })) := by
  intro u
  have hexec : exec (.write p seq a d) s = .next (answerWrite p seq.toNat a.toNat d.length d u) := by
    rw [exec_write hs, admitReq_write hadm]
  have hdrain : drainTo p (place a.toNat).target u = u := taken_nonePosted hnone
  obtain ⟨hnow, hred⟩ := taken_basis (s := s) (p := p) (n := d.length) (needsSession 2 a.toNat d.length)
  have hreplies : (u.getHp p).replies = (s.getHp p).replies := taken_replies _
  have hrole : (u.getRolePort p).role = (s.getRolePort p).role := taken_role s p _ _
  have hhost : u.host.posted = s.host.posted ∧ u.host.nextOrd = s.host.nextOrd := by
    rw [show u = _ from taken_only s p _ _]
    exact ⟨rfl, rfl⟩
  obtain ⟨hposted, hord⟩ := hhost
  refine ⟨fun e he => ⟨_, hexec.trans (congrArg Host.Outcome.next (answerWrite_refused hdrain he _)), hostIs_putReply _ _ _ _ _,
    putReply_portsOnly _ _ _ _ _ _ _⟩, fun hok => ⟨fun hdown htgt => ?_, fun hstew => ?_⟩⟩
  · exact ⟨_, hexec.trans (congrArg Host.Outcome.next (answerWrite_retry hdrain hok (tgtBusy_iff.2 ⟨htgt, (congrArg Red.stewardDown hred).trans hdown⟩) _)),
      hostIs_putReply _ _ _ _ _, putReply_portsOnly _ _ _ _ _ _ _⟩
  · have hpost := answerWrite_posts hdrain hok (tgtBusy_false ((congrArg Red.stewardDown hred).trans hstew) _) seq.toNat
    rw [hrole, hposted, hord] at hpost
    have hport := hostIs_putReply { u with host := { u.host with
        posted := s.host.posted ++ (List.range d.length).map (postedAs p (s.getRolePort p).role s.host.nextOrd a.toNat d)
        nextOrd := s.host.nextOrd + d.length } } p seq.toNat opWrite {}
    refine ⟨_, hexec.trans (congrArg Host.Outcome.next hpost), ?_, rfl, rfl, rfl⟩
    rw [← hreplies, ← hnow]
    exact hport

/-- Settles O45: a request refused, answered RETRY, read word by word, or posted. -/
theorem readsAndWritesAnswered : Obligations.ReadsAndWritesAnswered :=
  fun _ _ _ _ hs hnone => ⟨fun _ hadm => read_answered hs hnone hadm, fun _ hadm => write_answered hs hnone hadm⟩

end Sys2Proof.Machine
end

section
-- One proof after another: elaborated side by side they take more memory than the check allows.
set_option Elab.async false
/-! PROOF. Calibration images and outings (O39). -/

namespace Sys2Proof.Machine

open Sys2Proof.Cert

variable {s : State}

/-! ## The end of an outing (R345, R349) -/

/-- An outing that has ended. -/
def CalQ.ended (r : Nat) (q : CalQ) : CalQ := { q with st := .free, result := r, apply := none, prop := none }

theorem modCalQ_cal (i : Nat) (f : CalQ → CalQ) (s : State) :
    (s.modCalQ i f).cal = { s.cal with q := tset s.cal.q i (f (tget {} s.cal.q i)) } := rfl

theorem endOuting_cal (i r : Nat) (s : State) : (endOuting i r s).cal = (s.modCalQ i (CalQ.ended r)).cal := by
  unfold endOuting
  extract_lets q s₁ s₂ s₃ s₄
  have h₂ : s₂.cal = s.cal := State.cal_eq (m := { head := true, lc := true }) rfl (by simp [s₂, s₁])
  have h₄ : s₄.cal = s₃.cal := by
    refine State.cal_eq (m := { log := true }) rfl ?_
    unfold s₄
    split <;> simp
  have h₅ : (irqAll irqCal s₄).cal = s₄.cal := State.cal_eq (m := { host := true }) rfl (by simp)
  rw [h₅, h₄]
  change (s₂.modCalQ i (CalQ.ended r)).cal = _
  rw [modCalQ_cal, modCalQ_cal, h₂]

theorem endOuting_getCalQ (i r : Nat) (s : State) : (endOuting i r s).getCalQ i = CalQ.ended r (s.getCalQ i) ∧
    (∀ k, k ≠ i → (endOuting i r s).getCalQ k = s.getCalQ k) ∧ (endOuting i r s).cal = { s.cal with q := (endOuting i r s).cal.q } := by
  have h := endOuting_cal i r s
  have hself := State.getCalQ_modCalQ s i (CalQ.ended r)
  have hne := fun k (hk : k ≠ i) => State.getCalQ_modCalQ_ne s i k (CalQ.ended r) hk
  refine ⟨?_, fun k hk => ?_, ?_⟩
  · rw [← hself, State.getCalQ, h]
    rfl
  · rw [← hne k hk, State.getCalQ, h]
    rfl
  · rw [h]
    rfl

theorem endOuting_eq (i r : Nat) (s : State) : endOuting i r s = { s with
    head := (endOuting i r s).head, lc := (endOuting i r s).lc, cal := (endOuting i r s).cal
    host := (endOuting i r s).host, log := (endOuting i r s).log } :=
  State.eq_onto (m := { head := true, lc := true, cal := true, host := true, log := true }) (by simp)

/-- The record of an outing that has ended without a result. -/
theorem endOuting_logged {i r : Nat} {c : LogCode} {l : List (Nat × Nat)} (hc : c.info.2.2 = true)
    (hrec : (r = 1 ∧ c = .calTimeout ∧ l = [(1, b2n (s.getCalQ i).det), (1, (s.getCalQ i).passes)]) ∨ (3 ≤ r ∧ c = .calAbandoned ∧ l = [(1, r)])) :
    Logged (ent c s.now (s.getCalQ i).index l s) (endOuting i r s) := by
  unfold endOuting
  extract_lets q s₁ s₂ s₃ s₄
  have h₃ : s₃.tb = s.tb := State.tb_eq (m := { head := true, lc := true, cal := true }) rfl (by simp [s₃, s₂, s₁])
  have h₄ : s₄ = raise c q.index l s₃ := by
    unfold s₄
    rcases hrec with ⟨rfl, rfl, rfl⟩ | ⟨hr, rfl, rfl⟩
    · rfl
    · split
      · omega
      · omega
      · omega
      · rfl
  have hlog := logged_raise hc q.index l s₃
  rw [ent_congr (congrArg Tb.epoch h₃), State.now, h₃] at hlog
  have hend : Logged (ent c s.now q.index l s) s₄ := by
    rw [h₄]
    exact hlog
  exact Logged.of_outside (m := { host := true }) rfl (by simp) hend

theorem withdraw_trimOf (h k : Nat) (d d' : Bool) (s : State) : (withdraw h d s).trimOf k d' = s.trimOf k d' := by
  have htrim : ((withdraw h d s).getHead k).trimA = (s.getHead k).trimA ∧ ((withdraw h d s).getHead k).trimP = (s.getHead k).trimP := by
    by_cases hk : k = h
    · subst hk
      unfold withdraw
      rw [State.getHead_modHead]
      exact ⟨rfl, rfl⟩
    · unfold withdraw
      rw [State.getHead_modHead_ne _ _ _ _ hk]
      exact ⟨rfl, rfl⟩
  rw [State.trimOf, State.trimOf, htrim.1, htrim.2]

theorem trimOf_congr {t : State} (h : t.head = s.head) (k : Nat) (d : Bool) : t.trimOf k d = s.trimOf k d := by
  simp only [State.trimOf, State.getHead, h]

/-- R345: an outing that ends changes no trim. -/
theorem endOuting_trimOf (i r k : Nat) (d : Bool) (s : State) : (endOuting i r s).trimOf k d = s.trimOf k d := by
  unfold endOuting
  extract_lets q s₁ s₂ s₃ s₄
  have h₁ : s₁.trimOf k d = s.trimOf k d :=
    whenDo_keeps (fun u => u.trimOf k d = s.trimOf k d) (fun u hu => (withdraw_trimOf _ _ _ _ u).trans hu) _ rfl
  have h₄ : s₄.outside { lc := true, cal := true, log := true } = s₁.outside { lc := true, cal := true, log := true } := by
    simp only [s₄, s₃, s₂]
    split <;> simp
  have h₅ : (irqAll irqCal s₄).outside { host := true } = s₄.outside { host := true } := by simp
  exact (trimOf_congr ((State.head_eq rfl h₅).trans (State.head_eq rfl h₄)) k d).trans h₁

/-! ## Images (R354) -/

theorem calWord_fields_eq (op : Nat) (d loc : Bool) (idx : Nat) :
    packW [(1, 31), (op, 28), (if d then 1 else 0, 27), (if loc then 1 else 0, 26), (idx, 0)] = calWord op d loc idx := by
  simp [calWord, packW, goBit, b2n]

theorem calImage_busy {op : Nat} (h : (s.plan.st = .staging ∨ s.cal.imgBusy = true) ∨ (op = 4 ∧ ∃ i, i < 16 ∧ (s.getCalQ i).st ≠ .free)) :
    calImage op s = s.modCalIsl (fun c => { c with cmdResult := 6 }) := by
  refine if_pos ?_
  simp only [Bool.or_eq_true, Bool.and_eq_true, beq_iff_eq, List.any_eq_true, List.mem_range, CalQ.busy, bne_iff_ne]
  exact h

theorem calImage_starts {op : Nat} (h : ¬ ((s.plan.st = .staging ∨ s.cal.imgBusy = true) ∨ (op = 4 ∧ ∃ i, i < 16 ∧ (s.getCalQ i).st ≠ .free))) :
    calImage op s = s.modCalIsl (fun c => { c with cmdResult := 0, imgBusy := true, imgOp := op }) := by
  refine if_neg ?_
  simp only [Bool.or_eq_true, Bool.and_eq_true, beq_iff_eq, List.any_eq_true, List.mem_range, CalQ.busy, bne_iff_ne]
  exact h

/-- The end of an operation on an image. -/
theorem exec_calImageDone (hup : s.stewUp = true) (hbusy : s.cal.imgBusy = true) : exec .calImageDone s = .next (irqAll irqCal
    ((if s.cal.imgOp = 3 then (galPuts 5 calImgBase s.calImage s).modCalIsl (fun c => { c with imgLen := s.calImage.length })
      else restoreImage s).modCalIsl (fun c => { c with imgBusy := false }))) := by
  have hexec : exec .calImageDone s = execCalImageDone s := rfl
  have hno : (!s.cal.imgBusy) = false := by rw [hbusy]; rfl
  rw [hexec, execCalImageDone, onStew_up hup, hno]
  rfl

theorem irqAll_eq (b : Nat) (s : State) : irqAll b s = { s with host := (irqAll b s).host } := State.eq_onto (m := { host := true }) (by simp)

/-- R354: an image that is stored. -/
theorem calImageDone_exports (hup : s.stewUp = true) (hbusy : s.cal.imgBusy = true) (hop : s.cal.imgOp = 3) : ∃ t,
    exec .calImageDone s = .next t ∧ t.cal = { s.cal with imgBusy := false, imgLen := s.calImage.length } ∧
    t = { s with cal := t.cal, gal := t.gal, host := t.host } := by
  have hput := galPuts_eq 5 calImgBase s.calImage s
  rw [exec_calImageDone hup hbusy, if_pos hop]
  generalize galPuts 5 calImgBase s.calImage s = u at hput
  generalize s.calImage.length = n
  have hirq := irqAll_eq irqCal ((u.modCalIsl (fun c => { c with imgLen := n })).modCalIsl (fun c => { c with imgBusy := false }))
  generalize irqAll irqCal _ = t at hirq
  refine ⟨t, rfl, ?_, ?_⟩
  · rw [hirq, hput]
    rfl
  · rw [hirq, hput]
    rfl

/-- R354, R362: an image that is not valid, or whose words do not all read. -/
theorem restoreImage_bad (h : calImgOk (mslice galDefault (s.getGal 5).mem 0x60000 s.cal.imgLen).toArray s.cal.imgLen = false ∨
      s.badWords 5 0x60000 s.cal.imgLen ≠ []) :
    restoreImage s = calResult 7 (readRange 5 0x60000 s.cal.imgLen s) := by
  unfold restoreImage calImgBase
  dsimp only
  refine if_pos ?_
  rcases h with h | h
  · rw [h]
    rfl
  · rw [List.isEmpty_eq_false_iff.2 h, Bool.not_false, Bool.or_true]

theorem calImageDone_invalid (hup : s.stewUp = true) (hbusy : s.cal.imgBusy = true) (hop : s.cal.imgOp = 4)
    (h : calImgOk (mslice galDefault (s.getGal 5).mem 0x60000 s.cal.imgLen).toArray s.cal.imgLen = false ∨
      s.badWords 5 0x60000 s.cal.imgLen ≠ []) : ∃ t,
    exec .calImageDone s = .next t ∧ t.cal = { s.cal with imgBusy := false, cmdResult := 7 } ∧
    (s.badWords 5 0x60000 s.cal.imgLen = [] → t = { s with cal := t.cal, host := t.host }) ∧
    t = { s with cal := t.cal, gal := t.gal, host := t.host, log := t.log } := by
  have hread := readRange_eq 5 0x60000 s.cal.imgLen s
  have hnone := fun h => readRange_none (g := 5) (a := 0x60000) (n := s.cal.imgLen) (s := s) h
  rw [exec_calImageDone hup hbusy, if_neg (by omega), restoreImage_bad h, irqAll_eq]
  generalize readRange 5 0x60000 s.cal.imgLen s = u at hread hnone
  refine ⟨_, rfl, ?_, fun hgood => ?_, ?_⟩
  · rw [hread]
    rfl
  · rw [hnone hgood]
    rfl
  · rw [hread]
    rfl

/-! ## Outings (R340, R345) -/

/-- A change asked for stands in the head's queue or behind it. -/
theorem pushPx_asks (h : Nat) (c : Change) (s : State) :
    c ∈ ((pushPx h c s).getHead h).queue ++ ((pushPx h c s).getHead h).waiting := by
  unfold pushPx
  dsimp only
  split
  · have hhead : (pushChange h c s).getHead h = (s.modHead h (fun x => { x with queue := x.queue ++ [c] })).getHead h := by
      have h' : (pushChange h c s).head = (s.modHead h (fun x => { x with queue := x.queue ++ [c] })).head :=
        State.head_eq (m := { ring := true }) rfl (by simp [pushChange])
      rw [State.getHead, h']
      rfl
    rw [hhead, State.getHead_modHead]
    simp
  · rw [State.getHead_modHead]
    simp

theorem exec_outingStart (q : Fin 16) (hup : s.stewUp = true) (hwarn : s.inWarning = false) (hst : (s.getCalQ q).st = .queued)
    (hmay : s.mayStart q = true)
    (hfirst : ∀ j, j < 16 → (s.getCalQ j).st = .queued → (s.getCalQ j).order < (s.getCalQ q).order → s.mayStart j = false) :
    exec (.outingStart q) s = .next (if (s.getCalQ q).kind = 1 then startPass q (s.modCalQ q (fun c => { c with
        st := .waiting, startAt := s.now, passes := 0, prop := none
        tmo := if (s.getCalQ q).kind = 1 then 3840 * max 1 s.cal.headTmo else 384 * max 1 s.cal.localTmo }))
      else (s.modCalQ q (fun c => { c with
        st := .waiting, startAt := s.now, passes := 0, prop := none
        tmo := if (s.getCalQ q).kind = 1 then 3840 * max 1 s.cal.headTmo else 384 * max 1 s.cal.localTmo })).modLcIsl
          (fun l => { l with sinceBurst := 256, burstAsk := none })) := by
  have hexec : exec (.outingStart q) s = execOutingStart q s := rfl
  have hearlier : (List.range 16).any (fun j => (s.getCalQ j).st == .queued && decide ((s.getCalQ j).order < (s.getCalQ q).order) && s.mayStart j) = false := by
    simp only [List.any_eq_false, List.mem_range, Bool.and_eq_true, beq_iff_eq, decide_eq_true_eq, not_and, and_imp]
    intro j hj hq ho
    rw [hfirst j hj hq ho]
    decide
  rw [hexec, execOutingStart, onStew_up hup]
  dsimp only
  rw [hearlier, hwarn, hmay, hst]
  exact congrArg Host.Outcome.next (if_neg (by decide))

/-- An outing that starts. -/
def CalQ.begun (now tmo : Nat) (q : CalQ) : CalQ := { q with st := .waiting, startAt := now, tmo := tmo, passes := 0, prop := none }

/-- R340, R341: a head outing begins with the write that turns the stimulus on. -/
theorem startPass_asks (i : Nat) (s : State) : ((startPass i s).getCalQ i) = { s.getCalQ i with
      st := .waiting, atOn := none, cnt := [0, 0, 0, 0], sum := [0, 0, 0, 0] } ∧
    (∀ j, j ≠ i → (startPass i s).getCalQ j = s.getCalQ j) ∧
    (∃ c, c ∈ ((startPass i s).getHead (s.getCalQ i).index).queue ++ ((startPass i s).getHead (s.getCalQ i).index).waiting ∧
      c.reg = regStim ∧ c.value = (if (s.getCalQ i).det then 2 else 1) ∧ c.asker = .px) ∧
    startPass i s = { s with
      ring := (startPass i s).ring, head := (startPass i s).head, cal := { s.cal with q := (startPass i s).cal.q } } := by
  have hself := State.getCalQ_modCalQ s i (fun q => { q with st := .waiting, atOn := none, cnt := [0, 0, 0, 0], sum := [0, 0, 0, 0] })
  have hne := fun j (hj : j ≠ i) =>
    State.getCalQ_modCalQ_ne s i j (fun q => { q with st := .waiting, atOn := none, cnt := [0, 0, 0, 0], sum := [0, 0, 0, 0] }) hj
  unfold startPass
  extract_lets q u
  have hask := pushPx_asks q.index { reg := regStim, value := if q.det then 2 else 1, asker := .px } u
  have honly : pushPx q.index { reg := regStim, value := if q.det then 2 else 1, asker := .px } u =
      State.onto { ring := true, head := true } u _ := State.eq_onto (outside_pushPx rfl rfl _ _ u)
  have hu : u.cal = { s.cal with q := u.cal.q } := rfl
  generalize pushPx q.index _ u = t at hask honly
  have hcal : t.cal = u.cal := by
    rw [honly]
    rfl
  refine ⟨?_, fun j hj => ?_, ⟨_, hask, rfl, rfl, rfl⟩, ?_⟩
  · rw [State.getCalQ, hcal]
    exact hself
  · rw [State.getCalQ, hcal]
    exact hne j hj
  · rw [hcal]
    exact honly

/-- R340: a queued outing that its limits allow starts. -/
theorem outingStart_starts (q : Fin 16) (hup : s.stewUp = true) (hwarn : s.inWarning = false) (hst : (s.getCalQ q).st = .queued)
    (hmay : s.mayStart q = true)
    (hfirst : ∀ j, j < 16 → (s.getCalQ j).st = .queued → (s.getCalQ j).order < (s.getCalQ q).order → s.mayStart j = false) :
    ∃ t, exec (.outingStart q) s = .next t ∧ (t.getCalQ q).st = .waiting ∧ (t.getCalQ q).startAt = s.tb.idx ∧ (t.getCalQ q).passes = 0 ∧
      (t.getCalQ q).tmo = (if (s.getCalQ q).kind = 1 then 3840 * max 1 s.cal.headTmo else 384 * max 1 s.cal.localTmo) ∧
      (∀ j, j ≠ q.val → t.getCalQ j = s.getCalQ j) ∧
      ((s.getCalQ q).kind = 1 → (∃ c, c ∈ (t.getHead (s.getCalQ q).index).queue ++ (t.getHead (s.getCalQ q).index).waiting ∧
          c.reg = regStim ∧ c.value = (if (s.getCalQ q).det then 2 else 1) ∧ c.asker = .px) ∧ t.lc = s.lc) ∧
      t = { s with ring := t.ring, head := t.head, lc := t.lc, cal := { s.cal with q := t.cal.q } } := by
  have hexec := exec_outingStart q hup hwarn hst hmay hfirst
  generalize (if (s.getCalQ q).kind = 1 then 3840 * max 1 s.cal.headTmo else 384 * max 1 s.cal.localTmo) = tmo at hexec ⊢
  have hself := State.getCalQ_modCalQ s q (CalQ.begun s.now tmo)
  have hne := fun j (hj : j ≠ q.val) => State.getCalQ_modCalQ_ne s q j (CalQ.begun s.now tmo) hj
  have hu : s.modCalQ q (CalQ.begun s.now tmo) = { s with cal := { s.cal with q := (s.modCalQ q (CalQ.begun s.now tmo)).cal.q } } := rfl
  change exec (.outingStart q) s = .next (if (s.getCalQ q).kind = 1 then startPass q (s.modCalQ q (CalQ.begun s.now tmo))
    else (s.modCalQ q (CalQ.begun s.now tmo)).modLcIsl (fun l => { l with sinceBurst := 256, burstAsk := none })) at hexec
  generalize s.modCalQ q (CalQ.begun s.now tmo) = u at hexec hself hne hu
  by_cases hkind : (s.getCalQ q).kind = 1
  · rw [if_pos hkind] at hexec
    obtain ⟨hpass, hothers, hask, honly⟩ := startPass_asks q u
    rw [hself] at hpass hask
    generalize startPass q u = t at *
    have hlc : t.lc = s.lc := by rw [honly, hu]
    refine ⟨_, hexec, ?_, ?_, ?_, ?_, fun j hj => (hothers j hj).trans (hne j hj), fun _ => ⟨hask, hlc⟩, ?_⟩
    · rw [hpass]
    · rw [hpass]
      rfl
    · rw [hpass]
      rfl
    · rw [hpass]
      rfl
    · rw [hlc]
      exact honly.trans (by rw [hu])
  · rw [if_neg hkind] at hexec
    refine ⟨_, hexec, ?_, ?_, ?_, ?_, hne, fun h => absurd h hkind, ?_⟩
    · exact congrArg CalQ.st hself
    · exact congrArg CalQ.startAt hself
    · exact congrArg CalQ.passes hself
    · exact congrArg CalQ.tmo hself
    · rw [hu]
      rfl

/-- R345: an outing that has run for its timeout. -/
theorem outingTimeout_ends (q : Fin 16) (hup : s.stewUp = true) (hst : (s.getCalQ q).st = .waiting ∨ (s.getCalQ q).st = .measuring)
    (htime : (s.getCalQ q).startAt + (s.getCalQ q).tmo ≤ s.tb.idx) (hhead : (s.getHead (s.getCalQ q).index).st ≠ .absent) :
    exec (.outingTimeout q) s = .next (endOuting q 1 s) := by
  have hexec : exec (.outingTimeout q) s = execOutingTimeout q s := rfl
  have habsent : ((s.getHead (s.getCalQ q).index).st == .absent) = false := beq_false_of_ne hhead
  have hrun : (s.getCalQ q).running = true ∧ ((s.getCalQ q).st != .applying) = true := by
    unfold CalQ.running
    rcases hst with h | h <;> rw [h] <;> decide
  rw [hexec, execOutingTimeout, onStew_up hup]
  dsimp only
  rw [habsent, hrun.1, hrun.2, decide_eq_true (show s.now ≥ (s.getCalQ q).startAt + (s.getCalQ q).tmo from htime)]
  simp

/-! ## The command register (R338, R349, R354) -/

/-- A command written to CAL_CMD, with its audit record. -/
theorem calRow_does {p op idx : Nat} {d loc : Bool} (hop : op < 8) (hidx : idx < 4096) (hact : MayAct s p 2 islSteward) :
    calRow p op d loc idx s = .next (wordDone p (auditWrite (s.getRolePort p).role p 0x1C0000 (calRead s 0) (calWord op d loc idx)
      (calGo (s.modCalIsl (Cal.asked op d loc idx))))) := by
  have hrow : calRow p op d loc idx s = rowWrite p 0x1C0000 (calWord op d loc idx) s := rfl
  have hneed : wrNeed (.cal 0) (calWord op d loc idx) = 2 := rfl
  rw [hrow, rowWrite_reg (a := 0x1C0000) (role := 2) hact rfl trivial rfl (fun _ => rfl) (Nat.le_of_eq hneed) rfl]
  have hpl : place 0x1C0000 = .cal 0 := rfl
  rw [hpl, writeAudited, regWrite_calCmd hop d loc hidx, hneed]
  rfl

/-- What stands in the block after an audited command. -/
theorem wordDone_auditWrite_eq (p role a : Nat) (old v : Word) (u : State) : wordDone p (auditWrite role p a old v u) = { u with
    host := (wordDone p (auditWrite role p a old v u)).host, role := (wordDone p (auditWrite role p a old v u)).role
    log := (wordDone p (auditWrite role p a old v u)).log } :=
  State.eq_onto (m := { host := true, role := true, log := true }) (by simp)

theorem Logged.wordDone_countAudit {e : LogEnt} {p : Nat} (h : Logged e s) : Logged e (wordDone p (countAudit s)) := logged_congr rfl h

theorem Logged.wordDone_auditWrite {e : LogEnt} {p role a : Nat} {old v : Word} {u : State} (h : Logged e u) :
    Logged e (wordDone p (auditWrite role p a old v u)) := Logged.wordDone_countAudit (Logged.raise h)

theorem calExport_answered {p : Fin 4} (hact : MayAct s p 2 islSteward) (hidx : s.cal.index < 4096) {op : Nat} (hop : op = 3 ∨ op = 4) :
    ∃ t u, calRow p op s.cal.det s.cal.loc s.cal.index s = .next t ∧
      (((s.plan.st = .staging ∨ s.cal.imgBusy = true) ∨ (op = 4 ∧ ∃ i, i < 16 ∧ (s.getCalQ i).st ≠ .free)) →
        u = { s with cal := { s.cal with op := op, cmdResult := 6 } }) ∧
      (¬ ((s.plan.st = .staging ∨ s.cal.imgBusy = true) ∨ (op = 4 ∧ ∃ i, i < 16 ∧ (s.getCalQ i).st ≠ .free)) →
        u = { s with cal := { s.cal with op := op, cmdResult := 0, imgBusy := true, imgOp := op } }) ∧
      Audited p 0x1C0000 (calRead s 0) (calWord op s.cal.det s.cal.loc s.cal.index) s u t := by
  have hlt : op < 8 := by omega
  have hgo : calGo (s.modCalIsl (Cal.asked op s.cal.det s.cal.loc s.cal.index)) =
      calImage op (s.modCalIsl (Cal.asked op s.cal.det s.cal.loc s.cal.index)) := by
    rcases hop with rfl | rfl <;> rfl
  have hother : calImage op (s.modCalIsl (Cal.asked op s.cal.det s.cal.loc s.cal.index)) =
      { s with cal := (calImage op (s.modCalIsl (Cal.asked op s.cal.det s.cal.loc s.cal.index))).cal } :=
    State.eq_onto (m := { cal := true }) (by simp)
  obtain ⟨t, ht, haud⟩ := calRow_audited (d := s.cal.det) (loc := s.cal.loc) hlt hidx hact hgo (by rw [hother]; rfl) (by rw [hother])
  exact ⟨t, _, ht, fun h => calImage_busy (s := s.modCalIsl (Cal.asked op s.cal.det s.cal.loc s.cal.index)) h,
    fun h => calImage_starts (s := s.modCalIsl (Cal.asked op s.cal.det s.cal.loc s.cal.index)) h, haud⟩

/-- R338, R349: CANCEL. -/
theorem calCancel_answered {p : Fin 4} {l : Bool} {d : Det} {i : Fin 4096} (hact : MayAct s p 2 islSteward) :
    (s.outingOf (if l then 2 else 1) d i = none → ∃ t, exec (.calCancel p l d i) s = .next t ∧ t.cal.cmdResult = 8 ∧ t.cal.q = s.cal.q) ∧
    (∀ j, s.outingOf (if l then 2 else 1) d i = some j → ∃ t, exec (.calCancel p l d i) s = .next t ∧ t.cal.cmdResult = 0 ∧
      (t.getCalQ j).st = .free ∧ (t.getCalQ j).result = 4 ∧ (∀ k, k ≠ j → t.getCalQ k = s.getCalQ k) ∧
      Logged (ent .calAbandoned s.now (s.getCalQ j).index [(1, 4)] s) t ∧
      t = { s with head := t.head, lc := t.lc, cal := t.cal, host := t.host, role := t.role, log := t.log }) := by
  have hexec : exec (.calCancel p l d i) s = calRow p 5 d l i s := rfl
  have hcancel : calGo (s.modCalIsl (Cal.asked 5 d l i)) = calCancel l d i (s.modCalIsl (Cal.asked 5 d l i)) := rfl
  have houting : (s.modCalIsl (Cal.asked 5 d l i)).outingOf (if l then 2 else 1) d i = s.outingOf (if l then 2 else 1) d i := rfl
  rw [hexec, calRow_does (by decide) i.isLt hact, hcancel, calCancel, houting]
  refine ⟨fun hnone => ?_, fun j hj => ?_⟩
  · rw [hnone]
    dsimp only
    rw [wordDone_auditWrite_eq]
    exact ⟨_, rfl, rfl, rfl⟩
  · rw [hj]
    dsimp only
    obtain ⟨hself, hne, hcal⟩ := endOuting_getCalQ j 4 (calResult 0 (s.modCalIsl (Cal.asked 5 d l i)))
    have hlog := endOuting_logged (c := .calAbandoned) (i := j) (r := 4) (l := [(1, 4)]) (s := calResult 0 (s.modCalIsl (Cal.asked 5 d l i)))
      rfl (.inr ⟨by decide, rfl, rfl⟩)
    have honly := endOuting_eq j 4 (calResult 0 (s.modCalIsl (Cal.asked 5 d l i)))
    generalize endOuting j 4 (calResult 0 (s.modCalIsl (Cal.asked 5 d l i))) = u at hself hne hcal hlog honly
    have hlog' := Logged.wordDone_auditWrite (p := p) (role := (s.getRolePort p).role) (a := 0x1C0000) (old := calRead s 0)
      (v := calWord 5 d l i) hlog
    have hrest := wordDone_auditWrite_eq p (s.getRolePort p).role 0x1C0000 (calRead s 0) (calWord 5 d l i) u
    generalize wordDone p (auditWrite (s.getRolePort p).role p 0x1C0000 (calRead s 0) (calWord 5 d l i) u) = t at hlog' hrest
    have hq : ∀ k, t.getCalQ k = u.getCalQ k := fun k => by
      rw [hrest]
      rfl
    refine ⟨t, rfl, ?_, ?_, ?_, fun k hk => (hq k).trans (hne k hk), hlog', ?_⟩
    · rw [hrest]
      change u.cal.cmdResult = 0
      rw [hcal]
      rfl
    · rw [hq, hself]
      rfl
    · rw [hq, hself]
      rfl
    · rw [hrest, honly]
      rfl

/-- Settles O39: images by what their checks find, outings by how they start and end. -/
theorem calibrationImagesAndOutings : Obligations.CalibrationImagesAndOutings := by
  refine ⟨⟨fun p s hact hidx => ?_, fun p l d i s hact => calCancel_answered hact, fun s hup hbusy => ⟨calImageDone_exports hup hbusy, ?_, ?_⟩⟩,
    fun q s hup hwarn hst hmay hfirst => outingStart_starts q hup hwarn hst hmay hfirst, fun q s hup hst htime hhead => ?_⟩
  · intro word busy outing
    have hword : ∀ op, word op = calWord op s.cal.det s.cal.loc s.cal.index := fun op => calWord_fields_eq _ _ _ _
    rw [hword, hword]
    obtain ⟨t, u, ht, hb, hf, haud⟩ := calExport_answered (p := p) hact hidx (.inl rfl)
    obtain ⟨t', u', ht', hb', hf', haud'⟩ := calExport_answered (p := p) hact hidx (.inr rfl)
    exact ⟨⟨t, u, ht, fun h => hb (.inl h), fun h => hf (fun h' => h (h'.elim id (fun h' => absurd h'.1 (by decide)))), haud⟩,
      t', u', ht', fun h => hb' (h.imp id (fun h => ⟨rfl, h⟩)), fun h => hf' (fun h' => h (h'.imp id And.right)), haud'⟩
  · intro hop hbad
    obtain ⟨t, ht, hcal, honly, -⟩ := calImageDone_invalid hup hbusy hop (.inl hbad)
    exact ⟨t, ht, hcal, honly⟩
  · intro hop hbad
    obtain ⟨t, ht, hcal, -, honly⟩ := calImageDone_invalid hup hbusy hop (.inr hbad)
    exact ⟨t, ht, hcal, honly⟩
  · obtain ⟨hself, hne, -⟩ := endOuting_getCalQ q 1 s
    have hdet : (if (s.getCalQ q).det then 1 else 0) = b2n (s.getCalQ q).det := rfl
    refine ⟨_, outingTimeout_ends q hup hst htime hhead, ?_, ?_, hne, ?_, fun k => ⟨endOuting_trimOf _ _ _ _ _, endOuting_trimOf _ _ _ _ _⟩,
      endOuting_eq _ _ _⟩
    · rw [hself]
      rfl
    · rw [hself]
      rfl
    · rw [hdet]
      exact endOuting_logged (c := .calTimeout) rfl (.inl ⟨rfl, rfl, rfl⟩)

end Sys2Proof.Machine
end

section
-- One proof after another: elaborated side by side they take more memory than the check allows.
set_option Elab.async false
/-! PROOF. Spectral faults, replay and restoration (O35). -/

namespace Sys2Proof.Machine

open Sys2Proof.Cert

variable {s : State}

/-! ## What a replay changes of the spectral island -/

/-- The bindings of the harmonic engines alone change. -/
def BindOnly (s t : State) : Prop := t = { s with spec := { s.spec with bind := t.spec.bind } }

theorem BindOnly.refl (s : State) : BindOnly s s := rfl

theorem BindOnly.trans {s t u : State} (h : BindOnly s t) (h' : BindOnly t u) : BindOnly s u := by
  unfold BindOnly at *
  rw [h', h]

theorem bindOnly_modSpBind (s : State) (k : Nat) (f : SpBind → SpBind) : BindOnly s (s.modSpBind k f) := rfl

theorem BindOnly.each {α : Type} {f : State → α → State} (hf : ∀ s a, BindOnly s (f s a)) (l : List α) (s : State) : BindOnly s (each l f s) :=
  each_keeps (BindOnly s) (fun t a ht => ht.trans (hf t a)) l (BindOnly.refl s)

theorem BindOnly.repeatDo {f : State → State} (hf : ∀ s, BindOnly s (f s)) (n : Nat) (s : State) : BindOnly s (repeatDo f n s) := by
  induction n generalizing s with
  | zero => exact BindOnly.refl s
  | succ n ih => exact (hf s).trans (ih _)

theorem reloadBind_only (c slot : Nat) (s : State) : BindOnly s (reloadBind c slot s) := by
  unfold reloadBind
  dsimp only
  split
  · exact BindOnly.refl s
  · exact bindOnly_modSpBind _ _ _
  · exact bindOnly_modSpBind _ _ _

theorem harmTake_only (c slot : Nat) (s : State) : BindOnly s (harmTake c slot s) := by
  unfold harmTake
  split
  · exact BindOnly.refl s
  · dsimp only
    split
    · exact BindOnly.refl s
    · split
      · exact BindOnly.refl s
      · exact bindOnly_modSpBind _ _ _

/-- The bindings of an engine reloaded. -/
def bindsReloaded (e : Nat) (s : State) : State := each (s.engBinds e) (fun s q => reloadBind q.1 q.2 s) s

theorem bindsReloaded_only (e : Nat) (s : State) : BindOnly s (bindsReloaded e s) :=
  BindOnly.each (f := fun s (q : Nat × Nat) => reloadBind q.1 q.2 s) (fun t q => reloadBind_only q.1 q.2 t) _ s

theorem startHarmReplay_eq (e t : Nat) (taking : Bool) (s : State) : startHarmReplay e t taking s =
    bindsReloaded e (s.modSpEng e (fun x => { x with replay := some t, taking := taking, replays := satAdd 0xFF x.replays 1 })) := rfl

/-! ## Faults (R217, R242, R293) -/

/-- An engine with one fault more. -/
def SpEng.faulted (fs : List Nat) (x : SpEng) : SpEng := { x with faults := fs, upsets := satAdd 0xFF x.upsets 1 }

theorem exec_harmFault {e : Fin 5} (hup : s.up islSpect = true) (hret : (s.getSpEng e).retired = false) : exec (.harmFault e) s =
    .next (if (addFault s.now (s.getSpEng e).faults).length ≥ 3 then
      retireHarm e ((s.getSpEng e).replay.getD s.now) (s.modSpEng e (SpEng.faulted (addFault s.now (s.getSpEng e).faults)))
    else if (s.engBlocks e).isEmpty then s.modSpEng e (SpEng.faulted (addFault s.now (s.getSpEng e).faults))
    else startHarmReplay e ((s.getSpEng e).replay.getD s.now) (s.getSpEng e).taking
      (s.modSpEng e (SpEng.faulted (addFault s.now (s.getSpEng e).faults)))) := by
  have hexec : exec (.harmFault e) s = execHarmFault e s := rfl
  rw [hexec, execHarmFault, onIsl_up hup]
  dsimp only
  rw [hret]
  rfl

/-- R217: a transient fault: the engine's work is done again. -/
theorem harmFault_replays {e : Fin 5} (hup : s.up islSpect = true) (hret : (s.getSpEng e).retired = false)
    (hfew : (addFault s.now (s.getSpEng e).faults).length < 3) (hblocks : s.engBlocks e ≠ []) :
    ∃ t, exec (.harmFault e) s = .next t ∧
      t.getSpEng e = { s.getSpEng e with
        faults := addFault s.now (s.getSpEng e).faults, upsets := min 0xFF ((s.getSpEng e).upsets + 1)
        replay := some ((s.getSpEng e).replay.getD s.tb.idx), replays := min 0xFF ((s.getSpEng e).replays + 1) } ∧
      (∀ j, j ≠ e.val → t.getSpEng j = s.getSpEng j) ∧ t.spec.blkEng = s.spec.blkEng ∧ t = { s with spec := t.spec } := by
  have hne : ¬ (s.engBlocks e).isEmpty = true := by simpa using hblocks
  rw [exec_harmFault hup hret, if_neg (Nat.not_le.2 hfew), if_neg hne, startHarmReplay_eq]
  generalize hf : SpEng.faulted (addFault s.now (s.getSpEng e).faults) = f
  generalize hg : (fun x : SpEng => { x with
    replay := some ((s.getSpEng e).replay.getD s.now), taking := (s.getSpEng e).taking, replays := satAdd 0xFF x.replays 1 }) = g
  have hself : ((s.modSpEng e f).modSpEng e g).getSpEng e = g (f (s.getSpEng e)) := by
    rw [State.getSpEng_modSpEng, State.getSpEng_modSpEng]
  have hothers := fun j (hj : j ≠ e.val) =>
    (State.getSpEng_modSpEng_ne (s.modSpEng e f) e j g hj).trans (State.getSpEng_modSpEng_ne s e j f hj)
  have honly := bindsReloaded_only e ((s.modSpEng e f).modSpEng e g)
  have hspec : (s.modSpEng e f).modSpEng e g = { s with spec := ((s.modSpEng e f).modSpEng e g).spec } := rfl
  have hblk : ((s.modSpEng e f).modSpEng e g).spec.blkEng = s.spec.blkEng := rfl
  generalize (s.modSpEng e f).modSpEng e g = u at hself hothers honly hspec hblk
  generalize bindsReloaded e u = t at honly
  have hget : ∀ j, t.getSpEng j = u.getSpEng j := fun j => by
    rw [honly]
    rfl
  refine ⟨t, rfl, ?_, fun j hj => (hget j).trans (hothers j hj), ?_, ?_⟩
  · rw [hget, hself, ← hf, ← hg]
    rfl
  · rw [honly]
    exact hblk
  · rw [honly, hspec]

/-- R217, R293: the third fault of an engine, with no spare. -/
theorem retireHarm_unspared {e t : Nat} (hblocks : s.engBlocks e ≠ []) (hspare : s.spareHarm.filter (fun v => v != e) = []) :
    retireHarm e t s = raise .harmRetired e [(1, 0), (1, 0xFF)] (galSettle 1
      (((s.modSpEng e (fun x => { x with retired := true, replay := none })).modRedIsl (fun r => { r with noSpare := true })).modSpecIsl
        (fun y => { y with blkEng := y.blkEng.map (fun b => if b.2 = e then (b.1, 15) else b) }))) := by
  unfold retireHarm
  dsimp only
  rw [hspare]
  split
  next h => exact absurd h hblocks
  next h _ => cases h
  next => rfl

theorem raise_galSettle_eq (c : LogCode) (i g : Nat) (l : List (Nat × Nat)) (u : State) : raise c i l (galSettle g u) =
    { u with gal := (raise c i l (galSettle g u)).gal, log := (raise c i l (galSettle g u)).log } :=
  State.eq_onto (m := { gal := true, log := true }) (by simp)

theorem harmFault_retires {e : Fin 5} (hup : s.up islSpect = true) (hret : (s.getSpEng e).retired = false)
    (hmany : 3 ≤ (addFault s.now (s.getSpEng e).faults).length) (hblocks : s.engBlocks e ≠ [])
    (hspare : s.spareHarm.filter (fun v => v != e.val) = []) :
    ∃ t, exec (.harmFault e) s = .next t ∧ (t.getSpEng e).retired = true ∧ t.red.noSpare = true ∧
      t.spec.blkEng = s.spec.blkEng.map (fun b => if b.2 = e.val then (b.1, 15) else b) ∧
      Logged (ent .harmRetired s.now e [(1, 0), (1, 0xFF)] s) t ∧ t = { s with spec := t.spec, red := t.red, gal := t.gal, log := t.log } := by
  rw [exec_harmFault hup hret, if_pos hmany]
  generalize hf : SpEng.faulted (addFault s.now (s.getSpEng e).faults) = f
  have hspares : (s.modSpEng e f).spareHarm = s.spareHarm := by
    unfold State.spareHarm
    refine List.filter_congr (fun j _ => ?_)
    have hblk : (s.modSpEng e f).engBlocks j = s.engBlocks j := rfl
    rw [hblk]
    by_cases hj : j = e.val
    · rw [hj, State.getSpEng_modSpEng, ← hf]
      rfl
    · rw [State.getSpEng_modSpEng_ne _ _ _ _ hj]
  rw [retireHarm_unspared (s := s.modSpEng e f) hblocks (by rw [hspares]; exact hspare)]
  have hretired := State.getSpEng_modSpEng (s.modSpEng e f) e (fun x => { x with retired := true, replay := none })
  have hrest : (((s.modSpEng e f).modSpEng e (fun x => { x with retired := true, replay := none })).modRedIsl (fun r => { r with noSpare := true })) =
    { s with spec := ((s.modSpEng e f).modSpEng e (fun x => { x with retired := true, replay := none })).spec, red := { s.red with noSpare := true } } := rfl
  have hblk : ((s.modSpEng e f).modSpEng e (fun x => { x with retired := true, replay := none })).spec.blkEng = s.spec.blkEng := rfl
  rw [hrest]
  generalize hz : ((s.modSpEng e f).modSpEng e (fun x => { x with retired := true, replay := none })) = z at hretired hblk
  generalize hw : ({ s with spec := z.spec, red := { s.red with noSpare := true } } : State).modSpecIsl
    (fun y => { y with blkEng := y.blkEng.map (fun b => if b.2 = e.val then (b.1, 15) else b) }) = w
  have hlog := logged_raise (c := .harmRetired) rfl e [(1, 0), (1, 0xFF)] (galSettle 1 w)
  have hent : ent .harmRetired (galSettle 1 w).now e [(1, 0), (1, 0xFF)] (galSettle 1 w) = ent .harmRetired s.now e [(1, 0), (1, 0xFF)] s := by
    have htb : (galSettle 1 w).tb = s.tb := by
      rw [← hw]
      rfl
    rw [ent_congr (congrArg Tb.epoch htb), State.now, htb]
    rfl
  rw [hent] at hlog
  have honly := raise_galSettle_eq .harmRetired e 1 [(1, 0), (1, 0xFF)] w
  generalize raise .harmRetired e [(1, 0), (1, 0xFF)] (galSettle 1 w) = t at hlog honly
  refine ⟨t, rfl, ?_, ?_, ?_, hlog, ?_⟩
  · have hget : t.getSpEng e = z.getSpEng e := by
      rw [honly, ← hw]
      rfl
    rw [hget, hretired]
  · rw [honly, ← hw]
    rfl
  · rw [honly, ← hw, ← hblk]
    rfl
  · rw [honly, ← hw]
    rfl

/-! ## Supraharmonic engines (R242, R293) -/

/-- The engines of the spectral island, and the bindings of the harmonic ones. -/
def State.engines (s : State) : Tab SpEng × Tab SpBind := (s.spec.eng, s.spec.bind)

theorem engines_congr {t : State} (h : t.spec = s.spec) : t.engines = s.engines := by rw [State.engines, h]; rfl

theorem putShRecord_engines (a : Nat) (bs : List Byte) (s : State) : (putShRecord a bs s).engines = s.engines :=
  engines_congr (State.spec_eq (m := { gal := true }) rfl (by simp [putShRecord]))

theorem openShPage_engines (k : Nat) (s : State) : (openShPage k s).engines = s.engines := by
  unfold openShPage
  split
  · rfl
  · refine (engines_congr (State.spec_eq (m := { gal := true }) rfl ?_)).trans (b := (s.modSpecIsl (fun x => { x with shPage := k })).engines) rfl
    unfold copyShPage
    split
    · simp
    · rfl

theorem endVisit_engines (k l : Nat) (cut : Bool) (s : State) : (endVisit k l cut s).engines = s.engines := by
  unfold endVisit
  dsimp only
  split
  · rfl
  · refine Eq.trans (b := (putShPages k _ _ (openShPage k s)).engines) rfl ?_
    unfold putShPages
    dsimp only
    split
    · exact (putShRecord_engines _ _ _).trans ((putShRecord_engines _ _ _).trans (openShPage_engines k s))
    · exact (putShRecord_engines _ _ _).trans (openShPage_engines k s)

theorem endVisits_engines (k : Nat) (l : List Nat) (s : State) : (each l (fun s l => endVisit k l true s) s).engines = s.engines :=
  each_same (f := fun s l => endVisit k l true s) State.engines (fun t j => endVisit_engines k j true t) l s

theorem newRoster_engines (q : ShSwap) (s : State) : (newRoster q s).engines = s.engines := by
  unfold newRoster
  extract_lets k u
  have hu : u.engines = s.engines := by
    unfold u
    refine whenDo_keeps (fun t => t.engines = s.engines) (fun t ht => ?_) _ rfl
    refine Eq.trans ?_ ((endVisits_engines k (List.range 8) t).trans ht)
    exact each_same (f := fun s k => s.modGal 6 (fun g => { g with
      mem := (List.range 256).foldl (fun m j =>
        let a := shPageAt k + 0x600 * j + 0x5DA
        mput galDefault m a (mget galDefault m a &&& 0xFE)) g.mem })) State.engines (fun _ _ => rfl) _ _
  exact Eq.trans (b := u.engines) rfl hu

theorem settleRoster_engines (s : State) : (settleRoster s).engines = s.engines := by
  unfold settleRoster
  split
  · rfl
  · split
    · exact newRoster_engines _ s
    · rfl

/-- The number of the other supraharmonic engine, 0xFF where it is retired too. -/
def otherSh (e : Fin 2) (s : State) : Nat := if (s.getSpEng (6 - e)).retired then 0xFF else 1 - e.val

/-- The visits of an engine that is retired ended (R242). -/
def visitsCut (e : Fin 2) (s : State) : State :=
  each (match s.roundOf (max s.spec.shPage (s.spec.shK + 1)) with | none => [] | some r => (List.range 8).filter (fun l => r.engine l == e.val))
    (fun t l => endVisit (max s.spec.shPage (s.spec.shK + 1)) l true t) s

theorem exec_shFault {e : Fin 2} (hup : s.up islSpect = true) (hret : (s.getSpEng (5 + e)).retired = false) :
    let fs := addFault s.now (s.getSpEng (5 + e)).faults
    let u := s.modSpEng (5 + e) (SpEng.faulted fs)
    exec (.shFault e) s = .next (if fs.length < 3 then u.modSpEng (5 + e) (fun x => { x with replays := satAdd 0xFF x.replays 1 })
      else settleRoster (raise .shRetired e [(1, 0), (1, otherSh e u)]
        ((whenDo (otherSh e u == 0xFF) (fun s => s.modRedIsl (fun r => { r with noSpare := true })) (visitsCut e u)).modSpEng (5 + e)
          (fun x => { x with retired := true })))) := by
  intro fs u
  have hexec : exec (.shFault e) s = execShFault e s := rfl
  rw [hexec, execShFault, onIsl_up hup]
  dsimp only
  rw [hret]
  rfl

theorem otherSh_faulted {e : Fin 2} {f : SpEng → SpEng} : otherSh e (s.modSpEng (5 + e) f) = otherSh e s := by
  unfold otherSh
  rw [State.getSpEng_modSpEng_ne _ _ _ _ (by omega)]

theorem shFault_answers {e : Fin 2} (hup : s.up islSpect = true) (hret : (s.getSpEng (5 + e)).retired = false) :
    let fs := addFault s.now (s.getSpEng (5 + e)).faults
    (fs.length < 3 → ∃ t, exec (.shFault e) s = .next t ∧
      t.getSpEng (5 + e) = { s.getSpEng (5 + e) with
        faults := fs, upsets := min 0xFF ((s.getSpEng (5 + e)).upsets + 1), replays := min 0xFF ((s.getSpEng (5 + e)).replays + 1) } ∧
      (∀ j, j ≠ 5 + e.val → t.getSpEng j = s.getSpEng j) ∧ t = { s with spec := { s.spec with eng := t.spec.eng } }) ∧
    (3 ≤ fs.length → ∃ t, exec (.shFault e) s = .next t ∧ (t.getSpEng (5 + e)).retired = true ∧
      Logged (ent .shRetired s.now e [(1, 0), (1, if (s.getSpEng (6 - e)).retired then 0xFF else 1 - e.val)] s) t ∧
      t.spec.bind = s.spec.bind ∧ t = { s with spec := t.spec, red := t.red, gal := t.gal, log := t.log }) := by
  intro fs
  have hexec := exec_shFault hup hret
  dsimp only at hexec
  rw [otherSh_faulted] at hexec
  have hgoal : (if (s.getSpEng (6 - e)).retired then 0xFF else 1 - e.val) = otherSh e s := rfl
  rw [hgoal, hexec]
  generalize otherSh e s = other
  generalize hf : SpEng.faulted (addFault s.now (s.getSpEng (5 + e)).faults) = f
  refine ⟨fun hfew => ?_, fun hmany => ?_⟩
  · rw [if_pos hfew]
    generalize hg : (fun x : SpEng => { x with replays := satAdd 0xFF x.replays 1 }) = g
    refine ⟨_, rfl, ?_, fun j hj => ?_, rfl⟩
    · rw [State.getSpEng_modSpEng, State.getSpEng_modSpEng, ← hf, ← hg]
      rfl
    · rw [State.getSpEng_modSpEng_ne _ _ _ _ hj, State.getSpEng_modSpEng_ne _ _ _ _ hj]
  · rw [if_neg (Nat.not_lt.2 hmany)]
    have hcut : (visitsCut e (s.modSpEng (5 + e) f)).engines = (s.modSpEng (5 + e) f).engines := endVisits_engines _ _ _
    have hcutOnly : (visitsCut e (s.modSpEng (5 + e) f)).outside { spec := true, gal := true } = s.outside { spec := true, gal := true } := by
      refine (outside_each (fun t l => outside_endVisit rfl rfl _ _ _ _) _ _).trans ?_
      simp
    generalize visitsCut e (s.modSpEng (5 + e) f) = v at hcut hcutOnly
    have hw : (whenDo (other == 0xFF) (fun s => s.modRedIsl (fun r => { r with noSpare := true })) v).engines = v.engines :=
      whenDo_keeps (f := fun s => s.modRedIsl (fun r => { r with noSpare := true })) (fun t => t.engines = v.engines) (fun t ht => ht) _ rfl
    have hwOnly : (whenDo (other == 0xFF) (fun s => s.modRedIsl (fun r => { r with noSpare := true })) v).outside
        { spec := true, red := true, gal := true } = s.outside { spec := true, red := true, gal := true } := by
      refine Eq.trans ?_ (State.outside_mono (m := { spec := true, gal := true }) rfl hcutOnly)
      simp
    generalize whenDo (other == 0xFF) (fun s => s.modRedIsl (fun r => { r with noSpare := true })) v = w at hw hwOnly
    have hlog := logged_raise (c := .shRetired) rfl e [(1, 0), (1, other)] (w.modSpEng (5 + e) (fun x => { x with retired := true }))
    have htb : w.tb = s.tb := State.tb_eq rfl hwOnly
    have hent : ent .shRetired (w.modSpEng (5 + e) (fun x => { x with retired := true })).now e [(1, 0), (1, other)]
        (w.modSpEng (5 + e) (fun x => { x with retired := true })) = ent .shRetired s.now e [(1, 0), (1, other)] s := by
      have hnow : (w.modSpEng (5 + e) (fun x => { x with retired := true })).now = s.now := congrArg Tb.idx htb
      rw [hnow]
      exact ent_congr (congrArg Tb.epoch htb)
    rw [hent] at hlog
    have hx : (raise .shRetired e [(1, 0), (1, other)] (w.modSpEng (5 + e) (fun x => { x with retired := true }))).spec =
        (w.modSpEng (5 + e) (fun x => { x with retired := true })).spec := State.spec_eq (m := { log := true }) rfl (by simp)
    have hxOnly : (raise .shRetired e [(1, 0), (1, other)] (w.modSpEng (5 + e) (fun x => { x with retired := true }))).outside
        { spec := true, red := true, gal := true, log := true } = s.outside { spec := true, red := true, gal := true, log := true } := by
      refine Eq.trans ?_ (State.outside_mono rfl hwOnly)
      simp
    have hself := State.getSpEng_modSpEng w (5 + e) (fun x => { x with retired := true })
    generalize raise .shRetired e [(1, 0), (1, other)] (w.modSpEng (5 + e) (fun x => { x with retired := true })) = x at hlog hx hxOnly
    have hend := settleRoster_engines x
    have hendOnly : (settleRoster x).outside { spec := true, gal := true } = x.outside { spec := true, gal := true } := by simp
    generalize settleRoster x = t at hend hendOnly
    have heng : t.engines = (w.modSpEng (5 + e) (fun x => { x with retired := true })).engines := hend.trans (engines_congr hx)
    refine ⟨t, rfl, ?_, Logged.of_outside rfl hendOnly hlog, ?_, ?_⟩
    · have hget : t.getSpEng (5 + e) = (w.modSpEng (5 + e) (fun x => { x with retired := true })).getSpEng (5 + e) :=
        congrArg (fun y : Tab SpEng × Tab SpBind => tget {} y.1 (5 + e.val)) heng
      rw [hget, hself]
    · exact (congrArg Prod.snd heng).trans (congrArg Prod.snd (hw.trans hcut))
    · exact State.eq_onto (m := { spec := true, red := true, gal := true, log := true }) ((State.outside_mono rfl hendOnly).trans hxOnly)

/-! ## Replays that catch up (R309) -/

/-- The contexts of the tally units alone change, and not what they have accumulated. -/
def TallyOnly (s t : State) : Prop :=
  t = { s with tally := { s.tally with ctx := t.tally.ctx } } ∧ ∀ c, (t.getCtx c).acc = (s.getCtx c).acc ∧ (t.getCtx c).k = (s.getCtx c).k

theorem TallyOnly.refl (s : State) : TallyOnly s s := ⟨rfl, fun _ => ⟨rfl, rfl⟩⟩

theorem TallyOnly.trans {s t u : State} (h : TallyOnly s t) (h' : TallyOnly t u) : TallyOnly s u := by
  obtain ⟨h₁, h₂⟩ := h
  obtain ⟨h₁', h₂'⟩ := h'
  refine ⟨?_, fun c => ⟨(h₂' c).1.trans (h₂ c).1, (h₂' c).2.trans (h₂ c).2⟩⟩
  rw [h₁', h₁]

theorem tallyOnly_modCtx (s : State) (c : Nat) {f : Ctx → Ctx} (hf : ∀ y, (f y).acc = y.acc ∧ (f y).k = y.k) : TallyOnly s (s.modCtx c f) := by
  refine ⟨rfl, fun j => ?_⟩
  by_cases h : j = c
  · rw [h, State.getCtx_modCtx]
    exact hf _
  · rw [State.getCtx_modCtx_ne _ _ _ _ h]
    exact ⟨rfl, rfl⟩

theorem countFlat_kept (x : PlanCtx) (k m : Nat) (t2 : Int) (toTail : Bool) (sel : Nat → Sel) (now : Nat) (sels : List Sel) (y : Ctx) :
    ((countFlat x k m t2 toTail sel y).keep now t2 sels).acc = y.acc ∧ ((countFlat x k m t2 toTail sel y).keep now t2 sels).k = y.k := by
  have hflat : (countFlat x k m t2 toTail sel y).acc = y.acc ∧ (countFlat x k m t2 toTail sel y).k = y.k := by
    unfold countFlat endGap
    dsimp only
    split
    · exact ⟨rfl, rfl⟩
    · split <;> exact ⟨rfl, rfl⟩
  unfold Ctx.keep
  split
  · exact hflat
  · exact hflat

theorem flatStep_only {c : Nat} {t : State} (h : flatStep c s = some t) : TallyOnly s t := by
  unfold flatStep at h
  split at h
  · cases h
  dsimp only at h
  split at h
  · cases h
  split at h
  · cases h
  next x l m t2 _ =>
    split at h
    · cases h
    next k _ =>
      split at h
      next sels toTail _ _ =>
        have hkeep := tallyOnly_modCtx s c
          (fun y => countFlat_kept x k m t2 toTail (fun i => sels.getD i { cls := 5, val := none }) s.now sels y)
        split at h
        · exact Option.some.inj h ▸ hkeep
        · split at h
          · cases h
          · exact Option.some.inj h ▸ hkeep
      · cases h

theorem cycStep_only {c : Nat} {t : State} (h : cycStep c s = some t) : TallyOnly s t := by
  unfold cycStep at h
  split at h
  · cases h
  dsimp only at h
  split at h
  · split at h
    · cases h
    split at h
    · cases h
    split at h
    · rw [← Option.some.inj h]
      exact tallyOnly_modCtx s c (fun y => ⟨rfl, rfl⟩)
    · cases h
  · cases h

theorem flatsUpTo_only (c n : Nat) (s : State) : TallyOnly s (flatsUpTo c n s) := by
  induction n generalizing s with
  | zero => exact TallyOnly.refl s
  | succ n ih =>
    unfold flatsUpTo
    split
    · exact TallyOnly.refl s
    next t h => exact (flatStep_only h).trans (ih t)

theorem cyclesUpTo_only (c n : Nat) (s : State) : TallyOnly s (cyclesUpTo c n s) := by
  induction n generalizing s with
  | zero => exact TallyOnly.refl s
  | succ n ih =>
    unfold cyclesUpTo
    split
    · exact TallyOnly.refl s
    next t h => exact (cycStep_only h).trans (ih t)

/-- The contexts of a unit brought up to date. -/
def contextsCaught (u : Nat) (s : State) : State := each (s.unitCtxs u) (fun s c => cyclesUpTo c 64 (flatsUpTo c 4096 s)) s

theorem contextsCaught_only (u : Nat) (s : State) : TallyOnly s (contextsCaught u s) :=
  each_keeps (TallyOnly s) (fun t c ht => ht.trans ((flatsUpTo_only c 4096 t).trans (cyclesUpTo_only c 64 _))) _ (TallyOnly.refl s)

/-- R309: a unit that is current again. -/
theorem unitCurrent_eq (u a : Nat) (s : State) : unitCurrent u a s = raise .replay u [(8, s.unitCk u), (2, min ((contextsCaught u s).now - a) 0xFFFF)]
    (((contextsCaught u s).modUnit u (fun x => { x with replay := none })).modRedIsl (fun r =>
      { r with maxLag := max r.maxLag (min ((contextsCaught u s).now - a) 0xFFFF) })) := rfl

theorem replayDone_tally {u : Fin 9} {a : Nat} (hup : s.up islTally = true) (hrep : (s.getUnit u).replay = some a) :
    ∃ t, exec (.replayDone (.tally u)) s = .next t ∧ t.getUnit u = { s.getUnit u with replay := none } ∧
      (∀ j, j ≠ u.val → t.getUnit j = s.getUnit j) ∧ t.red = { s.red with maxLag := max s.red.maxLag (min (s.tb.idx - a) 0xFFFF) } ∧
      (∀ c, (t.getCtx c).acc = (s.getCtx c).acc ∧ (t.getCtx c).k = (s.getCtx c).k) ∧
      LoggedIfRoom (ent .replay s.now u [(8, s.unitCk u), (2, min (s.tb.idx - a) 0xFFFF)] s) s t ∧
      t = { s with tally := t.tally, red := t.red, log := t.log } := by
  have hexec : exec (.replayDone (.tally u)) s = .next (unitCurrent u a s) := by
    have h : exec (.replayDone (.tally u)) s = execReplayDone (.tally u) s := rfl
    rw [h, execReplayDone, onIsl_up hup, hrep]
  obtain ⟨honly, hkept⟩ := contextsCaught_only u s
  rw [hexec, unitCurrent_eq]
  generalize contextsCaught u s = v at honly hkept
  have hnow : v.now = s.tb.idx := by
    rw [honly]
    rfl
  rw [hnow]
  generalize min (s.tb.idx - a) 0xFFFF = lag
  have hself := State.getUnit_modUnit v u (fun x => { x with replay := none })
  have hne := fun j (hj : j ≠ u.val) => State.getUnit_modUnit_ne v u j (fun x => { x with replay := none }) hj
  have hunit : ∀ j, v.getUnit j = s.getUnit j := fun j => by
    rw [honly]
    rfl
  have hw : (v.modUnit u (fun x => { x with replay := none })).modRedIsl (fun r => { r with maxLag := max r.maxLag lag }) =
      { s with tally := (v.modUnit u (fun x => { x with replay := none })).tally, red := { s.red with maxLag := max s.red.maxLag lag } } := by
    rw [honly]
    rfl
  have hctx : ∀ c, (v.modUnit u (fun x => { x with replay := none })).getCtx c = v.getCtx c := fun _ => rfl
  rw [hw]
  generalize v.modUnit u (fun x => { x with replay := none }) = w at hself hne hctx
  have hlog := loggedIfRoom_raise .replay u [(8, s.unitCk u), (2, lag)] { s with tally := w.tally, red := { s.red with maxLag := max s.red.maxLag lag } }
  have hother := raise_eq .replay u [(8, s.unitCk u), (2, lag)] { s with tally := w.tally, red := { s.red with maxLag := max s.red.maxLag lag } }
  generalize raise .replay u [(8, s.unitCk u), (2, lag)] _ = t at hlog hother
  have hget : ∀ j, t.getUnit j = w.getUnit j := fun j => by
    rw [hother]
    rfl
  refine ⟨t, rfl, ?_, fun j hj => ?_, ?_, fun c => ?_, hlog, ?_⟩
  · rw [hget, hself, hunit]
  · rw [hget, hne j hj, hunit]
  · rw [hother]
  · have hc : t.getCtx c = v.getCtx c := by
      rw [← hctx c, hother]
      rfl
    rw [hc]
    exact hkept c
  · rw [hother]

/-- The bindings of an engine brought up to date. -/
def bindsCaught (e : Nat) (s : State) : State :=
  each (s.engBinds e) (fun s q => repeatDo (harmTake q.1 q.2) (s.nextOf q.1 q.2 - (s.getSpBind (bkey q.1 q.2)).next) s) s

theorem bindsCaught_only (e : Nat) (s : State) : BindOnly s (bindsCaught e s) :=
  BindOnly.each (f := fun s (q : Nat × Nat) => repeatDo (harmTake q.1 q.2) (s.nextOf q.1 q.2 - (s.getSpBind (bkey q.1 q.2)).next) s)
    (fun t q => BindOnly.repeatDo (harmTake_only q.1 q.2) _ t) _ s

theorem harmCurrent_eq (e a : Nat) (s : State) : harmCurrent e a s = raise .replay (9 + e) [(8, s.harmCk e), (2, min ((bindsCaught e s).now - a) 0xFFFF)]
    (((bindsCaught e s).modSpEng e (fun x => { x with replay := none, taking := false })).modRedIsl (fun r =>
      { r with maxLag := max r.maxLag (min ((bindsCaught e s).now - a) 0xFFFF) })) := rfl

theorem replayDone_harm {e : Fin 5} {a : Nat} (hup : s.up islSpect = true) (hrep : (s.getSpEng e).replay = some a) :
    ∃ t, exec (.replayDone (.harm e)) s = .next t ∧ t.getSpEng e = { s.getSpEng e with replay := none, taking := false } ∧
      (∀ j, j ≠ e.val → t.getSpEng j = s.getSpEng j) ∧ t.red = { s.red with maxLag := max s.red.maxLag (min (s.tb.idx - a) 0xFFFF) } ∧
      t = { s with spec := t.spec, red := t.red, log := t.log } := by
  have hexec : exec (.replayDone (.harm e)) s = .next (harmCurrent e a s) := by
    have h : exec (.replayDone (.harm e)) s = execReplayDone (.harm e) s := rfl
    rw [h, execReplayDone, onIsl_up hup, hrep]
  have honly := bindsCaught_only e s
  rw [hexec, harmCurrent_eq]
  generalize bindsCaught e s = v at honly
  have hnow : v.now = s.tb.idx := by
    rw [honly]
    rfl
  rw [hnow]
  generalize min (s.tb.idx - a) 0xFFFF = lag
  have hself := State.getSpEng_modSpEng v e (fun x => { x with replay := none, taking := false })
  have hne := fun j (hj : j ≠ e.val) => State.getSpEng_modSpEng_ne v e j (fun x => { x with replay := none, taking := false }) hj
  have hunit : ∀ j, v.getSpEng j = s.getSpEng j := fun j => by
    rw [honly]
    rfl
  have hw : (v.modSpEng e (fun x => { x with replay := none, taking := false })).modRedIsl (fun r => { r with maxLag := max r.maxLag lag }) =
      { s with
        spec := (v.modSpEng e (fun x => { x with replay := none, taking := false })).spec, red := { s.red with maxLag := max s.red.maxLag lag } } := by
    rw [honly]
    rfl
  rw [hw]
  generalize v.modSpEng e (fun x => { x with replay := none, taking := false }) = w at hself hne
  have hother := raise_eq .replay (9 + e) [(8, s.harmCk e), (2, lag)] { s with spec := w.spec, red := { s.red with maxLag := max s.red.maxLag lag } }
  generalize raise .replay (9 + e) [(8, s.harmCk e), (2, lag)] _ = t at hother
  have hget : ∀ j, t.getSpEng j = w.getSpEng j := fun j => by
    rw [hother]
    rfl
  refine ⟨t, rfl, ?_, fun j hj => ?_, ?_, ?_⟩
  · rw [hget, hself, hunit]
  · rw [hget, hne j hj, hunit]
  · rw [hother]
  · rw [hother]

/-! ## The request to restore (R305) -/

/-- The word that RESTORE_GO writes: RED_RESTORE_SEL with GO. -/
def restoreWord (kind idx : Nat) : Word := packW [(kind, 13), (idx, 0)] ||| goBit

theorem restoreWord_fields {kind idx : Nat} (hk : kind < 8) (hi : idx < 8192) :
    bits (restoreWord kind idx) 15 13 = kind ∧ bits (restoreWord kind idx) 12 0 = idx ∧ bit (restoreWord kind idx) 31 = true := by
  have h1 : bits (BitVec.ofNat 32 (kind * 2 ^ 13)) 15 13 = kind := by simp only [bits, BitVec.toNat_ofNat]; omega
  have h2 : bits (BitVec.ofNat 32 (kind * 2 ^ 13)) 12 0 = 0 := by simp only [bits, BitVec.toNat_ofNat]; omega
  have h3 : bits (BitVec.ofNat 32 (idx * 2 ^ 0)) 15 13 = 0 := by simp only [bits, BitVec.toNat_ofNat]; omega
  have h4 : bits (BitVec.ofNat 32 (idx * 2 ^ 0)) 12 0 = idx := by simp only [bits, BitVec.toNat_ofNat]; omega
  refine ⟨?_, ?_, ?_⟩
  · simp only [restoreWord, packW, bits_or, h1, h3]
    simp [bits, goBit]
  · simp only [restoreWord, packW, bits_or, h2, h4]
    simp [bits, goBit]
  · unfold restoreWord
    rw [BitVec.or_comm]
    exact bit_goBit_or _

/-- A request that an idle restorer takes leaves its own entry, and no audit record. -/
theorem exec_restoreGo {p : Fin 4} (hact : MayAct s p 3 islSteward) (hbusy : s.red.busy = false)
    (hk : s.red.selKind < 8) (hi : s.red.selIndex < 8192) :
    exec (.restoreGo p) s = .next (wordDone p (restoreGo (s.getRolePort p).role p s)) := by
  obtain ⟨hkind, hidx, hgo⟩ := restoreWord_fields hk hi
  have hexec : exec (.restoreGo p) s = rowWrite p 0x250 (restoreWord s.red.selKind s.red.selIndex) s := rfl
  generalize restoreWord s.red.selKind s.red.selIndex = w at hkind hidx hgo hexec
  have hpl : place 0x250 = .red 0x250 := rfl
  have hsel : s.modRedIsl (fun r => { r with selKind := s.red.selKind, selIndex := s.red.selIndex }) = s := rfl
  have hown : regWrite (s.getRolePort p).role p (.red 0x250) w s = (true, restoreGo (s.getRolePort p).role p s) := by
    have hreg : regWrite (s.getRolePort p).role p (.red 0x250) w s =
      (bit w 31 && !s.red.busy, redWrite (s.getRolePort p).role p 0x250 w s) := rfl
    rw [hreg, redWrite, if_pos rfl]
    dsimp only
    rw [hgo, hbusy, hkind, hidx, hsel]
    rfl
  rw [hexec, rowWrite_reg (a := 0x250) (role := 3) hact rfl trivial rfl (fun _ => rfl) (by rw [hpl]; exact Nat.le_refl 3) rfl, hpl,
    writeAudited_own (by rw [hown]), hown]

/-- The end of a request, with its entry (R305, R306). -/
theorem restoreEnd_answers (kind idx role host e : Nat) (s : State) :
    Logged (ent (if e = 0 then .restored else .restoreFailed) s.now idx [(1, role), (1, host), (1, kind), (1, e)] s) (restoreEnd kind idx role host e s) ∧
    restoreEnd kind idx role host e s = { s with
      red := { s.red with busy := false, result := e, job := none }, log := (restoreEnd kind idx role host e s).log } := by
  refine ⟨?_, State.eq_onto (s := s.modRedIsl (fun r => { r with busy := false, result := e, job := none })) (m := { log := true })
    (by simp [restoreEnd])⟩
  have halways : (if e = 0 then LogCode.restored else LogCode.restoreFailed).info.2.2 = true := by split <;> rfl
  exact logged_raise halways idx [(1, role), (1, host), (1, kind), (1, e)] (s.modRedIsl (fun r => { r with busy := false, result := e, job := none }))

theorem Logged.of_wordDone {p : Nat} {e : LogEnt} (h : Logged e s) : Logged e (wordDone p s) := logged_congr rfl h

theorem restoreGo_refused {e role p : Nat} (hbusy : s.red.busy = false) (h : restoreRefused s.red.selKind s.red.selIndex s = some e) :
    restoreGo role p s = restoreEnd s.red.selKind s.red.selIndex role p e s := by
  unfold restoreGo
  dsimp only
  rw [hbusy, h]
  rfl

/-- The code of a refused request is not 0. -/
theorem restoreRefused_pos {kind idx e : Nat} (h : restoreRefused kind idx s = some e) : e ≠ 0 := by
  unfold restoreRefused at h
  split at h
  · cases h; decide
  split at h
  · cases h; decide
  split at h
  · cases h; decide
  · cases h

/-- R306: a port put back to DOWN. -/
def Port.restored (now : Nat) (p : Port) : Port :=
  { p with retired := false, rx := .down, signal := false, cdr := false, commaRun := 0, goodRun := 0, badRun := 0, lockAt := now }

theorem restoreGo_port {role p : Nat} (hbusy : s.red.busy = false) (hkind : s.red.selKind = 1) (h : restoreRefused s.red.selKind s.red.selIndex s = none) :
    restoreGo role p s = restoreEnd 1 s.red.selIndex role p 0
      ((s.modRedIsl (fun r => { r with busy := true, job := some (1, s.red.selIndex, p, role) })).modPort s.red.selIndex (Port.restored s.now)) := by
  unfold restoreGo
  dsimp only
  rw [hbusy, h, hkind]
  rfl

theorem restoreGo_unit {role p : Nat} (hbusy : s.red.busy = false) (hkind : s.red.selKind = 3) (h : restoreRefused s.red.selKind s.red.selIndex s = none) :
    restoreGo role p s = (s.modRedIsl (fun r => { r with busy := true, job := some (3, s.red.selIndex, p, role) })).modRedIsl
      (fun r => { r with tTesting := tset r.tTesting s.red.selIndex true }) := by
  unfold restoreGo
  dsimp only
  rw [hbusy, h, hkind]
  rfl

theorem restoreRefused_none {kind idx : Nat} (h : restoreRefused kind idx s = none) : s.itemRetired kind idx = true := by
  unfold restoreRefused at h
  split at h
  · cases h
  split at h
  · cases h
  next hret => simpa using hret

theorem restoreGo_answers {p : Fin 4} (hact : MayAct s p 3 islSteward) (hbusy : s.red.busy = false) (hk : s.red.selKind < 8) (hi : s.red.selIndex < 8192) :
    let k := s.red.selKind
    let i := s.red.selIndex
    (∀ e, restoreRefused k i s = some e → ∃ t, exec (.restoreGo p) s = .next (wordDone p t) ∧
      Logged (ent .restoreFailed s.now i [(1, (s.getRolePort p).role), (1, p), (1, k), (1, e)] s) t ∧
      t = { s with red := { s.red with result := e, job := none }, log := t.log }) ∧
    (k = 1 → restoreRefused k i s = none → ∃ t, exec (.restoreGo p) s = .next (wordDone p t) ∧ (t.getPort i).retired = false ∧ (t.getPort i).rx = .down ∧
      (∀ j, j ≠ i → t.getPort j = s.getPort j) ∧
      Logged (ent .restored s.now i [(1, (s.getRolePort p).role), (1, p), (1, 1), (1, 0)] s) t ∧
      t = { s with port := t.port, red := { s.red with result := 0, job := none }, log := t.log }) ∧
    (k = 3 → restoreRefused k i s = none → ∃ t, exec (.restoreGo p) s = .next (wordDone p t) ∧ t.red.busy = true ∧
      t.red.job = some (3, i, p.val, (s.getRolePort p).role) ∧ (t.getUnit i).retired = true ∧ t = { s with red := t.red }) := by
  intro k i
  rw [exec_restoreGo hact hbusy hk hi]
  have hidle : ∀ e, { s.red with busy := false, result := e, job := none } = { s.red with result := e, job := none } := fun e => by
    rw [← hbusy]
  refine ⟨fun e he => ?_, fun hk1 hnone => ?_, fun hk3 hnone => ?_⟩
  · rw [restoreGo_refused hbusy he]
    obtain ⟨hlog, honly⟩ := restoreEnd_answers s.red.selKind s.red.selIndex (s.getRolePort p).role p e s
    rw [if_neg (restoreRefused_pos he)] at hlog
    rw [hidle] at honly
    exact ⟨_, rfl, hlog, honly⟩
  · rw [restoreGo_port hbusy hk1 hnone]
    generalize hw : s.modRedIsl (fun r => { r with busy := true, job := some (1, s.red.selIndex, p.val, (s.getRolePort p).role) }) = w
    generalize hf : Port.restored s.now = f
    have hself := State.getPort_modPort w i f
    have hne := fun j (hj : j ≠ i) => State.getPort_modPort_ne w i j f hj
    obtain ⟨hlog, honly⟩ := restoreEnd_answers 1 s.red.selIndex (s.getRolePort p).role p 0 (w.modPort i f)
    have hrest : { (w.modPort i f).red with busy := false, result := 0, job := none } = { s.red with result := 0, job := none } := by
      rw [← hidle, ← hw]
      rfl
    rw [hrest] at honly
    have hent : ent .restored (w.modPort i f).now s.red.selIndex [(1, (s.getRolePort p).role), (1, p.val), (1, 1), (1, 0)] (w.modPort i f) =
        ent .restored s.now i [(1, (s.getRolePort p).role), (1, p.val), (1, 1), (1, 0)] s := by
      rw [← hw]
      rfl
    rw [if_pos rfl, hent] at hlog
    have hport : ∀ j, w.getPort j = s.getPort j := fun j => by
      rw [← hw]
      rfl
    have hv : w.modPort i f = { s with port := (w.modPort i f).port, red := w.red } := by
      rw [← hw]
      rfl
    change Logged _ (restoreEnd 1 s.red.selIndex (s.getRolePort p).role p 0 (w.modPort i f)) at hlog
    have hgoal : s.red.selIndex = i := rfl
    rw [hgoal] at hlog honly ⊢
    generalize w.modPort i f = v at hself hne hlog honly hv
    generalize restoreEnd 1 i (s.getRolePort p).role p 0 v = t at hlog honly
    have hget : ∀ j, t.getPort j = v.getPort j := fun j => by
      rw [honly]
      rfl
    refine ⟨t, rfl, ?_, ?_, fun j hj => ?_, hlog, ?_⟩
    · rw [hget, hself, ← hf]
      rfl
    · rw [hget, hself, ← hf]
      rfl
    · rw [hget, hne j hj, hport]
    · rw [honly, hv]
  · rw [restoreGo_unit hbusy hk3 hnone]
    refine ⟨_, rfl, rfl, rfl, ?_, rfl⟩
    have h := restoreRefused_none hnone
    rw [hk3] at h
    exact h

/-! ## The self-test of a retired unit (R306) -/

/-- A unit that joins its pool. -/
def Unit'.joined (x : Unit') : Unit' := { x with retired := false, faults := [], replay := none }

/-- A context that a unit which joins takes over. -/
def ctxJoined (s : State) (c : Nat) : State :=
  match s.ctxGrp c with
  | none => s
  | some gi =>
    let g := s.getGrp gi
    if !g.started then s.modCtx c (fun y => { y with unitFrom := 0 })
    else s.modCtx c (Ctx.join (g.closed + 2) (s.tokenTo gi (tallyToken c)) s.now (g.twOf g.closed) g.done)

theorem ctxJoined_only (s : State) (c : Nat) : TallyOnly s (ctxJoined s c) := by
  unfold ctxJoined
  split
  · exact TallyOnly.refl s
  · dsimp only
    split
    · exact tallyOnly_modCtx s c (fun _ => ⟨rfl, rfl⟩)
    · exact tallyOnly_modCtx s c (fun _ => ⟨rfl, rfl⟩)

theorem joinUnit_eq (u : Nat) (s : State) : joinUnit u s = match s.tally.unitOf.find? (fun e => e.2 == 15) with
    | none => s.modUnit u Unit'.joined
    | some (b, _) => each (allKeys.filter (fun c => ctxNum c / 20 == b)) ctxJoined
        ((s.modUnit u Unit'.joined).modTallyIsl (fun y => { y with unitOf := tset y.unitOf b u })) := rfl

theorem joinUnit_keeps (u : Nat) (s : State) : (joinUnit u s).tally.unit = (s.modUnit u Unit'.joined).tally.unit ∧
    (∀ c, ((joinUnit u s).getCtx c).acc = (s.getCtx c).acc) ∧ joinUnit u s = { s with tally := (joinUnit u s).tally } := by
  rw [joinUnit_eq]
  split
  · exact ⟨rfl, fun _ => rfl, rfl⟩
  next b _ _ =>
    obtain ⟨honly, hkept⟩ : TallyOnly ((s.modUnit u Unit'.joined).modTallyIsl (fun y => { y with unitOf := tset y.unitOf b u }))
        (each (allKeys.filter (fun c => ctxNum c / 20 == b)) ctxJoined
          ((s.modUnit u Unit'.joined).modTallyIsl (fun y => { y with unitOf := tset y.unitOf b u }))) :=
      each_keeps (TallyOnly _) (fun t c ht => ht.trans (ctxJoined_only t c)) _ (TallyOnly.refl _)
    generalize each (allKeys.filter (fun c => ctxNum c / 20 == b)) ctxJoined _ = t at honly hkept
    refine ⟨?_, fun c => (hkept c).1, ?_⟩
    · rw [honly]
      rfl
    · rw [honly]
      rfl

/-- A state whose self-test of tally unit `i` has ended. -/
def testEnded (i : Nat) (s : State) : State := s.modRedIsl (fun r => { r with tTesting := tdel r.tTesting i })

theorem exec_selftestDone {i p r : Nat} (hup : s.stewUp = true) (hjob : s.red.job = some (3, i, p, r)) (pass : Bool) :
    exec (.restoreSelftestDone pass) s =
      .next (if pass then restoreEnd 3 i r p 0 (joinUnit i (testEnded i s)) else restoreEnd 3 i r p 4 (testEnded i s)) := by
  have hexec : exec (.restoreSelftestDone pass) s = execRestoreSelftestDone pass s := rfl
  rw [hexec, execRestoreSelftestDone, onStew_up hup]
  dsimp only
  rw [hjob]
  cases pass <;> rfl

/-- R306: a unit that has passed its test serves again. -/
theorem selftest_passed {i p r : Nat} (hup : s.stewUp = true) (hjob : s.red.job = some (3, i, p, r)) :
    ∃ t, exec (.restoreSelftestDone true) s = .next t ∧ t.getUnit i = { s.getUnit i with retired := false, faults := [], replay := none } ∧
      t.red.busy = false ∧ t.red.result = 0 ∧ t.red.job = none ∧ (∀ c, (t.getCtx c).acc = (s.getCtx c).acc) ∧
      Logged (ent .restored s.now i [(1, r), (1, p), (1, 3), (1, 0)] s) t ∧ t = { s with tally := t.tally, red := t.red, log := t.log } := by
  rw [exec_selftestDone hup hjob, if_pos rfl]
  have htest : testEnded i s = { s with red := (testEnded i s).red } := rfl
  have hself := State.getUnit_modUnit (testEnded i s) i Unit'.joined
  have hold : (testEnded i s).getUnit i = s.getUnit i := rfl
  have hctx : ∀ c, (testEnded i s).getCtx c = s.getCtx c := fun _ => rfl
  obtain ⟨hunit, hacc, hjoin⟩ := joinUnit_keeps i (testEnded i s)
  generalize testEnded i s = w at *
  generalize joinUnit i w = v at *
  obtain ⟨hlog, honly⟩ := restoreEnd_answers 3 i r p 0 v
  have hent : ent .restored v.now i [(1, r), (1, p), (1, 3), (1, 0)] v = ent .restored s.now i [(1, r), (1, p), (1, 3), (1, 0)] s := by
    rw [hjoin, htest]
    rfl
  rw [if_pos rfl, hent] at hlog
  generalize restoreEnd 3 i r p 0 v = t at *
  refine ⟨t, rfl, ?_, ?_, ?_, ?_, fun c => ?_, hlog, ?_⟩
  · have hget : t.getUnit i = (w.modUnit i Unit'.joined).getUnit i := by
      unfold State.getUnit
      rw [← hunit, honly]
    rw [hget, hself, hold]
    rfl
  · rw [honly]
  · rw [honly]
  · rw [honly]
  · have hget : t.getCtx c = v.getCtx c := by
      rw [honly]
      rfl
    rw [hget, hacc, hctx]
  · rw [honly, hjoin, htest]

/-- R306: a unit that has failed its test stays retired. -/
theorem selftest_failed {i p r : Nat} (hup : s.stewUp = true) (hjob : s.red.job = some (3, i, p, r)) :
    ∃ t, exec (.restoreSelftestDone false) s = .next t ∧ t.getUnit i = s.getUnit i ∧ t.red.busy = false ∧ t.red.result = 4 ∧
      Logged (ent .restoreFailed s.now i [(1, r), (1, p), (1, 3), (1, 4)] s) t ∧ t = { s with red := t.red, log := t.log } := by
  rw [exec_selftestDone hup hjob, if_neg (by decide)]
  have htest : testEnded i s = { s with red := (testEnded i s).red } := rfl
  have hent : ent .restoreFailed (testEnded i s).now i [(1, r), (1, p), (1, 3), (1, 4)] (testEnded i s) =
    ent .restoreFailed s.now i [(1, r), (1, p), (1, 3), (1, 4)] s := rfl
  generalize testEnded i s = v at *
  obtain ⟨hlog, honly⟩ := restoreEnd_answers 3 i r p 4 v
  rw [if_neg (by decide), hent] at hlog
  generalize restoreEnd 3 i r p 4 v = t at *
  refine ⟨t, rfl, ?_, ?_, ?_, hlog, ?_⟩
  · rw [honly, htest]
    rfl
  · rw [honly]
  · rw [honly]
  · rw [honly, htest]

/-- Settles O35, command by command. -/
theorem spectralFaultsReplayAndRestoration : Obligations.SpectralFaultsReplayAndRestoration := by
  refine ⟨⟨fun e s hup hret => ?_, fun e s hup hret => shFault_answers hup hret, fun u a s hup hrep => replayDone_tally hup hrep,
    fun e a s hup hrep => replayDone_harm hup hrep⟩, ⟨fun p s hact hbusy hk hi => restoreGo_answers hact hbusy hk hi, fun s i p r hup hjob _ => ?_⟩⟩
  · exact ⟨harmFault_replays hup hret, harmFault_retires hup hret⟩
  · exact ⟨selftest_passed hup hjob, selftest_failed hup hjob⟩

end Sys2Proof.Machine
end

section
-- One proof after another: elaborated side by side they take more memory than the check allows.
set_option Elab.async false
/-! PROOF. Waiting samples and voltage events (O29, O30). -/

namespace Sys2Proof.Machine

open Sys2Proof.Cert

variable {s : State}

/-! ## Cycle samples (R159) -/

theorem unstall_rs (c : Chan) (s : State) : (unstall c s).rs = s.rs := State.rs_eq (m := { glb := true }) rfl (by simp)

theorem nextOf_modGrp (s : State) (g : Nat) (f : Grp → Grp) (c slot : Nat) : (s.modGrp g f).nextOf c slot = s.nextOf c slot := rfl

theorem nextOf_congr {t : State} (h : t.rs.next = s.rs.next) (c slot : Nat) : t.nextOf c slot = s.nextOf c slot := by
  unfold State.nextOf
  rw [h]

theorem keepSample_nextOf (gi k slot tick : Nat) (pc : PlanCtx) (x : CSample) (s : State) : (keepSample gi k slot tick pc x s).nextOf pc.c slot = x.m + 1 := by
  unfold keepSample
  extract_lets t u v
  have ht : t.nextOf pc.c slot = x.m + 1 := tget_tset_same _ _ _ _
  clear_value t
  have hu : u.nextOf pc.c slot = t.nextOf pc.c slot :=
    nextOf_congr (congrArg Resamp.next (State.rs_eq (m := { host := true }) rfl (outside_capSee rfl _ _ _ t))) _ _
  clear_value u
  have hv : v.nextOf pc.c slot = u.nextOf pc.c slot := by
    unfold v
    split
    · exact nextOf_modGrp _ _ _ _ _
    · rfl
  clear_value v
  rw [nextOf_modGrp, hv, hu, ht]

theorem formSample_m {g : Grp} {h m : Nat} {cy : Cyc} {d : Bool} {x : CSample} (hx : formSample s g h m cy d = some x) : x.m = m := by
  unfold formSample at hx
  extract_lets q at hx
  split at hx
  · rw [← Option.some.inj hx]
  · cases hx

theorem Plan.ctx?_c {p : Plan} {c : Nat} {x : PlanCtx} (h : p.ctx? c = some x) : x.c = c := by
  simpa using List.find?_some h

theorem bind_ctx?_c {o : Option Plan} {c : Nat} {x : PlanCtx} (h : o.bind (fun p => p.ctx? c) = some x) : x.c = c := by
  obtain ⟨p, _, hp⟩ := Option.bind_eq_some_iff.1 h
  exact Plan.ctx?_c hp

/-- R159, R70: the sample that is formed is kept, as one of an ABSENT head where the plan does not list the head. -/
theorem formNext_eq {y slot gi h : Nat} {pc : PlanCtx} {cy : Cyc} {x : CSample} (hgrp : s.ctxGrp y = some gi)
    (hstart : (s.getGrp gi).started = true) (hswap : s.beyondSwap gi (s.nextOf y slot / 512) = false)
    (hcyc : (s.getGrp gi).cyc (s.nextOf y slot / 512) = some cy)
    (hpc : (s.planWin gi ((s.getGrp gi).winOf (s.winCycles gi) (s.nextOf y slot / 512))).bind (fun p => p.ctx? y) = some pc)
    (hhead : pc.headOf slot = some h)
    (hx : formSample s (s.getGrp gi) h (s.nextOf y slot) cy (s.serveFor gi h
      ((s.getGrp gi).winOf (s.winCycles gi) (s.nextOf y slot / 512)) (cy.tau (s.nextOf y slot % 512))) = some x)
    (hheld : s.cycleHeld pc slot x.tau = none) :
    formNext y slot s = keepSample gi ((s.getGrp gi).winOf (s.winCycles gi) (s.nextOf y slot / 512)) slot
      (floorTau (cy.tau (s.nextOf y slot % 512))) pc
      (if s.listedHead gi ((s.getGrp gi).winOf (s.winCycles gi) (s.nextOf y slot / 512)) h then x else x.gone)
      (unstall (.cycles (bkey y slot)) s) := by
  unfold formNext
  have hgo : ((s.getGrp gi).started && !s.beyondSwap gi (s.nextOf y slot / 512)) = true := by rw [hstart, hswap]; rfl
  rw [hgrp]
  dsimp only
  rw [hgo, hcyc]
  dsimp only
  rw [hpc]
  dsimp only
  rw [hhead]
  dsimp only
  rw [hx, Option.map_some]
  dsimp only
  generalize hx' : (if s.listedHead gi ((s.getGrp gi).winOf (s.winCycles gi) (s.nextOf y slot / 512)) h then x else x.gone) = x'
  have htau : x'.tau = x.tau := by
    rw [← hx']
    split <;> rfl
  rw [htau, hheld]

theorem formNext_taken {y slot gi h : Nat} {pc : PlanCtx} {cy : Cyc} {x : CSample} (hgrp : s.ctxGrp y = some gi)
    (hstart : (s.getGrp gi).started = true) (hswap : s.beyondSwap gi (s.nextOf y slot / 512) = false)
    (hcyc : (s.getGrp gi).cyc (s.nextOf y slot / 512) = some cy)
    (hpc : (s.planWin gi ((s.getGrp gi).winOf (s.winCycles gi) (s.nextOf y slot / 512))).bind (fun p => p.ctx? y) = some pc)
    (hhead : pc.headOf slot = some h)
    (hx : formSample s (s.getGrp gi) h (s.nextOf y slot) cy (s.serveFor gi h
      ((s.getGrp gi).winOf (s.winCycles gi) (s.nextOf y slot / 512)) (cy.tau (s.nextOf y slot % 512))) = some x)
    (hheld : s.cycleHeld pc slot x.tau = none) : (formNext y slot s).nextOf y slot = s.nextOf y slot + 1 := by
  rw [formNext_eq hgrp hstart hswap hcyc hpc hhead hx hheld]
  generalize hx' : (if s.listedHead gi ((s.getGrp gi).winOf (s.winCycles gi) (s.nextOf y slot / 512)) h then x else x.gone) = x'
  have hm : x'.m = s.nextOf y slot := by
    rw [← formSample_m hx, ← hx']
    split <;> rfl
  rw [← hm, ← bind_ctx?_c hpc, keepSample_nextOf]

/-! ## The tally units (R178, R179, R307) -/

theorem endGap_nextFlat (x : PlanCtx) (t2 : Int) (sel : Nat → Sel) (y : Ctx) : (endGap x t2 sel y).nextFlat = y.nextFlat := by
  unfold endGap
  split <;> rfl

theorem countFlat_nextFlat (x : PlanCtx) (k m : Nat) (t2 : Int) (toTail : Bool) (sel : Nat → Sel) (y : Ctx) :
    (countFlat x k m t2 toTail sel y).nextFlat = some (t2 + 1).toNat := by
  unfold countFlat
  dsimp only
  split
  · rfl
  · exact endGap_nextFlat _ _ _ _

theorem Ctx.keep_nextFlat (now : Nat) (t2 : Int) (sels : List Sel) (y : Ctx) : (Ctx.keep now t2 sels y).nextFlat = y.nextFlat := by
  unfold Ctx.keep
  split <;> rfl

theorem flatStep_taken {y gi k l m : Nat} {t2 : Int} {x : PlanCtx} {sels : List Sel} (hgrp : s.ctxGrp y = some gi)
    (hstart : (s.getGrp gi).started = true) (hnext : s.flatNext gi y = some (x, l, m, t2)) (hwin : s.windowAt gi t2.toNat = some k)
    (hsels : s.flatSels gi x t2 l k = some sels)
    (hswap : ∀ q, (s.getGrp gi).swapClose (s.winCycles gi) = some q → t2 < 2 * (q.2 : Int)) (hstop : s.stopAt = none) :
    flatStep y s = some (s.modCtx y (fun c =>
      (countFlat x k m t2 false (fun i => sels.getD i { cls := 5, val := none }) c).keep s.now t2 sels)) := by
  have hgoes : s.flatGoes t2 = some false := by
    unfold State.flatGoes
    rw [hstop]
  unfold flatStep
  rw [hgrp]
  dsimp only
  rw [hstart, hnext]
  dsimp only [Bool.not_true]
  rw [if_neg (by decide), hwin]
  dsimp only
  rw [hsels, hgoes]
  dsimp only
  cases hclose : (s.getGrp gi).swapClose (s.winCycles gi) with
  | none => rfl
  | some q =>
    obtain ⟨j, w⟩ := q
    exact if_neg (by simpa using hswap (j, w) hclose)

/-- R179: the samples that a unit takes of each slot in a cycle. -/
def State.cycSels (s : State) (x : PlanCtx) (cyc : Nat) : List (List (Sel × Bool)) :=
  (List.range 8).map (fun i => if (x.headOf i).isSome then s.selCycle x i cyc else [])

/-- A context with cycle `cyc` counted into its window k. -/
def Ctx.withCycle (cyc k : Nat) (f : CycPart → CycPart) (c : Ctx) : Ctx :=
  ({ c with nextCyc := cyc + 1, wins := tmod {} c.wins k (fun w => { w with cyc := f w.cyc }) } : Ctx).cycCheckpoint

theorem cycStep_taken {y gi : Nat} {cy : Cyc} {x : PlanCtx} (hgrp : s.ctxGrp y = some gi) (hstart : (s.getGrp gi).started = true)
    (hswap : s.beyondSwap gi (s.getCtx y).nextCyc = false) (hcyc : (s.getGrp gi).cyc (s.getCtx y).nextCyc = some cy)
    (hstop : s.cycleStopped cy = false)
    (hx : (s.planWin gi ((s.getGrp gi).winOf (s.winCycles gi) (s.getCtx y).nextCyc)).bind (fun p => p.ctx? y) = some x)
    (hbound : ∀ i ∈ x.bound, 512 * ((s.getCtx y).nextCyc + 1) ≤ s.nextOf y i) :
    cycStep y s = some (s.modCtx y (Ctx.withCycle (s.getCtx y).nextCyc ((s.getGrp gi).winOf (s.winCycles gi) (s.getCtx y).nextCyc)
      (cycleSums x (cy.gm * cy.step) (floorTau (cy.tau 0)) (floorTau (cy.tau 511)) (s.cycSels x (s.getCtx y).nextCyc)))) := by
  have hgo : ((s.getGrp gi).started && !s.beyondSwap gi (s.getCtx y).nextCyc) = true := by rw [hstart, hswap]; rfl
  have hall : x.bound.all (fun i => decide (s.nextOf y i ≥ 512 * ((s.getCtx y).nextCyc + 1))) = true :=
    List.all_eq_true.2 (fun i hi => decide_eq_true (hbound i hi))
  unfold cycStep
  rw [hgrp]
  dsimp only
  rw [hgo, hcyc]
  dsimp only
  rw [hstop, if_neg (by decide), hx]
  dsimp only
  rw [hall, if_pos rfl]
  rfl

theorem checkpoint_taken {u : Fin 9} (hup : s.up islTally = true) (hret : (s.getUnit u).retired = false) (hrep : (s.getUnit u).replay = none)
    (hdue : (s.getUnit u).ckDue s.now = true) : ∃ t, exec (.tallyFlatCheckpoint u) s = .next t ∧ (t.getUnit u).ckAt = some s.now := by
  have hexec : exec (.tallyFlatCheckpoint u) s = execTallyFlatCheckpoint u s := rfl
  rw [hexec, execTallyFlatCheckpoint, onIsl_up hup, hret, hrep, hdue]
  refine ⟨_, rfl, ?_⟩
  have hunit : ∀ (l : List Nat) (v : State), (each l (fun s c => s.modCtx c (Ctx.flatCheckpoint s.now)) v).getUnit u = v.getUnit u := fun l v =>
    each_same (f := fun s c => s.modCtx c (Ctx.flatCheckpoint s.now)) (fun t => t.getUnit u) (fun _ _ => rfl) l v
  exact (congrArg Unit'.ckAt (hunit _ _)).trans (by rw [State.getUnit_modUnit])

/-! ## The spectral engines (R218, R237) -/

theorem harmTake_taken {n slot gi : Nat} {x : PlanCtx} {e : CSample} (hslot : slot < 8) (hgrp : s.ctxGrp n = some gi)
    (hx : (s.planWin gi ((s.getGrp gi).winOf (s.winCycles gi) ((s.getSpBind (bkey n slot)).next / 512))).bind (fun p => p.ctx? n) = some x)
    (hstart : (s.getGrp gi).started = true) (hswap : s.beyondSwap gi ((s.getSpBind (bkey n slot)).next / 512) = false)
    (hhead : (x.headOf slot).isSome = true) (he : s.csample n slot (s.getSpBind (bkey n slot)).next = some e) :
    ((harmTake n slot s).getSpBind (bkey n slot)).next = (s.getSpBind (bkey n slot)).next + 1 := by
  have hfrom : x.specFrom slot = [slot] := if_pos hhead
  have hmem : x.specSlots.contains slot = true :=
    List.contains_iff_mem.2 (List.mem_append_left _ (List.mem_filter.2 ⟨List.mem_range.2 hslot, hhead⟩))
  unfold harmTake
  rw [hgrp]
  dsimp only
  rw [hx]
  dsimp only
  rw [hfrom, hmem, hstart, hswap]
  rw [List.map_singleton, he]
  rw [if_neg (by simp), State.getSpBind_modSpBind]

theorem shRaw_taken {l : Fin 8} {q : Raw} {rest : List Raw} (hup : s.up islSpect = true) (hwarn : s.inWarning = false)
    (hq : (s.getLane l).queue = q :: rest) (hwin : (s.windowAt s.spec.refGrp (2 * q.idx)).isSome = true) :
    ∃ t, exec (.shRawSample l) s = .next t ∧ (t.getLane l).queue = rest := by
  obtain ⟨k, hk⟩ := Option.isSome_iff_exists.1 hwin
  have hexec : exec (.shRawSample l) s = execShRawSample l s := rfl
  rw [hexec, execShRawSample, onIsl_up hup]
  dsimp only
  rw [hwarn, hq]
  dsimp only
  rw [hk]
  dsimp only
  refine ⟨_, rfl, ?_⟩
  split
  · contradiction
  · split
    · rw [State.getLane_modLane]
    · split <;> rw [State.getLane_modLane]

/-! ## Half-cycles (R246, R247) -/

/-- Of the event unit, the sums of the window of context `n` alone change. -/
def WindowOnly (n : Nat) (s t : State) : Prop :=
  t = { s with ev := { s.ev with ctx := t.ev.ctx } } ∧ (∀ j, j ≠ n → t.getEvc j = s.getEvc j) ∧
  ∃ w ws, t.getEvc n = { s.getEvc n with wNext := w, wsum := ws }

theorem WindowOnly.refl (n : Nat) (s : State) : WindowOnly n s s := ⟨rfl, fun _ _ => rfl, _, _, rfl⟩

theorem WindowOnly.trans {n : Nat} {s t u : State} (h : WindowOnly n s t) (h' : WindowOnly n t u) : WindowOnly n s u := by
  obtain ⟨h₁, h₂, w, ws, h₃⟩ := h
  obtain ⟨h₁', h₂', w', ws', h₃'⟩ := h'
  refine ⟨?_, fun j hj => (h₂' j hj).trans (h₂ j hj), w', ws', ?_⟩
  · rw [h₁', h₁]
  · rw [h₃', h₃]

theorem windowOnly_modEvc (n : Nat) {f : EvCtx → EvCtx} (s : State) (hf : ∃ w ws, f (s.getEvc n) = { s.getEvc n with wNext := w, wsum := ws }) :
    WindowOnly n s (s.modEvc n f) := by
  obtain ⟨w, ws, h⟩ := hf
  exact ⟨rfl, fun j hj => State.getEvc_modEvc_ne _ _ _ _ hj, w, ws, (State.getEvc_modEvc _ _ _).trans h⟩

theorem addWindow_only (x : PlanCtx) (k upto : Nat) (s : State) : WindowOnly x.c s (addWindow x k upto s) := by
  unfold addWindow
  dsimp only
  split
  · exact WindowOnly.refl _ s
  · exact windowOnly_modEvc _ s ⟨_, _, rfl⟩

theorem resolveZ_only {x : PlanCtx} (h : (s.getEvc x.c).zAsk = []) : WindowOnly x.c s (resolveZ x s) := by
  have hz : resolveZ x s = s.modEvc x.c (fun e => { e with zAsk := e.zAsk.filter (fun c => !(([] : List Nat)).contains c) }) := by
    unfold resolveZ
    rw [h]
    rfl
  rw [hz]
  refine windowOnly_modEvc _ s ⟨(s.getEvc x.c).wNext, (s.getEvc x.c).wsum, ?_⟩
  have hkeep : (s.getEvc x.c).zAsk.filter (fun c => !(([] : List Nat)).contains c) = (s.getEvc x.c).zAsk := by
    rw [h]
    rfl
  rw [hkeep]

theorem WindowOnly.halfCycle {n gi b k : Nat} {x : PlanCtx} {t : State} (hx : x.c = n) (h : WindowOnly n s t) :
    t.halfCycle gi x b k = s.halfCycle gi x b k := by
  obtain ⟨honly, _, w, ws, hself⟩ := h
  have hj : (t.getEvc x.c).j = (s.getEvc x.c).j := by
    rw [hx, hself]
  have hstrad : (t.getEvc x.c).straddle = (s.getEvc x.c).straddle := by
    rw [hx, hself]
  unfold State.halfCycle
  dsimp only
  rw [hj, hstrad, honly]
  rfl

/-- A context with its next value formed (R246, R247, R250). -/
def EvCtx.valued (c gi b k : Nat) (set_ : EvSet) (v : EvVal) (e : EvCtx) : EvCtx :=
  let x := { e with
    urms := (List.range 3).map (fun i => if v.ok.getD i false then v.u.getD i 0 else e.urms.getD i 0)
    noeval := e.noeval ||| ((v.ok.zipIdx.map (fun o => if o.1 then 0 else 2 ^ o.2)).foldl (· + ·) 0) }
  let y := if set_.enable && set_.udin != 0 then detect c gi set_ v x else x.inEvent v.win
  { y with lastB := b, j := y.j + 1, lastJ := v.j, lastEnd := v.fin, lastWin := k }

theorem halfStep_taken {n gi k : Nat} {x : PlanCtx} (hgrp : s.ctxGrp n = some gi) (hz : (s.getEvc n).zAsk = [])
    (hx : (s.planWin gi (s.evDone gi + 1)).bind (fun p => p.ctx? n) = some x) (hstart : (s.getGrp gi).started = true)
    (hhold : s.swapHold gi = false) (hk : (s.getGrp gi).winOf (s.winCycles gi) (((s.getEvc n).nextB - 1) / 512) = k) (hlate : k ≤ s.evDone gi + 1)
    (hthere : ∀ i ∈ x.voltSlots, (s.getEvc n).nextB ≤ s.nextOf n i) (hcyc : ((s.getGrp gi).cyc ((s.getEvc n).nextB / 512)).isSome = true) :
    ∃ u, WindowOnly n s u ∧
      halfStep n s = u.modEvc n (EvCtx.valued n gi (s.getEvc n).nextB k (s.getEvc n).set_ (s.halfCycle gi x (s.getEvc n).nextB k)) := by
  have hc := bind_ctx?_c hx
  have hr := resolveZ_only (x := x) (by rw [hc]; exact hz)
  unfold halfStep
  rw [hgrp]
  dsimp only
  rw [hx]
  dsimp only
  generalize resolveZ x s = r at hr
  rw [hc] at hr
  obtain ⟨honly, _, w, ws, hself⟩ := id hr
  have hnext : (r.getEvc n).nextB = (s.getEvc n).nextB := by
    rw [hself]
    rfl
  have hset : (r.getEvc n).set_ = (s.getEvc n).set_ := by rw [hself]
  have hhold' : r.swapHold gi = false := by
    rw [honly]
    exact hhold
  have hdone : r.evDone gi = s.evDone gi := by
    rw [honly]
    rfl
  have hof : ∀ i, r.nextOf n i = s.nextOf n i := fun i => by
    rw [honly]
    rfl
  have hall : x.voltSlots.all (fun i => decide (r.nextOf n i ≥ (s.getEvc n).nextB)) = true :=
    List.all_eq_true.2 (fun i hi => decide_eq_true (by rw [hof]; exact hthere i hi))
  have hwait : decide (k > s.evDone gi + 1) = false := decide_eq_false (by omega)
  have hnone : ((s.getGrp gi).cyc ((s.getEvc n).nextB / 512)).isNone = false := by
    rw [Option.isNone_eq_false_iff]
    exact hcyc
  rw [hnext, hset, hk, hstart, hhold', hdone, hall, hwait, hnone, if_neg (by decide)]
  generalize (s.getEvc n).nextB = b
  generalize 512 * (s.getGrp gi).firstCyc (s.winCycles gi) k = first
  have hu : WindowOnly n s (addWindow x k b (if (r.getEvc n).wNext < first then addWindow x (k - 1) first r else r)) := by
    have h₁ : WindowOnly n s (if (r.getEvc n).wNext < first then addWindow x (k - 1) first r else r) := by
      split
      · exact hr.trans (hc ▸ addWindow_only x (k - 1) first r)
      · exact hr
    exact h₁.trans (hc ▸ addWindow_only x k b _)
  generalize addWindow x k b (if (r.getEvc n).wNext < first then addWindow x (k - 1) first r else r) = u at hu
  refine ⟨u, hu, ?_⟩
  rw [hu.halfCycle hc]
  rfl

theorem EvCtx.inEvent_eq (k : Nat) (e : EvCtx) : e.inEvent k = { e with evWins := (e.inEvent k).evWins } := by
  unfold EvCtx.inEvent
  split <;> rfl

/-- Whether a context is armed for a value: it was, or the value lies within the limits with their hysteresis (R250). -/
def EvCtx.armedFor (set_ : EvSet) (v : EvVal) (e : EvCtx) : Bool :=
  e.armed || (v.ok.all id && v.u.all (fun u =>
    decide (set_.limits.1 + set_.limits.2.2.2 ≤ u) && decide (u + set_.limits.2.2.2 ≤ set_.limits.2.1)))

/-- What a value does to the sag detector (R251). -/
def EvCtx.sagStep (set_ : EvSet) (v : EvVal) (e : EvCtx) : Detec × Bool × Bool :=
  detStep false false (e.armedFor set_ v) (chanMask v (fun u => decide (u < set_.limits.1)))
    (chanMask v (fun u => decide (u ≥ set_.limits.1 + set_.limits.2.2.2))) v e.sag

theorem detect_sag (c gi : Nat) (set_ : EvSet) (v : EvVal) (e : EvCtx) :
    (detect c gi set_ v e).sag = (if (e.sagStep set_ v).2.2 then {} else (e.sagStep set_ v).1) := by
  unfold detect
  dsimp only
  rfl

/-- What the detectors change of a context. -/
theorem detect_only (c gi : Nat) (set_ : EvSet) (v : EvVal) (e : EvCtx) : detect c gi set_ v e = { e with
    armed := (detect c gi set_ v e).armed, sag := (detect c gi set_ v e).sag, swell := (detect c gi set_ v e).swell
    int_ := (detect c gi set_ v e).int_, sags := (detect c gi set_ v e).sags, swells := (detect c gi set_ v e).swells
    ints := (detect c gi set_ v e).ints, recs := (detect c gi set_ v e).recs, evWins := (detect c gi set_ v e).evWins } := by
  unfold detect
  dsimp only
  rw [EvCtx.inEvent_eq]

theorem detect_sags (c gi : Nat) (set_ : EvSet) (v : EvVal) (e : EvCtx) :
    (detect c gi set_ v e).sags = (e.sags + b2n (e.sagStep set_ v).2.1) % 65536 := by
  unfold detect
  dsimp only
  rw [EvCtx.inEvent_eq]
  rfl

/-- A context with the value shown (R247). -/
def EvCtx.shownVal (v : EvVal) (e : EvCtx) : EvCtx := { e with
  urms := (List.range 3).map (fun i => if v.ok.getD i false then v.u.getD i 0 else e.urms.getD i 0)
  noeval := e.noeval ||| ((v.ok.zipIdx.map (fun o => if o.1 then 0 else 2 ^ o.2)).foldl (· + ·) 0) }

theorem EvCtx.valued_eq (c gi b k : Nat) (set_ : EvSet) (v : EvVal) (e : EvCtx) : e.valued c gi b k set_ v =
    (let y := if set_.enable && set_.udin != 0 then detect c gi set_ v (e.shownVal v) else (e.shownVal v).inEvent v.win
     { y with lastB := b, j := y.j + 1, lastJ := v.j, lastEnd := v.fin, lastWin := k }) := rfl

theorem EvCtx.valued_fields (c gi b k : Nat) (set_ : EvSet) (v : EvVal) (e : EvCtx) :
    (e.valued c gi b k set_ v).lastB = b ∧ (e.valued c gi b k set_ v).j = e.j + 1 ∧ (e.valued c gi b k set_ v).com = e.com ∧
    (e.valued c gi b k set_ v).pend = e.pend := by
  rw [EvCtx.valued_eq]
  dsimp only
  split
  · rw [detect_only]
    exact ⟨rfl, rfl, rfl, rfl⟩
  · rw [EvCtx.inEvent_eq]
    exact ⟨rfl, rfl, rfl, rfl⟩

/-- R250: with the evaluation off, or Udin 0, a value changes no detector and no count. -/
theorem EvCtx.valued_off {c gi b k : Nat} {set_ : EvSet} {v : EvVal} {e : EvCtx} (h : set_.enable = false ∨ set_.udin = 0) :
    (e.valued c gi b k set_ v).sag = e.sag ∧ (e.valued c gi b k set_ v).swell = e.swell ∧ (e.valued c gi b k set_ v).int_ = e.int_ ∧
    (e.valued c gi b k set_ v).armed = e.armed ∧ (e.valued c gi b k set_ v).recs = e.recs ∧ (e.valued c gi b k set_ v).sags = e.sags := by
  have hoff : (set_.enable && set_.udin != 0) = false := by
    rcases h with h | h <;> simp [h]
  rw [EvCtx.valued_eq, hoff]
  dsimp only
  rw [if_neg (by decide), EvCtx.inEvent_eq]
  exact ⟨rfl, rfl, rfl, rfl, rfl, rfl⟩

theorem EvCtx.valued_on {c gi b k : Nat} {set_ : EvSet} {v : EvVal} {e : EvCtx} (h : set_.enable = true) (hu : set_.udin ≠ 0) :
    (e.valued c gi b k set_ v).sag = (if (e.sagStep set_ v).2.2 then {} else (e.sagStep set_ v).1) ∧
    (e.valued c gi b k set_ v).sags = (e.sags + b2n (e.sagStep set_ v).2.1) % 65536 := by
  have hon : (set_.enable && set_.udin != 0) = true := by simp [h, hu]
  have hstep : (e.shownVal v).sagStep set_ v = e.sagStep set_ v := rfl
  rw [EvCtx.valued_eq, hon]
  dsimp only
  rw [if_pos rfl, detect_sag, detect_sags, hstep]
  exact ⟨rfl, rfl⟩

/-! ## Sags (R250, R251) -/

/-- What a channel of a value adds to a mask. -/
def chanBit (f : Nat → Bool) (e : (Nat × Bool) × Nat) : Nat := if e.1.2 && f e.1.1 then 2 ^ e.2 else 0

theorem chanMask_sum (v : EvVal) (f : Nat → Bool) : chanMask v f = ((v.u.zip v.ok).zipIdx.map (chanBit f)).sum := List.sum_eq_foldl.symm

theorem sum_chanBit_lt (f : Nat → Bool) (l : List (Nat × Bool)) (k : Nat) : ((l.zipIdx k).map (chanBit f)).sum + 2 ^ k ≤ 2 ^ (k + l.length) := by
  induction l generalizing k with
  | nil => simp
  | cons a l ih =>
    have h := ih (k + 1)
    have hbit : chanBit f (a, k) ≤ 2 ^ k := by
      unfold chanBit
      split
      · exact Nat.le_refl _
      · exact Nat.zero_le _
    have hlen : k + (a :: l).length = k + 1 + l.length := by
      rw [List.length_cons]
      omega
    rw [List.zipIdx_cons, List.map_cons, List.sum_cons, hlen]
    rw [Nat.pow_succ] at h
    omega

/-- A mask names channels of its value alone. -/
theorem chanMask_and_all (v : EvVal) (f : Nat → Bool) : chanMask v f &&& v.all = chanMask v f := by
  have h := sum_chanBit_lt f (v.u.zip v.ok) 0
  have hlen : 2 ^ (0 + (v.u.zip v.ok).length) ≤ 2 ^ v.u.length :=
    Nat.pow_le_pow_right (by decide) (by rw [List.length_zip]; omega)
  rw [← chanMask_sum] at h
  rw [EvVal.all, Nat.and_two_pow_sub_one_eq_mod, Nat.mod_eq_of_lt (by omega)]

/-- A mask is empty where no evaluable channel meets the condition. -/
theorem chanMask_eq_zero {v : EvVal} {f : Nat → Bool} : chanMask v f = 0 ↔
    ∀ i, i < v.u.length → i < v.ok.length → v.ok.getD i false = true → f (v.u.getD i 0) = false := by
  have hone : ∀ i (hu : i < v.u.length) (ho : i < v.ok.length), (v.u.zip v.ok)[i]? = some (v.u.getD i 0, v.ok.getD i false) := fun i hu ho => by
    rw [List.getElem?_zip_eq_some, List.getD_eq_getElem?_getD, List.getD_eq_getElem?_getD, List.getElem?_eq_getElem hu, List.getElem?_eq_getElem ho]
    exact ⟨rfl, rfl⟩
  rw [chanMask_sum, List.sum_eq_zero_iff_forall_eq_nat]
  refine ⟨fun h i hu ho hok => ?_, fun h x hx => ?_⟩
  · have hz := h _ (List.mem_map.2 ⟨((v.u.getD i 0, v.ok.getD i false), i), List.mem_zipIdx_iff_getElem?.2 (hone i hu ho), rfl⟩)
    unfold chanBit at hz
    dsimp only at hz
    rw [hok, Bool.true_and] at hz
    cases hf : f (v.u.getD i 0) with
    | false => rfl
    | true =>
      rw [hf, if_pos rfl] at hz
      exact absurd hz (Nat.pos_iff_ne_zero.1 (Nat.two_pow_pos i))
  · obtain ⟨⟨⟨a, o⟩, i⟩, hmem, rfl⟩ := List.mem_map.1 hx
    have hget := List.mem_zipIdx_iff_getElem?.1 hmem
    obtain ⟨hlt, _⟩ := List.getElem?_eq_some_iff.1 hget
    rw [List.length_zip] at hlt
    have hu : i < v.u.length := by omega
    have ho : i < v.ok.length := by omega
    have heq := Option.some.inj ((hone i hu ho).symm.trans hget)
    obtain ⟨ha, hb⟩ := Prod.mk.inj heq
    unfold chanBit
    dsimp only at ha hb ⊢
    rw [← ha, ← hb]
    split
    next hc =>
      obtain ⟨hok, hf⟩ := Bool.and_eq_true_iff.1 hc
      rw [h i hu ho hok] at hf
      cases hf
    next => rfl

/-- R254: no channel has been out of evaluation for long at the start of an event. -/
theorem badMask_started (v : EvVal) :
    ((List.range v.u.length).map (fun i => if (addBad v [0, 0, 0]).getD i 0 > 1000 then 2 ^ i else 0)).foldl (· + ·) 0 = 0 := by
  have hbad : ∀ i, ¬ (addBad v [0, 0, 0]).getD i 0 > 1000 := fun i => by
    have hle : ∀ x ∈ addBad v [0, 0, 0], x ≤ 1 := by
      unfold addBad
      simp only [List.mem_map, List.mem_range, forall_exists_index, and_imp]
      rintro x j hj rfl
      interval_cases j <;> split <;> decide
    rw [List.getD_eq_getElem?_getD]
    cases hget : (addBad v [0, 0, 0])[i]? with
    | none => decide
    | some x =>
      have := hle x (List.mem_of_getElem? hget)
      simp only [Option.getD_some]
      omega
  rw [← List.sum_eq_foldl, List.sum_eq_zero_iff_forall_eq_nat]
  intro x hx
  obtain ⟨i, _, rfl⟩ := List.mem_map.1 hx
  exact if_neg (hbad i)

/-- R250: a sag starts in an armed context that has none. -/
theorem detStep_starts {up : Bool} {goIn goOut : Nat} {v : EvVal} {d : Detec} (hd : d.active = false) (hin : goIn ≠ 0) (hall : goIn &&& v.all = goIn) :
    (detStep up false true goIn goOut v d).1.active = true ∧ (detStep up false true goIn goOut v d).1.start = v.start ∧
    (detStep up false true goIn goOut v d).2 = (true, false) := by
  unfold detStep
  rw [hd]
  dsimp only
  have hstart : (!false && true && (if false = true then goIn == v.all else goIn != 0)) = true := by simpa using hin
  rw [hstart]
  rw [if_neg (by decide), if_pos rfl]
  dsimp only
  rw [badMask_started, Nat.xor_zero, hall]
  exact ⟨rfl, rfl, Prod.ext rfl (beq_false_of_ne hin)⟩

theorem detStep_stays {up armed : Bool} {goOut : Nat} {v : EvVal} {d : Detec} (hd : d.active = false) :
    detStep up false armed 0 goOut v d = (d, false, false) := by
  unfold detStep
  rw [hd]
  dsimp only
  rw [if_pos]
  simp

/-- R250, R251: a value below the sag threshold starts a sag in an armed context; none starts without one. -/
theorem EvCtx.valued_sag {c gi b k : Nat} {set_ : EvSet} {v : EvVal} {e : EvCtx} (hon : set_.enable = true) (hudin : set_.udin ≠ 0)
    (harmed : e.armed = true) (hidle : e.sag.active = false) :
    ((∃ i, i < v.u.length ∧ i < v.ok.length ∧ v.ok.getD i false = true ∧ v.u.getD i 0 < set_.limits.1) →
      (e.valued c gi b k set_ v).sag.active = true ∧ (e.valued c gi b k set_ v).sags = (e.sags + 1) % 65536 ∧
      (e.valued c gi b k set_ v).sag.start = v.start) ∧
    ((∀ i, i < v.u.length → v.ok.getD i false = true → set_.limits.1 ≤ v.u.getD i 0) →
      (e.valued c gi b k set_ v).sag.active = false ∧ (e.valued c gi b k set_ v).sags = e.sags % 65536) := by
  obtain ⟨hsag, hsags⟩ := EvCtx.valued_on (c := c) (gi := gi) (b := b) (k := k) (v := v) (e := e) hon hudin
  have harm : e.armedFor set_ v = true := by
    unfold EvCtx.armedFor
    rw [harmed, Bool.true_or]
  have hstep : e.sagStep set_ v = detStep false false true (chanMask v (fun u => decide (u < set_.limits.1)))
      (chanMask v (fun u => decide (u ≥ set_.limits.1 + set_.limits.2.2.2))) v e.sag := by
    unfold EvCtx.sagStep
    rw [harm]
  rw [hsag, hsags, hstep]
  refine ⟨fun ⟨i, hu, ho, hok, hlow⟩ => ?_, fun hall => ?_⟩
  · have hin : chanMask v (fun u => decide (u < set_.limits.1)) ≠ 0 := fun h => by
      have := chanMask_eq_zero.1 h i hu ho hok
      exact of_decide_eq_false this hlow
    obtain ⟨hact, hstart, hflags⟩ := detStep_starts (up := false) (goOut := chanMask v (fun u => decide (u ≥ set_.limits.1 + set_.limits.2.2.2)))
      hidle hin (chanMask_and_all v _)
    rw [hflags]
    exact ⟨hact, rfl, hstart⟩
  · have hin : chanMask v (fun u => decide (u < set_.limits.1)) = 0 := chanMask_eq_zero.2 (fun i hu _ hok => decide_eq_false (Nat.not_lt.2 (hall i hu hok)))
    rw [hin, detStep_stays hidle]
    exact ⟨hidle, rfl⟩

theorem modEvc_frame {u : State} (h : u = { s with ev := { s.ev with ctx := u.ev.ctx } }) (n : Nat) (f : EvCtx → EvCtx) :
    u.modEvc n f = { s with ev := { s.ev with ctx := (u.modEvc n f).ev.ctx } } := by
  have hm : u.modEvc n f = { u with ev := { u.ev with ctx := (u.modEvc n f).ev.ctx } } := rfl
  generalize u.modEvc n f = t at hm ⊢
  rw [hm, h]

theorem eventHalfCycle_done {c : Fin 160} {n gi k : Nat} {x : PlanCtx} (hup : s.up islResamp = true) (hdown : s.ev.down = false)
    (hkeys : s.ctxKeys c = [n]) (hgrp : s.ctxGrp n = some gi) (hz : (s.getEvc n).zAsk = [])
    (hx : (s.planWin gi (s.evDone gi + 1)).bind (fun p => p.ctx? n) = some x) (hstart : (s.getGrp gi).started = true)
    (hhold : s.swapHold gi = false) (hk : (s.getGrp gi).winOf (s.winCycles gi) (((s.getEvc n).nextB - 1) / 512) = k) (hlate : k ≤ s.evDone gi + 1)
    (hthere : ∀ i ∈ x.voltSlots, (s.getEvc n).nextB ≤ s.nextOf n i) (hcyc : ((s.getGrp gi).cyc ((s.getEvc n).nextB / 512)).isSome = true) :
    ∃ t w ws, exec (.eventHalfCycle c 0) s = .next t ∧
      t.getEvc n = EvCtx.valued n gi (s.getEvc n).nextB k (s.getEvc n).set_ (s.halfCycle gi x (s.getEvc n).nextB k)
        { s.getEvc n with wNext := w, wsum := ws } ∧
      (∀ j, j ≠ n → t.getEvc j = s.getEvc j) ∧ t = { s with ev := { s.ev with ctx := t.ev.ctx } } := by
  obtain ⟨u, ⟨honly, hothers, w, ws, hself⟩, hstep⟩ := halfStep_taken hgrp hz hx hstart hhold hk hlate hthere hcyc
  have hexec : exec (.eventHalfCycle c 0) s = .next (halfStep n s) := by
    have h : exec (.eventHalfCycle c 0) s = execEventHalfCycle c 0 s := rfl
    have hnone : eventFaults (min 0 0x10000) s = s := rfl
    rw [h, execEventHalfCycle, onIsl_up hup]
    dsimp only
    rw [hnone, hdown, hkeys]
    rfl
  rw [hexec]
  generalize EvCtx.valued n gi (s.getEvc n).nextB k (s.getEvc n).set_ (s.halfCycle gi x (s.getEvc n).nextB k) = f at hstep
  refine ⟨halfStep n s, w, ws, rfl, ?_, fun j hj => ?_, ?_⟩
  · rw [hstep, State.getEvc_modEvc, hself]
  · rw [hstep, State.getEvc_modEvc_ne _ _ _ _ hj, hothers j hj]
  · rw [hstep]
    exact modEvc_frame honly n f

/-! ## The event unit goes down (R263) -/

theorem putEvRec_ctx (s : State) (r : EvRec) : (putEvRec s r).ev.ctx = s.ev.ctx := by
  unfold putEvRec
  extract_lets seq off t
  have ht : t.ev = s.ev := State.ev_eq (m := { gal := true }) rfl (by simp [t])
  change t.ev.ctx = s.ev.ctx
  rw [ht]

/-- The records of a context that its window ends with taken out. -/
def EvCtx.recsAfter (k : Nat) (e : EvCtx) : EvCtx := { e with recs := e.recs.filter (fun r => decide (r.win > k)) }

theorem writeRecs_ctx (c k : Nat) (s : State) : (writeRecs c k s).ev.ctx = (s.modEvc c (EvCtx.recsAfter k)).ev.ctx := by
  unfold writeRecs
  extract_lets due t
  have h : ∀ l : List EvRec, ∀ u : State, (l.foldl putEvRec u).ev.ctx = u.ev.ctx := fun l u =>
    each_same (f := putEvRec) (fun t => t.ev.ctx) putEvRec_ctx l u
  exact h _ _

theorem writeRecs_getEvc (c k : Nat) (s : State) : (writeRecs c k s).getEvc c = (s.getEvc c).recsAfter k :=
  (congrArg (fun x => tget ({} : EvCtx) x c) (writeRecs_ctx c k s)).trans (State.getEvc_modEvc s c _)

theorem writeRecs_getEvc_ne {c j : Nat} (k : Nat) (s : State) (h : j ≠ c) : (writeRecs c k s).getEvc j = s.getEvc j :=
  (congrArg (fun x => tget ({} : EvCtx) x j) (writeRecs_ctx c k s)).trans (State.getEvc_modEvc_ne s c j _ h)

/-- What is committed of a context stays where a change of one context keeps it. -/
theorem com_kept {c : Nat} {s t : State} (hself : (t.getEvc c).com = (s.getEvc c).com) (hne : ∀ j, j ≠ c → t.getEvc j = s.getEvc j) (j : Nat) :
    (t.getEvc j).com = (s.getEvc j).com := by
  by_cases h : j = c
  · rw [h, hself]
  · rw [hne j h]

theorem writeRecs_com (c k : Nat) (s : State) (j : Nat) : ((writeRecs c k s).getEvc j).com = (s.getEvc j).com :=
  com_kept (by rw [writeRecs_getEvc]; rfl) (fun _ h => writeRecs_getEvc_ne k s h) j

theorem abortAll_com (c gi : Nat) (s : State) (j : Nat) : ((s.modEvc c (abortAll c gi)).getEvc j).com = (s.getEvc j).com :=
  com_kept (by rw [State.getEvc_modEvc]; rfl) (fun _ h => State.getEvc_modEvc_ne _ _ _ _ h) j

theorem eventUnitDown_com (crit : Nat) (s : State) (j : Nat) : ((eventUnitDown crit s).getEvc j).com = (s.getEvc j).com := by
  unfold eventUnitDown
  extract_lets cs s₁ s₂
  have h₁ : (s₁.getEvc j).com = (s.getEvc j).com :=
    each_same (f := fun s c => s.modEvc c (abortAll c ((s.ctxGrp c).getD 0))) (fun t => (t.getEvc j).com) (fun t c => abortAll_com _ _ t j) cs s
  have h₂ : (s₂.getEvc j).com = (s₁.getEvc j).com :=
    each_same (f := fun s c => writeRecs c (2 ^ 64) s) (fun t => (t.getEvc j).com) (fun t c => writeRecs_com _ _ t j) cs s₁
  rw [raise_eq]
  exact h₂.trans h₁

theorem eventUnitDown_residue (crit : Nat) (s : State) : (eventUnitDown crit s).ev.residue = s.ev.residue := by
  unfold eventUnitDown
  extract_lets cs s₁ s₂
  have h₁ : s₁.ev.residue = s.ev.residue :=
    each_same (f := fun s c => s.modEvc c (abortAll c ((s.ctxGrp c).getD 0))) (fun t => t.ev.residue) (fun _ _ => rfl) cs s
  have hrec : ∀ (t : State) (c : Nat), (writeRecs c (2 ^ 64) t).ev.residue = t.ev.residue := fun t c => by
    unfold writeRecs
    extract_lets due u
    have hput : ∀ (u : State) (r : EvRec), (putEvRec u r).ev.residue = u.ev.residue := fun u r => by
      unfold putEvRec
      extract_lets seq off v
      have hv : v.ev = u.ev := State.ev_eq (m := { gal := true }) rfl (by simp [v])
      change v.ev.residue = u.ev.residue
      rw [hv]
    exact (each_same (f := putEvRec) (fun t => t.ev.residue) hput _ u).trans rfl
  have h₂ : s₂.ev.residue = s₁.ev.residue := each_same (f := fun s c => writeRecs c (2 ^ 64) s) (fun t => t.ev.residue) hrec cs s₁
  rw [raise_eq]
  exact h₂.trans h₁

theorem eventUnitDown_logged (crit : Nat) (s : State) :
    Logged (ent .eventUnitDown s.now 0 [(1, crit)] s) (eventUnitDown crit s) := by
  unfold eventUnitDown
  extract_lets cs s₁ s₂
  have htb : s₂.tb = s.tb := State.tb_eq (m := { ev := true, gal := true }) rfl (by simp [s₂, s₁])
  have h := logged_raise (c := .eventUnitDown) rfl 0 [(1, crit)] (s₂.modEvIsl (fun e => { e with down := true }))
  have hnow : (s₂.modEvIsl (fun e => { e with down := true })).now = s.now := congrArg Tb.idx htb
  have hent : ∀ w i l, ent .eventUnitDown w i l (s₂.modEvIsl (fun e => { e with down := true })) = ent .eventUnitDown w i l s := fun w i l =>
    ent_congr (congrArg Tb.epoch htb)
  rw [hnow, hent] at h
  exact h

theorem residue_puts_down {c : Fin 160} (hup : s.up islResamp = true) (hdown : s.ev.down = false) (hmany : 3 ≤ (addFault s.now s.ev.faults).length) :
    ∃ t, exec (.eventHalfCycle c 1) s = .next t ∧ t.ev.down = true ∧ t.ev.residue = min 0xFFFF (s.ev.residue + 1) ∧
      (∀ j, (t.getEvc j).com = (s.getEvc j).com) ∧ Logged (ent .eventUnitDown s.now 0 [(1, 0)] s) t ∧
      t = { s with ev := t.ev, gal := t.gal, log := t.log } := by
  generalize hw : s.modEvIsl (fun e => { e with residue := satAdd 0xFFFF e.residue 1, faults := addFault s.now s.ev.faults }) = w
  have hfaults : eventFaults (min 1 0x10000) s = eventUnitDown 0 w := by
    have h : eventFaults (min 1 0x10000) s =
        (if (addFault s.now s.ev.faults).length ≥ 3 && !w.ev.down then eventUnitDown 0 w else w) := by
      rw [← hw]
      rfl
    have hd : w.ev.down = false := by
      rw [← hw]
      exact hdown
    rw [h, decide_eq_true hmany, hd]
    rfl
  have hexec : exec (.eventHalfCycle c 1) s = execEventHalfCycle c 1 s := rfl
  rw [hexec, execEventHalfCycle, onIsl_up hup]
  dsimp only
  rw [hfaults, hdown, if_neg (by decide), down_eventUnitDown, if_pos rfl]
  have hlog := eventUnitDown_logged 0 w
  have hent : ent .eventUnitDown w.now 0 [(1, 0)] w = ent .eventUnitDown s.now 0 [(1, 0)] s := by
    rw [← hw]
    rfl
  rw [hent] at hlog
  refine ⟨_, rfl, down_eventUnitDown 0 w, ?_, fun j => ?_, hlog, ?_⟩
  · rw [eventUnitDown_residue, ← hw]
    rfl
  · rw [eventUnitDown_com, ← hw]
    rfl
  · refine State.eq_onto (m := { ev := true, gal := true, log := true }) ?_
    rw [outside_eventUnitDown rfl rfl rfl, ← hw]
    rfl

/-! ## The end of a window (R22, R259) -/

/-- A context with the status of a window that waits for the commit. -/
theorem finishCtx_only (gi k : Nat) (x : PlanCtx) (s : State) :
    finishCtx gi k x s = { s with ev := { s.ev with ctx := (finishCtx gi k x s).ev.ctx } } ∧
    (∀ j, j ≠ x.c → (finishCtx gi k x s).getEvc j = s.getEvc j) ∧ ((finishCtx gi k x s).getEvc x.c).pend.isSome = true ∧
    ((finishCtx gi k x s).getEvc x.c).com = (s.getEvc x.c).com := by
  unfold finishCtx
  extract_lets g w upto u tw next
  obtain ⟨honly, hne, n, ws, hself⟩ := addWindow_only x k upto s
  change u = _ at honly
  change ∀ j, j ≠ x.c → u.getEvc j = s.getEvc j at hne
  change u.getEvc x.c = _ at hself
  clear_value u
  refine ⟨?_, fun j hj => ?_, ?_, ?_⟩
  · rw [honly]
    rfl
  · rw [State.getEvc_modEvc_ne _ _ _ _ hj, hne j hj]
  · rw [State.getEvc_modEvc]
    rfl
  · rw [State.getEvc_modEvc]
    have hcom : (u.getEvc x.c).com = (s.getEvc x.c).com := by rw [hself]
    refine Eq.trans ?_ hcom
    change (if _ then abortAll x.c gi (u.getEvc x.c) else u.getEvc x.c).com = _
    split <;> rfl

/-- The contexts of a group, in the order of their numbers. -/
def Plan.inOrder (p : Plan) (gi : Nat) : List PlanCtx := sortBy (fun a b => decide (ctxNum a.c ≤ ctxNum b.c)) (p.ctxsOf gi)

/-- The status of the contexts of a window prepared, and their records written. -/
def ctxsFinished (gi k : Nat) (p : Plan) (s : State) : State :=
  each (p.inOrder gi) (fun s x => writeRecs x.c k s) (each (p.inOrder gi) (fun s x => finishCtx gi k x s) s)

theorem finishEvents_eq (gi k : Nat) (p : Plan) (s : State) : finishEvents gi k p s =
    sendToken gi k 16 ((ctxsFinished gi k p s).modEvIsl (fun e => { e with doneK := tset e.doneK gi k })) := rfl

theorem ctxsFinished_does (gi k : Nat) (p : Plan) (s : State) :
    (∀ x ∈ p.ctxsOf gi, ((ctxsFinished gi k p s).getEvc x.c).pend.isSome = true ∧ ∀ r ∈ ((ctxsFinished gi k p s).getEvc x.c).recs, k < r.win) ∧
    (∀ c, ((ctxsFinished gi k p s).getEvc c).com = (s.getEvc c).com) ∧
    (∀ c, (∀ x ∈ p.ctxsOf gi, x.c ≠ c) → (ctxsFinished gi k p s).getEvc c = s.getEvc c) ∧
    ctxsFinished gi k p s = { s with ev := (ctxsFinished gi k p s).ev, gal := (ctxsFinished gi k p s).gal } := by
  have hin : ∀ x, x ∈ p.inOrder gi ↔ x ∈ p.ctxsOf gi := fun x => mem_sortBy
  refine ⟨fun x hx => ⟨?_, ?_⟩, fun c => ?_, fun c hc => ?_, ?_⟩
  · have h₁ : ((each (p.inOrder gi) (fun s x => finishCtx gi k x s) s).getEvc x.c).pend.isSome = true := by
      refine each_establishes (P := fun t => (t.getEvc x.c).pend.isSome = true) (f := fun s x => finishCtx gi k x s)
        (fun t y ht => ?_) (fun t => (finishCtx_only gi k x t).2.2.1) ((hin x).2 hx) s
      obtain ⟨_, hne, hpend, _⟩ := finishCtx_only gi k y t
      by_cases h : x.c = y.c
      · rw [h]
        exact hpend
      · rw [hne _ h]
        exact ht
    refine each_keeps (fun t => (t.getEvc x.c).pend.isSome = true) (f := fun s (x : PlanCtx) => writeRecs x.c k s) (fun t y ht => ?_) _ h₁
    by_cases h : x.c = y.c
    · rw [h] at ht ⊢
      rw [writeRecs_getEvc]
      exact ht
    · rw [writeRecs_getEvc_ne k t h]
      exact ht
  · refine each_establishes (P := fun t => ∀ r ∈ (t.getEvc x.c).recs, k < r.win) (f := fun s (x : PlanCtx) => writeRecs x.c k s)
      (fun t y ht => ?_) (fun t => ?_) ((hin x).2 hx) _
    · by_cases h : x.c = y.c
      · rw [h] at ht ⊢
        rw [writeRecs_getEvc]
        exact fun r hr => ht r (List.mem_filter.1 hr).1
      · rw [writeRecs_getEvc_ne k t h]
        exact ht
    · rw [writeRecs_getEvc]
      exact fun r hr => of_decide_eq_true (List.mem_filter.1 hr).2
  · refine (each_same (f := fun s (x : PlanCtx) => writeRecs x.c k s) (fun t => (t.getEvc c).com) (fun t y => writeRecs_com y.c k t c) _ _).trans ?_
    refine each_same (f := fun s x => finishCtx gi k x s) (fun t => (t.getEvc c).com) (fun t y => ?_) _ _
    obtain ⟨_, hne, _, hcom⟩ := finishCtx_only gi k y t
    exact com_kept hcom hne c
  · refine (each_view (inv := fun _ => True) (f := fun s (x : PlanCtx) => writeRecs x.c k s) (fun t => t.getEvc c) (fun _ _ h => h)
      (fun t y hy _ => writeRecs_getEvc_ne k t (fun h => hc y ((hin y).1 hy) h.symm)) trivial).trans ?_
    exact each_view (inv := fun _ => True) (f := fun s x => finishCtx gi k x s) (fun t => t.getEvc c) (fun _ _ h => h)
      (fun t y hy _ => (finishCtx_only gi k y t).2.1 c (fun h => hc y ((hin y).1 hy) h.symm)) trivial
  · refine State.eq_onto (m := { ev := true, gal := true }) ?_
    refine (outside_each (f := fun s (x : PlanCtx) => writeRecs x.c k s) (fun t y => outside_writeRecs rfl rfl _ _ _) _ _).trans ?_
    refine outside_each (f := fun s x => finishCtx gi k x s) (fun t y => ?_) _ _
    rw [(finishCtx_only gi k y t).1]
    rfl

theorem eventWindowDone_done {g : Fin 16} {p : Plan} (hup : s.up islResamp = true) (hdown : s.ev.down = false) :
    let k := s.evDone g + 1
    let upto := 512 * (s.getGrp g).firstCyc (s.winCycles g) (k + 1)
    s.planWin g k = some p → (s.getGrp g).started = true → k ≤ (s.getGrp g).closed → k ≤ (s.getGrp g).lastK + 1 → s.switchDue g k = false →
    (∀ x ∈ p.ctxsOf g, upto < (s.getEvc x.c).nextB ∧ ∀ i ∈ x.voltSlots, upto ≤ s.nextOf x.c i) →
    ∃ t, exec (.eventWindowDone g) s = .next t ∧ t.rs.tokens = s.rs.tokens ++ [(g.val, k, 16)] ∧ t.evDone g = k ∧
      (∀ x ∈ p.ctxsOf g, (t.getEvc x.c).pend.isSome = true ∧ ∀ r ∈ (t.getEvc x.c).recs, k < r.win) ∧
      (∀ c, (t.getEvc c).com = (s.getEvc c).com) ∧ (∀ c, (∀ x ∈ p.ctxsOf g, x.c ≠ c) → t.getEvc c = s.getEvc c) ∧
      t = { s with rs := { s.rs with tokens := t.rs.tokens }, ev := t.ev, gal := t.gal } := by
  intro k upto hp hstart hclosed hlast hswitch hready
  have hall : (p.ctxsOf g).all (fun x =>
      decide ((s.getEvc x.c).nextB > upto) && x.voltSlots.all (fun i => decide (s.nextOf x.c i ≥ upto))) = true := by
    refine List.all_eq_true.2 (fun x hx => ?_)
    obtain ⟨hb, hv⟩ := hready x hx
    rw [decide_eq_true hb, Bool.true_and]
    exact List.all_eq_true.2 (fun i hi => decide_eq_true (hv i hi))
  have hexec : exec (.eventWindowDone g) s = .next (finishEvents g k p s) := by
    have h : exec (.eventWindowDone g) s = execEventWindowDone g s := rfl
    rw [h, execEventWindowDone, onIsl_up hup]
    dsimp only
    rw [hp]
    dsimp only
    rw [hdown, hstart, hswitch, hall, decide_eq_false (Nat.not_lt.2 hclosed), decide_eq_false (Nat.not_lt.2 hlast)]
    rfl
  obtain ⟨hdone, hcom, hother, honly⟩ := ctxsFinished_does g k p s
  rw [hexec, finishEvents_eq]
  generalize ctxsFinished g k p s = v at *
  refine ⟨_, rfl, ?_, tget_tset_same _ _ _ _, hdone, hcom, hother, ?_⟩
  · rw [honly]
    rfl
  · rw [honly]
    rfl

/-! ## The settings of a context (R24, R255) -/

theorem place_evCfg {c : Nat} (hc : c < 160) : place (ctxAddr c 0xC00) = .evCtx c 0xC00 := by
  have hdiv : (ctxAddr c 0xC00 - 0x100000) / 0x1000 = c := by unfold ctxAddr; omega
  have hmod : ctxAddr c 0xC00 % 0x1000 = 0xC00 := by unfold ctxAddr; omega
  have hlo : ∀ n, n ≤ 0x100000 → ¬ ctxAddr c 0xC00 < n := by unfold ctxAddr; omega
  have hhi : ctxAddr c 0xC00 < 0x1A0000 := by unfold ctxAddr; omega
  unfold place
  simp (disch := omega) only [hlo, hdiv, hmod, hhi, if_true, if_false]
  rfl

theorem evCfgWrite_taken {q : Fin 4} {c : Fin 160} {v : Word} {x : PlanCtx} (hact : MayAct s q 2 tgtEvent)
    (hhalf : s.glb.half = true → c.val < 80) (hx : s.ctxNow c = some x) :
    ∃ t u, exec (.evCfgWrite q c v) s = .next t ∧ u.getEvc (s.evWritten c).1 = { s.getEvc (s.evWritten c).1 with
        wr := (s.tb.idx, { (s.evWritten c).2 with enable := bit v 31, intRule := bit v 30, hyst := bits v 6 0 }) :: (s.getEvc (s.evWritten c).1).wr } ∧
      (∀ j, j ≠ (s.evWritten c).1 → u.getEvc j = s.getEvc j) ∧ u = { s with ev := { s.ev with ctx := u.ev.ctx } } ∧
      Audited q (0x100C00 + 0x1000 * c) (evCtxRead s c 0xC00) v s u t := by
  have hpl := place_evCfg c.isLt
  have haddr : ctxAddr c 0xC00 = 0x100C00 + 0x1000 * c.val := by
    unfold ctxAddr
    omega
  have hwrite : regWrite (s.getRolePort q).role q (.evCtx c 0xC00) v s =
      (false, s.modEvc (s.evWritten c).1 (fun e => { e with wr := (s.now, EvSet.withCfg v (s.evWritten c).2) :: e.wr })) := by
    have h : regWrite (s.getRolePort q).role q (.evCtx c 0xC00) v s = (false, evCtxWrite c 0xC00 v s) := rfl
    rw [h, evCtxWrite, hx]
    rfl
  obtain ⟨t, ht, haud⟩ := rowWrite_audited (v := v) (role := 2) hpl hact rfl trivial (by rw [haddr]; omega) (fun h => absentHalf_ctxAddr (hhalf h) (by omega))
    (Nat.le_refl 2) (Nat.le_refl 2) rfl rfl hwrite rfl rfl
  rw [haddr] at haud
  exact ⟨t, _, ht, State.getEvc_modEvc _ _ _, fun j hj => State.getEvc_modEvc_ne _ _ _ _ hj, rfl, haud⟩

/-- Settles O29, clause by clause. -/
theorem eventsDetectedAndWindowsClosed : Obligations.EventsDetectedAndWindowsClosed := by
  refine ⟨⟨?_, fun c s hup hdown hmany => residue_puts_down hup hdown hmany⟩, fun g s p hup hdown => eventWindowDone_done hup hdown,
    fun q c v s x hact hhalf hx => ?_⟩
  · intro c s n gi k x hup hdown hkeys hgrp e b hz hx _ hstart hhold hk hlate hthere hcyc v
    obtain ⟨t, w, ws, hexec, hself, hothers, honly⟩ := eventHalfCycle_done hup hdown hkeys hgrp hz hx hstart hhold hk.symm hlate hthere hcyc
    generalize hg : ({ s.getEvc n with wNext := w, wsum := ws } : EvCtx) = g at hself
    have hfields : g.j = e.j ∧ g.com = e.com ∧ g.pend = e.pend ∧ g.sag = e.sag ∧ g.swell = e.swell ∧ g.int_ = e.int_ ∧ g.armed = e.armed ∧
        g.recs = e.recs ∧ g.sags = e.sags := by
      rw [← hg]
      exact ⟨rfl, rfl, rfl, rfl, rfl, rfl, rfl, rfl, rfl⟩
    obtain ⟨hj, hcom, hpend, hsag, hswell, hint, harmed, hrecs, hsags⟩ := hfields
    obtain ⟨hb, hj', hcom', hpend'⟩ := EvCtx.valued_fields n gi b k e.set_ v g
    rw [hj] at hj'
    rw [hcom] at hcom'
    rw [hpend] at hpend'
    rw [← hself] at hb hj' hcom' hpend'
    refine ⟨t, hexec, hb, hj', hcom', hpend', fun hoff => ?_, fun hon hudin harm hidle => ?_, hothers, honly⟩
    · have h := EvCtx.valued_off (c := n) (gi := gi) (b := b) (k := k) (v := v) (e := g) hoff
      rw [hsag, hswell, hint, harmed, hrecs, hsags] at h
      rw [hself]
      exact h
    · have h := EvCtx.valued_sag (c := n) (gi := gi) (b := b) (k := k) (v := v) (e := g) hon hudin (harmed.trans harm) (by rw [hsag]; exact hidle)
      rw [hsags] at h
      rw [hself]
      exact h
  · intro w
    refine ⟨fun hnone => ?_, evCfgWrite_taken hact hhalf hx⟩
    unfold w State.evWritten
    rw [hnone]

/-- Settles O30, command by command. -/
theorem waitingSamplesAreTaken : Obligations.WaitingSamplesAreTaken := by
  refine ⟨?_, ?_, ?_, fun u s hup hret hrep hdue => checkpoint_taken hup hret hrep hdue, ?_, fun l s q rest hup hwarn hq hwin => shRaw_taken hup hwarn hq hwin,
    ?_, ?_, ?_, ?_⟩
  · intro c slot s y gi h pc cy x hup hkeys hgrp m k hstart hswap hcyc hpc hhead hx hheld
    refine ⟨formNext y slot s, ?_, formNext_taken hgrp hstart hswap hcyc hpc hhead hx hheld⟩
    have hexec : exec (.cycleSampleForm c slot) s = execCycleSampleForm c slot s := rfl
    rw [hexec, execCycleSampleForm, onIsl_up hup, hkeys]
    rfl
  · intro c s y gi k l m t2 x sels hup hkeys hruns hgrp hstart hnext hwin hsels hswap hstop
    have hstep := flatStep_taken hgrp hstart hnext hwin hsels hswap hstop
    have hexec : exec (.tallyFlatSample c) s = execTallyFlatSample c s := rfl
    rw [hexec, execTallyFlatSample, onIsl_up hup, hkeys]
    refine ⟨_, congrArg Host.Outcome.next (if_pos hruns), ?_⟩
    rw [hstep, Option.getD_some, State.getCtx_modCtx, Ctx.keep_nextFlat, countFlat_nextFlat]
  · intro c s y gi cy x hup hkeys hruns hgrp cyc hstart hswap hcyc hstop hx hbound
    have hstep := cycStep_taken hgrp hstart hswap hcyc hstop hx hbound
    have hexec : exec (.tallyCycle c) s = execTallyCycle c s := rfl
    rw [hexec, execTallyCycle, onIsl_up hup, hkeys]
    refine ⟨_, congrArg Host.Outcome.next (if_pos hruns), ?_⟩
    rw [hstep, Option.getD_some, State.getCtx_modCtx]
    rfl
  · intro c slot s n gi x e hup hkeys hharm hruns hgrp m hx hstart hswap hhead he
    have hexec : exec (.harmCycleSample c slot) s = execHarmCycleSample c slot s := rfl
    rw [hexec, execHarmCycleSample, onIsl_up hup, hkeys]
    refine ⟨_, congrArg Host.Outcome.next (if_pos (by rw [decide_eq_true hharm, hruns]; rfl)), ?_⟩
    exact harmTake_taken slot.isLt hgrp hx hstart hswap hhead he
  · intro c s n gi x hup hdown hkeys hgrp b hz hx _ hstart hhold hlate hthere hcyc
    obtain ⟨t, w, ws, hexec, hself, _, _⟩ := eventHalfCycle_done hup hdown hkeys hgrp hz hx hstart hhold rfl hlate hthere hcyc
    refine ⟨t, hexec, ?_⟩
    rw [hself]
    exact (EvCtx.valued_fields _ _ _ _ _ _ _).1
  · intro g s p hup hdown k upto hp hstart hclosed hlast hswitch hready
    obtain ⟨t, hexec, _, hdone, _⟩ := eventWindowDone_done hup hdown hp hstart hclosed hlast hswitch hready
    exact ⟨t, hexec, hdone⟩
  · intro q c v s x hact hhalf hx
    obtain ⟨t, u, hexec, hself, _, _, haud⟩ := evCfgWrite_taken (v := v) hact hhalf hx
    refine ⟨t, hexec, ?_⟩
    rw [haud.1]
    exact congrArg EvCtx.wr hself
  · intro p v s hact
    obtain ⟨t, hexec, haud⟩ := spUtcWrite_taken p v hact
    refine ⟨t, hexec, ?_⟩
    rw [haud.1]
    exact ⟨rfl, rfl⟩

end Sys2Proof.Machine
end

section
-- One proof after another: elaborated side by side they take more memory than the check allows.
set_option Elab.async false
/-! PROOF. The saves of a warning and of a period (O9). -/

namespace Sys2Proof.Machine

open Sys2Proof.Cert

variable {s : State}

/-! ## The record of a warning (R445, R450) -/

theorem countArrived_only (s : State) : TallyOnly s (countArrived s) := by
  refine each_keeps (TallyOnly s) (fun t c ht => ?_) _ (TallyOnly.refl s)
  split
  · exact ht.trans ((flatsUpTo_only c 4096 t).trans (cyclesUpTo_only c 64 _))
  · exact ht

theorem TallyOnly.retiredItems {t : State} (h : TallyOnly s t) : t.retiredItems = s.retiredItems := by
  obtain ⟨h, _⟩ := h
  have hhead : t.head = s.head := by rw [h]
  have hport : t.port = s.port := by rw [h]
  have hstair : t.stair = s.stair := by rw [h]
  have hunit : t.tally.unit = s.tally.unit := by rw [h]
  have hspec : t.spec = s.spec := by rw [h]
  have hev : t.ev = s.ev := by rw [h]
  unfold State.retiredItems
  rw [hhead, hport, hstair, hunit, hspec, hev]

/-- The number of the record of a warning (R445, R448). -/
def State.warnNo (s : State) : Nat := s.pwr.warnSeq.getD ((max (recSeq s.pwr.copyA) (recSeq s.pwr.copyB) + 1) % 2 ^ 32)

/-- What a record of the present warning holds (R445). -/
def RecordOf (s : State) (r : SaveRec) : Prop :=
  r.seq = s.warnNo ∧ r.idx = s.pwr.w ∧ r.epoch = s.tb.epoch ∧ r.warning = true ∧ r.sealed = s.role.sealed ∧ r.operator = s.role.operator ∧
  r.installer = s.role.installer ∧ r.audit = s.role.audit ∧ r.minver = s.plan.minver ∧ r.logNext = s.log.next ∧ r.retired = s.retiredItems

theorem recordOf_warnRec (s : State) : RecordOf s s.warnRec := ⟨rfl, rfl, rfl, rfl, rfl, rfl, rfl, rfl, rfl, rfl, rfl⟩

theorem TallyOnly.recordOf {t : State} {r : SaveRec} (h : TallyOnly s t) (hr : RecordOf t r) : RecordOf s r := by
  have hret := h.retiredItems
  obtain ⟨h, _⟩ := h
  have hpwr : t.pwr = s.pwr := by rw [h]
  have htb : t.tb = s.tb := by rw [h]
  have hrole : t.role = s.role := by rw [h]
  have hplan : t.plan = s.plan := by rw [h]
  have hlog : t.log = s.log := by rw [h]
  unfold RecordOf State.warnNo at *
  rw [hret, hpwr, htb, hrole, hplan, hlog] at hr
  exact hr

theorem saveFailed_answers (n : Nat) (s : State) : Logged (ent .saveFail s.now n [] s) (saveFailed n s) ∧
    saveFailed n s = { s with
      pwr := { s.pwr with saveFail := true, saveErr := min 0xFFFF (s.pwr.saveErr + 1) }, log := (saveFailed n s).log } :=
  ⟨logged_raise (c := .saveFail) rfl n [] (s.modPwrIsl (fun p => { p with saveFail := true, saveErr := satAdd 0xFFFF p.saveErr 1 })),
    raise_eq .saveFail n [] (s.modPwrIsl (fun p => { p with saveFail := true, saveErr := satAdd 0xFFFF p.saveErr 1 }))⟩

theorem freeze_eq (okA okB : Bool) (s : State) : freeze okA okB s = writeBoth okA okB (countArrived s).warnRec
    (fun s => s.modPwrIsl (fun p => { p with st := .saved, recDone := true, lateEnd := none })) (countArrived s) := rfl

/-- The save store with a record in both copies. -/
def Pwr.written (r : SaveRec) (p : Pwr) : Pwr := { p with
  warnSeq := some r.seq, resetRec := p.resetRec && !true, copyA := some r, copyB := some r
  statSeq := r.seq, statKind := r.warning, statCopies := 3, statIdx := r.idx }

/-- The save store with a record whose copy B does not read back. -/
def Pwr.halfWritten (r : SaveRec) (p : Pwr) : Pwr := { p with
  warnSeq := some r.seq, resetRec := p.resetRec && !true, copyA := some r, copyB := none }

/-- The save store with a record whose copy A does not read back. -/
def Pwr.notWritten (r : SaveRec) (p : Pwr) : Pwr := { p with warnSeq := some r.seq, resetRec := p.resetRec && !false, copyA := none }

variable {r : SaveRec} {fin : State → State}

theorem writeBoth_done (h : s.pwr.single = false) : writeBoth true true r fin s = fin { s with pwr := s.pwr.written r } := by
  unfold writeBoth Pwr.written
  simp [h, noteSaved, State.modPwrIsl]

theorem writeBoth_half (h : s.pwr.single = false) : writeBoth true false r fin s = saveFailed 1 { s with pwr := s.pwr.halfWritten r } := by
  unfold writeBoth Pwr.halfWritten
  simp [h, State.modPwrIsl]

theorem writeBoth_not (okB : Bool) : writeBoth false okB r fin s = saveFailed 0 { s with pwr := s.pwr.notWritten r } := rfl

theorem exec_totalsFreeze (okA okB : Bool) (hon : s.pwr.mainOn = true) (hst : s.pwr.st = .warning) (hint : s.pwr.interrupted = false)
    (hgone : s.pwr.recGone = false) (hclk : bit s.glb.lost islPower = false) (hunits : ∀ u, u < 9 → (s.getUnit u).replay = none)
    (hfrom : max s.pwr.w s.tally.replayAt + 512 ≤ s.tb.idx) (hto : s.tb.idx < max s.pwr.w s.tally.replayAt + 2048)
    (hshed : s.spec.shed = true ∨ s.specSent = true ∨ s.pwr.w + 768 ≤ s.tb.idx) :
    exec (.totalsFreeze okA okB) s = .next (freeze okA okB s) := by
  have hcur : s.unitsCurrent = true := List.all_eq_true.2 (fun u hu => by rw [hunits u (List.mem_range.1 hu)]; rfl)
  have hshed' : (s.spec.shed || s.specSent || decide (s.now ≥ s.pwr.w + 768)) = true := by
    rcases hshed with h | h | h
    · rw [h]; rfl
    · rw [h, Bool.or_true]; rfl
    · rw [decide_eq_true (show s.now ≥ s.pwr.w + 768 from h), Bool.or_true]
  have hdue : s.freezeDue = true := by
    unfold State.freezeDue State.pwrIdle
    rw [hon, hst, hint, hgone, hclk, hcur, hshed', decide_eq_true (show s.now ≥ s.freezeAt s.pwr.w from hfrom),
      decide_eq_true (show s.now < s.freezeAt s.pwr.w + 1536 from by unfold State.freezeAt State.now; omega)]
    rfl
  have hexec : exec (.totalsFreeze okA okB) s = execTotalsFreeze okA okB s := rfl
  rw [hexec, execTotalsFreeze, if_pos hdue]

/-- R445, R450: what the freeze writes, and what a copy that does not read back leaves. -/
theorem freeze_answers (hsingle : s.pwr.single = false) (hst : s.pwr.st = .warning) : ∃ r, RecordOf s r ∧
    (∃ t, freeze true true s = t ∧ t.pwr.copyA = some r ∧ t.pwr.copyB = some r ∧ t.pwr.st = .saved ∧ t.pwr.recDone = true ∧
      t = { s with tally := t.tally, pwr := t.pwr }) ∧
    (∃ t, freeze true false s = t ∧ t.pwr.copyA = some r ∧ t.pwr.copyB = none ∧ t.pwr.warnSeq = some s.warnNo ∧ t.pwr.saveFail = true ∧
      t.pwr.saveErr = min 0xFFFF (s.pwr.saveErr + 1) ∧ t.pwr.st = .warning ∧ Logged (ent .saveFail s.now 1 [] s) t ∧
      t = { s with tally := t.tally, pwr := t.pwr, log := t.log }) ∧
    (∀ okB, ∃ t, freeze false okB s = t ∧ t.pwr.copyA = none ∧ t.pwr.copyB = s.pwr.copyB ∧ t.pwr.warnSeq = some s.warnNo ∧ t.pwr.saveFail = true ∧
      t.pwr.st = .warning ∧ Logged (ent .saveFail s.now 0 [] s) t) := by
  have honly := countArrived_only s
  have hrec := honly.recordOf (recordOf_warnRec (countArrived s))
  obtain ⟨hu, _⟩ := honly
  have hfreeze := fun okA okB => freeze_eq okA okB s
  generalize countArrived s = u at *
  have hsingle' : u.pwr.single = false := by
    rw [hu]
    exact hsingle
  generalize u.warnRec = r at *
  have hent : ∀ (p : Pwr) n, ent .saveFail ({ u with pwr := p } : State).now n [] { u with pwr := p } = ent .saveFail s.now n [] s := fun p n => by
    rw [hu]
    rfl
  have hseq : r.seq = s.warnNo := hrec.1
  refine ⟨r, hrec, ?_, ?_, fun okB => ?_⟩
  · rw [hfreeze, writeBoth_done hsingle']
    refine ⟨_, rfl, rfl, rfl, rfl, rfl, ?_⟩
    rw [hu]
    rfl
  · rw [hfreeze, writeBoth_half hsingle']
    obtain ⟨hlog, hlast⟩ := saveFailed_answers 1 { u with pwr := u.pwr.halfWritten r }
    rw [hent] at hlog
    generalize saveFailed 1 { u with pwr := u.pwr.halfWritten r } = t at *
    refine ⟨t, rfl, ?_, ?_, ?_, ?_, ?_, ?_, hlog, ?_⟩
    · rw [hlast]; rfl
    · rw [hlast]; rfl
    · rw [hlast, ← hseq]; rfl
    · rw [hlast]
    · rw [hlast, hu]; rfl
    · rw [hlast, hu]; exact hst
    · rw [hlast, hu]
  · rw [hfreeze, writeBoth_not]
    obtain ⟨hlog, hlast⟩ := saveFailed_answers 0 { u with pwr := u.pwr.notWritten r }
    rw [hent] at hlog
    generalize saveFailed 0 { u with pwr := u.pwr.notWritten r } = t at *
    refine ⟨t, rfl, ?_, ?_, ?_, ?_, ?_, hlog⟩
    · rw [hlast]; rfl
    · rw [hlast, hu]; rfl
    · rw [hlast, ← hseq]; rfl
    · rw [hlast]
    · rw [hlast, hu]; exact hst

/-! ## The tail block (R446) -/

theorem tailCopy_taken (hon : s.pwr.mainOn = true) (hwarn : s.inWarning = true) (hint : s.pwr.interrupted = false) (hgone : s.pwr.recGone = false)
    (hclk : bit s.glb.lost islPower = false) (htime : s.pwr.tailAt + 96 ≤ s.tb.idx) :
    ∃ t b, exec .tailCopy s = .next t ∧ b.epoch = s.tb.epoch ∧ b.w = s.pwr.w ∧
      t.pwr = (if s.pwr.tailNext then { s.pwr with tailB := some b, tailNext := false, tailVoid := false, tailAt := s.tb.idx }
        else { s.pwr with tailA := some b, tailNext := true, tailVoid := false, tailAt := s.tb.idx }) ∧
      t = { s with tally := t.tally, pwr := t.pwr } := by
  have hexec : exec .tailCopy s = .next (copyTail s) := by
    have h : exec .tailCopy s = execTailCopy s := rfl
    have hidle : ¬ s.pwrIdle = true := by
      unfold State.pwrIdle
      rw [hclk]
      decide
    rw [h, execTailCopy, if_pos ⟨hon, hwarn, by simpa using hidle, htime⟩]
  obtain ⟨hu, _⟩ := countArrived_only s
  rw [hexec, copyTail, hint, hgone, if_neg (by decide)]
  generalize countArrived s = u at hu ⊢
  extract_lets v t
  have hv : v = { s with tally := { s.tally with ctx := v.tally.ctx } } := hu
  clear_value v
  have hpwr : v.pwr = s.pwr := by rw [hv]
  have htb : v.tb = s.tb := by rw [hv]
  have hnow : v.now = s.tb.idx := congrArg Tb.idx htb
  refine ⟨_, t, rfl, congrArg Tb.epoch htb, congrArg Pwr.w hpwr, ?_, ?_⟩
  · dsimp only [State.modPwrIsl]
    rw [hpwr, hnow]
  · rw [hv]
    rfl

/-! ## Periodic saves (R449) -/

theorem exec_periodicSave (ok1 ok2 : Bool) (hup : s.up islPower = true) (hst : s.pwr.st = .normal) (hplan : s.plan.cur.isSome = true)
    (hreset : s.pwr.resetAt = none) (htime : s.pwr.saveDue = true ∨ s.pwr.saveAt + 38400 * min 600 (max 2 s.pwr.period) ≤ s.tb.idx) :
    exec (.periodicSave ok1 ok2) s = .next (periodicSave ok1 ok2 s) := by
  have hexec : exec (.periodicSave ok1 ok2) s = execPeriodicSave ok1 ok2 s := rfl
  have hdue : s.saveTime = true := by
    unfold State.saveTime
    rcases htime with h | h
    · rw [h, Bool.true_or]
    · rw [Bool.or_eq_true]
      exact .inr (decide_eq_true h)
  rw [hexec, execPeriodicSave, onIsl_up hup]
  rw [if_pos ⟨hst, hplan, by rw [hreset]; rfl, hdue⟩]

/-- The save store after a periodic save into copy A. -/
def Pwr.periodicDone (r : SaveRec) (now : Nat) (p : Pwr) : Pwr := { p with
  saveDue := false, saveAt := now, copyA := some r, resetRec := false, statSeq := r.seq, statKind := r.warning, statCopies := 1, statIdx := r.idx }

theorem spendTail_pwr (s : State) : spendTail s = { s with pwr := { s.pwr with tailVoid := (spendTail s).pwr.tailVoid, lateEnd := (spendTail s).pwr.lateEnd } } := by
  unfold spendTail State.modPwrIsl
  dsimp only
  split <;> rfl

theorem periodicSave_done {n : Nat} (ok2 : Bool) (h : s.pwr.periodicTarget = (false, n)) :
    periodicSave true ok2 s = spendTail { s with pwr := s.pwr.periodicDone (s.saveRec n s.now none s.pulse.inp) s.now } := by
  unfold periodicSave
  rw [h]
  dsimp only
  generalize s.saveRec n s.now none s.pulse.inp = r
  dsimp only [noteSaved, State.modPwrIsl, Pwr.periodicDone]
  rfl

theorem periodicSave_failed {n : Nat} (h : s.pwr.periodicTarget = (false, n)) :
    periodicSave false false s = (saveFailed 0 (saveFailed 0 { s with pwr := { s.pwr with saveDue := false, saveAt := s.now } })).modPwrIsl
      (fun p => { p with copyA := none }) := by
  unfold periodicSave
  rw [h]
  rfl

theorem periodicTarget_lower {a b : SaveRec} {p : Pwr} (hsingle : p.single = false) (ha : p.copyA = some a) (hb : p.copyB = some b) (hab : a.seq < b.seq) :
    p.periodicTarget = (false, (a.seq + 2) % 2 ^ 32) := by
  unfold Pwr.periodicTarget
  rw [hsingle, ha, hb]
  dsimp only
  rw [if_neg (by decide), if_neg (Nat.ne_of_lt hab), if_pos hab]
  rfl

/-- Settles O9, by what each save writes. -/
theorem savesWrittenInWarningAndInPeriod : Obligations.SavesWrittenInWarningAndInPeriod := by
  have hidle : ∀ s : State, bit s.glb.lost islPower = false → (!s.pwrIdle) = true := fun s h => by
    unfold State.pwrIdle
    rw [h]
    rfl
  refine ⟨⟨fun s hon hwarn hclk htime => ?_, ?_, fun s hon hwarn hdone hint hclk htime => ?_,
    fun s hon hwarn hint hgone hclk htime => tailCopy_taken hon hwarn hint hgone hclk htime⟩, ?_, fun p s hact => ?_⟩
  · have hexec : exec .spectralShed s = execSpectralShed s := rfl
    rw [hexec, execSpectralShed, if_pos ⟨hon, hwarn, hidle s hclk, .inr htime⟩]
    rfl
  · intro s hon hst hint hgone hsingle hclk hunits hfrom hto hshed seq
    have hexec := fun okA okB => exec_totalsFreeze okA okB hon hst hint hgone hclk hunits hfrom hto hshed
    obtain ⟨r, ⟨hseq, hrest⟩, ⟨t₁, h₁, hA₁, hB₁, hst₁, hdone₁, honly₁⟩, ⟨t₂, h₂, hA₂, hB₂, hrest₂⟩, hnot⟩ := freeze_answers hsingle hst
    refine ⟨⟨t₁, r, (hexec _ _).trans (congrArg _ h₁), hA₁, hB₁, hst₁, hdone₁, hseq, ?_⟩,
      ⟨t₂, r, (hexec _ _).trans (congrArg _ h₂), hA₂, hseq, hB₂, hrest₂⟩, fun okB => ?_⟩
    · obtain ⟨hidx, hep, hw, hsealed, hop, hins, haud, hmin, hlog, hret⟩ := hrest
      exact ⟨hidx, hep, hw, hsealed, hop, hins, haud, hmin, hlog, hret, honly₁⟩
    · obtain ⟨t, ht, h⟩ := hnot okB
      exact ⟨t, (hexec _ _).trans (congrArg _ ht), h⟩
  · have hexec : exec .saveDeadline s = execSaveDeadline s := rfl
    have hlate : s.now ≥ s.freezeAt s.pwr.w + 1536 := by
      unfold State.freezeAt State.now
      omega
    rw [hexec, execSaveDeadline, if_pos ⟨hon, hwarn, hidle s hclk, hlate⟩, dropRecord, hdone, hint, if_neg (by decide)]
    rfl
  · intro ok2 a b s hup hst hplan hreset htime hsingle ha hb hab
    have htarget := periodicTarget_lower hsingle ha hb hab
    have hexec := fun ok1 ok2 => exec_periodicSave ok1 ok2 hup hst hplan hreset htime
    refine ⟨?_, ?_⟩
    · rw [hexec, periodicSave_done ok2 htarget]
      generalize hr : s.saveRec ((a.seq + 2) % 2 ^ 32) s.now none s.pulse.inp = r
      have hspend := spendTail_pwr { s with pwr := s.pwr.periodicDone r s.now }
      generalize spendTail { s with pwr := s.pwr.periodicDone r s.now } = t at hspend
      refine ⟨t, r, rfl, ?_, ?_, ?_, ?_, ?_, ?_, ?_, ?_, ?_, ?_, ?_, ?_⟩
      · rw [hspend]; rfl
      · rw [hspend]; exact hb
      · rw [← hr]; rfl
      · rw [← hr]; rfl
      · rw [← hr]; rfl
      · rw [← hr]; rfl
      · rw [← hr]; rfl
      · rw [← hr]; rfl
      · rw [hspend]; rfl
      · rw [hspend]; rfl
      · rw [hspend]; rfl
      · rw [hspend]
    · rw [hexec, periodicSave_failed htarget]
      obtain ⟨hlog, hlast⟩ := saveFailed_answers 0 { s with pwr := { s.pwr with saveDue := false, saveAt := s.now } }
      generalize saveFailed 0 { s with pwr := { s.pwr with saveDue := false, saveAt := s.now } } = u at hlog hlast
      obtain ⟨_, hlast'⟩ := saveFailed_answers 0 u
      have hlog' : Logged (ent .saveFail s.now 0 [] s) (saveFailed 0 u) := Logged.raise (logged_congr rfl hlog)
      generalize saveFailed 0 u = v at hlog' hlast'
      refine ⟨_, rfl, rfl, ?_, ?_, ?_, logged_congr rfl hlog', ?_⟩
      · rw [hlast', hlast]; exact hb
      · rw [hlast']; rfl
      · rw [hlast', hlast]; rfl
      · rw [hlast', hlast]; rfl
  · have hexec : exec (.saveAck p) s = rowWrite p 0x1E0040 goBit s := rfl
    have hpl : place 0x1E0040 = .pwr 0x40 := rfl
    obtain ⟨t, ht, haud⟩ := rowWrite_audited (a := 0x1E0040) (v := goBit) (role := 3) hpl hact rfl trivial rfl (fun _ => rfl)
      (Nat.le_refl 3) (by decide) rfl rfl (u := { s with pwr := { s.pwr with single := false } }) rfl rfl rfl
    exact ⟨t, hexec.trans ht, haud⟩

end Sys2Proof.Machine
end

section
-- One proof after another: elaborated side by side they take more memory than the check allows.
set_option Elab.async false
/-! PROOF. The main domain stops or is reset (O10). -/

namespace Sys2Proof.Machine

open Sys2Proof.Cert

variable {s : State}

/-! ## The log drained -/

/-- G3 holds its words. -/
def State.g3Kept (s : State) : Prop := galKept (s.getGal 3).power = true

theorem g3Kept_congr {t : State} (h : t.gal = s.gal) (hs : s.g3Kept) : t.g3Kept := by
  unfold State.g3Kept State.getGal at *
  rw [h]
  exact hs

theorem galPuts_g3Kept (a : Nat) (bs : List Byte) (h : s.g3Kept) : (galPuts 3 a bs s).g3Kept := by
  unfold galPuts
  split
  · unfold State.g3Kept
    rw [State.getGal_modGal]
    rfl
  · exact h

theorem logIrq_g3Kept (sev : Nat) (h : s.g3Kept) : (logIrq sev s).g3Kept :=
  g3Kept_congr (State.gal_eq (m := { host := true }) rfl (by simp [logIrq])) h

theorem writePart_g3Kept (e : LogEnt) (part : Bool × Bool × List Byte) (h : s.g3Kept) : (writePart e part s).g3Kept := by
  unfold writePart
  extract_lets seq old u v next w
  have hu : u.g3Kept := g3Kept_congr (State.gal_eq (m := { log := true }) rfl (by simp [u, logOverwritten])) h
  have hv : v.g3Kept := galPuts_g3Kept _ _ (galPuts_g3Kept _ _ (galPuts_g3Kept _ _ hu))
  have hw : w.g3Kept := g3Kept_congr rfl hv
  split
  · exact g3Kept_congr rfl hw
  · exact hw

theorem writeRecord_g3Kept (e : LogEnt) (h : s.g3Kept) : (writeRecord e s).g3Kept :=
  logIrq_g3Kept _ (each_keeps State.g3Kept (f := fun s p => writePart e p s) (fun _ p ht => writePart_g3Kept e p ht) _ h)

theorem closeSpan_g3Kept (c : Nat) (h : s.g3Kept) : (closeSpan c s).g3Kept := by
  unfold closeSpan
  split
  · exact h
  · extract_lets u
    have hu : u.g3Kept := g3Kept_congr rfl h
    split
    · exact hu
    · exact writeRecord_g3Kept _ hu

theorem closeSpans_g3Kept (w : Nat) (h : s.g3Kept) : (closeSpans w s).g3Kept :=
  each_keeps State.g3Kept (f := fun s c => closeSpan c s) (fun _ c ht => closeSpan_g3Kept c ht) _ h

theorem takeRecord_g3Kept (e : LogEnt) (h : s.g3Kept) : (takeRecord e s).g3Kept := by
  unfold takeRecord
  extract_lets u past v x
  have hu : u.g3Kept := whenDo_keeps (f := closeSpans e.when_) State.g3Kept (fun t ht => closeSpans_g3Kept _ ht) _ h
  split
  · exact writeRecord_g3Kept _ hu
  · have hv : v.g3Kept := whenDo_keeps (f := closeSpan e.code) State.g3Kept (fun t ht => closeSpan_g3Kept _ ht) _ hu
    clear_value v
    split
    · exact writeRecord_g3Kept _ (g3Kept_congr rfl hv)
    · exact g3Kept_congr rfl hv

theorem drainLog_g3Kept (h : s.g3Kept) : (drainLog s).g3Kept := by
  unfold drainLog
  extract_lets es before u
  have hu : u.g3Kept := g3Kept_congr rfl h
  split
  · exact each_keeps State.g3Kept (f := fun s e => takeRecord e s) (fun _ e ht => takeRecord_g3Kept e ht) _ hu
  · exact hu

/-- Every session ended, and what waits for the log written. -/
def sessionsDrained (s : State) : State := drainLog (each hostPorts (fun s p => endSession 5 p s) s)

theorem sessionsDrained_only (s : State) : sessionsDrained s = { s with
    role := { s.role with port := (sessionsDrained s).role.port, audit := (sessionsDrained s).role.audit }
    host := (sessionsDrained s).host, gal := (sessionsDrained s).gal, log := (sessionsDrained s).log } := by
  have h : SessionsOnly s (each hostPorts (fun s p => endSession 5 p s) s) :=
    SessionsOnly.each (f := fun s p => endSession 5 p s) (fun t p => sessionsOnly_endSession 5 p t) _ s
  unfold sessionsDrained
  generalize each hostPorts (fun s p => endSession 5 p s) s = u at h
  have hd : drainLog u = { u with gal := (drainLog u).gal, host := (drainLog u).host, log := (drainLog u).log } :=
    State.eq_onto (m := { gal := true, host := true, log := true }) (outside_drainLog rfl rfl rfl u)
  generalize drainLog u = t at hd
  unfold SessionsOnly at h
  rw [hd, h]

theorem sessionsDrained_g3Kept (h : s.g3Kept) : (sessionsDrained s).g3Kept := by
  have hs : SessionsOnly s (each hostPorts (fun s p => endSession 5 p s) s) :=
    SessionsOnly.each (f := fun s p => endSession 5 p s) (fun t p => sessionsOnly_endSession 5 p t) _ s
  refine drainLog_g3Kept (g3Kept_congr ?_ h)
  rw [hs]

/-! ## The main domain stops (R439, R443) -/

/-- What a stopped main domain holds of the state in which it stops. -/
structure Stopped (s t : State) : Prop where
  pwr : t.pwr.mainOn = false ∧ t.pwr.pg = false ∧ t.pwr.copyA = s.pwr.copyA ∧ t.pwr.copyB = s.pwr.copyB ∧ t.pwr.epochs = s.pwr.epochs ∧
    t.pwr.lastValid = true ∧ t.pwr.lastW = s.pwr.w ∧ t.pwr.lastEpoch = s.tb.epoch ∧ t.pwr.lastRecord = s.pwr.recDone ∧ t.pwr.lastSrc = s.pwr.ewSrc
  tb : t.tb = { epoch := s.tb.epoch }
  glb : t.glb.lock = 0 ∧ t.glb.linkLock = 0 ∧ t.glb.half = s.glb.half
  reset : t.port = [] ∧ t.ring = [] ∧ t.head = [] ∧ t.headAcc = [] ∧ t.stair = {} ∧ t.rs = {} ∧ t.tally = {} ∧ t.pulse = {} ∧ t.spec = {} ∧
    t.ev = {} ∧ t.red = {} ∧ t.lc = {} ∧ t.gal = [] ∧ t.mt = {} ∧ t.host = {}
  stores : t.plan = { flash := s.plan.flash } ∧ t.cal = { store := s.cal.store }
  role : t.role = { otp := s.role.otp, makers := s.role.makers, sealed := s.role.sealed }
  tmp : t.tmp = s.tmp.stoppedMain
  pending : t.pending = s.pending

theorem dropRecord_pwr (s : State) : dropRecord s = { s with pwr := { s.pwr with
    recGone := (dropRecord s).pwr.recGone, tailVoid := (dropRecord s).pwr.tailVoid, lateEnd := (dropRecord s).pwr.lateEnd } } := by
  unfold dropRecord
  split <;> rfl

theorem stopMain_stopped (s : State) : Stopped s (stopMain s) := by
  unfold stopMain
  have hu : drainLog (each hostPorts (fun s p => endSession 5 p s) (dropRecord s)) = sessionsDrained (dropRecord s) := rfl
  rw [hu]
  have hdrop := dropRecord_pwr s
  generalize dropRecord s = v at hdrop
  have hdrain := sessionsDrained_only v
  generalize sessionsDrained v = u at hdrain
  rw [hdrop] at hdrain
  rw [hdrain]
  extract_lets w
  exact { pwr := ⟨rfl, rfl, rfl, rfl, rfl, rfl, rfl, rfl, rfl, rfl⟩, tb := rfl, glb := ⟨rfl, rfl, rfl⟩
          reset := ⟨rfl, rfl, rfl, rfl, rfl, rfl, rfl, rfl, rfl, rfl, rfl, rfl, rfl, rfl, rfl⟩, stores := ⟨rfl, rfl⟩, role := rfl, tmp := rfl, pending := rfl }

/-- What the last writes before the stop leave of the block. -/
def LastWrites (s u : State) : Prop :=
  u = { s with tally := u.tally, pwr := u.pwr } ∧ u.pwr.epochs = s.pwr.epochs ∧ u.pwr.w = s.pwr.w ∧ u.pwr.recDone = s.pwr.recDone ∧
  u.pwr.ewSrc = s.pwr.ewSrc

theorem LastWrites.refl (s : State) : LastWrites s s := ⟨rfl, rfl, rfl, rfl, rfl⟩

theorem LastWrites.trans {s t u : State} (h : LastWrites s t) (h' : LastWrites t u) : LastWrites s u := by
  obtain ⟨h₁, he, hw, hr, hs⟩ := h
  obtain ⟨h₁', he', hw', hr', hs'⟩ := h'
  refine ⟨?_, he'.trans he, hw'.trans hw, hr'.trans hr, hs'.trans hs⟩
  rw [h₁', h₁]

theorem TallyOnly.lastWrites {t : State} (h : TallyOnly s t) : LastWrites s t ∧ t.pwr = s.pwr := by
  obtain ⟨h, _⟩ := h
  have hpwr : t.pwr = s.pwr := by rw [h]
  refine ⟨⟨?_, congrArg Pwr.epochs hpwr, congrArg Pwr.w hpwr, congrArg Pwr.recDone hpwr, congrArg Pwr.ewSrc hpwr⟩, hpwr⟩
  rw [h]

theorem copyTail_lastWrites (s : State) : LastWrites s (copyTail s) ∧ (copyTail s).pwr.copyA = s.pwr.copyA ∧ (copyTail s).pwr.copyB = s.pwr.copyB := by
  obtain ⟨hu, hpwr⟩ := (countArrived_only s).lastWrites
  unfold copyTail
  split
  · exact ⟨LastWrites.refl s, rfl, rfl⟩
  · generalize countArrived s = u at hu hpwr ⊢
    extract_lets v x
    rw [← hpwr]
    by_cases h : v.pwr.tailNext = true
    · refine ⟨hu.trans ?_, ?_, ?_⟩
      all_goals
        unfold State.modPwrIsl
        dsimp only
        rw [if_pos h]
      exact ⟨rfl, rfl, rfl, rfl, rfl⟩
    · refine ⟨hu.trans ?_, ?_, ?_⟩
      all_goals
        unfold State.modPwrIsl
        dsimp only
        rw [if_neg h]
      exact ⟨rfl, rfl, rfl, rfl, rfl⟩

theorem noCopyYet_lastWrites (s : State) :
    LastWrites s (noCopyYet s) ∧ (noCopyYet s).pwr.copyA = s.pwr.copyA ∧ (noCopyYet s).pwr.copyB = s.pwr.copyB := by
  unfold noCopyYet
  dsimp only
  split
  · exact ⟨⟨rfl, rfl, rfl, rfl, rfl⟩, rfl, rfl⟩
  · exact ⟨LastWrites.refl s, rfl, rfl⟩

/-- R450: the copy that is being written when VHOLD falls is not valid. -/
theorem tearRecord_answers (torn : Nat) (s : State) : LastWrites s (tearRecord torn s) ∧
    (torn = 0 ∨ s.freezeDue = false → (tearRecord torn s).pwr.copyA = s.pwr.copyA ∧ (tearRecord torn s).pwr.copyB = s.pwr.copyB) ∧
    (s.freezeDue = true → s.pwr.single = false →
      (torn = 1 → (tearRecord torn s).pwr.copyA = none ∧ (tearRecord torn s).pwr.copyB = s.pwr.copyB) ∧
      (torn = 2 → (tearRecord torn s).pwr.copyB = none ∧ ∃ r, (tearRecord torn s).pwr.copyA = some r ∧ r.idx = s.pwr.w ∧ r.warning = true)) := by
  unfold tearRecord
  by_cases h : torn = 0 ∨ (!s.freezeDue) = true
  · rw [if_pos h]
    refine ⟨LastWrites.refl s, fun _ => ⟨rfl, rfl⟩, fun hdue _ => ?_⟩
    have h0 : torn = 0 := h.resolve_right (by rw [hdue]; decide)
    exact ⟨fun h1 => by omega, fun h2 => by omega⟩
  · obtain ⟨hu, hpwr⟩ := (countArrived_only s).lastWrites
    rw [if_neg h]
    generalize countArrived s = u at hu hpwr ⊢
    extract_lets v r
    have hr : r.idx = s.pwr.w ∧ r.warning = true := ⟨congrArg Pwr.w hpwr, rfl⟩
    clear_value r
    refine ⟨?_, fun hn => absurd (hn.imp id (fun hd => by rw [hd]; rfl)) h, fun hdue hsingle => ⟨fun h1 => ?_, fun h2 => ?_⟩⟩
    · refine hu.trans ?_
      unfold State.modPwrIsl
      dsimp only
      split
      · exact ⟨rfl, rfl, rfl, rfl, rfl⟩
      · exact ⟨rfl, rfl, rfl, rfl, rfl⟩
    · unfold State.modPwrIsl
      dsimp only
      rw [if_pos h1]
      exact ⟨rfl, (congrArg Pwr.copyB hpwr :)⟩
    · unfold State.modPwrIsl
      dsimp only
      rw [if_neg (by omega)]
      have hs : v.pwr.single = false := (congrArg Pwr.single hpwr).trans hsingle
      dsimp only
      rw [hs]
      exact ⟨rfl, r, rfl, hr⟩

theorem Stopped.of_lastWrites {u t : State} (hu : LastWrites s u) (ht : Stopped u t) :
    t.pwr.mainOn = false ∧ t.pwr.pg = false ∧ t.tb = { epoch := s.tb.epoch } ∧
    t.glb.lock = 0 ∧ t.glb.linkLock = 0 ∧ t.glb.half = s.glb.half ∧ t.port = [] ∧ t.ring = [] ∧ t.head = [] ∧ t.headAcc = [] ∧
    t.stair = {} ∧ t.rs = {} ∧ t.tally = {} ∧ t.pulse = {} ∧ t.spec = {} ∧ t.ev = {} ∧ t.red = {} ∧ t.lc = {} ∧ t.gal = [] ∧
    t.mt = {} ∧ t.host = {} ∧ t.plan = { flash := s.plan.flash } ∧ t.cal = { store := s.cal.store } ∧
    t.role.otp = s.role.otp ∧ t.role.makers = s.role.makers ∧ t.role.sealed = s.role.sealed ∧ (∀ p, (t.getRolePort p).role = 0) ∧
    t.tmp.otpCount = s.tmp.otpCount ∧ t.tmp.pending = s.tmp.pending ∧ t.tmp.stopped = true ∧
    t.pwr.copyA = u.pwr.copyA ∧ t.pwr.copyB = u.pwr.copyB ∧
    t.pwr.epochs = s.pwr.epochs ∧ t.pwr.lastValid = true ∧ t.pwr.lastW = s.pwr.w ∧ t.pwr.lastEpoch = s.tb.epoch ∧ t.pwr.lastRecord = s.pwr.recDone ∧
    t.pwr.lastSrc = s.pwr.ewSrc ∧ t.pending = s.pending := by
  obtain ⟨hu, hepochs, hw, hrec, hsrc⟩ := hu
  obtain ⟨⟨hon, hpg, hA, hB, he, hvalid, hlw, hle, hlr, hls⟩, htb, ⟨hlock, hlink, hhalf⟩, ⟨h1, h2, h3, h4, h5, h6, h7, h8, h9, h10, h11, h12, h13, h14, h15⟩,
    ⟨hplan, hcal⟩, hrole, htmp, hpend⟩ := ht
  have etb : u.tb = s.tb := by rw [hu]
  have eglb : u.glb = s.glb := by rw [hu]
  have eplan : u.plan = s.plan := by rw [hu]
  have ecal : u.cal = s.cal := by rw [hu]
  have erole : u.role = s.role := by rw [hu]
  have etmp : u.tmp = s.tmp := by rw [hu]
  have epend : u.pending = s.pending := by rw [hu]
  rw [etb] at htb hle
  rw [eglb] at hhalf
  rw [eplan] at hplan
  rw [ecal] at hcal
  rw [erole] at hrole
  rw [etmp] at htmp
  rw [epend] at hpend
  refine ⟨hon, hpg, htb, hlock, hlink, hhalf, h1, h2, h3, h4, h5, h6, h7, h8, h9, h10, h11, h12, h13, h14, h15, hplan, hcal, ?_, ?_, ?_, fun p => ?_,
    ?_, ?_, ?_, hA, hB, he.trans hepochs, hvalid, hlw.trans hw, hle, hlr.trans hrec, hls.trans hsrc, hpend⟩
  · rw [hrole]
  · rw [hrole]
  · rw [hrole]
  · unfold State.getRolePort
    rw [hrole]
    rfl
  · rw [htmp]
    rfl
  · rw [htmp]
    rfl
  · rw [htmp]
    rfl

theorem exec_mainStop (hon : s.pwr.mainOn = true) (hwarn : s.inWarning = true) (hclk : bit s.glb.lost islPower = false)
    (htime : s.pwr.w + 2304 ≤ s.tb.idx) : exec .mainStop s = .next (stopMain (copyTail s)) := by
  have hexec : exec .mainStop s = execMainStop s := rfl
  have hidle : (!s.pwrIdle) = true := by
    unfold State.pwrIdle
    rw [hclk]
    rfl
  rw [hexec, execMainStop, if_pos ⟨.inl hon, hwarn, hidle, htime⟩]

theorem exec_vholdShutdown (torn : Fin 3) (hon : s.pwr.mainOn = true) (hwarn : s.inWarning = true) :
    exec (.vholdShutdown torn) s = .next (stopMain (noCopyYet (tearRecord torn s))) := by
  have hexec : exec (.vholdShutdown torn) s = execVholdShutdown s torn := rfl
  rw [hexec, execVholdShutdown, if_pos ⟨.inl hon, hwarn⟩]

/-! ## FULL_RESET (R426, R459) -/

/-- What lies before the alarm counted, and every session ended. -/
def resetReady (s : State) : State := sessionsDrained (countArrived s)

/-- The record of a FULL_RESET at index `a`, of the state in which it takes place. -/
def resetRecord (a : Nat) (u : State) : SaveRec :=
  u.saveRec (u.pwr.warnSeq.getD (seqPlus u.pwr.topSeq 1)) a (some a) (u.pulse.inp.map (fun e => (e.1, e.2.upTo a)))

theorem resetRecord_fields (a : Nat) (u : State) :
    (resetRecord a u).seq = u.warnNo ∧ (resetRecord a u).idx = a ∧ (resetRecord a u).warning = true := ⟨rfl, rfl, rfl⟩

theorem exec_fullReset {a : Nat} (okA okB : Bool) (hat : s.pwr.resetAt = some a) (hon : s.pwr.mainOn = true) (hwarn : s.inWarning = false)
    (hclk : bit s.glb.lost islPower = false) (hunits : ∀ u, u < 9 → (s.getUnit u).replay = none) (htime : max a s.tally.replayAt + 512 ≤ s.tb.idx) :
    exec (.fullReset okA okB) s = .next (writeBoth okA okB (resetRecord a (resetReady s)) (resetMain a) (resetReady s)) := by
  have hcur : s.unitsCurrent = true := List.all_eq_true.2 (fun u hu => by rw [hunits u (List.mem_range.1 hu)]; rfl)
  have hidle : (!s.pwrIdle) = true := by
    unfold State.pwrIdle
    rw [hclk]
    rfl
  have hexec : exec (.fullReset okA okB) s = execFullReset s okA okB := rfl
  rw [hexec, execFullReset, hat]
  dsimp only
  rw [if_pos ⟨hon, by rw [hwarn]; rfl, hidle, hcur, htime⟩]
  unfold resetRecord resetReady sessionsDrained
  rfl

/-- What a state in which a FULL_RESET takes place has of the state before. -/
theorem resetReady_eq (s : State) : resetReady s = { s with
    tally := (resetReady s).tally
    role := { s.role with port := (resetReady s).role.port, audit := (resetReady s).role.audit }
    host := (resetReady s).host, gal := (resetReady s).gal, log := (resetReady s).log } := by
  obtain ⟨hu, _⟩ := countArrived_only s
  unfold resetReady
  generalize countArrived s = u at hu ⊢
  have hd := sessionsDrained_only u
  generalize sessionsDrained u = t at hd ⊢
  rw [hd, hu]

theorem resetReady_g3Kept (h : s.g3Kept) : (resetReady s).g3Kept := by
  obtain ⟨hu, _⟩ := countArrived_only s
  refine sessionsDrained_g3Kept (g3Kept_congr ?_ h)
  rw [hu]

theorem galClear_each_getGal (l : List Nat) (s : State) : (∀ g, g ∈ l → ((each l (fun s g => galClear g s) s).getGal g).power = .clearing ∧
    ((each l (fun s g => galClear g s) s).getGal g).mem = []) ∧
    (∀ g, g ∉ l → (each l (fun s g => galClear g s) s).getGal g = s.getGal g) := by
  refine ⟨fun g hg => ?_, fun g hg => ?_⟩
  · refine each_establishes (P := fun t => (t.getGal g).power = .clearing ∧ (t.getGal g).mem = []) (f := fun s g => galClear g s)
      (fun t k ht => ?_) (fun t => ?_) hg s
    · by_cases h : g = k
      · rw [h]
        unfold galClear
        rw [State.getGal_modGal]
        exact ⟨rfl, rfl⟩
      · unfold galClear
        rw [State.getGal_modGal_ne _ _ _ _ h]
        exact ht
    · unfold galClear
      rw [State.getGal_modGal]
      exact ⟨rfl, rfl⟩
  · refine each_view (inv := fun _ => True) (f := fun s g => galClear g s) (fun t => t.getGal g) (fun _ _ h => h) (fun t k hk _ => ?_) trivial
    exact State.getGal_modGal_ne _ _ _ _ (fun h => hg (h ▸ hk))

/-- What is reset by a FULL_RESET, and what stays. -/
structure FullyReset (s t : State) : Prop where
  pwr : t.pwr.copyA = s.pwr.copyA ∧ t.pwr.copyB = s.pwr.copyB ∧ t.pwr.mainOn = false ∧ t.pwr.resetting = true ∧ t.pwr.resetAt = none
  tb : t.tb = s.tb
  glb : t.glb.lock = 0 ∧ t.glb.linkLock = 0
  reset : t.port = [] ∧ t.ring = [] ∧ t.head = [] ∧ t.stair = {} ∧ t.pulse = {} ∧ t.spec = {} ∧ t.ev = {} ∧ t.red = {} ∧ t.host = {}
  stores : t.plan = { flash := s.plan.flash } ∧ t.cal = { store := s.cal.store }
  role : t.role = { otp := s.role.otp, makers := s.role.makers, sealed := s.role.sealed }
  gal : (∀ g, g < 8 → g ≠ 3 → (t.getGal g).power = .clearing ∧ (t.getGal g).mem = []) ∧ (s.g3Kept → t.g3Kept)
  tmp : t.tmp.otpCount = s.tmp.otpCount
  pending : t.pending = s.pending

theorem resetMain_fullyReset (a : Nat) (s : State) : FullyReset s (resetMain a s) := by
  unfold resetMain
  extract_lets _ _ _ n
  have hn : n.getGal 3 = (s.getGal 3).contents := rfl
  have hother := galClear_each_getGal [0, 1, 2, 4, 5, 6, 7] n
  have honly : each [0, 1, 2, 4, 5, 6, 7] (fun s g => galClear g s) n =
      { n with gal := (each [0, 1, 2, 4, 5, 6, 7] (fun s g => galClear g s) n).gal } :=
    State.eq_onto (m := { gal := true }) (outside_each (f := fun s g => galClear g s) (fun t g => outside_galClear rfl g t) _ n)
  generalize each [0, 1, 2, 4, 5, 6, 7] (fun s g => galClear g s) n = t at hother honly
  obtain ⟨hclear, hkeep⟩ := hother
  have hgal : (∀ g, g < 8 → g ≠ 3 → (t.getGal g).power = .clearing ∧ (t.getGal g).mem = []) ∧ (s.g3Kept → t.g3Kept) := by
    refine ⟨fun g hg h3 => hclear g (by simp only [List.mem_cons, List.not_mem_nil, or_false]; omega), fun h => ?_⟩
    unfold State.g3Kept
    rw [hkeep 3 (by decide), hn]
    exact h
  exact {
    pwr := by rw [honly]; exact ⟨rfl, rfl, rfl, rfl, rfl⟩
    tb := by rw [honly]
    glb := by rw [honly]; exact ⟨rfl, rfl⟩
    reset := by rw [honly]; exact ⟨rfl, rfl, rfl, rfl, rfl, rfl, rfl, rfl, rfl⟩
    stores := by rw [honly]; exact ⟨rfl, rfl⟩
    role := by rw [honly]
    gal := hgal
    tmp := by rw [honly]; rfl
    pending := by rw [honly] }

theorem fullReset_answers {a : Nat} (hat : s.pwr.resetAt = some a) (hon : s.pwr.mainOn = true) (hwarn : s.inWarning = false)
    (hsingle : s.pwr.single = false) (hclk : bit s.glb.lost islPower = false) (hunits : ∀ u, u < 9 → (s.getUnit u).replay = none)
    (htime : max a s.tally.replayAt + 512 ≤ s.tb.idx) :
    (∀ okB, ∃ t, exec (.fullReset false okB) s = .next t ∧ t.pwr.copyA = none ∧ t.pwr.warnSeq = some s.warnNo ∧ t.pwr.mainOn = true ∧
      t.pwr.resetAt = some a ∧ t.pwr.saveFail = true ∧ Logged (ent .saveFail s.now 0 [] s) t) ∧
    ∃ t r, exec (.fullReset true true) s = .next t ∧ r.idx = a ∧ r.warning = true ∧ r.seq = s.warnNo ∧
      FullyReset { s with pwr := s.pwr.written r } t := by
  have hexec := fun okA okB => exec_fullReset okA okB hat hon hwarn hclk hunits htime
  have hready := resetReady_eq s
  have hkept := resetReady_g3Kept (s := s)
  have hrec := resetRecord_fields a (resetReady s)
  generalize resetReady s = u at *
  generalize resetRecord a u = r at *
  obtain ⟨hseq, hidx, hw⟩ := hrec
  have hpwr : u.pwr = s.pwr := by rw [hready]
  have hno : u.warnNo = s.warnNo := by
    unfold State.warnNo
    rw [hpwr]
  rw [hno] at hseq
  refine ⟨fun okB => ?_, ?_⟩
  · rw [hexec, writeBoth_not]
    obtain ⟨hlog, hlast⟩ := saveFailed_answers 0 { u with pwr := u.pwr.notWritten r }
    have hent : ent .saveFail ({ u with pwr := u.pwr.notWritten r } : State).now 0 [] { u with pwr := u.pwr.notWritten r } = ent .saveFail s.now 0 [] s := by
      rw [hready]
      rfl
    rw [hent] at hlog
    generalize saveFailed 0 { u with pwr := u.pwr.notWritten r } = t at *
    refine ⟨t, rfl, ?_, ?_, ?_, ?_, ?_, hlog⟩
    · rw [hlast]; rfl
    · rw [hlast, ← hseq]; rfl
    · rw [hlast, hpwr]; exact hon
    · rw [hlast, hpwr]; exact hat
    · rw [hlast]
  · rw [hexec, writeBoth_done (by rw [hpwr]; exact hsingle)]
    have h := resetMain_fullyReset a { u with pwr := u.pwr.written r }
    generalize resetMain a { u with pwr := u.pwr.written r } = t at h
    obtain ⟨h1, h2, h3, h4, h5, h6, ⟨hgal, hg3⟩, h8, h9⟩ := h
    have hg3' : State.g3Kept { s with pwr := s.pwr.written r } → t.g3Kept := fun hs => hg3 (hkept hs)
    rw [hready] at h2 h5 h6 h8 h9
    exact ⟨t, r, rfl, hidx, hw, hseq, h1, h2, h3, h4, h5, h6, ⟨hgal, hg3'⟩, h8, h9⟩

/-- Settles O10, by how the main domain ends. -/
theorem mainDomainStopsOrIsReset : Obligations.MainDomainStopsOrIsReset := by
  refine ⟨fun c s hon hwarn hc => ?_, fun a s hat hon hwarn hsingle hclk hunits htime => ?_⟩
  · obtain ⟨u, hexec, hu, hsame, htorn⟩ : ∃ u, exec c s = .next (stopMain u) ∧ LastWrites s u ∧
        (c = .mainStop ∨ c = .vholdShutdown 0 ∨ s.freezeDue = false → u.pwr.copyA = s.pwr.copyA ∧ u.pwr.copyB = s.pwr.copyB) ∧
        (s.freezeDue = true → s.pwr.single = false → (c = .vholdShutdown 1 → u.pwr.copyA = none ∧ u.pwr.copyB = s.pwr.copyB) ∧
          (c = .vholdShutdown 2 → u.pwr.copyB = none ∧ ∃ r, u.pwr.copyA = some r ∧ r.idx = s.pwr.w ∧ r.warning = true)) := by
      rcases hc with ⟨torn, rfl⟩ | ⟨rfl, hclk, htime⟩
      · obtain ⟨hw, hsame, htorn⟩ := tearRecord_answers torn s
        obtain ⟨hw', hA, hB⟩ := noCopyYet_lastWrites (tearRecord torn s)
        refine ⟨_, exec_vholdShutdown torn hon hwarn, hw.trans hw', fun h => ?_, fun hdue hsingle => ⟨fun h => ?_, fun h => ?_⟩⟩
        · have h0 : torn.val = 0 ∨ s.freezeDue = false := by
            rcases h with h | h | h
            · cases h
            · cases h
              exact .inl rfl
            · exact .inr h
          obtain ⟨ha, hb⟩ := hsame h0
          exact ⟨hA.trans ha, hB.trans hb⟩
        · cases h
          obtain ⟨ha, hb⟩ := (htorn hdue hsingle).1 rfl
          exact ⟨hA.trans ha, hB.trans hb⟩
        · cases h
          obtain ⟨hb, r, ha, hr⟩ := (htorn hdue hsingle).2 rfl
          exact ⟨hB.trans hb, r, hA.trans ha, hr⟩
      · obtain ⟨hw, hA, hB⟩ := copyTail_lastWrites s
        exact ⟨_, exec_mainStop hon hwarn hclk htime, hw, fun _ => ⟨hA, hB⟩, fun _ _ => ⟨nofun, nofun⟩⟩
    obtain ⟨h1, h2, h3, h4, h5, h6, h7, h8, h9, h10, h11, h12, h13, h14, h15, h16, h17, h18, h19, h20, h21, h22, h23, h24, h25, h26, h27, h28, h29, h30,
      hA, hB, hrest⟩ := (stopMain_stopped u).of_lastWrites hu
    refine ⟨stopMain u, hexec, h1, h2, h3, h4, h5, h6, h7, h8, h9, h10, h11, h12, h13, h14, h15, h16, h17, h18, h19, h20, h21, h22, h23, h24, h25, h26,
      h27, h28, h29, h30, fun h => ?_, fun hdue hsingle => ⟨fun h => ?_, fun h => ?_⟩, hrest⟩
    · obtain ⟨ha, hb⟩ := hsame h
      exact ⟨hA.trans ha, hB.trans hb⟩
    · obtain ⟨ha, hb⟩ := (htorn hdue hsingle).1 h
      exact ⟨hA.trans ha, hB.trans hb⟩
    · obtain ⟨hb, r, ha, hr⟩ := (htorn hdue hsingle).2 h
      exact ⟨hB.trans hb, r, hA.trans ha, hr⟩
  · intro seq
    obtain ⟨hfail, t, r, hexec, hidx, hw, hseq, ⟨hA, hB, hmain, hres, hnone⟩, htb, ⟨hlock, hlink⟩, ⟨h1, h2, h3, h4, h5, h6, h7, h8, h9⟩, ⟨hplan, hcal⟩, hrole,
      ⟨hgal, hg3⟩, htmp, hpend⟩ := fullReset_answers hat hon hwarn hsingle hclk hunits htime
    refine ⟨hfail, t, r, hexec, hA, hB, hidx, hw, hseq, htb, hmain, hres, hnone, hlock, hlink, h1, h2, h3, h4, h5, h6, h7, h8, h9, hplan, hcal,
      ?_, ?_, ?_, fun p => ?_, hgal, hg3, htmp, hpend⟩
    · rw [hrole]
    · rw [hrole]
    · rw [hrole]
    · unfold State.getRolePort
      rw [hrole]
      rfl

end Sys2Proof.Machine
end

section
-- One proof after another: elaborated side by side they take more memory than the check allows.
set_option Elab.async false
/-! PROOF. The reception of frames (O12). -/

namespace Sys2Proof.Machine

open Sys2Proof.Cert

variable {s : State} {k arr ce : Nat} {cs : List Chr} {h : FrameHdr}

/-! ## A copy kept (R90) -/

/-- The copies of a ring with a frame of port `k` kept. -/
def Ring.kept (k frame arr : Nat) (slots : List (Grade × List Byte)) (rg : Ring) : Ring :=
  { rg with copies := rg.copies ++ [{ frame := frame, east := k % 2 == 1, arrival := arr, looped := false, slots := slots }] }

theorem keepCopy_only (k frame arr : Nat) (slots : List (Grade × List Byte)) (s : State) :
    keepCopy k frame arr false slots s = s ∨ keepCopy k frame arr false slots s = s.modRing (k / 2) (Ring.kept k frame arr slots) := by
  unfold keepCopy
  extract_lets r rg runs from_
  by_cases h : (runs && rg.runFrame.isSome && decide (frame ≥ from_) && decide (frame ≥ rg.k + rg.nextRel)) = true
  · exact .inr (if_pos h)
  · exact .inl (if_neg h)

theorem keepCopy_kept {frame f : Nat} {slots : List (Grade × List Byte)} (hrun : (s.getRing (k / 2)).st = .run)
    (hf : (s.getRing (k / 2)).runFrame = some f) (hfrom : f ≤ frame) (hrel : (s.getRing (k / 2)).k + (s.getRing (k / 2)).nextRel ≤ frame) :
    keepCopy k frame arr false slots s = s.modRing (k / 2) (Ring.kept k frame arr slots) := by
  unfold keepCopy
  extract_lets r rg runs from_
  have hr : runs = true := by
    unfold runs rg r
    rw [hrun]
  have hfr : from_ = f := by
    unfold from_ rg r
    rw [hf]
    rfl
  have hsome : rg.runFrame.isSome = true := by
    unfold rg r
    rw [hf]
    rfl
  exact if_pos (by rw [hr, hsome, hfr, decide_eq_true (show frame ≥ f from hfrom), decide_eq_true (show frame ≥ rg.k + rg.nextRel from hrel)]; rfl)

/-! ## Frames in FRAME_LOCK (R79) -/

/-- A port with the counts of a frame that keeps the phase. -/
def Port.counted (arr : Nat) (h : FrameHdr) (slots : List (Grade × List Byte)) (p : Port) : Port :=
  { p with
    lastArr := some arr, slotFail := satAdd 0xFFFF p.slotFail (slotFails slots)
    fcsCtlFail := if h.ctlOk then p.fcsCtlFail else satAdd 0xFF p.fcsCtlFail 1
    fcsSlotFail := if h.slotOk then p.fcsSlotFail else satAdd 0xFF p.fcsSlotFail 1 }

/-- A port after a good frame that is not turned. -/
def Port.goodFramed (arr : Nat) (h : FrameHdr) (p : Port) : Port :=
  addArrival arr { p.newPath false with
    badRun := 0, loopedRx := false, lastLooped := false, lastWrapPos := h.wrapPos, hop := h.hop, overfullRx := h.overfull, restoreAt := none }

theorem goodFrame_straight (hl : h.looped = false) : goodFrame k arr h s = s.modPort k (Port.goodFramed arr h) := by
  unfold goodFrame Port.goodFramed
  rw [hl]
  rfl

theorem addArrival_eq (a : Nat) (p : Port) :
    addArrival a p = { p with arrMean := (addArrival a p).arrMean, arrSum := (addArrival a p).arrSum, arrCnt := (addArrival a p).arrCnt } := by
  unfold addArrival
  split <;> rfl

theorem Port.newPath_eq (l : Bool) (p : Port) :
    p.newPath l = { p with arrMean := (p.newPath l).arrMean, arrSum := (p.newPath l).arrSum, arrCnt := (p.newPath l).arrCnt } := by
  unfold Port.newPath
  split <;> rfl

theorem Port.goodFramed_fields (arr : Nat) (h : FrameHdr) (p : Port) : (p.goodFramed arr h).rx = p.rx ∧ (p.goodFramed arr h).badRun = 0 ∧
    (p.goodFramed arr h).expIdx = p.expIdx ∧ (p.goodFramed arr h).frameErr = p.frameErr ∧ (p.goodFramed arr h).hop = h.hop := by
  unfold Port.goodFramed
  rw [addArrival_eq, Port.newPath_eq]
  exact ⟨rfl, rfl, rfl, rfl, rfl⟩

theorem lockedFrame_good (hsame : samePhase (s.getPort k) arr = true) (hctl : h.ctlOk = true) (hrid : h.rid = k / 2)
    (hidx : h.idx = (s.getPort k).expIdx % 2 ^ 48) (hl : h.looped = false) (hb : h.backfill = false) :
    let slots := frameSlots (s.getPort k).expIdx h.slotOk cs
    lockedFrame k arr h cs s = (keepCopy k (s.getPort k).expIdx arr false slots (s.modPort k (fun p =>
      { (p.counted arr h slots).goodFramed arr h with expIdx := ((p.counted arr h slots).goodFramed arr h).expIdx + 1 }))).modRing (k / 2)
        (fun rg => { rg with bfArriving := false }) := by
  intro slots
  have hidx' : (h.idx == (s.getPort k).expIdx % 2 ^ 48) = true := by rw [hidx]; exact beq_self_eq_true _
  have hrid' : (h.rid == k / 2) = true := by rw [hrid]; exact beq_self_eq_true _
  unfold lockedFrame
  extract_lets p r ridOk idxOk content same jump u frame sl v w x y z
  have hcontent : content = true := by
    unfold content idxOk ridOk
    rw [hctl, hidx', hrid']
    rfl
  have hj : jump = false := by
    unfold jump same p
    rw [hsame]
    rfl
  have hu : u = s := by
    unfold u ridOk
    rw [hctl, hrid']
    rfl
  have hv : v = s.modPort k (Port.counted arr h slots) := by
    unfold v
    rw [hj, hu]
    rfl
  have hw : w = v.modPort k (Port.goodFramed arr h) := by
    unfold w
    rw [hcontent, if_pos rfl, goodFrame_straight hl]
  have hx : x = w.modPort k (fun p => { p with expIdx := p.expIdx + 1 }) := by
    unfold x
    rw [hcontent, if_pos rfl]
  have hy : y = keepCopy k frame arr false sl x := by
    unfold y ridOk
    rw [hctl, hrid', hl, if_neg (by decide)]
  have hz : z = y := by
    unfold z
    rw [hb, if_neg (by simp)]
  have hport : x = s.modPort k (fun p => { (p.counted arr h slots).goodFramed arr h with expIdx := ((p.counted arr h slots).goodFramed arr h).expIdx + 1 }) := by
    rw [hx, hw, hv, State.modPort_modPort, State.modPort_modPort]
  have hsame' : (same || jump) = true := by
    unfold same p
    rw [hsame]
    rfl
  rw [if_pos hsame', hz, hy, hport, hcontent, hb]
  rfl

theorem lockedFrame_bad (hsame : samePhase (s.getPort k) arr = true) (hctl : h.ctlOk = false) (hbad : (s.getPort k).badRun < 3) :
    let slots := frameSlots (s.getPort k).expIdx h.slotOk cs
    lockedFrame k arr h cs s = keepCopy k (s.getPort k).expIdx arr h.looped slots (s.modPort k (fun p => (p.counted arr h slots).badFrame)) := by
  intro slots
  unfold lockedFrame
  extract_lets p r ridOk idxOk content same jump u frame sl v w x y z
  have hcontent : content = false := by
    unfold content
    rw [hctl]
    rfl
  have hj : jump = false := by
    unfold jump same p
    rw [hsame]
    rfl
  have hu : u = s := by
    unfold u
    rw [hctl]
    rfl
  have hv : v = s.modPort k (Port.counted arr h slots) := by
    unfold v
    rw [hj, hu]
    rfl
  have hw : w = s.modPort k (fun p => (p.counted arr h slots).badFrame) := by
    have hrun : ¬ 4 ≤ (v.getPort k).badRun + 1 := by
      rw [hv, State.getPort_modPort]
      exact Nat.not_le.2 (Nat.succ_lt_succ hbad)
    unfold w
    rw [hcontent, if_neg (by decide), badPeriod_eq, if_neg hrun, hv, State.modPort_modPort]
  have hx : x = w := by
    unfold x
    rw [hcontent, if_neg (by decide)]
  have hy : y = keepCopy k frame arr h.looped sl x := by
    unfold y
    rw [hctl, Bool.false_and, if_neg (by decide)]
  have hz : z = y := by
    unfold z
    rw [hcontent, if_neg (by simp)]
  have hsame' : (same || jump) = true := by
    unfold same p
    rw [hsame]
    rfl
  rw [if_pos hsame', hz, hy, hx, hw, hcontent]
  rfl

theorem keepCopy_frame (k frame arr : Nat) (looped : Bool) (slots : List (Grade × List Byte)) (s : State) :
    keepCopy k frame arr looped slots s = { s with ring := (keepCopy k frame arr looped slots s).ring } := by
  unfold keepCopy
  extract_lets r rg runs from_
  split <;> rfl

/-! ## Frames in CHAR_ALIGN (R78) -/

/-- A port with the counts of its fourth good frame. -/
def Port.aligned (arr : Nat) (h : FrameHdr) (p : Port) : Port :=
  { p with
    goodRun := 4, expIdx := h.idx + 1, lastArr := some arr, fcsCtlFail := if h.ctlOk then p.fcsCtlFail else satAdd 0xFF p.fcsCtlFail 1
    fcsSlotFail := if h.slotOk then p.fcsSlotFail else satAdd 0xFF p.fcsSlotFail 1
    rx := .frameLock, badRun := 0, lastLooped := false, lastWrapPos := 255 }

theorem alignFrame_locks (hgood : (s.getPort k).goodRun = 3) (hctl : h.ctlOk = true) (hrid : h.rid = k / 2) (hl : h.looped = false)
    (hdir : h.dir = (if k % 2 = 0 then kWest else kEast)) (hidx : h.idx = (s.getPort k).expIdx % 2 ^ 48) :
    alignFrame k arr h s = s.modPort k (fun p => (p.aligned arr h).goodFramed arr h) := by
  unfold alignFrame
  extract_lets p r want good next u run v
  have hwant : want = if k % 2 = 0 then kWest else kEast := by
    unfold want
    rw [hl]
    by_cases hk : k % 2 = 0
    · rw [if_pos hk, if_pos (by rw [hk]; decide)]
    · rw [if_neg hk, if_neg (by simpa using hk)]
  have hg : good = true := by
    unfold good r
    rw [hctl, hrid, hwant, hdir, beq_self_eq_true, beq_self_eq_true]
    rfl
  have hn : next = true := by
    unfold next p
    rw [hidx, beq_self_eq_true, Bool.or_true]
  have hu : u = s := by
    unfold u r
    rw [hctl, hrid, bne_self_eq_false]
    rfl
  have hrun : run = 4 := by
    unfold run
    rw [hg, hn, if_pos rfl, if_pos rfl]
    exact congrArg (· + 1) hgood
  rw [if_pos (show run ≥ 4 by omega), goodFrame_straight hl]
  unfold v
  rw [hrun, hu, State.modPort_modPort, State.modPort_modPort]
  rfl

/-! ## FRAME_RECEIVE -/

/-- A port with the coding errors of a frame. -/
def Port.coded (ce : Nat) (p : Port) : Port := { p with codeErr := satAdd 0xFFFF p.codeErr ce }

/-- What a frame with a comma does, by the state of the receiver (R78, R79). -/
def frameHeard (k arr : Nat) (h : FrameHdr) (cs : List Chr) (s : State) : State :=
  match (s.getPort k).rx with
  | .down | .signal => s
  | .bitLock =>
    let run := if (s.getPort k).commaRun = 0 || samePhase (s.getPort k) arr then (s.getPort k).commaRun + 1 else 1
    s.modPort k (fun p => { p with commaRun := run, lastArr := some arr, rx := if run ≥ 3 then .charAlign else .bitLock, goodRun := 0 })
  | .charAlign => alignFrame k arr h s
  | .frameLock => lockedFrame k arr h cs s

theorem exec_frameReceive {k : Fin 64} (hserves : PortServes s k) (hcomma : (frameHdr cs).comma = true) :
    exec (.frameReceive k arr ce cs) s = .next (frameHeard k arr (frameHdr cs) cs (s.modPort k (Port.coded ce))) := by
  have hexec : exec (.frameReceive k arr ce cs) s = execFrameReceive k arr ce cs s := rfl
  obtain ⟨_, hlive, hoff⟩ := id hserves
  rw [hexec, execFrameReceive, onLink_serves hserves, receiveFrame, hlive, hoff, if_neg (by decide)]
  dsimp only
  rw [hcomma, if_neg (by decide)]
  rfl

/-- R78: the third comma at the frame spacing. -/
theorem frameHeard_bitLock (hrx : (s.getPort k).rx = .bitLock) (hrun : (s.getPort k).commaRun = 2) (hsame : samePhase (s.getPort k) arr = true) :
    frameHeard k arr h cs s = s.modPort k (fun p => { p with commaRun := 3, lastArr := some arr, rx := .charAlign, goodRun := 0 }) := by
  unfold frameHeard
  rw [hrx]
  dsimp only
  rw [hrun, hsame]
  rfl

/-- What keeping a copy leaves: the ports, and the other rings. -/
theorem keepCopy_keeps (k frame arr : Nat) (slots : List (Grade × List Byte)) (s : State) :
    (∀ j, (keepCopy k frame arr false slots s).getPort j = s.getPort j) ∧
    (∀ q, q ≠ k / 2 → (keepCopy k frame arr false slots s).getRing q = s.getRing q) := by
  rcases keepCopy_only k frame arr slots s with h | h
  · rw [h]
    exact ⟨fun _ => rfl, fun _ _ => rfl⟩
  · rw [h]
    exact ⟨fun _ => rfl, fun q hq => State.getRing_modRing_ne _ _ _ _ hq⟩

/-- R79, R90: a good frame in FRAME_LOCK. -/
theorem lockedFrame_good_does (hsame : samePhase (s.getPort k) arr = true) (hctl : h.ctlOk = true) (hrid : h.rid = k / 2)
    (hidx : h.idx = (s.getPort k).expIdx % 2 ^ 48) (hl : h.looped = false) (hb : h.backfill = false) :
    let t := lockedFrame k arr h cs s
    (t.getPort k).rx = (s.getPort k).rx ∧ (t.getPort k).badRun = 0 ∧ (t.getPort k).expIdx = (s.getPort k).expIdx + 1 ∧
    (t.getPort k).frameErr = (s.getPort k).frameErr ∧ (t.getPort k).hop = h.hop ∧ (∀ j, j ≠ k → t.getPort j = s.getPort j) ∧
    (∀ f, (s.getRing (k / 2)).st = .run → (s.getRing (k / 2)).runFrame = some f → f ≤ (s.getPort k).expIdx →
      (s.getRing (k / 2)).k + (s.getRing (k / 2)).nextRel ≤ (s.getPort k).expIdx →
      (t.getRing (k / 2)).copies = (s.getRing (k / 2)).copies ++ [{
        frame := (s.getPort k).expIdx, east := decide (k % 2 = 1), arrival := arr, looped := false,
        slots := frameSlots (s.getPort k).expIdx h.slotOk cs }]) ∧
    (∀ q, q ≠ k / 2 → t.getRing q = s.getRing q) ∧ t = { s with port := t.port, ring := t.ring } := by
  have hlocked := lockedFrame_good (cs := cs) hsame hctl hrid hidx hl hb
  dsimp only at hlocked ⊢
  rw [hlocked]
  generalize hs : frameSlots (s.getPort k).expIdx h.slotOk cs = slots
  obtain ⟨hrx, hbad, hexp, herr, hhop⟩ := Port.goodFramed_fields arr h ((s.getPort k).counted arr h slots)
  generalize hg : (fun p : Port => { (p.counted arr h slots).goodFramed arr h with expIdx := ((p.counted arr h slots).goodFramed arr h).expIdx + 1 }) = g
  have hself := State.getPort_modPort s k g
  have hothers := fun j (hj : j ≠ k) => State.getPort_modPort_ne s k j g hj
  have hrings : ∀ q, (s.modPort k g).getRing q = s.getRing q := fun _ => rfl
  have hv : s.modPort k g = { s with port := (s.modPort k g).port } := rfl
  generalize s.modPort k g = v at *
  have honly := keepCopy_frame k (s.getPort k).expIdx arr false slots v
  obtain ⟨hports, hring⟩ := keepCopy_keeps k (s.getPort k).expIdx arr slots v
  have hport : (((keepCopy k (s.getPort k).expIdx arr false slots v).modRing (k / 2) (fun rg => { rg with bfArriving := false })).getPort k) =
      g (s.getPort k) := (hports k).trans hself
  refine ⟨?_, ?_, ?_, ?_, ?_, fun j hj => (hports j).trans (hothers j hj), fun f hst hf hfrom hrel => ?_, fun q hq => ?_, ?_⟩
  · rw [hport, ← hg]
    exact hrx
  · rw [hport, ← hg]
    exact hbad
  · rw [hport, ← hg]
    exact congrArg (· + 1) hexp
  · rw [hport, ← hg]
    exact herr
  · rw [hport, ← hg]
    exact hhop
  · rw [keepCopy_kept (s := v) (by rw [hrings]; exact hst) (by rw [hrings]; exact hf) hfrom (by rw [hrings]; exact hrel),
      State.getRing_modRing, State.getRing_modRing, hrings]
    rfl
  · rw [State.getRing_modRing_ne _ _ _ _ hq, hring q hq, hrings]
  · generalize keepCopy k (s.getPort k).expIdx arr false slots v = w at honly
    rw [honly, hv]
    rfl

/-- R79: a frame in FRAME_LOCK whose FCS_CTL fails. -/
theorem lockedFrame_bad_does (hsame : samePhase (s.getPort k) arr = true) (hctl : h.ctlOk = false) (hbad : (s.getPort k).badRun < 3) :
    let t := lockedFrame k arr h cs s
    (t.getPort k).rx = (s.getPort k).rx ∧ (t.getPort k).badRun = (s.getPort k).badRun + 1 ∧ (t.getPort k).expIdx = (s.getPort k).expIdx + 1 ∧
    (t.getPort k).fcsCtlFail = min 0xFF ((s.getPort k).fcsCtlFail + 1) ∧ (t.getPort k).frameErr = min 0xFFFF ((s.getPort k).frameErr + 1) ∧
    (∀ j, j ≠ k → t.getPort j = s.getPort j) ∧ t = { s with port := t.port, ring := t.ring } := by
  have hlocked := lockedFrame_bad (cs := cs) hsame hctl hbad
  dsimp only at hlocked ⊢
  rw [hlocked]
  generalize frameSlots (s.getPort k).expIdx h.slotOk cs = slots
  generalize hg : (fun p : Port => (p.counted arr h slots).badFrame) = g
  have hself := State.getPort_modPort s k g
  have hothers := fun j (hj : j ≠ k) => State.getPort_modPort_ne s k j g hj
  have hv : s.modPort k g = { s with port := (s.modPort k g).port } := rfl
  generalize s.modPort k g = v at *
  have honly := keepCopy_frame k (s.getPort k).expIdx arr h.looped slots v
  generalize keepCopy k (s.getPort k).expIdx arr h.looped slots v = t at honly
  have hports : ∀ j, t.getPort j = v.getPort j := fun j => by
    rw [honly]
    rfl
  have hport : t.getPort k = ((s.getPort k).counted arr h slots).badFrame := by
    rw [hports, hself, ← hg]
  refine ⟨?_, ?_, ?_, ?_, ?_, fun j hj => (hports j).trans (hothers j hj), ?_⟩
  · rw [hport]
    rfl
  · rw [hport]
    rfl
  · rw [hport]
    rfl
  · rw [hport]
    unfold Port.badFrame Port.counted
    rw [hctl]
    rfl
  · rw [hport]
    rfl
  · rw [honly, hv]

/-- Settles O12, by the state of the receiver. -/
theorem frameReceptionAndLock : Obligations.FrameReceptionAndLock := by
  refine ⟨fun k arr ce cs s hup hlive => ?_, fun k arr ce cs s hserves hcomma => ?_⟩
  · have hexec : exec (.frameReceive k arr ce cs) s = execFrameReceive k arr ce cs s := rfl
    have hlink : ∀ f : State → State, onLink (k / 2) s f = .next (f s) := fun f => congrArg Host.Outcome.next (if_pos hup)
    rw [hexec, execFrameReceive, hlink, receiveFrame, hlive, if_pos (by rfl)]
  rw [exec_frameReceive hserves hcomma]
  have hself := State.getPort_modPort s k (Port.coded ce)
  have hothers := fun j (hj : j ≠ k.val) => State.getPort_modPort_ne s k j (Port.coded ce) hj
  have hrings : ∀ r, (s.modPort k (Port.coded ce)).getRing r = s.getRing r := fun _ => rfl
  have hframe : s.modPort k (Port.coded ce) = { s with port := (s.modPort k (Port.coded ce)).port } := rfl
  have hcoded : ∀ g : Port → Port, (s.modPort k (Port.coded ce)).modPort k g = s.modPort k (fun p => g (p.coded ce)) := fun g =>
    State.modPort_modPort s k _ g
  generalize hu : s.modPort k (Port.coded ce) = u at hself hothers hrings hframe hcoded
  generalize frameHdr cs = h at *
  refine ⟨fun hrx hrun hsame => ?_, fun hrx hrun hctl hrid hl hdir hidx => ?_, fun hrx hsame hctl hrid hidx hl hb => ?_, fun hrx hsame hctl hbad => ?_⟩
  · have hheard := frameHeard_bitLock (s := u) (h := h) (cs := cs) (by rw [hself]; exact hrx) (by rw [hself]; exact hrun) (by rw [hself]; exact hsame)
    rw [hheard, hcoded]
    exact ⟨_, rfl, portBecomes_modPort _ _ _⟩
  · have hheard : frameHeard k arr h cs u = alignFrame k arr h u := by
      unfold frameHeard
      rw [hself]
      unfold Port.coded
      rw [hrx]
    have halign := alignFrame_locks (s := u) (h := h) (k := k) (arr := arr) (by rw [hself]; exact hrun) hctl hrid hl hdir (by rw [hself]; exact hidx)
    rw [hheard, halign, hcoded]
    obtain ⟨hrx', _, hexp, _, _⟩ := Port.goodFramed_fields arr h (((s.getPort k).coded ce).aligned arr h)
    refine ⟨_, rfl, ?_, ?_, fun j hj => State.getPort_modPort_ne _ _ _ _ hj, rfl⟩
    · rw [State.getPort_modPort, hrx']
      rfl
    · rw [State.getPort_modPort, hexp]
      rfl
  · have hheard : frameHeard k arr h cs u = lockedFrame k arr h cs u := by
      unfold frameHeard
      rw [hself]
      unfold Port.coded
      rw [hrx]
    obtain ⟨hrx', hbad, hexp, herr, hhop, hports, hcopies, hother, honly⟩ := lockedFrame_good_does (s := u) (cs := cs)
      (by rw [hself]; exact hsame) hctl hrid (by rw [hself]; exact hidx) hl hb
    rw [hheard]
    generalize lockedFrame k arr h cs u = t at *
    have hexpIdx : (u.getPort k).expIdx = (s.getPort k).expIdx := by
      rw [hself]
      rfl
    rw [hself] at hrx' herr
    rw [hexpIdx] at hexp hcopies
    rw [hrings] at hcopies
    refine ⟨t, rfl, hrx'.trans hrx, hbad, hexp, herr, hhop, fun j hj => (hports j hj).trans (hothers j hj), hcopies,
      fun q hq => (hother q hq).trans (hrings q), ?_⟩
    rw [honly, hframe]
  · have hheard : frameHeard k arr h cs u = lockedFrame k arr h cs u := by
      unfold frameHeard
      rw [hself]
      unfold Port.coded
      rw [hrx]
    obtain ⟨hrx', hrun, hexp, hctl', herr, hports, honly⟩ := lockedFrame_bad_does (s := u) (cs := cs)
      (by rw [hself]; exact hsame) hctl (by rw [hself]; exact hbad)
    rw [hheard]
    generalize lockedFrame k arr h cs u = t at *
    rw [hself] at hrx' hrun hexp hctl' herr
    refine ⟨t, rfl, hrx'.trans hrx, hrun, hexp, hctl', herr, fun j hj => (hports j hj).trans (hothers j hj), ?_⟩
    rw [honly, hframe]

end Sys2Proof.Machine
end

section
-- One proof after another: elaborated side by side they take more memory than the check allows.
set_option Elab.async false
/-! PROOF. The end of a cycle (O19): the tracker's update, the next cycle but one, and the close of a window. -/

namespace Sys2Proof.Machine

open Sys2Proof.Cert

/-! ## What the end of a cycle may change -/

/-- A state that differs from another in group g and the log only. -/
def GroupOnly (g : Nat) (s t : State) : Prop :=
  t = { s with rs := { s.rs with grp := t.rs.grp }, log := t.log } ∧ ∀ j, j ≠ g → t.getGrp j = s.getGrp j

theorem GroupOnly.trans {g : Nat} {s t u : State} (h : GroupOnly g s t) (h' : GroupOnly g t u) : GroupOnly g s u :=
  ⟨by rw [h'.1, h.1], fun j hj => (h'.2 j hj).trans (h.2 j hj)⟩

theorem groupOnly_modGrp (g : Nat) (f : Grp → Grp) (s : State) : GroupOnly g s (s.modGrp g f) :=
  ⟨rfl, fun _ hj => State.getGrp_modGrp_ne _ _ _ _ hj⟩

theorem groupOnly_whenRaise (g : Nat) (b : Bool) (c : LogCode) (i : Nat) (l : List (Nat × Nat)) (s : State) :
    GroupOnly g s (whenDo b (raise c i l) s) := by
  cases b
  · exact ⟨rfl, fun _ _ => rfl⟩
  · rw [whenDo_true, raise_eq]; exact ⟨rfl, fun _ _ => rfl⟩

theorem getGrp_whenRaise (b : Bool) (c : LogCode) (i : Nat) (l : List (Nat × Nat)) (s : State) (j : Nat) :
    (whenDo b (raise c i l) s).getGrp j = s.getGrp j := by
  cases b
  · rfl
  · rw [whenDo_true, raise_eq]; rfl

theorem tenSec_eq (t0 t1 : Int) (u : Bool) (g : Grp) : tenSec t0 t1 u g =
    { g with bounds := (tenSec t0 t1 u g).bounds, f10 := (tenSec t0 t1 u g).f10, f10Ready := (tenSec t0 t1 u g).f10Ready } := by
  unfold tenSec
  split
  · rfl
  · dsimp only; split <;> rfl

theorem endCycle_only (gi : Nat) (s : State) : GroupOnly gi s (endCycle gi s) := by
  have hrefl : GroupOnly gi s s := ⟨rfl, fun _ _ => rfl⟩
  unfold endCycle
  extract_lets g c
  split
  case h_2 => exact hrefl
  case h_1 p cy c1 _ _ _ =>
    split
    · exact hrefl
    · extract_lets ref o f ranged k f2 unl c2 left entered logRange s₁ s₂ s₃ s₄ s₅ s₆
      have h : GroupOnly gi s s₆ := (((((groupOnly_modGrp gi _ s).trans (groupOnly_modGrp gi _ s₁)).trans (groupOnly_whenRaise gi _ _ _ _ s₂)).trans
        (groupOnly_whenRaise gi _ _ _ _ s₃)).trans (groupOnly_whenRaise gi _ _ _ _ s₄)).trans (groupOnly_whenRaise gi _ _ _ _ s₅)
      split
      · exact h.trans (groupOnly_modGrp gi _ s₆)
      · exact h

/-! ## The group after it (R154, R155, R163) -/

/-- The cycle that the end of a cycle fixes, behind cycle c1, from what the tracker decided. -/
def nextCycle (c1 : Cyc) (o : TrackOut) : Cyc :=
  let f := (clampI freqLo freqHi o.f).toNat
  { p0 := c1.p0 + 512 * c1.step, step := stepOf c1.gm f, f := f
    unlocked := match o.st with | .search | .acquire | .free => true | .off | .locked | .hold => false
    held := o.st == .hold, gn := c1.gn, gm := c1.gm }

section
variable {gi : Nat} {s : State} {p : Plan} {pg : PlanGroup} {cy c1 : Cyc}
  (hp : s.planWin gi ((s.getGrp gi).closed + 1) = some p) (hpg : p.grp? gi = some pg)
  (hcy : (s.getGrp gi).cyc (s.getGrp gi).done = some cy) (hc1 : (s.getGrp gi).cyc ((s.getGrp gi).done + 1) = some c1)
include hp hpg hcy hc1

theorem getGrp_endCycle :
    let g := s.getGrp gi
    let ref := s.findRef gi p pg g.done (presenceOf g.ctrl)
    let o := applyReacq g (track g cy.f c1.f ref)
    let x := (endCycle gi s).getGrp gi
    (x.done = g.done + 1 ∧ x.reacq = false ∧ x.st = o.st ∧ x.ref = (match ref with | none => 3 | some e => e.1) ∧
      x.lockLost = (g.lockLost || (g.st == .locked && o.st != .locked)) ∧
      x.cycles = (tset g.cycles (g.done + 2) (nextCycle c1 o)).filter (fun e => decide (e.1 + 64 > g.done)) ∧
      x.k = g.k ∧ x.wfreq = g.wfreq ∧ x.close = g.close) ∧
    ((g.done + 1) % pg.w = 0 → x.closed = g.winOf pg.w g.done ∧ x.tw = tset g.tw (g.winOf pg.w g.done) (ceilTau (c1.tau 0))) ∧
    ((g.done + 1) % pg.w ≠ 0 → x.closed = g.closed ∧ x.tw = g.tw ∧ x.ctrl = g.ctrl) := by
  intro g ref o x
  unfold x endCycle
  simp only [hp, hcy, hc1, hpg]
  split <;> rename_i hw
  · simp only [State.getGrp_modGrp, getGrp_whenRaise]
    rw [tenSec_eq]
    exact ⟨⟨rfl, rfl, rfl, rfl, rfl, rfl, rfl, rfl, rfl⟩, fun _ => ⟨rfl, rfl⟩, fun h => absurd hw h⟩
  · simp only [State.getGrp_modGrp, getGrp_whenRaise]
    rw [tenSec_eq]
    exact ⟨⟨rfl, rfl, rfl, rfl, rfl, rfl, rfl, rfl, rfl⟩, fun h => absurd h hw, fun _ => ⟨rfl, rfl, rfl⟩⟩

end

theorem cyc_tset (t : Tab Cyc) (c k j : Nat) (x : Cyc) (hj : c < j + 64) (g : Grp)
    (h : g.cycles = (tset t k x).filter (fun e => decide (e.1 + 64 > c))) :
    g.cyc j = if j = k then some x else (t.find? (fun e => e.1 == j)).map (fun e => e.2) := by
  have hfilter : ∀ t : Tab Cyc, (t.filter (fun e => decide (e.1 + 64 > c))).find? (fun e => e.1 == j) = t.find? (fun e => e.1 == j) := by
    intro t
    rw [List.find?_filter]
    congr 1
    funext e
    by_cases he : e.1 = j <;> simp [he]
    omega
  unfold Grp.cyc
  rw [h, hfilter]
  clear h hfilter
  induction t with
  | nil =>
    by_cases hk : k = j
    · subst hk; simp [tset]
    · rw [tset, List.find?_cons_of_neg (by simpa using hk), if_neg (fun h => hk h.symm)]
  | cons e t ih =>
    obtain ⟨i, y⟩ := e
    unfold tset
    by_cases hki : k < i
    · rw [if_pos hki]
      by_cases hk : k = j
      · subst hk; simp
      · rw [List.find?_cons_of_neg (by simpa using hk), if_neg (fun h => hk h.symm)]
    · rw [if_neg hki]
      by_cases hk : k = i
      · subst hk
        by_cases hj' : k = j
        · subst hj'; simp
        · rw [if_pos rfl, List.find?_cons_of_neg (by simpa using hj'), if_neg (fun h => hj' h.symm), List.find?_cons_of_neg (by simpa using hj')]
      · rw [if_neg hk]
        by_cases hij : i = j
        · subst hij; simp [Ne.symm hk]
        · rw [List.find?_cons_of_neg (by simpa using hij), List.find?_cons_of_neg (by simpa using hij), ih]

/-! ## The tracker without a reference (R164, R168, R172) -/

theorem applyReacq_none {g : Grp} (f n : Nat) (h : g.reacq = false) :
    (applyReacq g (track g f n none)).st = match g.st with
      | .acquire => .free
      | .locked => if g.ctrl.holdMax = 0 then .free else .hold
      | .hold => if g.noRef + 1 ≥ g.ctrl.holdMax then .free else .hold
      | st => st := by
  unfold applyReacq track
  rw [h]
  cases g.st <;> simp

theorem applyReacq_hold {g : Grp} (o : TrackOut) (h : g.reacq = true) (hst : g.st = .hold) : (applyReacq g o).st = .acquire := by
  simp [applyReacq, h, hst]

theorem nextCycle_bounds (c1 : Cyc) (o : TrackOut) : 713031680 ≤ (nextCycle c1 o).f ∧ (nextCycle c1 o).f ≤ 1157627904 := by
  simp only [nextCycle, clampI, freqLo, freqHi]
  omega

/-! ## CYCLE_END -/

theorem askZ_frame (gi c : Nat) (p : Plan) (b : Bool) (s : State) : whenDo b (askZ gi c p) s = { s with ev := (whenDo b (askZ gi c p) s).ev } := by
  cases b
  · rfl
  · rw [whenDo_true, askZ]
    exact each_keeps (fun t => t = { s with ev := t.ev }) (fun t x ht => by rw [ht]; rfl) _ rfl

/-- What CYCLE_END does with a cycle that is done. -/
theorem cycleEnd_does {g : Fin 16} {s : State} {p : Plan} (hup : s.up islResamp = true) (hdone : s.cycleDone g = true)
    (hp : s.planWin g ((s.getGrp g).closed + 1) = some p) :
    ∃ t, exec (.cycleEnd g) s = .next t ∧ t.rs = (endCycle g s).rs ∧
      t = { s with rs := { s.rs with grp := t.rs.grp }, ev := t.ev, pulse := { s.pulse with out := t.pulse.out }, log := t.log
                   role := { s.role with audit := t.role.audit } } ∧
      (((endCycle g s).getGrp g).closed = (s.getGrp g).closed → t.role = s.role) := by
  have hexec : exec (.cycleEnd g) s = execCycleEnd g s := rfl
  rw [hexec, execCycleEnd, onIsl_up hup, if_pos hdone]
  refine ⟨_, rfl, ?_⟩
  dsimp only
  rw [hp]
  dsimp only
  obtain ⟨h₁, -⟩ := endCycle_only g s
  generalize endCycle g s = s₁ at h₁ ⊢
  have h₂ : OutputsOnly s₁ (whenDo ((s₁.getGrp g).closed != (s.getGrp g).closed)
      (applyChanges g ((s₁.getGrp g).closed + 1) ((s₁.getGrp g).twOf (s₁.getGrp g).closed)) s₁) :=
    OutputsOnly.whenDo (fun s => outputsOnly_applyChanges _ _ _ s) _ _
  have hsame : (s₁.getGrp g).closed = (s.getGrp g).closed → whenDo ((s₁.getGrp g).closed != (s.getGrp g).closed)
      (applyChanges g ((s₁.getGrp g).closed + 1) ((s₁.getGrp g).twOf (s₁.getGrp g).closed)) s₁ = s₁ := fun h => by rw [h, bne_self_eq_false]; rfl
  generalize whenDo ((s₁.getGrp g).closed != (s.getGrp g).closed) _ s₁ = s₂ at h₂ hsame ⊢
  have h₃ := askZ_frame g (s.getGrp g).done p ((s.getGrp g).st != .locked && (s₁.getGrp g).st == .locked) s₂
  generalize whenDo ((s.getGrp g).st != .locked && (s₁.getGrp g).st == .locked) _ s₂ = t at h₃ ⊢
  unfold OutputsOnly at h₂
  have hrs : t.rs = s₁.rs := by rw [h₃, h₂]
  have hrole : s₁.role = s.role := by rw [h₁]
  refine ⟨hrs, by rw [h₃, h₂, h₁], fun h => ?_⟩
  have ht : t.role = s₂.role := by rw [h₃]
  rw [ht, hsame h, hrole]

/-- Settles O19, from `cycleEnd_does` and what the tracker leaves in the group (`getGrp_endCycle`). -/
theorem cycleEndUpdatesTracker : Obligations.CycleEndUpdatesTracker := by
  unfold Obligations.CycleEndUpdatesTracker
  intro g s p pg cy c1 hup hdone hp hpg c hcy hc1 ref
  obtain ⟨t, hexec, hrs, hframe, hrole⟩ := cycleEnd_does hup hdone hp
  obtain ⟨⟨hd, hre, hst, href, hlost, hcyc, hk, hwf, hcl⟩, hcloses, hgoes⟩ := getGrp_endCycle hp hpg hcy hc1
  have hget : ∀ j, t.getGrp j = (endCycle g s).getGrp j := fun j => by simp only [State.getGrp, hrs]
  have hfind := fun j hj => cyc_tset _ c (c + 2) j _ hj _ hcyc
  have hb := nextCycle_bounds c1 (applyReacq (s.getGrp g) (track (s.getGrp g) cy.f c1.f ref))
  refine ⟨t, hexec, ?_⟩
  rw [hget g]
  refine ⟨hd, hre, ⟨_, (hfind (c + 2) (by omega)).trans (if_pos rfl), rfl, hb.1, hb.2, rfl, ?_⟩, ?_, ?_, ?_, ?_, ?_, hk, hwf, hcl, ?_, hframe, ?_⟩
  · rw [hst]; exact beq_iff_eq
  · rw [hfind (c + 1) (by omega), if_neg (by omega)]; exact hc1
  · intro hnone
    refine ⟨by rw [href]; exact congrArg (fun r : Option (Nat × Nat) => match r with | none => 3 | some e => e.1) hnone, fun hr => ?_⟩
    have hn : (applyReacq (s.getGrp g) (track (s.getGrp g) cy.f c1.f ref)).st = _ := hnone ▸ applyReacq_none cy.f c1.f hr
    rw [hst, hlost]
    refine ⟨fun h => ?_, fun h => ?_, fun h => ?_, fun h => ?_⟩ <;> rw [h] at hn
    · refine ⟨hn, ?_⟩
      have hleft : ((s.getGrp g).st == .locked && (applyReacq (s.getGrp g) (track (s.getGrp g) cy.f c1.f ref)).st != .locked) = true := by
        rw [hn, h]; dsimp only; split <;> rfl
      rw [hleft, Bool.or_true]
    · exact hn
    · exact hn
    · exact hn
  · intro hr hh _ _
    rw [hst]; exact applyReacq_hold _ hr hh
  · intro hw
    obtain ⟨hc, htw⟩ := hcloses hw
    exact ⟨hc, by rw [Grp.twOf, htw]; exact tget_tset_same _ _ _ _⟩
  · exact hgoes
  · exact fun j hj => (hget j).trans ((endCycle_only g s).2 j hj)
  · exact fun hw => hrole (hgoes hw).1

end Sys2Proof.Machine
end

section
-- One proof after another: elaborated side by side they take more memory than the check allows.
set_option Elab.async false
/-! PROOF. Command cells, the ring's mailbox and the end of a wrap (O15). `lane` reads one lane of a ring; the lemmas of the first section
say what each way of changing a ring's cells leaves in it. -/

namespace Sys2Proof.Machine

open Sys2Proof.Cert

/-! ## A request leaves in a frame (R93, R96) -/

theorem lane_modRing (r c : Nat) (f : Ring → Ring) (s : State) : lane (s.modRing r f) r c = tget {} (f (s.getRing r)).cells c := by
  rw [lane, State.getRing_modRing]

theorem placed_frame (rg : Ring) (frame c : Nat) (chars : List Byte) : (rg.placed frame c chars).frame = frame := by
  unfold Ring.placed
  cases rg.out with
  | none => rfl
  | some o => dsimp only; split <;> simp_all

theorem find_tset {α : Type} (t : Tab α) (k : Nat) (v : α) : (tset t k v).find? (fun e => e.1 == k) = some (k, v) := by
  induction t with
  | nil => simp [tset]
  | cons e t ih =>
    obtain ⟨j, w⟩ := e
    unfold tset
    split
    · simp
    · split
      · next h => simp [h]
      · next h => rw [List.find?_cons_of_neg (by simpa using Ne.symm h)]; exact ih

theorem placed_cell (rg : Ring) (frame c : Nat) (chars : List Byte) : (rg.placed frame c chars).cell c = chars := by
  unfold OutFrame.cell Ring.placed
  rw [find_tset]
  rfl

theorem placed_taken (rg : Ring) (frame c : Nat) (chars : List Byte) : (rg.placed frame c chars).cells.any (fun e => e.1 == c) = true := by
  have h : ((rg.placed frame c chars).cells.find? (fun e => e.1 == c)).isSome = true := by
    unfold Ring.placed
    rw [find_tset]; rfl
  rwa [List.find?_isSome, ← List.any_eq_true] at h

/-- R96: a request that is no change leaves as soon as its turn comes. -/
theorem placeFrom_goes {q : CellReq} (hq : ∀ h off, q.use ≠ .change h off) (r l c frame : Nat) (kept rest : List CellReq) (s : State) :
    placeFrom r l c frame kept (q :: rest) s = leaveCell r l c frame (kept.reverse ++ rest) q s := by
  unfold placeFrom
  cases hu : q.use
  case change h off => exact absurd hu (hq h off)
  all_goals rfl

theorem placeCell_front {r c : Nat} {q : CellReq} {rest : List CellReq} {s : State} (hw : (lane s r c).waiting = q :: rest)
    (hq : ∀ h off, q.use ≠ .change h off) (hfree : s.cellTaken r c = false) :
    placeCell r c s = leaveCell r c c (s.tb.idx + 112) rest q s := by
  have hlane : placeLane r c c s = leaveCell r c c (s.tb.idx + 112) rest q s := by
    have h : (tget {} (s.getRing r).cells c : CellLane).waiting = q :: rest := hw
    rw [placeLane, h, placeFrom_goes hq]; rfl
  have htaken : (leaveCell r c c (s.tb.idx + 112) rest q s).cellTaken r c = true := by
    unfold State.cellTaken leaveCell
    rw [State.getRing_modRing]
    dsimp only
    rw [placed_frame, placed_taken, Bool.and_true]
    exact beq_self_eq_true _
  rw [placeCell, if_neg (by simp [hfree])]
  dsimp only
  rw [hlane, htaken]
  exact if_neg (by simp)

theorem cellSend_does {r : Fin 32} {c : Fin 4} {q : CellReq} {rest : List CellReq} {s : State} (hup : s.linkUp r = true)
    (hst : (s.getRing r).st = .run) (hw : (lane s r c).waiting = q :: rest) (hq : ∀ h off, q.use ≠ .change h off)
    (hfree : s.cellTaken r c = false) :
    exec (.mailboxCellSend r c) s = .next (leaveCell r c c (s.tb.idx + 112) rest q s) := by
  have hexec : exec (.mailboxCellSend r c) s = execMailboxCellSend r c s := rfl
  rw [hexec, execMailboxCellSend, onLink_up hup, hst]
  exact congrArg Host.Outcome.next (placeCell_front hw hq hfree)

/-! ## A reply (R95, R119, R60) -/

theorem cellReply_does {r : Fin 32} {c : Fin 4} {f : CellFly} {chars : List Byte} {s : State} (hup : s.linkUp r = true)
    (hf : (lane s r c).fly.find? (fun x => x.seq == (chars.getD 2 0).toNat) = some f) (ha : cellAnswers chars = true) :
    exec (.cellReply r c chars) s = .next (answered r f chars (cellDone r c (chars.getD 2 0).toNat s)) := by
  have hexec : exec (.cellReply r c chars) s = execCellReply r c chars s := rfl
  have h : (tget {} (s.getRing r).cells c : CellLane).fly.find? (fun f => f.seq == (chars.getD 2 0).toNat) = some f := hf
  rw [hexec, execCellReply, onLink_up hup]
  dsimp only
  rw [h]
  exact congrArg Host.Outcome.next (if_pos ha)

theorem lane_cellDone (r c q : Nat) (s : State) :
    lane (cellDone r c q s) r c = { lane s r c with fly := (lane s r c).fly.filter (fun f => f.seq != q) } := by
  rw [cellDone, lane_modRing]
  exact tget_tset_same _ _ _ _

/-- What an answer does to the requester leaves the cells of the ring. -/
theorem lane_answered (r : Nat) (f : CellFly) (chars : List Byte) (s : State) (r' c : Nat) : lane (answered r f chars s) r' c = lane s r' c := by
  have hring : ∀ {t : State}, t.outside { head := true, headAcc := true, cal := true, log := true } =
      s.outside { head := true, headAcc := true, cal := true, log := true } → lane t r' c = lane s r' c := by
    intro t ht
    unfold lane State.getRing
    rw [State.ring_eq rfl ht]
  unfold answered
  extract_lets resp
  cases f.req.use with
  | health h => dsimp only; split; exacts [hring (by simp), rfl]
  | accRead p => dsimp only; split <;> exact hring (by simp)
  | change h off => dsimp only; split <;> exact hring (by simp)
  | waits h dw de => dsimp only; split; exacts [hring (by simp), rfl]
  | maker =>
    by_cases h : r' = r
    · subst h; rw [lane_modRing]; rfl
    · unfold lane; rw [State.getRing_modRing_ne _ _ _ _ h]
  | _ => rfl

theorem detFaults_heads (h p a : Nat) (s : State) :
    (detFaults h p a s).getHead h = { s.getHead h with faultP := none, faultA := none } ∧
      ∀ j, j ≠ h → (detFaults h p a s).getHead j = s.getHead j := by
  have hraise : ∀ (o : Option Nat) (l : List (Nat × Nat)) (t : State),
      (match o with | none => t | some n => raiseAt .headDetFault n h l t).head = t.head := by
    intro o l t
    cases o
    · rfl
    · exact State.head_eq (m := { log := true }) rfl (by simp)
  unfold detFaults
  extract_lets x s₁ s₂
  have hget : ∀ j, s₂.getHead j = s.getHead j := fun j => by
    unfold State.getHead
    rw [show s₂.head = s₁.head from hraise _ _ _, show s₁.head = s.head from hraise _ _ _]
  exact ⟨by rw [State.getHead_modHead, hget], fun j hj => (State.getHead_modHead_ne _ _ _ _ hj).trans (hget j)⟩

theorem healthReply_does (h : Nat) (w : Word) (s : State) :
    ((healthReply h w s).getHead h).health = w ∧ ((healthReply h w s).getHead h).valid = true ∧
      (∀ g, g ≠ h → (healthReply h w s).getHead g = s.getHead g) ∧
      healthReply h w s = { s with head := (healthReply h w s).head, log := (healthReply h w s).log } := by
  refine ⟨?_, ?_, fun g hg => ?_, State.eq_onto (m := { head := true, log := true }) (by simp)⟩ <;> unfold healthReply <;>
    extract_lets x s₁
  · rw [State.getHead_modHead]
  · rw [State.getHead_modHead]
  · rw [State.getHead_modHead_ne _ _ _ _ hg, (detFaults_heads _ _ _ _).2 g hg]
    unfold State.getHead
    rw [State.head_eq (m := { log := true }) rfl (outside_whenDo (fun t => outside_raise rfl _ _ _ t) _ _)]

/-! ### Timings (R60) -/

theorem pruneTiming_find {now f : Nat} (hf : now < f + 400000) {t : Timing} (ht : t.from_ = f) (after before : List Timing)
    (hafter : ∀ u ∈ after, f < u.from_) :
    (pruneTiming now (after ++ t :: before)).find? (fun t => decide (t.from_ ≤ f)) = some t := by
  induction after with
  | nil =>
    rw [List.nil_append, pruneTiming]
    split <;> simp [ht]
  | cons u after ih =>
    have hu := hafter u List.mem_cons_self
    rw [List.cons_append, pruneTiming, if_neg (by omega), List.find?_cons_of_neg (by simp; omega)]
    exact ih (fun v hv => hafter v (List.mem_cons_of_mem _ hv))

/-- From its index on, a new timing is the one in force there. -/
theorem timingAt_retime {now f : Nat} (hf : now < f + 400000) {upd : Timing → Timing} (hupd : ∀ t, (upd t).from_ = t.from_) (h : Head) :
    (h.retime now f upd).timingAt f = upd { h.timingAt f with from_ := f } := by
  unfold Head.retime Head.timingAt
  dsimp only
  rw [pruneTiming_find hf (hupd _)]
  · rfl
  · intro u hu
    obtain ⟨t, ht, rfl⟩ := List.mem_map.1 hu
    rw [hupd]
    exact of_decide_eq_true (List.mem_filter.1 ht).2

theorem waitsFrom_does {h f : Nat} {ws : List Nat} {dw de : Int} {s : State} (hf : s.tb.idx < f + 400000) :
    (((waitsFrom h f ws dw de s).getHead h).timingAt f).waits = ws ∧ (((waitsFrom h f ws dw de s).getHead h).timingAt f).dw = dw ∧
      (((waitsFrom h f ws dw de s).getHead h).timingAt f).de = de ∧ (∀ j, j ≠ h → (waitsFrom h f ws dw de s).getHead j = s.getHead j) := by
  unfold waitsFrom
  extract_lets fu
  have hat := timingAt_retime (now := s.now) (h := s.getHead h) hf
    (upd := fun t => { t with waits := ws, dw := dw, de := de, east := (s.getHead h).dirAt fu t.from_ ws }) (fun _ => rfl)
  rw [State.getHead_modHead, hat]
  exact ⟨rfl, rfl, rfl, fun j hj => State.getHead_modHead_ne _ _ _ _ hj⟩

/-! ## No reply (R95, R118) -/

theorem cellNoReply_does {r : Fin 32} {c : Fin 4} {s : State} (hup : s.linkUp r = true) :
    exec (.cellNoReply r c) s = .next (cellSilent r c s) :=
  onLink_up hup

theorem lane_modCells (r c d : Nat) (f : CellLane → CellLane) (s : State) :
    lane (s.modRing r (fun rg => { rg with cells := tmod {} rg.cells c f })) r d = if d = c then f (lane s r c) else lane s r d := by
  rw [lane_modRing]
  dsimp only
  rw [tmod, tget_tset]
  rfl

theorem cellSilent_again {r c : Nat} {f : CellFly} {rest : List CellFly} {s : State} (hfly : (lane s r c).fly = f :: rest)
    (htries : f.req.tries < 3) (hc : ∀ h off, f.req.use ≠ .change h off) (ha : ∀ p, f.req.use = .accRead p → c = 2) :
    lane (cellSilent r c s) r c = { waiting := { f.req with tries := f.req.tries + 1 } :: (lane s r c).waiting, fly := rest } ∧
      RingIs r { s.getRing r with cells := ((cellSilent r c s).getRing r).cells } s (cellSilent r c s) ∧
      cellSilent r c s = { s with ring := (cellSilent r c s).ring } := by
  have hsilent : cellSilent r c s = (s.modRing r (fun rg => { rg with cells := tmod {} rg.cells c (fun l => { l with fly := rest }) })).modRing r
      (fun rg => { rg with cells := tmod {} rg.cells c (fun l => { l with waiting := { f.req with tries := f.req.tries + 1 } :: l.waiting }) }) := by
    have hf : (tget {} (s.getRing r).cells c : CellLane).fly = f :: rest := hfly
    unfold cellSilent
    rw [hf]
    dsimp only
    rw [if_neg (by omega)]
    cases hu : f.req.use with
    | change h off => exact absurd hu (hc h off)
    | accRead p => rw [ha p hu]
    | _ => rfl
  rw [hsilent]
  refine ⟨?_, ⟨?_, fun q hq => ?_⟩, rfl⟩
  · rw [lane_modCells, if_pos rfl, lane_modCells, if_pos rfl]
  · rw [State.getRing_modRing, State.getRing_modRing]
  · rw [State.getRing_modRing_ne _ _ _ _ hq, State.getRing_modRing_ne _ _ _ _ hq]

theorem cellSilent_ends {r c : Nat} {f : CellFly} {rest : List CellFly} {s : State} (hfly : (lane s r c).fly = f :: rest)
    (htries : 3 ≤ f.req.tries) :
    cellSilent r c s = cellExhausted r f (s.modRing r (fun rg => { rg with cells := tmod {} rg.cells c (fun l => { l with fly := rest }) })) := by
  have hf : (tget {} (s.getRing r).cells c : CellLane).fly = f :: rest := hfly
  unfold cellSilent
  rw [hf]
  exact if_pos htries

theorem lane_of_ring {s t : State} (h : t.ring = s.ring) (r c : Nat) : lane t r c = lane s r c := by
  unfold lane State.getRing
  rw [h]

theorem cellExhausted_maker {r : Nat} {f : CellFly} {s : State} (hu : f.req.use = .maker) :
    ((cellExhausted r f s).getRing r).cmdGo = false ∧ ((cellExhausted r f s).getRing r).cmdNoAns = true ∧
      (∀ c, lane (cellExhausted r f s) r c = lane s r c) ∧
      cellExhausted r f s = { s with ring := (cellExhausted r f s).ring, log := (cellExhausted r f s).log } := by
  have hlog : ∀ b h l, (whenDo b (raise .headNoAnswer h l) s).ring = s.ring := fun b h l =>
    State.ring_eq (m := { log := true }) rfl (outside_whenDo (fun t => outside_raise rfl _ _ _ t) _ _)
  unfold cellExhausted
  simp only [hu]
  refine ⟨?_, ?_, fun c => ?_, State.eq_onto (m := { ring := true, log := true }) (by simp)⟩
  · rw [State.getRing_modRing]
  · rw [State.getRing_modRing]
  · rw [lane_modRing]
    exact lane_of_ring (hlog _ _ _) r c

theorem getHead_headAbsent (h : Nat) (s : State) : ((headAbsent h s).getHead h).st = .absent ∧ ((headAbsent h s).getHead h).queue = [] ∧
    ((headAbsent h s).getHead h).valid = (s.getHead h).valid ∧ (∀ g, g ≠ h → (headAbsent h s).getHead g = s.getHead g) := by
  unfold headAbsent
  extract_lets s₁ x lost s₂ s₃
  have h₂ : s₂.head = s₁.head := State.head_eq (m := { headAcc := true }) rfl (outside_foldl (fun t c => outside_changeLost rfl _ _ _ _) _ _)
  have h₁ : s₁.head = (detFaults h 0xF 0xF s).head := State.head_eq (m := { red := true, log := true }) rfl (outside_restoreDropped rfl rfl _ _)
  have hget : ∀ g, s₂.getHead g = (detFaults h 0xF 0xF s).getHead g := fun g => by unfold State.getHead; rw [h₂, h₁]
  obtain ⟨hsame, hother⟩ := detFaults_heads h 0xF 0xF s
  have h₃ : s₃.getHead h = { s₂.getHead h with st := .absent, queue := [], waiting := [], offPlace := none, stim := 0, absAt := s₂.now } :=
    State.getHead_modHead _ _ _
  refine ⟨?_, ?_, ?_, fun g hg => ?_⟩
  · exact congrArg Head.st h₃
  · exact congrArg Head.queue h₃
  · exact (congrArg Head.valid h₃).trans ((congrArg Head.valid (hget h)).trans (congrArg Head.valid hsame :))
  · exact ((State.getHead_modHead_ne _ _ _ _ hg : s₃.getHead g = s₂.getHead g).trans ((hget g).trans (hother g hg)) :)

theorem cellExhausted_health {r h : Nat} {f : CellFly} {s : State} (hu : f.req.use = .health h) :
    ((cellExhausted r f s).getHead h).st = .absent ∧ ((cellExhausted r f s).getHead h).valid = false ∧
      ((cellExhausted r f s).getHead h).queue = [] ∧ (∀ g, g ≠ h → (cellExhausted r f s).getHead g = s.getHead g) ∧
      LoggedIfRoom (ent .headNoAnswer s.now h [(1, h % 128)] s) s (cellExhausted r f s) ∧
      cellExhausted r f s = { s with
        ring := (cellExhausted r f s).ring, head := (cellExhausted r f s).head, headAcc := (cellExhausted r f s).headAcc
        red := (cellExhausted r f s).red, log := (cellExhausted r f s).log } := by
  have hframe := State.eq_onto (m := { ring := true, head := true, headAcc := true, red := true, log := true })
    (outside_cellExhausted rfl rfl rfl rfl rfl r f s)
  have hex : cellExhausted r f s = headAbsent h (raise .headNoAnswer h [(1, h % 128)] (s.modHead h (fun x => { x with valid := false }))) := by
    unfold cellExhausted; rw [hu]
  obtain ⟨hst, hq, hv, hother⟩ := getHead_headAbsent h (raise .headNoAnswer h [(1, h % 128)] (s.modHead h (fun x => { x with valid := false })))
  have hraise : ∀ g, (raise .headNoAnswer h [(1, h % 128)] (s.modHead h (fun x => { x with valid := false }))).getHead g =
      (s.modHead h (fun x => { x with valid := false })).getHead g := fun g => by rw [raise_eq]; rfl
  refine ⟨by rw [hex]; exact hst, ?_, by rw [hex]; exact hq, fun g hg => ?_, ?_, hframe⟩
  · rw [hex, hv, hraise, State.getHead_modHead]
  · rw [hex, hother g hg, hraise, State.getHead_modHead_ne _ _ _ _ hg]
  · rw [hex]
    exact fun hroom => Logged.headAbsent (loggedIfRoom_raise .headNoAnswer h [(1, h % 128)] (s.modHead h (fun x => { x with valid := false })) hroom)

/-! ## The ring's mailbox (R105) -/

theorem place_ringGo (r : Fin 32) : place (0x020460 + 0x1000 * r.val) = .ring r 0x60 := by
  revert r; decide

theorem absentHalf_ringGo (r : Fin 32) (h : r.val < 16) : absentHalf (0x020460 + 0x1000 * r.val) = false := by
  revert r; decide

theorem ringGo_does {r : Nat} {s : State} (hgo : (s.getRing r).cmdGo = false) :
    ringWrite r 0x60 1 s = askCell r 3 { use := .maker, chars := leBytes 32 (s.getRing r).cmdCell.toNat }
      (s.modRing r (fun rg => { rg with cmdGo := true, cmdNoAns := false, cmdResp := 0 })) := by
  have h : ringWrite r 0x60 1 s = ringGo r s := rfl
  rw [h, ringGo, hgo]
  rfl

theorem lane_askCell (r c d : Nat) (q : CellReq) (s : State) :
    lane (askCell r c q s) r d = if d = c then { lane s r c with waiting := (lane s r c).waiting ++ [q] } else lane s r d :=
  lane_modCells r c d _ s

/-! ## The end of a wrap (R101, R102) -/

theorem restoreSeen_of {r : Nat} {s : State}
    (hsome : ∃ k, (s.getPort k).retired = false ∧ ((k = 2 * r ∧ (s.getRing r).westHead ≠ 255) ∨ (k = 2 * r + 1 ∧ (s.getRing r).eastHead ≠ 255)))
    (hall : ∀ k, (s.getPort k).retired = false ∧ ((k = 2 * r ∧ (s.getRing r).westHead ≠ 255) ∨ (k = 2 * r + 1 ∧ (s.getRing r).eastHead ≠ 255)) →
      ∃ a, (s.getPort k).restoreAt = some a ∧ a + 384000 ≤ s.tb.idx) : s.restoreSeen r = true := by
  have hmem : ∀ e, e ∈ [(2 * r, (s.getRing r).westHead), (2 * r + 1, (s.getRing r).eastHead)].filter
      (fun e => e.2 != 255 && !(s.getPort e.1).retired) ↔
      (e = (2 * r, (s.getRing r).westHead) ∨ e = (2 * r + 1, (s.getRing r).eastHead)) ∧ e.2 ≠ 255 ∧ (s.getPort e.1).retired = false := by
    intro e; simp
  unfold State.restoreSeen
  extract_lets rg turns
  rw [Bool.and_eq_true]
  constructor
  · obtain ⟨k, hk, ⟨rfl, h⟩ | ⟨rfl, h⟩⟩ := hsome
    · rw [Bool.not_eq_true', ← Bool.not_eq_true, List.isEmpty_iff]
      exact List.ne_nil_of_mem ((hmem _).2 ⟨.inl rfl, h, hk⟩)
    · rw [Bool.not_eq_true', ← Bool.not_eq_true, List.isEmpty_iff]
      exact List.ne_nil_of_mem ((hmem _).2 ⟨.inr rfl, h, hk⟩)
  · rw [List.all_eq_true]
    intro e he
    obtain ⟨hcase, hne, hret⟩ := (hmem e).1 he
    have hk : ∃ a, (s.getPort e.1).restoreAt = some a ∧ a + 384000 ≤ s.tb.idx := by
      obtain rfl | rfl := hcase
      · exact hall _ ⟨hret, .inl ⟨rfl, hne⟩⟩
      · exact hall _ ⟨hret, .inr ⟨rfl, hne⟩⟩
    obtain ⟨a, ha, hle⟩ := hk
    rw [ha]
    exact decide_eq_true hle

theorem mem_listedPos {r p : Nat} {s : State} (h : p ∈ s.listedPos r) : p < 128 := by
  unfold State.listedPos at h
  exact List.mem_range.1 (List.mem_filter.1 h).1

/-- What a pass over the listed positions does to the heads of a ring, each by an operation on that head alone. -/
theorem each_heads {r : Nat} {g : State → Nat → Head → Head} {l : List Nat} (hnd : l.Nodup) (hlt : ∀ p ∈ l, p < 128)
    (hg : ∀ s t : State, ∀ p, t.getHead (128 * r + p) = s.getHead (128 * r + p) → t.tb = s.tb → g t p = g s p) (s : State) :
    (∀ p ∈ l, (each l (fun s p => s.modHead (128 * r + p) (g s p)) s).getHead (128 * r + p) = g s p (s.getHead (128 * r + p))) ∧
      (∀ h, (∀ p ∈ l, h ≠ 128 * r + p) → (each l (fun s p => s.modHead (128 * r + p) (g s p)) s).getHead h = s.getHead h) ∧
      each l (fun s p => s.modHead (128 * r + p) (g s p)) s = { s with head := (each l (fun s p => s.modHead (128 * r + p) (g s p)) s).head } := by
  induction l generalizing s with
  | nil => exact ⟨fun p hp => absurd hp List.not_mem_nil, fun _ _ => rfl, rfl⟩
  | cons p l ih =>
    obtain ⟨hp, hl⟩ := List.nodup_cons.1 hnd
    obtain ⟨h₁, h₂, h₃⟩ := ih hl (fun q hq => hlt q (List.mem_cons_of_mem _ hq)) (s.modHead (128 * r + p) (g s p))
    rw [each_cons]
    refine ⟨fun q hq => ?_, fun h hh => ?_, by rw [h₃]; rfl⟩
    · by_cases hqp : q = p
      · subst hqp
        rw [h₂ _ (fun q' hq' h => hp (by rwa [show q = q' by omega])), State.getHead_modHead]
      · have hql : q ∈ l := (List.mem_cons.1 hq).resolve_left hqp
        have hne : 128 * r + q ≠ 128 * r + p := by omega
        rw [h₁ q hql, State.getHead_modHead_ne _ _ _ _ hne, hg _ _ _ (State.getHead_modHead_ne _ _ _ _ hne) rfl]
    · rw [h₂ h (fun q hq => hh q (List.mem_cons_of_mem _ hq)), State.getHead_modHead_ne _ _ _ _ (hh p List.mem_cons_self)]

theorem listedPos_nodup (r : Nat) (s : State) : (s.listedPos r).Nodup := List.nodup_range.filter _

/-- R102: a broadcast waits in cell 0. -/
theorem broadcast_does (r f : Nat) (s : State) : ∃ q, q.use = .broadcast ∧ q.at_ = f ∧
    (broadcast r f s).ring = (askCell r 0 q s).ring ∧ (broadcast r f s).head = s.head ∧ (broadcast r f s).tb = s.tb :=
  ⟨_, rfl, rfl, rfl, rfl, rfl⟩

theorem getRing_of_ring {s t : State} (h : t.ring = s.ring) (k : Nat) : t.getRing k = s.getRing k := by
  unfold State.getRing
  rw [h]

theorem unwrapRing_does {r f : Nat} {s : State} (hf : s.tb.idx < f + 400000) :
    (∃ q, (lane (unwrapRing r f s) r 0).waiting = (lane s r 0).waiting ++ [q] ∧ q.use = .broadcast ∧ q.at_ = f) ∧
      RingIs r { s.getRing r with fu := some f, cells := ((unwrapRing r f s).getRing r).cells } s (unwrapRing r f s) ∧
      (∀ p ∈ s.listedPos r, (((unwrapRing r f s).getHead (128 * r + p)).timingAt f).east = timesEast (s.getHead (128 * r + p)).lastWaits) ∧
      (∀ h, h / 128 ≠ r → (unwrapRing r f s).getHead h = s.getHead h) := by
  obtain ⟨q, hu, hat, hring₁, hhead, htb⟩ := broadcast_does r f (s.modRing r (fun rg => { rg with fu := some f }))
  unfold unwrapRing
  extract_lets s₁
  change s₁.ring = _ at hring₁
  change s₁.head = s.head at hhead
  change s₁.tb = s.tb at htb
  clear_value s₁
  have hget : ∀ h, s₁.getHead h = s.getHead h := fun h => by unfold State.getHead; rw [hhead]
  have hpos : s₁.listedPos r = s.listedPos r := by unfold State.listedPos; simp only [hget]
  obtain ⟨h₁, h₂, h₃⟩ := each_heads (r := r) (g := fun s p x => x.retime s.now f (fun t => { t with east := timesEast (s.getHead (128 * r + p)).lastWaits }))
    (listedPos_nodup r s₁) (fun p hp => mem_listedPos hp) (fun s t p h ht => by simp only [h, State.now, ht]) s₁
  have hring := (congrArg State.ring h₃ :).trans hring₁
  refine ⟨⟨q, ?_, hu, hat⟩, ⟨?_, fun k hk => ?_⟩, fun p hp => ?_, fun h hh => ?_⟩
  · refine (congrArg CellLane.waiting (lane_of_ring hring r 0)).trans ?_
    rw [lane_askCell, if_pos rfl, lane_modRing]
    rfl
  · have hr := getRing_of_ring hring r
    rw [askCell, State.getRing_modRing, State.getRing_modRing] at hr
    exact hr.trans (congrArg (fun c => { s.getRing r with fu := some f, cells := c }) (congrArg Ring.cells hr :).symm)
  · refine (getRing_of_ring hring k).trans ?_
    rw [askCell, State.getRing_modRing_ne _ _ _ _ hk, State.getRing_modRing_ne _ _ _ _ hk]
  · rw [← hpos] at hp
    have hat := timingAt_retime (now := s₁.now) (h := s₁.getHead (128 * r + p)) (f := f) (by rw [State.now, htb]; exact hf)
      (upd := fun t => { t with east := timesEast (s₁.getHead (128 * r + p)).lastWaits }) (fun _ => rfl)
    have heast := (congrArg (fun x => (Head.timingAt x f).east) (h₁ p hp)).trans (congrArg Timing.east hat)
    rw [← hget]
    exact heast
  · refine (h₂ h (fun p hp he => hh ?_)).trans (hget h)
    have := mem_listedPos hp
    omega

theorem ringRestored_does {r : Fin 32} {f m : Nat} {s : State} (hup : s.linkUp r = true) (hst : (s.getRing r).st = .wrap)
    (hfu : (s.getRing r).fu = some f) (hmeas : (s.getRing r).measAt = some m) (hle : f ≤ m) (hloop : s.loopedRing r = false) :
    ∃ t, exec (.ringRestored r) s = .next t ∧
      RingIs r { s.getRing r with st := .run, fu := none, turned := none, eastHead := 255, westHead := 255 } s t ∧
      (∀ p ∈ s.listedPos r, t.getHead (128 * r + p) = { s.getHead (128 * r + p) with half := none }) ∧
      (∀ h, h / 128 ≠ r.val → t.getHead h = s.getHead h) ∧ LoggedIfRoom (ent .ringRestored s.now r [] s) s t ∧
      t = { s with ring := t.ring, head := t.head, log := t.log } := by
  have hexec : exec (.ringRestored r) s = .next (raise .ringRestored r [] (each (s.listedPos r)
      (fun s p => s.modHead (128 * r + p) (fun h => { h with half := none }))
      (s.modRing r (fun rg => { rg with st := .run, fu := none, turned := none, eastHead := 255, westHead := 255 })))) := by
    have h : exec (.ringRestored r) s = execRingRestored r s := rfl
    rw [h, execRingRestored, onLink_up hup]
    dsimp only
    rw [hst, hfu, hmeas]
    exact congrArg Host.Outcome.next (if_pos (by simp [hle, hloop]))
  rw [hexec]
  obtain ⟨h₁, h₂, h₃⟩ := each_heads (r := r.val) (g := fun _ _ x => { x with half := none }) (listedPos_nodup r s) (fun p hp => mem_listedPos hp)
    (fun _ _ _ _ _ => rfl) (s.modRing r (fun rg => { rg with st := .run, fu := none, turned := none, eastHead := 255, westHead := 255 }))
  generalize each _ _ (s.modRing r _) = u at h₁ h₂ h₃ ⊢
  have hring : u.ring = (s.modRing r (fun rg => { rg with st := .run, fu := none, turned := none, eastHead := 255, westHead := 255 })).ring :=
    (congrArg State.ring h₃ :)
  have hlog : u.log = s.log ∧ u.tb = s.tb := ⟨(congrArg State.log h₃ :), (congrArg State.tb h₃ :)⟩
  refine ⟨_, rfl, ?_⟩
  have hr : raise .ringRestored r [] u = { u with log := (raise .ringRestored r [] u).log } := raise_eq _ _ _ _
  have hraise : LoggedIfRoom (ent .ringRestored s.now r [] s) s (raise .ringRestored r [] u) := by
    have h := loggedIfRoom_raise .ringRestored r [] u
    unfold LoggedIfRoom State.getLogSrc at h ⊢
    rw [hlog.1, State.now, hlog.2, ent_congr (t := u) (s := s) (congrArg Tb.epoch hlog.2)] at h
    exact h
  generalize raise .ringRestored r [] u = t at hr hraise ⊢
  refine ⟨⟨?_, fun q hq => ?_⟩, fun p hp => ?_, fun h hh => ?_, hraise, ?_⟩
  · exact (getRing_of_ring ((congrArg State.ring hr :).trans hring) r).trans (State.getRing_modRing _ _ _)
  · exact (getRing_of_ring ((congrArg State.ring hr :).trans hring) q).trans (State.getRing_modRing_ne _ _ _ _ hq)
  · have h := h₁ p hp
    rw [hr]
    exact h
  · rw [hr]
    refine h₂ h (fun p hp he => hh ?_)
    have := mem_listedPos hp
    omega
  · rw [hr, h₃]; rfl

/-- Settles O15, clause by clause. -/
theorem cellsRingCommandsAndUnwrap : Obligations.CellsRingCommandsAndUnwrap := by
  refine ⟨⟨?_, ?_, ?_⟩, ?_, ?_, ?_⟩
  · intro r c q rest s hup hst hw hq hfree seq chars
    refine ⟨_, (s.getRing r).placed (s.tb.idx + 112) c chars, cellSend_does hup hst hw hq hfree, ?_, fun d hd => ?_, placed_frame _ _ _ _,
      placed_cell _ _ _ _, ⟨?_, fun k hk => State.getRing_modRing_ne _ _ _ _ hk⟩, rfl⟩
    · rw [leaveCell, lane_modRing]
      simp only [tmod, tget_tset_same]
      rfl
    · rw [leaveCell, lane_modRing]
      simp only [tmod, tget_tset_ne _ _ _ _ _ hd]
      rfl
    · rw [leaveCell, State.getRing_modRing]
  · intro r c f chars s hup hf ha
    refine ⟨_, cellReply_does hup hf ha, (lane_answered _ _ _ _ _ _).trans (lane_cellDone _ _ _ _), ?_, ?_, ?_, ?_⟩
    · intro hu
      unfold answered
      simp only [hu]
      rw [State.getRing_modRing]
      exact ⟨rfl, rfl, rfl, rfl⟩
    · intro h hu hresp
      have hdo : answered r f chars (cellDone r c (chars.getD 2 0).toNat s) =
          healthReply h ((cellData chars).getD 0 0) (cellDone r c (chars.getD 2 0).toNat s) := by
        unfold answered
        simp only [hu]
        exact if_pos (congrArg BitVec.toNat hresp)
      rw [hdo]
      obtain ⟨hw, hv, hother, hframe⟩ := healthReply_does h ((cellData chars).getD 0 0) (cellDone r c (chars.getD 2 0).toNat s)
      exact ⟨hw, hv, hother, by rw [hframe]; rfl⟩
    · intro p hu
      have hdata : ∀ b : Bool, ∃ u, (bif b then accData p (cellData chars) (cellDone r c (chars.getD 2 0).toNat s)
          else cellDone r c (chars.getD 2 0).toNat s) = u ∧ (∀ q, q ≠ p → u.getHeadAcc q = s.getHeadAcc q) ∧
          u = { s with ring := u.ring, headAcc := u.headAcc } := by
        intro b
        cases b
        · exact ⟨_, rfl, fun _ _ => rfl, rfl⟩
        · refine ⟨_, rfl, fun q hq => ?_, rfl⟩
          rw [cond_true, accData, State.getHeadAcc_modHeadAcc_ne _ _ _ _ hq]; rfl
      obtain ⟨u, hu', hother, hframe⟩ := hdata (decide (cellResp chars = 1))
      have hdo : answered r f chars (cellDone r c (chars.getD 2 0).toNat s) = accEnd p (respResult (cellResp chars)) (cellResp chars) u := by
        unfold answered
        simp only [hu]
        rw [← hu', Bool.cond_decide]
      rw [hdo, accEnd, State.getHeadAcc_modHeadAcc]
      exact ⟨rfl, rfl, fun q hq => (State.getHeadAcc_modHeadAcc_ne _ _ _ _ hq).trans (hother q hq), by rw [hframe]; rfl⟩
    · intro h dw de hu hresp hidx g
      have hdo : answered r f chars (cellDone r c (chars.getD 2 0).toNat s) =
          waitsFrom h f.req.at_ ((cellData f.req.chars).map (fun w => w.toNat)) dw de (cellDone r c (chars.getD 2 0).toNat s) := by
        unfold answered
        simp only [hu]
        exact if_pos (congrArg BitVec.toNat hresp)
      obtain ⟨hw, hdw, hde, hother⟩ := waitsFrom_does (h := h) (ws := (cellData f.req.chars).map (fun w => w.toNat)) (dw := dw) (de := de)
        (s := cellDone r c (chars.getD 2 0).toNat s) hidx
      unfold g
      rw [hdo]
      exact ⟨hw, hdw, hde, hother, rfl⟩
  · intro r c f rest s hup hfly
    refine ⟨fun ht hc ha => ⟨_, cellNoReply_does hup, cellSilent_again hfly ht hc (fun p hp => congrArg Fin.val (ha p hp))⟩, fun ht => ⟨fun hu => ?_, fun h hu hr => ?_⟩⟩
    · obtain ⟨h₁, h₂, h₃, h₄⟩ := cellExhausted_maker (r := r) (f := f)
        (s := s.modRing r (fun rg => { rg with cells := tmod {} rg.cells c (fun l => { l with fly := rest }) })) hu
      refine ⟨_, cellNoReply_does hup, ?_⟩
      rw [cellSilent_ends hfly ht]
      refine ⟨h₁, h₂, ?_, by rw [h₄]; rfl⟩
      rw [h₃, lane_modCells, if_pos rfl]
    · obtain ⟨h₁, h₂, h₃, h₄, h₅, h₆⟩ := cellExhausted_health (r := r) (f := f)
        (s := s.modRing r (fun rg => { rg with cells := tmod {} rg.cells c (fun l => { l with fly := rest }) })) hu
      refine ⟨_, cellNoReply_does hup, ?_⟩
      rw [cellSilent_ends hfly ht]
      exact ⟨h₁, h₂, h₃, h₄, h₅, by rw [h₆]; rfl⟩
  · intro p r s hact hhalf hgo
    obtain ⟨t, ht, haud⟩ := rowWrite_audited (v := 1) (role := 3) (place_ringGo r) hact rfl trivial (by omega)
      (fun h => absentHalf_ringGo r (hhalf h)) (Nat.le_refl 3) (Nat.le_succ 2) rfl rfl
      (congrArg (Prod.mk false) (ringGo_does hgo)) rfl rfl
    refine ⟨t, _, ht, ?_, ?_, ?_, ?_, fun c hc => ?_, fun q hq => ?_, rfl, haud⟩
    · rw [askCell, State.getRing_modRing, State.getRing_modRing]
    · rw [askCell, State.getRing_modRing, State.getRing_modRing]
    · rw [askCell, State.getRing_modRing, State.getRing_modRing]
    · rw [lane_askCell, if_pos rfl, lane_modRing]; rfl
    · rw [lane_askCell, if_neg hc, lane_modRing]; rfl
    · rw [askCell, State.getRing_modRing_ne _ _ _ _ hq, State.getRing_modRing_ne _ _ _ _ hq]
  · intro r f s hup hst hfu turns hsome hall hf
    have hexec : exec (.ringUnwrap r f) s = .next (unwrapRing r f s) := by
      have h : exec (.ringUnwrap r f) s = execRingUnwrap r f s := rfl
      rw [h, execRingUnwrap, onLink_up hup]
      refine congrArg Host.Outcome.next (if_pos ?_)
      rw [hst, hfu, restoreSeen_of hsome hall]
      exact decide_eq_true hf
    obtain ⟨hq, hring, hpos, hother⟩ := unwrapRing_does (r := r) (f := f) (s := s) (by omega)
    exact ⟨_, hexec, hring, hq, hpos, hother, State.eq_onto (m := { ring := true, head := true, fresh := true }) (outside_unwrapRing rfl rfl rfl _ _ _)⟩
  · intro r f m s hup hst hfu hmeas hle hloop
    exact ringRestored_does hup hst hfu hmeas hle hloop

end Sys2Proof.Machine
end

section
-- One proof after another: elaborated side by side they take more memory than the check allows.
set_option Elab.async false
/-! PROOF. Admission and return of heads (O16). `AsksOnly` says what the outings that go on after a return may change: the changes that the
head is asked for. -/

namespace Sys2Proof.Machine

open Sys2Proof.Cert

/-! ## Asking a head for a change -/

/-- A state whose heads differ from another's in the changes asked of head h only, and in which every cell that waited in cell 0 of its
ring still does. -/
structure AsksOnly (h : Nat) (s t : State) : Prop where
  same : t.getHead h = { s.getHead h with queue := (t.getHead h).queue, waiting := (t.getHead h).waiting }
  other : ∀ g, g ≠ h → t.getHead g = s.getHead g
  waits : ∀ q ∈ (lane s (h / 128) 0).waiting, q ∈ (lane t (h / 128) 0).waiting

theorem AsksOnly.trans {h : Nat} {s t u : State} (a : AsksOnly h s t) (b : AsksOnly h t u) : AsksOnly h s u :=
  ⟨by rw [b.same, a.same], fun g hg => (b.other g hg).trans (a.other g hg), fun q hq => b.waits q (a.waits q hq)⟩

theorem AsksOnly.of_parts {h : Nat} {s t : State} (hh : t.head = s.head) (hr : t.ring = s.ring) : AsksOnly h s t := by
  have hget : ∀ g, t.getHead g = s.getHead g := fun g => by unfold State.getHead; rw [hh]
  exact ⟨by rw [hget], fun g _ => hget g, fun q hq => by rwa [lane_of_ring hr]⟩

theorem asksOnly_pushPx (h : Nat) (c : Change) (s : State) : AsksOnly h s (pushPx h c s) := by
  unfold pushPx
  extract_lets x
  split
  · have hhead : (pushChange h c s).head = (s.modHead h (fun x => { x with queue := x.queue ++ [c] })).head :=
      State.head_eq (m := { ring := true }) rfl (by simp [pushChange])
    have hget : ∀ g, (pushChange h c s).getHead g = (s.modHead h (fun x => { x with queue := x.queue ++ [c] })).getHead g := fun g => by
      unfold State.getHead
      rw [hhead]
    refine ⟨?_, fun g hg => ?_, fun q hq => ?_⟩
    · rw [hget, State.getHead_modHead]
    · rw [hget, State.getHead_modHead_ne _ _ _ _ hg]
    · rw [pushChange, lane_askCell, if_neg (by decide)]
      exact hq
  · refine ⟨?_, fun g hg => State.getHead_modHead_ne _ _ _ _ hg, fun q hq => hq⟩
    rw [State.getHead_modHead]

theorem asksOnly_startPass {h i : Nat} {s : State} (hi : (s.getCalQ i).index = h) : AsksOnly h s (startPass i s) := by
  unfold startPass
  extract_lets q s₁
  have h₁ : AsksOnly h s s₁ := AsksOnly.of_parts rfl rfl
  have hq : q.index = h := hi
  rw [hq]
  exact h₁.trans (asksOnly_pushPx h _ s₁)

/-- R118: an outing that is done after the return. -/
theorem outside_endOuting_done {m : Parts} (hcal : m.cal = true) (hhost : m.host = true) (i : Nat) (s : State) :
    (endOuting i 0 s).outside m = s.outside m := by
  unfold endOuting
  simp [whenDo, hcal, hhost]

theorem asksOnly_resumeOuting (h a0 : Nat) (was : Bool → Word) (s : State) (d : Bool) : AsksOnly h s (resumeOuting h a0 was s d) := by
  have hrefl : AsksOnly h s s := AsksOnly.of_parts rfl rfl
  unfold resumeOuting
  split
  · exact hrefl
  · next i hout =>
    have hi : (s.getCalQ i).index = h := by
      have := List.find?_some hout
      simp only [Bool.and_eq_true, beq_iff_eq] at this
      exact this.1.2
    have hmod : ∀ f : CalQ → CalQ, (∀ q, (f q).index = q.index) → AsksOnly h s (startPass i (s.modCalQ i f)) := fun f hf =>
      (AsksOnly.of_parts (s := s) (t := s.modCalQ i f) rfl rfl).trans
        (asksOnly_startPass (by rw [State.getCalQ_modCalQ, hf]; exact hi))
    extract_lets q
    split
    · exact hrefl
    · split
      · split
        · have ho : ∀ l, (endOuting i 0 (raise .calDone h l s)).outside { cal := true, host := true, log := true } =
              s.outside { cal := true, host := true, log := true } := fun l =>
            (outside_endOuting_done rfl rfl i _).trans (outside_raise rfl _ _ _ _)
          exact AsksOnly.of_parts (State.head_eq rfl (ho _)) (State.ring_eq rfl (ho _))
        · exact hmod _ (fun _ => rfl)
      · exact hmod _ (fun _ => rfl)

/-! ## What an admission does to the head (R117, R120, R58) -/

/-- The head that an admission leaves, but for its timings. -/
def Head.admittedWith (id : HeadIdent) (a0 : Nat) (ph : PlanHead) (w : Word × Word) (x : Head) : Head :=
  { x with
    st := .admitted, typ := bits id.hidType 31 24, serial := id.serial, modP := id.modP.toNat, modA := id.modA.toNat
    gainNext := some (ph.gainP, ph.gainA), trimP := w.1, trimA := w.2, stim := 0, a0 := some a0
    chgP := some a0, chgA := some a0, okP := true, okA := true, faultP := none, faultA := none }

theorem getHead_admitHead (h : Nat) (id : HeadIdent) (a0 : Nat) (ph : PlanHead) (wp wa : Word) (s : State) :
    let t := admitHead h id a0 ph wp wa s
    t.getHead h = { (s.getHead h).admittedWith id a0 ph (wp, wa) with timing := (t.getHead h).timing } ∧
      (s.tb.idx < a0 + 400000 → ((t.getHead h).timingAt a0).waits = headWaits (t.getHead h)) ∧
      ∀ g, g ≠ h → t.getHead g = s.getHead g := by
  intro t
  have hx : (s.modHead h (Head.admittedWith id a0 ph (wp, wa))).getHead h = (s.getHead h).admittedWith id a0 ph (wp, wa) :=
    State.getHead_modHead _ _ _
  have ht : t = waitsFrom h a0 (headWaits ((s.modHead h (Head.admittedWith id a0 ph (wp, wa))).getHead h))
      ((s.modHead h (Head.admittedWith id a0 ph (wp, wa))).getHead h).dw ((s.modHead h (Head.admittedWith id a0 ph (wp, wa))).getHead h).de
      (s.modHead h (Head.admittedWith id a0 ph (wp, wa))) := rfl
  have hget : t.getHead h = { (s.getHead h).admittedWith id a0 ph (wp, wa) with timing := (t.getHead h).timing } := by
    rw [ht, waitsFrom, State.getHead_modHead, hx]
    rfl
  refine ⟨hget, fun hidx => ?_, fun g hg => ?_⟩
  · have hw : headWaits (t.getHead h) = headWaits ((s.getHead h).admittedWith id a0 ph (wp, wa)) := by rw [hget]; rfl
    rw [hw, ← hx, ht]
    exact (waitsFrom_does (s := s.modHead h (Head.admittedWith id a0 ph (wp, wa))) hidx).1
  · rw [ht, waitsFrom, State.getHead_modHead_ne _ _ _ _ hg, State.getHead_modHead_ne _ _ _ _ hg]

/-! ## The cells of an admission (R117, R118) -/

theorem hopOf_parts (h : Nat) (serial : BitVec 64) (s : State) : (hopOf h serial s).2.ring = s.ring ∧ (hopOf h serial s).2.head = s.head := by
  unfold hopOf
  split <;> exact ⟨rfl, rfl⟩

theorem mem_lane_askCell {r : Nat} {q x : CellReq} {s : State} (h : x ∈ (lane s r 0).waiting ∨ x = q) :
    x ∈ (lane (askCell r 0 q s) r 0).waiting := by
  rw [lane_askCell, if_pos rfl]
  exact List.mem_append.2 (h.imp_right List.mem_singleton.2)

theorem mem_lane_sendWaits {r at_ pos : Nat} {x : CellReq} {s : State}
    (h : (x ∈ (lane s r 0).waiting ∧ x.waitsOf (128 * r + pos) = false) ∨ x = waitsCell r pos at_ (s.getHead (128 * r + pos))) :
    x ∈ (lane (sendWaits r at_ s pos) r 0).waiting := by
  unfold sendWaits
  extract_lets hd s₁
  refine mem_lane_askCell (h.imp (fun ⟨hx, hw⟩ => ?_) id)
  have hl : lane s₁ r 0 = { lane s r 0 with waiting := (lane s r 0).waiting.filter (fun q => !q.waitsOf hd) } :=
    (lane_modCells r 0 0 _ s).trans (if_pos rfl)
  rw [hl]
  exact List.mem_filter.2 ⟨hx, by rw [hw]; rfl⟩

theorem admissionCells_does (h a0 : Nat) (ph : PlanHead) (w : Word × Word) (s : State) :
    let t := admissionCells h a0 ph w s
    t.head = s.head ∧ modCell (h / 128) (h % 128) ∈ (lane t (h / 128) 0).waiting ∧
      waitsCell (h / 128) (h % 128) a0 (s.getHead h) ∈ (lane t (h / 128) 0).waiting ∧
      settingsCell h a0 ph w ∈ (lane t (h / 128) 0).waiting := by
  intro t
  obtain ⟨-, hhead⟩ := hopOf_parts h ph.serial s
  unfold t admissionCells
  generalize hopOf h ph.serial s = q at hhead ⊢
  obtain ⟨hop, s₁⟩ := q
  dsimp only at hhead ⊢
  generalize hs₂ : askCell (h / 128) 0 (modCell (h / 128) (h % 128)) _ = s₂
  have hget : s₂.getHead (128 * (h / 128) + h % 128) = s.getHead h := by
    rw [Nat.div_add_mod]
    rw [← hs₂]
    exact congrArg (fun l => tget ({} : Head) l h) hhead
  have hmod : modCell (h / 128) (h % 128) ∈ (lane s₂ (h / 128) 0).waiting := hs₂ ▸ mem_lane_askCell (.inr rfl)
  refine ⟨hs₂ ▸ hhead, mem_lane_askCell (.inl (mem_lane_sendWaits (.inl ⟨hmod, rfl⟩))),
    mem_lane_askCell (.inl (mem_lane_sendWaits (.inr (by rw [hget])))), mem_lane_askCell (.inr rfl)⟩

/-! ## Admission (R117) -/

theorem admitTrims_neutral {h : Nat} {s : State} (hstore : s.cal.store.find? (fun e => e.1 == h) = none) (serial : BitVec 64) (ph : PlanHead) :
    (admitTrims h serial ph s).1 = (ph.trimP, ph.trimA) := by
  unfold admitTrims
  rw [hstore]

/-- The state in which an admission takes the head in: its trims have been looked up. -/
theorem bringHead_eq (h : Nat) (id : HeadIdent) (a0 : Nat) (ph : PlanHead) (s : State) : ∃ u, u.outside { cal := true, log := true } =
      s.outside { cal := true, log := true } ∧
    let w := (admitTrims h id.serial ph s).1
    let v := admitHead h id a0 ph w.1 w.2 u
    bringHead h id a0 ph s = if (v.getRing (h / 128)).st == .waits then v else admissionCells h a0 ph w v := by
  have h₁ : (admitTrims h id.serial ph s).2.2.outside { cal := true, log := true } = s.outside { cal := true, log := true } :=
    outside_admitTrims rfl rfl _ _ _ _
  unfold bringHead
  generalize admitTrims h id.serial ph s = q at h₁ ⊢
  obtain ⟨w, src, s₁⟩ := q
  dsimp only at h₁ ⊢
  refine ⟨_, ?_, rfl⟩
  refine (outside_modCalIsl _ rfl _).trans (Eq.trans ?_ h₁)
  exact outside_each (fun t e => outside_whenDo (fun _ => outside_modCalIsl _ rfl _) _ _) _ _

/-- What R117 asks of a state after an admission from `a0`, whatever cells it has sent. -/
structure Admitted (h : Nat) (id : HeadIdent) (a0 : Nat) (ph : PlanHead) (s t : State) : Prop where
  fields : ∃ w, t.getHead h = { (s.getHead h).admittedWith id a0 ph w with
      timing := (t.getHead h).timing, queue := (t.getHead h).queue, waiting := (t.getHead h).waiting, rejoins := (t.getHead h).rejoins } ∧
    (s.cal.store.find? (fun e => e.1 == h) = none → w = (ph.trimP, ph.trimA))
  timed : s.tb.idx < a0 + 400000 → ((t.getHead h).timingAt a0).waits = headWaits (t.getHead h)
  cells : (s.getRing (h / 128)).st ≠ .waits → modCell (h / 128) (h % 128) ∈ (lane t (h / 128) 0).waiting ∧
    waitsCell (h / 128) (h % 128) a0 (t.getHead h) ∈ (lane t (h / 128) 0).waiting ∧
    ∃ w, settingsCell h a0 ph w ∈ (lane t (h / 128) 0).waiting
  other : ∀ g, g ≠ h → t.getHead g = s.getHead g

theorem admitted_bringHead (h : Nat) (id : HeadIdent) (a0 : Nat) (ph : PlanHead) (s : State) :
    Admitted h id a0 ph s (bringHead h id a0 ph s) ∧ ((bringHead h id a0 ph s).getHead h).rejoins = (s.getHead h).rejoins := by
  obtain ⟨u, hu, heq⟩ := bringHead_eq h id a0 ph s
  dsimp only at heq
  have huhead : ∀ g, u.getHead g = s.getHead g := fun g => by unfold State.getHead; rw [State.head_eq rfl hu]
  have hutb : u.tb = s.tb := State.tb_eq rfl hu
  have hw := fun hs => admitTrims_neutral (h := h) (s := s) hs id.serial ph
  generalize (admitTrims h id.serial ph s).1 = w at heq hw
  obtain ⟨hget, htimed, hother⟩ := getHead_admitHead h id a0 ph w.1 w.2 u
  have hvring : (admitHead h id a0 ph w.1 w.2 u).ring = s.ring :=
    (State.ring_eq (m := { head := true }) rfl (outside_admitHead rfl _ _ _ _ _ _ _)).trans (State.ring_eq rfl hu)
  generalize admitHead h id a0 ph w.1 w.2 u = v at heq hget htimed hother hvring
  rw [huhead] at hget
  have hthead : (bringHead h id a0 ph s).head = v.head ∧ ((s.getRing (h / 128)).st ≠ .waits →
      modCell (h / 128) (h % 128) ∈ (lane (bringHead h id a0 ph s) (h / 128) 0).waiting ∧
      waitsCell (h / 128) (h % 128) a0 (v.getHead h) ∈ (lane (bringHead h id a0 ph s) (h / 128) 0).waiting ∧
      ∃ w, settingsCell h a0 ph w ∈ (lane (bringHead h id a0 ph s) (h / 128) 0).waiting) := by
    rw [heq, getRing_of_ring hvring]
    by_cases hst : (s.getRing (h / 128)).st = .waits
    · rw [hst]
      exact ⟨rfl, fun h => absurd rfl h⟩
    · rw [if_neg (by simpa using hst)]
      obtain ⟨h₁, h₂, h₃, h₄⟩ := admissionCells_does h a0 ph w v
      exact ⟨h₁, fun _ => ⟨h₂, h₃, w, h₄⟩⟩
  generalize bringHead h id a0 ph s = t at hthead ⊢
  have htget : ∀ g, t.getHead g = v.getHead g := fun g => by unfold State.getHead; rw [hthead.1]
  refine ⟨⟨⟨w, ?_, hw⟩, fun hidx => ?_, ?_, fun g hg => ?_⟩, ?_⟩
  · rw [htget, hget]
  · rw [htget]; exact htimed (by rw [hutb]; exact hidx)
  · rw [htget]; exact hthead.2
  · rw [htget, hother g hg, huhead]
  · rw [htget, hget]; rfl

/-- A head that has been admitted stays so while it is asked for changes and its returns are counted. -/
theorem Admitted.asked {h a0 : Nat} {id : HeadIdent} {ph : PlanHead} {s t u : State} (a : Admitted h id a0 ph s t)
    (hsame : u.getHead h = { t.getHead h with queue := (u.getHead h).queue, waiting := (u.getHead h).waiting, rejoins := (u.getHead h).rejoins })
    (hother : ∀ g, g ≠ h → u.getHead g = t.getHead g)
    (hlane : ∀ q ∈ (lane t (h / 128) 0).waiting, q ∈ (lane u (h / 128) 0).waiting) : Admitted h id a0 ph s u := by
  obtain ⟨w, hw, htrim⟩ := a.fields
  refine ⟨⟨w, by rw [hsame, hw], htrim⟩, fun hidx => ?_, fun hst => ?_, fun g hg => (hother g hg).trans (a.other g hg)⟩
  · have ht := a.timed hidx
    rw [hsame]
    exact ht
  · obtain ⟨h₁, h₂, w', h₃⟩ := a.cells hst
    refine ⟨hlane _ h₁, ?_, w', hlane _ h₃⟩
    rw [hsame]
    exact hlane _ h₂

/-! ## A head with another identity (R85) -/

theorem chan_raise_le (c : LogCode) (i : Nat) (l : List (Nat × Nat)) (s : State) (k : Nat) :
    ((raise c i l s).getLogSrc k).chan.length ≤ (s.getLogSrc k).chan.length + 1 := by
  have hput : ∀ (j : Nat) (f : LogSrc → LogSrc), (∀ x, (f x).chan.length ≤ x.chan.length + 1) →
      ((s.modLogSrc j f).getLogSrc k).chan.length ≤ (s.getLogSrc k).chan.length + 1 := by
    intro j f hf
    by_cases h : k = j
    · subst h; rw [State.getLogSrc_modLogSrc]; exact hf _
    · rw [State.getLogSrc_modLogSrc_ne _ _ _ _ h]; exact Nat.le_succ _
  have hdrop : ∀ (j : Nat) (f : LogSrc → LogSrc) (g : Log → Log), (∀ x, (f x).chan = x.chan) → (∀ l, (g l).src = l.src) →
      (((s.modLogSrc j f).modLogIsl g).getLogSrc k).chan.length ≤ (s.getLogSrc k).chan.length + 1 := by
    intro j f g hf hg
    rw [State.getLogSrc, show ((s.modLogSrc j f).modLogIsl g).log.src = (s.modLogSrc j f).log.src from hg _]
    exact hput j f (fun x => by rw [hf]; exact Nat.le_succ _)
  unfold raise raiseAt raiseSev sendEnt
  extract_lets c
  split
  · split
    · exact hput _ _ (fun x => by simp)
    · exact hput _ _ (fun x => by simp)
  · split
    · exact hput _ _ (fun x => by simp)
    · exact hdrop _ _ _ (fun _ => rfl) (fun _ => rfl)

theorem wrongHead_does (h : Nat) (listed found : BitVec 64) (s : State) :
    (wrongHead h listed found s).getHead h = { s.getHead h with st := .absent } ∧
      (∀ g, g ≠ h → (wrongHead h listed found s).getHead g = s.getHead g) ∧
      ((s.getLogSrc (troubleChan 3)).chan.length < 27 → Logged (ent .headAbsent s.now h [] s) (wrongHead h listed found s)) ∧
      wrongHead h listed found s = { s with head := (wrongHead h listed found s).head, log := (wrongHead h listed found s).log } := by
  unfold wrongHead
  extract_lets r hop s₁
  have ho : s₁.outside { log := true } = s.outside { log := true } := (outside_raise rfl _ _ _ _).trans (outside_raise rfl _ _ _ _)
  have hget : ∀ g, s₁.getHead g = s.getHead g := fun g => by unfold State.getHead; rw [State.head_eq rfl ho]
  refine ⟨by rw [State.getHead_modHead, hget], fun g hg => by rw [State.getHead_modHead_ne _ _ _ _ hg, hget], fun hroom => ?_, ?_⟩
  · have hun := raise_eq .headUnknown r [(1, hop), (8, found.toNat)] s
    have hle := chan_raise_le .headUnknown r [(1, hop), (8, found.toNat)] s (troubleChan 3)
    have hl := loggedIfRoom_raise .headAbsent h [] (raise .headUnknown r [(1, hop), (8, found.toNat)] s)
    have hnow : (raise .headUnknown r [(1, hop), (8, found.toNat)] s).now = s.now := by rw [hun]; rfl
    rw [hnow, ent_congr (s := s) (by rw [hun])] at hl
    have hcode : (ent .headAbsent s.now h [] s).code / 256 = 3 := by simp [ent, entSev, LogCode.info]
    rw [LoggedIfRoom, hcode] at hl
    have hfree : ((raise .headUnknown r [(1, hop), (8, found.toNat)] s).getLogSrc (troubleChan 3)).chan.length < 28 := by omega
    exact logged_congr rfl (hl hfree)
  · exact State.eq_onto (m := { head := true, log := true }) (outside_wrongHead rfl rfl h listed found s)

/-! ## HEAD_ADMIT and HEAD_REJOIN -/

theorem headAdmit_takes {h a0 : Nat} {id : HeadIdent} {ph : PlanHead} {s : State} (hph : s.planHead h = some ph)
    (hst : (s.getHead h).st = .joining) (hat : (s.getRing (h / 128)).admitsAt a0 = true)
    (hlag : (s.getRing (h / 128)).st = .waits ∨ 0 ≤ s.dragMargin h) :
    headAdmit h id a0 s = if id.serial ≠ ph.serial then wrongHead h ph.serial id.serial s else bringHead h id a0 ph s := by
  unfold headAdmit
  rw [hph]
  dsimp only
  rw [hst, hat, if_neg (by decide)]
  by_cases hid : id.serial = ph.serial
  · rw [if_neg (by simpa using hid), if_neg (not_not.2 hid), if_neg]
    rintro hbad
    simp only [Bool.and_eq_true, bne_iff_ne, decide_eq_true_eq] at hbad
    obtain ⟨⟨hw, -⟩, hneg⟩ := hbad
    exact hlag.elim hw (fun h => absurd hneg (not_lt.2 h))
  · rw [if_pos (by simpa using hid), if_pos hid]

theorem headRejoin_takes {h a0 : Nat} {id : HeadIdent} {ph : PlanHead} {s : State} (hph : s.planHead h = some ph)
    (hst : (s.getHead h).st = .absent) (hring : (s.getRing (h / 128)).st = .run ∨ (s.getRing (h / 128)).st = .wrap)
    (hat : (s.getRing (h / 128)).nextRel ≤ a0) :
    headRejoin h id a0 s = if id.serial ≠ ph.serial then wrongHead h ph.serial id.serial s else
      [false, true].foldl (resumeOuting h a0 (fun d => s.trimOf h d))
        (raise .headRejoin h [(8, a0), (4, id.modP.toNat), (4, id.modA.toNat)]
          ((bringHead h id a0 ph s).modHead h (fun x => { x with rejoins := satAdd 0xFF x.rejoins 1 }))) := by
  unfold headRejoin
  rw [hph]
  dsimp only
  have hno : ¬ ((s.getHead h).st != .absent || !((s.getRing (h / 128)).st == .run || (s.getRing (h / 128)).st == .wrap) ||
      decide (a0 < (s.getRing (h / 128)).nextRel)) = true := by
    have := not_lt.2 hat
    obtain hr | hr := hring <;> simp [hst, hr, this]
  rw [if_neg hno]
  by_cases hid : id.serial = ph.serial
  · rw [if_neg (by simpa using hid), if_neg (not_not.2 hid)]
  · rw [if_pos (by simpa using hid), if_pos hid]

/-- A head that returns is admitted, and its returns are counted. -/
theorem Admitted.rejoined {h a0 : Nat} {id : HeadIdent} {ph : PlanHead} {s b : State} (hadm : Admitted h id a0 ph s b)
    (hrej : (b.getHead h).rejoins = (s.getHead h).rejoins) (l : List (Nat × Nat)) (was : Bool → Word) :
    Admitted h id a0 ph s ([false, true].foldl (resumeOuting h a0 was)
        (raise .headRejoin h l (b.modHead h (fun x => { x with rejoins := satAdd 0xFF x.rejoins 1 })))) ∧
      (([false, true].foldl (resumeOuting h a0 was)
        (raise .headRejoin h l (b.modHead h (fun x => { x with rejoins := satAdd 0xFF x.rejoins 1 })))).getHead h).rejoins =
      min 0xFF ((s.getHead h).rejoins + 1) := by
  have hboth : ∀ v, AsksOnly h v ([false, true].foldl (resumeOuting h a0 was) v) := fun v =>
    (asksOnly_resumeOuting h a0 was v false).trans (asksOnly_resumeOuting h a0 was _ true)
  have hself : (b.modHead h (fun x => { x with rejoins := satAdd 0xFF x.rejoins 1 })).getHead h =
      { b.getHead h with rejoins := satAdd 0xFF (b.getHead h).rejoins 1 } := State.getHead_modHead _ _ _
  have hother : ∀ g, g ≠ h → (b.modHead h (fun x => { x with rejoins := satAdd 0xFF x.rejoins 1 })).getHead g = b.getHead g :=
    fun g hg => State.getHead_modHead_ne _ _ _ _ hg
  have hlane : lane (b.modHead h (fun x => { x with rejoins := satAdd 0xFF x.rejoins 1 })) (h / 128) 0 = lane b (h / 128) 0 := rfl
  generalize b.modHead h (fun x => { x with rejoins := satAdd 0xFF x.rejoins 1 }) = c at hself hother hlane ⊢
  have hraise := raise_eq .headRejoin h l c
  generalize raise .headRejoin h l c = v at hraise ⊢
  have hask := hboth v
  generalize [false, true].foldl (resumeOuting h a0 was) v = t at hask ⊢
  have hv : ∀ g, v.getHead g = c.getHead g := fun g => by unfold State.getHead; rw [hraise]
  have hvl : lane v (h / 128) 0 = lane c (h / 128) 0 := lane_of_ring (by rw [hraise]) _ _
  refine ⟨hadm.asked ?_ (fun g hg => ?_) (fun q hq => hask.waits q (by rwa [hvl, hlane])), ?_⟩
  · rw [hask.same, hv, hself]
  · rw [hask.other g hg, hv, hother g hg]
  · rw [hask.same, hv, hself]
    exact congrArg (fun n => min 0xFF (n + 1)) hrej

/-- Settles O16, from `admitted_bringHead`, `Admitted.rejoined` and `wrongHead_does`. -/
theorem headAdmissionAndRejoin : Obligations.HeadAdmissionAndRejoin := by
  unfold Obligations.HeadAdmissionAndRejoin
  intro c h id a0 ph s hup hph hrel hcase
  have hfields : ∀ t, Admitted h id a0 ph s t → id.serial = ph.serial → (t.getHead h).st = .admitted ∧ (t.getHead h).a0 = some a0 ∧
      (t.getHead h).serial = ph.serial ∧ (t.getHead h).typ = id.hidType.toNat / 2 ^ 24 ∧ (t.getHead h).modP = id.modP.toNat ∧
      (t.getHead h).modA = id.modA.toNat ∧ (t.getHead h).gainNext = some (ph.gainP, ph.gainA) ∧ (t.getHead h).gainP = (s.getHead h).gainP ∧
      (t.getHead h).gainA = (s.getHead h).gainA ∧ (t.getHead h).chgP = some a0 ∧ (t.getHead h).chgA = some a0 ∧
      (t.getHead h).dw = (s.getHead h).dw ∧ (t.getHead h).de = (s.getHead h).de ∧
      (s.tb.idx < a0 + 400000 → ((t.getHead h).timingAt a0).waits = headWaits (t.getHead h)) ∧
      (s.cal.store.find? (fun e => e.1 == h.val) = none → (t.getHead h).trimP = ph.trimP ∧ (t.getHead h).trimA = ph.trimA) := by
    intro t ha hid
    obtain ⟨w, hw, htrim⟩ := ha.fields
    have htime := ha.timed
    rw [hw] at htime ⊢
    refine ⟨rfl, rfl, hid, ?_, rfl, rfl, rfl, rfl, rfl, rfl, rfl, rfl, rfl, htime, fun hs => ?_⟩
    · exact Nat.mod_eq_of_lt (by have := id.hidType.isLt; omega)
    · rw [htrim hs]; exact ⟨rfl, rfl⟩
  rcases hcase with ⟨rfl, hst, hring⟩ | ⟨rfl, hst, hring⟩
  · have hat : (s.getRing (h / 128)).admitsAt a0 = true := by
      unfold Ring.admitsAt
      rcases hring with ⟨hw, hd, hf⟩ | ⟨hr | hr, -⟩
      · simp [hw, hd, hf, admits, hrel]
      · simp [hr, admits, hrel]
      · simp [hr, admits, hrel]
    have htakes := headAdmit_takes (id := id) hph hst hat (hring.imp And.left And.right)
    have hexec : exec (.headAdmit h id a0) s = .next (headAdmit h id a0 s) := onLink_up hup
    rw [hexec, htakes]
    refine ⟨fun hid => ⟨_, rfl, ?_⟩, fun hid => ⟨_, rfl, ?_⟩⟩
    · rw [if_neg (not_not.2 hid)]
      obtain ⟨ha, hrej⟩ := admitted_bringHead h id a0 ph s
      obtain ⟨h1, h2, h3, h4, h5, h6, h7, h8, h9, h10, h11, h12, h13, h14, h15⟩ := hfields _ ha hid
      refine ⟨h1, h2, h3, h4, h5, h6, h7, h8, h9, h10, h11, h12, h13, h14, h15, ?_, ha.cells, ha.other, ?_⟩
      · rw [hrej, if_neg (by simp)]
      · exact State.eq_onto (m := { ring := true, head := true, lc := true, cal := true, host := true, log := true, fresh := true })
          (outside_bringHead rfl rfl rfl rfl rfl _ _ _ _ _)
    · rw [if_pos hid]
      exact wrongHead_does _ _ _ _
  · have htakes := headRejoin_takes (id := id) hph hst hring hrel
    have hexec : exec (.headRejoin h id a0) s = .next (headRejoin h id a0 s) := onLink_up hup
    have hframe := State.eq_onto (m := { ring := true, head := true, lc := true, cal := true, host := true, log := true, fresh := true })
      (outside_headRejoin rfl rfl rfl rfl rfl rfl rfl h id a0 s)
    rw [hexec]
    rw [htakes] at hframe ⊢
    refine ⟨fun hid => ⟨_, rfl, ?_⟩, fun hid => ⟨_, rfl, ?_⟩⟩
    · rw [if_neg (not_not.2 hid)] at hframe ⊢
      obtain ⟨hb, hrej⟩ := admitted_bringHead h id a0 ph s
      obtain ⟨ha, hrej⟩ := hb.rejoined hrej [(8, a0), (4, id.modP.toNat), (4, id.modA.toNat)] (fun d => s.trimOf h d)
      obtain ⟨h1, h2, h3, h4, h5, h6, h7, h8, h9, h10, h11, h12, h13, h14, h15⟩ := hfields _ ha hid
      exact ⟨h1, h2, h3, h4, h5, h6, h7, h8, h9, h10, h11, h12, h13, h14, h15, by rw [hrej, if_pos rfl], ha.cells, ha.other, hframe⟩
    · rw [if_pos hid]
      exact wrongHead_does _ _ _ _

end Sys2Proof.Machine
end

section
-- One proof after another: elaborated side by side they take more memory than the check allows.
set_option Elab.async false
/-! PROOF. Samples formed and counted (O21). -/

namespace Sys2Proof.Machine

open Sys2Proof.Cert

variable {s : State}

/-! ## Cycle samples (R159, R160, R304, R307) -/

/-- Of the host ports, what waits for their captures alone changes. -/
def QueuesOnly (s t : State) : Prop :=
  (∃ l, t = { s with host := { s.host with hp := l } }) ∧
  ∀ p, t.getHp p = { s.getHp p with cap := { (s.getHp p).cap with queue := (t.getHp p).cap.queue } }

theorem capSee_only (source : Nat) (hit : Word → Bool) (e : CapEnt) (s : State) : QueuesOnly s (capSee source hit e s) := by
  refine each_keeps (QueuesOnly s) (fun t p h => ?_) _ ⟨⟨_, rfl⟩, fun _ => rfl⟩
  obtain ⟨⟨l, hl⟩, hp⟩ := id h
  dsimp only
  split
  · refine ⟨⟨_, by rw [hl]; rfl⟩, fun j => ?_⟩
    by_cases hj : j = p
    · subst hj
      rw [State.getHp_modHp, hp]
    · rw [State.getHp_modHp_ne _ _ _ _ hj]
      exact hp j
  · exact h

theorem keepSample_does (gi k slot tick : Nat) (pc : PlanCtx) (x : CSample) (s : State) :
    let t := keepSample gi k slot tick pc x s
    t.rs.next = tset s.rs.next (bkey pc.c slot) (x.m + 1) ∧ t.rs.hamper = tset s.rs.hamper (bkey pc.c slot) (s.hamperWith pc slot x) ∧
      t.rs.tokens = s.rs.tokens ∧
      t.getGrp gi = { s.getGrp gi with
        csat := if x.csat then satAdd 0xFFFF (s.getGrp gi).csat 1 else (s.getGrp gi).csat
        fadeLeft := (t.getGrp gi).fadeLeft, wflags := (t.getGrp gi).wflags } ∧
      (∀ j, j ≠ gi → t.getGrp j = s.getGrp j) ∧
      (∀ p, t.getHp p = { s.getHp p with cap := { (s.getHp p).cap with queue := (t.getHp p).cap.queue } }) ∧
      t = { s with rs := t.rs, host := { s.host with hp := t.host.hp } } := by
  intro t
  unfold t keepSample
  extract_lets a b c
  obtain ⟨⟨l, hl⟩, hp⟩ : QueuesOnly a b := capSee_only _ _ _ _
  clear_value b
  subst hl
  unfold c
  split
  · refine ⟨rfl, rfl, rfl, ?_, fun j hj => ?_, hp, rfl⟩
    · rw [State.getGrp_modGrp, State.getGrp_modGrp]
      rfl
    · rw [State.getGrp_modGrp_ne _ _ _ _ hj, State.getGrp_modGrp_ne _ _ _ _ hj]
      rfl
  · refine ⟨rfl, rfl, rfl, ?_, fun j hj => ?_, hp, rfl⟩
    · rw [State.getGrp_modGrp]
      rfl
    · rw [State.getGrp_modGrp_ne _ _ _ _ hj]
      rfl

theorem natAbs_clampI (v : Int) : (clampI (-(2 ^ 23 - 1)) (2 ^ 23 - 1) v).natAbs ≤ 2 ^ 23 - 1 := by
  unfold clampI
  split
  · decide
  · split
    · decide
    · omega

/-- R159, R160, R304: the value and the detector of a sample. -/
theorem formSample_value {g : Grp} {h m : Nat} {cy : Cyc} {d : Bool} {f : CSample} {di ei : List StOut × Nat}
    (hdi : s.inputsOf h d (cy.pos (m % 512)) = some di) (hei : s.inputsOf h (!d) (cy.pos (m % 512)) = some ei)
    (hf : formSample s g h m cy d = some f) :
    let e := if inputClass di.1 = 6 then !d else d
    f.val.natAbs ≤ 2 ^ 23 - 1 ∧ (f.cls = 5 ∨ f.cls = 6 → f.val = 0) ∧ (f.subst = true → f.cls = 0 ∧ f.det = !e) ∧ (f.subst = false → f.det = e) := by
  intro e
  unfold formSample at hf
  dsimp only at hf
  rw [hdi, hei] at hf
  dsimp only at hf
  have hpick : (if inputClass di.1 = 6 then (!d, ei, di) else (d, di, ei)) =
      (e, if inputClass di.1 = 6 then ei else di, if inputClass di.1 = 6 then di else ei) := by
    unfold e
    split <;> rfl
  rw [hpick] at hf
  dsimp only at hf
  rw [← Option.some.inj hf]
  dsimp only
  refine ⟨natAbs_clampI _, fun hcls => ?_, fun hsub => ?_, fun hsub => ?_⟩
  · rw [if_pos (by simpa using hcls)]
    rfl
  · rw [hsub]
    exact ⟨rfl, rfl⟩
  · rw [hsub]
    rfl

/-! ## Flat instants (R178, R189, R190) -/

/-- What one of a list's steps establishes and the others keep holds at the end. -/
theorem foldl_reaches {β : Type} {P : β → Prop} {step : β → Nat → β} {i : Nat} (hkeep : ∀ b j, P b → P (step b j)) (hset : ∀ b, P (step b i))
    {l : List Nat} (hi : i ∈ l) (b : β) : P (l.foldl step b) := by
  have hall : ∀ (l : List Nat) (b : β), P b → P (l.foldl step b) := fun l => by
    induction l with
    | nil => exact fun _ h => h
    | cons j l ih => exact fun b h => ih _ (hkeep b j h)
  induction l generalizing b with
  | nil => cases hi
  | cons j l ih =>
    rcases List.mem_cons.1 hi with rfl | hi
    · exact hall l _ (hset b)
    · exact ih hi _

theorem getD_addAt {l : List Int} {k : Nat} (h : k < l.length) (v : Int) (j : Nat) :
    (addAt l k v).getD j 0 = l.getD j 0 + if j = k then v else 0 := by
  unfold addAt
  by_cases hj : j = k
  · subst hj
    rw [if_pos rfl, List.getD_eq_getElem?_getD, List.getElem?_set_self h, Option.getD_some]
  · rw [if_neg hj, List.getD_eq_getElem?_getD, List.getElem?_set_ne (Ne.symm hj), ← List.getD_eq_getElem?_getD, Int.add_zero]

/-- R178: what a flat instant adds to the sum of phase k. -/
def flatTerm (x : PlanCtx) (m : Nat) (sel : Nat → Sel) (k : Nat) : Int :=
  match x.phaseVal (fun j => (sel j).val) k with
  | some v => v.1 * v.2 * m
  | none => 0

/-- What a flat instant does to phase i + 1. -/
def flatPhase (x : PlanCtx) (m t : Nat) (sel : Nat → Sel) (f : FlatPart) (i : Nat) : FlatPart :=
  match x.phaseVal (fun j => (sel j).val) (i + 1) with
  | some (w, c) => { f with a := addAt f.a (i + 1) (w * c * m) }
  | none =>
    let f := if x.phaseUnset sel (i + 1) then { f with flags := f.flags ||| 1 } else f
    if x.phaseGap sel (i + 1) then gapFlat (i + 1) t t f else f

/-- The phases of a flat instant one after another. -/
def flatPhases (x : PlanCtx) (m t : Nat) (sel : Nat → Sel) (f : FlatPart) : FlatPart := (List.range (phasesOf x.kind)).foldl (flatPhase x m t sel) f

theorem flatInstant_eq (x : PlanCtx) (m : Nat) (t2 : Int) (sel : Nat → Sel) (f : FlatPart) : ∃ f₀, f₀.a = f.a ∧ ∃ v,
    flatInstant x m t2 sel f =
      if ((List.range (phasesOf x.kind)).map (fun i => x.phaseVal (fun j => (sel j).val) (i + 1))).all Option.isSome then
        { flatPhases x m (t2 / 2).toNat sel f₀ with a := addAt (flatPhases x m (t2 / 2).toNat sel f₀).a 0 v }
      else flatPhases x m (t2 / 2).toNat sel f₀ := by
  unfold flatInstant
  extract_lets n f₁ f₂ t f₃ vals
  refine ⟨f₂, ?_, _, rfl⟩
  unfold f₂ f₁
  split <;> split <;> rfl

theorem flatPhase_a {x : PlanCtx} {m t : Nat} {sel : Nat → Sel} {f : FlatPart} (hf : f.a.length = 4) {i : Nat} (hi : i < 3) :
    (flatPhase x m t sel f i).a.length = 4 ∧
      ∀ j, (flatPhase x m t sel f i).a.getD j 0 = f.a.getD j 0 + if j = i + 1 then flatTerm x m sel (i + 1) else 0 := by
  unfold flatPhase flatTerm
  cases x.phaseVal (fun j => (sel j).val) (i + 1) with
  | some v => exact ⟨(List.length_set ..).trans hf, fun j => getD_addAt (by omega) _ j⟩
  | none =>
    have hsame : ∀ g : FlatPart, g.a = f.a → g.a.length = 4 ∧ ∀ j, g.a.getD j 0 = f.a.getD j 0 + if j = i + 1 then 0 else 0 := fun g hg => by
      rw [hg]
      exact ⟨hf, fun j => by rw [ite_self, Int.add_zero]⟩
    apply hsame
    dsimp only
    split <;> split <;> rfl

theorem flatPhases_a {x : PlanCtx} {m t : Nat} {sel : Nat → Sel} {l : List Nat} (hl : l.Nodup) (h3 : ∀ i ∈ l, i < 3) {f : FlatPart}
    (hf : f.a.length = 4) (j : Nat) : (l.foldl (flatPhase x m t sel) f).a.getD j 0 =
      f.a.getD j 0 + if j ∈ l.map (· + 1) then flatTerm x m sel j else 0 := by
  induction l generalizing f with
  | nil => simp
  | cons i l ih =>
    obtain ⟨hni, hl⟩ := List.nodup_cons.1 hl
    obtain ⟨hlen, ha⟩ := flatPhase_a (x := x) (m := m) (t := t) (sel := sel) hf (h3 i List.mem_cons_self)
    rw [List.foldl_cons, ih hl (fun i hi => h3 i (List.mem_cons_of_mem _ hi)) hlen, ha, List.map_cons]
    by_cases hj : j = i + 1
    · subst hj
      have hno : i + 1 ∉ l.map (· + 1) := by simpa using hni
      rw [if_pos rfl, if_neg hno, if_pos List.mem_cons_self, Int.add_zero]
    · simp only [List.mem_cons, hj, if_false, false_or, Int.add_zero]

theorem phasesOf_le (kind : Nat) : phasesOf kind ≤ 3 := by
  unfold phasesOf
  split <;> decide

theorem flatPhase_keeps {x : PlanCtx} {m t : Nat} {sel : Nat → Sel} {f : FlatPart} {i b : Nat} :
    (f.gapPh.testBit b = true → (flatPhase x m t sel f i).gapPh.testBit b = true) ∧
      (f.flags.testBit b = true → (flatPhase x m t sel f i).flags.testBit b = true) := by
  unfold flatPhase
  split
  · exact ⟨id, id⟩
  · dsimp only [gapFlat]
    split <;> split <;> simp +contextual

theorem flatPhase_gap {x : PlanCtx} {m t : Nat} {sel : Nat → Sel} {f : FlatPart} {i : Nat}
    (hv : x.phaseVal (fun j => (sel j).val) (i + 1) = none) :
    (x.phaseGap sel (i + 1) = true → (flatPhase x m t sel f i).gapPh.testBit i = true) ∧
      (x.phaseUnset sel (i + 1) = true → (flatPhase x m t sel f i).flags.testBit 0 = true) := by
  unfold flatPhase
  rw [hv]
  dsimp only [gapFlat]
  refine ⟨fun hg => ?_, fun hu => ?_⟩
  · rw [if_pos hg]
    simp
  · rw [if_pos hu]
    split <;> simp

/-- R178, R189, R190: the sums, the gaps and UNSETTLED after a flat instant. -/
theorem flatInstant_does (x : PlanCtx) (m : Nat) (t2 : Int) (sel : Nat → Sel) {f : FlatPart} (hf : f.a.length = 4) :
    let g := flatInstant x m t2 sel f
    (∀ i, i < phasesOf x.kind → g.a.getD (i + 1) 0 = f.a.getD (i + 1) 0 + flatTerm x m sel (i + 1)) ∧
      ((∃ i, i < phasesOf x.kind ∧ x.phaseVal (fun j => (sel j).val) (i + 1) = none) → g.a.getD 0 0 = f.a.getD 0 0) ∧
      (∀ i, i < phasesOf x.kind → x.phaseVal (fun j => (sel j).val) (i + 1) = none → x.phaseGap sel (i + 1) = true → g.gapPh.testBit i = true) ∧
      (∀ i, i < phasesOf x.kind → x.phaseVal (fun j => (sel j).val) (i + 1) = none → x.phaseUnset sel (i + 1) = true → g.flags.testBit 0 = true) := by
  intro g
  obtain ⟨f₀, ha, v, hg⟩ := flatInstant_eq x m t2 sel f
  have hsum := fun j => flatPhases_a (x := x) (m := m) (t := (t2 / 2).toNat) (sel := sel) (List.nodup_range (n := phasesOf x.kind))
    (fun i hi => lt_of_lt_of_le (List.mem_range.1 hi) (phasesOf_le _)) (ha ▸ hf : f₀.a.length = 4) j
  have hgap : ∀ i, i < phasesOf x.kind → x.phaseVal (fun j => (sel j).val) (i + 1) = none → x.phaseGap sel (i + 1) = true →
      (flatPhases x m (t2 / 2).toNat sel f₀).gapPh.testBit i = true := fun i hi hv hx =>
    foldl_reaches (P := fun f : FlatPart => f.gapPh.testBit i = true) (step := flatPhase x m (t2 / 2).toNat sel) (fun f j h => flatPhase_keeps.1 h) (fun _ => (flatPhase_gap hv).1 hx) (List.mem_range.2 hi) _
  have huns : ∀ i, i < phasesOf x.kind → x.phaseVal (fun j => (sel j).val) (i + 1) = none → x.phaseUnset sel (i + 1) = true →
      (flatPhases x m (t2 / 2).toNat sel f₀).flags.testBit 0 = true := fun i hi hv hx =>
    foldl_reaches (P := fun f : FlatPart => f.flags.testBit 0 = true) (step := flatPhase x m (t2 / 2).toNat sel) (fun f j h => flatPhase_keeps.2 h) (fun _ => (flatPhase_gap hv).2 hx) (List.mem_range.2 hi) _
  have hphase : ∀ i, i < phasesOf x.kind → (flatPhases x m (t2 / 2).toNat sel f₀).a.getD (i + 1) 0 = f.a.getD (i + 1) 0 + flatTerm x m sel (i + 1) :=
    fun i hi => by
      rw [← ha]
      exact (hsum (i + 1)).trans (by rw [if_pos (List.mem_map.2 ⟨i, List.mem_range.2 hi, rfl⟩)])
  have htotal : (flatPhases x m (t2 / 2).toNat sel f₀).a.getD 0 0 = f.a.getD 0 0 := by
    rw [← ha]
    exact (hsum 0).trans (by rw [if_neg (by simp), Int.add_zero])
  unfold g
  rw [hg]
  split
  · next hall =>
    refine ⟨fun i hi => ?_, fun ⟨i, hi, hv⟩ => ?_, hgap, huns⟩
    · rw [← hphase i hi]
      unfold addAt
      rw [List.getD_eq_getElem?_getD, List.getElem?_set_ne (by omega), ← List.getD_eq_getElem?_getD]
    · have := List.all_eq_true.1 hall none (List.mem_map.2 ⟨i, List.mem_range.2 hi, hv⟩)
      cases this
  · exact ⟨hphase, fun _ => htotal, hgap, huns⟩

/-- What a flat instant of a window changes of the context that counts it. -/
theorem countFlat_window (x : PlanCtx) (k m : Nat) (t2 : Int) (sel : Nat → Sel) (y : Ctx) : ∃ g b, countFlat x k m t2 false sel y =
    { y with nextFlat := some (t2 + 1).toNat, inGap := b, gapTo := g
             wins := tmod {} y.wins k (fun w => { w with flat := flatInstant x m t2 sel w.flat }) } := by
  unfold countFlat endGap
  dsimp only
  split
  · contradiction
  · split <;> exact ⟨_, _, rfl⟩

theorem Ctx.keep_eq (now : Nat) (t2 : Int) (sels : List Sel) (y : Ctx) : Ctx.keep now t2 sels y = { y with kept := (Ctx.keep now t2 sels y).kept } := by
  unfold Ctx.keep
  split <;> rfl

theorem Ctx.keptAt_keep {now : Nat} {t2 : Int} {sels : List Sel} {y : Ctx} (h : ∀ l, y.keptAt t2 = some l → l = sels) :
    (Ctx.keep now t2 sels y).keptAt t2 = some sels := by
  unfold Ctx.keep
  cases hk : y.keptAt t2 with
  | some l => rw [Option.isSome_some, if_pos rfl, hk, h l hk]
  | none =>
    rw [if_neg (by simp)]
    unfold Ctx.keptAt
    rw [List.find?_cons_of_pos (by simp)]
    rfl

theorem flatSels_kept {gi l k : Nat} {x : PlanCtx} {t2 : Int} {sels q : List Sel} (h : s.flatSels gi x t2 l k = some sels)
    (hq : (s.getCtx x.c).keptAt t2 = some q) : q = sels := by
  unfold State.flatSels at h
  rw [hq] at h
  exact Option.some.inj h

theorem flatNext_c {gi y l m : Nat} {x : PlanCtx} {t2 : Int} (h : s.flatNext gi y = some (x, l, m, t2)) : x.c = y := by
  have hmap : ∀ {p : Plan} {q : Nat × Nat × Int}, (p.ctx? y).map (fun x => (x, q.1, q.2.1, q.2.2)) = some (x, l, m, t2) → x.c = y := fun hm => by
    obtain ⟨z, hz, he⟩ := Option.map_eq_some_iff.1 hm
    have hx : z = x := congrArg (fun o : PlanCtx × Nat × Nat × Int => o.1) he
    rw [← hx]
    exact Plan.ctx?_c hz
  unfold State.flatNext at h
  dsimp only at h
  split at h
  · cases h
  · split at h
    · cases h
    · exact hmap h

/-! ## Whole cycles (R179, R180) -/

theorem testBit_or_of_not {a b i : Nat} (h : b.testBit i = false) : (a ||| b).testBit i = a.testBit i := by
  rw [Nat.testBit_or, h, Bool.or_false]

theorem testBit_or_of {a b i : Nat} (h : b.testBit i = true) : (a ||| b).testBit i = true := by
  rw [Nat.testBit_or, h, Bool.or_true]

/-- R180: a cycle with an unlocked sample. -/
theorem cycleSums_unlocked {x : PlanCtx} {md t0 t1 : Nat} {sel : List (List (Sel × Bool))}
    (h : x.bound.any (fun i => (sel.getD i []).any (fun e => e.2)) = true) (f : CycPart) :
    cycleSums x md t0 t1 sel f = { f with flags := (cycleSums x md t0 t1 sel f).flags } ∧ (cycleSums x md t0 t1 sel f).flags.testBit 1 = true := by
  unfold cycleSums
  extract_lets n slots at_ f₁ unset f₂
  rw [if_pos h]
  refine ⟨?_, testBit_or_of rfl⟩
  unfold f₂ f₁
  split <;> split <;> rfl

theorem foldl_flags6 {step : CycPart → Nat → CycPart} (h : ∀ f i, (step f i).flags.testBit 6 = f.flags.testBit 6) (l : List Nat) (f : CycPart) :
    (l.foldl step f).flags.testBit 6 = f.flags.testBit 6 := by
  induction l generalizing f with
  | nil => rfl
  | cons i l ih => exact (ih _).trans (h f i)

/-- A cycle whose samples are all counted keeps flag bit 6. -/
theorem cycleSums_flags6 {x : PlanCtx} {md t0 t1 : Nat} {sel : List (List (Sel × Bool))}
    (h : x.bound.any (fun i => (sel.getD i []).any (fun e => e.1.cls == 4)) = false) (f : CycPart) :
    (cycleSums x md t0 t1 sel f).flags.testBit 6 = f.flags.testBit 6 := by
  unfold cycleSums
  extract_lets n slots at_ f₁ unset f₂ es g l
  have h₁ : f₁ = f := if_neg (by rw [h]; decide)
  have h₂ : f₂.flags.testBit 6 = f.flags.testBit 6 := by
    unfold f₂
    rw [h₁]
    split
    · exact testBit_or_of_not rfl
    · rfl
  clear_value f₂
  have hg : g.flags.testBit 6 = f.flags.testBit 6 := by
    refine (foldl_flags6 (fun f i => ?_) _ _).trans h₂
    split
    · rfl
    · split
      · exact testBit_or_of_not rfl
      · rfl
  split
  · exact (testBit_or_of_not rfl).trans h₂
  · split
    · exact hg
    · exact hg

/-- The window that a cycle is counted into. -/
theorem Ctx.withCycle_win (cyc k : Nat) (f : CycPart → CycPart) (c : Ctx) : tget {} (c.withCycle cyc k f).wins k =
    { tget {} c.wins k with cyc := f (tget {} c.wins k).cyc } := tget_tset_same _ _ _ _

theorem Ctx.withCycle_win_ne {cyc k j : Nat} (h : j ≠ k) (f : CycPart → CycPart) (c : Ctx) :
    tget {} (c.withCycle cyc k f).wins j = tget {} c.wins j := tget_tset_ne _ _ _ _ _ h

theorem mem_bound {x : PlanCtx} {i : Nat} : i ∈ x.bound ↔ i < 8 ∧ (x.headOf i).isSome = true := by
  unfold PlanCtx.bound
  rw [List.mem_filter, List.mem_range]

theorem getD_cycSels {x : PlanCtx} {i : Nat} (hi : i ∈ x.bound) (cyc : Nat) : (s.cycSels x cyc).getD i [] = s.selCycle x i cyc := by
  obtain ⟨h8, hhead⟩ := mem_bound.1 hi
  unfold State.cycSels
  rw [List.getD_eq_getElem?_getD, List.getElem?_map, List.getElem?_range h8, Option.map_some, Option.getD_some, if_pos hhead]

/-! ## Checkpoints (R307, R308) -/

theorem allKeys_nodup : allKeys.Nodup := by
  unfold allKeys
  refine List.Nodup.append List.nodup_range (List.Nodup.map (fun a b h => by omega) List.nodup_range) (fun a ha hb => ?_)
  obtain ⟨c, hc, rfl⟩ := List.mem_map.1 hb
  have := List.mem_range.1 ha
  omega

/-- The contexts of a list each take a checkpoint of their flat path. -/
def checkpointAll (now : Nat) (l : List Nat) (s : State) : State := each l (fun s c => s.modCtx c (Ctx.flatCheckpoint now)) s

/-- No checkpoint moves the present tick, so each is taken at the tick at which the command began. -/
theorem each_checkpoint (l : List Nat) (s : State) :
    each l (fun s c => s.modCtx c (Ctx.flatCheckpoint s.now)) s = checkpointAll s.now l s := by
  induction l generalizing s with
  | nil => rfl
  | cons c l ih => exact ih _

theorem checkpointAll_does (now : Nat) {l : List Nat} (hl : l.Nodup) (s : State) :
    (∀ c ∈ l, (checkpointAll now l s).getCtx c = (s.getCtx c).flatCheckpoint now) ∧
      (∀ c, c ∉ l → (checkpointAll now l s).getCtx c = s.getCtx c) ∧
      ∃ q, checkpointAll now l s = { s with tally := { s.tally with ctx := q } } := by
  refine ⟨fun c hc => ?_, fun c hc => ?_, ?_⟩
  · exact each_view_once (f := fun s c => s.modCtx c (Ctx.flatCheckpoint now)) (inv := fun _ => True) (fun t => t.getCtx c) c (Ctx.flatCheckpoint now)
      (fun _ _ h => h) (fun t a ha _ => State.getCtx_modCtx_ne _ _ _ _ (Ne.symm ha)) (fun t _ => State.getCtx_modCtx _ _ _) hl hc trivial
  · exact each_view (f := fun s c => s.modCtx c (Ctx.flatCheckpoint now)) (inv := fun _ => True) (fun t => t.getCtx c) (fun _ _ h => h)
      (fun t a ha _ => State.getCtx_modCtx_ne _ _ _ _ (fun h => hc (h ▸ ha))) trivial
  · refine each_keeps (fun t => ∃ q, t = { s with tally := { s.tally with ctx := q } }) (fun t a h => ?_) l ⟨_, rfl⟩
    obtain ⟨q, hq⟩ := h
    exact ⟨_, by rw [hq]; rfl⟩

/-- Settles O21, from `formNext_eq`, `flatInstant_does`, `cycleSums_unlocked` and `checkpointAll_does`. -/
theorem samplesFormedAndCounted : Obligations.SamplesFormedAndCounted := by
  refine ⟨?_, ?_, ?_, ?_⟩
  · intro c slot s y gi k h pc cy f di ei hup hkeys hgrp m hstart hswap hcyc hk hpc hhead d hdi hei e x hf hheld
    subst hk
    have htau : x.tau = f.tau := by
      unfold x
      split <;> rfl
    rw [htau] at hheld
    have hform := formNext_eq hgrp hstart hswap hcyc hpc hhead hf hheld
    have hexec : exec (.cycleSampleForm c slot) s = execCycleSampleForm c slot s := rfl
    rw [hexec, execCycleSampleForm, onIsl_up hup, hkeys]
    refine ⟨formNext y slot s, rfl, ?_⟩
    rw [hform]
    have hc := bind_ctx?_c hpc
    subst hc
    have hxm : x.m = m := by
      rw [← formSample_m hf]
      unfold x
      split <;> rfl
    obtain ⟨hval, hzero, hsub, hdet⟩ := formSample_value hdi hei hf
    obtain ⟨hnext, hhamper, htok, hself, hother, hhp, honly⟩ := keepSample_does gi ((s.getGrp gi).winOf (s.winCycles gi) (m / 512)) slot
      (floorTau (cy.tau (m % 512))) pc x (unstall (.cycles (bkey pc.c slot)) s)
    obtain ⟨gl, hun⟩ : ∃ gl : Glb, unstall (.cycles (bkey pc.c slot)) s =
        { s with glb := { s.glb with stallAt := gl.stallAt, stallSeen := gl.stallSeen } } := by
      unfold unstall noteStalls
      split
      · split
        · exact ⟨{ s.glb with stallAt := tdel s.glb.stallAt _, stallSeen := true }, rfl⟩
        · exact ⟨{ s.glb with stallAt := tdel s.glb.stallAt _ }, rfl⟩
      · exact ⟨s.glb, rfl⟩
    rw [hun] at hnext hhamper htok hself hother hhp honly ⊢
    generalize keepSample gi _ slot _ pc x _ = t at hnext hhamper htok hself hother hhp honly ⊢
    refine ⟨?_, ?_, hxm, ?_, ?_, ?_, ?_, fun j hj => ?_, hself, hother, htok, hhp, ?_⟩
    · rw [State.nextOf, hnext, hxm]
      exact tget_tset_same _ _ _ _
    · rw [State.hamper, hhamper]
      exact tget_tset_same _ _ _ _
    · unfold x
      split
      · exact hval
      · exact Nat.zero_le _
    · unfold x
      split
      · exact hzero
      · exact fun _ => rfl
    · intro hl
      unfold x
      rw [hl]
      rfl
    · intro hl
      unfold x
      rw [hl]
      exact ⟨hsub, hdet⟩
    · rw [hnext, hhamper]
      exact ⟨tget_tset_ne _ _ _ _ _ hj, tget_tset_ne _ _ _ _ _ hj⟩
    · rw [honly]
  · intro c s y gi k l m t2 x sels hup hkeys hruns hgrp hstart hnext hwin hsels hswap hstop hlen f sel
    have hstep := flatStep_taken hgrp hstart hnext hwin hsels hswap hstop
    have hexec : exec (.tallyFlatSample c) s = execTallyFlatSample c s := rfl
    rw [hexec, execTallyFlatSample, onIsl_up hup, hkeys]
    refine ⟨_, congrArg Host.Outcome.next (if_pos hruns), ?_⟩
    rw [hstep, Option.getD_some]
    obtain ⟨gt, ig, hcount⟩ := countFlat_window x k m t2 sel (s.getCtx y)
    have hself : (s.modCtx y (fun c => (countFlat x k m t2 false (fun i => sels.getD i { cls := 5, val := none }) c).keep s.now t2 sels)).getCtx y =
        (countFlat x k m t2 false sel (s.getCtx y)).keep s.now t2 sels := State.getCtx_modCtx _ _ _
    have hwin : (tget {} ((countFlat x k m t2 false sel (s.getCtx y)).keep s.now t2 sels).wins k) =
        { tget {} (s.getCtx y).wins k with flat := flatInstant x m t2 sel f } := by
      rw [Ctx.keep_eq, hcount]
      exact tget_tset_same _ _ _ _
    obtain ⟨hsum, htot, hgap, huns⟩ := flatInstant_does x m t2 sel hlen
    rw [hself, hwin]
    refine ⟨?_, hsum, htot, hgap, huns, ?_, rfl, rfl, fun j hj => ?_, ?_, fun j hj => State.getCtx_modCtx_ne _ _ _ _ hj, rfl⟩
    · rw [Ctx.keep_eq, hcount]
    · refine Ctx.keptAt_keep (fun q hq => ?_)
      rw [hcount] at hq
      exact flatSels_kept hsels (by rw [flatNext_c hnext]; exact hq)
    · rw [Ctx.keep_eq, hcount]
      exact tget_tset_ne _ _ _ _ _ hj
    · rw [Ctx.keep_eq, hcount]
  · intro c s y gi k cy x hup hkeys hruns hgrp cyc hstart hswap hcyc hstop hk hx hbound f
    subst hk
    have hstep := cycStep_taken hgrp hstart hswap hcyc hstop hx hbound
    have hexec : exec (.tallyCycle c) s = execTallyCycle c s := rfl
    rw [hexec, execTallyCycle, onIsl_up hup, hkeys]
    refine ⟨_, congrArg Host.Outcome.next (if_pos hruns), ?_⟩
    rw [hstep, Option.getD_some, State.getCtx_modCtx]
    refine ⟨rfl, fun ⟨i, hi, e, he, hun⟩ => ?_, fun hall => ?_, ?_, ?_, fun j hj => Ctx.withCycle_win_ne hj _ _, rfl,
      fun j hj => State.getCtx_modCtx_ne _ _ _ _ hj, rfl⟩
    · obtain ⟨hsame, hbit⟩ := cycleSums_unlocked (md := cy.gm * cy.step) (t0 := floorTau (cy.tau 0)) (t1 := floorTau (cy.tau 511))
        (List.any_eq_true.2 ⟨i, hi, by rw [getD_cycSels hi]; exact List.any_eq_true.2 ⟨e, he, hun⟩⟩) f
      rw [Ctx.withCycle_win]
      exact ⟨(congrArg CycPart.af hsame :), (congrArg CycPart.q hsame :), (congrArg CycPart.sv hsame :),
        (congrArg CycPart.sa hsame :), (congrArg CycPart.gapPh hsame :), hbit⟩
    · rw [Ctx.withCycle_win]
      refine cycleSums_flags6 ?_ f
      rw [List.any_eq_false]
      intro i hi
      rw [getD_cycSels hi, Bool.not_eq_true, List.any_eq_false]
      intro e he
      obtain ⟨hcls, -⟩ := hall i hi e he
      simp [hcls]
    · rw [Ctx.withCycle_win]
    · rw [Ctx.withCycle_win]
  · intro u s hup hret hrep hdue
    have hexec : exec (.tallyFlatCheckpoint u) s = execTallyFlatCheckpoint u s := rfl
    have hgo : ¬ ((s.getUnit u).retired || (s.getUnit u).replay.isSome || !(s.getUnit u).ckDue s.now) = true := by
      rw [hret, hrep, hdue]
      decide
    rw [hexec, execTallyFlatCheckpoint, onIsl_up hup]
    have hnodup : (s.unitCtxs u).Nodup := allKeys_nodup.filter _
    obtain ⟨hin, hout, q, honly⟩ := checkpointAll_does s.now hnodup
      (s.modUnit u (fun x => { x with ckAt := some s.now }))
    refine ⟨checkpointAll s.now (s.unitCtxs u) (s.modUnit u (fun x => { x with ckAt := some s.now })),
      congrArg Host.Outcome.next ((if_neg hgo).trans (each_checkpoint _ _)), hin, hout, ?_, fun v hv => ?_, ?_⟩
    · rw [honly]
      exact (State.getUnit_modUnit s (u : Nat) (fun x => { x with ckAt := some s.now }) :)
    · rw [honly]
      exact (State.getUnit_modUnit_ne s (u : Nat) v (fun x => { x with ckAt := some s.now }) hv :)
    · rw [honly]
      rfl

end Sys2Proof.Machine
end
